-- ==== Sys2Proof/Word.lean ====
section
/-! DEFINITION. The word types of the device and their plainest arithmetic: a register is a 32-bit word (R10), and a
field of a register is a range of its bits. -/

namespace Sys2Proof

/-- A register word (R10). -/
abbrev Word := BitVec 32

/-- A byte. -/
abbrev Byte := BitVec 8

namespace Machine

/-- A field [hi:lo] of a register word. -/
structure Fld where
  hi : Nat
  lo : Nat
  deriving DecidableEq, Repr

end Machine

/-- Division rounded up. -/
def cdiv (a b : Nat) : Nat := (a + b - 1) / b

end Sys2Proof
end

