-- ==== Sys2Proof/Syntax.lean ====
section
/-! DEFINITION. The commands of the block: one constructor per row of the spec's table of operations and events, in the
table's order, with the operands each carries. A command is what comes to the device from outside it: a register access,
data the host returns, a frame, a pin, an instant of a clock, a result that only content or cryptography decides.
`fn` is a function (0 is PF0, n is VF n), `crew` a Crew (R86), `ns` nanoseconds since the current Stroke boundary. -/

namespace Sys2Proof

/-- The tables held in two banks (R44), in the order of STK_BANK_STATUS. -/
inductive TableId where
  | classifier | key | gate | tone | affinity
  deriving DecidableEq, Repr

/-- A source band that has reached an encode channel: the rows of its three planes as they came (R126), and the bits of the
band's non-CTU syntax (R205). -/
structure BandContent where
  chan : Nat
  k : Nat
  band : Nat
  headerBits : Nat
  planes : List (List (List Nat))
  deriving DecidableEq, Repr

/-- What a boundary finds arrived of pictures: a band of an encode channel, strip `j` of frame `k` of a live source of a layer, or the
buffer that a host or still layer has copied, by the rows of their components as they came (R126, R255, R273, R284). -/
inductive Arrival where
  | band (b : BandContent)
  | strip (prog layer k j : Nat) (planes : List (List (List Nat)))
  | buffer (prog layer : Nat) (planes : List (List (List Nat)))
  deriving DecidableEq, Repr

/-- A 16×16 block as coded (R190, R191): whether it is intra, whether it is skipped, the list and the index of its reference (list 1
only where list 1 alone is used), and its vector at the block's centre in sixteenths of a sample. -/
structure Block where
  intra : Bool
  skip : Bool
  list : Nat
  ref : Nat
  x : Int
  y : Int
  deriving DecidableEq, Repr, Inhabited

/-- What an item in service turned out to be: its actual cycles and what its content decided. `ctuBits` and `floorBits`
are the bits of each CTU coded normally and at floor (R210), `qps` the QP′ chosen for each (R215); `cause` is a cause of
R239, 0 for none; `poisoned` says that an operand was poisoned (R431); `crc` is the check value of the output (R522). Of an encode
item, `luma` holds the rows of reconstructed luma, `blocks` its 16×16 blocks in raster order, `sad` the sum of |source − prediction|
(R190). `fixed` and `broken` are the on-die words it read that were corrected and that could not be (R416). -/
structure ItemResult where
  cycles : Nat
  ctuBits : List Nat
  floorBits : List Nat
  qps : List Nat
  cause : Nat
  poisoned : Bool
  crc : Nat
  luma : List (List Nat) := []
  blocks : List Block := []
  sad : Nat := 0
  fixed : Nat := 0
  broken : Nat := 0
  deriving DecidableEq, Repr

/-- A host read that failed (R120): of a doorbell area, of a descriptor, of a buffer for an item, a layer or an audio stream, of the data that
the oldest due descriptor of a ring pair names, or of the firmware image. -/
inductive HostRead where
  | doorbell (crew : Nat)
  | descriptor (crew ring : Nat)
  | buffer (flow seq : Nat)
  | layer (prog layer : Nat)
  | audio (stream : Nat)
  | data (crew ring : Nat)
  | firmware
  deriving DecidableEq, Repr

/-- The header facts of a decoded picture, as the stream itself states them (R224, R231, R237, R239): its picture order count,
whether it is an IRAP picture, for a recovery-point picture the slot of its refresh's first picture, whether it is output,
a non-reference picture, a RASL picture, and discards what waits for output; the picture order counts of the pictures that stay
marked short- and long-term, and of those its reference lists name. `planes` holds the rows of the samples that its slices decode to, at
`depth` bits; `lost` are the CTUs, in raster order, of missing slices and of those behind a syntax error, `ctu` their size. -/
structure PictureFacts where
  poc : Int
  irap : Bool
  recovery : Option Nat
  output : Bool
  nonRef : Bool
  rasl : Bool
  discard : Bool
  short : List Int
  long : List Int
  uses : List Int
  planes : List (List (List Nat)) := []
  depth : Nat := 10
  ctu : Nat := 64
  lost : List Nat := []
  deriving DecidableEq, Repr

/-- The NAL units of an RTP payload (R232), by type and bytes: one, several of one aggregation packet, or a fragment of one, whose bytes
are those of its part; `first` and `last` are the S and E bits. -/
inductive NalPacket where
  | single (type bytes : Nat)
  | aggregation (units : List (Nat × Nat))
  | fragment (type bytes : Nat) (first last : Bool)
  deriving DecidableEq, Repr

/-- What a parameter set of a contribution says (R240): picture size, chroma format (0 4:2:0, 1 4:2:2, else another), profile as a code of
R124, general_level_idc, bit depth, max_dec_pic_buffering and the reorder count. -/
structure StreamParams where
  width : Nat
  height : Nat
  chroma : Nat
  profile : Nat
  level : Nat
  depth : Nat
  dpb : Nat
  reorder : Nat
  deriving DecidableEq, Repr

/-- What the ingest block reads from a packet of a contribution (R232–R234, R240): its NAL units, whether DONL fields are present, the
picture output delay in units of 1/90,000 s that its picture-timing message gives, whether it holds a recovery point, and what its
parameter sets say. -/
structure AuFacts where
  packet : NalPacket
  donl : Bool
  delay : Nat
  recovery : Bool
  params : Option StreamParams
  deriving DecidableEq, Repr

/-- What an ancillary packet of a caption flow carries for its frame (R145, R146): cc_data, and a time code as hours, minutes, seconds and
frames. -/
structure AncFacts where
  cc : List Nat
  timecode : Option (Nat × Nat × Nat × Nat)
  deriving DecidableEq, Repr

/-- A source frame's format as the ingest block reports it (R153, R271): width, height, format code and frame rate. -/
structure SrcFormat where
  w : Nat
  h : Nat
  fmt : Nat
  num : Nat
  den : Nat
  deriving DecidableEq, Repr

/-- What a packet of a flow carries for those that take it: the first and the last of the picture rows it makes whole, NAL units, the format
of the source frame it belongs to, ancillary data. -/
structure Media where
  rows : Option (Nat × Nat) := none
  unit : Option AuFacts := none
  format : Option SrcFormat := none
  anc : Option AncFacts := none
  deriving DecidableEq, Repr

/-- What an Ethernet frame carries beyond its addresses. `control` is an ARP, NDP, ICMP, IGMPv3 or MLDv2 message, with the sizes of
the frames that firmware answers with (R350); `neighbour` one that resolves an address; `eapol` holds the frame's bytes. `ext` says that
an IP packet is a fragment or has an extension header. `ip` carries an IPv4 or IPv6 header with UDP and RTP: `payload` is the
payload's check value, `media` what it carries for those that take its flow. -/
inductive FrameBody where
  | pause (quanta : Nat)
  | pfc
  | eapol (bytes : List Nat)
  | ptp
  | control (answers : List Nat)
  | neighbour (addr mac : Nat)
  | ip (ver src dst dport : Nat) (ext : Bool) (udpOk : Bool) (ssrc seq ts : Nat) (marker : Bool) (payload : Nat)
      (authOk : Bool) (media : Media)
  | other
  deriving DecidableEq, Repr

/-- A frame as it arrives at a MAC instance (R348). `bytes` counts from destination address to FCS, without a SecTAG and its ICV. `tag` is the 802.1Q tag (tpid 0x8100 or 0x88A8, vid, pcp); `sectag`
is the MACsec SecTAG (association number, SCI, packet number, integrity holds). -/
structure EthFrame where
  bytes : Nat
  fcsOk : Bool
  da : Nat
  sa : Nat
  tag : Option (Nat × Nat × Nat)
  sectag : Option (Nat × Nat × Nat × Bool)
  body : FrameBody
  deriving DecidableEq, Repr

/-- What an Announce says (R401): the grandmaster's identity and quality, the steps removed, the seconds between Announces as an exponent of 2
over 256, the UTC offset where it is valid, and whether a leap of the UTC day comes. -/
structure Announce where
  gm : Nat
  priority1 : Nat
  clockClass : Nat
  accuracy : Nat
  variance : Nat
  priority2 : Nat
  steps : Nat
  interval : Nat
  utcOffset : Option Nat
  leap : Bool
  deriving DecidableEq, Repr

/-- A PTP message by its type (R401, R402). Times are differences in ps of the time-stamps as taken, before R403's compensation: of a Sync its
arrival less its origin, of a delay response the sum of both ways. -/
inductive PtpBody where
  | announce (a : Announce)
  | sync (ps : Int)
  | delayResp (ps : Int)
  | delayReq
  | pdelayReq
  | pdelayResp (ps : Int)
  | management
  | signalling
  deriving DecidableEq, Repr

/-- A PTP message as received (R401): its domain, its sender, the VLAN tag of its frame. -/
structure PtpMessage where
  domain : Nat
  source : Nat
  vlan : Option Nat
  body : PtpBody
  deriving DecidableEq, Repr

/-- One MAC instance's measurements of the last second (R389): FEC codewords or blocks corrected and not correctable, RS symbols
corrected, and whether high bit-error rate or a remote fault holds. -/
structure HealthFacts where
  mac : Nat
  corrected : Nat
  uncorrected : Nat
  symbols : Nat
  hiBer : Bool
  remoteFault : Bool
  deriving DecidableEq, Repr

/-- What a domain's release finds: the first self-test that failed, 0 for none (R461), whether ENROL_N is low (R438), and the
narrowest trained run of each pseudo-channel where it is below 16 steps (R425). -/
structure ReleaseFacts where
  selfTest : Nat
  enrolLow : Bool
  eyes : List (Nat × Nat)
  deriving DecidableEq, Repr

/-- A pin that zeroises keys (R464). -/
inductive SecPin where
  | zeroize | tamper
  deriving DecidableEq, Repr

/-- The commands. -/
inductive Instr where
  | strokeBoundary (content : List Arrival)
  | sensorSample (temps : List (Nat × Option Int))
  | throttleStepChange
  | thermalShutdown (source : Nat)
  | stkCommitWrite (fn target : Nat)
  | commitAdmissionDone
  | tableBuildDone (table : TableId)
  | budgetCfgWrite (fn value : Nat)
  | stkNowLoRead (fn : Nat)
  | registerWrite (fn offset size value : Nat)
  | operandToken (flow seq slot handle ns : Nat)
  | itemDispatch (ns : Nat)
  | itemComplete (flow seq : Nat) (result : ItemResult) (picture : Option PictureFacts) (ns : Nat)
  | throttlePauseEnd (unit ns : Nat)
  | substituteAction (flow seq : Nat)
  | deadlineFinish (flow seq : Nat)
  | beTimeout (flow seq : Nat)
  | partialAuToken (chan k : Nat)
  | frameBoundary (handle k : Nat)
  | flipDeadline (prog k : Nat)
  | layerCopyStart (prog layer : Nat)
  | layerCopyComplete (prog layer : Nat)
  | bar2DoorbellWrite (fn offset size value : Nat)
  | doorbellReadComplete (crew : Nat) (words : List Nat)
  | descriptorFetch (crew ring : Nat)
  | descriptorReadComplete (crew ring : Nat) (words : List Nat)
  | orderedDescriptorStart (crew ring : Nat)
  | hostReadFailure (read : HostRead)
  | heldCompletionWrite (crew ring : Nat)
  | holdTimeout (crew ring : Nat)
  | evqHeadWrite (fn head : Nat)
  | evqEnable (fn crew value : Nat)
  | evqDisable (fn crew value : Nat)
  | ringEnable (fn crew ring value : Nat)
  | ringDisable (fn crew ring value : Nat)
  | ringDrained (crew ring : Nat)
  | msixModerationExpiry (fn vector : Nat)
  | pcieLinkUp (width speed : Nat)
  | linkTrainedBelowX8 (width speed : Nat)
  | configurationReady (fn : Nat)
  | perstAssert
  | perstRelease
  | hotReset
  | linkDown
  | pf0Flr
  | pf0D3hot
  | vfFlr (vf : Nat)
  | vfD3hot (vf : Nat)
  | vfEnableClear (numVfs : Nat)
  | crewRelease (crew : Nat)
  | nop (crew ring : Nat)
  | forceIrap (crew ring : Nat)
  | setHdr (crew ring : Nat)
  | query (crew ring : Nat)
  | bsPost (crew ring : Nat)
  | bsDelivery (chan : Nat)
  | bsStop (crew ring : Nat)
  | decQuery (crew ring : Nat)
  | decResync (crew ring : Nat)
  | layerPost (crew ring : Nat)
  | layerMove (crew ring : Nat)
  | fenceSignal (crew ring : Nat)
  | fenceQuery (crew ring : Nat)
  | lutLoad (crew ring : Nat) (entries : List Nat)
  | lutPoke (crew ring : Nat)
  | setMatrix (crew ring : Nat)
  | setMask (crew ring : Nat) (entries : List Nat)
  | picPost (crew ring : Nat)
  | progQuery (crew ring : Nat)
  | statsPost (crew ring : Nat)
  | statsDelivery (chan : Nat)
  | statsStop (crew ring : Nat)
  | audRxPost (crew ring : Nat)
  | audRxBlock (group : Nat)
  | audTxPost (crew ring : Nat)
  | audTxBlockRead (stream : Nat) (header : List Nat)
  | audPortPost (crew ring : Nat)
  | audStop (crew ring : Nat)
  | audQuery (crew ring : Nat)
  | keyImport (crew ring : Nat) (blob : List Nat)
  | keyDestroy (crew ring : Nat)
  | keyQuery (crew ring : Nat)
  | macsecSa (crew ring : Nat)
  | eapolPost (crew ring : Nat)
  | eapolSend (crew ring : Nat) (bytes : List Nat)
  | changeOrder (crew ring : Nat) (bytes : List Nat)
  | orderVerified (ownerOk umpireOk : Bool)
  | orderMarkerWritten
  | auditRead (crew ring : Nat)
  | crewSuspend (crew ring : Nat)
  | timeQuery (crew ring : Nat)
  | cntPost (crew ring : Nat)
  | cntLatch (crew : Nat)
  | cntStop (crew ring : Nat)
  | rplPost (crew ring : Nat)
  | rplBufferDelivery (crew : Nat)
  | rplStop (crew ring : Nat)
  | rplMark (crew ring : Nat)
  | rplFeed (crew ring : Nat) (words : List Nat)
  | fwLoad (crew ring : Nat)
  | logRead (crew ring : Nat)
  | ethFrameReceive (mac : Nat) (frame : EthFrame) (ns : Nat)
  | mergeKeyLost (flow key : Nat)
  | liveFrameLaunch (port ns : Nat)
  | controlFrameLaunch (port ns : Nat)
  | gateIntervalEnd (port : Nat)
  | gateListTakeover (port : Nat)
  | rehashWrite (fn value : Nat)
  | laneLockLoss (lane ns : Nat)
  | warmRelockTimeout (lane : Nat)
  | laneLock (lane ns margin : Nat)
  | portUp (group sub : Nat)
  | anComplete (group sub fec : Nat)
  | marginSample (lane margin after : Nat)
  | idleWindowEnd (lane idleBlocks : Nat)
  | laneSnapSave (fn value : Nat)
  | laneRestartCold (fn lane value : Nat)
  | laneTestWrite (fn lane value : Nat)
  | injGo (fn lane value : Nat)
  | ptpMessageReceive (mac : Nat) (msg : PtpMessage) (ns : Nat)
  | ptpDelayReqSend (side : Nat)
  | ptpFailover
  | syncHoldover
  | ptpRevert
  | partitionEnter
  | gmChange
  | partitionLeave
  | healthReport (facts : List HealthFacts)
  | timeAdjGo (fn value : Nat)
  | timeIncWrite (fn offset value : Nat)
  | tcompUpdate
  | timedOutputEdge (output : Nat)
  | ppsOutEdge
  | timeInputEdge (input : Nat) (falling : Bool) (ns : Nat)
  | timeInNsRead (fn input : Nat)
  | timeNowNsRead (fn ns : Nat)
  | macCounterLoRead (fn mac counter : Nat)
  | pmuCntLoRead (fn bank counter : Nat)
  | aes3InputFrame (input : Nat) (parityA parityB validA validB csA csB blockStart : Bool)
  | aes3Lock (input rate : Nat)
  | aes3LockLoss (input : Nat)
  | tdmClockLoss (port : Nat)
  | tdmClockReturn (port : Nat)
  | houseClockLoss (outOfRange : Bool) (ppm : Int)
  | houseClockRestore (ppm : Int)
  | asrcLock (asrc : Nat)
  | asrcRatioUpdate (asrc ratio : Nat)
  | audioRampEnd (group : Nat)
  | hbmRequest (pc crew addr : Nat) (write : Option (List Nat)) (flips : Nat)
  | hbmUncorrectableRead (pc sector crew syndrome : Nat)
  | caParityError (pc sector : Nat) (retryOk : Bool) (ns : Nat)
  | thaw (pc : Nat)
  | memThawGo (fn value : Nat)
  | refreshDue (pc bank : Nat) (idle : Bool)
  | stackTempReport (stack temp : Nat)
  | scrubRead (pc sector : Nat)
  | trackingMeasure (pc lane left right : Nat)
  | memTrainSave (fn value : Nat)
  | enrolGo (fn value : Nat)
  | secZeroiseGo (fn value : Nat)
  | zeroizePinAssert
  | tamperPinAssert
  | securityPinRelease (pin : SecPin)
  | entropyTestFail
  | drbgReseed
  | auditEntryWrite
  | por
  | supplyReset
  | resetNAssert
  | resetNRelease
  | sysclkLoss
  | debugReset (domains : Nat)
  | domainRelease (domain : Nat) (facts : ReleaseFacts)
  | domainClockTimeout (which : Nat)
  | watchdogFire
  | fwImageVerified (ok : Bool) (version : Nat)
  | blockResetAssert (fn slot value : Nat)
  | blockResetRelease (fn slot value : Nat)
  | obEditGo (fn value : Nat)
  | railBelowWarn (rail mv : Nat)
  | railRecover (rail mv : Nat)
  | nvmHoldEnd
  | nvmRecordWrite
  | sectorEraseDone (sector : Nat) (ok : Bool)
  | logTokenRefill
  | smbusBlockRead (command : Nat)
  | pmuCntCfgWrite (fn bank counter value : Nat)
  | pmuBankClear (fn bank value : Nat)
  | pmuPresetLoad (fn bank value : Nat)
  | sharedCounterLatch
  | rplCtlWrite (fn value : Nat)
  | rplStepWrite (fn value : Nat)
  | chkCfgWrite (fn unit reg value : Nat)
  | chkFoldWrite (fn unit value : Nat)
  | chkDataWrite (fn unit size value : Nat)
  | chkResultRead (fn unit reg : Nat)
  | checkerLock (lane : Nat)
  | checkerLockLoss (lane errors : Nat)
  | timedPulseEnd (output : Nat)
  | porRelease (inOrder : Bool)
  | supplyResetRelease
  | sysclkReturn
  | controllersRestarted
  | sideHealthTimeout (side cause : Nat)
  deriving DecidableEq, Repr

end Sys2Proof
end

