-- ==== Sys2Proof/Config.lean ====
section
/-! DEFINITION. What the spec leaves open: constants without a body, so that nothing proved of the model rests on a value of
theirs. Each is named in a row of notes/assumptions. -/

namespace Sys2Proof.Config

/-- R214: the bits of the parameter sets with some syntax elements, which the two standards' syntax decides and the spec does not write out
(notes/assumptions/19.md). -/
opaque parameterBits (said : List (String × Nat)) : Nat

/-- R214: likewise of an SEI message of a payload with some values. -/
opaque seiBits (payload : Nat) (values : List Nat) : Nat

/-- R214: likewise of the largest slice header under some settings, at a band position and for a picture type. -/
opaque sliceHeaderBits (settings : List Nat) (band type : Nat) : Nat

/-- R145: the time code of a picture that has no ancillary one, where none went before (notes/assumptions/66.md). -/
opaque firstTimeCode (place : List Nat) : Nat × Nat × Nat × Nat

/-- R85: Damlux's PCI-SIG Vendor ID, a number that the spec does not state (notes/assumptions/29.md). -/
opaque vendorId : Nat

/-- R205, R206: the bits of a band's non-CTU syntax, where no command states them, by channel, frame and band (notes/assumptions/19.md). -/
opaque headerBits (place : List Nat) : Nat

/-- R126, R206, R216: a sample of a source picture that no command has stated, by channel, frame, plane, column and row
(notes/assumptions/19.md). -/
opaque sourceSample (place : List Nat) : Nat

/-- R168, R223: a sample of reconstructed luma that no command has stated, by channel, picture, column and row (notes/assumptions/19.md). -/
opaque codedSample (place : List Nat) : Nat

/-- R190, R191: a block as coded that no command has stated, by channel, picture, band and number (notes/assumptions/19.md). -/
opaque codedBlock (place : List Nat) : Block

/-- R215: the QP′ of a CTU that no command has stated, by channel, picture, band and CTU (notes/assumptions/19.md). -/
opaque codedQp (place : List Nat) : Nat

/-- R196: the temporal identifier of a picture's units (notes/assumptions/66.md). -/
opaque temporalId (place : List Nat) : Nat

/-- R178: λ for a QP′, which the rate controller gives and the spec does not write out (notes/assumptions/71.md). -/
opaque lambda (qp : Nat) : Nat

/-- R178: the bits of a vector in quarter-samples, which the codec's syntax decides (notes/assumptions/71.md). -/
opaque vectorBits (x y : Int) : Nat

/-- R178: the candidates of VVC's affine, bi-predicted and MMVD coding that the vectors of a CTU lead to, which the standard's
own processes decide (notes/assumptions/71.md). -/
opaque vvcCandidates (vectors : List (Int × Int)) : List (Int × Int)

/-- R181: the window columns that have arrived over the ring when the loader of an item needs them; speed decides it
(notes/assumptions/71.md). -/
opaque ringColumns (place : List Nat) : Nat

/-- R226: the Strokes that filling a pool of some bytes with zeros takes (notes/assumptions/72.md). -/
opaque fillStrokes (bytes : Nat) : Nat

/-- R419: the region byte at which an object of some bytes is placed, in units of its region's placement; the order of placing is
not defined (notes/assumptions/72.md). -/
opaque placedAt (object bytes : Nat) : Nat

/-- R207, R212: the bits of a CTU coded at floor, where no command states them; at most its floor cost (notes/assumptions/19.md). -/
opaque floorBits (place : List Nat) : Nat

/-- R399: the increment the servo commands after a message; its filter is not written out (notes/assumptions/22.md). -/
opaque servoIncrement (n : Nat) (offset : Int) : Nat

/-- R357, R358: whether an entry finds no place in its two buckets when a bank is built of some keys under a seed; the spec writes
out neither the hashes nor the order of placing (notes/assumptions/18.md). -/
opaque unplaced (seed : Nat) (keys : List Nat) (key : Nat) : Bool

/-- R455: what unwrapping an import blob gives, a number for the key with its SSCI and the salt; none when the integrity
check of the unwrap fails (notes/assumptions/23.md). -/
opaque unwrap (importKey uid : Nat) (crew slot purpose : Nat) (blob : List Nat) : Option (Nat × List Nat)

/-- R456: the key check value of a key (notes/assumptions/23.md). -/
opaque kcv (key : Nat) : Nat

/-- R438: whether 96 bytes are a point on P-384 (notes/assumptions/23.md). -/
opaque onCurve (bytes : List Nat) : Bool

/-- R438, R460: a value drawn from the DRBG (notes/assumptions/23.md). -/
opaque drbg (n : Nat) : Nat

/-- R467: the MAC of an audit entry under the audit key, from the MAC before it and its words 0–11 (notes/assumptions/23.md). -/
opaque auditMac (key mac : Nat) (words : List Nat) : Nat

/-- R470: the tag of an export, under the key that the device's ephemeral key pair and the Umpire audit key agree on
(notes/assumptions/23.md). -/
opaque exportTag (pair : Nat) (umpire uid : List Nat) (words : List Nat) : Nat

/-- R467: the first 16 bytes of an order's SHA-384, as a number (notes/assumptions/23.md). -/
opaque orderHash (bytes : List Nat) : Nat

/-- R228: a sample of a decoded picture that no command has stated, by channel, slot, component, row and column
(notes/assumptions/19.md). -/
opaque decodedSample (place : List Nat) : Nat

/-- R315: a sample of a source that no command states, by source, channel and index: the bits of its slot; of a channel that is resampled,
the sample (notes/assumptions/24.md). -/
opaque audioSample (place : List Nat) : Nat

/-- R306: a sample under a linear ramp of which a fraction is left, by the sample and the fraction: its rounding is not stated
(notes/assumptions/24.md). -/
opaque rampSample (place : List Nat) : Nat

/-- R316: the bits V, U, C and BLOCK_START of a sample of an AES3 or ST 2110-31 source (notes/assumptions/24.md). -/
opaque audioFlags (place : List Nat) : Nat

/-- R278, R312: the check value of a strip or block that stands in for one that was not made, by its object and place
(notes/assumptions/24.md). -/
opaque content (place : List Nat) : Nat

/-- R525: the bytes that a CONTENT record carries for a token, by its Crew, Stroke, slot, object and data (notes/assumptions/24.md). -/
opaque tokenContent (token : List Nat) : List Nat

/-- R525: the rate in bytes per second of a Crew's record log, which the spec names and does not state (notes/assumptions/24.md). -/
opaque recordRate (crew : Nat) : Nat

/-- R328: CTLE step and DFE tap 1 of the receiver state that a number names (notes/assumptions/24.md). -/
opaque laneAdapt (eq : Nat) : Nat × Nat

/-- R332: C_M1, C0 and C1 as training leaves them (notes/assumptions/24.md). -/
opaque laneTrained (n : Nat) : Nat × Nat × Nat

/-- R428: the bank and the row or column that a byte offset of a pseudo-channel addresses, which the spec does not map (notes/assumptions/24.md). -/
opaque bankRow (addr : Nat) : Nat × Nat

/-- R425: what training measures on a lane of a pseudo-channel: the length and the place of its widest error-free run (notes/assumptions/24.md). -/
opaque trained (n lane : Nat) : Nat × Nat

/-- R518: what a counter of cycles or of an event that only speed decides gains in a Stroke (notes/assumptions/24.md). -/
opaque speedCount (n : Nat) : Nat

/-- R395: the fraction of a nanosecond that the local clock holds at an instant which a command gives in whole nanoseconds (notes/assumptions/24.md). -/
opaque clockFrac (n : Nat) : Nat

/-- R405: the temperature correction outside the range of the table's entries (notes/assumptions/24.md). -/
opaque tcompOutside (n : Nat) : Int

/-- R380: the packets a second that a consumer of an ingest flow admits, which depends on senders the spec does not fix (notes/assumptions/24.md). -/
opaque packetRate (settings : List Nat) : Nat

/-- R260: ST 2084 PQ of a 12-bit component, in 20 bits; a function of real numbers that the spec names by its standard (notes/assumptions/64.md). -/
opaque pqDecode (v : Nat) : Nat

/-- R260: HLG of three 12-bit components, in 20 bits, with its OOTF; likewise (notes/assumptions/64.md). -/
opaque hlgDecode (rgb : Nat × Nat × Nat) : Nat × Nat × Nat

/-- R264: the exact inverse of a transfer of R260, to 16 bits, for the programme's SDR_WHITE; likewise (notes/assumptions/64.md). -/
opaque transferEncode (transfer white : Nat) (rgb : Nat × Nat × Nat) : Nat × Nat × Nat

/-- R262: the PQ encoding of a 20-bit value in units of 1/1,023, as a point and a fraction in units of 1/65,536 above it (notes/assumptions/64.md). -/
opaque pqPoint (m : Nat) : Nat × Nat

/-- R262: the identity entry of a point of the tone LUT (notes/assumptions/64.md). -/
opaque toneIdentity (i : Nat) : Nat

/-- R264: what a code that a field of the composer does not define stands for, by the field (notes/assumptions/64.md). -/
opaque undefinedCode (field : Nat) : Nat

/-- R284: a sample of a host buffer that no command has stated, by Crew, address, Stroke of its copy, component, column and row
(notes/assumptions/64.md). -/
opaque hostSample (place : List Nat) : Nat

/-- R257: a sample of a pattern that the spec does not write out: the bars, and what is not the bar of SWEEP (notes/assumptions/64.md). -/
opaque patternSample (place : List Nat) : Nat

/-- R279: a sample of a programme where a strip that stands in for one has none before it (notes/assumptions/64.md). -/
opaque stripSample (place : List Nat) : Nat

/-- R261: coefficient `i` of a CUSTOM matrix that no SET_MATRIX has given (notes/assumptions/64.md). -/
opaque matrixUnset (i : Nat) : Nat

/-- R265: Floyd–Steinberg dither of the 16-bit values of a component of a strip, at a row and a column; the spec does not state how
parts of an error are rounded (notes/assumptions/64.md). -/
opaque diffused (depth : Nat) (strip : List (List Nat)) (row col : Nat) : Nat

/-- R267: the Lanczos kernel for a ratio (source, destination) at a phase of 64, rounded to 1/1,024, before its centre tap is
adjusted; a function of real numbers (notes/assumptions/64.md). -/
opaque lanczos (lobes src dst phase : Nat) : List Int

end Sys2Proof.Config
end

