-- ==== Sys2Proof/Machine/Levels.lean ====
section
/-! DEFINITION. The level, tier and profile limits of ITU-T H.265 and H.266 that R124, R125, R135, R225 and R228 refer to.
The spec names the standards and prints only some of the figures. PRESUMED: the others are those of Annex A of the two
standards (notes/assumptions/20.md). Unsafe where a figure is misremembered. -/

namespace Sys2Proof.Machine

/-- The limits of one level. CPB and bit rate are in units of 1,000 bits (per second) before the profile's factor, as
(Main tier, High tier), 0 where there is no High tier. -/
structure LevelRow where
  idc : Nat
  lumaPs : Nat
  lumaSr : Nat
  cpb : Nat × Nat
  br : Nat × Nat
  slices : Nat
  tiles : Nat
  tileCols : Nat
  deriving DecidableEq, Repr

/-- HEVC levels 1 to 6.2. -/
def hevcLevels : List LevelRow :=
  [⟨30, 36864, 552960, (350, 0), (128, 0), 16, 1, 1⟩,
   ⟨60, 122880, 3686400, (1500, 0), (1500, 0), 16, 1, 1⟩,
   ⟨63, 245760, 7372800, (3000, 0), (3000, 0), 20, 1, 1⟩,
   ⟨90, 552960, 16588800, (6000, 0), (6000, 0), 30, 4, 2⟩,
   ⟨93, 983040, 33177600, (10000, 0), (10000, 0), 40, 9, 3⟩,
   ⟨120, 2228224, 66846720, (12000, 30000), (12000, 30000), 75, 25, 5⟩,
   ⟨123, 2228224, 133693440, (20000, 50000), (20000, 50000), 75, 25, 5⟩,
   ⟨150, 8912896, 267386880, (25000, 100000), (25000, 100000), 200, 110, 10⟩] ++
  [⟨153, 8912896, 534773760, (40000, 160000), (40000, 160000), 200, 110, 10⟩,
   ⟨156, 8912896, 1069547520, (60000, 240000), (60000, 240000), 200, 110, 10⟩,
   ⟨180, 35651584, 1069547520, (60000, 240000), (60000, 240000), 600, 440, 20⟩,
   ⟨183, 35651584, 2139095040, (120000, 480000), (120000, 480000), 600, 440, 20⟩,
   ⟨186, 35651584, 4278190080, (240000, 800000), (240000, 800000), 600, 440, 20⟩]

/-- VVC levels 1.0 to 6.2. -/
def vvcLevels : List LevelRow :=
  [⟨16, 36864, 552960, (350, 0), (128, 0), 16, 1, 1⟩,
   ⟨32, 122880, 3686400, (1500, 0), (1500, 0), 16, 1, 1⟩,
   ⟨35, 245760, 7372800, (3000, 0), (3000, 0), 20, 1, 1⟩,
   ⟨48, 552960, 16588800, (6000, 0), (6000, 0), 30, 4, 2⟩,
   ⟨51, 983040, 33177600, (10000, 0), (10000, 0), 40, 9, 3⟩,
   ⟨64, 2228224, 66846720, (12000, 30000), (12000, 30000), 75, 25, 5⟩,
   ⟨67, 2228224, 133693440, (20000, 50000), (20000, 50000), 75, 25, 5⟩,
   ⟨80, 8912896, 267386880, (25000, 100000), (25000, 100000), 200, 110, 10⟩] ++
  [⟨83, 8912896, 534773760, (40000, 160000), (40000, 160000), 200, 110, 10⟩,
   ⟨86, 8912896, 1069547520, (60000, 240000), (60000, 240000), 200, 110, 10⟩,
   ⟨96, 35651584, 1069547520, (80000, 240000), (80000, 240000), 600, 440, 20⟩,
   ⟨99, 35651584, 2139095040, (120000, 480000), (120000, 480000), 600, 440, 20⟩,
   ⟨102, 35651584, 4278190080, (180000, 800000), (180000, 800000), 600, 440, 20⟩]

/-- The levels of a codec, ascending. -/
def levelsOf (vvc : Bool) : List LevelRow := if vvc then vvcLevels else hevcLevels

/-- The level of a general_level_idc. -/
def levelRow? (vvc : Bool) (idc : Nat) : Option LevelRow := (levelsOf vvc).find? fun r => r.idc = idc

/-- The factor of the NAL HRD limits of a profile code of R124: its bits per unit of the level table. -/
def nalFactor (vvc : Bool) (profile : Nat) : Nat :=
  if profile = 4 then 2750 else if !vvc && profile = 3 then 1833 else 1100

/-- Profile codes of a codec (R124), in the table's order. -/
def profilesOf (vvc : Bool) : List Nat := if vvc then [2, 4] else [1, 2, 3, 4]

/-- The highest coded chroma format of a profile code (R124): 0 4:2:0, 1 4:2:2, 2 4:4:4. -/
def profileChroma (profile : Nat) : Nat := if profile = 4 then 2 else if profile = 3 then 1 else 0

/-- MaxDpbSize of a level for a picture of `samples` luma samples. -/
def maxDpb (vvc : Bool) (r : LevelRow) (samples : Nat) : Nat :=
  if vvc then
    if 2 * samples ≤ r.lumaPs then 16 else if 3 * samples ≤ 2 * r.lumaPs then 12 else 8
  else if samples ≤ r.lumaPs / 4 then 16 else if samples ≤ r.lumaPs / 2 then 12
  else if samples ≤ 3 * r.lumaPs / 4 then 8 else 6

/-- The frame rates of ENC_CH_TIME. -/
def frameRates : List (Nat × Nat) :=
  [(24000, 1001), (24, 1), (25, 1), (30000, 1001), (30, 1), (48, 1), (50, 1), (60000, 1001), (60, 1), (100, 1),
   (120000, 1001), (120, 1)]

end Sys2Proof.Machine
end

