-- ==== Sys2Proof/Machine/RegMap.lean ====
section
/-! DEFINITION. Where each register of the spec lies in BAR0 of PF0 (R5 and the offsets of the block chapters), and
where each of its fields lies in the word. An address here is the CANONICAL name of a register: the windows of the VFs
are mapped onto these addresses (Sys2Proof.Machine.vfMap). -/

namespace Sys2Proof.Machine

/-! ## Block DEVICE (spec file 00) -/

abbrev Reg.deviceId : Nat := 0x00000000
abbrev F.deviceId_part : Fld := ⟨31, 16⟩
abbrev F.deviceId_variant : Fld := ⟨15, 12⟩
abbrev F.deviceId_stepMajor : Fld := ⟨11, 8⟩
abbrev F.deviceId_stepMinor : Fld := ⟨7, 4⟩

/-! ## Block RST (spec file 17) -/

abbrev Reg.rstStatus : Nat := 0x00100000
abbrev F.rstStatus_configReady : Fld := ⟨31, 31⟩
abbrev F.rstStatus_mediaReady : Fld := ⟨30, 30⟩
abbrev F.rstStatus_recovery : Fld := ⟨29, 29⟩
abbrev F.rstStatus_fw : Fld := ⟨28, 27⟩
abbrev F.rstStatus_clockFault : Fld := ⟨14, 8⟩
abbrev F.rstStatus_inReset : Fld := ⟨6, 0⟩
abbrev Reg.rstPendingClk : Nat := 0x00100004
abbrev F.rstPendingClk_slots : Fld := ⟨11, 8⟩
abbrev F.rstPendingClk_domains : Fld := ⟨6, 0⟩
abbrev Reg.rstCause : Nat := 0x00100008
abbrev F.rstCause_sources : Fld := ⟨10, 0⟩
abbrev Reg.rstSrcActive : Nat := 0x0010000C
abbrev F.rstSrcActive_sources : Fld := ⟨10, 0⟩
abbrev Reg.rstWdt : Nat := 0x00100020
abbrev F.rstWdt_enable : Fld := ⟨31, 31⟩
abbrev F.rstWdt_fires : Fld := ⟨23, 16⟩
abbrev F.rstWdt_timeoutMs : Fld := ⟨15, 0⟩
abbrev Reg.rstObStatus : Nat := 0x00100030
abbrev F.rstObStatus_source : Fld := ⟨31, 30⟩
abbrev F.rstObStatus_validA : Fld := ⟨29, 29⟩
abbrev F.rstObStatus_validB : Fld := ⟨28, 28⟩
abbrev F.rstObStatus_busy : Fld := ⟨27, 27⟩
abbrev F.rstObStatus_refused : Fld := ⟨26, 26⟩
abbrev Reg.rstObGen : Nat := 0x00100034
abbrev F.rstObGen_generation : Fld := ⟨31, 0⟩
abbrev Reg.rstObEdit : Nat := 0x00100038
abbrev F.rstObEdit_go : Fld := ⟨31, 31⟩
abbrev F.rstObEdit_offset : Fld := ⟨15, 8⟩
abbrev F.rstObEdit_value : Fld := ⟨7, 0⟩
abbrev Reg.rstBlock (i : Nat) : Nat := 0x00100010 + 0x4 * i
abbrev F.rstBlock_assert : Fld := ⟨31, 31⟩
abbrev F.rstBlock_clockFault : Fld := ⟨30, 30⟩
abbrev F.rstBlock_class : Fld := ⟨18, 16⟩
abbrev F.rstBlock_index : Fld := ⟨4, 0⟩
abbrev Reg.rstOb (i : Nat) : Nat := 0x00100100 + 0x4 * i
abbrev F.rstOb_bytes : Fld := ⟨31, 0⟩

/-! ## Block STK (spec file 01) -/

abbrev Reg.stkNowLo : Nat := 0x00200000
abbrev F.stkNowLo_now : Fld := ⟨31, 0⟩
abbrev Reg.stkNowHi : Nat := 0x00200004
abbrev F.stkNowHi_now : Fld := ⟨31, 0⟩
abbrev Reg.stkStatus : Nat := 0x00200008
abbrev F.stkStatus_slewing : Fld := ⟨3, 3⟩
abbrev F.stkStatus_live : Fld := ⟨2, 2⟩
abbrev F.stkStatus_sync : Fld := ⟨1, 0⟩
abbrev Reg.stkPhase : Nat := 0x0020000C
abbrev F.stkPhase_ns : Fld := ⟨16, 0⟩
abbrev Reg.stkCtl : Nat := 0x00200010
abbrev F.stkCtl_allowFree : Fld := ⟨0, 0⟩
abbrev Reg.stkBudgetCfg : Nat := 0x00200014
abbrev F.stkBudgetCfg_livePreset : Fld := ⟨26, 24⟩
abbrev F.stkBudgetCfg_liveCap : Fld := ⟨17, 0⟩
abbrev Reg.stkCommit : Nat := 0x00200020
abbrev F.stkCommit_target : Fld := ⟨31, 0⟩
abbrev Reg.stkCommitStatus : Nat := 0x00200024
abbrev F.stkCommitStatus_reason : Fld := ⟨31, 24⟩
abbrev F.stkCommitStatus_state : Fld := ⟨23, 20⟩
abbrev F.stkCommitStatus_seq : Fld := ⟨15, 0⟩
abbrev Reg.stkCommitDetail : Nat := 0x00200028
abbrev F.stkCommitDetail_class : Fld := ⟨31, 28⟩
abbrev F.stkCommitDetail_index : Fld := ⟨27, 16⟩
abbrev F.stkCommitDetail_object : Fld := ⟨15, 0⟩
abbrev Reg.stkCommitStrokeLo : Nat := 0x00200030
abbrev F.stkCommitStrokeLo_stroke : Fld := ⟨31, 0⟩
abbrev Reg.stkCommitStrokeHi : Nat := 0x00200034
abbrev F.stkCommitStrokeHi_stroke : Fld := ⟨31, 0⟩
abbrev Reg.stkBankStatus : Nat := 0x00200040
abbrev F.stkBankStatus_affinity : Fld := ⟨9, 8⟩
abbrev F.stkBankStatus_tone : Fld := ⟨7, 6⟩
abbrev F.stkBankStatus_gate : Fld := ⟨5, 4⟩
abbrev F.stkBankStatus_key : Fld := ⟨3, 2⟩
abbrev F.stkBankStatus_classifier : Fld := ⟨1, 0⟩
abbrev Reg.stkSidecamUse0 : Nat := 0x00200044
abbrev F.stkSidecamUse0_tone : Fld := ⟨31, 24⟩
abbrev F.stkSidecamUse0_gate : Fld := ⟨23, 16⟩
abbrev F.stkSidecamUse0_key : Fld := ⟨15, 8⟩
abbrev F.stkSidecamUse0_classifier : Fld := ⟨7, 0⟩
abbrev Reg.stkSidecamUse1 : Nat := 0x00200048
abbrev F.stkSidecamUse1_affinity : Fld := ⟨7, 0⟩
abbrev Reg.stkCrewLoad (i : Nat) : Nat := 0x00200100 + 0x4 * i
abbrev F.stkCrewLoad_percent : Fld := ⟨7, 0⟩

/-! ## Block COX (spec file 02) -/

abbrev Reg.coxCtl : Nat := 0x00300000
abbrev F.coxCtl_migrateDefault : Fld := ⟨1, 0⟩
abbrev Reg.coxStoreStatus : Nat := 0x00300004
abbrev F.coxStoreStatus_liveReserved : Fld := ⟨31, 16⟩
abbrev F.coxStoreStatus_inUse : Fld := ⟨15, 0⟩
abbrev Reg.coxBeCfg : Nat := 0x00300008
abbrev F.coxBeCfg_quantum : Fld := ⟨14, 0⟩
abbrev Reg.coxFinishCfg : Nat := 0x0030000C
abbrev F.coxFinishCfg_marginNs : Fld := ⟨15, 0⟩
abbrev Reg.coxEventCnt : Nat := 0x00300010
abbrev F.coxEventCnt_subst : Fld := ⟨31, 16⟩
abbrev F.coxEventCnt_lateDrop : Fld := ⟨15, 0⟩
abbrev Reg.coxDupCnt : Nat := 0x00300014
abbrev F.coxDupCnt_dup : Fld := ⟨31, 0⟩
abbrev Reg.coxThrottle (i : Nat) : Nat := 0x00300100 + 0x4 * i
abbrev F.coxThrottle_step : Fld := ⟨23, 20⟩
abbrev F.coxThrottle_thmStep : Fld := ⟨19, 16⟩
abbrev F.coxThrottle_forceStep : Fld := ⟨15, 12⟩
abbrev F.coxThrottle_force : Fld := ⟨11, 11⟩
abbrev F.coxThrottle_degrade : Fld := ⟨10, 9⟩
abbrev Reg.coxUnitState (i : Nat) : Nat := 0x00300200 + 0x4 * i
abbrev F.coxUnitState_state : Fld := ⟨31, 29⟩
abbrev F.coxUnitState_liveDemand : Fld := ⟨17, 0⟩
abbrev Reg.coxFlowCfg (i : Nat) : Nat := 0x00310000 + 0x10 * i
abbrev F.coxFlowCfg_enable : Fld := ⟨31, 31⟩
abbrev F.coxFlowCfg_preset : Fld := ⟨30, 28⟩
abbrev F.coxFlowCfg_resClass : Fld := ⟨27, 25⟩
abbrev F.coxFlowCfg_rank : Fld := ⟨24, 22⟩
abbrev F.coxFlowCfg_live : Fld := ⟨21, 21⟩
abbrev F.coxFlowCfg_atomic : Fld := ⟨20, 20⟩
abbrev F.coxFlowCfg_subst : Fld := ⟨19, 17⟩
abbrev F.coxFlowCfg_need : Fld := ⟨16, 13⟩
abbrev F.coxFlowCfg_crew : Fld := ⟨12, 8⟩
abbrev F.coxFlowCfg_reserve : Fld := ⟨7, 0⟩
abbrev Reg.coxFlowDl (i : Nat) : Nat := 0x00310004 + 0x10 * i
abbrev F.coxFlowDl_relOff : Fld := ⟨31, 24⟩
abbrev F.coxFlowDl_finOff : Fld := ⟨23, 16⟩
abbrev F.coxFlowDl_beTimeout : Fld := ⟨15, 0⟩
abbrev Reg.coxFlowAff (i : Nat) : Nat := 0x00310008 + 0x10 * i
abbrev F.coxFlowAff_homeReq : Fld := ⟨31, 26⟩
abbrev F.coxFlowAff_home : Fld := ⟨25, 21⟩
abbrev F.coxFlowAff_last : Fld := ⟨20, 16⟩
abbrev F.coxFlowAff_migrate : Fld := ⟨15, 14⟩
abbrev Reg.coxFlowStat (i : Nat) : Nat := 0x0031000C + 0x10 * i
abbrev F.coxFlowStat_entries : Fld := ⟨31, 24⟩
abbrev F.coxFlowStat_ready : Fld := ⟨23, 16⟩
abbrev F.coxFlowStat_subst : Fld := ⟨15, 0⟩

/-! ## Block ENC (spec file 04, 05 and 06) -/

abbrev Reg.encCap : Nat := 0x00400000
abbrev F.encCap_hevcLevel : Fld := ⟨31, 24⟩
abbrev F.encCap_vvcLevel : Fld := ⟨23, 16⟩
abbrev F.encCap_seats : Fld := ⟨15, 8⟩
abbrev Reg.encAdmit : Nat := 0x00400004
abbrev F.encAdmit_channels : Fld := ⟨23, 15⟩
abbrev F.encAdmit_loadMilli : Fld := ⟨14, 0⟩
abbrev Reg.encChCfg (i : Nat) : Nat := 0x00410000 + 0x80 * i
abbrev F.encChCfg_enable : Fld := ⟨31, 31⟩
abbrev F.encChCfg_preset : Fld := ⟨30, 27⟩
abbrev F.encChCfg_live : Fld := ⟨26, 26⟩
abbrev F.encChCfg_class : Fld := ⟨25, 24⟩
abbrev F.encChCfg_codec : Fld := ⟨23, 23⟩
abbrev F.encChCfg_profile : Fld := ⟨22, 20⟩
abbrev F.encChCfg_tier : Fld := ⟨19, 19⟩
abbrev F.encChCfg_level : Fld := ⟨18, 11⟩
abbrev F.encChCfg_ctu : Fld := ⟨10, 9⟩
abbrev F.encChCfg_headN : Fld := ⟨8, 4⟩
abbrev Reg.encChFmt (i : Nat) : Nat := 0x00410004 + 0x80 * i
abbrev F.encChFmt_width : Fld := ⟨31, 16⟩
abbrev F.encChFmt_height : Fld := ⟨15, 0⟩
abbrev Reg.encChTime (i : Nat) : Nat := 0x00410008 + 0x80 * i
abbrev F.encChTime_num : Fld := ⟨31, 12⟩
abbrev F.encChTime_den : Fld := ⟨11, 0⟩
abbrev Reg.encChSrc (i : Nat) : Nat := 0x0041000C + 0x80 * i
abbrev F.encChSrc_hostCopy : Fld := ⟨31, 31⟩
abbrev F.encChSrc_srcType : Fld := ⟨30, 28⟩
abbrev F.encChSrc_srcFmt : Fld := ⟨27, 25⟩
abbrev F.encChSrc_srcIndex : Fld := ⟨15, 0⟩
abbrev Reg.encChDiv (i : Nat) : Nat := 0x00410010 + 0x80 * i
abbrev F.encChDiv_division : Fld := ⟨31, 30⟩
abbrev F.encChDiv_pieces : Fld := ⟨29, 26⟩
abbrev F.encChDiv_firstReq : Fld := ⟨25, 20⟩
abbrev F.encChDiv_subpic : Fld := ⟨19, 19⟩
abbrev Reg.encChCode (i : Nat) : Nat := 0x00410014 + 0x80 * i
abbrev F.encChCode_irapPeriod : Fld := ⟨31, 20⟩
abbrev F.encChCode_refresh : Fld := ⟨19, 18⟩
abbrev F.encChCode_rollFrames : Fld := ⟨17, 12⟩
abbrev Reg.encChToolOff (i : Nat) : Nat := 0x00410018 + 0x80 * i
abbrev F.encChToolOff_toolOff : Fld := ⟨23, 0⟩
abbrev Reg.encChSei (i : Nat) : Nat := 0x0041001C + 0x80 * i
abbrev F.encChSei_tcSource : Fld := ⟨31, 31⟩
abbrev F.encChSei_captionFlow : Fld := ⟨30, 19⟩
abbrev F.encChSei_transfer : Fld := ⟨7, 6⟩
abbrev F.encChSei_captions : Fld := ⟨5, 5⟩
abbrev F.encChSei_cll : Fld := ⟨4, 4⟩
abbrev F.encChSei_mdcv : Fld := ⟨3, 3⟩
abbrev F.encChSei_timecode : Fld := ⟨2, 2⟩
abbrev Reg.encChResolved (i : Nat) : Nat := 0x00410024 + 0x80 * i
abbrev F.encChResolved_levelIdc : Fld := ⟨31, 24⟩
abbrev F.encChResolved_profile : Fld := ⟨23, 21⟩
abbrev F.encChResolved_division : Fld := ⟨20, 19⟩
abbrev F.encChResolved_pieces : Fld := ⟨18, 15⟩
abbrev F.encChResolved_firstSeat : Fld := ⟨14, 10⟩
abbrev F.encChResolved_ctu : Fld := ⟨9, 8⟩
abbrev Reg.encChStatus (i : Nat) : Nat := 0x00410028 + 0x80 * i
abbrev F.encChStatus_state : Fld := ⟨31, 29⟩
abbrev F.encChStatus_srcMismatch : Fld := ⟨28, 28⟩
abbrev F.encChStatus_stream : Fld := ⟨27, 16⟩
abbrev F.encChStatus_loadMilli : Fld := ⟨15, 0⟩
abbrev Reg.encChMe (i : Nat) : Nat := 0x00410040 + 0x80 * i
abbrev F.encChMe_preset : Fld := ⟨31, 29⟩
abbrev F.encChMe_mode : Fld := ⟨28, 27⟩
abbrev F.encChMe_refs : Fld := ⟨26, 24⟩
abbrev F.encChMe_haloShare : Fld := ⟨23, 23⟩
abbrev Reg.encChMeHier (i : Nat) : Nat := 0x00410044 + 0x80 * i
abbrev F.encChMeHier_hierH : Fld := ⟨27, 16⟩
abbrev F.encChMeHier_hierV : Fld := ⟨10, 0⟩
abbrev Reg.encChMeWin (i : Nat) : Nat := 0x00410048 + 0x80 * i
abbrev F.encChMeWin_winH : Fld := ⟨30, 20⟩
abbrev F.encChMeWin_winV : Fld := ⟨17, 9⟩
abbrev F.encChMeWin_winS : Fld := ⟨8, 5⟩
abbrev Reg.encChMeCost (i : Nat) : Nat := 0x0041004C + 0x80 * i
abbrev F.encChMeCost_units : Fld := ⟨31, 18⟩
abbrev F.encChMeCost_cutUnits : Fld := ⟨17, 4⟩
abbrev Reg.encChMeMem (i : Nat) : Nat := 0x00410050 + 0x80 * i
abbrev F.encChMeMem_winKib : Fld := ⟨31, 20⟩
abbrev F.encChMeMem_budget : Fld := ⟨19, 6⟩
abbrev Reg.encChRc (i : Nat) : Nat := 0x00410060 + 0x80 * i
abbrev F.encChRc_preset : Fld := ⟨31, 29⟩
abbrev F.encChRc_mode : Fld := ⟨28, 28⟩
abbrev F.encChRc_scenecut : Fld := ⟨27, 27⟩
abbrev F.encChRc_cutIrap : Fld := ⟨26, 26⟩
abbrev F.encChRc_qpMin : Fld := ⟨20, 14⟩
abbrev F.encChRc_qpMax : Fld := ⟨13, 7⟩
abbrev Reg.encChRate (i : Nat) : Nat := 0x00410064 + 0x80 * i
abbrev F.encChRate_bitRate : Fld := ⟨19, 0⟩
abbrev Reg.encChTarget (i : Nat) : Nat := 0x00410068 + 0x80 * i
abbrev F.encChTarget_targetRate : Fld := ⟨19, 0⟩
abbrev Reg.encChCpb (i : Nat) : Nat := 0x0041006C + 0x80 * i
abbrev F.encChCpb_cpbBits : Fld := ⟨31, 0⟩
abbrev Reg.encChSlot (i : Nat) : Nat := 0x00410070 + 0x80 * i
abbrev F.encChSlot_tickDiv : Fld := ⟨31, 23⟩
abbrev F.encChSlot_slotMinBytes : Fld := ⟨22, 0⟩
abbrev Reg.encChFloor (i : Nat) : Nat := 0x00410074 + 0x80 * i
abbrev F.encChFloor_floorBits : Fld := ⟨31, 16⟩
abbrev F.encChFloor_hdrBits : Fld := ⟨15, 0⟩
abbrev Reg.encChRcStat (i : Nat) : Nat := 0x00410078 + 0x80 * i
abbrev F.encChRcStat_floorPics : Fld := ⟨31, 16⟩
abbrev F.encChRcStat_qpLast : Fld := ⟨15, 9⟩

/-! ## Block DEC (spec file 07) -/

abbrev Reg.decCap : Nat := 0x00500000
abbrev F.decCap_hevcLevel : Fld := ⟨31, 24⟩
abbrev F.decCap_vvcLevel : Fld := ⟨23, 16⟩
abbrev F.decCap_dseats : Fld := ⟨15, 8⟩
abbrev F.decCap_channels : Fld := ⟨7, 0⟩
abbrev Reg.decAdmit : Nat := 0x00500004
abbrev F.decAdmit_channels : Fld := ⟨23, 16⟩
abbrev F.decAdmit_loadMilli : Fld := ⟨15, 0⟩
abbrev Reg.decPoolMem : Nat := 0x00500008
abbrev F.decPoolMem_mib : Fld := ⟨16, 0⟩
abbrev Reg.decChCfg (i : Nat) : Nat := 0x00510000 + 0x40 * i
abbrev F.decChCfg_enable : Fld := ⟨31, 31⟩
abbrev F.decChCfg_preset : Fld := ⟨30, 28⟩
abbrev F.decChCfg_codec : Fld := ⟨27, 27⟩
abbrev F.decChCfg_profile : Fld := ⟨26, 24⟩
abbrev F.decChCfg_level : Fld := ⟨23, 16⟩
abbrev F.decChCfg_dpbMax : Fld := ⟨15, 11⟩
abbrev F.decChCfg_reorder : Fld := ⟨10, 7⟩
abbrev F.decChCfg_chroma : Fld := ⟨6, 6⟩
abbrev F.decChCfg_gdrStart : Fld := ⟨5, 5⟩
abbrev F.decChCfg_gdrClears : Fld := ⟨4, 4⟩
abbrev Reg.decChFmt (i : Nat) : Nat := 0x00510004 + 0x40 * i
abbrev F.decChFmt_width : Fld := ⟨31, 16⟩
abbrev F.decChFmt_height : Fld := ⟨15, 0⟩
abbrev Reg.decChTime (i : Nat) : Nat := 0x00510008 + 0x40 * i
abbrev F.decChTime_num : Fld := ⟨31, 12⟩
abbrev F.decChTime_den : Fld := ⟨11, 0⟩
abbrev Reg.decChSrc (i : Nat) : Nat := 0x0051000C + 0x40 * i
abbrev F.decChSrc_flow : Fld := ⟨27, 16⟩
abbrev Reg.decChRate (i : Nat) : Nat := 0x00510010 + 0x40 * i
abbrev F.decChRate_maxRate : Fld := ⟨19, 0⟩
abbrev Reg.decChTiming (i : Nat) : Nat := 0x00510014 + 0x40 * i
abbrev F.decChTiming_arriveOff : Fld := ⟨31, 16⟩
abbrev F.decChTiming_win : Fld := ⟨15, 8⟩
abbrev F.decChTiming_presAdd : Fld := ⟨7, 4⟩
abbrev Reg.decChResolved (i : Nat) : Nat := 0x00510018 + 0x40 * i
abbrev F.decChResolved_win : Fld := ⟨31, 24⟩
abbrev F.decChResolved_relOff : Fld := ⟨23, 16⟩
abbrev F.decChResolved_pres : Fld := ⟨15, 10⟩
abbrev F.decChResolved_buffers : Fld := ⟨9, 5⟩
abbrev F.decChResolved_dseat : Fld := ⟨4, 2⟩
abbrev Reg.decChStatus (i : Nat) : Nat := 0x0051001C + 0x40 * i
abbrev F.decChStatus_state : Fld := ⟨31, 29⟩
abbrev F.decChStatus_taint : Fld := ⟨28, 28⟩
abbrev F.decChStatus_stream : Fld := ⟨27, 16⟩
abbrev F.decChStatus_loadMilli : Fld := ⟨15, 0⟩
abbrev Reg.decChCount (i : Nat) : Nat := 0x00510020 + 0x40 * i
abbrev F.decChCount_held : Fld := ⟨31, 16⟩
abbrev F.decChCount_concealed : Fld := ⟨15, 0⟩
abbrev Reg.decPoolCfg (i : Nat) : Nat := 0x00520000 + 0x10 * i
abbrev F.decPoolCfg_refCount : Fld := ⟨26, 22⟩
abbrev Reg.decPoolStatus (i : Nat) : Nat := 0x00520004 + 0x10 * i
abbrev F.decPoolStatus_buffers : Fld := ⟨31, 27⟩
abbrev F.decPoolStatus_free : Fld := ⟨26, 22⟩
abbrev F.decPoolStatus_short : Fld := ⟨21, 17⟩
abbrev F.decPoolStatus_long : Fld := ⟨16, 12⟩
abbrev F.decPoolStatus_outPending : Fld := ⟨11, 7⟩
abbrev F.decPoolStatus_held : Fld := ⟨6, 2⟩
abbrev Reg.decPoolSize (i : Nat) : Nat := 0x00520008 + 0x10 * i
abbrev F.decPoolSize_bufKib : Fld := ⟨31, 12⟩

/-! ## Block CMP (spec file 08) -/

abbrev Reg.cmpCap : Nat := 0x00600000
abbrev F.cmpCap_progs : Fld := ⟨31, 24⟩
abbrev F.cmpCap_layers : Fld := ⟨23, 16⟩
abbrev F.cmpCap_scalers : Fld := ⟨15, 8⟩
abbrev F.cmpCap_taps : Fld := ⟨7, 0⟩
abbrev Reg.cmpAdmit : Nat := 0x00600004
abbrev F.cmpAdmit_layers : Fld := ⟨31, 24⟩
abbrev F.cmpAdmit_layerScl : Fld := ⟨23, 16⟩
abbrev F.cmpAdmit_tapScl : Fld := ⟨15, 8⟩
abbrev F.cmpAdmit_pipes : Fld := ⟨4, 0⟩
abbrev Reg.cmpLoad : Nat := 0x00600008
abbrev F.cmpLoad_loadMilli : Fld := ⟨14, 0⟩
abbrev Reg.cmpMem : Nat := 0x0060000C
abbrev F.cmpMem_mib : Fld := ⟨16, 0⟩
abbrev Reg.cmpProgCfg (i : Nat) : Nat := 0x00610000 + 0x1000 * i
abbrev F.cmpProgCfg_enable : Fld := ⟨31, 31⟩
abbrev F.cmpProgCfg_preset : Fld := ⟨30, 28⟩
abbrev F.cmpProgCfg_gang : Fld := ⟨27, 26⟩
abbrev F.cmpProgCfg_egress : Fld := ⟨25, 25⟩
abbrev Reg.cmpProgFmt (i : Nat) : Nat := 0x00610004 + 0x1000 * i
abbrev F.cmpProgFmt_width : Fld := ⟨31, 16⟩
abbrev F.cmpProgFmt_height : Fld := ⟨15, 0⟩
abbrev Reg.cmpProgTime (i : Nat) : Nat := 0x00610008 + 0x1000 * i
abbrev F.cmpProgTime_num : Fld := ⟨31, 12⟩
abbrev F.cmpProgTime_den : Fld := ⟨11, 0⟩
abbrev Reg.cmpProgOut (i : Nat) : Nat := 0x0061000C + 0x1000 * i
abbrev F.cmpProgOut_form : Fld := ⟨31, 30⟩
abbrev F.cmpProgOut_transfer : Fld := ⟨29, 28⟩
abbrev F.cmpProgOut_depth : Fld := ⟨27, 24⟩
abbrev F.cmpProgOut_dither : Fld := ⟨23, 22⟩
abbrev F.cmpProgOut_sdrWhite : Fld := ⟨21, 12⟩
abbrev Reg.cmpProgLag (i : Nat) : Nat := 0x00610010 + 0x1000 * i
abbrev F.cmpProgLag_lagReq : Fld := ⟨31, 16⟩
abbrev F.cmpProgLag_arrive : Fld := ⟨15, 0⟩
abbrev Reg.cmpProgBg (i : Nat) : Nat := 0x00610014 + 0x1000 * i
abbrev F.cmpProgBg_rgb : Fld := ⟨29, 0⟩
abbrev Reg.cmpProgFill (i : Nat) : Nat := 0x00610018 + 0x1000 * i
abbrev F.cmpProgFill_rgb : Fld := ⟨29, 0⟩
abbrev Reg.cmpProgEgress (i : Nat) : Nat := 0x0061001C + 0x1000 * i
abbrev F.cmpProgEgress_queue : Fld := ⟨27, 16⟩
abbrev F.cmpProgEgress_pacing : Fld := ⟨0, 0⟩
abbrev Reg.cmpProgZone (i : Nat) : Nat := 0x00610020 + 0x1000 * i
abbrev F.cmpProgZone_lines : Fld := ⟨20, 0⟩
abbrev Reg.cmpProgZoneMax (i : Nat) : Nat := 0x00610024 + 0x1000 * i
abbrev F.cmpProgZoneMax_lines : Fld := ⟨20, 0⟩
abbrev Reg.cmpProgZoneAud (i : Nat) : Nat := 0x00610028 + 0x1000 * i
abbrev F.cmpProgZoneAud_audGroup : Fld := ⟨31, 24⟩
abbrev F.cmpProgZoneAud_audTrim : Fld := ⟨15, 0⟩
abbrev Reg.cmpProgResolved (i : Nat) : Nat := 0x0061002C + 0x1000 * i
abbrev F.cmpProgResolved_lag : Fld := ⟨31, 16⟩
abbrev F.cmpProgResolved_gang : Fld := ⟨15, 14⟩
abbrev F.cmpProgResolved_firstPipe : Fld := ⟨13, 10⟩
abbrev Reg.cmpProgStake (i : Nat) : Nat := 0x00610030 + 0x1000 * i
abbrev F.cmpProgStake_stakeNs : Fld := ⟨31, 0⟩
abbrev Reg.cmpProgStatus (i : Nat) : Nat := 0x00610034 + 0x1000 * i
abbrev F.cmpProgStatus_state : Fld := ⟨31, 29⟩
abbrev F.cmpProgStatus_stream : Fld := ⟨27, 16⟩
abbrev F.cmpProgStatus_dark : Fld := ⟨15, 0⟩
abbrev Reg.cmpProgCount (i : Nat) : Nat := 0x00610038 + 0x1000 * i
abbrev F.cmpProgCount_stripsHeld : Fld := ⟨31, 16⟩
abbrev F.cmpProgCount_zoneSkipped : Fld := ⟨15, 0⟩
abbrev Reg.cmpLayerCfg (i : Nat) (j : Nat) : Nat := 0x00610400 + 0x1000 * i + 0x40 * j
abbrev F.cmpLayerCfg_enable : Fld := ⟨31, 31⟩
abbrev F.cmpLayerCfg_srcType : Fld := ⟨30, 28⟩
abbrev F.cmpLayerCfg_alpha : Fld := ⟨27, 26⟩
abbrev F.cmpLayerCfg_globalAlpha : Fld := ⟨25, 16⟩
abbrev F.cmpLayerCfg_flipGroup : Fld := ⟨15, 12⟩
abbrev F.cmpLayerCfg_miss : Fld := ⟨11, 10⟩
abbrev F.cmpLayerCfg_pair : Fld := ⟨9, 9⟩
abbrev Reg.cmpLayerSrc (i : Nat) (j : Nat) : Nat := 0x00610404 + 0x1000 * i + 0x40 * j
abbrev F.cmpLayerSrc_srcFmt : Fld := ⟨31, 28⟩
abbrev F.cmpLayerSrc_srcIndex : Fld := ⟨15, 0⟩
abbrev Reg.cmpLayerSize (i : Nat) (j : Nat) : Nat := 0x00610408 + 0x1000 * i + 0x40 * j
abbrev F.cmpLayerSize_w : Fld := ⟨31, 16⟩
abbrev F.cmpLayerSize_h : Fld := ⟨15, 0⟩
abbrev Reg.cmpLayerCropXy (i : Nat) (j : Nat) : Nat := 0x0061040C + 0x1000 * i + 0x40 * j
abbrev F.cmpLayerCropXy_x : Fld := ⟨31, 16⟩
abbrev F.cmpLayerCropXy_y : Fld := ⟨15, 0⟩
abbrev Reg.cmpLayerCropWh (i : Nat) (j : Nat) : Nat := 0x00610410 + 0x1000 * i + 0x40 * j
abbrev F.cmpLayerCropWh_w : Fld := ⟨31, 16⟩
abbrev F.cmpLayerCropWh_h : Fld := ⟨15, 0⟩
abbrev Reg.cmpLayerDstXy (i : Nat) (j : Nat) : Nat := 0x00610414 + 0x1000 * i + 0x40 * j
abbrev F.cmpLayerDstXy_x : Fld := ⟨31, 16⟩
abbrev F.cmpLayerDstXy_y : Fld := ⟨15, 0⟩
abbrev Reg.cmpLayerDstWh (i : Nat) (j : Nat) : Nat := 0x00610418 + 0x1000 * i + 0x40 * j
abbrev F.cmpLayerDstWh_w : Fld := ⟨31, 16⟩
abbrev F.cmpLayerDstWh_h : Fld := ⟨15, 0⟩
abbrev Reg.cmpLayerColour (i : Nat) (j : Nat) : Nat := 0x0061041C + 0x1000 * i + 0x40 * j
abbrev F.cmpLayerColour_preset : Fld := ⟨31, 29⟩
abbrev F.cmpLayerColour_transferIn : Fld := ⟨28, 27⟩
abbrev F.cmpLayerColour_ycc : Fld := ⟨26, 25⟩
abbrev F.cmpLayerColour_gamut : Fld := ⟨24, 23⟩
abbrev F.cmpLayerColour_tone : Fld := ⟨22, 21⟩
abbrev Reg.cmpLayerStatus (i : Nat) (j : Nat) : Nat := 0x00610420 + 0x1000 * i + 0x40 * j
abbrev F.cmpLayerStatus_state : Fld := ⟨31, 29⟩
abbrev F.cmpLayerStatus_scaler : Fld := ⟨28, 22⟩
abbrev F.cmpLayerStatus_paired : Fld := ⟨21, 21⟩
abbrev F.cmpLayerStatus_lines : Fld := ⟨20, 14⟩
abbrev F.cmpLayerStatus_darkCause : Fld := ⟨7, 0⟩
abbrev Reg.cmpTapCfg (i : Nat) (j : Nat) : Nat := 0x00610800 + 0x1000 * i + 0x20 * j
abbrev F.cmpTapCfg_enable : Fld := ⟨31, 31⟩
abbrev F.cmpTapCfg_fmt : Fld := ⟨30, 28⟩
abbrev F.cmpTapCfg_pair : Fld := ⟨27, 27⟩
abbrev F.cmpTapCfg_dTap : Fld := ⟨15, 0⟩
abbrev Reg.cmpTapFmt (i : Nat) (j : Nat) : Nat := 0x00610804 + 0x1000 * i + 0x20 * j
abbrev F.cmpTapFmt_w : Fld := ⟨31, 16⟩
abbrev F.cmpTapFmt_h : Fld := ⟨15, 0⟩
abbrev Reg.cmpTapResolved (i : Nat) (j : Nat) : Nat := 0x00610808 + 0x1000 * i + 0x20 * j
abbrev F.cmpTapResolved_dTap : Fld := ⟨31, 16⟩
abbrev F.cmpTapResolved_lines : Fld := ⟨15, 9⟩
abbrev F.cmpTapResolved_paired : Fld := ⟨8, 8⟩

/-! ## Block AUD (spec file 09) -/

abbrev Reg.audCap : Nat := 0x00700000
abbrev F.audCap_aesIn : Fld := ⟨31, 24⟩
abbrev F.audCap_aesOut : Fld := ⟨23, 16⟩
abbrev F.audCap_tdm : Fld := ⟨15, 12⟩
abbrev F.audCap_asrc : Fld := ⟨11, 0⟩
abbrev Reg.audAdmit : Nat := 0x00700004
abbrev F.audAdmit_netInCh : Fld := ⟨31, 21⟩
abbrev F.audAdmit_netOutCh : Fld := ⟨20, 10⟩
abbrev F.audAdmit_asrc : Fld := ⟨8, 0⟩
abbrev Reg.audClkCfg : Nat := 0x00700010
abbrev F.audClkCfg_role : Fld := ⟨31, 30⟩
abbrev F.audClkCfg_aesSrc : Fld := ⟨29, 25⟩
abbrev F.audClkCfg_houseRate : Fld := ⟨24, 22⟩
abbrev F.audClkCfg_mclkX : Fld := ⟨21, 21⟩
abbrev F.audClkCfg_mclkOutEn : Fld := ⟨20, 20⟩
abbrev F.audClkCfg_wclkOutEn : Fld := ⟨19, 19⟩
abbrev F.audClkCfg_restoreMs : Fld := ⟨15, 0⟩
abbrev Reg.audClkStatus : Nat := 0x00700014
abbrev F.audClkStatus_house : Fld := ⟨31, 30⟩
abbrev F.audClkStatus_muted : Fld := ⟨29, 29⟩
abbrev F.audClkStatus_extPresent : Fld := ⟨28, 28⟩
abbrev F.audClkStatus_ppm : Fld := ⟨15, 0⟩
abbrev Reg.audAesiCfg (i : Nat) : Nat := 0x00701000 + 0x80 * i
abbrev F.audAesiCfg_enable : Fld := ⟨31, 31⟩
abbrev F.audAesiCfg_stream : Fld := ⟨27, 16⟩
abbrev Reg.audAesiStatus (i : Nat) : Nat := 0x00701004 + 0x80 * i
abbrev F.audAesiStatus_lock : Fld := ⟨31, 31⟩
abbrev F.audAesiStatus_rate : Fld := ⟨30, 28⟩
abbrev F.audAesiStatus_proA : Fld := ⟨27, 27⟩
abbrev F.audAesiStatus_proB : Fld := ⟨26, 26⟩
abbrev F.audAesiStatus_crcErr : Fld := ⟨23, 16⟩
abbrev F.audAesiStatus_parityErr : Fld := ⟨15, 8⟩
abbrev Reg.audAesiCsA (i : Nat) (j : Nat) : Nat := 0x00701020 + 0x80 * i + 0x4 * j
abbrev F.audAesiCsA_bytes : Fld := ⟨31, 0⟩
abbrev Reg.audAesiCsB (i : Nat) (j : Nat) : Nat := 0x00701038 + 0x80 * i + 0x4 * j
abbrev F.audAesiCsB_bytes : Fld := ⟨31, 0⟩
abbrev Reg.audAesoCfg (i : Nat) : Nat := 0x00702000 + 0x20 * i
abbrev F.audAesoCfg_enable : Fld := ⟨31, 31⟩
abbrev F.audAesoCfg_csPreset : Fld := ⟨30, 29⟩
abbrev F.audAesoCfg_vMark : Fld := ⟨28, 28⟩
abbrev F.audAesoCfg_stream : Fld := ⟨27, 16⟩
abbrev Reg.audAesoStatus (i : Nat) : Nat := 0x00702004 + 0x20 * i
abbrev F.audAesoStatus_muted : Fld := ⟨31, 31⟩
abbrev F.audAesoStatus_asrc : Fld := ⟨30, 30⟩
abbrev Reg.audAesoCs (i : Nat) (j : Nat) : Nat := 0x00702008 + 0x20 * i + 0x4 * j
abbrev F.audAesoCs_bytes : Fld := ⟨31, 0⟩
abbrev Reg.audTdmCfg (i : Nat) : Nat := 0x00702800 + 0x10 * i
abbrev F.audTdmCfg_enable : Fld := ⟨31, 31⟩
abbrev F.audTdmCfg_preset : Fld := ⟨30, 28⟩
abbrev F.audTdmCfg_role : Fld := ⟨27, 27⟩
abbrev F.audTdmCfg_slots : Fld := ⟨26, 21⟩
abbrev F.audTdmCfg_width : Fld := ⟨20, 19⟩
abbrev F.audTdmCfg_fsForm : Fld := ⟨18, 18⟩
abbrev F.audTdmCfg_delay : Fld := ⟨17, 17⟩
abbrev F.audTdmCfg_fsInv : Fld := ⟨16, 16⟩
abbrev F.audTdmCfg_bclkEdge : Fld := ⟨15, 15⟩
abbrev F.audTdmCfg_rate : Fld := ⟨14, 12⟩
abbrev Reg.audTdmStatus (i : Nat) : Nat := 0x00702804 + 0x10 * i
abbrev F.audTdmStatus_clockOk : Fld := ⟨31, 31⟩
abbrev F.audTdmStatus_asrc : Fld := ⟨30, 30⟩
abbrev Reg.audMaskIn (i : Nat) : Nat := 0x00702808 + 0x10 * i
abbrev F.audMaskIn_mask : Fld := ⟨31, 0⟩
abbrev Reg.audMaskOut (i : Nat) : Nat := 0x0070280C + 0x10 * i
abbrev F.audMaskOut_mask : Fld := ⟨31, 0⟩
abbrev Reg.audNetiCfg (i : Nat) : Nat := 0x00703000 + 0x10 * i
abbrev F.audNetiCfg_enable : Fld := ⟨31, 31⟩
abbrev F.audNetiCfg_kind : Fld := ⟨30, 30⟩
abbrev F.audNetiCfg_enc : Fld := ⟨29, 28⟩
abbrev F.audNetiCfg_ptime : Fld := ⟨27, 25⟩
abbrev F.audNetiCfg_rate96 : Fld := ⟨24, 24⟩
abbrev F.audNetiCfg_chM1 : Fld := ⟨23, 18⟩
abbrev F.audNetiCfg_flow : Fld := ⟨11, 0⟩
abbrev Reg.audNetiStatus (i : Nat) : Nat := 0x00703004 + 0x10 * i
abbrev F.audNetiStatus_late : Fld := ⟨31, 16⟩
abbrev F.audNetiStatus_lost : Fld := ⟨15, 0⟩
abbrev Reg.audNetoCfg (i : Nat) : Nat := 0x00704000 + 0x10 * i
abbrev F.audNetoCfg_enable : Fld := ⟨31, 31⟩
abbrev F.audNetoCfg_kind : Fld := ⟨30, 30⟩
abbrev F.audNetoCfg_enc : Fld := ⟨29, 28⟩
abbrev F.audNetoCfg_ptime : Fld := ⟨27, 25⟩
abbrev F.audNetoCfg_rate96 : Fld := ⟨24, 24⟩
abbrev F.audNetoCfg_chM1 : Fld := ⟨23, 18⟩
abbrev F.audNetoCfg_queue : Fld := ⟨11, 0⟩
abbrev Reg.audNetoCh (i : Nat) : Nat := 0x00704004 + 0x10 * i
abbrev F.audNetoCh_first : Fld := ⟨9, 0⟩
abbrev Reg.audGrpCfg (i : Nat) : Nat := 0x00705000 + 0x80 * i
abbrev F.audGrpCfg_enable : Fld := ⟨31, 31⟩
abbrev F.audGrpCfg_preset : Fld := ⟨30, 28⟩
abbrev F.audGrpCfg_align : Fld := ⟨27, 27⟩
abbrev F.audGrpCfg_rate : Fld := ⟨26, 24⟩
abbrev F.audGrpCfg_blockStrokes : Fld := ⟨23, 18⟩
abbrev F.audGrpCfg_arriveUs : Fld := ⟨13, 0⟩
abbrev Reg.audGrpDelay (i : Nat) : Nat := 0x00705004 + 0x80 * i
abbrev F.audGrpDelay_delay : Fld := ⟨20, 0⟩
abbrev Reg.audGrpStatus (i : Nat) : Nat := 0x00705008 + 0x80 * i
abbrev F.audGrpStatus_state : Fld := ⟨31, 29⟩
abbrev F.audGrpStatus_stream : Fld := ⟨27, 16⟩
abbrev F.audGrpStatus_channels : Fld := ⟨15, 0⟩
abbrev Reg.audGrpResolved (i : Nat) : Nat := 0x0070500C + 0x80 * i
abbrev F.audGrpResolved_a : Fld := ⟨31, 24⟩
abbrev F.audGrpResolved_fromProg : Fld := ⟨23, 23⟩
abbrev F.audGrpResolved_delay : Fld := ⟨20, 0⟩
abbrev Reg.audGrpMember (i : Nat) (j : Nat) : Nat := 0x00705010 + 0x80 * i + 0x4 * j
abbrev F.audGrpMember_validHi : Fld := ⟨31, 31⟩
abbrev F.audGrpMember_sourceHi : Fld := ⟨27, 16⟩
abbrev F.audGrpMember_validLo : Fld := ⟨15, 15⟩
abbrev F.audGrpMember_sourceLo : Fld := ⟨11, 0⟩
abbrev Reg.audHostCfg (i : Nat) : Nat := 0x00707000 + 0x10 * i
abbrev F.audHostCfg_enable : Fld := ⟨31, 31⟩
abbrev F.audHostCfg_rate : Fld := ⟨30, 28⟩
abbrev F.audHostCfg_chM1 : Fld := ⟨27, 22⟩
abbrev F.audHostCfg_stream : Fld := ⟨11, 0⟩
abbrev Reg.audRoute (i : Nat) : Nat := 0x00708000 + 0x4 * i
abbrev F.audRoute_enable : Fld := ⟨31, 31⟩
abbrev F.audRoute_group : Fld := ⟨29, 24⟩
abbrev F.audRoute_channel : Fld := ⟨9, 0⟩
abbrev Reg.audAsrcState (i : Nat) : Nat := 0x0070A000 + 0x8 * i
abbrev F.audAsrcState_lock : Fld := ⟨31, 31⟩
abbrev F.audAsrcState_inUse : Fld := ⟨30, 30⟩
abbrev F.audAsrcState_dir : Fld := ⟨29, 29⟩
abbrev F.audAsrcState_stream : Fld := ⟨27, 16⟩
abbrev Reg.audAsrcRatio (i : Nat) : Nat := 0x0070A004 + 0x8 * i
abbrev F.audAsrcRatio_ratio : Fld := ⟨31, 0⟩

/-! ## Block LANE (spec file 10) -/

abbrev Reg.laneSnapCtl : Nat := 0x00800000
abbrev F.laneSnapCtl_busy : Fld := ⟨1, 1⟩
abbrev F.laneSnapCtl_save : Fld := ⟨0, 0⟩
abbrev Reg.laneCtl (i : Nat) : Nat := 0x00801000 + 0x40 * i
abbrev F.laneCtl_loopback : Fld := ⟨31, 30⟩
abbrev F.laneCtl_txInv : Fld := ⟨29, 29⟩
abbrev F.laneCtl_rxInv : Fld := ⟨28, 28⟩
abbrev F.laneCtl_adapt : Fld := ⟨27, 26⟩
abbrev F.laneCtl_useSnap : Fld := ⟨25, 25⟩
abbrev Reg.laneTxfir (i : Nat) : Nat := 0x00801004 + 0x40 * i
abbrev F.laneTxfir_preset : Fld := ⟨31, 30⟩
abbrev F.laneTxfir_cM2 : Fld := ⟨29, 24⟩
abbrev F.laneTxfir_cM1 : Fld := ⟨23, 18⟩
abbrev F.laneTxfir_c0 : Fld := ⟨17, 12⟩
abbrev F.laneTxfir_c1 : Fld := ⟨11, 6⟩
abbrev Reg.laneAdapt (i : Nat) : Nat := 0x00801008 + 0x40 * i
abbrev F.laneAdapt_ctle : Fld := ⟨31, 28⟩
abbrev F.laneAdapt_dfe1 : Fld := ⟨27, 20⟩
abbrev F.laneAdapt_txCm1 : Fld := ⟨17, 12⟩
abbrev F.laneAdapt_txC0 : Fld := ⟨11, 6⟩
abbrev F.laneAdapt_txC1 : Fld := ⟨5, 0⟩
abbrev Reg.laneStatus (i : Nat) : Nat := 0x0080100C + 0x40 * i
abbrev F.laneStatus_state : Fld := ⟨31, 29⟩
abbrev F.laneStatus_cdrLock : Fld := ⟨28, 28⟩
abbrev F.laneStatus_blockLock : Fld := ⟨27, 27⟩
abbrev F.laneStatus_frozen : Fld := ⟨26, 26⟩
abbrev F.laneStatus_snapValid : Fld := ⟨25, 25⟩
abbrev F.laneStatus_hiBer : Fld := ⟨24, 24⟩
abbrev F.laneStatus_margin : Fld := ⟨23, 16⟩
abbrev F.laneStatus_snapMargin : Fld := ⟨15, 8⟩
abbrev F.laneStatus_idlePct : Fld := ⟨7, 0⟩
abbrev Reg.laneGuard (i : Nat) : Nat := 0x00801010 + 0x40 * i
abbrev F.laneGuard_guardEn : Fld := ⟨31, 31⟩
abbrev F.laneGuard_marginMin : Fld := ⟨23, 16⟩
abbrev Reg.laneTest (i : Nat) : Nat := 0x00801014 + 0x40 * i
abbrev F.laneTest_gen : Fld := ⟨31, 29⟩
abbrev F.laneTest_chk : Fld := ⟨28, 26⟩
abbrev F.laneTest_inj : Fld := ⟨25, 24⟩
abbrev F.laneTest_injGo : Fld := ⟨23, 23⟩
abbrev F.laneTest_injParam : Fld := ⟨15, 0⟩
abbrev Reg.laneUserPat0 (i : Nat) : Nat := 0x00801018 + 0x40 * i
abbrev F.laneUserPat0_bits : Fld := ⟨31, 0⟩
abbrev Reg.laneUserPat1 (i : Nat) : Nat := 0x0080101C + 0x40 * i
abbrev F.laneUserPat1_bits : Fld := ⟨31, 0⟩
abbrev Reg.laneUserPat2 (i : Nat) : Nat := 0x00801020 + 0x40 * i
abbrev F.laneUserPat2_bits : Fld := ⟨31, 0⟩
abbrev Reg.laneChkErr (i : Nat) : Nat := 0x00801024 + 0x40 * i
abbrev F.laneChkErr_chkLock : Fld := ⟨31, 31⟩
abbrev F.laneChkErr_errors : Fld := ⟨30, 0⟩
abbrev Reg.laneCnt (i : Nat) : Nat := 0x00801028 + 0x40 * i
abbrev F.laneCnt_relocks : Fld := ⟨31, 16⟩
abbrev F.laneCnt_reverts : Fld := ⟨15, 8⟩
abbrev F.laneCnt_coldStarts : Fld := ⟨7, 0⟩

/-! ## Block PORT (spec file 10) -/

abbrev Reg.portGroupCfg (i : Nat) : Nat := 0x00901000 + 0x20 * i
abbrev F.portGroupCfg_enable : Fld := ⟨31, 31⟩
abbrev F.portGroupCfg_preset : Fld := ⟨30, 28⟩
abbrev F.portGroupCfg_mode : Fld := ⟨27, 26⟩
abbrev F.portGroupCfg_an : Fld := ⟨25, 25⟩
abbrev F.portGroupCfg_train : Fld := ⟨24, 24⟩
abbrev F.portGroupCfg_tech : Fld := ⟨23, 23⟩
abbrev Reg.portGroupStatus (i : Nat) : Nat := 0x00901004 + 0x20 * i
abbrev F.portGroupStatus_state : Fld := ⟨31, 29⟩
abbrev F.portGroupStatus_aligned : Fld := ⟨28, 28⟩
abbrev F.portGroupStatus_laneLock : Fld := ⟨27, 24⟩
abbrev F.portGroupStatus_downs : Fld := ⟨23, 16⟩
abbrev Reg.portMacCtl (i : Nat) : Nat := 0x00910000 + 0x100 * i
abbrev F.portMacCtl_enable : Fld := ⟨31, 31⟩
abbrev F.portMacCtl_speed : Fld := ⟨30, 30⟩
abbrev F.portMacCtl_fec : Fld := ⟨29, 28⟩
abbrev F.portMacCtl_pauseRx : Fld := ⟨27, 27⟩
abbrev F.portMacCtl_promisc : Fld := ⟨26, 26⟩
abbrev F.portMacCtl_maxFrame : Fld := ⟨25, 12⟩
abbrev Reg.portMacStatus (i : Nat) : Nat := 0x00910004 + 0x100 * i
abbrev F.portMacStatus_link : Fld := ⟨31, 31⟩
abbrev F.portMacStatus_localFault : Fld := ⟨30, 30⟩
abbrev F.portMacStatus_remoteFault : Fld := ⟨29, 29⟩
abbrev F.portMacStatus_hiBer : Fld := ⟨28, 28⟩
abbrev F.portMacStatus_fec : Fld := ⟨27, 26⟩
abbrev F.portMacStatus_anDone : Fld := ⟨25, 25⟩
abbrev Reg.portMacAddrLo (i : Nat) : Nat := 0x00910008 + 0x100 * i
abbrev F.portMacAddrLo_addr : Fld := ⟨31, 0⟩
abbrev Reg.portMacAddrHi (i : Nat) : Nat := 0x0091000C + 0x100 * i
abbrev F.portMacAddrHi_addr : Fld := ⟨31, 0⟩
abbrev Reg.portMacsecCfg (i : Nat) : Nat := 0x00910010 + 0x100 * i
abbrev F.portMacsecCfg_enable : Fld := ⟨31, 31⟩
abbrev F.portMacsecCfg_cipher : Fld := ⟨30, 30⟩
abbrev F.portMacsecCfg_conf : Fld := ⟨29, 29⟩
abbrev F.portMacsecCfg_includeSci : Fld := ⟨28, 28⟩
abbrev F.portMacsecCfg_validate : Fld := ⟨27, 26⟩
abbrev F.portMacsecCfg_replayProtect : Fld := ⟨25, 25⟩
abbrev F.portMacsecCfg_replayWin : Fld := ⟨15, 0⟩
abbrev Reg.portMacCntLo (i : Nat) (j : Nat) : Nat := 0x00910040 + 0x100 * i + 0x8 * j
abbrev F.portMacCntLo_count : Fld := ⟨31, 0⟩
abbrev Reg.portMacCntHi (i : Nat) (j : Nat) : Nat := 0x00910044 + 0x100 * i + 0x8 * j
abbrev F.portMacCntHi_count : Fld := ⟨31, 0⟩

/-! ## Block EGS (spec file 11) -/

abbrev Reg.egsClsCfg : Nat := 0x00A00000
abbrev F.egsClsCfg_rehash : Fld := ⟨31, 31⟩
abbrev F.egsClsCfg_rehashAt : Fld := ⟨6, 0⟩
abbrev Reg.egsClsStatus : Nat := 0x00A00004
abbrev F.egsClsStatus_entries : Fld := ⟨31, 19⟩
abbrev F.egsClsStatus_seed : Fld := ⟨18, 15⟩
abbrev F.egsClsStatus_sidecam : Fld := ⟨14, 8⟩
abbrev F.egsClsStatus_rehashes : Fld := ⟨7, 0⟩
abbrev Reg.egsClsMiss : Nat := 0x00A00008
abbrev F.egsClsMiss_misses : Fld := ⟨31, 0⟩
abbrev Reg.egsSrcIp (i : Nat) (j : Nat) : Nat := 0x00A01000 + 0x10 * i + 0x4 * j
abbrev F.egsSrcIp_addr : Fld := ⟨31, 0⟩
abbrev Reg.egsClsDip (i : Nat) (j : Nat) : Nat := 0x00A10000 + 0x20 * i + 0x4 * j
abbrev F.egsClsDip_addr : Fld := ⟨31, 0⟩
abbrev Reg.egsClsKey (i : Nat) : Nat := 0x00A10010 + 0x20 * i
abbrev F.egsClsKey_valid : Fld := ⟨31, 31⟩
abbrev F.egsClsKey_ver : Fld := ⟨30, 30⟩
abbrev F.egsClsKey_pair : Fld := ⟨29, 27⟩
abbrev F.egsClsKey_vlan : Fld := ⟨26, 15⟩
abbrev F.egsClsKey_srcSel : Fld := ⟨14, 7⟩
abbrev Reg.egsClsFlow (i : Nat) : Nat := 0x00A10014 + 0x20 * i
abbrev F.egsClsFlow_udpDport : Fld := ⟨31, 16⟩
abbrev F.egsClsFlow_flow : Fld := ⟨11, 0⟩
abbrev Reg.egsClsPol (i : Nat) : Nat := 0x00A10018 + 0x20 * i
abbrev F.egsClsPol_action : Fld := ⟨31, 31⟩
abbrev F.egsClsPol_kbps : Fld := ⟨26, 0⟩
abbrev Reg.egsClsSec (i : Nat) : Nat := 0x00A1001C + 0x20 * i
abbrev F.egsClsSec_srtp : Fld := ⟨31, 31⟩
abbrev F.egsClsSec_key : Fld := ⟨30, 19⟩
abbrev F.egsClsSec_bytes : Fld := ⟨18, 0⟩
abbrev Reg.egsPolStat0 (i : Nat) : Nat := 0x00A30000 + 0x8 * i
abbrev F.egsPolStat0_exceededA : Fld := ⟨31, 16⟩
abbrev F.egsPolStat0_exceededB : Fld := ⟨15, 0⟩
abbrev Reg.egsPolStat1 (i : Nat) : Nat := 0x00A30004 + 0x8 * i
abbrev F.egsPolStat1_authFail : Fld := ⟨31, 0⟩
abbrev Reg.egsEqCfg (i : Nat) : Nat := 0x00A40000 + 0x20 * i
abbrev F.egsEqCfg_enable : Fld := ⟨31, 31⟩
abbrev F.egsEqCfg_preset : Fld := ⟨30, 28⟩
abbrev F.egsEqCfg_encap : Fld := ⟨27, 26⟩
abbrev F.egsEqCfg_srtp : Fld := ⟨25, 25⟩
abbrev F.egsEqCfg_sub : Fld := ⟨24, 17⟩
abbrev F.egsEqCfg_dest : Fld := ⟨16, 7⟩
abbrev Reg.egsEqPkt (i : Nat) : Nat := 0x00A40004 + 0x20 * i
abbrev F.egsEqPkt_stream : Fld := ⟨31, 20⟩
abbrev F.egsEqPkt_pktMax : Fld := ⟨19, 6⟩
abbrev Reg.egsEqRtp (i : Nat) : Nat := 0x00A40008 + 0x20 * i
abbrev F.egsEqRtp_pt : Fld := ⟨31, 25⟩
abbrev F.egsEqRtp_firstMax : Fld := ⟨24, 16⟩
abbrev F.egsEqRtp_seq0 : Fld := ⟨15, 0⟩
abbrev Reg.egsEqSsrc (i : Nat) : Nat := 0x00A4000C + 0x20 * i
abbrev F.egsEqSsrc_ssrc : Fld := ⟨31, 0⟩
abbrev Reg.egsEqKey (i : Nat) : Nat := 0x00A40010 + 0x20 * i
abbrev F.egsEqKey_key : Fld := ⟨11, 0⟩
abbrev Reg.egsEqRate (i : Nat) : Nat := 0x00A40014 + 0x20 * i
abbrev F.egsEqRate_kbps : Fld := ⟨26, 0⟩
abbrev Reg.egsEqBurst (i : Nat) : Nat := 0x00A40018 + 0x20 * i
abbrev F.egsEqBurst_bytes : Fld := ⟨23, 0⟩
abbrev Reg.egsEqStatus (i : Nat) : Nat := 0x00A4001C + 0x20 * i
abbrev F.egsEqStatus_state : Fld := ⟨31, 29⟩
abbrev F.egsEqStatus_liveKbps : Fld := ⟨27, 0⟩
abbrev Reg.egsDestIp (i : Nat) (j : Nat) : Nat := 0x00A60000 + 0x20 * i + 0x4 * j
abbrev F.egsDestIp_addr : Fld := ⟨31, 0⟩
abbrev Reg.egsDestCtl (i : Nat) : Nat := 0x00A60010 + 0x20 * i
abbrev F.egsDestCtl_ver : Fld := ⟨31, 31⟩
abbrev F.egsDestCtl_sub : Fld := ⟨30, 23⟩
abbrev F.egsDestCtl_dscp : Fld := ⟨22, 17⟩
abbrev F.egsDestCtl_vlan : Fld := ⟨16, 5⟩
abbrev Reg.egsDestUdp (i : Nat) : Nat := 0x00A60014 + 0x20 * i
abbrev F.egsDestUdp_udpDport : Fld := ⟨31, 16⟩
abbrev F.egsDestUdp_udpSport : Fld := ⟨15, 0⟩
abbrev Reg.egsSubCfg (i : Nat) : Nat := 0x00A70000 + 0x10 * i
abbrev F.egsSubCfg_enable : Fld := ⟨31, 31⟩
abbrev F.egsSubCfg_port : Fld := ⟨30, 25⟩
abbrev F.egsSubCfg_tc : Fld := ⟨24, 22⟩
abbrev Reg.egsSubRate (i : Nat) : Nat := 0x00A70004 + 0x10 * i
abbrev F.egsSubRate_kbps : Fld := ⟨26, 0⟩
abbrev Reg.egsSubBurst (i : Nat) : Nat := 0x00A70008 + 0x10 * i
abbrev F.egsSubBurst_bytes : Fld := ⟨23, 0⟩
abbrev Reg.egsSubStatus (i : Nat) : Nat := 0x00A7000C + 0x10 * i
abbrev F.egsSubStatus_state : Fld := ⟨31, 29⟩
abbrev F.egsSubStatus_liveKbps : Fld := ⟨27, 0⟩
abbrev Reg.egsPortCfg (i : Nat) : Nat := 0x00A80000 + 0x100 * i
abbrev F.egsPortCfg_overhead : Fld := ⟨31, 23⟩
abbrev F.egsPortCfg_ctrlTc : Fld := ⟨22, 20⟩
abbrev Reg.egsPortRate (i : Nat) : Nat := 0x00A80004 + 0x100 * i
abbrev F.egsPortRate_kbps : Fld := ⟨26, 0⟩
abbrev Reg.egsPortBurst (i : Nat) : Nat := 0x00A80008 + 0x100 * i
abbrev F.egsPortBurst_bytes : Fld := ⟨23, 0⟩
abbrev Reg.egsPortStatus (i : Nat) : Nat := 0x00A8000C + 0x100 * i
abbrev F.egsPortStatus_state : Fld := ⟨31, 29⟩
abbrev F.egsPortStatus_liveKbps : Fld := ⟨27, 0⟩
abbrev Reg.egsTcRate (i : Nat) (j : Nat) : Nat := 0x00A80020 + 0x100 * i + 0x10 * j
abbrev F.egsTcRate_kbps : Fld := ⟨26, 0⟩
abbrev Reg.egsTcBurst (i : Nat) (j : Nat) : Nat := 0x00A80024 + 0x100 * i + 0x10 * j
abbrev F.egsTcBurst_bytes : Fld := ⟨23, 0⟩
abbrev Reg.egsTcStatus (i : Nat) (j : Nat) : Nat := 0x00A80028 + 0x100 * i + 0x10 * j
abbrev F.egsTcStatus_state : Fld := ⟨31, 29⟩
abbrev F.egsTcStatus_liveKbps : Fld := ⟨27, 0⟩
abbrev Reg.egsGclCtl (i : Nat) : Nat := 0x00A800C0 + 0x100 * i
abbrev F.egsGclCtl_enable : Fld := ⟨31, 31⟩
abbrev F.egsGclCtl_entries : Fld := ⟨23, 15⟩
abbrev Reg.egsGclBaseNs (i : Nat) : Nat := 0x00A800C4 + 0x100 * i
abbrev F.egsGclBaseNs_time : Fld := ⟨31, 0⟩
abbrev Reg.egsGclBaseSecLo (i : Nat) : Nat := 0x00A800C8 + 0x100 * i
abbrev F.egsGclBaseSecLo_time : Fld := ⟨31, 0⟩
abbrev Reg.egsGclBaseSecHi (i : Nat) : Nat := 0x00A800CC + 0x100 * i
abbrev F.egsGclBaseSecHi_time : Fld := ⟨31, 0⟩
abbrev Reg.egsGclStatus (i : Nat) : Nat := 0x00A800D0 + 0x100 * i
abbrev F.egsGclStatus_state : Fld := ⟨31, 30⟩
abbrev F.egsGclStatus_cycleNs : Fld := ⟨29, 0⟩
abbrev Reg.egsGclTakeNs (i : Nat) : Nat := 0x00A800D4 + 0x100 * i
abbrev F.egsGclTakeNs_time : Fld := ⟨31, 0⟩
abbrev Reg.egsGclTakeSecLo (i : Nat) : Nat := 0x00A800D8 + 0x100 * i
abbrev F.egsGclTakeSecLo_time : Fld := ⟨31, 0⟩
abbrev Reg.egsGclTakeSecHi (i : Nat) : Nat := 0x00A800DC + 0x100 * i
abbrev F.egsGclTakeSecHi_time : Fld := ⟨31, 0⟩
abbrev Reg.egsGclEnt (i : Nat) (j : Nat) : Nat := 0x00A90000 + 0x400 * i + 0x4 * j
abbrev F.egsGclEnt_gates : Fld := ⟨31, 24⟩
abbrev F.egsGclEnt_interval : Fld := ⟨23, 0⟩

/-! ## Block PATH (spec file 12) -/

abbrev Reg.pathPtpCfg : Nat := 0x00B00000
abbrev F.pathPtpCfg_enable : Fld := ⟨31, 31⟩
abbrev F.pathPtpCfg_standbyEn : Fld := ⟨30, 30⟩
abbrev F.pathPtpCfg_prefer : Fld := ⟨29, 29⟩
abbrev F.pathPtpCfg_port : Fld := ⟨28, 23⟩
abbrev F.pathPtpCfg_wtrS : Fld := ⟨15, 0⟩
abbrev Reg.pathPtpStatus : Nat := 0x00B00004
abbrev F.pathPtpStatus_onB : Fld := ⟨31, 31⟩
abbrev F.pathPtpStatus_activeOk : Fld := ⟨30, 30⟩
abbrev F.pathPtpStatus_standbyOk : Fld := ⟨29, 29⟩
abbrev F.pathPtpStatus_partition : Fld := ⟨28, 28⟩
abbrev F.pathPtpStatus_waiting : Fld := ⟨27, 27⟩
abbrev F.pathPtpStatus_wtrLeft : Fld := ⟨15, 0⟩
abbrev Reg.pathGmLockedLo : Nat := 0x00B00008
abbrev F.pathGmLockedLo_id : Fld := ⟨31, 0⟩
abbrev Reg.pathGmLockedHi : Nat := 0x00B0000C
abbrev F.pathGmLockedHi_id : Fld := ⟨31, 0⟩
abbrev Reg.pathGmOtherLo : Nat := 0x00B00010
abbrev F.pathGmOtherLo_id : Fld := ⟨31, 0⟩
abbrev Reg.pathGmOtherHi : Nat := 0x00B00014
abbrev F.pathGmOtherHi_id : Fld := ⟨31, 0⟩
abbrev Reg.pathHealthCfg : Nat := 0x00B00020
abbrev F.pathHealthCfg_fecWarn : Fld := ⟨31, 16⟩
abbrev F.pathHealthCfg_skewWarn : Fld := ⟨15, 8⟩
abbrev F.pathHealthCfg_silentMin : Fld := ⟨7, 0⟩
abbrev Reg.pathPortHealth (i : Nat) : Nat := 0x00B00100 + 0x10 * i
abbrev F.pathPortHealth_health : Fld := ⟨31, 30⟩
abbrev F.pathPortHealth_cause : Fld := ⟨29, 24⟩
abbrev F.pathPortHealth_minMargin : Fld := ⟨23, 16⟩
abbrev F.pathPortHealth_mismatch : Fld := ⟨15, 0⟩
abbrev Reg.pathPortFec (i : Nat) : Nat := 0x00B00104 + 0x10 * i
abbrev F.pathPortFec_corrected : Fld := ⟨31, 8⟩
abbrev F.pathPortFec_uncorrected : Fld := ⟨7, 0⟩
abbrev Reg.pathPairSkew (i : Nat) : Nat := 0x00B00800 + 0x10 * i
abbrev F.pathPairSkew_min : Fld := ⟨31, 16⟩
abbrev F.pathPairSkew_max : Fld := ⟨15, 0⟩
abbrev Reg.pathPairOnlyA (i : Nat) : Nat := 0x00B00804 + 0x10 * i
abbrev F.pathPairOnlyA_count : Fld := ⟨31, 0⟩
abbrev Reg.pathPairOnlyB (i : Nat) : Nat := 0x00B00808 + 0x10 * i
abbrev F.pathPairOnlyB_count : Fld := ⟨31, 0⟩
abbrev Reg.pathPairBoth (i : Nat) : Nat := 0x00B0080C + 0x10 * i
abbrev F.pathPairBoth_count : Fld := ⟨31, 0⟩
abbrev Reg.pathDual (i : Nat) : Nat := 0x00B01000 + 0x4 * i
abbrev F.pathDual_enable : Fld := ⟨31, 31⟩
abbrev F.pathDual_partner : Fld := ⟨11, 0⟩
abbrev Reg.pathFlowCfg (i : Nat) : Nat := 0x00B10000 + 0x10 * i
abbrev F.pathFlowCfg_single : Fld := ⟨31, 30⟩
abbrev F.pathFlowCfg_window : Fld := ⟨13, 0⟩
abbrev Reg.pathFlowBoth (i : Nat) : Nat := 0x00B10004 + 0x10 * i
abbrev F.pathFlowBoth_both : Fld := ⟨31, 0⟩
abbrev Reg.pathFlowSingle (i : Nat) : Nat := 0x00B10008 + 0x10 * i
abbrev F.pathFlowSingle_onlyA : Fld := ⟨31, 16⟩
abbrev F.pathFlowSingle_onlyB : Fld := ⟨15, 0⟩
abbrev Reg.pathFlowLost (i : Nat) : Nat := 0x00B1000C + 0x10 * i
abbrev F.pathFlowLost_lost : Fld := ⟨31, 16⟩
abbrev F.pathFlowLost_late : Fld := ⟨15, 0⟩

/-! ## Block TIME (spec file 13) -/

abbrev Reg.timeCtl : Nat := 0x00C00000
abbrev F.timeCtl_preset : Fld := ⟨31, 29⟩
abbrev F.timeCtl_source : Fld := ⟨28, 27⟩
abbrev F.timeCtl_servo : Fld := ⟨26, 26⟩
abbrev F.timeCtl_tcompEn : Fld := ⟨25, 25⟩
abbrev F.timeCtl_mech : Fld := ⟨24, 24⟩
abbrev F.timeCtl_stepMode : Fld := ⟨23, 23⟩
abbrev F.timeCtl_ipv6 : Fld := ⟨22, 22⟩
abbrev F.timeCtl_domain : Fld := ⟨7, 0⟩
abbrev Reg.timeStatus : Nat := 0x00C00004
abbrev F.timeStatus_sync : Fld := ⟨31, 30⟩
abbrev F.timeStatus_clamped : Fld := ⟨29, 29⟩
abbrev F.timeStatus_adjRefused : Fld := ⟨28, 28⟩
abbrev F.timeStatus_steps : Fld := ⟨15, 0⟩
abbrev Reg.timeOffset : Nat := 0x00C00008
abbrev F.timeOffset_ns : Fld := ⟨31, 0⟩
abbrev Reg.timePathDelay : Nat := 0x00C0000C
abbrev F.timePathDelay_ns : Fld := ⟨31, 0⟩
abbrev Reg.timeNowNs : Nat := 0x00C00010
abbrev F.timeNowNs_time : Fld := ⟨31, 0⟩
abbrev Reg.timeNowSecLo : Nat := 0x00C00014
abbrev F.timeNowSecLo_time : Fld := ⟨31, 0⟩
abbrev Reg.timeNowSecHi : Nat := 0x00C00018
abbrev F.timeNowSecHi_time : Fld := ⟨31, 0⟩
abbrev Reg.timeNowFrac : Nat := 0x00C0001C
abbrev F.timeNowFrac_time : Fld := ⟨31, 0⟩
abbrev Reg.timeIncInt : Nat := 0x00C00020
abbrev F.timeIncInt_value : Fld := ⟨31, 0⟩
abbrev Reg.timeIncFrac : Nat := 0x00C00024
abbrev F.timeIncFrac_value : Fld := ⟨31, 0⟩
abbrev Reg.timeIncEff : Nat := 0x00C00028
abbrev F.timeIncEff_value : Fld := ⟨31, 0⟩
abbrev Reg.timeServoCfg : Nat := 0x00C00030
abbrev F.timeServoCfg_lockNs : Fld := ⟨31, 16⟩
abbrev F.timeServoCfg_stepUs : Fld := ⟨15, 0⟩
abbrev Reg.timeAdj : Nat := 0x00C00040
abbrev F.timeAdj_go : Fld := ⟨31, 31⟩
abbrev F.timeAdj_mode : Fld := ⟨30, 30⟩
abbrev Reg.timeAdjNs : Nat := 0x00C00044
abbrev F.timeAdjNs_value : Fld := ⟨31, 0⟩
abbrev Reg.timeAdjSecLo : Nat := 0x00C00048
abbrev F.timeAdjSecLo_value : Fld := ⟨31, 0⟩
abbrev Reg.timeAdjSecHi : Nat := 0x00C0004C
abbrev F.timeAdjSecHi_value : Fld := ⟨31, 0⟩
abbrev Reg.timeTodCfg : Nat := 0x00C00050
abbrev F.timeTodCfg_utcSrc : Fld := ⟨31, 31⟩
abbrev F.timeTodCfg_utcOffset : Fld := ⟨30, 23⟩
abbrev F.timeTodCfg_localOffset : Fld := ⟨16, 0⟩
abbrev Reg.timeTodJam : Nat := 0x00C00054
abbrev F.timeTodJam_jam : Fld := ⟨16, 0⟩
abbrev Reg.timePpsCfg : Nat := 0x00C00058
abbrev F.timePpsCfg_outEn : Fld := ⟨31, 31⟩
abbrev F.timePpsCfg_widthMs : Fld := ⟨9, 0⟩
abbrev Reg.timeTcompCfg : Nat := 0x00C00060
abbrev F.timeTcompCfg_tsSensor : Fld := ⟨5, 0⟩
abbrev Reg.timeTcomp (i : Nat) : Nat := 0x00C00100 + 0x4 * i
abbrev F.timeTcomp_entryOdd : Fld := ⟨31, 16⟩
abbrev F.timeTcomp_entryEven : Fld := ⟨15, 0⟩
abbrev Reg.timePortCal (i : Nat) : Nat := 0x00C00200 + 0x8 * i
abbrev F.timePortCal_rxPs : Fld := ⟨31, 16⟩
abbrev F.timePortCal_txPs : Fld := ⟨15, 0⟩
abbrev Reg.timePortAsym (i : Nat) : Nat := 0x00C00204 + 0x8 * i
abbrev F.timePortAsym_asym : Fld := ⟨31, 0⟩
abbrev Reg.timeOutCfg (i : Nat) : Nat := 0x00C00400 + 0x20 * i
abbrev F.timeOutCfg_mode : Fld := ⟨31, 30⟩
abbrev F.timeOutCfg_polarity : Fld := ⟨29, 29⟩
abbrev F.timeOutCfg_skipped : Fld := ⟨15, 8⟩
abbrev F.timeOutCfg_missed : Fld := ⟨7, 0⟩
abbrev Reg.timeOutStartNs (i : Nat) : Nat := 0x00C00404 + 0x20 * i
abbrev F.timeOutStartNs_value : Fld := ⟨31, 0⟩
abbrev Reg.timeOutStartSecLo (i : Nat) : Nat := 0x00C00408 + 0x20 * i
abbrev F.timeOutStartSecLo_value : Fld := ⟨31, 0⟩
abbrev Reg.timeOutStartSecHi (i : Nat) : Nat := 0x00C0040C + 0x20 * i
abbrev F.timeOutStartSecHi_value : Fld := ⟨31, 0⟩
abbrev Reg.timeOutPerNs (i : Nat) : Nat := 0x00C00410 + 0x20 * i
abbrev F.timeOutPerNs_value : Fld := ⟨31, 0⟩
abbrev Reg.timeOutPerFrac (i : Nat) : Nat := 0x00C00414 + 0x20 * i
abbrev F.timeOutPerFrac_value : Fld := ⟨31, 0⟩
abbrev Reg.timeOutWidth (i : Nat) : Nat := 0x00C00418 + 0x20 * i
abbrev F.timeOutWidth_value : Fld := ⟨31, 0⟩
abbrev Reg.timeInCfg (i : Nat) : Nat := 0x00C00600 + 0x10 * i
abbrev F.timeInCfg_edge : Fld := ⟨31, 30⟩
abbrev F.timeInCfg_ovf : Fld := ⟨15, 8⟩
abbrev F.timeInCfg_count : Fld := ⟨4, 0⟩
abbrev Reg.timeInNs (i : Nat) : Nat := 0x00C00604 + 0x10 * i
abbrev F.timeInNs_valid : Fld := ⟨31, 31⟩
abbrev F.timeInNs_falling : Fld := ⟨30, 30⟩
abbrev F.timeInNs_ns : Fld := ⟨29, 0⟩
abbrev Reg.timeInSecLo (i : Nat) : Nat := 0x00C00608 + 0x10 * i
abbrev F.timeInSecLo_sec : Fld := ⟨31, 0⟩
abbrev Reg.timeInSecHi (i : Nat) : Nat := 0x00C0060C + 0x10 * i
abbrev F.timeInSecHi_sec : Fld := ⟨31, 0⟩

/-! ## Block MEM (spec file 14) -/

abbrev Reg.memCap : Nat := 0x00D00000
abbrev F.memCap_stacks : Fld := ⟨31, 24⟩
abbrev F.memCap_pcs : Fld := ⟨23, 16⟩
abbrev F.memCap_pcMib : Fld := ⟨15, 0⟩
abbrev Reg.memStatus : Nat := 0x00D00004
abbrev F.memStatus_trained : Fld := ⟨31, 31⟩
abbrev F.memStatus_pcsOk : Fld := ⟨27, 20⟩
abbrev F.memStatus_refresh2x : Fld := ⟨19, 16⟩
abbrev F.memStatus_frozen : Fld := ⟨15, 8⟩
abbrev Reg.memCfg : Nat := 0x00D00008
abbrev F.memCfg_preset : Fld := ⟨31, 29⟩
abbrev F.memCfg_freezeMode : Fld := ⟨28, 28⟩
abbrev F.memCfg_bwCap : Fld := ⟨27, 21⟩
abbrev F.memCfg_scrubHours : Fld := ⟨20, 13⟩
abbrev Reg.memAdmit : Nat := 0x00D0000C
abbrev F.memAdmit_peakPc : Fld := ⟨31, 25⟩
abbrev F.memAdmit_peakPermille : Fld := ⟨24, 15⟩
abbrev F.memAdmit_totalGbps : Fld := ⟨14, 0⟩
abbrev Reg.memTrainCtl : Nat := 0x00D00010
abbrev F.memTrainCtl_save : Fld := ⟨31, 31⟩
abbrev F.memTrainCtl_busy : Fld := ⟨30, 30⟩
abbrev F.memTrainCtl_policy : Fld := ⟨29, 28⟩
abbrev Reg.memThaw : Nat := 0x00D00014
abbrev F.memThaw_go : Fld := ⟨31, 31⟩
abbrev F.memThaw_pc : Fld := ⟨6, 0⟩
abbrev Reg.memOndieErr : Nat := 0x00D00018
abbrev F.memOndieErr_corrected : Fld := ⟨31, 16⟩
abbrev F.memOndieErr_uncorrected : Fld := ⟨15, 0⟩
abbrev Reg.memStackStatus (i : Nat) : Nat := 0x00D00020 + 0x4 * i
abbrev F.memStackStatus_temp : Fld := ⟨31, 24⟩
abbrev F.memStackStatus_refresh2x : Fld := ⟨23, 23⟩
abbrev Reg.memRegionCfg (i : Nat) : Nat := 0x00D00100 + 0x20 * i
abbrev F.memRegionCfg_enable : Fld := ⟨31, 31⟩
abbrev F.memRegionCfg_crew : Fld := ⟨30, 26⟩
abbrev F.memRegionCfg_grain : Fld := ⟨25, 22⟩
abbrev F.memRegionCfg_pcBase : Fld := ⟨21, 13⟩
abbrev F.memRegionCfg_pcLen : Fld := ⟨12, 4⟩
abbrev Reg.memRegionMask (i : Nat) (j : Nat) : Nat := 0x00D00104 + 0x20 * i + 0x4 * j
abbrev F.memRegionMask_pcs : Fld := ⟨31, 0⟩
abbrev Reg.memRegionUse (i : Nat) : Nat := 0x00D00114 + 0x20 * i
abbrev F.memRegionUse_usedMib : Fld := ⟨16, 0⟩
abbrev Reg.memPcStatus (i : Nat) : Nat := 0x00D00400 + 0x10 * i
abbrev F.memPcStatus_state : Fld := ⟨31, 29⟩
abbrev F.memPcStatus_eyeMin : Fld := ⟨28, 22⟩
abbrev F.memPcStatus_drift : Fld := ⟨21, 16⟩
abbrev F.memPcStatus_ce : Fld := ⟨15, 0⟩
abbrev Reg.memPcErr (i : Nat) : Nat := 0x00D00404 + 0x10 * i
abbrev F.memPcErr_ue : Fld := ⟨31, 16⟩
abbrev F.memPcErr_caParity : Fld := ⟨15, 8⟩
abbrev F.memPcErr_tagErr : Fld := ⟨7, 0⟩
abbrev Reg.memSnapInfo (i : Nat) : Nat := 0x00D01000 + 0x200 * i
abbrev F.memSnapInfo_valid : Fld := ⟨31, 31⟩
abbrev F.memSnapInfo_cause : Fld := ⟨30, 28⟩
abbrev F.memSnapInfo_pc : Fld := ⟨27, 21⟩
abbrev F.memSnapInfo_crew : Fld := ⟨20, 16⟩
abbrev F.memSnapInfo_syndrome : Fld := ⟨15, 0⟩
abbrev Reg.memSnapStroke (i : Nat) : Nat := 0x00D01004 + 0x200 * i
abbrev F.memSnapStroke_value : Fld := ⟨31, 0⟩
abbrev Reg.memSnapSector (i : Nat) : Nat := 0x00D01008 + 0x200 * i
abbrev F.memSnapSector_value : Fld := ⟨31, 0⟩
abbrev Reg.memSnapCmd (i : Nat) (j : Nat) : Nat := 0x00D01100 + 0x200 * i + 0x4 * j
abbrev F.memSnapCmd_op : Fld := ⟨31, 28⟩
abbrev F.memSnapCmd_bank : Fld := ⟨27, 22⟩
abbrev F.memSnapCmd_rowCol : Fld := ⟨21, 5⟩
abbrev F.memSnapCmd_crew : Fld := ⟨4, 0⟩

/-! ## Block SEC (spec file 15) -/

abbrev Reg.secStatus : Nat := 0x00E00000
abbrev F.secStatus_lifecycle : Fld := ⟨31, 30⟩
abbrev F.secStatus_debug : Fld := ⟨29, 28⟩
abbrev F.secStatus_state : Fld := ⟨27, 25⟩
abbrev F.secStatus_tamper : Fld := ⟨24, 24⟩
abbrev F.secStatus_zeroizePin : Fld := ⟨23, 23⟩
abbrev F.secStatus_tamperPin : Fld := ⟨22, 22⟩
abbrev F.secStatus_enrolPin : Fld := ⟨21, 21⟩
abbrev F.secStatus_auditEpoch : Fld := ⟨15, 8⟩
abbrev Reg.secSelftest : Nat := 0x00E00004
abbrev F.secSelftest_failed : Fld := ⟨31, 24⟩
abbrev F.secSelftest_passed : Fld := ⟨9, 0⟩
abbrev Reg.secCharterSeqLo : Nat := 0x00E00008
abbrev F.secCharterSeqLo_seq : Fld := ⟨31, 0⟩
abbrev Reg.secCharterSeqHi : Nat := 0x00E0000C
abbrev F.secCharterSeqHi_seq : Fld := ⟨31, 0⟩
abbrev Reg.secOrderStatus : Nat := 0x00E00010
abbrev F.secOrderStatus_state : Fld := ⟨31, 29⟩
abbrev F.secOrderStatus_lastSub : Fld := ⟨23, 16⟩
abbrev F.secOrderStatus_applied : Fld := ⟨15, 0⟩
abbrev Reg.secAuditStatus : Nat := 0x00E00014
abbrev F.secAuditStatus_backlog : Fld := ⟨31, 27⟩
abbrev F.secAuditStatus_lost : Fld := ⟨15, 0⟩
abbrev Reg.secAuditNext : Nat := 0x00E00018
abbrev F.secAuditNext_seq : Fld := ⟨31, 0⟩
abbrev Reg.secFw : Nat := 0x00E0001C
abbrev F.secFw_fwFloor : Fld := ⟨31, 16⟩
abbrev F.secFw_fwVersion : Fld := ⟨15, 0⟩
abbrev Reg.secZeroise : Nat := 0x00E00030
abbrev F.secZeroise_go : Fld := ⟨31, 31⟩
abbrev Reg.secDevUid (i : Nat) : Nat := 0x00E00020 + 0x4 * i
abbrev F.secDevUid_uid : Fld := ⟨31, 0⟩
abbrev Reg.secImportPub (i : Nat) : Nat := 0x00E00100 + 0x4 * i
abbrev F.secImportPub_key : Fld := ⟨31, 0⟩
abbrev Reg.secRolePub (i : Nat) (j : Nat) : Nat := 0x00E00200 + 0x80 * i + 0x4 * j
abbrev F.secRolePub_key : Fld := ⟨31, 0⟩
abbrev Reg.secEnrolKey (i : Nat) : Nat := 0x00E00380 + 0x4 * i
abbrev Reg.secEnrolCtl : Nat := 0x00E003F0
abbrev F.secEnrolCtl_go : Fld := ⟨31, 31⟩
abbrev F.secEnrolCtl_bad : Fld := ⟨7, 7⟩
abbrev F.secEnrolCtl_done : Fld := ⟨6, 4⟩
abbrev F.secEnrolCtl_role : Fld := ⟨1, 0⟩
abbrev Reg.secCrewPolicy (i : Nat) : Nat := 0x00E00400 + 0x4 * i
abbrev F.secCrewPolicy_preset : Fld := ⟨31, 29⟩
abbrev F.secCrewPolicy_hostPersist : Fld := ⟨28, 28⟩
abbrev F.secCrewPolicy_userRead : Fld := ⟨27, 27⟩
abbrev F.secCrewPolicy_replayContent : Fld := ⟨26, 26⟩
abbrev F.secCrewPolicy_noSurplus : Fld := ⟨25, 25⟩
abbrev F.secCrewPolicy_bePrivate : Fld := ⟨24, 24⟩
abbrev Reg.secCrewState (i : Nat) : Nat := 0x00E00480 + 0x4 * i
abbrev F.secCrewState_suspend : Fld := ⟨31, 30⟩
abbrev F.secCrewState_function : Fld := ⟨29, 29⟩
abbrev F.secCrewState_keys : Fld := ⟨12, 0⟩
abbrev Reg.secOwnSel : Nat := 0x00E00500
abbrev F.secOwnSel_class : Fld := ⟨31, 24⟩
abbrev F.secOwnSel_index : Fld := ⟨15, 0⟩
abbrev Reg.secOwnData : Nat := 0x00E00504
abbrev F.secOwnData_crew : Fld := ⟨4, 0⟩

/-! ## Block CHK (spec file 16) -/

abbrev Reg.chkCap : Nat := 0x00F00000
abbrev F.chkCap_units : Fld := ⟨7, 0⟩
abbrev Reg.chkCfg (i : Nat) : Nat := 0x00F01000 + 0x40 * i
abbrev F.chkCfg_preset : Fld := ⟨31, 29⟩
abbrev F.chkCfg_width : Fld := ⟨28, 23⟩
abbrev F.chkCfg_refin : Fld := ⟨22, 22⟩
abbrev F.chkCfg_refout : Fld := ⟨21, 21⟩
abbrev Reg.chkPoly (i : Nat) : Nat := 0x00F01004 + 0x40 * i
abbrev F.chkPoly_value : Fld := ⟨31, 0⟩
abbrev Reg.chkInit (i : Nat) : Nat := 0x00F01008 + 0x40 * i
abbrev F.chkInit_value : Fld := ⟨31, 0⟩
abbrev Reg.chkXorout (i : Nat) : Nat := 0x00F0100C + 0x40 * i
abbrev F.chkXorout_value : Fld := ⟨31, 0⟩
abbrev Reg.chkFold (i : Nat) : Nat := 0x00F01010 + 0x40 * i
abbrev F.chkFold_data : Fld := ⟨31, 0⟩
abbrev Reg.chkData8 (i : Nat) : Nat := 0x00F01014 + 0x40 * i
abbrev F.chkData8_data : Fld := ⟨31, 0⟩
abbrev Reg.chkData16 (i : Nat) : Nat := 0x00F01018 + 0x40 * i
abbrev F.chkData16_data : Fld := ⟨31, 0⟩
abbrev Reg.chkData32 (i : Nat) : Nat := 0x00F0101C + 0x40 * i
abbrev F.chkData32_data : Fld := ⟨31, 0⟩
abbrev Reg.chkResult (i : Nat) : Nat := 0x00F01020 + 0x40 * i
abbrev F.chkResult_value : Fld := ⟨31, 0⟩
abbrev Reg.chkCount (i : Nat) : Nat := 0x00F01024 + 0x40 * i
abbrev F.chkCount_value : Fld := ⟨31, 0⟩
abbrev Reg.chkStatus (i : Nat) : Nat := 0x00F01028 + 0x40 * i
abbrev F.chkStatus_busy : Fld := ⟨31, 31⟩
abbrev F.chkStatus_queue : Fld := ⟨30, 26⟩
abbrev F.chkStatus_owner : Fld := ⟨25, 21⟩

/-! ## Block THM (spec file 18) -/

abbrev Reg.thmStatus : Nat := 0x01000000
abbrev F.thmStatus_level : Fld := ⟨31, 30⟩
abbrev F.thmStatus_step : Fld := ⟨29, 26⟩
abbrev F.thmStatus_hot : Fld := ⟨25, 19⟩
abbrev F.thmStatus_badSensors : Fld := ⟨18, 12⟩
abbrev F.thmStatus_tmax : Fld := ⟨11, 0⟩
abbrev Reg.thmCfg : Nat := 0x01000004
abbrev F.thmCfg_preset : Fld := ⟨31, 29⟩
abbrev F.thmCfg_upMs : Fld := ⟨28, 24⟩
abbrev F.thmCfg_downMs : Fld := ⟨23, 16⟩
abbrev F.thmCfg_maxStep : Fld := ⟨15, 12⟩
abbrev F.thmCfg_hyst : Fld := ⟨11, 8⟩
abbrev Reg.thmLimits : Nat := 0x01000008
abbrev F.thmLimits_warn : Fld := ⟨31, 24⟩
abbrev F.thmLimits_throttle : Fld := ⟨23, 16⟩
abbrev F.thmLimits_critical : Fld := ⟨15, 8⟩
abbrev F.thmLimits_shutdown : Fld := ⟨7, 0⟩
abbrev Reg.thmSupply : Nat := 0x0100000C
abbrev F.thmSupply_hold : Fld := ⟨31, 31⟩
abbrev F.thmSupply_belowWarn : Fld := ⟨26, 16⟩
abbrev F.thmSupply_episodes : Fld := ⟨15, 0⟩
abbrev Reg.thmTs (i : Nat) : Nat := 0x01000100 + 0x4 * i
abbrev F.thmTs_valid : Fld := ⟨31, 31⟩
abbrev F.thmTs_temp : Fld := ⟨11, 0⟩
abbrev Reg.thmRail (i : Nat) : Nat := 0x01000200 + 0x4 * i
abbrev F.thmRail_minMv : Fld := ⟨31, 16⟩
abbrev F.thmRail_nowMv : Fld := ⟨15, 0⟩

/-! ## Block NVM (spec file 18) -/

abbrev Reg.nvmStatus : Nat := 0x01100000
abbrev F.nvmStatus_lastShutdown : Fld := ⟨31, 30⟩
abbrev F.nvmStatus_worn : Fld := ⟨29, 29⟩
abbrev F.nvmStatus_busy : Fld := ⟨28, 28⟩
abbrev F.nvmStatus_spares : Fld := ⟨27, 20⟩
abbrev F.nvmStatus_queued : Fld := ⟨5, 0⟩
abbrev Reg.nvmLost : Nat := 0x01100004
abbrev F.nvmLost_lost : Fld := ⟨31, 16⟩
abbrev Reg.nvmLog : Nat := 0x01100008
abbrev F.nvmLog_tokens : Fld := ⟨31, 23⟩
abbrev F.nvmLog_dropped : Fld := ⟨15, 0⟩
abbrev Reg.nvmLogSeq : Nat := 0x0110000C
abbrev F.nvmLogSeq_seq : Fld := ⟨31, 0⟩
abbrev Reg.nvmWear : Nat := 0x01100010
abbrev F.nvmWear_sector : Fld := ⟨31, 24⟩
abbrev F.nvmWear_cycles : Fld := ⟨16, 0⟩

/-! ## Block PMU (spec file 19) -/

abbrev Reg.pmuCap : Nat := 0x01200000
abbrev F.pmuCap_banks : Fld := ⟨31, 16⟩
abbrev F.pmuCap_perBank : Fld := ⟨15, 8⟩
abbrev F.pmuCap_width : Fld := ⟨7, 0⟩
abbrev Reg.pmuBankCtl (i : Nat) : Nat := 0x01201000 + 0x80 * i
abbrev F.pmuBankCtl_clear : Fld := ⟨31, 31⟩
abbrev F.pmuBankCtl_freeze : Fld := ⟨30, 30⟩
abbrev F.pmuBankCtl_refused : Fld := ⟨29, 29⟩
abbrev F.pmuBankCtl_preset : Fld := ⟨28, 26⟩
abbrev F.pmuBankCtl_owner : Fld := ⟨25, 21⟩
abbrev Reg.pmuCntCfg (i : Nat) (j : Nat) : Nat := 0x01201020 + 0x80 * i + 0x4 * j
abbrev F.pmuCntCfg_enable : Fld := ⟨31, 31⟩
abbrev F.pmuCntCfg_mode : Fld := ⟨30, 30⟩
abbrev F.pmuCntCfg_event : Fld := ⟨29, 20⟩
abbrev F.pmuCntCfg_flowEn : Fld := ⟨19, 19⟩
abbrev F.pmuCntCfg_flow : Fld := ⟨18, 7⟩
abbrev F.pmuCntCfg_crew : Fld := ⟨6, 2⟩
abbrev Reg.pmuCntLo (i : Nat) (j : Nat) : Nat := 0x01201040 + 0x80 * i + 0x8 * j
abbrev F.pmuCntLo_count : Fld := ⟨31, 0⟩
abbrev Reg.pmuCntHi (i : Nat) (j : Nat) : Nat := 0x01201044 + 0x80 * i + 0x8 * j
abbrev F.pmuCntHi_count : Fld := ⟨31, 0⟩

/-! ## Block RPL (spec file 19) -/

abbrev Reg.rplCtl : Nat := 0x01300000
abbrev F.rplCtl_replay : Fld := ⟨31, 31⟩
abbrev F.rplCtl_pace : Fld := ⟨30, 30⟩
abbrev F.rplCtl_refused : Fld := ⟨29, 29⟩
abbrev Reg.rplStartLo : Nat := 0x01300004
abbrev F.rplStartLo_stroke : Fld := ⟨31, 0⟩
abbrev Reg.rplStartHi : Nat := 0x01300008
abbrev F.rplStartHi_stroke : Fld := ⟨31, 0⟩
abbrev Reg.rplStep : Nat := 0x0130000C
abbrev F.rplStep_count : Fld := ⟨15, 0⟩
abbrev Reg.rplStatus : Nat := 0x01300010
abbrev F.rplStatus_state : Fld := ⟨31, 30⟩
abbrev F.rplStatus_late : Fld := ⟨23, 16⟩
abbrev F.rplStatus_bad : Fld := ⟨15, 8⟩
abbrev F.rplStatus_pending : Fld := ⟨7, 0⟩
abbrev Reg.rplLogStatus (i : Nat) : Nat := 0x01300100 + 0x8 * i
abbrev F.rplLogStatus_lost : Fld := ⟨31, 16⟩
abbrev F.rplLogStatus_content : Fld := ⟨15, 15⟩
abbrev Reg.rplLogSeq (i : Nat) : Nat := 0x01300104 + 0x8 * i
abbrev F.rplLogSeq_seq : Fld := ⟨31, 0⟩

/-! ## Block HIF (spec file 03) -/

abbrev Reg.hifLinkStatus : Nat := 0x01400000
abbrev F.hifLinkStatus_fullRate : Fld := ⟨12, 12⟩
abbrev F.hifLinkStatus_speed : Fld := ⟨11, 8⟩
abbrev F.hifLinkStatus_width : Fld := ⟨7, 3⟩
abbrev F.hifLinkStatus_dlUp : Fld := ⟨1, 1⟩
abbrev F.hifLinkStatus_ready : Fld := ⟨0, 0⟩
abbrev Reg.hifBwBudget : Nat := 0x01400004
abbrev F.hifBwBudget_mbps : Fld := ⟨15, 0⟩
abbrev Reg.hifBwStatus : Nat := 0x01400008
abbrev F.hifBwStatus_rdMbps : Fld := ⟨31, 16⟩
abbrev F.hifBwStatus_wrMbps : Fld := ⟨15, 0⟩
abbrev Reg.hifDbBaseLo (i : Nat) : Nat := 0x01410000 + 0x1000 * i
abbrev F.hifDbBaseLo_addr : Fld := ⟨31, 0⟩
abbrev Reg.hifDbBaseHi (i : Nat) : Nat := 0x01410004 + 0x1000 * i
abbrev F.hifDbBaseHi_addr : Fld := ⟨31, 0⟩
abbrev Reg.hifEvqBaseLo (i : Nat) : Nat := 0x01410008 + 0x1000 * i
abbrev F.hifEvqBaseLo_addr : Fld := ⟨31, 0⟩
abbrev Reg.hifEvqBaseHi (i : Nat) : Nat := 0x0141000C + 0x1000 * i
abbrev F.hifEvqBaseHi_addr : Fld := ⟨31, 0⟩
abbrev Reg.hifEvqCfg (i : Nat) : Nat := 0x01410010 + 0x1000 * i
abbrev F.hifEvqCfg_enable : Fld := ⟨31, 31⟩
abbrev F.hifEvqCfg_intEn : Fld := ⟨30, 30⟩
abbrev F.hifEvqCfg_modCount : Fld := ⟨27, 20⟩
abbrev F.hifEvqCfg_log2Size : Fld := ⟨19, 16⟩
abbrev F.hifEvqCfg_modStrokes : Fld := ⟨15, 8⟩
abbrev F.hifEvqCfg_vector : Fld := ⟨5, 0⟩
abbrev Reg.hifEvqStatus (i : Nat) : Nat := 0x01410014 + 0x1000 * i
abbrev F.hifEvqStatus_lost : Fld := ⟨31, 16⟩
abbrev F.hifEvqStatus_tail : Fld := ⟨15, 0⟩
abbrev Reg.hifCrewStatus (i : Nat) : Nat := 0x01410018 + 0x1000 * i
abbrev F.hifCrewStatus_state : Fld := ⟨31, 30⟩
abbrev F.hifCrewStatus_rings : Fld := ⟨6, 0⟩
abbrev Reg.hifSqBaseLo (i : Nat) (j : Nat) : Nat := 0x01410100 + 0x1000 * i + 0x20 * j
abbrev F.hifSqBaseLo_addr : Fld := ⟨31, 0⟩
abbrev Reg.hifSqBaseHi (i : Nat) (j : Nat) : Nat := 0x01410104 + 0x1000 * i + 0x20 * j
abbrev F.hifSqBaseHi_addr : Fld := ⟨31, 0⟩
abbrev Reg.hifCqBaseLo (i : Nat) (j : Nat) : Nat := 0x01410108 + 0x1000 * i + 0x20 * j
abbrev F.hifCqBaseLo_addr : Fld := ⟨31, 0⟩
abbrev Reg.hifCqBaseHi (i : Nat) (j : Nat) : Nat := 0x0141010C + 0x1000 * i + 0x20 * j
abbrev F.hifCqBaseHi_addr : Fld := ⟨31, 0⟩
abbrev Reg.hifRingCfg (i : Nat) (j : Nat) : Nat := 0x01410110 + 0x1000 * i + 0x20 * j
abbrev F.hifRingCfg_enable : Fld := ⟨31, 31⟩
abbrev F.hifRingCfg_preset : Fld := ⟨30, 28⟩
abbrev F.hifRingCfg_sqLog2 : Fld := ⟨27, 24⟩
abbrev F.hifRingCfg_cqLog2 : Fld := ⟨23, 20⟩
abbrev F.hifRingCfg_barDb : Fld := ⟨19, 19⟩
abbrev F.hifRingCfg_ovf : Fld := ⟨18, 18⟩
abbrev F.hifRingCfg_vector : Fld := ⟨17, 12⟩
abbrev F.hifRingCfg_intEn : Fld := ⟨11, 11⟩
abbrev Reg.hifRingMod (i : Nat) (j : Nat) : Nat := 0x01410114 + 0x1000 * i + 0x20 * j
abbrev F.hifRingMod_holdStrokes : Fld := ⟨23, 16⟩
abbrev F.hifRingMod_modStrokes : Fld := ⟨15, 8⟩
abbrev F.hifRingMod_modCount : Fld := ⟨7, 0⟩
abbrev Reg.hifRingStatus (i : Nat) (j : Nat) : Nat := 0x01410118 + 0x1000 * i + 0x20 * j
abbrev F.hifRingStatus_state : Fld := ⟨31, 30⟩
abbrev F.hifRingStatus_cfgErr : Fld := ⟨29, 29⟩
abbrev F.hifRingStatus_fetchErr : Fld := ⟨28, 28⟩
abbrev F.hifRingStatus_sqHead : Fld := ⟨15, 0⟩
abbrev Reg.hifRingStat (i : Nat) (j : Nat) : Nat := 0x0141011C + 0x1000 * i + 0x20 * j
abbrev F.hifRingStat_fetchFail : Fld := ⟨31, 24⟩
abbrev F.hifRingStat_isolated : Fld := ⟨23, 16⟩
abbrev F.hifRingStat_ovfDrop : Fld := ⟨15, 8⟩
abbrev F.hifRingStat_checkErr : Fld := ⟨7, 0⟩

end Sys2Proof.Machine
end

