-- ==== Sys2Proof/Machine/RegTable.lean ====
section
/-! DEFINITION. The register tables of the spec: for every register its instances, and for every field its access code
(R11) and its reset value. A field whose reset the spec gives as "—", "opt", "cal" or "fused" stands here with 0; what
the model does about it is named in notes/assumptions/2.md. Bits of no field are reserved and read 0 (R12). -/

namespace Sys2Proof.Machine

/-- The access codes of R11. -/
inductive Access where
  | ro | rw | rc | w1c | w1s | wo | st | lk
  deriving DecidableEq, Repr

/-- One field of a register table. -/
structure FieldSpec where
  name : String
  fld : Fld
  acc : Access
  reset : Nat
  deriving DecidableEq, Repr

/-- One register table: `dims` holds (number of instances, stride) for each index, the widest stride first;
`perFn` marks a register that holds one value per function. -/
structure RegClass where
  name : String
  base : Nat
  dims : List (Nat × Nat)
  perFn : Bool
  fields : List FieldSpec
  deriving DecidableEq, Repr

def RegTable.deviceRegs0 : List RegClass := [
  ⟨"DEVICE_ID", 0x00000000, [], false,
    [⟨"PART", F.deviceId_part, .ro, 0x6400⟩,
     ⟨"VARIANT", F.deviceId_variant, .ro, 0x0⟩,
     ⟨"STEP_MAJOR", F.deviceId_stepMajor, .ro, 0x1⟩,
     ⟨"STEP_MINOR", F.deviceId_stepMinor, .ro, 0x0⟩]⟩]

/-- The registers of block DEVICE. -/
def RegTable.device : List RegClass := RegTable.deviceRegs0

def RegTable.rstRegs0 : List RegClass := [
  ⟨"RST_STATUS", 0x00100000, [], false,
    [⟨"CONFIG_READY", F.rstStatus_configReady, .ro, 0x0⟩,
     ⟨"MEDIA_READY", F.rstStatus_mediaReady, .ro, 0x0⟩,
     ⟨"RECOVERY", F.rstStatus_recovery, .ro, 0x0⟩,
     ⟨"FW", F.rstStatus_fw, .ro, 0x0⟩,
     ⟨"CLOCK_FAULT", F.rstStatus_clockFault, .ro, 0x0⟩,
     ⟨"IN_RESET", F.rstStatus_inReset, .ro, 0x7F⟩]⟩,
  ⟨"RST_PENDING_CLK", 0x00100004, [], false,
    [⟨"SLOTS", F.rstPendingClk_slots, .ro, 0x0⟩,
     ⟨"DOMAINS", F.rstPendingClk_domains, .ro, 0x0⟩]⟩,
  ⟨"RST_CAUSE", 0x00100008, [], false,
    [⟨"SOURCES", F.rstCause_sources, .st, 0x1⟩]⟩,
  ⟨"RST_SRC_ACTIVE", 0x0010000C, [], false,
    [⟨"SOURCES", F.rstSrcActive_sources, .ro, 0x0⟩]⟩,
  ⟨"RST_WDT", 0x00100020, [], false,
    [⟨"ENABLE", F.rstWdt_enable, .rw, 0x1⟩,
     ⟨"FIRES", F.rstWdt_fires, .st, 0x0⟩,
     ⟨"TIMEOUT_MS", F.rstWdt_timeoutMs, .rw, 0x1F4⟩]⟩,
  ⟨"RST_OB_STATUS", 0x00100030, [], false,
    [⟨"SOURCE", F.rstObStatus_source, .ro, 0x0⟩,
     ⟨"VALID_A", F.rstObStatus_validA, .ro, 0x0⟩,
     ⟨"VALID_B", F.rstObStatus_validB, .ro, 0x0⟩,
     ⟨"BUSY", F.rstObStatus_busy, .ro, 0x0⟩,
     ⟨"REFUSED", F.rstObStatus_refused, .w1c, 0x0⟩]⟩,
  ⟨"RST_OB_GEN", 0x00100034, [], false,
    [⟨"GENERATION", F.rstObGen_generation, .ro, 0x0⟩]⟩,
  ⟨"RST_OB_EDIT", 0x00100038, [], false,
    [⟨"GO", F.rstObEdit_go, .w1s, 0x0⟩,
     ⟨"OFFSET", F.rstObEdit_offset, .rw, 0x0⟩,
     ⟨"VALUE", F.rstObEdit_value, .rw, 0x0⟩]⟩]

def RegTable.rstRegs1 : List RegClass := [
  ⟨"RST_BLOCK", 0x00100010, [(4, 0x4)], false,
    [⟨"ASSERT", F.rstBlock_assert, .rw, 0x0⟩,
     ⟨"CLOCK_FAULT", F.rstBlock_clockFault, .ro, 0x0⟩,
     ⟨"CLASS", F.rstBlock_class, .rw, 0x0⟩,
     ⟨"INDEX", F.rstBlock_index, .rw, 0x0⟩]⟩,
  ⟨"RST_OB", 0x00100100, [(64, 0x4)], false,
    [⟨"BYTES", F.rstOb_bytes, .ro, 0x0⟩]⟩]

/-- The registers of block RST. -/
def RegTable.rst : List RegClass := RegTable.rstRegs0 ++ RegTable.rstRegs1

def RegTable.stkRegs0 : List RegClass := [
  ⟨"STK_NOW_LO", 0x00200000, [], false,
    [⟨"NOW", F.stkNowLo_now, .ro, 0x0⟩]⟩,
  ⟨"STK_NOW_HI", 0x00200004, [], true,
    [⟨"NOW", F.stkNowHi_now, .ro, 0x0⟩]⟩,
  ⟨"STK_STATUS", 0x00200008, [], false,
    [⟨"SLEWING", F.stkStatus_slewing, .ro, 0x0⟩,
     ⟨"LIVE", F.stkStatus_live, .ro, 0x0⟩,
     ⟨"SYNC", F.stkStatus_sync, .ro, 0x0⟩]⟩,
  ⟨"STK_PHASE", 0x0020000C, [], false,
    [⟨"NS", F.stkPhase_ns, .ro, 0x0⟩]⟩,
  ⟨"STK_CTL", 0x00200010, [], false,
    [⟨"ALLOW_FREE", F.stkCtl_allowFree, .rc, 0x0⟩]⟩,
  ⟨"STK_BUDGET_CFG", 0x00200014, [], false,
    [⟨"LIVE_PRESET", F.stkBudgetCfg_livePreset, .rc, 0x0⟩,
     ⟨"LIVE_CAP", F.stkBudgetCfg_liveCap, .rc, 0x206CC⟩]⟩,
  ⟨"STK_COMMIT", 0x00200020, [], false,
    [⟨"TARGET", F.stkCommit_target, .wo, 0x0⟩]⟩,
  ⟨"STK_COMMIT_STATUS", 0x00200024, [], true,
    [⟨"REASON", F.stkCommitStatus_reason, .ro, 0x0⟩,
     ⟨"STATE", F.stkCommitStatus_state, .ro, 0x0⟩,
     ⟨"SEQ", F.stkCommitStatus_seq, .ro, 0x0⟩]⟩]

def RegTable.stkRegs1 : List RegClass := [
  ⟨"STK_COMMIT_DETAIL", 0x00200028, [], true,
    [⟨"CLASS", F.stkCommitDetail_class, .ro, 0x0⟩,
     ⟨"INDEX", F.stkCommitDetail_index, .ro, 0x0⟩,
     ⟨"OBJECT", F.stkCommitDetail_object, .ro, 0x0⟩]⟩,
  ⟨"STK_COMMIT_STROKE_LO", 0x00200030, [], true,
    [⟨"STROKE", F.stkCommitStrokeLo_stroke, .ro, 0x0⟩]⟩,
  ⟨"STK_COMMIT_STROKE_HI", 0x00200034, [], true,
    [⟨"STROKE", F.stkCommitStrokeHi_stroke, .ro, 0x0⟩]⟩,
  ⟨"STK_BANK_STATUS", 0x00200040, [], false,
    [⟨"AFFINITY", F.stkBankStatus_affinity, .ro, 0x0⟩,
     ⟨"TONE", F.stkBankStatus_tone, .ro, 0x0⟩,
     ⟨"GATE", F.stkBankStatus_gate, .ro, 0x0⟩,
     ⟨"KEY", F.stkBankStatus_key, .ro, 0x0⟩,
     ⟨"CLASSIFIER", F.stkBankStatus_classifier, .ro, 0x0⟩]⟩,
  ⟨"STK_SIDECAM_USE_0", 0x00200044, [], false,
    [⟨"TONE", F.stkSidecamUse0_tone, .ro, 0x0⟩,
     ⟨"GATE", F.stkSidecamUse0_gate, .ro, 0x0⟩,
     ⟨"KEY", F.stkSidecamUse0_key, .ro, 0x0⟩,
     ⟨"CLASSIFIER", F.stkSidecamUse0_classifier, .ro, 0x0⟩]⟩,
  ⟨"STK_SIDECAM_USE_1", 0x00200048, [], false,
    [⟨"AFFINITY", F.stkSidecamUse1_affinity, .ro, 0x0⟩]⟩,
  ⟨"STK_CREW_LOAD", 0x00200100, [(17, 0x4)], false,
    [⟨"PERCENT", F.stkCrewLoad_percent, .ro, 0x0⟩]⟩]

/-- The registers of block STK. -/
def RegTable.stk : List RegClass := RegTable.stkRegs0 ++ RegTable.stkRegs1

def RegTable.coxRegs0 : List RegClass := [
  ⟨"COX_CTL", 0x00300000, [], false,
    [⟨"MIGRATE_DEFAULT", F.coxCtl_migrateDefault, .rc, 0x1⟩]⟩,
  ⟨"COX_STORE_STATUS", 0x00300004, [], false,
    [⟨"LIVE_RESERVED", F.coxStoreStatus_liveReserved, .ro, 0x0⟩,
     ⟨"IN_USE", F.coxStoreStatus_inUse, .ro, 0x0⟩]⟩,
  ⟨"COX_BE_CFG", 0x00300008, [], false,
    [⟨"QUANTUM", F.coxBeCfg_quantum, .rc, 0x5B8E⟩]⟩,
  ⟨"COX_FINISH_CFG", 0x0030000C, [], false,
    [⟨"MARGIN_NS", F.coxFinishCfg_marginNs, .rc, 0x1388⟩]⟩,
  ⟨"COX_EVENT_CNT", 0x00300010, [], false,
    [⟨"SUBST", F.coxEventCnt_subst, .ro, 0x0⟩,
     ⟨"LATE_DROP", F.coxEventCnt_lateDrop, .ro, 0x0⟩]⟩,
  ⟨"COX_DUP_CNT", 0x00300014, [], false,
    [⟨"DUP", F.coxDupCnt_dup, .ro, 0x0⟩]⟩,
  ⟨"COX_THROTTLE", 0x00300100, [(40, 0x4)], false,
    [⟨"STEP", F.coxThrottle_step, .ro, 0x0⟩,
     ⟨"THM_STEP", F.coxThrottle_thmStep, .ro, 0x0⟩,
     ⟨"FORCE_STEP", F.coxThrottle_forceStep, .rw, 0x0⟩,
     ⟨"FORCE", F.coxThrottle_force, .rw, 0x0⟩,
     ⟨"DEGRADE", F.coxThrottle_degrade, .ro, 0x0⟩]⟩,
  ⟨"COX_UNIT_STATE", 0x00300200, [(40, 0x4)], false,
    [⟨"STATE", F.coxUnitState_state, .ro, 0x0⟩,
     ⟨"LIVE_DEMAND", F.coxUnitState_liveDemand, .ro, 0x0⟩]⟩]

def RegTable.coxRegs1 : List RegClass := [
  ⟨"COX_FLOW_CFG", 0x00310000, [(4096, 0x10)], false,
    [⟨"ENABLE", F.coxFlowCfg_enable, .rc, 0x0⟩,
     ⟨"PRESET", F.coxFlowCfg_preset, .rc, 0x0⟩,
     ⟨"RES_CLASS", F.coxFlowCfg_resClass, .rc, 0x0⟩,
     ⟨"RANK", F.coxFlowCfg_rank, .rc, 0x0⟩,
     ⟨"LIVE", F.coxFlowCfg_live, .rc, 0x0⟩,
     ⟨"ATOMIC", F.coxFlowCfg_atomic, .rc, 0x1⟩,
     ⟨"SUBST", F.coxFlowCfg_subst, .rc, 0x0⟩,
     ⟨"NEED", F.coxFlowCfg_need, .rc, 0x1⟩,
     ⟨"CREW", F.coxFlowCfg_crew, .ro, 0x0⟩,
     ⟨"RESERVE", F.coxFlowCfg_reserve, .ro, 0x0⟩]⟩,
  ⟨"COX_FLOW_DL", 0x00310004, [(4096, 0x10)], false,
    [⟨"REL_OFF", F.coxFlowDl_relOff, .rc, 0x1⟩,
     ⟨"FIN_OFF", F.coxFlowDl_finOff, .rc, 0x2⟩,
     ⟨"BE_TIMEOUT", F.coxFlowDl_beTimeout, .rc, 0x1F40⟩]⟩,
  ⟨"COX_FLOW_AFF", 0x00310008, [(4096, 0x10)], false,
    [⟨"HOME_REQ", F.coxFlowAff_homeReq, .rc, 0x3F⟩,
     ⟨"HOME", F.coxFlowAff_home, .ro, 0x0⟩,
     ⟨"LAST", F.coxFlowAff_last, .ro, 0x0⟩,
     ⟨"MIGRATE", F.coxFlowAff_migrate, .rc, 0x0⟩]⟩,
  ⟨"COX_FLOW_STAT", 0x0031000C, [(4096, 0x10)], false,
    [⟨"ENTRIES", F.coxFlowStat_entries, .ro, 0x0⟩,
     ⟨"READY", F.coxFlowStat_ready, .ro, 0x0⟩,
     ⟨"SUBST", F.coxFlowStat_subst, .ro, 0x0⟩]⟩]

/-- The registers of block COX. -/
def RegTable.cox : List RegClass := RegTable.coxRegs0 ++ RegTable.coxRegs1

def RegTable.encRegs0 : List RegClass := [
  ⟨"ENC_CAP", 0x00400000, [], false,
    [⟨"HEVC_LEVEL", F.encCap_hevcLevel, .ro, 0xBA⟩,
     ⟨"VVC_LEVEL", F.encCap_vvcLevel, .ro, 0x66⟩,
     ⟨"SEATS", F.encCap_seats, .ro, 0x20⟩]⟩,
  ⟨"ENC_ADMIT", 0x00400004, [], false,
    [⟨"CHANNELS", F.encAdmit_channels, .ro, 0x0⟩,
     ⟨"LOAD_MILLI", F.encAdmit_loadMilli, .ro, 0x0⟩]⟩,
  ⟨"ENC_CH_CFG", 0x00410000, [(256, 0x80)], false,
    [⟨"ENABLE", F.encChCfg_enable, .rc, 0x0⟩,
     ⟨"PRESET", F.encChCfg_preset, .rc, 0x0⟩,
     ⟨"LIVE", F.encChCfg_live, .rc, 0x0⟩,
     ⟨"CLASS", F.encChCfg_class, .rc, 0x0⟩,
     ⟨"CODEC", F.encChCfg_codec, .rc, 0x0⟩,
     ⟨"PROFILE", F.encChCfg_profile, .rc, 0x0⟩,
     ⟨"TIER", F.encChCfg_tier, .rc, 0x0⟩,
     ⟨"LEVEL", F.encChCfg_level, .rc, 0x0⟩,
     ⟨"CTU", F.encChCfg_ctu, .rc, 0x0⟩,
     ⟨"HEAD_N", F.encChCfg_headN, .rc, 0x0⟩]⟩,
  ⟨"ENC_CH_FMT", 0x00410004, [(256, 0x80)], false,
    [⟨"WIDTH", F.encChFmt_width, .rc, 0x0⟩,
     ⟨"HEIGHT", F.encChFmt_height, .rc, 0x0⟩]⟩,
  ⟨"ENC_CH_TIME", 0x00410008, [(256, 0x80)], false,
    [⟨"NUM", F.encChTime_num, .rc, 0x0⟩,
     ⟨"DEN", F.encChTime_den, .rc, 0x0⟩]⟩,
  ⟨"ENC_CH_SRC", 0x0041000C, [(256, 0x80)], false,
    [⟨"HOST_COPY", F.encChSrc_hostCopy, .rc, 0x0⟩,
     ⟨"SRC_TYPE", F.encChSrc_srcType, .rc, 0x0⟩,
     ⟨"SRC_FMT", F.encChSrc_srcFmt, .rc, 0x0⟩,
     ⟨"SRC_INDEX", F.encChSrc_srcIndex, .rc, 0x0⟩]⟩,
  ⟨"ENC_CH_DIV", 0x00410010, [(256, 0x80)], false,
    [⟨"DIVISION", F.encChDiv_division, .rc, 0x0⟩,
     ⟨"PIECES", F.encChDiv_pieces, .rc, 0x0⟩,
     ⟨"FIRST_REQ", F.encChDiv_firstReq, .rc, 0x3F⟩,
     ⟨"SUBPIC", F.encChDiv_subpic, .rc, 0x0⟩]⟩,
  ⟨"ENC_CH_CODE", 0x00410014, [(256, 0x80)], false,
    [⟨"IRAP_PERIOD", F.encChCode_irapPeriod, .rc, 0x0⟩,
     ⟨"REFRESH", F.encChCode_refresh, .rc, 0x0⟩,
     ⟨"ROLL_FRAMES", F.encChCode_rollFrames, .rc, 0x0⟩]⟩]

def RegTable.encRegs1 : List RegClass := [
  ⟨"ENC_CH_TOOL_OFF", 0x00410018, [(256, 0x80)], false,
    [⟨"TOOL_OFF", F.encChToolOff_toolOff, .rc, 0x0⟩]⟩,
  ⟨"ENC_CH_SEI", 0x0041001C, [(256, 0x80)], false,
    [⟨"TC_SOURCE", F.encChSei_tcSource, .rc, 0x0⟩,
     ⟨"CAPTION_FLOW", F.encChSei_captionFlow, .rc, 0x0⟩,
     ⟨"TRANSFER", F.encChSei_transfer, .rc, 0x0⟩,
     ⟨"CAPTIONS", F.encChSei_captions, .rc, 0x0⟩,
     ⟨"CLL", F.encChSei_cll, .rc, 0x0⟩,
     ⟨"MDCV", F.encChSei_mdcv, .rc, 0x0⟩,
     ⟨"TIMECODE", F.encChSei_timecode, .rc, 0x1⟩]⟩,
  ⟨"ENC_CH_RESOLVED", 0x00410024, [(256, 0x80)], false,
    [⟨"LEVEL_IDC", F.encChResolved_levelIdc, .ro, 0x0⟩,
     ⟨"PROFILE", F.encChResolved_profile, .ro, 0x0⟩,
     ⟨"DIVISION", F.encChResolved_division, .ro, 0x0⟩,
     ⟨"PIECES", F.encChResolved_pieces, .ro, 0x0⟩,
     ⟨"FIRST_SEAT", F.encChResolved_firstSeat, .ro, 0x0⟩,
     ⟨"CTU", F.encChResolved_ctu, .ro, 0x0⟩]⟩,
  ⟨"ENC_CH_STATUS", 0x00410028, [(256, 0x80)], false,
    [⟨"STATE", F.encChStatus_state, .ro, 0x0⟩,
     ⟨"SRC_MISMATCH", F.encChStatus_srcMismatch, .ro, 0x0⟩,
     ⟨"STREAM", F.encChStatus_stream, .ro, 0x0⟩,
     ⟨"LOAD_MILLI", F.encChStatus_loadMilli, .ro, 0x0⟩]⟩,
  ⟨"ENC_CH_ME", 0x00410040, [(256, 0x80)], false,
    [⟨"PRESET", F.encChMe_preset, .rc, 0x1⟩,
     ⟨"MODE", F.encChMe_mode, .rc, 0x2⟩,
     ⟨"REFS", F.encChMe_refs, .rc, 0x2⟩,
     ⟨"HALO_SHARE", F.encChMe_haloShare, .rc, 0x1⟩]⟩,
  ⟨"ENC_CH_ME_HIER", 0x00410044, [(256, 0x80)], false,
    [⟨"HIER_H", F.encChMeHier_hierH, .rc, 0x200⟩,
     ⟨"HIER_V", F.encChMeHier_hierV, .rc, 0x100⟩]⟩,
  ⟨"ENC_CH_ME_WIN", 0x00410048, [(256, 0x80)], false,
    [⟨"WIN_H", F.encChMeWin_winH, .rc, 0x200⟩,
     ⟨"WIN_V", F.encChMeWin_winV, .rc, 0x100⟩,
     ⟨"WIN_S", F.encChMeWin_winS, .rc, 0x4⟩]⟩,
  ⟨"ENC_CH_ME_COST", 0x0041004C, [(256, 0x80)], false,
    [⟨"UNITS", F.encChMeCost_units, .ro, 0x0⟩,
     ⟨"CUT_UNITS", F.encChMeCost_cutUnits, .ro, 0x0⟩]⟩]

def RegTable.encRegs2 : List RegClass := [
  ⟨"ENC_CH_ME_MEM", 0x00410050, [(256, 0x80)], false,
    [⟨"WIN_KIB", F.encChMeMem_winKib, .ro, 0x0⟩,
     ⟨"BUDGET", F.encChMeMem_budget, .ro, 0x0⟩]⟩,
  ⟨"ENC_CH_RC", 0x00410060, [(256, 0x80)], false,
    [⟨"PRESET", F.encChRc_preset, .rc, 0x1⟩,
     ⟨"MODE", F.encChRc_mode, .rc, 0x0⟩,
     ⟨"SCENECUT", F.encChRc_scenecut, .rc, 0x1⟩,
     ⟨"CUT_IRAP", F.encChRc_cutIrap, .rc, 0x0⟩,
     ⟨"QP_MIN", F.encChRc_qpMin, .rc, 0xC⟩,
     ⟨"QP_MAX", F.encChRc_qpMax, .rc, 0x4B⟩]⟩,
  ⟨"ENC_CH_RATE", 0x00410064, [(256, 0x80)], false,
    [⟨"BIT_RATE", F.encChRate_bitRate, .rc, 0x0⟩]⟩,
  ⟨"ENC_CH_TARGET", 0x00410068, [(256, 0x80)], false,
    [⟨"TARGET_RATE", F.encChTarget_targetRate, .rc, 0x0⟩]⟩,
  ⟨"ENC_CH_CPB", 0x0041006C, [(256, 0x80)], false,
    [⟨"CPB_BITS", F.encChCpb_cpbBits, .ro, 0x0⟩]⟩,
  ⟨"ENC_CH_SLOT", 0x00410070, [(256, 0x80)], false,
    [⟨"TICK_DIV", F.encChSlot_tickDiv, .ro, 0x0⟩,
     ⟨"SLOT_MIN_BYTES", F.encChSlot_slotMinBytes, .ro, 0x0⟩]⟩,
  ⟨"ENC_CH_FLOOR", 0x00410074, [(256, 0x80)], false,
    [⟨"FLOOR_BITS", F.encChFloor_floorBits, .ro, 0x0⟩,
     ⟨"HDR_BITS", F.encChFloor_hdrBits, .ro, 0x0⟩]⟩,
  ⟨"ENC_CH_RC_STAT", 0x00410078, [(256, 0x80)], false,
    [⟨"FLOOR_PICS", F.encChRcStat_floorPics, .ro, 0x0⟩,
     ⟨"QP_LAST", F.encChRcStat_qpLast, .ro, 0x0⟩]⟩]

/-- The registers of block ENC. -/
def RegTable.enc : List RegClass := RegTable.encRegs0 ++ RegTable.encRegs1 ++ RegTable.encRegs2

def RegTable.decRegs0 : List RegClass := [
  ⟨"DEC_CAP", 0x00500000, [], false,
    [⟨"HEVC_LEVEL", F.decCap_hevcLevel, .ro, 0x9C⟩,
     ⟨"VVC_LEVEL", F.decCap_vvcLevel, .ro, 0x56⟩,
     ⟨"DSEATS", F.decCap_dseats, .ro, 0x8⟩,
     ⟨"CHANNELS", F.decCap_channels, .ro, 0x40⟩]⟩,
  ⟨"DEC_ADMIT", 0x00500004, [], false,
    [⟨"CHANNELS", F.decAdmit_channels, .ro, 0x0⟩,
     ⟨"LOAD_MILLI", F.decAdmit_loadMilli, .ro, 0x0⟩]⟩,
  ⟨"DEC_POOL_MEM", 0x00500008, [], false,
    [⟨"MIB", F.decPoolMem_mib, .ro, 0x0⟩]⟩,
  ⟨"DEC_CH_CFG", 0x00510000, [(64, 0x40)], false,
    [⟨"ENABLE", F.decChCfg_enable, .rc, 0x0⟩,
     ⟨"PRESET", F.decChCfg_preset, .rc, 0x0⟩,
     ⟨"CODEC", F.decChCfg_codec, .rc, 0x0⟩,
     ⟨"PROFILE", F.decChCfg_profile, .rc, 0x2⟩,
     ⟨"LEVEL", F.decChCfg_level, .rc, 0x0⟩,
     ⟨"DPB_MAX", F.decChCfg_dpbMax, .rc, 0x6⟩,
     ⟨"REORDER", F.decChCfg_reorder, .rc, 0x0⟩,
     ⟨"CHROMA", F.decChCfg_chroma, .rc, 0x0⟩,
     ⟨"GDR_START", F.decChCfg_gdrStart, .rc, 0x0⟩,
     ⟨"GDR_CLEARS", F.decChCfg_gdrClears, .rc, 0x0⟩]⟩,
  ⟨"DEC_CH_FMT", 0x00510004, [(64, 0x40)], false,
    [⟨"WIDTH", F.decChFmt_width, .rc, 0x0⟩,
     ⟨"HEIGHT", F.decChFmt_height, .rc, 0x0⟩]⟩,
  ⟨"DEC_CH_TIME", 0x00510008, [(64, 0x40)], false,
    [⟨"NUM", F.decChTime_num, .rc, 0x0⟩,
     ⟨"DEN", F.decChTime_den, .rc, 0x0⟩]⟩,
  ⟨"DEC_CH_SRC", 0x0051000C, [(64, 0x40)], false,
    [⟨"FLOW", F.decChSrc_flow, .rc, 0x0⟩]⟩,
  ⟨"DEC_CH_RATE", 0x00510010, [(64, 0x40)], false,
    [⟨"MAX_RATE", F.decChRate_maxRate, .rc, 0x0⟩]⟩]

def RegTable.decRegs1 : List RegClass := [
  ⟨"DEC_CH_TIMING", 0x00510014, [(64, 0x40)], false,
    [⟨"ARRIVE_OFF", F.decChTiming_arriveOff, .rc, 0x7D0⟩,
     ⟨"WIN", F.decChTiming_win, .rc, 0x0⟩,
     ⟨"PRES_ADD", F.decChTiming_presAdd, .rc, 0x0⟩]⟩,
  ⟨"DEC_CH_RESOLVED", 0x00510018, [(64, 0x40)], false,
    [⟨"WIN", F.decChResolved_win, .ro, 0x0⟩,
     ⟨"REL_OFF", F.decChResolved_relOff, .ro, 0x0⟩,
     ⟨"PRES", F.decChResolved_pres, .ro, 0x0⟩,
     ⟨"BUFFERS", F.decChResolved_buffers, .ro, 0x0⟩,
     ⟨"DSEAT", F.decChResolved_dseat, .ro, 0x0⟩]⟩,
  ⟨"DEC_CH_STATUS", 0x0051001C, [(64, 0x40)], false,
    [⟨"STATE", F.decChStatus_state, .ro, 0x0⟩,
     ⟨"TAINT", F.decChStatus_taint, .ro, 0x0⟩,
     ⟨"STREAM", F.decChStatus_stream, .ro, 0x0⟩,
     ⟨"LOAD_MILLI", F.decChStatus_loadMilli, .ro, 0x0⟩]⟩,
  ⟨"DEC_CH_COUNT", 0x00510020, [(64, 0x40)], false,
    [⟨"HELD", F.decChCount_held, .ro, 0x0⟩,
     ⟨"CONCEALED", F.decChCount_concealed, .ro, 0x0⟩]⟩,
  ⟨"DEC_POOL_CFG", 0x00520000, [(320, 0x10)], false,
    [⟨"REF_COUNT", F.decPoolCfg_refCount, .rc, 0x0⟩]⟩,
  ⟨"DEC_POOL_STATUS", 0x00520004, [(320, 0x10)], false,
    [⟨"BUFFERS", F.decPoolStatus_buffers, .ro, 0x0⟩,
     ⟨"FREE", F.decPoolStatus_free, .ro, 0x0⟩,
     ⟨"SHORT", F.decPoolStatus_short, .ro, 0x0⟩,
     ⟨"LONG", F.decPoolStatus_long, .ro, 0x0⟩,
     ⟨"OUT_PENDING", F.decPoolStatus_outPending, .ro, 0x0⟩,
     ⟨"HELD", F.decPoolStatus_held, .ro, 0x0⟩]⟩,
  ⟨"DEC_POOL_SIZE", 0x00520008, [(320, 0x10)], false,
    [⟨"BUF_KIB", F.decPoolSize_bufKib, .ro, 0x0⟩]⟩]

/-- The registers of block DEC. -/
def RegTable.dec : List RegClass := RegTable.decRegs0 ++ RegTable.decRegs1

def RegTable.cmpRegs0 : List RegClass := [
  ⟨"CMP_CAP", 0x00600000, [], false,
    [⟨"PROGS", F.cmpCap_progs, .ro, 0x10⟩,
     ⟨"LAYERS", F.cmpCap_layers, .ro, 0x80⟩,
     ⟨"SCALERS", F.cmpCap_scalers, .ro, 0x80⟩,
     ⟨"TAPS", F.cmpCap_taps, .ro, 0x40⟩]⟩,
  ⟨"CMP_ADMIT", 0x00600004, [], false,
    [⟨"LAYERS", F.cmpAdmit_layers, .ro, 0x0⟩,
     ⟨"LAYER_SCL", F.cmpAdmit_layerScl, .ro, 0x0⟩,
     ⟨"TAP_SCL", F.cmpAdmit_tapScl, .ro, 0x0⟩,
     ⟨"PIPES", F.cmpAdmit_pipes, .ro, 0x0⟩]⟩,
  ⟨"CMP_LOAD", 0x00600008, [], false,
    [⟨"LOAD_MILLI", F.cmpLoad_loadMilli, .ro, 0x0⟩]⟩,
  ⟨"CMP_MEM", 0x0060000C, [], false,
    [⟨"MIB", F.cmpMem_mib, .ro, 0x0⟩]⟩,
  ⟨"CMP_PROG_CFG", 0x00610000, [(16, 0x1000)], false,
    [⟨"ENABLE", F.cmpProgCfg_enable, .rc, 0x0⟩,
     ⟨"PRESET", F.cmpProgCfg_preset, .rc, 0x0⟩,
     ⟨"GANG", F.cmpProgCfg_gang, .rc, 0x0⟩,
     ⟨"EGRESS", F.cmpProgCfg_egress, .rc, 0x1⟩]⟩,
  ⟨"CMP_PROG_FMT", 0x00610004, [(16, 0x1000)], false,
    [⟨"WIDTH", F.cmpProgFmt_width, .rc, 0x0⟩,
     ⟨"HEIGHT", F.cmpProgFmt_height, .rc, 0x0⟩]⟩,
  ⟨"CMP_PROG_TIME", 0x00610008, [(16, 0x1000)], false,
    [⟨"NUM", F.cmpProgTime_num, .rc, 0x0⟩,
     ⟨"DEN", F.cmpProgTime_den, .rc, 0x0⟩]⟩,
  ⟨"CMP_PROG_OUT", 0x0061000C, [(16, 0x1000)], false,
    [⟨"FORM", F.cmpProgOut_form, .rc, 0x0⟩,
     ⟨"TRANSFER", F.cmpProgOut_transfer, .rc, 0x0⟩,
     ⟨"DEPTH", F.cmpProgOut_depth, .rc, 0xA⟩,
     ⟨"DITHER", F.cmpProgOut_dither, .rc, 0x0⟩,
     ⟨"SDR_WHITE", F.cmpProgOut_sdrWhite, .rc, 0xCB⟩]⟩]

def RegTable.cmpRegs1 : List RegClass := [
  ⟨"CMP_PROG_LAG", 0x00610010, [(16, 0x1000)], false,
    [⟨"LAG_REQ", F.cmpProgLag_lagReq, .rc, 0x0⟩,
     ⟨"ARRIVE", F.cmpProgLag_arrive, .rc, 0x32⟩]⟩,
  ⟨"CMP_PROG_BG", 0x00610014, [(16, 0x1000)], false,
    [⟨"RGB", F.cmpProgBg_rgb, .rc, 0x0⟩]⟩,
  ⟨"CMP_PROG_FILL", 0x00610018, [(16, 0x1000)], false,
    [⟨"RGB", F.cmpProgFill_rgb, .rc, 0x0⟩]⟩,
  ⟨"CMP_PROG_EGRESS", 0x0061001C, [(16, 0x1000)], false,
    [⟨"QUEUE", F.cmpProgEgress_queue, .rc, 0x0⟩,
     ⟨"PACING", F.cmpProgEgress_pacing, .rc, 0x0⟩]⟩,
  ⟨"CMP_PROG_ZONE", 0x00610020, [(16, 0x1000)], false,
    [⟨"LINES", F.cmpProgZone_lines, .rc, 0x0⟩]⟩,
  ⟨"CMP_PROG_ZONE_MAX", 0x00610024, [(16, 0x1000)], false,
    [⟨"LINES", F.cmpProgZoneMax_lines, .rc, 0x0⟩]⟩,
  ⟨"CMP_PROG_ZONE_AUD", 0x00610028, [(16, 0x1000)], false,
    [⟨"AUD_GROUP", F.cmpProgZoneAud_audGroup, .rc, 0xFF⟩,
     ⟨"AUD_TRIM", F.cmpProgZoneAud_audTrim, .rc, 0x0⟩]⟩,
  ⟨"CMP_PROG_RESOLVED", 0x0061002C, [(16, 0x1000)], false,
    [⟨"LAG", F.cmpProgResolved_lag, .ro, 0x0⟩,
     ⟨"GANG", F.cmpProgResolved_gang, .ro, 0x0⟩,
     ⟨"FIRST_PIPE", F.cmpProgResolved_firstPipe, .ro, 0x0⟩]⟩]

def RegTable.cmpRegs2 : List RegClass := [
  ⟨"CMP_PROG_STAKE", 0x00610030, [(16, 0x1000)], false,
    [⟨"STAKE_NS", F.cmpProgStake_stakeNs, .ro, 0x0⟩]⟩,
  ⟨"CMP_PROG_STATUS", 0x00610034, [(16, 0x1000)], false,
    [⟨"STATE", F.cmpProgStatus_state, .ro, 0x0⟩,
     ⟨"STREAM", F.cmpProgStatus_stream, .ro, 0x0⟩,
     ⟨"DARK", F.cmpProgStatus_dark, .ro, 0x0⟩]⟩,
  ⟨"CMP_PROG_COUNT", 0x00610038, [(16, 0x1000)], false,
    [⟨"STRIPS_HELD", F.cmpProgCount_stripsHeld, .ro, 0x0⟩,
     ⟨"ZONE_SKIPPED", F.cmpProgCount_zoneSkipped, .ro, 0x0⟩]⟩,
  ⟨"CMP_LAYER_CFG", 0x00610400, [(16, 0x1000), (16, 0x40)], false,
    [⟨"ENABLE", F.cmpLayerCfg_enable, .rc, 0x0⟩,
     ⟨"SRC_TYPE", F.cmpLayerCfg_srcType, .rc, 0x0⟩,
     ⟨"ALPHA", F.cmpLayerCfg_alpha, .rc, 0x0⟩,
     ⟨"GLOBAL_ALPHA", F.cmpLayerCfg_globalAlpha, .rc, 0x3FF⟩,
     ⟨"FLIP_GROUP", F.cmpLayerCfg_flipGroup, .rc, 0x0⟩,
     ⟨"MISS", F.cmpLayerCfg_miss, .rc, 0x0⟩,
     ⟨"PAIR", F.cmpLayerCfg_pair, .rc, 0x0⟩]⟩,
  ⟨"CMP_LAYER_SRC", 0x00610404, [(16, 0x1000), (16, 0x40)], false,
    [⟨"SRC_FMT", F.cmpLayerSrc_srcFmt, .rc, 0x0⟩,
     ⟨"SRC_INDEX", F.cmpLayerSrc_srcIndex, .rc, 0x0⟩]⟩,
  ⟨"CMP_LAYER_SIZE", 0x00610408, [(16, 0x1000), (16, 0x40)], false,
    [⟨"W", F.cmpLayerSize_w, .rc, 0x0⟩,
     ⟨"H", F.cmpLayerSize_h, .rc, 0x0⟩]⟩,
  ⟨"CMP_LAYER_CROP_XY", 0x0061040C, [(16, 0x1000), (16, 0x40)], false,
    [⟨"X", F.cmpLayerCropXy_x, .rc, 0x0⟩,
     ⟨"Y", F.cmpLayerCropXy_y, .rc, 0x0⟩]⟩,
  ⟨"CMP_LAYER_CROP_WH", 0x00610410, [(16, 0x1000), (16, 0x40)], false,
    [⟨"W", F.cmpLayerCropWh_w, .rc, 0x0⟩,
     ⟨"H", F.cmpLayerCropWh_h, .rc, 0x0⟩]⟩]

def RegTable.cmpRegs3 : List RegClass := [
  ⟨"CMP_LAYER_DST_XY", 0x00610414, [(16, 0x1000), (16, 0x40)], false,
    [⟨"X", F.cmpLayerDstXy_x, .rc, 0x0⟩,
     ⟨"Y", F.cmpLayerDstXy_y, .rc, 0x0⟩]⟩,
  ⟨"CMP_LAYER_DST_WH", 0x00610418, [(16, 0x1000), (16, 0x40)], false,
    [⟨"W", F.cmpLayerDstWh_w, .rc, 0x0⟩,
     ⟨"H", F.cmpLayerDstWh_h, .rc, 0x0⟩]⟩,
  ⟨"CMP_LAYER_COLOUR", 0x0061041C, [(16, 0x1000), (16, 0x40)], false,
    [⟨"PRESET", F.cmpLayerColour_preset, .rc, 0x1⟩,
     ⟨"TRANSFER_IN", F.cmpLayerColour_transferIn, .rc, 0x0⟩,
     ⟨"YCC", F.cmpLayerColour_ycc, .rc, 0x0⟩,
     ⟨"GAMUT", F.cmpLayerColour_gamut, .rc, 0x1⟩,
     ⟨"TONE", F.cmpLayerColour_tone, .rc, 0x0⟩]⟩,
  ⟨"CMP_LAYER_STATUS", 0x00610420, [(16, 0x1000), (16, 0x40)], false,
    [⟨"STATE", F.cmpLayerStatus_state, .ro, 0x0⟩,
     ⟨"SCALER", F.cmpLayerStatus_scaler, .ro, 0x7F⟩,
     ⟨"PAIRED", F.cmpLayerStatus_paired, .ro, 0x0⟩,
     ⟨"LINES", F.cmpLayerStatus_lines, .ro, 0x0⟩,
     ⟨"DARK_CAUSE", F.cmpLayerStatus_darkCause, .ro, 0x0⟩]⟩,
  ⟨"CMP_TAP_CFG", 0x00610800, [(16, 0x1000), (4, 0x20)], false,
    [⟨"ENABLE", F.cmpTapCfg_enable, .rc, 0x0⟩,
     ⟨"FMT", F.cmpTapCfg_fmt, .rc, 0x0⟩,
     ⟨"PAIR", F.cmpTapCfg_pair, .rc, 0x0⟩,
     ⟨"D_TAP", F.cmpTapCfg_dTap, .rc, 0x0⟩]⟩,
  ⟨"CMP_TAP_FMT", 0x00610804, [(16, 0x1000), (4, 0x20)], false,
    [⟨"W", F.cmpTapFmt_w, .rc, 0x0⟩,
     ⟨"H", F.cmpTapFmt_h, .rc, 0x0⟩]⟩,
  ⟨"CMP_TAP_RESOLVED", 0x00610808, [(16, 0x1000), (4, 0x20)], false,
    [⟨"D_TAP", F.cmpTapResolved_dTap, .ro, 0x0⟩,
     ⟨"LINES", F.cmpTapResolved_lines, .ro, 0x0⟩,
     ⟨"PAIRED", F.cmpTapResolved_paired, .ro, 0x0⟩]⟩]

/-- The registers of block CMP. -/
def RegTable.cmp : List RegClass := RegTable.cmpRegs0 ++ RegTable.cmpRegs1 ++ RegTable.cmpRegs2 ++ RegTable.cmpRegs3

def RegTable.audRegs0 : List RegClass := [
  ⟨"AUD_CAP", 0x00700000, [], false,
    [⟨"AES_IN", F.audCap_aesIn, .ro, 0x20⟩,
     ⟨"AES_OUT", F.audCap_aesOut, .ro, 0x20⟩,
     ⟨"TDM", F.audCap_tdm, .ro, 0x8⟩,
     ⟨"ASRC", F.audCap_asrc, .ro, 0x100⟩]⟩,
  ⟨"AUD_ADMIT", 0x00700004, [], false,
    [⟨"NET_IN_CH", F.audAdmit_netInCh, .ro, 0x0⟩,
     ⟨"NET_OUT_CH", F.audAdmit_netOutCh, .ro, 0x0⟩,
     ⟨"ASRC", F.audAdmit_asrc, .ro, 0x0⟩]⟩,
  ⟨"AUD_CLK_CFG", 0x00700010, [], false,
    [⟨"ROLE", F.audClkCfg_role, .rc, 0x0⟩,
     ⟨"AES_SRC", F.audClkCfg_aesSrc, .rc, 0x0⟩,
     ⟨"HOUSE_RATE", F.audClkCfg_houseRate, .rc, 0x1⟩,
     ⟨"MCLK_X", F.audClkCfg_mclkX, .rc, 0x0⟩,
     ⟨"MCLK_OUT_EN", F.audClkCfg_mclkOutEn, .rc, 0x0⟩,
     ⟨"WCLK_OUT_EN", F.audClkCfg_wclkOutEn, .rc, 0x0⟩,
     ⟨"RESTORE_MS", F.audClkCfg_restoreMs, .rc, 0x3E8⟩]⟩,
  ⟨"AUD_CLK_STATUS", 0x00700014, [], false,
    [⟨"HOUSE", F.audClkStatus_house, .ro, 0x0⟩,
     ⟨"MUTED", F.audClkStatus_muted, .ro, 0x0⟩,
     ⟨"EXT_PRESENT", F.audClkStatus_extPresent, .ro, 0x0⟩,
     ⟨"PPM", F.audClkStatus_ppm, .ro, 0x0⟩]⟩,
  ⟨"AUD_AESI_CFG", 0x00701000, [(32, 0x80)], false,
    [⟨"ENABLE", F.audAesiCfg_enable, .rc, 0x0⟩,
     ⟨"STREAM", F.audAesiCfg_stream, .ro, 0x0⟩]⟩,
  ⟨"AUD_AESI_STATUS", 0x00701004, [(32, 0x80)], false,
    [⟨"LOCK", F.audAesiStatus_lock, .ro, 0x0⟩,
     ⟨"RATE", F.audAesiStatus_rate, .ro, 0x0⟩,
     ⟨"PRO_A", F.audAesiStatus_proA, .ro, 0x0⟩,
     ⟨"PRO_B", F.audAesiStatus_proB, .ro, 0x0⟩,
     ⟨"CRC_ERR", F.audAesiStatus_crcErr, .ro, 0x0⟩,
     ⟨"PARITY_ERR", F.audAesiStatus_parityErr, .ro, 0x0⟩]⟩,
  ⟨"AUD_AESI_CS_A", 0x00701020, [(32, 0x80), (6, 0x4)], false,
    [⟨"BYTES", F.audAesiCsA_bytes, .ro, 0x0⟩]⟩,
  ⟨"AUD_AESI_CS_B", 0x00701038, [(32, 0x80), (6, 0x4)], false,
    [⟨"BYTES", F.audAesiCsB_bytes, .ro, 0x0⟩]⟩]

def RegTable.audRegs1 : List RegClass := [
  ⟨"AUD_AESO_CFG", 0x00702000, [(32, 0x20)], false,
    [⟨"ENABLE", F.audAesoCfg_enable, .rc, 0x0⟩,
     ⟨"CS_PRESET", F.audAesoCfg_csPreset, .rc, 0x1⟩,
     ⟨"V_MARK", F.audAesoCfg_vMark, .rc, 0x1⟩,
     ⟨"STREAM", F.audAesoCfg_stream, .ro, 0x0⟩]⟩,
  ⟨"AUD_AESO_STATUS", 0x00702004, [(32, 0x20)], false,
    [⟨"MUTED", F.audAesoStatus_muted, .ro, 0x0⟩,
     ⟨"ASRC", F.audAesoStatus_asrc, .ro, 0x0⟩]⟩,
  ⟨"AUD_AESO_CS", 0x00702008, [(32, 0x20), (6, 0x4)], false,
    [⟨"BYTES", F.audAesoCs_bytes, .rc, 0x0⟩]⟩,
  ⟨"AUD_TDM_CFG", 0x00702800, [(8, 0x10)], false,
    [⟨"ENABLE", F.audTdmCfg_enable, .rc, 0x0⟩,
     ⟨"PRESET", F.audTdmCfg_preset, .rc, 0x0⟩,
     ⟨"ROLE", F.audTdmCfg_role, .rc, 0x0⟩,
     ⟨"SLOTS", F.audTdmCfg_slots, .rc, 0x2⟩,
     ⟨"WIDTH", F.audTdmCfg_width, .rc, 0x2⟩,
     ⟨"FS_FORM", F.audTdmCfg_fsForm, .rc, 0x1⟩,
     ⟨"DELAY", F.audTdmCfg_delay, .rc, 0x1⟩,
     ⟨"FS_INV", F.audTdmCfg_fsInv, .rc, 0x1⟩,
     ⟨"BCLK_EDGE", F.audTdmCfg_bclkEdge, .rc, 0x0⟩,
     ⟨"RATE", F.audTdmCfg_rate, .rc, 0x1⟩]⟩,
  ⟨"AUD_TDM_STATUS", 0x00702804, [(8, 0x10)], false,
    [⟨"CLOCK_OK", F.audTdmStatus_clockOk, .ro, 0x0⟩,
     ⟨"ASRC", F.audTdmStatus_asrc, .ro, 0x0⟩]⟩,
  ⟨"AUD_MASK_IN", 0x00702808, [(10, 0x10)], false,
    [⟨"MASK", F.audMaskIn_mask, .rc, 0xFFFFFFFF⟩]⟩,
  ⟨"AUD_MASK_OUT", 0x0070280C, [(10, 0x10)], false,
    [⟨"MASK", F.audMaskOut_mask, .rc, 0xFFFFFFFF⟩]⟩,
  ⟨"AUD_NETI_CFG", 0x00703000, [(256, 0x10)], false,
    [⟨"ENABLE", F.audNetiCfg_enable, .rc, 0x0⟩,
     ⟨"KIND", F.audNetiCfg_kind, .rc, 0x0⟩,
     ⟨"ENC", F.audNetiCfg_enc, .rc, 0x1⟩,
     ⟨"PTIME", F.audNetiCfg_ptime, .rc, 0x2⟩,
     ⟨"RATE96", F.audNetiCfg_rate96, .rc, 0x0⟩,
     ⟨"CH_M1", F.audNetiCfg_chM1, .rc, 0x1⟩,
     ⟨"FLOW", F.audNetiCfg_flow, .rc, 0x0⟩]⟩]

def RegTable.audRegs2 : List RegClass := [
  ⟨"AUD_NETI_STATUS", 0x00703004, [(256, 0x10)], false,
    [⟨"LATE", F.audNetiStatus_late, .ro, 0x0⟩,
     ⟨"LOST", F.audNetiStatus_lost, .ro, 0x0⟩]⟩,
  ⟨"AUD_NETO_CFG", 0x00704000, [(256, 0x10)], false,
    [⟨"ENABLE", F.audNetoCfg_enable, .rc, 0x0⟩,
     ⟨"KIND", F.audNetoCfg_kind, .rc, 0x0⟩,
     ⟨"ENC", F.audNetoCfg_enc, .rc, 0x1⟩,
     ⟨"PTIME", F.audNetoCfg_ptime, .rc, 0x2⟩,
     ⟨"RATE96", F.audNetoCfg_rate96, .rc, 0x0⟩,
     ⟨"CH_M1", F.audNetoCfg_chM1, .rc, 0x1⟩,
     ⟨"QUEUE", F.audNetoCfg_queue, .rc, 0x0⟩]⟩,
  ⟨"AUD_NETO_CH", 0x00704004, [(256, 0x10)], false,
    [⟨"FIRST", F.audNetoCh_first, .rc, 0x0⟩]⟩,
  ⟨"AUD_GRP_CFG", 0x00705000, [(64, 0x80)], false,
    [⟨"ENABLE", F.audGrpCfg_enable, .rc, 0x0⟩,
     ⟨"PRESET", F.audGrpCfg_preset, .rc, 0x1⟩,
     ⟨"ALIGN", F.audGrpCfg_align, .rc, 0x0⟩,
     ⟨"RATE", F.audGrpCfg_rate, .rc, 0x1⟩,
     ⟨"BLOCK_STROKES", F.audGrpCfg_blockStrokes, .rc, 0x8⟩,
     ⟨"ARRIVE_US", F.audGrpCfg_arriveUs, .rc, 0x5DC⟩]⟩,
  ⟨"AUD_GRP_DELAY", 0x00705004, [(64, 0x80)], false,
    [⟨"DELAY", F.audGrpDelay_delay, .rc, 0x0⟩]⟩,
  ⟨"AUD_GRP_STATUS", 0x00705008, [(64, 0x80)], false,
    [⟨"STATE", F.audGrpStatus_state, .ro, 0x0⟩,
     ⟨"STREAM", F.audGrpStatus_stream, .ro, 0x0⟩,
     ⟨"CHANNELS", F.audGrpStatus_channels, .ro, 0x0⟩]⟩,
  ⟨"AUD_GRP_RESOLVED", 0x0070500C, [(64, 0x80)], false,
    [⟨"A", F.audGrpResolved_a, .ro, 0x0⟩,
     ⟨"FROM_PROG", F.audGrpResolved_fromProg, .ro, 0x0⟩,
     ⟨"DELAY", F.audGrpResolved_delay, .ro, 0x0⟩]⟩,
  ⟨"AUD_GRP_MEMBER", 0x00705010, [(64, 0x80), (8, 0x4)], false,
    [⟨"VALID_HI", F.audGrpMember_validHi, .rc, 0x0⟩,
     ⟨"SOURCE_HI", F.audGrpMember_sourceHi, .rc, 0x0⟩,
     ⟨"VALID_LO", F.audGrpMember_validLo, .rc, 0x0⟩,
     ⟨"SOURCE_LO", F.audGrpMember_sourceLo, .rc, 0x0⟩]⟩]

def RegTable.audRegs3 : List RegClass := [
  ⟨"AUD_HOST_CFG", 0x00707000, [(64, 0x10)], false,
    [⟨"ENABLE", F.audHostCfg_enable, .rc, 0x0⟩,
     ⟨"RATE", F.audHostCfg_rate, .rc, 0x1⟩,
     ⟨"CH_M1", F.audHostCfg_chM1, .rc, 0x1⟩,
     ⟨"STREAM", F.audHostCfg_stream, .ro, 0x0⟩]⟩,
  ⟨"AUD_ROUTE", 0x00708000, [(1344, 0x4)], false,
    [⟨"ENABLE", F.audRoute_enable, .rc, 0x0⟩,
     ⟨"GROUP", F.audRoute_group, .rc, 0x0⟩,
     ⟨"CHANNEL", F.audRoute_channel, .rc, 0x0⟩]⟩,
  ⟨"AUD_ASRC_STATE", 0x0070A000, [(256, 0x8)], false,
    [⟨"LOCK", F.audAsrcState_lock, .ro, 0x0⟩,
     ⟨"IN_USE", F.audAsrcState_inUse, .ro, 0x0⟩,
     ⟨"DIR", F.audAsrcState_dir, .ro, 0x0⟩,
     ⟨"STREAM", F.audAsrcState_stream, .ro, 0x0⟩]⟩,
  ⟨"AUD_ASRC_RATIO", 0x0070A004, [(256, 0x8)], false,
    [⟨"RATIO", F.audAsrcRatio_ratio, .ro, 0x10000000⟩]⟩]

/-- The registers of block AUD. -/
def RegTable.aud : List RegClass := RegTable.audRegs0 ++ RegTable.audRegs1 ++ RegTable.audRegs2 ++ RegTable.audRegs3

def RegTable.laneRegs0 : List RegClass := [
  ⟨"LANE_SNAP_CTL", 0x00800000, [], false,
    [⟨"BUSY", F.laneSnapCtl_busy, .ro, 0x0⟩,
     ⟨"SAVE", F.laneSnapCtl_save, .w1s, 0x0⟩]⟩,
  ⟨"LANE_CTL", 0x00801000, [(64, 0x40)], false,
    [⟨"LOOPBACK", F.laneCtl_loopback, .rw, 0x0⟩,
     ⟨"TX_INV", F.laneCtl_txInv, .rc, 0x0⟩,
     ⟨"RX_INV", F.laneCtl_rxInv, .rc, 0x0⟩,
     ⟨"ADAPT", F.laneCtl_adapt, .rw, 0x0⟩,
     ⟨"USE_SNAP", F.laneCtl_useSnap, .ro, 0x0⟩]⟩,
  ⟨"LANE_TXFIR", 0x00801004, [(64, 0x40)], false,
    [⟨"PRESET", F.laneTxfir_preset, .rc, 0x1⟩,
     ⟨"C_M2", F.laneTxfir_cM2, .rc, 0x0⟩,
     ⟨"C_M1", F.laneTxfir_cM1, .rc, 0x3C⟩,
     ⟨"C0", F.laneTxfir_c0, .rc, 0x36⟩,
     ⟨"C1", F.laneTxfir_c1, .rc, 0x3B⟩]⟩,
  ⟨"LANE_ADAPT", 0x00801008, [(64, 0x40)], false,
    [⟨"CTLE", F.laneAdapt_ctle, .ro, 0x0⟩,
     ⟨"DFE1", F.laneAdapt_dfe1, .ro, 0x0⟩,
     ⟨"TX_CM1", F.laneAdapt_txCm1, .ro, 0x0⟩,
     ⟨"TX_C0", F.laneAdapt_txC0, .ro, 0x0⟩,
     ⟨"TX_C1", F.laneAdapt_txC1, .ro, 0x0⟩]⟩,
  ⟨"LANE_STATUS", 0x0080100C, [(64, 0x40)], false,
    [⟨"STATE", F.laneStatus_state, .ro, 0x0⟩,
     ⟨"CDR_LOCK", F.laneStatus_cdrLock, .ro, 0x0⟩,
     ⟨"BLOCK_LOCK", F.laneStatus_blockLock, .ro, 0x0⟩,
     ⟨"FROZEN", F.laneStatus_frozen, .ro, 0x0⟩,
     ⟨"SNAP_VALID", F.laneStatus_snapValid, .ro, 0x0⟩,
     ⟨"HI_BER", F.laneStatus_hiBer, .ro, 0x0⟩,
     ⟨"MARGIN", F.laneStatus_margin, .ro, 0x0⟩,
     ⟨"SNAP_MARGIN", F.laneStatus_snapMargin, .ro, 0x0⟩,
     ⟨"IDLE_PCT", F.laneStatus_idlePct, .ro, 0x0⟩]⟩,
  ⟨"LANE_GUARD", 0x00801010, [(64, 0x40)], false,
    [⟨"GUARD_EN", F.laneGuard_guardEn, .rw, 0x1⟩,
     ⟨"MARGIN_MIN", F.laneGuard_marginMin, .rc, 0x30⟩]⟩,
  ⟨"LANE_TEST", 0x00801014, [(64, 0x40)], false,
    [⟨"GEN", F.laneTest_gen, .rw, 0x0⟩,
     ⟨"CHK", F.laneTest_chk, .rw, 0x0⟩,
     ⟨"INJ", F.laneTest_inj, .rw, 0x0⟩,
     ⟨"INJ_GO", F.laneTest_injGo, .w1s, 0x0⟩,
     ⟨"INJ_PARAM", F.laneTest_injParam, .rw, 0x1⟩]⟩,
  ⟨"LANE_USER_PAT_0", 0x00801018, [(64, 0x40)], false,
    [⟨"BITS", F.laneUserPat0_bits, .rw, 0x0⟩]⟩]

def RegTable.laneRegs1 : List RegClass := [
  ⟨"LANE_USER_PAT_1", 0x0080101C, [(64, 0x40)], false,
    [⟨"BITS", F.laneUserPat1_bits, .rw, 0x0⟩]⟩,
  ⟨"LANE_USER_PAT_2", 0x00801020, [(64, 0x40)], false,
    [⟨"BITS", F.laneUserPat2_bits, .rw, 0x0⟩]⟩,
  ⟨"LANE_CHK_ERR", 0x00801024, [(64, 0x40)], false,
    [⟨"CHK_LOCK", F.laneChkErr_chkLock, .ro, 0x0⟩,
     ⟨"ERRORS", F.laneChkErr_errors, .ro, 0x0⟩]⟩,
  ⟨"LANE_CNT", 0x00801028, [(64, 0x40)], false,
    [⟨"RELOCKS", F.laneCnt_relocks, .ro, 0x0⟩,
     ⟨"REVERTS", F.laneCnt_reverts, .ro, 0x0⟩,
     ⟨"COLD_STARTS", F.laneCnt_coldStarts, .ro, 0x0⟩]⟩]

/-- The registers of block LANE. -/
def RegTable.lane : List RegClass := RegTable.laneRegs0 ++ RegTable.laneRegs1

def RegTable.portRegs0 : List RegClass := [
  ⟨"PORT_GROUP_CFG", 0x00901000, [(16, 0x20)], false,
    [⟨"ENABLE", F.portGroupCfg_enable, .rc, 0x0⟩,
     ⟨"PRESET", F.portGroupCfg_preset, .rc, 0x0⟩,
     ⟨"MODE", F.portGroupCfg_mode, .rc, 0x0⟩,
     ⟨"AN", F.portGroupCfg_an, .rc, 0x0⟩,
     ⟨"TRAIN", F.portGroupCfg_train, .rc, 0x0⟩,
     ⟨"TECH", F.portGroupCfg_tech, .rc, 0x0⟩]⟩,
  ⟨"PORT_GROUP_STATUS", 0x00901004, [(16, 0x20)], false,
    [⟨"STATE", F.portGroupStatus_state, .ro, 0x0⟩,
     ⟨"ALIGNED", F.portGroupStatus_aligned, .ro, 0x0⟩,
     ⟨"LANE_LOCK", F.portGroupStatus_laneLock, .ro, 0x0⟩,
     ⟨"DOWNS", F.portGroupStatus_downs, .ro, 0x0⟩]⟩,
  ⟨"PORT_MAC_CTL", 0x00910000, [(64, 0x100)], false,
    [⟨"ENABLE", F.portMacCtl_enable, .rc, 0x0⟩,
     ⟨"SPEED", F.portMacCtl_speed, .rc, 0x0⟩,
     ⟨"FEC", F.portMacCtl_fec, .rc, 0x2⟩,
     ⟨"PAUSE_RX", F.portMacCtl_pauseRx, .rc, 0x0⟩,
     ⟨"PROMISC", F.portMacCtl_promisc, .rc, 0x0⟩,
     ⟨"MAX_FRAME", F.portMacCtl_maxFrame, .rc, 0x5EE⟩]⟩,
  ⟨"PORT_MAC_STATUS", 0x00910004, [(64, 0x100)], false,
    [⟨"LINK", F.portMacStatus_link, .ro, 0x0⟩,
     ⟨"LOCAL_FAULT", F.portMacStatus_localFault, .ro, 0x0⟩,
     ⟨"REMOTE_FAULT", F.portMacStatus_remoteFault, .ro, 0x0⟩,
     ⟨"HI_BER", F.portMacStatus_hiBer, .ro, 0x0⟩,
     ⟨"FEC", F.portMacStatus_fec, .ro, 0x0⟩,
     ⟨"AN_DONE", F.portMacStatus_anDone, .ro, 0x0⟩]⟩,
  ⟨"PORT_MAC_ADDR_LO", 0x00910008, [(64, 0x100)], false,
    [⟨"ADDR", F.portMacAddrLo_addr, .rc, 0x0⟩]⟩,
  ⟨"PORT_MAC_ADDR_HI", 0x0091000C, [(64, 0x100)], false,
    [⟨"ADDR", F.portMacAddrHi_addr, .rc, 0x0⟩]⟩,
  ⟨"PORT_MACSEC_CFG", 0x00910010, [(64, 0x100)], false,
    [⟨"ENABLE", F.portMacsecCfg_enable, .rc, 0x0⟩,
     ⟨"CIPHER", F.portMacsecCfg_cipher, .rc, 0x0⟩,
     ⟨"CONF", F.portMacsecCfg_conf, .rc, 0x1⟩,
     ⟨"INCLUDE_SCI", F.portMacsecCfg_includeSci, .rc, 0x1⟩,
     ⟨"VALIDATE", F.portMacsecCfg_validate, .rc, 0x0⟩,
     ⟨"REPLAY_PROTECT", F.portMacsecCfg_replayProtect, .rc, 0x1⟩,
     ⟨"REPLAY_WIN", F.portMacsecCfg_replayWin, .rc, 0x40⟩]⟩,
  ⟨"PORT_MAC_CNT_LO", 0x00910040, [(64, 0x100), (11, 0x8)], false,
    [⟨"COUNT", F.portMacCntLo_count, .ro, 0x0⟩]⟩]

def RegTable.portRegs1 : List RegClass := [
  ⟨"PORT_MAC_CNT_HI", 0x00910044, [(64, 0x100), (11, 0x8)], false,
    [⟨"COUNT", F.portMacCntHi_count, .ro, 0x0⟩]⟩]

/-- The registers of block PORT. -/
def RegTable.port : List RegClass := RegTable.portRegs0 ++ RegTable.portRegs1

def RegTable.egsRegs0 : List RegClass := [
  ⟨"EGS_CLS_CFG", 0x00A00000, [], false,
    [⟨"REHASH", F.egsClsCfg_rehash, .w1s, 0x0⟩,
     ⟨"REHASH_AT", F.egsClsCfg_rehashAt, .rw, 0x20⟩]⟩,
  ⟨"EGS_CLS_STATUS", 0x00A00004, [], false,
    [⟨"ENTRIES", F.egsClsStatus_entries, .ro, 0x0⟩,
     ⟨"SEED", F.egsClsStatus_seed, .ro, 0x0⟩,
     ⟨"SIDECAM", F.egsClsStatus_sidecam, .ro, 0x0⟩,
     ⟨"REHASHES", F.egsClsStatus_rehashes, .ro, 0x0⟩]⟩,
  ⟨"EGS_CLS_MISS", 0x00A00008, [], false,
    [⟨"MISSES", F.egsClsMiss_misses, .ro, 0x0⟩]⟩,
  ⟨"EGS_SRC_IP", 0x00A01000, [(256, 0x10), (4, 0x4)], false,
    [⟨"ADDR", F.egsSrcIp_addr, .rc, 0x0⟩]⟩,
  ⟨"EGS_CLS_DIP", 0x00A10000, [(4096, 0x20), (4, 0x4)], false,
    [⟨"ADDR", F.egsClsDip_addr, .rc, 0x0⟩]⟩,
  ⟨"EGS_CLS_KEY", 0x00A10010, [(4096, 0x20)], false,
    [⟨"VALID", F.egsClsKey_valid, .rc, 0x0⟩,
     ⟨"VER", F.egsClsKey_ver, .rc, 0x0⟩,
     ⟨"PAIR", F.egsClsKey_pair, .rc, 0x0⟩,
     ⟨"VLAN", F.egsClsKey_vlan, .rc, 0xFFF⟩,
     ⟨"SRC_SEL", F.egsClsKey_srcSel, .rc, 0x0⟩]⟩,
  ⟨"EGS_CLS_FLOW", 0x00A10014, [(4096, 0x20)], false,
    [⟨"UDP_DPORT", F.egsClsFlow_udpDport, .rc, 0x0⟩,
     ⟨"FLOW", F.egsClsFlow_flow, .rc, 0x0⟩]⟩,
  ⟨"EGS_CLS_POL", 0x00A10018, [(4096, 0x20)], false,
    [⟨"ACTION", F.egsClsPol_action, .rc, 0x0⟩,
     ⟨"KBPS", F.egsClsPol_kbps, .rc, 0x0⟩]⟩]

def RegTable.egsRegs1 : List RegClass := [
  ⟨"EGS_CLS_SEC", 0x00A1001C, [(4096, 0x20)], false,
    [⟨"SRTP", F.egsClsSec_srtp, .rc, 0x0⟩,
     ⟨"KEY", F.egsClsSec_key, .rc, 0x0⟩,
     ⟨"BYTES", F.egsClsSec_bytes, .rc, 0x2580⟩]⟩,
  ⟨"EGS_POL_STAT_0", 0x00A30000, [(4096, 0x8)], false,
    [⟨"EXCEEDED_A", F.egsPolStat0_exceededA, .ro, 0x0⟩,
     ⟨"EXCEEDED_B", F.egsPolStat0_exceededB, .ro, 0x0⟩]⟩,
  ⟨"EGS_POL_STAT_1", 0x00A30004, [(4096, 0x8)], false,
    [⟨"AUTH_FAIL", F.egsPolStat1_authFail, .ro, 0x0⟩]⟩,
  ⟨"EGS_EQ_CFG", 0x00A40000, [(4096, 0x20)], false,
    [⟨"ENABLE", F.egsEqCfg_enable, .rc, 0x0⟩,
     ⟨"PRESET", F.egsEqCfg_preset, .rc, 0x0⟩,
     ⟨"ENCAP", F.egsEqCfg_encap, .rc, 0x0⟩,
     ⟨"SRTP", F.egsEqCfg_srtp, .rc, 0x0⟩,
     ⟨"SUB", F.egsEqCfg_sub, .rc, 0x0⟩,
     ⟨"DEST", F.egsEqCfg_dest, .rc, 0x0⟩]⟩,
  ⟨"EGS_EQ_PKT", 0x00A40004, [(4096, 0x20)], false,
    [⟨"STREAM", F.egsEqPkt_stream, .rc, 0x0⟩,
     ⟨"PKT_MAX", F.egsEqPkt_pktMax, .rc, 0x578⟩]⟩,
  ⟨"EGS_EQ_RTP", 0x00A40008, [(4096, 0x20)], false,
    [⟨"PT", F.egsEqRtp_pt, .rc, 0x60⟩,
     ⟨"FIRST_MAX", F.egsEqRtp_firstMax, .rc, 0x10⟩,
     ⟨"SEQ0", F.egsEqRtp_seq0, .rc, 0x0⟩]⟩,
  ⟨"EGS_EQ_SSRC", 0x00A4000C, [(4096, 0x20)], false,
    [⟨"SSRC", F.egsEqSsrc_ssrc, .rc, 0x0⟩]⟩,
  ⟨"EGS_EQ_KEY", 0x00A40010, [(4096, 0x20)], false,
    [⟨"KEY", F.egsEqKey_key, .rc, 0x0⟩]⟩]

def RegTable.egsRegs2 : List RegClass := [
  ⟨"EGS_EQ_RATE", 0x00A40014, [(4096, 0x20)], false,
    [⟨"KBPS", F.egsEqRate_kbps, .rc, 0x0⟩]⟩,
  ⟨"EGS_EQ_BURST", 0x00A40018, [(4096, 0x20)], false,
    [⟨"BYTES", F.egsEqBurst_bytes, .rc, 0x4000⟩]⟩,
  ⟨"EGS_EQ_STATUS", 0x00A4001C, [(4096, 0x20)], false,
    [⟨"STATE", F.egsEqStatus_state, .ro, 0x0⟩,
     ⟨"LIVE_KBPS", F.egsEqStatus_liveKbps, .ro, 0x0⟩]⟩,
  ⟨"EGS_DEST_IP", 0x00A60000, [(1024, 0x20), (4, 0x4)], false,
    [⟨"ADDR", F.egsDestIp_addr, .rc, 0x0⟩]⟩,
  ⟨"EGS_DEST_CTL", 0x00A60010, [(1024, 0x20)], false,
    [⟨"VER", F.egsDestCtl_ver, .rc, 0x0⟩,
     ⟨"SUB", F.egsDestCtl_sub, .rc, 0x0⟩,
     ⟨"DSCP", F.egsDestCtl_dscp, .rc, 0x22⟩,
     ⟨"VLAN", F.egsDestCtl_vlan, .rc, 0xFFF⟩]⟩,
  ⟨"EGS_DEST_UDP", 0x00A60014, [(1024, 0x20)], false,
    [⟨"UDP_DPORT", F.egsDestUdp_udpDport, .rc, 0x0⟩,
     ⟨"UDP_SPORT", F.egsDestUdp_udpSport, .rc, 0x0⟩]⟩,
  ⟨"EGS_SUB_CFG", 0x00A70000, [(256, 0x10)], false,
    [⟨"ENABLE", F.egsSubCfg_enable, .rc, 0x0⟩,
     ⟨"PORT", F.egsSubCfg_port, .rc, 0x0⟩,
     ⟨"TC", F.egsSubCfg_tc, .rc, 0x0⟩]⟩,
  ⟨"EGS_SUB_RATE", 0x00A70004, [(256, 0x10)], false,
    [⟨"KBPS", F.egsSubRate_kbps, .rc, 0x0⟩]⟩]

def RegTable.egsRegs3 : List RegClass := [
  ⟨"EGS_SUB_BURST", 0x00A70008, [(256, 0x10)], false,
    [⟨"BYTES", F.egsSubBurst_bytes, .rc, 0x4000⟩]⟩,
  ⟨"EGS_SUB_STATUS", 0x00A7000C, [(256, 0x10)], false,
    [⟨"STATE", F.egsSubStatus_state, .ro, 0x0⟩,
     ⟨"LIVE_KBPS", F.egsSubStatus_liveKbps, .ro, 0x0⟩]⟩,
  ⟨"EGS_PORT_CFG", 0x00A80000, [(64, 0x100)], false,
    [⟨"OVERHEAD", F.egsPortCfg_overhead, .rc, 0x14⟩,
     ⟨"CTRL_TC", F.egsPortCfg_ctrlTc, .rc, 0x6⟩]⟩,
  ⟨"EGS_PORT_RATE", 0x00A80004, [(64, 0x100)], false,
    [⟨"KBPS", F.egsPortRate_kbps, .rc, 0x0⟩]⟩,
  ⟨"EGS_PORT_BURST", 0x00A80008, [(64, 0x100)], false,
    [⟨"BYTES", F.egsPortBurst_bytes, .rc, 0x4000⟩]⟩,
  ⟨"EGS_PORT_STATUS", 0x00A8000C, [(64, 0x100)], false,
    [⟨"STATE", F.egsPortStatus_state, .ro, 0x0⟩,
     ⟨"LIVE_KBPS", F.egsPortStatus_liveKbps, .ro, 0x0⟩]⟩,
  ⟨"EGS_TC_RATE", 0x00A80020, [(64, 0x100), (8, 0x10)], false,
    [⟨"KBPS", F.egsTcRate_kbps, .rc, 0x0⟩]⟩,
  ⟨"EGS_TC_BURST", 0x00A80024, [(64, 0x100), (8, 0x10)], false,
    [⟨"BYTES", F.egsTcBurst_bytes, .rc, 0x4000⟩]⟩]

def RegTable.egsRegs4 : List RegClass := [
  ⟨"EGS_TC_STATUS", 0x00A80028, [(64, 0x100), (8, 0x10)], false,
    [⟨"STATE", F.egsTcStatus_state, .ro, 0x0⟩,
     ⟨"LIVE_KBPS", F.egsTcStatus_liveKbps, .ro, 0x0⟩]⟩,
  ⟨"EGS_GCL_CTL", 0x00A800C0, [(64, 0x100)], false,
    [⟨"ENABLE", F.egsGclCtl_enable, .rc, 0x0⟩,
     ⟨"ENTRIES", F.egsGclCtl_entries, .rc, 0x1⟩]⟩,
  ⟨"EGS_GCL_BASE_NS", 0x00A800C4, [(64, 0x100)], false,
    [⟨"TIME", F.egsGclBaseNs_time, .rc, 0x0⟩]⟩,
  ⟨"EGS_GCL_BASE_SEC_LO", 0x00A800C8, [(64, 0x100)], false,
    [⟨"TIME", F.egsGclBaseSecLo_time, .rc, 0x0⟩]⟩,
  ⟨"EGS_GCL_BASE_SEC_HI", 0x00A800CC, [(64, 0x100)], false,
    [⟨"TIME", F.egsGclBaseSecHi_time, .rc, 0x0⟩]⟩,
  ⟨"EGS_GCL_STATUS", 0x00A800D0, [(64, 0x100)], false,
    [⟨"STATE", F.egsGclStatus_state, .ro, 0x0⟩,
     ⟨"CYCLE_NS", F.egsGclStatus_cycleNs, .ro, 0x0⟩]⟩,
  ⟨"EGS_GCL_TAKE_NS", 0x00A800D4, [(64, 0x100)], false,
    [⟨"TIME", F.egsGclTakeNs_time, .ro, 0x0⟩]⟩,
  ⟨"EGS_GCL_TAKE_SEC_LO", 0x00A800D8, [(64, 0x100)], false,
    [⟨"TIME", F.egsGclTakeSecLo_time, .ro, 0x0⟩]⟩]

def RegTable.egsRegs5 : List RegClass := [
  ⟨"EGS_GCL_TAKE_SEC_HI", 0x00A800DC, [(64, 0x100)], false,
    [⟨"TIME", F.egsGclTakeSecHi_time, .ro, 0x0⟩]⟩,
  ⟨"EGS_GCL_ENT", 0x00A90000, [(64, 0x400), (256, 0x4)], false,
    [⟨"GATES", F.egsGclEnt_gates, .rc, 0xFF⟩,
     ⟨"INTERVAL", F.egsGclEnt_interval, .rc, 0x0⟩]⟩]

/-- The registers of block EGS. -/
def RegTable.egs : List RegClass := RegTable.egsRegs0 ++ RegTable.egsRegs1 ++ RegTable.egsRegs2 ++ RegTable.egsRegs3 ++ RegTable.egsRegs4 ++ RegTable.egsRegs5

def RegTable.pathRegs0 : List RegClass := [
  ⟨"PATH_PTP_CFG", 0x00B00000, [], false,
    [⟨"ENABLE", F.pathPtpCfg_enable, .rc, 0x0⟩,
     ⟨"STANDBY_EN", F.pathPtpCfg_standbyEn, .rc, 0x1⟩,
     ⟨"PREFER", F.pathPtpCfg_prefer, .rc, 0x0⟩,
     ⟨"PORT", F.pathPtpCfg_port, .rc, 0x0⟩,
     ⟨"WTR_S", F.pathPtpCfg_wtrS, .rc, 0x3C⟩]⟩,
  ⟨"PATH_PTP_STATUS", 0x00B00004, [], false,
    [⟨"ON_B", F.pathPtpStatus_onB, .ro, 0x0⟩,
     ⟨"ACTIVE_OK", F.pathPtpStatus_activeOk, .ro, 0x0⟩,
     ⟨"STANDBY_OK", F.pathPtpStatus_standbyOk, .ro, 0x0⟩,
     ⟨"PARTITION", F.pathPtpStatus_partition, .ro, 0x0⟩,
     ⟨"WAITING", F.pathPtpStatus_waiting, .ro, 0x0⟩,
     ⟨"WTR_LEFT", F.pathPtpStatus_wtrLeft, .ro, 0x0⟩]⟩,
  ⟨"PATH_GM_LOCKED_LO", 0x00B00008, [], false,
    [⟨"ID", F.pathGmLockedLo_id, .ro, 0x0⟩]⟩,
  ⟨"PATH_GM_LOCKED_HI", 0x00B0000C, [], false,
    [⟨"ID", F.pathGmLockedHi_id, .ro, 0x0⟩]⟩,
  ⟨"PATH_GM_OTHER_LO", 0x00B00010, [], false,
    [⟨"ID", F.pathGmOtherLo_id, .ro, 0x0⟩]⟩,
  ⟨"PATH_GM_OTHER_HI", 0x00B00014, [], false,
    [⟨"ID", F.pathGmOtherHi_id, .ro, 0x0⟩]⟩,
  ⟨"PATH_HEALTH_CFG", 0x00B00020, [], false,
    [⟨"FEC_WARN", F.pathHealthCfg_fecWarn, .rw, 0x2710⟩,
     ⟨"SKEW_WARN", F.pathHealthCfg_skewWarn, .rw, 0x64⟩,
     ⟨"SILENT_MIN", F.pathHealthCfg_silentMin, .rw, 0x40⟩]⟩,
  ⟨"PATH_PORT_HEALTH", 0x00B00100, [(64, 0x10)], false,
    [⟨"HEALTH", F.pathPortHealth_health, .ro, 0x2⟩,
     ⟨"CAUSE", F.pathPortHealth_cause, .ro, 0x0⟩,
     ⟨"MIN_MARGIN", F.pathPortHealth_minMargin, .ro, 0x0⟩,
     ⟨"MISMATCH", F.pathPortHealth_mismatch, .ro, 0x0⟩]⟩]

def RegTable.pathRegs1 : List RegClass := [
  ⟨"PATH_PORT_FEC", 0x00B00104, [(64, 0x10)], false,
    [⟨"CORRECTED", F.pathPortFec_corrected, .ro, 0x0⟩,
     ⟨"UNCORRECTED", F.pathPortFec_uncorrected, .ro, 0x0⟩]⟩,
  ⟨"PATH_PAIR_SKEW", 0x00B00800, [(8, 0x10)], false,
    [⟨"MIN", F.pathPairSkew_min, .ro, 0x0⟩,
     ⟨"MAX", F.pathPairSkew_max, .ro, 0x0⟩]⟩,
  ⟨"PATH_PAIR_ONLY_A", 0x00B00804, [(8, 0x10)], false,
    [⟨"COUNT", F.pathPairOnlyA_count, .ro, 0x0⟩]⟩,
  ⟨"PATH_PAIR_ONLY_B", 0x00B00808, [(8, 0x10)], false,
    [⟨"COUNT", F.pathPairOnlyB_count, .ro, 0x0⟩]⟩,
  ⟨"PATH_PAIR_BOTH", 0x00B0080C, [(8, 0x10)], false,
    [⟨"COUNT", F.pathPairBoth_count, .ro, 0x0⟩]⟩,
  ⟨"PATH_DUAL", 0x00B01000, [(4096, 0x4)], false,
    [⟨"ENABLE", F.pathDual_enable, .rc, 0x0⟩,
     ⟨"PARTNER", F.pathDual_partner, .rc, 0x0⟩]⟩,
  ⟨"PATH_FLOW_CFG", 0x00B10000, [(4096, 0x10)], false,
    [⟨"SINGLE", F.pathFlowCfg_single, .rc, 0x0⟩,
     ⟨"WINDOW", F.pathFlowCfg_window, .rc, 0x0⟩]⟩,
  ⟨"PATH_FLOW_BOTH", 0x00B10004, [(4096, 0x10)], false,
    [⟨"BOTH", F.pathFlowBoth_both, .ro, 0x0⟩]⟩]

def RegTable.pathRegs2 : List RegClass := [
  ⟨"PATH_FLOW_SINGLE", 0x00B10008, [(4096, 0x10)], false,
    [⟨"ONLY_A", F.pathFlowSingle_onlyA, .ro, 0x0⟩,
     ⟨"ONLY_B", F.pathFlowSingle_onlyB, .ro, 0x0⟩]⟩,
  ⟨"PATH_FLOW_LOST", 0x00B1000C, [(4096, 0x10)], false,
    [⟨"LOST", F.pathFlowLost_lost, .ro, 0x0⟩,
     ⟨"LATE", F.pathFlowLost_late, .ro, 0x0⟩]⟩]

/-- The registers of block PATH. -/
def RegTable.path : List RegClass := RegTable.pathRegs0 ++ RegTable.pathRegs1 ++ RegTable.pathRegs2

def RegTable.timeRegs0 : List RegClass := [
  ⟨"TIME_CTL", 0x00C00000, [], false,
    [⟨"PRESET", F.timeCtl_preset, .rc, 0x1⟩,
     ⟨"SOURCE", F.timeCtl_source, .rc, 0x0⟩,
     ⟨"SERVO", F.timeCtl_servo, .rc, 0x0⟩,
     ⟨"TCOMP_EN", F.timeCtl_tcompEn, .rc, 0x1⟩,
     ⟨"MECH", F.timeCtl_mech, .rc, 0x0⟩,
     ⟨"STEP_MODE", F.timeCtl_stepMode, .rc, 0x1⟩,
     ⟨"IPV6", F.timeCtl_ipv6, .rc, 0x0⟩,
     ⟨"DOMAIN", F.timeCtl_domain, .rc, 0x7F⟩]⟩,
  ⟨"TIME_STATUS", 0x00C00004, [], false,
    [⟨"SYNC", F.timeStatus_sync, .ro, 0x0⟩,
     ⟨"CLAMPED", F.timeStatus_clamped, .ro, 0x0⟩,
     ⟨"ADJ_REFUSED", F.timeStatus_adjRefused, .w1c, 0x0⟩,
     ⟨"STEPS", F.timeStatus_steps, .ro, 0x0⟩]⟩,
  ⟨"TIME_OFFSET", 0x00C00008, [], false,
    [⟨"NS", F.timeOffset_ns, .ro, 0x0⟩]⟩,
  ⟨"TIME_PATH_DELAY", 0x00C0000C, [], false,
    [⟨"NS", F.timePathDelay_ns, .ro, 0x0⟩]⟩,
  ⟨"TIME_NOW_NS", 0x00C00010, [], false,
    [⟨"TIME", F.timeNowNs_time, .ro, 0x0⟩]⟩,
  ⟨"TIME_NOW_SEC_LO", 0x00C00014, [], false,
    [⟨"TIME", F.timeNowSecLo_time, .ro, 0x0⟩]⟩,
  ⟨"TIME_NOW_SEC_HI", 0x00C00018, [], false,
    [⟨"TIME", F.timeNowSecHi_time, .ro, 0x0⟩]⟩,
  ⟨"TIME_NOW_FRAC", 0x00C0001C, [], false,
    [⟨"TIME", F.timeNowFrac_time, .ro, 0x0⟩]⟩]

def RegTable.timeRegs1 : List RegClass := [
  ⟨"TIME_INC_INT", 0x00C00020, [], false,
    [⟨"VALUE", F.timeIncInt_value, .rw, 0x2⟩]⟩,
  ⟨"TIME_INC_FRAC", 0x00C00024, [], false,
    [⟨"VALUE", F.timeIncFrac_value, .rw, 0x0⟩]⟩,
  ⟨"TIME_INC_EFF", 0x00C00028, [], false,
    [⟨"VALUE", F.timeIncEff_value, .ro, 0x0⟩]⟩,
  ⟨"TIME_SERVO_CFG", 0x00C00030, [], false,
    [⟨"LOCK_NS", F.timeServoCfg_lockNs, .rc, 0x3E8⟩,
     ⟨"STEP_US", F.timeServoCfg_stepUs, .rc, 0x3E8⟩]⟩,
  ⟨"TIME_ADJ", 0x00C00040, [], false,
    [⟨"GO", F.timeAdj_go, .w1s, 0x0⟩,
     ⟨"MODE", F.timeAdj_mode, .rw, 0x0⟩]⟩,
  ⟨"TIME_ADJ_NS", 0x00C00044, [], false,
    [⟨"VALUE", F.timeAdjNs_value, .rw, 0x0⟩]⟩,
  ⟨"TIME_ADJ_SEC_LO", 0x00C00048, [], false,
    [⟨"VALUE", F.timeAdjSecLo_value, .rw, 0x0⟩]⟩,
  ⟨"TIME_ADJ_SEC_HI", 0x00C0004C, [], false,
    [⟨"VALUE", F.timeAdjSecHi_value, .rw, 0x0⟩]⟩]

def RegTable.timeRegs2 : List RegClass := [
  ⟨"TIME_TOD_CFG", 0x00C00050, [], false,
    [⟨"UTC_SRC", F.timeTodCfg_utcSrc, .rc, 0x0⟩,
     ⟨"UTC_OFFSET", F.timeTodCfg_utcOffset, .rc, 0x25⟩,
     ⟨"LOCAL_OFFSET", F.timeTodCfg_localOffset, .rc, 0x0⟩]⟩,
  ⟨"TIME_TOD_JAM", 0x00C00054, [], false,
    [⟨"JAM", F.timeTodJam_jam, .rc, 0x0⟩]⟩,
  ⟨"TIME_PPS_CFG", 0x00C00058, [], false,
    [⟨"OUT_EN", F.timePpsCfg_outEn, .rc, 0x0⟩,
     ⟨"WIDTH_MS", F.timePpsCfg_widthMs, .rc, 0x64⟩]⟩,
  ⟨"TIME_TCOMP_CFG", 0x00C00060, [], false,
    [⟨"TS_SENSOR", F.timeTcompCfg_tsSensor, .ro, 0x0⟩]⟩,
  ⟨"TIME_TCOMP", 0x00C00100, [(32, 0x4)], false,
    [⟨"ENTRY_ODD", F.timeTcomp_entryOdd, .ro, 0x0⟩,
     ⟨"ENTRY_EVEN", F.timeTcomp_entryEven, .ro, 0x0⟩]⟩,
  ⟨"TIME_PORT_CAL", 0x00C00200, [(64, 0x8)], false,
    [⟨"RX_PS", F.timePortCal_rxPs, .ro, 0x0⟩,
     ⟨"TX_PS", F.timePortCal_txPs, .ro, 0x0⟩]⟩,
  ⟨"TIME_PORT_ASYM", 0x00C00204, [(64, 0x8)], false,
    [⟨"ASYM", F.timePortAsym_asym, .rw, 0x0⟩]⟩,
  ⟨"TIME_OUT_CFG", 0x00C00400, [(8, 0x20)], false,
    [⟨"MODE", F.timeOutCfg_mode, .rc, 0x0⟩,
     ⟨"POLARITY", F.timeOutCfg_polarity, .rc, 0x0⟩,
     ⟨"SKIPPED", F.timeOutCfg_skipped, .ro, 0x0⟩,
     ⟨"MISSED", F.timeOutCfg_missed, .ro, 0x0⟩]⟩]

def RegTable.timeRegs3 : List RegClass := [
  ⟨"TIME_OUT_START_NS", 0x00C00404, [(8, 0x20)], false,
    [⟨"VALUE", F.timeOutStartNs_value, .rc, 0x0⟩]⟩,
  ⟨"TIME_OUT_START_SEC_LO", 0x00C00408, [(8, 0x20)], false,
    [⟨"VALUE", F.timeOutStartSecLo_value, .rc, 0x0⟩]⟩,
  ⟨"TIME_OUT_START_SEC_HI", 0x00C0040C, [(8, 0x20)], false,
    [⟨"VALUE", F.timeOutStartSecHi_value, .rc, 0x0⟩]⟩,
  ⟨"TIME_OUT_PER_NS", 0x00C00410, [(8, 0x20)], false,
    [⟨"VALUE", F.timeOutPerNs_value, .rc, 0x0⟩]⟩,
  ⟨"TIME_OUT_PER_FRAC", 0x00C00414, [(8, 0x20)], false,
    [⟨"VALUE", F.timeOutPerFrac_value, .rc, 0x0⟩]⟩,
  ⟨"TIME_OUT_WIDTH", 0x00C00418, [(8, 0x20)], false,
    [⟨"VALUE", F.timeOutWidth_value, .rc, 0x0⟩]⟩,
  ⟨"TIME_IN_CFG", 0x00C00600, [(5, 0x10)], false,
    [⟨"EDGE", F.timeInCfg_edge, .rc, 0x0⟩,
     ⟨"OVF", F.timeInCfg_ovf, .ro, 0x0⟩,
     ⟨"COUNT", F.timeInCfg_count, .ro, 0x0⟩]⟩,
  ⟨"TIME_IN_NS", 0x00C00604, [(5, 0x10)], false,
    [⟨"VALID", F.timeInNs_valid, .ro, 0x0⟩,
     ⟨"FALLING", F.timeInNs_falling, .ro, 0x0⟩,
     ⟨"NS", F.timeInNs_ns, .ro, 0x0⟩]⟩]

def RegTable.timeRegs4 : List RegClass := [
  ⟨"TIME_IN_SEC_LO", 0x00C00608, [(5, 0x10)], false,
    [⟨"SEC", F.timeInSecLo_sec, .ro, 0x0⟩]⟩,
  ⟨"TIME_IN_SEC_HI", 0x00C0060C, [(5, 0x10)], false,
    [⟨"SEC", F.timeInSecHi_sec, .ro, 0x0⟩]⟩]

/-- The registers of block TIME. -/
def RegTable.time : List RegClass := RegTable.timeRegs0 ++ RegTable.timeRegs1 ++ RegTable.timeRegs2 ++ RegTable.timeRegs3 ++ RegTable.timeRegs4

def RegTable.memRegs0 : List RegClass := [
  ⟨"MEM_CAP", 0x00D00000, [], false,
    [⟨"STACKS", F.memCap_stacks, .ro, 0x4⟩,
     ⟨"PCS", F.memCap_pcs, .ro, 0x80⟩,
     ⟨"PC_MIB", F.memCap_pcMib, .ro, 0x200⟩]⟩,
  ⟨"MEM_STATUS", 0x00D00004, [], false,
    [⟨"TRAINED", F.memStatus_trained, .ro, 0x0⟩,
     ⟨"PCS_OK", F.memStatus_pcsOk, .ro, 0x0⟩,
     ⟨"REFRESH_2X", F.memStatus_refresh2x, .ro, 0x0⟩,
     ⟨"FROZEN", F.memStatus_frozen, .ro, 0x0⟩]⟩,
  ⟨"MEM_CFG", 0x00D00008, [], false,
    [⟨"PRESET", F.memCfg_preset, .rc, 0x1⟩,
     ⟨"FREEZE_MODE", F.memCfg_freezeMode, .rc, 0x0⟩,
     ⟨"BW_CAP", F.memCfg_bwCap, .rc, 0x46⟩,
     ⟨"SCRUB_HOURS", F.memCfg_scrubHours, .rc, 0x18⟩]⟩,
  ⟨"MEM_ADMIT", 0x00D0000C, [], false,
    [⟨"PEAK_PC", F.memAdmit_peakPc, .ro, 0x0⟩,
     ⟨"PEAK_PERMILLE", F.memAdmit_peakPermille, .ro, 0x0⟩,
     ⟨"TOTAL_GBPS", F.memAdmit_totalGbps, .ro, 0x0⟩]⟩,
  ⟨"MEM_TRAIN_CTL", 0x00D00010, [], false,
    [⟨"SAVE", F.memTrainCtl_save, .w1s, 0x0⟩,
     ⟨"BUSY", F.memTrainCtl_busy, .ro, 0x0⟩,
     ⟨"POLICY", F.memTrainCtl_policy, .ro, 0x0⟩]⟩,
  ⟨"MEM_THAW", 0x00D00014, [], false,
    [⟨"GO", F.memThaw_go, .w1s, 0x0⟩,
     ⟨"PC", F.memThaw_pc, .rw, 0x0⟩]⟩,
  ⟨"MEM_ONDIE_ERR", 0x00D00018, [], false,
    [⟨"CORRECTED", F.memOndieErr_corrected, .ro, 0x0⟩,
     ⟨"UNCORRECTED", F.memOndieErr_uncorrected, .ro, 0x0⟩]⟩,
  ⟨"MEM_STACK_STATUS", 0x00D00020, [(4, 0x4)], false,
    [⟨"TEMP", F.memStackStatus_temp, .ro, 0x0⟩,
     ⟨"REFRESH_2X", F.memStackStatus_refresh2x, .ro, 0x0⟩]⟩]

def RegTable.memRegs1 : List RegClass := [
  ⟨"MEM_REGION_CFG", 0x00D00100, [(8, 0x20)], false,
    [⟨"ENABLE", F.memRegionCfg_enable, .lk, 0x0⟩,
     ⟨"CREW", F.memRegionCfg_crew, .lk, 0x0⟩,
     ⟨"GRAIN", F.memRegionCfg_grain, .lk, 0xB⟩,
     ⟨"PC_BASE", F.memRegionCfg_pcBase, .lk, 0x0⟩,
     ⟨"PC_LEN", F.memRegionCfg_pcLen, .lk, 0x0⟩]⟩,
  ⟨"MEM_REGION_MASK", 0x00D00104, [(8, 0x20), (4, 0x4)], false,
    [⟨"PCS", F.memRegionMask_pcs, .lk, 0x0⟩]⟩,
  ⟨"MEM_REGION_USE", 0x00D00114, [(8, 0x20)], false,
    [⟨"USED_MIB", F.memRegionUse_usedMib, .ro, 0x0⟩]⟩,
  ⟨"MEM_PC_STATUS", 0x00D00400, [(128, 0x10)], false,
    [⟨"STATE", F.memPcStatus_state, .ro, 0x3⟩,
     ⟨"EYE_MIN", F.memPcStatus_eyeMin, .ro, 0x0⟩,
     ⟨"DRIFT", F.memPcStatus_drift, .ro, 0x0⟩,
     ⟨"CE", F.memPcStatus_ce, .ro, 0x0⟩]⟩,
  ⟨"MEM_PC_ERR", 0x00D00404, [(128, 0x10)], false,
    [⟨"UE", F.memPcErr_ue, .ro, 0x0⟩,
     ⟨"CA_PARITY", F.memPcErr_caParity, .ro, 0x0⟩,
     ⟨"TAG_ERR", F.memPcErr_tagErr, .ro, 0x0⟩]⟩,
  ⟨"MEM_SNAP_INFO", 0x00D01000, [(4, 0x200)], false,
    [⟨"VALID", F.memSnapInfo_valid, .w1c, 0x0⟩,
     ⟨"CAUSE", F.memSnapInfo_cause, .ro, 0x0⟩,
     ⟨"PC", F.memSnapInfo_pc, .ro, 0x0⟩,
     ⟨"CREW", F.memSnapInfo_crew, .ro, 0x0⟩,
     ⟨"SYNDROME", F.memSnapInfo_syndrome, .ro, 0x0⟩]⟩,
  ⟨"MEM_SNAP_STROKE", 0x00D01004, [(4, 0x200)], false,
    [⟨"VALUE", F.memSnapStroke_value, .ro, 0x0⟩]⟩,
  ⟨"MEM_SNAP_SECTOR", 0x00D01008, [(4, 0x200)], false,
    [⟨"VALUE", F.memSnapSector_value, .ro, 0x0⟩]⟩]

def RegTable.memRegs2 : List RegClass := [
  ⟨"MEM_SNAP_CMD", 0x00D01100, [(4, 0x200), (64, 0x4)], false,
    [⟨"OP", F.memSnapCmd_op, .ro, 0x0⟩,
     ⟨"BANK", F.memSnapCmd_bank, .ro, 0x0⟩,
     ⟨"ROW_COL", F.memSnapCmd_rowCol, .ro, 0x0⟩,
     ⟨"CREW", F.memSnapCmd_crew, .ro, 0x0⟩]⟩]

/-- The registers of block MEM. -/
def RegTable.mem : List RegClass := RegTable.memRegs0 ++ RegTable.memRegs1 ++ RegTable.memRegs2

def RegTable.secRegs0 : List RegClass := [
  ⟨"SEC_STATUS", 0x00E00000, [], false,
    [⟨"LIFECYCLE", F.secStatus_lifecycle, .ro, 0x0⟩,
     ⟨"DEBUG", F.secStatus_debug, .ro, 0x0⟩,
     ⟨"STATE", F.secStatus_state, .ro, 0x0⟩,
     ⟨"TAMPER", F.secStatus_tamper, .ro, 0x0⟩,
     ⟨"ZEROIZE_PIN", F.secStatus_zeroizePin, .ro, 0x0⟩,
     ⟨"TAMPER_PIN", F.secStatus_tamperPin, .ro, 0x0⟩,
     ⟨"ENROL_PIN", F.secStatus_enrolPin, .ro, 0x0⟩,
     ⟨"AUDIT_EPOCH", F.secStatus_auditEpoch, .ro, 0x0⟩]⟩,
  ⟨"SEC_SELFTEST", 0x00E00004, [], false,
    [⟨"FAILED", F.secSelftest_failed, .ro, 0x0⟩,
     ⟨"PASSED", F.secSelftest_passed, .ro, 0x0⟩]⟩,
  ⟨"SEC_CHARTER_SEQ_LO", 0x00E00008, [], false,
    [⟨"SEQ", F.secCharterSeqLo_seq, .ro, 0x0⟩]⟩,
  ⟨"SEC_CHARTER_SEQ_HI", 0x00E0000C, [], false,
    [⟨"SEQ", F.secCharterSeqHi_seq, .ro, 0x0⟩]⟩,
  ⟨"SEC_ORDER_STATUS", 0x00E00010, [], false,
    [⟨"STATE", F.secOrderStatus_state, .ro, 0x0⟩,
     ⟨"LAST_SUB", F.secOrderStatus_lastSub, .ro, 0x0⟩,
     ⟨"APPLIED", F.secOrderStatus_applied, .ro, 0x0⟩]⟩,
  ⟨"SEC_AUDIT_STATUS", 0x00E00014, [], false,
    [⟨"BACKLOG", F.secAuditStatus_backlog, .ro, 0x0⟩,
     ⟨"LOST", F.secAuditStatus_lost, .ro, 0x0⟩]⟩,
  ⟨"SEC_AUDIT_NEXT", 0x00E00018, [], false,
    [⟨"SEQ", F.secAuditNext_seq, .ro, 0x0⟩]⟩,
  ⟨"SEC_FW", 0x00E0001C, [], false,
    [⟨"FW_FLOOR", F.secFw_fwFloor, .lk, 0x0⟩,
     ⟨"FW_VERSION", F.secFw_fwVersion, .ro, 0x0⟩]⟩]

def RegTable.secRegs1 : List RegClass := [
  ⟨"SEC_ZEROISE", 0x00E00030, [], false,
    [⟨"GO", F.secZeroise_go, .w1s, 0x0⟩]⟩,
  ⟨"SEC_DEV_UID", 0x00E00020, [(4, 0x4)], false,
    [⟨"UID", F.secDevUid_uid, .ro, 0x0⟩]⟩,
  ⟨"SEC_IMPORT_PUB", 0x00E00100, [(24, 0x4)], false,
    [⟨"KEY", F.secImportPub_key, .ro, 0x0⟩]⟩,
  ⟨"SEC_ROLE_PUB", 0x00E00200, [(3, 0x80), (24, 0x4)], false,
    [⟨"KEY", F.secRolePub_key, .ro, 0x0⟩]⟩,
  ⟨"SEC_ENROL_KEY", 0x00E00380, [(24, 0x4)], false,
    []⟩,
  ⟨"SEC_ENROL_CTL", 0x00E003F0, [], false,
    [⟨"GO", F.secEnrolCtl_go, .w1s, 0x0⟩,
     ⟨"BAD", F.secEnrolCtl_bad, .ro, 0x0⟩,
     ⟨"DONE", F.secEnrolCtl_done, .ro, 0x0⟩,
     ⟨"ROLE", F.secEnrolCtl_role, .rw, 0x0⟩]⟩,
  ⟨"SEC_CREW_POLICY", 0x00E00400, [(17, 0x4)], false,
    [⟨"PRESET", F.secCrewPolicy_preset, .lk, 0x1⟩,
     ⟨"HOST_PERSIST", F.secCrewPolicy_hostPersist, .lk, 0x1⟩,
     ⟨"USER_READ", F.secCrewPolicy_userRead, .lk, 0x0⟩,
     ⟨"REPLAY_CONTENT", F.secCrewPolicy_replayContent, .lk, 0x0⟩,
     ⟨"NO_SURPLUS", F.secCrewPolicy_noSurplus, .lk, 0x0⟩,
     ⟨"BE_PRIVATE", F.secCrewPolicy_bePrivate, .lk, 0x0⟩]⟩,
  ⟨"SEC_CREW_STATE", 0x00E00480, [(17, 0x4)], false,
    [⟨"SUSPEND", F.secCrewState_suspend, .ro, 0x0⟩,
     ⟨"FUNCTION", F.secCrewState_function, .ro, 0x0⟩,
     ⟨"KEYS", F.secCrewState_keys, .ro, 0x0⟩]⟩]

def RegTable.secRegs2 : List RegClass := [
  ⟨"SEC_OWN_SEL", 0x00E00500, [], true,
    [⟨"CLASS", F.secOwnSel_class, .rw, 0x0⟩,
     ⟨"INDEX", F.secOwnSel_index, .rw, 0x0⟩]⟩,
  ⟨"SEC_OWN_DATA", 0x00E00504, [], true,
    [⟨"CREW", F.secOwnData_crew, .ro, 0x1F⟩]⟩]

/-- The registers of block SEC. -/
def RegTable.sec : List RegClass := RegTable.secRegs0 ++ RegTable.secRegs1 ++ RegTable.secRegs2

def RegTable.chkRegs0 : List RegClass := [
  ⟨"CHK_CAP", 0x00F00000, [], false,
    [⟨"UNITS", F.chkCap_units, .ro, 0x20⟩]⟩,
  ⟨"CHK_CFG", 0x00F01000, [(32, 0x40)], false,
    [⟨"PRESET", F.chkCfg_preset, .rw, 0x2⟩,
     ⟨"WIDTH", F.chkCfg_width, .rw, 0x20⟩,
     ⟨"REFIN", F.chkCfg_refin, .rw, 0x1⟩,
     ⟨"REFOUT", F.chkCfg_refout, .rw, 0x1⟩]⟩,
  ⟨"CHK_POLY", 0x00F01004, [(32, 0x40)], false,
    [⟨"VALUE", F.chkPoly_value, .rw, 0x1EDC6F41⟩]⟩,
  ⟨"CHK_INIT", 0x00F01008, [(32, 0x40)], false,
    [⟨"VALUE", F.chkInit_value, .rw, 0xFFFFFFFF⟩]⟩,
  ⟨"CHK_XOROUT", 0x00F0100C, [(32, 0x40)], false,
    [⟨"VALUE", F.chkXorout_value, .rw, 0xFFFFFFFF⟩]⟩,
  ⟨"CHK_FOLD", 0x00F01010, [(32, 0x40)], false,
    [⟨"DATA", F.chkFold_data, .wo, 0x0⟩]⟩,
  ⟨"CHK_DATA_8", 0x00F01014, [(32, 0x40)], false,
    [⟨"DATA", F.chkData8_data, .wo, 0x0⟩]⟩,
  ⟨"CHK_DATA_16", 0x00F01018, [(32, 0x40)], false,
    [⟨"DATA", F.chkData16_data, .wo, 0x0⟩]⟩]

def RegTable.chkRegs1 : List RegClass := [
  ⟨"CHK_DATA_32", 0x00F0101C, [(32, 0x40)], false,
    [⟨"DATA", F.chkData32_data, .wo, 0x0⟩]⟩,
  ⟨"CHK_RESULT", 0x00F01020, [(32, 0x40)], false,
    [⟨"VALUE", F.chkResult_value, .ro, 0x0⟩]⟩,
  ⟨"CHK_COUNT", 0x00F01024, [(32, 0x40)], false,
    [⟨"VALUE", F.chkCount_value, .ro, 0x0⟩]⟩,
  ⟨"CHK_STATUS", 0x00F01028, [(32, 0x40)], false,
    [⟨"BUSY", F.chkStatus_busy, .ro, 0x0⟩,
     ⟨"QUEUE", F.chkStatus_queue, .ro, 0x0⟩,
     ⟨"OWNER", F.chkStatus_owner, .ro, 0x0⟩]⟩]

/-- The registers of block CHK. -/
def RegTable.chk : List RegClass := RegTable.chkRegs0 ++ RegTable.chkRegs1

def RegTable.thmRegs0 : List RegClass := [
  ⟨"THM_STATUS", 0x01000000, [], false,
    [⟨"LEVEL", F.thmStatus_level, .ro, 0x0⟩,
     ⟨"STEP", F.thmStatus_step, .ro, 0x0⟩,
     ⟨"HOT", F.thmStatus_hot, .ro, 0x0⟩,
     ⟨"BAD_SENSORS", F.thmStatus_badSensors, .ro, 0x0⟩,
     ⟨"TMAX", F.thmStatus_tmax, .ro, 0x0⟩]⟩,
  ⟨"THM_CFG", 0x01000004, [], false,
    [⟨"PRESET", F.thmCfg_preset, .rc, 0x1⟩,
     ⟨"UP_MS", F.thmCfg_upMs, .rc, 0x1⟩,
     ⟨"DOWN_MS", F.thmCfg_downMs, .rc, 0x8⟩,
     ⟨"MAX_STEP", F.thmCfg_maxStep, .rc, 0xC⟩,
     ⟨"HYST", F.thmCfg_hyst, .rc, 0x3⟩]⟩,
  ⟨"THM_LIMITS", 0x01000008, [], false,
    [⟨"WARN", F.thmLimits_warn, .ro, 0x0⟩,
     ⟨"THROTTLE", F.thmLimits_throttle, .ro, 0x0⟩,
     ⟨"CRITICAL", F.thmLimits_critical, .ro, 0x0⟩,
     ⟨"SHUTDOWN", F.thmLimits_shutdown, .ro, 0x0⟩]⟩,
  ⟨"THM_SUPPLY", 0x0100000C, [], false,
    [⟨"HOLD", F.thmSupply_hold, .ro, 0x0⟩,
     ⟨"BELOW_WARN", F.thmSupply_belowWarn, .ro, 0x0⟩,
     ⟨"EPISODES", F.thmSupply_episodes, .ro, 0x0⟩]⟩,
  ⟨"THM_TS", 0x01000100, [(64, 0x4)], false,
    [⟨"VALID", F.thmTs_valid, .ro, 0x0⟩,
     ⟨"TEMP", F.thmTs_temp, .ro, 0x0⟩]⟩,
  ⟨"THM_RAIL", 0x01000200, [(11, 0x4)], false,
    [⟨"MIN_MV", F.thmRail_minMv, .w1c, 0xFFFF⟩,
     ⟨"NOW_MV", F.thmRail_nowMv, .ro, 0x0⟩]⟩]

/-- The registers of block THM. -/
def RegTable.thm : List RegClass := RegTable.thmRegs0

def RegTable.nvmRegs0 : List RegClass := [
  ⟨"NVM_STATUS", 0x01100000, [], false,
    [⟨"LAST_SHUTDOWN", F.nvmStatus_lastShutdown, .ro, 0x0⟩,
     ⟨"WORN", F.nvmStatus_worn, .ro, 0x0⟩,
     ⟨"BUSY", F.nvmStatus_busy, .ro, 0x0⟩,
     ⟨"SPARES", F.nvmStatus_spares, .ro, 0xA0⟩,
     ⟨"QUEUED", F.nvmStatus_queued, .ro, 0x0⟩]⟩,
  ⟨"NVM_LOST", 0x01100004, [], false,
    [⟨"LOST", F.nvmLost_lost, .ro, 0x0⟩]⟩,
  ⟨"NVM_LOG", 0x01100008, [], false,
    [⟨"TOKENS", F.nvmLog_tokens, .ro, 0x100⟩,
     ⟨"DROPPED", F.nvmLog_dropped, .ro, 0x0⟩]⟩,
  ⟨"NVM_LOG_SEQ", 0x0110000C, [], false,
    [⟨"SEQ", F.nvmLogSeq_seq, .ro, 0x0⟩]⟩,
  ⟨"NVM_WEAR", 0x01100010, [], false,
    [⟨"SECTOR", F.nvmWear_sector, .ro, 0x0⟩,
     ⟨"CYCLES", F.nvmWear_cycles, .ro, 0x0⟩]⟩]

/-- The registers of block NVM. -/
def RegTable.nvm : List RegClass := RegTable.nvmRegs0

def RegTable.pmuRegs0 : List RegClass := [
  ⟨"PMU_CAP", 0x01200000, [], false,
    [⟨"BANKS", F.pmuCap_banks, .ro, 0x8F⟩,
     ⟨"PER_BANK", F.pmuCap_perBank, .ro, 0x8⟩,
     ⟨"WIDTH", F.pmuCap_width, .ro, 0x30⟩]⟩,
  ⟨"PMU_BANK_CTL", 0x01201000, [(143, 0x80)], false,
    [⟨"CLEAR", F.pmuBankCtl_clear, .w1s, 0x0⟩,
     ⟨"FREEZE", F.pmuBankCtl_freeze, .rw, 0x0⟩,
     ⟨"REFUSED", F.pmuBankCtl_refused, .w1c, 0x0⟩,
     ⟨"PRESET", F.pmuBankCtl_preset, .rw, 0x0⟩,
     ⟨"OWNER", F.pmuBankCtl_owner, .ro, 0x0⟩]⟩,
  ⟨"PMU_CNT_CFG", 0x01201020, [(143, 0x80), (8, 0x4)], false,
    [⟨"ENABLE", F.pmuCntCfg_enable, .rw, 0x0⟩,
     ⟨"MODE", F.pmuCntCfg_mode, .rw, 0x0⟩,
     ⟨"EVENT", F.pmuCntCfg_event, .rw, 0x0⟩,
     ⟨"FLOW_EN", F.pmuCntCfg_flowEn, .rw, 0x0⟩,
     ⟨"FLOW", F.pmuCntCfg_flow, .rw, 0x0⟩,
     ⟨"CREW", F.pmuCntCfg_crew, .ro, 0x0⟩]⟩,
  ⟨"PMU_CNT_LO", 0x01201040, [(143, 0x80), (8, 0x8)], false,
    [⟨"COUNT", F.pmuCntLo_count, .ro, 0x0⟩]⟩,
  ⟨"PMU_CNT_HI", 0x01201044, [(143, 0x80), (8, 0x8)], false,
    [⟨"COUNT", F.pmuCntHi_count, .ro, 0x0⟩]⟩]

/-- The registers of block PMU. -/
def RegTable.pmu : List RegClass := RegTable.pmuRegs0

def RegTable.rplRegs0 : List RegClass := [
  ⟨"RPL_CTL", 0x01300000, [], false,
    [⟨"REPLAY", F.rplCtl_replay, .rw, 0x0⟩,
     ⟨"PACE", F.rplCtl_pace, .rw, 0x0⟩,
     ⟨"REFUSED", F.rplCtl_refused, .w1c, 0x0⟩]⟩,
  ⟨"RPL_START_LO", 0x01300004, [], false,
    [⟨"STROKE", F.rplStartLo_stroke, .rw, 0x0⟩]⟩,
  ⟨"RPL_START_HI", 0x01300008, [], false,
    [⟨"STROKE", F.rplStartHi_stroke, .rw, 0x0⟩]⟩,
  ⟨"RPL_STEP", 0x0130000C, [], false,
    [⟨"COUNT", F.rplStep_count, .wo, 0x0⟩]⟩,
  ⟨"RPL_STATUS", 0x01300010, [], false,
    [⟨"STATE", F.rplStatus_state, .ro, 0x0⟩,
     ⟨"LATE", F.rplStatus_late, .ro, 0x0⟩,
     ⟨"BAD", F.rplStatus_bad, .ro, 0x0⟩,
     ⟨"PENDING", F.rplStatus_pending, .ro, 0x0⟩]⟩,
  ⟨"RPL_LOG_STATUS", 0x01300100, [(17, 0x8)], false,
    [⟨"LOST", F.rplLogStatus_lost, .ro, 0x0⟩,
     ⟨"CONTENT", F.rplLogStatus_content, .ro, 0x0⟩]⟩,
  ⟨"RPL_LOG_SEQ", 0x01300104, [(17, 0x8)], false,
    [⟨"SEQ", F.rplLogSeq_seq, .ro, 0x0⟩]⟩]

/-- The registers of block RPL. -/
def RegTable.rpl : List RegClass := RegTable.rplRegs0

def RegTable.hifRegs0 : List RegClass := [
  ⟨"HIF_LINK_STATUS", 0x01400000, [], false,
    [⟨"FULL_RATE", F.hifLinkStatus_fullRate, .ro, 0x0⟩,
     ⟨"SPEED", F.hifLinkStatus_speed, .ro, 0x0⟩,
     ⟨"WIDTH", F.hifLinkStatus_width, .ro, 0x0⟩,
     ⟨"DL_UP", F.hifLinkStatus_dlUp, .ro, 0x0⟩,
     ⟨"READY", F.hifLinkStatus_ready, .ro, 0x0⟩]⟩,
  ⟨"HIF_BW_BUDGET", 0x01400004, [], false,
    [⟨"MBPS", F.hifBwBudget_mbps, .ro, 0x1388⟩]⟩,
  ⟨"HIF_BW_STATUS", 0x01400008, [], false,
    [⟨"RD_MBPS", F.hifBwStatus_rdMbps, .ro, 0x0⟩,
     ⟨"WR_MBPS", F.hifBwStatus_wrMbps, .ro, 0x0⟩]⟩,
  ⟨"HIF_DB_BASE_LO", 0x01410000, [(17, 0x1000)], false,
    [⟨"ADDR", F.hifDbBaseLo_addr, .rw, 0x0⟩]⟩,
  ⟨"HIF_DB_BASE_HI", 0x01410004, [(17, 0x1000)], false,
    [⟨"ADDR", F.hifDbBaseHi_addr, .rw, 0x0⟩]⟩,
  ⟨"HIF_EVQ_BASE_LO", 0x01410008, [(17, 0x1000)], false,
    [⟨"ADDR", F.hifEvqBaseLo_addr, .rw, 0x0⟩]⟩,
  ⟨"HIF_EVQ_BASE_HI", 0x0141000C, [(17, 0x1000)], false,
    [⟨"ADDR", F.hifEvqBaseHi_addr, .rw, 0x0⟩]⟩,
  ⟨"HIF_EVQ_CFG", 0x01410010, [(17, 0x1000)], false,
    [⟨"ENABLE", F.hifEvqCfg_enable, .rw, 0x0⟩,
     ⟨"INT_EN", F.hifEvqCfg_intEn, .rw, 0x0⟩,
     ⟨"MOD_COUNT", F.hifEvqCfg_modCount, .rw, 0x0⟩,
     ⟨"LOG2_SIZE", F.hifEvqCfg_log2Size, .rw, 0x6⟩,
     ⟨"MOD_STROKES", F.hifEvqCfg_modStrokes, .rw, 0x1⟩,
     ⟨"VECTOR", F.hifEvqCfg_vector, .rw, 0x0⟩]⟩]

def RegTable.hifRegs1 : List RegClass := [
  ⟨"HIF_EVQ_STATUS", 0x01410014, [(17, 0x1000)], false,
    [⟨"LOST", F.hifEvqStatus_lost, .ro, 0x0⟩,
     ⟨"TAIL", F.hifEvqStatus_tail, .ro, 0x0⟩]⟩,
  ⟨"HIF_CREW_STATUS", 0x01410018, [(17, 0x1000)], false,
    [⟨"STATE", F.hifCrewStatus_state, .ro, 0x0⟩,
     ⟨"RINGS", F.hifCrewStatus_rings, .ro, 0x0⟩]⟩,
  ⟨"HIF_SQ_BASE_LO", 0x01410100, [(17, 0x1000), (64, 0x20)], false,
    [⟨"ADDR", F.hifSqBaseLo_addr, .rw, 0x0⟩]⟩,
  ⟨"HIF_SQ_BASE_HI", 0x01410104, [(17, 0x1000), (64, 0x20)], false,
    [⟨"ADDR", F.hifSqBaseHi_addr, .rw, 0x0⟩]⟩,
  ⟨"HIF_CQ_BASE_LO", 0x01410108, [(17, 0x1000), (64, 0x20)], false,
    [⟨"ADDR", F.hifCqBaseLo_addr, .rw, 0x0⟩]⟩,
  ⟨"HIF_CQ_BASE_HI", 0x0141010C, [(17, 0x1000), (64, 0x20)], false,
    [⟨"ADDR", F.hifCqBaseHi_addr, .rw, 0x0⟩]⟩,
  ⟨"HIF_RING_CFG", 0x01410110, [(17, 0x1000), (64, 0x20)], false,
    [⟨"ENABLE", F.hifRingCfg_enable, .rw, 0x0⟩,
     ⟨"PRESET", F.hifRingCfg_preset, .rw, 0x1⟩,
     ⟨"SQ_LOG2", F.hifRingCfg_sqLog2, .rw, 0x8⟩,
     ⟨"CQ_LOG2", F.hifRingCfg_cqLog2, .rw, 0x8⟩,
     ⟨"BAR_DB", F.hifRingCfg_barDb, .rw, 0x0⟩,
     ⟨"OVF", F.hifRingCfg_ovf, .rw, 0x1⟩,
     ⟨"VECTOR", F.hifRingCfg_vector, .rw, 0x0⟩,
     ⟨"INT_EN", F.hifRingCfg_intEn, .rw, 0x0⟩]⟩,
  ⟨"HIF_RING_MOD", 0x01410114, [(17, 0x1000), (64, 0x20)], false,
    [⟨"HOLD_STROKES", F.hifRingMod_holdStrokes, .rw, 0x40⟩,
     ⟨"MOD_STROKES", F.hifRingMod_modStrokes, .rw, 0x8⟩,
     ⟨"MOD_COUNT", F.hifRingMod_modCount, .rw, 0x0⟩]⟩]

def RegTable.hifRegs2 : List RegClass := [
  ⟨"HIF_RING_STATUS", 0x01410118, [(17, 0x1000), (64, 0x20)], false,
    [⟨"STATE", F.hifRingStatus_state, .ro, 0x0⟩,
     ⟨"CFG_ERR", F.hifRingStatus_cfgErr, .ro, 0x0⟩,
     ⟨"FETCH_ERR", F.hifRingStatus_fetchErr, .w1c, 0x0⟩,
     ⟨"SQ_HEAD", F.hifRingStatus_sqHead, .ro, 0x0⟩]⟩,
  ⟨"HIF_RING_STAT", 0x0141011C, [(17, 0x1000), (64, 0x20)], false,
    [⟨"FETCH_FAIL", F.hifRingStat_fetchFail, .ro, 0x0⟩,
     ⟨"ISOLATED", F.hifRingStat_isolated, .ro, 0x0⟩,
     ⟨"OVF_DROP", F.hifRingStat_ovfDrop, .ro, 0x0⟩,
     ⟨"CHECK_ERR", F.hifRingStat_checkErr, .ro, 0x0⟩]⟩]

/-- The registers of block HIF. -/
def RegTable.hif : List RegClass := RegTable.hifRegs0 ++ RegTable.hifRegs1 ++ RegTable.hifRegs2

/-- The registers of the block whose 1 MiB window holds an address (R5). -/
def RegTable.ofBlock (i : Nat) : List RegClass :=
  match i with
  | 0 => RegTable.device
  | 1 => RegTable.rst
  | 2 => RegTable.stk
  | 3 => RegTable.cox
  | 4 => RegTable.enc
  | 5 => RegTable.dec
  | 6 => RegTable.cmp
  | 7 => RegTable.aud
  | 8 => RegTable.lane
  | 9 => RegTable.port
  | 10 => RegTable.egs
  | 11 => RegTable.path
  | 12 => RegTable.time
  | 13 => RegTable.mem
  | 14 => RegTable.sec
  | 15 => RegTable.chk
  | 16 => RegTable.thm
  | 17 => RegTable.nvm
  | 18 => RegTable.pmu
  | 19 => RegTable.rpl
  | 20 => RegTable.hif
  | _ => []

end Sys2Proof.Machine
end

