-- ==== Sys2Proof/Machine/Bits.lean ====
section
/-! DEFINITION. Reading and writing a field of a register word, signed readings of a field, and the packing of values
into words. -/

namespace Sys2Proof.Machine

/-- Number of bits of a field. -/
def Fld.width (f : Fld) : Nat := f.hi + 1 - f.lo

/-- The field's value in a word. -/
def Fld.get (f : Fld) (w : Word) : Nat := w.toNat / 2 ^ f.lo % 2 ^ f.width

/-- The word with the field set to the low bits of `v`. -/
def Fld.set (f : Fld) (w : Word) (v : Nat) : Word :=
  BitVec.ofNat 32 (w.toNat - f.get w * 2 ^ f.lo + v % 2 ^ f.width * 2 ^ f.lo)

/-- The bits of a word that the field covers. -/
def Fld.mask (f : Fld) : Nat := (2 ^ f.width - 1) * 2 ^ f.lo

/-- A two's complement reading of `bits` bits. -/
def signed (bits v : Nat) : Int := if v < 2 ^ (bits - 1) then (v : Int) else (v : Int) - 2 ^ bits

/-- The two's complement form of an integer in `bits` bits. -/
def unsigned (bits : Nat) (v : Int) : Nat := (v % (2 ^ bits : Int)).toNat

/-- Bit `i` of a number. -/
def bitAt (v i : Nat) : Bool := v / 2 ^ i % 2 = 1

/-- 1 for true, 0 for false. -/
def bit (b : Bool) : Nat := if b then 1 else 0

/-- The lowest `n` at or above `i`, within `fuel` numbers, that satisfies `p`. -/
def firstFrom (p : Nat → Bool) : (fuel i : Nat) → Option Nat
  | 0, _ => none
  | fuel + 1, i => if p i then some i else firstFrom p fuel (i + 1)

/-- A word built from (value, low bit) parts. -/
def pack (l : List (Nat × Nat)) : Nat := l.foldl (fun a p => a + p.1 * 2 ^ p.2) 0

/-- A count that saturates at `m`. -/
def satInc (m v : Nat) : Nat := if v < m then v + 1 else m

/-- The bytes of a 32-bit word, least significant first. -/
def wordBytes (w : Nat) : List Nat := [w % 256, w / 256 % 256, w / 65536 % 256, w / 16777216 % 256]

/-- The bytes of a list of words, each little-endian (R100). -/
def wordsBytes (l : List Nat) : List Nat := l.flatMap wordBytes

/-- The little-endian value of a list of bytes. -/
def leNat : List Nat → Nat
  | [] => 0
  | b :: r => b + 256 * leNat r

/-- The big-endian value of a list of bytes. -/
def beNat (l : List Nat) : Nat := l.foldl (fun a b => a * 256 + b) 0

/-- Sum of a function over a list. -/
def sumBy {α : Type} (f : α → Nat) (l : List α) : Nat := l.foldl (fun a x => a + f x) 0

/-- Largest value of a function over a list, 0 on the empty list. -/
def maxBy {α : Type} (f : α → Nat) (l : List α) : Nat := l.foldl (fun a x => max a (f x)) 0

/-- The base-2 logarithm rounded up. -/
def clog2 (n : Nat) : Nat := if n ≤ 1 then 0 else Nat.log2 (n - 1) + 1

/-- The field of a register table that has a name, if the class has it. -/
def RegClass.field? (c : RegClass) (nm : String) : Option FieldSpec := c.fields.find? (fun f => f.name = nm)

/-- The instance indices of an offset from the class's base, if the offset is one of the class's instances. -/
def dimsIndex : List (Nat × Nat) → Nat → Option (List Nat)
  | [], r => if r = 0 then some [] else none
  | (n, st) :: ds, r => if r / st < n then (dimsIndex ds (r % st)).map (r / st :: ·) else none

/-- The instance indices of an address within a class. -/
def RegClass.index? (c : RegClass) (a : Nat) : Option (List Nat) :=
  if c.base ≤ a then dimsIndex c.dims (a - c.base) else none

/-- The register table that holds an address of PF0's BAR0, with the instance indices (R5, R7). -/
def regClass? (a : Nat) : Option (RegClass × List Nat) :=
  (RegTable.ofBlock (a / 0x100000)).findSome? fun c => (c.index? a).map fun ix => (c, ix)

/-- The word that the reset values of a table's fields make. -/
def RegClass.resetWord (c : RegClass) : Nat := sumBy (fun f => f.reset * 2 ^ f.fld.lo) c.fields

/-- The reset value of a register (R12). HIF_RING_CFG_r.VECTOR resets to r; EGS_SRC_IP_0 does not exist. -/
def regReset (a : Nat) : Word :=
  match regClass? a with
  | none => 0
  | some (c, ix) =>
    BitVec.ofNat 32 (c.resetWord + (if c.base = Reg.hifRingCfg 0 0 then ix.getD 1 0 * 2 ^ 12 else 0))

/-- The bits of a table's fields that carry an access code. -/
def RegClass.maskOf (c : RegClass) (p : Access → Bool) : Nat :=
  sumBy (fun f => if p f.acc then f.fld.mask else 0) c.fields

end Sys2Proof.Machine
end

