-- ==== Sys2Proof/Machine/State.lean ====
section
/-! DEFINITION. The state of the device as plain data. Architectural registers, read-only ones included, live in one
sparse table keyed by their PF0 address; what the spec gives the machine beside its registers stands in one record per
block. A command is applied to `Dev`; the queue of waiting commands and the HBM's contents stand beside it. -/

namespace Sys2Proof.Machine

/-- Why the device stops. -/
inductive Fault where
  /-- Raised by POR_RELEASE when the supplies came up out of order: R535 says that behaviour is then not defined.
  Safe: the model stops where the spec gives no effect. -/
  | supplyOrder
  deriving DecidableEq, Repr

/-- Why a command has no meaning. -/
inductive Refusal where
  /-- The command of this mnemonic is not modelled; raised by the dispatch alone. Safe. -/
  | notModelled (mnemonic : String)
  deriving DecidableEq, Repr

/-- An object that items of a flow belong to (R81): piece `p` of encode channel `c`, the packetiser of encode channel `c`,
decode channel `d`, programme `p`, audio group `g`. -/
inductive FlowObj where
  | none
  | encPiece (c p : Nat)
  | encPkt (c : Nat)
  | dec (d : Nat)
  | prog (p : Nat)
  | audio (g : Nat)
  deriving DecidableEq, Repr

/-- What the device shows to the outside, in the order of its doing. `read` is the value a register read returns, `entry`
a completion entry written to a ring pair's slot, `event` an event entry, `hostRead` a read issued in host memory of a
number of bytes, `hostWrite` a delivery of words, `hostData` a delivery whose bytes only content decides, `pin` a level of an
output pin, `frame` a frame that starts on the wire of a MAC instance: an egress queue (live) or a kind of control frame. `hbmData` is the
sector a memory read returns, `inject` a bit error pattern put into a lane's generator output. `unit` is what a unit of a
bitstream says beside its coded CTUs, its bands being `first` to `last`: parameter sets, SEI messages by payload with their values, its
slices (R136), the syntax of its CTUs coded at floor by band and column (R207), and its filler data NAL unit (R196). `line` is
what a lane's transmitter changes over to: 0 silence, 1–6 a pattern, 7 received data (R347); `samples` are the samples that a destination of
R316 plays from one on, in the form that it carries them in (R300), with the validity bits and the channel-status block of an AES3 subframe
(R298). -/
inductive Output where
  | read (fn offset value : Nat)
  | entry (crew ring index : Nat) (words : List Nat)
  | event (crew index : Nat) (words : List Nat)
  | msix (fn vector : Nat)
  | hostRead (crew addr bytes : Nat)
  | hostWrite (crew addr : Nat) (words : List Nat)
  | hostData (crew addr bytes : Nat)
  | pin (name : String) (level : Bool)
  | frame (mac queue : Nat) (facts : List Nat)
  | smbus (bytes : List Nat)
  | hbmData (pc addr : Nat) (bytes : List Nat) (poisoned : Bool)
  | inject (lane kind count : Nat)
  | line (lane source : Nat)
  | samples (dest first : Nat) (words valid status : List Nat)
  | unit (chan k first last : Nat) (said : List (String × Nat)) (sei : List (Nat × List Nat)) (slices : List (List Nat))
      (floors : List (Nat × Nat × List (String × Nat))) (filler : List Nat)
  deriving DecidableEq, Repr
/-! ## Stroke, commits and tables (chapter "The Stroke") -/

/-- The body of a change order once its signatures have passed (R443, R445): its kind, sequence number and the bytes of its
body. -/
structure Order where
  kind : Nat
  seq : Nat
  body : List Nat
  deriving DecidableEq, Repr

/-- One record of the record log (R523), before its CHECK. -/
structure Rec where
  crew : Nat
  stroke : Nat
  kind : Nat
  sub : Nat
  obj : Nat
  data : List Nat
  deriving DecidableEq, Repr
/-! ## Cox (chapter "Cox: hardware work scheduling") -/

/-- A partial or ready item of the matching store, or one in service (R55, R72). `filled` and `need` are masks of the four
operand slots; `readyNo` is 0 until the item is ready, then its order of readiness; `unit` the unit it is in service on, `began` the local
time in ns at which its service began; `floor` the status of a whole band that is coded at floor in its place, 0 for none (R67, R74). -/
structure Item where
  flow : Nat
  seq : Nat
  n : Nat
  e : Nat
  rd : Nat
  cd : Nat
  live : Bool
  need : Nat
  filled : Nat
  handles : List Nat
  shared : Bool
  readyNo : Nat
  unit : Option Nat
  cost : Nat
  floorCost : Nat
  level : Nat
  isolated : Bool
  target : Nat
  began : Nat := 0
  floor : Nat := 0
  deriving DecidableEq, Repr

/-- A window that a Seat's window store keeps (R179, R180): the flow, the bytes it takes, the band it was loaded for. -/
structure SeatWindow where
  flow : Nat
  bytes : Nat
  band : Nat
  deriving DecidableEq, Repr

/-- Cox's state beside its registers: the matching store with the items in service, the recent items that have ended, each
with whether its substitute ran (R76), the COX_FLOW_CFG, COX_FLOW_DL and COX_FLOW_AFF that a flow had before each recent change with its Stroke
(R81), the object of each flow, flows that drain (R80), the pause cycles outstanding on each unit (R78), the
best-effort cycles started on each Seat in this Stroke (R69), each unit's search-cut demand (R184), and the windows in each Seat's window
store, the most recently run first (R180). -/
structure Cox where
  items : List Item
  gone : List (Nat × Nat × Bool)
  was : Tab (List (Nat × Word × Word × Word))
  flowObj : Tab FlowObj
  draining : List (Nat × Nat)
  pause : Tab Nat
  beUsed : Tab Nat
  cut : Tab Nat
  lastRun : Tab Nat
  readyNo : Nat
  windows : Tab (List SeatWindow) := []
  deriving DecidableEq, Repr
/-! ## Host attachment (chapter "Host attachment") -/

/-- A descriptor read from an SQ (R100): its sixteen words, its SQ sequence number, and the Stroke at whose boundary it
takes effect. `waits` marks an ORDERED descriptor that earlier ones of its SQ still hold back; `epoch` names the enable of its ring
pair it was read under, so that a reset of the ring discards its completion (R118); `rd` and `wr` are the MB/s of host traffic
admitted with it, from and to the host (R117); `target` is the Stroke it names, or that in which it was read (R72). -/
structure Desc where
  crew : Nat
  ring : Nat
  seq : Nat
  words : List Nat
  effect : Nat
  waits : Bool
  epoch : Nat
  rd : Nat
  wr : Nat
  target : Nat := 0
  deriving DecidableEq, Repr

/-- A completion that waits to be written (R109, R110, R116): STATUS, OPCODE, TAG, words 3–6, the Stroke in which its item completed, the
SQ sequence number of its descriptor and the buffer of a standing one that it is for. `slot` says that a CQ slot is reserved for it: one
without is held under OVF HOLD. -/
structure Held where
  status : Nat
  opcode : Nat
  tag : Nat
  words : List Nat
  since : Nat
  post : Nat
  buf : Nat
  slot : Bool := false
  deriving DecidableEq, Repr

/-- A ring pair while it is not DISABLED (R93, R97, R108). `sqSeq` counts descriptors read and `cqSeq` entries written
since the enable; `cqCons` counts entries consumed; `issued` counts descriptor reads issued and not returned; `opened`
lists the sequence numbers of descriptors not completed; `retried` is the Stroke of a descriptor read that failed and is
retried (R120); `held` are the completions that wait, oldest first; `full` that its next descriptor would create a
best-effort item and waits for an entry of the store (R60). -/
structure Ring where
  sqSeq : Nat
  tail : Nat
  cqSeq : Nat
  cqCons : Nat
  reserved : Nat
  issued : Nat
  opened : List Nat
  lost : Bool
  held : List Held
  retried : Option Nat
  epoch : Nat
  full : Bool := false
  deriving DecidableEq, Repr

/-- A standing descriptor with its host buffers (R162, R164): the Stroke it stands from, the next buffer, deliveries made,
whether one was lost since the last completion, the buffers whose completion the driver has not consumed, with one more
than that entry's CQ sequence number (0 while the completion is held), the stop descriptor it waits to end with, the
family's own counts, buffers of a record log that are full and not delivered (index, bytes, first record, words), and the words of the
one being filled. -/
structure Standing where
  desc : Desc
  start : Nat
  next : Nat
  count : Nat
  gap : Bool
  busy : List (Nat × Nat)
  stopping : Option Desc
  aux : List Nat
  full : List (Nat × Nat × Nat × List Nat)
  text : List Nat
  deriving DecidableEq, Repr

/-- The host side beside its registers. Rings are keyed 64 × Crew + ring pair; `evSeq`, `evHead` and `evLost` are the
event sequence number, head and drops since the last entry of each Crew's event ring; `unsig` counts unsignalled entries,
keyed 65 × Crew + ring pair with 64 for the event ring; `lastInt` is one more than the Stroke of a vector's last
interrupt, keyed 64 × Crew + vector; `msix` is the MSI-X table, keyed 256 × Crew + word, and `msixPend` the pending bits,
keyed as `lastInt` (R91); `reads`
counts the descriptor reads of each Crew in this Stroke, and `ringReads` of each ring pair, `writes` the entries written for each Crew in
this Stroke, and `ringWrites` of each ring, keyed 65 × Crew + ring pair with 64 for the event ring (R115, R116); `events` are events that
wait to be written, as (Crew, code, object, words, Stroke), oldest first; `absent` are functions that are not ready since a reset of theirs
(R88); `pcie` holds the programmed payload and read-request codes of the functions, keyed 2 × function and one more (R85); `resetting` marks a Crew reset and with no ring pair enabled since
(R118), `releasing` the Crews to be released at the next boundary (R450); `epoch` numbers enables of ring pairs; `liveRd` and `liveWr` are the MB/s that the
configuration in force takes of the host budget (R117). -/
structure Hif where
  rings : Tab (Option Ring)
  staged : List Desc
  due : List Desc
  standing : List Standing
  evSeq : Tab Nat
  evHead : Tab Nat
  evLost : Tab Nat
  unsig : Tab Nat
  lastInt : Tab Nat
  msix : Tab Nat
  msixPend : Tab Nat
  numVfs : Nat
  reads : Tab Nat
  resetting : Tab Nat
  releasing : List Nat
  epoch : Nat
  liveRd : Nat
  liveWr : Nat
  ringReads : Tab Nat := []
  writes : Tab Nat := []
  ringWrites : Tab Nat := []
  events : List (Nat × Nat × Nat × List Nat × Nat) := []
  absent : List Nat := []
  pcie : Tab Nat := []
  deriving DecidableEq, Repr
/-! ## Encode channels (chapters "Encode Seats", "Motion search", "Rate control") -/

/-- The settings of an encode channel as admission resolved them (R124–R148, R171, R194–R221, R225). `cls` is 0 Sprint,
1 Course, 2 Head; `ctu` is the CTU size in luma samples; `division` 1 TILES, 2 WAVEFRONT, 3 SLICES; `chroma` the coded format,
0 4:2:0, 1 4:2:2, 2 4:4:4; `rate` and `target` are in units of 1,000 bit/s. `asked` holds DIVISION, PIECES and FIRST_REQ as
staged, `flows` the piece flows, `pkt` the packetiser; `tapUs` is D_TAP for a channel fed by a tap (R280);
`segCtus` the CTUs of a segment of a best-effort channel, 0 for a live one (R148). -/
structure EncCfg where
  crew : Nat
  live : Bool
  cls : Nat
  vvc : Bool
  profile : Nat
  tier : Nat
  level : Nat
  ctu : Nat
  headN : Nat
  width : Nat
  height : Nat
  num : Nat
  den : Nat
  hostCopy : Bool
  srcType : Nat
  srcFmt : Nat
  srcIndex : Nat
  chroma : Nat
  division : Nat
  pieces : Nat
  firstSeat : Nat
  asked : Nat × Nat × Nat
  tapUs : Nat
  subpic : Bool
  irapPeriod : Nat
  rolling : Bool
  rollFrames : Nat
  toolOff : Nat
  sei : Word
  meMode : Nat
  refs : Nat
  haloShare : Bool
  hierH : Nat
  hierV : Nat
  winH : Nat
  winV : Nat
  winS : Nat
  vbr : Bool
  scenecut : Bool
  cutIrap : Bool
  qpMin : Nat
  qpMax : Nat
  rate : Nat
  target : Nat
  refCount : Nat
  flows : List Nat
  pktFlow : Nat
  pkt : Nat
  segCtus : Nat
  deriving DecidableEq, Repr

/-- One piece of a band in coding: the budget of its rate token, the bits it took, its status code (R14), the CTU column of
the first floor CTU and the cause of R220, whether one of its segments was late (R150), and what its coding gives: the QP′ of its
CTUs, its rows of luma, the rows of its 16×16 blocks and its sum of differences (R190). -/
structure PieceRec where
  piece : Nat
  budget : Nat
  bits : Nat
  status : Nat
  floorCol : Option Nat
  cause : Nat
  done : Bool
  late : Bool := false
  qps : List Nat := []
  luma : List (List Nat) := []
  blocks : List (List Block) := []
  sad : Nat := 0
  deriving DecidableEq, Repr

/-- An SEI message of a unit (R144, R145, R200): the buffering period with its initial removal delay, picture timing, decoding-unit
information with the sub-ticks of its slot, the time code (hours, minutes, seconds, frames) with its discontinuity_flag, mastering
display and content light level values, the alternative transfer, captions, and a recovery point with its frames. -/
inductive Sei where
  | bufferingPeriod (delay offset : Nat)
  | pictureTiming
  | duInfo (subTicks : Nat)
  | timeCode (h m s f : Nat) (discontinuous : Bool)
  | mdcv (words : List Nat)
  | cll (word : Nat)
  | transfer (preferred : Nat)
  | captions (cc : List Nat)
  | recoveryPoint (frames : Nat)
  deriving DecidableEq, Repr

/-- A band whose coding deadline has not passed, or whose unit has not been made up. `j` is the picture's place in decoding
order and `k` its frame index; `intra` and `roll` give its kind of picture for the floor (R208); `level` is the highest
degradation level of its pieces; `reported` says that its events and counts are done. -/
structure BandRec where
  j : Nat
  k : Nat
  band : Nat
  header : Nat
  intra : Bool
  roll : Option Nat
  pieces : List PieceRec
  level : Nat
  released : Nat
  reported : Bool
  finished : Bool
  deriving DecidableEq, Repr

/-- A unit of the bitstream (R194) whose coding deadline has passed and that waits for delivery to host buffers; `j` is its
picture's place in decoding order. `late` says that a segment finished late, `coded` counts its bytes but the filler's; `sei` are its SEI
messages; of a unit of one band, `record` holds words 0–14 of its record, `field` its vector field and `qpMap` its QP map (R190, R191); `head` are the
bytes of its parameter sets and SEI messages, `body` of its slices and its filler (R372). -/
structure UnitRec where
  j : Nat
  k : Nat
  first : Nat
  last : Nat
  bytes : Nat
  status : Nat
  held : Bool
  floor : Bool
  irap : Bool
  params : Bool
  lastInAu : Bool
  released : Nat
  due : Nat
  late : Bool := false
  coded : Nat := 0
  sei : List Sei := []
  record : List Nat := []
  field : List Nat := []
  qpMap : List Nat := []
  head : List Nat := []
  body : List Nat := []
  deriving DecidableEq, Repr

/-- A source band of an encode channel: its frame, its rows of each plane as they came, its nibble planes N1, N4 and N16 (R126, R166), and
the bits of its non-CTU syntax (R205). -/
structure SourceBand where
  k : Nat
  band : Nat
  planes : List (List (List Nat))
  nibbles : List (List (List Nat))
  headerBits : Nat
  deriving DecidableEq, Repr

/-- A reconstructed band in a channel's reference pool (R168, R223): its picture, its rows of luma at 10 bits, its nibble planes, and the
blocks of its motion store, and the QP′ of its CTUs. -/
structure BandImage where
  j : Nat
  band : Nat
  luma : List (List Nat)
  nibbles : List (List (List Nat))
  blocks : List Block
  qps : List Nat
  deriving DecidableEq, Repr

/-- The pictures that one picture of a channel may refer to (R203, R224): its places in decoding and output order, and those of the pictures
marked SHORT when it begins, the latest decoded first. -/
structure PicMarks where
  j : Nat
  k : Nat
  refs : List (Nat × Nat)
  deriving DecidableEq, Repr

/-- The candidates that the search of a piece-band gave (R178, R186): for each CTU, the vectors of its sub-blocks on each searched
reference, whole and refined to quarter samples. -/
structure Candidates where
  j : Nat
  band : Nat
  piece : Nat
  whole : List (List (Nat × List (Int × Int)))
  fine : List (List (Nat × List (Int × Int)))
  deriving DecidableEq, Repr

/-- A caption distribution packet of a flow: the frame it is aligned with, its cc_data, and its time code (R145, R146). -/
structure AncPacket where
  k : Nat
  cc : List Nat
  timecode : Option (Nat × Nat × Nat × Nat)
  deriving DecidableEq, Repr

/-- A forced picture (R159): the descriptor, TYPE, and the frame it fell on once known. -/
structure ForceReq where
  desc : Desc
  type : Nat
  frame : Option Nat
  deriving DecidableEq, Repr

/-- An enabled encode channel. `cfgs` lists the settings with the first frame each holds for, newest first (R154); `first` is
its first frame; `pictures` gives the kind of recent frames: 0 IDR, 1 CRA, 2 start of a rolling refresh, 3 other, 4 a cut;
`units` wait for delivery to host buffers, `stats` are bands whose statistics do, `wire` the recent units for egress;
`coBits` holds, by 8 × band + piece, 1 plus the CTU bits of the co-located piece-band (R205); `grey` bands held at intra floor, as (picture, band) (R152); `roll` the rolling refresh
under way: its first frame, its length, and whether it ends after one cycle; `episode` the bands held so far (R555);
`floorPic` the last picture with a floor band (R220); `begun` that the first IRAP is coded (R156); `place` the picture that
a best-effort channel codes next, `posts` its host pictures that have not completed (R288); `foreign` the recent frames whose
format differed (R153); `marks` the references of the pictures begun last, `source` and `images` the bands held of source and
reference pictures, `cands` the candidates found for the bands in coding; `search` settings as search takes them, each with the Stroke from
which releases use them (R187); `account` the bits of recent units of a VBR stream with their Strokes (R197); `anc` the packets of its
caption flow, `lastTc` the last time code sent (R145); `got` the band tokens that have arrived, as (picture, band, piece) (R142). -/
structure EncDyn where
  cfgs : List (Nat × EncCfg)
  first : Nat
  pictures : List (Nat × Nat) := []
  bands : List BandRec := []
  units : List UnitRec := []
  stats : List UnitRec := []
  wire : List UnitRec := []
  coBits : Tab Nat := []
  grey : List (Nat × Nat) := []
  force : List ForceReq := []
  mismatch : Bool := false
  episode : Option Nat := none
  floorPic : Option Nat := none
  lastIrap : Option Nat := none
  roll : Option (Nat × Nat × Bool) := none
  begun : Bool := false
  coded : Nat := 0
  floorBands : Nat := 0
  heldBands : Nat := 0
  floorPics : Nat := 0
  mismatches : Nat := 0
  forced : Nat := 0
  hdr : List Nat := []
  hdrNext : List Desc := []
  place : Nat := 0
  posts : List Desc := []
  foreign : List Nat := []
  marks : List PicMarks := []
  source : List SourceBand := []
  images : List BandImage := []
  cands : List Candidates := []
  search : List (Nat × EncCfg) := []
  account : List (Nat × Nat) := []
  anc : List AncPacket := []
  lastTc : Option (Nat × Nat × Nat × Nat) := none
  got : List (Nat × Nat × Nat) := []
  deriving DecidableEq, Repr
/-! ## Reference pools and decode channels (chapter "Reference pools and decode Seats") -/

/-- Samples of a picture in HBM: what names them, so that one of them that no command has stated is a free value of its own, and the rows of
their components where a command has. -/
structure Stored where
  place : List Nat
  planes : List (List (List Nat))
  deriving DecidableEq, Repr

/-- One buffer of a pool (R224): reference mark (0 UNUSED, 1 SHORT, 2 LONG), OUTPUT_PENDING, hold count, the picture it
holds by frame or slot index and picture order count, whether that picture is tainted (R237), of a decoded picture the rows of its
samples at 10 bits (R223), and the counts of the missing pictures it stands in for (R239). -/
structure Buffer where
  mark : Nat
  outPending : Bool
  hold : Nat
  busy : Bool
  slot : Option Nat
  poc : Int
  tainted : Bool
  present : Option Nat
  planes : List (List (List Nat)) := []
  stands : List Int := []
  deriving DecidableEq, Repr

/-- A pool (R222): its buffers, the bytes of one, whether its channel has been disabled, so that the pool goes once
its last buffer is free, and the region byte at which it is placed, in units of its region's placement (R226, R419). -/
structure Pool where
  buffers : List Buffer
  bytes : Nat
  closing : Bool
  place : Nat := 0
  deriving DecidableEq, Repr

/-- The settings of a decode channel as admission resolved them (R228–R236). `raw` holds the staged words whose change
restarts the channel (R557); `chroma` is 0 4:2:0, 1 4:2:2; `maxRate` is in bit/s, `arriveUs` in microseconds. -/
structure DecCfg where
  crew : Nat
  vvc : Bool
  profile : Nat
  level : Nat
  dpbMax : Nat
  reorder : Nat
  chroma : Nat
  gdrStart : Bool
  gdrClears : Bool
  width : Nat
  height : Nat
  num : Nat
  den : Nat
  flowIn : Nat
  maxRate : Nat
  arriveUs : Nat
  win : Nat
  pres : Nat
  consumers : Nat
  dseat : Nat
  flow : Nat
  raw : List Word
  deriving DecidableEq, Repr

/-- An access unit mapped to a slot (R233, R234): whether it is complete, whether its token is sent, whether it is above
AU_LIMIT, the frame nearest its output time, and its RTP timestamp. -/
structure SlotUnit where
  slot : Nat
  complete : Bool
  sent : Bool
  tooLarge : Bool
  out : Nat
  ts : Nat := 0
  deriving DecidableEq, Repr

/-- An access unit in assembly (R232, R233): its RTP timestamp, the sequence numbers that have come and that of the marker packet, its bytes,
whether it holds an IRAP picture and a GDR picture or recovery point, whether it matches the channel, its output delay, and whether it has
been counted as discarded. -/
structure AuAsm where
  ts : Nat
  seqs : List Nat := []
  marker : Option Nat := none
  bytes : Nat := 0
  irap : Bool := false
  recovery : Bool := false
  fits : Bool := true
  dropped : Bool := false
  delay : Nat := 0
  deriving DecidableEq, Repr

/-- An enabled decode channel. `start` is the slot of the unit that started decoding; `noBuffer` slots found no free buffer;
`episode` counts the pictures held and concealed in it; `tainted` says that taint has not cleared, `lastLoss` is the slot of the
last loss, `rasl` that RASL pictures of the last IRAP picture are tainted, `refreshing` that decoding began at a refresh not
yet past its recovery point (R237, R238); `asm` are the access units whose packets come, newest first; `shown` is the buffer presented, `holds` those that consumers hold, newest
first, and `shows` what the latest frame boundaries presented (R242, R255). -/
structure DecDyn where
  cfg : DecCfg
  first : Nat
  start : Option Nat := none
  mismatch : Bool := false
  units : List SlotUnit := []
  asm : List AuAsm := []
  noBuffer : List Nat := []
  episode : Option (Nat × Nat) := none
  tainted : Bool := false
  last : Bool := false
  lastLoss : Option Nat := none
  rasl : Bool := false
  refreshing : Bool := false
  resync : List Desc := []
  decoded : Nat := 0
  held : Nat := 0
  concealed : Nat := 0
  episodes : Nat := 0
  discarded : Nat := 0
  shown : Option Nat := none
  holds : List Nat := []
  shows : List (Nat × Stored) := []
  deriving DecidableEq, Repr
/-! ## Composition (chapter "Programmes, layers and pixel processing") -/

/-- A layer as admission resolved it (R254, R255, R267–R269). `crop` and `dst` are x, y, width, height; `scaler` is the first
scaler taken and `lines` L of R268. -/
structure LayerCfg where
  layer : Nat
  srcType : Nat
  srcFmt : Nat
  srcIndex : Nat
  srcW : Nat
  srcH : Nat
  cropX : Nat
  cropY : Nat
  cropW : Nat
  cropH : Nat
  dstX : Int
  dstY : Int
  dstW : Nat
  dstH : Nat
  group : Nat
  miss : Nat
  gamut : Nat
  pair : Bool
  scaler : Option Nat
  paired : Bool
  lines : Nat
  deriving DecidableEq, Repr

/-- A tap as admission resolved it (R279, R280). -/
structure TapCfg where
  tap : Nat
  fmt : Nat
  w : Nat
  h : Nat
  pair : Bool
  us : Nat
  lines : Nat
  paired : Bool
  deriving DecidableEq, Repr

/-- A programme as admission resolved it (R248–R253, R281); `lag` and `arrive` are in microseconds. -/
structure ProgCfg where
  crew : Nat
  gang : Nat
  width : Nat
  height : Nat
  num : Nat
  den : Nat
  form : Nat
  depth : Nat
  lag : Nat
  arrive : Nat
  egress : Bool
  queue : Nat
  zone : Nat
  zoneMax : Nat
  audGroup : Nat
  audTrim : Int
  layers : List LayerCfg
  taps : List TapCfg
  flows : List Nat
  deriving DecidableEq, Repr

/-- A post of a HOST or STILL layer that has not completed (R273–R276): its intended frame, the Strokes its copy starts and
completes, whether the copy is in HBM, and its samples where a command has stated them. -/
structure Post where
  desc : Desc
  layer : Nat
  frame : Nat
  start : Option Nat
  done : Option Nat
  copied : Bool
  planes : List (List (List Nat)) := []
  deriving DecidableEq, Repr

/-- A strip of a live source as it came (R251): frame, strip and the rows of its components. -/
structure SourceStrip where
  k : Nat
  j : Nat
  planes : List (List (List Nat))
  deriving DecidableEq, Repr

/-- What a live layer shows from source frame `k` on (R271): why it is dark, 0 when it is not, and the size and format that it follows. -/
structure LayerForm where
  k : Nat
  dark : Nat
  size : Nat × Nat
  fmt : Nat
  deriving DecidableEq, Repr

/-- A layer in operation: whether something has been flipped in, whether it was held at the last deadline, why it is dark
(0 when it is not), the size of the source it follows, where it has been moved, the source strips that have arrived, as
(frame, strip), newest first (R251), what it shows of its source by frames, newest first (R271), the samples of source strips that commands
state, and the buffer that is flipped in (R274). -/
structure LayerDyn where
  layer : Nat
  shown : Bool := false
  held : Bool := false
  dark : Nat := 0
  size : Nat × Nat := (0, 0)
  moved : Option (Int × Int) := none
  strips : List (Nat × Nat) := []
  forms : List LayerForm := []
  source : List SourceStrip := []
  buffer : Option Stored := none
  deriving DecidableEq, Repr

/-- What holds for a frame from its flip deadline on (R266, R274, R285): words of the programme's and its layers' registers, tone LUTs, matrices
and masks, where layers have been moved, and the buffers they show. -/
structure Look where
  k : Nat
  words : List (Nat × Word)
  lut : Tab (Option Nat)
  matrix : Tab (List Nat)
  mask : Tab (List Nat)
  moved : List (Nat × (Int × Int))
  buffers : List (Nat × Stored)
  deriving DecidableEq, Repr

/-- A strip as composed (R249): its check value, the rows of its output components (R264), and those of the programme in Y′CbCr 4:4:4 of 12
bits, which the taps take (R279). -/
structure StripImage where
  k : Nat
  b : Nat
  crc : Nat
  out : List (List (List Nat))
  mid : List (List (List Nat))
  deriving DecidableEq, Repr

/-- An enabled programme: the first frame composed, its layers, posts, moves that wait for a flip deadline, the frame last
affected by R278 with its layer mask, the open episode's frames, the counts of R289, the
zone delays in lines by the first output frame each holds for, newest first, none for frames that are skipped (R282), what holds for the
latest frames from their flip deadlines on (R266, R274), the masks of layers that a strip misses (R256), and the strips composed, which
the hold frame, the zone ring and the taps keep (R278, R279, R281). -/
structure ProgDyn where
  cfg : ProgCfg
  first : Nat
  layers : List LayerDyn
  posts : List Post := []
  moves : List Desc := []
  marked : Option (Nat × Nat) := none
  episode : Option Nat := none
  frames : Nat := 0
  held : Nat := 0
  postsHeld : Nat := 0
  episodes : Nat := 0
  darks : Nat := 0
  zones : List (Nat × Option Nat) := []
  looks : List Look := []
  misses : List (Nat × Nat × Nat) := []
  images : List StripImage := []
  deriving DecidableEq, Repr

/-- The composer beside its registers. `lut` is keyed 1,024 × layer slot + index, an unlisted entry being the identity
(R262); fences are (value, Stroke of the last signal); `matrix` is by layer slot and `mask` by programme, an empty list standing
for what holds until one is set (R261, R265). -/
structure Cmp where
  progs : Tab (Option ProgDyn) := []
  fences : Tab (Nat × Nat) := []
  lut : Tab (Option Nat) := []
  matrix : Tab (List Nat) := []
  mask : Tab (List Nat) := []
  deriving DecidableEq, Repr
/-! ## Audio (chapter "Audio") -/

/-- An alignment group as admission resolved it (R309): `rate` is in Hz, `members` are (source code, channels), `delay` is D in
samples, from a programme or from AUD_GRP_DELAY (R313). -/
structure AudGrpCfg where
  crew : Nat
  rate : Nat
  together : Bool
  block : Nat
  arriveUs : Nat
  delay : Nat
  fromProg : Bool
  members : List (Nat × Nat)
  flow : Nat
  deriving DecidableEq, Repr

/-- An enabled group: a new delay with the Stroke at which its ramp ends, the Stroke from which its destinations ramp up again and the first
sample that it has not read (R313), the Stroke after that of its last item read,
the concealed samples with the mask of the members concealed, newest first, the samples concealed in an open episode, and the counts of R321. -/
structure AudGrpDyn where
  cfg : AudGrpCfg
  next : Option (Nat × Nat) := none
  back : Option Nat := none
  seen : Nat := 0
  upto : Nat := 0
  hidden : List (Nat × Nat) := []
  episode : Option Nat := none
  read : Nat := 0
  concealed : Nat := 0
  late : Nat := 0
  episodes : Nat := 0
  deriving DecidableEq, Repr

/-- A channel-status block in assembly (R296): frames since its start, and the bytes of A and B. -/
structure CsAsm where
  pos : Nat := 192
  a : List Nat := []
  b : List Nat := []
  deriving DecidableEq, Repr

/-- An AES3 input's frames: how many have come, the frames whose samples stand for A and for B, and each sample that another took the place of,
newest first, as (Stroke, subframe, frame, frame that stands) (R297). -/
structure AesIn where
  count : Nat := 0
  a : Nat := 0
  b : Nat := 0
  stands : List (Nat × Nat × Nat × Nat) := []
  deriving DecidableEq, Repr

/-- A linear ramp over 1 ms, up or down, from the boundary of a Stroke (R301, R306, R313). -/
structure Ramp where
  up : Bool
  start : Nat
  deriving DecidableEq, Repr

/-- Samples of a destination that wait for the Stroke of their play time (R309): `first` is the first one's index at the group's `rate`, `lag`
is D and `wait` A + 2; `valid` holds their validity bits (R311). -/
structure Play where
  dest : Nat
  group : Nat
  stroke : Nat
  first : Nat
  rate : Nat
  lag : Nat
  wait : Nat
  words : List Nat
  valid : List Nat
  deriving DecidableEq, Repr

/-- What an ASRC channel serves (R294, R308): whether it lies on the way out of the media domain, the input or output by its number in the
Charter's class AUDIO_IO, its channel there and the group for an input's, and the Crew. -/
structure AsrcUse where
  out : Bool
  io : Nat
  chan : Nat
  group : Nat
  crew : Nat
  deriving DecidableEq, Repr

/-- The audio block beside its registers: groups; what ASRC channels serve; by source (R325 codes), what has arrived as (first sample, sample after the last,
Stroke), newest first, and the Strokes over which an input or port was unlocked; channel-status blocks in assembly; one more than
the last sequence number of each network stream; the masks of each port, keyed 2 × port + direction, as (Stroke, mask),
newest first (R320); the frames of AES3 inputs (R297); the ramps of outputs by their numbers in the Charter's class AUDIO_IO (R301, R306); and
what waits to be played, oldest first (R309). -/
structure Aud where
  groups : Tab (Option AudGrpDyn) := []
  asrcs : Tab (Option AsrcUse) := []
  arrived : Tab (List (Nat × Nat × Nat)) := []
  unlocked : Tab (List (Nat × Option Nat)) := []
  cs : Tab CsAsm := []
  lastSeq : Tab Nat := []
  masks : Tab (List (Nat × Nat)) := []
  ins : Tab AesIn := []
  ramps : Tab (Option Ramp) := []
  plays : List Play := []
  deriving DecidableEq, Repr
/-! ## Lanes and ports (chapter "Serial lanes and media ports") -/

/-- A lane beside its registers (R328, R333–R337, R346). `eq` names the state of CTLE and DFE, `snap` the state in the
snapshot; `run` and `least` count samples towards the next snapshot; `lost` is the local time in ns of a loss of lock not yet
made good, `warmAt` that of the last warm relock, `revertAt` the Stroke of a revert that bars the next; `begun` that the
lane has started since the reset of NET; `rate` the exponent of a rate injection that runs. -/
structure LaneDyn where
  eq : Nat := 0
  snap : Option Nat := none
  run : Nat := 0
  least : Nat := 255
  lost : Option Nat := none
  warmAt : Option Nat := none
  revertAt : Option Nat := none
  begun : Bool := false
  rate : Option Nat := none
  deriving DecidableEq, Repr

/-- The lanes and ports beside their registers: `upFrom` is one more than the Stroke from whose boundary a MAC instance
accepts egress (R341), `firmware` the frames passed to firmware in the current second (second, count) (R350), `margins` the least margin of each
lane since the last health report (R389). -/
structure Lan where
  lanes : Tab LaneDyn := []
  upFrom : Tab Nat := []
  firmware : Tab (Nat × Nat) := []
  margins : Tab Nat := []
  deriving DecidableEq, Repr
/-! ## Traffic (chapter "Traffic") -/

/-- A token bucket (R359, R365): its level in units of 1/8,000,000 byte, and the local time in ns of that level. -/
structure Bucket where
  level : Int
  at_ : Nat
  deriving DecidableEq, Repr

/-- A gate control list (R369): (gate bits, interval in ns) entries and BASE in ns. -/
structure GateList where
  entries : List (Nat × Nat)
  base : Nat
  deriving DecidableEq, Repr

/-- The gates of an egress port (R370): the list in force with its present entry and the local time in ns at which that entry ends,
and the pending list with its time T. -/
structure GateDyn where
  active : Option GateList
  entry : Nat
  ends : Nat
  pending : Option (GateList × Nat)
  deriving DecidableEq, Repr

/-- A live frame in an egress port's layout (R366): its start and its nominal launch time in ps
from the Stroke's boundary, its queue, packet number, counted length, RTP payload bytes, whether it is anchored, its RTP timestamp and marker bit,
and its transport packets by PID with what they carry (R373). -/
structure LiveFrame where
  start : Nat
  nominal : Nat
  queue : Nat
  no : Nat
  length : Nat
  bytes : Nat
  anchored : Bool
  ts : Nat
  marker : Bool
  pids : List (Nat × Nat)
  deriving DecidableEq, Repr

/-- EGS beside its registers. `policers` is keyed 2 × entry + path; `buckets` holds port m at m, class c of port m at
64 + 8m + c, subscriber s at 1,024 + s and queue q at 2,048 + q; `control` holds each port's waiting control frames: bytes,
the descriptor that one completes, and what an EAPOL frame holds; `layout` the live frames of this Stroke, by port; `sent` the packets sent of each queue (R374, R375); `replay` the
SRTP indexes seen of each classifier entry, newest first; `neighbours` the unicast addresses firmware has resolved (R375);
`rows` the picture rows of each
ingest flow that have arrived whole, as (frame, first, last), newest first (R142); `busy` the local time in ps at which each port's wire
is free. -/
structure Egs where
  policers : Tab (Option Bucket) := []
  buckets : Tab (Option Bucket) := []
  gates : Tab (Option GateDyn) := []
  control : Tab (List (Nat × Option Desc × List Nat)) := []
  layout : Tab (List LiveFrame) := []
  sent : Tab Nat := []
  replay : Tab (List Nat) := []
  neighbours : List (Nat × Nat) := []
  rows : Tab (List (Nat × Nat × Nat)) := []
  busy : Tab Nat := []
  deriving DecidableEq, Repr
/-! ## Paths (chapter "Faults, dual paths and availability") -/

/-- A merge key (R378, R379): the key, the local time in ns of its first candidate, that candidate's path and the CRC-32C of
its payload, and whether the other path's candidate has been compared. -/
structure MergeKey where
  key : Nat
  at_ : Nat
  path : Nat
  crc : Nat
  paired : Bool
  deriving DecidableEq, Repr

/-- The merge of an ingest flow: the highest key delivered, recent keys, and the counts since the last report (R389). -/
structure MergeDyn where
  high : Nat
  keys : List MergeKey
  both : Nat
  onlyA : Nat
  onlyB : Nat
  lost : Nat
  late : Nat
  deriving DecidableEq, Repr

/-- What a pair of ports has gathered since the last report: skews in units of 10 µs and packet counts. -/
structure PairAcc where
  skew : Option (Int × Int) := none
  onlyA : Nat := 0
  onlyB : Nat := 0
  both : Nat := 0
  deriving DecidableEq, Repr

/-- A foreign master of a PTP side (R401): its port, what it announces, the Stroke of its last Announce, and whether two have come within 4 of its
intervals. -/
structure ForeignMaster where
  source : Nat
  told : Announce
  heard : Nat
  qualified : Bool
  deriving DecidableEq, Repr

/-- A PTP side (R385): whether Announce, Sync and a path delay are within their limits, the grandmaster, the last offset and
path delay in ps, the Stroke since which it has been healthy without a break, its foreign masters and the best of them, and the VLAN tag
of the last Sync (R401). -/
structure Side where
  announce : Bool := false
  sync : Bool := false
  delay : Bool := false
  gm : Nat := 0
  offset : Int := 0
  pathDelay : Int := 0
  since : Option Nat := none
  masters : List ForeignMaster := []
  best : Option Nat := none
  vlan : Option Nat := none
  deriving DecidableEq, Repr

/-- PATH beside its registers. Sides are 0 for instance PORT and 1 for its partner; `mismatch` and `delivered` count by MAC
instance and port group since the last report; `clean` counts consecutive reports without a cause (R390); `lastGm` is the
Stroke of the last change of grandmaster (R387); `wait` that from which the wait to restore runs; `paused` the local time
until which PAUSE stops a transmitter (R349). -/
structure Pth where
  merges : Tab (Option MergeDyn) := []
  pairs : Tab PairAcc := []
  mismatch : Tab Nat := []
  delivered : Tab Nat := []
  sides : Tab Side := []
  clean : Tab Nat := []
  lastGm : Option Nat := none
  wait : Option Nat := none
  paused : Tab Nat := []
  deriving DecidableEq, Repr
/-! ## Network time (chapter "Network time, time-stamps and timed pins") -/

/-- A timed output in operation (R406, R407): the next edge of its schedule, whether a pulse is out, and the local time in ns at which the last
one ends. -/
structure TimeOut where
  next : Option Nat := none
  high : Bool := false
  ends : Nat := 0
  deriving DecidableEq, Repr

/-- TIME beside its registers. `lockRun` counts consecutive offsets within LOCK_NS (R399); `hist` holds (Stroke, base
increment) of the last 64 s of LOCKED, newest first (R400); `corr` is the temperature correction in 2^-32 ns (R405); captures
are (local time in ns, falling) oldest first (R408); `popped` holds the seconds latched by the last pop; `utc` is the UTC
offset announced and `utcNext` one that waits for the end of the day (R404); `pulse` the Stroke of the last PPS_IN edge. -/
structure Tim where
  lockRun : Nat := 0
  hist : List (Nat × Nat) := []
  corr : Int := 0
  outs : Tab TimeOut := []
  caps : Tab (List (Nat × Bool)) := []
  utc : Option Nat := none
  utcNext : Option Nat := none
  pulse : Option Nat := none
  ppsHigh : Bool := false
  deriving DecidableEq, Repr
/-! ## Memory (chapter "In-package memory and its controller") -/

/-- A request to a pseudo-channel (R421): the Crew of the item, the byte offset, the bytes of a write (none: a read of the
sector), and the bits of the sector's 288 that its cells have flipped since they were written. -/
structure MemReq where
  crew : Nat
  addr : Nat
  write : Option (List Nat)
  flips : Nat
  deriving DecidableEq, Repr

/-- A pseudo-channel beside its registers: the write queue (offset, bytes), oldest first (R422); requests that wait for a
thaw (R429); local times in ns of parity errors (R427); sectors that froze it, with the Stroke (R427); its last 64 commands,
newest first (R428); postponed refreshes by bank and banks whose refresh fell due while frozen (R423); the trained
centres and the centres in use, by lane (R425, R426); the sector and the requester of the read that froze it. -/
structure PcDyn where
  queue : List (Nat × List Nat) := []
  waiting : List MemReq := []
  parity : List Nat := []
  froze : List (Nat × Nat) := []
  cmds : List Nat := []
  postponed : Tab Nat := []
  owed : List Nat := []
  trained : Tab Nat := []
  centre : Tab Nat := []
  failing : Option (Nat × Nat) := none
  deriving DecidableEq, Repr

/-- MEM beside its registers and the bytes. `check` holds, by granule (pseudo-channel × 2^25 + granule), the exclusive-or of the stored check bits with the right ones. -/
structure Mem where
  pcs : Tab PcDyn := []
  check : Tab Nat := []
  deriving DecidableEq, Repr
/-! ## Security (chapter "Crews, keys and the two-party Charter") -/

/-- A LOADED key slot (R454): purpose 1 SRTP or 2 SAK, its key check value, salt, and a number that stands for the key and
the SSCI. -/
structure KeySlot where
  purpose : Nat
  kcv : Nat
  key : Nat
  salt : List Nat
  deriving DecidableEq, Repr

/-- A MACsec secure association (R459): the key slot, next packet number and SCI. -/
structure Sa where
  slot : Nat
  pn : Nat
  sci : Nat
  deriving DecidableEq, Repr

/-- An audit entry (R467) without its number and MAC: kind, the Stroke of the event, words 4–10. -/
structure AuditEntry where
  kind : Nat
  stroke : Nat
  data : List Nat
  deriving DecidableEq, Repr

/-- The change order in flight (R444–R448): its descriptor, contents, TARGET, NOT_AFTER and hash, whether its pending records
are written, and how far it is: 2 VERIFYING, 3 QUEUED, 4 ACCEPTED, 5 applied with its marker to be written. -/
structure OrderDyn where
  desc : Desc
  order : Order
  stage : Nat
  pendingWritten : Bool
  target : Nat
  notAfter : Nat
  hash : Nat
  deriving DecidableEq, Repr

/-- The Charter's record set (R442): owners, region words, policy words, and SEQ. -/
structure Charter where
  owner : Tab Nat
  words : Tab Nat
  seq : Nat
  deriving DecidableEq, Repr

/-- The security block beside its registers. `owner` is the Charter's record in force, keyed 65,536 × CLASS + instance
(R439); SAs are keyed 64 × MAC instance + 32 × DIR + 4 × SC + AN; `backlog` holds audit entries that wait, oldest first
(R468), `lostSince` counts those lost since the last one written; `suspends` holds suspensions as (descriptor, Crew, level,
whether the audit entry is written) (R449); `void` says that no valid Charter record exists (R442). -/
structure Sec where
  owner : Tab Nat := []
  keys : Tab (Option KeySlot) := []
  sas : Tab (Option Sa) := []
  order : Option OrderDyn := none
  backlog : List AuditEntry := []
  lostSince : Nat := 0
  suspends : List (Desc × Nat × Nat × Bool) := []
  void : Bool := false
  enrolKey : Tab Nat := []
  requests : Nat := 0
  deriving DecidableEq, Repr
/-! ## Check-value units (chapter "Check-value units") -/

/-- A check-value unit beside its registers (R476, R478): the CRC register, the bytes fed since the restart, and the writes
that wait, oldest first, as (register offset, bytes, value). -/
structure ChkDyn where
  crc : Nat
  count : Nat
  queue : List (Nat × Nat × Nat)
  deriving DecidableEq, Repr
/-! ## Reset and option bytes (chapter "Reset, option bytes and start-up") -/

/-- Bytes 0–251 of the option bytes as shipped (R491): FORMAT 1, GENERATION 1, TOTAL_VFS 16, FLAGS with AUTONOMOUS, snapshot use and
SAVED, SPI_DIV 2, else 0. -/
def shippedOptions : List Nat := [1, 0, 0, 0, 1, 0, 0, 0, 0, 0, 16, 7, 0, 0, 0, 0, 0, 0, 0, 0, 2] ++ List.replicate 231 0

/-- RST beside its registers. `copyA` and `copyB` are the option bytes in NVM, as shipped with their CHECK at first; `inForce` those
in force, empty until they are first read (R491–R493); `lifecycle` and `fwFloor` are the monotonic counters (R492); `fwLoad` is the
FW_LOAD that waits for its image, `image` the version of the verified image that the controllers hold (R496); `reach` holds
PERST's reach, as AUTONOMOUS had it when PERST# was asserted (R482). -/
structure Rst where
  copyA : List Nat := shippedOptions ++ [24, 253, 185, 197]
  copyB : List Nat := shippedOptions ++ [125, 12, 198, 143]
  inForce : List Nat := []
  lifecycle : Nat := 0
  fwFloor : Nat := 0
  fwLoad : Option Desc := none
  image : Option Nat := none
  reach : Nat := 0
  deriving DecidableEq, Repr
/-! ## Temperature, supplies and the store (chapter "Temperature, supply monitoring and the event store") -/

/-- THM beside its registers. `updated` is the Stroke at which a sensor last updated; `changed` the Stroke of
the last change of the throttle step (R500), `resumes` the first at which best-effort work may go on after CRITICAL (R499); an episode holds its first local time in ns, its rail mask, and for each rail
the lowest voltage seen (R503); `alert` and `thermtrip` are pins asserted (R502, R538). -/
structure Thm where
  updated : Tab Nat := []
  changed : Nat := 0
  resumes : Nat := 0
  episode : Option (Nat × Nat × List (Nat × Nat)) := none
  last : Option (Nat × Nat × Nat) := none
  alert : Bool := false
  thermtrip : Bool := false
  deriving DecidableEq, Repr

/-- A 64-byte record that waits or is written (R506): its region (0 event log, 1 power-event slots, 2 journals), KIND, the
kind-specific bits, Stroke and payload. -/
structure NvmRec where
  region : Nat
  kind : Nat
  sub : Nat
  stroke : Nat
  payload : List Nat
  deriving DecidableEq, Repr

/-- What a save holds: lane snapshots as (lane, mode, state, margin) (R334), trained centres (R425), or a copy of the option
bytes (R495). -/
inductive NvmSave where
  | snapshots (l : List (Nat × Nat × Nat × Nat))
  | centres (l : List (Nat × Nat))
  | options (copy : Nat) (bytes : List Nat)
  deriving DecidableEq, Repr

/-- The store beside its registers (R505–R510): records on die waiting to be written, oldest first; saves that are held; the
event log with its SEQ, newest first; power-event slots, newest first, with whether CHECK is right, and whether the shutdown not yet
reported has a right CHECK (R510); audit entries written,
newest first; summaries by KIND (count, first and last Stroke, worst value); calibration; the Charter's record set; the role keys, the import key and the device audit key; erase counts, slots used since the erase, dirty sectors, erases under way, and
regions worn out. -/
structure Nvm where
  queue : List NvmRec := []
  saves : List NvmSave := []
  log : List (Nat × NvmRec) := []
  logSeq : Nat := 0
  power : List (NvmRec × Bool) := []
  powerSeq : Nat := 0
  shutdown : Option Bool := none
  audit : List (Nat × Nat × AuditEntry × Nat × Nat) := []
  auditSeq : Nat := 0
  epoch : Nat := 0
  summaries : Tab (Option (Nat × Nat × Nat × Nat)) := []
  snapshots : List (Nat × Nat × Nat × Nat) := []
  centres : List (Nat × Nat) := []
  charter : Option Charter := none
  roles : Tab (List Nat) := []
  importPub : List Nat := []
  auditKey : Nat := 0
  wear : Tab Nat := []
  used : Tab Nat := []
  dirty : List Nat := []
  erasing : List Nat := []
  worn : List Nat := []
  deriving DecidableEq, Repr
/-! ## Counters and replay (chapter "Performance counters and deterministic replay") -/

/-- PMU beside its registers: counters keyed 8 × bank + counter, the values that shared counters show (R516), and each
Crew's user page (R521). -/
structure Pmu where
  counts : Tab Nat := []
  shown : Tab Nat := []
  page : Tab (List Nat) := []
  deriving DecidableEq, Repr

/-- A record that a feed will apply (R528): its Stroke, KIND, SUB, OBJECT and DATA. -/
structure FedRec where
  stroke : Nat
  kind : Nat
  sub : Nat
  obj : Nat
  data : List Nat
  deriving DecidableEq, Repr

/-- RPL beside its registers: feeds that have not completed, each with its records left and the number applied;
`fed` counts the records fed since REPLAY mode was entered; `later` holds records of live items with the Stroke from which each may be
written (R452, R526). -/
structure Rpl where
  feeds : List (Desc × List FedRec × Nat) := []
  fed : Nat := 0
  later : List (Nat × Rec) := []
  deriving DecidableEq, Repr
/-! ## Commits and tables (chapter "The Stroke") -/

/-- What admission decided for a commit (R30): register values that take effect with it, each as (address, bits, word), the objects that flows belong to from
then on, the settings of the objects it enables or changes, what ASRC channels serve from then on, and the MB/s of host traffic,
from and to the host, of the configuration it makes (R117). -/
structure Placement where
  regs : List (Nat × Word × Word) := []
  flows : List (Nat × FlowObj) := []
  encs : List (Nat × EncCfg) := []
  decs : List (Nat × DecCfg) := []
  progs : List (Nat × ProgCfg) := []
  auds : List (Nat × AudGrpCfg) := []
  asrcs : Option (Tab (Option AsrcUse)) := none
  host : Nat × Nat := (0, 0)
  deriving DecidableEq, Repr

/-- A commit written and not yet in effect (R34–R39). `target` is the 64-bit Stroke named, 0 for as soon as possible;
`effect` its effect Stroke once accepted; `seq` counts the commits of its function, 0 for a change order; `filled` is the Stroke at whose
boundary the pools that it creates are filled with zeros, once that has begun (R226). -/
structure Commit where
  fn : Nat
  target : Nat
  writes : List (Nat × Word)
  admitting : Bool
  effect : Nat
  builds : List TableId
  order : Option Order
  place : Placement
  seq : Nat := 0
  filled : Option Nat := none
  deriving DecidableEq, Repr

/-- A double-banked table (R44–R46): 0 IDLE, 1 BUILDING, 2 SHADOW_READY; the keys of the side-CAM entries written before
and since the build began; whether the build is a rehash that swaps at the next boundary. -/
structure Bank where
  state : Nat
  before : List Nat
  since : List Nat
  rehash : Bool
  deriving DecidableEq, Repr

/-- An edit of a key table or tone LUT that found the side CAM full and waits for the swap of the shadow bank (R46): its descriptor, and
the key that a KEY_IMPORT brought. -/
structure Deferred where
  table : TableId
  desc : Desc
  key : Option KeySlot
  deriving DecidableEq, Repr

/-- STK's state beside its registers. `queue` holds QUEUED and ADMITTING commits in the order written, `accepted` the
ACCEPTED ones in admission order (R35). -/
structure Stk where
  stroke : Nat
  phase : Nat
  queue : List Commit
  accepted : List Commit
  banks : List Bank
  seqs : Tab Nat
  deferred : List Deferred := []
  deriving DecidableEq, Repr

/-! ## The whole device -/

/-- What an unlisted register of a function reads as: its reset value; the key is 2^32 × function + PF0 address. -/
def fnReset (k : Nat) : Word := regReset (k % 2 ^ 32)

/-- The device. `staged` holds, per function, the staged fields that differ from the values in force or that a commit on its way is to change (R13, R34), keyed as
`fnRegs`, which holds the registers that have one value per function. `latch` holds high words latched by a read of the low word, by register; `free` counts the free values drawn. `out` is what the
device has shown, newest first, and `log` the records of the record log, newest first. -/
structure Dev where
  regs : Tab Word
  staged : Tab (Option Word)
  fnRegs : Tab Word
  stk : Stk
  cox : Cox
  hif : Hif
  enc : Tab (Option EncDyn)
  pools : Tab (Option Pool)
  dec : Tab (Option DecDyn)
  cmp : Cmp
  aud : Aud := {}
  lan : Lan := {}
  egs : Egs := {}
  pth : Pth := {}
  tim : Tim := {}
  hbm : Mem := {}
  sec : Sec := {}
  chk : Tab ChkDyn := []
  rst : Rst := {}
  thm : Thm := {}
  nvm : Nvm := {}
  pmu : Pmu := {}
  rpl : Rpl := {}
  latch : Tab (Option Nat) := []
  log : List Rec
  out : List Output
  free : Nat
  deriving DecidableEq, Repr

/-- The bytes of the HBM: (address, byte) pairs with strictly rising addresses and no byte 0, since an unlisted byte reads
0. The address of byte `o` of pseudo-channel `p` is p × 2^29 + o. -/
abbrev Memory := List Host.Cell

/-- The block: the commands that wait, first in first out, the bytes of the HBM, and the device. -/
structure State where
  pending : List Instr
  mem : Memory
  dev : Dev
  deriving DecidableEq, Repr

/-- The device right after power-on reset is released: every domain is still in reset (R482, R484). -/
def Dev.reset : Dev :=
  { regs := [], staged := [], fnRegs := [],
    stk := { stroke := 0, phase := 0, queue := [], accepted := [],
             banks := [⟨0, [], [], false⟩, ⟨0, [], [], false⟩, ⟨0, [], [], false⟩, ⟨0, [], [], false⟩, ⟨0, [], [], false⟩],
             seqs := [] },
    cox := { items := [], gone := [], was := [], flowObj := [], draining := [], pause := [], beUsed := [], cut := [],
             lastRun := [], readyNo := 0 },
    hif := { rings := [], staged := [], due := [], standing := [], evSeq := [], evHead := [], evLost := [], unsig := [],
             lastInt := [], msix := [], msixPend := [], numVfs := 0, reads := [], resetting := [], releasing := [], epoch := 0, liveRd := 0, liveWr := 0 },
    enc := [], pools := [], dec := [], cmp := {}, log := [], out := [], free := 0 }

/-- The machine right after reset: power-on reset has just been released, and no domain yet (R482, R484). -/
def State.reset : State := { pending := [], mem := [], dev := Dev.reset }

end Sys2Proof.Machine
end

