-- ==== Sys2Proof/Machine/EncCalc.lean ====
section
/-! DEFINITION. The figures of an encode channel that follow from its settings: bands, pieces and certified costs
(R131–R139), the Strokes of its bands (R21, R22, R201), the search schedules (R169–R184), the slots and the signalled buffer
(R194–R199), the floor (R207–R213), and its memory (R223, R227). -/

namespace Sys2Proof.Machine

/-! ## Frames and Strokes (R21, R22) -/

/-- The Stroke that holds the boundary of frame `k` at `num`/`den` frames per second. -/
def frameStroke (num den k : Nat) : Nat := k * 8000 * den / num

/-- Frames in one repetition of the pattern of frame boundaries within Strokes. -/
def repFrames (num den : Nat) : Nat := num / Nat.gcd num (8000 * den)

/-- Strokes in one repetition of that pattern. -/
def repStrokes (num den : Nat) : Nat := 8000 * den / Nat.gcd num (8000 * den)

/-- The first frame whose boundary lies at or after the boundary of a Stroke. -/
def frameAtOrAfter (num den s : Nat) : Nat := cdiv (s * num) (8000 * den)

/-- The Stroke that holds instant `x` of a line grid of `height` lines to a frame, `us` microseconds later. -/
def lineStroke (num den height us x : Nat) : Nat := (x * den * 1000000 + us * num * height) / (125 * num * height)

/-- The first instant of such a line grid at or after the boundary of Stroke `s`. -/
def lineAtOrAfter (num den height us s : Nat) : Nat := cdiv ((125 * s - us) * num * height) (1000000 * den)

/-! ## Pieces and costs (R131–R139) -/

/-- Bands of a picture. -/
def EncCfg.bands (c : EncCfg) : Nat := cdiv c.height c.ctu

/-- CTUs across a picture. -/
def EncCfg.ctus (c : EncCfg) : Nat := cdiv c.width c.ctu

/-- Lines of a band; the last one may be short (R22). -/
def EncCfg.lines (c : EncCfg) (b : Nat) : Nat := min c.ctu (c.height - b * c.ctu)

/-- CTUs across a piece under TILES (R137). -/
def EncCfg.tileCtus (c : EncCfg) (i : Nat) : Nat := c.ctus / c.pieces + (if i < c.ctus % c.pieces then 1 else 0)

/-- The first CTU column of a piece under TILES. -/
def EncCfg.tileFirst (c : EncCfg) (i : Nat) : Nat := i * (c.ctus / c.pieces) + min i (c.ctus % c.pieces)

/-- CTUs across a piece-band: a tile's, or the whole row's. -/
def EncCfg.pieceCtus (c : EncCfg) (i : Nat) : Nat := if c.division = 1 then c.tileCtus i else c.ctus

/-- Luma samples across a piece-band. -/
def EncCfg.pieceWidth (c : EncCfg) (i : Nat) : Nat :=
  if c.division = 1 then min c.width ((c.tileFirst i + c.tileCtus i) * c.ctu) - c.tileFirst i * c.ctu else c.width

/-- The codec's highest QP′. -/
def qpTop (vvc : Bool) : Nat := if vvc then 75 else 63

/-- Whether a piece codes a part of a band (R138, R139). -/
def EncCfg.takes (c : EncCfg) (i b : Nat) : Bool := decide (b < c.bands) && (c.division = 1 || b % c.pieces = i)

/-- Cycles per pixel (R131). -/
def EncCfg.cpp (c : EncCfg) : Nat := if c.vvc then 2 else 1

/-- Certified cost of one CTU. -/
def EncCfg.ctuCost (c : EncCfg) : Nat := c.ctu * c.ctu * c.cpp

/-- Certified cost of the item of a piece and band (R28, R131, R138). -/
def EncCfg.itemCost (c : EncCfg) (i b : Nat) : Nat :=
  c.pieceWidth i * c.lines b * c.cpp + (if c.division = 2 ∧ 1 < c.pieces then 2 * c.ctuCost else 0)

/-- The cost under the cut schedule (R184). -/
def cutCost (cost : Nat) : Nat := cost - cost / 8

/-- Cycles of the floor pass of a piece-band (R213). -/
def EncCfg.floorPass (c : EncCfg) (i b : Nat) : Nat := 1000 + cdiv (c.pieceWidth i * c.lines b) 64

/-- Certified cycles of a piece in one picture. -/
def EncCfg.pieceCycles (c : EncCfg) (i : Nat) : Nat :=
  sumBy (fun b => if c.takes i b then c.itemCost i b else 0) (List.range c.bands)

/-- Cycles in 1,001 seconds of `n` cycles a frame: the exact form of a demand (R30, R68). -/
def per1001 (num den n : Nat) : Nat := n * num * (1001 / den)

/-- CTUs of a segment of a best-effort band (R148). -/
def EncCfg.segmentCtus (c : EncCfg) (quantum : Nat) : Nat := quantum / c.ctuCost

/-! ## When bands are released (R201) -/

/-- Frames by which coding follows capture: 0 Sprint, 1 Course, N Head. -/
def EncCfg.lag (c : EncCfg) : Nat := if c.cls = 0 then 0 else if c.cls = 1 then 1 else c.headN

/-- The last line of a band, counted from the frame boundary. -/
def EncCfg.bandEnd (c : EncCfg) (b : Nat) : Nat := min ((b + 1) * c.ctu) c.height

/-- e: the Stroke at which the band item `b` of the `j`-th picture in decoding order may first be released (R201, R280). -/
def EncCfg.release (c : EncCfg) (j b : Nat) : Nat :=
  lineStroke c.num c.den c.height c.tapUs ((j + c.lag) * c.height + c.bandEnd b)

/-- The (picture, band) pairs whose release Stroke is `s`, in order. -/
def EncCfg.dueAt (c : EncCfg) (s : Nat) : List (Nat × Nat) :=
  let lo := lineAtOrAfter c.num c.den c.height c.tapUs s
  let hi := lineAtOrAfter c.num c.den c.height c.tapUs (s + 1)
  (List.range (hi - lo)).filterMap fun n =>
    let x := lo + n
    let k := (x - 1) / c.height
    let l := x - k * c.height
    if 0 < x ∧ c.lag ≤ k ∧ (l = c.height ∨ l % c.ctu = 0) then some (k - c.lag, cdiv l c.ctu - 1) else none

/-- Items of a piece to a band: 1, or the segments of the widest piece of a best-effort channel (R148). -/
def EncCfg.segs (c : EncCfg) : Nat := if c.segCtus = 0 then 1 else max 1 (cdiv (c.pieceCtus 0) c.segCtus)

/-- The item sequence number of segment `s` of a band (R55). DEDUCED: items are counted over the whole stream, from frame 0
(notes/assumptions/32.md). -/
def EncCfg.segSeq (c : EncCfg) (j b s : Nat) : Nat := ((j * c.bands + b) * c.segs + s) % 65536

/-- The item sequence number of a band. -/
def EncCfg.seqOf (c : EncCfg) (j b : Nat) : Nat := c.segSeq j b 0

/-- The (picture, band, segment) of the item with a number. -/
def EncCfg.ofNumber (c : EncCfg) (n : Nat) : Nat × Nat × Nat :=
  (n / c.segs / c.bands, n / c.segs % c.bands, n % c.segs)

/-- The number that an item sequence number stands for near a Stroke: the nearest to the items of the band then captured. -/
def EncCfg.numberNear (c : EncCfg) (now seq : Nat) : Nat :=
  let here := now * c.num / (8000 * c.den) * c.bands * c.segs + 32768
  here - (here + 65536 - seq % 65536) % 65536

/-- The (picture, band) that an item sequence number names near a Stroke. -/
def EncCfg.bandOf (c : EncCfg) (now seq : Nat) : Nat × Nat :=
  let x := c.ofNumber (c.numberNear now seq)
  (x.1, x.2.1)

/-- Certified cost of a segment of a best-effort band (R148). -/
def EncCfg.segCost (c : EncCfg) (i s : Nat) : Nat := (min ((s + 1) * c.segCtus) (c.pieceCtus i) - s * c.segCtus) * c.ctuCost

/-- The distance in output order of the picture coded at place `p` of a Head group of `n` pictures from the group's anchor
(R202): the last first, then each interval split at its midpoint, the earlier half before the later. -/
def headOrder : (fuel lo hi : Nat) → List Nat
  | 0, _, _ => []
  | f + 1, lo, hi =>
    if hi < lo then []
    else
      let m := (lo + hi) / 2
      m :: (headOrder f lo (m - 1) ++ headOrder f (m + 1) hi)

/-- The frame, counted from the first, that the `j`-th picture in decoding order shows. -/
def EncCfg.frameOfPicture (c : EncCfg) (j : Nat) : Nat :=
  if c.cls = 2 ∧ 0 < j then
    let n := max 1 c.headN
    let g := (j - 1) / n
    g * n + ((n :: headOrder n 1 (n - 1)).getD ((j - 1) % n) 0)
  else j

/-! ## Search (R169–R184) -/

/-- B: fabric units per CTU (R169). -/
def EncCfg.searchBudget (c : EncCfg) : Nat := c.ctuCost / 4

/-- Units of one reference (R170). MODE 0 HIER, 1 WINDOW, 2 BOTH. -/
def searchUnits (n mode h v s k rf : Nat) : Nat :=
  let q := (n / 16) * (n / 16)
  (if mode = 1 then 0 else cdiv ((2 * h / 16 + 1) * (2 * v / 16 + 1) * q) 4096) +
  (if mode = 0 then cdiv (k * 81 * 16 * q) 4096 + cdiv (2 * ((2 * rf + 1) * (2 * rf + 1)) * 256 * q) 4096 else 0) +
  (if mode = 0 then 0 else cdiv ((if mode = 1 then 3 else 5) * ((2 * s + 1) * (2 * s + 1)) * n * n) 4096)

/-- The full schedule (R170). -/
def EncCfg.units (c : EncCfg) : Nat := c.refs * searchUnits c.ctu c.meMode c.hierH c.hierV c.winS 4 3

/-- A range halved and rounded down to a multiple of 16, at least 16 (R184). -/
def halfRange (r : Nat) : Nat := max 16 (r / 2 / 16 * 16)

/-- The cut schedule (R184). -/
def EncCfg.cutUnits (c : EncCfg) : Nat :=
  searchUnits c.ctu c.meMode (halfRange c.hierH) (halfRange c.hierV) (c.winS / 2) 2 1

/-- Bytes of the window of one reference (R179); none in HIER. -/
def EncCfg.windowBytes (c : EncCfg) : Nat :=
  if c.meMode = 0 then 0 else (2 * c.ctu + 2 * c.winH) * (c.ctu + 2 * c.winV) / 2

/-- The vertical search range (R183). -/
def EncCfg.vertical (c : EncCfg) : Nat :=
  (if c.meMode = 0 then c.hierV else if c.meMode = 1 then c.winV else max c.hierV c.winV) + c.ctu + 4

/-- The last band of a reference picture within the vertical search range of band `b` (R143). -/
def EncCfg.lastRefBand (c : EncCfg) (b : Nat) : Nat := min (c.bands - 1) ((c.bandEnd b - 1 + c.vertical) / c.ctu)

/-- The boundary at which the reference token of band `b` of picture `j` is issued (R143): that after the completion
deadline of the last band in range of the previous picture in decoding order; for the first picture, its release. -/
def EncCfg.refToken (c : EncCfg) (j b : Nat) : Nat :=
  if j = 0 then c.release 0 b else c.release (j - 1) (c.lastRefBand b) + 3

/-- HBM bytes a band item of width `w` reads for search, times 512 × CTU size (R182). -/
def EncCfg.searchReads (c : EncCfg) (w : Nat) : Nat :=
  c.refs * ((if c.meMode = 0 then 0 else (w + 2 * c.winH) * (c.ctu + 2 * c.winV) * 256 * c.ctu) +
    (if c.meMode = 1 then 0 else (w + 2 * c.hierH) * (c.ctu + 2 * c.hierV) * c.ctu) +
    (if c.meMode = 0 then w * (if c.ctu = 32 then 2448 else if c.ctu = 64 then 8896 else 34176) * 512 else 0))

/-! ## Slots and the signalled buffer (R194–R199) -/

/-- Bits per second. -/
def EncCfg.bps (c : EncCfg) : Nat := c.rate * 1000

/-- S: the slot of the unit of band `b`, in bytes (R194); Course and Head have one unit to a picture. -/
def EncCfg.slot (c : EncCfg) (b : Nat) : Nat :=
  if c.cls = 0 then
    c.bps * c.den * (if b + 1 < c.bands then c.lines (b + 1) else c.lines 0) / (8 * c.num * c.height)
  else c.bps * c.den / (8 * c.num)

/-- The smallest slot. -/
def EncCfg.slotMin (c : EncCfg) : Nat :=
  (List.range c.bands).foldl (fun m b => min m (c.slot b)) (c.slot 0)

/-- Lines of the longest slot: a best-effort stream is signalled at picture level (R219). -/
def EncCfg.longLines (c : EncCfg) : Nat := if c.cls = 0 ∧ c.live then maxBy c.lines (List.range c.bands) else c.height

/-- The CPB in bits: ceil(R × (L_max + 1/90,000 s)), rounded up to 16 bits, which every admissible size needs (R198). -/
def EncCfg.cpb (c : EncCfg) : Nat :=
  cdiv (cdiv (c.bps * (c.den * c.longLines * 90000 + c.num * c.height)) (c.num * c.height * 90000)) 16 * 16

/-- tick_divisor of a live Sprint channel (R199). -/
def EncCfg.tickDiv (c : EncCfg) : Nat :=
  if c.cls = 0 ∧ c.live then c.height / Nat.gcd c.ctu c.height else 0

/-! ## The floor (R207–R210) -/

/-- Floor bits of a CTU (R208) as (I picture, first of a run, later, refresh column). -/
def EncCfg.floorCosts (c : EncCfg) : Nat × Nat × Nat × Nat :=
  if c.vvc then (if c.ctu = 128 then (192, 112, 32, 200) else (64, 96, 16, 72))
  else if c.ctu = 32 then (24, 56, 8, 28) else (64, 72, 16, 68)

/-- The refresh columns of frame `r` of a rolling refresh: the columns shared out evenly over ROLL_FRAMES. DEDUCED from
the worked example of chapter 6 (two of 20 columns in 16 frames; notes/assumptions/33.md). -/
def EncCfg.isRefreshCol (c : EncCfg) (r col : Nat) : Bool :=
  decide (r * c.ctus / c.rollFrames ≤ col ∧ col < (r + 1) * c.ctus / c.rollFrames)

/-- Picture types as the floor tells them apart: intra, or inter with the place in a rolling refresh. -/
inductive FloorPic where
  | intra
  | inter (roll : Option Nat)
  deriving DecidableEq, Repr

/-- The floor cost of CTU column `col` in its own column of the table, not the first of a run. -/
def EncCfg.floorCtu (c : EncCfg) (t : FloorPic) (col : Nat) : Nat :=
  match t with
  | .intra => c.floorCosts.1
  | .inter (some r) => if c.isRefreshCol r col then c.floorCosts.2.2.2 else c.floorCosts.2.2.1
  | .inter none => c.floorCosts.2.2.1

/-- The floor cost of CTU column `col` as the first of a run. -/
def EncCfg.floorFirst (c : EncCfg) (t : FloorPic) (col : Nat) : Nat :=
  match t with
  | .intra => c.floorCosts.1
  | .inter (some r) => if c.isRefreshCol r col then c.floorCosts.2.2.2 else c.floorCosts.2.1
  | .inter none => c.floorCosts.2.1

/-- Fl: the floor cost of the run from CTU `i` to the end of a piece-band (R209). -/
def EncCfg.floorRun (c : EncCfg) (t : FloorPic) (piece i : Nat) : Nat :=
  let first := if c.division = 1 then c.tileFirst piece else 0
  let m := c.pieceCtus piece
  if m ≤ i then 0
  else c.floorFirst t (first + i) + sumBy (fun n => c.floorCtu t (first + i + 1 + n)) (List.range (m - i - 1))

/-- The floor cost of a whole band: every piece that takes part in it. -/
def EncCfg.floorBand (c : EncCfg) (t : FloorPic) (b : Nat) : Nat :=
  sumBy (fun i => if c.takes i b then c.floorRun t i 0 else 0) (List.range c.pieces)

/-- The picture types the channel can code. -/
def EncCfg.floorPics (c : EncCfg) : List FloorPic :=
  [.intra, .inter none] ++ (List.range (if c.rolling then c.rollFrames else 16)).map fun r => .inter (some r)

/-- FLOOR_BITS: the largest floor cost of a band over the picture types (R207–R209). -/
def EncCfg.floorBits (c : EncCfg) : Nat := maxBy (fun t => c.floorBand t 0) c.floorPics

/-- The settings that the slice headers of R214 depend on. -/
def EncCfg.headerKey (c : EncCfg) : List Nat :=
  [c.cls, bit c.vvc, c.profile, c.tier, c.level, c.ctu, c.headN, c.width, c.height, c.num, c.den, c.chroma, c.division,
   c.pieces, bit c.subpic, c.irapPeriod, bit c.rolling, c.rollFrames, c.toolOff, c.sei.toNat, bit c.vbr, c.rate, c.refCount]

/-! ## Memory (R223, R225, R227) -/

/-- A size rounded up to 4 KiB. -/
def r4k (n : Nat) : Nat := cdiv n 4096 * 4096

/-- Tile data of a buffer (R223). -/
def tileData (w h chroma : Nat) : Nat :=
  r4k (cdiv w 64 * cdiv h 64 * (if chroma = 0 then 7680 else if chroma = 1 then 10240 else 15360))

/-- Motion store of a buffer (R223). -/
def motionStore (w h : Nat) : Nat := r4k (cdiv w 16 * cdiv h 16 * 8)

/-- Nibble planes of a buffer (R168). -/
def nibblePlanes (w h : Nat) : Nat := r4k (cdiv (273 * w * h) 512)

/-- Bytes of one buffer of an encode pool. -/
def EncCfg.bufBytes (c : EncCfg) : Nat :=
  tileData c.width c.height c.chroma + motionStore c.width c.height + nibblePlanes c.width c.height

/-- The lowest REF_COUNT of the class, which AUTO takes (R225). -/
def EncCfg.autoRefs (c : EncCfg) : Nat := if c.cls = 2 then clog2 c.headN + 1 else 2

/-- Admitted HBM traffic in bytes per second, rounded up (R182, R227). -/
def EncCfg.hbmTraffic (c : EncCfg) : Nat :=
  let pool := 3 * tileData c.width c.height c.chroma + motionStore c.width c.height + nibblePlanes c.width c.height
  let items := sumBy (fun i => sumBy (fun b => if c.takes i b then c.searchReads (c.pieceWidth i) else 0)
    (List.range c.bands)) (List.range c.pieces)
  cdiv ((pool * 512 * c.ctu + items) * c.num) (512 * c.ctu * c.den)

/-- Host traffic of HOST_COPY in MB/s (R117). -/
def EncCfg.hostMBps (c : EncCfg) : Nat := if c.live && c.hostCopy then cdiv c.bps 8000000 else 0

/-- LOAD_MILLI: load in thousandths of a Seat (R131). -/
def EncCfg.loadMilli (c : EncCfg) : Nat := c.width * c.height * c.num * c.cpp * 1000 / (c.den * 8000 * 132812)

/-! ## Decode channels (R229–R236) -/

/-- Certified cost of a decode item. -/
def DecCfg.cost (c : DecCfg) : Nat := c.width * c.height

/-- c: the cost in Strokes of the decode live cap (R230). -/
def DecCfg.costStrokes (c : DecCfg) : Nat := cdiv c.cost 125000

/-- REL_OFF (R230). -/
def DecCfg.relOff (c : DecCfg) : Nat := c.win - c.costStrokes

/-- e_k: the Stroke that holds F_k + ARRIVE_OFF (R235). -/
def DecCfg.release (c : DecCfg) (k : Nat) : Nat := (k * c.den * 1000000 + c.arriveUs * c.num) / (125 * c.num)

/-- PRES without PRES_ADD (R235). -/
def presOf (num den arriveUs win : Nat) : Nat := cdiv ((arriveUs + (win + 3) * 125) * num) (1000000 * den)

/-- Buffers of the pool (R236). -/
def DecCfg.buffers (c : DecCfg) : Nat := c.dpbMax + c.pres + 2 * c.consumers

/-- Bytes of one buffer. -/
def DecCfg.bufBytes (c : DecCfg) : Nat := tileData c.width c.height c.chroma + motionStore c.width c.height

/-- AU_LIMIT in bytes (R234). -/
def DecCfg.auLimit (c : DecCfg) : Nat := cdiv (4 * c.maxRate * c.den) (8 * c.num)

/-- Admitted HBM traffic in bytes per second (R227). -/
def DecCfg.hbmTraffic (c : DecCfg) : Nat :=
  cdiv (4 * tileData c.width c.height c.chroma * c.num) c.den + cdiv (2 * c.maxRate) 8

/-- LOAD_MILLI. -/
def DecCfg.loadMilli (c : DecCfg) : Nat := c.cost * c.num * 1000 / (c.den * 1000000000)

/-- The slot that an item sequence number names near a Stroke. -/
def DecCfg.slotOf (c : DecCfg) (now seq : Nat) : Nat :=
  let here := now * c.num / (8000 * c.den) + 32768
  here - (here + 65536 - seq % 65536) % 65536

end Sys2Proof.Machine
end

