-- ==== Sys2Proof/Machine/Planes.lean ====
section
/-! DEFINITION. Samples of an encode channel: rounding, the source formats of a Seat (R126), the nibble planes of a band (R166–R168), and
the samples of an 8-bit stream in a pool (R223). A plane is a function of column and row. -/

namespace Sys2Proof.Machine

/-! ## Rounding -/

/-- n ÷ d rounded half up (R258). -/
def halfUp (n : Int) (d : Nat) : Int := (2 * n + d) / (2 * d : Nat)

/-- Clamps to 0 … top. -/
def clampTo (top : Nat) (x : Int) : Nat := min top x.toNat

/-- Clamps to the working range of 20 bits (R258). -/
def clamp20 (x : Int) : Nat := clampTo 1048575 x

/-- The index nearest to `i` among 0 … n − 1: replication beyond an edge. -/
def nearest (n : Nat) (i : Int) : Nat := clampTo (n - 1) i

/-! ## Source formats of a Seat (R126) -/

/-- Drops bits of depth: half of the dropped range is added before the shift. -/
def dropDepth (bits v : Nat) : Nat := (v + 2 ^ bits / 2) / 2 ^ bits

/-- 4:4:4 to 4:2:2, co-sited: [1, 2, 1]/4 about column 2k. -/
def chromaAcross (row : Int → Nat) (k : Int) : Nat := (row (2 * k - 1) + 2 * row (2 * k) + row (2 * k + 1) + 2) / 4

/-- 4:2:2 to 4:2:0: [1, 3, 3, 1]/8 on rows 2k − 1 to 2k + 2 of a column of `h` rows. -/
def chromaDown (h : Nat) (col : Nat → Nat) (k : Nat) : Nat :=
  let r (i : Int) : Nat := col (nearest h i)
  (r (2 * k - 1) + 3 * r (2 * k) + 3 * r (2 * k + 1) + r (2 * k + 2) + 4) / 8

/-! ## Search planes (R166, R167) -/

/-- Decimates a plane of `w` × `h` samples by 4 in each dimension. -/
def decimate (w h : Nat) (a : Nat → Nat → Nat) (x y : Nat) : Nat :=
  (sumBy (fun n => a (min (w - 1) (4 * x + n % 4)) (min (h - 1) (4 * y + n / 4))) (List.range 16) + 8) / 16

/-- The plane of factor 1, 4 or 16 of a picture of 10-bit luma. -/
def searchPlane (factor w h : Nat) (luma : Nat → Nat → Nat) : Nat → Nat → Nat :=
  let a4 := decimate w h luma
  match factor with
  | 1 => luma
  | 4 => a4
  | _ => decimate (cdiv w 4) (cdiv h 4) a4

/-- The band of a plane's row. -/
def planeBand (factor ctu y : Nat) : Nat := y * factor / ctu

/-- The row of band `b` nearest to row `y` of a plane, of which `y0` is in the band, looking at most `n` rows away. -/
def rowInBand (factor ctu rows b : Nat) (y : Int) (y0 : Nat) : (n : Nat) → Nat
  | 0 => y0
  | n + 1 =>
    if 0 ≤ y ∧ y < rows ∧ planeBand factor ctu y.toNat = b then y.toNat
    else rowInBand factor ctu rows b (if y < y0 then y + 1 else y - 1) y0 n

/-- The nibble of a plane at (x, y): the local mean is removed (R167). -/
def nibble (factor ctu cols rows : Nat) (a : Nat → Nat → Nat) (x y : Nat) : Nat :=
  let s := if factor = 1 then 3 else if factor = 4 then 2 else 1
  let row (j : Nat) : Nat := rowInBand factor ctu rows (planeBand factor ctu y) ((y : Int) + j - 4) y 4
  let m := (sumBy (fun n => a (nearest cols ((x : Int) + (n % 8 : Nat) - 4)) (row (n / 8))) (List.range 64) + 32) / 64
  clampTo 15 (((a x y : Int) - m) / (2 ^ s : Nat) + 8)

/-- The factors of the three planes. -/
def planeFactors : List Nat := [1, 4, 16]

/-- The rows of a band in a plane of factor `f` of a picture of `h` lines. -/
def bandRows (f ctu h band : Nat) : List Nat :=
  let lo := band * ctu / f
  (List.range (min ((band + 1) * ctu / f) (cdiv h f) - lo)).map (lo + ·)

/-- The nibble planes N1, N4 and N16 of a band, of luma at 10 bits (R166, R167). -/
def nibblesOf (ctu w h : Nat) (luma : Nat → Nat → Nat) (band : Nat) : List (List (List Nat)) :=
  planeFactors.map fun f => (bandRows f ctu h band).map fun y =>
    (List.range (cdiv w f)).map fun x => nibble f ctu (cdiv w f) (cdiv h f) (searchPlane f w h luma) x y

/-- A nibble of a band's planes, at a column and row of the whole plane. -/
def nibbleAt (planes : List (List (List Nat))) (ctu band f x y : Nat) : Nat :=
  let i := if f = 1 then 0 else if f = 4 then 1 else 2
  ((planes.getD i []).getD (y - band * ctu / f) []).getD x 0

/-! ## Formats (R124, R126, R223) -/

/-- The chroma format of SRC_FMT: 0 4:2:0, 1 4:2:2, 2 4:4:4. -/
def fmtChroma (f : Nat) : Nat := if f ≤ 1 then 1 else if f ≤ 3 then 2 else 0

/-- Bits of a sample of SRC_FMT. -/
def fmtDepth (f : Nat) : Nat := if f = 1 ∨ f = 3 then 12 else 10

/-- Bits of a coded sample: 8 in HEVC Main, 10 in every other profile (R124). -/
def EncCfg.depth (g : EncCfg) : Nat := if !g.vvc && g.profile = 1 then 8 else 10

/-- A sample reduced to fewer bits; one at the top stays there. DEDUCED (notes/assumptions/71.md). -/
def reduced (src depth v : Nat) : Nat := min (2 ^ depth - 1) (dropDepth (src - depth) v)

/-- A sample of a picture converted from one format to another with fewer bits or less chroma (R126): depth first, then 4:4:4 to 4:2:2, then
4:2:2 to 4:2:0. -/
def converted (depth chroma depth' chroma' w h : Nat) (source : Nat → Nat → Nat → Nat) (comp x y : Nat) : Nat :=
  let s (col row : Nat) : Nat := reduced depth depth' (source comp col row)
  if comp = 0 then s x y
  else
    let across (row : Nat) : Nat := if chroma = 2 ∧ chroma' < 2 then chromaAcross (fun i => s (nearest w i) row) x else s x row
    if 0 < chroma ∧ chroma' = 0 then chromaDown h across y else across y

/-- A plane of the picture as coded, from the planes of the source as they came (R126). -/
def EncCfg.coded (g : EncCfg) : (Nat → Nat → Nat → Nat) → Nat → Nat → Nat → Nat :=
  converted (fmtDepth g.srcFmt) (fmtChroma g.srcFmt) g.depth g.chroma g.width g.height

/-- A sample of a stream as a pool stores it, and as it is wanted again: an 8-bit one is shifted left by 2 (R223). -/
def EncCfg.stored (g : EncCfg) (v : Nat) : Nat := v * 2 ^ (10 - g.depth)

/-- A sample of a pool as the stream has it. -/
def EncCfg.unstored (g : EncCfg) (v : Nat) : Nat := v / 2 ^ (10 - g.depth)

/-- ACTIVITY of the lines `y0` to `y0 + n` of luma at 10 bits (R190). -/
def activityOver (w y0 n : Nat) (luma : Nat → Nat → Nat) : Nat :=
  let gap (a b : Nat) : Nat := max a b - min a b
  sumBy (fun i => sumBy (fun x =>
    (if 0 < x then gap (luma x (y0 + i)) (luma (x - 1) (y0 + i)) else 0) +
    (if 0 < i then gap (luma x (y0 + i)) (luma x (y0 + i - 1)) else 0)) (List.range w)) (List.range n)

end Sys2Proof.Machine
end

