-- ==== Sys2Proof/Machine/Params.lean ====
section
/-! DEFINITION. What the settings of an encode channel put into its bitstream beside its CTUs (R124–R130, R136, R137, R144–R147,
R196–R200, R207, R214): parameter sets as lists of syntax elements with their values, the order of slices, SEI messages, filler, the syntax
of a CTU coded at floor, and the bound of a unit's headers. Names of elements and the constraint flags of Table A.2 of ITU-T H.265 are
PRESUMED from the two standards (notes/assumptions/66.md). -/

namespace Sys2Proof.Machine

/-- Syntax elements with their values. -/
abbrev Syntax := List (String × Nat)

/-! ## Profile and format (R124, R126, R144) -/

/-- general_profile_idc of a profile code (R124). -/
def EncCfg.profileIdc (g : EncCfg) : Nat :=
  if g.vvc then (if g.profile = 4 then 33 else 1) else if g.profile = 1 then 1 else if g.profile = 2 then 2 else 4

/-- The constraint flags by which the two profiles of general_profile_idc 4 are told apart (R124). -/
def EncCfg.constraintFlags (g : EncCfg) : Syntax :=
  if g.vvc || g.profile < 3 then []
  else [("general_max_12bit_constraint_flag", 1), ("general_max_10bit_constraint_flag", 1), ("general_max_8bit_constraint_flag", 0),
    ("general_max_422chroma_constraint_flag", bit (g.profile = 3)), ("general_max_420chroma_constraint_flag", 0),
    ("general_max_monochrome_constraint_flag", 0), ("general_intra_constraint_flag", 0),
    ("general_one_picture_only_constraint_flag", 0), ("general_lower_bit_rate_constraint_flag", 1)]

/-- Profile, tier, level, format and depth (R124–R126). -/
def EncCfg.profileSyntax (g : EncCfg) : Syntax :=
  [("general_profile_idc", g.profileIdc), ("general_tier_flag", g.tier), ("general_level_idc", g.level)] ++ g.constraintFlags ++
  [("chroma_format_idc", g.chroma + 1), ("pic_width_in_luma_samples", g.width), ("pic_height_in_luma_samples", g.height),
   ("bit_depth_luma_minus8", g.depth - 8), ("bit_depth_chroma_minus8", g.depth - 8)]

/-- transfer_characteristics of TRANSFER (R144): SDR, PQ, HLG, HLG_COMPAT. -/
def transferCode (t : Nat) : Nat := [1, 16, 18, 14].getD t 1

/-- The VUI (R126, R144). -/
def EncCfg.vuiSyntax (g : EncCfg) : Syntax :=
  [("chroma_sample_loc_type", 0), ("video_full_range_flag", 0), ("colour_primaries", 9),
   ("transfer_characteristics", transferCode (F.encChSei_transfer.get g.sei)), ("matrix_coeffs", 9)]

/-! ## Tools (R127–R130) -/

/-- The flags of the tools that TOOL_OFF can withhold, with their bits (R127). -/
def toolBits (vvc : Bool) : List (String × Nat) :=
  if vvc then
    [("sps_alf_enabled_flag", 8), ("sps_ccalf_enabled_flag", 9), ("sps_lmcs_enabled_flag", 10), ("sps_dep_quant_enabled_flag", 11),
     ("sps_lfnst_enabled_flag", 12), ("sps_mts_enabled_flag", 13), ("sps_affine_enabled_flag", 14), ("sps_6param_affine_enabled_flag", 14),
     ("sps_sbtmvp_enabled_flag", 15), ("sps_mmvd_enabled_flag", 16), ("sps_bcw_enabled_flag", 17), ("sps_isp_enabled_flag", 18),
     ("sps_mrl_enabled_flag", 19), ("sps_cclm_enabled_flag", 20), ("sps_amvr_enabled_flag", 21), ("sps_sao_enabled_flag", 22),
     ("sps_bdof_enabled_flag", 23), ("sps_dmvr_enabled_flag", 23)]
  else
    [("sample_adaptive_offset_enabled_flag", 0), ("amp_enabled_flag", 1), ("sps_temporal_mvp_enabled_flag", 2),
     ("sign_data_hiding_enabled_flag", 3), ("transform_skip_enabled_flag", 4), ("strong_intra_smoothing_enabled_flag", 5)]

/-- Whether a tool is used: its bit of TOOL_OFF is 0. -/
def EncCfg.uses (g : EncCfg) (b : Nat) : Bool := !bitAt g.toolOff b

/-- The flags of the tools. Sign data hiding of VVC is off while dependent quantisation is on (R127). DEDUCED
(notes/assumptions/66.md): it is on where that is withheld. -/
def EncCfg.toolSyntax (g : EncCfg) : Syntax :=
  (toolBits g.vvc).map (fun t => (t.1, bit (g.uses t.2))) ++ (if g.vvc then [("sps_sign_data_hiding_enabled_flag", bit (!g.uses 11))] else [])

/-- The flags of tools that are never used (R128). -/
def neverSyntax (vvc : Bool) : Syntax :=
  (if vvc then ["sps_mip_enabled_flag", "sps_ibc_enabled_flag", "sps_palette_enabled_flag", "sps_act_enabled_flag", "sps_gpm_enabled_flag",
      "sps_ref_pic_resampling_enabled_flag"]
    else ["pcm_enabled_flag", "sps_multilayer_extension_flag", "sps_3d_extension_flag", "sps_scc_extension_flag"]).map fun n => (n, 0)

/-- The limits of partitioning, sizes in luma samples (R129, R130). -/
def EncCfg.partitionSyntax (g : EncCfg) : Syntax :=
  if g.vvc then
    let big := g.ctu = 128
    [("min_coding_block", 4), ("min_qt_leaf_intra", 16), ("min_qt_leaf_inter", if big then 32 else 16), ("max_mtt_depth_intra_luma", 2),
     ("max_mtt_depth_inter", if big then 3 else 2), ("max_mtt_depth_intra_chroma", 2), ("max_bt_intra", 64),
     ("max_bt_inter", if big then 128 else 64), ("max_tt_intra", 32), ("max_tt_inter", 64), ("qtbtt_dual_tree_intra_flag", 1),
     ("max_transform", 64)]
  else
    [("min_coding_unit", 8), ("min_transform", 4), ("max_transform", 32), ("max_transform_hierarchy_depth_intra", 1),
     ("max_transform_hierarchy_depth_inter", 2), ("log2_parallel_merge_level", 2)]

/-! ## Division (R135–R137) -/

/-- Whether the pieces are tile columns of the stream: HEVC Sprint carries them as slices. -/
def EncCfg.tiled (g : EncCfg) : Bool := g.division = 1 && (g.vvc || g.cls ≠ 0)

/-- Whether the tile columns are subpictures (R136). -/
def EncCfg.subpictures (g : EncCfg) : Bool := g.vvc && g.division = 1 && (g.cls = 0 || g.subpic)

/-- Tiles, slices and subpictures (R135–R137): widths are signalled explicitly, and no loop filter crosses a boundary. -/
def EncCfg.divisionSyntax (g : EncCfg) : Syntax :=
  [("loop_filter_across_tiles_enabled_flag", 0), ("loop_filter_across_slices_enabled_flag", 0),
   ("tile_columns", if g.tiled then g.pieces else 1), ("tile_rows", 1), ("entropy_coding_sync_enabled_flag", bit (g.division = 2)),
   ("dependent_slice_segments_enabled_flag", bit (!g.vvc && g.cls = 0 && g.division = 2))] ++
  (if g.tiled then (if g.vvc then [] else [("uniform_spacing_flag", 0)]) ++
      (List.range g.pieces).map fun i => ("tile_column_width", g.tileCtus i)
    else []) ++
  (if g.subpictures then [("subpic_info_present_flag", 1), ("subpic_treated_as_pic_flag", bit g.subpic)] else [])

/-- A slice of a picture, in the order in which slices leave (R135, R136): the bands it holds, first and last, the pieces, first and last,
and whether it is a dependent slice segment. -/
structure SliceForm where
  bands : Nat × Nat
  pieces : Nat × Nat
  dependent : Bool
  deriving DecidableEq, Repr

/-- The slices of bands `b0` to `b1` in the order in which they leave: band by band under Sprint, within a band piece by piece. -/
def EncCfg.sliceForms (g : EncCfg) (b0 b1 : Nat) : List SliceForm :=
  let bands := (List.range (b1 + 1 - b0)).map (b0 + ·)
  let all := (0, g.pieces - 1)
  if g.division = 3 then bands.map fun b => ⟨(b, b), all, false⟩
  else if g.division = 2 then
    (if !g.vvc && g.cls = 0 then bands.map fun b => ⟨(b, b), all, decide (0 < b)⟩ else [⟨(b0, b1), all, false⟩])
  else if g.cls = 0 then bands.flatMap fun b => (List.range g.pieces).map fun i => ⟨(b, b), (i, i), false⟩
  else if g.vvc then (List.range g.pieces).map fun i => ⟨(b0, b1), (i, i), false⟩
  else [⟨(b0, b1), all, false⟩]

/-- Whether the coding of a band may refer to the band above it (R135, R136, R139): not in an independent slice of its own. -/
def EncCfg.refersAbove (g : EncCfg) : Bool := g.division = 2 || (g.division = 1 && g.cls ≠ 0)

/-! ## The buffer model as signalled (R198–R200, R219) -/

/-- Whether the stream is in decoding-unit operation: a live Sprint channel (R199, R219). -/
def EncCfg.duMode (g : EncCfg) : Bool := g.live && g.cls = 0

/-- Lines whose time is the slot of a unit that begins with band `b` (R194). -/
def EncCfg.slotLines (g : EncCfg) (b : Nat) : Nat :=
  if g.duMode then (if b + 1 < g.bands then g.lines (b + 1) else g.lines 0) else g.height

/-- The initial CPB removal delay in units of 90 kHz: the first slot after the buffering period (R198). -/
def EncCfg.removalDelay (g : EncCfg) : Nat := cdiv (90000 * g.slotLines 0 * g.den) (g.num * g.height)

/-- The sub-ticks from a band's first byte to its removal, at the end of its slot (R199). -/
def EncCfg.slotTicks (g : EncCfg) (b : Nat) : Nat := g.slotLines b / Nat.gcd g.ctu g.height

/-- The HRD parameters (R198, R199). A best-effort stream is signalled as VBR (R219). -/
def EncCfg.hrdSyntax (g : EncCfg) : Syntax :=
  [("nal_hrd_parameters_present_flag", 1), ("vcl_hrd_parameters_present_flag", 0), ("cpb_cnt_minus1", 0), ("bit_rate", g.bps),
   ("cbr_flag", bit (g.live && !g.vbr)), ("cpb_size", g.cpb), ("num_units_in_tick", g.den), ("time_scale", g.num),
   (if g.vvc then "general_du_hrd_params_present_flag" else "sub_pic_hrd_params_present_flag", bit g.duMode)] ++
  (if g.duMode then
    [(if g.vvc then "du_cpb_params_in_pic_timing_sei_flag" else "sub_pic_cpb_params_in_pic_timing_sei_flag", 0), ("tick_divisor", g.tickDiv)]
   else [])

/-- The parameter sets of a channel. -/
def EncCfg.parameterSets (g : EncCfg) : Syntax :=
  g.profileSyntax ++ g.vuiSyntax ++ g.toolSyntax ++ neverSyntax g.vvc ++ g.partitionSyntax ++ g.divisionSyntax ++ g.hrdSyntax

/-! ## SEI messages (R144–R147, R200) -/

/-- The UUID under which VVC carries the time code, in big-endian words (R145). -/
def timeCodeUuid : List Nat := [0x5A3C91E4, 0x0B724D18, 0x9E6F22B7, 0xC0D4A815]

/-- The payload number of an SEI message (R144). -/
def Sei.payload (vvc : Bool) : Sei → Nat
  | .bufferingPeriod _ _ => 0
  | .pictureTiming => 1
  | .duInfo _ => 130
  | .timeCode .. => if vvc then 5 else 136
  | .mdcv _ => 137
  | .cll _ => 144
  | .transfer _ => 147
  | .captions _ => 4
  | .recoveryPoint _ => 6

/-- The values that a message carries beyond what the standard fixes (R145–R147). -/
def Sei.values (vvc : Bool) : Sei → List Nat
  | .bufferingPeriod delay offset => [delay, offset]
  | .pictureTiming => []
  | .duInfo n => [n]
  | .timeCode h m s f dis => (if vvc then timeCodeUuid else []) ++ [h, m, s, f, bit dis]
  | .mdcv l => l
  | .cll w => [w]
  | .transfer v => [v]
  | .captions cc => [0xB5, 0x0031, 0x47413934, 0x03] ++ cc
  | .recoveryPoint n => [n]

/-! ## Filler (R196) -/

/-- nal_unit_type of filler data. -/
def fillerType (vvc : Bool) : Nat := if vvc then 25 else 38

/-- A filler data NAL unit of `n` bytes, 3 or more: header, 0xFF bytes, rbsp_trailing_bits (R196). The header's layout is PRESUMED from the
standards (notes/assumptions/66.md). -/
def fillerNal (vvc : Bool) (temporal n : Nat) : List Nat :=
  (if vvc then [0, 8 * fillerType vvc + temporal + 1] else [2 * fillerType vvc, temporal + 1]) ++ List.replicate (n - 3) 0xFF ++ [0x80]

/-! ## The floor (R207) -/

/-- The syntax of a CTU coded at floor: of an intra CTU in an I picture or a refresh column, or predicted from index 0 of list 0 with the zero
vector; `skip` says that the merge list holds that vector. -/
def EncCfg.floorSyntax (g : EncCfg) (intra skip : Bool) : Syntax :=
  [("sao_off", 1)] ++ (if g.vvc then [("alf_off", 1), ("ccalf_off", 1)] else []) ++
  (if intra then [("pred_mode_intra", 1), ("coding_unit", min g.ctu 64), ("intra_luma_dc", 1), ("intra_chroma_dm", 1), ("cbf", 0)]
   else [("inter_pred_list", 0), ("ref_idx", 0), ("mv_x", 0), ("mv_y", 0), ("cu_skip_flag", bit skip), ("cu_qp_delta", 0)] ++
     (if skip then [] else [("mvd_cancels_predictor", 1), ("rqt_root_cbf", 0)]))

/-- The picture type's column of R208 in which a CTU is intra. -/
def EncCfg.floorIntra (g : EncCfg) (t : FloorPic) (col : Nat) : Bool :=
  match t with
  | .intra => true
  | .inter (some r) => g.isRefreshCol r col
  | .inter none => false

/-! ## The header bound (R205, R206, R214) -/

/-- The number of a picture type: intra, inter, or inter in a rolling refresh. -/
def FloorPic.number (t : FloorPic) : Nat :=
  match t with
  | .intra => 0
  | .inter none => 1
  | .inter (some r) => 2 + r

/-- Whether a picture of a type can be an IRAP picture or begin a refresh. -/
def FloorPic.starts (t : FloorPic) : Bool := t == .intra || t == .inter (some 0)

/-- The SEI messages that a unit which begins with band `b` of a picture of a type can carry, each at its largest payload: the time code with
every field, captions of 31 cc_data triplets (R214). -/
def EncCfg.seiMost (g : EncCfg) (t : FloorPic) (b : Nat) : List Sei :=
  let on (f : Fld) : Bool := f.get g.sei = 1
  let du := if g.duMode then [Sei.duInfo (g.slotTicks b)] else []
  if b ≠ 0 then du
  else
    (if t.starts then [Sei.bufferingPeriod g.removalDelay 0] else []) ++ [.pictureTiming] ++ du ++
    (if on F.encChSei_timecode then [.timeCode 23 59 59 (cdiv g.num g.den - 1) true] else []) ++
    (if t.starts && on F.encChSei_mdcv then [.mdcv (List.replicate 6 0xFFFFFFFF)] else []) ++
    (if t.starts && on F.encChSei_cll then [.cll 0xFFFFFFFF] else []) ++
    (if t == .intra && F.encChSei_transfer.get g.sei = 3 then [.transfer 18] else []) ++
    (if on F.encChSei_captions then [.captions (List.replicate 93 0xFF)] else []) ++
    (if !g.vvc && t == .inter (some 0) then [.recoveryPoint g.rollFrames] else [])

/-- Entry points of the slices of a picture of a Course or Head channel: one to each tile or row of a slice after the first. -/
def EncCfg.entryPoints (g : EncCfg) : Nat :=
  if g.cls = 0 then 0 else if g.division = 2 then g.bands - 1 else if g.division = 1 && !g.vvc then g.pieces - 1 else 0

/-- The header bound of a unit that begins with band `b` of a picture of a type: its parameter sets, its SEI messages at their largest, its
slice headers at their largest with the trailing bits of each slice counted at 8, and 32 bits for each entry point (R205, R206, R214). How
many bits the two standards give each of them is a free value. -/
def EncCfg.headerBound (g : EncCfg) (b : Nat) (t : FloorPic) : Nat :=
  let slices := (if g.cls = 0 then g.sliceForms b b else g.sliceForms 0 (g.bands - 1)).length
  (if b = 0 && t.starts then Config.parameterBits g.parameterSets else 0) +
    sumBy (fun (m : Sei) => Config.seiBits (m.payload g.vvc) (m.values g.vvc)) (g.seiMost t b) +
    slices * (Config.sliceHeaderBits g.headerKey b t.number + 8) + 32 * g.entryPoints

/-- The bands with which a unit of a channel begins. -/
def EncCfg.unitBands (g : EncCfg) : List Nat := if g.cls = 0 then List.range g.bands else [0]

/-- Whether the smallest slot holds what R214 asks, at every band position and for every picture type. -/
def EncCfg.slotsHold (g : EncCfg) : Bool :=
  let fill := if g.vbr then 0 else 24
  let floor (t : FloorPic) (b : Nat) : Nat := if g.cls = 0 then g.floorBand t b else sumBy (g.floorBand t) (List.range g.bands)
  g.unitBands.all fun b => g.floorPics.all fun t => decide (g.headerBound b t + floor t b + fill ≤ 8 * g.slotMin)

/-- HDR_BITS: the largest header bound over the band positions and picture types. -/
def EncCfg.hdrBits (g : EncCfg) : Nat := maxBy (fun b => maxBy (g.headerBound b) g.floorPics) g.unitBands

end Sys2Proof.Machine
end

