-- ==== Sys2Proof/Machine/CmpCalc.lean ====
section
/-! DEFINITION. The figures of a programme that follow from its settings: strips and their Strokes (R249–R253), scalers and
line buffers (R267–R270), the lag, taps (R280), flips (R274), memory and traffic (R281, R283). -/

namespace Sys2Proof.Machine

/-- Strips of a frame (R249). -/
def ProgCfg.strips (c : ProgCfg) : Nat := cdiv c.height 32

/-- The row after the last row of a strip. -/
def ProgCfg.stripEnd (c : ProgCfg) (b : Nat) : Nat := min (32 * (b + 1)) c.height

/-- Certified cost of a strip (R249). -/
def ProgCfg.stripCost (c : ProgCfg) (b : Nat) : Nat := c.width * (c.stripEnd b - 32 * b)

/-- e_b of frame `k`: the Stroke that holds t_b + LAG (R251). -/
def ProgCfg.release (c : ProgCfg) (k b : Nat) : Nat := lineStroke c.num c.den c.height c.lag (k * c.height + c.stripEnd b)

/-- The (frame, strip) pairs whose release Stroke is `s`, in order. -/
def ProgCfg.dueAt (c : ProgCfg) (s : Nat) : List (Nat × Nat) :=
  let lo := lineAtOrAfter c.num c.den c.height c.lag s
  let hi := lineAtOrAfter c.num c.den c.height c.lag (s + 1)
  (List.range (hi - lo)).filterMap fun n =>
    let x := lo + n
    let k := (x - 1) / c.height
    let l := x - k * c.height
    if 0 < x ∧ (l = c.height ∨ l % 32 = 0) then some (k, cdiv l 32 - 1) else none

/-- The item sequence number of a strip. -/
def ProgCfg.seqOf (c : ProgCfg) (k b : Nat) : Nat := (k * c.strips + b) % 65536

/-- The (frame, strip) that a sequence number names near a Stroke. -/
def ProgCfg.stripOf (c : ProgCfg) (now seq : Nat) : Nat × Nat :=
  let here := now * c.num / (8000 * c.den) * c.strips + 32768
  let n := here - (here + 65536 - seq % 65536) % 65536
  (n / c.strips, n % c.strips)

/-- The flip deadline of frame `k`: the boundary of Stroke s_k − 2 (R274). -/
def flipStroke (num den k : Nat) : Nat := frameStroke num den k - 2

/-- The first frame whose flip deadline is at or after the boundary of Stroke `s` (R273). -/
def firstFlip (num den s : Nat) : Nat :=
  let k := (s + 2) * num / (8000 * den)
  if s ≤ flipStroke num den k then k else k + 1

/-- Whether a scaled size is in ratio 1:16 to 16:1 (R267). -/
def ratioOk (src dst : Nat) : Bool := decide (0 < src ∧ 0 < dst ∧ src ≤ 16 * dst ∧ dst ≤ 16 * src)

/-- N: vertical support of a scaler (R268). -/
def scalerSupport (srcH dstH : Nat) : Nat := cdiv (6 * max srcH dstH) dstH

/-- L: lines of line buffer (R268). -/
def scalerLines (srcH dstH : Nat) : Nat := scalerSupport srcH dstH + 1

/-- The last source row, from the top of the crop, that row `y` of a scaled picture needs, clamped to the crop (R268). -/
def scaledLastRow (srcH dstH y : Nat) : Nat :=
  let ys : Int := (((2 * y + 1) * srcH : Nat) : Int) - (dstH : Int)
  min (srcH - 1) ((ys / ((2 * dstH : Nat) : Int)) + ((cdiv (scalerSupport srcH dstH) 2 : Nat) : Int)).toNat

/-- Whether a layer is shown at 1:1. -/
def LayerCfg.oneToOne (l : LayerCfg) : Bool := l.cropW = l.dstW && l.cropH = l.dstH

/-- The last source row that layer row `y` needs. -/
def LayerCfg.lastRow (l : LayerCfg) (y : Nat) : Nat :=
  l.cropY + (if l.oneToOne then min y (l.cropH - 1) else scaledLastRow l.cropH l.dstH y)

/-- The last programme row of strip `b` that a layer covers, if it covers any. -/
def ProgCfg.lastCovered (c : ProgCfg) (l : LayerCfg) (b : Nat) : Option Nat :=
  let top : Int := l.dstY
  let bottom : Int := l.dstY + l.dstH - 1
  let y : Int := min bottom ((c.stripEnd b : Int) - 1)
  if top ≤ y ∧ ((32 * b : Nat) : Int) ≤ y then some y.toNat else none

/-- The source strip that strip `b` needs last from a live layer (R252). -/
def ProgCfg.sourceStrip (c : ProgCfg) (l : LayerCfg) (b : Nat) : Option Nat :=
  (c.lastCovered l b).map fun y => l.lastRow ((y : Int) - l.dstY).toNat / 32

/-- LAG in microseconds as R252 computes it, for a source of `srcH` lines in the layer's place. -/
def ProgCfg.autoLag (c : ProgCfg) : Nat :=
  maxBy (fun l =>
    if l.srcType = 1 then
      maxBy (fun b =>
        match c.sourceStrip l b with
        | none => 0
        | some j =>
          let x := min (32 * (j + 1)) l.srcH
          cdiv (c.den * 1000000 * x * c.height + (c.arrive + 125) * c.num * c.height * l.srcH
            - c.den * 1000000 * c.stripEnd b * l.srcH) (c.num * c.height * l.srcH)) (List.range c.strips)
    else 0) c.layers

/-- S of R253 in nanoseconds, rounded up. -/
def ProgCfg.stakeNs (c : ProgCfg) : Nat := cdiv (32 * c.den * 1000000000) (c.num * c.height) + c.lag * 1000 + 500000

/-- The last programme row that tap row `y` needs (R268, R279). -/
def ProgCfg.tapLastRow (c : ProgCfg) (t : TapCfg) (y : Nat) : Nat :=
  if t.w = c.width && t.h = c.height then min y (c.height - 1) else scaledLastRow c.height t.h y

/-- The smallest D_TAP in microseconds for bands of `ctu` lines (R280). -/
def ProgCfg.minTapUs (c : ProgCfg) (t : TapCfg) (ctu : Nat) : Nat :=
  maxBy (fun b =>
    let last := min ((b + 1) * ctu) t.h
    let e := c.stripEnd (c.tapLastRow t (last - 1) / 32)
    cdiv (c.den * 1000000 * e * t.h + (c.lag + 375) * c.num * c.height * t.h - c.den * 1000000 * last * c.height)
      (c.num * c.height * t.h)) (List.range (cdiv t.h ctu))

/-- Bytes of a frame as received (SRC_FMT 0–4), packed as ST 2110-20 packs it: 4:2:2 10 2.5 bytes, 4:2:2 12 3 bytes, 4:4:4 10
3.75, 4:4:4 12 4.5, 4:2:0 10 1.875 bytes a pixel; host formats 8 and 9 8 bytes, 10 4 bytes (R283, R284). -/
def frameBytes (fmt w h : Nat) : Nat :=
  let eighths := match fmt with
    | 0 => 20 | 1 => 24 | 2 => 30 | 3 => 36 | 4 => 15 | 8 => 64 | 9 => 64 | 10 => 32 | _ => 64
  cdiv (w * h * eighths) 8

/-- Container bits of a sample of DEPTH bits (R264). -/
def containerBits (depth : Nat) : Nat := if depth ≤ 8 then 8 else if depth ≤ 10 then 10 else 12

/-- Bytes of one output line: three components a pixel, two under YCC422 (R264). -/
def ProgCfg.lineBytes (c : ProgCfg) : Nat := cdiv (c.width * (if c.form = 2 then 2 else 3) * containerBits c.depth) 8

/-- Bytes of one output frame. -/
def ProgCfg.outBytes (c : ProgCfg) : Nat := c.lineBytes * c.height

/-- ZONE_MAX in force: 0 means ZONE_LINES (R281). -/
def ProgCfg.zoneCap (c : ProgCfg) : Nat := if c.zoneMax = 0 then c.zone else c.zoneMax

/-- HBM a programme takes (R283). -/
def ProgCfg.hbmBytes (c : ProgCfg) : Nat :=
  sumBy (fun l => if l.srcType = 1 ∨ l.srcType = 3 ∨ l.srcType = 4 then 2 * frameBytes l.srcFmt l.srcW l.srcH else 0) c.layers +
  c.outBytes + (if c.zoneCap = 0 then 0 else (c.zoneCap + 64) * c.lineBytes) +
  sumBy (fun t => 2 * frameBytes t.fmt t.w t.h) c.taps

/-- Strokes in one frame period, rounded down (R273). -/
def ProgCfg.frameStrokes (c : ProgCfg) : Nat := 8000 * c.den / c.num

/-- Bytes of a host copy in each Stroke (R273). -/
def ProgCfg.copyRate (c : ProgCfg) (l : LayerCfg) : Nat := cdiv (frameBytes l.srcFmt l.srcW l.srcH) c.frameStrokes

/-- HBM traffic of a programme in bytes per second (R283). Decode layers read tile data of their channel, given by `tile`. -/
def ProgCfg.hbmTraffic (c : ProgCfg) (tile : Nat → Nat) : Nat :=
  let frame :=
    sumBy (fun l => if l.srcType = 1 then 2 * frameBytes l.srcFmt l.srcW l.srcH
      else if l.srcType = 2 then tile l.srcIndex
      else if l.srcType = 3 ∨ l.srcType = 4 then frameBytes l.srcFmt l.srcW l.srcH else 0) c.layers +
    2 * c.outBytes + (if c.zoneCap = 0 then 0 else 2 * c.outBytes) + sumBy (fun t => 2 * frameBytes t.fmt t.w t.h) c.taps
  cdiv (frame * c.num) c.den + 8000 * sumBy (fun l => if l.srcType = 3 ∨ l.srcType = 4 then c.copyRate l else 0) c.layers

/-- Host traffic of the layers' copies in MB/s (R283, R117). -/
def ProgCfg.hostMBps (c : ProgCfg) : Nat :=
  sumBy (fun l => if l.srcType = 3 ∨ l.srcType = 4 then cdiv (c.copyRate l * 8000) 1000000 else 0) c.layers

/-- LOAD in thousandths of a pipe (1.0 Gpixel/s), over its pipes. -/
def ProgCfg.loadMilli (c : ProgCfg) : Nat := c.width * c.height * c.num * 1000 / (c.den * 1000000000)

end Sys2Proof.Machine
end

