-- ==== Sys2Proof/Machine/Crc.lean ====
section
/-! DEFINITION. Check values: the general CRC of R476 and the CRC-32C of descriptors, completion entries and event
entries (R101). -/

namespace Sys2Proof.Machine

/-- The low `n` bits of `v` in reverse order (R476). -/
def reflect : (n v : Nat) → Nat
  | 0, _ => 0
  | n + 1, v => v % 2 * 2 ^ n + reflect n (v / 2)

/-- One bit into a reflected CRC register. -/
def crcBitR (poly r : Nat) : Nat := if r % 2 = 1 then Nat.xor (r / 2) poly else r / 2

/-- One byte into the reflected CRC-32C register. -/
def crc32cByte (r b : Nat) : Nat :=
  let p := 0x82F63B78
  let s := Nat.xor r (b % 256)
  crcBitR p (crcBitR p (crcBitR p (crcBitR p (crcBitR p (crcBitR p (crcBitR p (crcBitR p s)))))))

/-- CRC-32C of bytes: reflected 0x1EDC_6F41, init and xorout 0xFFFF_FFFF (R101). -/
def crc32cBytes (l : List Nat) : Nat := Nat.xor (l.foldl crc32cByte 0xFFFFFFFF) 0xFFFFFFFF

/-- CRC-32C over a fold word and words, each fed little-endian (R101, R480). -/
def crc32c (fold : Nat) (ws : List Nat) : Nat := crc32cBytes (wordsBytes (fold % 2 ^ 32 :: ws))

end Sys2Proof.Machine
end

