-- ==== Sys2Proof/Machine/Ops.lean ====
section
/-! DEFINITION. The named operations every command is written over: registers, outputs, the Charter's owners, records,
interrupts, event entries and completion entries. -/

namespace Sys2Proof.Machine

/-! ## Registers -/

/-- The value of a register that is held or in force. -/
def Dev.reg (d : Dev) (a : Nat) : Word := Tab.get regReset d.regs a

/-- Sets a register. -/
def Dev.setReg (d : Dev) (a : Nat) (w : Word) : Dev := { d with regs := Tab.put regReset d.regs a w }

/-- A field of a register. -/
def Dev.fld (d : Dev) (a : Nat) (f : Fld) : Nat := f.get (d.reg a)

/-- Whether a one-bit field is 1. -/
def Dev.flag (d : Dev) (a : Nat) (f : Fld) : Bool := f.get (d.reg a) = 1

/-- Sets a field of a register. -/
def Dev.setFld (d : Dev) (a : Nat) (f : Fld) (v : Nat) : Dev := d.setReg a (f.set (d.reg a) v)

/-- Adds `n` to a field, wrapping at its width. -/
def Dev.addFld (d : Dev) (a : Nat) (f : Fld) (n : Nat) : Dev := d.setFld a f (d.fld a f + n)

/-- Adds `n` to a field, saturating at its largest value. -/
def Dev.satFld (d : Dev) (a : Nat) (f : Fld) (n : Nat) : Dev := d.setFld a f (min (2 ^ f.width - 1) (d.fld a f + n))

/-- The key of a function's own register. -/
def fnKey (fn a : Nat) : Nat := fn * 2 ^ 32 + a

/-- A register that has one value per function. -/
def Dev.fnReg (d : Dev) (fn a : Nat) : Word := Tab.get fnReset d.fnRegs (fnKey fn a)

/-- Sets a register that has one value per function. -/
def Dev.setFnReg (d : Dev) (fn a : Nat) (w : Word) : Dev := { d with fnRegs := Tab.put fnReset d.fnRegs (fnKey fn a) w }

/-- What an unlisted staged register reads as. -/
def noStaged (_ : Nat) : Option Word := Option.none

/-- The bits of a register whose fields are staged (RC). -/
def rcMask (a : Nat) : Word :=
  match regClass? a with
  | none => 0
  | some (c, _) => BitVec.ofNat 32 (c.maskOf fun x => x == .rc)

/-- The bits of `m` from `new`, the others from `old`. -/
def mergeWord (m new old : Word) : Word := (new &&& m) ||| (old &&& ~~~m)

/-- The staged word of a register for a function: its staged fields where staged, else the value in force (R13). -/
def Dev.stagedReg (d : Dev) (fn a : Nat) : Word :=
  match Tab.get noStaged d.staged (fnKey fn a) with
  | none => d.reg a
  | some w => mergeWord (rcMask a) w (d.reg a)

/-- Whether a commit that waits or is accepted is to change a register. -/
def Dev.toChange (d : Dev) (a : Nat) : Bool :=
  (d.stk.queue ++ d.stk.accepted).any fun c => (c.writes.any fun w => w.1 = a) || c.place.regs.any fun w => w.1 = a

/-- Stages the RC fields of a word for a function. Fields equal to the ones in force need not be kept as staged, unless a commit on its
way is to change them (R13, R34). -/
def Dev.stage (d : Dev) (fn a : Nat) (w : Word) : Dev :=
  let m := rcMask a
  let kept := if w &&& m = d.reg a &&& m ∧ d.toChange a = false then Option.none else some (w &&& m)
  { d with staged := Tab.put noStaged d.staged (fnKey fn a) kept }

/-- The staged words of a function, as (address, RC bits). -/
def Dev.stagedOf (d : Dev) (fn : Nat) : List (Nat × Word) :=
  d.staged.filterMap fun p =>
    if p.1 / 2 ^ 32 = fn then p.2.map fun w => (p.1 % 2 ^ 32, w) else Option.none

/-! ## Outputs, free values, time -/

/-- Shows something to the outside. -/
def Dev.emit (d : Dev) (o : Output) : Dev := { d with out := o :: d.out }

/-- The current Stroke. -/
def Dev.now (d : Dev) : Nat := d.stk.stroke

/-- The low word of the current Stroke. -/
def Dev.nowLo (d : Dev) : Nat := d.stk.stroke % 2 ^ 32

/-- The 64-bit Stroke that a 32-bit one names, from 2^31 Strokes before the current one up to, and not including, 2^31 after it (R18).
One that lies before Stroke 0 reads as 0: it is past. -/
def strokeOf (now lo : Nat) : Nat :=
  let base := now - now % 2 ^ 32 + lo % 2 ^ 32
  if now + 2 ^ 31 ≤ base then base - 2 ^ 32
  else if base + 2 ^ 31 < now then base + 2 ^ 32 else base

/-! ## The Charter -/

/-- The owner of an instance in the default Charter (R442): every unit SHARED, all else CREW_0. -/
def ownerDefault (k : Nat) : Nat := if k / 65536 = 0x0C ∨ k / 65536 = 0x0D ∨ k / 65536 = 0x0E then 0x1E else 0

/-- The owner of instance `i` of class `c`: a Crew, 0x1E SHARED or 0x1F none (R439, R442). The counter bank of a
composition pipe follows the pipe's programme (R513). -/
def Dev.owner (d : Dev) (c i : Nat) : Nat :=
  if d.sec.void then 0x1F
  else Tab.get ownerDefault d.sec.owner (if c = 0x0F ∧ 40 ≤ i ∧ i < 56 then 3 * 65536 + (i - 40) else c * 65536 + i)

/-! ## Host memory: rings, interrupts, events, completions -/

/-- No ring. -/
def noRing (_ : Nat) : Option Ring := Option.none

/-- The unlisted value of a count. -/
def zero (_ : Nat) : Nat := 0

/-- A ring pair that is not DISABLED. -/
def Dev.ring (d : Dev) (crew r : Nat) : Option Ring := Tab.get noRing d.hif.rings (64 * crew + r)

/-- Changes the host side. -/
def Dev.onHif (d : Dev) (f : Hif → Hif) : Dev := { d with hif := f d.hif }

/-- Sets or removes a ring pair. -/
def Dev.setRing (d : Dev) (crew r : Nat) (x : Option Ring) : Dev :=
  d.onHif fun h => { h with rings := Tab.put noRing h.rings (64 * crew + r) x }

/-- Changes a ring pair that is not DISABLED. -/
def Dev.onRing (d : Dev) (crew r : Nat) (f : Ring → Ring) : Dev := d.setRing crew r ((d.ring crew r).map f)

/-- The size in entries that SQ_LOG2 or CQ_LOG2 encodes; 0 encodes 16 (R122). -/
def log2Size (v : Nat) : Nat := 2 ^ (if v = 0 then 16 else v)

/-- SQ entries of a ring pair. -/
def Dev.sqSize (d : Dev) (crew r : Nat) : Nat := log2Size (d.fld (Reg.hifRingCfg crew r) F.hifRingCfg_sqLog2)

/-- CQ entries of a ring pair. -/
def Dev.cqSize (d : Dev) (crew r : Nat) : Nat := log2Size (d.fld (Reg.hifRingCfg crew r) F.hifRingCfg_cqLog2)

/-- The vector a ring signals: ring pair `r`, or the event ring for `r` = 64 (R114). -/
def Dev.ringVector (d : Dev) (crew r : Nat) : Nat :=
  if r = 64 then d.fld (Reg.hifEvqCfg crew) F.hifEvqCfg_vector else d.fld (Reg.hifRingCfg crew r) F.hifRingCfg_vector

/-- INT_EN of a ring. -/
def Dev.ringIntEn (d : Dev) (crew r : Nat) : Bool :=
  if r = 64 then d.flag (Reg.hifEvqCfg crew) F.hifEvqCfg_intEn else d.flag (Reg.hifRingCfg crew r) F.hifRingCfg_intEn

/-- MOD_STROKES of a ring. -/
def Dev.ringModStrokes (d : Dev) (crew r : Nat) : Nat :=
  if r = 64 then d.fld (Reg.hifEvqCfg crew) F.hifEvqCfg_modStrokes
  else d.fld (Reg.hifRingMod crew r) F.hifRingMod_modStrokes

/-- MOD_COUNT of a ring. -/
def Dev.ringModCount (d : Dev) (crew r : Nat) : Nat :=
  if r = 64 then d.fld (Reg.hifEvqCfg crew) F.hifEvqCfg_modCount
  else d.fld (Reg.hifRingMod crew r) F.hifRingMod_modCount

/-- Unsignalled entries of a ring. -/
def Dev.unsig (d : Dev) (crew r : Nat) : Nat := Tab.get zero d.hif.unsig (65 * crew + r)

/-- A word of the MSI-X table that nothing has written: a vector's control word reads 1, masked. PRESUMED: PCI Express gives the
layout of R91's table and its reset (notes/assumptions/29.md). -/
def msixReset (k : Nat) : Nat := if k % 4 = 3 then 1 else 0

/-- Whether a vector is masked: bit 0 of the fourth word of its entry (R91). PRESUMED, as `msixReset`. -/
def Dev.msixMasked (d : Dev) (crew v : Nat) : Bool := Tab.get msixReset d.hif.msix (256 * crew + 4 * v + 3) % 2 = 1

/-- Fires a vector: the MSI-X write, the record of the interrupt, and every unsignalled entry of every ring that shares the
vector counts as signalled (R114). -/
def Dev.fireVector (d : Dev) (crew v : Nat) : Dev :=
  (if d.msixMasked crew v then d.onHif fun h => { h with msixPend := Tab.put zero h.msixPend (64 * crew + v) 1 }
    else d.emit (.msix crew v)).onHif fun h =>
    { h with lastInt := Tab.put zero h.lastInt (64 * crew + v) (d.now + 1)
             unsig := h.unsig.filter fun p => !(p.1 / 65 = crew && d.ringVector crew (p.1 % 65) = v) }

/-- Whether a ring's own settings let its vector fire now (R114): its last interrupt lies MOD_STROKES boundaries back, or
the ring holds MOD_COUNT unsignalled entries. -/
def Dev.mayFire (d : Dev) (crew r : Nat) : Bool :=
  let last := Tab.get zero d.hif.lastInt (64 * crew + d.ringVector crew r)
  let n := d.ringModStrokes crew r
  let k := d.ringModCount crew r
  n = 0 || last = 0 || decide (last - 1 + n ≤ d.now) || (k ≠ 0 && decide (k ≤ d.unsig crew r))

/-- The interrupt that an entry just written may give (R114). -/
def Dev.signal (d : Dev) (crew r : Nat) : Dev :=
  let d := d.onHif fun h => { h with unsig := Tab.upd zero h.unsig (65 * crew + r) (· + 1) }
  if d.ringIntEn crew r && d.mayFire crew r then d.fireVector crew (d.ringVector crew r) else d

/-- Event codes of R112. -/
inductive EventCode where
  | partition | layerDark | clockFault | supplyWarn | thermWarn | thermThrottle | thermCritical | freeze | laneRelock
  | pathDown | pathRestored | floor | conceal
  deriving DecidableEq, Repr

/-- The code's number (R112). -/
def EventCode.code : EventCode → Nat
  | .partition => 0x01 | .layerDark => 0x02 | .clockFault => 0x03 | .supplyWarn => 0x04 | .thermWarn => 0x05
  | .thermThrottle => 0x06 | .thermCritical => 0x07 | .freeze => 0x08 | .laneRelock => 0x09 | .pathDown => 0x0A
  | .pathRestored => 0x0B | .floor => 0x0C | .conceal => 0x0D

/-! ## Capacities of the host side (R115–R117) -/

/-- The link's raw rate per direction in thirteenths of 1 MB/s, from its lanes and its speed code. -/
def linkRate (width speed : Nat) : Nat :=
  width * (match speed with
    | 1 => 3250 | 2 => 6500 | 3 => 12800 | 4 => 25600 | _ => 0)

/-- A figure of R115 on the link as it stands: whole at ×8 and 8 GT/s or better, else scaled (R117). -/
def Dev.hostScale (d : Dev) (n : Nat) : Nat :=
  let a := Reg.hifLinkStatus
  if d.flag a F.hifLinkStatus_fullRate then n
  else
    let w := d.fld a F.hifLinkStatus_width
    if w = 0 then n else min n (n * linkRate w (d.fld a F.hifLinkStatus_speed) * 10 / (13 * 78769))

/-- Entries written for a Crew in this Stroke. -/
def Dev.writesOf (d : Dev) (c : Nat) : Nat := Tab.get zero d.hif.writes c

/-- The rings, as (Crew, ring pair) with 64 for the event ring, that have entries to write which only the capacity holds back. -/
def Dev.waitingRings (d : Dev) : List (Nat × Nat) :=
  (d.hif.events.map fun e => (e.1, 64)) ++ d.hif.rings.filterMap fun p =>
    if p.2.any fun g => (g.held.head?).any (·.slot) then some (p.1 / 64, p.1 % 64) else none

/-- Entries of a Crew that only the capacity holds back. -/
def Dev.waitingOf (d : Dev) (c : Nat) : Nat :=
  (d.hif.events.filter fun e => e.1 = c).length +
    sumBy (fun p => if p.1 / 64 = c then (p.2.map fun g => (g.held.filter (·.slot)).length).getD 0 else 0) d.hif.rings

/-- Whether one turn of the round robin over Crews and then over their rings comes no later than another: the Crew that has been granted
less goes first, then the ring that has, then the lower number (R116). DESIGN CHOICE (notes/assumptions/70.md). -/
def turnFirst (a b : Nat × Nat × Nat × Nat) : Bool :=
  if a.1 = b.1 then decide (a.2.1 < b.2.1) || (a.2.1 == b.2.1 && (decide (a.2.2.1 < b.2.2.1) || (a.2.2.1 == b.2.2.1 && decide (a.2.2.2 ≤ b.2.2.2))))
  else decide (a.1 < b.1)

/-- Whether a Crew takes nothing beyond its guaranteed shares (R451). -/
def Dev.noSurplus (d : Dev) (c : Nat) : Bool := d.flag (Reg.secCrewPolicy c) F.secCrewPolicy_noSurplus

/-- A ring's turn among those beyond their Crews' shares. -/
def Dev.writeTurn (d : Dev) (c r : Nat) : Nat × Nat × Nat × Nat := (d.writesOf c, c, Tab.get zero d.hif.ringWrites (65 * c + r), r)

/-- Whether one more entry may be written to a ring of a Crew in this Stroke: within the Crew's guaranteed share, or beyond it in its turn
from what the others' shares leave (R115, R116, R451). -/
def Dev.entryShare (d : Dev) (c r : Nat) : Bool :=
  let own := d.hostScale 120
  if d.writesOf c < own then true
  else
    let kept := sumBy (fun o => if o = c then 0 else d.writesOf o + min (own - d.writesOf o) (d.waitingOf o)) (List.range 17)
    !d.noSurplus c && decide (kept + d.writesOf c < d.hostScale 2048) &&
      d.waitingRings.all fun o => decide (d.writesOf o.1 < own) || d.noSurplus o.1 || turnFirst (d.writeTurn c r) (d.writeTurn o.1 o.2)

/-- One entry of a ring is counted against the capacity of this Stroke. -/
def Dev.countWrite (d : Dev) (c r : Nat) : Dev :=
  d.onHif fun h => { h with writes := Tab.upd zero h.writes c (· + 1), ringWrites := Tab.upd zero h.ringWrites (65 * c + r) (· + 1) }

/-- Writes an event of a Stroke for a Crew (R111–R113). `ws` are words 3–6. While the ring is disabled or full the event is dropped and
counted. -/
def Dev.writeEvent (d : Dev) (crew code obj : Nat) (ws : List Nat) (at_ : Nat) : Dev :=
  let cfg := Reg.hifEvqCfg crew
  let st := Reg.hifEvqStatus crew
  let size := 2 ^ d.fld cfg F.hifEvqCfg_log2Size
  let seq := Tab.get zero d.hif.evSeq crew
  let head := Tab.get zero d.hif.evHead crew
  let tail := d.fld st F.hifEvqStatus_tail
  if !d.flag cfg F.hifEvqCfg_enable then d.satFld st F.hifEvqStatus_lost 1
  else if size - 1 ≤ (tail + size - head) % size then
    (d.satFld st F.hifEvqStatus_lost 1).onHif fun h =>
      { h with evLost := Tab.upd zero h.evLost crew fun n => min 0xFFFF (n + 1) }
  else
    let body := [pack [(code, 24), (obj, 0)], at_ % 2 ^ 32,
      pack [(if seq / size % 2 = 0 then 1 else 0, 16), (Tab.get zero d.hif.evLost crew, 0)],
      ws.getD 0 0, ws.getD 1 0, ws.getD 2 0, ws.getD 3 0]
    let chk := crc32c ((1088 + crew) * 65536 + seq % 65536) body
    let d := d.emit (.event crew tail (body ++ [chk]))
    let d := d.setFld st F.hifEvqStatus_tail ((tail + 1) % size)
    let d := d.onHif fun h => { h with evSeq := Tab.put zero h.evSeq crew (seq + 1), evLost := Tab.put zero h.evLost crew 0 }
    (d.countWrite crew 64).signal crew 64

/-- Raises an event for a Crew (R111–R113): it is written at once, or waits for the capacity of a later Stroke behind those of its Crew that
already do (R116). -/
def Dev.postEvent (d : Dev) (crew : Nat) (e : EventCode) (obj : Nat) (ws : List Nat) : Dev :=
  if d.flag (Reg.hifEvqCfg crew) F.hifEvqCfg_enable && (d.hif.events.any (fun e => e.1 = crew) || !d.entryShare crew 64) then
    d.onHif fun h => { h with events := h.events ++ [(crew, e.code, obj, ws, d.now)] }
  else d.writeEvent crew e.code obj ws d.now

/-- Writes a completion entry into the next CQ slot, with the Stroke in which its item completed (R104). -/
def Dev.writeEntryAt (d : Dev) (at_ crew r status opcode tag : Nat) (ws : List Nat) : Dev :=
  match d.ring crew r with
  | none => d
  | some g =>
    let size := d.cqSize crew r
    let head := d.fld (Reg.hifRingStatus crew r) F.hifRingStatus_sqHead
    let body := [pack [(status, 24), (opcode, 16), (tag, 0)], at_ % 2 ^ 32,
      pack [(bit g.lost, 17), (if g.cqSeq / size % 2 = 0 then 1 else 0, 16), (head, 0)],
      ws.getD 0 0, ws.getD 1 0, ws.getD 2 0, ws.getD 3 0]
    let chk := crc32c ((64 * crew + r) * 65536 + g.cqSeq % 65536) body
    let d := d.emit (.entry crew r (g.cqSeq % size) (body ++ [chk]))
    let d := d.setRing crew r (some { g with cqSeq := g.cqSeq + 1, lost := false })
    d.signal crew r

/-- Writes the completion entry of an item that completes now (R104). -/
def Dev.writeEntry (d : Dev) (crew r status opcode tag : Nat) (ws : List Nat) : Dev :=
  d.writeEntryAt d.now crew r status opcode tag ws

/-- CQ slots that are free: size − 1 less the entries not consumed and the slots reserved (R108). -/
def Dev.freeSlots (d : Dev) (crew r : Nat) : Nat :=
  match d.ring crew r with
  | none => 0
  | some g => d.cqSize crew r - 1 - (g.cqSeq - g.cqCons) - g.reserved

/-- Word `i` of a descriptor. -/
def Desc.w (x : Desc) (i : Nat) : Nat := x.words.getD i 0

/-- OPCODE of a descriptor (R100). -/
def Desc.opcode (x : Desc) : Nat := x.w 0 / 2 ^ 24 % 256

/-- TAG of a descriptor. -/
def Desc.tag (x : Desc) : Nat := x.w 0 % 65536

/-- OBJECT of a descriptor. -/
def Desc.object (x : Desc) : Nat := x.w 2 % 65536

/-- QUIET of a descriptor. -/
def Desc.quiet (x : Desc) : Bool := bitAt (x.w 0) 21

/-- LATE_OK of a descriptor. -/
def Desc.lateOk (x : Desc) : Bool := bitAt (x.w 0) 22

/-- ORDERED of a descriptor. -/
def Desc.ordered (x : Desc) : Bool := bitAt (x.w 0) 23

/-- Changes the standing descriptors that satisfy `p`. -/
def Dev.onStanding (d : Dev) (p : Standing → Bool) (f : Standing → Standing) : Dev :=
  d.onHif fun h => { h with standing := h.standing.map fun s => if p s then f s else s }

/-- Writes the entry of a completion: a slot reserved for it is given back, and the buffer of a standing descriptor learns which entry frees
it (R104, R108, R164). -/
def Dev.writeHeld (d : Dev) (c r : Nat) (h : Held) : Dev :=
  let n := ((d.ring c r).map (·.cqSeq)).getD 0
  let d := d.onRing c r fun g => { g with reserved := g.reserved - bit h.slot }
  ((d.countWrite c r).writeEntryAt h.since c r h.status h.opcode h.tag h.words).onStanding
    (fun s => s.desc.crew = c && s.desc.ring = r && s.desc.seq = h.post) fun s =>
      { s with busy := s.busy.map fun b => if b = (h.buf, 0) then (h.buf, n + 1) else b }

/-- Puts a completion among those that wait: in the order in which their items completed, in one Stroke in ring order of their descriptors
(R110). -/
def heldIn (h : Held) : List Held → List Held
  | [] => [h]
  | x :: r => if x.since = h.since ∧ h.post < x.post ∧ x.slot ∧ h.slot then h :: x :: r else x :: heldIn h r

/-- A completion for which a CQ slot is reserved: its entry is written at once, or waits behind those of its ring pair that do, and for the
capacity of a later Stroke (R110, R116). -/
def Dev.complete (d : Dev) (c r : Nat) (h : Held) : Dev :=
  if (d.ring c r).all (fun g => g.held.isEmpty) && d.entryShare c r then d.writeHeld c r h
  else d.onRing c r fun g => { g with held := heldIn h g.held }

/-- Completes a descriptor for good: its reserved slot is given back and, unless QUIET asks for nothing on DONE, its entry is
written (R100, R104, R108). A completion that a reset of its ring discards is not written (R118). -/
def Dev.finish (d : Dev) (x : Desc) (status : Nat) (ws : List Nat) : Dev :=
  if ((d.ring x.crew x.ring).map (·.epoch)) ≠ some x.epoch then d
  else
    let d := d.onRing x.crew x.ring fun g => { g with opened := g.opened.filter (· ≠ x.seq) }
    if x.quiet && status = 0 then d.onRing x.crew x.ring fun g => { g with reserved := g.reserved - 1 }
    else d.complete x.crew x.ring ⟨status, x.opcode, x.tag, ws, d.now, x.seq, 0, true⟩

/-- Completes a descriptor as refused for admission: the reason, and the words of STK_COMMIT_DETAIL (R105). -/
def Dev.refuseAdmission (d : Dev) (x : Desc) (reason detail : Nat) : Dev := d.finish x 0x10 [reason, detail, 0, 0]

/-- Whether the same standing descriptor. -/
def Standing.is (s : Standing) (x : Desc) : Bool := s.desc.crew = x.crew && s.desc.ring = x.ring && s.desc.seq = x.seq

/-- The standing descriptor of an opcode on an object. -/
def Dev.standing? (d : Dev) (opcode obj : Nat) : Option Standing :=
  d.hif.standing.find? fun s => s.desc.opcode = opcode && s.desc.object = obj

/-- The standing descriptor of an opcode that a Crew has posted. -/
def Dev.crewStanding? (d : Dev) (opcode crew : Nat) : Option Standing :=
  d.hif.standing.find? fun s => s.desc.opcode = opcode && s.desc.crew = crew

/-- The completion of one delivery of a standing descriptor into its buffer `buf` (R108, R109): written into a free slot;
else held under HOLD, at most 64 at a time, or dropped and counted under DROP. QUIET asks for nothing on DONE, and the
buffer is then free at once. -/
def Dev.deliver (d : Dev) (s : Standing) (buf status : Nat) (ws : List Nat) : Dev :=
  let x := s.desc
  match d.ring x.crew x.ring with
  | none => d
  | some g =>
    if x.quiet && status = 0 then d
    else if g.held.all (·.slot) && decide (0 < d.freeSlots x.crew x.ring) then
      ((d.onStanding (·.is x) fun s => { s with busy := s.busy ++ [(buf, 0)] }).onRing x.crew x.ring fun g =>
        { g with reserved := g.reserved + 1 }).complete x.crew x.ring ⟨status, x.opcode, x.tag, ws, d.now, x.seq, buf, true⟩
    else if d.fld (Reg.hifRingCfg x.crew x.ring) F.hifRingCfg_ovf = 1 && decide ((g.held.filter fun h => !h.slot).length < 64) then
      let d := d.onRing x.crew x.ring fun g =>
        { g with held := g.held ++ [⟨status, x.opcode, x.tag, ws, d.now, x.seq, buf, false⟩] }
      let d := if d.fld (Reg.hifRingStatus x.crew x.ring) F.hifRingStatus_state = 1
        then d.setFld (Reg.hifRingStatus x.crew x.ring) F.hifRingStatus_state 3 else d
      d.onStanding (·.is x) fun s => { s with busy := s.busy ++ [(buf, 0)] }
    else
      (d.onRing x.crew x.ring fun g => { g with lost := true }).addFld (Reg.hifRingStat x.crew x.ring)
        F.hifRingStat_ovfDrop 1

/-- Writes one entry that only the capacity of an earlier Stroke held back, of the ring whose turn it is. -/
def Dev.flushOne (d : Dev) : Option Dev :=
  (d.waitingRings.find? fun p => d.entryShare p.1 p.2).bind fun p =>
    if p.2 = 64 then
      (d.hif.events.find? fun e => e.1 = p.1).map fun e =>
        (d.onHif fun h => { h with events := h.events.erase e }).writeEvent e.1 e.2.1 e.2.2.1 e.2.2.2.1 e.2.2.2.2
    else (d.ring p.1 p.2).bind fun g => (g.held.head?).map fun h =>
      (d.onRing p.1 p.2 fun g => { g with held := g.held.drop 1 }).writeHeld p.1 p.2 h

/-- Writes entries carried from earlier Strokes as far as the capacity of this one goes (R116). -/
def Dev.flushEntries : (fuel : Nat) → Dev → Dev
  | 0, d => d
  | n + 1, d =>
    match d.flushOne with
    | none => d
    | some e => Dev.flushEntries n e

/-- A new Stroke brings its capacities, and carried entries are written first. -/
def Dev.newCapacity (d : Dev) : Dev :=
  let d := d.onHif fun h => { h with writes := [], ringWrites := [] }
  Dev.flushEntries (sumBy d.waitingOf (List.range 17)) d

/-- The number of buffers of a standing descriptor that the driver holds. -/
def Standing.isBusy (s : Standing) (buf : Nat) : Bool := s.busy.any fun b => b.1 = buf

/-- Whether GAP stays owed after a delivery into a buffer: its completion was neither written nor is it held (R109, R164). -/
def Standing.gapLeft (s : Standing) (buf : Nat) : Bool := s.gap && !s.isBusy buf

/-- The bit of word 4 that is GAP in the completions of a standing descriptor (R163, R317, R519). -/
def gapBit (opcode : Nat) : Nat := if opcode = 0x40 ∨ opcode = 0x42 then 16 else 20

/-- The 64-bit bus address in words `i` and `i`+1. -/
def Desc.addr (x : Desc) (i : Nat) : Nat := x.w i + x.w (i + 1) * 2 ^ 32

/-- Ends a standing descriptor with a status. -/
def Dev.endStanding (d : Dev) (s : Standing) (status : Nat) (ws : List Nat) : Dev :=
  (d.onHif fun h => { h with standing := h.standing.filter fun t => !t.is s.desc }).finish s.desc status ws

/-! ## The record log -/

/-- The words of a record with its CHECK, folded with its SEQ (R523). -/
def Rec.words (r : Rec) (seq : Nat) : List Nat :=
  let ws := [r.stroke % 2 ^ 32, r.stroke / 2 ^ 32 % 2 ^ 32, pack [(r.kind, 24), (r.sub % 256, 16), (r.obj % 65536, 0)]] ++
    (List.range 4).map fun i => r.data.getD i 0 % 2 ^ 32
  ws ++ [crc32c seq ws]

/-- Whether the next bytes of a record log would fall in a buffer that is not free (R526). `aux` holds the bytes in the buffer being
filled, the SEQ of its first record, and the records and blocks lost since the last record written. -/
def Standing.logBlocked (s : Standing) : Bool := s.aux.getD 0 0 == 0 && (s.isBusy s.next || s.full.any fun b => b.1 == s.next)

/-- Words join the buffer being filled, `seq` being that of the next record; a full buffer waits for its delivery. -/
def Standing.logPut (seq : Nat) (ws : List Nat) (s : Standing) : Standing :=
  let n := s.aux.getD 0 0 + 4 * ws.length
  let first := if s.aux.getD 0 0 = 0 then seq else s.aux.getD 1 0
  if s.desc.w 5 ≤ n then
    { s with full := s.full ++ [(s.next, n, first, s.text ++ ws)], next := (s.next + 1) % (max 1 (s.desc.w 6 % 65536)), aux := [0, 0, 0], text := [] }
  else { s with aux := [n, first, 0], text := s.text ++ ws }

/-- A record or block of a log is lost, and counted (R526). -/
def Dev.logLoss (d : Dev) (crew : Nat) (s : Standing) : Dev :=
  (d.addFld (Reg.rplLogStatus crew) F.rplLogStatus_lost 1).onStanding (·.is s.desc) fun s =>
    { s with gap := true, aux := [s.aux.getD 0 0, s.aux.getD 1 0, s.aux.getD 2 0 + 1] }

/-- A record goes into a Crew's posted buffers, a LOST record first after a loss (R526). -/
def Dev.logRecord (d : Dev) (crew : Nat) (r : Rec) : Dev :=
  match d.crewStanding? 0x82 crew with
  | none => d
  | some s =>
    if s.logBlocked then d.logLoss crew s
    else
      let sq := Reg.rplLogSeq crew
      let lost := s.aux.getD 2 0
      let seq := (d.reg sq).toNat
      let before := if lost = 0 then [] else Rec.words ⟨crew, d.now, 0x20, 0, 0, [lost]⟩ seq
      let n := if lost = 0 then 1 else 2
      (d.setReg sq (BitVec.ofNat 32 (seq + n))).onStanding (·.is s.desc) (Standing.logPut seq (before ++ r.words (seq + n - 1)))

/-- A block of content follows its record; after a loss it is lost too, up to the next record (R525, R526). -/
def Dev.logBlock (d : Dev) (crew : Nat) (ws : List Nat) : Dev :=
  match d.crewStanding? 0x82 crew with
  | none => d
  | some s =>
    if s.logBlocked || s.aux.getD 2 0 != 0 then d.logLoss crew s
    else d.onStanding (·.is s.desc) (Standing.logPut (d.reg (Reg.rplLogSeq crew)).toNat ws)

/-- Writes a record to a Crew's record log (R522, R523). -/
def Dev.record (d : Dev) (crew kind sub obj : Nat) (data : List Nat) : Dev :=
  let r : Rec := ⟨crew, d.now, kind, sub, obj, data⟩
  { d.logRecord crew r with log := r :: d.log }

/-- A record of a live item, written at the boundary from which its results may be seen (R452, R526). -/
def Dev.recordFrom (d : Dev) (due crew kind sub obj : Nat) (data : List Nat) : Dev :=
  if due ≤ d.now then d.record crew kind sub obj data
  else { d with rpl := { d.rpl with later := d.rpl.later ++ [(due, ⟨crew, due, kind, sub, obj, data⟩)] } }

/-- The records of live items that are due are written (R526). -/
def Dev.recordsDue (d : Dev) : Dev :=
  (d.rpl.later.filter fun p => decide (p.1 ≤ d.now)).foldl (fun d p => d.record p.2.crew p.2.kind p.2.sub p.2.obj p.2.data)
    { d with rpl := { d.rpl with later := d.rpl.later.filter fun p => decide (d.now < p.1) } }

/-- The 32-byte block `i` of some content, padded with zeros (R525). -/
def contentBlock (l : List Nat) (i : Nat) : List Nat :=
  (List.range 8).map fun w => leNat ((List.range 4).map fun b => l.getD (32 * i + 4 * w + b) 0)

/-- The record of a token from outside the core, with its content where the policy of the Crew asks for it (R522, R525). -/
def Dev.recordToken (d : Dev) (crew slot obj : Nat) (data : List Nat) : Dev :=
  let d := d.record crew 0x02 slot obj data
  if !d.flag (Reg.secCrewPolicy crew) F.secCrewPolicy_replayContent then d
  else
    let l := (Config.tokenContent ([crew, d.now, slot, obj] ++ data)).map (· % 256)
    (List.range (cdiv l.length 32)).foldl (fun d i => d.logBlock crew (contentBlock l i)) (d.record crew 0x13 0 0 [l.length, crc32cBytes l])

/-! ## Double-banked tables (R44) -/

/-- A table's bank. -/
def Dev.bank (d : Dev) (i : Nat) : Bank := d.stk.banks.getD i ⟨0, [], [], false⟩

/-- Changes a table's bank. -/
def Dev.onBank (d : Dev) (i : Nat) (f : Bank → Bank) : Dev :=
  { d with stk := { d.stk with banks := (d.stk.banks.zipIdx).map fun p => if p.2 = i then f p.1 else p.1 } }

/-- The instances of a register class that are enabled: those whose register at `base` + `stride` × i has bit 31 set. -/
def Dev.enabledOf (d : Dev) (base stride n : Nat) : List Nat :=
  d.regs.filterMap fun p =>
    if base ≤ p.1 ∧ p.1 < base + stride * n ∧ (p.1 - base) % stride = 0 ∧ bitAt p.2.toNat 31 then some ((p.1 - base) / stride)
    else none

/-- Draws a free value's number. -/
def Dev.fresh (d : Dev) : Nat × Dev := (d.free, { d with free := d.free + 1 })

end Sys2Proof.Machine
end

