-- ==== Sys2Proof/Machine/Presets.lean ====
section
/-! DEFINITION. PRESET fields and their member fields (R554), one table per register family of the spec, and the rule that
decides what a write of a preset or of a member field is. -/

namespace Sys2Proof.Machine

/-- The PRESET field that governs some registers of one instance: where it lies, its member fields, and the values
each code sets (`none` for a member left as it is; `[]` for a code without a row). -/
structure PresetSpec where
  addr : Nat
  fld : Fld
  members : List (Nat × Fld)
  values : List (Nat × List (Option Nat))
  deriving DecidableEq, Repr

/-- The values a preset code sets, in the order of the members. -/
def PresetSpec.row (p : PresetSpec) (code : Nat) : List (Option Nat) :=
  match p.values.find? (fun r => r.1 = code) with
  | some r => r.2
  | none => p.members.map fun _ => none

/-- Marks every value of a row as set. -/
def presetRow (code : Nat) (l : List Nat) : Nat × List (Option Nat) := (code, l.map some)

/-- R84. NEED of PACKETISE is one bit per tile or slice; a driver's own PACKETISE flow takes one bit. -/
def presetCox (f : Nat) : PresetSpec :=
  let c := Reg.coxFlowCfg f
  { addr := c, fld := F.coxFlowCfg_preset
    members := [(c, F.coxFlowCfg_resClass), (c, F.coxFlowCfg_rank), (c, F.coxFlowCfg_live), (c, F.coxFlowCfg_atomic),
      (c, F.coxFlowCfg_subst), (c, F.coxFlowCfg_need)]
    values := [presetRow 1 [0, 3, 1, 1, 1, 7], presetRow 2 [1, 1, 1, 1, 2, 3], presetRow 3 [2, 2, 1, 1, 2, 1],
      presetRow 4 [4, 2, 1, 1, 3, 1], presetRow 5 [3, 4, 1, 1, 0, 1], presetRow 6 [0, 3, 0, 1, 0, 7],
      presetRow 7 [1, 1, 0, 1, 0, 3]] }

/-- R122: the Expert fields of a ring pair's two registers. -/
def presetRing (c r : Nat) : PresetSpec :=
  let g := Reg.hifRingCfg c r
  let m := Reg.hifRingMod c r
  { addr := g, fld := F.hifRingCfg_preset
    members := [(g, F.hifRingCfg_sqLog2), (g, F.hifRingCfg_cqLog2), (g, F.hifRingCfg_barDb), (g, F.hifRingCfg_ovf),
      (m, F.hifRingMod_modStrokes), (m, F.hifRingMod_modCount), (m, F.hifRingMod_holdStrokes)]
    values := [presetRow 1 [8, 8, 0, 1, 8, 0, 64], presetRow 2 [10, 11, 1, 0, 1, 0, 8],
      presetRow 3 [12, 12, 0, 1, 8, 64, 255]] }

/-- R157. IRAP_PERIOD of the Course, Head and best-effort presets is the frames of one second, rounded up, at the frame
rate `timeW` read just before the access. -/
def presetEnc (timeW : Word) (c : Nat) : PresetSpec :=
  let g := Reg.encChCfg c
  let s := cdiv (F.encChTime_num.get timeW) (max 1 (F.encChTime_den.get timeW))
  { addr := g, fld := F.encChCfg_preset
    members := [(g, F.encChCfg_live), (g, F.encChCfg_class), (g, F.encChCfg_codec), (g, F.encChCfg_ctu),
      (g, F.encChCfg_headN), (g, F.encChCfg_profile), (g, F.encChCfg_tier), (g, F.encChCfg_level),
      (Reg.encChDiv c, F.encChDiv_division), (Reg.encChDiv c, F.encChDiv_pieces),
      (Reg.encChCode c, F.encChCode_irapPeriod), (Reg.encChCode c, F.encChCode_refresh),
      (Reg.encChCode c, F.encChCode_rollFrames), (Reg.encChToolOff c, F.encChToolOff_toolOff)]
    values := [presetRow 1 [1, 0, 0, 2, 0, 0, 0, 0, 0, 0, 0, 1, 16, 0], presetRow 2 [1, 0, 1, 2, 0, 0, 0, 0, 0, 0, 0, 1, 16, 0],
      presetRow 3 [1, 1, 0, 2, 0, 0, 0, 0, 0, 0, s, 0, 0, 0], presetRow 4 [1, 1, 1, 3, 0, 0, 0, 0, 0, 0, s, 0, 0, 0],
      presetRow 5 [1, 2, 0, 2, 8, 0, 0, 0, 0, 0, s, 0, 0, 0], presetRow 6 [1, 2, 1, 3, 8, 0, 0, 0, 0, 0, s, 0, 0, 0],
      presetRow 7 [0, 2, 0, 2, 8, 0, 0, 0, 0, 0, s, 0, 0, 0], presetRow 8 [0, 2, 1, 2, 8, 0, 0, 0, 0, 0, s, 0, 0, 0]] }

/-- R187. -/
def presetMe (c : Nat) : PresetSpec :=
  let g := Reg.encChMe c
  let h := Reg.encChMeHier c
  let w := Reg.encChMeWin c
  { addr := g, fld := F.encChMe_preset
    members := [(g, F.encChMe_mode), (g, F.encChMe_refs), (h, F.encChMeHier_hierH), (h, F.encChMeHier_hierV),
      (w, F.encChMeWin_winH), (w, F.encChMeWin_winV), (w, F.encChMeWin_winS), (g, F.encChMe_haloShare)]
    values := [presetRow 1 [2, 2, 512, 256, 512, 256, 4, 1],
      (2, [some 0, some 2, some 2048, some 1024, none, none, none, none]),
      (3, [some 1, some 2, none, none, some 256, some 128, some 6, some 1])] }

/-- R221. -/
def presetRc (c : Nat) : PresetSpec :=
  let g := Reg.encChRc c
  { addr := g, fld := F.encChRc_preset
    members := [(g, F.encChRc_mode), (g, F.encChRc_scenecut), (g, F.encChRc_cutIrap), (g, F.encChRc_qpMin),
      (g, F.encChRc_qpMax)]
    values := [presetRow 1 [0, 1, 0, 12, 75], presetRow 2 [1, 1, 0, 12, 75]] }

/-- R247. WIN AUTO is code 0; ARRIVE_OFF counts 10 µs. -/
def presetDec (c : Nat) : PresetSpec :=
  let g := Reg.decChCfg c
  let t := Reg.decChTiming c
  { addr := g, fld := F.decChCfg_preset
    members := [(g, F.decChCfg_dpbMax), (g, F.decChCfg_reorder), (g, F.decChCfg_gdrStart), (g, F.decChCfg_gdrClears),
      (t, F.decChTiming_arriveOff), (t, F.decChTiming_win), (t, F.decChTiming_presAdd)]
    values := [presetRow 1 [6, 4, 0, 0, 2000, 0, 1], presetRow 2 [4, 0, 1, 1, 200, 0, 0]] }

/-- R291: the output conversion of a programme, with PRESET in its CFG register. FORM, TRANSFER and DITHER take the
codes of CMP_PROG_OUT_p. -/
def presetProg (p : Nat) : PresetSpec :=
  let o := Reg.cmpProgOut p
  { addr := Reg.cmpProgCfg p, fld := F.cmpProgCfg_preset
    members := [(o, F.cmpProgOut_form), (o, F.cmpProgOut_transfer), (o, F.cmpProgOut_depth), (o, F.cmpProgOut_dither)]
    values := [presetRow 1 [0, 1, 12, 3], presetRow 2 [0, 0, 10, 1], presetRow 3 [2, 2, 10, 0], presetRow 4 [2, 0, 10, 0]] }

/-- R292: the colour chain of a layer. For HOST and STILL sources (SRC_TYPE 3 and 4) YCC follows SRC_FMT: RGB for
formats 8 and 10, BT.2020 for format 9. -/
def presetLayer (cfgW srcW : Word) (p q : Nat) : PresetSpec :=
  let g := Reg.cmpLayerColour p q
  let host := F.cmpLayerCfg_srcType.get cfgW = 3 || F.cmpLayerCfg_srcType.get cfgW = 4
  let fmt := F.cmpLayerSrc_srcFmt.get srcW
  let ycc := fun (v : Nat) => if host && (fmt = 8 || fmt = 10) then 2 else if host && fmt = 9 then 1 else v
  { addr := g, fld := F.cmpLayerColour_preset
    members := [(g, F.cmpLayerColour_transferIn), (g, F.cmpLayerColour_ycc), (g, F.cmpLayerColour_gamut),
      (g, F.cmpLayerColour_tone)]
    values := [presetRow 1 [0, ycc 0, 1, 0], presetRow 2 [0, ycc 1, 0, 0], presetRow 3 [1, ycc 1, 0, 0],
      presetRow 4 [2, ycc 1, 0, 0]] }

/-- R324. -/
def presetTdm (p : Nat) : PresetSpec :=
  let g := Reg.audTdmCfg p
  { addr := g, fld := F.audTdmCfg_preset
    members := [(g, F.audTdmCfg_role), (g, F.audTdmCfg_slots), (g, F.audTdmCfg_width), (g, F.audTdmCfg_fsForm),
      (g, F.audTdmCfg_delay), (g, F.audTdmCfg_fsInv)]
    values := [presetRow 1 [0, 2, 2, 1, 1, 1], presetRow 2 [1, 2, 2, 1, 1, 1], presetRow 3 [0, 8, 2, 0, 0, 0],
      presetRow 4 [0, 16, 2, 0, 1, 0]] }

/-- R325. -/
def presetGroup (g : Nat) : PresetSpec :=
  let a := Reg.audGrpCfg g
  { addr := a, fld := F.audGrpCfg_preset
    members := [(a, F.audGrpCfg_align), (a, F.audGrpCfg_blockStrokes), (a, F.audGrpCfg_arriveUs)]
    values := [presetRow 1 [0, 8, 1500], presetRow 2 [0, 1, 250], presetRow 3 [0, 8, 0]] }

/-- R352: the taps are 6-bit two's complement values. -/
def presetTxfir (l : Nat) : PresetSpec :=
  let a := Reg.laneTxfir l
  { addr := a, fld := F.laneTxfir_preset
    members := [(a, F.laneTxfir_cM2), (a, F.laneTxfir_cM1), (a, F.laneTxfir_c0), (a, F.laneTxfir_c1)]
    values := [presetRow 1 [0, 60, 54, 59], presetRow 2 [0, 0, 63, 0], presetRow 3 [2, 56, 44, 55]] }

/-- R353: a port group's preset also sets SPEED and FEC in the four MAC instances of the group. -/
def presetPort (p : Nat) : PresetSpec :=
  let a := Reg.portGroupCfg p
  let m := fun i => Reg.portMacCtl (4 * p + i)
  let sp := fun i => (m i, F.portMacCtl_speed)
  let fe := fun i => (m i, F.portMacCtl_fec)
  let row := fun (mode an tr tech : Nat) (s : Option Nat) (f : Nat) =>
    [some mode, some an, some tr, some tech, s, s, s, s, some f, some f, some f, some f]
  { addr := a, fld := F.portGroupCfg_preset
    members := [(a, F.portGroupCfg_mode), (a, F.portGroupCfg_an), (a, F.portGroupCfg_train), (a, F.portGroupCfg_tech),
      sp 0, sp 1, sp 2, sp 3, fe 0, fe 1, fe 2, fe 3]
    values := [(1, row 0 0 0 0 none 2), (2, row 0 1 1 0 none 2), (3, row 0 1 1 1 none 2),
      (4, row 1 0 0 0 (some 0) 2), (5, row 1 1 1 0 (some 0) 2), (6, row 1 0 0 0 (some 1) 0)] }

/-- R377. FIRST_MAX is held in units of 16 bytes. -/
def presetEq (q : Nat) : PresetSpec :=
  let g := Reg.egsEqCfg q
  { addr := g, fld := F.egsEqCfg_preset
    members := [(g, F.egsEqCfg_encap), (g, F.egsEqCfg_srtp), (Reg.egsEqPkt q, F.egsEqPkt_pktMax),
      (Reg.egsEqRtp q, F.egsEqRtp_firstMax)]
    values := [presetRow 1 [0, 0, 1400, 16], presetRow 2 [1, 1, 1400, 16], presetRow 3 [1, 0, 1400, 16],
      presetRow 4 [2, 1, 1316, 82]] }

/-- R411. -/
def presetTime : PresetSpec :=
  let g := Reg.timeCtl
  { addr := g, fld := F.timeCtl_preset
    members := [(g, F.timeCtl_mech), (g, F.timeCtl_stepMode), (g, F.timeCtl_ipv6), (g, F.timeCtl_domain)]
    values := [presetRow 1 [0, 1, 0, 127], presetRow 2 [0, 1, 0, 0]] }

/-- R434. -/
def presetMem : PresetSpec :=
  let g := Reg.memCfg
  { addr := g, fld := F.memCfg_preset
    members := [(g, F.memCfg_freezeMode), (g, F.memCfg_bwCap), (g, F.memCfg_scrubHours)]
    values := [presetRow 1 [0, 70, 24], presetRow 2 [1, 70, 24]] }

/-- R512. -/
def presetThm : PresetSpec :=
  let g := Reg.thmCfg
  { addr := g, fld := F.thmCfg_preset
    members := [(g, F.thmCfg_upMs), (g, F.thmCfg_downMs), (g, F.thmCfg_maxStep), (g, F.thmCfg_hyst)]
    values := [presetRow 1 [1, 8, 12, 3], presetRow 2 [4, 32, 12, 5]] }

/-- R477. -/
def presetChk (u : Nat) : PresetSpec :=
  let g := Reg.chkCfg u
  { addr := g, fld := F.chkCfg_preset
    members := [(g, F.chkCfg_width), (Reg.chkPoly u, F.chkPoly_value), (Reg.chkInit u, F.chkInit_value),
      (g, F.chkCfg_refin), (g, F.chkCfg_refout), (Reg.chkXorout u, F.chkXorout_value)]
    values := [presetRow 1 [32, 0x04C11DB7, 0xFFFFFFFF, 1, 1, 0xFFFFFFFF],
      presetRow 2 [32, 0x1EDC6F41, 0xFFFFFFFF, 1, 1, 0xFFFFFFFF], presetRow 3 [16, 0x1021, 0xFFFF, 0, 0, 0]] }

/-- A preset of one instance, if it has a member (or its PRESET field) at `a`. -/
def PresetSpec.at? (a : Nat) (p : PresetSpec) : Option PresetSpec :=
  if p.addr = a || p.members.any (fun m => m.1 = a) then some p else none

/-- The PRESET that a write of address `a` concerns (R554), where `rd` gives what a read returns. A MAC's control
register is a member of its group's preset; an encode channel's set holds three presets. -/
def presetFor (rd : Nat → Word) (a : Nat) : Option PresetSpec :=
  match a / 0x100000 with
  | 3 => if 0x310000 ≤ a then (presetCox ((a - 0x310000) / 16)).at? a else none
  | 4 =>
    if 0x410000 ≤ a then
      let c := (a - 0x410000) / 0x80
      [presetEnc (rd (Reg.encChTime c)) c, presetMe c, presetRc c].findSome? (PresetSpec.at? a)
    else none
  | 5 => if 0x510000 ≤ a && a < 0x520000 then (presetDec ((a - 0x510000) / 0x40)).at? a else none
  | 6 =>
    if 0x610000 ≤ a then
      let p := (a - 0x610000) / 0x1000
      let q := (a - 0x610400 - 0x1000 * p) / 0x40
      ((presetProg p).at? a).or ((presetLayer (rd (Reg.cmpLayerCfg p q)) (rd (Reg.cmpLayerSrc p q)) p q).at? a)
    else none
  | 7 =>
    if 0x702800 ≤ a && a < 0x702880 then (presetTdm ((a - 0x702800) / 16)).at? a
    else if 0x705000 ≤ a && a < 0x707000 then (presetGroup ((a - 0x705000) / 0x80)).at? a else none
  | 8 => if 0x801000 ≤ a then (presetTxfir ((a - 0x801000) / 0x40)).at? a else none
  | 9 =>
    if 0x910000 ≤ a then (presetPort ((a - 0x910000) / 0x400)).at? a
    else if 0x901000 ≤ a then (presetPort ((a - 0x901000) / 0x20)).at? a else none
  | 0xA => if 0xA40000 ≤ a && a < 0xA60000 then (presetEq ((a - 0xA40000) / 0x20)).at? a else none
  | 0xC => presetTime.at? a
  | 0xD => presetMem.at? a
  | 0xF => if 0xF01000 ≤ a then (presetChk ((a - 0xF01000) / 0x40)).at? a else none
  | 0x10 => presetThm.at? a
  | 0x14 =>
    if 0x1410000 ≤ a then
      let c := (a - 0x1410000) / 0x1000
      (presetRing c ((a - 0x1410100 - 0x1000 * c) / 0x20)).at? a
    else none
  | _ => none

/-- The word at `a` in a list of pending (address, word) changes, else `rd a`. -/
def overlay (rd : Nat → Word) (l : List (Nat × Word)) (a : Nat) : Word :=
  match l.find? (fun p => p.1 = a) with
  | some p => p.2
  | none => rd a

/-- Sets one field in a list of pending changes. -/
def overlaySet (rd : Nat → Word) (l : List (Nat × Word)) (a : Nat) (f : Fld) (v : Nat) : List (Nat × Word) :=
  (a, f.set (overlay rd l a) v) :: l.filter (fun p => p.1 ≠ a)

/-- R554, a PRESET that is already held changing nothing (rule 1): the words that change when `w` is carried by a write of address `a`, `rd` being what a read returns. The word
`w` already holds only the fields the write may touch. -/
def presetWrite (rd : Nat → Word) (a : Nat) (w : Word) : List (Nat × Word) :=
  match presetFor rd a with
  | none => [(a, w)]
  | some p =>
    if p.addr = a ∧ p.fld.get w ≠ 0 ∧ p.fld.get w = p.fld.get (rd a) then
      [(a, (p.members.filter (fun m => m.1 = a)).foldl (fun x m => m.2.set x (m.2.get (rd a))) w)]
    else if p.addr = a ∧ p.fld.get w ≠ 0 then
      let kept := (p.members.filter (fun m => m.1 = a)).foldl (fun x m => m.2.set x (m.2.get (rd a))) w
      ((p.members.zip (p.row (p.fld.get w))).foldl (fun l (mv : (Nat × Fld) × Option Nat) =>
        match mv.2 with
        | none => l
        | some v => overlaySet rd l mv.1.1 mv.1.2 v) [(a, kept)])
    else
      let changed := p.members.any fun m => m.1 = a && (m.2.get w != m.2.get (rd a))
      if changed then overlaySet rd [(a, w)] p.addr p.fld 0 else [(a, w)]

end Sys2Proof.Machine
end

