-- ==== Sys2Proof/Machine/Access.lean ====
section
/-! DEFINITION. Which registers a function reaches (R5–R7, R10, the windows of R6), what a read of one returns, and what a
write of one does by its access codes and presets (R11, R554). Registers with rules of their own are handled by
their families. -/

namespace Sys2Proof.Machine

/-- The reset domain of a block (R481), by the block's number in the map of R5. -/
def blockDomain (b : Nat) : Nat :=
  match b with
  | 0x0 => 6 | 0x1 => 0 | 0x2 => 2 | 0x3 => 5 | 0x4 => 5 | 0x5 => 5 | 0x6 => 5 | 0x7 => 5 | 0x8 => 4 | 0x9 => 4
  | 0xA => 4 | 0xB => 4 | 0xC => 2 | 0xD => 3 | 0xE => 1 | 0xF => 6 | 0x10 => 0 | 0x11 => 0 | 0x12 => 5 | 0x13 => 5
  | _ => 6

/-- Whether a domain is in reset (R483). -/
def Dev.inReset (d : Dev) (dom : Nat) : Bool := bitAt (d.fld Reg.rstStatus F.rstStatus_inReset) dom

/-- Whether some RST_BLOCK slot holds a single block in reset (R490). -/
def Dev.blockHeld (d : Dev) (cls idx : Nat) : Bool :=
  [0, 1, 2, 3].any fun n =>
    let w := d.reg (Reg.rstBlock n)
    (F.rstBlock_assert.get w = 1 || F.rstBlock_clockFault.get w = 1) && F.rstBlock_class.get w = cls && F.rstBlock_index.get w = idx

/-- Whether the firmware controllers run: an image runs, no restart is under way, and MEDIA and their block are out of
reset (R489, R490, R496). -/
def Dev.fwRuns (d : Dev) : Bool :=
  d.fld Reg.rstStatus F.rstStatus_fw = 1 && !d.inReset 5 && !d.blockHeld 7 0

/-- Whether SEC is in reset, by its domain or by its own block (R463, R490). -/
def Dev.secReset (d : Dev) : Bool := d.inReset 1 || d.blockHeld 6 0

/-- Whether the block of an address answers (R483). Registers are reached through the PCIe endpoint, so none answers while
HIF is in reset. -/
def Dev.blockAnswers (d : Dev) (a : Nat) : Bool :=
  !d.inReset 6 && (if a / 0x100000 = 0xE then !d.secReset else !d.inReset (blockDomain (a / 0x100000)))

/-- The Charter's class and instance that a register belongs to, for the registers that follow an owner (R54, R156, R246,
R290, R322, R376, R394, R474, R513). -/
def objectOf (a : Nat) : Option (Nat × Nat) :=
  if 0x310000 ≤ a ∧ a < 0x320000 then some (4, (a - 0x310000) / 16)
  else if 0x410000 ≤ a ∧ a < 0x418000 then some (1, (a - 0x410000) / 0x80)
  else if 0x510000 ≤ a ∧ a < 0x511000 then some (2, (a - 0x510000) / 0x40)
  else if 0x520000 ≤ a ∧ a < 0x521400 then
    let p := (a - 0x520000) / 0x10
    some (if p < 256 then (1, p) else (2, p - 256))
  else if 0x610000 ≤ a ∧ a < 0x620000 then some (3, (a - 0x610000) / 0x1000)
  else if 0x701000 ≤ a ∧ a < 0x702000 then some (8, (a - 0x701000) / 0x80)
  else if 0x702000 ≤ a ∧ a < 0x702400 then some (8, 0x40 + (a - 0x702000) / 0x20)
  else if 0x702800 ≤ a ∧ a < 0x702880 then some (8, 0x20 + (a - 0x702800) / 0x10)
  else if 0x703000 ≤ a ∧ a < 0x704000 then some (8, 0x100 + (a - 0x703000) / 0x10)
  else if 0x704000 ≤ a ∧ a < 0x705000 then some (8, 0x300 + (a - 0x704000) / 0x10)
  else if 0x705000 ≤ a ∧ a < 0x707000 then some (7, (a - 0x705000) / 0x80)
  else if 0x707000 ≤ a ∧ a < 0x707400 then some (8, 0x200 + (a - 0x707000) / 0x10)
  else if 0x708000 ≤ a ∧ a < 0x709500 then
    let r := (a - 0x708000) / 4
    some (8, if r < 64 then 0x40 + r / 2 else if r < 320 then 0x20 + (r - 64) / 32 else 0x300 + (r - 320) / 4)
  else if 0xA30000 ≤ a ∧ a < 0xA38000 then some (4, (a - 0xA30000) / 8)
  else if 0xA40000 ≤ a ∧ a < 0xA60000 then some (5, (a - 0xA40000) / 0x20)
  else if 0xB10000 ≤ a ∧ a < 0xB20000 then some (4, (a - 0xB10000) / 16)
  else if 0xF01000 ≤ a ∧ a < 0xF01800 then some (0xB, (a - 0xF01000) / 0x40)
  else if 0x1201000 ≤ a ∧ a < 0x1205780 then some (0xF, (a - 0x1201000) / 0x80)
  else none

/-- The bits of a register of a Crew's object that PF0 still reads: STATE and OWNER fields (R156, R246, R290, R322, R376,
R474, R513), and nothing in a Crew's page (R92). -/
def houseSees (a : Nat) : Word :=
  match regClass? a with
  | none => 0
  | some (c, _) =>
    if 0x1410000 ≤ a then 0 else
    BitVec.ofNat 32 (sumBy (fun f => if f.name = "STATE" ∨ f.name = "OWNER" then f.fld.mask else 0) c.fields)

/-- The PF0 address that an offset in the window of VF n stands for (R6), before it is asked whether the VF sees it. -/
def vfWindow (n off : Nat) : Option Nat :=
  if off < 0x1000 then some (0x200000 + off)
  else if 0x2000 ≤ off ∧ off < 0x6000 then some (0x1200000 + (off - 0x2000))
  else if 0x8000 ≤ off ∧ off < 0x18000 then some (0x310000 + (off - 0x8000))
  else if 0x18000 ≤ off ∧ off < 0x1C000 then some (0xF00000 + (off - 0x18000))
  else if 0x1C000 ≤ off ∧ off < 0x1D000 then some (0xE00000 + (off - 0x1C000))
  else if off = 0x1E000 then some (Reg.rplLogStatus n)
  else if off = 0x1E004 then some (Reg.rplLogSeq n)
  else if 0x30000 ≤ off ∧ off < 0x38000 then some (0x410000 + (off - 0x30000))
  else if 0x40000 ≤ off ∧ off < 0x41000 then some (0x510000 + (off - 0x40000))
  else if 0x50000 ≤ off ∧ off < 0x51400 then some (0x520000 + (off - 0x50000))
  else if 0x60000 ≤ off ∧ off < 0x70000 then some (0x610000 + (off - 0x60000))
  else if 0x81000 ≤ off ∧ off < 0x8C000 then some (0x700000 + (off - 0x80000))
  else if 0xA0000 ≤ off ∧ off < 0xD0000 then some (0xA30000 + (off - 0xA0000))
  else if 0xD0000 ≤ off ∧ off < 0xE0000 then some (0xB10000 + (off - 0xD0000))
  else if 0xF0000 ≤ off ∧ off < 0xF1000 then some (0x1410000 + 0x1000 * n + (off - 0xF0000))
  else none

/-- The registers that VF n sees though they follow no owner: the Stroke registers of R36's function, its security and log
registers, PMU_CAP, CHK_CAP, and its own Crew page. -/
def vfSees (n a : Nat) : Bool :=
  a = Reg.stkNowLo || a = Reg.stkNowHi || a = Reg.stkStatus || a = Reg.stkPhase || a = Reg.stkCommit ||
  a = Reg.stkCommitStatus || a = Reg.stkCommitDetail || a = Reg.stkCommitStrokeLo || a = Reg.stkCommitStrokeHi ||
  a = Reg.stkCrewLoad n || a = Reg.secStatus || a = Reg.secCharterSeqLo || a = Reg.secCharterSeqHi ||
  (Reg.secDevUid 0 ≤ a && a ≤ Reg.secDevUid 3) || (Reg.secImportPub 0 ≤ a && a ≤ Reg.secImportPub 23) ||
  a = Reg.secOwnSel || a = Reg.secOwnData || a = Reg.secCrewPolicy n || a = Reg.secCrewState n ||
  a = Reg.rplLogStatus n || a = Reg.rplLogSeq n || a = Reg.pmuCap || a = Reg.chkCap ||
  (0x1410000 + 0x1000 * n ≤ a && a < 0x1411000 + 0x1000 * n)

/-- What an ASRC channel that is not taken reads as. -/
def noAsrc (_ : Nat) : Option AsrcUse := Option.none

/-- The Crew a register follows as its owner, if it follows one. An ASRC channel follows the Crew whose route takes it (R322). -/
def Dev.ownerOf (d : Dev) (a : Nat) : Option Nat :=
  if 0x70A000 ≤ a ∧ a < 0x70A800 then (Tab.get noAsrc d.aud.asrcs ((a - 0x70A000) / 8)).map (·.crew)
  else (objectOf a).map fun p => d.owner p.1 p.2

/-- Whether a function sees the register at a PF0 address: the register exists, its block answers, and for VF n it is one of
the registers of R6 that follow no owner or it belongs to Crew n (R5–R7, R86, R483). -/
def Dev.sees (d : Dev) (fn a : Nat) : Bool :=
  (regClass? a).isSome && d.blockAnswers a &&
    (fn = 0 || (decide (fn ≤ d.hif.numVfs) && (vfSees fn a || d.ownerOf a == some fn)))

/-- The PF0 address that a function's offset in BAR0 stands for. -/
def barAddr (fn off : Nat) : Option Nat := if fn = 0 then some off else vfWindow fn off

/-- The register that a function reaches at an offset of its BAR0, by its PF0 address (R5–R7). -/
def Dev.mapped (d : Dev) (fn off : Nat) : Option Nat := (barAddr fn off).filter fun a => d.sees fn a

/-- Whether PF0 is kept out of a register: it belongs to an object of a Crew 1–16, or lies in such a Crew's page (R92). -/
def Dev.houseBarred (d : Dev) (a : Nat) : Bool :=
  match d.ownerOf a with
  | some c => decide (1 ≤ c ∧ c ≤ 16)
  | none => decide (0x1411000 ≤ a ∧ a % 0x1000 ≠ 0x018)

/-- Whether the house has suspended a Crew's register writes (R449). -/
def Dev.suspended (d : Dev) (fn : Nat) : Bool := fn ≠ 0 && d.fld (Reg.secCrewState fn) F.secCrewState_suspend ≠ 0

/-- Whether a write by a function reaches the register at a PF0 address (R7, R92, R449). -/
def Dev.mayWrite (d : Dev) (fn a : Nat) : Bool :=
  d.sees fn a && !(fn = 0 && d.houseBarred a) && !d.suspended fn

/-- The register that a function's write of a size at an offset reaches (R7, R10). -/
def Dev.writable (d : Dev) (fn off size : Nat) : Option Nat :=
  if size = 4 ∧ off % 4 = 0 then (barAddr fn off).filter fun a => d.mayWrite fn a else none

/-- What a function reads from a register by its access codes: the staged value of staged fields, nothing of write-only
fields (R11). -/
def Dev.plainRead (d : Dev) (fn a : Nat) : Word :=
  match regClass? a with
  | none => 0
  | some (c, _) =>
    if c.perFn then d.fnReg fn a
    else d.stagedReg fn a &&& ~~~(BitVec.ofNat 32 (c.maskOf fun x => x == .wo))

/-- Takes a word into a register: its staged fields for the function, its read-write fields at once. -/
def Dev.takeWord (d : Dev) (fn a : Nat) (w : Word) : Dev :=
  match regClass? a with
  | none => d
  | some (c, _) =>
    let rw := BitVec.ofNat 32 (c.maskOf fun x => x == .rw)
    let d := if rw = 0 then d
      else if c.perFn then d.setFnReg fn a (mergeWord rw w (d.fnReg fn a))
      else d.setReg a (mergeWord rw w (d.reg a))
    if rcMask a = 0 then d else d.stage fn a w

/-- A write of a register by its access codes and its presets (R11, R554). -/
def Dev.plainWrite (d : Dev) (fn a : Nat) (w : Word) : Dev :=
  match regClass? a with
  | none => d
  | some (c, _) =>
    let m := BitVec.ofNat 32 (c.maskOf fun x => x == .rw || x == .rc)
    let w1c := BitVec.ofNat 32 (c.maskOf fun x => x == .w1c)
    let l := presetWrite (d.plainRead fn) a (mergeWord m w (d.plainRead fn a))
    let d := l.foldl (fun d p => d.takeWord fn p.1 p.2) d
    if w1c &&& w = 0 then d else d.setReg a (d.reg a &&& ~~~(w1c &&& w))

end Sys2Proof.Machine
end

