-- ==== Sys2Proof/Machine/Store.lean ====
section
/-! DEFINITION. The non-volatile store (R503–R511): records that wait and are written, the event log's token bucket, saves that
a supply episode holds, erases and spares, and the commands of the store. -/

namespace Sys2Proof.Machine

/-- Carries a change of the device over to the state. -/
def State.lift (f : Dev → Dev) (s : State) : Host.Outcome State Fault Refusal := .next { s with dev := f s.dev }

/-- The local time in ns at an instant `ns` after the current Stroke boundary (R16). -/
def Dev.localNs (d : Dev) (ns : Nat) : Nat := d.now * 125000 + ns

/-- Whether NVM writes are held (R503). -/
def Dev.nvmHeld (d : Dev) : Bool := d.flag Reg.thmSupply F.thmSupply_hold

/-- Changes the store. -/
def Dev.onNvm (d : Dev) (f : Nvm → Nvm) : Dev := { d with nvm := f d.nvm }

/-- A record joins those that wait on die; the 33rd is lost and counted (R503). -/
def Dev.nvmPut (d : Dev) (r : NvmRec) : Dev :=
  if 32 ≤ d.nvm.queue.length ∨ r.region ∈ d.nvm.worn then d.addFld Reg.nvmLost F.nvmLost_lost 1
  else (d.onNvm fun n => { n with queue := n.queue ++ [r] }).setFld Reg.nvmStatus F.nvmStatus_queued (d.nvm.queue.length + 1)

/-- KIND of event-log records (R506). -/
inductive LogKind where
  | supply | therm | shutdown | boot | freeze | clockFault | summary
  deriving DecidableEq, Repr

/-- The number of a KIND. -/
def LogKind.code : LogKind → Nat
  | .supply => 1 | .therm => 2 | .shutdown => 3 | .boot => 4 | .freeze => 5 | .clockFault => 6 | .summary => 7

/-- Whether a KIND is merged into a summary while the bucket is empty (R507). -/
def LogKind.merges (k : LogKind) : Bool := k == .supply || k == .therm

/-- The worse of two values of a KIND: the lowest voltage, the highest temperature (R507). -/
def LogKind.worse (k : LogKind) (a b : Nat) : Nat := if k == .supply then min a b else max a b

/-- A summary with one more record merged into it: count, first and last Stroke, worst value (R507). -/
def mergeSummary (k : LogKind) (now value : Nat) : Option (Nat × Nat × Nat × Nat) → Nat × Nat × Nat × Nat
  | none => (1, now, now, value)
  | some (c, first, _, w) => (c + 1, first, now, k.worse w value)

/-- What an unlisted summary reads as. -/
def noSummary (_ : Nat) : Option (Nat × Nat × Nat × Nat) := Option.none

/-- Logs an event-log record, drawing a token; with none left a SUPPLY or THERM record joins its summary and any other is
dropped and counted (R507). `value` is what a summary keeps the worst of. -/
def Dev.nvmLog (d : Dev) (k : LogKind) (value : Nat) (payload : List Nat) : Dev :=
  let t := d.fld Reg.nvmLog F.nvmLog_tokens
  if 0 < t then (d.setFld Reg.nvmLog F.nvmLog_tokens (t - 1)).nvmPut ⟨0, k.code, 0, d.now, payload⟩
  else if k.merges then
    d.onNvm fun n => { n with summaries := Tab.upd noSummary n.summaries k.code fun x => some (mergeSummary k d.now value x) }
  else d.addFld Reg.nvmLog F.nvmLog_dropped 1

/-- The sector and slot of the `n`-th record of a ring of `sectors` sectors from sector `base` (R505). -/
def ringSlot (base sectors n : Nat) : Nat × Nat := (base + n % (64 * sectors) / 64, n % 64)

/-- The byte address of the `n`-th record of a ring (R506). -/
def ringAddr (base sectors n : Nat) : Nat := let p := ringSlot base sectors n; p.1 * 4096 + p.2 * 64

/-- The sixteen words of a record written at a byte address (R506). -/
def NvmRec.words (r : NvmRec) (seq addr : Nat) : List Nat :=
  let body := [0x5EC04D00, seq % 2 ^ 32, pack [(r.kind, 24), (r.sub, 0)], r.stroke % 2 ^ 32, r.stroke / 2 ^ 32 % 2 ^ 32] ++
    (List.range 10).map fun i => r.payload.getD i 0
  body ++ [crc32c addr body]

/-- Whether the slot at the next place of a ring is erased: it is the first of an erased sector, or follows one written since
the erase. -/
def Dev.slotErased (d : Dev) (p : Nat × Nat) : Bool := Tab.get zero d.nvm.used p.1 == p.2

/-- Writes one slot, and starts the erase of the next sector of the ring when this one is full and that one is not erased. -/
def Dev.useSlot (d : Dev) (base sectors n : Nat) : Dev :=
  let p := ringSlot base sectors n
  let next := (ringSlot base sectors (n + 1)).1
  d.onNvm fun x =>
    { x with used := Tab.put zero x.used p.1 (p.2 + 1)
             erasing := if p.2 = 63 ∧ Tab.get zero x.used next ≠ 0 ∧ next ∉ x.erasing then x.erasing ++ [next] else x.erasing }

/-- BUSY of the store: an erase runs. -/
def Dev.showBusy (d : Dev) : Dev := d.setFld Reg.nvmStatus F.nvmStatus_busy (bit (!d.nvm.erasing.isEmpty))

/-- The erases of dirty sectors start (R506). -/
def Dev.eraseDirty (d : Dev) : Dev :=
  (d.onNvm fun n => { n with erasing := n.erasing ++ n.dirty.filter fun k => !n.erasing.contains k }).showBusy

/-- The sector to erase so that at least 8 power-event slots stay erased, if any (R509). -/
def Dev.powerErase? (d : Dev) : Option Nat :=
  let p := ringSlot 28 4 d.nvm.powerSeq
  let left := if d.slotErased p then 64 - p.2 else 0
  let k := (ringSlot 28 4 (d.nvm.powerSeq + left)).1
  if 8 ≤ left ∨ Tab.get zero d.nvm.used k = 0 ∨ d.nvm.erasing.contains k then none else some k

/-- Writes the oldest waiting record into an erased slot of the event log (R503, R506). While writes are held, or the next
slot is not erased, it waits. -/
def Dev.nvmWrite (d : Dev) : Dev :=
  match d.nvm.queue with
  | [] => d
  | r :: rest =>
    let n := d.nvm.logSeq
    if d.nvmHeld || !d.slotErased (ringSlot 32 48 n) then d
    else
      let d := d.onNvm fun x =>
        { x with queue := rest, log := (n, r) :: x.log.take 3071, logSeq := n + 1 }
      let d := (d.setFld Reg.nvmStatus F.nvmStatus_queued rest.length).setReg Reg.nvmLogSeq (BitVec.ofNat 32 (n + 1))
      (d.useSlot 32 48 n).showBusy

/-- One save completes (R334, R425, R495). -/
def Dev.doSave (d : Dev) : NvmSave → Dev
  | .snapshots l =>
    ((d.onNvm fun n => { n with snapshots := l }).setFld Reg.laneSnapCtl F.laneSnapCtl_busy 0).setFld
      Reg.laneSnapCtl F.laneSnapCtl_save 0
  | .centres l =>
    ((d.onNvm fun n => { n with centres := l }).setFld Reg.memTrainCtl F.memTrainCtl_busy 0).setFld
      Reg.memTrainCtl F.memTrainCtl_save 0
  | .options copy bytes =>
    { d with rst := if copy = 0 then { d.rst with copyA := bytes } else { d.rst with copyB := bytes } }.setFld
      Reg.rstObStatus F.rstObStatus_busy 0

/-- A save: done at once, or held while NVM writes are held (R334, R425, R495). -/
def Dev.save (d : Dev) (x : NvmSave) : Dev :=
  if d.nvmHeld then d.onNvm fun n => { n with saves := n.saves ++ [x] } else d.doSave x

/-- The saves that the hold kept back complete, oldest first. -/
def Dev.releaseSaves (d : Dev) : Dev :=
  d.nvm.saves.foldl Dev.doSave (d.onNvm fun n => { n with saves := [] })

/-- NVM_RECORD_WRITE (R447, R506): the pending records of an accepted order are written, else the oldest record that waits. -/
def execNvmRecordWrite (s : State) : Host.Outcome State Fault Refusal :=
  s.lift fun d =>
    match d.sec.order with
    | some o =>
      if o.stage = 4 ∧ o.pendingWritten = false ∧ d.nvmHeld = false then
        { d with sec := { d.sec with order := some { o with pendingWritten := true } } }
      else d.nvmWrite
    | none => d.nvmWrite

/-- The sectors of the key-wrap store (R505). -/
def keyWrapSectors : List Nat := [8, 9, 10, 11]

/-- The region of a sector (R505): 0 event log, 1 power-event slots, 3 audit log, 2 all else. -/
def sectorRegion (k : Nat) : Nat :=
  if 32 ≤ k ∧ k < 80 then 0 else if 28 ≤ k ∧ k < 32 then 1 else if 80 ≤ k ∧ k < 96 then 3 else 2

/-- The most worn sector (NVM_WEAR). -/
def Dev.showWear (d : Dev) : Dev :=
  let m := d.nvm.wear.foldl (fun a p => if a.2 < p.2 then p else a) (0, 0)
  d.setReg Reg.nvmWear (F.nvmWear_cycles.set (F.nvmWear_sector.set 0 m.1) (min m.2 (2 ^ 17 - 1)))

/-- SECTOR_ERASE_DONE (R506): the sector is erased, or a spare takes its place; with no spare left the region is worn. -/
def execSectorEraseDone (sector : Nat) (ok : Bool) (s : State) : Host.Outcome State Fault Refusal :=
  s.lift fun d =>
    if sector ∉ d.nvm.erasing then d
    else
      let d := d.onNvm fun n =>
        { n with erasing := n.erasing.filter (· ≠ sector), dirty := n.dirty.filter (· ≠ sector)
                 used := Tab.put zero n.used sector 0, wear := Tab.upd zero n.wear sector (· + 1) }
      let spares := d.fld Reg.nvmStatus F.nvmStatus_spares
      let d :=
        if ok then d
        else if 0 < spares then
          (d.setFld Reg.nvmStatus F.nvmStatus_spares (spares - 1)).onNvm fun n => { n with wear := Tab.put zero n.wear sector 0 }
        else (d.setFld Reg.nvmStatus F.nvmStatus_worn 1).onNvm fun n => { n with worn := sectorRegion sector :: n.worn }
      d.showWear.showBusy

/-- LOG_TOKEN_REFILL (R507): one token, which a waiting summary takes at once. -/
def execLogTokenRefill (s : State) : Host.Outcome State Fault Refusal :=
  s.lift fun d =>
    let t := d.fld Reg.nvmLog F.nvmLog_tokens
    match d.nvm.summaries with
    | (k, some (c, first, last, worst)) :: _ =>
      let d := d.onNvm fun n => { n with summaries := Tab.put noSummary n.summaries k Option.none }
      d.nvmPut ⟨0, LogKind.summary.code, k, d.now, [c, first % 2 ^ 32, first / 2 ^ 32, last % 2 ^ 32, last / 2 ^ 32, worst]⟩
    | _ => d.setFld Reg.nvmLog F.nvmLog_tokens (min 256 (t + 1))

/-- The event-log records of SEQ `first` on, at most `count`, oldest first (R511). -/
def Dev.logFrom (d : Dev) (first count : Nat) : List (Nat × NvmRec) :=
  ((d.nvm.log.reverse).filter fun p => first ≤ p.1).take count

end Sys2Proof.Machine
end

