-- ==== Sys2Proof/Machine/Counters.lean ====
section
/-! DEFINITION. The performance counters (R513–R517, R529): what they count, their configuration, clearing, presets, and
reading. -/

namespace Sys2Proof.Machine

/-- Events of R514. -/
inductive PmuEvent where
  | cycles | itemDone | itemBusy | pause | floorCtu | haloRx | pktSent | rxFrame | txFrame | token | migrated | readyWait
  | hbmRead | hbmWrite | rowConflict | nocStall | descRead | surplus
  deriving DecidableEq, Repr

/-- The event's code (R514). -/
def PmuEvent.code : PmuEvent → Nat
  | .cycles => 0x000 | .itemDone => 0x040 | .itemBusy => 0x041 | .pause => 0x042 | .floorCtu => 0x043 | .haloRx => 0x044
  | .pktSent => 0x080 | .rxFrame => 0x0C0 | .txFrame => 0x0C1 | .token => 0x100 | .migrated => 0x101 | .readyWait => 0x102
  | .hbmRead => 0x140 | .hbmWrite => 0x141 | .rowConflict => 0x142 | .nocStall => 0x180 | .descRead => 0x1C0
  | .surplus => 0x1C1

/-- The banks that an event is defined for, first and last (R514). -/
def PmuEvent.banks : PmuEvent → Nat × Nat
  | .cycles => (0, 142) | .itemDone => (0, 71) | .itemBusy => (0, 71) | .pause => (0, 39) | .floorCtu => (0, 31)
  | .haloRx => (0, 31) | .pktSent => (56, 71) | .rxFrame => (72, 135) | .txFrame => (72, 135) | .token => (136, 136)
  | .migrated => (136, 136) | .readyWait => (136, 136) | .hbmRead => (137, 140) | .hbmWrite => (137, 140)
  | .rowConflict => (137, 140) | .nocStall => (141, 141) | .descRead => (142, 142) | .surplus => (142, 142)

/-- The events. -/
def PmuEvent.all : List PmuEvent :=
  [.cycles, .itemDone, .itemBusy, .pause, .floorCtu, .haloRx, .pktSent, .rxFrame, .txFrame, .token, .migrated, .readyWait,
   .hbmRead, .hbmWrite, .rowConflict, .nocStall, .descRead, .surplus]

/-- The event of a code. -/
def pmuEvent? (code : Nat) : Option PmuEvent := PmuEvent.all.find? fun e => e.code = code

/-- Whether a code is defined for a bank. -/
def pmuDefined (bank code : Nat) : Bool :=
  match pmuEvent? code with
  | none => false
  | some e => decide (e.banks.1 ≤ bank ∧ bank ≤ e.banks.2)

/-- Whether an event is shared (R514, R516). -/
def pmuShared (code : Nat) : Bool := decide (0x100 ≤ code)

/-- Whether an event is a condition, or one that nothing but speed decides (R518). -/
def PmuEvent.ofSpeed : PmuEvent → Bool
  | .cycles => true | .itemBusy => true | .pause => true | .readyWait => true | .rowConflict => true
  | .nocStall => true | .surplus => true | _ => false

/-- Adds to a counter, which wraps at 2^48 (R515). -/
def Dev.pmuAdd (d : Dev) (bank j n : Nat) : Dev :=
  { d with pmu := { d.pmu with counts := Tab.upd zero d.pmu.counts (8 * bank + j) fun c => (c + n) % 2 ^ 48 } }

/-- Whether counter `j` of a bank counts an event (R514). -/
def Dev.pmuCounts (d : Dev) (bank j : Nat) (e : PmuEvent) : Bool :=
  let c := Reg.pmuCntCfg bank j
  d.flag c F.pmuCntCfg_enable && !d.flag (Reg.pmuBankCtl bank) F.pmuBankCtl_freeze && d.fld c F.pmuCntCfg_event == e.code

/-- Counts `n` occurrences of an event of a Crew and flow in a bank (R514, R515). Banks 0–71 count only their owner's. -/
def Dev.pmuCount (d : Dev) (bank : Nat) (e : PmuEvent) (crew flow n : Nat) : Dev :=
  if bank < 72 ∧ d.owner 0x0F bank ≠ crew then d
  else
    (List.range 8).foldl (fun d j =>
      let c := Reg.pmuCntCfg bank j
      if d.pmuCounts bank j e && (!d.flag c F.pmuCntCfg_flowEn || d.fld c F.pmuCntCfg_flow == flow) then d.pmuAdd bank j n
      else d) d

/-- The counters that are configured: bank and counter of every listed PMU_CNT_CFG register. -/
def Dev.pmuListed (d : Dev) : List (Nat × Nat) :=
  d.regs.filterMap fun p =>
    if 0x1201000 ≤ p.1 ∧ p.1 < 0x1201000 + 0x80 * 143 ∧ 0x20 ≤ (p.1 - 0x1201000) % 0x80 ∧ (p.1 - 0x1201000) % 0x80 < 0x40
    then some ((p.1 - 0x1201000) / 0x80, ((p.1 - 0x1201000) % 0x80 - 0x20) / 4) else none

/-- A Stroke passes for the counters that only speed moves: each gains a free amount (R518). -/
def Dev.pmuStroke (d : Dev) : Dev :=
  d.pmuListed.foldl (fun d p =>
    if PmuEvent.all.any fun e => e.ofSpeed && d.pmuCounts p.1 p.2 e then
      let x := d.fresh
      x.2.pmuAdd p.1 p.2 (Config.speedCount x.1)
    else d) d

/-- The value that a counter's registers and records show (R516). -/
def Dev.pmuValue (d : Dev) (bank j : Nat) : Nat :=
  if pmuShared (d.fld (Reg.pmuCntCfg bank j) F.pmuCntCfg_event) then Tab.get zero d.pmu.shown (8 * bank + j)
  else Tab.get zero d.pmu.counts (8 * bank + j)

/-- Clears a counter. -/
def Dev.pmuClear (d : Dev) (bank j : Nat) : Dev :=
  let k := 8 * bank + j
  { d with pmu := { d.pmu with counts := Tab.put zero d.pmu.counts k 0, shown := Tab.put zero d.pmu.shown k 0 } }

/-- Clears all eight counters of a bank. -/
def Dev.pmuClearBank (d : Dev) (bank : Nat) : Dev := (List.range 8).foldl (fun d j => d.pmuClear bank j) d

/-- A write of PMU_CNT_CFG (R517): it clears the counter, or is discarded with REFUSED. A FLOW is judged where FLOW_EN asks for
it. DEDUCED (notes/assumptions/61.md). -/
def Dev.pmuCfgWrite (d : Dev) (fn bank j value : Nat) : Dev :=
  let a := Reg.pmuCntCfg bank j
  let w := BitVec.ofNat 32 value
  let flowEn := F.pmuCntCfg_flowEn.get w = 1
  if 143 ≤ bank ∨ 8 ≤ j ∨ d.mayWrite fn a = false then d
  else if !pmuDefined bank (F.pmuCntCfg_event.get w) ∨ (flowEn ∧ 72 ≤ bank) ∨
      (flowEn ∧ d.owner 4 (F.pmuCntCfg_flow.get w) ≠ d.owner 0x0F bank) then
    d.setFld (Reg.pmuBankCtl bank) F.pmuBankCtl_refused 1
  else
    ((d.setReg a (mergeWord 0xFFFFFF80 w 0)).pmuClear bank j).setFld (Reg.pmuBankCtl bank) F.pmuBankCtl_preset 0

/-- PRESET LOAD (R529). -/
def Dev.pmuLoad (d : Dev) (bank : Nat) : Dev :=
  let set (d : Dev) (j mode : Nat) (e : PmuEvent) : Dev :=
    let a := Reg.pmuCntCfg bank j
    let w := F.pmuCntCfg_event.set (F.pmuCntCfg_mode.set 0 mode) e.code
    (d.setReg a (F.pmuCntCfg_enable.set w (bit (pmuDefined bank e.code)))).pmuClear bank j
  let d := set (set (set (set d 0 1 .cycles) 1 1 .itemBusy) 2 1 .pause) 3 0 .itemDone
  d.setFld (Reg.pmuBankCtl bank) F.pmuBankCtl_preset 1

/-- A write of PMU_BANK_CTL: FREEZE, REFUSED (write 1 to clear), PRESET 0 or 1, CLEAR (R515, R529). -/
def Dev.pmuCtlWrite (d : Dev) (fn bank value : Nat) : Dev :=
  let a := Reg.pmuBankCtl bank
  let w := BitVec.ofNat 32 value
  if 143 ≤ bank ∨ d.mayWrite fn a = false then d
  else
    let d := d.setFld a F.pmuBankCtl_freeze (F.pmuBankCtl_freeze.get w)
    let d := if F.pmuBankCtl_refused.get w = 1 then d.setFld a F.pmuBankCtl_refused 0 else d
    let d := match F.pmuBankCtl_preset.get w with
      | 0 => d.setFld a F.pmuBankCtl_preset 0
      | 1 => d.pmuLoad bank
      | _ => d
    if F.pmuBankCtl_clear.get w = 1 then d.pmuClearBank bank else d

/-- PMU_CNT_CFG_WRITE (R517). -/
def execPmuCntCfgWrite (fn bank counter value : Nat) (s : State) : Host.Outcome State Fault Refusal :=
  s.lift fun d => d.pmuCfgWrite fn bank counter value

/-- PMU_BANK_CLEAR (R515). -/
def execPmuBankClear (fn bank value : Nat) (s : State) : Host.Outcome State Fault Refusal :=
  s.lift fun d => d.pmuCtlWrite fn bank value

/-- PMU_PRESET_LOAD (R529). -/
def execPmuPresetLoad (fn bank value : Nat) (s : State) : Host.Outcome State Fault Refusal :=
  s.lift fun d => d.pmuCtlWrite fn bank value

/-- SHARED_COUNTER_LATCH (R516): at a Stroke that is a multiple of 8,000 every shared counter latches its shown value. -/
def execSharedCounterLatch (s : State) : Host.Outcome State Fault Refusal :=
  s.lift fun d =>
    if d.now % 8000 ≠ 0 then d
    else
      { d with pmu := { d.pmu with
          shown := d.pmu.counts.filter fun p => pmuShared (d.fld (Reg.pmuCntCfg (p.1 / 8) (p.1 % 8)) F.pmuCntCfg_event) } }

/-- PMU_CNT_LO_READ (R516): the read returns the low word and latches the high one. -/
def execPmuCntLoRead (fn bank counter : Nat) (s : State) : Host.Outcome State Fault Refusal :=
  s.lift fun d =>
    let a := Reg.pmuCntLo bank counter
    if 143 ≤ bank ∨ 8 ≤ counter ∨ d.sees fn a = false ∨ (fn = 0 ∧ d.houseBarred a = true) then d.emit (.read fn a 0)
    else
      let v := d.pmuValue bank counter
      { d with latch := Tab.put (fun _ => Option.none) d.latch (Reg.pmuCntHi bank counter) (some (v / 2 ^ 32)) }.emit
        (.read fn a (v % 2 ^ 32))

end Sys2Proof.Machine
end

