-- ==== Sys2Proof/Machine/Search.lean ====
section
/-! DEFINITION. The search of a CTU (R170–R181): its schedule, the positions it may look at, the phases on nibble planes, the window
and its slide, and the refinement to quarter samples. Vectors are in samples of full resolution until refinement, then in quarters. -/

namespace Sys2Proof.Machine

/-! ## Ranking (R176) -/

/-- |dx| + |dy|. -/
def vecLength (v : Int × Int) : Nat := v.1.natAbs + v.2.natAbs

/-- Whether a vector wins a tie over another: the smaller length, then the smaller dy, then the smaller dx. -/
def vecBefore (a b : Int × Int) : Bool :=
  decide (vecLength a < vecLength b) || (vecLength a == vecLength b &&
    (decide (a.2 < b.2) || (a.2 == b.2 && decide (a.1 < b.1))))

/-- Whether a position with its sum ranks before another. -/
def ranksBefore (a b : Nat × (Int × Int)) : Bool := decide (a.1 < b.1) || (a.1 == b.1 && vecBefore a.2 b.2)

/-- Puts a position in its rank. -/
def rankIn (p : Nat × (Int × Int)) : List (Nat × (Int × Int)) → List (Nat × (Int × Int))
  | [] => [p]
  | q :: r => if ranksBefore p q then p :: q :: r else q :: rankIn p r

/-- The `k` first of some positions by a cost, best first. -/
def bestOf (k : Nat) (cost : Int × Int → Nat) (l : List (Int × Int)) : List (Int × Int) :=
  ((l.eraseDups.foldl (fun r v => (rankIn (cost v, v) r).take k) []).map (·.2))

/-- The positions around a centre within ±`h` × ±`v` samples, `step` apart. -/
def around (c : Int × Int) (h v step : Nat) : List (Int × Int) :=
  (List.range (2 * (v / step) + 1)).flatMap fun (b : Nat) => (List.range (2 * (h / step) + 1)).map fun (a : Nat) =>
    (c.1 + ((a : Int) - (h / step : Nat)) * (step : Nat), c.2 + ((b : Int) - (v / step : Nat)) * (step : Nat))

/-! ## Schedules (R170, R184) -/

/-- What a search runs: the mode (0 HIER, 1 WINDOW, 2 BOTH), references, ranges, candidates `k` and radius `rf`. -/
structure Schedule where
  mode : Nat
  refs : Nat
  hierH : Nat
  hierV : Nat
  winS : Nat
  k : Nat
  rf : Nat
  deriving DecidableEq, Repr

/-- The full schedule of a channel (R170). -/
def EncCfg.fullSearch (g : EncCfg) : Schedule := ⟨g.meMode, g.refs, g.hierH, g.hierV, g.winS, 4, 3⟩

/-- The cut schedule (R184). -/
def EncCfg.cutSearch (g : EncCfg) : Schedule := ⟨g.meMode, 1, halfRange g.hierH, halfRange g.hierV, g.winS / 2, 2, 1⟩

/-- The search that a degradation level lets a live item run (R185): none at FLOOR. -/
def EncCfg.searchAtLevel (g : EncCfg) (level : Nat) : Option Schedule :=
  match level with
  | 0 => some g.fullSearch
  | 1 => some g.cutSearch
  | _ => none

/-- The units of a schedule's phases on one reference (R170). -/
def Schedule.units (s : Schedule) (n : Nat) : Nat := s.refs * searchUnits n s.mode s.hierH s.hierV s.winS s.k s.rf

/-! ## Positions (R173, R177) -/

/-- The vectors that a search may use for a block. -/
structure Reach where
  loX : Int
  hiX : Int
  loY : Int
  hiY : Int
  deriving DecidableEq, Repr

/-- Whether a position is not skipped. -/
def Reach.has (r : Reach) (v : Int × Int) : Bool := decide (r.loX ≤ v.1 ∧ v.1 ≤ r.hiX ∧ r.loY ≤ v.2 ∧ v.2 ≤ r.hiY)

/-- The zero vector clamped into the positions that are not skipped. -/
def Reach.zero (r : Reach) : Int × Int := (max r.loX (min 0 r.hiX), max r.loY (min 0 r.hiY))

/-- The reach of a block of `b` × `b` samples at (x0, y0) of piece `piece` (R177): at most n samples outside the picture, within the piece's
columns under SUBPIC, and within the first `fresh` columns less 4 where its CTU lies in a refreshed region. -/
def EncCfg.reach (g : EncCfg) (piece x0 y0 b : Nat) (fresh : Option Nat) : Reach :=
  let left := (if g.subpic && g.division = 1 then g.tileFirst piece * g.ctu else 0)
  let right := left + g.pieceWidth piece
  let inside : Bool := g.subpic && g.division = 1
  let lo : Int := -((g.ctu + x0 : Nat) : Int)
  let hi : Int := ((g.width + g.ctu : Nat) : Int) - (x0 + b : Nat)
  let lo := if inside then max lo ((left : Int) - x0) else lo
  let hi := if inside then min hi ((right : Int) - (x0 + b : Nat)) else hi
  let hi := match fresh with
    | some c => min hi ((c : Int) - 4 - (x0 + b : Nat))
    | none => hi
  ⟨lo, hi, -((g.ctu + y0 : Nat) : Int), ((g.height + g.ctu : Nat) : Int) - (y0 + b : Nat)⟩

/-- A centre or seed clamped so that every position around it lies within ±WIN_H × ±WIN_V (R173, R174). -/
def EncCfg.clampCentre (g : EncCfg) (v : Int × Int) : Int × Int :=
  let h : Int := ((g.winH - g.winS : Nat) : Int)
  let w : Int := ((g.winV - g.winS : Nat) : Int)
  (max (-h) (min h v.1), max (-w) (min w v.2))

/-- n ÷ d rounded half away from zero. -/
def halfAway (n : Int) (d : Nat) : Int := if n < 0 then -((2 * -n + d) / (2 * d : Nat)) else (2 * n + d) / (2 * d : Nat)

/-! ## Comparison on the planes (R172) -/

/-- What a search looks at: the nibbles of the source picture and of one reference, by factor, column and row. -/
structure Looking where
  src : Nat → Nat → Nat → Nat
  ref : Nat → Nat → Nat → Nat

/-- The sum of absolute differences, on the plane of factor `f`, of the block of `b` × `b` samples of full resolution at (x0, y0) and the
block of the reference that a vector names; samples outside a picture are those nearest inside (R166, R177). -/
def EncCfg.planeSad (g : EncCfg) (p : Looking) (f x0 y0 b : Nat) (v : Int × Int) : Nat :=
  let cols := cdiv g.width f
  let rows := cdiv g.height f
  let m := b / f
  sumBy (fun i =>
    let x := x0 / f + i % m
    let y := y0 / f + i / m
    let s := p.src f (min (cols - 1) x) (min (rows - 1) y)
    let r := p.ref f (nearest cols ((x : Int) + v.1 / (f : Int))) (nearest rows ((y : Int) + v.2 / (f : Int)))
    max s r - min s r) (List.range (m * m))

/-- The 16×16 sub-blocks of the CTU at (x0, y0), in raster order. -/
def EncCfg.subBlocks (g : EncCfg) (x0 y0 : Nat) : List (Nat × Nat) :=
  (List.range (g.ctu / 16 * (g.ctu / 16))).map fun i => (x0 + 16 * (i % (g.ctu / 16)), y0 + 16 * (i / (g.ctu / 16)))

/-- The best of the positions that are not skipped, or the zero vector where all are (R177). -/
def Reach.best (r : Reach) (k : Nat) (cost : Int × Int → Nat) (l : List (Int × Int)) : List (Int × Int) :=
  match bestOf k cost (l.filter r.has) with
  | [] => [r.zero]
  | l => l

/-- The coarse phase on N16: the best `k` positions of the whole CTU (R172). -/
def EncCfg.coarse (g : EncCfg) (s : Schedule) (p : Looking) (piece x0 y0 : Nat) (fresh : Option Nat) (k : Nat) : List (Int × Int) :=
  (g.reach piece x0 y0 g.ctu fresh).best k (g.planeSad p 16 x0 y0 g.ctu) (around (0, 0) s.hierH s.hierV 16)

/-- The middle phase on N4 and the fine phase on N1, of one sub-block (R172). -/
def EncCfg.closeIn (g : EncCfg) (s : Schedule) (p : Looking) (piece : Nat) (fresh : Option Nat) (seeds : List (Int × Int)) (b : Nat × Nat) :
    Int × Int :=
  let r := g.reach piece b.1 b.2 16 fresh
  let middle := r.best 2 (g.planeSad p 4 b.1 b.2 16) (seeds.flatMap fun c => around c 16 16 4)
  (r.best 1 (g.planeSad p 1 b.1 b.2 16) (middle.flatMap fun c => around c s.rf s.rf 1)).headD r.zero

/-- The window phase on N1 (R173): the positions around every centre are compared for the whole CTU, and each sub-block keeps its best. -/
def EncCfg.windowPhase (g : EncCfg) (s : Schedule) (p : Looking) (piece x0 y0 : Nat) (fresh : Option Nat) (centres : List (Int × Int)) :
    List (Int × Int) :=
  let r := g.reach piece x0 y0 g.ctu fresh
  let l := (centres.map g.clampCentre).flatMap fun c => around c s.winS s.winS 1
  (g.subBlocks x0 y0).map fun b => (r.best 1 (g.planeSad p 1 b.1 b.2 16) l).headD r.zero

/-- The search of a CTU on one reference, by the phases of the mode: a vector for each sub-block (R172–R174). `prev` is the final vector of
the CTU before, `stored` that of the co-located block of the reference, in whole samples. -/
def EncCfg.searchCtu (g : EncCfg) (s : Schedule) (p : Looking) (piece x0 y0 : Nat) (fresh : Option Nat) (prev stored : Int × Int) :
    List (Int × Int) :=
  if s.mode = 0 then
    let seeds := g.coarse s p piece x0 y0 fresh s.k
    (g.subBlocks x0 y0).map (g.closeIn s p piece fresh seeds)
  else
    let seeds := if s.mode = 2 then g.coarse s p piece x0 y0 fresh 2 else []
    g.windowPhase s p piece x0 y0 fresh ([(0, 0), prev, stored] ++ seeds)

/-! ## Refinement (R178) -/

/-- The 8-tap luma filter of a quarter of a sample. PRESUMED (notes/assumptions/71.md). -/
def lumaTaps (q : Nat) : List Int :=
  match q with
  | 0 => [0, 0, 0, 64, 0, 0, 0, 0]
  | 1 => [-1, 4, -10, 58, 17, -5, 1, 0]
  | 2 => [-1, 4, -11, 40, 40, -11, 4, -1]
  | _ => [0, 1, -5, 17, 58, -10, 4, -1]

/-- Taps over the samples at −3 … 4. -/
def tapped (taps : List Int) (at_ : Int → Int) : Int := taps.zipIdx.foldl (fun n t => n + t.1 * at_ ((t.2 : Int) - 3)) 0

/-- The prediction at a position in quarter samples. PRESUMED (notes/assumptions/71.md): one rounding at the end. -/
def predicted (luma : Int → Int → Nat) (x y : Int) : Int :=
  let row (j : Int) : Int := tapped (lumaTaps (x % 4).toNat) fun i => luma (x / 4 + i) j
  (clampTo 1023 (halfUp (tapped (lumaTaps (y % 4).toNat) fun j => row (y / 4 + j)) 4096) : Nat)

/-- The Hadamard transform of four values. -/
def hadamard (a b c d : Int) : List Int := [a + b + c + d, a - b + c - d, a + b - c - d, a - b - c + d]

/-- SATD of a 4×4 block of differences. PRESUMED (notes/assumptions/71.md). -/
def satd4 (diff : Nat → Nat → Int) : Nat :=
  let rows := (List.range 4).map fun j => hadamard (diff 0 j) (diff 1 j) (diff 2 j) (diff 3 j)
  let at_ (j i : Nat) : Int := (rows.getD j []).getD i 0
  sumBy (fun i => sumBy Int.natAbs (hadamard (at_ 0 i) (at_ 1 i) (at_ 2 i) (at_ 3 i))) (List.range 4)

/-- SATD of a 16×16 block against the prediction of a vector in quarter samples. -/
def blockSatd (src : Nat → Nat → Nat) (ref : Int → Int → Nat) (b : Nat × Nat) (v : Int × Int) : Nat :=
  sumBy (fun n =>
    let x := b.1 + 4 * (n % 4)
    let y := b.2 + 4 * (n / 4)
    satd4 fun i j => ((src (x + i) (y + j) : Nat) : Int) - predicted ref (4 * (x + i : Nat) + v.1) (4 * (y + j : Nat) + v.2)) (List.range 16)

/-- The refinement of a sub-block's whole-sample vector: within ±1 sample, then half, then quarter samples, by SATD plus λ times the bits of
the vector. Ties are broken as R176 breaks them. DEDUCED (notes/assumptions/71.md). -/
def refined (src : Nat → Nat → Nat) (ref : Int → Int → Nat) (qp : Nat) (b : Nat × Nat) (v : Int × Int) : Int × Int :=
  let cost (q : Int × Int) : Nat := blockSatd src ref b q + Config.lambda qp * Config.vectorBits q.1 q.2
  [4, 2, 1].foldl (fun c step => (bestOf 1 cost (around c step step step)).headD c) (4 * v.1, 4 * v.2)

/-! ## The window and its slide (R179–R181) -/

/-- Settings with the search fields of those that hold for an earliest release Stroke (R187). -/
def EncDyn.searchCfg (x : EncDyn) (g : EncCfg) (e : Nat) : EncCfg :=
  match x.search.find? fun p => decide (p.1 ≤ e) with
  | none => g
  | some (_, s) => { g with meMode := s.meMode, refs := s.refs, haloShare := s.haloShare, hierH := s.hierH, hierV := s.hierV
                            winH := s.winH, winV := s.winV, winS := s.winS }

/-- The columns of a window while CTU `x` is searched, with the next CTU column that is loaded meanwhile: from the first up to the
last and one. -/
def EncCfg.windowCols (g : EncCfg) (x : Nat) : Int × Int :=
  (((x * g.ctu : Nat) : Int) - g.winH, (((x + 2) * g.ctu : Nat) : Int) + g.winH)

/-- The rows of a window of a band: from the first up to the last and one. -/
def EncCfg.windowRows (g : EncCfg) (band : Nat) : Int × Int :=
  (((band * g.ctu : Nat) : Int) - g.winV, (((band + 1) * g.ctu : Nat) : Int) + g.winV)

/-- Whether a column is read at all: one outside the reference picture is padding. -/
def EncCfg.columnRead (g : EncCfg) (x : Int) : Bool := decide (0 ≤ x ∧ x < g.width)

/-- The CTU columns that the windows of a whole item of a piece take in, of the reference picture. -/
def EncCfg.itemColumns (g : EncCfg) (piece : Nat) : List Nat :=
  let first := if g.division = 1 then g.tileFirst piece * g.ctu else 0
  (List.range g.ctus).filter fun c =>
    decide (((first : Int) - g.winH < (((c + 1) * g.ctu : Nat) : Int)) ∧ (((c * g.ctu : Nat) : Int) < (first + g.pieceWidth piece + g.winH : Nat)))

/-- The window columns that come over the Eight's ring (R181): those outside the piece, under TILES with several pieces and HALO_SHARE, unless
the piece runs migrated. The others are read from HBM. -/
def EncCfg.ringCols (g : EncCfg) (piece : Nat) (migrated : Bool) : List Nat :=
  if g.meMode ≠ 0 && g.division = 1 && decide (1 < g.pieces) && g.haloShare && !migrated then
    (g.itemColumns piece).filter fun c => !(decide (g.tileFirst piece ≤ c) && decide (c < g.tileFirst piece + g.tileCtus piece))
  else []

/-- The bytes of the window store. -/
def windowStore : Nat := 2097152

/-- Keeps windows, the most recently run first, while they fit the store. -/
def windowsKept : (room : Nat) → List SeatWindow → List SeatWindow
  | _, [] => []
  | room, w :: r => if w.bytes ≤ room then w :: windowsKept (room - w.bytes) r else []

/-- The windows of a Seat once an item of a flow runs there (R180): its own comes first and the least recently run go where space lacks. -/
def windowsAfter (w : SeatWindow) (l : List SeatWindow) : List SeatWindow :=
  windowsKept windowStore (w :: l.filter fun v => v.flow ≠ w.flow)

/-- The rows of a window that a Seat still holds when an item of the next band of the same piece begins: it need not read them again (R180). -/
def EncCfg.rowsHeld (g : EncCfg) (l : List SeatWindow) (flow band : Nat) : Nat :=
  match l.find? fun w => w.flow = flow with
  | none => 0
  | some w => if w.band < band then g.ctu + 2 * g.winV - min (g.ctu + 2 * g.winV) ((band - w.band) * g.ctu) else 0

end Sys2Proof.Machine
end

