-- ==== Sys2Proof/Machine/Cox.lean ====
section
/-! DEFINITION. Cox (R51–R84): flows as they stand, the matching store and its tokens, what each flow's items cost and when
they may be released, dispatch, pauses, throttling, and the withdrawal of flows. -/

namespace Sys2Proof.Machine

/-! ## Flows -/

/-- What an unlisted window store holds. -/
def noWindows (_ : Nat) : List SeatWindow := []

/-- Changes Cox's state beside its registers. -/
def Dev.onCox (d : Dev) (f : Cox → Cox) : Dev := { d with cox := f d.cox }

/-- What an unlisted history of a flow reads as: no change. -/
def noWas (_ : Nat) : List (Nat × Word × Word × Word) := []

/-- The registers of a flow as they held before the first change after Stroke `e`, where there is one (R81). -/
def Dev.flowWas (d : Dev) (f e : Nat) : Option (Nat × Word × Word × Word) :=
  ((Tab.get noWas d.cox.was f).filter fun w => decide (e < w.1)).getLast?

/-- COX_FLOW_CFG as it holds for items whose earliest release Stroke is `e` (R81). -/
def Dev.flowCfgAt (d : Dev) (f e : Nat) : Word := ((d.flowWas f e).map (·.2.1)).getD (d.reg (Reg.coxFlowCfg f))

/-- COX_FLOW_DL as it holds for items whose earliest release Stroke is `e`. -/
def Dev.flowDlAt (d : Dev) (f e : Nat) : Word := ((d.flowWas f e).map (·.2.2.1)).getD (d.reg (Reg.coxFlowDl f))

/-- COX_FLOW_AFF as it holds for items whose earliest release Stroke is `e`. -/
def Dev.flowAffAt (d : Dev) (f e : Nat) : Word := ((d.flowWas f e).map (·.2.2.2)).getD (d.reg (Reg.coxFlowAff f))

/-- Whether a flow is enabled. -/
def Dev.flowOn (d : Dev) (f : Nat) : Bool := d.flag (Reg.coxFlowCfg f) F.coxFlowCfg_enable

/-- Whether a flow is live. -/
def Dev.flowLive (d : Dev) (f : Nat) : Bool := d.flag (Reg.coxFlowCfg f) F.coxFlowCfg_live

/-- The object that a flow's items belong to (R81). -/
def Dev.flowObj (d : Dev) (f : Nat) : FlowObj := Tab.get (fun _ => FlowObj.none) d.cox.flowObj f

/-- The resource class of a flow (R51). -/
def Dev.flowClass (d : Dev) (f : Nat) : Nat := d.fld (Reg.coxFlowCfg f) F.coxFlowCfg_resClass

/-- The owner of a flow (R54). -/
def Dev.flowCrew (d : Dev) (f : Nat) : Nat := d.owner 4 f

/-- A unit numbered over all classes: Seats 0–31, decode Seats 32–39, pipes 40–55, packetisers 56–71, and 72 for the fixed
units. -/
def unitOf (cls n : Nat) : Nat :=
  match cls with
  | 0 => n % 32 | 1 => 32 + n % 8 | 2 => 40 + n % 16 | 3 => 56 + n % 16 | _ => 72

/-- A unit's number within its class. -/
def unitNo (u : Nat) : Nat := if u < 32 then u else if u < 40 then u - 32 else if u < 56 then u - 40 else if u < 72 then u - 56 else 0

/-- A flow's home unit. -/
def Dev.homeUnit (d : Dev) (f : Nat) : Nat := unitOf (d.flowClass f) (d.fld (Reg.coxFlowAff f) F.coxFlowAff_home)

/-- The home unit of a flow's items whose earliest release Stroke is `e` (R81). -/
def Dev.homeUnitAt (d : Dev) (f e : Nat) : Nat :=
  unitOf (F.coxFlowCfg_resClass.get (d.flowCfgAt f e)) (F.coxFlowAff_home.get (d.flowAffAt f e))

/-- The enabled flows. -/
def Dev.flowsOn (d : Dev) : List Nat :=
  d.regs.filterMap fun p =>
    if 0x310000 ≤ p.1 ∧ p.1 < 0x320000 ∧ p.1 % 16 = 0 ∧ F.coxFlowCfg_enable.get p.2 = 1 then some ((p.1 - 0x310000) / 16)
    else none

/-- The enabled live flows homed on a unit. -/
def Dev.liveHomed (d : Dev) (u : Nat) : List Nat := d.flowsOn.filter fun f => d.flowLive f && d.homeUnit f == u

/-! ## The objects of flows -/

/-- An encode channel in operation. -/
def Dev.enc? (d : Dev) (c : Nat) : Option EncDyn := Tab.get (fun _ => Option.none) d.enc c

/-- The settings that hold for picture `j` of a list of settings, newest first, with the first frame they hold for (R154). -/
def cfgFor : List (Nat × EncCfg) → Nat → Option (Nat × EncCfg)
  | [], _ => none
  | [p], _ => some p
  | p :: q :: r, j => if p.1 ≤ j then some p else cfgFor (q :: r) j

/-- The settings that hold for the item with a sequence number near a Stroke. -/
def cfgOfSeq : List (Nat × EncCfg) → (now seq : Nat) → Option (Nat × EncCfg)
  | [], _, _ => none
  | [p], _, _ => some p
  | p :: q :: r, now, seq => if p.1 ≤ (p.2.bandOf now seq).1 then some p else cfgOfSeq (q :: r) now seq

/-- The Stroke that an encode channel's item numbers are read near: the current one, or for a best-effort channel that of the
picture it codes. -/
def EncDyn.near (x : EncDyn) (now : Nat) : Nat :=
  match x.cfgs.head? with
  | none => now
  | some p => if p.2.live then now else frameStroke p.2.num p.2.den x.place

/-- The settings that hold for an item of an encode channel, and its number. -/
def Dev.encItem? (d : Dev) (c seq : Nat) : Option (EncCfg × Nat) :=
  (d.enc? c).bind fun x => (cfgOfSeq x.cfgs (x.near d.now) seq).map fun p => (p.2, p.2.numberNear (x.near d.now) seq)

/-- The newest settings of an encode channel. -/
def Dev.encCfg? (d : Dev) (c : Nat) : Option EncCfg := (d.enc? c).bind fun x => (x.cfgs.head?).map (·.2)

/-- The (settings, picture, band) of an encode channel whose release Stroke is `s`, in order. -/
def EncDyn.dueAt (x : EncDyn) (s : Nat) : List (EncCfg × Nat × Nat) :=
  x.cfgs.flatMap fun p => (p.2.dueAt s).filterMap fun y =>
    if x.first ≤ y.1 && (cfgFor x.cfgs y.1).map (·.1) == some p.1 then some (p.2, y.1, y.2) else none

/-- A decode channel in operation. -/
def Dev.dec? (d : Dev) (c : Nat) : Option DecDyn := Tab.get (fun _ => Option.none) d.dec c

/-- A programme in operation. -/
def Dev.prog? (d : Dev) (p : Nat) : Option ProgDyn := Tab.get (fun _ => Option.none) d.cmp.progs p

/-- A of an audio group in force (R309). -/
def Dev.audA (d : Dev) (g : Nat) : Nat := d.fld (Reg.audGrpResolved g) F.audGrpResolved_a

/-- The number that a 16-bit count names near `here`. -/
def near16 (here n : Nat) : Nat := here + 32768 - (here + 32768 + 65536 - n % 65536) % 65536

/-- What an item is by its flow and sequence number: its number `n`, its earliest release Stroke, its certified cost and that
of its floor pass. A flow that no object made has no costs, and its items may be released at once. DEDUCED (notes/assumptions/35.md). -/
def Dev.itemFacts (d : Dev) (f seq : Nat) : Nat × Nat × Nat × Nat :=
  match d.flowObj f with
  | .encPiece c p =>
    match d.encItem? c seq with
    | some (g, n) =>
      let x := g.ofNumber n
      if g.live then (n, g.release x.1 x.2.1, g.itemCost p x.2.1, g.floorPass p x.2.1)
      else (n, d.now, g.segCost p x.2.2, 0)
    | none => (seq, d.now, 0, 0)
  | .encPkt c =>
    match d.encItem? c seq with
    | some (g, n) =>
      let x := g.ofNumber n
      (n, if g.live then g.release x.1 x.2.1 + 1 else d.now, 0, 0)
    | none => (seq, d.now, 0, 0)
  | .dec c =>
    match d.dec? c with
    | some x => let k := x.cfg.slotOf d.now seq; (k, x.cfg.release k, x.cfg.cost, 0)
    | none => (seq, d.now, 0, 0)
  | .prog p =>
    match d.prog? p with
    | some x => let s := x.cfg.stripOf d.now seq; (s.1 * x.cfg.strips + s.2, x.cfg.release s.1 s.2, x.cfg.stripCost s.2, 0)
    | none => (seq, d.now, 0, 0)
  | .audio g => let j := near16 d.now seq; (j, j + d.audA g, 0, 0)
  | .none => (seq, d.now, 0, 0)

/-- The sequence numbers of a live flow's items whose earliest release Stroke is `s`; none where any item may come. -/
def Dev.duesAt (d : Dev) (f s : Nat) : Option (List Nat) :=
  match d.flowObj f with
  | .encPiece c p => (d.enc? c).map fun x => ((x.dueAt s).filter fun y => y.1.takes p y.2.2).map fun y => y.1.seqOf y.2.1 y.2.2
  | .encPkt c => (d.enc? c).map fun x => (x.dueAt (s - 1)).map fun y => y.1.seqOf y.2.1 y.2.2
  | .dec c => (d.dec? c).map fun x =>
      let g := x.cfg
      let k := (125 * s - g.arriveUs) * g.num / (1000000 * g.den)
      ([k, k + 1].filter fun k => g.release k == s).map fun k => k % 65536
  | .prog p => (d.prog? p).map fun x =>
      ((x.cfg.dueAt s).filter fun y => x.cfg.flows.getD (y.2 % max 1 x.cfg.flows.length) f = f).map fun y => x.cfg.seqOf y.1 y.2
  | .audio g => some [(s - d.audA g) % 65536]
  | .none => none

/-- Whether a live flow has an item whose earliest release Stroke is `s`. -/
def Dev.releasesAt (d : Dev) (f s : Nat) : Bool :=
  match d.duesAt f s with
  | some l => !l.isEmpty
  | none => true

/-! ## Buffers that tokens name -/

/-- No pool. -/
def noPool (_ : Nat) : Option Pool := Option.none

/-- A pool: `c` for encode channel c, 256 + d for decode channel d (R222). -/
def Dev.pool? (d : Dev) (p : Nat) : Option Pool := Tab.get noPool d.pools p

/-- Sets or removes a pool. -/
def Dev.setPool (d : Dev) (p : Nat) (x : Option Pool) : Dev := { d with pools := Tab.put noPool d.pools p x }

/-- Changes a buffer of a pool. -/
def Dev.onBuffer (d : Dev) (p i : Nat) (f : Buffer → Buffer) : Dev :=
  d.setPool p ((d.pool? p).map fun x =>
    { x with buffers := (x.buffers.zipIdx).map fun b => if b.2 = i then f b.1 else b.1 })

/-- The operands of an item that ends without running go back to their producers: for a decode item, the buffer it would have
decoded into (R75, R76, R80). -/
def Dev.releaseOperand (d : Dev) (f slot handle : Nat) : Dev :=
  match d.flowObj f with
  | .dec c => if slot = 1 then d.onBuffer (256 + c) handle fun b => { b with busy := false } else d
  | _ => d

/-! ## The matching store (R55–R60) -/

/-- The entry of an item. -/
def Dev.item? (d : Dev) (f seq : Nat) : Option Item := d.cox.items.find? fun i => i.flow = f && i.seq = seq

/-- Changes the entry of an item. -/
def Dev.onItem (d : Dev) (f seq : Nat) (g : Item → Item) : Dev :=
  d.onCox fun c => { c with items := c.items.map fun i => if i.flow = f ∧ i.seq = seq then g i else i }

/-- Whether sequence number `a` comes before `b` in a flow whose count wraps. -/
def seqBefore (a b : Nat) : Bool := a != b && decide ((b + 65536 - a) % 65536 < 32768)

/-- An item leaves the store. Items far behind it in its flow are forgotten, since their numbers come again. -/
def Dev.endItem (d : Dev) (f seq : Nat) (substituted : Bool) : Dev :=
  d.onCox fun c =>
    { c with items := c.items.filter fun i => !(i.flow = f && i.seq = seq)
             gone := (f, seq, substituted) :: c.gone.filter fun g =>
               !(g.1 = f && (g.2.1 = seq || decide (16384 ≤ (seq + 65536 - g.2.1) % 65536))) }

/-- What became of an item that has left the store: some of whether its substitute ran. -/
def Dev.gone? (d : Dev) (f seq : Nat) : Option Bool :=
  (d.cox.gone.find? fun g => g.1 = f && g.2.1 = seq).map (·.2.2)

/-- Entries that a flow holds in its reserved share. -/
def Dev.heldEntries (d : Dev) (f : Nat) : Nat := (d.cox.items.filter fun i => i.flow = f && !i.shared).length

/-- Entries reserved by live flows, those that drain included (R58, R80). -/
def Dev.liveReserved (d : Dev) : Nat :=
  sumBy (fun f => if d.flowLive f then d.fld (Reg.coxFlowCfg f) F.coxFlowCfg_reserve else 0) d.flowsOn +
    sumBy (fun p => p.2) d.cox.draining

/-- Whether an entry of the unreserved share is free. DESIGN CHOICE (notes/assumptions/69.md): an item in service still takes its entry here,
while IN_USE and ENTRIES as they are read count the items that wait. -/
def Dev.storeRoom (d : Dev) : Bool := decide ((d.cox.items.filter (·.shared)).length + d.liveReserved < 8192)

/-- A token is lost for want of room or of an item (R59, R76). -/
def Dev.lateDrop (d : Dev) (f slot handle : Nat) : Dev :=
  (d.addFld Reg.coxEventCnt F.coxEventCnt_lateDrop 1).releaseOperand f slot handle

/-- An entry whose needed slots are filled joins its unit's ready list. -/
def Dev.makeReady (d : Dev) (f seq : Nat) : Dev :=
  match d.item? f seq with
  | none => d
  | some i =>
    if i.readyNo = 0 && (List.range 4).all fun s => bitAt i.filled s then
      let n := d.cox.readyNo + 1
      (d.onCox fun c => { c with readyNo := n }).onItem f seq fun i => { i with readyNo := n }
    else d

/-- The target Stroke of a best-effort item whose picture no post of the host has brought yet: none. -/
def noTarget : Nat := 2 ^ 64

/-- The target Stroke of a best-effort item that a token of this Stroke creates (R72): that of the post of its host picture. DESIGN CHOICE
(notes/assumptions/69.md): where no descriptor gives one, the Stroke of its first token. -/
def Dev.beTarget (d : Dev) (f seq : Nat) : Nat :=
  match d.flowObj f with
  | .encPiece c _ =>
    match d.enc? c, d.encItem? c seq with
    | some x, some (g, n) => if g.srcType = 4 then ((x.posts[(g.ofNumber n).1 - x.place]?).map (·.target)).getD noTarget else d.now
    | _, _ => d.now
  | _ => d.now

/-- The entry that a first token of an item creates. `target` is the target Stroke of best-effort work. -/
def Dev.newItem (d : Dev) (f seq target : Nat) (shared : Bool) : Item :=
  let x := d.itemFacts f seq
  let w := d.flowCfgAt f x.2.1
  let dl := d.flowDlAt f x.2.1
  let live := F.coxFlowCfg_live.get w = 1
  let be := target + F.coxFlowDl_beTimeout.get dl
  let need := F.coxFlowCfg_need.get w
  { flow := f, seq := seq, n := x.1, e := x.2.1
    rd := if live then x.2.1 + F.coxFlowDl_relOff.get dl else be
    cd := if live then x.2.1 + F.coxFlowDl_finOff.get dl else be
    live := live, need := need, filled := 15 - need % 16, handles := [0, 0, 0, 0], shared := shared, readyNo := 0
    unit := none, cost := x.2.2.1, floorCost := x.2.2.2, level := 0, isolated := false, target := target }

/-- The Stroke from which the results of a flow's item with earliest release Stroke `e` may be seen: the boundary after its completion
deadline where the flow is live, else at once (R452). -/
def Dev.seenFrom (d : Dev) (f e : Nat) : Nat :=
  if F.coxFlowCfg_live.get (d.flowCfgAt f e) = 1 then e + F.coxFlowDl_finOff.get (d.flowDlAt f e) + 1 else d.now

/-- A token arrives at Cox (R55–R59, R76, R80): it fills its slot, creates an entry, or is discarded. DESIGN CHOICE (notes/assumptions/69.md):
a first token that names a slot outside NEED creates the entry, and is neither kept nor counted as a duplicate; a later one is counted. -/
def Dev.token (d : Dev) (f seq slot handle : Nat) : Dev :=
  let d := d.pmuCount 136 .token (d.flowCrew f) f 1
  if !d.flowOn f ∨ 4 ≤ slot then d.releaseOperand f slot handle
  else
    match d.item? f seq with
    | some i =>
      if bitAt i.filled slot then (d.addFld Reg.coxDupCnt F.coxDupCnt_dup 1).releaseOperand f slot handle
      else
        (d.onItem f seq fun i => { i with filled := i.filled + 2 ^ slot, handles := i.handles.set slot handle }).makeReady f seq
    | none =>
      match d.gone? f seq with
      | some true => d.lateDrop f slot handle
      | some false => (d.addFld Reg.coxDupCnt F.coxDupCnt_dup 1).releaseOperand f slot handle
      | none =>
        let own := d.flowLive f && decide (d.heldEntries f < d.fld (Reg.coxFlowCfg f) F.coxFlowCfg_reserve)
        if !own && !d.storeRoom then d.lateDrop f slot handle
        else
          let i := d.newItem f seq (d.beTarget f seq) !own
          let i := if bitAt i.filled slot then i
            else { i with filled := i.filled + 2 ^ slot, handles := i.handles.set slot handle }
          (d.onCox fun c => { c with items := c.items ++ [i] }).makeReady f seq

/-- A token that enters the deterministic core from outside it: it is recorded in the log of the flow's owner (R49, R55,
R522). -/
def Dev.tokenIn (d : Dev) (f seq slot handle : Nat) : Dev :=
  (d.recordToken (d.flowCrew f) slot f [seq, handle]).token f seq slot handle

/-! ## Units -/

/-- The class and index of a unit for single-block resets (R490). -/
def unitBlock (u : Nat) : Nat × Nat :=
  if u < 32 then (1, u) else if u < 40 then (2, u - 32) else if u < 56 then (3, u - 40) else (4, u - 56)

/-- Whether a unit is isolated by reset (R483). -/
def Dev.unitIsolated (d : Dev) (u : Nat) : Bool :=
  d.inReset 5 || (decide (u < 72) && d.blockHeld (unitBlock u).1 (unitBlock u).2)

/-- The item in service on a unit. -/
def Dev.served (d : Dev) (u : Nat) : Option Item := d.cox.items.find? fun i => i.unit = some u

/-- Pause cycles outstanding on a unit (R78). -/
def Dev.pauseOf (d : Dev) (u : Nat) : Nat := Tab.get zero d.cox.pause u

/-- Whether a unit is free: not isolated, serving nothing, not pausing. The fixed units always are. -/
def Dev.unitFree (d : Dev) (u : Nat) : Bool :=
  !d.unitIsolated u && (72 ≤ u || ((d.served u).isNone && d.pauseOf u == 0))

/-- Whether an idle unit is feathered, that is clock-gated: no enabled live flow is homed on it (R66). DEDUCED (notes/assumptions/35.md). -/
def Dev.feathered (d : Dev) (u : Nat) : Bool := (d.liveHomed u).isEmpty

/-- COX_UNIT_STATE.STATE. -/
def Dev.unitState (d : Dev) (u : Nat) : Nat :=
  if d.unitIsolated u then 5
  else match d.served u with
    | some i => if i.live then 2 else 3
    | none => if d.pauseOf u ≠ 0 then 4 else if d.feathered u then 0 else 1

/-- The Stroke in which an item of a cost finishes when it starts `ns` after the boundary; a cycle is 0.8 ns. -/
def Dev.finishStroke (d : Dev) (ns cost : Nat) : Nat := d.now + (5 * ns + 4 * cost) / 625000

/-- Whether a live flow can still release an item by the end of a Stroke: one whose release window has opened by then, and
which has neither ended nor started. -/
def Dev.canRelease (d : Dev) (f last : Nat) : Bool :=
  let back := d.fld (Reg.coxFlowDl f) F.coxFlowDl_relOff
  (List.range (last + 1 + back - d.now)).any fun n =>
    match d.duesAt f (d.now - back + n) with
    | none => true
    | some l => l.any fun q => (d.gone? f q).isNone && (match d.item? f q with
      | some i => i.unit.isNone
      | none => true)

/-- Whether a unit is clear for an item of a cost (R64). -/
def Dev.unitClear (d : Dev) (u ns cost : Nat) : Bool :=
  d.unitFree u && !d.feathered u && (d.liveHomed u).all fun f => !d.canRelease f (d.finishStroke ns cost)

/-- The units of an item's Eight: eight Seats, or all decode Seats (R51). -/
def eightOf (u : Nat) : List Nat := if u < 40 then (List.range 8).map (u / 8 * 8 + ·) else []

/-- The units of a class with Eights. -/
def unitsLike (u : Nat) : List Nat := if u < 32 then List.range 32 else eightOf u

/-- Whether a flow is a piece of a channel of several pieces (R140). -/
def Dev.severalPieces (d : Dev) (f : Nat) : Bool :=
  match d.flowObj f with
  | .encPiece c _ => ((d.encCfg? c).map (fun g => decide (1 < g.pieces))).getD false
  | _ => false

/-- MIGRATE of a flow for its items of an earliest release Stroke (R81), FOLLOW taking the device's default, and ANY taken as EIGHT for a
channel of several pieces: 1 ANY, 2 EIGHT, 3 HOME (R140). -/
def Dev.migrate (d : Dev) (f e : Nat) : Nat :=
  let m := F.coxFlowAff_migrate.get (d.flowAffAt f e)
  if m ≠ 0 then m
  else
    let def_ := d.fld Reg.coxCtl F.coxCtl_migrateDefault
    if def_ = 1 && d.severalPieces f then 2 else def_

/-- The resource class of a unit (R51). -/
def unitCls (u : Nat) : Nat := if u < 32 then 0 else if u < 40 then 1 else if u < 56 then 2 else if u < 72 then 3 else 4

/-- The unit that last ran a flow, if one of the flow's class has. -/
def Dev.lastUnit (d : Dev) (f : Nat) : Option Nat :=
  match Tab.get zero d.cox.lastRun f with
  | 0 => none
  | n + 1 => if unitCls n = d.flowClass f then some n else none

/-- Whether a unit takes items of a flow (R441): an owned one only its Crew's; a Crew with BE_PRIVATE keeps its best-effort items
off shared Seats and decode Seats (R453). -/
def Dev.unitTakes (d : Dev) (u f : Nat) (live : Bool) : Bool :=
  let cls := if u < 32 then 0x0C else if u < 40 then 0x0D else 0x0E
  if (40 ≤ u ∧ u < 56) ∨ 72 ≤ u then true
  else
    let o := d.owner cls (unitNo u)
    o == d.flowCrew f || (o == 0x1E && (live || 40 ≤ u || !d.flag (Reg.secCrewPolicy (d.flowCrew f)) F.secCrewPolicy_bePrivate))

/-! ## Dispatch (R61–R70) -/

/-- The unit that a live item starts on (R64, R67): its home when free, else a clear unit that MIGRATE allows. A floor pass needs one that
is free and not feathered, clear or not (R74). -/
def Dev.liveUnit (d : Dev) (i : Item) (ns : Nat) : Option Nat :=
  let h := d.homeUnitAt i.flow i.e
  let m := d.migrate i.flow i.e
  let clear (u : Nat) : Bool := u != h && d.unitTakes u i.flow true &&
    (if i.floor = 0 then d.unitClear u ns i.cost else d.unitFree u && !d.feathered u)
  if d.unitFree h then some h
  else if 3 ≤ m ∨ 40 ≤ h then none
  else
    let own := match d.lastUnit i.flow with
      | some u => if (eightOf h).contains u && clear u then some u else none
      | none => none
    (own.or ((eightOf h).find? clear)).or (if m = 1 then (unitsLike h).find? clear else none)

/-- left(k): cycles left at a throttle step (R68). -/
def cyclesLeft (k : Nat) : Nat := 156250 * (16 - k) / 16

/-- STEP of a unit. -/
def Dev.stepOf (d : Dev) (u : Nat) : Nat := d.fld (Reg.coxThrottle u) F.coxThrottle_step

/-- Whether the device is at CRITICAL. -/
def Dev.critical (d : Dev) : Bool := d.fld Reg.thmStatus F.thmStatus_level = 3 || decide (d.now < d.thm.resumes)

/-- W: the best-effort allowance of a Seat or decode Seat (R68). Demand is held rounded up to whole cycles. -/
def Dev.allowance (d : Dev) (u : Nat) : Nat :=
  if d.critical then 0
  else
    let cut := d.fld (Reg.coxThrottle u) F.coxThrottle_degrade = 1
    let dl := if cut then Tab.get zero d.cox.cut u else d.fld (Reg.coxUnitState u) F.coxUnitState_liveDemand
    min (d.fld Reg.coxBeCfg F.coxBeCfg_quantum) (max 3125 (cyclesLeft (d.stepOf u) - dl))

/-- Whether a live item homed on a unit has an open admission window (R69). -/
def Dev.windowOpen (d : Dev) (u : Nat) : Bool :=
  (d.liveHomed u).any fun f =>
    (List.range (d.fld (Reg.coxFlowDl f) F.coxFlowDl_finOff + 1)).any fun n => d.releasesAt f (d.now - n)

/-- Best-effort cycles started on a unit in this Stroke. -/
def Dev.beUsed (d : Dev) (u : Nat) : Nat := Tab.get zero d.cox.beUsed u

/-- The cycles that a best-effort item counts for on a unit: its certified cost, and the 200 ns in which a feathered unit wakes (R66). -/
def Dev.beCycles (d : Dev) (i : Item) (u : Nat) : Nat := i.cost + (if d.feathered u then 250 else 0)

/-- Whether a best-effort item may start on a unit (R66, R69, R70). -/
def Dev.beMayStart (d : Dev) (i : Item) (u ns : Nat) : Bool :=
  d.unitFree u && !d.critical && decide (i.cost ≤ d.fld Reg.coxBeCfg F.coxBeCfg_quantum) &&
    (!d.windowOpen u || (decide (5 * ns + 4 * d.beCycles i u ≤ 625000) && decide (d.beUsed u + d.beCycles i u ≤ d.allowance u)))

/-- Whether a best-effort item is due the starvation guard of its home Seat, and may start there (R70). -/
def Dev.guarded (d : Dev) (i : Item) (ns : Nat) : Bool :=
  let h := d.homeUnitAt i.flow i.e
  !i.live && decide (h < 40) && decide (d.beUsed h + d.beCycles i h ≤ 3125) && d.unitTakes h i.flow false && d.beMayStart i h ns

/-- The unit that a best-effort item starts on: its home under the guard (R70), else as R66 states. -/
def Dev.beUnit (d : Dev) (i : Item) (ns : Nat) : Option Nat :=
  let home := d.homeUnitAt i.flow i.e
  let h := (d.lastUnit i.flow).getD home
  let ok (u : Nat) : Bool := d.unitTakes u i.flow false && d.beMayStart i u ns
  if d.guarded i ns then some home
  else if 40 ≤ h then (if d.unitFree h && !d.critical then some h else none)
  else ((if ok h then some h else none).or ((eightOf h).find? ok)).or
    (if d.severalPieces i.flow then none else (unitsLike h).find? ok)

/-- The item of an atomic flow that comes right before one, by its sequence number, where its object says which that is (R53). -/
def Dev.itemBefore (d : Dev) (i : Item) : Option Nat :=
  let back (n : Nat) (ok : Nat → Bool) (fuel : Nat) : Option Nat :=
    (firstFrom (fun t => decide (t < n) && ok (n - 1 - t)) fuel 0).map fun t => (n - 1 - t) % 65536
  match d.flowObj i.flow with
  | .encPiece c p =>
    (d.enc? c).bind fun x => (cfgOfSeq x.cfgs (x.near d.now) i.seq).bind fun q =>
      let g := q.2
      let low := if g.live then max q.1 x.first else (g.ofNumber i.n).1
      back i.n (fun m =>
        let y := g.ofNumber m
        decide (low ≤ y.1) && g.takes p y.2.1 && decide (y.2.2 * g.segCtus < g.pieceCtus p)) (g.segs * (g.bands + g.pieces) + g.segs)
  | .encPkt c =>
    (d.enc? c).bind fun x => (cfgOfSeq x.cfgs (x.near d.now) i.seq).bind fun q =>
      let g := q.2
      let low := if g.live then max q.1 x.first else (g.ofNumber i.n).1
      back i.n (fun m => let y := g.ofNumber m; decide (low ≤ y.1) && y.2.2 == 0) (g.segs + 1)
  | .dec c => (d.dec? c).bind fun x => if decide (0 < i.n) && x.start.any fun s => decide (s < i.n) then some ((i.n - 1) % 65536) else none
  | .prog p =>
    (d.prog? p).bind fun x =>
      let l := max 1 x.cfg.flows.length
      back i.n (fun m => decide (x.first * x.cfg.strips ≤ m) && m % x.cfg.strips % l == i.n % x.cfg.strips % l) (x.cfg.strips + l)
  | _ => none

/-- Whether an item's turn in its flow has come: an atomic flow serves one item at a time, in order, and the one before it has completed or
been substituted (R53); a WAVEFRONT band follows the start of the band before it (R138). -/
def Dev.inTurn (d : Dev) (i : Item) : Bool :=
  let atomic := F.coxFlowCfg_atomic.get (d.flowCfgAt i.flow i.e) = 1
  (!atomic || ((d.cox.items.all fun j => j.flow != i.flow || j.seq == i.seq || (j.unit.isNone && seqBefore i.seq j.seq)) &&
    (d.itemBefore i).all fun q => (d.gone? i.flow q).isSome)) &&
    (match d.flowObj i.flow with
     | .encPiece c _ => match d.encItem? c i.seq with
       | some (g, _) =>
         let x := g.ofNumber i.n
         g.division != 2 || x.2.1 == 0 ||
           (let q := g.segSeq x.1 (x.2.1 - 1) 0
            let f := g.flows.getD ((x.2.1 - 1) % g.pieces) 0
            (d.gone? f q).isSome || ((d.item? f q).map fun j => j.unit.isSome).getD false)
       | none => true
     | _ => true)

/-- The place of an item in the order of service: floor passes that wait, the guard's best-effort items, live by deadline and flow,
best-effort by target and readiness (R61, R62, R70, R74). -/
def Dev.servicePlace (d : Dev) (ns : Nat) (i : Item) : Nat × Nat × Nat :=
  if i.floor ≠ 0 then (0, i.cd, i.flow)
  else if d.guarded i ns then (1, i.target, i.readyNo)
  else if i.live then (2, i.cd, i.flow) else (3, i.target, i.readyNo)

/-- Whether one place comes before another. -/
def placeBefore (a b : Nat × Nat × Nat) : Bool :=
  decide (a.1 < b.1) || (a.1 == b.1 && (decide (a.2.1 < b.2.1) || (a.2.1 == b.2.1 && decide (a.2.2 < b.2.2))))

/-- The first of some items in the order of service. -/
def Dev.firstServed (d : Dev) (ns : Nat) : List (Item × Nat) → Option (Item × Nat)
  | [] => none
  | x :: r =>
    match d.firstServed ns r with
    | none => some x
    | some y => if placeBefore (d.servicePlace ns y.1) (d.servicePlace ns x.1) then some y else some x

/-- The ready items that a unit can take now, each with its unit. -/
def Dev.dispatchable (d : Dev) (ns : Nat) : List (Item × Nat) :=
  d.cox.items.filterMap fun i =>
    if i.readyNo ≠ 0 && i.unit.isNone && !i.isolated && d.inTurn i then
      (if i.live then d.liveUnit i ns else d.beUnit i ns).map fun u => (i, u)
    else none

/-- The window store of an encode Seat as an item that searches starts on it (R180), with the window columns that come over the ring counted
(R181, R516). DEDUCED (notes/assumptions/71.md): HALO_RX counts CTU columns. -/
def Dev.loadWindow (d : Dev) (i : Item) (u lv : Nat) (migrated : Bool) : Dev :=
  match d.flowObj i.flow with
  | .encPiece c p =>
    match d.enc? c, d.encItem? c i.seq with
    | some x, some (g, n) =>
      let s := x.searchCfg g i.e
      let cols := min (s.ringCols p migrated).length (Config.ringColumns [i.flow, i.seq])
      if 32 ≤ u ∨ lv = 2 ∨ i.floor ≠ 0 then d
      else
        let w : SeatWindow := ⟨i.flow, s.windowBytes * s.refs, (g.ofNumber n).2.1⟩
        (d.onCox fun k => { k with windows := Tab.upd noWindows k.windows u (windowsAfter w) }).pmuCount u .haloRx (d.flowCrew i.flow) i.flow cols
    | _, _ => d
  | _ => d

/-- Starts an item on a unit, at the degradation level of its home unit (R65, R77). -/
def Dev.start (d : Dev) (i : Item) (u : Nat) : Dev :=
  let h := d.homeUnitAt i.flow i.e
  let lv := if i.live && decide (h < 40) then d.fld (Reg.coxThrottle h) F.coxThrottle_degrade else 0
  let wake := d.beCycles i u
  let cost := if lv = 1 && i.floor == 0 && decide (h < 32) then cutCost i.cost else i.cost
  let d := d.onItem i.flow i.seq fun j => { j with unit := some u, level := lv, cost := cost, began := d.now * 125000 + d.stk.phase }
  let d := (d.onCox fun c => { c with lastRun := Tab.put zero c.lastRun i.flow (u + 1) }).setFld (Reg.coxFlowAff i.flow)
    F.coxFlowAff_last (unitNo u)
  let d := if i.live then d else d.onCox fun c => { c with beUsed := Tab.upd zero c.beUsed u (· + wake) }
  let d := d.loadWindow i u lv (i.live && u != h)
  if i.live && u != h then d.pmuCount 136 .migrated (d.flowCrew i.flow) i.flow 1 else d

/-- ITEM_DISPATCH (R61–R70): the ready item that is first in the order of service among those a unit can take starts. -/
def execItemDispatch (ns : Nat) (s : State) : Host.Outcome State Fault Refusal :=
  s.lift fun d =>
    let d := { d with stk := { d.stk with phase := ns } }
    match d.firstServed ns (d.dispatchable ns) with
    | none => d
    | some x => d.start x.1 x.2

/-! ## Pauses (R78) -/

/-- The cycles that an item in service has run at a local time in ns; a cycle is 0.8 ns. -/
def Item.cyclesRun (i : Item) (t : Nat) : Nat := 5 * (t - i.began) / 4

/-- The pause after an item of `w` cycles on a unit at step `k`. -/
def pauseCycles (w k : Nat) : Nat := if k = 0 ∨ 16 ≤ k then 0 else cdiv (w * k) (16 - k)

/-- A unit is released by an item that took `w` cycles: its pause starts, and the counters count it. -/
def Dev.leaveUnit (d : Dev) (i : Item) (w : Nat) : Dev :=
  match i.unit with
  | none => d
  | some u =>
    let p := if u < 40 then pauseCycles w (d.stepOf u) else 0
    let d := d.onCox fun c => { c with pause := Tab.put zero c.pause u p }
    if u < 72 then d.pmuCount u .itemDone (d.flowCrew i.flow) i.flow 1 else d

/-- THROTTLE_PAUSE_END (R78). -/
def execThrottlePauseEnd (unit ns : Nat) (s : State) : Host.Outcome State Fault Refusal :=
  s.lift fun d =>
    { d with stk := { d.stk with phase := ns } }.onCox fun c => { c with pause := Tab.put zero c.pause unit 0 }

/-! ## Throttling and degradation (R77, R79) -/

/-- The degradation level of a unit at a step (R77). -/
def Dev.levelAt (d : Dev) (u k : Nat) : Nat :=
  let left := cyclesLeft k - (if d.critical then 0 else 3125)
  let need := d.fld (Reg.coxUnitState u) F.coxUnitState_liveDemand
  if need ≤ left then 0 else if Tab.get zero d.cox.cut u ≤ left then 1 else 2

/-- The Crews that have flows homed on a unit. -/
def Dev.crewsOn (d : Dev) (u : Nat) : List Nat :=
  ((d.flowsOn.filter fun f => d.homeUnit f == u).map d.flowCrew).eraseDups

/-- One unit takes its throttle step and level at a boundary; a change is recorded in the logs of the Crews homed on it
(R27, R77, R79, R522). -/
def Dev.throttle (d : Dev) (u k : Nat) : Dev :=
  let a := Reg.coxThrottle u
  let lv := d.levelAt u k
  if d.fld a F.coxThrottle_step = k ∧ d.fld a F.coxThrottle_degrade = lv then d
  else
    (d.crewsOn u).foldl (fun d c => d.record c 0x04 0 0 [u, k, lv])
      ((d.setFld a F.coxThrottle_step k).setFld a F.coxThrottle_degrade lv)

/-- The step that a unit takes at the next boundary: THM's, or the laboratory's where that is forced and higher (R77). -/
def Dev.nextStep (d : Dev) (u : Nat) : Nat :=
  let a := Reg.coxThrottle u
  let t := d.fld a F.coxThrottle_thmStep
  if d.flag a F.coxThrottle_force then max t (d.fld a F.coxThrottle_forceStep) else t

/-- Every unit takes its step and level at a boundary, and the best-effort cycles of the Stroke start from 0. Under REPLAY the
steps come only from records (R527). -/
def Dev.throttleAll (d : Dev) : Dev :=
  let d := d.onCox fun c => { c with beUsed := [] }
  let replay := d.flag Reg.rplCtl F.rplCtl_replay
  (List.range 40).foldl (fun d u => d.throttle u (if replay then d.stepOf u else d.nextStep u)) d

/-! ## Withdrawal (R80) -/

/-- A flow is disabled: its entries are freed, its operands go back, an item in service goes on, and its reservation drains. -/
def Dev.withdrawFlow (d : Dev) (f : Nat) : Dev :=
  let mine := d.cox.items.filter fun i => i.flow = f && i.unit.isNone
  let d := mine.foldl (fun d i =>
    [0, 1, 2, 3].foldl (fun d s =>
      if bitAt i.filled s && bitAt i.need s then d.releaseOperand f s (i.handles.getD s 0) else d) d) d
  let n := if d.flowLive f then d.fld (Reg.coxFlowCfg f) F.coxFlowCfg_reserve else 0
  d.onCox fun c =>
    { c with items := c.items.filter fun i => !(i.flow = f && i.unit.isNone)
             gone := c.gone.filter fun g => g.1 ≠ f
             lastRun := Tab.put zero c.lastRun f 0
             draining := if n = 0 then c.draining else (f, n) :: c.draining.filter fun p => p.1 ≠ f }

/-- At a boundary the reservations of withdrawn flows whose last item has completed return to the store (R80). -/
def Dev.drainFlows (d : Dev) : Dev :=
  d.onCox fun c => { c with draining := c.draining.filter fun p => c.items.any fun i => i.flow = p.1 }

/-- Shows LIVE_RESERVED. -/
def Dev.showReserved (d : Dev) : Dev := d.setFld Reg.coxStoreStatus F.coxStoreStatus_liveReserved d.liveReserved

/-- Counts a substitution of R73 or R74, and records it in the log of the flow's owner (R49, R73). -/
def Dev.countSubst (d : Dev) (i : Item) (how : Nat) : Dev :=
  ((d.addFld Reg.coxEventCnt F.coxEventCnt_subst 1).addFld (Reg.coxFlowStat i.flow) F.coxFlowStat_subst 1).record
    (d.flowCrew i.flow) 0x07 0 i.flow [i.flow, i.seq, how]

end Sys2Proof.Machine
end

