-- ==== Sys2Proof/Machine/Pictures.lean ====
section
/-! DEFINITION. The pictures of an encode channel: their order and kinds (R154, R159, R202), the references of each (R175, R203, R224), the
samples of source and reference pictures that State holds, and the candidates that a piece's search gives (R172–R187). -/

namespace Sys2Proof.Machine

/-! ## Pictures -/

/-- What an unlisted encode channel reads as: not enabled. -/
def noEnc (_ : Nat) : Option EncDyn := Option.none

/-- Changes an encode channel in operation. -/
def Dev.onEnc (d : Dev) (c : Nat) (f : EncDyn → EncDyn) : Dev := { d with enc := Tab.put noEnc d.enc c ((d.enc? c).map f) }

/-- Frames for which the settings that begin at frame `f` hold, where later ones follow. -/
def EncDyn.span (x : EncDyn) (f : Nat) : Option Nat :=
  ((x.cfgs.filter fun p => decide (f < p.1)).getLast?).map fun p => p.1 - f

/-- k: the frame that the `j`-th picture in decoding order shows (R202). A group that a change of settings cuts short is a
shorter group. DEDUCED (notes/assumptions/32.md). -/
def EncDyn.frameOf (x : EncDyn) (j : Nat) : Nat :=
  match cfgFor x.cfgs j with
  | none => j
  | some (f, g) =>
    if g.cls = 2 ∧ f < j then
      let n := max 1 g.headN
      let i := j - f
      let start := (i - 1) / n * n
      let m := match x.span f with
        | none => n
        | some l => max 1 (min n (l - 1 - start))
      f + start + ((m :: headOrder m 1 (m - 1)).getD (i - 1 - start) 0)
    else j

/-- The kind of frame `k`: 0 IDR, 1 CRA, 2 start of a rolling refresh, 3 other, 4 a cut. -/
def EncDyn.kindOf (x : EncDyn) (k : Nat) : Nat := ((x.pictures.find? fun p => p.1 = k).map (·.2)).getD 3

/-- Whether a frame's kind is settled. -/
def EncDyn.settled (x : EncDyn) (k : Nat) : Bool := x.pictures.any fun p => p.1 = k

/-- Whether frame `k` is coded all intra. -/
def EncDyn.intraPic (x : EncDyn) (k : Nat) : Bool := x.kindOf k ≤ 1 || x.kindOf k = 4

/-- The frame's place in a rolling refresh, when one runs over it. -/
def EncDyn.rollOf (x : EncDyn) (k : Nat) : Option Nat :=
  match x.roll with
  | none => none
  | some (s, n, once) => if s ≤ k && (!once || k < s + n) then some ((k - s) % n) else none

/-- The picture in decoding order that shows frame `k`. -/
def EncDyn.pictureOf (x : EncDyn) (k : Nat) : Option Nat :=
  ((List.range 34).map fun i => k + 17 - i).find? fun j => x.frameOf j = k

/-! ## References (R175, R203, R224) -/

/-- Leaves out the picture that is earliest in output order. -/
def withoutEarliest (l : List (Nat × Nat)) : List (Nat × Nat) :=
  let k := l.foldl (fun k p => min k p.2) (((l.head?).map (·.2)).getD 0)
  l.filter fun p => p.2 ≠ k

/-- The pictures that are references once a picture has been begun: it alone after an IRAP picture, else it and those before it; where
they are more than REF_COUNT the earliest in output order goes. DEDUCED (notes/assumptions/71.md). -/
def EncDyn.marksAfter (x : EncDyn) (g : EncCfg) (m : PicMarks) : List (Nat × Nat) :=
  if x.kindOf m.k ≤ 1 then [(m.j, m.k)]
  else
    let l := (m.j, m.k) :: m.refs
    if g.refCount < l.length then withoutEarliest l else l

/-- The references of picture `j`, as (place in decoding order, frame), the latest decoded first. -/
def EncDyn.refsOf (x : EncDyn) (g : EncCfg) (j : Nat) : List (Nat × Nat) :=
  match x.marks.find? fun m => m.j = j with
  | some m => m.refs
  | none => ((x.marks.find? fun m => m.j + 1 = j).map (x.marksAfter g)).getD []

/-- Puts a picture in output order among others, nearest to frame `k` first. -/
def nearestIn (k : Nat) (p : Nat × Nat) : List (Nat × Nat) → List (Nat × Nat)
  | [] => [p]
  | q :: r => if max p.2 k - min p.2 k ≤ max q.2 k - min q.2 k then p :: q :: r else q :: nearestIn k p r

/-- Pictures in order of their distance from frame `k`. -/
def byDistance (k : Nat) (l : List (Nat × Nat)) : List (Nat × Nat) := l.foldl (fun r p => nearestIn k p r) []

/-- Whether picture `j` is a B picture: one of a Head group beside its anchor (R203). -/
def EncDyn.isB (x : EncDyn) (g : EncCfg) (j : Nat) : Bool :=
  g.cls = 2 && (x.refsOf g j).any fun p => decide (x.frameOf j < p.2)

/-- List 0 and list 1 of picture `j` (R203): of a B picture those that precede it and those that follow it in output order, nearest first;
of a P picture those decoded before it, nearest first. Index 0 of list 0 is the nearest that precedes it in output order. -/
def EncDyn.lists (x : EncDyn) (g : EncCfg) (j : Nat) : List (Nat × Nat) × List (Nat × Nat) :=
  let k := x.frameOf j
  let r := x.refsOf g j
  let before := byDistance k (r.filter fun p => decide (p.2 < k))
  if x.isB g j then (before, byDistance k (r.filter fun p => decide (k < p.2)))
  else match before.head? with
    | some p => (p :: r.filter (· ≠ p), [])
    | none => (r, [])

/-- The kind of a picture's slices: 0 I, 1 P, 2 B. -/
def EncDyn.sliceKind (x : EncDyn) (g : EncCfg) (j : Nat) : Nat :=
  if x.intraPic (x.frameOf j) || (x.refsOf g j).isEmpty then 0 else if x.isB g j then 2 else 1

/-- The references that the search of picture `j` looks at (R175): none of an intra picture. -/
def EncDyn.searched (x : EncDyn) (g : EncCfg) (j refs : Nat) : List (Nat × Nat) :=
  if x.sliceKind g j = 0 then [] else let l := x.lists g j; ((l.1 ++ l.2).eraseDups).take refs

/-! ## Pools (R222, R224, R226) -/

/-- A free buffer (R224). -/
def Buffer.free (b : Buffer) : Bool := b.mark = 0 && !b.outPending && b.hold = 0 && !b.busy

/-- A buffer that holds nothing. -/
def Buffer.empty : Buffer := ⟨0, false, 0, false, none, 0, false, none, [], []⟩

/-- The pool of an object as it is created: `n` buffers of `bytes`, filled with zeros (R226), at its place in its Crew's region (R419). -/
def newPool (obj n bytes : Nat) : Pool := ⟨List.replicate n Buffer.empty, bytes, false, Config.placedAt obj (n * bytes)⟩

/-- A pool made to hold `n` buffers of `bytes`: those in use stay. -/
def Pool.resized (p : Pool) (obj n bytes : Nat) : Pool :=
  let used := p.buffers.filter fun b => !b.free
  { newPool obj n bytes with buffers := used ++ List.replicate (n - used.length) Buffer.empty }

/-- The lowest free buffer of a pool. -/
def Dev.freeBuffer (d : Dev) (p : Nat) : Option Nat :=
  (d.pool? p).bind fun x => (x.buffers.zipIdx.find? fun b => b.1.free).map (·.2)

/-- Changes every buffer of a pool. -/
def Dev.onBuffers (d : Dev) (p : Nat) (f : Buffer → Buffer) : Dev :=
  d.setPool p ((d.pool? p).map fun x => { x with buffers := x.buffers.map f })

/-- Buffers of an encode pool when a picture begins (R224, R225): the pictures it may refer to are SHORT, buffers that hold others are free,
and the picture takes a free one. -/
def markBuffers (refs : List Nat) (j k : Nat) (l : List Buffer) : List Buffer :=
  let l := l.map fun b =>
    if b.slot.any fun s => refs.contains s then { b with mark := 1 } else { b with mark := 0, slot := if b.busy then b.slot else none }
  match l.zipIdx.find? fun b => b.1.free with
  | none => l
  | some (_, i) => l.zipIdx.map fun b => if b.2 = i then { b.1 with busy := true, slot := some j, poc := k } else b.1

/-- Picture `j`, frame `k`, begins: its references are settled, and its buffer is taken. -/
def Dev.beginPicture (d : Dev) (c : Nat) (g : EncCfg) (j k : Nat) : Dev :=
  match d.enc? c with
  | none => d
  | some x =>
    if x.marks.any fun m => m.j = j then d
    else
      let refs := x.refsOf g j
      let d := d.onEnc c fun x => { x with marks := (⟨j, k, refs⟩ :: x.marks).take 40 }
      d.setPool c ((d.pool? c).map fun p => { p with buffers := markBuffers (refs.map (·.1)) j k p.buffers })

/-- A picture's reconstruction is whole: it may be a reference. -/
def Dev.endPicture (d : Dev) (c j : Nat) : Dev :=
  d.onBuffers c fun b => if b.slot = some j then { b with busy := false, mark := 1 } else b

/-! ## Samples -/

/-- A source band that is held. -/
def EncDyn.source? (x : EncDyn) (k b : Nat) : Option SourceBand := x.source.find? fun s => s.k = k && s.band = b

/-- A sample of a source picture as it came; a free value where no command has stated it. -/
def EncDyn.sourceAt (x : EncDyn) (g : EncCfg) (c k comp col row : Nat) : Nat :=
  let rows := if comp ≠ 0 ∧ g.srcFmt = 4 then g.ctu / 2 else g.ctu
  let b := row / max 1 rows
  (((x.source? k b).bind fun s => (s.planes[comp]?).bind fun l => l[row - b * rows]?).bind fun l => l[col]?).getD
    (Config.sourceSample [c, k, comp, col, row] % 2 ^ fmtDepth g.srcFmt)

/-- Source luma at 10 bits (R166). -/
def EncDyn.sourceLuma (x : EncDyn) (g : EncCfg) (c k col row : Nat) : Nat :=
  reduced (fmtDepth g.srcFmt) 10 (x.sourceAt g c k 0 col row)

/-- A sample of the source as the channel codes it (R126). -/
def EncDyn.codedSource (x : EncDyn) (g : EncCfg) (c k comp col row : Nat) : Nat := g.coded (x.sourceAt g c k) comp col row

/-- A source band as it is taken in, with its nibble planes (R166–R168). -/
def EncDyn.takeSource (x : EncDyn) (g : EncCfg) (c : Nat) (b : BandContent) : EncDyn :=
  let others := x.source.filter fun s => !(s.k = b.k && s.band = b.band) && decide (b.k ≤ s.k + 2 * g.lag + 3)
  let x := { x with source := ⟨b.k, b.band, b.planes, [], b.headerBits⟩ :: others }
  { x with source := x.source.map fun s =>
      if s.k = b.k ∧ s.band = b.band then { s with nibbles := nibblesOf g.ctu g.width g.height (x.sourceLuma g c b.k) b.band } else s }

/-- A nibble of a source picture. -/
def EncDyn.sourceNibble (x : EncDyn) (g : EncCfg) (c k f col row : Nat) : Nat :=
  match x.source? k (planeBand f g.ctu row) with
  | some s => nibbleAt s.nibbles g.ctu (planeBand f g.ctu row) f col row
  | none => nibble f g.ctu (cdiv g.width f) (cdiv g.height f) (searchPlane f g.width g.height (x.sourceLuma g c k)) col row

/-- ACTIVITY of a source band (R190). -/
def EncDyn.activity (x : EncDyn) (g : EncCfg) (c k b : Nat) : Nat := activityOver g.width (b * g.ctu) (g.lines b) (x.sourceLuma g c k)

/-- The sum over the N16 plane of the differences of a picture from that before it in capture order (R216). -/
def EncDyn.cutSum (x : EncDyn) (g : EncCfg) (c k : Nat) : Nat :=
  sumBy (fun y => sumBy (fun n =>
    let a := x.sourceNibble g c k 16 n y
    let b := x.sourceNibble g c (k - 1) 16 n y
    max a b - min a b) (List.range (cdiv g.width 16))) (List.range (cdiv g.height 16))

/-- A band of a reference picture that is held. -/
def EncDyn.image? (x : EncDyn) (j b : Nat) : Option BandImage := x.images.find? fun s => s.j = j && s.band = b

/-- A sample of reconstructed luma at 10 bits; a free value where no command has stated it. -/
def EncDyn.recon (x : EncDyn) (g : EncCfg) (c j col row : Nat) : Nat :=
  let b := row / max 1 g.ctu
  (((x.image? j b).bind fun s => s.luma[row - b * g.ctu]?).bind fun l => l[col]?).getD (Config.codedSample [c, j, col, row] % 1024)

/-- The same beyond the edges of the picture too: the nearest sample inside. -/
def EncDyn.padded (x : EncDyn) (g : EncCfg) (c j : Nat) (col row : Int) : Nat := x.recon g c j (nearest g.width col) (nearest g.height row)

/-- A nibble of a reference picture. -/
def EncDyn.refNibble (x : EncDyn) (g : EncCfg) (c j f col row : Nat) : Nat :=
  match x.image? j (planeBand f g.ctu row) with
  | some s => nibbleAt s.nibbles g.ctu (planeBand f g.ctu row) f col row
  | none => nibble f g.ctu (cdiv g.width f) (cdiv g.height f) (searchPlane f g.width g.height (x.recon g c j)) col row

/-- 16×16 blocks across a picture. -/
def EncCfg.blocksAcross (g : EncCfg) : Nat := cdiv g.width 16

/-- The block of a picture's motion store that holds a sample. -/
def EncDyn.motionAt (x : EncDyn) (g : EncCfg) (c j col row : Nat) : Block :=
  let b := row / max 1 g.ctu
  let n := (row / 16 - b * (g.ctu / 16)) * g.blocksAcross + col / 16
  ((x.image? j b).bind fun s => s.blocks[n]?).getD (Config.codedBlock [c, j, b, n])

/-- A block's vector in whole samples, zero of an intra block. -/
def wholeVector (b : Block) : Int × Int := if b.intra then (0, 0) else (halfAway b.x 16, halfAway b.y 16)

/-! ## The search of a piece (R172–R186) -/

/-- The picture column, in CTUs, of the first CTU of a piece. -/
def EncCfg.column (g : EncCfg) (piece : Nat) : Nat := if g.division = 1 then g.tileFirst piece else 0

/-- Columns, in samples, that a rolling refresh has refreshed when frame `k` is coded, with the number of its cycle. -/
def EncDyn.freshCols (x : EncDyn) (g : EncCfg) (k : Nat) : Option (Nat × Nat) :=
  match x.roll, x.rollOf k with
  | some (s, n, _), some r => some ((k - s) / max 1 n, (r + 1) * g.ctus / g.rollFrames * g.ctu)
  | _, _ => none

/-- The columns of a reference that the blocks of a CTU at column `x0` must keep to (R177). -/
def EncDyn.keepTo (x : EncDyn) (g : EncCfg) (k refK x0 : Nat) : Option Nat :=
  match x.freshCols g k with
  | none => none
  | some (n, cols) =>
    if x0 < cols then
      match x.freshCols g refK with
      | some (m, c) => if m = n then some c else some 0
      | none => some 0
    else none

/-- A block of a piece-band by its column and row in the piece. -/
def pieceBlock (blocks : List (List Block)) (place : List Nat) (bx by_ : Nat) : Block :=
  ((blocks[by_]?).bind fun l => l[bx]?).getD (Config.codedBlock (place ++ [bx, by_]))

/-- The candidates that the search of a piece-band gives: for each of its CTUs and each searched reference the vector of every sub-block, and
the same refined (R172–R178). `blocks` are the piece's final blocks, of which each CTU's search takes that of the CTU before. -/
def EncDyn.searchPiece (x : EncDyn) (g : EncCfg) (s : Schedule) (c j band piece : Nat) (qps : List Nat) (blocks : List (List Block)) :
    Candidates :=
  let k := x.frameOf j
  let refs := x.searched g j s.refs
  let y0 := band * g.ctu
  let middle := min (g.ctu / 2) (g.lines band - 1)
  let one (i : Nat) : List (Nat × List (Int × Int)) :=
    let x0 := (g.column piece + i) * g.ctu
    let prev := if i = 0 then (0, 0)
      else wholeVector (pieceBlock blocks [c, j, band, piece] ((2 * i - 1) * g.ctu / 2 / 16) (middle / 16))
    refs.map fun r =>
      let stored := wholeVector (x.motionAt g c r.1 (min (g.width - 1) (x0 + g.ctu / 2)) (y0 + middle))
      (r.1, g.searchCtu s ⟨x.sourceNibble g c k, x.refNibble g c r.1⟩ piece x0 y0 (x.keepTo g k r.2 x0) prev stored)
  let whole := (List.range (g.pieceCtus piece)).map one
  let fine := whole.zipIdx.map fun p => p.1.map fun (r : Nat × List (Int × Int)) =>
    let x0 := (g.column piece + p.2) * g.ctu
    let qp := (qps[p.2]?).getD (Config.codedQp [c, j, band, g.column piece + p.2])
    let l := ((g.subBlocks x0 y0).zip r.2).map fun b => refined (x.sourceLuma g c k) (x.padded g c r.1) qp b.1 b.2
    (r.1, l ++ (if g.vvc then Config.vvcCandidates l else []))
  ⟨j, band, piece, whole, fine⟩

end Sys2Proof.Machine
end

