-- ==== Sys2Proof/Machine/Bitstream.lean ====
section
/-! DEFINITION. What the units of an encode channel carry beside their CTUs (R144–R146, R196, R200, R404): time codes, and the SEI messages
with when they are sent. -/

namespace Sys2Proof.Machine

/-! ## Time code (R145) -/

/-- n_frames runs to this less 1. -/
def nominalRate (num den : Nat) : Nat := cdiv num den

/-- The frame numbers that drop-frame counting drops at a minute: 2, 4 or 8 at 30000/1001, 60000/1001 and 120000/1001. -/
def dropped (num den : Nat) : Nat := if den = 1001 ∧ num ≠ 24000 then 2 * num / 30000 else 0

/-- Hours, minutes, seconds and frames of the `n`-th frame of a day: at each minute that is not a tenth minute numbers are dropped. -/
def timeLabel (num den n : Nat) : Nat × Nat × Nat × Nat :=
  let r := nominalRate num den
  let drop := dropped num den
  let ten := 600 * r - 9 * drop
  let m := n % ten
  let minute := if m < 60 * r then 0 else 1 + (m - 60 * r) / (60 * r - drop)
  let f := n + drop * (9 * (n / ten) + minute)
  (f / (3600 * r) % 24, f / (60 * r) % 60, f / r % 60, f % r)

/-- The time code of frame `k` (R404), where the time of day is that of PTP plus `offset` s and jam instants fall at `jam` seconds of the
local day: at an integer rate the second of the day and the frames since it began; at a rate of 1001 the frames since the latest jam instant
at or before the frame. -/
def ptpTimeCode (num den : Nat) (offset : Int) (jam k : Nat) : Nat × Nat × Nat × Nat :=
  if den = 1 then
    let s := ((((k / num : Nat) : Int) + offset) % 86400).toNat
    (s / 3600, s / 60 % 60, s % 60, k % num)
  else
    let today : Int := (((k * den / num : Nat) : Int) + offset - jam) / 86400 * 86400 + jam - offset
    timeLabel num den (k - cdiv (today.toNat * num) den)

/-- The time code one frame after another. -/
def nextTimeCode (num den : Nat) (t : Nat × Nat × Nat × Nat) : Nat × Nat × Nat × Nat :=
  let r := nominalRate num den
  let n := ((t.1 * 60 + t.2.1) * 60 + t.2.2.1) * r + t.2.2.2 + 1
  let minute := n / (60 * r)
  let n := if n % (60 * r) < dropped num den ∧ minute % 10 ≠ 0 then minute * 60 * r + dropped num den else n
  (n / (3600 * r) % 24, n / (60 * r) % 60, n / r % 60, n % r)

/-- Whether frame `k` begins a refresh. -/
def EncDyn.refreshStart (x : EncDyn) (k : Nat) : Bool := x.kindOf k = 2 || (!x.intraPic k && x.rollOf k == some 0)

/-- The time code of frame `k` (R145), with whether it is discontinuous: from PTP, or from the ancillary packet, else one frame on. `tod` are the
offset and the jam instant of the time of day. -/
def EncDyn.timeCodeOf (x : EncDyn) (g : EncCfg) (tod : Int × Nat) (c k : Nat) : (Nat × Nat × Nat × Nat) × Bool :=
  if F.encChSei_tcSource.get g.sei = 0 then (ptpTimeCode g.num g.den tod.1 tod.2 k, false)
  else match (x.anc.find? fun a => a.k = k).bind (·.timecode) with
    | some t => (t, false)
    | none => ((x.lastTc.map (nextTimeCode g.num g.den)).getD (Config.firstTimeCode [c, k]), true)

/-- The SEI messages of a unit that begins with band `b` of frame `k`, in their order (R144, R200): a live Sprint channel's unit is one
band, and the messages of a picture stand in the first. -/
def EncDyn.seiOf (x : EncDyn) (g : EncCfg) (tod : Int × Nat) (c k b : Nat) : List Sei :=
  let start := x.kindOf k ≤ 1 || x.refreshStart k
  let on (f : Fld) : Bool := f.get g.sei = 1
  let du := if g.duMode then [Sei.duInfo (g.slotTicks b)] else []
  if b ≠ 0 then du
  else
    let tc := x.timeCodeOf g tod c k
    (if start then [Sei.bufferingPeriod g.removalDelay 0] else []) ++ [.pictureTiming] ++ du ++
    (if on F.encChSei_timecode then [.timeCode tc.1.1 tc.1.2.1 tc.1.2.2.1 tc.1.2.2.2 tc.2] else []) ++
    (if start && on F.encChSei_mdcv then [.mdcv (x.hdr.take 6)] else []) ++
    (if start && on F.encChSei_cll then [.cll (x.hdr.getD 6 0)] else []) ++
    (if x.kindOf k ≤ 1 && F.encChSei_transfer.get g.sei = 3 then [.transfer 18] else []) ++
    (match (x.anc.find? fun a => a.k = k && !a.cc.isEmpty) with
     | some a => if on F.encChSei_captions then [.captions a.cc] else []
     | none => []) ++
    (if !g.vvc && x.refreshStart k then [.recoveryPoint ((x.roll.map (·.2.1)).getD g.rollFrames)] else [])

/-! ## Filler (R196) -/

/-- The bytes of a unit's filler: a live unit under CBR fills its slot (R196). -/
def UnitRec.filler (u : UnitRec) : Nat := u.bytes - u.coded

end Sys2Proof.Machine
end

