-- ==== Sys2Proof/Machine/Records.lean ====
section
/-! DEFINITION. What the coding of a band leaves behind: the samples, blocks and QP′ of its pieces (R207, R215), its image in the reference
pool with its nibble planes (R168, R223), and its record of statistics (R190, R191). -/

namespace Sys2Proof.Machine

/-! ## The outcome of a piece (R152, R207, R215) -/

/-- The QP′ of `n` CTUs from column `col` on, as the item says or as a free value: clamped to the channel's limits in the first `kept`,
within the codec's range in those coded at floor (R215). -/
def EncCfg.qpsOf (g : EncCfg) (place : List Nat) (col : Nat) (said : List Nat) (n kept : Nat) : List Nat :=
  (List.range n).map fun i =>
    let v := (said[i]?).getD (Config.codedQp (place ++ [col + i]))
    if i < kept then max g.qpMin (min g.qpMax v) else min (qpTop g.vvc) v

/-- Samples across CTUs `a` to `b` of a piece. -/
def EncCfg.partWidth (g : EncCfg) (piece a b : Nat) : Nat := min (g.pieceWidth piece) (b * g.ctu) - a * g.ctu

/-- What is coded of CTUs `a` to `b` of a piece-band, of which those from `kept` on are coded at floor: what a CTU coded normally holds is
content; one at floor shows the picture at index 0 of list 0, is intra in its column of R208, or mid-grey where `grey` (R152). -/
structure Part where
  qps : List Nat
  luma : List (List Nat)
  blocks : List (List Block)
  sad : Nat
  deriving DecidableEq, Repr

/-- A sample of luma of that part at its column `n` and row `y`. -/
def EncDyn.partSample (x : EncDyn) (g : EncCfg) (c : Nat) (r : BandRec) (piece a kept : Nat) (grey : Bool) (q : ItemResult) (n y : Nat) : Nat :=
  let ctu := a + n / g.ctu
  let col := (g.column piece + a) * g.ctu + n
  let row := r.band * g.ctu + y
  let said := match (q.luma[y]?).bind fun l => l[n]? with
    | some v => g.stored (v % 2 ^ g.depth)
    | none => Config.codedSample [c, r.j, col, row] % 1024
  if ctu < kept then said
  else if grey then 512
  else if g.floorIntra (if r.intra then .intra else .inter r.roll) (g.column piece + ctu) then said
  else match (x.lists g r.j).1.head? with
    | some p => x.recon g c p.1 col row
    | none => said

/-- A block of that part. -/
def EncCfg.partBlock (g : EncCfg) (c : Nat) (r : BandRec) (piece a b kept : Nat) (grey : Bool) (q : ItemResult) (bx y : Nat) : Block :=
  let ctu := a + 16 * bx / g.ctu
  let said := (q.blocks[y * cdiv (g.partWidth piece a b) 16 + bx]?).getD
    (Config.codedBlock [c, r.j, r.band, piece, a * g.ctu / 16 + bx, y])
  if ctu < kept then said
  else
    let intra := grey || g.floorIntra (if r.intra then .intra else .inter r.roll) (g.column piece + ctu)
    ⟨intra, !intra && said.skip, 0, 0, 0, 0⟩

/-- The part as a whole. The sum of differences is that of the CTUs coded normally, as the item says, and of those at floor (R190). -/
def EncDyn.part (x : EncDyn) (g : EncCfg) (c : Nat) (r : BandRec) (piece a b kept : Nat) (grey : Bool) (q : ItemResult) : Part :=
  let luma := (List.range (g.lines r.band)).map fun y =>
    (List.range (g.partWidth piece a b)).map fun n => x.partSample g c r piece a kept grey q n y
  let gap (u v : Nat) : Nat := max u v - min u v
  let floors := sumBy (fun p => sumBy (fun s =>
    if kept ≤ a + s.2 / g.ctu then
      gap s.1 (x.sourceLuma g c r.k ((g.column piece + a) * g.ctu + s.2) (r.band * g.ctu + p.2)) else 0) (List.zipIdx p.1)) luma.zipIdx
  { qps := if grey then List.replicate (b - a) (qpTop g.vvc)
      else g.qpsOf [c, r.j, r.band] (g.column piece + a) q.qps (b - a) (kept - a)
    luma := luma
    blocks := (List.range (cdiv (g.lines r.band) 16)).map fun y =>
      (List.range (cdiv (g.partWidth piece a b) 16)).map fun bx => g.partBlock c r piece a b kept grey q bx y
    sad := (if kept ≤ a then 0 else q.sad) + floors }

/-- Rows with others after them. -/
def joinRows {α : Type} (l m : List (List α)) : List (List α) := if l.isEmpty then m else l.zipWith (· ++ ·) m

/-- A piece's record with a part more. -/
def PieceRec.addPart (p : PieceRec) (t : Part) : PieceRec :=
  { p with qps := p.qps ++ t.qps, luma := joinRows p.luma t.luma, blocks := joinRows p.blocks t.blocks, sad := p.sad + t.sad }

/-! ## The band (R168, R190, R191) -/

/-- The 16×16 blocks of a band in raster order. -/
def EncCfg.bandBlocks (g : EncCfg) (r : BandRec) : List Block :=
  (List.range (cdiv (g.lines r.band) 16)).flatMap fun y => r.pieces.flatMap fun p => p.blocks.getD y []

/-- The QP′ of the CTUs of a band. -/
def BandRec.qps (r : BandRec) : List Nat := r.pieces.flatMap (·.qps)

/-- A band goes to the reference pool: its samples, blocks and QP′, with nibble planes built from the samples (R168, R223). -/
def EncDyn.storeImage (x : EncDyn) (g : EncCfg) (c : Nat) (r : BandRec) : EncDyn :=
  let luma := (List.range (g.lines r.band)).map fun y => r.pieces.flatMap fun p => p.luma.getD y []
  let others := x.images.filter fun i => !(i.j = r.j && i.band = r.band) && decide (r.j ≤ i.j + 40)
  let x := { x with images := ⟨r.j, r.band, luma, [], g.bandBlocks r, r.qps⟩ :: others }
  { x with images := x.images.map fun i =>
      if i.j = r.j ∧ i.band = r.band then { i with nibbles := nibblesOf g.ctu g.width g.height (x.recon g c r.j) r.band } else i }

/-- A block's vector in quarter samples: that at its centre, rounded half away from zero. -/
def quarters (b : Block) : Int × Int := (halfAway b.x 4, halfAway b.y 4)

/-- An entry of the vector field (R191). -/
def fieldEntry (b : Block) : Nat :=
  if b.intra then 1
  else unsigned 15 (quarters b).1 * 2 ^ 17 + unsigned 14 (quarters b).2 * 2 ^ 3 + b.ref % 4 * 2

/-- The QP map of a band: the QP′ of the CTU that holds each block. -/
def EncCfg.qpMap (g : EncCfg) (r : BandRec) : List Nat :=
  (List.range (cdiv (g.lines r.band) 16)).flatMap fun _ =>
    (List.range g.blocksAcross).map fun bx => r.qps.getD (16 * bx / g.ctu) 0

/-- How many of some vectors equal one. -/
def countVec (l : List (Int × Int)) (v : Int × Int) : Nat := (l.filter fun w => w = v).length

/-- The dominant vector in whole samples with the blocks that share it (R191): of the inter blocks that predict from index 0 of list 0, the
nearest reference, the vector that most have; a tie is broken as R176 breaks one. DEDUCED (notes/assumptions/71.md). -/
def dominant (blocks : List Block) : (Int × Int) × Nat :=
  let l := (blocks.filter fun b => !b.intra && b.list = 0 && b.ref = 0).map fun b => (halfAway b.x 16, halfAway b.y 16)
  l.eraseDups.foldl (fun (best : (Int × Int) × Nat) v =>
    let n := countVec l v
    if best.2 < n || (best.2 = n && vecBefore v best.1) then (v, n) else best) ((0, 0), 0)

/-- Whether a status counts as held (R163, R555). -/
def heldStatus (st : Nat) : Bool := st = 0x04 || st = 0x20 || st = 0x21

/-- A band's status: the worst of its pieces, in the order of R163. -/
def BandRec.status (r : BandRec) : Nat :=
  (([0x20, 0x21, 0x04, 0x02].find? fun st => r.pieces.any fun p => p.status = st)).getD 0

/-- Bits of a band: what its pieces took. -/
def BandRec.bits (r : BandRec) : Nat := sumBy (·.bits) r.pieces

/-- Whether every piece of a band has completed or been substituted. -/
def BandRec.done (r : BandRec) : Bool := r.pieces.all (·.done)

/-- The CTUs of a piece-band before its first CTU at floor. -/
def EncCfg.kept (g : EncCfg) (p : PieceRec) : Nat :=
  match p.floorCol with
  | none => g.pieceCtus p.piece
  | some col => col - g.column p.piece

/-- SKIP_BLOCKS (R190, R192): skipped blocks; of a held piece all that are coded at floor. -/
def EncCfg.skipBlocks (g : EncCfg) (r : BandRec) : Nat :=
  sumBy (fun p => sumBy (fun row => (row.zipIdx.filter fun b =>
    b.1.skip || (heldStatus p.status && decide (g.kept p ≤ 16 * b.2 / g.ctu))).length) p.blocks) r.pieces

/-- Words 0–14 of a band's record (R190), FIELD apart. -/
def EncDyn.recordOf (x : EncDyn) (g : EncCfg) (c : Nat) (r : BandRec) : List Nat :=
  let blocks := g.bandBlocks r
  let inter := (blocks.filter fun b => !b.intra).length
  let dom := dominant blocks
  let qps := g.qpMap r
  let n := max 1 qps.length
  let floor := r.pieces.any fun p => p.floorCol.isSome
  [pack [(0x100 + c, 20), (r.band, 0)], r.k % 2 ^ 32,
   pack [(r.level, 30), (bit (heldStatus r.status), 29), (bit floor, 28), (bit (x.intraPic r.k), 27), (g.lines r.band, 0)],
   pack [(unsigned 16 (4 * dom.1.1), 16), (unsigned 16 (4 * dom.1.2), 0)], pack [(dom.2 % 65536, 16), (inter % 65536, 0)],
   sumBy (·.sad) r.pieces % 2 ^ 32, x.activity g c r.k r.band % 2 ^ 32, (r.header + r.bits) % 2 ^ 32,
   pack [((2 * sumBy id qps + n) / (2 * n), 24), (qps.foldl min (qps.headD 0), 16), (qps.foldl max 0, 8)],
   pack [((blocks.length - inter) % 65536, 16), (g.skipBlocks r % 65536, 0)], 0, 0, 0, 0, 0]

/-- Bytes as little-endian words. -/
def bytesToWords : List Nat → List Nat
  | a :: b :: c :: d :: r => (a + b * 2 ^ 8 + c * 2 ^ 16 + d * 2 ^ 24) :: bytesToWords r
  | [] => []
  | l => [leNat l]

/-- Words padded with zeros to a multiple of 64 bytes. -/
def padTo64 (l : List Nat) : List Nat := l ++ List.replicate (cdiv l.length 16 * 16 - l.length) 0

/-- A record of statistics as its delivery writes it (R190): header with CHECK, the vector field where it is asked for, the QP map. -/
def UnitRec.statWords (u : UnitRec) (field : Bool) : List Nat :=
  let head := u.record.zipIdx.map fun w => if w.2 = 2 then w.1 + 2 ^ 26 * bit field else w.1
  let body := (if field then padTo64 u.field else []) ++ padTo64 (bytesToWords u.qpMap)
  head ++ [crc32c (u.k % 65536 * 65536 + u.first) (head ++ body)] ++ body

end Sys2Proof.Machine
end

