-- ==== Sys2Proof/Machine/Check.lean ====
section
/-! DEFINITION. The check-value units (R474–R479): the CRC of R476, the queue of writes, presets, fold and result. -/

namespace Sys2Proof.Machine

/-- The settings of a CRC (R476). -/
structure CrcSpec where
  width : Nat
  poly : Nat
  init : Nat
  refin : Bool
  refout : Bool
  xorout : Nat
  deriving DecidableEq, Repr

/-- One bit into the CRC register, the bit to compare coming from the byte's top (R476). -/
def CrcSpec.bitIn (c : CrcSpec) (state b : Nat) : Nat :=
  let top := Nat.xor (state / 2 ^ (c.width - 1) % 2) b
  let s := state * 2 % 2 ^ c.width
  if top = 1 then Nat.xor s (c.poly % 2 ^ c.width) else s

/-- One byte into the CRC register (R476). -/
def CrcSpec.byteIn (c : CrcSpec) (state b : Nat) : Nat :=
  let b := if c.refin then reflect 8 (b % 256) else b % 256
  [7, 6, 5, 4, 3, 2, 1, 0].foldl (fun s i => c.bitIn s (b / 2 ^ i % 2)) state

/-- The register after a restart (R476). -/
def CrcSpec.restart (c : CrcSpec) : Nat := c.init % 2 ^ c.width

/-- The result of a register (R476). -/
def CrcSpec.result (c : CrcSpec) (state : Nat) : Nat :=
  Nat.xor (if c.refout then reflect c.width state else state) (c.xorout % 2 ^ c.width)

/-- What an unlisted check-value unit reads as: restarted at the reset values. -/
def newChk (_ : Nat) : ChkDyn := ⟨0xFFFFFFFF, 0, []⟩

/-- A unit beside its registers. -/
def Dev.chkUnit (d : Dev) (u : Nat) : ChkDyn := Tab.get newChk d.chk u

/-- Changes a unit beside its registers. -/
def Dev.onChk (d : Dev) (u : Nat) (f : ChkDyn → ChkDyn) : Dev := { d with chk := Tab.upd newChk d.chk u f }

/-- A unit's settings in force. -/
def Dev.chkSpec (d : Dev) (u : Nat) : CrcSpec :=
  let c := Reg.chkCfg u
  { width := d.fld c F.chkCfg_width, poly := (d.reg (Reg.chkPoly u)).toNat, init := (d.reg (Reg.chkInit u)).toNat,
    refin := d.flag c F.chkCfg_refin, refout := d.flag c F.chkCfg_refout, xorout := (d.reg (Reg.chkXorout u)).toNat }

/-- Shows RESULT and COUNT. -/
def Dev.showChk (d : Dev) (u : Nat) : Dev :=
  let x := d.chkUnit u
  (d.setReg (Reg.chkResult u) (BitVec.ofNat 32 ((d.chkSpec u).result x.crc))).setReg (Reg.chkCount u)
    (BitVec.ofNat 32 x.count)

/-- Restarts a unit. -/
def Dev.chkRestart (d : Dev) (u : Nat) : Dev := d.onChk u fun x => { x with crc := (d.chkSpec u).restart, count := 0 }

/-- Feeds `n` bytes of a value, least significant first (R478). -/
def Dev.chkFeed (d : Dev) (u n v : Nat) : Dev :=
  let c := d.chkSpec u
  d.onChk u fun x => { x with crc := ((wordBytes v).take n).foldl c.byteIn x.crc, count := (x.count + n) % 2 ^ 32 }

/-- The presets of R477: WIDTH, POLY, INIT, REFIN and REFOUT, XOROUT. -/
def chkPreset (code : Nat) : Nat × Nat × Nat × Nat × Nat :=
  if code = 1 then (32, 0x04C11DB7, 0xFFFFFFFF, 1, 0xFFFFFFFF)
  else if code = 3 then (16, 0x00001021, 0x0000FFFF, 0, 0x00000000)
  else (32, 0x1EDC6F41, 0xFFFFFFFF, 1, 0xFFFFFFFF)

/-- A write of CHK_CFG takes effect (R477): PRESET governs unless it is 0; 4–7 are taken as 2, and WIDTH 0 and 33–63 as
32. -/
def Dev.chkCfg (d : Dev) (u v : Nat) : Dev :=
  let w := BitVec.ofNat 32 v
  let a := Reg.chkCfg u
  let p := F.chkCfg_preset.get w
  if p = 0 then
    let n := F.chkCfg_width.get w
    (((d.setFld a F.chkCfg_preset 0).setFld a F.chkCfg_width (if n = 0 ∨ 32 < n then 32 else n)).setFld a F.chkCfg_refin
      (F.chkCfg_refin.get w)).setFld a F.chkCfg_refout (F.chkCfg_refout.get w)
  else
    let t := chkPreset p
    let d := (d.setFld a F.chkCfg_preset (if 3 < p then 2 else p)).setFld a F.chkCfg_width t.1
    let d := (d.setFld a F.chkCfg_refin t.2.2.2.1).setFld a F.chkCfg_refout t.2.2.2.1
    ((d.setReg (Reg.chkPoly u) (BitVec.ofNat 32 t.2.1)).setReg (Reg.chkInit u) (BitVec.ofNat 32 t.2.2.1)).setReg
      (Reg.chkXorout u) (BitVec.ofNat 32 t.2.2.2.2)

/-- One queued write of a unit takes effect (R477–R479), a changed member field leaving PRESET (R554); `off` is the register's offset in the set. -/
def Dev.chkApply (d : Dev) (u off n v : Nat) : Dev :=
  let w := BitVec.ofNat 32 v
  let custom (a : Nat) : Dev :=
    (if d.reg a = w then d else (d.setReg a w).setFld (Reg.chkCfg u) F.chkCfg_preset 0).chkRestart u
  let d := match off with
    | 0x00 => (d.chkCfg u v).chkRestart u
    | 0x04 => custom (Reg.chkPoly u)
    | 0x08 => custom (Reg.chkInit u)
    | 0x0C => custom (Reg.chkXorout u)
    | 0x10 => (d.chkRestart u).chkFeed u 4 v
    | _ => d.chkFeed u n v
  d.showChk u

/-- Shows BUSY and QUEUE of a unit. -/
def Dev.showChkQueue (d : Dev) (u : Nat) : Dev :=
  let n := (d.chkUnit u).queue.length
  (d.setFld (Reg.chkStatus u) F.chkStatus_busy (bit (decide (0 < n)))).setFld (Reg.chkStatus u) F.chkStatus_queue n

/-- Every queued write of a unit takes effect, in arrival order. -/
def Dev.chkDrain (d : Dev) (u : Nat) : Dev :=
  let q := (d.chkUnit u).queue
  let d := d.onChk u fun x => { x with queue := [] }
  (q.foldl (fun d p => d.chkApply u p.1 p.2.1 p.2.2) d).showChkQueue u

/-- A write enters a unit's queue; a full queue holds it until its oldest write has taken effect (R478). -/
def Dev.chkPut (d : Dev) (fn u off n v : Nat) : Dev :=
  if !d.mayWrite fn (Reg.chkCfg u + off) then d
  else
    let d := match (d.chkUnit u).queue with
      | p :: rest =>
        if 16 ≤ rest.length + 1 then (d.onChk u fun x => { x with queue := rest }).chkApply u p.1 p.2.1 p.2.2 else d
      | [] => d
    (d.onChk u fun x => { x with queue := x.queue ++ [(off, n, v)] }).showChkQueue u

/-- Clears a unit: every register to its reset value, queued writes discarded (R475). -/
def Dev.chkClear (d : Dev) (u : Nat) : Dev :=
  let a := Reg.chkCfg u
  let d := (List.range 11).foldl (fun d i => d.setReg (a + 4 * i) (regReset (a + 4 * i))) d
  d.onChk u fun _ => newChk u

/-- CHK_CFG_WRITE (R477): a write of CFG (+0x00), POLY (+0x04), INIT (+0x08) or XOROUT (+0x0C). -/
def execChkCfgWrite (fn unit reg value : Nat) (s : State) : Host.Outcome State Fault Refusal :=
  s.lift fun d => if reg ∈ [0x00, 0x04, 0x08, 0x0C] ∧ unit < 32 then d.chkPut fn unit reg 4 value else d

/-- CHK_FOLD_WRITE (R479). -/
def execChkFoldWrite (fn unit value : Nat) (s : State) : Host.Outcome State Fault Refusal :=
  s.lift fun d => if unit < 32 then d.chkPut fn unit 0x10 4 value else d

/-- CHK_DATA_WRITE (R478): `size` is 1, 2 or 4 bytes. -/
def execChkDataWrite (fn unit size value : Nat) (s : State) : Host.Outcome State Fault Refusal :=
  s.lift fun d =>
    if 32 ≤ unit then d
    else match size with
      | 1 => d.chkPut fn unit 0x14 1 value
      | 2 => d.chkPut fn unit 0x18 2 value
      | 4 => d.chkPut fn unit 0x1C 4 value
      | _ => d

/-- CHK_RESULT_READ (R479): a read of a unit register other than CHK_STATUS returns once every earlier write has taken
effect; a read of CHK_STATUS returns at once. -/
def execChkResultRead (fn unit reg : Nat) (s : State) : Host.Outcome State Fault Refusal :=
  s.lift fun d =>
    let a := Reg.chkCfg unit + reg
    let barred := decide (fn = 0) && d.houseBarred a
    if 32 ≤ unit ∨ 0x40 ≤ reg ∨ d.sees fn a = false ∨ (barred = true ∧ reg ≠ 0x28) then d.emit (.read fn a 0)
    else if reg = 0x28 then
      d.emit (.read fn a (F.chkStatus_owner.set (if barred then 0 else d.reg a) (d.owner 0x0B unit)).toNat)
    else
      let d := d.chkDrain unit
      d.emit (.read fn a (d.plainRead fn a).toNat)

end Sys2Proof.Machine
end

