-- ==== Sys2Proof/Machine/Host.lean ====
section
/-! DEFINITION. The host attachment (R85–R123): ring pairs, doorbells, descriptor reads, held completions, event rings,
interrupts, the link, and the host context of a Crew. -/

namespace Sys2Proof.Machine

/-! ## Crew status, link and budgets (R86, R88, R117) -/

/-- ENABLE of a ring pair. -/
def Dev.ringOn (d : Dev) (c r : Nat) : Bool := d.flag (Reg.hifRingCfg c r) F.hifRingCfg_enable

/-- STATE of a ring pair: 0 DISABLED, 1 ACTIVE, 2 DRAINING, 3 HOLDING. -/
def Dev.ringState (d : Dev) (c r : Nat) : Nat := d.fld (Reg.hifRingStatus c r) F.hifRingStatus_state

/-- Sets STATE of a ring pair. -/
def Dev.setRingState (d : Dev) (c r v : Nat) : Dev := d.setFld (Reg.hifRingStatus c r) F.hifRingStatus_state v

/-- The ring pairs of a Crew that are enabled. -/
def Dev.ringsOn (d : Dev) (c : Nat) : List Nat := (List.range 64).filter fun r => d.ringOn c r

/-- Shows HIF_CREW_STATUS. -/
def Dev.showCrew (d : Dev) (c : Nat) : Dev :=
  let a := Reg.hifCrewStatus c
  let st := if c ≠ 0 ∧ d.hif.numVfs < c then 0 else if d.suspended c then 2
    else if Tab.get zero d.hif.resetting c = 1 then 3 else 1
  (d.setFld a F.hifCrewStatus_state st).setFld a F.hifCrewStatus_rings (d.ringsOn c).length

/-- The widest link of option byte 9, in lanes (R491). -/
def Dev.maxWidth (d : Dev) : Nat := [16, 8, 4, 2, 1].getD ((d.reg (Reg.rstOb 2)).toNat / 256 % 8) 16

/-- The fastest speed of option byte 9, as a speed code: 4 is 16 GT/s (R491). -/
def Dev.maxSpeed (d : Dev) : Nat := 4 - (d.reg (Reg.rstOb 2)).toNat / 4096 % 4

/-- The link trains, no wider and no faster than the option bytes allow (R85, R88, R117). -/
def Dev.linkTrained (d : Dev) (w v : Nat) : Dev :=
  let a := Reg.hifLinkStatus
  let width := min w d.maxWidth
  let speed := min v d.maxSpeed
  let d := (d.setFld a F.hifLinkStatus_width width).setFld a F.hifLinkStatus_speed speed
  let d := (d.setFld a F.hifLinkStatus_dlUp 1).setFld a F.hifLinkStatus_fullRate (bit (decide (8 ≤ width ∧ 3 ≤ speed)))
  d.setFld Reg.hifBwBudget F.hifBwBudget_mbps (d.hostScale 5000)

/-- PCIE_LINK_UP (R88). -/
def execPcieLinkUp (width speed : Nat) (s : State) : Host.Outcome State Fault Refusal :=
  s.lift fun d => d.linkTrained width speed

/-- LINK_TRAINED_BELOW_X8 (R117): nothing admitted is withdrawn. -/
def execLinkTrainedBelowX8 (width speed : Nat) (s : State) : Host.Outcome State Fault Refusal :=
  s.lift fun d => d.linkTrained width speed

/-- TotalVFs, from option byte 10 in force (R85, R491). -/
def Dev.totalVfs (d : Dev) : Nat := min 16 ((d.reg (Reg.rstOb 2)).toNat / 65536 % 256)

/-- CONFIGURATION_READY (R88, R484). A VF that becomes ready raises NumVFs to it. DESIGN CHOICE (notes/assumptions/30.md). -/
def execConfigurationReady (fn : Nat) (s : State) : Host.Outcome State Fault Refusal :=
  s.lift fun d =>
    if d.inReset 6 then d
    else if fn = 0 then
      ((d.setFld Reg.hifLinkStatus F.hifLinkStatus_ready 1).setFld Reg.rstStatus F.rstStatus_configReady 1).showCrew 0
    else if fn ≤ d.totalVfs then
      (d.onHif fun h => { h with numVfs := max h.numVfs fn, absent := h.absent.filter (· ≠ fn) }).showCrew fn
    else d

/-! ## Ring pairs (R93, R122, R123) -/

/-- Address of an SQ, CQ or doorbell area from its two registers. -/
def Dev.addr64 (d : Dev) (lo hi : Nat) : Nat := (d.reg lo).toNat + (d.reg hi).toNat * 2 ^ 32

/-- Bytes of a Crew's doorbell area that reaches ring pair `r` (R94). -/
def dbBytes (r : Nat) : Nat := 64 * (r / 16 + 1)

/-- Whether an enable of a ring pair, with the settings now held, is refused (R122). -/
def Dev.ringRefused (d : Dev) (c r : Nat) : Bool :=
  let g := Reg.hifRingCfg c r
  let bad (v : Nat) : Bool := decide (1 ≤ v ∧ v ≤ 5)
  let db := (d.reg (Reg.hifDbBaseLo c)).toNat
  decide (4 ≤ d.fld g F.hifRingCfg_preset) || bad (d.fld g F.hifRingCfg_sqLog2) || bad (d.fld g F.hifRingCfg_cqLog2) ||
    (d.fld g F.hifRingCfg_ovf = 1 && d.fld (Reg.hifRingMod c r) F.hifRingMod_holdStrokes = 0) ||
    (d.reg (Reg.hifSqBaseLo c r)).toNat % 4096 ≠ 0 || (d.reg (Reg.hifCqBaseLo c r)).toNat % 4096 ≠ 0 || db % 64 ≠ 0 ||
    decide (4096 < db % 4096 + dbBytes (maxBy id (r :: d.ringsOn c)))

/-- A ring pair just enabled. -/
def newRing (epoch : Nat) : Ring :=
  { sqSeq := 0, tail := 0, cqSeq := 0, cqCons := 0, reserved := 0, issued := 0, opened := [], lost := false, held := [],
    retried := none, epoch := epoch }

/-- The bits of HIF_RING_CFG that a write in any state takes: BAR_DB, VECTOR, INT_EN. -/
def ringAnyMask : Word := 0x000BF800

/-- A write of HIF_RING_CFG_r (R122, R123). DESIGN CHOICE (notes/assumptions/68.md): outside DISABLED a changed BAR_DB leaves PRESET, which R122
keeps there, though R554 would set it to 0. -/
def Dev.ringCfgWrite (d : Dev) (fn c r value : Nat) : Dev :=
  let a := Reg.hifRingCfg c r
  let st := Reg.hifRingStatus c r
  let w := BitVec.ofNat 32 value
  let on := F.hifRingCfg_enable.get w = 1
  if !d.mayWrite fn a then d
  else if d.ringState c r = 0 then
    let x := d.plainWrite fn a (F.hifRingCfg_enable.set w 0)
    if !on then x
    else if x.ringRefused c r then (d.setFld st F.hifRingStatus_cfgErr 1).showCrew c
    else
      let x := (x.setFld a F.hifRingCfg_enable 1).setReg st (x.reg st &&& BitVec.ofNat 32 F.hifRingStatus_fetchErr.mask)
      let x := (x.setRingState c r 1).onHif fun h =>
        { h with epoch := h.epoch + 1, resetting := Tab.put zero h.resetting c 0
                 unsig := Tab.put zero h.unsig (65 * c + r) 0 }
      (x.setRing c r (some (newRing x.hif.epoch))).showCrew c
  else
    let d := d.setReg a (mergeWord ringAnyMask w (d.reg a))
    if on ∨ d.ringState c r = 2 then d
    else ((d.setFld a F.hifRingCfg_enable 0).setRingState c r 2).showCrew c

/-- RING_ENABLE (R122). -/
def execRingEnable (fn crew ring value : Nat) (s : State) : Host.Outcome State Fault Refusal :=
  s.lift fun d => if crew < 17 ∧ ring < 64 then d.ringCfgWrite fn crew ring value else d

/-- RING_DISABLE (R123). -/
def execRingDisable (fn crew ring value : Nat) (s : State) : Host.Outcome State Fault Refusal :=
  s.lift fun d => if crew < 17 ∧ ring < 64 then d.ringCfgWrite fn crew ring value else d

/-- A write of HIF_RING_MOD_r: outside DISABLED only MOD_STROKES and MOD_COUNT are taken (R122). DESIGN CHOICE (notes/assumptions/68.md): they
leave PRESET there, as a changed BAR_DB does. -/
def Dev.ringModWrite (d : Dev) (fn c r value : Nat) : Dev :=
  let a := Reg.hifRingMod c r
  let w := BitVec.ofNat 32 value
  if !d.mayWrite fn a then d
  else if d.ringState c r = 0 then d.plainWrite fn a w
  else d.setReg a (mergeWord 0x0000FFFF w (d.reg a))

/-- RING_DRAINED (R123): no item of the ring pair is outstanding and no completion is held. -/
def execRingDrained (crew ring : Nat) (s : State) : Host.Outcome State Fault Refusal :=
  s.lift fun d =>
    match d.ring crew ring with
    | none => d
    | some g =>
      if d.ringState crew ring = 2 ∧ g.opened = [] ∧ g.held = [] ∧ g.issued = 0 then
        ((d.setRing crew ring none).setRingState crew ring 0).showCrew crew
      else d

/-- Opcodes of standing descriptors. -/
def standingOps : List Nat := [0x30, 0x40, 0x41, 0x42, 0x50, 0x64, 0x80, 0x82]

/-- Descriptors in ring order. -/
def ringOrder (l : List Desc) : List Desc := l.mergeSort fun a b => decide (a.seq ≤ b.seq)

/-- Descriptors end without taking effect, or end standing, with a status, in ring order within each SQ (R110). -/
def Dev.endDescs (d : Dev) (hit : Desc → Bool) (status : Nat) : Dev :=
  let gone := ringOrder (((d.hif.standing.map (·.desc)) ++ d.hif.due ++ d.hif.staged).filter hit)
  let d := d.onHif fun h => { h with standing := h.standing.filter fun s => !hit s.desc, due := h.due.filter fun x => !hit x
                                     staged := h.staged.filter fun x => !hit x }
  gone.foldl (fun d x => d.finish x status []) d

/-- At a boundary the standing descriptors of ring pairs that drain, those read and not yet standing among them, complete ABORT_SHUTDOWN
(R123). -/
def Dev.shutRings (d : Dev) : Dev :=
  d.hif.rings.foldl (fun d p =>
    let c := p.1 / 64
    let r := p.1 % 64
    if d.ringState c r = 2 then d.endDescs (fun x => x.crew = c && x.ring = r && standingOps.contains x.opcode) 0x23 else d) d

/-! ## Doorbells (R94–R98) -/

/-- A new SQ_TAIL and CQ_HEAD of a ring pair, tested as R97 states. -/
def Dev.doorbell (d : Dev) (c r w : Nat) : Dev :=
  match d.ring c r with
  | none => d
  | some g =>
    let sq := d.sqSize c r
    let cq := d.cqSize c r
    let head := g.sqSeq % sq
    let t := w % 65536 % sq
    let tail := if (g.tail + sq - head) % sq < (t + sq - head) % sq then t else g.tail
    let adv := (w / 65536 + cq - g.cqCons % cq) % cq
    let cons := if 0 < adv ∧ adv ≤ g.cqSeq - g.cqCons then g.cqCons + adv else g.cqCons
    let d := d.setRing c r (some { g with tail := tail, cqCons := cons })
    d.onStanding (fun s => s.desc.crew = c && s.desc.ring = r) fun s =>
      { s with busy := s.busy.filter fun b => b.2 = 0 || decide (cons < b.2) }

/-- DOORBELL_READ_COMPLETE (R94, R97): word r of the area is the doorbell word of ring pair r. -/
def execDoorbellReadComplete (crew : Nat) (words : List Nat) (s : State) : Host.Outcome State Fault Refusal :=
  s.lift fun d =>
    if d.inReset 6 then d else words.zipIdx.foldl (fun d p => d.doorbell crew p.2 p.1) d

/-- Sends the messages of a function's pending vectors that are no longer masked (R91). PRESUMED, as `msixReset`. -/
def Dev.sendPending (d : Dev) (fn : Nat) : Dev :=
  (List.range 64).foldl (fun d v =>
    if Tab.get zero d.hif.msixPend (64 * fn + v) = 1 && !d.msixMasked fn v then
      (d.emit (.msix fn v)).onHif fun h => { h with msixPend := Tab.put zero h.msixPend (64 * fn + v) 0 }
    else d) d

/-- BAR2_DOORBELL_WRITE (R91, R96): a write in BAR2, of a doorbell while BAR_DB is 1 and the Crew is not suspended, or of
the MSI-X table. -/
def execBar2DoorbellWrite (fn offset size value : Nat) (s : State) : Host.Outcome State Fault Refusal :=
  s.lift fun d =>
    if d.inReset 6 ∨ d.hif.numVfs < fn ∨ (size ≠ 4 ∧ size ≠ 8) ∨ offset % size ≠ 0 then d
    else if offset < 0x200 then
      let r := offset / 8
      if offset % 8 = 0 && d.flag (Reg.hifRingCfg fn r) F.hifRingCfg_barDb && !d.suspended fn then
        d.doorbell fn r (value % 2 ^ 32)
      else d
    else if 0x8000 ≤ offset ∧ offset < 0x8400 then
      ((List.range (size / 4)).foldl (fun d i => d.onHif fun h =>
        { h with msix := Tab.put msixReset h.msix (256 * fn + (offset - 0x8000) / 4 + i) (value / 2 ^ (32 * i) % 2 ^ 32) }) d).sendPending fn
    else d

/-- The doorbell-area reads of a boundary (R95). -/
def Dev.pollDoorbells (d : Dev) : Dev :=
  (List.range 17).foldl (fun d c =>
    match (d.ringsOn c).getLast? with
    | some r => if d.suspended c then d else d.emit (.hostRead c (d.addr64 (Reg.hifDbBaseLo c) (Reg.hifDbBaseHi c)) (dbBytes r))
    | none => d) (d.onHif fun h => { h with reads := [], ringReads := [] })

/-! ## Descriptor reads (R99, R108, R115, R116, R120) -/

/-- Descriptors of a ring pair announced and not yet read. -/
def Dev.announced (d : Dev) (c r : Nat) : Nat :=
  match d.ring c r with
  | none => 0
  | some g => (g.tail + d.sqSize c r - (g.sqSeq + g.issued) % d.sqSize c r) % d.sqSize c r

/-- Descriptor reads of a Crew in this Stroke. -/
def Dev.readsOf (d : Dev) (c : Nat) : Nat := Tab.get zero d.hif.reads c

/-- A ring pair's turn to read among those beyond their Crews' shares. -/
def Dev.readTurn (d : Dev) (c r : Nat) : Nat × Nat × Nat × Nat := (d.readsOf c, c, Tab.get zero d.hif.ringReads (64 * c + r), r)

/-- Whether the next descriptor of a ring pair can be read, the capacity of the Stroke apart (R60, R93, R108, R109, R120). -/
def Dev.mayRead (d : Dev) (c r : Nat) : Bool :=
  (d.ring c r).any fun g => d.ringState c r = 1 && !d.suspended c && g.held.all (·.slot) && decide (0 < d.announced c r) &&
    decide (0 < d.freeSlots c r) && (!g.full || d.storeRoom) && (g.retried.all fun t => decide (t < d.now))

/-- Whether a ring pair may read one more descriptor in this Stroke: within its Crew's guaranteed share, or beyond it in its turn from what
the others' shares leave, unless its policy forbids that (R116, R451). -/
def Dev.readShare (d : Dev) (c r : Nat) : Bool :=
  let own := d.hostScale 60
  if d.readsOf c < own then true
  else
    let kept := sumBy (fun o => if o = c then 0 else
      d.readsOf o + min (own - d.readsOf o) (sumBy (fun r => d.announced o r) (d.ringsOn o))) (List.range 17)
    !d.noSurplus c && decide (kept + d.readsOf c < d.hostScale 1024) &&
      d.hif.rings.all fun p =>
        let o := p.1 / 64
        decide (d.readsOf o < own) || d.noSurplus o || !d.mayRead o (p.1 % 64) || turnFirst (d.readTurn c r) (d.readTurn o (p.1 % 64))

/-- DESCRIPTOR_FETCH (R60, R93, R108, R116): the next descriptor of a ring pair is read, with a CQ slot reserved. -/
def execDescriptorFetch (crew ring : Nat) (s : State) : Host.Outcome State Fault Refusal :=
  s.lift fun d =>
    match d.ring crew ring with
    | none => d
    | some g =>
      if d.mayRead crew ring && d.readShare crew ring then
        let surplus := decide (d.hostScale 60 ≤ d.readsOf crew)
        let slot := (g.sqSeq + g.issued) % d.sqSize crew ring
        let a := d.addr64 (Reg.hifSqBaseLo crew ring) (Reg.hifSqBaseHi crew ring) + 64 * slot
        let d := d.setRing crew ring (some { g with issued := g.issued + 1, reserved := g.reserved + 1, full := false })
        let d := d.onHif fun h => { h with reads := Tab.upd zero h.reads crew (· + 1), ringReads := Tab.upd zero h.ringReads (64 * crew + ring) (· + 1) }
        let d := d.pmuCount 142 .descRead crew 0 1
        let d := if surplus then d.pmuCount 142 .surplus crew 0 1 else d
        d.emit (.hostRead crew a 64)
      else d

/-- A descriptor read fails (R120): one INTERNAL_FAULT entry and a retry in the next Stroke; a second failure sets FETCH_ERR
and the ring pair drains. -/
def Dev.descriptorFailed (d : Dev) (c r : Nat) : Dev :=
  match d.ring c r with
  | none => d
  | some g =>
    if g.issued = 0 then d
    else
      let d := d.addFld (Reg.hifRingStat c r) F.hifRingStat_fetchFail 1
      let d := d.setRing c r (some { g with issued := 0, reserved := g.reserved - g.issued, retried := some d.now })
      if g.retried.isNone then
        (d.onRing c r fun g => { g with reserved := g.reserved + 1 }).complete c r ⟨0x3F, 0, 0, [], d.now, g.sqSeq, 0, true⟩
      else
        let d := (d.setFld (Reg.hifRingStatus c r) F.hifRingStatus_fetchErr 1).setFld (Reg.hifRingCfg c r) F.hifRingCfg_enable 0
        (d.setRingState c r 2).showCrew c

/-- A doorbell read fails: the poll is skipped and counted on ring pair 0 (R120). -/
def Dev.doorbellFailed (d : Dev) (c : Nat) : Dev := d.addFld (Reg.hifRingStat c 0) F.hifRingStat_fetchFail 1

/-! ## Held completions (R109) -/

/-- A ring pair goes from HOLDING to ACTIVE once no completion is held. -/
def Dev.unhold (d : Dev) (c r : Nat) : Dev :=
  match d.ring c r with
  | none => d
  | some g => if g.held.all (·.slot) && d.ringState c r = 3 then d.setRingState c r 1 else d

/-- HELD_COMPLETION_WRITE (R109, R110): the oldest completion that waits takes a slot that has freed, or the one reserved for it. -/
def execHeldCompletionWrite (crew ring : Nat) (s : State) : Host.Outcome State Fault Refusal :=
  s.lift fun d =>
    match d.ring crew ring with
    | none => d
    | some g =>
      match g.held with
      | [] => d
      | h :: rest =>
        if (!h.slot && d.freeSlots crew ring = 0) || !d.entryShare crew ring then d
        else ((d.setRing crew ring (some { g with held := rest })).writeHeld crew ring h).unhold crew ring

/-- HOLD_TIMEOUT (R109): a completion held for HOLD_STROKES is dropped; a GAP that it carried is owed to the next one written (R164). -/
def execHoldTimeout (crew ring : Nat) (s : State) : Host.Outcome State Fault Refusal :=
  s.lift fun d =>
    match d.ring crew ring with
    | none => d
    | some g =>
      match g.held with
      | [] => d
      | h :: rest =>
        if h.slot ∨ d.now < h.since + d.fld (Reg.hifRingMod crew ring) F.hifRingMod_holdStrokes then d
        else
          let d := d.setRing crew ring (some { g with held := rest, lost := true })
          let d := d.addFld (Reg.hifRingStat crew ring) F.hifRingStat_ovfDrop 1
          let d := d.onStanding (fun s => s.desc.crew = crew && s.desc.ring = ring && s.desc.seq = h.post) fun s =>
            { s with busy := s.busy.filter fun b => b ≠ (h.buf, 0), gap := s.gap || bitAt (h.words.getD 1 0) (gapBit h.opcode) }
          d.unhold crew ring

/-! ## Event rings and interrupts (R111, R113, R114) -/

/-- Whether the event ring of a Crew, with the settings now held, can be enabled (R111). -/
def Dev.evqValid (d : Dev) (c : Nat) : Bool :=
  let n := d.fld (Reg.hifEvqCfg c) F.hifEvqCfg_log2Size
  decide (6 ≤ n ∧ n ≤ 12) && (d.reg (Reg.hifEvqBaseLo c)).toNat % 4096 = 0

/-- A write of HIF_EVQ_CFG (R111). -/
def Dev.evqCfgWrite (d : Dev) (fn c value : Nat) : Dev :=
  let a := Reg.hifEvqCfg c
  let w := BitVec.ofNat 32 value
  if !d.mayWrite fn a then d
  else if F.hifEvqCfg_enable.get w = 0 then d.plainWrite fn a w
  else if d.flag a F.hifEvqCfg_enable then d.setReg a (mergeWord 0x4FF0FF3F w (d.reg a))
  else
    let d := d.plainWrite fn a (F.hifEvqCfg_enable.set w 0)
    if !d.evqValid c then d
    else
      ((d.setFld a F.hifEvqCfg_enable 1).setReg (Reg.hifEvqStatus c) 0).onHif fun h =>
        { h with evSeq := Tab.put zero h.evSeq c 0, evHead := Tab.put zero h.evHead c 0, evLost := Tab.put zero h.evLost c 0
                 unsig := Tab.put zero h.unsig (65 * c + 64) 0 }

/-- EVQ_ENABLE (R111). -/
def execEvqEnable (fn crew value : Nat) (s : State) : Host.Outcome State Fault Refusal :=
  s.lift fun d => if crew < 17 then d.evqCfgWrite fn crew value else d

/-- EVQ_DISABLE (R111). -/
def execEvqDisable (fn crew value : Nat) (s : State) : Host.Outcome State Fault Refusal :=
  s.lift fun d => if crew < 17 then d.evqCfgWrite fn crew value else d

/-- EVQ_HEAD_WRITE (R91, R113). -/
def execEvqHeadWrite (fn head : Nat) (s : State) : Host.Outcome State Fault Refusal :=
  s.lift fun d =>
    let size := 2 ^ d.fld (Reg.hifEvqCfg fn) F.hifEvqCfg_log2Size
    let old := Tab.get zero d.hif.evHead fn
    let tail := d.fld (Reg.hifEvqStatus fn) F.hifEvqStatus_tail
    let adv := (head % 65536 + size - old) % size
    if d.inReset 6 = false ∧ fn ≤ d.hif.numVfs ∧ d.flag (Reg.hifEvqCfg fn) F.hifEvqCfg_enable = true ∧ 0 < adv ∧
        adv ≤ (tail + size - old) % size then
      d.onHif fun h => { h with evHead := Tab.put zero h.evHead fn ((old + adv) % size) }
    else d

/-- MSIX_MODERATION_EXPIRY (R114): a vector with unsignalled entries fires once its moderation allows. -/
def execMsixModerationExpiry (fn vector : Nat) (s : State) : Host.Outcome State Fault Refusal :=
  s.lift fun d =>
    if (List.range 65).any fun r =>
        decide (0 < d.unsig fn r) && d.ringVector fn r == vector && d.ringIntEn fn r && d.mayFire fn r
    then d.fireVector fn vector else d

/-! ## The host context of a Crew (R118, R119, R472, R475, R483) -/

/-- Registers in a range return to their reset values. -/
def Dev.clearRegs (d : Dev) (lo hi : Nat) : Dev := { d with regs := d.regs.filter fun p => !(lo ≤ p.1 && p.1 < hi) }

/-- Opcodes whose descriptors need host memory once they take effect: host pictures, layers, tables, keys, frames, orders, feeds and
firmware images. -/
def readingOps : List Nat := [0x20, 0x24, 0x27, 0x28, 0x60, 0x65, 0x66, 0x85, 0xF1]

/-- The host side of a Crew is reset (R118): rings and event ring disabled, standing descriptors ended, ORDERED ones that wait
dropped, those that need host memory ended and counted, staged fields and SEC_OWN_SEL discarded, and its check units cleared (R475). -/
def Dev.resetContext (d : Dev) (c : Nat) : Dev :=
  let page := 0x1410000 + 0x1000 * c
  let d := d.clearRegs page (page + 0x1000)
  let mine (x : Desc) : Bool := x.crew = c
  let needs (x : Desc) : Bool := mine x && !x.waits && readingOps.contains x.opcode
  let lost := (d.hif.staged ++ d.hif.due).filter needs
  let keep (x : Desc) : Bool := !(mine x && (x.waits || standingOps.contains x.opcode || readingOps.contains x.opcode))
  let d := d.onHif fun h =>
    { h with rings := h.rings.filter fun p => p.1 / 64 ≠ c
             standing := h.standing.filter fun s => !mine s.desc
             events := h.events.filter fun e => e.1 ≠ c
             staged := h.staged.filter keep, due := h.due.filter keep
             evSeq := Tab.put zero h.evSeq c 0, evHead := Tab.put zero h.evHead c 0, evLost := Tab.put zero h.evLost c 0
             unsig := h.unsig.filter fun p => p.1 / 65 ≠ c, lastInt := h.lastInt.filter fun p => p.1 / 64 ≠ c
             msix := h.msix.filter fun p => p.1 / 256 ≠ c
             msixPend := h.msixPend.filter fun p => p.1 / 64 ≠ c, resetting := Tab.put zero h.resetting c 1 }
  let d := { d with staged := d.staged.filter fun p => p.1 / 2 ^ 32 ≠ c, fnRegs := Tab.put fnReset d.fnRegs (fnKey c Reg.secOwnSel) 0 }
  let d := (List.range 32).foldl (fun d u => if c = 0 || d.owner 0x0B u = c then d.chkClear u else d) d
  lost.foldl (fun d x => d.addFld (Reg.hifRingStat c x.ring) F.hifRingStat_isolated 1) (d.showCrew c)

end Sys2Proof.Machine
end

