-- ==== Sys2Proof/Machine/Descriptors.lean ====
section
/-! DEFINITION. Descriptors (R100–R108, R556): the objects they name, the tests every opcode shares, their staging and taking
effect, and the standing descriptors with their host buffers (R162–R165). -/

namespace Sys2Proof.Machine

/-! ## Handles (R439, R440) -/

/-- What a value of OBJECT names (R440). -/
inductive ObjKind where
  | zero
  | enc (c : Nat)
  | dec (n : Nat)
  | prog (p : Nat)
  | group (g : Nat)
  | stream (h : Nat)
  | aesIn (i : Nat)
  | aesOut (o : Nat)
  | pic (c : Nat)
  | fence (f : Nat)
  | key (k : Nat)
  deriving DecidableEq, Repr

/-- The object of a handle (R440). -/
def objKind (h : Nat) : Option ObjKind :=
  if h = 0 then some .zero
  else if 0x100 ≤ h ∧ h < 0x200 then some (.enc (h - 0x100))
  else if 0x200 ≤ h ∧ h < 0x240 then some (.dec (h - 0x200))
  else if 0x240 ≤ h ∧ h < 0x250 then some (.prog (h - 0x240))
  else if 0x280 ≤ h ∧ h < 0x2C0 then some (.group (h - 0x280))
  else if 0x2C0 ≤ h ∧ h < 0x300 then some (.stream (h - 0x2C0))
  else if 0x300 ≤ h ∧ h < 0x320 then some (.aesIn (h - 0x300))
  else if 0x320 ≤ h ∧ h < 0x340 then some (.aesOut (h - 0x320))
  else if 0x400 ≤ h ∧ h < 0x500 then some (.pic (h - 0x400))
  else if 0x1000 ≤ h ∧ h < 0x2000 then some (.fence (h - 0x1000))
  else if 0x2000 ≤ h ∧ h < 0x3000 then some (.key (h - 0x2000))
  else none

/-- CLASS and instance of the Charter that an object follows (R439). -/
def ObjKind.charter : ObjKind → Option (Nat × Nat)
  | .zero => none
  | .enc c => some (0x01, c)
  | .dec n => some (0x02, n)
  | .prog p => some (0x03, p)
  | .group g => some (0x07, g)
  | .stream h => some (0x08, 0x200 + h)
  | .aesIn i => some (0x08, i)
  | .aesOut o => some (0x08, 0x40 + o)
  | .pic c => some (0x01, c)
  | .fence f => some (0x09, f)
  | .key k => some (0x0A, k)

/-- The register whose bit 31 enables the object, for the objects of R556. -/
def ObjKind.enableReg : ObjKind → Option Nat
  | .enc c => some (Reg.encChCfg c)
  | .pic c => some (Reg.encChCfg c)
  | .dec n => some (Reg.decChCfg n)
  | .prog p => some (Reg.cmpProgCfg p)
  | .group g => some (Reg.audGrpCfg g)
  | .stream h => some (Reg.audHostCfg h)
  | _ => none

/-- The object of a descriptor. -/
def Desc.kind (x : Desc) : ObjKind := (objKind x.object).getD .zero

/-- Whether an object of R556 is enabled, or will be by an ACCEPTED commit whose effect lies at or before a Stroke. -/
def Dev.enabledBy (d : Dev) (k : ObjKind) (t : Nat) : Bool :=
  match k.enableReg with
  | none => true
  | some a =>
    bitAt (d.reg a).toNat 31 ||
      d.stk.accepted.any fun c => decide (c.effect ≤ t) && c.writes.any fun w => w.1 = a && bitAt w.2.toNat 31

/-! ## Tests (R100–R105) -/

/-- What an opcode takes: the bits of words 3–14 that it names, the kinds of OBJECT, whether only PF0 may use it, its own
tests, which answer a status with words 3–6, and the MB/s of host traffic it asks for, from and to the host (R117). -/
structure OpRule where
  opcode : Nat
  masks : List (Nat × Nat)
  kind : ObjKind → Bool
  house : Bool
  test : Dev → Desc → Option (Nat × List Nat)
  rate : Dev → Desc → Nat × Nat := fun _ _ => (0, 0)

/-- REFUSED_FORMAT of an opcode's own tests. -/
def formatIf (b : Bool) : Option (Nat × List Nat) := if b then some (0x13, []) else none

/-- REFUSED_ADMISSION with a reason, of an opcode's own tests. -/
def admissionIf (b : Bool) (reason detail : Nat) : Option (Nat × List Nat) := if b then some (0x10, [reason, detail]) else none

/-- The words of STK_COMMIT_DETAIL: CLASS, INDEX, OBJECT (R43). -/
def detailWord (cls idx obj : Nat) : Nat :=
  pack [(cls, F.stkCommitDetail_class.lo), (idx, F.stkCommitDetail_index.lo), (obj, F.stkCommitDetail_object.lo)]

/-- All bits of a word. -/
def allBits : Nat := 0xFFFFFFFF

/-- Whether words 3–14 hold only bits that the opcode names. -/
def OpRule.named (r : OpRule) (x : Desc) : Bool :=
  (List.range 12).all fun i =>
    let m := ((r.masks.find? fun p => p.1 = i + 3).map (·.2)).getD 0
    (x.w (i + 3)) &&& m == x.w (i + 3)

/-- Whether a function may use an opcode on an object (test 3 of R102). -/
def Dev.permitted (d : Dev) (r : OpRule) (x : Desc) : Bool :=
  (!r.house || x.crew = 0) &&
    (match x.kind.charter with
     | none => true
     | some p => d.owner p.1 p.2 == x.crew)

/-- Opcodes served in recovery (R494); CHANGE_ORDER serves the kind OPTIONS. -/
def recoveryOps : List Nat := [0xF0, 0x70, 0x67, 0xF1, 0x66]

/-- The Stroke that a descriptor names: none for as soon as possible (R18, R100). -/
def Dev.target? (d : Dev) (x : Desc) : Option Nat := if x.w 1 = 0 then none else some (strokeOf d.now (x.w 1))

/-- The boundary at which a descriptor staged now takes effect (R103). -/
def Dev.effectOf (d : Dev) (x : Desc) : Nat :=
  match d.target? x with
  | none => d.now + 1
  | some t => max t (d.now + 1)

/-- Test 2 of R102. -/
def Dev.formatBad (d : Dev) (r? : Option OpRule) (x : Desc) : Bool :=
  match r? with
  | none => true
  | some r =>
    x.w 0 / 65536 % 32 ≠ 0 || x.w 2 / 65536 ≠ 0 || !r.named x ||
      (match objKind x.object with
       | none => true
       | some k => !r.kind k) ||
      (match d.target? x with
       | none => false
       | some t => decide (d.now + 80000 < t)) ||
      (d.flag Reg.rstStatus F.rstStatus_recovery && !recoveryOps.contains x.opcode)

/-- The posts that stand or are to stand, whose traffic is admitted. -/
def Dev.posts (d : Dev) : List Desc := d.hif.standing.map (·.desc) ++ d.hif.staged ++ d.hif.due

/-- Admitted host traffic in MB/s, from and to the host (R117). -/
def Dev.hostTraffic (d : Dev) : Nat × Nat :=
  (d.hif.liveRd + sumBy (·.rd) d.posts, d.hif.liveWr + sumBy (·.wr) d.posts)

/-- A post whose traffic does not fit the budget (R117). -/
def Dev.trafficRefusal (d : Dev) (x : Desc) (rate : Nat × Nat) : Option (Nat × List Nat) :=
  let t := d.hostTraffic
  let m := d.hostScale 5000
  if rate = (0, 0) then none
  else admissionIf (decide (m < t.1 + rate.1 ∨ m < t.2 + rate.2)) 5 (detailWord 6 16 x.object)

/-- The tests of R102 after CHECK, in order: the status and words that refuse the descriptor. -/
def Dev.refusal? (d : Dev) (rules : List OpRule) (x : Desc) : Option (Nat × List Nat) :=
  match rules.find? fun r => r.opcode = x.opcode with
  | none => some (0x13, [])
  | some r =>
    if d.formatBad (some r) x then some (0x13, [])
    else if !d.permitted r x then some (0x12, [])
    else if !x.lateOk && ((d.target? x).any fun t => decide (t ≤ d.now)) then some (0x10, [0xA])
    else if !d.enabledBy x.kind (d.effectOf x) then some (0x13, [])
    else (r.test d x).orElse fun _ => d.trafficRefusal x (r.rate d x)

/-- A descriptor's data arrives: it is tested in the order of R102 and refused or staged. An ORDERED one waits while earlier
descriptors of its SQ have not completed; a host picture that finds no entry of the store free stays unread (R60). -/
def Dev.descriptorRead (d : Dev) (rules : List OpRule) (c r : Nat) (words : List Nat) : Dev :=
  match d.ring c r with
  | none => d
  | some g =>
    if g.issued = 0 then d
    else
      let x : Desc := ⟨c, r, g.sqSeq, words.take 16, 0, false, g.epoch, 0, 0, 0⟩
      let unread := d
      let d := d.setRing c r (some { g with issued := g.issued - 1, sqSeq := g.sqSeq + 1, opened := g.opened ++ [g.sqSeq]
                                            retried := none })
      let d := d.setFld (Reg.hifRingStatus c r) F.hifRingStatus_sqHead ((g.sqSeq + 1) % d.sqSize c r)
      let fold := (64 * c + r) * 65536 + g.sqSeq % 65536
      let chk := crc32c fold ((List.range 15).map x.w)
      if chk ≠ x.w 15 then (d.addFld (Reg.hifRingStat c r) F.hifRingStat_checkErr 1).finish x 0x11 [chk, fold]
      else
        match d.refusal? rules x with
        | some (st, ws) => d.finish x st ws
        | none =>
        if x.opcode = 0x28 && !d.storeRoom then unread.setRing c r (some { g with issued := 0, reserved := g.reserved - g.issued, full := true })
        else
          let rate := ((rules.find? fun r => r.opcode = x.opcode).map fun r => r.rate d x).getD (0, 0)
          let x := { x with effect := d.effectOf x, waits := x.ordered && !g.opened.isEmpty, rd := rate.1, wr := rate.2, target := (d.target? x).getD d.now }
          d.onHif fun h => { h with staged := h.staged ++ [x] }

/-- ORDERED_DESCRIPTOR_START (R100): the oldest ORDERED descriptor of a ring pair that waits starts once every earlier
descriptor has completed. -/
def execOrderedDescriptorStart (crew ring : Nat) (s : State) : Host.Outcome State Fault Refusal :=
  s.lift fun d =>
    match d.hif.staged.find? (fun x => x.crew = crew && x.ring = ring && x.waits), d.ring crew ring with
    | some x, some g =>
      if g.opened.any fun n => decide (n < x.seq) then d
      else d.onHif fun h =>
        { h with staged := h.staged.map fun y => if y = x then { x with waits := false, effect := max x.effect (d.now + 1) } else y }
    | _, _ => d

/-! ## Taking effect (R103) -/

/-- At a boundary the staged descriptors whose Stroke has come are due, in ring order within each SQ. -/
def Dev.dueDescriptors (d : Dev) : Dev :=
  let ready (x : Desc) : Bool := !x.waits && decide (x.effect ≤ d.now)
  d.onHif fun h => { h with due := h.due ++ h.staged.filter ready, staged := h.staged.filter fun x => !ready x }

/-- Takes the oldest due descriptor of a ring pair, if its opcode is the one that the command carries out. -/
def Dev.takeDue (d : Dev) (c r opcode : Nat) : Option (Desc × Dev) :=
  match d.hif.due.find? fun x => x.crew = c && x.ring = r with
  | none => none
  | some x =>
    if x.opcode = opcode then some (x, d.onHif fun h => { h with due := h.due.filter fun y => y ≠ x }) else none

/-- Carries out the oldest due descriptor of a ring pair. -/
def State.onDue (s : State) (c r opcode : Nat) (f : Dev → Desc → Dev) : Host.Outcome State Fault Refusal :=
  s.lift fun d =>
    match d.takeDue c r opcode with
    | none => d
    | some p => f p.2 p.1

/-- NOP (R107). -/
def execNop (crew ring : Nat) (s : State) : Host.Outcome State Fault Refusal :=
  s.onDue crew ring 0xF0 fun d x => d.finish x 0 [d.now % 2 ^ 32, d.now / 2 ^ 32]

/-- NOP is permitted to every function, with no object. -/
def hostRules : List OpRule := [{ opcode := 0xF0, masks := [], kind := (· == .zero), house := false, test := fun _ _ => none }]

/-! ## Standing descriptors (R162–R165) -/

/-- A standing descriptor takes effect. -/
def Dev.stand (d : Dev) (x : Desc) (aux : List Nat) : Dev :=
  d.onHif fun h => { h with standing := h.standing ++ [⟨x, d.now, 0, 0, false, [], none, aux, [], []⟩] }

/-- The words of a post of equal buffers: base, size and count (R162, R189, R519). -/
def bufferMasks (extra : Nat) : List (Nat × Nat) := [(3, allBits), (4, allBits), (5, allBits), (6, 0xFFFF ||| extra)]

/-- Whether base, size and count of a post of buffers are outside R162. -/
def Desc.buffersBad (x : Desc) : Bool :=
  x.w 3 % 4096 ≠ 0 || x.w 5 % 4096 ≠ 0 || decide (x.w 5 < 4096 ∨ 4194304 < x.w 5) ||
    decide (x.w 6 % 65536 < 2 ∨ 4096 < x.w 6 % 65536)

/-- The post of an opcode that stands on an object or is staged or due to stand. -/
def Dev.posted (d : Dev) (opcode obj : Nat) : Bool :=
  (d.standing? opcode obj).isSome || (d.hif.staged ++ d.hif.due).any fun y => y.opcode = opcode && y.object = obj

/-- The buffers that a delivery of `n` buffers would use. -/
def Standing.nextBuffers (s : Standing) (n : Nat) : List Nat :=
  let k := s.desc.w 6 % 65536
  (List.range n).map fun i => (s.next + i) % k

/-- Whether more live host traffic is admitted than the link carries: it has trained below ×8 and 8 GT/s (R117). -/
def Dev.hostShort (d : Dev) : Bool :=
  let t := d.hostTraffic
  let m := d.hostScale 5000
  !d.flag Reg.hifLinkStatus F.hifLinkStatus_fullRate && decide (m < t.1 ∨ m < t.2)

/-- Whether a delivery due at the boundary of a Stroke comes too late to be written (R117). -/
def Dev.tooLate (d : Dev) (due : Nat) : Bool := d.hostShort && decide (due < d.now)

/-- A delivery is lost: the next completion written carries GAP (R164). -/
def Dev.loseDelivery (d : Dev) (x : Desc) : Dev := d.onStanding (·.is x) fun s => { s with gap := true }

/-- One delivery into host buffers (R163, R164). `first` are flags of its first completion, `last` of its last, `all` of each; `content`
are its words, where the model holds them. When a buffer it would use is not free the whole delivery is lost, and the next completion
written carries GAP. -/
def Dev.deliverUnit (d : Dev) (s : Standing) (bytes status all first last w5 w6 : Nat) (content : Option (List Nat) := none) : Dev :=
  let x := s.desc
  let size := x.w 5
  let n := max 1 (cdiv bytes size)
  let bufs := s.nextBuffers n
  if x.w 6 % 65536 < n || bufs.any fun b => s.isBusy b then d.loseDelivery x
  else
    let d := (bufs.zipIdx).foldl (fun d p =>
      let here := min size (bytes - p.2 * size)
      let flags := all + (if p.2 = 0 then first + 2 ^ 20 * bit s.gap else 0) + (if p.2 + 1 = n then last else 2 ^ 19)
      let a := x.addr 3 + p.1 * size
      let out := match content with
        | none => Output.hostData x.crew a here
        | some l => .hostWrite x.crew a ((l.drop (p.2 * size / 4)).take (here / 4))
      (d.emit out).deliver s p.1 status [here, flags + p.1, w5, w6]) d
    d.onStanding (·.is x) fun s =>
      { s with next := (s.next + n) % (x.w 6 % 65536), count := s.count + 1, gap := s.gapLeft (bufs.headD 0) }

/-- A descriptor that ends a standing one: it completes DONE, then the standing one DONE with its delivery count; with none
standing it is refused (R165, R193, R519, R526). -/
def Dev.stopPost (d : Dev) (x : Desc) (s? : Option Standing) : Dev :=
  match s? with
  | none => d.finish x 0x13 []
  | some s => (d.finish x 0 []).endStanding s 0 [s.count]

/-- Objects disabled at a boundary end what names them with ABORT_SHUTDOWN (R165, R193, R321, R556): staged and due
descriptors, and standing ones, in ring order. -/
def Dev.abortObject (d : Dev) (k : ObjKind) : Dev :=
  d.endDescs (fun x => x.kind == k) 0x23

end Sys2Proof.Machine
end

