-- ==== Sys2Proof/Machine/Lanes.lean ====
section
/-! DEFINITION. Lanes and ports (R326–R347): start, loss of lock, warm relock and cold start, snapshots, the idle guard, test
patterns, and ports going up and down. -/

namespace Sys2Proof.Machine

/-! ## Lanes as they stand -/

/-- What an unlisted lane reads as. -/
def newLane (_ : Nat) : LaneDyn := {}

/-- A lane beside its registers. -/
def Dev.lane (d : Dev) (l : Nat) : LaneDyn := Tab.get newLane d.lan.lanes l

/-- Changes a lane beside its registers. -/
def Dev.onLane (d : Dev) (l : Nat) (f : LaneDyn → LaneDyn) : Dev :=
  { d with lan := { d.lan with lanes := Tab.upd newLane d.lan.lanes l f } }

/-- States of a lane (LANE_STATUS.STATE). -/
inductive LaneState where
  | off | coldAdapt | training | locked | warmRelock | test
  deriving DecidableEq, Repr

/-- The code of a lane state. -/
def LaneState.code : LaneState → Nat
  | .off => 0 | .coldAdapt => 1 | .training => 2 | .locked => 3 | .warmRelock => 4 | .test => 5

/-- A lane's state. -/
def Dev.laneState (d : Dev) (l : Nat) : Nat := d.fld (Reg.laneStatus l) F.laneStatus_state

/-- Sets a lane's state with its two lock bits. -/
def Dev.setLane (d : Dev) (l : Nat) (s : LaneState) : Dev :=
  let lk := bit (s == .locked)
  let a := Reg.laneStatus l
  ((d.setFld a F.laneStatus_state s.code).setFld a F.laneStatus_cdrLock lk).setFld a F.laneStatus_blockLock lk

/-- MODE of a group: 0 FULL100, 1 QUAD, 2 TEST. -/
def Dev.groupMode (d : Dev) (p : Nat) : Nat := d.fld (Reg.portGroupCfg p) F.portGroupCfg_mode

/-- The MAC instance of a lane: its own in QUAD, the group's first in FULL100 (R330). -/
def Dev.laneMac (d : Dev) (l : Nat) : Nat := if d.groupMode (l / 4) = 1 then l else l / 4 * 4

/-- Whether a lane runs: its group is enabled, and in QUAD its MAC instance too. DEDUCED (notes/assumptions/40.md). -/
def Dev.laneOn (d : Dev) (l : Nat) : Bool :=
  d.flag (Reg.portGroupCfg (l / 4)) F.portGroupCfg_enable &&
    (d.groupMode (l / 4) ≠ 1 || d.flag (Reg.portMacCtl l) F.portMacCtl_enable)

/-- Whether the port of a lane negotiates: AN is 1 and it is no 10G sub-port (R332). -/
def Dev.negotiates (d : Dev) (l : Nat) : Bool :=
  d.flag (Reg.portGroupCfg (l / 4)) F.portGroupCfg_an &&
    !(d.groupMode (l / 4) = 1 && d.flag (Reg.portMacCtl l) F.portMacCtl_speed)

/-- Whether the port of a lane trains (R332). -/
def Dev.trains (d : Dev) (l : Nat) : Bool := d.negotiates l && d.flag (Reg.portGroupCfg (l / 4)) F.portGroupCfg_train

/-- A lane's mode as snapshots are kept for: MODE with SPEED (R334). -/
def Dev.laneMode (d : Dev) (l : Nat) : Nat :=
  let m := d.groupMode (l / 4)
  if m = 1 then 1 + 2 * d.fld (Reg.portMacCtl l) F.portMacCtl_speed else m

/-! ## Records and ports -/

/-- Path and lane events of the record log. DESIGN CHOICE: R524 names the event and gives it no number (notes/assumptions/36.md). -/
inductive PathEvent where
  | lockLost | locked | revert | portDown | portUp | failOver | ptpRevert | mismatch
  deriving DecidableEq, Repr

/-- The number of a path or lane event. -/
def PathEvent.code : PathEvent → Nat
  | .lockLost => 1 | .locked => 2 | .revert => 3 | .portDown => 4 | .portUp => 5 | .failOver => 6 | .ptpRevert => 7
  | .mismatch => 8

/-- Records a path or lane event in the log of CREW_0 (R49, R341, R524). -/
def Dev.pathEvent (d : Dev) (what : Nat) (e : PathEvent) : Dev := d.record 0 0x0B 0 0 [what, e.code]

/-- Whether the link of a MAC instance is up. -/
def Dev.linkUp (d : Dev) (m : Nat) : Bool := d.flag (Reg.portMacStatus m) F.portMacStatus_link

/-- The sub-ports of a group that are enabled. -/
def Dev.subPorts (d : Dev) (p : Nat) : List Nat :=
  if d.groupMode p = 1 then (List.range 4).filterMap fun k => if d.laneOn (4 * p + k) then some (4 * p + k) else none
  else [4 * p]

/-- PORT_GROUP_STATUS.STATE of a group. -/
def Dev.groupState (d : Dev) (p : Nat) : Nat :=
  let ls := (List.range 4).map fun k => 4 * p + k
  if !d.flag (Reg.portGroupCfg p) F.portGroupCfg_enable then 0
  else if d.groupMode p = 2 then 6
  else if (d.subPorts p).all fun m => d.linkUp m then 4
  else if (d.subPorts p).any fun m => d.negotiates m && !d.flag (Reg.portMacStatus m) F.portMacStatus_anDone then 1
  else if ls.any fun l => d.laneState l = 2 then 2
  else if d.groupMode p = 0 && ls.all fun l => d.laneState l = 3 then 3
  else 5

/-- Shows STATE and LANE_LOCK of a group. -/
def Dev.showGroup (d : Dev) (p : Nat) : Dev :=
  let lock := sumBy (fun k => d.fld (Reg.laneStatus (4 * p + k)) F.laneStatus_blockLock * 2 ^ k) (List.range 4)
  (d.setFld (Reg.portGroupStatus p) F.portGroupStatus_state (d.groupState p)).setFld (Reg.portGroupStatus p)
    F.portGroupStatus_laneLock lock

/-- What an unlisted list reads as. -/
def noList {α : Type} (_ : Nat) : List α := []

/-- Adds to a 64-bit MAC counter (R354). -/
def Dev.macCount (d : Dev) (m i n : Nat) : Dev :=
  let v := (d.reg (Reg.portMacCntLo m i)).toNat + (d.reg (Reg.portMacCntHi m i)).toNat * 2 ^ 32 + n
  (d.setReg (Reg.portMacCntLo m i) (BitVec.ofNat 32 v)).setReg (Reg.portMacCntHi m i) (BitVec.ofNat 32 (v / 2 ^ 32))

/-- The port of a MAC instance goes down: local fault, remote fault sent, waiting frames discarded and counted (R338,
R339). -/
def Dev.portDown (d : Dev) (m : Nat) : Dev :=
  let st := Reg.portMacStatus m
  if !d.linkUp m then d.setFld st F.portMacStatus_localFault 1
  else
    let waiting := Tab.get noList d.egs.control m
    let n := waiting.length + (Tab.get noList d.egs.layout m).length
    let d := ((d.setFld st F.portMacStatus_link 0).setFld st F.portMacStatus_localFault 1).addFld
      (Reg.portGroupStatus (m / 4)) F.portGroupStatus_downs 1
    let d := (d.setFld (Reg.portGroupStatus (m / 4)) F.portGroupStatus_aligned 0).macCount m 10 n
    let d := waiting.foldl (fun d w => match w.2.1 with
      | some x => d.finish x 0x20 []
      | none => d) d
    { d with egs := { d.egs with control := Tab.put noList d.egs.control m [], layout := Tab.put noList d.egs.layout m [] }
             lan := { d.lan with upFrom := Tab.put zero d.lan.upFrom m 0 } }.pathEvent m .portDown

/-! ## Starting and stopping a lane -/

/-- Names a new receiver state and shows it (R328). -/
def Dev.setEq (d : Dev) (l eq : Nat) : Dev :=
  let a := Reg.laneAdapt l
  ((d.onLane l fun x => { x with eq := eq }).setFld a F.laneAdapt_ctle (Config.laneAdapt eq).1).setFld a F.laneAdapt_dfe1
    (Config.laneAdapt eq).2

/-- Adaptation moves the receiver to a state that the spec does not fix: a free value. -/
def Dev.adapt (d : Dev) (l : Nat) : Dev :=
  let p := d.fresh
  p.2.setEq l (p.1 + 1)

/-- The staged taps are in force on a transmitter (R327). -/
def Dev.takeTaps (d : Dev) (l : Nat) : Dev :=
  let f := Reg.laneTxfir l
  let a := Reg.laneAdapt l
  ((d.setFld a F.laneAdapt_txCm1 (d.fld f F.laneTxfir_cM1)).setFld a F.laneAdapt_txC0 (d.fld f F.laneTxfir_c0)).setFld a
    F.laneAdapt_txC1 (d.fld f F.laneTxfir_c1)

/-- The snapshot of a lane becomes invalid (R334, R337). -/
def Dev.dropSnap (d : Dev) (l : Nat) : Dev :=
  (d.onLane l fun x => { x with snap := none, run := 0, least := 255 }).setFld (Reg.laneStatus l) F.laneStatus_snapValid 0

/-- A cold start: full adaptation, with training where the port trains (R334, R337). -/
def Dev.coldStart (d : Dev) (l : Nat) : Dev :=
  let d := (((d.dropSnap l).adapt l).takeTaps l).onLane l fun x => { x with begun := true }
  let d := (d.setFld (Reg.laneStatus l) F.laneStatus_frozen 0).addFld (Reg.laneCnt l) F.laneCnt_coldStarts 1
  d.setLane l (if d.trains l then .training else .coldAdapt)

/-- A warm start from a receiver state (R334, R337). -/
def Dev.warmStart (d : Dev) (l eq : Nat) : Dev :=
  ((d.setEq l eq).setFld (Reg.laneStatus l) F.laneStatus_frozen 0).setLane l .warmRelock

/-- A lane starts as a group's settings now ask: in TEST it takes patterns; the first time after a reset of NET it starts from
the saved snapshot of its mode where USE_SNAP and such a snapshot allow; else cold (R334, R344). -/
def Dev.startLane (d : Dev) (l : Nat) : Dev :=
  if !d.laneOn l then (d.onLane l fun x => { x with lost := none, rate := none }).setLane l .off
  else if d.groupMode (l / 4) = 2 then (d.onLane l fun x => { x with begun := true, lost := none }).setLane l .test
  else
    let d := d.onLane l fun x => { x with lost := none }
    match d.nvm.snapshots.find? fun x => x.1 = l ∧ x.2.1 = d.laneMode l with
    | some (_, _, eq, margin) =>
      if !(d.lane l).begun && d.flag (Reg.laneCtl l) F.laneCtl_useSnap then
        let d := (d.onLane l fun x => { x with begun := true, snap := some eq }).takeTaps l
        let d := (d.setFld (Reg.laneStatus l) F.laneStatus_snapValid 1).setFld (Reg.laneStatus l) F.laneStatus_snapMargin margin
        d.warmStart l eq
      else d.coldStart l
    | none => d.coldStart l

/-- The lanes whose settings a commit has changed start again, and their ports go down (R342). `old` gives the registers
before the effect. -/
def Dev.lanesAfterCommit (old : Nat → Word) (d : Dev) : Dev :=
  (List.range 64).foldl (fun d l =>
    let g := Reg.portGroupCfg (l / 4)
    let m := Reg.portMacCtl l
    let grp := old g &&& 0x8F800000 != d.reg g &&& 0x8F800000
    let mac := d.groupMode (l / 4) = 1 && (old m &&& 0xF0000000 != d.reg m &&& 0xF0000000)
    if grp || mac then
      let d := d.portDown (d.laneMac l)
      let d := d.setFld (Reg.portMacStatus l) F.portMacStatus_anDone 0
      (d.startLane l).showGroup (l / 4)
    else if old (Reg.laneTxfir l) != d.reg (Reg.laneTxfir l) && !d.trains l && d.laneOn l then d.takeTaps l
    else d) d

/-! ## Loss of lock, relock (R337–R341) -/

/-- LANE_RELOCK kinds (R340). -/
inductive RelockKind where
  | warm | cold | revert
  deriving DecidableEq, Repr

/-- The kind's number. -/
def RelockKind.code : RelockKind → Nat
  | .warm => 1 | .cold => 2 | .revert => 3

/-- LANE_RELOCK to CREW_0 (R340). -/
def Dev.laneRelock (d : Dev) (l : Nat) (k : RelockKind) (us margin : Nat) : Dev :=
  d.postEvent 0 .laneRelock 0 [pack [(k.code, 24), (l, 0)], min us 0xFFFFFFFF, margin % 256, 0]

/-- A locked lane loses lock: warm with a valid snapshot, cold without one, and cold with the snapshot invalidated within 1 s of
a warm relock (R337). The port or sub-port goes down (R338, R339). -/
def Dev.laneLoss (d : Dev) (l ns : Nat) : Dev :=
  if d.laneState l ≠ LaneState.locked.code then d
  else
    let t := d.localNs ns
    let x := d.lane l
    let soon := match x.warmAt with
      | some w => decide (t < w + 1000000000)
      | none => false
    let d := (d.onLane l fun x => { x with lost := some t, run := 0, least := 255 }).pathEvent l .lockLost
    let d := match x.snap with
      | some eq => if soon then d.coldStart l else d.warmStart l eq
      | none => d.coldStart l
    (d.portDown (d.laneMac l)).showGroup (l / 4)

/-- LANE_LOCK_LOSS. -/
def execLaneLockLoss (lane ns : Nat) (s : State) : Host.Outcome State Fault Refusal := s.lift fun d => d.laneLoss lane ns

/-- WARM_RELOCK_TIMEOUT (R337): 2 ms after the loss the lane falls back to a cold start. -/
def execWarmRelockTimeout (lane : Nat) (s : State) : Host.Outcome State Fault Refusal :=
  s.lift fun d =>
    if d.laneState lane = LaneState.warmRelock.code then (d.coldStart lane).showGroup (lane / 4) else d

/-- A lane that starts or relocks achieves lock. After a loss it is recorded and LANE_RELOCK is raised; a warm relock is
counted (R337, R340, R341). -/
def Dev.laneLocked (d : Dev) (l ns margin : Nat) : Dev :=
  let st := d.laneState l
  if st ≠ 1 ∧ st ≠ 2 ∧ st ≠ 4 then d
  else
    let t := d.localNs ns
    let warm := st = LaneState.warmRelock.code
    let x := d.lane l
    let d := (d.setLane l .locked).onLane l fun x => { x with lost := none, run := 0, least := 255 }
    match x.lost with
    | none => d.showGroup (l / 4)
    | some t0 =>
      let d := (d.pathEvent l .locked).laneRelock l (if warm then .warm else .cold) ((t - t0) / 1000) margin
      let d := if warm then (d.onLane l fun x => { x with warmAt := some t }).addFld (Reg.laneCnt l) F.laneCnt_relocks 1 else d
      d.showGroup (l / 4)

/-- LANE_LOCK (R340). -/
def execLaneLock (lane ns margin : Nat) (s : State) : Host.Outcome State Fault Refusal :=
  s.lift fun d => d.laneLocked lane ns margin

/-- FEC in force of a MAC instance without negotiation: Clause 91 in FULL100, else the staged FEC (R330, R332). -/
def Dev.plainFec (d : Dev) (m : Nat) : Nat :=
  if d.groupMode (m / 4) = 0 then 3 else d.fld (Reg.portMacCtl m) F.portMacCtl_fec

/-- Whether the port or sub-port of a MAC instance can come up: it is enabled, its lanes are locked, and its negotiation is
done (R332, R338). -/
def Dev.canUp (d : Dev) (m : Nat) : Bool :=
  d.laneOn m && !d.linkUp m && d.groupMode (m / 4) ≠ 2 &&
    (if d.groupMode (m / 4) = 1 then d.laneState m = 3
     else m % 4 = 0 && (List.range 4).all fun k => d.laneState (m + k) = 3) &&
    (!d.negotiates m || d.flag (Reg.portMacStatus m) F.portMacStatus_anDone)

/-- PORT_UP (R338, R341): the port aligns and accepts egress from the next Stroke boundary on. -/
def execPortUp (group sub : Nat) (s : State) : Host.Outcome State Fault Refusal :=
  s.lift fun d =>
    let m := 4 * group + sub
    let st := Reg.portMacStatus m
    if !d.canUp m then d
    else
      let d := (d.setFld st F.portMacStatus_link 1).setFld st F.portMacStatus_localFault 0
      let d := if d.negotiates m then d else d.setFld st F.portMacStatus_fec (d.plainFec m)
      let d := d.setFld (Reg.portGroupStatus group) F.portGroupStatus_aligned (bit (d.groupMode group = 0))
      let d := { d with lan := { d.lan with upFrom := Tab.put zero d.lan.upFrom m (d.now + 2) } }
      (d.pathEvent m .portUp).showGroup group

/-- The lanes of the port of a MAC instance. -/
def Dev.portLanes (d : Dev) (m : Nat) : List Nat :=
  if d.groupMode (m / 4) = 1 then [m] else (List.range 4).map fun k => m / 4 * 4 + k

/-- AN_COMPLETE (R332): the resolved FEC is in force, and training has set the taps. -/
def execAnComplete (group sub fec : Nat) (s : State) : Host.Outcome State Fault Refusal :=
  s.lift fun d =>
    let m := 4 * group + sub
    let st := Reg.portMacStatus m
    if !(d.laneOn m && d.negotiates m && (d.groupMode group = 1 || sub = 0)) then d
    else
      let d := (d.setFld st F.portMacStatus_anDone 1).setFld st F.portMacStatus_fec (if d.groupMode group = 0 then 3 else fec)
      let d := if !d.trains m then d else (d.portLanes m).foldl (fun d l =>
        let p := d.fresh
        let t := Config.laneTrained p.1
        let a := Reg.laneAdapt l
        ((p.2.setFld a F.laneAdapt_txCm1 t.1).setFld a F.laneAdapt_txC0 t.2.1).setFld a F.laneAdapt_txC1 t.2.2) d
      d.showGroup group

/-! ## Margins, snapshots, the idle guard (R329, R333–R336) -/

/-- Whether a revert is barred: one occurred less than 1 s ago and the margin has not been good since (R336). -/
def Dev.revertBarred (d : Dev) (l : Nat) : Bool :=
  match (d.lane l).revertAt with
  | none => false
  | some s => decide (d.now < s + 8000)

/-- What an unlisted lane's least margin reads as. -/
def fullMargin (_ : Nat) : Nat := 255

/-- One more sample towards a snapshot, which the 1,000th takes (R333). -/
def Dev.snapSample (d : Dev) (l margin : Nat) : Dev :=
  let x := d.lane l
  let st := Reg.laneStatus l
  if x.snap.isSome && decide (margin < d.fld st F.laneStatus_snapMargin) then
    d.onLane l fun x => { x with run := 0, least := 255 }
  else if x.run + 1 < 1000 then d.onLane l fun x => { x with run := x.run + 1, least := min x.least margin }
  else
    let d := d.onLane l fun x => { x with snap := some x.eq, run := 0, least := 255 }
    (d.setFld st F.laneStatus_snapValid 1).setFld st F.laneStatus_snapMargin (min x.least margin)

/-- MARGIN_SAMPLE (R329): the sample, which the next health report counts (R389), the revert of a frozen lane whose margin is low (R336), the snapshot (R333), and
adaptation (R328). -/
def execMarginSample (lane margin after : Nat) (s : State) : Host.Outcome State Fault Refusal :=
  s.lift fun d =>
    let st := Reg.laneStatus lane
    let margin := min margin 255
    let frozen := d.flag st F.laneStatus_frozen
    let held := d.fld (Reg.laneCtl lane) F.laneCtl_adapt = 1
    let d := d.setFld st F.laneStatus_margin margin
    let d := { d with lan := { d.lan with margins := Tab.upd fullMargin d.lan.margins lane (min margin) } }
    if d.laneState lane ≠ LaneState.locked.code then d
    else
      let min := d.fld (Reg.laneGuard lane) F.laneGuard_marginMin
      let d := if decide (min ≤ margin) then d.onLane lane fun x => { x with revertAt := none } else d
      if (frozen || held) && decide (margin < min) then
        match (d.lane lane).snap with
        | none => d
        | some eq =>
          if d.revertBarred lane then d
          else
            let d := (d.setEq lane eq).onLane lane fun x => { x with revertAt := some d.now, run := 0, least := 255 }
            ((d.addFld (Reg.laneCnt lane) F.laneCnt_reverts 1).pathEvent lane .revert).laneRelock lane .revert 0 after
      else
        let d := if frozen then d.onLane lane fun x => { x with run := 0, least := 255 } else d.snapSample lane margin
        if frozen || held then d else d.adapt lane

/-- One lane at the end of an idle window (R335). -/
def Dev.guardLane (d : Dev) (l idle : Nat) : Dev :=
  let st := Reg.laneStatus l
  let d := d.setFld st F.laneStatus_idlePct (idle * 100 / 65536)
  if !d.flag (Reg.laneGuard l) F.laneGuard_guardEn then d
  else if 62260 ≤ idle then d.setFld st F.laneStatus_frozen 1
  else if idle ≤ 58982 then d.setFld st F.laneStatus_frozen 0
  else d

/-- IDLE_WINDOW_END (R335); in FULL100 the result applies to all four lanes. -/
def execIdleWindowEnd (lane idleBlocks : Nat) (s : State) : Host.Outcome State Fault Refusal :=
  s.lift fun d => (d.portLanes lane).foldl (fun d l => d.guardLane l idleBlocks) d

/-- LANE_SNAP_SAVE (R334): every valid snapshot goes to NVM calibration in one record. -/
def Dev.snapCtlWrite (d : Dev) (fn value : Nat) : Dev :=
  if !d.mayWrite fn Reg.laneSnapCtl || value % 2 = 0 || d.flag Reg.laneSnapCtl F.laneSnapCtl_save then d
  else
    let l := (List.range 64).filterMap fun l =>
      ((d.lane l).snap).map fun eq => (l, d.laneMode l, eq, d.fld (Reg.laneStatus l) F.laneStatus_snapMargin)
    ((d.setFld Reg.laneSnapCtl F.laneSnapCtl_save 1).setFld Reg.laneSnapCtl F.laneSnapCtl_busy 1).save (.snapshots l)

/-- LANE_SNAP_SAVE. -/
def execLaneSnapSave (fn value : Nat) (s : State) : Host.Outcome State Fault Refusal :=
  s.lift fun d => d.snapCtlWrite fn value

/-! ## Writes of lane registers (R328, R337, R344–R346) -/

/-- What a lane's transmitter sends: 0 coded data or silence, 1–6 the generator's pattern of that code, 7 the received data that far-end
loopback retransmits (R345, R347). -/
def Dev.laneSends (d : Dev) (l : Nat) : Nat :=
  if d.groupMode (l / 4) ≠ 2 then 0
  else if d.fld (Reg.laneCtl l) F.laneCtl_loopback = 2 then 7 else d.fld (Reg.laneTest l) F.laneTest_gen

/-- The code of what a lane's receiver hears under near-end loopback: its own transmit data (R347); none where it hears the line. -/
def Dev.laneHears (d : Dev) (l : Nat) : Option Nat :=
  if d.groupMode (l / 4) = 2 && d.fld (Reg.laneCtl l) F.laneCtl_loopback = 1 then some (d.fld (Reg.laneTest l) F.laneTest_gen) else none

/-- A write of LANE_CTL: polarity is staged; ADAPT 2 starts the lane cold and reads 0, ADAPT 3 is ignored; LOOPBACK is taken
only in TEST, 3 is ignored, and the transmitter changes over to or from the received data (R344, R347). -/
def Dev.laneCtlWrite (d : Dev) (fn l value : Nat) : Dev :=
  let a := Reg.laneCtl l
  let w := BitVec.ofNat 32 value
  if !d.mayWrite fn a then d
  else
    let loop := F.laneCtl_loopback.get w
    let ad := F.laneCtl_adapt.get w
    let d := d.stage fn a w
    let sent := d.laneSends l
    let d := if d.groupMode (l / 4) = 2 && loop ≠ 3 then d.setFld a F.laneCtl_loopback loop else d
    let d := if d.laneSends l ≠ sent then d.emit (.line l (d.laneSends l)) else d
    if ad = 3 then d
    else if ad = 2 then
      let d := d.setFld a F.laneCtl_adapt 0
      if d.laneOn l && d.groupMode (l / 4) ≠ 2 then
        (((d.onLane l fun x => { x with lost := none }).portDown (d.laneMac l)).coldStart l).showGroup (l / 4)
      else d
    else d.setFld a F.laneCtl_adapt ad

/-- LANE_RESTART_COLD (R337): a write of ADAPT RESTART_COLD. -/
def execLaneRestartCold (fn lane value : Nat) (s : State) : Host.Outcome State Fault Refusal :=
  s.lift fun d => d.laneCtlWrite fn lane value

/-- The checker of a lane in near-end loopback sees `n` inverted bits of its own generator, next to each other: it counts them, and with 16
of them it loses lock (R345, R347). DEDUCED (notes/assumptions/75.md): it counts no more than those 16. -/
def Dev.hearErrors (d : Dev) (l n : Nat) : Dev :=
  let a := Reg.laneChkErr l
  if (d.laneHears l).isNone || !d.flag a F.laneChkErr_chkLock then d
  else
    let d := d.satFld a F.laneChkErr_errors (min 16 n)
    if 16 ≤ n then d.setFld a F.laneChkErr_chkLock 0 else d

/-- The injection that INJ_GO starts (R346). -/
def Dev.injectGo (d : Dev) (l : Nat) : Dev :=
  let t := Reg.laneTest l
  let n := d.fld t F.laneTest_injParam
  match d.fld t F.laneTest_inj with
  | 1 => (d.emit (.inject l 1 1)).hearErrors l 1
  | 2 => if 1 ≤ n then (d.emit (.inject l 2 n)).hearErrors l n else d
  | 3 => if 4 ≤ n ∧ n ≤ 40 then (d.onLane l fun x => { x with rate := some n }).emit (.inject l 3 n) else d
  | _ => d

/-- A write of LANE_TEST, taken only in TEST (R344): GEN and CHK 7 are ignored, a write of CHK clears the error count, INJ 0
ends a rate injection, and INJ_GO injects (R345, R346). -/
def Dev.laneTestWrite (d : Dev) (fn l value : Nat) : Dev :=
  let a := Reg.laneTest l
  let w := BitVec.ofNat 32 value
  if !d.mayWrite fn a || d.groupMode (l / 4) ≠ 2 then d
  else
    let g := F.laneTest_gen.get w
    let c := F.laneTest_chk.get w
    let d := if g = 7 then d else d.setFld a F.laneTest_gen g
    let d := if c = 7 then d else (d.setFld a F.laneTest_chk c).setReg (Reg.laneChkErr l) 0
    let d := (d.setFld a F.laneTest_inj (F.laneTest_inj.get w)).setFld a F.laneTest_injParam (F.laneTest_injParam.get w)
    let d := if F.laneTest_inj.get w = 0 then d.onLane l fun x => { x with rate := none } else d
    if F.laneTest_injGo.get w = 1 then d.injectGo l else d

/-- LANE_TEST_WRITE (R345). -/
def execLaneTestWrite (fn lane value : Nat) (s : State) : Host.Outcome State Fault Refusal :=
  s.lift fun d => d.laneTestWrite fn lane value

/-- INJ_GO (R346). -/
def execInjGo (fn lane value : Nat) (s : State) : Host.Outcome State Fault Refusal :=
  s.lift fun d => d.laneTestWrite fn lane value

/-- CHECKER_LOCK (R345): 64 error-free bits; in near-end loopback of its own pattern, which the lane's generator must send (R347). -/
def execCheckerLock (lane : Nat) (s : State) : Host.Outcome State Fault Refusal :=
  s.lift fun d =>
    let chk := d.fld (Reg.laneTest lane) F.laneTest_chk
    if d.laneState lane = LaneState.test.code && chk ≠ 0 && (d.laneHears lane).all (· == chk) then
      d.setFld (Reg.laneChkErr lane) F.laneChkErr_chkLock 1
    else d

/-- CHECKER_LOCK_LOSS (R345): the bit errors counted since the lock, 16 of them within 64 bits, and the loss. -/
def execCheckerLockLoss (lane errors : Nat) (s : State) : Host.Outcome State Fault Refusal :=
  s.lift fun d =>
    let a := Reg.laneChkErr lane
    if !d.flag a F.laneChkErr_chkLock then d
    else (d.satFld a F.laneChkErr_errors errors).setFld a F.laneChkErr_chkLock 0

/-- MAC_COUNTER_LO_READ (R354): the read returns the low word and latches the high one. -/
def execMacCounterLoRead (fn mac counter : Nat) (s : State) : Host.Outcome State Fault Refusal :=
  s.lift fun d =>
    let a := Reg.portMacCntLo mac counter
    if !d.sees fn a then d.emit (.read fn a 0)
    else
      { d with latch := Tab.put (fun _ => Option.none) d.latch (Reg.portMacCntHi mac counter)
                 (some (d.reg (Reg.portMacCntHi mac counter)).toNat) }.emit (.read fn a (d.reg a).toNat)

end Sys2Proof.Machine
end

