-- ==== Sys2Proof/Machine/Time.lean ====
section
/-! DEFINITION. The local clock (R395–R397), its servo (R398–R400), the temperature correction (R405), the time of day (R404),
timed pins and captures (R406–R408). -/

namespace Sys2Proof.Machine

/-- Changes TIME beside its registers. -/
def Dev.onTim (d : Dev) (f : Tim → Tim) : Dev := { d with tim := f d.tim }

/-- The local time in ns at the latest instant that a command has named. -/
def Dev.nowNs (d : Dev) : Nat := d.localNs d.stk.phase

/-- An instant within the current Stroke is reached (STK_PHASE). -/
def Dev.atNs (d : Dev) (ns : Nat) : Dev := { d with stk := { d.stk with phase := ns } }

/-- Whether live work is admitted (STK_STATUS.LIVE). -/
def Dev.live (d : Dev) : Bool := d.flag Reg.stkStatus F.stkStatus_live

/-- Whether REPLAY mode is on (R527). -/
def Dev.replay (d : Dev) : Bool := d.flag Reg.rplCtl F.rplCtl_replay

/-! ## Increment (R395, R396) -/

/-- The base increment in 2^-32 ns. -/
def Dev.baseInc (d : Dev) : Nat := (d.reg Reg.timeIncInt).toNat % 16 * 2 ^ 32 + (d.reg Reg.timeIncFrac).toNat

/-- The bound of R396 on the deviation from 2.0 ns. -/
def Dev.incBound (d : Dev) : Int := if d.live then 429496 else 4294967

/-- The deviation before the clamp: base increment and temperature correction. -/
def Dev.rawDeviation (d : Dev) : Int := (d.baseInc : Int) - 2 * 2 ^ 32 + d.tim.corr

/-- The effective increment is formed: TIME_INC_EFF and CLAMPED (R396). -/
def Dev.showInc (d : Dev) : Dev :=
  let b := d.incBound
  let v := d.rawDeviation
  let e := max (-b) (min b v)
  (d.setReg Reg.timeIncEff (BitVec.ofInt 32 e)).setFld Reg.timeStatus F.timeStatus_clamped (bit (decide (e ≠ v)))

/-- Sets the base increment. -/
def Dev.setInc (d : Dev) (v : Nat) : Dev :=
  ((d.setReg Reg.timeIncInt (BitVec.ofNat 32 (v / 2 ^ 32 % 16))).setReg Reg.timeIncFrac (BitVec.ofNat 32 v)).showInc

/-- SERVO BASIC (R398). -/
def Dev.basicServo (d : Dev) : Bool := d.fld Reg.timeCtl F.timeCtl_servo = 0

/-- A host write of TIME_INC_INT or TIME_INC_FRAC: taken under EXPERT, discarded under BASIC (R398). -/
def Dev.incWrite (d : Dev) (fn a value : Nat) : Dev :=
  if d.basicServo || !d.mayWrite fn a then d
  else (d.setReg a (BitVec.ofNat 32 (if a = Reg.timeIncInt then value % 16 else value))).showInc

/-- TIME_INC_WRITE (R398). -/
def execTimeIncWrite (fn offset value : Nat) (s : State) : Host.Outcome State Fault Refusal :=
  s.lift fun d => if offset = Reg.timeIncInt ∨ offset = Reg.timeIncFrac then d.incWrite fn offset value else d

/-! ## Timed outputs (R406, R407) -/

/-- What an unlisted timed output reads as. -/
def newOut (_ : Nat) : TimeOut := {}

/-- A timed output beside its registers; 8 is PPS_OUT. -/
def Dev.timeOut (d : Dev) (n : Nat) : TimeOut := Tab.get newOut d.tim.outs n

/-- Changes a timed output. -/
def Dev.onOut (d : Dev) (n : Nat) (f : TimeOut → TimeOut) : Dev :=
  d.onTim fun t => { t with outs := Tab.upd newOut t.outs n f }

/-- Seconds and nanoseconds words as local time in ns. -/
def timeWords (ns lo hi : Nat) : Nat := (lo + hi % 65536 * 2 ^ 32) * 1000000000 + ns % 2 ^ 30

/-- START of a timed output. -/
def Dev.outStart (d : Dev) (n : Nat) : Nat :=
  timeWords (d.reg (Reg.timeOutStartNs n)).toNat (d.reg (Reg.timeOutStartSecLo n)).toNat (d.reg (Reg.timeOutStartSecHi n)).toNat

/-- The period as PER_NS × PER_DEN + PER_NUM and PER_DEN (R406). -/
def Dev.outPeriod (d : Dev) (n : Nat) : Nat × Nat :=
  let f := (d.reg (Reg.timeOutPerFrac n)).toNat
  let den := f % 65536
  ((d.reg (Reg.timeOutPerNs n)).toNat % 2 ^ 30 * den + f / 65536, den)

/-- The whole ns at or after edge `j` (R406). -/
def Dev.outEdge (d : Dev) (n j : Nat) : Nat :=
  let p := d.outPeriod n
  d.outStart n + cdiv (j * p.1) p.2

/-- The first edge at or after a local time. -/
def Dev.outFirst (d : Dev) (n t : Nat) : Nat :=
  let p := d.outPeriod n
  if t ≤ d.outStart n then 0 else cdiv ((t - d.outStart n) * p.2) p.1

/-- MODE of a timed output: 0 OFF, 1 ONCE, 2 PERIODIC. -/
def Dev.outMode (d : Dev) (n : Nat) : Nat := d.fld (Reg.timeOutCfg n) F.timeOutCfg_mode

/-- A commit's settings of a timed output take effect (R407). -/
def Dev.outCommit (d : Dev) (n : Nat) : Dev :=
  let t := d.now * 125000
  match d.outMode n with
  | 1 =>
    if d.outStart n < t then
      (d.addFld (Reg.timeOutCfg n) F.timeOutCfg_missed 1).onOut n fun o => { o with next := none }
    else d.onOut n fun o => { o with next := some 0 }
  | 2 => d.onOut n fun o => { o with next := some (d.outFirst n t) }
  | _ => d.onOut n fun _ => newOut n

/-- A clock step moves a timed output's schedule: edges that a forward step passes are counted in SKIPPED; after a backward
step the schedule is given again (R407). -/
def Dev.outStep (d : Dev) (n old new : Nat) : Dev :=
  let o := d.timeOut n
  match d.outMode n, o.next with
  | 2, some j =>
    let k := d.outFirst n new
    let d := if old ≤ new then d.addFld (Reg.timeOutCfg n) F.timeOutCfg_skipped (k - j) else d
    d.onOut n fun o => { o with next := some (if old ≤ new then max j k else k) }
  | 1, some _ =>
    if d.outStart n < new then
      (d.addFld (Reg.timeOutCfg n) F.timeOutCfg_skipped 1).onOut n fun o => { o with next := none }
    else d
  | 1, none => if new ≤ d.outStart n ∧ new < old then d.onOut n fun o => { o with next := some 0 } else d
  | _, _ => d

/-- Whether a local time in ns is reached by the end of this Stroke. -/
def Dev.reached (d : Dev) (t : Nat) : Bool := decide (t < (d.now + 1) * 125000)

/-- The pin of a timed output goes to its active or inactive level. -/
def Dev.drive (d : Dev) (n : Nat) (active : Bool) : Dev :=
  let low := n < 8 && d.flag (Reg.timeOutCfg n) F.timeOutCfg_polarity
  (d.onOut n fun o => { o with high := active }).emit
    (.pin (if n < 8 then "TIME_OUT_" ++ toString n else "PPS_OUT") (active != low))

/-- TIMED_OUTPUT_EDGE (R406): the local clock reaches the next scheduled edge of an output, whose pulse holds for WIDTH. -/
def execTimedOutputEdge (output : Nat) (s : State) : Host.Outcome State Fault Refusal :=
  s.lift fun d =>
    match (d.timeOut output).next with
    | none => d
    | some j =>
      let t := d.outEdge output j
      if 8 ≤ output ∨ d.reached t = false then d
      else (d.drive output true).onOut output fun o =>
        { o with next := (if d.outMode output = 2 then some (j + 1) else none), ends := t + (d.reg (Reg.timeOutWidth output)).toNat }

/-- PPS_OUT_EDGE (R407): PPS_OUT rises at a whole second while OUT_EN is 1, for WIDTH_MS. -/
def execPpsOutEdge (s : State) : Host.Outcome State Fault Refusal :=
  s.lift fun d =>
    if d.flag Reg.timePpsCfg F.timePpsCfg_outEn && decide (d.now % 8000 = 0) then
      (d.drive 8 true).onOut 8 fun o => { o with ends := d.now * 125000 + d.fld Reg.timePpsCfg F.timePpsCfg_widthMs * 1000000 }
    else d

/-- TIMED_PULSE_END (R406, R407): a pulse has held for its width. -/
def execTimedPulseEnd (output : Nat) (s : State) : Host.Outcome State Fault Refusal :=
  s.lift fun d => if (d.timeOut output).high && d.reached (d.timeOut output).ends then d.drive output false else d

/-! ## Steps (R397) -/

/-- The clock steps by a signed number of ns: the Stroke count follows, the step is counted and recorded (R397). -/
def Dev.stepClock (d : Dev) (delta : Int) : Dev :=
  let old := d.nowNs
  let new := ((old : Int) + delta).toNat
  let d := { d with stk := { d.stk with stroke := new / 125000, phase := new % 125000 } }
  let d := (List.range 17).foldl (fun d c => d.record c 0x06 0 0 [unsigned 64 delta % 2 ^ 32, unsigned 64 delta / 2 ^ 32])
    (d.addFld Reg.timeStatus F.timeStatus_steps 1)
  let d := (List.range 8).foldl (fun d n => d.outStep n old new) d
  (List.range 9).foldl (fun d n => if (d.timeOut n).high then d.onOut n fun o => { o with ends := ((o.ends : Int) + delta).toNat } else d) d

/-- The step that TIME_ADJ asks for, in ns. -/
def Dev.adjDelta (d : Dev) : Int :=
  let ns := (d.reg Reg.timeAdjNs).toNat % 2 ^ 30
  let sec := (d.reg Reg.timeAdjSecLo).toNat + (d.reg Reg.timeAdjSecHi).toNat % 65536 * 2 ^ 32
  if d.flag Reg.timeAdj F.timeAdj_mode then ((sec * 1000000000 + ns : Nat) : Int) - (d.nowNs : Int)
  else signed 48 sec * 1000000000 + signed 30 ns

/-- A write of TIME_ADJ: MODE is taken; GO steps the clock while LIVE is 0, and else sets ADJ_REFUSED (R397). -/
def Dev.adjWrite (d : Dev) (fn value : Nat) : Dev :=
  if !d.mayWrite fn Reg.timeAdj then d
  else
    let d := d.setFld Reg.timeAdj F.timeAdj_mode (value / 2 ^ 30 % 2)
    if !bitAt value 31 then d
    else if d.live then d.setFld Reg.timeStatus F.timeStatus_adjRefused 1
    else d.stepClock d.adjDelta

/-- TIME_ADJ_GO (R397). -/
def execTimeAdjGo (fn value : Nat) (s : State) : Host.Outcome State Fault Refusal := s.lift fun d => d.adjWrite fn value

/-! ## Synchronisation and servo (R398–R400) -/

/-- STK_STATUS.SYNC codes. -/
inductive Sync where
  | free | locked | holdover
  deriving DecidableEq, Repr

/-- The code of a synchronisation state. -/
def Sync.code : Sync → Nat
  | .free => 0 | .locked => 1 | .holdover => 2

/-- SYNC as it stands. -/
def Dev.sync (d : Dev) : Nat := d.fld Reg.stkStatus F.stkStatus_sync

/-- Sets SYNC in both registers that show it. -/
def Dev.setSync (d : Dev) (s : Sync) : Dev :=
  (d.setFld Reg.stkStatus F.stkStatus_sync s.code).setFld Reg.timeStatus F.timeStatus_sync s.code

/-- A signed number of ns, saturating at 32 bits. -/
def satNs (v : Int) : Word := BitVec.ofInt 32 (max (-(2 ^ 31)) (min (2 ^ 31 - 1) v))

/-- Time-weighted mean of the base increments of a history over the 64 s that end at a Stroke (R400). -/
def meanInc (hist : List (Nat × Nat)) (now dflt : Nat) : Nat :=
  let from_ := now - 512000
  let w := hist.foldl (fun (a : Nat × Nat × Nat) p =>
    let s := max p.1 from_
    if s < a.1 then (s, a.2.1 + (a.1 - s) * p.2, a.2.2 + (a.1 - s)) else a) (now, 0, 0)
  if w.2.2 = 0 then dflt else w.2.1 / w.2.2

/-- One measurement of the offset in ps from the active side or PPS_IN: it is reported; in FREE it may step the clock and counts
towards the lock; the basic servo writes the base increment, whose filter is open: a free value (R398, R399). -/
def Dev.measure (d : Dev) (offset : Int) : Dev :=
  let d := d.setReg Reg.timeOffset (satNs (offset / 1000))
  let lock := d.fld Reg.timeServoCfg F.timeServoCfg_lockNs
  let free := d.sync = 0
  let d := if free && d.basicServo && !d.live && decide (d.fld Reg.timeServoCfg F.timeServoCfg_stepUs * 1000000 < offset.natAbs)
    then d.stepClock (-(offset / 1000)) else d
  let run := if offset.natAbs ≤ 1000 * lock then d.tim.lockRun + 1 else 0
  let d := d.onTim fun t => { t with lockRun := run }
  let d := if d.basicServo then
      let f := d.fresh
      f.2.setInc (Config.servoIncrement f.1 offset % 2 ^ 36)
    else d
  let d := if free && decide (16 ≤ run) then d.setSync .locked else d
  if d.sync = 1 then
    d.onTim fun t => { t with hist := (d.now, d.baseInc) :: t.hist.filter fun p => decide (d.now < p.1 + 512000) }
  else d

/-- SYNC becomes HOLDOVER, and the basic servo holds the mean increment (R399, R400). -/
def Dev.holdover (d : Dev) : Dev :=
  let d := d.setSync .holdover
  if d.basicServo then d.setInc (meanInc d.tim.hist d.now d.baseInc) else d

/-! ## Temperature correction and time of day (R404, R405) -/

/-- Entry `i` of the compensation table. -/
def Dev.tcompEntry (d : Dev) (i : Nat) : Int :=
  let r := Reg.timeTcomp (i / 2)
  signed 16 (if i % 2 = 1 then d.fld r F.timeTcomp_entryOdd else d.fld r F.timeTcomp_entryEven)

/-- round(ppb × 8.589934592) for ppb = `n` ÷ 200 (R405). -/
def ppbToFrac (n : Int) : Int := (2 * n * 8589934592 + 200 * 1000000000) / (2 * 200 * 1000000000)

/-- TCOMP_UPDATE (R405): the correction at the temperature of TS_SENSOR, interpolated between the entries; outside their range
the spec states none and it is a free value. -/
def execTcompUpdate (s : State) : Host.Outcome State Fault Refusal :=
  s.lift fun d =>
    if !d.flag Reg.timeCtl F.timeCtl_tcompEn then (d.onTim fun t => { t with corr := 0 }).showInc
    else
      let t := signed 12 (d.fld (Reg.thmTs (d.fld Reg.timeTcompCfg F.timeTcompCfg_tsSensor)) F.thmTs_temp) + 320
      if 0 ≤ t ∧ t ≤ 1260 then
        let i := t.toNat / 20
        let r := t.toNat % 20
        let v := d.tcompEntry i * (20 - r : Nat) + (if r = 0 then 0 else d.tcompEntry (i + 1) * (r : Nat))
        (d.onTim fun t => { t with corr := ppbToFrac v }).showInc
      else
        let f := d.fresh
        (f.2.onTim fun t => { t with corr := Config.tcompOutside f.1 }).showInc

/-- UTC_OFFSET in use (R404). -/
def Dev.utcOffset (d : Dev) : Nat :=
  let r := d.fld Reg.timeTodCfg F.timeTodCfg_utcOffset
  if d.flag Reg.timeTodCfg F.timeTodCfg_utcSrc then r else d.tim.utc.getD r

/-- At the end of the UTC day an announced leap takes effect (R404). -/
def Dev.leapDay (d : Dev) : Dev :=
  match d.tim.utcNext with
  | none => d
  | some u =>
    if (d.now * 125000 / 1000000000 + 86400 - d.utcOffset % 86400) % 86400 = 0 then
      d.onTim fun t => { t with utc := some u, utcNext := none }
    else d

/-! ## Captures and readings (R395, R408) -/

/-- The captures an input holds. -/
def Dev.captures (d : Dev) (i : Nat) : List (Nat × Bool) := Tab.get noList d.tim.caps i

/-- Sets the captures of an input, and COUNT. -/
def Dev.setCaptures (d : Dev) (i : Nat) (l : List (Nat × Bool)) : Dev :=
  (d.onTim fun t => { t with caps := Tab.put noList t.caps i l }).setFld (Reg.timeInCfg i) F.timeInCfg_count l.length

/-- The offset in ns of a pulse from the nearest whole second. -/
def pulseOffset (t : Nat) : Int :=
  let r := t % 1000000000
  if r < 500000000 then (r : Int) else (r : Int) - 1000000000

/-- TIME_INPUT_EDGE (R408): an edge that EDGE selects is captured, or counted in OVF when the FIFO is full. A rising edge of
PPS_IN (input 4) drives the servo under SOURCE PPS_IN (R398). -/
def execTimeInputEdge (input : Nat) (falling : Bool) (ns : Nat) (s : State) : Host.Outcome State Fault Refusal :=
  s.lift fun d =>
    if 5 ≤ input ∨ d.inReset 2 then d
    else
      let d := d.atNs ns
      let t := d.localNs ns
      let e := d.fld (Reg.timeInCfg input) F.timeInCfg_edge
      let l := d.captures input
      let d :=
        if !bitAt e (bit falling) then d
        else if 16 ≤ l.length then d.addFld (Reg.timeInCfg input) F.timeInCfg_ovf 1
        else d.setCaptures input (l ++ [(t, falling)])
      if input = 4 && !falling && d.fld Reg.timeCtl F.timeCtl_source = 1 && !d.replay then
        (d.measure (1000 * pulseOffset t)).onTim fun x => { x with pulse := some d.now }
      else d

/-- TIME_IN_NS_READ (R408): the read pops the oldest capture and latches its seconds. -/
def execTimeInNsRead (fn input : Nat) (s : State) : Host.Outcome State Fault Refusal :=
  s.lift fun d =>
    let a := Reg.timeInNs input
    if 5 ≤ input ∨ d.sees fn a = false then d.emit (.read fn a 0)
    else
      match d.captures input with
      | [] => d.emit (.read fn a 0)
      | (t, falling) :: rest =>
        let sec := t / 1000000000
        let d := (d.setCaptures input rest).setReg (Reg.timeInSecLo input) (BitVec.ofNat 32 sec)
        (d.setReg (Reg.timeInSecHi input) (BitVec.ofNat 32 (sec / 2 ^ 32 % 65536))).emit
          (.read fn a (pack [(1, 31), (bit falling, 30), (t % 1000000000, 0)]))

/-- TIME_NOW_NS_READ (R395): the read returns the nanoseconds and latches seconds and fraction; the fraction of an instant
given in whole ns is a free value. -/
def execTimeNowNsRead (fn ns : Nat) (s : State) : Host.Outcome State Fault Refusal :=
  s.lift fun d =>
    let a := Reg.timeNowNs
    if !d.sees fn a then d.emit (.read fn a 0)
    else
      let d := d.atNs ns
      let t := d.localNs ns
      let sec := t / 1000000000
      let f := d.fresh
      let d := (f.2.setReg Reg.timeNowSecLo (BitVec.ofNat 32 sec)).setReg Reg.timeNowSecHi
        (BitVec.ofNat 32 (sec / 2 ^ 32 % 65536))
      ((d.setReg Reg.timeNowFrac (BitVec.ofNat 32 (Config.clockFrac f.1))).setReg a
        (BitVec.ofNat 32 (t % 1000000000))).emit (.read fn a (t % 1000000000))

end Sys2Proof.Machine
end

