-- ==== Sys2Proof/Machine/Replay.lean ====
section
/-! DEFINITION. Counter snapshots (R519–R521), the record log's host buffers (R526), and REPLAY mode (R527, R528). -/

namespace Sys2Proof.Machine

/-! ## Counter snapshots (R519–R521) -/

/-- The banks that a Crew owns, ascending. -/
def Dev.banksOf (d : Dev) (c : Nat) : List Nat := (List.range 143).filter fun b => d.owner 0x0F b = c

/-- The post of an opcode that a Crew has standing, staged or due. -/
def Dev.crewPosted (d : Dev) (opcode crew : Nat) : Bool := d.posts.any fun y => y.opcode = opcode && y.crew = crew

/-- Words 0–14 of a bank's snapshot record (R520). -/
def Dev.snapshotWords (d : Dev) (bank : Nat) : List Nat :=
  let bytes := (List.range 8).flatMap fun j => (List.range 6).map fun i => d.pmuValue bank j / 256 ^ i % 256
  [bank, d.nowLo] ++ (List.range 12).map (fun i => leNat ((bytes.drop (4 * i)).take 4)) ++ [0]

/-- A bank's snapshot record with its CHECK (R520). -/
def Dev.snapshotRecord (d : Dev) (bank : Nat) : List Nat :=
  let ws := d.snapshotWords bank
  ws ++ [crc32c (bank * 65536 + d.now % 65536) ws]

/-- CNT_POST's own tests (R519). -/
def testCntPost (d : Dev) (x : Desc) : Option (Nat × List Nat) :=
  formatIf (x.buffersBad || x.w 6 / 65536 = 0 || decide (x.w 5 < 64 * (d.banksOf x.crew).length) || d.crewPosted 0x80 x.crew)

/-- MB/s of a CNT_POST (R117, R519). -/
def rateCntPost (d : Dev) (x : Desc) : Nat × Nat :=
  (0, cdiv (64 * (d.banksOf x.crew).length * 8000) (max 1 (x.w 6 / 65536) * 1000000))

/-- CNT_POST (R519). -/
def execCntPost (crew ring : Nat) (s : State) : Host.Outcome State Fault Refusal :=
  s.onDue crew ring 0x80 fun d x => d.stand x []

/-- CNT_LATCH (R519–R521): at a Stroke that is a multiple of PERIOD the Crew's banks are latched and delivered, and its user page
is updated. -/
def execCntLatch (crew : Nat) (s : State) : Host.Outcome State Fault Refusal :=
  s.lift fun d =>
    match d.crewStanding? 0x80 crew with
    | none => d
    | some p =>
      if d.now % max 1 (p.desc.w 6 / 65536) ≠ 0 then d
      else
        let banks := d.banksOf crew
        let page := (banks.take 64).flatMap fun b => d.snapshotWords b ++ [0]
        let d := { d with pmu := { d.pmu with page := Tab.put noList d.pmu.page crew page } }
        if p.isBusy p.next then d.onStanding (·.is p.desc) fun p => { p with gap := true }
        else
          let d := d.emit (.hostWrite crew (p.desc.addr 3 + p.next * p.desc.w 5) (banks.flatMap fun b => d.snapshotRecord b))
          let d := d.deliver p p.next 0 [64 * banks.length, 2 ^ 20 * bit p.gap + p.next, d.nowLo, 0]
          d.onStanding (·.is p.desc) fun p =>
            { p with next := (p.next + 1) % (p.desc.w 6 % 65536), count := p.count + 1, gap := p.gapLeft p.next }

/-- The user page of a Crew (R521): 0 unless USER_READ is 1 and a CNT_POST stands. -/
def Dev.userPage (d : Dev) (crew : Nat) : List Nat :=
  if d.flag (Reg.secCrewPolicy crew) F.secCrewPolicy_userRead && (d.crewStanding? 0x80 crew).isSome then
    Tab.get noList d.pmu.page crew else []

/-- CNT_STOP (R519). -/
def execCntStop (crew ring : Nat) (s : State) : Host.Outcome State Fault Refusal :=
  s.onDue crew ring 0x81 fun d x => d.stopPost x (d.crewStanding? 0x80 x.crew)

/-! ## The record log (R525, R526) -/

/-- RPL_POST's own tests (R526). -/
def testRplPost (d : Dev) (x : Desc) : Option (Nat × List Nat) := formatIf (x.buffersBad || d.crewPosted 0x82 x.crew)

/-- Bytes per second of the ingest content of a Crew: the policed rates of the classifier entries of its flows (R359, R525).
DEDUCED (notes/assumptions/60.md). -/
def Dev.contentRate (d : Dev) (crew : Nat) : Nat :=
  if d.flag (Reg.secCrewPolicy crew) F.secCrewPolicy_replayContent then
    sumBy (fun e =>
      if d.flag (Reg.egsClsKey e) F.egsClsKey_valid && d.owner 4 (d.fld (Reg.egsClsFlow e) F.egsClsFlow_flow) == crew then
        d.fld (Reg.egsClsPol e) F.egsClsPol_kbps * 125 else 0) (List.range 4096)
  else 0

/-- MB/s of an RPL_POST (R117, R525): records, and content where the policy asks for it. -/
def rateRplPost (d : Dev) (x : Desc) : Nat × Nat := (0, cdiv (Config.recordRate x.crew + d.contentRate x.crew) 1000000)

/-- RPL_POST (R526): the record count starts again at 0. -/
def execRplPost (crew ring : Nat) (s : State) : Host.Outcome State Fault Refusal :=
  s.onDue crew ring 0x82 fun d x =>
    ((d.stand x [0, 0, 0]).setReg (Reg.rplLogSeq x.crew) 0).setFld (Reg.rplLogStatus x.crew) F.rplLogStatus_lost 0

/-- Delivers one filled buffer of a record log. -/
def Dev.deliverLog (d : Dev) (x : Desc) (b : Nat × Nat × Nat × List Nat) : Dev :=
  match d.crewStanding? 0x82 x.crew with
  | none => d
  | some p =>
    let d := d.emit (.hostWrite x.crew (x.addr 3 + b.1 * x.w 5) b.2.2.2)
    let d := d.deliver p b.1 0 [b.2.1, 2 ^ 20 * bit p.gap + b.1, b.2.2.1 % 2 ^ 32, 0]
    d.onStanding (·.is x) fun p => { p with count := p.count + 1, gap := p.gapLeft b.1 }

/-- RPL_BUFFER_DELIVERY (R526): full buffers are delivered, and at a Stroke that is a multiple of 8,000 the one being filled. -/
def execRplBufferDelivery (crew : Nat) (s : State) : Host.Outcome State Fault Refusal :=
  s.lift fun d =>
    match d.crewStanding? 0x82 crew with
    | none => d
    | some p =>
      let part := p.aux.getD 0 0
      let now := decide (d.now % 8000 = 0) && decide (0 < part)
      let l := p.full ++ (if now then [(p.next, part, p.aux.getD 1 0, p.text)] else [])
      let d := d.onStanding (·.is p.desc) fun p =>
        if now then { p with full := [], next := (p.next + 1) % max 1 (p.desc.w 6 % 65536), aux := [0, 0, p.aux.getD 2 0], text := [] }
        else { p with full := [] }
      l.foldl (fun d b => d.deliverLog p.desc b) d

/-- RPL_STOP (R526). -/
def execRplStop (crew ring : Nat) (s : State) : Host.Outcome State Fault Refusal :=
  s.onDue crew ring 0x83 fun d x => d.stopPost x (d.crewStanding? 0x82 x.crew)

/-- RPL_MARK (R526). -/
def execRplMark (crew ring : Nat) (s : State) : Host.Outcome State Fault Refusal :=
  s.onDue crew ring 0x84 fun d x => (d.record x.crew 0x21 0 0 [x.w 3, x.w 4, x.w 5, x.w 6]).finish x 0 []

/-! ## REPLAY mode (R527) -/

/-- Shows RPL_STATUS.STATE: 0 OFF, 1 WAITING, 2 RUNNING. -/
def Dev.showReplay (d : Dev) : Dev :=
  d.setFld Reg.rplStatus F.rplStatus_state
    (if !d.replay then 0
     else if d.flag Reg.rplCtl F.rplCtl_pace || d.fld Reg.rplStatus F.rplStatus_pending ≠ 0 then 2 else 1)

/-- Whether no port group is enabled and no live work is admitted. -/
def Dev.benchIdle (d : Dev) : Bool :=
  !d.live && (List.range 16).all fun p => !d.flag (Reg.portGroupCfg p) F.portGroupCfg_enable

/-- A write of RPL_CTL (R527). A carried REPLAY that equals the value held is no write of it. DEDUCED (notes/assumptions/60.md). -/
def Dev.rplCtlWrite (d : Dev) (fn value : Nat) : Dev :=
  let a := Reg.rplCtl
  let w := BitVec.ofNat 32 value
  if !d.mayWrite fn a then d
  else
    let d := if F.rplCtl_refused.get w = 1 then d.setFld a F.rplCtl_refused 0 else d
    let d := d.setFld a F.rplCtl_pace (F.rplCtl_pace.get w)
    let r := F.rplCtl_replay.get w
    if r = d.fld a F.rplCtl_replay then d.showReplay
    else if !d.benchIdle then d.setFld a F.rplCtl_refused 1
    else if r = 1 then
      let d := (d.setFld a F.rplCtl_replay 1).setSync .free
      let t := (d.reg Reg.rplStartLo).toNat + (d.reg Reg.rplStartHi).toNat * 2 ^ 32
      { d with stk := { d.stk with stroke := t, phase := 0 }, rpl := { d.rpl with fed := 0 } }.showReplay
    else (d.setFld a F.rplCtl_replay 0).showReplay

/-- RPL_CTL_WRITE (R527). -/
def execRplCtlWrite (fn value : Nat) (s : State) : Host.Outcome State Fault Refusal :=
  s.lift fun d => d.rplCtlWrite fn value

/-- RPL_STEP_WRITE (R527): boundaries to take are added to PENDING. -/
def Dev.rplStepWrite (d : Dev) (fn value : Nat) : Dev :=
  if !d.mayWrite fn Reg.rplStep then d
  else (d.satFld Reg.rplStatus F.rplStatus_pending (value % 65536)).showReplay

/-- RPL_STEP_WRITE. -/
def execRplStepWrite (fn value : Nat) (s : State) : Host.Outcome State Fault Refusal :=
  s.lift fun d => d.rplStepWrite fn value

/-! ## Feeds (R528) -/

/-- The records of a feed's words, numbered from `n`, with the number of those that fail CHECK; content blocks are passed
over. -/
def feedRecords : (fuel n : Nat) → List Nat → List FedRec × Nat × Nat
  | 0, n, _ => ([], n, 0)
  | f + 1, n, ws =>
    if ws.length < 8 then ([], n, 0)
    else
      let w (i : Nat) : Nat := ws.getD i 0
      let r : FedRec := ⟨w 0 + w 1 * 2 ^ 32, w 2 / 2 ^ 24, w 2 / 65536 % 256, w 2 % 65536, [w 3, w 4, w 5, w 6]⟩
      let ok := crc32c n (ws.take 7) == w 7
      let skip := if ok && r.kind = 0x13 then 8 * cdiv (w 3) 32 else 0
      let rest := feedRecords f (n + 1) (ws.drop (8 + skip))
      if ok then (r :: rest.1, rest.2.1, rest.2.2) else (rest.1, rest.2.1, rest.2.2 + 1)

/-- RPL_FEED's own tests (R528). -/
def testRplFeed (d : Dev) (x : Desc) : Option (Nat × List Nat) :=
  formatIf (!d.replay || x.w 3 % 32 ≠ 0 || x.w 5 % 32 ≠ 0 || decide (4194304 < x.w 5))

/-- A feed's records join those to be applied: late ones are counted and dropped, and COMMIT, CRC and MARK records are not
applied (R528). -/
def Dev.feed (d : Dev) (x : Desc) (words : List Nat) : Dev :=
  let r := feedRecords words.length d.rpl.fed words
  let late := r.1.filter fun p => decide (p.stroke < d.now)
  let keep := r.1.filter fun p => decide (d.now ≤ p.stroke) && !([0x01, 0x0B, 0x10, 0x11, 0x12, 0x20, 0x21].contains p.kind)
  let d := (d.satFld Reg.rplStatus F.rplStatus_bad r.2.2).satFld Reg.rplStatus F.rplStatus_late late.length
  { d with rpl := { feeds := d.rpl.feeds ++ [(x, keep, 0)], fed := r.2.1 } }

/-- Feeds with no record left complete DONE with the records applied. -/
def Dev.feedsDone (d : Dev) : Dev :=
  let done := d.rpl.feeds.filter fun f => f.2.1.isEmpty
  done.foldl (fun d f => d.finish f.1 0 [f.2.2])
    { d with rpl := { d.rpl with feeds := d.rpl.feeds.filter fun f => !f.2.1.isEmpty } }

/-! ## Rules -/

/-- The opcodes of this file. -/
def replayRules : List OpRule :=
  let z (k : ObjKind) : Bool := k == .zero
  [{ opcode := 0x80, masks := bufferMasks 0xFFFF0000, kind := z, house := false, test := testCntPost, rate := rateCntPost },
   { opcode := 0x81, masks := [], kind := z, house := false, test := fun _ _ => none },
   { opcode := 0x82, masks := bufferMasks 0, kind := z, house := false, test := testRplPost, rate := rateRplPost },
   { opcode := 0x83, masks := [], kind := z, house := false, test := fun _ _ => none },
   { opcode := 0x84, masks := [(3, allBits), (4, allBits), (5, allBits), (6, allBits)], kind := z, house := false,
     test := fun _ _ => none },
   { opcode := 0x85, masks := [(3, allBits), (4, allBits), (5, allBits)], kind := z, house := false, test := testRplFeed }]

end Sys2Proof.Machine
end

