-- ==== Sys2Proof/Machine/Encode.lean ====
section
/-! DEFINITION. Encode channels at work (R142–R157, R194–R220, R555): kinds of pictures, budgets and tokens, the coding of bands through the
floor reserve, concealment, units, and best-effort pictures. -/

namespace Sys2Proof.Machine

/-! ## Frames -/

/-- Settles the kind of a frame that is coded from source (R154, R159): the strongest asked, an IDR picture where a coded video
sequence begins, and an IRAP picture each IRAP_PERIOD frames, coded as IDR. DEDUCED (notes/assumptions/32.md, 33.md). Refresh cycles
follow one another
from the picture after an IRAP picture while REFRESH is ROLLING. -/
def EncDyn.settle (x : EncDyn) (g : EncCfg) (k : Nat) : EncDyn :=
  let asked := (x.force.filter fun r => r.frame = some k).map (·.type)
  let due := match x.lastIrap with
    | none => true
    | some l => g.irapPeriod ≠ 0 && decide (g.irapPeriod ≤ k - l)
  let kind := (asked ++ (if due then [0] else [])).foldl min 3
  { x with pictures := ((k, kind) :: x.pictures.filter fun p => p.1 ≠ k).take 64
           forced := (if asked.any fun t => decide (t ≤ 1) then x.forced + 1 else x.forced)
           lastIrap := (if kind ≤ 1 then some k else x.lastIrap)
           roll := (if kind ≤ 1 then (if g.rolling then some (k + 1, g.rollFrames, false) else none)
             else if kind = 2 then some (k, (if g.rolling then g.rollFrames else 16), !g.rolling) else x.roll) }

/-- Opens frame `k` of a channel: pending requests fall on it and its kind is settled; under a source mismatch it is held and
requests pass on (R153, R159). -/
def EncDyn.openFrame (x : EncDyn) (k now : Nat) : EncDyn :=
  match cfgFor x.cfgs k with
  | none => x
  | some (_, g) =>
    if x.settled k then x
    else if x.mismatch then { x with pictures := ((k, 3) :: x.pictures).take 64 }
    else
      EncDyn.settle { x with force := x.force.map fun r =>
        if r.frame.isNone && decide (r.desc.effect ≤ now) then { r with frame := some k } else r } g k

/-- What of the settings a change of which begins a new coded video sequence (R154, R218). DESIGN CHOICE (notes/assumptions/73.md): the
`division` of R154 is DIVISION, and a change of PIECES or SUBPIC alone begins none. -/
def EncCfg.sequenceKey (g : EncCfg) : List Nat :=
  [g.width, g.height, g.num, g.den, g.srcFmt, bit g.vvc, g.profile, g.tier, g.level, g.ctu, g.division, g.toolOff, g.rate,
   bit g.vbr, g.cls, g.headN]

/-- Frame boundary `k` of a channel (R154, R160, R218): new settings that begin a sequence ask for an IDR picture, MDCV and CLL
values are taken in, settings no longer needed go, and the frame opens. -/
def Dev.encFrame (d : Dev) (c k : Nat) : Dev :=
  match d.enc? c with
  | none => d
  | some x =>
    let restart := match x.cfgs with
      | p :: q :: _ => p.1 = k && p.2.sequenceKey != q.2.sequenceKey
      | _ => false
    let old := x.cfgs.filter fun p => decide (p.1 ≤ k - 64)
    let cfgs := x.cfgs.filter (fun p => decide (k - 64 < p.1)) ++ old.take 1
    let taken := x.hdrNext.filter fun y => decide (y.effect ≤ d.now)
    let d := d.onEnc c fun x =>
      EncDyn.openFrame { x with cfgs := cfgs
                                lastIrap := (if restart then none else x.lastIrap)
                                hdr := ((taken.getLast?).map fun y => (List.range 7).map fun i => y.w (3 + i)).getD x.hdr
                                hdrNext := x.hdrNext.filter fun y => decide (d.now < y.effect) } k d.now
    taken.foldl (fun d y => d.finish y 0 []) d

/-- A frame of the committed format arrives from source: a mismatch ends with it, and the requests that waited fall on it
(R153, R155). -/
def Dev.sourceGood (d : Dev) (c k : Nat) : Dev :=
  d.onEnc c fun x =>
    if x.mismatch then
      EncDyn.openFrame { x with mismatch := false, pictures := x.pictures.filter fun p => p.1 ≠ k } k d.now
    else x.openFrame k d.now

/-- A frame of another format arrives from source (R153): it is foreign, whatever the frames after it are. -/
def Dev.sourceBad (d : Dev) (c k : Nat) : Dev :=
  d.onEnc c fun x =>
    let lost := x.kindOf k ≤ 1 && x.settled k
    { x with mismatch := true
             foreign := if x.foreign.contains k then x.foreign else (k :: x.foreign).take 64
             mismatches := (if x.mismatch then x.mismatches else x.mismatches + 1)
             pictures := ((k, 3) :: x.pictures.filter fun p => p.1 ≠ k).take 64
             lastIrap := (if lost then none else x.lastIrap)
             force := x.force.map fun r => if r.frame = some k then { r with frame := none } else r }

/-! ## Budgets (R204–R206, R219) -/

/-- The picture type of a band for its floor: an intra picture, a band that has nothing to be predicted from, or one whose
co-located band was held grey is intra (R152). -/
def EncDyn.floorPic' (x : EncDyn) (j k band : Nat) : FloorPic :=
  if x.intraPic k || x.lastIrap.isNone || x.grey.contains (j - 1, band) then .intra else .inter (x.rollOf k)

/-- w_i of a piece (R205). -/
def EncDyn.weight (x : EncDyn) (g : EncCfg) (band piece : Nat) : Nat :=
  let v := Tab.get zero x.coBits (8 * band + piece)
  if v = 0 then 1000 * g.pieceCtus piece else v

/-- Divides a band's budget among the pieces that take part in it (R205). -/
def EncDyn.divide (x : EncDyn) (g : EncCfg) (t : FloorPic) (band budget : Nat) : List PieceRec :=
  let ps := (List.range g.pieces).filter fun i => g.takes i band
  let rest := budget - sumBy (fun i => g.floorRun t i 0) ps
  let ws := sumBy (x.weight g band) ps
  let share (i : Nat) : Nat := g.floorRun t i 0 + rest * x.weight g band i / ws
  let left := budget - sumBy share ps
  ps.zipIdx.map fun p => { piece := p.1, budget := share p.1 + (if p.2 = 0 then left else 0), bits := 0, status := 0, floorCol := none
                           cause := 0, done := false }

/-- Whether a band's token has arrived for all its pieces. -/
def EncDyn.arrived (x : EncDyn) (g : EncCfg) (j band : Nat) : Bool :=
  (List.range g.pieces).all fun p => !g.takes p band || x.got.contains (j, band, p)

/-- ACTIVITY of a band as the budget takes it (R206): that of the band where its token has arrived, else that of the co-located band of
the previous picture. DEDUCED (notes/assumptions/71.md): the previous in capture order. -/
def EncDyn.activityOf (x : EncDyn) (g : EncCfg) (c j k band : Nat) : Nat :=
  x.activity g c (if x.arrived g j band then k else k - 1) band

/-- A_b of a band of a Course or Head picture (R206). -/
def EncDyn.pictureBudget (x : EncDyn) (g : EncCfg) (c j k band : Nat) (header : Nat) : Nat :=
  let recs := x.bands.filter fun r => r.j = j
  let head := ((recs.find? fun r => r.band = 0).map (·.header)).getD header
  let used := sumBy (fun r => if r.finished then r.bits else sumBy (·.budget) r.pieces) recs
  let pool := 8 * g.slot 0 - head - (if g.vbr then 0 else 24) - used
  let later := (List.range (g.bands - band)).map (band + ·)
  let fl (b : Nat) : Nat := g.floorBand (x.floorPic' j k b) b
  let w (b : Nat) : Nat := 1 + x.activityOf g c j k b
  fl band + (pool - sumBy fl later) * w band / sumBy w later

/-- The cap of a piece of a best-effort picture in bits: its share of the picture's by its CTUs (R219). -/
def EncCfg.pieceCap (g : EncCfg) (header piece : Nat) : Nat :=
  let ctus (i : Nat) : Nat := sumBy (fun b => if g.takes i b then g.pieceCtus i else 0) (List.range g.bands)
  (8 * (g.bps * g.den / (8 * g.num)) - header) * ctus piece / max 1 (sumBy ctus (List.range g.pieces))

/-- The budget of a piece-band of a best-effort picture: what the piece's cap leaves after the bands it has coded and the floors
of those that follow (R210, R219). DEDUCED (notes/assumptions/34.md). -/
def EncDyn.pieceBudget (x : EncDyn) (g : EncCfg) (t : FloorPic) (j band piece : Nat) (header : Nat) : Nat :=
  let recs := x.bands.filter fun r => r.j = j
  let head := ((recs.find? fun r => r.band = 0).map (·.header)).getD header
  let used := sumBy (fun r => sumBy (fun p => if p.piece = piece then p.bits else 0) r.pieces) recs
  let later := sumBy (fun b => if band < b ∧ g.takes piece b then g.floorRun t piece 0 else 0) (List.range g.bands)
  max (g.floorRun t piece 0) (g.pieceCap head piece - used - later)

/-! ## Tokens -/

/-- Notes that a piece's band token has arrived. -/
def Dev.noteBand (d : Dev) (c j band piece : Nat) : Dev :=
  d.onEnc c fun x => { x with got := (j, band, piece) :: x.got.filter fun y => y != (j, band, piece) && decide (j ≤ y.1 + 40) }

/-- The band token of a band (R142): to every piece that takes part in it, and on a best-effort channel to every segment. -/
def Dev.bandToken (d : Dev) (f seq handle : Nat) : Dev :=
  match d.flowObj f with
  | .encPiece c p =>
    match d.encItem? c seq with
    | some (g, n) =>
      let x := g.ofNumber n
      let d := d.noteBand c x.1 x.2.1 p
      if g.live then d.token f seq 0 handle
      else (List.range (cdiv (g.pieceCtus p) (max 1 g.segCtus))).foldl (fun d s => d.token f (g.segSeq x.1 x.2.1 s) 0 handle) d
    | none => d.token f seq 0 handle
  | _ => d.token f seq 0 handle

/-- Band tokens of band `band` of frame `k` for every piece, to the items of the picture that shows it, recorded as entering from outside
(R142, R522). -/
def Dev.bandTokens (d : Dev) (c k band : Nat) (outside : Bool) : Dev :=
  match d.enc? c with
  | none => d
  | some x =>
    let j := (x.pictureOf k).getD k
    match cfgFor x.cfgs j with
    | none => d
    | some (_, g) =>
      (List.range g.pieces).foldl (fun d p =>
        if g.takes p band then
          let f := g.flows.getD p 0
          let d := if outside then d.recordToken (d.flowCrew f) 0 f [g.seqOf j band, band] else d
          d.bandToken f (g.seqOf j band) band
        else d) d

/-- The header bits of a unit: as the source's command states them, else a free value, never above the bound of R214. -/
def EncDyn.headerOf (x : EncDyn) (g : EncCfg) (c k band : Nat) (t : FloorPic) : Nat :=
  min (g.headerBound band t) (((x.source? k band).map (·.headerBits)).getD (Config.headerBits [c, k, band]))

/-- Samples of the N16 plane. -/
def EncCfg.n16 (g : EncCfg) : Nat := cdiv g.width 16 * cdiv g.height 16

/-- The scene-cut test at e of band 0 (R216): without every band token of the picture and of the one before it in capture order there is no
cut. A picture whose type is settled as an IRAP picture or the start of a refresh keeps it (R159). -/
def Dev.cutTest (d : Dev) (c : Nat) (g : EncCfg) (j k : Nat) : Dev :=
  match d.enc? c with
  | none => d
  | some x =>
    let whole (j : Nat) : Bool := (List.range g.bands).all fun b => x.arrived g j b
    let before := if k = 0 then none else x.pictureOf (k - 1)
    if g.cls ≠ 0 && g.scenecut && decide (2 < x.kindOf k) && whole j && before.any whole && decide (3 * g.n16 < x.cutSum g c k) then
      d.onEnc c fun x =>
        if g.cutIrap && g.cls = 1 then
          { x with pictures := (k, 1) :: x.pictures.filter fun p => p.1 ≠ k, lastIrap := some k
                   roll := if g.rolling then some (k + 1, g.rollFrames, false) else none }
        else { x with pictures := (k, 4) :: x.pictures.filter fun p => p.1 ≠ k }
    else d

/-- The rate tokens of a band at the boundary of its e (R204): its record opens with the budget of each piece. -/
def Dev.rateToken (d : Dev) (c : Nat) (g : EncCfg) (j band : Nat) : Dev :=
  let d := d.onEnc c fun x => x.openFrame (x.frameOf j) d.now
  let k := ((d.enc? c).map fun x => x.frameOf j).getD j
  let d := if band = 0 then (d.cutTest c g j k).beginPicture c g j k else d
  match d.enc? c with
  | none => d
  | some x =>
    let t := x.floorPic' j k band
    let header := if g.cls = 0 ∨ band = 0 then x.headerOf g c k band t else 0
    let budget := if g.cls = 0 then 8 * g.slot band - header - (if g.vbr then 0 else 24)
      else x.pictureBudget g c j k band header
    let ps := x.divide g t band budget
    let r : BandRec := { j := j, k := k, band := band, header := header, intra := t == .intra, roll := x.rollOf k, pieces := ps, level := 0
                         released := d.now, reported := false, finished := false }
    ps.foldl (fun d p => d.token (g.flows.getD p.piece 0) (g.seqOf j band) 2 p.budget) (d.onEnc c fun x => { x with bands := x.bands ++ [r] })

/-- The reference token of a band (R143). -/
def Dev.refToken (d : Dev) (g : EncCfg) (j band : Nat) : Dev :=
  (List.range g.pieces).foldl (fun d p =>
    if g.takes p band then d.token (g.flows.getD p 0) (g.seqOf j band) 1 (j - 1) else d) d

/-- Whether the reference token of a band has been issued, or its items are over. -/
def Dev.refSent (d : Dev) (g : EncCfg) (j band : Nat) : Bool :=
  (List.range g.pieces).any fun p => g.takes p band &&
    (let f := g.flows.getD p 0
     (d.gone? f (g.seqOf j band)).isSome || ((d.item? f (g.seqOf j band)).map fun i => bitAt i.filled 1).getD false)

/-- Whether a picture waits for none: the first, an intra one, and one that has no reference. -/
def EncDyn.alone (x : EncDyn) (j : Nat) : Bool := j = x.first || x.intraPic (x.frameOf j)

/-- The bands whose reference tokens the boundary of Stroke `s` issues (R143): those whose vertical search range ends, in the latest decoded
of their references, with a band whose deadline has just passed; at their release, those of a picture that refers to none. The picture
decoded right before is always among the references. DEDUCED (notes/assumptions/32.md, 71.md). -/
def Dev.refsDue (d : Dev) (x : EncDyn) (s : Nat) : List (EncCfg × Nat × Nat) :=
  ((x.dueAt (s - 3)).flatMap fun y =>
    let j := y.2.1 + 1
    match cfgFor x.cfgs j with
    | none => []
    | some (_, g) =>
      if x.alone j then []
      else ((List.range g.bands).filter fun b =>
        let last := min (y.1.bands - 1) ((x.searchCfg g (g.release j b)).lastRefBand b)
        last = y.2.2 || (decide (last < y.2.2) && !d.refSent g j b)).map fun b => (g, j, b)) ++
  (x.dueAt s).filter fun y => x.alone y.2.1 && !d.refSent y.1 y.2.1 y.2.2

/-! ## Coding a piece-band (R207–R212) -/

/-- A result of which no command says anything. -/
def noResult : ItemResult := ⟨0, [], [], [], 0, false, 0, [], [], 0, 0, 0⟩

/-- The bits of a CTU coded at floor: as stated, else a free value of its place, none above its cost in R208. `place` is the channel, the
picture and the band. -/
def floorBitsOf (place bits : List Nat) (col n cost : Nat) : Nat := min cost ((bits[n]?).getD (Config.floorBits (place ++ [col])))

/-- The floor pass over CTUs `i` to the end of a piece-band. -/
def EncCfg.floorFrom (g : EncCfg) (t : FloorPic) (place : List Nat) (piece i : Nat) (bits : List Nat) : Nat :=
  let first := if g.division = 1 then g.tileFirst piece else 0
  sumBy (fun n =>
    let cost := if n = 0 then g.floorFirst t (first + i) else g.floorCtu t (first + i + n)
    floorBitsOf place bits (first + i + n) (i + n) cost) (List.range (g.pieceCtus piece - i))

/-- The floor reserve (R210): codes CTUs from `i` on while what remains keeps its floor; the bits used and the CTU that starts a
floor run. -/
def codeRun (fl : Nat → Nat) (budget : Nat) : (i used : Nat) → List Nat → Nat × Option Nat
  | _, used, [] => (used, none)
  | i, used, b :: r => if used + b + fl (i + 1) ≤ budget then codeRun fl budget (i + 1) (used + b) r else (used, some i)

/-- The floor type of a band's record. -/
def BandRec.floorType (r : BandRec) : FloorPic := if r.intra then .intra else .inter r.roll

/-- Changes a band's record. -/
def Dev.onBand (d : Dev) (c j band : Nat) (f : BandRec → BandRec) : Dev :=
  d.onEnc c fun x => { x with bands := x.bands.map fun r => if r.j = j ∧ r.band = band then f r else r }

/-- The record of a band. -/
def EncDyn.band? (x : EncDyn) (j band : Nat) : Option BandRec := x.bands.find? fun r => r.j = j && r.band = band

/-- Sets the record of a piece of a band. -/
def BandRec.setPiece (r : BandRec) (p : PieceRec) : BandRec :=
  { r with pieces := r.pieces.map fun q => if q.piece = p.piece then p else q }

/-- Whether a held band must be coded at intra floor: nothing to be predicted from (R152). -/
def Dev.holdsGrey (d : Dev) (c : Nat) (r : BandRec) : Bool :=
  ((d.enc? c).map fun x => x.intraPic r.k || x.lastIrap.isNone || r.j = x.first).getD false

/-! ## What a band's completion brings -/

/-- The cause of CONCEAL for a band of frame `k` of a status (R555). -/
def Dev.concealCause (d : Dev) (c k st : Nat) : Nat :=
  if st = 0x20 then 4 else if st = 0x21 then 3
  else if ((d.enc? c).map fun x => x.foreign.contains k).getD false then 1 else 2

/-- A completed band is reported (R220, R555): counts, FLOOR once for a picture, CONCEAL at the start and the end of an episode. -/
def Dev.reportBand (d : Dev) (c : Nat) (r : BandRec) : Dev :=
  match d.enc? c with
  | none => d
  | some x =>
    let st := r.status
    let crew := d.owner 1 c
    let k := r.k % 2 ^ 32
    let floored := st = 0x02 && x.floorPic ≠ some r.j
    let p? := r.pieces.find? fun p => p.status = 0x02
    let col := (p?.bind (·.floorCol)).getD 0
    let d := if floored then
        d.postEvent crew .floor (0x100 + c) [k, pack [(r.band, 16), (col, 0)], (p?.map (·.cause)).getD 0, 0]
      else d
    let bad := heldStatus st
    let d := match x.episode with
      | none => if bad then d.postEvent crew .conceal (0x100 + c) [d.concealCause c r.k st, k, pack [(r.band, 16), (1, 0)], 0] else d
      | some n => if bad then d else d.postEvent crew .conceal (0x100 + c) [0xF, k, pack [(r.band, 16), (n, 0)], 0]
    d.onEnc c fun x =>
      { x with floorBands := x.floorBands + bit (st = 0x02), heldBands := x.heldBands + bit (st = 0x04)
               floorPic := (if floored then some r.j else x.floorPic)
               episode := (if bad then some (min 0xFFFF (x.episode.getD 0 + 1)) else none)
               bands := x.bands.map fun q => if q.j = r.j ∧ q.band = r.band then { q with reported := true } else q }

/-- Reports completed bands in decoding order, as far as none before them is open. -/
def Dev.reportBands (d : Dev) (c : Nat) : (fuel : Nat) → Dev
  | 0 => d
  | n + 1 =>
    match (d.enc? c).bind fun x => x.bands.find? fun r => !r.reported with
    | none => d
    | some r => if r.done then (d.reportBand c r).reportBands c n else d

/-- The packetiser's token for a piece that has completed (R141): its own slot, or the slot of its pair once both are done. -/
def Dev.packToken (d : Dev) (g : EncCfg) (r : BandRec) (p : PieceRec) : Dev :=
  let seq := g.seqOf r.j r.band
  if g.division ≠ 1 then d.token g.pktFlow seq 0 p.status
  else if g.pieces ≤ 4 then d.token g.pktFlow seq p.piece p.status
  else
    let mate := p.piece / 2 * 2 + (1 - p.piece % 2)
    if r.pieces.any fun q => q.piece = mate && !q.done then d else d.token g.pktFlow seq (p.piece / 2) p.status

/-- A piece of a band has completed or been substituted with a record: once the band is whole its check value is logged (R522) and its image
goes to the reference pool (R168); the packetiser gets its token, and completed bands are reported. -/
def Dev.pieceDone (d : Dev) (c : Nat) (g : EncCfg) (j band : Nat) (p : PieceRec) (level crc : Nat) : Dev :=
  let d := d.onBand c j band fun r => { r.setPiece p with level := max r.level level }
  match (d.enc? c).bind fun x => x.band? j band with
  | none => d
  | some r =>
    let d := if r.done then
        (d.recordFrom (d.seenFrom (g.flows.getD p.piece 0) (g.release j band)) (d.owner 1 c) 0x10 0 (0x100 + c)
          [r.k % 2 ^ 32, band, crc]).onEnc c fun x => x.storeImage g c r
      else d
    let d := if p.done then d.packToken g r p else d
    d.reportBands c (((d.enc? c).map fun x => x.bands.length).getD 0)

/-- CTUs coded at floor are counted on the piece's Seat (R516). -/
def Dev.countFloor (d : Dev) (c : Nat) (g : EncCfg) (piece n : Nat) : Dev :=
  if n = 0 then d else d.pmuCount (g.firstSeat + piece) .floorCtu (d.owner 1 c) (g.flows.getD piece 0) n

/-- A piece of a band is floor-coded whole in place of its item (R67, R73, R74, R212), as `q` describes it: the status and the cause of
R220. A held band that has nothing to be predicted from is grey (R152). `level` is the degradation level of an item that was in service. -/
def Dev.pieceFloored (d : Dev) (c : Nat) (g : EncCfg) (j band piece status cause level : Nat) (q : ItemResult) : Dev :=
  match d.enc? c with
  | none => d
  | some x =>
    match (x.band? j band).bind fun r => (r.pieces.find? fun p => p.piece = piece).map fun p => (r, p) with
    | none => d
    | some (r, p) =>
      if p.done then d
      else
        let grey := status ≠ 0x02 && d.holdsGrey c r
        let t := if grey then .intra else r.floorType
        let d := if grey then d.onEnc c fun x => { x with grey := ((j, band) :: x.grey).take 256 } else d
        let p := { p with bits := g.floorFrom t [c, j, band] piece 0 q.floorBits, status := status, floorCol := some 0, cause := cause, done := true
                          qps := [], luma := [], blocks := [], sad := 0 }
        (d.countFloor c g piece (g.pieceCtus piece)).pieceDone c g j band (p.addPart (x.part g c r piece 0 (g.pieceCtus piece) 0 grey q))
          level q.crc

/-- The candidates of a piece-band join those that State keeps, of this picture and the two before (R186). -/
def EncDyn.keepCands (x : EncDyn) (n : Candidates) : EncDyn :=
  { x with cands := n :: x.cands.filter fun y => !(y.j = n.j && y.band = n.band && y.piece = n.piece) && decide (n.j ≤ y.j + 2) }

/-- The search of a piece-band that is coded: the schedule of its degradation level under the settings of its earliest release Stroke
(R185, R187); none where all of it is floor-coded. -/
def Dev.searchDone (d : Dev) (c : Nat) (g : EncCfg) (e j band level : Nat) (p : PieceRec) : Dev :=
  d.onEnc c fun x =>
    let g := x.searchCfg g e
    match g.searchAtLevel level with
    | none => x
    | some s => x.keepCands (x.searchPiece g s c j band p.piece p.qps p.blocks)

/-- A live piece-band that was in service completes (R210–R212): poisoned and FLOOR-level items are floor-coded whole. -/
def Dev.pieceCoded (d : Dev) (c : Nat) (g : EncCfg) (e j band piece level : Nat) (q : ItemResult) : Dev :=
  match d.enc? c with
  | none => d
  | some x =>
    match (x.band? j band).bind fun r => (r.pieces.find? fun p => p.piece = piece).map fun p => (r, p) with
    | none => d
    | some (r, p) =>
      if q.poisoned then d.pieceFloored c g j band piece 0x21 3 level q
      else if level = 2 then d.pieceFloored c g j band piece 0x02 3 level q
      else
        let t := r.floorType
        let n := g.pieceCtus piece
        let run := codeRun (g.floorRun t piece) p.budget 0 0 (q.ctuBits.take n)
        let kept := run.2.getD n
        let p := match run.2 with
          | none => { p with bits := run.1, done := true }
          | some i => { p with bits := run.1 + g.floorFrom t [c, j, band] piece i q.floorBits, status := 0x02, floorCol := some (g.column piece + i)
                               cause := 1, done := true }
        let p := p.addPart (x.part g c r piece 0 n kept false q)
        ((d.searchDone c g e j band level p).countFloor c g piece (n - kept)).pieceDone c g j band p level q.crc

/-! ## Units (R163, R192, R194–R200) -/

/-- The temporal identifier of a unit, in 0 … 6: the spec gives no temporal structure (notes/assumptions/66.md). -/
def temporalId (c j : Nat) : Nat := Config.temporalId [c, j] % 7

/-- What a unit says beside its coded CTUs. -/
def unitShown (g : EncCfg) (c : Nat) (rs : List BandRec) (u : UnitRec) : Output :=
  let slices := (g.sliceForms u.first u.last).map fun s => [s.bands.1, s.bands.2, s.pieces.1, s.pieces.2, bit s.dependent]
  let floors := rs.flatMap fun r => r.pieces.flatMap fun p =>
    let kept := g.kept p
    (List.range (g.pieceCtus p.piece - kept)).map fun n =>
      let block := (p.blocks.getD 0 []).getD ((kept + n) * g.ctu / 16) default
      (r.band, g.column p.piece + kept + n, g.floorSyntax block.intra block.skip)
  .unit c (u.k % 2 ^ 32) u.first u.last (if u.params then g.parameterSets else [])
    (u.sei.map fun m => (m.payload g.vvc, m.values g.vvc)) slices floors (if 3 ≤ u.filler then fillerNal g.vvc (temporalId c u.j) u.filler else [])

/-- The bytes of a unit's NAL units, its parameter sets and SEI messages apart from its slices and its filler (R195, R372). What the header
bits leave beyond those counts with the first slice. DEDUCED (notes/assumptions/44.md). -/
def nalsOf (g : EncCfg) (rs : List BandRec) (first last coded total : Nat) (params : Bool) (sei : List Sei) : List Nat × List Nat :=
  let head := (if params then [cdiv (Config.parameterBits g.parameterSets) 8] else []) ++
    sei.map fun m => cdiv (Config.seiBits (m.payload g.vvc) (m.values g.vvc)) 8
  let slices := (g.sliceForms first last).map fun s =>
    cdiv (sumBy (fun r => if s.bands.1 ≤ r.band ∧ r.band ≤ s.bands.2 then
      sumBy (fun p => if s.pieces.1 ≤ p.piece ∧ p.piece ≤ s.pieces.2 then p.bits else 0) r.pieces else 0) rs) 8
  (head, (coded - sumBy id head - sumBy id (slices.drop 1)) :: slices.drop 1 ++ (if coded < total then [total - coded] else []))

/-- The unit that some bands of a picture make: its bytes, its worst status and its flags (R150, R163, R194–R197), its SEI messages, and of one
band its record (R190). DESIGN CHOICE (notes/assumptions/73.md): a late segment shows in the status before a floored band does. -/
def EncDyn.unitOf (x : EncDyn) (g : EncCfg) (tod : Int × Nat) (c : Nat) (rs : List BandRec) (now : Nat) : UnitRec :=
  let first := ((rs.head?).map (·.band)).getD 0
  let last := (rs.getLast?).map (·.band)
  let k := ((rs.head?).map (·.k)).getD 0
  let late := rs.any fun r => r.pieces.any (·.late)
  let has (st : Nat) : Bool := rs.any fun r => r.status = st
  let st := if late && !([0x20, 0x21, 0x04].any has) then 0x03 else ([0x20, 0x21, 0x04, 0x02].find? has).getD 0
  let coded := cdiv (sumBy (fun r => r.header + r.bits) rs) 8
  let bytes := if g.live && !g.vbr then g.slot first else coded
  let params := first = 0 && (decide (x.kindOf k ≤ 1) || x.refreshStart k)
  let sei := x.seiOf g tod c k first
  let nals := nalsOf g rs first (last.getD first) coded bytes params sei
  { j := ((rs.head?).map (·.j)).getD 0, k := k, first := first, last := last.getD 0
    bytes := bytes
    status := st, held := rs.any fun r => heldStatus r.status, floor := rs.any fun r => r.pieces.any fun p => p.floorCol.isSome
    irap := x.kindOf k ≤ 1, params := params, lastInAu := last = some (g.bands - 1)
    released := ((rs.head?).map (·.released)).getD 0, due := now, late := late, coded := coded, sei := sei
    record := rs.head?.elim [] (x.recordOf g c), field := rs.head?.elim [] fun r => (g.bandBlocks r).map fieldEntry
    qpMap := rs.head?.elim [] g.qpMap, head := nals.1, body := nals.2 }

/-- Offset and jam instant of the time of day (R404). -/
def Dev.tod (d : Dev) : Int × Nat :=
  (signed 17 (d.fld Reg.timeTodCfg F.timeTodCfg_localOffset) - (d.utcOffset : Nat), d.fld Reg.timeTodJam F.timeTodJam_jam)

/-- A unit leaves coding: it is shown, its bits go to the account of a VBR stream (R197), its time code to the next picture's (R145), and it
waits for egress and for delivery. -/
def Dev.sendUnit (d : Dev) (c : Nat) (g : EncCfg) (rs : List BandRec) : Dev :=
  match d.enc? c with
  | none => d
  | some x =>
    let u := x.unitOf g d.tod c rs d.now
    let d := d.emit (unitShown g c rs u)
    d.onEnc c fun x =>
      { x with units := x.units ++ [u], wire := (if g.live then (u :: x.wire).take 64 else x.wire)
               account := (if g.vbr then (d.now, 8 * u.bytes) :: x.account.filter (fun y => decide (d.now < y.1 + 8000)) else x.account)
               lastTc := (if u.first = 0 then some (x.timeCodeOf g d.tod c u.k).1 else x.lastTc) }

/-- The bits that the units of the last 8,000 Strokes took, which a VBR stream steers by TARGET_RATE (R197). -/
def EncDyn.vbrBits (x : EncDyn) (now : Nat) : Nat := sumBy (·.2) (x.account.filter fun y => decide (now < y.1 + 8000))

/-- A band's record of statistics is due (R192). -/
def Dev.statsDue (d : Dev) (c : Nat) (g : EncCfg) (r : BandRec) : Dev :=
  d.onEnc c fun x => { x with stats := x.stats ++ [x.unitOf g d.tod c [r] d.now] }

/-- A picture's last band has finished: its counts, QP_LAST, the requests that named it, the unit of a Course, Head or best-effort picture, and
the release of its records and its buffer. DESIGN CHOICE (notes/assumptions/73.md): a best-effort channel of CLASS Sprint makes its unit of
the whole picture too. -/
def Dev.pictureDone (d : Dev) (c : Nat) (g : EncCfg) (j : Nat) : Dev :=
  match d.enc? c with
  | none => d
  | some x =>
    let rs := x.bands.filter fun r => r.j = j
    let k := x.frameOf j
    let kind := x.kindOf k
    let qps := rs.flatMap BandRec.qps
    let n := max 1 qps.length
    let floors := rs.any fun r => r.pieces.any fun p => p.floorCol.isSome
    let d := if g.cls = 0 && g.live then d else d.sendUnit c g rs
    let d := d.onEnc c fun x =>
      { x with coded := x.coded + 1, floorPics := x.floorPics + bit floors
               begun := x.begun || decide (kind ≤ 1)
               force := x.force.filter fun r => r.frame ≠ some k
               bands := x.bands.filter fun r => r.j ≠ j }
    let a := Reg.encChRcStat c
    let d := (d.endPicture c j).setFld a F.encChRcStat_floorPics (x.floorPics + bit floors)
    let d := d.setFld a F.encChRcStat_qpLast ((2 * sumBy id qps + n) / (2 * n))
    (x.force.filter fun r => r.frame = some k).foldl (fun d r => d.finish r.desc 0 [k % 2 ^ 32, kind]) d

/-- A band whose coding deadline has passed finishes at a boundary: its bits weigh the next picture's (R205), and its statistics and its
unit are due (R164, R192, R452). -/
def Dev.finishBand (d : Dev) (c : Nat) (r : BandRec) : Dev :=
  match (d.enc? c).bind fun x => cfgFor x.cfgs r.j with
  | none => d
  | some (_, g) =>
    let held := heldStatus r.status
    let d := d.onEnc c fun x =>
      { x with bands := x.bands.map fun q => if q.j = r.j ∧ q.band = r.band then { q with finished := true } else q
               coBits := r.pieces.foldl (fun t p => Tab.put zero t (8 * r.band + p.piece) (if held then 0 else p.bits + 1)) x.coBits }
    let d := if g.cls = 0 then (d.statsDue c g r).sendUnit c g [r] else d.statsDue c g r
    let whole := ((d.enc? c).map fun x =>
      let rs := x.bands.filter fun q => q.j = r.j
      rs.length = g.bands && rs.all (·.finished)).getD false
    if whole then d.pictureDone c g r.j else d

/-- The work of a boundary on one encode channel, in this order: source bands are taken in (R166), bands of a live channel whose deadline has
passed finish, reference tokens and rate tokens go out. -/
def Dev.encBoundary (d : Dev) (l : List BandContent) (c : Nat) : Dev :=
  let d := (l.filter fun b => b.chan = c).foldl (fun d b => d.onEnc c fun x =>
    ((cfgFor x.cfgs b.k).map fun p => x.takeSource p.2 c b).getD x) d
  match d.enc? c with
  | none => d
  | some x =>
    let d := (x.bands.filter fun r => !r.finished && r.done && decide (r.released + 3 ≤ d.now)
      && ((cfgFor x.cfgs r.j).map fun p => p.2.live).getD false).foldl (fun d r => d.finishBand c r) d
    let d := (((d.enc? c).map fun x => d.refsDue x d.now).getD []).foldl
      (fun d y => if y.1.live then d.refToken y.1 y.2.1 y.2.2 else d) d
    (((d.enc? c).map fun x => x.dueAt d.now).getD []).foldl (fun d y => if y.1.live then d.rateToken c y.1 y.2.1 y.2.2 else d) d

/-! ## Best-effort channels (R148–R150, R219, R288) -/

/-- Opens the record of a band of a best-effort picture. -/
def Dev.openBand (d : Dev) (c : Nat) (g : EncCfg) (j band : Nat) : Dev :=
  match d.enc? c with
  | none => d
  | some x =>
    if (x.band? j band).isSome then d
    else
      let k := x.frameOf j
      let d := d.onEnc c fun x => x.openFrame k d.now
      let d := if band = 0 then d.beginPicture c g j k else d
      d.onEnc c fun x =>
        let t := x.floorPic' j k band
        let header := if band = 0 then x.headerOf g c k 0 t else 0
        let ps := ((List.range g.pieces).filter fun i => g.takes i band).map fun i =>
          ({ piece := i, budget := x.pieceBudget g t j band i header, bits := 0, status := 0, floorCol := none, cause := 0
             done := false } : PieceRec)
        { x with bands := x.bands ++ [{ j := j, k := k, band := band, header := header, intra := t == .intra, roll := x.rollOf k, pieces := ps
                                        level := 0, released := d.now, reported := false, finished := false }] }

/-- The item of a piece that follows item `n` in its flow (R148). -/
def EncCfg.nextItem (g : EncCfg) (piece n : Nat) : Nat :=
  (firstFrom (fun m =>
    let x := g.ofNumber m
    g.takes piece x.2.1 && decide (x.2.2 * g.segCtus < g.pieceCtus piece)) (g.segs * (g.bands + g.pieces) + g.segs) (n + 1)).getD (n + 1)

/-- The rate token of a best-effort item (R219), and its reference token unless its picture waits for the one before. -/
def Dev.segTokens (d : Dev) (c : Nat) (g : EncCfg) (piece n : Nat) (ref : Bool) : Dev :=
  let x := g.ofNumber n
  let f := g.flows.getD piece 0
  let d := d.openBand c g x.1 x.2.1
  let budget := ((d.enc? c).bind fun y => (y.band? x.1 x.2.1).bind fun r => (r.pieces.find? fun p => p.piece = piece).map (·.budget)).getD 0
  let d := d.token f (n % 65536) 2 budget
  if ref then d.token f (n % 65536) 1 (x.1 - 1) else d

/-- The first item of a piece in a picture. -/
def EncCfg.firstItem (g : EncCfg) (piece j : Nat) : Nat :=
  let n := j * g.bands * g.segs
  if g.takes piece 0 then n else g.nextItem piece n

/-- A best-effort picture begins, as a frame boundary would begin it, and its first items get their tokens: its reference is whole. -/
def Dev.startPicture (d : Dev) (c : Nat) (g : EncCfg) (j : Nat) : Dev :=
  (List.range g.pieces).foldl (fun d p =>
    let n := g.firstItem p j
    if (g.ofNumber n).1 = j then
      let d := if ((d.item? (g.flows.getD p 0) (n % 65536)).map fun i => bitAt i.filled 2).getD false then d
        else d.segTokens c g p n false
      d.token (g.flows.getD p 0) (n % 65536) 1 (j - 1)
    else d) (d.encFrame c (((d.enc? c).map fun x => x.frameOf j).getD j))

/-- The picture that a best-effort channel codes is over: a post of a host picture completes with its status (R288), and the next
picture starts. -/
def Dev.nextPicture (d : Dev) (c : Nat) (g : EncCfg) (j status : Nat) : Dev :=
  let p? := (d.enc? c).bind fun x => x.posts.head?
  let d := d.onEnc c fun x => { x with place := j + 1, posts := (if g.srcType = 4 then x.posts.drop 1 else x.posts) }
  let d := match p? with
    | some y => if g.srcType = 4 then d.finish y status [] else d
    | none => d
  d.startPicture c ((((d.enc? c).bind fun x => cfgFor x.cfgs (j + 1)).map (·.2)).getD g) (j + 1)

/-- The bits of CTUs `a` to `b` of a piece-band coded at floor; `run` says that the run begins with them (R208). -/
def EncCfg.floorAt (g : EncCfg) (t : FloorPic) (place : List Nat) (piece from_ a b : Nat) (run : Bool) (bits : List Nat) : Nat :=
  sumBy (fun n =>
    let col := g.column piece + n
    floorBitsOf place bits col (n - from_) (if run && n = a then g.floorFirst t col else g.floorCtu t col)) ((List.range (b - a)).map (a + ·))

/-- A piece's record with a segment more (R75, R150, R210, R219): the reserve runs across the segments of the piece-band. -/
def EncCfg.segRec (g : EncCfg) (t : FloorPic) (place : List Nat) (p : PieceRec) (from_ to_ : Nat) (late : Bool) (q : ItemResult) : PieceRec × Nat :=
  let p := { p with late := p.late || late, done := decide (g.pieceCtus p.piece ≤ to_) }
  match p.floorCol with
  | some _ => ({ p with bits := p.bits + g.floorAt t place p.piece from_ from_ to_ false q.floorBits }, from_)
  | none =>
    let run := codeRun (g.floorRun t p.piece) p.budget from_ p.bits (q.ctuBits.take (to_ - from_))
    match run.2 with
    | none => ({ p with bits := run.1 }, to_)
    | some n => ({ p with bits := run.1 + g.floorAt t place p.piece from_ n to_ true q.floorBits, status := 0x02
                          floorCol := some (g.column p.piece + n), cause := 1 }, n)

/-- A best-effort segment completes (R75, R148–R150, R192, R210). -/
def Dev.segCoded (d : Dev) (c : Nat) (g : EncCfg) (i : Item) (piece : Nat) (late : Bool) (q : ItemResult) : Dev :=
  let n := g.ofNumber i.n
  match d.enc? c with
  | none => d
  | some x =>
    match (x.band? n.1 n.2.1).bind fun r => (r.pieces.find? fun p => p.piece = piece).map fun p => (r, p) with
    | none => d
    | some (r, p) =>
      let from_ := n.2.2 * g.segCtus
      let to_ := min (from_ + g.segCtus) (g.pieceCtus piece)
      let y := g.segRec r.floorType [c, n.1, n.2.1] p from_ to_ late q
      let p := y.1.addPart (x.part g c r piece from_ to_ y.2 false q)
      let d := if p.done then d.searchDone c g i.e n.1 n.2.1 0 p else d
      let d := (d.countFloor c g piece (to_ - y.2)).pieceDone c g n.1 n.2.1 p 0 q.crc
      let next := g.nextItem piece i.n
      let same := (g.ofNumber next).1 = n.1
      let d := if same || d.encCfg? c == some g then d.segTokens c g piece next same else d
      let rs := ((d.enc? c).map fun y => y.bands.filter fun r => r.j = n.1).getD []
      let d := match rs.find? fun r => r.band = n.2.1 && r.done with
        | some r => d.statsDue c g r
        | none => d
      if rs.length = g.bands && rs.all (·.done) then
        let st := ((d.enc? c).map fun y => (y.unitOf g d.tod c rs d.now).status).getD 0
        (d.pictureDone c g n.1).nextPicture c g n.1 st
      else d

/-- A best-effort picture is abandoned (R150, R431): its items go, its delivery completes with the status and nothing, and the next
picture is an IDR picture. -/
def Dev.abandon (d : Dev) (c : Nat) (g : EncCfg) (j status : Nat) : Dev :=
  match d.enc? c with
  | none => d
  | some x =>
    let k := x.frameOf j
    let mine (i : Item) : Bool := g.flows.contains i.flow && i.unit.isNone && (g.ofNumber i.n).1 = j
    let d := (d.cox.items.filter mine).foldl (fun d i => d.endItem i.flow i.seq false) d
    let u : UnitRec := { j := j, k := k, first := 0, last := g.bands - 1, bytes := 0, status := status, held := false, floor := false
                         irap := x.kindOf k ≤ 1, params := false, lastInAu := true, released := d.now, due := d.now }
    let d := (d.endPicture c j).onEnc c fun x =>
      { x with bands := x.bands.filter fun r => r.j ≠ j, units := x.units ++ [u], lastIrap := none
               pictures := x.pictures.filter fun p => decide (p.1 ≤ k) }
    d.nextPicture c g j status

end Sys2Proof.Machine
end

