-- ==== Sys2Proof/Machine/EncHost.lean ====
section
/-! DEFINITION. Encode channels toward the host (R159–R165, R188–R193, R288): deliveries of bitstreams and statistics, and the descriptors
that name an encode channel. -/

namespace Sys2Proof.Machine

/-! ## Deliveries (R163, R164, R192) -/

/-- Whether a delivery of a live channel comes too late to be written (R117). -/
def Dev.unitLate (d : Dev) (c : Nat) (u : UnitRec) : Bool := d.tooLate u.due && ((d.encCfg? c).map (·.live)).getD false

/-- Delivers one unit of a bitstream (R163). -/
def Dev.deliverBs (d : Dev) (c : Nat) (u : UnitRec) : Dev :=
  match d.standing? 0x30 (0x100 + c) with
  | none => d
  | some s =>
    if u.released < s.start then d
    else if d.unitLate c u then d.loseDelivery s.desc
    else d.deliverUnit s u.bytes u.status (2 ^ 18 * bit u.held + 2 ^ 17 * bit u.floor) (2 ^ 22 * bit u.params + 2 ^ 16 * bit u.irap)
      (2 ^ 21 * bit u.lastInAu) (u.k % 2 ^ 32) (pack [(u.first, 16), (u.last, 0)])

/-- Delivers statistics (R192). DESIGN CHOICE (notes/assumptions/73.md): with STATUS DONE, also where it reports a held or floored band. -/
def Dev.deliverStats (d : Dev) (c : Nat) (u : UnitRec) : Dev :=
  match d.standing? 0x50 (0x100 + c) with
  | none => d
  | some s =>
    if u.released < s.start then d
    else if d.unitLate c u then d.loseDelivery s.desc
    else d.deliverUnit s u.bytes 0 (2 ^ 18 * bit u.held + 2 ^ 17 * bit u.floor) 0 0 (u.k % 2 ^ 32) (pack [(u.first, 16), (u.last, 0)])
      (some u.record)

/-- The unit of a whole picture from its bands' units, in order; a late segment shows before a floored band (notes/assumptions/73.md). -/
def joinUnits (l : List UnitRec) : Option UnitRec :=
  match l with
  | [] => none
  | u :: _ =>
    some { u with last := ((l.getLast?).map (·.last)).getD u.last, bytes := sumBy (·.bytes) l
                  status := ([0x20, 0x21, 0x04, 0x03, 0x02].find? fun st => l.any fun v => v.status = st).getD 0
                  held := l.any (·.held), floor := l.any (·.floor), lastInAu := l.any (·.lastInAu)
                  record := l.flatMap (·.record) }

/-- The whole pictures among some bands' units, in order: of those that came in part, their first bands taken away before, nothing is
delivered. `fuel` is their number. -/
def wholePictures : (fuel : Nat) → List UnitRec → List UnitRec
  | 0, _ => []
  | _, [] => []
  | n + 1, u :: r =>
    let mine := (u :: r).filter fun v => v.k = u.k
    let rest := wholePictures n (r.filter fun v => v.k ≠ u.k)
    match joinUnits mine with
    | some v => if v.first = 0 && v.lastInAu then v :: rest else rest
    | none => rest

/-- The units that wait for the rest of their picture, and the deliveries that are due, by unit or by whole picture. -/
def deliveries (l : List UnitRec) (join : Bool) : List UnitRec × List UnitRec :=
  if !join then ([], l)
  else
    let whole (u : UnitRec) : Bool := l.any fun v => v.k = u.k && v.lastInAu
    let ready := l.filter whole
    (l.filter fun u => !whole u, wholePictures ready.length ready)

/-- The units of a channel that are due are written into host buffers or lost; with no post they go. -/
def Dev.deliverBsAll (d : Dev) (c : Nat) : Dev :=
  match d.enc? c, d.standing? 0x30 (0x100 + c) with
  | some x, some p =>
    let l := deliveries x.units (bitAt (p.desc.w 6) 16 && x.units.any fun u => decide (u.first ≠ u.last ∨ !u.lastInAu))
    l.2.foldl (fun d u => d.deliverBs c u) (d.onEnc c fun x => { x with units := l.1 })
  | _, _ => d.onEnc c fun x => { x with units := [] }

/-- BS_DELIVERY (R163, R164). -/
def execBsDelivery (chan : Nat) (s : State) : Host.Outcome State Fault Refusal := s.lift fun d => d.deliverBsAll chan

/-- The records of a channel that are due are written into host buffers or lost; with no post they go. -/
def Dev.deliverStatsAll (d : Dev) (c : Nat) : Dev :=
  match d.enc? c, d.standing? 0x50 (0x100 + c) with
  | some x, some p =>
    let written (u : UnitRec) : UnitRec :=
      let l := u.statWords (bitAt (p.desc.w 6) 17)
      { u with record := l, bytes := 4 * l.length }
    let join := bitAt (p.desc.w 6) 16
    (deliveries (x.stats.map written) join).2.foldl (fun d u => d.deliverStats c u)
      (d.onEnc c fun x => { x with stats := (deliveries x.stats join).1 })
  | _, _ => d.onEnc c fun x => { x with stats := [] }

/-- STATS_DELIVERY (R192): the records that are due, by band or by picture. -/
def execStatsDelivery (chan : Nat) (s : State) : Host.Outcome State Fault Refusal := s.lift fun d => d.deliverStatsAll chan

/-! ## Descriptors (R159–R165, R189, R193, R288) -/

/-- The settings of a channel as they will stand at a Stroke. -/
def Dev.encSoon? (d : Dev) (c t : Nat) : Option EncCfg :=
  ((d.stk.accepted.reverse.findSome? fun m =>
    if m.effect ≤ t then (m.place.encs.find? fun p => p.1 = c).map (·.2) else none)).or (d.encCfg? c)

/-- The channel of a descriptor's object. -/
def Desc.chan (x : Desc) : Nat := match x.kind with
  | .enc c => c
  | .pic c => c
  | _ => 0

/-- A test of a channel's settings. -/
def Dev.encTest (d : Dev) (x : Desc) (bad : EncCfg → Bool) : Option (Nat × List Nat) :=
  formatIf (((d.encSoon? x.chan (d.effectOf x)).map bad).getD true)

/-- FORCE_IRAP's own tests (R159). -/
def testForceIrap (d : Dev) (x : Desc) : Option (Nat × List Nat) :=
  d.encTest x fun g => x.w 3 % 4 = 3 || (!g.live && x.w 3 % 4 = 2)

/-- FORCE_IRAP (R159): it completes with the picture it falls on. -/
def execForceIrap (crew ring : Nat) (s : State) : Host.Outcome State Fault Refusal :=
  s.onDue crew ring 0x10 fun d x => d.onEnc x.chan fun y => { y with force := y.force ++ [(⟨x, x.w 3 % 4, none⟩ : ForceReq)] }

/-- SET_HDR's own tests (R160). -/
def testSetHdr (_ : Dev) (x : Desc) : Option (Nat × List Nat) :=
  formatIf (([3, 4, 5, 6].any fun i => decide (50000 < x.w i / 65536 ∨ 50000 < x.w i % 65536)) || decide (x.w 7 ≤ x.w 8) ||
    decide (x.w 9 / 65536 < x.w 9 % 65536))

/-- SET_HDR (R160): it is taken in at the first frame boundary at or after its effect. -/
def execSetHdr (crew ring : Nat) (s : State) : Host.Outcome State Fault Refusal :=
  s.onDue crew ring 0x11 fun d x => d.onEnc x.chan fun y => { y with hdrNext := y.hdrNext ++ [x] }

/-- QUERY (R161). -/
def execQuery (crew ring : Nat) (s : State) : Host.Outcome State Fault Refusal :=
  s.onDue crew ring 0x12 fun d x =>
    match d.enc? x.chan with
    | none => d.finish x 0 []
    | some y => d.finish x 0 [y.coded % 2 ^ 32, y.floorBands % 2 ^ 32, y.heldBands % 2 ^ 32,
        pack [(y.mismatches % 65536, 16), (y.forced % 65536, 0)]]

/-- BS_POST's own tests (R162). -/
def testBsPost (d : Dev) (x : Desc) : Option (Nat × List Nat) :=
  d.encTest x fun g => x.buffersBad || (g.live && !g.hostCopy) || d.posted 0x30 x.object || (!bitAt (x.w 6) 16 && g.cls ≠ 0)

/-- BS_POST (R162). -/
def execBsPost (crew ring : Nat) (s : State) : Host.Outcome State Fault Refusal :=
  s.onDue crew ring 0x30 fun d x => d.stand x []

/-- BS_STOP (R165): deliveries already begun finish first. -/
def execBsStop (crew ring : Nat) (s : State) : Host.Outcome State Fault Refusal :=
  s.onDue crew ring 0x31 fun d x =>
    let d := d.deliverBsAll x.chan
    d.stopPost x (d.standing? 0x30 x.object)

/-- Bytes of a record of statistics (R190). -/
def EncCfg.statBytes (g : EncCfg) (band : Nat) (field : Bool) : Nat :=
  let blocks := g.blocksAcross * cdiv (g.lines band) 16
  64 + (if field then cdiv (4 * blocks) 64 * 64 else 0) + cdiv blocks 64 * 64

/-- Bytes of the largest statistics delivery. -/
def EncCfg.statMax (g : EncCfg) (unit field : Bool) : Nat :=
  if unit then sumBy (fun b => g.statBytes b field) (List.range g.bands) else g.statBytes 0 field

/-- STATS_POST's own tests (R189). -/
def testStatsPost (d : Dev) (x : Desc) : Option (Nat × List Nat) :=
  d.encTest x fun g =>
    x.buffersBad || d.posted 0x50 x.object || decide (x.w 5 < g.statMax (bitAt (x.w 6) 16) (bitAt (x.w 6) 17))

/-- MB/s of a STATS_POST (R117, R189). -/
def rateStatsPost (d : Dev) (x : Desc) : Nat × Nat :=
  (0, ((d.encSoon? x.chan (d.effectOf x)).map fun g => cdiv (g.statMax true (bitAt (x.w 6) 17) * g.num) (g.den * 1000000)).getD 0)

/-- STATS_POST (R189). -/
def execStatsPost (crew ring : Nat) (s : State) : Host.Outcome State Fault Refusal :=
  s.onDue crew ring 0x50 fun d x => d.stand x []

/-- STATS_STOP (R193): deliveries already begun finish first. -/
def execStatsStop (crew ring : Nat) (s : State) : Host.Outcome State Fault Refusal :=
  s.onDue crew ring 0x51 fun d x =>
    let d := d.deliverStatsAll x.chan
    d.stopPost x (d.standing? 0x50 x.object)

/-- PIC_POST's own tests (R288). -/
def testPicPost (d : Dev) (x : Desc) : Option (Nat × List Nat) :=
  d.encTest x fun g => x.w 3 % 256 ≠ 0 || g.live || g.srcType ≠ 4

/-- A host picture is posted: the items of its place in the queue that wait for it take their deadlines from its target Stroke (R72). -/
def Dev.picTarget (d : Dev) (c : Nat) (x : Desc) : Dev :=
  match d.enc? c, d.encCfg? c with
  | some y, some g =>
    let j := y.place + y.posts.length
    let due (i : Item) : Nat := x.target + F.coxFlowDl_beTimeout.get (d.flowDlAt i.flow i.e)
    let its (i : Item) : Bool := g.flows.contains i.flow && i.target == noTarget && (g.ofNumber i.n).1 == j
    d.onCox fun k => { k with items := k.items.map fun i => if its i then { i with target := x.target, rd := due i, cd := due i } else i }
  | _, _ => d

/-- PIC_POST (R288): a picture joins the channel's queue and its planes are read from the host; its band tokens come as their
lines have been copied. -/
def execPicPost (crew ring : Nat) (s : State) : Host.Outcome State Fault Refusal :=
  s.onDue crew ring 0x28 fun d x =>
    let lines := ((d.encCfg? x.chan).map fun g => g.height + 2 * (if g.srcFmt = 4 then g.height / 2 else g.height)).getD 0
    ((d.picTarget x.chan x).emit (.hostRead x.crew (x.addr 3) (256 * x.w 5 * lines))).onEnc x.chan fun y =>
      { y with posts := y.posts ++ [x] }

/-- The opcodes of this file. -/
def encodeRules : List OpRule :=
  let enc (k : ObjKind) : Bool := match k with | .enc _ => true | _ => false
  let pic (k : ObjKind) : Bool := match k with | .pic _ => true | _ => false
  let ok (_ : Dev) (_ : Desc) : Option (Nat × List Nat) := none
  [{ opcode := 0x10, masks := [(3, 3)], kind := enc, house := false, test := testForceIrap },
   { opcode := 0x11, masks := (List.range 7).map fun i => (i + 3, allBits), kind := enc, house := false, test := testSetHdr },
   { opcode := 0x12, masks := [], kind := enc, house := false, test := ok },
   { opcode := 0x30, masks := bufferMasks 0x10000, kind := enc, house := false, test := testBsPost },
   { opcode := 0x31, masks := [], kind := enc, house := false, test := ok },
   { opcode := 0x50, masks := bufferMasks 0x30000, kind := enc, house := false, test := testStatsPost, rate := rateStatsPost }] ++
  [{ opcode := 0x51, masks := [], kind := enc, house := false, test := ok },
   { opcode := 0x28, masks := [(3, allBits), (4, allBits), (5, allBits)], kind := pic, house := false, test := testPicPost }]

end Sys2Proof.Machine
end

