-- ==== Sys2Proof/Machine/Decode.lean ====
section
/-! DEFINITION. Decode channels at work (R222–R224, R231–R245, R557): pools, access units and their slots, completions, taint,
episodes, presentation and consumers, and the descriptors of a channel. -/

namespace Sys2Proof.Machine

/-! ## Channels -/

/-- What an unlisted decode channel reads as: not enabled. -/
def noDec (_ : Nat) : Option DecDyn := Option.none

/-- Changes a decode channel in operation. -/
def Dev.onDec (d : Dev) (c : Nat) (f : DecDyn → DecDyn) : Dev := { d with dec := Tab.put noDec d.dec c ((d.dec? c).map f) }

/-- Whether decoding has started by a slot (R238). -/
def DecDyn.startedBy (x : DecDyn) (k : Nat) : Bool :=
  match x.start with
  | none => false
  | some s => decide (s ≤ k)

/-- The unit mapped to a slot. -/
def DecDyn.unit? (x : DecDyn) (k : Nat) : Option SlotUnit := x.units.find? fun u => u.slot = k

/-- The consumers of a decode channel in operation (R242): layers and encode channels. -/
def Dev.consumers (d : Dev) (c : Nat) : Nat :=
  sumBy (fun p => match p.2 with
    | none => 0
    | some y => ((y.cfg.layers.filter fun l => l.srcType = 2 && l.srcIndex = c).length)) d.cmp.progs +
  (d.enc.filter fun p => match p.2 with
    | none => false
    | some y => (y.cfgs.head?).any fun q => q.2.srcType = 3 && q.2.srcIndex = c).length

/-- At a boundary a closing pool whose channel has no consumer left loses its holds, and goes once its last buffer is free (R222,
R243). Pool 512 + d is one that decode channel d had before it restarted (R557). -/
def Dev.releasePools (d : Dev) : Dev :=
  { d with pools := d.pools.filterMap fun p => match p.2 with
      | none => none
      | some x =>
        let x := if x.closing && decide (256 ≤ p.1) && d.consumers (p.1 % 256) == 0 then
          { x with buffers := x.buffers.map fun b => { b with hold := 0 } } else x
        if x.closing && x.buffers.all (·.free) then none else some (p.1, some x) }

/-! ## Episodes (R241) -/

/-- The event of an episode. -/
def Dev.decEvent (d : Dev) (c cause k : Nat) (e : Nat × Nat) : Dev :=
  d.postEvent (d.owner 2 c) .conceal (0x200 + c) [cause, k % 2 ^ 32, pack [(min 0xFFFF e.1, 16), (min 0xFFFF e.2, 0)], 0]

/-- A picture completes other than DONE once decoding has started: counted in the episode, which it begins when it has a cause of
its own. -/
def Dev.decTrouble (d : Dev) (c k cause : Nat) (held : Bool) : Dev :=
  match d.dec? c with
  | none => d
  | some x =>
    let one (e : Nat × Nat) : Nat × Nat := if held then (e.1 + 1, e.2) else (e.1, e.2 + 1)
    match x.episode with
    | some e => d.onDec c fun x => { x with episode := some (one e) }
    | none =>
      if cause = 0 then d
      else (d.decEvent c cause k (one (0, 0))).onDec c fun x => { x with episode := some (one (0, 0)), episodes := x.episodes + 1 }

/-- An episode ends when taint has cleared and the picture is neither held nor concealed. -/
def Dev.decCalm (d : Dev) (c k : Nat) : Dev :=
  match d.dec? c with
  | none => d
  | some x =>
    match x.episode with
    | some e => if x.tainted then d else (d.decEvent c 0x1F k e).onDec c fun x => { x with episode := none }
    | none => d

/-- A count of DEC_CH_COUNT. -/
def Dev.decCount (d : Dev) (c : Nat) (held : Bool) : Dev :=
  d.addFld (Reg.decChCount c) (if held then F.decChCount_held else F.decChCount_concealed) 1

/-! ## Slots without a picture (R236, R238, R239) -/

/-- Forgets what is known of a slot. -/
def Dev.closeSlot (d : Dev) (c k : Nat) : Dev :=
  d.onDec c fun x => { x with units := x.units.filter (fun u => decide (k < u.slot)), noBuffer := x.noBuffer.filter (fun n => decide (k < n)) }

/-- Why a slot has no picture, in the order of R241; `cause` is that of its item, 0 for none. -/
def DecDyn.heldCause (x : DecDyn) (k cause : Nat) : Nat :=
  if cause = 0x17 ∨ cause = 0x18 then cause
  else if x.noBuffer.contains k then 0x19
  else if x.mismatch then 0x14
  else if ((x.unit? k).map (·.tooLarge)).getD false then 0x15 else 0x11

/-- Slot `k` yields no picture: the one presented stays. Before decoding has started nothing is counted (R238). -/
def Dev.decHeld (d : Dev) (c k cause : Nat) : Dev :=
  match d.dec? c with
  | none => d
  | some x =>
    let d := if x.startedBy k then
        (((d.onDec c fun x => { x with held := x.held + 1, lastLoss := some k }).decCount c true).decTrouble c k (x.heldCause k cause) true)
      else d
    d.closeSlot c k

/-- A non-reference picture is skipped at FLOOR (R231): counted as held, in no episode. -/
def Dev.decSkip (d : Dev) (c k : Nat) : Dev :=
  ((d.onDec c fun x => { x with held := x.held + 1 }).decCount c true).closeSlot c k

/-! ## Access units (R233, R234, R238, R240) -/

/-- The 90 kHz time that an RTP timestamp names: the candidate nearest to an arrival. -/
def near32 (here ts : Nat) : Nat :=
  let base := here + 2 ^ 31
  base - (base + 2 ^ 32 - ts % 2 ^ 32) % 2 ^ 32

/-- The frame whose boundary lies nearest to a 90 kHz time, a tie going to the later. -/
def DecCfg.frameNear (g : DecCfg) (t : Nat) : Nat := (2 * t * g.num + 90000 * g.den) / (2 * 90000 * g.den)

/-- The token of a slot's access unit (R233). -/
def Dev.auToken (d : Dev) (c : Nat) (k : Nat) : Dev :=
  match d.dec? c with
  | none => d
  | some x =>
    (d.onDec c fun x => { x with units := x.units.map fun u => if u.slot = k then { u with sent := true } else u }).tokenIn
      x.cfg.flow (k % 65536) 0 k

/-- The NAL unit types of a packet. -/
def nalTypes : NalPacket → List Nat
  | .single t _ => [t]
  | .aggregation l => l.map (·.1)
  | .fragment t _ _ _ => [t]

/-- The bytes of the access unit that a packet carries (R232): those of its NAL units, of whose header a fragment's first part restores two. -/
def nalBytes : NalPacket → Nat
  | .single _ b => b
  | .aggregation l => sumBy (·.2) l
  | .fragment _ b first _ => b + 2 * bit first

/-- Whether a NAL unit is a slice of an IRAP picture (R237): IDR, CRA or BLA of HEVC, IDR or CRA of VVC. -/
def irapType (vvc : Bool) (t : Nat) : Bool := if vvc then decide (7 ≤ t ∧ t ≤ 9) else decide (16 ≤ t ∧ t ≤ 21)

/-- Whether a NAL unit is a slice of a picture. -/
def sliceType (vvc : Bool) (t : Nat) : Bool := decide (t < (if vvc then 12 else 32))

/-- Whether the parameter sets of a contribution match a channel's settings (R240). -/
def DecCfg.accepts (g : DecCfg) (p : StreamParams) : Bool :=
  p.width == g.width && p.height == g.height && p.chroma == g.chroma && decide (p.profile ≤ g.profile) && decide (p.level ≤ g.level) &&
    decide (p.depth ≤ 10) && decide (p.dpb ≤ g.dpbMax) && decide (p.reorder ≤ g.reorder)

/-- Whether a packet matches a channel: interleaved transmission matches none (R232, R240). -/
def DecCfg.fits (g : DecCfg) (a : AuFacts) : Bool := !a.donl && a.params.all g.accepts

/-- An access unit with a packet more. -/
def AuAsm.add (m : AuAsm) (g : DecCfg) (seq : Nat) (marker : Bool) (a : AuFacts) : AuAsm :=
  { m with seqs := if m.seqs.contains seq then m.seqs else seq :: m.seqs
           marker := if marker then some seq else m.marker
           bytes := if m.seqs.contains seq then m.bytes else m.bytes + nalBytes a.packet
           irap := m.irap || (nalTypes a.packet).any (irapType g.vvc)
           recovery := m.recovery || a.recovery || (g.vvc && (nalTypes a.packet).contains 10)
           fits := m.fits && g.fits a
           delay := if a.delay = 0 then m.delay else a.delay }

/-- The sequence numbers from `lo` on that have come in a row; `fuel` bounds them. -/
def rowFrom (seqs : List Nat) : (fuel lo : Nat) → Nat
  | 0, lo => lo
  | n + 1, lo => if seqs.contains lo then rowFrom seqs n ((lo + 1) % 65536) else lo

/-- The first sequence number of those that have come in a row up to one. -/
def rowBack (seqs : List Nat) : (fuel hi : Nat) → Nat
  | 0, hi => hi
  | n + 1, hi => if seqs.contains ((hi + 65535) % 65536) then rowBack seqs n ((hi + 65535) % 65536) else hi

/-- Whether no sequence number of a unit is missing (R233): all stand in a row up to the marker packet, and what is missing before them is of
an earlier unit without its marker. DEDUCED (notes/assumptions/74.md). -/
def AuAsm.whole (m : AuAsm) (earlier : List AuAsm) : Bool :=
  match m.marker with
  | none => false
  | some e =>
    let lo := rowBack m.seqs m.seqs.length e
    (m.seqs.all fun s => decide ((s + 65536 - lo) % 65536 ≤ (e + 65536 - lo) % 65536)) &&
      (earlier.isEmpty || earlier.any fun y => y.marker.isNone || y.marker == some ((lo + 65535) % 65536))

/-- An access unit is discarded and counted, once (R234, R240, R244). -/
def Dev.dropUnit (d : Dev) (c ts : Nat) : Dev :=
  d.onDec c fun x =>
    if x.asm.any fun y => y.ts = ts && y.dropped then x
    else { x with discarded := x.discarded + 1, asm := x.asm.map fun y => if y.ts = ts then { y with dropped := true } else y }

/-- A packet of a contribution (R232–R234, R238, R240), `ns` after the boundary. A second unit of a slot that already holds one sends its
token all the same, and Cox discards it where the first one's stands (R57). -/
def Dev.auPacket (d : Dev) (c ts seq ns : Nat) (marker : Bool) (f : AuFacts) : Dev :=
  match d.dec? c with
  | none => d
  | some x =>
    let g := x.cfg
    let earlier := x.asm.filter fun y => y.ts ≠ ts
    let was := (x.asm.find? fun y => y.ts = ts).getD { ts := ts }
    let a := was.add g seq marker f
    let missing := !a.whole earlier
    let d := d.onDec c fun x => { x with asm := (a :: earlier).take 4 }
    let t := near32 ((d.now * 125000 + ns) * 9 / 100000) ts
    let k := g.frameNear (t - a.delay)
    let out := g.frameNear t
    let big := decide (g.auLimit < a.bytes)
    let old := x.unit? k
    if (old.map fun u => decide (u.ts ≠ ts)).getD false then
      let d := d.dropUnit c ts
      if !missing && !was.whole earlier then d.tokenIn g.flow (k % 65536) 0 k else d
    else if (old.map (·.sent)).getD false then d
    else
      let starts := a.irap || (g.gdrStart && a.recovery)
      if !a.fits then
        let d := d.dropUnit c ts
        if x.start.isSome then d.onDec c fun x => { x with mismatch := true } else d
      else if x.mismatch && !a.irap then (if (nalTypes f.packet).any (sliceType g.vvc) then d.dropUnit c ts else d)
      else if x.start.isNone && !starts then d
      else
        let u : SlotUnit := ⟨k, !missing && !big, false, big, out, ts⟩
        let d := d.onDec c fun x =>
          { x with start := (if x.start.isNone then some k else x.start), mismatch := false
                   refreshing := (if x.start.isNone then !a.irap else x.refreshing)
                   units := u :: x.units.filter fun v => v.slot ≠ k }
        if u.complete then d.auToken c k else d

/-- PARTIAL_AU_TOKEN (R233): at the boundary after its release-deadline Stroke, the token of a unit that is still incomplete. -/
def execPartialAuToken (chan k : Nat) (s : State) : Host.Outcome State Fault Refusal :=
  s.lift fun d =>
    match d.dec? chan with
    | none => d
    | some x =>
      if d.now = x.cfg.release k + x.cfg.relOff + 1 && ((x.unit? k).map fun u => !u.sent && !u.tooLarge).getD false && !x.mismatch then
        d.auToken chan k
      else d

/-! ## Decoding -/

/-- The stand-in for a missing picture (R239): the picture of the pool nearest in output order, a tie going to the lower count. -/
def Dev.standIn (d : Dev) (p : Nat) (poc : Int) : Option Buffer :=
  match d.pool? p with
  | none => none
  | some x =>
    (x.buffers.filter fun b => b.slot.isSome && !b.free).foldl (fun best b =>
      match best with
      | none => some b
      | some a =>
        let da := (a.poc - poc).natAbs
        let db := (b.poc - poc).natAbs
        if db < da ∨ (db = da ∧ b.poc < a.poc) then some b else best) none

/-- The picture of a pool with a count that is marked for reference. -/
def Dev.refPicture (d : Dev) (p : Nat) (poc : Int) : Option Buffer :=
  (d.pool? p).bind fun x => x.buffers.find? fun b => b.slot.isSome && b.mark ≠ 0 && b.poc = poc

/-- The stand-ins that a picture takes for references that are absent, as the count of the stand-in and that of the missing picture (R239):
that which already stands in for it, else the nearest. -/
def Dev.newStands (d : Dev) (p : Nat) (f : PictureFacts) : List (Int × Int) :=
  f.uses.filterMap fun poc =>
    if (d.refPicture p poc).isSome || ((d.pool? p).map fun y => y.buffers.any fun b => b.stands.contains poc).getD false then none
    else (d.standIn p poc).map fun b => (b.poc, poc)

/-- The marks that a picture's reference picture set leaves on the others (R224). A stand-in is marked as each missing picture that it stands
in for would be, and released with it (R239). -/
def remark (f : PictureFacts) (new : List (Int × Int)) (b : Buffer) : Buffer :=
  if b.busy then b
  else
    let stands := (b.stands ++ (if b.slot.isSome && !b.free then (new.filter fun n => n.1 = b.poc).map (·.2) else [])).filter fun m =>
      f.short.contains m || f.long.contains m
    { b with mark := if (b.mark ≠ 0 && f.long.contains b.poc) || stands.any f.long.contains then 2
               else if (b.mark ≠ 0 && f.short.contains b.poc) || !stands.isEmpty then 1 else 0
             outPending := b.outPending && !f.discard, stands := stands }

/-- A sample of a decoded picture at 10 bits; a free value where no command has stated it (R223, R228). -/
def Buffer.sample (b : Buffer) (c comp row col : Nat) : Nat :=
  (((b.planes[comp]?).bind fun l => l[row]?).bind fun l => l[col]?).getD (Config.decodedSample [c, b.slot.getD 0, comp, row, col] % 1024)

/-- The planes of a picture as its buffer holds them (R223, R228, R239): samples at 10 bits, the CTUs that were lost copied from the
stand-in; with no picture to stand in, mid-grey. -/
def DecCfg.pictureOf (g : DecCfg) (c : Nat) (f : PictureFacts) (stand : Option Buffer) : List (List (List Nat)) :=
  let across := cdiv g.width (max 1 f.ctu)
  f.planes.zipIdx.map fun p => p.1.zipIdx.map fun r => r.1.zipIdx.map fun v =>
    let y := if p.2 ≠ 0 ∧ g.chroma = 0 then 2 * r.2 else r.2
    let x := if p.2 ≠ 0 then 2 * v.2 else v.2
    if f.lost.contains (y / max 1 f.ctu * across + x / max 1 f.ctu) then (stand.map fun b => b.sample c p.2 r.2 v.2).getD 512
    else v.1 * 2 ^ (10 - f.depth)

/-- Slot `k` is decoded into buffer `i` (R237–R241): its own cause, its taint, the marks, the counts and the episode. -/
def Dev.decoded (d : Dev) (c k i : Nat) (q : ItemResult) (f : PictureFacts) : Dev :=
  match d.dec? c with
  | none => d
  | some x =>
    let p := 256 + c
    let partial_ := ((x.unit? k).map fun u => !u.complete).getD false
    let absent := f.uses.any fun poc => (d.refPicture p poc).isNone
    let own := if partial_ then 0x13 else if q.cause = 0x16 then 0x16 else if absent then 0x12 else 0
    let bad := f.uses.any fun poc =>
      match d.refPicture p poc with
      | some b => b.tainted
      | none => true
    let through := match f.recovery, x.lastLoss with
      | some _, none => true
      | some r, some l => decide (l < r)
      | none, _ => false
    let recovered := x.refreshing && f.recovery.isSome
    let clears := (f.irap && own = 0) || (x.cfg.gdrClears && through && own = 0) || (recovered && own = 0)
    let tainted := !clears && (own ≠ 0 || bad || (f.rasl && x.rasl) || x.refreshing)
    let out := ((x.unit? k).map (·.out)).getD k
    let planes := x.cfg.pictureOf c f (d.standIn p f.poc)
    let d := (d.onBuffers p (remark f (d.newStands p f))).onBuffer p i fun _ =>
      ⟨if f.nonRef then 0 else 1, f.output, 0, false, some k, f.poc, tainted, some out, planes, []⟩
    let d := d.onDec c fun x =>
      { x with decoded := x.decoded + 1, concealed := x.concealed + bit tainted, last := tainted
               tainted := (x.tainted || tainted) && !clears
               refreshing := x.refreshing && !recovered && !f.irap
               rasl := (if f.irap then x.tainted || x.start = some k else x.rasl) }
    let d := if tainted then d.decCount c false else d
    let d :=
      if x.refreshing && !recovered then d
      else if tainted then d.decTrouble c k own false else d.decCalm c k
    let d :=
      if f.irap && !tainted then
        x.resync.foldl (fun d y => d.finish y 0 [k % 2 ^ 32]) (d.onDec c fun x => { x with resync := [] })
      else d
    d.closeSlot c k

/-! ## Boundaries -/

/-- Slot-1 tokens at e (R236): a free buffer is named, or the slot is noted as without one. -/
def Dev.decBoundary (d : Dev) (c : Nat) : Dev :=
  match d.dec? c with
  | none => d
  | some x =>
    let seqs := (d.duesAt x.cfg.flow d.now).getD []
    seqs.foldl (fun d q =>
      let k := x.cfg.slotOf d.now q
      if k < x.first then d
      else
        match d.freeBuffer (256 + c) with
        | none => d.onDec c fun x => { x with noBuffer := k :: x.noBuffer }
        | some i => (d.onBuffer (256 + c) i fun b => { b with busy := true }).token x.cfg.flow q 1 i) d

/-- Frame boundary `k` of a decode channel (R235, R242): the picture whose time has come is presented, and each consumer takes it
and lets go of the one before the last. -/
def Dev.decFrame (d : Dev) (c k : Nat) : Dev :=
  match d.dec? c with
  | none => d
  | some x =>
    let p := 256 + c
    let i? := (d.pool? p).bind fun y =>
      (y.buffers.zipIdx.find? fun b => b.1.outPending && b.1.present.any fun j => j + x.cfg.pres = k).map (·.2)
    let shown := i?.or x.shown
    let d := match i? with
      | some i => d.onBuffer p i fun b => { b with outPending := false }
      | none => d
    match shown with
    | none => d
    | some i =>
      let holds := if x.holds.head? = some i then [i] else i :: x.holds.take 1
      let n := d.consumers c
      let picture := ((d.pool? p).bind fun y => y.buffers[i]?).map fun b => (⟨[c, b.slot.getD 0], b.planes⟩ : Stored)
      let d := d.onDec c fun x =>
        { x with shown := some i, holds := holds, shows := ((picture.map fun b => (k, b)).toList ++ x.shows).take 16 }
      let d := if holds.length = 2 then d.onBuffers (512 + c) fun b => { b with hold := 0 } else d
      d.setPool p ((d.pool? p).map fun y =>
        { y with buffers := y.buffers.zipIdx.map fun b => { b.1 with hold := if holds.contains b.2 then n else 0 } })

/-- A band of the picture that a decode channel presents, as the source of an encode channel (R242); none where its samples are not stated. -/
def Dev.shownBand (d : Dev) (dec c : Nat) (g : EncCfg) (k band : Nat) : Option BandContent :=
  ((d.dec? dec).bind (·.shown)).bind fun i => ((d.pool? (256 + dec)).bind fun y => y.buffers[i]?).bind fun b =>
    if b.planes = [] then none
    else
      let rows (comp : Nat) : Nat := if comp ≠ 0 ∧ g.srcFmt = 4 then g.ctu / 2 else g.ctu
      some ⟨c, k, band, Config.headerBits [c, k, band], b.planes.zipIdx.map fun p => (p.1.drop (band * rows p.2)).take (rows p.2)⟩

/-- A band of the presented picture comes to an encode channel: its samples, where they are stated, and its tokens (R166, R242). -/
def Dev.feedBand (d : Dev) (c : Nat) (g : EncCfg) (k band : Nat) : Dev :=
  let d := d.sourceGood c k
  let d := match d.shownBand g.srcIndex c g k band with
    | none => d
    | some b => d.onEnc c fun x => x.takeSource g c b
  d.bandTokens c k band false

/-- Band tokens of an encode channel that a decode channel feeds, at the boundaries of the Strokes that hold their capture times
(R242). -/
def Dev.decFeeds (d : Dev) (c : Nat) : Dev :=
  match d.enc? c with
  | none => d
  | some x =>
    x.cfgs.foldl (fun d p =>
      let g := p.2
      if g.srcType = 3 && ((d.dec? g.srcIndex).map fun y => y.shown.isSome).getD false then
        (({ g with cls := 0, tapUs := 0 } : EncCfg).dueAt d.now).foldl (fun d y =>
          if x.first ≤ y.1 && (cfgFor x.cfgs y.1).map (·.1) == some p.1 then d.feedBand c g y.1 y.2 else d) d
      else d) d

/-! ## Enabling and disabling (R222, R243, R557) -/

/-- A decode channel starts with new settings: a pool of its own, WAIT_IRAP, counts at 0. The buffers still held of a pool it had
stay until they are free. -/
def Dev.startDec (d : Dev) (c : Nat) (g : DecCfg) : Dev :=
  let old := (((d.pool? (256 + c)).toList ++ (d.pool? (512 + c)).toList).flatMap (·.buffers)).filter fun b => b.hold ≠ 0
  let d := d.setPool (512 + c) (if old.isEmpty then none
    else some ⟨old, ((d.pool? (256 + c)).map (·.bytes)).getD g.bufBytes, true, ((d.pool? (256 + c)).map (·.place)).getD 0⟩)
  let d := { d with dec := Tab.put noDec d.dec c (some { cfg := g, first := d.now * g.num / (8000 * g.den) + 1 }) }
  (d.setReg (Reg.decChCount c) 0).setPool (256 + c) (some (newPool (0x200 + c) g.buffers g.bufBytes))

/-- A decode channel ends: what waits on it is shut down, and its pool goes as its buffers become free. -/
def Dev.stopDec (d : Dev) (c : Nat) : Dev :=
  match d.dec? c with
  | none => d
  | some x =>
    let d := x.resync.foldl (fun d y => d.finish y 0x23 []) d
    let d := d.onBuffers (256 + c) fun b => { b with mark := 0, stands := [], outPending := false, busy := false }
    let d := d.setPool (256 + c) ((d.pool? (256 + c)).map fun y => { y with closing := true })
    { d with dec := Tab.put noDec d.dec c none }

/-! ## Descriptors (R244, R245) -/

/-- DEC_QUERY (R244). -/
def execDecQuery (crew ring : Nat) (s : State) : Host.Outcome State Fault Refusal :=
  s.onDue crew ring 0x18 fun d x =>
    match d.dec? (x.object - 0x200) with
    | none => d.finish x 0 []
    | some y => d.finish x 0 [y.decoded % 2 ^ 32, y.held % 2 ^ 32, y.concealed % 2 ^ 32,
        pack [(y.episodes % 65536, 16), (y.discarded % 65536, 0)]]

/-- DEC_RESYNC (R245): it completes with the next IRAP picture that completes DONE. -/
def execDecResync (crew ring : Nat) (s : State) : Host.Outcome State Fault Refusal :=
  s.onDue crew ring 0x19 fun d x =>
    let c := x.object - 0x200
    (d.onBuffers (256 + c) fun b => { b with mark := 0, stands := [], outPending := false }).onDec c fun y =>
      { y with start := none, mismatch := false, episode := none, refreshing := false, resync := y.resync ++ [x] }

/-- The opcodes of this file. -/
def decodeRules : List OpRule :=
  let dec (k : ObjKind) : Bool := match k with | .dec _ => true | _ => false
  let ok (_ : Dev) (_ : Desc) : Option (Nat × List Nat) := none
  [{ opcode := 0x18, masks := [], kind := dec, house := false, test := ok },
   { opcode := 0x19, masks := [], kind := dec, house := false, test := ok }]

end Sys2Proof.Machine
end

