-- ==== Sys2Proof/Machine/Compose.lean ====
section
/-! DEFINITION. Composition at work (R249–R257, R266, R271–R282, R284–R289): strips and what they miss, held strips and episodes,
sources that change format, posts, copies, flips, taps, and the descriptors of a programme. -/

namespace Sys2Proof.Machine

/-- What an unlisted programme reads as: not enabled. -/
def noProg (_ : Nat) : Option ProgDyn := Option.none

/-- Changes the composer. -/
def Dev.onCmp (d : Dev) (f : Cmp → Cmp) : Dev := { d with cmp := f d.cmp }

/-- Changes a programme in operation. -/
def Dev.onProg (d : Dev) (p : Nat) (f : ProgDyn → ProgDyn) : Dev :=
  d.onCmp fun c => { c with progs := Tab.put noProg c.progs p ((d.prog? p).map f) }

/-- Changes a layer of a programme in operation. -/
def Dev.onLayer (d : Dev) (p l : Nat) (f : LayerDyn → LayerDyn) : Dev :=
  d.onProg p fun x => { x with layers := x.layers.map fun y => if y.layer = l then f y else y }

/-- The settings of a layer. -/
def ProgDyn.layerCfg? (x : ProgDyn) (l : Nat) : Option LayerCfg := x.cfg.layers.find? fun c => c.layer = l

/-- A layer in operation. -/
def ProgDyn.layer? (x : ProgDyn) (l : Nat) : Option LayerDyn := x.layers.find? fun c => c.layer = l

/-! ## Strips (R249–R256) -/

/-- The first source row, from the top of the source, that layer row `y` needs (R268). -/
def LayerCfg.firstRow (l : LayerCfg) (y : Nat) : Nat :=
  if l.oneToOne then l.cropY + min y (l.cropH - 1)
  else
    let ys : Int := (((2 * y + 1) * l.cropH : Nat) : Int) - (l.dstH : Int)
    let n := scalerSupport l.cropH l.dstH
    l.cropY + min (l.cropH - 1) ((ys / ((2 * l.dstH : Nat) : Int)) - (((n - cdiv n 2 : Nat) : Int)) + 1).toNat

/-- A layer with the size of the source it follows. -/
def LayerCfg.following (l : LayerCfg) (size : Nat × Nat) : LayerCfg :=
  if size = (l.srcW, l.srcH) ∨ size = (0, 0) then l
  else { l with srcW := size.1, srcH := size.2, cropW := size.1, cropH := size.2 }

/-- The source strips that strip `b` needs from a live layer. -/
def ProgCfg.neededStrips (c : ProgCfg) (l : LayerCfg) (b : Nat) : List Nat :=
  match c.sourceStrip l b with
  | none => []
  | some j =>
    let top := (max l.dstY ((32 * b : Nat) : Int) - l.dstY).toNat
    let i := l.firstRow top / 32
    (List.range (j + 1 - i)).map (i + ·)

/-- What a layer shows of source frame `k` (R271). -/
def LayerDyn.formAt (y : LayerDyn) (l : LayerCfg) (k : Nat) : LayerForm :=
  (y.forms.find? fun f => decide (f.k ≤ k)).getD ⟨0, 0, (l.srcW, l.srcH), l.srcFmt⟩

/-- The mask of live layers whose source is not present for strip `b` of frame `k` (R251, R256). -/
def ProgDyn.missing (x : ProgDyn) (k b : Nat) : Nat :=
  sumBy (fun y =>
    match x.layerCfg? y.layer with
    | none => 0
    | some l =>
      let f := y.formAt l k
      if l.srcType = 1 && f.dark = 0 &&
          (x.cfg.neededStrips (l.following f.size) b).any (fun j => !y.strips.contains (k, j)) then 2 ^ y.layer else 0) x.layers

/-- The event of an episode (R278). -/
def Dev.progEvent (d : Dev) (p cause k mask n : Nat) : Dev :=
  d.postEvent (d.owner 3 p) .conceal (0x240 + p) [cause, k % 2 ^ 32, pack [(mask, 16), (min 0xFFFF n, 0)], 0]

/-- Frame `k` has a missing layer or a held strip (R278): the first of an episode raises CONCEAL, later frames are counted. -/
def Dev.markFrame (d : Dev) (p k cause mask : Nat) : Dev :=
  match d.prog? p with
  | none => d
  | some x =>
    match x.marked, x.episode with
    | some (f, m), some _ =>
      if f = k then d.onProg p fun x => { x with marked := some (k, m ||| mask) }
      else d.onProg p fun x => { x with marked := some (k, mask), episode := x.episode.map (· + 1) }
    | _, some _ => d.onProg p fun x => { x with marked := some (k, mask), episode := x.episode.map (· + 1) }
    | _, none =>
      (d.progEvent p cause k mask 1).onProg p fun x =>
        { x with marked := some (k, mask), episode := some 1, episodes := x.episodes + 1 }

/-- The last strip of frame `k` is over: the frame is composed, and an episode that does not affect it ends. -/
def Dev.frameComposed (d : Dev) (p k : Nat) : Dev :=
  match d.prog? p with
  | none => d
  | some x =>
    let d := d.onProg p fun x => { x with frames := x.frames + 1 }
    match x.episode with
    | none => d
    | some n =>
      if (x.marked.map (·.1)).getD k < k then
        (d.progEvent p 0x2F k 0 n).onProg p fun x => { x with episode := none, marked := none }
      else d

/-- A strip is over: composed, or held (R278). Its check value is logged (R522). -/
def Dev.stripOver (d : Dev) (p k b crc : Nat) (held : Bool) : Dev :=
  match d.prog? p with
  | none => d
  | some x =>
    let flow := x.cfg.flows.getD (b % max 1 x.cfg.flows.length) 0
    let d := d.recordFrom (d.seenFrom flow (x.cfg.release k b)) (d.owner 3 p) 0x11 0 (0x240 + p) [k % 2 ^ 32, b, crc]
    let d := if held then
        ((d.onProg p fun x => { x with held := x.held + 1 }).addFld (Reg.cmpProgCount p) F.cmpProgCount_stripsHeld 1).markFrame p k 0x22 0
      else d
    if b + 1 = x.cfg.strips then d.frameComposed p k else d

/-- Frames of a programme that its zone ring, its hold frame and its taps keep (R278, R279, R281). -/
def ProgCfg.keptFrames (c : ProgCfg) : Nat := 2 + cdiv c.zoneCap (max 1 c.height)

/-- A composed strip, or one that stands in for it, is kept. -/
def Dev.keepStrip (d : Dev) (p : Nat) (i : StripImage) : Dev :=
  d.onProg p fun x =>
    { x with images := i :: x.images.filter fun o => !(o.k = i.k && o.b = i.b) && decide (i.k ≤ o.k + x.cfg.keptFrames)
             misses := x.misses.filter fun m => !(m.1 = i.k && m.2.1 = i.b) }

/-- A strip that is kept. -/
def ProgDyn.image? (x : ProgDyn) (k b : Nat) : Option StripImage := x.images.find? fun i => i.k = k && i.b = b

/-- A held strip's output is the co-located strip of the frame before (R278); where that was not composed, its check value is a free value. -/
def Dev.stripHeld (d : Dev) (p k b : Nat) : Dev :=
  match (d.prog? p).bind fun x => x.image? (k - 1) b with
  | some i => (d.keepStrip p { i with k := k }).stripOver p k b i.crc true
  | none => d.stripOver p k b (Config.content [0x240 + p, k, b]) true

/-- The timing tokens of the strips whose release boundary this is, and the layers that are missing from them (R251, R256). -/
def Dev.cmpBoundary (d : Dev) (p : Nat) : Dev :=
  match d.prog? p with
  | none => d
  | some x =>
    (x.cfg.dueAt d.now).foldl (fun d s =>
      if s.1 < x.first then d
      else
        let m := x.missing s.1 s.2
        let d := if m = 0 then d
          else (d.markFrame p s.1 0x21 m).onProg p fun x => { x with misses := ((s.1, s.2, m) :: x.misses).take 512 }
        d.token (x.cfg.flows.getD (s.2 % max 1 x.cfg.flows.length) 0) (x.cfg.seqOf s.1 s.2) 0 s.1) d

/-! ## Live sources (R142, R251, R271) -/

/-- Why a layer cannot follow a source frame's format; 0 when it can. -/
def ProgDyn.darkCause (x : ProgDyn) (l : LayerCfg) (f : SrcFormat) : Nat :=
  if f.num * x.cfg.den ≠ x.cfg.num * f.den then 2
  else if f.w = l.srcW ∧ f.h = l.srcH then 0
  else
    let whole := l.cropX = 0 ∧ l.cropY = 0 ∧ l.cropW = l.srcW ∧ l.cropH = l.srcH
    if l.scaler.isNone ∨ ¬ whole then 3
    else if (if l.paired then 131072 else 65536) < scalerLines f.h l.dstH * l.dstW then 1
    else
      let l' := l.following (f.w, f.h)
      let c := { x.cfg with layers := x.cfg.layers.map fun (m : LayerCfg) => if m.layer = l.layer then l' else m }
      if x.cfg.lag < c.autoLag then 4 else 0

/-- A live source frame's format reaches a layer (R271): it follows, or goes dark. -/
def Dev.layerFormat (d : Dev) (p l k : Nat) (f : SrcFormat) : Dev :=
  match d.prog? p with
  | none => d
  | some x =>
    match x.layerCfg? l, x.layer? l with
    | some c, some y =>
      let cause := x.darkCause c f
      let form : LayerForm := ⟨k, cause, (f.w, f.h), f.fmt⟩
      let d := if (y.formAt c k).dark = cause ∧ (cause ≠ 0 ∨ (y.formAt c k).size = form.size ∧ (y.formAt c k).fmt = form.fmt) then d
        else d.onLayer p l fun y => { y with forms := (form :: y.forms.filter fun o => o.k ≠ k).take 4 }
      let say (d : Dev) : Dev :=
        d.postEvent (d.owner 3 p) .layerDark (0x240 + p)
          [pack [(bit (cause ≠ 0), 31), (cause, 0)], l, pack [(f.w, 16), (f.h, 0)], k % 2 ^ 32]
      if cause = 0 then
        let d := d.onLayer p l fun y => { y with dark := 0, size := (f.w, f.h) }
        if y.dark = 0 then d else say d
      else if y.dark = cause then d
      else
        let d := d.onLayer p l fun y => { y with dark := cause }
        if y.dark = 0 then (say d).onProg p fun x => { x with darks := x.darks + 1 } else d
    | _, _ => d

/-- The samples of a strip of a layer's source are stated (R255). -/
def Dev.layerSource (d : Dev) (p l : Nat) (s : SourceStrip) : Dev :=
  d.onLayer p l fun y =>
    { y with source := s :: y.source.filter fun o => !(o.k = s.k && o.j = s.j) && decide (s.k ≤ o.k + 3) }

/-- The samples of the buffer that a layer copies, or has copied last, are stated (R273). -/
def Dev.layerBuffer (d : Dev) (p l : Nat) (planes : List (List (List Nat))) : Dev :=
  d.onProg p fun x =>
    match (x.posts.filter fun q => q.layer = l && q.start.isSome).getLast? with
    | none => x
    | some q => { x with posts := x.posts.map fun r => if r.desc = q.desc then { r with planes := planes } else r }

/-- Source strip `j` of frame `k` has arrived for a layer. -/
def Dev.layerStrip (d : Dev) (p l k j : Nat) : Dev :=
  d.onLayer p l fun y => { y with strips := ((k, j) :: y.strips).take 1024 }

/-! ## Posts and copies (R273, R276) -/

/-- A post completes. -/
def Dev.postOver (d : Dev) (p : Nat) (q : Post) (status frame flags : Nat) : Dev :=
  let d := d.onProg p fun x =>
    { x with posts := x.posts.filter (fun r => r.desc ≠ q.desc), postsHeld := x.postsHeld + bit (status = 0x04) }
  d.finish q.desc status (if status = 0x21 ∨ status = 0x23 then [] else [frame % 2 ^ 32, flags])

/-- What an unlisted fence reads as: value 0, never signalled. -/
def noFence (_ : Nat) : Nat × Nat := (0, 0)

/-- A fence's value and the Stroke of its last signal. -/
def Dev.fence (d : Dev) (f : Nat) : Nat × Nat := Tab.get noFence d.cmp.fences f

/-- Whether a post's fence has reached its value. -/
def Dev.fenceReached (d : Dev) (x : Desc) : Bool := decide (x.addr 8 ≤ (d.fence (x.w 7 % 65536 - 0x1000)).1)

/-- LAYER_COPY_START (R273): the oldest post of the layer whose fence has been reached and whose copy has not begun starts it;
unfinished earlier copies are abandoned, those not begun among them. DEDUCED (notes/assumptions/64.md). -/
def execLayerCopyStart (prog layer : Nat) (s : State) : Host.Outcome State Fault Refusal :=
  s.lift fun d =>
    match d.prog? prog with
    | none => d
    | some x =>
      match x.posts.find? (fun q => q.layer = layer && q.start.isNone && d.fenceReached q.desc), x.layerCfg? layer with
      | some q, some l =>
        let earlier := (x.posts.takeWhile fun r => r.desc ≠ q.desc).filter fun r =>
          r.layer = layer && !(r.copied || r.done.any fun t => decide (t ≤ d.now))
        let d := earlier.foldl (fun d r => d.postOver prog r 0x04 0xFFFFFFFF 6) d
        let size := frameBytes l.srcFmt l.srcW l.srcH
        let d := d.onProg prog fun x =>
          { x with posts := x.posts.map fun r =>
              if r.desc = q.desc then { r with start := some d.now, done := some (d.now + cdiv size (max 1 (x.cfg.copyRate l))) } else r }
        d.emit (.hostRead q.desc.crew (q.desc.addr 4) size)
      | _, _ => d

/-- The copy of a layer that runs is whole in HBM once its Stroke has come, and the Stroke is recorded (R49, R273): a token of the
programme's first flow, SUB 8 + layer. DEDUCED (notes/assumptions/60.md). -/
def Dev.copyWhole (d : Dev) (prog layer : Nat) : Dev :=
  match d.prog? prog with
  | none => d
  | some x =>
    let whole (r : Post) : Bool := r.layer = layer && !r.copied && r.done.any fun t => decide (t ≤ d.now)
    let d := (x.posts.filter whole).foldl (fun d r =>
      d.recordToken r.desc.crew (8 + layer) (x.cfg.flows.headD 0) [r.frame % 2 ^ 32, layer]) d
    d.onProg prog fun x => { x with posts := x.posts.map fun r => if whole r then { r with copied := true } else r }

/-- LAYER_COPY_COMPLETE (R273). -/
def execLayerCopyComplete (prog layer : Nat) (s : State) : Host.Outcome State Fault Refusal :=
  s.lift fun d => d.copyWhole prog layer

/-- The copy that runs for a layer fails to read host memory (R120, R276). -/
def Dev.copyFailed (d : Dev) (p l : Nat) : Dev :=
  match (d.prog? p).bind fun x => x.posts.find? fun r =>
      r.layer = l && r.start.isSome && !r.copied && r.done.any fun t => decide (d.now < t) with
  | none => d
  | some r => d.postOver p r 0x21 0 0

/-! ## Flips (R274, R275, R280) -/

/-- A post that waits at frame `k`: its frame has come and its copy has not completed. -/
def Dev.waiting (d : Dev) (k : Nat) (q : Post) : Bool :=
  decide (q.frame ≤ k) && !q.done.any fun t => decide (t ≤ d.now)

/-- A post that can be flipped in at frame `k`. -/
def Dev.flippable (d : Dev) (k : Nat) (q : Post) : Bool :=
  decide (q.frame ≤ k) && q.done.any fun t => decide (t ≤ d.now)

/-- One HOST or STILL layer at the flip deadline of frame `k`. -/
def Dev.flipLayer (d : Dev) (p k l : Nat) : Dev :=
  match d.prog? p with
  | none => d
  | some x =>
    let mine := x.posts.filter fun q => q.layer = l
    match (mine.filter (d.flippable k)).getLast? with
    | none => d.onLayer p l fun y => { y with held := mine.any (d.waiting k) }
    | some q =>
      let older := mine.takeWhile fun r => r.desc ≠ q.desc
      let d := older.foldl (fun d r => d.postOver p r 0x04 0xFFFFFFFF 2) d
      let d := if q.frame = k then d.postOver p q 0 k 0 else d.postOver p q 0x04 k 1
      let buffer : Stored := ⟨[q.desc.crew, q.desc.addr 4, q.start.getD 0], q.planes⟩
      d.onLayer p l fun y => { y with shown := true, held := false, buffer := some buffer }

/-- A layer held by its flip group (R275). -/
def Dev.flipHeld (d : Dev) (p l : Nat) (held : Bool) : Dev := d.onLayer p l fun y => { y with held := held }

/-- The fence tokens of a tap-fed channel: frame `k`'s flip record for every band (R56, R280). -/
def Dev.flipRecord (d : Dev) (c k : Nat) : Dev :=
  match d.enc? c with
  | none => d
  | some x =>
    match x.pictureOf k with
    | none => d
    | some j =>
      match cfgFor x.cfgs j with
      | none => d
      | some (_, g) =>
        if j < x.first then d
        else (List.range g.bands).foldl (fun d b =>
          (List.range g.pieces).foldl (fun d i =>
            if !g.takes i b then d
            else if g.live then d.token (g.flows.getD i 0) (g.seqOf j b) 3 (k % 2 ^ 32)
            else (List.range (cdiv (g.pieceCtus i) (max 1 g.segCtus))).foldl
              (fun d s => d.token (g.flows.getD i 0) (g.segSeq j b s) 3 (k % 2 ^ 32)) d) d) d

/-- The encode channels that a programme's taps feed. -/
def Dev.tapFed (d : Dev) (p : Nat) : List Nat :=
  d.enc.filterMap fun e => match e.2 with
    | none => none
    | some y => if (y.cfgs.head?).any fun q => q.2.srcType = 2 && q.2.srcIndex / 4 = p then some e.1 else none

/-- The registers whose words a frame of a programme takes at its flip deadline (R266): output conversion and colours, and of its layers
blending and colour. -/
def ProgDyn.lookRegs (x : ProgDyn) (p : Nat) : List Nat :=
  [Reg.cmpProgOut p, Reg.cmpProgBg p, Reg.cmpProgFill p] ++
    x.cfg.layers.flatMap fun l => [Reg.cmpLayerCfg p l.layer, Reg.cmpLayerColour p l.layer]

/-- What holds for frame `k` of a programme from its flip deadline on is taken down (R266, R274, R285). -/
def Dev.takeLook (d : Dev) (p k : Nat) : Dev :=
  d.onProg p fun x =>
    let mine (i : Nat) : Bool := decide (16 * p ≤ i ∧ i < 16 * p + 16)
    let look : Look :=
      { k := k, words := (x.lookRegs p).map fun a => (a, d.reg a)
        lut := d.cmp.lut.filter fun e => mine (e.1 / 1024)
        matrix := d.cmp.matrix.filter fun e => mine e.1
        mask := d.cmp.mask.filter fun e => e.1 = p
        moved := x.layers.filterMap fun y => y.moved.map fun m => (y.layer, m)
        buffers := x.layers.filterMap fun y => y.buffer.map fun b => (y.layer, b) }
    { x with looks := (look :: x.looks.filter fun o => o.k ≠ k).take 8 }

/-- FLIP_DEADLINE (R266, R274, R275, R280, R285). -/
def execFlipDeadline (prog k : Nat) (s : State) : Host.Outcome State Fault Refusal :=
  s.lift fun d =>
    match d.prog? prog with
    | none => d
    | some x =>
      if d.now ≠ flipStroke x.cfg.num x.cfg.den k then d
      else
        let host := x.cfg.layers.filter fun l => l.srcType = 3 || l.srcType = 4
        let blocked (g : Nat) : Bool := g ≠ 0 && host.any fun l =>
          l.group = g && x.posts.any fun q => q.layer = l.layer && d.waiting k q
        let d := host.foldl (fun d l =>
          if blocked l.group then d.flipHeld prog l.layer (x.posts.any fun q => q.layer = l.layer && decide (q.frame ≤ k))
          else d.flipLayer prog k l.layer) d
        let moves := x.moves.filter fun y => decide (y.effect ≤ d.now)
        let d := moves.foldl (fun d y =>
          (d.onLayer prog (y.w 3 % 16) fun z => { z with moved := some (signed 16 (y.w 4 / 65536), signed 16 (y.w 4 % 65536)) }).finish y 0
            [k % 2 ^ 32]) d
        let d := (d.onProg prog fun x => { x with moves := x.moves.filter fun y => !(moves.contains y) }).takeLook prog k
        (d.tapFed prog).foldl (fun d c => d.flipRecord c k) d

/-! ## Starting, changing, ending -/

/-- The zone delay in lines that holds for output frame `k`; none where the frame is skipped (R282). -/
def ProgDyn.zoneOf (x : ProgDyn) (k : Nat) : Option Nat := ((x.zones.find? fun z => decide (z.1 ≤ k)).map (·.2)).getD (some x.cfg.zone)

/-- The local time in us at which row `y` of frame `k` leaves with a zone delay of `zone` lines, rounded up by `scale`: in units of
1/`scale` us (R253, R281). -/
def ProgCfg.rowTime (c : ProgCfg) (scale k y zone : Nat) : Nat :=
  cdiv ((k * c.height + y + 32 + zone) * c.den * 1000000 * scale) (c.num * c.height) + (c.lag + 500) * scale

/-- The first output frame that has not begun leaving at the boundary of Stroke `s`. -/
def ProgDyn.nextOut (x : ProgDyn) (s : Nat) : Nat :=
  let top := s * x.cfg.num / (8000 * x.cfg.den) + 1
  let begun (k : Nat) : Bool := decide (x.cfg.rowTime 1000000 k 0 ((x.zoneOf k).getD 0) < 125 * s * 1000000)
  let back := (firstFrom (fun n => n = top || begun (top - n)) 1024 0).getD top
  if begun (top - back) then top - back + 1 else x.first

/-- A programme starts or changes at its effect Stroke: layers that keep their source keep what they show, posts of layers that go
end, and a shorter zone delay skips frames (R276, R282). -/
def Dev.startProg (d : Dev) (p : Nat) (g : ProgCfg) : Dev :=
  match d.prog? p with
  | none =>
    let k := d.now * g.num / (8000 * g.den)
    let first := (firstFrom (fun k => decide (d.now ≤ g.release k 0)) 4096 (k - 2048)).getD k
    let layers := g.layers.map fun l => ({ layer := l.layer, size := (l.srcW, l.srcH) } : LayerDyn)
    let x : ProgDyn := { cfg := g, first := first, layers := layers, zones := [(first, some g.zone)] }
    d.onCmp fun c => { c with progs := Tab.put noProg c.progs p (some x) }
  | some x =>
    let keeps (l : LayerCfg) : Bool := x.cfg.layers.any fun m =>
      m.layer = l.layer && m.srcType = l.srcType && m.srcIndex = l.srcIndex && m.srcFmt = l.srcFmt && m.srcW = l.srcW && m.srcH = l.srcH
    let gone := x.posts.filter fun q => !(g.layers.any fun l => l.layer = q.layer && (l.srcType = 3 || l.srcType = 4))
    let d := gone.foldl (fun d q => d.postOver p q 0x23 0 0) d
    let next := x.nextOut d.now
    let skip := cdiv (x.cfg.zone - g.zone) (max 1 g.height)
    let d := if skip = 0 then d else d.addFld (Reg.cmpProgCount p) F.cmpProgCount_zoneSkipped skip
    let zones := if g.zone = x.cfg.zone then x.zones
      else (next + skip, some g.zone) :: (if skip = 0 then x.zones else (next, none) :: x.zones)
    let fresh (l : LayerCfg) : LayerDyn := { layer := l.layer, size := (l.srcW, l.srcH) }
    let kept (l : LayerCfg) : LayerDyn :=
      match x.layer? l.layer with
      | some y => if keeps l then { y with moved := none } else fresh l
      | none => fresh l
    d.onProg p fun x => { x with cfg := g, layers := g.layers.map kept, zones := zones.take 8 }

/-- A programme ends: its posts and moves are shut down. -/
def Dev.stopProg (d : Dev) (p : Nat) : Dev :=
  match d.prog? p with
  | none => d
  | some x =>
    let d := x.posts.foldl (fun d q => d.postOver p q 0x23 0 0) d
    let d := x.moves.foldl (fun d y => d.finish y 0x23 []) d
    d.onCmp fun c => { c with progs := Tab.put noProg c.progs p none }

/-! ## Descriptors (R284–R289) -/

/-- The programme of a descriptor's object. -/
def Desc.prog (x : Desc) : Nat := x.object - 0x240

/-- The settings of a programme as they will stand at a Stroke. -/
def Dev.progSoon? (d : Dev) (p t : Nat) : Option ProgCfg :=
  ((d.stk.accepted.reverse.findSome? fun m =>
    if m.effect ≤ t then (m.place.progs.find? fun q => q.1 = p).map (·.2) else none)).or ((d.prog? p).map (·.cfg))

/-- A layer of a descriptor's programme as it will stand. -/
def Dev.layerSoon? (d : Dev) (x : Desc) : Option LayerCfg :=
  (d.progSoon? x.prog (d.effectOf x)).bind fun g => g.layers.find? fun l => l.layer = x.w 3 % 16

/-- Bytes of a row of a host format (R284). -/
def hostRow (fmt w : Nat) : Nat := if fmt = 10 then 4 * w else 8 * w

/-- Posts of a layer that have not been shown, staged ones included. -/
def Dev.layerPosts (d : Dev) (p l : Nat) : Nat :=
  ((d.prog? p).map fun x => (x.posts.filter fun q => q.layer = l).length).getD 0 +
    ((d.hif.staged ++ d.hif.due).filter fun y => y.opcode = 0x20 && y.object = 0x240 + p && y.w 3 % 16 = l).length

/-- LAYER_POST's own tests (R273, R284). A fence of another owner is refused as one. -/
def testLayerPost (d : Dev) (x : Desc) : Option (Nat × List Nat) :=
  match d.layerSoon? x with
  | none => some (0x13, [])
  | some l =>
    if (l.srcType ≠ 3 && l.srcType ≠ 4) || x.w 4 % 256 ≠ 0 || decide (256 * (x.w 6 % 65536) < hostRow l.srcFmt l.srcW) then some (0x13, [])
    else match objKind (x.w 7 % 65536) with
      | some (.fence f) =>
        if d.owner 0x09 f ≠ x.crew then some (0x12, [])
        else admissionIf (decide (4 ≤ d.layerPosts x.prog l.layer)) 7 (detailWord 3 x.prog x.object)
      | _ => some (0x13, [])

/-- LAYER_POST (R273): the post is taken as soon as it is staged, so that its copy can start; its target sets the frame it is
intended for. One for a programme that an ACCEPTED commit is yet to enable stays staged until it does (R556). -/
def execLayerPost (crew ring : Nat) (s : State) : Host.Outcome State Fault Refusal :=
  s.lift fun d =>
    match (d.hif.due ++ d.hif.staged).find? fun x => x.crew = crew && x.ring = ring && x.opcode = 0x20 && !x.waits with
    | none => d
    | some x =>
      let e := d.onHif fun h => { h with due := h.due.filter (· ≠ x), staged := h.staged.filter (· ≠ x) }
      match d.prog? x.prog with
      | none => if d.enabledBy x.kind x.effect then d else e.finish x 0x23 []
      | some y => e.onProg x.prog fun z =>
          { z with posts := z.posts ++ [(⟨x, x.w 3 % 16, firstFlip y.cfg.num y.cfg.den x.effect, none, none, false, []⟩ : Post)] }

/-- LAYER_MOVE's own tests (R285). -/
def testLayerMove (d : Dev) (x : Desc) : Option (Nat × List Nat) :=
  formatIf (((d.layerSoon? x).map fun l => decide (l.srcType = 1)).getD true)

/-- LAYER_MOVE (R285): it takes effect at the next flip deadline. -/
def execLayerMove (crew ring : Nat) (s : State) : Host.Outcome State Fault Refusal :=
  s.onDue crew ring 0x21 fun d x => d.onProg x.prog fun y => { y with moves := y.moves ++ [x] }

/-- FENCE_SIGNAL's own tests (R286). -/
def testFenceSignal (d : Dev) (x : Desc) : Option (Nat × List Nat) :=
  formatIf (decide (x.addr 3 ≤ (d.fence (x.object - 0x1000)).1))

/-- FENCE_SIGNAL (R272, R286): the value rises and is recorded as a fence time. -/
def execFenceSignal (crew ring : Nat) (s : State) : Host.Outcome State Fault Refusal :=
  s.onDue crew ring 0x22 fun d x =>
    let f := x.object - 0x1000
    if x.addr 3 ≤ (d.fence f).1 then d.finish x 0x13 []
    else
      ((d.onCmp fun c => { c with fences := Tab.put noFence c.fences f (x.addr 3, d.now) }).record x.crew 0x03 0 x.object
        [x.w 3, x.w 4]).finish x 0 []

/-- FENCE_QUERY (R286). -/
def execFenceQuery (crew ring : Nat) (s : State) : Host.Outcome State Fault Refusal :=
  s.onDue crew ring 0x23 fun d x =>
    let v := d.fence (x.object - 0x1000)
    d.finish x 0 [v.1 % 2 ^ 32, v.1 / 2 ^ 32, v.2 % 2 ^ 32]

/-- What an unlisted entry of a tone LUT reads as: the identity. -/
def noLut (_ : Nat) : Option Nat := Option.none

/-- The layer slot of a descriptor. -/
def Desc.layerSlot (x : Desc) : Nat := 16 * x.prog + x.w 3 % 16

/-- SET_MATRIX's own tests (R287): the layer's GAMUT is CUSTOM and the last half word is 0. -/
def testSetMatrix (d : Dev) (x : Desc) : Option (Nat × List Nat) :=
  formatIf (x.w 8 % 65536 ≠ 0 ||
    (((d.layerSoon? x).map (·.gamut)).getD (d.fld (Reg.cmpLayerColour x.prog (x.w 3 % 16)) F.cmpLayerColour_gamut)) ≠ 3)

/-- SET_MATRIX (R261, R287). -/
def execSetMatrix (crew ring : Nat) (s : State) : Host.Outcome State Fault Refusal :=
  s.onDue crew ring 0x26 fun d x =>
    let l := ([4, 5, 6, 7, 8].flatMap fun i => [x.w i / 65536, x.w i % 65536]).take 9
    (d.onCmp fun c => { c with matrix := Tab.put noList c.matrix x.layerSlot l }).finish x 0 []

/-- SET_MASK (R265, R287): the programme's thresholds as read; without all of them it goes on, or its target is missed. -/
def execSetMask (crew ring : Nat) (entries : List Nat) (s : State) : Host.Outcome State Fault Refusal :=
  s.lift fun d =>
    match d.takeDue crew ring 0x27 with
    | none => d
    | some (x, e) =>
      if entries.length < 4096 then (if x.w 1 = 0 then d else e.finish x 0x10 [0xB])
      else
        (e.onCmp fun c => { c with mask := Tab.put noList c.mask x.prog ((entries.take 4096).map (· % 4096)) }).finish x 0 []

/-- PROG_QUERY (R289). -/
def execProgQuery (crew ring : Nat) (s : State) : Host.Outcome State Fault Refusal :=
  s.onDue crew ring 0x29 fun d x =>
    match d.prog? x.prog with
    | none => d.finish x 0 []
    | some y => d.finish x 0 [y.frames % 2 ^ 32, y.held % 2 ^ 32, y.postsHeld % 2 ^ 32,
        pack [(y.episodes % 65536, 16), (y.darks % 65536, 0)]]

/-- The opcodes of this file. -/
def composeRules : List OpRule :=
  let prog (k : ObjKind) : Bool := match k with | .prog _ => true | _ => false
  let fence (k : ObjKind) : Bool := match k with | .fence _ => true | _ => false
  let ok (_ : Dev) (_ : Desc) : Option (Nat × List Nat) := none
  let on (d : Dev) (x : Desc) : Option (Nat × List Nat) := formatIf (d.layerSoon? x).isNone
  [{ opcode := 0x20, masks := [(3, 15), (4, allBits), (5, allBits), (6, 0xFFFF), (7, 0xFFFF), (8, allBits), (9, allBits)], kind := prog,
     house := false, test := testLayerPost },
   { opcode := 0x21, masks := [(3, 15), (4, allBits)], kind := prog, house := false, test := testLayerMove },
   { opcode := 0x22, masks := [(3, allBits), (4, allBits)], kind := fence, house := false, test := testFenceSignal },
   { opcode := 0x23, masks := [], kind := fence, house := false, test := ok },
   { opcode := 0x24, masks := [(3, 15), (4, allBits), (5, allBits)], kind := prog, house := false, test := on }] ++
  [{ opcode := 0x25, masks := [(3, 15), (4, 0x3FFFFFFF), (5, 0x3FFFFFFF), (6, 0x3FFFFFFF), (7, 0x3FFFFFFF)], kind := prog, house := false,
     test := on },
   { opcode := 0x26, masks := [(3, 15), (4, allBits), (5, allBits), (6, allBits), (7, allBits), (8, allBits)], kind := prog, house := false,
     test := testSetMatrix },
   { opcode := 0x27, masks := [(4, allBits), (5, allBits)], kind := prog, house := false, test := ok },
   { opcode := 0x29, masks := [], kind := prog, house := false, test := ok }]

end Sys2Proof.Machine
end

