-- ==== Sys2Proof/Machine/Audio.lean ====
section
/-! DEFINITION. Audio at work (R293–R321): what has arrived of each source, alignment groups and their blocks, AES3 inputs, TDM
ports, the house clock, ASRC channels, and host buffers. -/

namespace Sys2Proof.Machine

/-- Changes the audio block. -/
def Dev.onAud (d : Dev) (f : Aud → Aud) : Dev := { d with aud := f d.aud }

/-- What an unlisted group reads as: not enabled. -/
def noGrp (_ : Nat) : Option AudGrpDyn := Option.none

/-- A group in operation. -/
def Dev.grp? (d : Dev) (g : Nat) : Option AudGrpDyn := Tab.get noGrp d.aud.groups g

/-- Changes a group in operation. -/
def Dev.onGrp (d : Dev) (g : Nat) (f : AudGrpDyn → AudGrpDyn) : Dev :=
  d.onAud fun a => { a with groups := Tab.put noGrp a.groups g ((d.grp? g).map f) }

/-- The rate in Hz of a rate code (R293, R296). -/
def rateHz (code : Nat) : Nat := [44100, 48000, 88200, 96000, 176400, 192000, 32000].getD code 48000

/-- The samples of a Stroke at a rate: the first, and the one after the last (R293). -/
def samplesIn (fs j : Nat) : Nat × Nat := (cdiv (j * fs) 8000, cdiv ((j + 1) * fs) 8000)

/-- A of R309. -/
def arriveStrokes (us : Nat) : Nat := cdiv us 125 + 1

/-- The samples that a group's item for Stroke `j` reads (R309). -/
def AudGrpCfg.samples (g : AudGrpCfg) (j : Nat) : Nat × Nat :=
  let s := samplesIn g.rate j
  (s.1 - g.delay, s.2 - g.delay)

/-! ## Sources (R295, R303, R310) -/

/-- Kinds of sources by the codes of R325. -/
inductive AudSource where
  | aes (i : Nat)
  | tdm (p : Nat)
  | net (s : Nat)
  | host (h : Nat)
  deriving DecidableEq, Repr

/-- The source of a code. -/
def audSource? (c : Nat) : Option AudSource :=
  if c < 0x20 then some (.aes c)
  else if 0x20 ≤ c ∧ c < 0x28 then some (.tdm (c - 0x20))
  else if 0x100 ≤ c ∧ c < 0x200 then some (.net (c - 0x100))
  else if 0x200 ≤ c ∧ c < 0x240 then some (.host (c - 0x200))
  else none

/-- What an unlisted source has: nothing arrived, never unlocked. -/
def noArrivals (_ : Nat) : List (Nat × Nat × Nat) := []

/-- What an unlisted source reads as: locked throughout. -/
def noUnlocks (_ : Nat) : List (Nat × Option Nat) := []

/-- Samples of a source arrive in the current Stroke. -/
def Dev.arrive (d : Dev) (src lo hi : Nat) : Dev :=
  d.onAud fun a => { a with arrived := Tab.upd noArrivals a.arrived src fun l =>
    match l with
    | (p, q, t) :: r => if q = lo ∧ t = d.now then (p, hi, t) :: r else (((lo, hi, d.now) :: l).take 4096)
    | [] => [(lo, hi, d.now)] }

/-- A source becomes unlocked. -/
def Dev.unlock (d : Dev) (src : Nat) : Dev :=
  d.onAud fun a => { a with unlocked := Tab.upd noUnlocks a.unlocked src fun l =>
    match l with
    | (_, none) :: _ => l
    | _ => ((d.now, none) :: l).take 64 }

/-- A source becomes locked. -/
def Dev.relock (d : Dev) (src : Nat) : Dev :=
  d.onAud fun a => { a with unlocked := Tab.upd noUnlocks a.unlocked src fun l =>
    match l with
    | (s, none) :: r => (s, some d.now) :: r
    | _ => l }

/-- The sample rate of a source in Hz. -/
def Dev.sourceRate (d : Dev) (src fs : Nat) : Nat :=
  match audSource? src with
  | some (.net s) => if d.flag (Reg.audNetiCfg s) F.audNetiCfg_rate96 then 96000 else 48000
  | some (.host h) => rateHz (d.fld (Reg.audHostCfg h) F.audHostCfg_rate)
  | _ => fs

/-- The playback post of a host stream. -/
def Dev.playback? (d : Dev) (h : Nat) : Option Standing := d.standing? 0x41 (0x2C0 + h)

/-- Whether sample `n` of a source, at a group's rate, is absent for an item released at the boundary of `e` (R310). -/
def Dev.absent (d : Dev) (src fs n e : Nat) : Bool :=
  let came (m : Nat) : Bool := (Tab.get noArrivals d.aud.arrived src).any fun a => decide (a.1 ≤ m ∧ m < a.2.1 ∧ a.2.2 < e)
  match audSource? src with
  | some (.net _) | some (.host _) => !came (n * d.sourceRate src fs / fs)
  | some (.aes _) | some (.tdm _) =>
    (Tab.get noUnlocks d.aud.unlocked src).any fun u =>
      decide (u.1 ≤ n * 8000 / fs) && (match u.2 with
        | none => true
        | some t => decide (n * 8000 / fs ≤ t))
  | none => true

/-- The cause of R312 for a source. -/
def sourceCause (src : Nat) : Nat :=
  match audSource? src with
  | some (.net _) => 0x31
  | some (.host _) => 0x32
  | _ => 0x33

/-! ## Samples (R300, R308, R311) -/

/-- Bits of a TDM port's slots (R299). -/
def Dev.slotBits (d : Dev) (p : Nat) : Nat := 16 + 8 * d.fld (Reg.audTdmCfg p) F.audTdmCfg_width

/-- The 24-bit sample that a slot of 16, 24 or 32 bits carries (R300). -/
def fromSlot (bits v : Nat) : Nat :=
  if bits = 16 then v % 2 ^ 16 * 2 ^ 8 else if bits = 32 then v / 2 ^ 8 % 2 ^ 24 else v % 2 ^ 24

/-- A 24-bit sample as a slot carries it (R300): 16 bits are rounded half up and saturated; of 32 the low 8 are 0. -/
def toSlot (bits v : Nat) : Nat :=
  if bits = 16 then unsigned 16 (min 32767 ((signed 24 v + 128) / 256))
  else if bits = 32 then v % 2 ^ 24 * 2 ^ 8 else v % 2 ^ 24

/-- Whether an ASRC channel works on a channel of an input, or of an output. -/
def Dev.resampled (d : Dev) (out : Bool) (io chan : Nat) : Bool :=
  d.aud.asrcs.any fun p => p.2.any fun u => u.out == out && u.io == io && u.chan == chan

/-- What an unlisted AES3 input has had: no frames. -/
def noFrames (_ : Nat) : AesIn := { count := 0 }

/-- The samples of a channel of an AES3 input that another stood for around a Stroke, as its ASRC hears them (R297, R308): each by its frame and
the one that stands. -/
def Dev.stoodIn (d : Dev) (input chan j : Nat) : List Nat :=
  ((Tab.get noFrames d.aud.ins input).stands.filter fun t => decide (j ≤ t.1 + 8 ∧ t.1 ≤ j + 8) && t.2.1 == chan).flatMap fun t => [t.2.2.1, t.2.2.2]

/-- Sample `n` of a channel of a source, of Stroke `j`: a free value where no command states what came, in a slot's form of a TDM port (R300);
what an AES3 input's ASRC gives follows the samples that others stood for (R297). -/
def Dev.inputSample (d : Dev) (src chan n j : Nat) : Nat :=
  match audSource? src with
  | some (.tdm p) =>
    let v := Config.audioSample [src, chan, n]
    if d.resampled false src chan then v % 2 ^ 24 else fromSlot (d.slotBits p) (v % 2 ^ d.slotBits p)
  | some (.aes i) => Config.audioSample ([src, chan, n] ++ d.stoodIn i chan j) % 2 ^ 24
  | _ => Config.audioSample [src, chan, n] % 2 ^ 24

/-- The member that a channel of a group belongs to: its place, its source, the channel there. -/
def memberOf : (i : Nat) → List (Nat × Nat) → Nat → Option (Nat × Nat × Nat)
  | _, [], _ => none
  | i, (s, k) :: r, ch => if ch < k then some (i, s, ch) else memberOf (i + 1) r (ch - k)

/-- Whether sample `n` of a member is concealed. -/
def AudGrpDyn.hides (x : AudGrpDyn) (member n : Nat) : Bool := x.hidden.any fun h => h.1 = n && bitAt h.2 member

/-- Sample `n` of a channel of a group, with whether it is concealed, as zero (R311). -/
def Dev.groupSample (d : Dev) (x : AudGrpDyn) (ch n : Nat) : Nat × Bool :=
  match memberOf 0 x.cfg.members ch with
  | none => (0, false)
  | some (i, s, k) => if x.hides i n then (0, true)
    else (d.inputSample s k (n * d.sourceRate s x.cfg.rate / x.cfg.rate) (n * 8000 / x.cfg.rate), false)

/-- A sample as its word in a host buffer (R316). -/
def Dev.sampleWord (d : Dev) (x : AudGrpDyn) (aux : Bool) (ch n : Nat) : Nat :=
  let v := d.groupSample x ch n
  let flags := match (memberOf 0 x.cfg.members ch).map fun m => (audSource? m.2.1, m.2.1) with
    | some (some (.aes i), _) => Config.audioFlags [i, ch, n] % 16
    | some (some (.net s), _) => if d.flag (Reg.audNetiCfg s) F.audNetiCfg_kind then Config.audioFlags [0x100 + s, ch, n] % 16 else 0
    | _ => 0
  pack [(v.1, 8)] + (if aux then 2 ^ 7 * bit v.2 + 2 ^ 3 * flags else 0)

/-! ## Groups (R309–R313) -/

/-- The event of an episode (R312). -/
def Dev.audEvent (d : Dev) (g cause sample member n : Nat) : Dev :=
  d.postEvent (d.owner 7 g) .conceal (0x280 + g) [cause, sample % 2 ^ 32, pack [(member, 16), (min 0xFFFF n, 0)], 0]

/-- Whether a member's absence is an event: a host stream without a post raises none (R318). -/
def Dev.audible (d : Dev) (src : Nat) : Bool :=
  match audSource? src with
  | some (.host h) => (d.playback? h).isSome
  | _ => true

/-! ## Channel status (R296, R298) -/

/-- One step of the AES3 CRCC over a byte, least significant bit first as the wire carries it. PRESUMED: the bit order of AES3
(notes/assumptions/38.md). -/
def crccBits : (fuel c : Nat) → Nat
  | 0, c => c
  | n + 1, c => crccBits n (if c % 2 = 1 then (c / 2) ^^^ 0xB8 else c / 2)

/-- CRCC over bytes, with initial value all ones (R296). -/
def crcc (bytes : List Nat) : Nat := bytes.foldl (fun c b => crccBits 8 (c ^^^ b)) 0xFF

/-! ## Destinations (R298, R306, R309, R313, R316, R319) -/

/-- What an unlisted output's ramp is: none has been. -/
def noRamp (_ : Nat) : Option Ramp := Option.none

/-- The number in the Charter's class AUDIO_IO of the output that a destination belongs to: an AES3 output or a TDM port. -/
def destIo (dest : Nat) : Nat := if dest < 64 then 0x40 + dest / 2 else 0x20 + (dest - 64) / 32

/-- The port of R319 and the slot of a destination. -/
def destSlot (dest : Nat) : Nat × Nat := if dest < 64 then (8 + dest / 32, dest % 32) else ((dest - 64) / 32, (dest - 64) % 32)

/-- The destination of a slot of a port of R319. -/
def slotDest (port slot : Nat) : Nat := if port < 8 then 64 + 32 * port + slot else 32 * (port - 8) + slot

/-- What an unlisted mask reads as. -/
def noMasks (_ : Nat) : List (Nat × Nat) := []

/-- The mask of a port and direction that holds at a Stroke. -/
def Dev.maskAt (d : Dev) (port dir t : Nat) : Nat :=
  (((Tab.get noMasks d.aud.masks (2 * port + dir)).find? fun m => decide (m.1 ≤ t)).map (·.2)).getD 0xFFFFFFFF

/-- The standing interleaved rings that play to a port. -/
def Dev.outRings (d : Dev) (port : Nat) : List Desc :=
  (d.hif.standing.map (·.desc)).filter fun y => y.opcode = 0x42 && bitAt (y.w 5) 8 && y.w 5 % 16 = port

/-- Whether a host ring plays to a destination in a Stroke: a slot in the mask of its port (R319). -/
def Dev.ringPlays (d : Dev) (dest j : Nat) : Bool :=
  let p := destSlot dest
  decide (dest < 320) && !(d.outRings p.1).isEmpty && bitAt (d.maskAt p.1 1 j) p.2

/-- The destinations to which a host ring of a group plays. -/
def Dev.ringDests (d : Dev) (g : Nat) : List Nat :=
  (((d.hif.standing.map (·.desc)).filter fun y => y.opcode = 0x42 && bitAt (y.w 5) 8 && y.object = 0x280 + g).flatMap fun y =>
    (List.range 32).map (slotDest (y.w 5 % 16))).eraseDups.filter (· < 320)

/-- Samples `ns` of a group, those already read being silence (R313), join what a destination has to play in Stroke `j`: `sample` gives each
with its validity bit, and one that passes an ASRC is a free value (R308). -/
def Dev.addPlay (d : Dev) (x : AudGrpDyn) (g j dest seen : Nat) (sample : Nat → Nat × Bool) (ns : List Nat) : Dev :=
  let c := x.cfg
  let word (n : Nat) : Nat :=
    if n < seen then 0
    else if decide (dest < 320) && d.resampled true (destIo dest) dest then Config.audioSample [0x1000 + dest, n] % 2 ^ 24
    else (sample n).1
  if ns.isEmpty then d
  else d.onAud fun a => { a with plays := a.plays ++ [⟨dest, g, j + arriveStrokes c.arriveUs + 2, ns.headD 0, c.rate, c.delay,
    arriveStrokes c.arriveUs + 2, ns.map word, ns.map fun n => bit (decide (seen ≤ n) && (sample n).2)⟩] }

/-- The block of a group's Stroke `j` goes to its destinations (R316): those routed to it, and the slots that a host ring of the group plays,
whose samples are its own (R319). -/
def Dev.playBlockOut (d : Dev) (g j seen : Nat) (ns : List Nat) : Dev :=
  match d.grp? g with
  | none => d
  | some x =>
    let rings (t n : Nat) : Bool := d.ringPlays t (n * 8000 / x.cfg.rate)
    let routed := (d.enabledOf (Reg.audRoute 0) 4 1344).filter fun t => d.fld (Reg.audRoute t) F.audRoute_group = g
    let e := routed.foldl (fun e t =>
      e.addPlay x g j t seen (d.groupSample x (d.fld (Reg.audRoute t) F.audRoute_channel)) (ns.filter fun n => !rings t n)) d
    (d.ringDests g).foldl (fun e t =>
      e.addPlay x g j t seen (fun n => (Config.audioSample [0x280 + g, 0x1000 + t, n] % 2 ^ 24, false)) (ns.filter (rings t))) e

/-- How far a ramp has come for sample `n` of a block, of `8 × rate`: all of it when the ramp is over. -/
def Ramp.gain (r : Ramp) (p : Play) (n : Nat) : Nat :=
  let x := min (8 * p.rate) ((n + p.lag) * 8000 + p.wait * p.rate - r.start * p.rate)
  if r.up then x else 8 * p.rate - x

/-- A sample under a ramp; where a fraction of it is left, its rounding is free (R306). -/
def ramped (p : Play) (n : Nat) (r : Option Ramp) (v : Nat) : Nat :=
  match r with
  | none => v
  | some r =>
    let k := r.gain p n
    if k = 0 then 0 else if 8 * p.rate ≤ k then v else Config.rampSample [v, k, 8 * p.rate] % 2 ^ 24

/-- The ramp of a group's destinations: down towards a new D, and up after it (R313). -/
def AudGrpDyn.ramp (x : AudGrpDyn) : Option Ramp :=
  match x.next with
  | some (_, t) => some ⟨false, t - 8⟩
  | none => x.back.map fun t => ⟨true, t⟩

/-- The channel-status block that an AES3 output sends (R298): its 23 bytes, and their CRCC. -/
def Dev.csSent (d : Dev) (o : Nat) : List Nat :=
  let bytes := ((List.range 23).map fun i => (d.reg (Reg.audAesoCs o (i / 4))).toNat / 2 ^ (8 * (i % 4)) % 256)
  bytes ++ [crcc bytes]

/-- The enabled network output stream that carries a network output channel (R316). -/
def Dev.netOut? (d : Dev) (ch : Nat) : Option Nat :=
  (d.enabledOf (Reg.audNetoCfg 0) 0x10 256).find? fun s =>
    let first := d.fld (Reg.audNetoCh s) F.audNetoCh_first
    decide (first ≤ ch ∧ ch ≤ first + d.fld (Reg.audNetoCfg s) F.audNetoCfg_chM1)

/-- A destination plays what is due, under the ramps of its group and its output, in the form that it carries (R298, R300, R301, R309). -/
def Dev.play (d : Dev) (p : Play) : Dev :=
  let group := (d.grp? p.group).bind AudGrpDyn.ramp
  let output := if p.dest < 320 then Tab.get noRamp d.aud.ramps (destIo p.dest) else none
  let words := p.words.zipIdx.map fun w => ramped p (p.first + w.2) output (ramped p (p.first + w.2) group w.1)
  if p.dest < 64 then
    let o := p.dest / 2
    if !d.flag (Reg.audAesoCfg o) F.audAesoCfg_enable then d
    else d.emit (.samples p.dest p.first words (if d.flag (Reg.audAesoCfg o) F.audAesoCfg_vMark then p.valid else p.valid.map fun _ => 0) (d.csSent o))
  else if p.dest < 320 then
    let t := (p.dest - 64) / 32
    if !d.flag (Reg.audTdmCfg t) F.audTdmCfg_enable || (d.flag (Reg.audTdmCfg t) F.audTdmCfg_role && !d.flag (Reg.audTdmStatus t) F.audTdmStatus_clockOk)
    then d
    else d.emit (.samples p.dest p.first (words.map (toSlot (d.slotBits t))) [] [])
  else match d.netOut? (p.dest - 320) with
    | none => d
    | some s =>
      let a := Reg.audNetoCfg s
      let bits := if !d.flag a F.audNetoCfg_kind && d.fld a F.audNetoCfg_enc = 0 then 16 else 24
      d.emit (.samples p.dest p.first (words.map (toSlot bits)) [] [])

/-- Every destination plays what is due at a boundary. -/
def Dev.playDue (d : Dev) : Dev :=
  let now := d.now
  let due := d.aud.plays.filter fun p => decide (p.stroke ≤ now)
  due.foldl Dev.play (d.onAud fun a => { a with plays := a.plays.filter fun p => decide (now < p.stroke) })

/-! ## Blocks of groups (R310–R313) -/

/-- A group's item for Stroke `j` is over (R310–R312): absent samples are concealed, the whole block under SILENCE; the episode and
the counts follow, and the check value is logged (R522). A larger D reads no sample twice (R313). -/
def Dev.audBlock (d : Dev) (g j crc : Nat) (silence : Bool) : Dev :=
  match d.grp? g with
  | none => d
  | some x =>
    let c := x.cfg
    let s := c.samples j
    let e := j + arriveStrokes c.arriveUs
    let all := (List.range (s.2 - s.1)).map (s.1 + ·)
    let ns := all.filter (x.seen ≤ ·)
    let bad (n : Nat) : Option Nat :=
      (c.members.zipIdx.find? fun m => d.absent m.1.1 c.rate n e && d.audible m.1.1).map (·.2)
    let anyBad (n : Nat) : Bool := c.members.any fun m => d.absent m.1 c.rate n e
    let hid := if silence then ns else ns.filter anyBad
    let mask (n : Nat) : Nat :=
      if silence || c.together then 2 ^ c.members.length - 1 else sumBy (fun m => bit (d.absent m.1.1 c.rate n e) * 2 ^ m.2) c.members.zipIdx
    let said := if silence then ns.map fun n => (n, 0) else ns.filterMap fun n => (bad n).map fun m => (n, m)
    let count := said.length
    let d := d.onGrp g fun x =>
      { x with read := x.read + ns.length, concealed := x.concealed + hid.length, upto := max x.upto (j + 1), seen := max x.seen s.2
               hidden := ((hid.map fun n => (n, mask n)) ++ x.hidden).take 4096 }
    let d := match x.episode, said with
      | none, [] => d
      | none, (n, m) :: _ =>
        let cause := if silence then 0x34 else sourceCause ((c.members.getD m (0, 0)).1)
        (d.audEvent g cause n m count).onGrp g fun x => { x with episode := some count, episodes := x.episodes + 1 }
      | some k, [] => (d.audEvent g 0x3F s.1 0 k).onGrp g fun x => { x with episode := none }
      | some k, _ :: _ => d.onGrp g fun x => { x with episode := some (k + count) }
    (d.recordFrom (d.seenFrom c.flow (j + d.audA g)) (d.owner 7 g) 0x12 0 (0x280 + g) [s.1 % 2 ^ 32, crc]).playBlockOut g j x.seen all

/-- A silenced block; its check value is a free value. -/
def Dev.audSilence (d : Dev) (g j : Nat) : Dev :=
  d.audBlock g j (Config.content [0x280 + g, j]) true

/-- The timing token of a group's block at its release boundary (R312). -/
def Dev.audBoundary (d : Dev) (g : Nat) : Dev :=
  match d.grp? g with
  | none => d
  | some x =>
    let a := arriveStrokes x.cfg.arriveUs
    if d.now < a then d else d.token x.cfg.flow ((d.now - a) % 65536) 0 0

/-- A group starts or changes: a new delay waits for the end of its ramp (R313). -/
def Dev.startGrp (d : Dev) (g : Nat) (c : AudGrpCfg) : Dev :=
  match d.grp? g with
  | none => d.onAud fun a => { a with groups := Tab.put noGrp a.groups g (some { cfg := c, upto := d.now }) }
  | some x =>
    let seen := if x.cfg.rate = c.rate then x.seen else 0
    if x.cfg.delay = c.delay then d.onGrp g fun x => { x with cfg := c, next := none, seen := seen }
    else d.onGrp g fun x => { x with cfg := { c with delay := x.cfg.delay }, next := some (c.delay, d.now + 8), seen := seen }

/-- A group ends. -/
def Dev.stopGrp (d : Dev) (g : Nat) : Dev := d.onAud fun a => { a with groups := Tab.put noGrp a.groups g none }

/-- AUDIO_RAMP_END (R313): the new delay of a group applies once its ramp of 1 ms is over. -/
def execAudioRampEnd (group : Nat) (s : State) : Host.Outcome State Fault Refusal :=
  s.lift fun d =>
    match (d.grp? group).bind (·.next) with
    | none => d
    | some (n, t) =>
      if d.now < t then d
      else (d.onGrp group fun x => { x with cfg := { x.cfg with delay := n }, next := none, back := some d.now }).setFld (Reg.audGrpResolved group)
        F.audGrpResolved_delay n

/-! ## Network input (R302, R303) -/

/-- Samples in a packet of a network stream (R302). -/
def Dev.packetSamples (d : Dev) (s : Nat) : Nat :=
  let a := Reg.audNetiCfg s
  let us := [125, 250, 1000, 4000].getD (d.fld a F.audNetiCfg_ptime) 125
  (if d.flag a F.audNetiCfg_rate96 then 96000 else 48000) * us / 1000000

/-- The groups that hold a source. -/
def Dev.holders (d : Dev) (src : Nat) : List (Nat × AudGrpDyn) :=
  d.aud.groups.filterMap fun p => match p.2 with
    | some x => if x.cfg.members.any fun m => m.1 = src then some (p.1, x) else none
    | none => none

/-- A packet of network input stream `s` (R303): placed by its timestamp, or LATE when every group that holds the stream has read
its samples. -/
def Dev.audioPacket (d : Dev) (s flow ts seq ns : Nat) : Dev :=
  let a := Reg.audNetiCfg s
  let st := Reg.audNetiStatus s
  let src := 0x100 + s
  let fs := if d.flag a F.audNetiCfg_rate96 then 96000 else 48000
  let n := near32 ((d.now * 125000 + ns) * fs / 1000000000) ts
  let k := d.packetSamples s
  let last := Tab.get zero d.aud.lastSeq s
  let gap := if last = 0 then 0 else (seq + 65536 - last % 65536) % 65536
  let d := if gap = 0 ∨ 32768 ≤ gap then d else d.addFld st F.audNetiStatus_lost gap
  let d := if gap < 32768 then d.onAud fun y => { y with lastSeq := Tab.put zero y.lastSeq s (seq % 65536 + 1) } else d
  let l := d.holders src
  let done (p : Nat × AudGrpDyn) : Bool :=
    let c := p.2.cfg
    let m := cdiv ((n + k) * c.rate) fs
    decide ((m - 1 + c.delay) * 8000 / c.rate + arriveStrokes c.arriveUs ≤ d.now)
  if !l.isEmpty && l.all done then
    l.foldl (fun d p => d.onGrp p.1 fun x => { x with late := x.late + 1 }) (d.addFld st F.audNetiStatus_late 1)
  else (d.recordToken (d.flowCrew flow) 0 flow [n % 65536, n % 2 ^ 32]).arrive src n (n + k)

/-! ## AES3 (R296–R298) -/

/-- The bytes of channel-status bits in order of transmission, newest last. -/
def csBytes (bits : List Nat) : List Nat :=
  (List.range 24).map fun i => sumBy (fun j => bits.getD (8 * i + j) 0 * 2 ^ j) (List.range 8)

/-- A whole channel-status block of an input's subframe (R296): `b` for subframe B. -/
def Dev.csBlock (d : Dev) (i : Nat) (b : Bool) (bits : List Nat) : Dev :=
  let bytes := csBytes bits
  let pro := bytes.getD 0 0 % 2 = 1
  if pro ∧ crcc (bytes.take 23) ≠ bytes.getD 23 0 then d.addFld (Reg.audAesiStatus i) F.audAesiStatus_crcErr 1
  else
    let d := (List.range 6).foldl (fun d w =>
      d.setReg (if b then Reg.audAesiCsB i w else Reg.audAesiCsA i w) (BitVec.ofNat 32 (leNat ((bytes.drop (4 * w)).take 4)))) d
    d.setFld (Reg.audAesiStatus i) (if b then F.audAesiStatus_proB else F.audAesiStatus_proA) (bit (decide pro))

/-- An empty assembly: it waits for a Z preamble. -/
def noCs (_ : Nat) : CsAsm := { pos := 192, a := [], b := [] }

/-- A frame of an AES3 input: a sample with a parity error is replaced by the one before it (R297). -/
def AesIn.next (x : AesIn) (now : Nat) (badA badB : Bool) : AesIn :=
  let n := x.count + 1
  { count := n, a := if badA then x.a else n, b := if badB then x.b else n
    stands := ((if badA then [(now, 0, n, x.a)] else []) ++ (if badB then [(now, 1, n, x.b)] else []) ++ x.stands).take 4096 }

/-- AES3_INPUT_FRAME (R296, R297): samples with parity errors are replaced and counted, and channel-status blocks assembled. The validity bits reach host buffers
alone (R316), whose bytes content decides. -/
def execAes3InputFrame (input : Nat) (parityA parityB _validA _validB csA csB blockStart : Bool) (s : State) :
    Host.Outcome State Fault Refusal :=
  s.lift fun d =>
    let st := Reg.audAesiStatus input
    if 32 ≤ input ∨ !d.flag (Reg.audAesiCfg input) F.audAesiCfg_enable ∨ !d.flag st F.audAesiStatus_lock then d
    else
      let now := d.now
      let d := d.onAud fun z => { z with ins := Tab.upd noFrames z.ins input fun y => y.next now parityA parityB }
      let d := if !(parityA || parityB) then d else d.addFld st F.audAesiStatus_parityErr (bit parityA + bit parityB)
      let x := Tab.get noCs d.aud.cs input
      let x : CsAsm := if blockStart then { pos := 0, a := [], b := [] } else x
      if 192 ≤ x.pos then d
      else
        let y : CsAsm := { pos := x.pos + 1, a := x.a ++ [bit csA], b := x.b ++ [bit csB] }
        let d := d.onAud fun z => { z with cs := Tab.put noCs z.cs input (if y.pos = 192 then noCs 0 else y) }
        if y.pos = 192 then (d.csBlock input false y.a).csBlock input true y.b else d

/-- AES3_LOCK (R296): an enabled input locks at a measured rate. -/
def execAes3Lock (input rate : Nat) (s : State) : Host.Outcome State Fault Refusal :=
  s.lift fun d =>
    if 32 ≤ input ∨ !d.flag (Reg.audAesiCfg input) F.audAesiCfg_enable then d
    else ((d.relock input).setFld (Reg.audAesiStatus input) F.audAesiStatus_lock 1).setFld (Reg.audAesiStatus input)
      F.audAesiStatus_rate (min 7 rate)

/-- AES3_LOCK_LOSS (R297). -/
def execAes3LockLoss (input : Nat) (s : State) : Host.Outcome State Fault Refusal :=
  s.lift fun d =>
    if 32 ≤ input ∨ !d.flag (Reg.audAesiStatus input) F.audAesiStatus_lock then d
    else ((d.unlock input).setFld (Reg.audAesiStatus input) F.audAesiStatus_lock 0).onAud fun a =>
      { a with cs := Tab.put noCs a.cs input (noCs 0) }

/-- An output begins a ramp at the next boundary (R301, R306). -/
def Dev.rampOutput (d : Dev) (io : Nat) (up : Bool) : Dev :=
  let t := d.now + 1
  d.onAud fun a => { a with ramps := Tab.put noRamp a.ramps io (some ⟨up, t⟩) }

/-- TDM_CLOCK_LOSS (R301): a slave port's inputs are absent and its output stops. -/
def execTdmClockLoss (port : Nat) (s : State) : Host.Outcome State Fault Refusal :=
  s.lift fun d =>
    let c := Reg.audTdmCfg port
    if 8 ≤ port ∨ !d.flag c F.audTdmCfg_enable ∨ d.fld c F.audTdmCfg_role = 0 then d
    else ((d.unlock (0x20 + port)).setFld (Reg.audTdmStatus port) F.audTdmStatus_clockOk 0).emit (.pin ("TDM_DOUT_" ++ toString port) false)

/-- TDM_CLOCK_RETURN (R301): the port relocks, and its output resumes with a ramp. -/
def execTdmClockReturn (port : Nat) (s : State) : Host.Outcome State Fault Refusal :=
  s.lift fun d =>
    let c := Reg.audTdmCfg port
    if 8 ≤ port ∨ !d.flag c F.audTdmCfg_enable ∨ d.fld c F.audTdmCfg_role = 0 ∨ d.flag (Reg.audTdmStatus port) F.audTdmStatus_clockOk then d
    else (((d.relock (0x20 + port)).setFld (Reg.audTdmStatus port) F.audTdmStatus_clockOk 1).emit
      (.pin ("TDM_DOUT_" ++ toString port) true)).rampOutput (0x20 + port) true

/-! ## The house clock and ASRCs (R305–R308) -/

/-- The enabled AES3 outputs, which are of the house domain (R295). -/
def Dev.houseOutputs (d : Dev) : List Nat := (List.range 32).filter fun o => d.flag (Reg.audAesoCfg o) F.audAesoCfg_enable

/-- The enabled TDM ports that take their clock from the house domain: masters (R295, R299). -/
def Dev.housePorts (d : Dev) : List Nat :=
  (List.range 8).filter fun p => d.flag (Reg.audTdmCfg p) F.audTdmCfg_enable && d.fld (Reg.audTdmCfg p) F.audTdmCfg_role = 0

/-- Crews that own an enabled house-domain output. -/
def Dev.houseCrews (d : Dev) : List Nat :=
  ((d.houseOutputs.map fun o => d.owner 8 (0x40 + o)) ++
    d.housePorts.map fun p => d.owner 8 (0x20 + p)).eraseDups

/-- What an ASRC channel serves. -/
def Dev.asrc? (d : Dev) (a : Nat) : Option AsrcUse := Tab.get noAsrc d.aud.asrcs a

/-- Whether an ASRC channel works on a port of the house domain: an AES3 output or a master TDM port. -/
def Dev.houseAsrc (d : Dev) (a : Nat) : Bool :=
  match d.asrc? a with
  | none => false
  | some u => decide (0x40 ≤ u.io ∧ u.io < 0x60) ||
      (decide (0x20 ≤ u.io ∧ u.io < 0x28) && d.fld (Reg.audTdmCfg (u.io - 0x20)) F.audTdmCfg_role = 0)

/-- Every house-domain output ramps down and its ASRC retracks (R306, R307). -/
def Dev.muteHouse (d : Dev) : Dev :=
  let d := d.houseOutputs.foldl (fun d o => (d.setFld (Reg.audAesoStatus o) F.audAesoStatus_muted 1).rampOutput (0x40 + o) false) d
  let d := d.housePorts.foldl (fun d p => d.rampOutput (0x20 + p) false) d
  let d := (List.range 256).foldl (fun d a => if d.houseAsrc a then d.setFld (Reg.audAsrcState a) F.audAsrcState_lock 0 else d) d
  d.setFld Reg.audClkStatus F.audClkStatus_muted 1

/-- A change of the house clock is raised to CREW_0 and recorded (R307, R522). -/
def Dev.houseEvent (d : Dev) (cause : Nat) (ppm : Int) : Dev :=
  let role := d.fld Reg.audClkCfg F.audClkCfg_role
  let ws := [cause, role, unsigned 32 ppm, 0]
  let d := (d.postEvent 0 .clockFault 0 ws).nvmLog .clockFault 0 ws
  (d.houseCrews.eraseDups).foldl (fun d c => d.record c 0x0C 0 0 [cause, role]) d

/-- HOUSE_CLOCK_LOSS (R306): house outputs ramp down and the clock falls back to PTP. -/
def execHouseClockLoss (outOfRange : Bool) (ppm : Int) (s : State) : Host.Outcome State Fault Refusal :=
  s.lift fun d =>
    let a := Reg.audClkStatus
    if d.fld Reg.audClkCfg F.audClkCfg_role = 0 ∨ d.fld a F.audClkStatus_house ≠ 1 then d
    else
      let d := ((d.setFld a F.audClkStatus_house 2).setFld a F.audClkStatus_extPresent 0).setFld a F.audClkStatus_ppm (unsigned 16 ppm)
      (d.muteHouse).houseEvent (if outOfRange then 3 else 1) ppm

/-- HOUSE_CLOCK_RESTORE (R307): the external clock has been present and in range for RESTORE_MS. -/
def execHouseClockRestore (ppm : Int) (s : State) : Host.Outcome State Fault Refusal :=
  s.lift fun d =>
    let a := Reg.audClkStatus
    if d.fld a F.audClkStatus_house ≠ 2 ∨ d.fld Reg.audClkCfg F.audClkCfg_restoreMs = 0 then d
    else
      let d := ((d.setFld a F.audClkStatus_house 1).setFld a F.audClkStatus_extPresent 1).setFld a F.audClkStatus_ppm (unsigned 16 ppm)
      (d.muteHouse).houseEvent 2 ppm

/-- A commit of AUD_CLK_CFG takes effect (R305, R307): a slave role takes the external clock. -/
def Dev.houseCommit (d : Dev) : Dev :=
  let a := Reg.audClkStatus
  if d.fld Reg.audClkCfg F.audClkCfg_role = 0 then (d.setFld a F.audClkStatus_house 0).setFld a F.audClkStatus_extPresent 0
  else (d.setFld a F.audClkStatus_house 1).setFld a F.audClkStatus_extPresent 1

/-- Whether an output is ramped down. -/
def Dev.rampedDown (d : Dev) (io : Nat) : Bool := (Tab.get noRamp d.aud.ramps io).any fun r => !r.up

/-- MUTED of the house clock follows its outputs (R306). -/
def Dev.houseMuted (d : Dev) : Dev :=
  if (d.houseOutputs.any fun o => d.flag (Reg.audAesoStatus o) F.audAesoStatus_muted) || d.housePorts.any fun p => d.rampedDown (0x20 + p) then d
  else d.setFld Reg.audClkStatus F.audClkStatus_muted 0

/-- An output of the house domain ramps up. -/
def Dev.unmute (d : Dev) (io : Nat) : Dev :=
  let d := if 0x40 ≤ io ∧ io < 0x60 then d.setFld (Reg.audAesoStatus (io - 0x40)) F.audAesoStatus_muted 0 else d
  if d.rampedDown io then d.rampOutput io true else d

/-- At a boundary a house output that no ASRC serves, and so none can report lock for, ramps up once its ramp down is over. DESIGN CHOICE
(notes/assumptions/37.md). -/
def Dev.houseBack (d : Dev) : Dev :=
  let served (io : Nat) : Bool := d.aud.asrcs.any fun p => p.2.any fun u => u.out && u.io == io
  let now := d.now
  let due := ((d.houseOutputs.map (0x40 + ·)) ++ d.housePorts.map (0x20 + ·)).filter fun io =>
    !served io && (Tab.get noRamp d.aud.ramps io).any fun (r : Ramp) => !r.up && decide (r.start + 8 ≤ now)
  if due.isEmpty then d else (due.foldl Dev.unmute d).houseMuted

/-- The group whose rate an ASRC channel works at: that of the input, or that of the route of the destination (R294). -/
def Dev.asrcGroup (d : Dev) (u : AsrcUse) : Nat := if u.out then d.fld (Reg.audRoute u.chan) F.audRoute_group else u.group

/-- Whether the ratio of an ASRC channel is exactly 1: the house clock has fallen back to PTP and the rates match (R306). -/
def Dev.ratioOne (d : Dev) (asrc : Nat) : Bool :=
  decide (d.fld Reg.audClkStatus F.audClkStatus_house = 2) && d.houseAsrc asrc &&
    (d.asrc? asrc).any fun u => (d.grp? (d.asrcGroup u)).any fun x => x.cfg.rate == rateHz (d.fld Reg.audClkCfg F.audClkCfg_houseRate)

/-- ASRC_LOCK (R306, R308): the channel reports lock, and the output it serves ramps up. -/
def execAsrcLock (asrc : Nat) (s : State) : Host.Outcome State Fault Refusal :=
  s.lift fun d =>
    let st := Reg.audAsrcState asrc
    if 256 ≤ asrc ∨ !d.flag st F.audAsrcState_inUse then d
    else
      let d := d.setFld st F.audAsrcState_lock 1
      let d := if d.ratioOne asrc then d.setReg (Reg.audAsrcRatio asrc) 0x10000000 else d
      (match d.asrc? asrc with
        | some u => if d.houseAsrc asrc && (u.out || decide (0x40 ≤ u.io)) then d.unmute u.io else d
        | none => d).houseMuted

/-- ASRC_RATIO_UPDATE (R308): at an eighth Stroke boundary the estimate moves and is recorded. -/
def execAsrcRatioUpdate (asrc ratio : Nat) (s : State) : Host.Outcome State Fault Refusal :=
  s.lift fun d =>
    let st := Reg.audAsrcState asrc
    if 256 ≤ asrc ∨ !d.flag st F.audAsrcState_inUse ∨ d.now % 8 ≠ 0 then d
    else
      let crew := ((d.asrc? asrc).map (·.crew)).getD 0
      (d.setReg (Reg.audAsrcRatio asrc) (BitVec.ofNat 32 ratio)).record crew 0x09 0 0 [asrc, ratio % 2 ^ 32]

/-! ## Host buffers (R316–R320) -/

/-- Bytes of a block (R316). -/
def blockBytes (fs strokes : Nat) : Nat := cdiv (64 + 4 * cdiv (strokes * fs) 8000) 64 * 64

/-- Words of a frame of an interleaved ring: 32 slots (R319). -/
def portBlockBytes (fs strokes : Nat) : Nat := cdiv (64 + 4 * 32 * cdiv (strokes * fs) 8000) 64 * 64

/-- The group of a descriptor's object. -/
def Desc.grp (x : Desc) : Nat := x.object - 0x280

/-- Blocks of a post. -/
def Desc.blocks (x : Desc) : Nat := max 1 (x.w 6 % 65536)

/-- The Stroke of the next change of a mask after Stroke `t`. -/
def Dev.nextMask (d : Dev) (port dir t : Nat) : Option Nat :=
  (((Tab.get noMasks d.aud.masks (2 * port + dir)).filter fun m => decide (t < m.1)).getLast?).map (·.1)

/-- The current block of a capture or port post that begins at Stroke `from_`: the Stroke after its last. A change of the mask ends
it short (R320). -/
def Dev.blockEnd (d : Dev) (x : Desc) (c : AudGrpCfg) (from_ : Nat) : Nat :=
  let full := from_ + max 1 c.block
  if x.opcode = 0x42 then
    match d.nextMask (x.w 5 % 16) (x.w 5 / 256 % 2) from_ with
    | some t => min t full
    | none => full
  else full

/-- The first channel of a source in a group. -/
def channelOf (src : Nat) : List (Nat × Nat) → Option Nat
  | [] => none
  | (s, k) :: r => if s = src then some 0 else (channelOf src r).map (k + ·)

/-- The group channels of a capture or port post: those it names, or in order the slots set in its mask; none where a slot is of no member
(R317, R319). -/
def Dev.postChannels (d : Dev) (c : AudGrpCfg) (y : Desc) (from_ : Nat) : List (Option Nat) :=
  if y.opcode = 0x42 then
    let port := y.w 5 % 16
    let mask := d.maskAt port (y.w 5 / 256 % 2) from_
    ((List.range 32).filter (bitAt mask)).map fun s =>
      if port < 8 then (channelOf (0x20 + port) c.members).map (· + s) else (channelOf (16 * (port - 8) + s / 2) c.members).map (· + s % 2)
  else (List.range (y.w 5 % 65536)).map fun i => some (y.w 5 / 65536 + i)

/-- Delivers the current block of a capture or port post. `aux` holds its first Stroke and whether the layout has just changed. -/
def Dev.deliverBlock (d : Dev) (p : Standing) (x : AudGrpDyn) : Dev :=
  let y := p.desc
  let c := x.cfg
  let from_ := p.aux.getD 0 0
  let to_ := d.blockEnd y c from_
  let lo := cdiv (from_ * c.rate) 8000
  let hi := cdiv (to_ * c.rate) 8000
  let port := y.opcode = 0x42
  let ns := (List.range (hi - lo)).map (lo + ·)
  let heard := d.postChannels c y from_
  let lost (l : List (Option Nat)) : Nat := (ns.filter fun n => l.any fun ch => ch.any fun k => (d.groupSample x k n).2).length
  let hid := lost heard
  let mask := if port then d.maskAt (y.w 5 % 16) (y.w 5 / 256 % 2) from_ else 0
  let short := decide (to_ < from_ + max 1 c.block)
  let next (d : Dev) (lost : Bool) : Dev := d.onStanding (·.is y) fun p =>
    { p with aux := [to_, bit short], gap := lost || p.gapLeft p.next, next := (if lost then p.next else (p.next + 1) % y.blocks)
             count := (if lost then p.count else p.count + 1) }
  if p.isBusy p.next || d.tooLate ((hi - 1 + c.delay) * 8000 / c.rate + arriveStrokes c.arriveUs + 2) then next d true
  else
    let size := if port then portBlockBytes c.rate c.block else blockBytes c.rate c.block
    let rings := if port then [heard] else heard.map fun ch => [ch]
    let out := port && decide (y.w 5 / 256 % 2 = 1)
    let aux := bitAt (y.w 6) 16
    let d := rings.zipIdx.foldl (fun d r =>
      let a := y.addr 3 + (r.2 * y.blocks + p.next) * size
      let word (n : Nat) (ch : Option Nat) : Nat := (ch.map fun k => d.sampleWord x aux k n).getD 0
      if out then d.emit (.hostRead y.crew a size)
      else d.emit (.hostWrite y.crew a ([lo % 2 ^ 32, hi - lo, lost r.1] ++ List.replicate 13 0 ++ ns.flatMap fun n => r.1.map (word n)))) d
    let d := d.deliver p p.next (if hid = 0 then 0 else 1)
      [lo % 2 ^ 32, pack [(bit (hid ≠ 0), 18), (p.aux.getD 1 0, 17), (bit p.gap, 16), (p.next, 0)], hi - lo, mask]
    next d false

/-- Whether the current block of a post is over: the item that reads its last sample has passed its deadline (R452). -/
def Dev.blockOver (d : Dev) (p : Standing) (x : AudGrpDyn) : Bool :=
  let c := x.cfg
  let hi := cdiv (d.blockEnd p.desc c (p.aux.getD 0 0) * c.rate) 8000
  let j := (hi - 1 + c.delay) * 8000 / c.rate
  decide (j < x.upto) && decide (j + arriveStrokes c.arriveUs + 2 ≤ d.now)

/-- Delivers the blocks of one post that are over; `fuel` bounds them. -/
def Dev.deliverBlocks (d : Dev) (g : Nat) (y : Desc) : (fuel : Nat) → Dev
  | 0 => d
  | n + 1 =>
    match d.grp? g, d.hif.standing.find? fun p => p.is y with
    | some x, some p => if d.blockOver p x then (d.deliverBlock p x).deliverBlocks g y n else d
    | _, _ => d

/-- AUD_RX_BLOCK (R317, R319, R320, R452): the blocks of a group's posts that are over are delivered or lost. -/
def execAudRxBlock (group : Nat) (s : State) : Host.Outcome State Fault Refusal :=
  s.lift fun d =>
    (d.hif.standing.filter fun p => (p.desc.opcode = 0x40 || p.desc.opcode = 0x42) && p.desc.object = 0x280 + group).foldl
      (fun d p => d.deliverBlocks group p.desc 64) d

/-- The settings of a group as they will stand at a Stroke. -/
def Dev.grpSoon? (d : Dev) (g t : Nat) : Option AudGrpCfg :=
  ((d.stk.accepted.reverse.findSome? fun m =>
    if m.effect ≤ t then (m.place.auds.find? fun q => q.1 = g).map (·.2) else none)).or ((d.grp? g).map (·.cfg))

/-- Channels of a group. -/
def AudGrpCfg.channels (g : AudGrpCfg) : Nat := sumBy (·.2) g.members

/-- AUD_RX_POST's own tests (R317). -/
def testAudRxPost (d : Dev) (x : Desc) : Option (Nat × List Nat) :=
  formatIf (((d.grpSoon? x.grp (d.effectOf x)).map fun g =>
    x.w 3 % 4096 ≠ 0 || decide (x.w 6 % 65536 < 2 ∨ 4096 < x.w 6 % 65536) || decide (x.w 5 % 65536 < 1 ∨ 64 < x.w 5 % 65536) ||
      decide (g.channels < x.w 5 / 65536 + x.w 5 % 65536)).getD true)

/-- MB/s of blocks of a number of bytes, one each `strokes` Strokes. -/
def blockRate (bytes strokes : Nat) : Nat := cdiv (bytes * 8000) (max 1 strokes * 1000000)

/-- MB/s of an AUD_RX_POST (R117, R317). -/
def rateAudRxPost (d : Dev) (x : Desc) : Nat × Nat :=
  (0, ((d.grpSoon? x.grp (d.effectOf x)).map fun g => blockRate (x.w 5 % 65536 * blockBytes g.rate g.block) g.block).getD 0)

/-- AUD_RX_POST (R317). -/
def execAudRxPost (crew ring : Nat) (s : State) : Host.Outcome State Fault Refusal :=
  s.onDue crew ring 0x40 fun d x => d.stand x [d.now, 0]

/-- The first Stroke of a playback post: its target, or the first that leaves time to read its first block. -/
def Dev.playFrom (d : Dev) (x : Desc) : Nat := (d.target? x).getD (d.now + 5)

/-- AUD_TX_POST's own tests (R318). -/
def testAudTxPost (d : Dev) (x : Desc) : Option (Nat × List Nat) :=
  if x.w 3 % 4096 ≠ 0 ∨ x.w 6 % 65536 < 2 ∨ 4096 < x.w 6 % 65536 ∨ x.w 6 / 65536 % 64 = 0 then some (0x13, [])
  else admissionIf (decide (d.playFrom x ≤ d.now + 4)) 0xB 0

/-- Channels of a host stream. -/
def Dev.hostChannels (d : Dev) (h : Nat) : Nat := d.fld (Reg.audHostCfg h) F.audHostCfg_chM1 + 1

/-- MB/s of an AUD_TX_POST. -/
def rateAudTxPost (d : Dev) (x : Desc) : Nat × Nat :=
  let h := x.object - 0x2C0
  let b := x.w 6 / 65536 % 64
  (blockRate (d.hostChannels h * blockBytes (rateHz (d.fld (Reg.audHostCfg h) F.audHostCfg_rate)) b) b, 0)

/-- AUD_TX_POST (R318): the post stands as soon as it is staged, since its first block is read before its target. `aux` holds the
next block and the first Stroke. -/
def execAudTxPost (crew ring : Nat) (s : State) : Host.Outcome State Fault Refusal :=
  s.lift fun d =>
    match (d.hif.due ++ d.hif.staged).find? fun x => x.crew = crew && x.ring = ring && x.opcode = 0x41 && !x.waits with
    | none => d
    | some x =>
      (d.onHif fun h => { h with due := h.due.filter (· ≠ x), staged := h.staged.filter (· ≠ x) }).stand x [0, d.playFrom x]

/-- A playback block has been read, or its read has failed (R318, R120). -/
def Dev.playBlock (d : Dev) (stream : Nat) (header : List Nat) (failed : Bool) : Dev :=
  match d.playback? stream with
  | none => d
  | some p =>
    let x := p.desc
    let b := max 1 (x.w 6 / 65536 % 64)
    let n := p.aux.getD 0 0
    let t := p.aux.getD 1 0 + n * b
    if d.now + 4 < t then d
    else
      let fs := rateHz (d.fld (Reg.audHostCfg stream) F.audHostCfg_rate)
      let lo := cdiv (t * fs) 8000
      let hi := cdiv ((t + b) * fs) 8000
      let ok := !failed && header.getD 0 0 == lo % 2 ^ 32 && header.getD 1 0 == hi - lo
      let i := n % x.blocks
      let d := (List.range (d.hostChannels stream)).foldl (fun d c =>
        d.emit (.hostRead x.crew (x.addr 3 + (c * x.blocks + i) * blockBytes fs b) (blockBytes fs b))) d
      let d := if ok then (d.arrive (0x200 + stream) lo hi).recordToken x.crew 0 x.object [lo % 65536, lo % 2 ^ 32] else d
      let d := d.deliver p i 0 [lo % 2 ^ 32, pack [(bit !ok, 19), (i, 0)], hi - lo, 0]
      d.onStanding (·.is x) fun p => { p with aux := [n + 1, p.aux.getD 1 0], count := p.count + 1 }

/-- AUD_TX_BLOCK_READ (R318): the next block of a playback post, with the header words the read returns. -/
def execAudTxBlockRead (stream : Nat) (header : List Nat) (s : State) : Host.Outcome State Fault Refusal :=
  s.lift fun d => d.playBlock stream header false

/-- Whether a group holds a port of R319. -/
def AudGrpCfg.holdsPort (g : AudGrpCfg) (port : Nat) : Bool :=
  g.members.any fun m => if port < 8 then m.1 = 0x20 + port else decide (m.1 < 0x20) && m.1 / 16 = port - 8

/-- AUD_PORT_POST's own tests (R319). -/
def testAudPortPost (d : Dev) (x : Desc) : Option (Nat × List Nat) :=
  formatIf (((d.grpSoon? x.grp (d.effectOf x)).map fun g =>
    x.w 3 % 4096 ≠ 0 || decide (x.w 6 % 65536 < 2 ∨ 4096 < x.w 6 % 65536) || decide (9 < x.w 5 % 16) ||
      !g.holdsPort (x.w 5 % 16)).getD true)

/-- MB/s of an AUD_PORT_POST. -/
def rateAudPortPost (d : Dev) (x : Desc) : Nat × Nat :=
  let r := ((d.grpSoon? x.grp (d.effectOf x)).map fun g => blockRate (portBlockBytes g.rate g.block) g.block).getD 0
  if x.w 5 / 256 % 2 = 1 then (r, 0) else (0, r)

/-- AUD_PORT_POST (R319). -/
def execAudPortPost (crew ring : Nat) (s : State) : Host.Outcome State Fault Refusal :=
  s.onDue crew ring 0x42 fun d x => d.stand x [d.now, 0]

/-- AUD_STOP (R321). -/
def execAudStop (crew ring : Nat) (s : State) : Host.Outcome State Fault Refusal :=
  s.onDue crew ring 0x43 fun d x =>
    d.stopPost x (d.hif.standing.find? fun p =>
      p.desc.object = x.object && p.desc.tag = x.w 3 % 65536 && [0x40, 0x41, 0x42].contains p.desc.opcode)

/-- AUD_QUERY (R321). -/
def execAudQuery (crew ring : Nat) (s : State) : Host.Outcome State Fault Refusal :=
  s.onDue crew ring 0x44 fun d x =>
    match d.grp? x.grp with
    | none => d.finish x 0 []
    | some y => d.finish x 0 [y.read % 2 ^ 32, y.concealed % 2 ^ 32, y.late % 2 ^ 32, y.episodes % 2 ^ 32]

/-- The opcodes of this file. -/
def audioRules : List OpRule :=
  let grp (k : ObjKind) : Bool := match k with | .group _ => true | _ => false
  let stream (k : ObjKind) : Bool := match k with | .stream _ => true | _ => false
  let ok (_ : Dev) (_ : Desc) : Option (Nat × List Nat) := none
  let base : List (Nat × Nat) := [(3, allBits), (4, allBits)]
  [{ opcode := 0x40, masks := base ++ [(5, allBits), (6, 0x1FFFF)], kind := grp, house := false, test := testAudRxPost, rate := rateAudRxPost },
   { opcode := 0x41, masks := base ++ [(6, 0x3FFFFF)], kind := stream, house := false, test := testAudTxPost, rate := rateAudTxPost },
   { opcode := 0x42, masks := base ++ [(5, 0x10F), (6, 0x1FFFF)], kind := grp, house := false, test := testAudPortPost,
     rate := rateAudPortPost },
   { opcode := 0x43, masks := [(3, 0xFFFF)], kind := fun k => grp k || stream k, house := false, test := ok },
   { opcode := 0x44, masks := [], kind := grp, house := false, test := ok }]

end Sys2Proof.Machine
end

