-- ==== Sys2Proof/Machine/Pixels.lean ====
section
/-! DEFINITION. Pixel arithmetic of layers (R258–R265, R267): functions of samples and of the settings in State. -/

namespace Sys2Proof.Machine

/-! ## The stages of a layer (R259–R262, R267) -/

/-- Chroma up-sampling at a position sited between columns k and k + 1. -/
def chromaBetween (row : Int → Nat) (k : Int) : Nat :=
  clamp20 (halfUp (9 * (row k + row (k + 1) : Nat) - (row (k - 1) + row (k + 2) : Nat)) 16)

/-- Chroma up-sampling to 4:4:4 of a row of 4:2:2 (R259). -/
def chromaUp (row : Int → Nat) (x : Nat) : Nat := if x % 2 = 0 then row (x / 2 : Nat) else chromaBetween row (x / 2 : Nat)

/-- Extension to 12 bits. -/
def to12 (depth v : Nat) : Nat := v * 2 ^ (12 - depth)

/-- The taps of a scaler at a phase: the centre one is adjusted so that they add up to 1,024 (R267). -/
def scalerTaps (lobes src dst phase : Nat) : List Int :=
  let l := Config.lanczos lobes src dst phase
  let c := (l.length - 1) / 2
  l.zipIdx.map fun p => if p.2 = c then p.1 + (1024 - l.foldl (· + ·) 0) else p.1

/-- One axis of a scaler: taps over samples, rounded half up to 12 bits. -/
def scaled (taps : List Int) (samples : List Nat) : Nat :=
  clampTo 4095 (halfUp ((taps.zip samples).foldl (fun n p => n + p.1 * p.2) 0) 1024)

/-- The weights of R and B in Y′, in units of 1/10,000, of a YCC code; those of BT.709 are PRESUMED from that standard
(notes/assumptions/64.md). -/
def lumaWeights (ycc : Nat) : Nat × Nat := if ycc = 0 then (2126, 722) else (2627, 593)

/-- Y′CbCr of 12 bits in limited range to R′G′B′ of 12 bits; RGB passes (R259). -/
def toRgb (ycc : Nat) (v : Nat × Nat × Nat) : Nat × Nat × Nat :=
  if ycc = 2 then v
  else
    let kr : Int := (lumaWeights ycc).1
    let kb : Int := (lumaWeights ycc).2
    let kg : Int := 10000 - kr - kb
    -- in units of 1 ÷ (3,504 × 3,584)
    let y : Int := ((v.1 : Int) - 256) * 3584
    let cb : Int := ((v.2.1 : Int) - 2048) * 3504
    let cr : Int := ((v.2.2 : Int) - 2048) * 3504
    let out (n : Int) (d : Nat) : Nat := clampTo 4095 (halfUp (4095 * n) (d * 3504 * 3584))
    (out (10000 * y + 2 * (10000 - kr) * cr) 10000,
     out (10000 * kg * y - 2 * kb * (10000 - kb) * cb - 2 * kr * (10000 - kr) * cr) (10000 * kg.toNat),
     out (10000 * y + 2 * (10000 - kb) * cb) 10000)

/-- Whether a BT.1886 entry of `n` is at or below the exact function of a 12-bit component plus one half: (2n − 1) ÷ 2 against
1,048,575 × white ÷ 10,000 × (v ÷ 4,095)^(12/5), both to the fifth power (R260). -/
def bt1886Holds (white v n : Nat) : Bool :=
  decide ((2 * n - 1) ^ 5 * 10000 ^ 5 * 4095 ^ 12 ≤ 2 ^ 5 * 1048575 ^ 5 * white ^ 5 * v ^ 12)

/-- The largest number below 2^k above `n` that passes a test, by its bits. -/
def largestBelow (p : Nat → Bool) : (k n : Nat) → Nat
  | 0, n => n
  | k + 1, n => if p (n + 2 ^ k) then largestBelow p k (n + 2 ^ k) else largestBelow p k n

/-- The table of BT.1886 (R260). -/
def bt1886 (white v : Nat) : Nat := largestBelow (bt1886Holds white v) 20 0

/-- Whether a code of `n` of BT.1886 to 16 bits is at or below the exact inverse for a linear component plus one half (R264). -/
def bt1886Under (white v n : Nat) : Bool :=
  decide ((2 * n - 1) ^ 12 * (1048575 * white) ^ 5 ≤ (2 * 65535) ^ 12 * (10000 * v) ^ 5)

/-- Transfer encode to 16 bits (R264): what is above the peak clips. -/
def transferEncode (transfer white : Nat) (v : Nat × Nat × Nat) : Nat × Nat × Nat :=
  match transfer with
  | 0 =>
    let one (c : Nat) : Nat := largestBelow (bt1886Under white c) 16 0
    (one v.1, one v.2.1, one v.2.2)
  | _ =>
    let r := Config.transferEncode transfer white v
    (min 65535 r.1, min 65535 r.2.1, min 65535 r.2.2)

/-- A code of a field; one that the spec does not define among its `n` stands for some of them. -/
def definedCode (n field v : Nat) : Nat := if v < n then v else Config.undefinedCode field % n

/-- Transfer decode (R260). -/
def transferDecode (transfer white : Nat) (v : Nat × Nat × Nat) : Nat × Nat × Nat :=
  match transfer with
  | 0 => (bt1886 white v.1, bt1886 white v.2.1, bt1886 white v.2.2)
  | 1 => (clamp20 (Config.pqDecode v.1), clamp20 (Config.pqDecode v.2.1), clamp20 (Config.pqDecode v.2.2))
  | _ => Config.hlgDecode v

/-- The presets of the gamut matrix, in units of 1/10,000. -/
def gamutPreset (code : Nat) : List Int :=
  if code = 1 then [6274, 3293, 433, 691, 9195, 114, 164, 880, 8956]
  else if code = 2 then [7538, 1986, 476, 457, 9418, 125, -12, 176, 9836]
  else [10000, 0, 0, 0, 10000, 0, 0, 0, 10000]

/-- The coefficients in units of 1/16,384 that the layer in a slot uses (R261). -/
def Dev.gamutOf (d : Dev) (code slot : Nat) : List Int :=
  if code = 3 then
    let l := Tab.get noList d.cmp.matrix slot
    (List.range 9).map fun i => signed 16 (l.getD i (Config.matrixUnset i % 65536))
  else (gamutPreset code).map fun c => halfUp (c * 16384) 10000

/-- The gamut matrix over linear components. -/
def gamut (m : List Int) (v : Nat × Nat × Nat) : Nat × Nat × Nat :=
  let row (i : Nat) : Nat := clamp20 (halfUp (m.getD i 0 * v.1 + m.getD (i + 1) 0 * v.2.1 + m.getD (i + 2) 0 * v.2.2) 16384)
  (row 0, row 3, row 6)

/-- 0.2627R + 0.6780G + 0.0593B, rounded. -/
def lightOf (v : Nat × Nat × Nat) : Nat := clamp20 (halfUp (2627 * v.1 + 6780 * v.2.1 + 593 * v.2.2 : Nat) 10000)

/-- A tone LUT entry of a layer slot. -/
def Dev.toneEntry (d : Dev) (slot i : Nat) : Nat :=
  (Tab.get noLut d.cmp.lut (1024 * slot + min i 1023)).getD (Config.toneIdentity (min i 1023))

/-- LUT(M): linear between points. -/
def Dev.toneAt (d : Dev) (slot m : Nat) : Nat :=
  let p := Config.pqPoint m
  let a := d.toneEntry slot p.1
  let b := d.toneEntry slot (p.1 + 1)
  clamp20 (halfUp (a * (65536 - p.2) + b * p.2 : Nat) 65536)

/-- The tone map (R262). -/
def Dev.toneMap (d : Dev) (mode slot : Nat) (v : Nat × Nat × Nat) : Nat × Nat × Nat :=
  if mode ≠ 1 ∧ mode ≠ 2 then v
  else
    let m := if mode = 1 then lightOf v else max v.1 (max v.2.1 v.2.2)
    let out (c : Nat) : Nat := if m = 0 then 0 else clamp20 (halfUp (c * d.toneAt slot m : Nat) m)
    (out v.1, out v.2.1, out v.2.2)

/-- Stages 5–8 of a layer by its colour settings (R259). -/
def Dev.layerColour (d : Dev) (p l : Nat) (v : Nat × Nat × Nat) : Nat × Nat × Nat :=
  let w := d.reg (Reg.cmpLayerColour p l)
  let white := d.fld (Reg.cmpProgOut p) F.cmpProgOut_sdrWhite
  let x := transferDecode (definedCode 3 0 (F.cmpLayerColour_transferIn.get w)) white (toRgb (definedCode 3 1 (F.cmpLayerColour_ycc.get w)) v)
  d.toneMap (definedCode 3 2 (F.cmpLayerColour_tone.get w)) (16 * p + l) (gamut (d.gamutOf (F.cmpLayerColour_gamut.get w) (16 * p + l)) x)

/-! ## Blending and output (R263–R265) -/

/-- One component of a layer over the value beneath it: `g` the global and `alpha` the pixel alpha (R263). -/
def blend (premult : Bool) (g alpha c below : Nat) : Nat :=
  let full := 4095 * 1023
  clamp20 (halfUp ((if premult then c * g * 4095 else c * (alpha * g)) + below * (full - alpha * g) : Nat) full)

/-- R′G′B′ of 16 bits to Y′CbCr in limited range; RGB stays (R264). -/
def toForm (form : Nat) (v : Nat × Nat × Nat) : Nat × Nat × Nat :=
  if form = 0 then v
  else
    let y : Int := 2627 * v.1 + 6780 * v.2.1 + 593 * v.2.2
    let out (n : Int) (d : Nat) (off : Nat) : Nat := clampTo 65535 (halfUp n d + off)
    (out (219 * 256 * y) (10000 * 65535) 4096,
     out (224 * 256 * (10000 * v.2.2 - y)) (2 * 9407 * 65535) 32768,
     out (224 * 256 * (10000 * v.1 - y)) (2 * 7373 * 65535) 32768)

/-- The 4 × 4 matrix of ORDERED. -/
def orderedM (x y : Nat) : Nat := [0, 8, 2, 10, 12, 4, 14, 6, 3, 11, 1, 9, 15, 7, 13, 5].getD (4 * (y % 4) + x % 4) 0

/-- The threshold of a programme's mask for frame `k`; before SET_MASK it is the 4 × 4 matrix scaled by 256 (R265). -/
def Dev.thresholdAt (d : Dev) (p k x y : Nat) : Nat :=
  let u := (x + 37 * k) % 64
  let v := (y + 23 * k) % 64
  (Tab.get noList d.cmp.mask p).getD (64 * v + u) (256 * orderedM u v)

/-- Dither of the 16-bit value at (x, y) of frame `k` to DEPTH bits (R265); `strip` holds the values of the component's strip, for
ERROR_DIFFUSION. -/
def Dev.dither (d : Dev) (p k x y : Nat) (strip : List (List Nat)) (v : Nat) : Nat :=
  let w := d.reg (Reg.cmpProgOut p)
  let depth := F.cmpProgOut_depth.get w
  let s := 16 - depth
  let out : Nat := match F.cmpProgOut_dither.get w with
    | 0 => (v + 2 ^ s / 2) / 2 ^ s
    | 1 => (v + (2 * orderedM x y + 1) * 2 ^ s / 32) / 2 ^ s
    | 2 => Config.diffused depth strip (y % 32) x
    | _ => (v + (2 * d.thresholdAt p k x y + 1) * 2 ^ s / 8192) / 2 ^ s
  min out (2 ^ depth - 1)

/-- The container of a depth, and a value placed in its top (R264). -/
def container (depth : Nat) : Nat := if depth ≤ 8 then 8 else if depth ≤ 10 then 10 else 12

/-- The value as it leaves in its container. -/
def placed (depth v : Nat) : Nat := v * 2 ^ (container depth - depth)

end Sys2Proof.Machine
end

