-- ==== Sys2Proof/Machine/Composer.lean ====
section
/-! DEFINITION. Composition of strips (R254–R257, R259, R263–R268, R277, R278) and what taps take of them (R279, R280). DEDUCED (notes/assumptions/64.md): edges, phases and
orders that these rules leave to be read, and free values for what they leave open. -/

namespace Sys2Proof.Machine

/-! ## Pictures that layers show (R254, R255) -/

/-- A picture: bits of a sample, chroma (0 4:2:0, 1 4:2:2, 2 4:4:4), and samples by component, column and row; component 3 is alpha. -/
structure Picture where
  depth : Nat
  chroma : Nat
  sample : Nat → Nat → Nat → Nat

/-- What a layer shows in a strip: nothing, a colour of the working space, a pattern, or a picture. -/
inductive Shown where
  | nothing
  | colour (v : Nat × Nat × Nat)
  | pattern (index : Nat)
  | picture (q : Picture)

/-- A sample of planes that are held, by component, row and column, if it is stated. -/
def sampleOf (planes : List (List (List Nat))) (comp row col : Nat) : Option Nat :=
  ((planes[comp]?).bind fun l => l[row]?).bind fun l => l[col]?

/-- Frame `k` of the source of a live layer (R255): strip by strip as they came; a free value where no command has stated a sample. -/
def LayerDyn.ingested (y : LayerDyn) (flow fmt k : Nat) : Picture :=
  { depth := fmtDepth fmt, chroma := fmtChroma fmt
    sample := fun comp col row =>
      let rows := if comp ≠ 0 ∧ fmt = 4 then 16 else 32
      ((y.source.find? fun s => s.k = k && s.j = row / rows).bind fun s => sampleOf s.planes comp (row % rows) col).getD
        (Config.sourceSample [256 + flow, k, comp, col, row] % 2 ^ fmtDepth fmt) }

/-- A picture that a decode channel presents (R242): 10 bits, with the chroma of the channel. -/
def Stored.decoded (b : Stored) (chroma : Nat) : Picture :=
  { depth := 10, chroma := chroma
    sample := fun comp col row => (sampleOf b.planes comp row col).getD (Config.decodedSample (b.place ++ [comp, row, col]) % 1024) }

/-- A host buffer (R284): formats 8 and 9 hold components and alpha of 12 bits, 10 components of 10 bits and alpha of 2, which is scaled. -/
def Stored.buffer (b : Stored) (fmt : Nat) : Picture :=
  let depth := if fmt = 10 then 10 else 12
  { depth := depth, chroma := 2
    sample := fun comp col row =>
      let bits := if comp = 3 ∧ fmt = 10 then 2 else depth
      let v := (sampleOf b.planes comp row col).getD (Config.hostSample (b.place ++ [comp, col, row]) % 2 ^ bits)
      if comp ≠ 3 then v else if fmt = 10 then v * 1365 else v }

/-! ## What holds for a frame (R266) -/

/-- The machine with the settings that hold for frame `k` of a programme since its flip deadline. -/
def Dev.seen (d : Dev) (p k : Nat) : Dev :=
  match (d.prog? p).bind fun x => x.looks.find? fun w => w.k = k with
  | none => d
  | some w => (w.words.foldl (fun d q => d.setReg q.1 q.2) d).onCmp fun c => { c with lut := w.lut, matrix := w.matrix, mask := w.mask }

/-- The 12-bit R′G′B′ of a colour register. -/
def Dev.colourCode (d : Dev) (a : Nat) : Nat × Nat × Nat :=
  let v := F.cmpProgBg_rgb.get (d.reg a)
  (to12 10 (v / 2 ^ 20), to12 10 (v / 1024 % 1024), to12 10 (v % 1024))

/-- A 12-bit R′G′B′ in the programme's output transfer, in the working space: decoded as a BT.2020 layer would be. -/
def Dev.outputColour (d : Dev) (p : Nat) (v : Nat × Nat × Nat) : Nat × Nat × Nat :=
  let w := d.reg (Reg.cmpProgOut p)
  transferDecode (F.cmpProgOut_transfer.get w) (F.cmpProgOut_sdrWhite.get w) v

/-- BG of a programme. -/
def Dev.backgroundOf (d : Dev) (p : Nat) : Nat × Nat × Nat := d.outputColour p (d.colourCode (Reg.cmpProgBg p))

/-- FILL of a programme. -/
def Dev.fillOf (d : Dev) (p : Nat) : Nat × Nat × Nat := d.outputColour p (d.colourCode (Reg.cmpProgFill p))

/-- A pattern at (x, y) of frame `k`, as a 12-bit R′G′B′ in the programme's output terms (R257). -/
def Dev.patternAt (d : Dev) (p index w k x y : Nat) : Nat × Nat × Nat :=
  let free (n : Nat) : Nat := Config.patternSample [index, d.fld (Reg.cmpProgOut p) F.cmpProgOut_transfer, w, n, x, y] % 4096
  match index with
  | 0 => d.colourCode (Reg.cmpProgFill p)
  | 2 => let v := clampTo 4095 (halfUp (4095 * x : Nat) (w - 1)); (v, v, v)
  | 3 => d.colourCode (if (x / 64 + y / 64) % 2 = 0 then Reg.cmpProgBg p else Reg.cmpProgFill p)
  | 4 => if 8 * k % w ≤ x ∧ x < 8 * k % w + 16 then (4095, 4095, 4095) else (free 0, free 1, free 2)
  | _ => (free 0, free 1, free 2)

/-- What a layer shows where it has nothing to show (R256, R277): `before` under HOLD where it exists, FILL, or nothing. -/
def Dev.missRule (d : Dev) (p miss : Nat) (before : Option Picture) : Shown :=
  match definedCode 3 3 miss with
  | 0 => match before with
    | some q => .picture q
    | none => .colour (d.fillOf p)
  | 1 => .colour (d.fillOf p)
  | _ => .nothing

/-- Whether the boundary of frame `j` of one rate is at or before that of frame `k` of another (R21, R255). -/
def notAfter (num den num' den' j k : Nat) : Bool := decide (j * den * num' ≤ k * den' * num)

/-- What a layer shows in strip `b` of frame `k`, with the settings as the strip sees them (R255, R256, R277). -/
def Dev.layerShows (d : Dev) (p k b : Nat) (x : ProgDyn) (l : LayerCfg) (y : LayerDyn) : Shown :=
  let miss (before : Option Picture) : Shown := d.missRule p (F.cmpLayerCfg_miss.get (d.reg (Reg.cmpLayerCfg p l.layer))) before
  match l.srcType with
  | 1 =>
    let picture (k : Nat) : Picture := y.ingested l.srcIndex (y.formAt l k).fmt k
    if (y.formAt l k).dark ≠ 0 then .nothing
    else if x.misses.any fun m => m.1 = k && m.2.1 = b && bitAt m.2.2 l.layer then
      let f := y.formAt l (k - 1)
      let held := f.dark = 0 && (x.cfg.neededStrips (l.following f.size) b).all fun j => y.strips.contains (k - 1, j)
      miss (if held then some (picture (k - 1)) else none)
    else .picture (picture k)
  | 2 =>
    match d.dec? l.srcIndex with
    | none => miss none
    | some z =>
      match z.shows.find? fun s => notAfter z.cfg.num z.cfg.den x.cfg.num x.cfg.den s.1 k with
      | some s => .picture (s.2.decoded z.cfg.chroma)
      | none => miss none
  | 5 => .pattern l.srcIndex
  | _ =>
    match ((x.looks.find? fun w => w.k = k).bind fun w => w.buffers.find? fun q => q.1 = l.layer).map (·.2) with
    | some s => .picture (s.buffer l.srcFmt)
    | none => miss none

/-! ## Samples of a layer (R259, stages 1–4) -/

/-- Stages 1–3: a sample of a cropped picture at 4:4:4 and 12 bits, by column and row of the crop, of which the nearest stands beyond it. -/
def Picture.at444 (q : Picture) (l : LayerCfg) (comp : Nat) (u v : Int) : Nat :=
  let col := l.cropX + nearest l.cropW u
  let row := l.cropY + nearest l.cropH v
  if comp = 3 then q.sample 3 col row
  else if comp = 0 ∨ q.chroma = 2 then to12 q.depth (q.sample comp col row)
  else
    let top := 2 ^ q.depth - 1
    let inside (lo n : Nat) (i : Int) : Nat := max (lo / 2) (min ((lo + n - 1) / 2) i.toNat)
    let across (j : Nat) : Nat := min top (chromaUp (fun i => q.sample comp (inside l.cropX l.cropW i) j) col)
    if q.chroma = 1 then to12 q.depth (across row)
    else to12 q.depth (min top
      (chromaBetween (fun j => across (inside l.cropY l.cropH j)) ((((row + 1) / 2 : Nat) : Int) - 1)))

/-- One axis of a scaler at place `u` of its destination: its taps over the samples about the position that R268 gives, at one of 64 phases. -/
def scaledAt (lobes width src dst : Nat) (u : Nat) (s : Int → Nat) : Nat :=
  if src = dst then s u
  else
    let pos : Int := (((2 * u + 1) * src : Nat) : Int) - (dst : Int)
    let per : Int := ((2 * dst : Nat) : Int)
    let n := cdiv (width * max src dst) dst
    let first := pos / per - ((n - cdiv n 2 : Nat) : Int) + 1
    scaled (scalerTaps lobes src dst (pos % per * 64 / per).toNat) ((List.range n).map fun (i : Nat) => s (first + (i : Int)))

/-- Stages 1–4: a sample of a layer at column and row of its destination, the scaler acting along rows first (R259, R267, R268). -/
def Picture.shownAt (q : Picture) (l : LayerCfg) (comp u v : Nat) : Nat :=
  scaledAt 3 6 l.cropH l.dstH v fun j => scaledAt 4 8 l.cropW l.dstW u fun i => q.at444 l comp i j

/-! ## Composing a strip (R263–R265) -/

/-- Where a layer stands in frame `k`: as moved, else as committed (R254, R285). -/
def ProgDyn.originOf (x : ProgDyn) (k : Nat) (l : LayerCfg) : Int × Int :=
  (((x.looks.find? fun w => w.k = k).bind fun w => w.moved.find? fun q => q.1 = l.layer).map (·.2)).getD (l.dstX, l.dstY)

/-- A layer's colour in the working space and its pixel alpha at column and row of its destination, `(px, py)` of the programme (R259, R277). -/
def Dev.layerPixel (d : Dev) (p k : Nat) (x : ProgDyn) (l : LayerCfg) (s : Shown) (u v px py : Nat) : Option ((Nat × Nat × Nat) × Nat) :=
  match s with
  | .nothing => none
  | .colour c => some (c, 4095)
  | .pattern i => some (d.outputColour p (d.patternAt p i x.cfg.width k px py), 4095)
  | .picture q =>
    let c (comp : Nat) : Nat := q.shownAt l comp u v
    let opaque_ := l.srcType = 2 || l.srcType = 1 || definedCode 3 4 (F.cmpLayerCfg_alpha.get (d.reg (Reg.cmpLayerCfg p l.layer))) = 0
    some (d.layerColour p l.layer (c 0, c 1, c 2), if opaque_ then 4095 else c 3)

/-- A layer blended over the value beneath it (R263). -/
def Dev.blended (d : Dev) (p : Nat) (l : LayerCfg) (below : Nat × Nat × Nat) (v : (Nat × Nat × Nat) × Nat) : Nat × Nat × Nat :=
  let w := d.reg (Reg.cmpLayerCfg p l.layer)
  let one (c b : Nat) : Nat := blend (definedCode 3 4 (F.cmpLayerCfg_alpha.get w) = 2) (F.cmpLayerCfg_globalAlpha.get w) v.2 c b
  (one v.1.1 below.1, one v.1.2.1 below.2.1, one v.1.2.2 below.2.2)

/-- The layers of a programme in z-order, with what each shows in strip `b` of frame `k` (R254). -/
def Dev.layersShown (d : Dev) (p k b : Nat) (x : ProgDyn) : List (LayerCfg × Shown) :=
  (List.range 16).filterMap fun i =>
    match x.layerCfg? i, x.layer? i with
    | some l, some y =>
      let l' := if l.srcType = 1 then l.following (y.formAt l k).size else l
      some (l', d.layerShows p k b x l y)
    | _, _ => none

/-- The working space at (px, py) of frame `k`: BG with the layers that cover the place blended over it in z-order (R254, R263). -/
def Dev.composedAt (d : Dev) (p k : Nat) (x : ProgDyn) (layers : List (LayerCfg × Shown)) (px py : Nat) : Nat × Nat × Nat :=
  layers.foldl (fun below (q : LayerCfg × Shown) =>
    let o := x.originOf k q.1
    let u : Int := (px : Int) - o.1
    let v : Int := (py : Int) - o.2
    if 0 ≤ u ∧ u < q.1.dstW ∧ 0 ≤ v ∧ v < q.1.dstH then
      ((d.layerPixel p k x q.1 q.2 u.toNat v.toNat px py).map (d.blended p q.1 below)).getD below
    else below) (d.backgroundOf p)

/-- A component of three. -/
def part (v : Nat × Nat × Nat) (i : Nat) : Nat := if i = 0 then v.1 else if i = 1 then v.2.1 else v.2.2

/-- The rows of a strip as they are composed, after transfer encode: R′G′B′ of 16 bits (R264, step 1). -/
def Dev.encodedStrip (d : Dev) (p k b : Nat) (x : ProgDyn) : List (List (Nat × Nat × Nat)) :=
  let w := d.reg (Reg.cmpProgOut p)
  let layers := d.layersShown p k b x
  (List.range (x.cfg.stripEnd b - 32 * b)).map fun r => (List.range x.cfg.width).map fun px =>
    transferEncode (F.cmpProgOut_transfer.get w) (F.cmpProgOut_sdrWhite.get w) (d.composedAt p k x layers px (32 * b + r))

/-- A component of the output of a strip (R264, steps 2–5), from its rows of R′G′B′. -/
def Dev.outputPlane (d : Dev) (p k b : Nat) (rows : List (List (Nat × Nat × Nat))) (comp : Nat) : List (List Nat) :=
  let w := d.reg (Reg.cmpProgOut p)
  let depth := F.cmpProgOut_depth.get w
  let halved := F.cmpProgOut_form.get w = 2 && comp ≠ 0
  let plane := rows.map fun r =>
    let l := r.map fun v => part (toForm (F.cmpProgOut_form.get w) v) comp
    if halved then
      (List.range (cdiv l.length 2)).map fun (i : Nat) => chromaAcross (fun j => l.getD (nearest l.length j) 0) i
    else l
  plane.zipIdx.map fun r => r.1.zipIdx.map fun v =>
    let col := if halved && F.cmpProgOut_dither.get w ≠ 2 then 2 * v.2 else v.2
    placed depth (d.dither p k col (32 * b + r.2) plane v.1)

/-- A strip as it is composed: its output, and what taps take of it, Y′CbCr 4:4:4 of 12 bits (R264, R279). -/
def Dev.composeStrip (d : Dev) (p k b crc : Nat) (x : ProgDyn) : StripImage :=
  let e := d.seen p k
  let rows := e.encodedStrip p k b x
  { k := k, b := b, crc := crc, out := [0, 1, 2].map (e.outputPlane p k b rows)
    mid := [0, 1, 2].map fun i => rows.map fun r => r.map fun v => reduced 16 12 (part (toForm 1 v) i) }

/-- Strip `b` of frame `k` is composed and kept. -/
def Dev.stripComposed (d : Dev) (p k b crc : Nat) : Dev :=
  match d.prog? p with
  | none => d
  | some x => (d.keepStrip p (d.composeStrip p k b crc x)).stripOver p k b crc false

/-! ## Taps (R279, R280) -/

/-- A sample of a programme as its taps take it; a free value where a strip that stands in for one has none before it. -/
def ProgDyn.tapSource (x : ProgDyn) (p k comp col row : Nat) : Nat :=
  ((x.image? k (row / 32)).bind fun i => sampleOf i.mid comp (row % 32) col).getD (Config.stripSample [p, k, comp, col, row] % 4096)

/-- A sample of a tap: scaled to its size, then reduced to its format (R279). -/
def ProgDyn.tapSample (x : ProgDyn) (p k : Nat) (t : TapCfg) (comp col row : Nat) : Nat :=
  let scaledTo (comp u v : Nat) : Nat :=
    scaledAt 3 6 x.cfg.height t.h v fun j => scaledAt 4 8 x.cfg.width t.w u fun i =>
      x.tapSource p k comp (nearest x.cfg.width i) (nearest x.cfg.height j)
  converted 12 2 (fmtDepth t.fmt) (fmtChroma t.fmt) t.w t.h scaledTo comp col row

/-- A band of a tap as the source of its encode channel. -/
def Dev.tapBand (d : Dev) (c : Nat) (g : EncCfg) (k band : Nat) : Option BandContent :=
  let p := g.srcIndex / 4
  (d.prog? p).bind fun x => (x.cfg.taps.find? fun t => t.tap = g.srcIndex).map fun t =>
    let plane (comp : Nat) : List (List Nat) :=
      let down := if comp ≠ 0 ∧ fmtChroma t.fmt = 0 then 2 else 1
      let cols := if comp ≠ 0 ∧ fmtChroma t.fmt < 2 then cdiv t.w 2 else t.w
      (List.range (cdiv (g.lines band) down)).map fun r => (List.range cols).map fun col =>
        x.tapSample p k t comp col (band * g.ctu / down + r)
    ⟨c, k, band, Config.headerBits [c, k, band], [0, 1, 2].map plane⟩

/-- A band of a tap comes to its encode channel: its samples (R166, R279) and its tokens. -/
def Dev.feedTap (d : Dev) (c : Nat) (g : EncCfg) (k band : Nat) : Dev :=
  let d := d.sourceGood c k
  let d := match d.tapBand c g k band with
    | none => d
    | some b => d.onEnc c fun x => x.takeSource g c b
  d.bandTokens c k band false

/-- Band tokens of a tap-fed channel, at the boundaries of the Strokes that hold its bands' capture times (R280). -/
def Dev.tapFeeds (d : Dev) (c : Nat) : Dev :=
  match d.enc? c with
  | none => d
  | some x =>
    x.cfgs.foldl (fun d p =>
      let g := p.2
      if g.srcType = 2 then
        (({ g with cls := 0 } : EncCfg).dueAt d.now).foldl (fun d y =>
          if x.first ≤ y.1 && (cfgFor x.cfgs y.1).map (·.1) == some p.1 then d.feedTap c g y.1 y.2 else d) d
      else d) d

end Sys2Proof.Machine
end

