-- ==== Sys2Proof/Machine/Memory.lean ====
section
/-! DEFINITION. The HBM controller (R412–R434): the symbol code, regions, requests and their order, refresh, scrub, tracking,
freeze and thaw. -/

namespace Sys2Proof.Machine

/-! ## The symbol code (R413–R415) -/

/-- A product in GF(16) with α⁴ = α + 1. -/
def gmul (a b : Nat) : Nat :=
  let x2 (v : Nat) : Nat := if 8 ≤ v then Nat.xor (v * 2 % 16) 3 else v * 2
  let t (i v : Nat) : Nat := if bitAt b i then v else 0
  Nat.xor (Nat.xor (t 0 a) (t 1 (x2 a))) (Nat.xor (t 2 (x2 (x2 a))) (t 3 (x2 (x2 (x2 a)))))

/-- λ = α³. -/
def gLambda : Nat := 8

/-- f(x, y) = x² + xy + λy² (R414). -/
def gForm (x y : Nat) : Nat := Nat.xor (Nat.xor (gmul x x) (gmul x y)) (gmul gLambda (gmul y y))

/-- The column of symbol `j`: 0–31 data, 32–35 c0–c3 (R414). -/
def symbolColumn (j : Nat) : List Nat :=
  if j < 32 then let x := j % 16; let y := 2 + j / 16; [1, x, y, gForm x y]
  else if j = 32 then [1, 0, 0, 0] else if j = 33 then [1, 1, 0, 1] else if j = 34 then [1, 0, 1, gLambda] else [0, 0, 0, 1]

/-- The sum of symbol × column over the symbols `j0`… of a number of four-bit symbols. -/
def symbolSum (j0 n v : Nat) : List Nat :=
  (List.range n).foldl (fun s i =>
    let c := symbolColumn (j0 + i)
    (List.range 4).map fun k => Nat.xor (s.getD k 0) (gmul (v / 16 ^ i % 16) (c.getD k 0))) [0, 0, 0, 0]

/-- The check bits of 128 data bits (R414). -/
def checkBits (v : Nat) : Nat :=
  let d := symbolSum 0 32 v
  let d0 := d.getD 0 0; let d1 := d.getD 1 0; let d2 := d.getD 2 0; let d3 := d.getD 3 0
  pack [(Nat.xor (Nat.xor d0 d1) d2, 0), (d1, 4), (d2, 8), (Nat.xor (Nat.xor d3 d1) (gmul gLambda d2), 12)]

/-- The syndrome of stored check bits that differ from the right ones by `x` (R414). -/
def syndrome (x : Nat) : List Nat := symbolSum 32 4 x

/-- What the decoder finds of a syndrome (R414): clean, one symbol and its error, or uncorrectable. -/
inductive Decoded where
  | clean
  | symbol (j e : Nat)
  | bad
  deriving DecidableEq, Repr

/-- The decoder of R414. -/
def decodeSyndrome (s : List Nat) : Decoded :=
  let s0 := s.getD 0 0
  if s = [0, 0, 0, 0] then .clean
  else if s0 ≠ 0 then
    match (List.range 36).find? fun j => (symbolColumn j).map (gmul s0) == s with
    | some j => .symbol j s0
    | none => .bad
  else if s.getD 1 0 = 0 ∧ s.getD 2 0 = 0 then .symbol 35 (s.getD 3 0)
  else .bad

/-- SYNDROME of a snapshot: s0 in the top four bits. -/
def syndromeWord (s : List Nat) : Nat := s.foldl (fun a b => a * 16 + b) 0

/-! ## Bytes -/

/-- What an unlisted byte of the HBM reads as. -/
def zeroByte (_ : Nat) : Byte := 0

/-- The address of a byte of a pseudo-channel. -/
def hbmAddr (pc off : Nat) : Nat := pc * 2 ^ 29 + off

/-- `n` bytes of a pseudo-channel from an offset. -/
def readBytes (m : Memory) (pc off n : Nat) : List Nat :=
  (List.range n).map fun i => (Tab.get zeroByte m (hbmAddr pc (off + i))).toNat

/-- Writes bytes into a pseudo-channel from an offset. -/
def writeBytes (m : Memory) (pc off : Nat) (l : List Nat) : Memory :=
  (l.zipIdx).foldl (fun m p => Tab.put zeroByte m (hbmAddr pc (off + p.2)) (BitVec.ofNat 8 p.1)) m

/-- Fills a range of bytes of a pseudo-channel with zeros (R419). -/
def zeroBytes (m : Memory) (pc off n : Nat) : Memory := m.filter fun p => !(hbmAddr pc off ≤ p.1 && p.1 < hbmAddr pc (off + n))

/-! ## Regions (R417, R418) -/

/-- Whether a region covers a byte of a pseudo-channel. -/
def Dev.regionCovers (d : Dev) (r pc off : Nat) : Bool :=
  let c := Reg.memRegionCfg r
  let base := d.fld c F.memRegionCfg_pcBase * 1048576
  d.flag c F.memRegionCfg_enable && bitAt (d.reg (Reg.memRegionMask r (pc / 32))).toNat (pc % 32) &&
    decide (base ≤ off ∧ off < base + d.fld c F.memRegionCfg_pcLen * 1048576)

/-- The region of a byte of a pseudo-channel. -/
def Dev.regionOf (d : Dev) (pc off : Nat) : Option Nat := (List.range 8).find? fun r => d.regionCovers r pc off

/-- The owner of the region of a byte; 0x1F outside every region. -/
def Dev.regionCrew (d : Dev) (pc off : Nat) : Nat :=
  match d.regionOf pc off with
  | some r => d.fld (Reg.memRegionCfg r) F.memRegionCfg_crew
  | none => 0x1F

/-- The channel set of a region, ascending. -/
def Dev.regionSet (d : Dev) (r : Nat) : List Nat :=
  (List.range 128).filter fun pc => bitAt (d.reg (Reg.memRegionMask r (pc / 32))).toNat (pc % 32)

/-- The pseudo-channel and offset of a region's byte (R417). -/
def Dev.regionAddr (d : Dev) (r a : Nat) : Nat × Nat :=
  let c := Reg.memRegionCfg r
  let s := d.regionSet r
  let grain := 2 ^ d.fld c F.memRegionCfg_grain
  let g := a / grain
  (s.getD (g % s.length) 0, d.fld c F.memRegionCfg_pcBase * 1048576 + g / s.length * grain + a % grain)

/-- The region byte of a pseudo-channel's byte that a region covers: the inverse of `Dev.regionAddr` (R417). -/
def Dev.regionByte (d : Dev) (r pc off : Nat) : Option Nat :=
  if !d.regionCovers r pc off then none
  else
    let c := Reg.memRegionCfg r
    let s := d.regionSet r
    let grain := 2 ^ d.fld c F.memRegionCfg_grain
    let o := off - d.fld c F.memRegionCfg_pcBase * 1048576
    some ((o / grain * s.length + s.idxOf pc) * grain + o % grain)

/-! ## Pseudo-channels -/

/-- What an unlisted pseudo-channel reads as. -/
def newPc (_ : Nat) : PcDyn := {}

/-- A pseudo-channel beside its registers. -/
def Dev.pc (d : Dev) (k : Nat) : PcDyn := Tab.get newPc d.hbm.pcs k

/-- Changes a pseudo-channel beside its registers. -/
def Dev.onPc (d : Dev) (k : Nat) (f : PcDyn → PcDyn) : Dev := { d with hbm := { d.hbm with pcs := Tab.upd newPc d.hbm.pcs k f } }

/-- STATE of a pseudo-channel: 0 OK, 1 FROZEN, 2 FAILED, 3 TRAINING. -/
def Dev.pcState (d : Dev) (k : Nat) : Nat := d.fld (Reg.memPcStatus k) F.memPcStatus_state

/-- Notes a command of a pseudo-channel for snapshots (R428): OP, an offset, the owner of its region. -/
def Dev.pcCmd (d : Dev) (k op off : Nat) : Dev :=
  let p := Config.bankRow off
  let w := pack [(op, 28), (p.1 % 64, 22), (p.2 % 2 ^ 17, 5), (d.regionCrew k off % 32, 0)]
  d.onPc k fun x => { x with cmds := w :: x.cmds.take 63 }

/-- The key of a granule. -/
def granuleKey (pc off : Nat) : Nat := pc * 2 ^ 25 + off / 16

/-- The difference of a granule's stored check bits from the right ones. -/
def Dev.checkDiff (d : Dev) (pc off : Nat) : Nat := Tab.get zero d.hbm.check (granuleKey pc off)

/-- Sets that difference. -/
def Dev.setDiff (d : Dev) (pc off v : Nat) : Dev :=
  { d with hbm := { d.hbm with check := Tab.put zero d.hbm.check (granuleKey pc off) v } }

/-- The memory with the device. -/
abbrev HbmDev := Memory × Dev

/-- Cells of a granule flip: 128 data bits, then 16 check bits. -/
def flipGranule (x : HbmDev) (pc off flips : Nat) : HbmDev :=
  if flips = 0 then x
  else
    let old := leNat (readBytes x.1 pc off 16)
    let new := Nat.xor old (flips % 2 ^ 128)
    let diff := Nat.xor (Nat.xor (x.2.checkDiff pc off) (flips / 2 ^ 128 % 2 ^ 16)) (Nat.xor (checkBits old) (checkBits new))
    (writeBytes x.1 pc off ((List.range 16).map fun i => new / 256 ^ i % 256), x.2.setDiff pc off diff)

/-- Whether a byte of a pseudo-channel lies among `n` bytes of a region from byte `a` on. -/
def Dev.inRegion (d : Dev) (r a n pc off : Nat) : Bool := (d.regionByte r pc off).any fun b => decide (a ≤ b ∧ b < a + n)

/-- Fills `n` bytes of a region from byte `a` on with zeros and valid check bits (R226, R419). -/
def zeroRegion (x : HbmDev) (r a n : Nat) : HbmDev :=
  (x.1.filter fun p => !x.2.inRegion r a n (p.1 / 2 ^ 29) (p.1 % 2 ^ 29),
   { x.2 with hbm := { x.2.hbm with check := x.2.hbm.check.filter fun p => !x.2.inRegion r a n (p.1 / 2 ^ 25) (p.1 % 2 ^ 25 * 16) } })

/-- A granule as the decoder gives it (R414): its bytes corrected, and whether it was corrected or is uncorrectable. -/
def decodeGranule (x : HbmDev) (pc off : Nat) : List Nat × Decoded :=
  let b := readBytes x.1 pc off 16
  match decodeSyndrome (syndrome (x.2.checkDiff pc off)) with
  | .symbol j e =>
    if j < 32 then
      let v := Nat.xor (leNat b) (e * 16 ^ j)
      ((List.range 16).map fun i => v / 256 ^ i % 256, .symbol j e)
    else (b, .symbol j e)
  | r => (b, r)

/-- Counts a corrected granule (R428). -/
def Dev.countCe (d : Dev) (pc : Nat) : Dev := d.addFld (Reg.memPcStatus pc) F.memPcStatus_ce 1

/-- Counts an uncorrectable granule. -/
def Dev.countUe (d : Dev) (pc : Nat) : Dev := d.addFld (Reg.memPcErr pc) F.memPcErr_ue 1

/-! ## Freeze (R427, R428, R432) -/

/-- A pseudo-channel freezes: a free snapshot slot is filled, the freeze is recorded and logged, and FREEZE is raised to
CREW_0 (R428, R432). `cause` is 1 UE_DATA or 2 CA_PARITY. -/
def Dev.freeze (d : Dev) (pc cause sector synd : Nat) : Dev :=
  let off := sector * 32
  let crew := d.regionCrew pc off
  let slot := (List.range 4).find? fun i => !d.flag (Reg.memSnapInfo i) F.memSnapInfo_valid
  let d := (d.setFld (Reg.memPcStatus pc) F.memPcStatus_state 1).addFld Reg.memStatus F.memStatus_frozen 1
  let shown := if crew = 0 then sector else 0
  let d := match slot with
    | none => d
    | some i =>
      let cmds := (d.pc pc).cmds.reverse
      let d := d.setReg (Reg.memSnapInfo i)
        (BitVec.ofNat 32 (pack [(1, 31), (cause, 28), (pc, 21), (crew % 32, 16), (synd, 0)]))
      let d := (d.setReg (Reg.memSnapStroke i) (BitVec.ofNat 32 d.nowLo)).setReg (Reg.memSnapSector i) (BitVec.ofNat 32 sector)
      (List.range 64).foldl (fun d j => d.setReg (Reg.memSnapCmd i j) (BitVec.ofNat 32 (cmds.getD j 0))) d
  let ws := [pack [(cause, 24), (pc, 0)], (d.regionOf pc off).getD 0xF, shown, slot.getD 7]
  let d := (d.record 0 0x08 cause 0 [pc, shown]).nvmLog .freeze 0 ws
  (d.onPc pc fun x => { x with froze := (sector, d.now) :: x.froze.filter fun p => decide (d.now < p.2 + 8000) }).postEvent 0
    .freeze 0 ws

/-- Whether a sector froze its pseudo-channel within the last second (R427). -/
def Dev.frozeLately (d : Dev) (pc sector : Nat) : Bool :=
  (d.pc pc).froze.any fun p => p.1 = sector && decide (d.now < p.2 + 8000)

/-- A read by a requester finds an uncorrectable granule (R427): poisoned data at once where the sector froze lately, else a
freeze, with the requester waiting for the thaw. -/
def Dev.readBad (d : Dev) (pc sector crew synd : Nat) : Dev :=
  let d := d.countUe pc
  if d.frozeLately pc sector then d.emit (.hbmData pc (sector * 32) [] true)
  else (d.freeze pc 1 sector synd).onPc pc fun x => { x with failing := some (sector, crew) }

/-! ## Requests (R418, R421, R422) -/

/-- One queued write reaches the cells. A part of a granule is merged; when the merge's read is uncorrectable the granule is
written poisoned and the pseudo-channel freezes (R415, R422, R427). -/
def drainWrite (x : HbmDev) (pc : Nat) (w : Nat × List Nat) : HbmDev :=
  [w.1 / 16, w.1 / 16 + 1].foldl (fun x g =>
    let off := g * 16
    let part := (w.2.zipIdx).filter fun p => (w.1 + p.2) / 16 = g
    if part.isEmpty then x
    else if part.length = 16 then (writeBytes x.1 pc off (part.map (·.1)), x.2.setDiff pc off 0)
    else
      let r := decodeGranule x pc off
      let base := writeBytes x.1 pc off r.1
      let m := part.foldl (fun m p => writeBytes m pc (w.1 + p.2) [p.1]) base
      match r.2 with
      | .clean => (m, x.2.setDiff pc off 0)
      | .symbol _ _ => (m, (x.2.setDiff pc off 0).countCe pc)
      | .bad =>
        let d := (x.2.setDiff pc off 0xFFFF).countUe pc
        if x.2.frozeLately pc (off / 32) || x.2.pcState pc ≠ 0 then (m, d)
        else (m, d.freeze pc 1 (off / 32) (syndromeWord (syndrome (x.2.checkDiff pc off))))) x

/-- The oldest queued writes reach the cells until at most `n` are left. -/
def drainTo (n pc : Nat) : (fuel : Nat) → HbmDev → HbmDev
  | 0, x => x
  | f + 1, x =>
    match (x.2.pc pc).queue with
    | [] => x
    | w :: rest =>
      if rest.length + 1 ≤ n then x
      else drainTo n pc f (drainWrite (x.1, x.2.onPc pc fun p => { p with queue := rest }) pc w)

/-- Queued writes to a sector reach the cells, oldest first. -/
def drainSector (x : HbmDev) (pc sector : Nat) : HbmDev :=
  let hit (w : Nat × List Nat) : Bool := w.1 / 32 = sector
  let ws := (x.2.pc pc).queue.filter hit
  ws.foldl (fun x w => drainWrite x pc w)
    (x.1, x.2.onPc pc fun p => { p with queue := p.queue.filter fun w => !hit w })

/-- A read of a sector by a requester (R422): from the queue where the newest queued write covers all of it, else from the
cells once every queued write to it has drained. -/
def readSector (x : HbmDev) (pc sector crew : Nat) : HbmDev :=
  let off := sector * 32
  match ((x.2.pc pc).queue.filter fun w => w.1 / 32 = sector).getLast? with
  | some (_, l) =>
    if l.length = 32 then (x.1, x.2.emit (.hbmData pc off l false))
    else readCells (drainSector x pc sector) off
  | none => readCells x off
where
  /-- The read of the cells. -/
  readCells (x : HbmDev) (off : Nat) : HbmDev :=
    let a := decodeGranule x pc off
    let b := decodeGranule x pc (off + 16)
    let ce (r : Decoded) (d : Dev) : Dev := match r with
      | .symbol _ _ => d.countCe pc
      | _ => d
    let d := ce b.2 (ce a.2 x.2)
    if a.2 = .bad then (x.1, d.readBad pc sector crew (syndromeWord (syndrome (x.2.checkDiff pc off))))
    else if b.2 = .bad then (x.1, d.readBad pc sector crew (syndromeWord (syndrome (x.2.checkDiff pc (off + 16)))))
    else (x.1, d.emit (.hbmData pc off (a.1 ++ b.1) false))

/-- Splits a write at sector boundaries. -/
def splitWrite (off : Nat) (l : List Nat) : (fuel : Nat) → List (Nat × List Nat)
  | 0 => []
  | f + 1 =>
    if l.isEmpty then []
    else
      let n := 32 - off % 32
      (off, l.take n) :: splitWrite (off + n) (l.drop n) f

/-- A write enters the queue; when it is full the requester stalls until its oldest write has drained (R422). -/
def queueWrite (x : HbmDev) (pc : Nat) (w : Nat × List Nat) : HbmDev :=
  let x := drainTo 63 pc 64 x
  (x.1, ((x.2.onPc pc fun p => { p with queue := p.queue ++ [w] }).pcCmd pc 3 w.1).pmuCount (137 + pc / 32) .hbmWrite 0 0 1)

/-- One request is carried out (R418, R421): a Crew that does not own the region gets poisoned data, or has its write
discarded, and TAG_ERR counts. -/
def serve (x : HbmDev) (pc : Nat) (r : MemReq) : HbmDev :=
  if x.2.regionCrew pc r.addr ≠ r.crew then
    let d := x.2.addFld (Reg.memPcErr pc) F.memPcErr_tagErr 1
    (x.1, if r.write.isSome then d else d.emit (.hbmData pc (r.addr / 32 * 32) [] true))
  else
    let s := r.addr / 32
    let x := flipGranule (flipGranule x pc (s * 32) (r.flips % 2 ^ 144)) pc (s * 32 + 16) (r.flips / 2 ^ 144 % 2 ^ 144)
    match r.write with
    | some l => (splitWrite r.addr l l.length).foldl (fun x w => queueWrite x pc w) x
    | none =>
      let d := (x.2.pcCmd pc 2 (s * 32)).pmuCount (137 + pc / 32) .hbmRead 0 0 1
      readSector (x.1, d) pc s r.crew

/-- A pseudo-channel takes a request: while it is frozen the request waits (R421, R428). -/
def accept (x : HbmDev) (pc : Nat) (r : MemReq) : HbmDev :=
  match x.2.pcState pc with
  | 0 => serve x pc r
  | 1 => (x.1, x.2.onPc pc fun p => { p with waiting := p.waiting ++ [r] })
  | _ => x

/-- Carries a change of memory and device over to the state. -/
def State.liftMem (f : HbmDev → HbmDev) (s : State) : Host.Outcome State Fault Refusal :=
  let x := f (s.mem, s.dev)
  .next { s with mem := x.1, dev := x.2 }

/-- A read that a reset of MEM cuts off, or that comes while it is in reset, returns poisoned data (R415, R483). -/
def Dev.readIsolated (d : Dev) (pc : Nat) (r : MemReq) : Dev :=
  if r.write.isSome then d else d.emit (.hbmData pc (r.addr / 32 * 32) [] true)

/-- The reads that wait behind the freeze of a pseudo-channel return poisoned data (R483). -/
def Dev.cutReads (d : Dev) (pc : Nat) : Dev :=
  let p := d.pc pc
  let d := match p.failing with
    | some (sector, _) => d.emit (.hbmData pc (sector * 32) [] true)
    | none => d
  p.waiting.foldl (fun d r => d.readIsolated pc r) d

/-- HBM_REQUEST (R421, R483). -/
def execHbmRequest (pc crew addr : Nat) (write : Option (List Nat)) (flips : Nat) (s : State) :
    Host.Outcome State Fault Refusal :=
  s.liftMem fun x =>
    if 128 ≤ pc ∨ 2 ^ 29 < addr + max 1 (write.getD []).length then x
    else if x.2.inReset 3 then (x.1, x.2.readIsolated pc ⟨crew, addr, write, flips⟩)
    else accept x pc ⟨crew, addr, write, flips⟩

/-- HBM_UNCORRECTABLE_READ (R427). -/
def execHbmUncorrectableRead (pc sector crew syndrome : Nat) (s : State) : Host.Outcome State Fault Refusal :=
  s.lift fun d => if d.pcState pc = 0 then d.readBad pc sector crew syndrome else d

/-- CA_PARITY_ERROR (R427): a retried command's error, or the fourth within 1 ms, freezes. -/
def execCaParityError (pc sector : Nat) (retryOk : Bool) (ns : Nat) (s : State) : Host.Outcome State Fault Refusal :=
  s.lift fun d =>
    let t := d.localNs ns
    let times := t :: (d.pc pc).parity.filter fun u => decide (t < u + 1000000)
    let d := (d.addFld (Reg.memPcErr pc) F.memPcErr_caParity 1).onPc pc fun x => { x with parity := times }
    if d.pcState pc = 0 && (!retryOk || decide (4 ≤ times.length)) then d.freeze pc 2 sector 0 else d

/-- A pseudo-channel that thaws: the failing read gets poisoned data, and refreshes owed are issued (R423, R429). -/
def Dev.thawed (d : Dev) (pc : Nat) : Dev :=
  let p := d.pc pc
  let e := (d.setFld (Reg.memPcStatus pc) F.memPcStatus_state 0).setFld Reg.memStatus F.memStatus_frozen
    (d.fld Reg.memStatus F.memStatus_frozen - 1)
  let e := match p.failing with
    | some (sector, _) => e.emit (.hbmData pc (sector * 32) [] true)
    | none => e
  (p.owed.foldl (fun d b => d.pcCmd pc 5 b) e).onPc pc fun q => { q with waiting := [], owed := [], failing := none }

/-- A frozen pseudo-channel thaws, and the waiting requests proceed in order; they wait again behind a new freeze (R429). -/
def thawPc (x : HbmDev) (pc : Nat) : HbmDev :=
  if x.2.pcState pc ≠ 1 then x
  else (x.2.pc pc).waiting.foldl (fun x r => accept x pc r) (x.1, x.2.thawed pc)

/-- THAW (R429): in SNAPSHOT_THAW mode. -/
def execThaw (pc : Nat) (s : State) : Host.Outcome State Fault Refusal :=
  s.liftMem fun x => if x.2.flag Reg.memCfg F.memCfg_freezeMode then x else thawPc x pc

/-- A write of MEM_THAW (R430). -/
def thawWrite (x : HbmDev) (fn value : Nat) : HbmDev :=
  if x.2.mayWrite fn Reg.memThaw then
    let w := BitVec.ofNat 32 value
    let pc := F.memThaw_pc.get w
    let x := (x.1, x.2.setFld Reg.memThaw F.memThaw_pc pc)
    if F.memThaw_go.get w = 1 && x.2.flag Reg.memCfg F.memCfg_freezeMode then thawPc x pc else x
  else x

/-- MEM_THAW_GO (R430). -/
def execMemThawGo (fn value : Nat) (s : State) : Host.Outcome State Fault Refusal := s.liftMem fun x => thawWrite x fn value

/-! ## Refresh, temperature, scrub, tracking (R423–R426) -/

/-- REFRESH_DUE (R423): issued to an idle bank with all that were postponed, postponed up to 8 times on a busy one, then
forced; owed while frozen. -/
def execRefreshDue (pc bank : Nat) (idle : Bool) (s : State) : Host.Outcome State Fault Refusal :=
  s.lift fun d =>
    let n := Tab.get zero (d.pc pc).postponed bank
    match d.pcState pc with
    | 0 =>
      if idle then (d.pcCmd pc 5 bank).onPc pc fun x => { x with postponed := Tab.put zero x.postponed bank 0 }
      else if n < 8 then d.onPc pc fun x => { x with postponed := Tab.put zero x.postponed bank (n + 1) }
      else d.pcCmd pc 5 bank
    | 1 => d.onPc pc fun x => { x with owed := x.owed ++ [bank] }
    | _ => d

/-- STACK_TEMP_REPORT (R423): above 85 °C the refresh rate doubles, below 80 °C it returns. -/
def execStackTempReport (stack temp : Nat) (s : State) : Host.Outcome State Fault Refusal :=
  s.lift fun d =>
    if 4 ≤ stack ∨ d.inReset 3 then d
    else
      let a := Reg.memStackStatus stack
      let twice := if 85 < temp then 1 else if temp < 80 then 0 else d.fld a F.memStackStatus_refresh2x
      let d := (d.setFld a F.memStackStatus_temp temp).setFld a F.memStackStatus_refresh2x twice
      d.setFld Reg.memStatus F.memStatus_refresh2x
        (sumBy (fun i => d.fld (Reg.memStackStatus i) F.memStackStatus_refresh2x * 2 ^ i) (List.range 4))

/-- The scrub of one granule (R424). -/
def scrubGranule (x : HbmDev) (pc off : Nat) : HbmDev :=
  let r := decodeGranule x pc off
  match r.2 with
  | .clean => x
  | .symbol _ _ => (writeBytes x.1 pc off r.1, (x.2.setDiff pc off 0).countCe pc)
  | .bad => (x.1, x.2.countUe pc)

/-- SCRUB_READ (R424). -/
def execScrubRead (pc sector : Nat) (s : State) : Host.Outcome State Fault Refusal :=
  s.liftMem fun x =>
    if x.2.pcState pc ≠ 0 ∨ x.2.fld Reg.memCfg F.memCfg_scrubHours = 0 ∨ x.2.regionOf pc (sector * 32) = none ∨ 128 ≤ pc then x
    else scrubGranule (scrubGranule x pc (sector * 32)) pc (sector * 32 + 16)

/-- One step of a centre towards a target (R426). -/
def stepTo (c target : Nat) : Nat := if c < target then c + 1 else if target < c then c - 1 else c

/-- The larger of two distances by size. -/
def farther (a b : Int) : Int := if a.natAbs < b.natAbs then b else a

/-- TRACKING_MEASURE (R426): a lane's centre moves by at most one step, and DRIFT shows the largest distance. -/
def execTrackingMeasure (pc lane left right : Nat) (s : State) : Host.Outcome State Fault Refusal :=
  s.lift fun d =>
    if d.pcState pc ≠ 0 then d
    else
      let c := stepTo (Tab.get zero (d.pc pc).centre lane) ((left + right) / 2)
      let d := d.onPc pc fun x => { x with centre := Tab.put zero x.centre lane c }
      let p := d.pc pc
      let drift := (List.range 10).foldl (fun a l =>
        farther a (((Tab.get zero p.centre l : Nat) : Int) - ((Tab.get zero p.trained l : Nat) : Int))) 0
      d.setFld (Reg.memPcStatus pc) F.memPcStatus_drift (unsigned 6 drift)

/-- A write of MEM_TRAIN_CTL (R425): SAVE stores the centres in NVM calibration. -/
def Dev.trainCtlWrite (d : Dev) (fn value : Nat) : Dev :=
  if !d.mayWrite fn Reg.memTrainCtl || !bitAt value 31 || d.flag Reg.memTrainCtl F.memTrainCtl_save then d
  else
    let l := (List.range 128).flatMap fun pc => (List.range 10).map fun n => (pc * 16 + n, Tab.get zero (d.pc pc).centre n)
    ((d.setFld Reg.memTrainCtl F.memTrainCtl_save 1).setFld Reg.memTrainCtl F.memTrainCtl_busy 1).save (.centres l)

/-- MEM_TRAIN_SAVE (R425). -/
def execMemTrainSave (fn value : Nat) (s : State) : Host.Outcome State Fault Refusal :=
  s.lift fun d => d.trainCtlWrite fn value

/-- The widest error-free run of a lane's 128 steps, as first step and length (R425): free, of 16 steps or more, but that an `eye` handed in
is the length on lane 0 and the least on the others. -/
def laneRun (n : Nat) (eye : Option Nat) (lane : Nat) : Nat × Nat :=
  let t := Config.trained n lane
  let free := 16 + t.1 % 112
  let len := match eye with
    | none => free
    | some e => if lane = 0 then min e 127 else max (min e 127) free
  (t.2 % (129 - len), len)

/-- The centre of a run (R425). -/
def runCentre (r : Nat × Nat) : Nat := r.1 + r.2 / 2

/-- Whether a centre is free of errors 8 steps to either side (R425). -/
def runTest (r : Nat × Nat) (centre : Nat) : Bool := decide (r.1 + 8 ≤ centre ∧ centre + 8 < r.1 + r.2)

/-- The centres of a pseudo-channel that NVM calibration holds, by lane, if it holds all ten (R425). -/
def Dev.savedCentres (d : Dev) (pc : Nat) : Option (List Nat) :=
  (List.range 10).mapM fun n => (d.nvm.centres.find? fun e => e.1 == pc * 16 + n).map fun e => e.2

/-- The centres that training gives a pseudo-channel (R425): the saved ones under SAVED where every lane passes its test, else those of the
runs that the sweep finds. -/
def Dev.centresOf (d : Dev) (pc : Nat) (runs : List (Nat × Nat)) : List Nat :=
  let swept := runs.map runCentre
  match d.savedCentres pc with
  | some l => if d.fld Reg.memTrainCtl F.memTrainCtl_policy == 1 && (runs.zip l).all fun x => runTest x.1 x.2 then l else swept
  | none => swept

/-- The length of the narrowest of some runs, at most 127, the largest that EYE_MIN shows. -/
def narrowest (runs : List (Nat × Nat)) : Nat := runs.foldl (fun m r => min m r.2) 127

/-- Training of one pseudo-channel (R425): a lane whose run is below 16 steps makes it FAILED. -/
def Dev.trainPc (d : Dev) (eyes : List (Nat × Nat)) (pc : Nat) : Dev :=
  let f := d.fresh
  let runs := (List.range 10).map (laneRun f.1 ((eyes.find? fun e => e.1 == pc).map fun e => e.2))
  let a := Reg.memPcStatus pc
  let l := d.centresOf pc runs
  let cs := (List.range 10).foldl (fun c n => Tab.put zero c n (l.getD n 0)) []
  let d := (f.2.setFld a F.memPcStatus_state (if narrowest runs < 16 then 2 else 0)).setFld a F.memPcStatus_eyeMin (narrowest runs)
  d.onPc pc fun x => { x with trained := cs, centre := cs }

/-- Training at the release of MEM (R425); `eyes` lists the narrowest run of some pseudo-channels. -/
def Dev.trainAll (d : Dev) (eyes : List (Nat × Nat)) : Dev :=
  let d := (List.range 128).foldl (fun d pc => d.trainPc eyes pc) d
  let ok := sumBy (fun pc => bit (d.pcState pc = 0)) (List.range 128)
  (d.setFld Reg.memStatus F.memStatus_trained 1).setFld Reg.memStatus F.memStatus_pcsOk ok

end Sys2Proof.Machine
end

