-- ==== Sys2Proof/Machine/Paths.lean ====
section
/-! DEFINITION. The two paths (R378–R390): PTP sides, fail-over, return and partition, the ingress merge, and health
reports; with the PTP messages of R401. -/

namespace Sys2Proof.Machine

/-- Changes PATH beside its registers. -/
def Dev.onPth (d : Dev) (f : Pth → Pth) : Dev := { d with pth := f d.pth }

/-! ## PTP sides (R385) -/

/-- What an unlisted side reads as. -/
def newSide (_ : Nat) : Side := {}

/-- A PTP side: 0 instance PORT, 1 its partner. -/
def Dev.side (d : Dev) (i : Nat) : Side := Tab.get newSide d.pth.sides i

/-- Changes a side. -/
def Dev.onSide (d : Dev) (i : Nat) (f : Side → Side) : Dev := d.onPth fun p => { p with sides := Tab.upd newSide p.sides i f }

/-- The MAC instance of a side. -/
def Dev.sideMac (d : Dev) (i : Nat) : Nat := d.fld Reg.pathPtpCfg F.pathPtpCfg_port + 32 * i

/-- The active side. -/
def Dev.activeSide (d : Dev) : Nat := d.fld Reg.pathPtpStatus F.pathPtpStatus_onB

/-- Whether a side is in use: the active one, and the other with STANDBY_EN 1. -/
def Dev.sideUsed (d : Dev) (i : Nat) : Bool :=
  d.flag Reg.pathPtpCfg F.pathPtpCfg_enable && (i = d.activeSide || d.flag Reg.pathPtpCfg F.pathPtpCfg_standbyEn)

/-- Whether a side is healthy (R385). -/
def Dev.healthy (d : Dev) (i : Nat) : Bool :=
  let s := d.side i
  d.sideUsed i && d.linkUp (d.sideMac i) && s.announce && s.sync && s.delay

/-- The locked grandmaster. -/
def Dev.gmLocked (d : Dev) : Nat := (d.reg Reg.pathGmLockedLo).toNat + (d.reg Reg.pathGmLockedHi).toNat * 2 ^ 32

/-- Sets the locked grandmaster. -/
def Dev.setGmLocked (d : Dev) (gm : Nat) : Dev :=
  (d.setReg Reg.pathGmLockedLo (BitVec.ofNat 32 gm)).setReg Reg.pathGmLockedHi (BitVec.ofNat 32 (gm / 2 ^ 32))

/-- Shows the other grandmaster, 0 unless PARTITION. -/
def Dev.setGmOther (d : Dev) (gm : Nat) : Dev :=
  (d.setReg Reg.pathGmOtherLo (BitVec.ofNat 32 gm)).setReg Reg.pathGmOtherHi (BitVec.ofNat 32 (gm / 2 ^ 32))

/-- Whether R387's PARTITION holds. -/
def Dev.partitioned (d : Dev) : Bool := d.flag Reg.pathPtpStatus F.pathPtpStatus_partition

/-- PREFER of PATH_PTP_CFG. -/
def Dev.prefer (d : Dev) : Nat := d.fld Reg.pathPtpCfg F.pathPtpCfg_prefer

/-- WTR_S. -/
def Dev.wtr (d : Dev) : Nat := d.fld Reg.pathPtpCfg F.pathPtpCfg_wtrS

/-- Follows the sides: since when each has been healthy, the wait to restore (R386), and PATH_PTP_STATUS. -/
def Dev.showPtp (d : Dev) : Dev :=
  let d := [0, 1].foldl (fun d i =>
    let h := d.healthy i
    d.onSide i fun s => { s with since := if h then some (s.since.getD d.now) else none }) d
  let a := d.activeSide
  let waits := d.wtr ≠ 0 && a ≠ d.prefer && d.healthy d.prefer
  let d := d.onPth fun p => { p with wait := if waits then some (p.wait.getD d.now) else none }
  let left := match d.pth.wait with
    | some s => d.wtr - (d.now - s) / 8000
    | none => 0
  let r := Reg.pathPtpStatus
  (((d.setFld r F.pathPtpStatus_activeOk (bit (d.healthy a))).setFld r F.pathPtpStatus_standbyOk
    (bit (d.healthy (1 - a)))).setFld r F.pathPtpStatus_waiting (bit waits)).setFld r F.pathPtpStatus_wtrLeft left

/-- PTP runs: enabled, with SOURCE PTP, and not in REPLAY (R398, R527). -/
def Dev.ptpRuns (d : Dev) : Bool :=
  d.flag Reg.pathPtpCfg F.pathPtpCfg_enable && d.fld Reg.timeCtl F.timeCtl_source = 0 && !d.replay && !d.inReset 4 && !d.inReset 2

/-- A control frame joins those that wait on a port (R368). -/
def Dev.sendControl (d : Dev) (m bytes : Nat) : Dev :=
  { d with egs := { d.egs with control := Tab.upd noList d.egs.control m (· ++ [(bytes, none, [])]) } }

/-- Bytes of a PTP message of `n` bytes over UDP (R401). PRESUMED: IEEE 1588 message sizes (notes/assumptions/47.md). -/
def Dev.ptpBytes (d : Dev) (n : Nat) : Nat := n + 8 + 14 + 4 + (if d.flag Reg.timeCtl F.timeCtl_ipv6 then 40 else 20)

/-- Strokes between the Announces of a foreign master. -/
def ForeignMaster.period (f : ForeignMaster) : Nat := cdiv (8000 * 2 ^ f.told.interval) 256

/-- A master's merit by the data sets of IEEE 1588, lower being better: that of its grandmaster, and for one grandmaster the steps removed and the
port. PRESUMED (notes/assumptions/47.md). -/
def ForeignMaster.merit (f : ForeignMaster) : List Nat :=
  let a := f.told
  [a.priority1, a.clockClass, a.accuracy, a.variance, a.priority2, a.gm, a.steps, f.source]

/-- Whether a list of numbers comes before another of its length. -/
def lexLess : List Nat → List Nat → Bool
  | x :: l, y :: r => decide (x < y) || (x == y && lexLess l r)
  | _, _ => false

/-- The best of a side's foreign masters at a Stroke: of those qualified and heard within 4 of their intervals (R401). -/
def Side.bestMaster (s : Side) (now : Nat) : Option ForeignMaster :=
  (s.masters.filter fun f => f.qualified && decide (now ≤ f.heard + 4 * f.period)).foldl
    (fun b f => match b with
      | some g => if lexLess f.merit g.merit then some f else b
      | none => some f) none

/-- A side's foreign masters, of which it keeps 8, with one more Announce (R401). -/
def Side.hear (s : Side) (now source : Nat) (a : Announce) : Side :=
  let new (q : Bool) : ForeignMaster := { source := source, told := a, heard := now, qualified := q }
  { s with masters :=
      if s.masters.any fun f => f.source = source then
        s.masters.map fun f => if f.source = source then new (f.qualified || decide (now ≤ f.heard + 4 * f.period)) else f
      else if s.masters.length < 8 then s.masters ++ [new false] else s.masters }

/-- A side takes its best master. -/
def Side.choose (s : Side) (now : Nat) : Side :=
  match s.bestMaster now with
  | some f => { s with best := some f.source, gm := f.told.gm }
  | none => { s with best := none }

/-- RX_PS and TX_PS of a MAC instance, and its ASYM, in ps (R403). -/
def Dev.stampCal (d : Dev) (mac : Nat) : Int × Int × Int :=
  let a := Reg.timePortCal mac
  ((d.fld a F.timePortCal_rxPs : Nat), (d.fld a F.timePortCal_txPs : Nat), signed 32 (d.reg (Reg.timePortAsym mac)).toNat)

/-- The offset in ps of a Sync whose arrival less origin is `ps`: less the receive latency, the path delay and the asymmetry (R403).
PRESUMED: IEEE 1588 (notes/assumptions/47.md). -/
def Dev.syncOffset (d : Dev) (i : Nat) (ps : Int) : Int :=
  let c := d.stampCal (d.sideMac i)
  ps - c.1 - c.2.2 - (d.side i).pathDelay

/-- The mean path delay in ps of a delay response whose two ways take `ps` together. -/
def Dev.meanDelay (d : Dev) (i : Nat) (ps : Int) : Int :=
  let c := d.stampCal (d.sideMac i)
  (ps - c.1 - c.2.1) / 2

/-- A side has measured its path delay (R385, R403). -/
def Dev.delayMeasured (d : Dev) (i : Nat) (ps : Int) : Dev :=
  let v := d.meanDelay i ps
  let d := d.onSide i fun s => { s with delay := true, pathDelay := v }
  if i = d.activeSide then d.setReg Reg.timePathDelay (satNs (v / 1000)) else d

/-- UTC of the locked grandmaster's Announce (R404). -/
def Dev.takeUtc (d : Dev) (a : Announce) : Dev :=
  match a.utcOffset with
  | none => d
  | some u =>
    if a.gm ≠ d.gmLocked then d
    else if a.leap then d.onTim fun t => { t with utcNext := some u }
    else d.onTim fun t => { t with utc := some u, utcNext := none }

/-- An Announce on a side (R385, R401): it may change the best master, and is heard from the best one alone. -/
def Dev.announceIn (d : Dev) (i source : Nat) (a : Announce) : Dev :=
  let now := d.now
  let d := d.onSide i fun s => (s.hear now source a).choose now
  if (d.side i).best ≠ some source then d
  else
    let d := d.onSide i fun s => { s with announce := true }
    let d := if d.gmLocked = 0 ∧ i = d.activeSide then d.setGmLocked a.gm else d
    d.takeUtc a

/-- What a PTP message does on a side in use (R385, R401, R402). -/
def Dev.ptpIn (d : Dev) (i : Nat) (m : PtpMessage) : Dev :=
  let peer := d.flag Reg.timeCtl F.timeCtl_mech
  let best := decide ((d.side i).best = some m.source)
  match m.body with
  | .announce a => d.announceIn i m.source a
  | .sync ps =>
    if !best then d
    else
      let offset := d.syncOffset i ps
      let d := d.onSide i fun s => { s with sync := true, offset := offset, vlan := m.vlan }
      if i = d.activeSide ∧ (d.side i).gm = d.gmLocked then d.measure offset else d
  | .delayResp ps => if peer || !best then d else d.delayMeasured i ps
  | .pdelayResp ps => if peer then d.delayMeasured i ps else d
  | .delayReq => d
  | .pdelayReq =>
    let mac := d.sideMac i
    let d := d.sendControl mac (d.ptpBytes 54)
    if d.flag Reg.timeCtl F.timeCtl_stepMode then d.sendControl mac (d.ptpBytes 54) else d
  | .management => d
  | .signalling => d

/-- PTP_MESSAGE_RECEIVE (R401). Messages on other instances are discarded and counted in RX_DROP (R402), those of another domain are not
taken. -/
def execPtpMessageReceive (mac : Nat) (msg : PtpMessage) (ns : Nat) (s : State) : Host.Outcome State Fault Refusal :=
  s.lift fun d =>
    let d := d.atNs ns
    match [0, 1].find? fun i => d.sideMac i = mac ∧ d.sideUsed i = true with
    | none => if mac < 64 ∧ d.linkUp mac = true then d.macCount mac 3 1 else d
    | some i =>
      if !d.ptpRuns || !d.linkUp mac || decide (msg.domain ≠ d.fld Reg.timeCtl F.timeCtl_domain) then d else (d.ptpIn i msg).showPtp

/-- PTP_DELAY_REQ_SEND (R401): a Delay_Req or Pdelay_Req of a side, with the VLAN tag of its last Sync. -/
def execPtpDelayReqSend (side : Nat) (s : State) : Host.Outcome State Fault Refusal :=
  s.lift fun d =>
    if side < 2 ∧ d.ptpRuns = true ∧ d.sideUsed side = true ∧ d.linkUp (d.sideMac side) = true then
      d.sendControl (d.sideMac side) (d.ptpBytes (if d.flag Reg.timeCtl F.timeCtl_mech then 54 else 44) + 4 * bit (d.side side).vlan.isSome)
    else d

/-- SIDE_HEALTH_TIMEOUT (R385): a side misses Announce of its best master (0), which it then drops, Sync (1) or a delay
measurement (2). -/
def execSideHealthTimeout (side cause : Nat) (s : State) : Host.Outcome State Fault Refusal :=
  s.lift fun d =>
    (d.onSide (side % 2) fun x =>
      match cause with
      | 0 => { { x with masters := x.masters.filter fun f => x.best ≠ some f.source }.choose d.now with announce := false }
      | 1 => { x with sync := false }
      | _ => { x with delay := false }).showPtp

/-- PATH_DOWN or PATH_RESTORED with a cause of R390 on a MAC instance. -/
def Dev.pathNotice (d : Dev) (down : Bool) (cause mac health count : Nat) : Dev :=
  d.postEvent 0 (if down then .pathDown else .pathRestored) 0 [pack [(cause, 24), (mac, 0)], health, count, 0]

/-- HEALTH of a MAC instance. -/
def Dev.health (d : Dev) (m : Nat) : Nat := d.fld (Reg.pathPortHealth m) F.pathPortHealth_health

/-- The servo takes its input from the other side. -/
def Dev.switchSide (d : Dev) (i : Nat) : Dev :=
  let d := d.setFld Reg.pathPtpStatus F.pathPtpStatus_onB i
  d.setReg Reg.timePathDelay (satNs ((d.side i).pathDelay / 1000))

/-- PTP_FAILOVER (R385): the active side is not healthy, and the standby is and sees the same grandmaster. -/
def execPtpFailover (s : State) : Host.Outcome State Fault Refusal :=
  s.lift fun d =>
    let a := d.activeSide
    if d.ptpRuns = true ∧ d.healthy a = false ∧ d.healthy (1 - a) = true ∧ (d.side (1 - a)).gm = d.gmLocked then
      let d := (d.switchSide (1 - a)).pathEvent (d.sideMac a) .failOver
      (d.pathNotice true 7 (d.sideMac a) (d.health (d.sideMac a)) 0).showPtp
    else d

/-- Whether 10 s have passed since the last change of grandmaster (R387). -/
def Dev.gmSettled (d : Dev) : Bool :=
  match d.pth.lastGm with
  | some s => decide (s + 80000 ≤ d.now)
  | none => true

/-- A change of grandmaster (R387). -/
def Dev.changeGm (d : Dev) (gm : Nat) : Dev := (d.setGmLocked gm).onPth fun p => { p with lastGm := some d.now }

/-- PTP_REVERT (R386): WTR_S has passed with the PREFER side healthy; a change of grandmaster keeps 10 s from the last one
(R387). -/
def execPtpRevert (s : State) : Host.Outcome State Fault Refusal :=
  s.lift fun d =>
    let p := d.prefer
    match d.pth.wait with
    | none => d
    | some w =>
      let gm := (d.side p).gm
      if d.ptpRuns = true ∧ w + 8000 * d.wtr ≤ d.now ∧ d.healthy p = true ∧ (gm = d.gmLocked ∨ d.gmSettled = true) then
        let d := d.switchSide p
        let d := if gm = d.gmLocked then d else d.changeGm gm
        ((d.pathEvent (d.sideMac p) .ptpRevert).pathNotice false 8 (d.sideMac p) (d.health (d.sideMac p)) 0).showPtp
      else d

/-- PARTITION to CREW_0 (R387): cause 1 ENTER, 2 LEAVE, 3 GM_CHANGE. -/
def Dev.partitionNotice (d : Dev) (cause : Nat) : Dev :=
  let other := (d.reg Reg.pathGmOtherLo).toNat
  d.postEvent 0 .partition 0
    [pack [(cause, 0), (d.activeSide, 8)], (d.reg Reg.pathGmLockedLo).toNat, (d.reg Reg.pathGmLockedHi).toNat, other]

/-- The side that does not see the locked grandmaster. -/
def Dev.otherGm (d : Dev) : Nat := if (d.side 0).gm = d.gmLocked then (d.side 1).gm else (d.side 0).gm

/-- PARTITION_ENTER (R387): both sides have been healthy for 3 announce intervals with different grandmasters. -/
def execPartitionEnter (s : State) : Host.Outcome State Fault Refusal :=
  s.lift fun d =>
    if d.ptpRuns = true ∧ d.partitioned = false ∧ d.healthy 0 = true ∧ d.healthy 1 = true ∧ (d.side 0).gm ≠ (d.side 1).gm then
      ((d.setFld Reg.pathPtpStatus F.pathPtpStatus_partition 1).setGmOther d.otherGm).partitionNotice 1
    else d

/-- PARTITION_LEAVE (R387): both sides have seen one grandmaster for 3 announce intervals. -/
def execPartitionLeave (s : State) : Host.Outcome State Fault Refusal :=
  s.lift fun d =>
    if d.partitioned = true ∧ (d.side 0).gm = (d.side 1).gm then
      ((d.setFld Reg.pathPtpStatus F.pathPtpStatus_partition 0).setGmOther 0).partitionNotice 2
    else d

/-- GM_CHANGE (R387): no side has seen the locked grandmaster for 3 announce intervals; the device locks to the other side's,
no less than 10 s after the last change. -/
def execGmChange (s : State) : Host.Outcome State Fault Refusal :=
  s.lift fun d =>
    let lost := [0, 1].all fun i => !(d.healthy i && (d.side i).gm == d.gmLocked)
    match [1 - d.activeSide, d.activeSide].find? fun i => d.healthy i with
    | none => d
    | some i =>
      if d.ptpRuns = true ∧ lost = true ∧ d.gmSettled = true then
        let d := (d.switchSide i).changeGm (d.side i).gm
        (d.partitionNotice 3).showPtp
      else d

/-- SYNC_HOLDOVER (R399): from LOCKED, when under PTP neither side is healthy or the locked grandmaster was lost within 10 s of
the previous change, and under PPS_IN when two expected pulses are missing. -/
def execSyncHoldover (s : State) : Host.Outcome State Fault Refusal :=
  s.lift fun d =>
    let ptp := d.fld Reg.timeCtl F.timeCtl_source = 0 &&
      ((!d.healthy 0 && !d.healthy 1) ||
        (!d.gmSettled && [0, 1].all fun i => !(d.healthy i && (d.side i).gm == d.gmLocked)))
    let pps := d.fld Reg.timeCtl F.timeCtl_source = 1 && (match d.tim.pulse with
      | some p => decide (p + 16000 ≤ d.now)
      | none => true)
    if d.sync = 1 && (ptp || pps) && !d.replay then d.holdover else d

/-- At a Stroke boundary, HOLDOVER ends when a side that sees the locked grandmaster is healthy or a pulse has come (R399). -/
def Dev.syncBoundary (d : Dev) : Dev :=
  if d.sync ≠ 2 || d.replay then d
  else
    let back := match d.fld Reg.timeCtl F.timeCtl_source with
      | 0 => [0, 1].any fun i => d.healthy i && ((d.side i).gm == d.gmLocked || d.gmSettled)
      | 1 => (match d.tim.pulse with
        | some p => decide (d.now < p + 8001)
        | none => false)
      | _ => false
    if back then d.setSync .locked else d

/-! ## Ingress merge (R378–R381, R388) -/

/-- What an unlisted merge reads as. -/
def noMerge (_ : Nat) : Option MergeDyn := Option.none

/-- The merge of a flow. -/
def Dev.merge (d : Dev) (f : Nat) : MergeDyn := (Tab.get noMerge d.pth.merges f).getD ⟨0, [], 0, 0, 0, 0, 0⟩

/-- Whether the merge of a flow has delivered a key. -/
def Dev.merging (d : Dev) (f : Nat) : Bool := (Tab.get noMerge d.pth.merges f).isSome

/-- Sets the merge of a flow. -/
def Dev.setMerge (d : Dev) (f : Nat) (x : MergeDyn) : Dev :=
  d.onPth fun p => { p with merges := Tab.put noMerge p.merges f (some x) }

/-- WINDOW of a flow in ns; 0 is 1 ms (R380). -/
def Dev.window (d : Dev) (f : Nat) : Nat :=
  let w := d.fld (Reg.pathFlowCfg f) F.pathFlowCfg_window
  (if w = 0 then 100 else w) * 10000

/-- A key of `bits` bits unwrapped to the value nearest the highest key delivered (R378). -/
def unwrapKey (bits high key : Nat) : Nat :=
  let m := 2 ^ bits
  let base := high - high % m + key % m
  if high + m / 2 < base ∧ m ≤ base then base - m else if base + m / 2 < high then base + m else base

/-- What the merge does with a candidate. -/
inductive MergeOutcome where
  | deliver
  | discard
  deriving DecidableEq, Repr

/-- Changes what a pair of ports has gathered. -/
def Dev.onPair (d : Dev) (i : Nat) (f : PairAcc → PairAcc) : Dev :=
  d.onPth fun p => { p with pairs := Tab.upd (fun _ => {}) p.pairs i f }

/-- The merge of a candidate of a flow from a MAC instance at a local time (R379, R388); `crc` is the CRC-32C of its RTP
payload. Keys that no candidate can name any more, its key being unwrapped to the nearest, are forgotten. -/
def Dev.mergeCandidate (d : Dev) (f bits key mac crc t : Nat) : Dev × MergeOutcome :=
  let path := mac / 32
  let single := d.fld (Reg.pathFlowCfg f) F.pathFlowCfg_single
  if single = 2 - path then (d, .discard)
  else
    let x := d.merge f
    let w := d.window f
    let k := if d.merging f then unwrapKey bits x.high key else key + 2 ^ bits
    let pair := mac / 4 % 8
    match x.keys.find? fun e => e.key = k with
    | none =>
      if x.keys.any fun e => e.path ≠ 2 && decide (k < e.key ∧ e.at_ + w < t) then (d.setMerge f { x with late := x.late + 1 }, .discard)
      else
        let keys := ⟨k, t, path, crc, false⟩ :: x.keys.filter fun e => decide (max x.high k < e.key + 2 ^ bits)
        let x := { x with high := max x.high k, keys := keys
                          onlyA := x.onlyA + bit (path = 0), onlyB := x.onlyB + bit (path = 1) }
        let d := (d.setMerge f x).onPair pair fun a =>
          { a with onlyA := a.onlyA + bit (path = 0), onlyB := a.onlyB + bit (path = 1) }
        (d.onPth fun p => { p with delivered := Tab.upd zero p.delivered mac (· + 1) }, .deliver)
    | some e =>
      if e.path = 2 ∨ e.at_ + w < t then (d.setMerge f { x with late := x.late + 1 }, .discard)
      else if e.paired ∨ e.path = path ∨ single ≠ 0 then (d, .discard)
      else
        let x := { x with both := x.both + 1, onlyA := x.onlyA - bit (e.path = 0), onlyB := x.onlyB - bit (e.path = 1)
                          keys := x.keys.map fun y => if y.key = k then { y with paired := true } else y }
        let ab : Int := ((t - e.at_) / 10000 : Nat)
        let skew := if path = 1 then ab else -ab
        let d := (d.setMerge f x).onPair pair fun a =>
          { a with both := a.both + 1, onlyA := a.onlyA - bit (e.path = 0), onlyB := a.onlyB - bit (e.path = 1)
                   skew := some (match a.skew with
                     | some (lo, hi) => (min lo skew, max hi skew)
                     | none => (skew, skew)) }
        if crc = e.crc then (d, .discard)
        else
          let d := d.onPth fun p => { p with mismatch := Tab.upd zero p.mismatch mac (· + 1) }
          ((d.record (d.owner 4 f) 0x0A 0 f [f, k % 2 ^ 32, e.path]).pathEvent mac .mismatch, .discard)

/-- MERGE_KEY_LOST (R379): a key no candidate of which has come while a higher one was first delivered more than WINDOW ago, by the end
of this Stroke. -/
def execMergeKeyLost (flow key : Nat) (s : State) : Host.Outcome State Fault Refusal :=
  s.lift fun d =>
    let x := d.merge flow
    if (x.keys.any fun e => e.path ≠ 2 && decide (key < e.key ∧ e.at_ + d.window flow < (d.now + 1) * 125000)) &&
        !x.keys.any fun e => e.key = key then
      d.setMerge flow { x with lost := x.lost + 1, keys := ⟨key, 0, 2, 0, false⟩ :: x.keys }
    else d

/-! ## Health (R389, R390) -/

/-- The smallest WINDOW, in units of 10 µs, of the flows that classifier entries of a pair name. -/
def Dev.pairWindow (d : Dev) (pair : Nat) : Nat :=
  d.regs.foldl (fun m p =>
    if 0xA10000 ≤ p.1 ∧ p.1 < 0xA30000 ∧ (p.1 - 0xA10000) % 0x20 = 0x10 ∧ F.egsClsKey_valid.get p.2 = 1 ∧
        F.egsClsKey_pair.get p.2 = pair then
      min m (d.window (d.fld (p.1 + 4) F.egsClsFlow_flow) / 10000)
    else m) 15000

/-- The least margin of the lanes of a port since the last report (R389). -/
def Dev.minMargin (d : Dev) (m : Nat) : Nat := (d.portLanes m).foldl (fun v l => min v (Tab.get fullMargin d.lan.margins l)) 255

/-- The cause of R390 for a port in a report with the count or margin that decided it; 0 for none. -/
def Dev.healthCause (d : Dev) (x : HealthFacts) : Nat × Nat :=
  let m := x.mac
  let acc := Tab.get (fun _ => ({} : PairAcc)) d.pth.pairs (m / 4 % 8)
  let mism := Tab.get zero d.pth.mismatch m
  let total := acc.onlyA + acc.onlyB + acc.both
  let low := (d.portLanes m).any fun l => decide (d.minMargin m < d.fld (Reg.laneGuard l) F.laneGuard_marginMin)
  let silent := decide (16 * d.fld Reg.pathHealthCfg F.pathHealthCfg_silentMin ≤ total) &&
    Tab.get zero d.pth.delivered m == 0
  let skew := match acc.skew with
    | some (lo, hi) => max lo.natAbs hi.natAbs
    | none => 0
  if 0 < x.uncorrected then (2, x.uncorrected)
  else if d.fld Reg.pathHealthCfg F.pathHealthCfg_fecWarn < x.symbols then (2, x.symbols)
  else if low then (3, d.minMargin m)
  else if 0 < mism then (4, mism)
  else if silent then (5, total)
  else if d.fld Reg.pathHealthCfg F.pathHealthCfg_skewWarn < skew ∨ d.pairWindow (m / 4 % 8) < 2 * skew then (6, skew)
  else (0, 0)

/-- The report of one MAC instance (R389, R390). -/
def Dev.healthOne (d : Dev) (x : HealthFacts) : Dev :=
  let m := x.mac
  let r := Reg.pathPortHealth m
  let old := d.health m
  let c := d.healthCause x
  let clean := if c.1 = 0 then Tab.get zero d.pth.clean m + 1 else 0
  let new := if !d.linkUp m then 2 else if c.1 ≠ 0 then 1 else if old = 1 ∧ clean < 10 then 1 else 0
  let cause := if new = 2 then 1 else c.1
  let d := ((d.macCount m 6 x.corrected).macCount m 7 x.uncorrected).macCount m 8 x.symbols
  let d := (d.setFld (Reg.portMacStatus m) F.portMacStatus_hiBer (bit x.hiBer)).setFld (Reg.portMacStatus m)
    F.portMacStatus_remoteFault (bit x.remoteFault)
  let d := (d.portLanes m).foldl (fun d l => d.setFld (Reg.laneStatus l) F.laneStatus_hiBer (bit x.hiBer)) d
  let d := ((d.setFld r F.pathPortHealth_health new).setFld r F.pathPortHealth_cause cause).setFld r
    F.pathPortHealth_minMargin (d.minMargin m)
  let d := d.setFld r F.pathPortHealth_mismatch (min 0xFFFF (Tab.get zero d.pth.mismatch m))
  let d := (d.setFld (Reg.pathPortFec m) F.pathPortFec_corrected (min 0xFFFFFF x.symbols)).setFld (Reg.pathPortFec m)
    F.pathPortFec_uncorrected (min 255 x.uncorrected)
  let d := d.onPth fun p => { p with clean := Tab.put zero p.clean m (min 10 clean) }
  if new = old then d
  else if new = 0 then d.pathNotice false 0 m new 0
  else d.pathNotice true cause m new (if new = 2 then 0 else c.2)

/-- The skew and packet counts of a pair in the report (R389). -/
def Dev.pairReport (d : Dev) (i : Nat) : Dev :=
  let a := Tab.get (fun _ => ({} : PairAcc)) d.pth.pairs i
  let s := a.skew.getD (0, 0)
  let cl (v : Int) : Nat := unsigned 16 (max (-32768) (min 32767 v))
  let d := d.setReg (Reg.pathPairSkew i) (BitVec.ofNat 32 (pack [(cl s.1, 16), (cl s.2, 0)]))
  ((d.setReg (Reg.pathPairOnlyA i) (BitVec.ofNat 32 (min 0xFFFFFFFF a.onlyA))).setReg (Reg.pathPairOnlyB i)
    (BitVec.ofNat 32 (min 0xFFFFFFFF a.onlyB))).setReg (Reg.pathPairBoth i) (BitVec.ofNat 32 (min 0xFFFFFFFF a.both))

/-- The counts of a flow's merge in the report. -/
def Dev.flowReport (d : Dev) (f : Nat) (x : MergeDyn) : Dev :=
  let s (n : Nat) : Nat := min 0xFFFF n
  let d := d.setReg (Reg.pathFlowBoth f) (BitVec.ofNat 32 (min 0xFFFFFFFF x.both))
  let d := d.setReg (Reg.pathFlowSingle f) (BitVec.ofNat 32 (pack [(s x.onlyA, 16), (s x.onlyB, 0)]))
  let d := d.setReg (Reg.pathFlowLost f) (BitVec.ofNat 32 (pack [(s x.lost, 16), (s x.late, 0)]))
  d.setMerge f { x with both := 0, onlyA := 0, onlyB := 0, lost := 0, late := 0 }

/-- HEALTH_REPORT (R389): at a Stroke that is a multiple of 8,000, every enabled MAC instance. -/
def execHealthReport (facts : List HealthFacts) (s : State) : Host.Outcome State Fault Refusal :=
  s.lift fun d =>
    if d.now % 8000 ≠ 0 ∨ d.inReset 4 = true then d
    else
      let d := (facts.filter fun x => d.flag (Reg.portMacCtl x.mac) F.portMacCtl_enable).foldl Dev.healthOne d
      let d := (List.range 8).foldl Dev.pairReport d
      let d := d.pth.merges.foldl (fun d p => match p.2 with
        | some x => d.flowReport p.1 x
        | none => d) d
      let d := d.onPth fun p => { p with pairs := [], mismatch := [], delivered := [] }
      { d with lan := { d.lan with margins := [] } }

end Sys2Proof.Machine
end

