-- ==== Sys2Proof/Machine/Thermal.lean ====
section
/-! DEFINITION. Temperature and supplies (R498–R503, R511, R543): sensors, levels, throttle steps, rails and episodes, and
reads of the event log. -/

namespace Sys2Proof.Machine

/-- Changes THM beside its registers. -/
def Dev.onThm (d : Dev) (f : Thm → Thm) : Dev := { d with thm := f d.thm }

/-! ## Levels (R498, R499, R501) -/

/-- The effective threshold of level `l` (1 WARN, 2 THROTTLE, 3 CRITICAL, 4 SHUTDOWN) in units of 0.125 °C. -/
def Dev.threshold (d : Dev) (l : Nat) : Int :=
  8 * (match l with
    | 1 => d.fld Reg.thmLimits F.thmLimits_warn
    | 2 => d.fld Reg.thmLimits F.thmLimits_throttle
    | 3 => d.fld Reg.thmLimits F.thmLimits_critical
    | _ => d.fld Reg.thmLimits F.thmLimits_shutdown)

/-- A sensor's value, signed, in units of 0.125 °C. -/
def Dev.sensor (d : Dev) (n : Nat) : Int := signed 12 (d.fld (Reg.thmTs n) F.thmTs_temp)

/-- Whether a sensor is valid (R498). -/
def Dev.sensorValid (d : Dev) (n : Nat) : Bool := d.flag (Reg.thmTs n) F.thmTs_valid

/-- The temperature of source `n`: a sensor, or 64 + s for stack s. -/
def Dev.sourceTemp (d : Dev) (n : Nat) : Int :=
  if n < 64 then d.sensor n else 8 * d.fld (Reg.memStackStatus (n - 64)) F.memStackStatus_temp

/-- The sources that count towards Tmax. -/
def Dev.tempSources (d : Dev) : List Nat := (List.range 64).filter d.sensorValid ++ [64, 65, 66, 67]

/-- The hottest source, the lowest number first. -/
def Dev.hottest (d : Dev) : Nat :=
  d.tempSources.foldl (fun a n => if d.sourceTemp a < d.sourceTemp n then n else a) (d.tempSources.headD 64)

/-- One sensor's sample (R498): outside −55 to 150 °C it is invalid. -/
def Dev.sample (d : Dev) (n : Nat) (t : Option Int) : Dev :=
  let a := Reg.thmTs n
  match t with
  | none => d.setFld a F.thmTs_valid 0
  | some v =>
    let d := d.onThm fun x => { x with updated := Tab.put zero x.updated n d.now }
    if -440 ≤ v ∧ v ≤ 1200 then (d.setFld a F.thmTs_valid 1).setFld a F.thmTs_temp (unsigned 12 v)
    else d.setFld a F.thmTs_valid 0

/-- A sensor that has not updated for 8 Strokes is invalid. -/
def Dev.expire (d : Dev) (n : Nat) : Dev :=
  if Tab.get zero d.thm.updated n + 8 ≤ d.now then d.setFld (Reg.thmTs n) F.thmTs_valid 0 else d

/-- Tmax as THM_STATUS shows it. -/
def Dev.tmax (d : Dev) : Int := signed 12 (d.fld Reg.thmStatus F.thmStatus_tmax)

/-- Forms Tmax, the hottest source and the count of invalid sensors (R498). -/
def Dev.formTmax (d : Dev) : Dev :=
  let bad := ((List.range 64).filter fun n => !d.sensorValid n).length
  let h := d.hottest
  let t := if 16 < bad then d.threshold 3 else d.sourceTemp h
  let s := Reg.thmStatus
  ((d.setFld s F.thmStatus_badSensors bad).setFld s F.thmStatus_hot h).setFld s F.thmStatus_tmax (unsigned 12 t)

/-- ALERT_N is asserted while a rail is below WARN or the level is WARN or higher (R502). -/
def Dev.showAlert (d : Dev) : Dev :=
  let on := d.fld Reg.thmSupply F.thmSupply_belowWarn ≠ 0 || d.fld Reg.thmStatus F.thmStatus_level ≠ 0
  if on = d.thm.alert then d else (d.onThm fun x => { x with alert := on }).emit (.pin "ALERT_N" (!on))

/-- The event of a level. -/
def levelEvent : Nat → EventCode
  | 1 => .thermWarn | 2 => .thermThrottle | _ => .thermCritical

/-- A level is entered or left: its event to CREW_0 and a THERM record (R499, R501). DEDUCED: the record's payload is the event's
words (notes/assumptions/51.md). -/
def Dev.setLevel (d : Dev) (l : Nat) (which : Nat) (entering : Bool) : Dev :=
  let d := d.setFld Reg.thmStatus F.thmStatus_level l
  let d := if l < which ∧ which = 3 then d.onThm fun x => { x with resumes := d.now + 1 } else d
  let ws := [pack [(bit entering, 31), (d.fld Reg.thmStatus F.thmStatus_hot, 0)], unsigned 32 d.tmax,
    d.fld Reg.thmStatus F.thmStatus_step, 0]
  (d.postEvent 0 (levelEvent which) 0 ws).nvmLog .therm (d.tmax + 512).toNat ws

/-- The level follows Tmax one step up or down (R499). -/
def Dev.stepLevel (d : Dev) : Dev :=
  let l := d.fld Reg.thmStatus F.thmStatus_level
  if l < 3 ∧ d.threshold (l + 1) ≤ d.tmax then d.setLevel (l + 1) (l + 1) true
  else if 0 < l ∧ d.tmax < d.threshold l - 8 * (d.fld Reg.thmCfg F.thmCfg_hyst : Nat) then d.setLevel (l - 1) l false
  else d

/-- SENSOR_SAMPLE (R498, R499): the sensors listed are sampled, Tmax is formed and the level follows it. -/
def execSensorSample (temps : List (Nat × Option Int)) (s : State) : Host.Outcome State Fault Refusal :=
  s.lift fun d =>
    if d.inReset 0 then d
    else
      let d := (temps.filter fun p => p.1 < 64).foldl (fun d p => d.sample p.1 p.2) d
      let d := (List.range 64).foldl (fun d n => d.expire n) d
      d.formTmax.stepLevel.stepLevel.stepLevel.showAlert

/-! ## Throttle step (R500) -/

/-- The throttle step becomes `k`: it is the THM_STEP of every unit, which takes it at this boundary (R77, R500). -/
def Dev.setStep (d : Dev) (k : Nat) : Dev :=
  let d := (d.setFld Reg.thmStatus F.thmStatus_step k).onThm fun x => { x with changed := d.now }
  (List.range 40).foldl (fun d u =>
    let d := d.setFld (Reg.coxThrottle u) F.coxThrottle_thmStep k
    d.throttle u (d.nextStep u)) d

/-- THROTTLE_STEP_CHANGE (R500). Under REPLAY the steps of THM are ignored (R527). -/
def execThrottleStepChange (s : State) : Host.Outcome State Fault Refusal :=
  s.lift fun d =>
    let c := Reg.thmCfg
    let k := d.fld Reg.thmStatus F.thmStatus_step
    let since := d.now - d.thm.changed
    if d.replay then d
    else if d.threshold 2 ≤ d.tmax ∧ 8 * d.fld c F.thmCfg_upMs ≤ since ∧ k < d.fld c F.thmCfg_maxStep then d.setStep (k + 1)
    else if d.tmax < d.threshold 2 - 8 * (d.fld c F.thmCfg_hyst : Nat) ∧ 8 * d.fld c F.thmCfg_downMs ≤ since ∧ 0 < k then
      d.setStep (k - 1)
    else d

/-- A commit that lowers MAX_STEP below the step in force lowers the step (R500). -/
def Dev.capStep (d : Dev) : Dev :=
  let m := d.fld Reg.thmCfg F.thmCfg_maxStep
  if m < d.fld Reg.thmStatus F.thmStatus_step then d.setStep m else d

/-! ## Rails (R502, R503) -/

/-- Nominal voltage of a rail in mV (R502). -/
def railNominal (r : Nat) : Nat := [750, 800, 800, 900, 1200, 900, 1800, 1800, 1100, 400, 1800].getD r 0

/-- Shows a rail's level. -/
def Dev.showRail (d : Dev) (r mv : Nat) : Dev :=
  let a := Reg.thmRail r
  (d.setFld a F.thmRail_nowMv mv).setFld a F.thmRail_minMv (min mv (d.fld a F.thmRail_minMv))

/-- The lowest voltage seen on the rail that fell furthest below its nominal. -/
def worstRail (l : List (Nat × Nat)) : Nat :=
  (l.foldl (fun (a : Nat × Nat) p => if railNominal a.1 - a.2 < railNominal p.1 - p.2 then p else a) (l.headD (0, 0))).2

/-- SUPPLY_WARN to CREW_0 (R503). -/
def Dev.supplyWarn (d : Dev) (entering : Bool) (mask us mv : Nat) : Dev :=
  d.postEvent 0 .supplyWarn 0 [pack [(bit entering, 31), (mask, 0)], min us 0xFFFFFFFF, mv, 0]

/-- The SUPPLY record of an episode that has ended (R503): duration in µs, rail mask, lowest voltage. -/
def Dev.logSupply (d : Dev) (e : Nat × Nat × Nat) : Dev :=
  (d.onThm fun x => { x with last := none }).nvmLog .supply e.2.2 [e.1 % 2 ^ 32, e.2.1, e.2.2]

/-- Sector erases under way are aborted and their sectors marked dirty (R503, R509). -/
def Dev.abortErases (d : Dev) : Dev :=
  (d.onNvm fun n => { n with dirty := n.dirty ++ n.erasing.filter fun s => !n.dirty.contains s, erasing := [] }).showBusy

/-- RAIL_BELOW_WARN (R502, R503). -/
def execRailBelowWarn (rail mv : Nat) (s : State) : Host.Outcome State Fault Refusal :=
  s.lift fun d =>
    if 11 ≤ rail ∨ d.inReset 0 then d
    else
      let a := Reg.thmSupply
      let d := (d.showRail rail mv).setFld a F.thmSupply_belowWarn (d.fld a F.thmSupply_belowWarn ||| 2 ^ rail)
      match d.thm.episode with
      | some (t, mask, low) =>
        let old := ((low.find? fun p => p.1 = rail).map (·.2)).getD mv
        let low := (rail, min old mv) :: low.filter fun p => p.1 ≠ rail
        (d.onThm fun x => { x with episode := some (t, mask ||| 2 ^ rail, low) }).showAlert
      | none =>
        let d := match d.thm.last with
          | some e => d.logSupply e
          | none => d
        let d := (d.onThm fun x => { x with episode := some (d.nowNs, 2 ^ rail, [(rail, mv)]) }).setFld a F.thmSupply_hold 1
        ((d.addFld a F.thmSupply_episodes 1).abortErases.showAlert).supplyWarn true (2 ^ rail) 0 mv

/-- RAIL_RECOVER (R502, R503): the recovery of the last rail ends the episode. -/
def execRailRecover (rail mv : Nat) (s : State) : Host.Outcome State Fault Refusal :=
  s.lift fun d =>
    let a := Reg.thmSupply
    if 11 ≤ rail ∨ bitAt (d.fld a F.thmSupply_belowWarn) rail = false then d
    else
      let left := d.fld a F.thmSupply_belowWarn - 2 ^ rail
      let d := (d.setFld (Reg.thmRail rail) F.thmRail_nowMv mv).setFld a F.thmSupply_belowWarn left
      match d.thm.episode with
      | none => d.showAlert
      | some (t, mask, low) =>
        if left ≠ 0 then d.showAlert
        else
          let us := (d.nowNs - t) / 1000
          let mv := worstRail low
          let d := d.onThm fun x => { x with episode := none, last := some (us, mask, mv) }
          d.showAlert.supplyWarn false mask us mv

/-- NVM_HOLD_END (R503): 1 ms after the episode the hold ends; saves complete, the erases of dirty
sectors start, those of the key-wrap store among them (R464, R506), and the SUPPLY record joins those to be written. -/
def execNvmHoldEnd (s : State) : Host.Outcome State Fault Refusal :=
  s.lift fun d =>
    if d.nvmHeld = false ∨ d.thm.episode.isSome then d
    else
      let d := (d.setFld Reg.thmSupply F.thmSupply_hold 0).releaseSaves
      let d := d.eraseDirty
      match d.thm.last with
      | some e => d.logSupply e
      | none => d

/-! ## Log reads (R511) and SMBus (R543) -/

/-- LOG_READ (R511). -/
def execLogRead (crew ring : Nat) (s : State) : Host.Outcome State Fault Refusal :=
  s.onDue crew ring 0xF2 fun d x =>
    let l := d.logFrom (x.w 3) (x.w 4 % 4096)
    let next := match l.getLast? with
      | some p => p.1 + 1
      | none => x.w 3
    (d.emit (.hostWrite x.crew (x.addr 5) (l.flatMap fun p => p.2.words p.1 (ringAddr 32 48 p.1)))).finish x 0 [l.length, next]

/-- LOG_READ's own tests. -/
def thermalRules : List OpRule :=
  [{ opcode := 0xF2, masks := [(3, allBits), (4, 0xFFF), (5, allBits), (6, allBits)], kind := (· == .zero), house := true
     test := fun _ x => formatIf (decide (x.w 4 < 1 ∨ 3072 < x.w 4) || x.w 5 % 64 ≠ 0) }]

/-- SMBUS_BLOCK_READ (R543): four bytes of the register that the command names, least significant first; any other command
returns four zero bytes. Nothing answers before the release of AO. -/
def execSmbusBlockRead (command : Nat) (s : State) : Host.Outcome State Fault Refusal :=
  s.lift fun d =>
    if d.inReset 0 then d
    else
      let w := match command with
        | 0x00 => (d.reg Reg.deviceId).toNat
        | 0x01 => (d.reg Reg.thmStatus).toNat
        | 0x02 => (d.reg Reg.thmSupply).toNat
        | 0x03 => (d.reg Reg.rstStatus).toNat
        | 0x04 => (d.reg Reg.nvmStatus).toNat
        | _ => 0
      d.emit (.smbus (wordBytes w))

end Sys2Proof.Machine
end

