-- ==== Sys2Proof/Machine/Security.lean ====
section
/-! DEFINITION. Keys, enrolment, change orders, suspension and the audit log (R437–R473). -/

namespace Sys2Proof.Machine

/-- Changes the security block. -/
def Dev.onSec (d : Dev) (f : Sec → Sec) : Dev := { d with sec := f d.sec }

/-- SEC_STATUS.STATE: 0 SELF_TEST, 1 READY, 2 ERROR, 3 NO_CHARTER. -/
def Dev.secState (d : Dev) : Nat := d.fld Reg.secStatus F.secStatus_state

/-- SEC_STATUS.LIFECYCLE: 0 FACTORY, 1 DEPLOYED, 2 RETIRED. -/
def Dev.lifecycle (d : Dev) : Nat := d.fld Reg.secStatus F.secStatus_lifecycle

/-- SEC_DEV_UID as the 16 bytes of DEVICE_UID. -/
def Dev.uidBytes (d : Dev) : List Nat := (List.range 4).flatMap fun i => (wordBytes (d.reg (Reg.secDevUid i)).toNat).reverse

/-! ## The audit log (R467, R468, R470) -/

/-- KIND of audit entries (R467). -/
inductive AuditKind where
  | enrol | orderApplied | orderRefused | suspend | resume | crewReleased | selftestFail | zeroizePin | tamperPin | swZeroise
  | secReset
  deriving DecidableEq, Repr

/-- The number of a KIND. -/
def AuditKind.code : AuditKind → Nat
  | .enrol => 1 | .orderApplied => 2 | .orderRefused => 3 | .suspend => 4 | .resume => 5 | .crewReleased => 6
  | .selftestFail => 7 | .zeroizePin => 8 | .tamperPin => 9 | .swZeroise => 10 | .secReset => 11

/-- An entry joins the backlog; with 16 waiting it is counted as lost (R468). -/
def Dev.audit (d : Dev) (k : AuditKind) (data : List Nat) : Dev :=
  if 16 ≤ d.sec.backlog.length then
    (d.addFld Reg.secAuditStatus F.secAuditStatus_lost 1).onSec fun s => { s with lostSince := s.lostSince + 1 }
  else
    (d.onSec fun s => { s with backlog := s.backlog ++ [⟨k.code, d.now, data⟩] }).setFld Reg.secAuditStatus
      F.secAuditStatus_backlog (d.sec.backlog.length + 1)

/-- The first suspension that waits for its entry has it. -/
def markSuspend : List (Desc × Nat × Nat × Bool) → List (Desc × Nat × Nat × Bool)
  | [] => []
  | (x, c, l, w) :: r => if w then (x, c, l, w) :: markSuspend r else (x, c, l, true) :: r

/-- Words 0–11 of an audit entry (R467): its number, KIND, epoch and the entries lost before it, Stroke and data. -/
def auditHead (n epoch : Nat) (e : AuditEntry) (lost : Nat) : List Nat :=
  [n % 2 ^ 32, pack [(lost % 65536, 0), (epoch % 256, 16), (e.kind, 24)], e.stroke % 2 ^ 32, e.stroke / 2 ^ 32 % 2 ^ 32] ++
    (List.range 8).map fun i => e.data.getD i 0

/-- A number of 32-bit words, the lowest first. -/
def wordsOf (n v : Nat) : List Nat := (List.range n).map fun i => v / 2 ^ (32 * i) % 2 ^ 32

/-- The MAC that the next audit entry chains from: that of the entry before it in its epoch, 0 for entry 0 (R467). -/
def Dev.lastMac (d : Dev) : Nat :=
  match d.nvm.audit.head? with
  | some (_, epoch, _, _, mac) => if d.nvm.auditSeq = 0 ∨ epoch ≠ d.nvm.epoch then 0 else mac
  | none => 0

/-- Writes the oldest entry of the backlog, unless NVM writes are held or the next slot of the ring is not erased (R467, R468). In a worn region
it is refused and counted in LOST (R506). -/
def Dev.auditWrite (d : Dev) : Dev :=
  match d.sec.backlog with
  | [] => d
  | e :: rest =>
    let n := d.nvm.auditSeq
    if d.nvm.worn.contains 3 then
      ((d.onSec fun s => { s with backlog := rest }).setFld Reg.secAuditStatus F.secAuditStatus_backlog rest.length).addFld Reg.nvmLost
        F.nvmLost_lost 1
    else if d.nvmHeld || !d.slotErased (ringSlot 80 16 n) then d
    else
      let mac := Config.auditMac d.nvm.auditKey d.lastMac (auditHead n d.nvm.epoch e d.sec.lostSince)
      let d := d.onNvm fun x => { x with audit := (n, x.epoch, e, d.sec.lostSince, mac) :: x.audit.take 1023, auditSeq := n + 1 }
      let d := d.onSec fun s =>
        { s with backlog := rest, lostSince := 0
                 suspends := if e.kind = 4 ∨ e.kind = 5 then markSuspend s.suspends else s.suspends }
      let d := (d.setFld Reg.secAuditStatus F.secAuditStatus_backlog rest.length).setReg Reg.secAuditNext (BitVec.ofNat 32 (n + 1))
      (d.useSlot 80 16 n).showBusy

/-- AUDIT_ENTRY_WRITE (R468). -/
def execAuditEntryWrite (s : State) : Host.Outcome State Fault Refusal := s.lift Dev.auditWrite

/-- A key pair drawn from the DRBG, by its number, and its pairwise-consistency test, which passes (R460, R461). -/
def Dev.keyPair (d : Dev) : Nat × Dev :=
  let f := d.fresh
  let passed := d.fld Reg.secSelftest F.secSelftest_passed
  (f.1, (f.2.onSec fun s => { s with requests := s.requests + 1 }).setFld Reg.secSelftest F.secSelftest_passed (passed % 512 + 512))

/-- The 96 bytes of the public half of a key pair; a free value (R438, R470). -/
def publicOf (pair : Nat) : List Nat := (List.range 96).map fun i => Config.drbg (96 * pair + i) % 256

/-- The entries of the epoch in force of the numbers that AUDIT_READ names, oldest first (R470). -/
def Dev.auditWanted (d : Dev) (first count : Nat) : List (Nat × Nat × AuditEntry × Nat × Nat) :=
  (d.nvm.audit.filter fun e => e.2.1 = d.nvm.epoch && decide (first ≤ e.1 ∧ e.1 < first + count)).reverse

/-- The words of an export before its tag (R470). -/
def exportWords (pair : Nat) (nonce : List Nat) (first : Nat) (l : List (Nat × Nat × AuditEntry × Nat × Nat)) : List Nat :=
  ((List.range 24).map fun i => leNat (((publicOf pair).drop (4 * i)).take 4)) ++ nonce ++ [first, l.length, 0, 0] ++
    l.flatMap fun e => auditHead e.1 e.2.1 e.2.2.1 e.2.2.2.1 ++ wordsOf 4 e.2.2.2.2

/-- AUDIT_READ (R470): the entries from a SEQ on, exported with the nonce under a fresh key pair. -/
def execAuditRead (crew ring : Nat) (s : State) : Host.Outcome State Fault Refusal :=
  s.onDue crew ring 0x67 fun d x =>
    let l := d.auditWanted (x.w 3) (x.w 4 % 2048)
    let p := d.keyPair
    let words := exportWords p.1 [x.w 7, x.w 8, x.w 9, x.w 10] (x.w 3) l
    let tag := wordsOf 12 (Config.exportTag p.1 (Tab.get noList d.nvm.roles 2) d.uidBytes words)
    (p.2.emit (.hostWrite x.crew (x.addr 5) (words ++ tag))).finish x 0 [l.length, 176 + 64 * l.length]

/-! ## Keys (R454–R459, R464) -/

/-- An empty slot. -/
def noKey (_ : Nat) : Option KeySlot := Option.none

/-- A key slot. -/
def Dev.key (d : Dev) (k : Nat) : Option KeySlot := Tab.get noKey d.sec.keys k

/-- Loads or empties a key slot. -/
def Dev.setKey (d : Dev) (k : Nat) (x : Option KeySlot) : Dev := d.onSec fun s => { s with keys := Tab.put noKey s.keys k x }

/-- An absent SA. -/
def noSa (_ : Nat) : Option Sa := Option.none

/-- A key slot is zeroised, with its copies in both banks and in the side CAM, and what an import was to put there (R457). -/
def Dev.zeroKey (d : Dev) (k : Nat) : Dev :=
  let d := (d.setKey k none).onBank 1 fun b => { b with before := b.before.filter (· ≠ k), since := b.since.filter (· ≠ k) }
  { d with stk := { d.stk with deferred := d.stk.deferred.map fun x => if x.desc.object = 0x2000 + k then { x with key := none } else x } }

/-- Every key slot is zeroised, with all its copies (R457). -/
def Dev.zeroKeys (d : Dev) : Dev :=
  let d := (d.onSec fun s => { s with keys := [] }).onBank 1 fun b => { b with before := [], since := [] }
  { d with stk := { d.stk with deferred := d.stk.deferred.map fun x => { x with key := none } } }

/-- Every key slot and every SA is zeroised (R462, R464). -/
def Dev.zeroise (d : Dev) : Dev := d.zeroKeys.onSec fun s => { s with sas := [] }

/-- LOADED slots that a Crew owns (SEC_CREW_STATE.KEYS). -/
def Dev.keysOf (d : Dev) (c : Nat) : Nat := (d.sec.keys.filter fun p => d.owner 0x0A p.1 = c).length

/-- Whether an enabled queue, a classifier entry or an SA names a slot (R456). -/
def Dev.keyInUse (d : Dev) (k : Nat) : Bool :=
  (List.range 4096).any (fun q =>
    d.flag (Reg.egsEqCfg q) F.egsEqCfg_enable && d.flag (Reg.egsEqCfg q) F.egsEqCfg_srtp &&
      d.fld (Reg.egsEqKey q) F.egsEqKey_key == k) ||
  (List.range 4096).any (fun e =>
    d.flag (Reg.egsClsKey e) F.egsClsKey_valid && d.flag (Reg.egsClsSec e) F.egsClsSec_srtp &&
      d.fld (Reg.egsClsSec e) F.egsClsSec_key == k) ||
  d.sec.sas.any fun p => (p.2.map (·.slot)) == some k

/-- KEY_REFUSED with a sub-code. -/
def keyRefused (sub : Nat) : Option (Nat × List Nat) := some (0x30, [sub])

/-- Sub-code of a key import that the state of the block forbids (R456, R465). -/
def Dev.importBarred (d : Dev) : Option Nat :=
  let s := Reg.secStatus
  if d.lifecycle ≠ 1 then some 6
  else if d.secState ≠ 1 ∨ d.fld s F.secStatus_debug ≠ 0 ∨ d.flag s F.secStatus_tamperPin = true ∨
      d.flag s F.secStatus_zeroizePin = true ∨ d.flag s F.secStatus_tamper = true then some 7
  else none

/-- KEY_IMPORT's own tests at staging (R456). -/
def testKeyImport (_ : Dev) (x : Desc) : Option (Nat × List Nat) :=
  if x.w 3 % 4 = 2 ∧ x.crew ≠ 0 then some (0x12, [])
  else formatIf (x.w 3 % 4 = 0 || x.w 3 % 4 = 3 || x.w 4 % 64 ≠ 0)

/-- The slot of a key descriptor. -/
def Desc.keySlot (x : Desc) : Nat := x.object - 0x2000

/-- While the block is in ERROR key descriptors are refused (R462). -/
def testKeyState (d : Dev) (_ : Desc) : Option (Nat × List Nat) := if d.secState = 2 then keyRefused 7 else none

/-- KEY_QUERY (R457). -/
def execKeyQuery (crew ring : Nat) (s : State) : Host.Outcome State Fault Refusal :=
  s.onDue crew ring 0x62 fun d x =>
    match d.key x.keySlot with
    | none => d.finish x 0 [0, 0]
    | some k => d.finish x 0 [k.purpose + 4, k.kcv]

/-- MACSEC_SA's own tests (R459): OBJECT is a SAK slot. -/
def testMacsecSa (d : Dev) (x : Desc) : Option (Nat × List Nat) :=
  (testKeyState d x).orElse fun _ => formatIf (((d.key x.keySlot).map (·.purpose)) != some 2)

/-- The key of an SA: MAC instance, DIR, receive SC and AN of word 3 (R459). -/
def saKey (w : Nat) : Nat := 64 * (w % 64) + 32 * (w / 64 % 2) + 4 * (w / 128 % 8) + w / 1024 % 4

/-- MACSEC_SA (R459): a transmit SA replaces the previous one of the instance. -/
def execMacsecSa (crew ring : Nat) (s : State) : Host.Outcome State Fault Refusal :=
  s.onDue crew ring 0x63 fun d x =>
    let w := x.w 3
    let k := saKey w
    let xpn := d.flag (Reg.portMacsecCfg (w % 64)) F.portMacsecCfg_cipher
    let sa : Sa := ⟨x.keySlot, if xpn then x.addr 4 else x.w 4, x.addr 6⟩
    let d := if bitAt w 6 then d
      else d.onSec fun s => { s with sas := s.sas.filter fun p => !(p.1 / 64 = w % 64 && p.1 / 32 % 2 = 0) }
    (d.onSec fun s => { s with sas := Tab.put noSa s.sas k (if bitAt w 12 then some sa else none) }).finish x 0 []

/-- EAPOL_POST's own tests (R459). -/
def testEapolPost (d : Dev) (x : Desc) : Option (Nat × List Nat) := formatIf (x.buffersBad || d.posted 0x64 0)

/-- EAPOL_POST (R459). -/
def execEapolPost (crew ring : Nat) (s : State) : Host.Outcome State Fault Refusal :=
  s.onDue crew ring 0x64 fun d x => d.stand x []

/-- EAPOL_SEND (R459): the frame read from the host waits for the port; the descriptor completes once it is sent. -/
def execEapolSend (crew ring : Nat) (bytes : List Nat) (s : State) : Host.Outcome State Fault Refusal :=
  s.onDue crew ring 0x65 fun d x =>
    { d with egs := { d.egs with control := Tab.upd noList d.egs.control (x.w 6 % 64) (· ++ [(x.w 5, some x, bytes)]) } }

/-! ## Zeroisation, tamper, self-tests (R460–R464) -/

/-- SEC_ZEROISE.GO (R464). -/
def Dev.zeroiseWrite (d : Dev) (fn value : Nat) : Dev :=
  if !d.mayWrite fn Reg.secZeroise || !bitAt value 31 then d else d.zeroise.audit .swZeroise []

/-- SEC_ZEROISE_GO (R464). -/
def execSecZeroiseGo (fn value : Nat) (s : State) : Host.Outcome State Fault Refusal := s.lift fun d => d.zeroiseWrite fn value

/-- ZEROIZE_PIN_ASSERT (R464). -/
def execZeroizePinAssert (s : State) : Host.Outcome State Fault Refusal :=
  s.lift fun d => (d.setFld Reg.secStatus F.secStatus_zeroizePin 1).zeroise.audit .zeroizePin []

/-- Starts the erase of the key-wrap store, or marks it for the end of the hold (R464). -/
def Dev.eraseKeyWrap (d : Dev) : Dev :=
  (if d.nvmHeld then d.onNvm fun n => { n with dirty := n.dirty ++ keyWrapSectors.filter fun k => !n.dirty.contains k }
   else d.onNvm fun n => { n with erasing := n.erasing ++ keyWrapSectors.filter fun k => !n.erasing.contains k }).showBusy

/-- Whether the key-wrap store has been erased since TAMPER was set. -/
def Dev.keyWrapErased (d : Dev) : Bool := keyWrapSectors.all fun k => !d.nvm.erasing.contains k && !d.nvm.dirty.contains k

/-- TAMPER_PIN_ASSERT (R464). -/
def execTamperPinAssert (s : State) : Host.Outcome State Fault Refusal :=
  s.lift fun d =>
    let d := (d.setFld Reg.secStatus F.secStatus_tamperPin 1).setFld Reg.secStatus F.secStatus_tamper 1
    d.zeroise.eraseKeyWrap.audit .tamperPin []

/-- SECURITY_PIN_RELEASE (R464). -/
def execSecurityPinRelease (pin : SecPin) (s : State) : Host.Outcome State Fault Refusal :=
  s.lift fun d =>
    match pin with
    | .zeroize => d.setFld Reg.secStatus F.secStatus_zeroizePin 0
    | .tamper => d.setFld Reg.secStatus F.secStatus_tamperPin 0

/-- A self-test fails (R462): STATE ERROR, every key zeroised, SELFTEST_FAIL audited. -/
def Dev.selfTestFail (d : Dev) (test : Nat) : Dev :=
  let d := (d.setFld Reg.secStatus F.secStatus_state 2).setFld Reg.secSelftest F.secSelftest_failed test
  d.zeroise.audit .selftestFail [test]

/-- ENTROPY_TEST_FAIL (R460): test 8. -/
def execEntropyTestFail (s : State) : Host.Outcome State Fault Refusal :=
  s.lift fun d => if d.secReset then d else d.selfTestFail 8

/-- DRBG_RESEED (R460): the count of requests starts again. -/
def execDrbgReseed (s : State) : Host.Outcome State Fault Refusal :=
  s.lift fun d => if d.secReset then d else d.onSec fun s => { s with requests := 0 }

/-! ## Enrolment (R438) -/

/-- Bytes `i` to `i` + `n` − 1 as a little-endian number. -/
def leAt (l : List Nat) (i n : Nat) : Nat := leNat ((l.drop i).take n)

/-- The 96 bytes of 24 words x‖y, byte 4w in [31:24]. -/
def keyBytes (w : Nat → Nat) : List Nat := (List.range 24).flatMap fun i => (wordBytes (w i)).reverse

/-- The word of bytes 4w to 4w + 3 of a public key. -/
def keyWord (l : List Nat) (w : Nat) : Word := BitVec.ofNat 32 (beNat ((l.drop (4 * w)).take 4))

/-- Shows a role's public key. -/
def Dev.showRole (d : Dev) (role : Nat) (bytes : List Nat) : Dev :=
  (List.range 24).foldl (fun d w => d.setReg (Reg.secRolePub role w) (keyWord bytes w)) d

/-- Writes a role's public key to NVM. -/
def Dev.saveRole (d : Dev) (role : Nat) (bytes : List Nat) : Dev :=
  d.onNvm fun n => { n with roles := Tab.put noList n.roles role bytes }

/-- A role's public key is set. -/
def Dev.setRole (d : Dev) (role : Nat) (bytes : List Nat) : Dev := (d.saveRole role bytes).showRole role bytes

/-- A new import key pair and audit key are drawn from the DRBG (R438, R464); they are free values. -/
def Dev.newImportKey (d : Dev) : Dev :=
  let p := d.keyPair
  let f := p.2.fresh
  let d := f.2.onNvm fun n => { n with importPub := publicOf p.1, auditKey := Config.drbg (96 * f.1) }
  let d := d.onSec fun s => { s with requests := s.requests + 1 }
  (List.range 24).foldl (fun d w => d.setReg (Reg.secImportPub w) (keyWord (publicOf p.1) w)) d

/-- The role and key that a ROLE_KEY order sets (R445). -/
def Order.roleKey? (o : Order) : Option (Nat × List Nat) :=
  if o.kind = 4 then some (leAt o.body 0 4, (o.body.drop 4).take 96) else none

/-- ENROL_GO's effect (R438). -/
def Dev.enrolWrite (d : Dev) (fn value : Nat) : Dev :=
  let a := Reg.secEnrolCtl
  let role := value % 4
  let bytes := keyBytes fun w => Tab.get zero d.sec.enrolKey w
  if !d.mayWrite fn a then d
  else
    let d := d.setFld a F.secEnrolCtl_role role
    if !bitAt value 31 || d.lifecycle ≠ 0 || !d.flag Reg.secStatus F.secStatus_enrolPin || role = 3 ||
        bitAt (d.fld a F.secEnrolCtl_done) role then d
    else if !Config.onCurve bytes then d.setFld a F.secEnrolCtl_bad 1
    else
      let d := (d.setRole role bytes).setFld a F.secEnrolCtl_bad 0
      let d := d.setFld a F.secEnrolCtl_done (d.fld a F.secEnrolCtl_done + 2 ^ role)
      if d.fld a F.secEnrolCtl_done ≠ 7 then d
      else
        let d := { d.newImportKey with rst := { d.rst with lifecycle := 1 } }.setFld Reg.secStatus F.secStatus_lifecycle 1
        let d := (d.onSec fun s => { s with void := true }).audit .enrol []
        if d.secState = 1 then d.setFld Reg.secStatus F.secStatus_state 3 else d

/-- ENROL_GO (R438). -/
def execEnrolGo (fn value : Nat) (s : State) : Host.Outcome State Fault Refusal := s.lift fun d => d.enrolWrite fn value

/-! ## Change orders (R443–R448) -/

/-- An entry of a CHARTER order (R445). -/
inductive CharterEntry where
  | owner (cls crew first count : Nat)
  | region (r cfg : Nat) (masks : List Nat)
  | policy (crew word : Nat)
  deriving DecidableEq, Repr

/-- Instances of a class (R439). -/
def classSize (c : Nat) : Nat :=
  [0, 256, 64, 16, 4096, 4096, 256, 64, 1024, 4096, 4096, 32, 32, 8, 16, 143].getD c 0

/-- The entries of a CHARTER body; none when it is malformed (R445). -/
def charterEntries : (fuel : Nat) → List Nat → Option (List CharterEntry)
  | 0, l => if l.isEmpty then some [] else none
  | f + 1, l =>
    if l.isEmpty then some []
    else
      let cls := l.getD 0 0
      let crew := l.getD 1 0
      let first := leAt l 4 2
      let count := leAt l 6 2
      let next (n : Nat) (e : CharterEntry) : Option (List CharterEntry) :=
        if l.length < n then none else (charterEntries f (l.drop n)).map (e :: ·)
      if l.length < 8 ∨ leAt l 2 2 ≠ 0 then none
      else if cls = 0x10 then
        if 8 ≤ first ∨ count ≠ 1 ∨ leAt l 28 4 ≠ 0 then none
        else next 32 (.region first (leAt l 8 4) ((List.range 4).map fun i => leAt l (12 + 4 * i) 4))
      else if cls = 0x11 then
        if 17 ≤ first ∨ count ≠ 1 ∨ leAt l 12 4 ≠ 0 ∨ 3 ≤ leAt l 8 4 / 2 ^ 29 then none
        else next 16 (.policy first (leAt l 8 4))
      else if count = 0 ∨ classSize cls < first + count ∨
          !(decide (crew ≤ 16) || (crew = 0x1E && decide (0x0C ≤ cls ∧ cls ≤ 0x0E))) then none
      else next 8 (.owner cls crew first count)

/-- The (offset, value) pairs of an OPTIONS body; an all-zero entry is padding. DEDUCED (notes/assumptions/58.md). -/
def optionEntries (l : List Nat) : List (Nat × Nat) :=
  ((List.range (l.length / 4)).map fun i => (l.getD (4 * i) 0, l.getD (4 * i + 1) 0)).filter fun p => p ≠ (0, 0)

/-- Whether an OPTIONS order can change an option byte (R491, R495): FW_FLOOR has an order of its own. DEDUCED (notes/assumptions/58.md). -/
def optionFree (o : Nat) : Bool := decide (8 ≤ o ∧ o < 252 ∧ o ≠ 14 ∧ o ≠ 15)

/-- Whether bytes from `i` on are all 0: the padding of a body to a multiple of 8. DEDUCED (notes/assumptions/58.md). -/
def zerosFrom (l : List Nat) (i : Nat) : Bool := (l.drop i).all (· == 0)

/-- Whether the body of an order is well formed for its kind (R445). -/
def bodyOk (kind : Nat) (b : List Nat) : Bool :=
  match kind with
  | 1 => (charterEntries b.length b).isSome
  | 2 => (List.range (b.length / 4)).all fun i => leAt b (4 * i + 2) 2 = 0 && (leAt b (4 * i) 4 = 0 || optionFree (b.getD (4 * i) 0))
  | 3 => b.length = 8 && decide (b.getD 0 0 ≤ 2) && zerosFrom b 1
  | 4 => b.length = 104 && decide (leAt b 0 4 ≤ 2) && zerosFrom b 100
  | 5 => b.length = 8 && zerosFrom b 4
  | 6 => b.isEmpty
  | _ => false

/-- Whether the bytes of an order are well formed and TARGET is in reach (test 1 of R444). -/
def Dev.orderFormat (d : Dev) (size : Nat) (b : List Nat) : Bool :=
  let len := leAt b 4 4
  b.length = size && size = len + 192 && leAt b 0 2 = 1 && len % 8 = 0 && decide (64 ≤ len ∧ len ≤ 65536) &&
    leAt b 48 16 = 0 && decide (leAt b 40 8 ≤ d.now + 80000) && bodyOk (leAt b 2 2) ((b.take len).drop 64)

/-- The order in flight ends without effect. -/
def Dev.dropOrder (d : Dev) : Dev :=
  (d.onSec fun s => { s with order := none }).setFld Reg.secOrderStatus F.secOrderStatus_state 0

/-- The audit data of an order: SEQ, kind and sub-code, hash (R467). -/
def orderAudit (seq kind sub hash : Nat) : List Nat :=
  [seq % 2 ^ 32, seq / 2 ^ 32, pack [(kind, 16), (sub, 0)]] ++ (List.range 4).map fun i => hash / 2 ^ (32 * i) % 2 ^ 32

/-- An order is refused with KEY_REFUSED and a sub-code; refusals of tests 3–6 are audited (R444). -/
def Dev.refuseOrder (d : Dev) (x : Desc) (seq kind sub hash : Nat) (audited : Bool) : Dev :=
  let d := d.setFld Reg.secOrderStatus F.secOrderStatus_lastSub sub
  (if audited then d.audit .orderRefused (orderAudit seq kind sub hash) else d).finish x 0x30 [sub]

/-- CHANGE_ORDER's own tests (R448). -/
def testChangeOrder (_ : Dev) (x : Desc) : Option (Nat × List Nat) := formatIf (x.w 1 ≠ 0 || x.w 3 % 64 ≠ 0)

/-- CHANGE_ORDER (R444, R448): the order is read; tests 1–3; then it is verified. In recovery only kind OPTIONS is served (R494);
without a Charter only kind CHARTER (R442). -/
def execChangeOrder (crew ring : Nat) (bytes : List Nat) (s : State) : Host.Outcome State Fault Refusal :=
  s.onDue crew ring 0x66 fun d x =>
    let len := leAt bytes 4 4
    let kind := leAt bytes 2 2
    let seq := leAt bytes 8 8
    let hash := Config.orderHash (bytes.take len)
    let ready := d.secState = 1 || (d.secState = 3 && kind = 1)
    if !d.orderFormat (x.w 5) bytes || (d.flag Reg.rstStatus F.rstStatus_recovery && kind ≠ 2) then d.finish x 0x13 []
    else if !ready then d.refuseOrder x seq kind 7 hash false
    else if d.lifecycle ≠ 1 then d.refuseOrder x seq kind 6 hash false
    else if (bytes.drop 16).take 16 ≠ d.uidBytes then d.refuseOrder x seq kind 1 hash true
    else if d.sec.order.isSome then d.refuseAdmission x 0xD 0
    else
      (d.onSec fun s => { s with order := some ⟨x, ⟨kind, seq, (bytes.take len).drop 64⟩, 2, false, leAt bytes 40 8,
                                                leAt bytes 32 8, hash⟩ }).setFld Reg.secOrderStatus F.secOrderStatus_state 2

/-- SEC_CHARTER_SEQ. -/
def Dev.charterSeq (d : Dev) : Nat := (d.reg Reg.secCharterSeqLo).toNat + (d.reg Reg.secCharterSeqHi).toNat * 2 ^ 32

/-- The sub-code of tests 4–6 of R444 that an order fails, given what verification of its signatures finds. -/
def Dev.orderSub (d : Dev) (o : OrderDyn) (ownerOk umpireOk : Bool) : Option Nat :=
  if o.notAfter ≠ 0 ∧ o.notAfter < d.now then some 5
  else if !ownerOk then some 2
  else if !umpireOk then some 3
  else if o.order.seq ≤ d.charterSeq then some 4
  else none

/-- ORDER_VERIFIED (R444, R446): the order is refused, or joins the commit queue as a commit of CREW_0 with its TARGET. -/
def execOrderVerified (ownerOk umpireOk : Bool) (s : State) : Host.Outcome State Fault Refusal :=
  s.lift fun d =>
    match d.sec.order with
    | none => d
    | some o =>
      if o.stage ≠ 2 ∨ d.fwRuns = false then d
      else
        match d.orderSub o ownerOk umpireOk with
        | some sub => d.dropOrder.refuseOrder o.desc o.order.seq o.order.kind sub o.hash true
        | none =>
          let c : Commit := { fn := 0, target := o.target, writes := [], admitting := false, effect := 0, builds := [], order := some o.order, place := {} }
          let d := { d with stk := { d.stk with queue := d.stk.queue ++ [c] } }
          (d.onSec fun s => { s with order := some { o with stage := 3 } }).setFld Reg.secOrderStatus F.secOrderStatus_state 3

/-- The order in flight is refused by admission, or loses its target. -/
def Dev.orderRefused (d : Dev) (reason detail : Nat) : Dev :=
  match d.sec.order with
  | none => d
  | some o => d.dropOrder.refuseAdmission o.desc reason detail

/-- The order in flight is accepted: its pending records wait to be written (R447). -/
def Dev.orderAccepted (d : Dev) : Dev :=
  match d.sec.order with
  | none => d
  | some o =>
    (d.onSec fun s => { s with order := some { o with stage := 4 } }).setFld Reg.secOrderStatus F.secOrderStatus_state 4

/-- A policy word with its preset expanded (R473). -/
def expandPolicy (w : Nat) : Nat :=
  match w / 2 ^ 29 with
  | 1 => 0x30000000
  | 2 => 0x53000000
  | _ => w / 2 ^ 24 * 2 ^ 24

/-- One entry of a CHARTER order takes effect: reassigned key slots are zeroised, check units and counter banks cleared (R447,
R475, R517). -/
def Dev.applyEntry (d : Dev) : CharterEntry → Dev
  | .owner cls crew first count =>
    (List.range count).foldl (fun d i =>
      let n := first + i
      if d.owner cls n = crew then d
      else
        let d := match cls with
          | 0x0A => d.zeroKey n
          | 0x0B => d.chkClear n
          | 0x0F => d.pmuClearBank n
          | _ => d
        d.onSec fun s => { s with owner := Tab.put ownerDefault s.owner (cls * 65536 + n) crew }) d
  | .region r cfg masks =>
    (masks.zipIdx).foldl (fun d p => d.setReg (Reg.memRegionMask r p.2) (BitVec.ofNat 32 p.1))
      (d.setReg (Reg.memRegionCfg r) (BitVec.ofNat 32 (cfg / 16 * 16)))
  | .policy c w => d.setReg (Reg.secCrewPolicy c) (BitVec.ofNat 32 (expandPolicy w))

/-- Bytes whose region's Crew has changed, and is some Crew, are zero-filled with valid check bits (R419). -/
def zeroFill (old : Dev) (x : HbmDev) : HbmDev :=
  let moved (pc off : Nat) : Bool := x.2.regionCrew pc off ≠ 0x1F && x.2.regionCrew pc off ≠ old.regionCrew pc off
  (x.1.filter fun p => !moved (p.1 / 2 ^ 29) (p.1 % 2 ^ 29),
   { x.2 with hbm := { x.2.hbm with check := x.2.hbm.check.filter fun p => !moved (p.1 / 2 ^ 25) (p.1 % 2 ^ 25 * 16) } })

/-- The option bytes with some changed and a new GENERATION and CHECK, for copy `copy` (R491, R495). -/
def newOptions (old : List Nat) (copy : Nat) (edits : List (Nat × Nat)) : List Nat :=
  let gen := leAt old 4 4 + 1
  let b := (List.range 252).map fun i =>
    if 4 ≤ i ∧ i < 8 then gen / 256 ^ (i - 4) % 256
    else ((edits.reverse.find? fun e => e.1 = i).map (·.2)).getD (old.getD i 0)
  b ++ wordBytes (crc32cBytes (wordBytes (copy * 65536 + gen % 65536) ++ b))

/-- The copy in force of the option bytes, from RST_OB_STATUS: 0 A, 1 B, 2 the defaults. -/
def Dev.optionSource (d : Dev) : Nat := d.fld Reg.rstObStatus F.rstObStatus_source

/-- An OPTIONS order writes the other copy; in recovery both (R494, R495). -/
def Dev.applyOptions (d : Dev) (edits : List (Nat × Nat)) : Dev :=
  let d := d.setFld Reg.rstObStatus F.rstObStatus_busy 1
  let one (d : Dev) (c : Nat) : Dev := d.save (.options c (newOptions d.rst.inForce c edits))
  let d := match d.optionSource with
    | 0 => one d 1
    | 1 => one d 0
    | _ => one (one d 0) 1
  match (edits.reverse.find? fun e => e.1 = 12).map (·.2) with
  | some l => { d with rst := { d.rst with lifecycle := max d.rst.lifecycle (min 2 l) } }
  | none => d

/-- An accepted order takes effect (R447). -/
def applyOrder (o : Order) (x : HbmDev) : HbmDev :=
  let d := x.2
  let d := (d.setReg Reg.secCharterSeqLo (BitVec.ofNat 32 o.seq)).setReg Reg.secCharterSeqHi (BitVec.ofNat 32 (o.seq / 2 ^ 32))
  let d := d.addFld Reg.secOrderStatus F.secOrderStatus_applied 1
  let d := d.onSec fun s => { s with order := s.order.map fun y => { y with stage := 5 } }
  match o.kind with
  | 1 =>
    let d := if d.sec.void then (d.onSec fun s => { s with void := false, owner := [] }).setFld Reg.secStatus F.secStatus_state 1 else d
    zeroFill x.2 (x.1, ((charterEntries o.body.length o.body).getD []).foldl Dev.applyEntry d)
  | 2 => (x.1, d.applyOptions (optionEntries o.body))
  | 3 =>
    let l := o.body.getD 0 0
    (x.1, (if l = 0 then d else d.zeroKeys).setFld Reg.secStatus F.secStatus_debug l)
  | 4 => (x.1, d.showRole (leAt o.body 0 4) ((o.body.drop 4).take 96))
  | 5 =>
    let v := leAt o.body 0 4
    (x.1, { d with rst := { d.rst with fwFloor := max d.rst.fwFloor v } }.setFld Reg.secFw F.secFw_fwFloor v)
  | _ => (x.1, { d with rst := { d.rst with lifecycle := 2 } }.setFld Reg.secStatus F.secStatus_lifecycle 2)

/-- The registers that belong to the Charter: regions and policies. -/
def charterRegs : List Nat :=
  ((List.range 8).flatMap fun r => Reg.memRegionCfg r :: (List.range 4).map fun i => Reg.memRegionMask r i) ++
    (List.range 17).map fun c => Reg.secCrewPolicy c

/-- The Charter in force as a record set. -/
def Dev.charterNow (d : Dev) : Charter :=
  { owner := d.sec.owner, words := charterRegs.foldl (fun t a => Tab.put zero t a (d.reg a).toNat) [], seq := d.charterSeq }

/-- ORDER_MARKER_WRITTEN (R447): the marker stands, and with it the records of the Charter or of a role key, ORDER_APPLIED is audited and written, and the order completes. -/
def execOrderMarkerWritten (s : State) : Host.Outcome State Fault Refusal :=
  s.lift fun d =>
    match d.sec.order with
    | none => d
    | some o =>
      if o.stage ≠ 5 ∨ d.nvmHeld = true then d
      else
        let d := d.onNvm fun n => { n with charter := some d.charterNow }
        let d := match o.order.roleKey? with
          | some p => d.saveRole p.1 p.2
          | none => d
        let d := d.audit .orderApplied (orderAudit o.order.seq o.order.kind 0 o.hash)
        let d := (List.range 16).foldl (fun d _ => d.auditWrite) d
        d.dropOrder.finish o.desc 0 [o.order.seq % 2 ^ 32, o.order.seq / 2 ^ 32]

/-! ## Suspension (R449) -/

/-- CREW_SUSPEND's own tests. -/
def testCrewSuspend (_ : Dev) (x : Desc) : Option (Nat × List Nat) :=
  formatIf (decide (x.w 3 < 1 ∨ 16 < x.w 3) || x.w 4 % 4 = 3)

/-- CREW_SUSPEND (R449): its audit entry joins the backlog; while the backlog is full the descriptor waits. DEDUCED
(notes/assumptions/57.md). -/
def execCrewSuspend (crew ring : Nat) (s : State) : Host.Outcome State Fault Refusal :=
  s.lift fun d =>
    if 16 ≤ d.sec.backlog.length then d
    else
      match d.takeDue crew ring 0x68 with
      | none => d
      | some (x, d) =>
        let l := x.w 4 % 4
        (d.onSec fun s => { s with suspends := s.suspends ++ [(x, x.w 3, l, false)] }).audit
          (if l = 0 then .resume else .suspend) [pack [(x.w 3, 8), (l, 0)]]

/-- Suspensions whose entry is written take effect at a boundary (R449). -/
def Dev.suspendsBoundary (d : Dev) : Dev :=
  let ready := d.sec.suspends.filter fun p => p.2.2.2
  ready.foldl (fun d p =>
    ((d.setFld (Reg.secCrewState p.2.1) F.secCrewState_suspend p.2.2.1).showCrew p.2.1).finish p.1 0 [])
    (d.onSec fun s => { s with suspends := s.suspends.filter fun p => !p.2.2.2 })

/-! ## The release of SEC (R438, R442, R461, R464) -/

/-- The default Charter's region 0: every pseudo-channel, GRAIN 2 KiB, PC_BASE 0, PC_LEN 511, CREW_0 (R442). -/
def Dev.defaultRegions (d : Dev) : Dev :=
  let a := Reg.memRegionCfg 0
  let d := ((d.setFld a F.memRegionCfg_enable 1).setFld a F.memRegionCfg_grain 11).setFld a F.memRegionCfg_pcLen 511
  (List.range 4).foldl (fun d i => d.setReg (Reg.memRegionMask 0 i) 0xFFFFFFFF) d

/-- The Charter is loaded: the default in FACTORY, else the record in NVM; with none there is no Charter (R442). -/
def Dev.loadCharter (d : Dev) : Dev :=
  let d := charterRegs.foldl (fun d a => d.setReg a (regReset a)) (d.onSec fun s => { s with owner := [], void := false })
  if d.lifecycle = 0 then d.defaultRegions
  else
    match d.nvm.charter with
    | none => d.onSec fun s => { s with void := true }
    | some c =>
      let d := c.words.foldl (fun d p => d.setReg p.1 (BitVec.ofNat 32 p.2)) (d.onSec fun s => { s with owner := c.owner })
      (d.setReg Reg.secCharterSeqLo (BitVec.ofNat 32 c.seq)).setReg Reg.secCharterSeqHi (BitVec.ofNat 32 (c.seq / 2 ^ 32))

/-- SEC runs its start: TAMPER clears where its erase is done, the self-tests run, and the Charter is loaded. `failed` is the
first self-test that failed, 0 for none. -/
def Dev.secStart (d : Dev) (failed : Nat) : Dev :=
  let s := Reg.secStatus
  let d := d.zeroise.onSec fun x => { x with requests := 0 }
  let d := d.setFld Reg.secSelftest F.secSelftest_passed (if failed = 0 then 0x1FF else 2 ^ (failed - 1) - 1)
  let renew := failed == 0 && d.flag s F.secStatus_tamper && !d.flag s F.secStatus_tamperPin && d.keyWrapErased
  let d := if !renew then d
    else
      let d := (d.setFld s F.secStatus_tamper 0).onNvm fun n => { n with epoch := (n.epoch + 1) % 256, auditSeq := 0 }
      if d.lifecycle = 1 then d.newImportKey else d
  let d := (d.setFld s F.secStatus_auditEpoch d.nvm.epoch).setReg Reg.secAuditNext (BitVec.ofNat 32 d.nvm.auditSeq)
  let d := (List.range 24).foldl (fun d w => d.setReg (Reg.secImportPub w) (keyWord d.nvm.importPub w)) d
  let d := d.nvm.roles.foldl (fun d p => d.setRole p.1 p.2) d
  let d := d.setFld Reg.secEnrolCtl F.secEnrolCtl_done (sumBy (fun p => 2 ^ p.1) d.nvm.roles)
  let d := d.loadCharter
  if failed ≠ 0 then d.selfTestFail failed
  else (d.setFld Reg.secSelftest F.secSelftest_failed 0).setFld s F.secStatus_state (if d.sec.void then 3 else 1)

/-! ## Rules -/

/-- The opcodes of this file. -/
def securityRules : List OpRule :=
  let z (k : ObjKind) : Bool := k == .zero
  let key (k : ObjKind) : Bool := match k with
    | .key _ => true
    | _ => false
  [{ opcode := 0x60, masks := [(3, 3), (4, allBits), (5, allBits)], kind := key, house := false, test := testKeyImport },
   { opcode := 0x61, masks := [], kind := key, house := false, test := testKeyState },
   { opcode := 0x62, masks := [], kind := key, house := false, test := testKeyState },
   { opcode := 0x63, masks := [(3, 0x1FFF), (4, allBits), (5, allBits), (6, allBits), (7, allBits)], kind := key, house := true,
     test := testMacsecSa },
   { opcode := 0x64, masks := bufferMasks 0x10000, kind := z, house := true, test := testEapolPost },
   { opcode := 0x65, masks := [(3, allBits), (4, allBits), (5, allBits), (6, 0x3F)], kind := z, house := true,
     test := fun _ x => formatIf (decide (x.w 5 < 64 ∨ 1518 < x.w 5)) },
   { opcode := 0x66, masks := [(3, allBits), (4, allBits), (5, allBits)], kind := z, house := true, test := testChangeOrder }] ++
  [{ opcode := 0x67, masks := [(3, allBits), (4, 0x7FF), (5, allBits), (6, allBits), (7, allBits), (8, allBits), (9, allBits),
       (10, allBits)], kind := z, house := true,
     test := fun _ x => formatIf (decide (x.w 4 < 1 ∨ 1024 < x.w 4) || x.w 5 % 64 ≠ 0) },
   { opcode := 0x68, masks := [(3, 0x1F), (4, 3)], kind := z, house := true, test := testCrewSuspend }]

end Sys2Proof.Machine
end

