-- ==== Sys2Proof/Machine/Ingest.lean ====
section
/-! DEFINITION. Frames received (R348–R351, R355–R361): the MAC, MACsec, firmware's frames, the flow classifier, the policers and
SRTP, the path merge, and what the ingest block gives to channels, layers and streams (R142, R153, R232, R271, R303). -/

namespace Sys2Proof.Machine

/-- Changes EGS beside its registers. -/
def Dev.onEgs (d : Dev) (f : Egs → Egs) : Dev := { d with egs := f d.egs }

/-! ## Classification (R355, R356) -/

/-- The number that four address words hold: byte 0 is the most significant (R376's registers). -/
def Dev.addrAt (d : Dev) (w : Nat → Nat) : Nat :=
  sumBy (fun i => (d.reg (w i)).toNat * 2 ^ (32 * (3 - i))) [0, 1, 2, 3]

/-- An address as four address words hold it: IPv4 in word 0. -/
def addrWords (ver addr : Nat) : Nat := if ver = 0 then addr % 2 ^ 32 * 2 ^ 96 else addr

/-- The source table's entry that a frame's source address matches; an entry whose words 1–3 are 0 matches IPv4 sources only. -/
def Dev.sourceEntry (d : Dev) (ver src : Nat) : Option Nat :=
  ((List.range 255).map (· + 1)).find? fun j =>
    let a := d.addrAt (Reg.egsSrcIp j)
    a ≠ 0 && a == addrWords ver src && (ver == 0) == (a % 2 ^ 96 == 0)

/-- The VLAN of a key: untagged and priority-tagged frames give 0xFFF. -/
def vlanOf (f : EthFrame) : Nat :=
  match f.tag with
  | some (_, vid, _) => if vid % 4096 = 0 then 0xFFF else vid % 4096
  | none => 0xFFF

/-- The classifier entry that holds a key. -/
def Dev.classEntry (d : Dev) (pair vlan ver dst dport sel : Nat) : Option Nat :=
  d.regs.findSome? fun p =>
    let k := p.2
    let e := (p.1 - 0xA10000) / 0x20
    if 0xA10000 ≤ p.1 ∧ p.1 < 0xA30000 ∧ (p.1 - 0xA10000) % 0x20 = 0x10 ∧ F.egsClsKey_valid.get k = 1 ∧
        F.egsClsKey_pair.get k = pair ∧ F.egsClsKey_vlan.get k = vlan ∧ F.egsClsKey_ver.get k = ver ∧
        F.egsClsKey_srcSel.get k = sel ∧ d.fld (Reg.egsClsFlow e) F.egsClsFlow_udpDport = dport ∧
        d.addrAt (Reg.egsClsDip e) = addrWords ver dst then some e
    else none

/-- The lookup of a frame: its source entry first, then any source; the first hit wins (R356). -/
def Dev.classify (d : Dev) (mac : Nat) (f : EthFrame) (ver src dst dport : Nat) : Option Nat :=
  let find := d.classEntry (mac / 4 % 8) (vlanOf f) ver dst dport
  ((d.sourceEntry ver src).bind fun j => find j).or (find 0)

/-! ## Policing (R359) -/

/-- What an unlisted bucket reads as: full. -/
def fullBucket (_ : Nat) : Option Bucket := Option.none

/-- The level of a bucket at a local time in ns: it fills at `kbps` and is capped at `burst` bytes. -/
def levelOf (b : Option Bucket) (kbps burst t : Nat) : Int :=
  let cap : Int := ((burst * 8000000 : Nat) : Int)
  match b with
  | none => cap
  | some x => min cap (x.level + ((kbps * (t - x.at_) : Nat) : Int))

/-- The policer of an entry on the path of a MAC instance: whether a frame conforms; the bucket is debited where it does. -/
def Dev.police (d : Dev) (e mac bytes t : Nat) : Dev × Bool :=
  let kbps := d.fld (Reg.egsClsPol e) F.egsClsPol_kbps
  if kbps = 0 then (d, true)
  else
    let key := 2 * e + mac / 32
    let l := levelOf (Tab.get fullBucket d.egs.policers key) kbps (d.fld (Reg.egsClsSec e) F.egsClsSec_bytes) t
    let need : Int := ((bytes * 8000000 : Nat) : Int)
    let put (v : Int) : Dev := d.onEgs fun x => { x with policers := Tab.put fullBucket x.policers key (some ⟨v, t⟩) }
    if need ≤ l then (put (l - need), true) else (put l, false)

/-! ## Keys and MACsec (R351, R360, R462) -/

/-- Whether the key store can be used (R462, R463). -/
def Dev.keysReady (d : Dev) : Bool := !d.secReset && d.secState ≠ 2

/-- SRTP of a classifier entry: whether a frame is authentic and not replayed within 64 packets; the index is the sequence number
unwrapped to the value nearest the highest seen (R360). -/
def Dev.srtpIn (d : Dev) (e seq : Nat) (authOk : Bool) : Dev × Bool :=
  let key := d.fld (Reg.egsClsSec e) F.egsClsSec_key
  let seen := Tab.get noList d.egs.replay e
  let high := seen.foldl max 0
  let i := if seen.isEmpty then seq % 65536 + 65536 else unwrapKey 16 high seq
  if !d.keysReady || ((d.key key).map (·.purpose)) != some 1 || !authOk || seen.contains i || decide (i + 64 ≤ high) then (d, false)
  else (d.onEgs fun x =>
    { x with replay := Tab.put noList x.replay e (i :: (seen.filter fun j => decide (max high i < j + 64))) }, true)

/-- MACsec on a received frame (R351, R462): whether it is delivered. -/
def Dev.macsecIn (d : Dev) (mac : Nat) (f : EthFrame) : Dev × Bool :=
  let a := Reg.portMacsecCfg mac
  if !d.flag a F.portMacsecCfg_enable then (d, true)
  else if !d.keysReady then (d, false)
  else
    let mode := d.fld a F.portMacsecCfg_validate
    if 2 ≤ mode then (d, true)
    else
      let sa? := f.sectag.bind fun t =>
        ((List.range 8).findSome? fun sc =>
          let k := 64 * mac + 32 + 4 * sc + t.1 % 4
          match Tab.get noSa d.sec.sas k with
          | some sa => if sa.sci = t.2.1 then some (k, sa, t.2.2.1, t.2.2.2) else none
          | none => none)
      let good := match sa? with
        | none => false
        | some (_, sa, pn, ok) => ok && (!d.flag a F.portMacsecCfg_replayProtect ||
            decide (sa.pn ≤ pn + d.fld a F.portMacsecCfg_replayWin))
      if good then
        match sa? with
        | some (k, sa, pn, _) => (d.onSec fun s => { s with sas := Tab.put noSa s.sas k (some { sa with pn := max sa.pn (pn + 1) }) }, true)
        | none => (d, true)
      else (d.macCount mac 9 1, decide (mode = 1))

/-! ## What the ingest block gives on (R142, R153, R232, R271, R303) -/

/-- Adds picture rows that have arrived whole to what a flow holds. -/
def addRows (k lo hi : Nat) : List (Nat × Nat × Nat) → List (Nat × Nat × Nat)
  | [] => [(k, lo, hi)]
  | (f, a, b) :: r =>
    if f = k ∧ lo ≤ b + 1 ∧ a ≤ hi + 1 then addRows k (min a lo) (max b hi) r else (f, a, b) :: addRows k lo hi r

/-- Whether rows `lo` to `hi` of frame `k` have all arrived. -/
def haveRows (l : List (Nat × Nat × Nat)) (k lo hi : Nat) : Bool := l.any fun r => r.1 = k && decide (r.2.1 ≤ lo ∧ hi ≤ r.2.2)

/-- Rows of some size that became whole with an arrival: the numbers of the groups of `size` rows, of `height` rows in all. -/
def newGroups (old new : List (Nat × Nat × Nat)) (k size height : Nat) : List Nat :=
  (List.range (cdiv height (max 1 size))).filter fun b =>
    let hi := min ((b + 1) * size) height - 1
    haveRows new k (b * size) hi && !haveRows old k (b * size) hi

/-- The frame of a rate that an RTP timestamp names (R21). -/
def frameOfTs (num den t : Nat) : Nat := (2 * t * num + 90000 * den) / (2 * 90000 * den)

/-- The frame that a 90 kHz time names and the settings of an encode channel that hold for it, where those pass a test. -/
def EncDyn.frameAt (x : EncDyn) (t : Nat) (takes : EncCfg → Bool) : Option (Nat × EncCfg) :=
  x.cfgs.findSome? fun p =>
    let k := frameOfTs p.2.num p.2.den t
    if takes p.2 && (cfgFor x.cfgs k).map (·.1) == some p.1 then some (k, p.2) else none

/-- What a packet of an uncompressed flow gives to an encode channel that takes it for the frame (R142, R153): the frame's format, and the
tokens of bands that are whole; a frame of another format sends none. -/
def Dev.ingestEnc (d : Dev) (c flow t : Nat) (old : List (Nat × Nat × Nat)) (rows : Option (Nat × Nat)) (fmt : Option SrcFormat) : Dev :=
  match (d.enc? c).bind fun x => x.frameAt t fun g => g.srcType = 1 && g.srcIndex = flow with
  | none => d
  | some (k, g) =>
    let d := match fmt with
      | none => d
      | some f => if f = ⟨g.width, g.height, g.srcFmt, g.num, g.den⟩ then d.sourceGood c k else d.sourceBad c k
    match rows with
    | none => d
    | some (lo, hi) =>
      if ((d.enc? c).map fun x => x.foreign.contains k).getD true then d
      else (newGroups old (addRows k lo hi old) k g.ctu g.height).foldl (fun d b => d.bandTokens c k b true) d

/-- The encode channels in operation that take captions or time code from a flow, and what a packet of it gives them: the packet aligned with
a frame of theirs (R145, R146). -/
def Dev.ancIn (d : Dev) (flow t : Nat) (a : AncFacts) : Dev :=
  let takes (g : EncCfg) : Bool := F.encChSei_captionFlow.get g.sei = flow
  { d with enc := d.enc.map fun e => (e.1, e.2.map fun x =>
      match x.frameAt t takes with
      | none => x
      | some (k, _) =>
        let old := x.anc.find? fun y => y.k = k
        let cc := ((old.map (·.cc)).getD []) ++ a.cc
        { x with anc := (⟨k, cc, a.timecode.or (old.bind (·.timecode))⟩ :: x.anc.filter fun y => y.k ≠ k).take 64 }) }

/-- What it gives to a layer (R251, R271): its format, and its strips, recorded as they arrive. -/
def Dev.ingestLayer (d : Dev) (flow p l t : Nat) (old : List (Nat × Nat × Nat)) (rows : Option (Nat × Nat)) (fmt : Option SrcFormat) : Dev :=
  match d.prog? p with
  | none => d
  | some x =>
    let k := frameOfTs x.cfg.num x.cfg.den t
    let d := match fmt with
      | none => d
      | some f => d.layerFormat p l k f
    match rows, x.layer? l with
    | some (lo, hi), some y =>
      (newGroups old (addRows k lo hi old) k 32 y.size.2).foldl (fun d j =>
        (d.recordToken (d.flowCrew flow) 0 flow [(k % 2 ^ 32), j]).layerStrip p l k j) d
    | _, _ => d

/-- The live encode channels in operation that take an ingest flow. -/
def Dev.encsOf (d : Dev) (flow : Nat) : List Nat :=
  d.enc.filterMap fun e => match e.2 with
    | some x => if x.cfgs.any fun p => p.2.srcType = 1 && p.2.srcIndex = flow then some e.1 else none
    | none => none

/-- The layers, as (programme, layer), that take an ingest flow. -/
def Dev.layersOf (d : Dev) (flow : Nat) : List (Nat × Nat) :=
  d.cmp.progs.flatMap fun e => match e.2 with
    | some x => (x.cfg.layers.filter fun l => l.srcType = 1 && l.srcIndex = flow).map fun l => (e.1, l.layer)
    | none => []

/-- The decode channels that take an ingest flow. -/
def Dev.decsOf (d : Dev) (flow : Nat) : List Nat :=
  d.dec.filterMap fun e => match e.2 with
    | some x => if x.cfg.flowIn = flow then some e.1 else none
    | none => none

/-- The network input streams that take an ingest flow. -/
def Dev.audsOf (d : Dev) (flow : Nat) : List Nat :=
  (List.range 256).filter fun s =>
    d.flag (Reg.audNetiCfg s) F.audNetiCfg_enable && d.fld (Reg.audNetiCfg s) F.audNetiCfg_flow == flow

/-- The rate at which a flow's frames are numbered: that of a consumer. -/
def Dev.flowRate (d : Dev) (flow : Nat) : Option (Nat × Nat) :=
  match (d.encsOf flow).findSome? fun c => (d.enc? c).bind fun x => (x.cfgs.head?).map fun p => (p.2.num, p.2.den) with
  | some r => some r
  | none => (d.layersOf flow).findSome? fun l => (d.prog? l.1).map fun x => (x.cfg.num, x.cfg.den)

/-- A delivered packet of an ingest flow reaches every consumer of the flow. -/
def Dev.ingest (d : Dev) (flow ts seq ns : Nat) (marker : Bool) (m : Media) : Dev :=
  let t := near32 ((d.now * 125000 + ns) * 9 / 100000) ts
  let old := Tab.get noList d.egs.rows flow
  let rate := d.flowRate flow
  let d := (d.encsOf flow).foldl (fun d c => d.ingestEnc c flow t old m.rows m.format) d
  let d := (d.layersOf flow).foldl (fun d l => d.ingestLayer flow l.1 l.2 t old m.rows m.format) d
  let d := match m.unit with
    | some a => (d.decsOf flow).foldl (fun (d : Dev) c => d.auPacket c ts seq ns marker a) d
    | none => d
  let d := match m.anc with
    | some a => d.ancIn flow t a
    | none => d
  let d := (d.audsOf flow).foldl (fun d s => d.audioPacket s flow ts seq ns) d
  match m.rows, rate with
  | some (lo, hi), some (num, den) =>
    let k := frameOfTs num den t
    d.onEgs fun x => { x with rows := Tab.put noList x.rows flow ((addRows k lo hi old).filter fun r => decide (k ≤ r.1 + 2)) }
  | _, _ => d

/-! ## Reception -/

/-- Whether a MAC instance accepts a destination address (R348): its own, multicast and broadcast, or any under PROMISC. -/
def Dev.accepts (d : Dev) (mac da : Nat) : Bool :=
  let own := (d.reg (Reg.portMacAddrHi mac)).toNat % 65536 * 2 ^ 32 + (d.reg (Reg.portMacAddrLo mac)).toNat
  da / 2 ^ 40 % 2 = 1 || da == own || d.flag (Reg.portMacCtl mac) F.portMacCtl_promisc

/-- Takes a frame for firmware into the limit of 10,000 a second (R350); a frame above it, or while the controllers restart (R489),
is dropped and counted. -/
def Dev.forFirmware (d : Dev) (mac : Nat) : Dev × Bool :=
  let sec := d.now / 8000
  let f := Tab.get (fun _ => (0, 0)) d.lan.firmware mac
  let n := if f.1 = sec then f.2 else 0
  if 10000 ≤ n ∨ d.fwRuns = false then (d.macCount mac 3 1, false)
  else ({ d with lan := { d.lan with firmware := Tab.put (fun _ => (0, 0)) d.lan.firmware mac (sec, n + 1) } }, true)

/-- An EAPOL frame goes to the house (R351, R459). -/
def Dev.eapolIn (d : Dev) (mac bytes : Nat) (frame : List Nat) : Dev :=
  match d.standing? 0x64 0 with
  | none => d
  | some s => d.deliverUnit s bytes 0 (mac * 2 ^ 16) 0 0 0 0 (some (bytesToWords frame))

/-- The line rate of a MAC instance in ps a byte: 100, 25 or 10 Gbit/s (R326, R330). -/
def Dev.byteTime (d : Dev) (mac : Nat) : Nat :=
  if d.groupMode (mac / 4) = 0 then 80 else if d.flag (Reg.portMacCtl mac) F.portMacCtl_speed then 800 else 320

/-- A PAUSE frame (R349): discarded and counted, or with PAUSE_RX 1 it stops the transmitter for its quanta of 512 bit times. -/
def Dev.pauseIn (d : Dev) (mac quanta ns : Nat) : Dev :=
  if d.flag (Reg.portMacCtl mac) F.portMacCtl_pauseRx then
    d.onPth fun p => { p with paused := Tab.put zero p.paused mac (d.localNs ns + cdiv (quanta % 65536 * 64 * d.byteTime mac) 1000) }
  else d.macCount mac 3 1

/-- A classified frame is policed, decrypted and merged; a delivered one reaches its consumers (R359, R360, R378). -/
def Dev.flowIn (d : Dev) (mac e : Nat) (f : EthFrame) (seq ts payload ns : Nat) (marker authOk : Bool) (media : Media) : Dev :=
  let flow := d.fld (Reg.egsClsFlow e) F.egsClsFlow_flow
  let t := d.localNs ns
  let p := d.police e mac f.bytes t
  let st := Reg.egsPolStat0 flow
  let d := if p.2 then p.1
    else if mac < 32 then p.1.addFld st F.egsPolStat0_exceededA 1 else p.1.addFld st F.egsPolStat0_exceededB 1
  if !p.2 && !d.flag (Reg.egsClsPol e) F.egsClsPol_action then d
  else
    let q := if d.flag (Reg.egsClsSec e) F.egsClsSec_srtp then d.srtpIn e seq authOk else (d, true)
    if !q.2 then q.1.addFld (Reg.egsPolStat1 flow) F.egsPolStat1_authFail 1
    else
      let bits := if media.rows.isSome then 32 else 16
      let m := q.1.mergeCandidate flow bits seq mac payload t
      match m.2 with
      | .discard => m.1
      | .deliver => m.1.ingest flow ts seq ns marker media

/-- What becomes of a good frame by its contents (R348–R351, R355). -/
def Dev.frameIn (d : Dev) (mac : Nat) (f : EthFrame) (ns : Nat) : Dev :=
  match f.body with
  | .pause quanta => d.pauseIn mac quanta ns
  | .pfc => d
  | .eapol l =>
    let x := d.forFirmware mac
    if x.2 then x.1.eapolIn mac f.bytes l else x.1
  | body =>
    let m := d.macsecIn mac f
    if !m.2 then m.1
    else
      let d := m.1
      match body with
      | .control answers =>
        let x := d.forFirmware mac
        if x.2 then answers.foldl (fun d n => d.sendControl mac n) x.1 else x.1
      | .neighbour addr m =>
        let x := d.forFirmware mac
        if x.2 then x.1.onEgs fun e => { e with neighbours := (addr, m) :: e.neighbours.filter fun p => p.1 ≠ addr } else x.1
      | .ip ver src dst dport ext udpOk _ seq ts marker payload authOk media =>
        if ext || !udpOk then d.macCount mac 3 1
        else
          match d.classify mac f ver src dst dport with
          | none => d.addFld Reg.egsClsMiss F.egsClsMiss_misses 1
          | some e => d.flowIn mac e f seq ts payload ns marker authOk media
      | _ => d

/-- ETH_FRAME_RECEIVE (R348): a frame arrives at a MAC instance whose link is up. -/
def execEthFrameReceive (mac : Nat) (frame : EthFrame) (ns : Nat) (s : State) : Host.Outcome State Fault Refusal :=
  s.lift fun d =>
    if 64 ≤ mac ∨ d.inReset 4 = true ∨ d.linkUp mac = false then d
    else
      let d := d.atNs ns
      let max := d.fld (Reg.portMacCtl mac) F.portMacCtl_maxFrame + 4 * bit frame.tag.isSome
      if !frame.fcsOk then d.macCount mac 2 1
      else if frame.bytes < 64 ∨ max < frame.bytes then d.macCount mac 3 1
      else if !d.accepts mac frame.da then d
      else
        let d := (d.macCount mac 0 1).macCount mac 1 frame.bytes
        if (frame.tag.map (·.1)) == some 0x88A8 then d.macCount mac 3 1 else d.frameIn mac frame ns

end Sys2Proof.Machine
end

