-- ==== Sys2Proof/Machine/Egress.lean ====
section
/-! DEFINITION. Egress (R362–R375): what a queue's frames weigh, when live frames leave, their layout at each Stroke boundary,
launches, buckets, and time gates. Functions of settings take the registers as a reader `rd`, so that admission can ask them of
registers that are not yet in force. -/

namespace Sys2Proof.Machine

/-- A field read through a reader of registers. -/
def rdFld (rd : Nat → Word) (a : Nat) (f : Fld) : Nat := f.get (rd a)

/-! ## Lengths (R364, R372) -/

/-- The egress port of a queue: that of its subscriber. -/
def queuePort (rd : Nat → Word) (q : Nat) : Nat :=
  rdFld rd (Reg.egsSubCfg (rdFld rd (Reg.egsEqCfg q) F.egsEqCfg_sub)) F.egsSubCfg_port

/-- The service class of a queue. -/
def queueClass (rd : Nat → Word) (q : Nat) : Nat :=
  rdFld rd (Reg.egsSubCfg (rdFld rd (Reg.egsEqCfg q) F.egsEqCfg_sub)) F.egsSubCfg_tc

/-- Bytes of a frame of a queue with `payload` bytes of RTP payload, from destination address to FCS; at least 64. -/
def frameLength (rd : Nat → Word) (q payload : Nat) : Nat :=
  let a := Reg.egsDestCtl (rdFld rd (Reg.egsEqCfg q) F.egsEqCfg_dest)
  let tag := if rdFld rd a F.egsDestCtl_vlan = 0xFFF then 0 else 4
  let ip := if rdFld rd a F.egsDestCtl_ver = 0 then 20 else 40
  max 64 (14 + tag + ip + 8 + 12 + payload + 16 * rdFld rd (Reg.egsEqCfg q) F.egsEqCfg_srtp + 4)

/-- Bytes that MACsec adds on an instance (R351). -/
def macsecBytes (rd : Nat → Word) (m : Nat) : Nat :=
  let a := Reg.portMacsecCfg m
  if rdFld rd a F.portMacsecCfg_enable = 0 then 0 else if rdFld rd a F.portMacsecCfg_includeSci = 1 then 32 else 24

/-- The counted length of a frame of `bytes` bytes on an egress port (R364). -/
def countedLength (rd : Nat → Word) (m bytes : Nat) : Nat :=
  ((bytes : Int) + signed 9 (rdFld rd (Reg.egsPortCfg m) F.egsPortCfg_overhead) + (macsecBytes rd m : Int)).toNat

/-- The bytes of RTP payload of a queue's first packet of a unit (R372, R373). -/
def firstMax (rd : Nat → Word) (q : Nat) : Nat :=
  if rdFld rd (Reg.egsEqCfg q) F.egsEqCfg_encap = 2 then 1316 else 16 * rdFld rd (Reg.egsEqRtp q) F.egsEqRtp_firstMax

/-- PKT_MAX of a queue in force: 1,316 under TS_RTP. -/
def pktMax (rd : Nat → Word) (q : Nat) : Nat :=
  if rdFld rd (Reg.egsEqCfg q) F.egsEqCfg_encap = 2 then 1316 else rdFld rd (Reg.egsEqPkt q) F.egsEqPkt_pktMax

/-- Packets of a NAL unit of `size` bytes that begins `off` bytes into a coded unit, as (bytes of the unit before the packet, RTP payload
bytes): a single NAL unit packet, or fragmentation units, which carry what follows the NAL unit's 2-byte header behind 3 bytes of their own.
`first` is what the next packet may carry, `size'` any after it (R372). -/
def nalPackets (first size' off size : Nat) : List (Nat × Nat) :=
  if size ≤ first then [(off, size)]
  else
    let a := first - 3
    let b := max 1 (size' - 3)
    (off, a + 3) :: (List.range (cdiv (size - 2 - a) b)).map fun i => (off + 2 + a + i * b, min b (size - 2 - a - i * b) + 3)

/-- The packets of a unit's NAL units one after another. -/
def nalsPackets (size' : Nat) : (first off : Nat) → List Nat → List (Nat × Nat)
  | _, _, [] => []
  | first, off, n :: r => nalPackets first size' off n ++ nalsPackets size' size' (off + n) r

/-- The packets of a coded unit (R372): its parameter sets and SEI messages in one aggregation packet, of 2 bytes and 2 for each, when they fit
FIRST_MAX, and every other NAL unit on its own. -/
def unitPackets (rd : Nat → Word) (q : Nat) (u : UnitRec) : List (Nat × Nat) :=
  let first := firstMax rd q
  let size := pktMax rd q
  let group := 2 + sumBy (fun n => 2 + n) u.head
  if 1 < u.head.length ∧ group ≤ first then (0, group) :: nalsPackets size size (sumBy id u.head) u.body
  else nalsPackets size first 0 (u.head ++ u.body)

/-! ## Transport streams (R373) -/

/-- A packet of a transport stream by its PID and what it carries: the PAT the PMT's PID, the PMT the stream type, video whether it carries a
PCR. -/
abbrev TsPacket := Nat × Nat

/-- The transport packets of a unit of `bytes` bytes that launches at `t` ps, where the next launches at `next`: a PAT and a PMT where a
multiple of 100 ms lies between, then video with a PCR in its first packet and at each multiple of 40 ms. DEDUCED (notes/assumptions/44.md):
where those stand, and that each video packet carries 184 bytes of the unit. -/
def tsPackets (vvc : Bool) (bytes t next : Nat) : List TsPacket :=
  let n := cdiv bytes 184
  let time (i : Nat) : Nat := t + i * (next - t) / max 1 n
  (if t / 100000000000 = next / 100000000000 then [] else [(0, 0x1000), (0x1000, if vvc then 0x33 else 0x24)]) ++
    (List.range n).map fun i =>
      (0x0100, bit (i = 0 || decide (time (i - 1) / 40000000000 ≠ time i / 40000000000)))

/-- Sevens of transport packets, the last filled with null packets; `fuel` bounds them. -/
def sevens : (fuel : Nat) → List TsPacket → List (List TsPacket)
  | 0, _ => []
  | n + 1, l =>
    if l.isEmpty then []
    else (l.take 7 ++ List.replicate (7 - (l.take 7).length) (0x1FFF, 0)) :: sevens n (l.drop 7)

/-- Bytes and pixels of a pgroup of a programme's output (ST 2110-20). PRESUMED (notes/assumptions/44.md). -/
def pgroup (form bits : Nat) : Nat × Nat :=
  if form = 2 then (if bits = 8 then (4, 2) else if bits = 10 then (5, 2) else (6, 2))
  else if bits = 8 then (3, 1) else if bits = 10 then (15, 4) else (9, 2)

/-- RTP payload bytes of the packets of one row of a programme: each has 8 bytes of payload headers. -/
def rowPackets (rd : Nat → Word) (q : Nat) (c : ProgCfg) : List Nat :=
  let g := pgroup c.form (containerBits c.depth)
  let room := max g.1 ((pktMax rd q - 8) / g.1 * g.1)
  let row := cdiv c.width g.2 * g.1
  (List.range (cdiv row room)).map fun i => min room (row - i * room) + 8

/-- Samples of a packet of network output stream `s`, and its RTP payload bytes (R302). -/
def outPacket (rd : Nat → Word) (s : Nat) : Nat × Nat :=
  let a := Reg.audNetoCfg s
  let us := [125, 250, 1000, 4000].getD (rdFld rd a F.audNetoCfg_ptime) 125
  let k := (if rdFld rd a F.audNetoCfg_rate96 = 1 then 96000 else 48000) * us / 1000000
  let size := if rdFld rd a F.audNetoCfg_kind = 1 then 4 else if rdFld rd a F.audNetoCfg_enc = 0 then 2 else 3
  (k, k * (rdFld rd a F.audNetoCfg_chM1 + 1) * size)

/-! ## Nominal launch times in ps (R32, R195, R253, R304) -/

/-- The first-byte instant of the unit that band `b` of the `j`-th picture closes: its last line's capture time plus the stake. -/
def EncCfg.firstByte (c : EncCfg) (j b : Nat) : Nat :=
  let x := if c.cls = 0 then j * c.height + c.bandEnd b + c.ctu else (j + 1 + c.lag) * c.height
  let us := c.tapUs + (if c.cls = 0 then 375 else 500)
  cdiv (x * c.den * 1000000000000) (c.num * c.height) + us * 1000000

/-- A live frame in the making: its queue, nominal time in ps, payload bytes, whether it is anchored, its RTP timestamp and marker bit, and its
transport packets. -/
structure Nominal where
  queue : Nat
  at_ : Nat
  bytes : Nat
  anchored : Bool
  ts : Nat
  marker : Bool
  pids : List TsPacket
  deriving DecidableEq, Repr

/-- The 90 kHz count of a time in ps from the PTP epoch. -/
def ticks90 (ps : Nat) : Nat := ps * 90000 / 1000000000000 % 2 ^ 32

/-- The 90 kHz count of the boundary of frame `k` of a rate (R21, R372). -/
def frameTicks (num den k : Nat) : Nat := k * den * 90000 / num % 2 ^ 32

/-- Whether a time in ps lies in Stroke `s`. -/
def inStroke (s t : Nat) : Bool := t / 125000000 = s

/-- The packets of a unit of an encode channel, paced at its rate; its first is anchored. The timestamp is that of the picture's frame
boundary, and the last packet of an access unit has the marker bit (R372); those of a transport stream have the time of their launch (R373). -/
def EncCfg.unitNominals (c : EncCfg) (rd : Nat → Word) (q : Nat) (u : UnitRec) : List Nominal :=
  let t := c.firstByte u.j u.last
  let pace (bytes : Nat) : Nat := t + cdiv (bytes * 8 * 1000000000000) (max 1 c.bps)
  if rdFld rd (Reg.egsEqCfg q) F.egsEqCfg_encap = 2 then
    let next := if u.lastInAu then c.firstByte (u.j + 1) (if c.duMode then 0 else u.last) else c.firstByte u.j (u.last + 1)
    let l := tsPackets c.vvc u.bytes t next
    (sevens l.length l).zipIdx.map fun p => ⟨q, pace (1288 * p.2), 1316, p.2 = 0, ticks90 (pace (1288 * p.2)), false, p.1⟩
  else
    let l := unitPackets rd q u
    l.zipIdx.map fun p => ⟨q, pace p.1.1, p.1.2, p.2 = 0, frameTicks c.num c.den u.k, u.lastInAu && p.2 + 1 = l.length, []⟩

/-- Live frames of the encode channel of a queue in Stroke `s`. -/
def Dev.encNominals (d : Dev) (q c s : Nat) : List Nominal :=
  match d.enc? c with
  | none => []
  | some x => x.wire.flatMap fun u =>
    match cfgFor x.cfgs u.j with
    | none => []
    | some (_, g) =>
      let t := g.firstByte u.j u.last
      if t / 125000000 ≤ s ∧ s ≤ 1 + (t + cdiv (u.bytes * 8 * 1000000000000) (max 1 g.bps)) / 125000000 then
        (g.unitNominals d.reg q u).filter fun n => inStroke s n.at_
      else []

/-- The RTP timestamp of output frame `k` of a programme with a zone delay in lines (R281): F_k + Z. -/
def ProgCfg.rtpTime (c : ProgCfg) (k zone : Nat) : Nat := (k * c.height + zone) * c.den * 90000 / (c.num * c.height) % 2 ^ 32

/-- Live frames of a programme in Stroke `s`: each row's first packet is anchored, the others are spread over the row's time. The last packet of
a frame has the marker bit. PRESUMED (notes/assumptions/44.md). -/
def ProgDyn.nominals (x : ProgDyn) (rd : Nat → Word) (q s : Nat) : List Nominal :=
  let c := x.cfg
  let l := rowPackets rd q c
  let rowPs := c.den * 1000000000000 / (c.num * c.height)
  let rows (k zone : Nat) : List Nominal :=
    let t0 := c.rowTime 1000000 k 0 zone
    let y0 := (125000000 * s - t0) / (max 1 rowPs) - 1
    ((List.range (125000000 / (max 1 rowPs) + 4)).map (y0 + ·)).flatMap fun y =>
      if y < c.height then
        let t := c.rowTime 1000000 k y zone
        (l.zipIdx.map fun p => (⟨q, t + p.2 * rowPs / l.length, p.1, p.2 = 0, c.rtpTime k zone, y + 1 = c.height && p.2 + 1 = l.length, []⟩ : Nominal)).filter fun n => inStroke s n.at_
      else []
  let top := s * c.num / (8000 * c.den) + 1
  (List.range 1024).flatMap fun i =>
    let k := top - i
    if top < i ∨ k < x.first then []
    else match x.zoneOf k with
      | none => []
      | some z =>
        let t := c.rowTime 1000000 k 0 z
        if t / 125000000 ≤ s ∧ s ≤ (t + c.height * (rowPs + 1)) / 125000000 then rows k z else []

/-- The group whose channels network output stream `s` plays: that of its first routed channel (R316). -/
def outGroup (rd : Nat → Word) (s : Nat) : Option Nat :=
  let n := rdFld rd (Reg.audNetoCfg s) F.audNetoCfg_chM1 + 1
  let first := 320 + rdFld rd (Reg.audNetoCh s) F.audNetoCh_first
  (List.range n).findSome? fun i =>
    let a := Reg.audRoute (first + i)
    if rdFld rd a F.audRoute_enable = 1 then some (rdFld rd a F.audRoute_group) else none

/-- Live frames of a network output stream in Stroke `s` (R304): each is anchored at the play time of its last sample, and its timestamp is
its first sample and D in ticks of the stream. -/
def Dev.audNominals (d : Dev) (q n s : Nat) : List Nominal :=
  match (outGroup d.reg n).bind d.grp? with
  | none => []
  | some x =>
    let p := outPacket d.reg n
    let fs := if d.flag (Reg.audNetoCfg n) F.audNetoCfg_rate96 then 96000 else 48000
    let off := cdiv (x.cfg.delay * 1000000000000) x.cfg.rate + (arriveStrokes x.cfg.arriveUs + 2) * 125000000
    let i0 := (125000000 * s - off) * fs / 1000000000000 / (max 1 p.1) - 1
    ((List.range 4).map fun i => (⟨q, cdiv (((i0 + i + 1) * p.1 - 1) * 1000000000000) fs + off, p.2, true,
      ((i0 + i) * p.1 + x.cfg.delay * fs / x.cfg.rate) % 2 ^ 32, false, []⟩ : Nominal)).filter
      fun n => inStroke s n.at_

/-! ## Queues (R363, R374, R375, R382) -/

/-- What a queue carries. -/
inductive Carried where
  | enc (c : Nat)
  | prog (p : Nat)
  | aud (s : Nat)
  | nothing
  deriving DecidableEq, Repr

/-- The stream of a queue (R363). -/
def Dev.carried (d : Dev) (q : Nat) : Carried :=
  let h := d.fld (Reg.egsEqPkt q) F.egsEqPkt_stream
  if 0x100 ≤ h ∧ h < 0x200 then .enc (h - 0x100)
  else
    match d.cmp.progs.find? fun e => (e.2.map fun x => x.cfg.egress && x.cfg.queue == q).getD false with
    | some e => .prog e.1
    | none =>
      match (List.range 256).find? fun s => d.flag (Reg.audNetoCfg s) F.audNetoCfg_enable && d.fld (Reg.audNetoCfg s) F.audNetoCfg_queue == q with
      | some s => .aud s
      | none => .nothing

/-- The enabled queues. -/
def Dev.queuesOn (d : Dev) : List Nat :=
  d.regs.filterMap fun p =>
    if 0xA40000 ≤ p.1 ∧ p.1 < 0xA60000 ∧ p.1 % 0x20 = 0 ∧ F.egsEqCfg_enable.get p.2 = 1 then some ((p.1 - 0xA40000) / 0x20) else none

/-- Whether an address in four words is multicast. -/
def multicast (ver a : Nat) : Bool := if ver = 0 then a / 2 ^ 124 = 14 else a / 2 ^ 120 = 255

/-- Whether the destination of a queue can be addressed: multicast, or resolved by firmware (R375). -/
def Dev.resolved (d : Dev) (q : Nat) : Bool :=
  let n := d.fld (Reg.egsEqCfg q) F.egsEqCfg_dest
  let a := d.addrAt (Reg.egsDestIp n)
  let ver := d.fld (Reg.egsDestCtl n) F.egsDestCtl_ver
  multicast ver a || d.egs.neighbours.any fun p => addrWords ver p.1 == a

/-- Whether the block that makes a queue's packets is isolated. -/
def Dev.sourceIsolated (d : Dev) (q : Nat) : Bool :=
  d.inReset 5 || (match d.carried q with
    | .enc c => ((d.encCfg? c).map fun g => d.blockHeld 4 g.pkt).getD false
    | .prog p => ((d.prog? p).map fun x => (List.range (max 1 x.cfg.gang)).any fun i => d.blockHeld 3 (p + i)).getD false
    | _ => false)

/-- EGS_EQ_STATUS.STATE: 0 DISABLED, 1 SENDING, 2 KEY_WAIT, 3 RESOLVING, 4 ISOLATED. -/
def Dev.queueState (d : Dev) (q : Nat) : Nat :=
  let a := Reg.egsEqCfg q
  if !d.flag a F.egsEqCfg_enable then 0
  else if d.sourceIsolated q then 4
  else if d.flag a F.egsEqCfg_srtp && (!d.keysReady || ((d.key (d.fld (Reg.egsEqKey q) F.egsEqKey_key)).map (·.purpose)) != some 1) then 2
  else if !d.resolved q then 3
  else 1

/-- Live frames of a queue in Stroke `s`. -/
def Dev.nominals (d : Dev) (q s : Nat) : List Nominal :=
  if d.sourceIsolated q then []
  else match d.carried q with
    | .enc c => d.encNominals q c s
    | .prog p => ((d.prog? p).map fun x => x.nominals d.reg q s).getD []
    | .aud n => d.audNominals q n s
    | .nothing => []

/-! ## Layout (R366) -/

/-- Whether one frame's nominal time and queue come before another's. -/
def LiveFrame.before (a b : LiveFrame) : Bool := decide (a.nominal < b.nominal) || (a.nominal == b.nominal && decide (a.queue < b.queue))

/-- Inserts a frame in order. -/
def insertBy (lt : LiveFrame → LiveFrame → Bool) (x : LiveFrame) : List LiveFrame → List LiveFrame
  | [] => [x]
  | y :: r => if lt x y then x :: y :: r else y :: insertBy lt x r

/-- Frames in order of start. -/
def byStart (a b : LiveFrame) : Bool := decide (a.start < b.start)

/-- Anchored frames, each at its nominal time or at the end of the one before. -/
def placeAnchored (ps : Nat) : (free : Nat) → List LiveFrame → List LiveFrame
  | _, [] => []
  | free, x :: r =>
    let t := max free x.nominal
    { x with start := t } :: placeAnchored ps (t + x.length * ps) r

/-- The first gap of `dur` ps at or after `t` among frames placed in order of start. -/
def firstGap (ps dur : Nat) : (t : Nat) → List LiveFrame → Nat
  | t, [] => t
  | t, x :: r => if t + dur ≤ x.start then t else firstGap ps dur (max t (x.start + x.length * ps)) r

/-- The layout of one port: `free` is when its wire is free, `ps` its time for a byte, all in ps from the Stroke's boundary. -/
def layout (ps free : Nat) (l : List LiveFrame) : List LiveFrame :=
  let sorted := l.foldl (fun a x => insertBy LiveFrame.before x a) []
  let anchored := placeAnchored ps free (sorted.filter (·.anchored))
  (sorted.filter fun x => !x.anchored).foldl (fun a x =>
    insertBy byStart { x with start := firstGap ps (x.length * ps) (max free x.nominal) a } a) anchored

/-- Whether a port accepts egress (R338, R341). -/
def Dev.takesEgress (d : Dev) (m : Nat) : Bool :=
  let u := Tab.get zero d.lan.upFrom m
  d.linkUp m && u ≠ 0 && decide (u ≤ d.now + 1)

/-- Puts a live frame on the layout list of its port, or discards and counts it: a port that is down, a key that is not there, an
address not resolved (R338, R374, R375). -/
def Dev.putLive (d : Dev) (q : Nat) (n : Nominal) (no s : Nat) : Dev :=
  let m := queuePort d.reg q
  let x : LiveFrame := ⟨0, n.at_ - 125000000 * s, q, no, countedLength d.reg m (frameLength d.reg q n.bytes), n.bytes, n.anchored,
    n.ts, n.marker, n.pids⟩
  if d.queueState q = 2 then d
  else if !d.takesEgress m || d.queueState q ≠ 1 then d.macCount m 10 1
  else d.onEgs fun e => { e with layout := Tab.upd noList e.layout m (x :: ·) }

/-- The live frames of a queue and, under dual send, of its partner (R382) join the layouts of their ports. -/
def Dev.putQueue (d : Dev) (q s : Nat) : Dev :=
  (d.nominals q s).foldl (fun d n =>
    let no := Tab.get zero d.egs.sent q
    let d := d.onEgs fun e => { e with sent := Tab.put zero e.sent q (no + 1) }
    let d := d.putLive q n no s
    if d.flag (Reg.pathDual q) F.pathDual_enable then d.putLive (d.fld (Reg.pathDual q) F.pathDual_partner) n no s else d) d

/-- At the boundary of a Stroke every port lays out its live frames; frames not yet sent keep their turn (R366). -/
def Dev.egressBoundary (d : Dev) : Dev :=
  if d.inReset 4 then d
  else
    let s := d.now
    let d := d.onEgs fun e => { e with layout := e.layout.map fun p =>
      (p.1, p.2.map fun x => { x with nominal := x.start - 125000000 }) }
    let d := d.queuesOn.foldl (fun d q => d.putQueue q s) d
    d.onEgs fun e => { e with layout := e.layout.map fun p =>
      (p.1, layout (d.byteTime p.1) (Tab.get zero e.busy p.1 - 125000000 * s) p.2) }

/-! ## Buckets (R365) -/

/-- The rate in kbit/s and the burst in bytes of a bucket: port m at m, class c of port m at 64 + 8m + c, subscriber s at 1,024 + s,
queue q at 2,048 + q. No rate stands for no limit. -/
def Dev.bucketOf (d : Dev) (k : Nat) : Option Nat × Nat :=
  if k < 64 then
    let r := d.fld (Reg.egsPortRate k) F.egsPortRate_kbps
    (some (if r = 0 then 8000000000 / d.byteTime k else r), d.fld (Reg.egsPortBurst k) F.egsPortBurst_bytes)
  else if k < 1024 then
    let r := d.fld (Reg.egsTcRate ((k - 64) / 8) ((k - 64) % 8)) F.egsTcRate_kbps
    (if r = 0 then none else some r, d.fld (Reg.egsTcBurst ((k - 64) / 8) ((k - 64) % 8)) F.egsTcBurst_bytes)
  else if k < 2048 then
    let r := d.fld (Reg.egsSubRate (k - 1024)) F.egsSubRate_kbps
    (if r = 0 then none else some r, d.fld (Reg.egsSubBurst (k - 1024)) F.egsSubBurst_bytes)
  else
    let q := k - 2048
    let r := d.fld (Reg.egsEqRate q) F.egsEqRate_kbps
    (some (if r = 0 then d.fld (Reg.egsEqStatus q) F.egsEqStatus_liveKbps else r), d.fld (Reg.egsEqBurst q) F.egsEqBurst_bytes)

/-- The level of a bucket at a local time in ns. -/
def Dev.bucketLevel (d : Dev) (k t : Nat) : Int :=
  match d.bucketOf k with
  | (none, burst) => ((burst * 8000000 : Nat) : Int)
  | (some r, burst) => levelOf (Tab.get fullBucket d.egs.buckets k) r burst t

/-- Debits a frame from a bucket; a level may go negative. -/
def Dev.debit (d : Dev) (k bytes t : Nat) : Dev :=
  match (d.bucketOf k).1 with
  | none => d
  | some _ => d.onEgs fun e =>
    { e with buckets := Tab.put fullBucket e.buckets k (some ⟨d.bucketLevel k t - ((bytes * 8000000 : Nat) : Int), t⟩) }

/-! ## Launch (R366, R368) -/

/-- Whether PAUSE stops a transmitter at a local time (R349). -/
def Dev.isPaused (d : Dev) (m t : Nat) : Bool := decide (t < Tab.get zero d.pth.paused m)

/-- MACsec on a frame sent: the transmit SA's packet number advances; without an SA, or without keys, the frame is discarded. -/
def Dev.macsecOut (d : Dev) (m : Nat) : Dev × Bool :=
  if !d.flag (Reg.portMacsecCfg m) F.portMacsecCfg_enable then (d, true)
  else if !d.keysReady then (d, false)
  else
    match d.sec.sas.find? fun p => p.1 / 64 = m && p.1 / 32 % 2 = 0 with
    | some (k, some sa) => (d.onSec fun s => { s with sas := Tab.put noSa s.sas k (some { sa with pn := sa.pn + 1 }) }, true)
    | _ => (d, false)

/-- A frame of a counted length starts on a port's wire at a local time in ns: the counters, and the wire busy. -/
def Dev.transmit (d : Dev) (m queue bytes t : Nat) (facts : List Nat) : Dev :=
  let x := d.macsecOut m
  let octets := ((bytes : Int) - signed 9 (d.fld (Reg.egsPortCfg m) F.egsPortCfg_overhead)).toNat
  let d := x.1.onEgs fun e => { e with busy := Tab.put zero e.busy m (t * 1000 + bytes * d.byteTime m) }
  if x.2 then ((d.macCount m 4 1).macCount m 5 octets).emit (.frame m queue facts) else d

/-- The MAC address of a queue's destination (R375): of a multicast address by the standard mapping, of a unicast one as firmware resolved
it. -/
def Dev.destMac (d : Dev) (q : Nat) : Nat :=
  let n := d.fld (Reg.egsEqCfg q) F.egsEqCfg_dest
  let a := d.addrAt (Reg.egsDestIp n)
  let ver := d.fld (Reg.egsDestCtl n) F.egsDestCtl_ver
  if multicast ver a then
    (if ver = 0 then 0x01005E000000 + a / 2 ^ 96 % 2 ^ 23 else 0x333300000000 + a % 2 ^ 32)
  else ((d.egs.neighbours.find? fun p => addrWords ver p.1 == a).map (·.2)).getD 0

/-- The header fields of a live frame (R372–R375, R382): marker bit, payload type, timestamp, SSRC and the rollover counter that SRTP starts
at 0, then those of its destination: MAC addresses, VLAN, IP version, DSCP, TTL or hop limit, and UDP ports. -/
def Dev.headerOf (d : Dev) (m : Nat) (x : LiveFrame) : List Nat :=
  let q := x.queue
  let rtp := d.reg (Reg.egsEqRtp q)
  let pt := if d.fld (Reg.egsEqCfg q) F.egsEqCfg_encap = 2 then 33 else F.egsEqRtp_pt.get rtp
  let n := d.fld (Reg.egsEqCfg q) F.egsEqCfg_dest
  let c := d.reg (Reg.egsDestCtl n)
  let u := d.reg (Reg.egsDestUdp n)
  let mac := (d.reg (Reg.portMacAddrHi m)).toNat % 65536 * 2 ^ 32 + (d.reg (Reg.portMacAddrLo m)).toNat
  [bit x.marker, pt, x.ts, (d.reg (Reg.egsEqSsrc q)).toNat, (F.egsEqRtp_seq0.get rtp + x.no) / 65536, d.destMac q, mac,
   F.egsDestCtl_vlan.get c, F.egsDestCtl_ver.get c, F.egsDestCtl_dscp.get c, 64, F.egsDestUdp_udpDport.get u, F.egsDestUdp_udpSport.get u] ++
  x.pids.flatMap fun p => [p.1, p.2]

/-- LIVE_FRAME_LAUNCH (R366): the first laid-out frame of a port whose placed time has come starts; every bucket on its path is
debited (R365). -/
def execLiveFrameLaunch (port ns : Nat) (s : State) : Host.Outcome State Fault Refusal :=
  s.lift fun d =>
    let t := d.localNs ns
    match Tab.get noList d.egs.layout port with
    | [] => d
    | x :: r =>
      if d.linkUp port = false ∨ d.isPaused port t = true ∨ ns * 1000 + 999 < x.start ∨ t * 1000 + 999 < Tab.get zero d.egs.busy port then d
      else
        let q := x.queue
        let d := (d.atNs ns).onEgs fun e => { e with layout := Tab.put noList e.layout port r }
        let path := [port, 64 + 8 * port + queueClass d.reg q, 1024 + d.fld (Reg.egsEqCfg q) F.egsEqCfg_sub, 2048 + q]
        let d := path.foldl (fun d k => d.debit k x.length t) d
        d.transmit port q x.length t ([(d.fld (Reg.egsEqRtp q) F.egsEqRtp_seq0 + x.no) % 65536, x.bytes] ++ d.headerOf port x)

/-- What unlisted gates read as: open. -/
def noGates (_ : Nat) : Option GateDyn := Option.none

/-- The gates of a port. -/
def Dev.gates (d : Dev) (m : Nat) : GateDyn := (Tab.get noGates d.egs.gates m).getD ⟨none, 0, 0, none⟩

/-- Changes the gates of a port. -/
def Dev.setGates (d : Dev) (m : Nat) (g : GateDyn) : Dev :=
  d.onEgs fun e => { e with gates := Tab.put noGates e.gates m (if g = ⟨none, 0, 0, none⟩ then none else some g) }

/-- Nanoseconds for which class `c` stays open from entry `i` on, over at most a cycle. -/
def openRun (l : List (Nat × Nat)) (c : Nat) : (fuel i : Nat) → Nat
  | 0, _ => 0
  | n + 1, i =>
    let e := l.getD (i % l.length) (0, 0)
    if bitAt e.1 c then e.2 + openRun l c n (i + 1) else 0

/-- The local time in ns until which class `c` is open at time `t`; none where it is closed or its interval has ended. -/
def GateDyn.openUntil (g : GateDyn) (c t : Nat) : Option Nat :=
  match g.active with
  | none => some (t + 2 ^ 40)
  | some l =>
    let e := l.entries.getD g.entry (0, 0)
    if t < g.ends ∧ bitAt e.1 c = true then
      some (if openRun l.entries c l.entries.length 0 = sumBy (·.2) l.entries then t + 2 ^ 40
        else g.ends + openRun l.entries c (l.entries.length - 1) (g.entry + 1))
    else none

/-- CONTROL_FRAME_LAUNCH (R368): the first waiting control frame of a port starts when its class's gate is open and stays so, the
buckets of its class and port are not negative, and it ends before the next live frame placed. -/
def execControlFrameLaunch (port ns : Nat) (s : State) : Host.Outcome State Fault Refusal :=
  s.lift fun d =>
    let t := d.localNs ns
    match Tab.get noList d.egs.control port with
    | [] => d
    | (bytes, x?, content) :: r =>
      let c := d.fld (Reg.egsPortCfg port) F.egsPortCfg_ctrlTc
      let n := countedLength d.reg port bytes
      let dur := n * d.byteTime port
      let cls := 64 + 8 * port + c
      let gate := match (d.gates port).openUntil c t with
        | none => false
        | some e => decide (t * 1000 + dur ≤ e * 1000)
      let clear := match Tab.get noList d.egs.layout port with
        | [] => true
        | y :: _ => decide (ns * 1000 + dur ≤ y.start)
      if d.linkUp port = false ∨ d.takesEgress port = false ∨ d.isPaused port t = true ∨ t * 1000 < Tab.get zero d.egs.busy port ∨
          gate = false ∨ clear = false ∨ d.bucketLevel cls t < 0 ∨ d.bucketLevel port t < 0 then d
      else
        let d := (d.atNs ns).onEgs fun e => { e with control := Tab.put noList e.control port r }
        let d := ((d.debit port n t).debit cls n t).transmit port 4096 n t (bytes :: content)
        match x? with
        | some x => d.finish x 0 []
        | none => d

/-! ## Time gates (R369, R370) -/

/-- The cycle of a list in ns. -/
def GateList.cycle (l : GateList) : Nat := sumBy (·.2) l.entries

/-- The entry that lies `pos` ns into a cycle, with the ns left of it. -/
def entryAt : (i pos : Nat) → List (Nat × Nat) → Nat × Nat
  | i, _, [] => (i, 0)
  | i, pos, e :: r => if pos < e.2 then (i, e.2 - pos) else entryAt (i + 1) (pos - e.2) r

/-- The first time at or after `t` that lies a whole number of cycles from `base`. -/
def cycleFrom (base cycle t : Nat) : Nat :=
  if t ≤ base then base - (base - t) / (max 1 cycle) * cycle else base + cdiv (t - base) (max 1 cycle) * cycle

/-- CT of a list whose commit takes effect at the boundary of Stroke `e` (R370). -/
def changeTime (l : GateList) (e : Nat) : Nat :=
  let soonest := (e + 1) * 125000
  if soonest ≤ l.base then l.base else l.base + cdiv (soonest - l.base) (max 1 l.cycle) * l.cycle

/-- Shows T, STATE and CYCLE_NS of a port's gates. -/
def Dev.showGates (d : Dev) (m : Nat) : Dev :=
  let g := d.gates m
  let d := match g.pending with
    | none => d
    | some (_, t) =>
      let sec := t / 1000000000
      ((d.setReg (Reg.egsGclTakeNs m) (BitVec.ofNat 32 (t % 1000000000))).setReg (Reg.egsGclTakeSecLo m) (BitVec.ofNat 32 sec)).setReg
        (Reg.egsGclTakeSecHi m) (BitVec.ofNat 32 (sec / 2 ^ 32 % 65536))
  let st := if g.pending.isSome then 2 else if g.active.isSome then 1 else 0
  (d.setFld (Reg.egsGclStatus m) F.egsGclStatus_state st).setFld (Reg.egsGclStatus m) F.egsGclStatus_cycleNs
    ((g.active.map GateList.cycle).getD 0)

/-- A list becomes pending at the effect Stroke of its commit (R370). -/
def Dev.gatePend (d : Dev) (m : Nat) (l : GateList) : Dev :=
  let g := d.gates m
  let ct := changeTime l d.now
  let t := match g.active with
    | none => ct
    | some old => cycleFrom old.base old.cycle ct
  (d.setGates m { g with pending := some (l, t) }).showGates m

/-- ENABLE 0 takes effect: every gate is open (R369). DEDUCED: at the effect Stroke (notes/assumptions/45.md). -/
def Dev.gateOpen (d : Dev) (m : Nat) : Dev := (d.setGates m ⟨none, 0, 0, none⟩).showGates m

/-- GATE_INTERVAL_END (R369): the present interval of a port ends in this Stroke, and the next entry's gates apply. -/
def execGateIntervalEnd (port : Nat) (s : State) : Host.Outcome State Fault Refusal :=
  s.lift fun d =>
    let g := d.gates port
    match g.active with
    | none => d
    | some l =>
      if (d.now + 1) * 125000 ≤ g.ends then d
      else
        let i := (g.entry + 1) % (max 1 l.entries.length)
        d.setGates port { g with entry := i, ends := g.ends + (l.entries.getD i (0, 0)).2 }

/-- GATE_LIST_TAKEOVER (R370): the pending list takes over at T, at the position that keeps the phase of BASE. -/
def execGateListTakeover (port : Nat) (s : State) : Host.Outcome State Fault Refusal :=
  s.lift fun d =>
    let g := d.gates port
    match g.pending with
    | none => d
    | some (l, t) =>
      if (d.now + 1) * 125000 ≤ t then d
      else
        let pos := ((t : Int) - (l.base : Int)) % ((max 1 l.cycle : Nat) : Int)
        let e := entryAt 0 pos.toNat l.entries
        (d.setGates port ⟨some l, e.1, t + e.2, none⟩).showGates port

/-! ## Rehash (R358) -/

/-- A rehash of the classifier starts: the build begins, or begins again, with everything that the side CAM holds (R45, R358). -/
def Dev.rehash (d : Dev) : Dev :=
  d.onBank 0 fun b => { state := 1, before := b.before ++ b.since, since := [], rehash := true }

/-- A write of EGS_CLS_CFG (R358): REHASH_AT from 1 to 64, and REHASH 1 starts a rehash. -/
def Dev.clsCfgWrite (d : Dev) (fn value : Nat) : Dev :=
  if !d.mayWrite fn Reg.egsClsCfg then d
  else
    let v := value % 128
    let d := if 1 ≤ v ∧ v ≤ 64 then d.setFld Reg.egsClsCfg F.egsClsCfg_rehashAt v else d
    if bitAt value 31 then d.rehash else d

/-- REHASH_WRITE (R358). -/
def execRehashWrite (fn value : Nat) (s : State) : Host.Outcome State Fault Refusal := s.lift fun d => d.clsCfgWrite fn value

end Sys2Proof.Machine
end

