-- ==== Sys2Proof/Machine/Items.lean ====
section
/-! DEFINITION. Items of Cox from token to end (R55–R59, R67, R73–R76, R148–R153, R231, R278, R312, R431): operand tokens,
completions, substitutes and deadlines, by the object that a flow serves; and video frame boundaries (R21). -/

namespace Sys2Proof.Machine

/-- OPERAND_TOKEN (R55–R59, R142): a token for a slot of an item arrives and is recorded; a band token reaches every segment of a
best-effort band. Under REPLAY tokens come only from the record log (R527). -/
def execOperandToken (flow seq slot handle ns : Nat) (s : State) : Host.Outcome State Fault Refusal :=
  s.lift fun d =>
    if d.replay ∨ d.inReset 5 = true then d
    else
      let d := d.atNs ns
      if slot = 0 then
        (d.recordToken (d.flowCrew flow) 0 flow [seq, handle]).bandToken flow seq handle
      else d.tokenIn flow seq slot handle

/-- The picture, band and settings of an encode item. -/
def Dev.bandOfItem (d : Dev) (c : Nat) (i : Item) : Option (EncCfg × Nat × Nat) :=
  (d.encItem? c i.seq).map fun p => let x := p.1.ofNumber i.n; (p.1, x.1, x.2.1)

/-- What a completed item gives, by its object (R75, R141, R150, R231, R278, R312, R431). -/
def Dev.produce (d : Dev) (i : Item) (q : ItemResult) (picture : Option PictureFacts) : Dev :=
  match d.flowObj i.flow with
  | .encPiece c p =>
    match d.bandOfItem c i with
    | none => d
    | some (g, j, b) =>
      if i.floor ≠ 0 then d.pieceFloored c g j b p i.floor (if i.floor = 0x02 then 2 else 0) i.level q
      else if g.live then d.pieceCoded c g i.e j b p i.level q
      else if q.poisoned then d.abandon c g j 0x21
      else d.segCoded c g i p (decide (i.target < d.now)) q
  | .encPkt _ => d
  | .dec c =>
    let free (d : Dev) : Dev := d.releaseOperand i.flow 1 (i.handles.getD 1 0)
    if q.poisoned then (free d).decHeld c i.n 0x17
    else
      match picture with
      | none => (free d).decHeld c i.n 0
      | some f => if i.level = 2 && f.nonRef then (free d).decSkip c i.n else d.decoded c i.n (i.handles.getD 1 0) q f
  | .prog p =>
    match d.prog? p with
    | none => d
    | some x =>
      let k := i.n / x.cfg.strips
      let b := i.n % x.cfg.strips
      if q.poisoned then d.stripHeld p k b else d.stripComposed p k b q.crc
  | .audio g => if q.poisoned then d.audSilence g i.n else d.audBlock g i.n q.crc false
  | .none => d

/-- An item's result when an on-die word that it read could not be corrected: it counts as poisoned (R416). -/
def afterOnDie (q : ItemResult) : ItemResult := { q with poisoned := q.poisoned || decide (0 < q.broken) }

/-- The on-die errors that an item met are counted (R416). -/
def Dev.countOnDie (d : Dev) (q : ItemResult) : Dev :=
  (d.addFld Reg.memOndieErr F.memOndieErr_corrected q.fixed).addFld Reg.memOndieErr F.memOndieErr_uncorrected q.broken

/-- ITEM_COMPLETE (R75, R77, R78, R416, R431): an item in service ends; its unit pauses, and a poisoned item is recorded. -/
def execItemComplete (flow seq : Nat) (result : ItemResult) (picture : Option PictureFacts) (ns : Nat) (s : State) :
    Host.Outcome State Fault Refusal :=
  s.lift fun d =>
    match d.item? flow seq with
    | none => d
    | some i =>
      if i.unit.isNone then d
      else
        let d := (d.atNs ns).countOnDie result
        let result := afterOnDie result
        let d := if result.poisoned then d.record (d.flowCrew flow) 0x08 0 flow [flow, seq] else d
        ((d.leaveUnit i result.cycles).endItem flow seq (i.floor = 0x02)).produce i result picture

/-- What stands in for an item that is not run (R73, R74): an encode band held, of whose floor no command says anything; a slot without a
picture; a held strip; a silent block. A packetiser item, and one of a flow that no object made, give nothing but the CONCEAL of a live flow (R73).
DEDUCED (notes/assumptions/45.md): its object and words. -/
def Dev.standInFor (d : Dev) (i : Item) : Dev :=
  match d.flowObj i.flow with
  | .encPiece c p =>
    match d.bandOfItem c i with
    | none => d
    | some (g, j, b) => d.pieceFloored c g j b p 0x04 0 0 noResult
  | .encPkt c =>
    match d.bandOfItem c i with
    | none => d
    | some (_, j, b) =>
      d.postEvent (d.flowCrew i.flow) .conceal (0x100 + c) [2, (((d.enc? c).map fun x => x.frameOf j).getD j) % 2 ^ 32, pack [(b, 16)], 0]
  | .dec c =>
    (if bitAt i.filled 1 then d.releaseOperand i.flow 1 (i.handles.getD 1 0) else d).decHeld c i.n (if i.isolated then 0x18 else 0)
  | .prog p =>
    match d.prog? p with
    | none => d
    | some x => d.stripHeld p (i.n / x.cfg.strips) (i.n % x.cfg.strips)
  | .audio g => d.audSilence g i.n
  | .none => if i.live then d.postEvent (d.flowCrew i.flow) .conceal 0 [0, i.seq, i.flow, 0] else d

/-- The substitute of an item runs: it is counted and recorded, and the item leaves the store (R73, R76). -/
def Dev.substitute (d : Dev) (i : Item) (how : Nat) : Dev :=
  ((d.countSubst i how).endItem i.flow i.seq true).standInFor i

/-- Whether a live item's substitute action is due: its release deadline has passed while it lacked an operand, or while its isolated
home left it without a unit (R67, R73). A floor pass has none. -/
def Dev.substDue (d : Dev) (i : Item) : Bool :=
  i.live && i.floor == 0 && decide (i.rd < d.now) && i.unit.isNone &&
    (i.readyNo == 0 || i.isolated || d.unitIsolated (d.homeUnitAt i.flow i.e))

/-- SUBST of the flow of an item, as it holds for the item (R81). -/
def Dev.substOf (d : Dev) (i : Item) : Nat := F.coxFlowCfg_subst.get (d.flowCfgAt i.flow i.e)

/-- SUBSTITUTE_ACTION (R73): for an entry of the store, or for an item of which no token has come. -/
def execSubstituteAction (flow seq : Nat) (s : State) : Host.Outcome State Fault Refusal :=
  s.lift fun d =>
    match d.item? flow seq with
    | some i => if d.substDue i then d.substitute i (d.substOf i) else d
    | none =>
      let i := d.newItem flow seq d.now false
      let known := ((d.duesAt flow i.e).map fun l => l.contains seq).getD true
      if d.flowOn flow && (d.gone? flow seq).isNone && known && d.substDue i then d.substitute i (d.substOf i) else d

/-- The floor pass of a live encode item takes the place of its coding (R67, R74): on the unit it occupies, or on one that it waits for
ahead of every other item. -/
def Dev.beginFloor (d : Dev) (i : Item) (status : Nat) (unit : Option Nat) : Dev :=
  d.onItem i.flow i.seq fun x => { x with floor := status, unit := unit, cost := i.floorCost }

/-- An item is ended for its deadline (R74): an encode item goes on with its floor pass, any other runs its substitute. -/
def Dev.endLate (d : Dev) (i : Item) : Dev :=
  match d.flowObj i.flow with
  | .encPiece _ _ => (d.countSubst i 4).beginFloor i 0x02 i.unit
  | _ => (d.leaveUnit i (i.cyclesRun d.nowNs)).substitute i 4

/-- DEADLINE_FINISH (R74): MARGIN_NS before the end of its completion deadline a live item that is in service or on a ready list is
ended; an encode item goes on with its floor pass, any other runs its substitute. -/
def execDeadlineFinish (flow seq : Nat) (s : State) : Host.Outcome State Fault Refusal :=
  s.lift fun d =>
    match d.item? flow seq with
    | none => d
    | some i =>
      if i.live && i.readyNo != 0 && i.floor == 0 && decide (i.cd ≤ d.now) then
        (d.atNs (125000 - d.fld Reg.coxFinishCfg F.coxFinishCfg_marginNs)).endLate i
      else d

/-- BE_TIMEOUT (R75, R150): the deadline of a best-effort item passes while it waits; an encode channel abandons the picture. -/
def execBeTimeout (flow seq : Nat) (s : State) : Host.Outcome State Fault Refusal :=
  s.lift fun d =>
    match d.item? flow seq with
    | none => d
    | some i =>
      if !i.live && i.unit.isNone && decide (i.cd < d.now) then
        let d := [0, 1, 2, 3].foldl (fun d n =>
          if bitAt i.filled n && bitAt i.need n then d.releaseOperand flow n (i.handles.getD n 0) else d) d
        let d := d.endItem flow seq false
        match d.flowObj flow with
        | .encPiece c _ =>
          match d.bandOfItem c i with
          | some (g, j, _) => d.abandon c g j 0x22
          | none => d
        | _ => d
      else d

/-- FRAME_BOUNDARY (R21, R154, R235): frame `k` of a live encode channel or of a decode channel begins in this Stroke. -/
def execFrameBoundary (handle k : Nat) (s : State) : Host.Outcome State Fault Refusal :=
  s.lift fun d =>
    if 0x100 ≤ handle ∧ handle < 0x200 then
      let c := handle - 0x100
      match (d.enc? c).bind fun x => (cfgFor x.cfgs k).map fun p => (x, p.2) with
      | none => d
      | some (x, g) => if g.live ∧ x.first ≤ k ∧ frameStroke g.num g.den k = d.now then d.encFrame c k else d
    else if 0x200 ≤ handle ∧ handle < 0x240 then
      let c := handle - 0x200
      match d.dec? c with
      | none => d
      | some x => if frameStroke x.cfg.num x.cfg.den k = d.now then d.decFrame c k else d
    else d

end Sys2Proof.Machine
end

