-- ==== Sys2Proof/Machine/AdmBase.lean ====
section
/-! DEFINITION. What every part of admission uses (R30–R33, R35, R43, R559): failures in their order, the configuration that a
commit is admitted against, loads of units and their budgets, memory, and flows. -/

namespace Sys2Proof.Machine

/-! ## Failures (R43, R559) -/

/-- A test that a commit fails: the reason, the handle of the object, CLASS and INDEX, and the Crews whose own objects use that
resource (R560). -/
structure Fail where
  reason : Nat
  obj : Nat := 0
  cls : Nat := 0
  idx : Nat := 0
  crews : List Nat := []
  deriving DecidableEq, Repr

/-- The place of a reason in the order of R559. -/
def reasonPlace (r : Nat) : Nat :=
  ([0x0D, 0x0A, 0x0C, 0x0F, 0x0E, 0x10, 0x09, 0x08, 0x07, 0x02, 0x06, 0x01, 0x03, 0x04, 0x05, 0x0B, 0x11].idxOf r)

/-- Whether a failure is reported before another (R559). -/
def Fail.before (a b : Fail) : Bool :=
  let k (f : Fail) : List Nat := [reasonPlace f.reason, f.obj, f.cls, f.idx]
  decide (k a < k b)

/-- The failure that is reported. -/
def firstFail : List Fail → Option Fail
  | [] => none
  | a :: l => some (l.foldl (fun m b => if b.before m then b else m) a)

/-- A FORMAT failure of an object, where a condition holds. -/
def formatFail (bad : Bool) (obj : Nat) : List Fail := if bad then [{ reason := 0x08, obj := obj }] else []

/-- An OWNER failure of an object, where a condition holds. -/
def ownerFail (bad : Bool) (obj : Nat) : List Fail := if bad then [{ reason := 0x09, obj := obj }] else []

/-! ## Configurations (R34, R35) -/

/-- Takes some bits of a word into a register. -/
def Dev.takeBits (d : Dev) (p : Nat × Word × Word) : Dev := d.setReg p.1 (mergeWord p.2.1 p.2.2 (d.reg p.1))

/-- The registers as a commit leaves them: its staged fields, then what admission decided. -/
def Dev.withCommit (d : Dev) (c : Commit) : Dev :=
  c.place.regs.foldl Dev.takeBits (c.writes.foldl (fun d w => d.takeBits (w.1, rcMask w.1, w.2)) d)

/-- The registers with every commit accepted ahead in effect (R35). -/
def Dev.ahead (d : Dev) : Dev := d.stk.accepted.foldl Dev.withCommit d

/-- What the newest accepted commit decided of an object, where one did. -/
def Dev.placedAhead {α : Type} (d : Dev) (sel : Placement → List (Nat × α)) (i : Nat) : Option α :=
  d.stk.accepted.reverse.findSome? fun m => ((sel m.place).find? fun q => q.1 = i).map (·.2)

/-- The settings of an encode channel as the configuration ahead has them. -/
def Dev.encAhead (d : Dev) (c : Nat) : Option EncCfg := (d.placedAhead (·.encs) c).or (d.encCfg? c)

/-- The settings of a decode channel as the configuration ahead has them. -/
def Dev.decAhead (d : Dev) (c : Nat) : Option DecCfg := (d.placedAhead (·.decs) c).or ((d.dec? c).map (·.cfg))

/-- The settings of a programme as the configuration ahead has them. -/
def Dev.progAhead (d : Dev) (p : Nat) : Option ProgCfg := (d.placedAhead (·.progs) p).or ((d.prog? p).map (·.cfg))

/-- The settings of an audio group as the configuration ahead has them. -/
def Dev.audAhead (d : Dev) (g : Nat) : Option AudGrpCfg :=
  (d.placedAhead (·.auds) g).or ((Tab.get noGrp d.aud.groups g).map (·.cfg))

/-- The object of a flow as the configuration ahead has it. -/
def Dev.flowObjAhead (d : Dev) (f : Nat) : FlowObj := (d.placedAhead (·.flows) f).getD (d.flowObj f)

/-- Enabled encode channels. -/
def Dev.encsOn (d : Dev) : List Nat := d.enabledOf (Reg.encChCfg 0) 0x80 256

/-- Enabled decode channels. -/
def Dev.decsOn (d : Dev) : List Nat := d.enabledOf (Reg.decChCfg 0) 0x40 64

/-- Enabled programmes. -/
def Dev.progsOn (d : Dev) : List Nat := d.enabledOf (Reg.cmpProgCfg 0) 0x1000 16

/-- Enabled audio groups. -/
def Dev.groupsOn (d : Dev) : List Nat := d.enabledOf (Reg.audGrpCfg 0) 0x80 64

/-- The enabled layers of a programme. -/
def Dev.layersOn (d : Dev) (p : Nat) : List Nat := (List.range 16).filter fun l => bitAt (d.reg (Reg.cmpLayerCfg p l)).toNat 31

/-- The enabled taps of a programme, 0–3. -/
def Dev.tapsOn (d : Dev) (p : Nat) : List Nat := (List.range 4).filter fun t => bitAt (d.reg (Reg.cmpTapCfg p t)).toNat 31

/-! ## Budgets (R28–R30) -/

/-- What the items of an object ask of a unit (R30): the length of their admission window, and either the largest cost that
becomes due in one Stroke (`burst`), or for decode one item of `cost` a frame; `rate` is the cycles in 1,001 seconds, and
`cut` those under the search cut (R184). -/
structure Load where
  unit : Nat
  obj : Nat
  crew : Nat
  win : Nat
  burst : Nat
  cost : Nat
  num : Nat
  den : Nat
  rate : Nat
  cut : Nat
  deriving DecidableEq, Repr

/-- maxdem of R30. An item a frame falls at most ceil(n × rate) times within n consecutive Strokes. -/
def Load.maxdem (l : Load) (k : Nat) : Nat :=
  if k < l.win then 0 else if l.burst ≠ 0 then l.burst else l.cost * cdiv ((k + 1 - l.win) * l.num) (8000 * l.den)

/-- Whether loads together fit a unit's live cap (R30). -/
def loadsFit (cap : Nat) (l : List Load) : Bool :=
  (List.range (maxBy (·.win) l)).all (fun k => decide (sumBy (fun x => x.maxdem (k + 1)) l ≤ (k + 1) * cap)) &&
    decide (sumBy (·.rate) l ≤ 8000 * cap * 1001)

/-- The largest sum of the costs that fall in one Stroke, of (Stroke, cost) pairs in order. -/
def largestBurst (l : List (Nat × Nat)) : Nat :=
  (l.foldl (fun (s : Nat × Nat × Nat) p =>
    let a := if p.1 = s.1 then s.2.1 + p.2 else p.2
    (p.1, a, max s.2.2 a)) (0, 0, 0)).2.2

/-- The most of some Strokes, in order, that lie within `w` Strokes of one another (R58). -/
def openMost (w : Nat) : List Nat → Nat
  | [] => 0
  | x :: r => max (1 + (r.takeWhile fun y => decide (y ≤ x + w)).length) (openMost w r)

/-- The live cap in force (R24, R42). -/
def Dev.liveCap (d : Dev) : Nat := d.fld Reg.stkBudgetCfg F.stkBudgetCfg_liveCap

/-- The live cap of a unit (R25). -/
def Dev.unitCap (d : Dev) (u : Nat) : Nat := if u < 32 then d.liveCap else 125000

/-- The owner of a Seat, decode Seat or packetiser. -/
def Dev.unitOwner (d : Dev) (u : Nat) : Nat :=
  d.owner (if u < 32 then 0x0C else if u < 40 then 0x0D else 0x0E) (unitNo u)

/-- Whether a flow of a Crew may be homed on a unit (R441). Best-effort flows of a Crew with BE_PRIVATE keep off shared Seats
and decode Seats (R453). -/
def Dev.mayHome (d : Dev) (u crew : Nat) (live : Bool) : Bool :=
  let o := d.unitOwner u
  o == crew || (o == 0x1E && (live || 40 ≤ u || !d.flag (Reg.secCrewPolicy crew) F.secCrewPolicy_bePrivate))

/-- CLASS of a unit in STK_COMMIT_DETAIL: 1 Seat, 2 decode Seat, 3 pipe, 7 Cox for the rest. -/
def unitClass (u : Nat) : Nat := if u < 32 then 1 else if u < 40 then 2 else if u < 56 then 3 else 7

/-! ## What admission has gathered -/

/-- HBM that an object takes: its handle, its Crew, the sizes of its parts in bytes, and its traffic in bytes a second. -/
structure MemUse where
  obj : Nat
  crew : Nat
  parts : List Nat
  traffic : Nat
  deriving DecidableEq, Repr

/-- A flow that an object or a driver has: its number, home unit, whether it is live, and its reserved entries. -/
structure FlowUse where
  flow : Nat
  unit : Nat
  live : Bool
  reserve : Nat
  deriving DecidableEq, Repr

/-- Admission under way: the configuration ahead, the configuration that the commit makes, the function that commits, the
handles of the objects that the commit writes, and what has been decided so far. -/
structure Adm where
  old : Dev
  new : Dev
  fn : Nat
  touched : List Nat
  fails : List Fail := []
  place : Placement := {}
  loads : List Load := []
  mem : List MemUse := []
  flows : List FlowUse := []
  taken : List Nat := []
  scalers : List Nat := []
  encs : List (Nat × EncCfg) := []
  decs : List (Nat × DecCfg) := []
  progs : List (Nat × ProgCfg) := []
  auds : List (Nat × AudGrpCfg) := []
  host : Nat × Nat := (0, 0)

/-- Adds failures. -/
def Adm.fail (a : Adm) (l : List Fail) : Adm := { a with fails := a.fails ++ l }

/-- Adds register values that take effect with the commit. -/
def Adm.put (a : Adm) (l : List (Nat × Word × Word)) : Adm := { a with place := { a.place with regs := a.place.regs ++ l } }

/-- All bits of a register. -/
def wholeWord : Word := 0xFFFFFFFF

/-- A read-only register takes a value: the fields with their values, all other bits kept. -/
def setFields (addr : Nat) (l : List (Fld × Nat)) : Nat × Word × Word :=
  (addr, BitVec.ofNat 32 (sumBy (fun p => p.1.mask) l), l.foldl (fun w p => p.1.set w p.2) 0)

/-- The flows that valid classifier entries name (R355). -/
def Dev.classedFlows (d : Dev) : List Nat :=
  (d.enabledOf (Reg.egsClsKey 0) 0x20 4096).map fun e => d.fld (Reg.egsClsFlow e) F.egsClsFlow_flow

/-- The flows that objects of the new configuration name as sources or that classifier entries name (R439). -/
def Dev.namedFlows (d : Dev) : List Nat :=
  (d.encsOn.flatMap fun c =>
    (if d.fld (Reg.encChSrc c) F.encChSrc_srcType = 1 then [d.fld (Reg.encChSrc c) F.encChSrc_srcIndex] else []) ++
      (if d.flag (Reg.encChSei c) F.encChSei_captions then [d.fld (Reg.encChSei c) F.encChSei_captionFlow] else [])) ++
  (d.decsOn.map fun c => d.fld (Reg.decChSrc c) F.decChSrc_flow) ++
  (d.progsOn.flatMap fun p => (d.layersOn p).filterMap fun l =>
    if d.fld (Reg.cmpLayerCfg p l) F.cmpLayerCfg_srcType = 1 then some (d.fld (Reg.cmpLayerSrc p l) F.cmpLayerSrc_srcIndex)
    else none) ++
  ((d.enabledOf (Reg.audNetiCfg 0) 0x10 256).map fun s => d.fld (Reg.audNetiCfg s) F.audNetiCfg_flow) ++
  d.classedFlows

/-- The lowest free flows that the Charter gives a Crew, `n` of them, if there are so many (R439). -/
def Adm.freeFlows (a : Adm) (named : List Nat) (crew n : Nat) : Option (List Nat) :=
  let busy := a.taken ++ a.old.flowsOn ++ a.new.flowsOn ++ named
  let l := ((List.range 4096).filter fun f => a.new.owner 4 f == crew && !busy.contains f).take n
  if l.length = n then some l else none

/-- The registers of a flow that an object makes (R158): the preset with its fields, deadlines and home; MIGRATE is kept. -/
def flowWords (f crew preset cls rank : Nat) (live : Bool) (subst need reserve rel fin home : Nat) : List (Nat × Word × Word) :=
  let cfg := pack [(1, F.coxFlowCfg_enable.lo), (preset, F.coxFlowCfg_preset.lo), (cls, F.coxFlowCfg_resClass.lo),
    (rank, F.coxFlowCfg_rank.lo), (bit live, F.coxFlowCfg_live.lo), (1, F.coxFlowCfg_atomic.lo), (subst, F.coxFlowCfg_subst.lo),
    (need, F.coxFlowCfg_need.lo), (crew, F.coxFlowCfg_crew.lo), (reserve, F.coxFlowCfg_reserve.lo)]
  [(Reg.coxFlowCfg f, wholeWord, BitVec.ofNat 32 cfg),
   setFields (Reg.coxFlowDl f) [(F.coxFlowDl_relOff, rel), (F.coxFlowDl_finOff, fin)],
   setFields (Reg.coxFlowAff f) [(F.coxFlowAff_home, home)]]

/-- The registers of a flow whose object goes return to their reset values (R158). -/
def flowReset (f : Nat) : List (Nat × Word × Word) :=
  [Reg.coxFlowCfg f, Reg.coxFlowDl f, Reg.coxFlowAff f].map fun a => (a, wholeWord, regReset a)

/-- Records a flow of an object: its use, and where the object is new or changed its registers and its object. -/
def Adm.flow (a : Adm) (changed : Bool) (o : FlowObj) (ws : List (Nat × Word × Word)) (u : FlowUse) : Adm :=
  let a := { a with flows := u :: a.flows, taken := u.flow :: a.taken }
  if changed then { a with place := { a.place with regs := a.place.regs ++ ws, flows := (u.flow, o) :: a.place.flows } } else a

/-- A flow whose object goes (R158). -/
def Adm.dropFlow (a : Adm) (f : Nat) : Adm :=
  { (a.put (flowReset f)) with
    place := { (a.put (flowReset f)).place with flows := (f, FlowObj.none) :: (a.put (flowReset f)).place.flows } }

end Sys2Proof.Machine
end

