-- ==== Sys2Proof/Machine/AdmEnc.lean ====
section
/-! DEFINITION. Admission of encode channels (R124–R148, R158, R169–R184, R194–R214, R225): settings resolved from the staged
fields, the tests of each, and the placement on Seats. -/

namespace Sys2Proof.Machine

/-! ## Settings -/

/-- PROFILE AUTO (R125). -/
def autoProfile (vvc : Bool) (chroma : Nat) : Nat :=
  (((profilesOf vvc).filter fun p => p ≠ 1).find? fun p => decide (chroma ≤ profileChroma p)).getD 4

/-- The settings that the staged fields of a channel ask for; division, pieces and placement are left open. -/
def Dev.encAsk (n : Dev) (c tapUs : Nat) : EncCfg :=
  let cfg := n.reg (Reg.encChCfg c)
  let src := n.reg (Reg.encChSrc c)
  let me := n.reg (Reg.encChMe c)
  let rc := n.reg (Reg.encChRc c)
  let div := n.reg (Reg.encChDiv c)
  let code := n.reg (Reg.encChCode c)
  let hier := n.reg (Reg.encChMeHier c)
  let win := n.reg (Reg.encChMeWin c)
  let vvc := F.encChCfg_codec.get cfg = 1
  let live := F.encChCfg_live.get cfg = 1
  let cls := F.encChCfg_class.get cfg
  let srcFmt := F.encChSrc_srcFmt.get src
  let chroma := fmtChroma srcFmt
  let profile := if F.encChCfg_profile.get cfg = 0 then autoProfile vvc chroma else F.encChCfg_profile.get cfg
  let ctu := 16 * 2 ^ F.encChCfg_ctu.get cfg
  let rate := F.encChRate_bitRate.get (n.reg (Reg.encChRate c))
  let target := F.encChTarget_targetRate.get (n.reg (Reg.encChTarget c))
  let vbr := F.encChRc_mode.get rc = 1
  let rolling := F.encChCode_refresh.get code = 1
  let headN := F.encChCfg_headN.get cfg
  let refs := F.decPoolCfg_refCount.get (n.reg (Reg.decPoolCfg c))
  let ctuCost := ctu * ctu * (if vvc then 2 else 1)
  { crew := n.owner 1 c, live := live, cls := cls, vvc := vvc, profile := profile, tier := F.encChCfg_tier.get cfg,
    level := F.encChCfg_level.get cfg, ctu := ctu, headN := headN,
    width := F.encChFmt_width.get (n.reg (Reg.encChFmt c)), height := F.encChFmt_height.get (n.reg (Reg.encChFmt c)),
    num := F.encChTime_num.get (n.reg (Reg.encChTime c)), den := F.encChTime_den.get (n.reg (Reg.encChTime c)),
    hostCopy := F.encChSrc_hostCopy.get src = 1, srcType := F.encChSrc_srcType.get src, srcFmt := srcFmt,
    srcIndex := F.encChSrc_srcIndex.get src, chroma := min chroma (profileChroma profile), division := 0, pieces := 0,
    firstSeat := 0,
    asked := (F.encChDiv_division.get div, F.encChDiv_pieces.get div, F.encChDiv_firstReq.get div), tapUs := tapUs,
    subpic := F.encChDiv_subpic.get div = 1, irapPeriod := F.encChCode_irapPeriod.get code, rolling := rolling,
    rollFrames := if rolling then F.encChCode_rollFrames.get code else 16,
    toolOff := Nat.land (F.encChToolOff_toolOff.get (n.reg (Reg.encChToolOff c))) (if vvc then 0xFFFF00 else 0x3F),
    sei := n.reg (Reg.encChSei c), meMode := F.encChMe_mode.get me, refs := F.encChMe_refs.get me,
    haloShare := F.encChMe_haloShare.get me = 1,
    hierH := F.encChMeHier_hierH.get hier, hierV := F.encChMeHier_hierV.get hier, winH := F.encChMeWin_winH.get win,
    winV := F.encChMeWin_winV.get win, winS := F.encChMeWin_winS.get win, vbr := vbr,
    scenecut := F.encChRc_scenecut.get rc = 1, cutIrap := F.encChRc_cutIrap.get rc = 1, qpMin := F.encChRc_qpMin.get rc,
    qpMax := min (F.encChRc_qpMax.get rc) (qpTop vvc), rate := rate,
    target := if !vbr then rate else if target = 0 then 3 * rate / 4 else target,
    refCount := if refs = 0 then (if cls = 2 then clog2 headN + 1 else 2) else refs, flows := [], pktFlow := 0, pkt := 0,
    segCtus := if live || ctuCost = 0 then 0 else n.fld Reg.coxBeCfg F.coxBeCfg_quantum / ctuCost }

/-- Whether a number lies from `lo` to `hi` in steps of 16. -/
def step16 (lo hi v : Nat) : Bool := decide (lo ≤ v ∧ v ≤ hi) && v % 16 = 0

/-- Whether a size is one that R248 and ENC_CH_FMT allow. -/
def sizeBad (w h : Nat) : Bool :=
  decide (w < 128 ∨ 8192 < w ∨ h < 128 ∨ 4352 < h) || w % 8 ≠ 0 || h % 8 ≠ 0 || decide (35651584 < w * h)

/-- Whether the fields of a channel alone are refused with FORMAT, its division apart. -/
def Dev.encFieldsBad (n : Dev) (c : Nat) (g : EncCfg) : Bool :=
  let rawProfile := n.fld (Reg.encChCfg c) F.encChCfg_profile
  let rawRefresh := n.fld (Reg.encChCode c) F.encChCode_refresh
  decide (8 < n.fld (Reg.encChCfg c) F.encChCfg_preset) || g.cls = 3 ||
    (rawProfile ≠ 0 && !(profilesOf g.vvc).contains rawProfile) || (g.level ≠ 0 && (levelRow? g.vvc g.level).isNone) ||
    !(if g.vvc then [64, 128] else [32, 64]).contains g.ctu ||
    (if g.cls = 2 then decide (g.headN < 2 ∨ 16 < g.headN) else g.headN ≠ 0) || sizeBad g.width g.height ||
    !frameRates.contains (g.num, g.den) || !(if g.live then [1, 2, 3] else [1, 2, 3, 4]).contains g.srcType ||
    decide (4 < g.srcFmt ∨ 1 < rawRefresh) || (g.rolling && decide (g.rollFrames < 2)) ||
    decide (2 < g.meMode ∨ g.refs < 1 ∨ 4 < g.refs ∨ 3 < n.fld (Reg.encChMe c) F.encChMe_preset) ||
    !step16 16 2048 g.hierH || !step16 16 1024 g.hierV || !step16 16 1024 g.winH || !step16 16 256 g.winV ||
    decide (g.winS < 1 ∨ 8 < g.winS) || (g.meMode = 2 && decide (g.winH < g.hierH ∨ g.winV < g.hierV)) ||
    decide (2 < n.fld (Reg.encChRc c) F.encChRc_preset) || g.rate = 0 || decide (1000000 < g.rate ∨ g.rate < g.target) ||
    decide (g.qpMax < g.qpMin) || (g.live && g.cls = 0 && decide (257 < g.height / max 1 (Nat.gcd g.ctu g.height))) ||
    (!g.live && g.segCtus = 0) || (g.cls = 2 && decide (g.refCount < clog2 g.headN + 1))

/-- Whether the division asked is refused with FORMAT (R131, ENC_CH_DIV). -/
def EncCfg.divisionBad (g : EncCfg) : Bool :=
  (g.asked.1 ≠ 0 && g.asked.2.1 = 0) || decide (8 < g.asked.2.1) || decide (32 ≤ g.asked.2.2 ∧ g.asked.2.2 ≤ 62)

/-! ## Division (R132, R135) -/

/-- Largest item cost of a piece (R132). DESIGN CHOICE (notes/assumptions/73.md): the two CTUs that a WAVEFRONT item costs beside its own
(R138) count. -/
def EncCfg.largestItem (g : EncCfg) (i : Nat) : Nat :=
  maxBy (fun b => if g.takes i b then g.itemCost i b else 0) (List.range g.bands)

/-- R132. -/
def EncCfg.piecesFit (g : EncCfg) (cap : Nat) : Bool :=
  !g.live || (List.range g.pieces).all fun i =>
    decide (g.largestItem i ≤ (if g.cls = 0 then cap else 2 * cap)) &&
      decide (per1001 g.num g.den (g.pieceCycles i) ≤ 8000 * 132812 * 1001)

/-- The division and pieces that the fields ask for, or that AUTO takes (R135). -/
def EncCfg.split (g : EncCfg) (cap : Nat) : EncCfg :=
  let p := g.asked.2.1
  if g.asked.1 ≠ 0 then { g with division := g.asked.1, pieces := p }
  else if p ≠ 0 then { g with division := 1, pieces := p }
  else if !g.live then { g with division := 1, pieces := 1 }
  else { g with division := 1
                pieces := (firstFrom (fun p => ({ g with division := 1, pieces := p } : EncCfg).piecesFit cap) 8 1).getD 1 }

/-- Slices or slice segments of a picture (R135, R136). -/
def EncCfg.sliceCount (g : EncCfg) : Nat :=
  if g.division = 3 then g.bands
  else if g.division = 2 then (if !g.vvc && g.cls = 0 then g.bands else 1)
  else if g.cls = 0 then g.pieces * g.bands else if g.vvc then g.pieces else 1

/-- Tile columns of a picture; HEVC Sprint uses no tiles. -/
def EncCfg.tileCount (g : EncCfg) : Nat := if g.division = 1 && (g.vvc || g.cls ≠ 0) then g.pieces else 1

/-- Whether a level allows the channel (R125). -/
def EncCfg.levelOk (g : EncCfg) (r : LevelRow) : Bool :=
  let br := if g.tier = 1 then r.br.2 else r.br.1
  let cpb := if g.tier = 1 then r.cpb.2 else r.cpb.1
  let f := nalFactor g.vvc g.profile
  decide (g.width * g.height ≤ r.lumaPs ∧ g.width * g.width ≤ 8 * r.lumaPs ∧ g.height * g.height ≤ 8 * r.lumaPs ∧
    g.width * g.height * g.num ≤ r.lumaSr * g.den ∧ g.bps ≤ f * br ∧ g.cpb ≤ f * cpb ∧ g.sliceCount ≤ r.slices ∧
    g.tileCount ≤ r.tileCols ∧ g.tileCount ≤ r.tiles)

/-- The level in force: the one named, or the lowest that allows the channel (R125). -/
def EncCfg.levelFor (g : EncCfg) : Option LevelRow :=
  if g.level = 0 then (levelsOf g.vvc).find? g.levelOk else (levelRow? g.vvc g.level).filter g.levelOk

/-- Whether a divided channel breaks R135, R171, R199, R214 or R225, all refused with FORMAT: those that name no resource, and
those that name the Seat of piece 0. -/
def EncCfg.dividedBad (g : EncCfg) : Bool × Bool :=
  let narrow := g.division = 1 && (List.range g.pieces).any fun i => decide (g.pieceWidth i < (if g.pieces = 1 then 128 else 256))
  let dpb := match levelRow? g.vvc g.level with
    | none => true
    | some r => decide (maxDpb g.vvc r (g.width * g.height) < g.refCount + 1)
  (narrow || (g.division = 2 && g.vvc && g.cls = 0) || dpb,
   decide (g.searchBudget < g.units ∨ g.searchBudget / 2 < g.cutUnits ∨ 2097152 < g.windowBytes * g.refs) ||
     (g.live && !g.slotsHold))

/-- Whether a reference token would come after the release deadline of its band (R143). -/
def EncCfg.refTooLate (g : EncCfg) : Bool :=
  g.live && g.cls = 0 && (List.range (repFrames g.num g.den)).any fun j => (List.range g.bands).any fun b =>
    decide (g.release (j + 1) b + 1 < g.refToken (j + 1) b)

/-! ## Loads and flows -/

/-- The (Stroke, cost) of a piece's items over one repetition and a frame more. -/
def EncCfg.releases (g : EncCfg) (i : Nat) : List (Nat × Nat) :=
  (List.range (repFrames g.num g.den + 1)).flatMap fun j => (List.range g.bands).filterMap fun b =>
    if g.takes i b then some (g.release j b, g.itemCost i b) else none

/-- The live loads of a channel on its Seats (R30, R184). -/
def EncCfg.loads (g : EncCfg) (c : Nat) : List Load :=
  if !g.live then []
  else (List.range g.pieces).map fun i =>
    let cut := sumBy (fun b => if g.takes i b then cutCost (g.itemCost i b) else 0) (List.range g.bands)
    { unit := g.firstSeat + i, obj := 0x100 + c, crew := g.crew, win := 3, burst := largestBurst (g.releases i), cost := 0,
      num := 0, den := 1, rate := per1001 g.num g.den (g.pieceCycles i), cut := per1001 g.num g.den cut }

/-- RESERVE of a piece's flow (R58). -/
def EncCfg.reserve (g : EncCfg) (i : Nat) : Nat := if g.live then openMost 2 ((g.releases i).map (·.1)) + 1 else 0

/-- RESERVE of the PACKETISE flow, which is live on every channel (R58, R84): its items follow the bands of every piece. -/
def EncCfg.packReserve (g : EncCfg) : Nat := maxBy (fun i => openMost 2 ((g.releases i).map (·.1)) + 1) (List.range g.pieces)

/-- NEED of the PACKETISE flow (R141): one bit for each tile up to four, one for each pair of tiles above, and one bit under
WAVEFRONT and SLICES. -/
def EncCfg.packNeed (g : EncCfg) : Nat :=
  if g.division ≠ 1 then 1 else if g.pieces ≤ 4 then 2 ^ g.pieces - 1 else 2 ^ cdiv g.pieces 2 - 1

/-! ## Placement on Seats (R133, R441) -/

/-- Encode flows homed on a Seat. -/
def Adm.homed (a : Adm) (u : Nat) : Nat := (a.flows.filter fun f => f.unit = u).length

/-- The first test that a channel's run of Seats fails: reason and Seat. -/
def Adm.runFails (a : Adm) (c : Nat) (g : EncCfg) : Option (Nat × Nat) :=
  let seats := (List.range g.pieces).map (g.firstSeat + ·)
  let loads := g.loads c
  let cap := a.new.liveCap
  ((seats.find? fun u => !a.new.mayHome u g.crew g.live).map fun u => (0x09, u)).or
    (((seats.find? fun u => decide (16 ≤ a.homed u)).map fun u => (0x07, u)).or
      ((seats.find? fun u => !loadsFit cap ((loads ++ a.loads).filter fun l => l.unit = u)).map fun u => (0x01, u)))

/-- The runs of Seats to try, lowest first: the one asked for, or every run within one Eight. -/
def EncCfg.runs (g : EncCfg) : List Nat :=
  if g.asked.2.2 < 32 then [g.asked.2.2]
  else (List.range 32).filter fun s => decide (s % 8 + g.pieces ≤ 8)

/-- A channel on the first of some runs that passes, or on the first with its failure. -/
def Adm.tryRuns (a : Adm) (c : Nat) (g : EncCfg) (l : List Nat) : EncCfg × Option (Nat × Nat) :=
  match l.find? fun s => (a.runFails c { g with firstSeat := s }).isNone with
  | some s => ({ g with firstSeat := s }, none)
  | none =>
    let s := l.headD 0
    ({ g with firstSeat := s }, a.runFails c { g with firstSeat := s })

/-- The settings a channel resolves to, before its place, with the tests it fails so far. `kept` holds its division and pieces
when it keeps them. -/
def Adm.encResolve (a : Adm) (c : Nat) (kept : Option EncCfg) : EncCfg × List Fail :=
  let h := 0x100 + c
  let tapUs := a.progs.findSome? fun p => (p.2.taps.find? fun t =>
    a.new.fld (Reg.encChSrc c) F.encChSrc_srcType = 2 && t.tap = a.new.fld (Reg.encChSrc c) F.encChSrc_srcIndex).map (·.us)
  let g := a.new.encAsk c (tapUs.getD 0)
  if a.new.encFieldsBad c g || g.divisionBad then (g, formatFail true h)
  else
    let g : EncCfg := match kept with
      | some o => { g with division := o.division, pieces := o.pieces, firstSeat := o.firstSeat, flows := o.flows,
                           pktFlow := o.pktFlow, pkt := o.pkt }
      | none => g.split a.new.liveCap
    let outside := decide (g.asked.2.2 < 32 ∧ 8 < g.asked.2.2 % 8 + g.pieces)
    match g.levelFor with
    | none => (g, formatFail true h)
    | some r =>
      let g := { g with level := r.idc }
      let bad := g.dividedBad
      let floor := maxBy (fun i => g.floorPass i 0) (List.range g.pieces)
      let stake := (!g.piecesFit a.new.liveCap) || g.refTooLate
      (g, formatFail (bad.1 || outside || (g.live && decide (5 * a.new.fld Reg.coxFinishCfg F.coxFinishCfg_marginNs < 4 * floor))) h ++
        (if stake then [{ reason := 0x06, obj := h }] else []))

/-- Sources of a channel: what it names must be its Crew's (R439), and a tap or decode channel must agree with it (R242,
R279, R288). -/
def Adm.encSource (a : Adm) (c : Nat) (g : EncCfg) : List Fail :=
  let h := 0x100 + c
  let n := a.new
  let i := g.srcIndex
  let same (cls i : Nat) : Bool := n.owner cls i == g.crew
  (match g.srcType with
   | 1 => if 4096 ≤ i then formatFail true h else ownerFail (!same 4 i) h
   | 2 =>
     if 64 ≤ i then formatFail true h
     else
       let t := (a.progs.findSome? fun p => p.2.taps.find? fun t => t.tap = i)
       let rate := (a.progs.find? fun p => p.1 = i / 4).map fun p => (p.2.num, p.2.den)
       let shared := n.encsOn.any fun e => e ≠ c && n.fld (Reg.encChSrc e) F.encChSrc_srcType = 2 &&
         n.fld (Reg.encChSrc e) F.encChSrc_srcIndex = i
       ownerFail (!same 3 (i / 4)) h ++
         formatFail (shared || rate ≠ some (g.num, g.den) || t.map (fun t => (t.w, t.h, t.fmt)) ≠ some (g.width, g.height, g.srcFmt)) h
   | 3 =>
     if 64 ≤ i then formatFail true h
     else
       ownerFail (!same 2 i) h ++
         formatFail (!(n.reg (Reg.decChFmt i) == n.reg (Reg.encChFmt c) && n.reg (Reg.decChTime i) == n.reg (Reg.encChTime c) &&
           g.srcFmt == (if n.flag (Reg.decChCfg i) F.decChCfg_chroma then 0 else 4))) h
   | _ => formatFail (i ≠ 0x400 + c) h) ++
  ownerFail (F.encChSei_captions.get g.sei = 1 && !same 4 (F.encChSei_captionFlow.get g.sei)) h

/-- The read-only registers of a channel in force. -/
def EncCfg.shown (g : EncCfg) (c : Nat) : List (Nat × Word × Word) :=
  [setFields (Reg.encChResolved c) [(F.encChResolved_levelIdc, g.level), (F.encChResolved_profile, g.profile),
     (F.encChResolved_division, g.division), (F.encChResolved_pieces, g.pieces), (F.encChResolved_firstSeat, g.firstSeat),
     (F.encChResolved_ctu, Nat.log2 g.ctu - 4)],
   setFields (Reg.encChStatus c) [(F.encChStatus_loadMilli, g.loadMilli)],
   setFields (Reg.encChMeCost c) [(F.encChMeCost_units, g.units), (F.encChMeCost_cutUnits, g.cutUnits)],
   setFields (Reg.encChMeMem c) [(F.encChMeMem_winKib, cdiv (g.windowBytes * g.refs) 1024), (F.encChMeMem_budget, g.searchBudget)],
   setFields (Reg.encChCpb c) [(F.encChCpb_cpbBits, g.cpb)],
   setFields (Reg.encChSlot c) [(F.encChSlot_tickDiv, g.tickDiv), (F.encChSlot_slotMinBytes, if g.live then g.slotMin else 0)],
   setFields (Reg.encChFloor c) [(F.encChFloor_floorBits, if g.live then g.floorBits else 0),
     (F.encChFloor_hdrBits, if g.live then min 0xFFFF g.hdrBits else 0)],
   setFields (Reg.decPoolSize c) [(F.decPoolSize_bufKib, g.bufBytes / 1024)]]

/-- The read-only registers of a channel that is disabled. -/
def encHidden (c : Nat) : List (Nat × Word × Word) :=
  [setFields (Reg.encChStatus c) [(F.encChStatus_loadMilli, 0)]] ++
  [Reg.encChResolved c, Reg.encChMeCost c, Reg.encChMeMem c, Reg.encChCpb c, Reg.encChSlot c, Reg.encChFloor c,
   Reg.decPoolSize c].map fun a => (a, wholeWord, 0)

/-- The lowest packetiser that takes flows of a Crew (R51, R441). -/
def Dev.packFor (n : Dev) (crew : Nat) : Option Nat := (List.range 16).find? fun k => n.mayHome (56 + k) crew true

/-- A channel takes its place: loads, flows and their registers, memory and host traffic (R117, R141, R158, R223). `old` is how
the configuration ahead has it. -/
def Adm.encTake (a : Adm) (c : Nat) (old : Option EncCfg) (g : EncCfg) : Adm :=
  let changed := decide (old ≠ some g)
  let tap := g.srcType = 2
  let a := { a with encs := a.encs ++ [(c, g)], loads := a.loads ++ g.loads c, host := (a.host.1, a.host.2 + g.hostMBps)
                    mem := a.mem ++ [(⟨0x100 + c, g.crew, [(g.refCount + 1) * g.bufBytes], g.hbmTraffic⟩ : MemUse)] }
  let a := (List.range g.pieces).foldl (fun a i =>
    let f := g.flows.getD i 0
    a.flow changed (.encPiece c i) (flowWords f g.crew (if g.live then 1 else 6) 0 3 g.live (if g.live then 1 else 0)
      (if tap then 15 else 7) (g.reserve i) 1 2 (g.firstSeat + i)) ⟨f, g.firstSeat + i, g.live, g.reserve i⟩) a
  let r := g.packReserve
  let a := a.flow changed (.encPkt c) (flowWords g.pktFlow g.crew 5 3 4 true 0 g.packNeed r 1 2 g.pkt)
    ⟨g.pktFlow, 56 + g.pkt, true, r⟩
  if changed then
    { (a.put (g.shown c)) with place := { (a.put (g.shown c)).place with encs := (a.put (g.shown c)).place.encs ++ [(c, g)] } }
  else a

/-- What R171 or R214 refuses: FORMAT with the Seat of piece 0. -/
def EncCfg.seatFormat (g : EncCfg) (c : Nat) : List Fail :=
  if g.dividedBad.2 then [{ reason := 0x08, obj := 0x100 + c, cls := 1, idx := g.firstSeat, crews := [g.crew] }] else []

/-- One enabled channel is admitted (R30, R439). `old` is how the configuration ahead has it. -/
def Adm.encOne (a : Adm) (named : List Nat) (c : Nat) (old : Option EncCfg) : Adm :=
  let h := 0x100 + c
  let asked := (a.new.encAsk c 0).asked
  let tryKept := (old.filter fun o => o.asked = asked && o.crew = a.new.owner 1 c).bind fun o =>
    let r := a.encResolve c (some o)
    if r.2.isEmpty && (a.runFails c r.1).isNone then some r.1 else none
  match tryKept with
  | some g => (a.encTake c old g).fail (a.encSource c g ++ g.seatFormat c)
  | none =>
    let r := a.encResolve c none
    let a := a.fail (r.2 ++ a.encSource c r.1)
    if r.2.any fun f => f.reason = 0x08 then a
    else
      let t := a.tryRuns c r.1 r.1.runs
      let g := t.1
      let placed : List Fail := match t.2 with
        | some w => [{ reason := w.1, obj := h, cls := 1, idx := w.2, crews := [g.crew] }]
        | none => []
      let a := a.fail (placed ++ g.seatFormat c)
      match a.freeFlows named g.crew (g.pieces + 1), a.new.packFor g.crew with
      | none, _ => a.fail [{ reason := 0x07, obj := h, cls := 7, idx := 1, crews := [g.crew] }]
      | _, none => a.fail [{ reason := 0x09, obj := h }]
      | some l, some k => a.encTake c old { g with flows := l.take g.pieces, pktFlow := l.getD g.pieces 0, pkt := k }

/-- A lowered LIVE_CAP that the channels which keep their Seats exceed there (R41). -/
def Adm.capLowered (a : Adm) (was : List (Nat × EncCfg)) : List Fail :=
  if a.old.liveCap ≤ a.new.liveCap then []
  else
    let kept := was.filter fun w => a.new.encsOn.contains w.1 && w.2.asked = (a.new.encAsk w.1 0).asked
    let loads := kept.flatMap fun w => (a.encResolve w.1 (some w.2)).1.loads w.1
    (List.range 32).filterMap fun u =>
      let l := loads.filter fun x => x.unit = u
      if loadsFit a.new.liveCap l then none
      else some { reason := 0x01, cls := 1, idx := u, crews := (l.map (·.crew)).eraseDups }

/-- Every enabled encode channel: those that stay enabled first, then the others (R439). One that goes gives up its flows at the
effect Stroke; one that is placed afresh keeps its old flows until the frames of its old settings are over (R81, R154). -/
def Adm.encAll (a : Adm) (d : Dev) : Adm :=
  let on := a.new.encsOn
  let was := a.old.encsOn.filterMap fun c => (d.encAhead c).map fun g => (c, g)
  let named := a.old.namedFlows ++ a.new.namedFlows
  let stay := on.filter fun c => was.any fun w => w.1 = c
  let fresh := on.filter fun c => !was.any fun w => w.1 = c
  let a : Adm := { a with taken := (was.flatMap fun w => w.2.pktFlow :: w.2.flows) ++ a.taken }
  let a : Adm := a.fail (a.capLowered was)
  let a := stay.foldl (fun a c => a.encOne named c ((was.find? fun w => w.1 = c).map (·.2))) a
  let a := fresh.foldl (fun a c => a.encOne named c none) a
  let a := was.foldl (fun a w =>
    if on.contains w.1 then a else (w.2.pktFlow :: w.2.flows).foldl Adm.dropFlow (a.put (encHidden w.1))) a
  if 256 < on.length then a.fail [{ reason := 0x07 }] else a

end Sys2Proof.Machine
end

