-- ==== Sys2Proof/Machine/AdmDec.lean ====
section
/-! DEFINITION. Admission of decode channels (R228–R236, R242, R557). -/

namespace Sys2Proof.Machine

/-- The words whose change restarts a decode channel (R557). -/
def Dev.decRaw (n : Dev) (c : Nat) : List Word :=
  [n.reg (Reg.decChCfg c), n.reg (Reg.decChFmt c), n.reg (Reg.decChTime c), n.reg (Reg.decChSrc c), n.reg (Reg.decChRate c),
   n.reg (Reg.decChTiming c)]

/-- Consumers of a decode channel as staged: layers and encode channels that name it (R236, R242). -/
def Dev.consumersAsked (n : Dev) (c : Nat) : Nat :=
  (n.encsOn.filter fun e => n.fld (Reg.encChSrc e) F.encChSrc_srcType = 3 && n.fld (Reg.encChSrc e) F.encChSrc_srcIndex = c).length +
  sumBy (fun p => ((n.layersOn p).filter fun l => n.fld (Reg.cmpLayerCfg p l) F.cmpLayerCfg_srcType = 2 &&
    n.fld (Reg.cmpLayerSrc p l) F.cmpLayerSrc_srcIndex = c).length) n.progsOn

/-- The settings that the staged fields of a decode channel ask for. -/
def Dev.decAsk (n : Dev) (c : Nat) : DecCfg :=
  let cfg := n.reg (Reg.decChCfg c)
  let vvc := F.decChCfg_codec.get cfg = 1
  let profile := F.decChCfg_profile.get cfg
  let level := if F.decChCfg_level.get cfg = 0 then (if vvc then 86 else 156) else F.decChCfg_level.get cfg
  let w := F.encChFmt_width.get (n.reg (Reg.decChFmt c))
  let h := F.encChFmt_height.get (n.reg (Reg.decChFmt c))
  let num := F.encChTime_num.get (n.reg (Reg.decChTime c))
  let den := F.encChTime_den.get (n.reg (Reg.decChTime c))
  let top := match levelRow? vvc level with
    | some r => nalFactor vvc profile * (if r.br.2 = 0 then r.br.1 else r.br.2)
    | none => 0
  let rate := F.decChRate_maxRate.get (n.reg (Reg.decChRate c))
  let tim := n.reg (Reg.decChTiming c)
  let arrive := 10 * F.decChTiming_arriveOff.get tim
  let k := cdiv (w * h) 125000
  let win := if F.decChTiming_win.get tim = 0 then 2 * k + 2 else F.decChTiming_win.get tim
  { crew := n.owner 2 c, vvc := vvc, profile := profile, level := level, dpbMax := F.decChCfg_dpbMax.get cfg,
    reorder := F.decChCfg_reorder.get cfg, chroma := F.decChCfg_chroma.get cfg, gdrStart := F.decChCfg_gdrStart.get cfg = 1,
    gdrClears := F.decChCfg_gdrClears.get cfg = 1, width := w, height := h, num := num, den := den,
    flowIn := F.decChSrc_flow.get (n.reg (Reg.decChSrc c)), maxRate := if rate = 0 then top else 1000 * rate, arriveUs := arrive,
    win := win, pres := if num = 0 ∨ den = 0 then 0 else presOf num den arrive win + F.decChTiming_presAdd.get tim,
    consumers := n.consumersAsked c, dseat := 0, flow := 0, raw := n.decRaw c }

/-- Whether the fields of a decode channel are refused with FORMAT (R228). -/
def Dev.decBad (n : Dev) (c : Nat) (g : DecCfg) : Bool :=
  let level := match levelRow? g.vvc g.level with
    | none => true
    | some r => decide (r.lumaPs < g.width * g.height ∨ 8 * r.lumaPs < g.width * g.width ∨ 8 * r.lumaPs < g.height * g.height)
  decide (2 < n.fld (Reg.decChCfg c) F.decChCfg_preset) || !(if g.vvc then [2] else [1, 2, 3]).contains g.profile ||
    decide ((if g.vvc then 86 else 156) < g.level) || level || decide (g.dpbMax < 1 ∨ 16 < g.dpbMax ∨ g.dpbMax ≤ g.reorder) ||
    (g.chroma = 1 && (g.vvc || decide (g.profile < 3))) || sizeBad g.width g.height || decide (8912896 < g.width * g.height) ||
    !frameRates.contains (g.num, g.den) || decide (200000 < g.arriveUs)

/-- The load of a decode channel on its decode Seat (R229, R230). -/
def DecCfg.load (g : DecCfg) (c : Nat) : Load :=
  let rate := per1001 g.num g.den g.cost
  { unit := 32 + g.dseat, obj := 0x200 + c, crew := g.crew, win := g.win + 1, burst := 0, cost := g.cost, num := g.num,
    den := g.den, rate := rate, cut := rate }

/-- RESERVE of a decode flow (R58). -/
def DecCfg.reserve (g : DecCfg) : Nat := min 255 (cdiv ((g.win + 1) * g.num) (8000 * g.den) + 1)

/-- The first test that a decode channel fails on its decode Seat. -/
def Adm.dseatFails (a : Adm) (c : Nat) (g : DecCfg) : Option Nat :=
  let u := 32 + g.dseat
  if !a.new.mayHome u g.crew true then some 0x09
  else if 16 ≤ a.homed u then some 0x07
  else if !loadsFit 125000 (g.load c :: a.loads.filter fun l => l.unit = u) then some 0x01 else none

/-- The read-only registers of a decode channel in force. -/
def DecCfg.shown (g : DecCfg) (c : Nat) : List (Nat × Word × Word) :=
  [setFields (Reg.decChResolved c) [(F.decChResolved_win, g.win), (F.decChResolved_relOff, g.relOff),
     (F.decChResolved_pres, g.pres), (F.decChResolved_buffers, g.buffers), (F.decChResolved_dseat, g.dseat)],
   setFields (Reg.decChStatus c) [(F.decChStatus_loadMilli, g.loadMilli)],
   setFields (Reg.decPoolSize (256 + c)) [(F.decPoolSize_bufKib, g.bufBytes / 1024)]]

/-- The read-only registers of a decode channel that is disabled. -/
def decHidden (c : Nat) : List (Nat × Word × Word) :=
  [setFields (Reg.decChStatus c) [(F.decChStatus_loadMilli, 0)], (Reg.decChResolved c, wholeWord, 0),
   (Reg.decPoolSize (256 + c), wholeWord, 0)]

/-- A decode channel takes its place (R84, R226, R227). -/
def Adm.decTake (a : Adm) (d : Dev) (c : Nat) (old : Option DecCfg) (g : DecCfg) : Adm :=
  let changed := decide (old ≠ some g)
  let held := if changed && (old.map (·.raw)) ≠ some g.raw then
      match d.pool? (256 + c) with
      | some p => [(p.buffers.filter fun b => b.hold ≠ 0).length * p.bytes]
      | none => []
    else []
  let decs := a.decs.map fun (p : Nat × DecCfg) => if p.1 = c then (c, g) else p
  let a : Adm := { a with decs := decs, loads := g.load c :: a.loads
                          mem := a.mem ++ [(⟨0x200 + c, g.crew, [g.buffers * g.bufBytes] ++ held, g.hbmTraffic⟩ : MemUse)] }
  let a := match old with
    | some o => if o.flow = g.flow then a else a.dropFlow o.flow
    | none => a
  let a := a.flow changed (.dec c) (flowWords g.flow g.crew 2 1 1 true 2 3 g.reserve g.relOff g.win g.dseat)
    ⟨g.flow, 32 + g.dseat, true, g.reserve⟩
  if changed then
    { (a.put (g.shown c)) with place := { (a.put (g.shown c)).place with decs := (a.put (g.shown c)).place.decs ++ [(c, g)] } }
  else a

/-- One enabled decode channel is admitted; `g` is what its fields ask for. -/
def Adm.decOne (a : Adm) (d : Dev) (named : List Nat) (c : Nat) (g : DecCfg) (old : Option DecCfg) : Adm :=
  let h := 0x200 + c
  let a := a.fail (ownerFail (a.new.owner 4 g.flowIn ≠ g.crew) h)
  if a.new.decBad c g then a.fail (formatFail true h)
  else
    let a := a.fail ((if g.win < g.costStrokes + 2 ∨ 255 < g.win then [{ reason := 0x06, obj := h }] else []) ++
      (if 24 < g.buffers ∨ 4 < g.consumers then [{ reason := 0x07, obj := h }] else []))
    let stays := old.filter fun o => o.raw = g.raw && o.crew = g.crew && (a.dseatFails c { g with dseat := o.dseat }).isNone
    match stays with
    | some o => a.decTake d c old { g with dseat := o.dseat, flow := o.flow }
    | none =>
      let seat := (List.range 8).find? fun s => (a.dseatFails c { g with dseat := s }).isNone
      let g := { g with dseat := seat.getD 0 }
      let a := match a.dseatFails c g with
        | some why => a.fail [{ reason := why, obj := h, cls := 2, idx := g.dseat, crews := [g.crew] }]
        | none => a
      match a.freeFlows named g.crew 1 with
      | some [f] => a.decTake d c old { g with flow := f }
      | _ => a.fail [{ reason := 0x07, obj := h, cls := 7, idx := 1, crews := [g.crew] }]

/-- The settings every enabled decode channel asks for, ahead of their admission. -/
def Adm.decAsked (a : Adm) : Adm := { a with decs := a.new.decsOn.map fun c => (c, a.new.decAsk c) }

/-- Every enabled decode channel, those that stay first; one that goes gives up its flow. -/
def Adm.decAll (a : Adm) (d : Dev) : Adm :=
  let was := a.old.decsOn.filterMap fun c => (d.decAhead c).map fun g => (c, g)
  let named := a.old.namedFlows ++ a.new.namedFlows
  let old (c : Nat) : Option DecCfg := (was.find? fun w => w.1 = c).map (·.2)
  let stay := a.decs.filter fun p => (old p.1).isSome
  let fresh := a.decs.filter fun p => (old p.1).isNone
  let a := { a with taken := was.map (·.2.flow) ++ a.taken }
  let a := (stay ++ fresh).foldl (fun a p => a.decOne d named p.1 p.2 (old p.1)) a
  was.foldl (fun a w => if a.decs.any fun p => p.1 = w.1 then a else (a.put (decHidden w.1)).dropFlow w.2.flow) a

end Sys2Proof.Machine
end

