-- ==== Sys2Proof/Machine/AdmCmp.lean ====
section
/-! DEFINITION. Admission of programmes (R248–R257, R267–R283): layers, scalers, lag, gang, taps and zones. -/

namespace Sys2Proof.Machine

/-! ## Settings -/

/-- The geometry and source that the staged fields of a layer ask for, in a programme of a size (R254, R255). -/
def Dev.layerAsk (n : Dev) (p l w h : Nat) : LayerCfg :=
  let cfg := n.reg (Reg.cmpLayerCfg p l)
  let src := n.reg (Reg.cmpLayerSrc p l)
  let size := n.reg (Reg.cmpLayerSize p l)
  let cxy := n.reg (Reg.cmpLayerCropXy p l)
  let cwh := n.reg (Reg.cmpLayerCropWh p l)
  let dxy := n.reg (Reg.cmpLayerDstXy p l)
  let dwh := n.reg (Reg.cmpLayerDstWh p l)
  let srcType := F.cmpLayerCfg_srcType.get cfg
  let srcW := if srcType = 5 then w else F.cmpLayerSize_w.get size
  let srcH := if srcType = 5 then h else F.cmpLayerSize_h.get size
  let cw := F.cmpLayerCropWh_w.get cwh
  let ch := F.cmpLayerCropWh_h.get cwh
  let dw := F.cmpLayerDstWh_w.get dwh
  let dh := F.cmpLayerDstWh_h.get dwh
  let wholeC := cw = 0 || ch = 0
  let wholeD := dw = 0 || dh = 0
  { layer := l, srcType := srcType, srcFmt := F.cmpLayerSrc_srcFmt.get src, srcIndex := F.cmpLayerSrc_srcIndex.get src,
    srcW := srcW, srcH := srcH, cropX := if wholeC then 0 else F.cmpLayerCropXy_x.get cxy,
    cropY := if wholeC then 0 else F.cmpLayerCropXy_y.get cxy, cropW := if wholeC then srcW else cw,
    cropH := if wholeC then srcH else ch, dstX := if wholeD then 0 else signed 16 (F.cmpLayerDstXy_x.get dxy),
    dstY := if wholeD then 0 else signed 16 (F.cmpLayerDstXy_y.get dxy), dstW := if wholeD then w else dw,
    dstH := if wholeD then h else dh, group := F.cmpLayerCfg_flipGroup.get cfg, miss := F.cmpLayerCfg_miss.get cfg,
    gamut := F.cmpLayerColour_gamut.get (n.reg (Reg.cmpLayerColour p l)), pair := F.cmpLayerCfg_pair.get cfg = 1,
    scaler := none, paired := false, lines := 0 }

/-- Whether the fields of a layer are refused with FORMAT (R255, R257, R267). -/
def Dev.layerBad (n : Dev) (p : Nat) (x : LayerCfg) : Bool :=
  decide (x.srcType < 1 ∨ 5 < x.srcType) || decide (4 < n.fld (Reg.cmpLayerColour p x.layer) F.cmpLayerColour_preset) ||
    (x.srcType = 1 && decide (4 < x.srcFmt ∨ 4095 < x.srcIndex)) ||
    ((x.srcType = 3 || x.srcType = 4) && decide (x.srcFmt < 8 ∨ 10 < x.srcFmt)) || (x.srcType = 5 && decide (4 < x.srcIndex)) ||
    (x.srcType = 2 && (decide (63 < x.srcIndex) || n.reg (Reg.decChFmt x.srcIndex) ≠ n.reg (Reg.cmpLayerSize p x.layer))) ||
    !ratioOk x.cropW x.dstW || !ratioOk x.cropH x.dstH || decide (x.srcW < x.cropX + x.cropW ∨ x.srcH < x.cropY + x.cropH)

/-- The settings that the staged fields of a tap ask for. -/
def Dev.tapAsk (n : Dev) (p t : Nat) : TapCfg :=
  let cfg := n.reg (Reg.cmpTapCfg p t)
  { tap := 4 * p + t, fmt := F.cmpTapCfg_fmt.get cfg, w := F.cmpTapFmt_w.get (n.reg (Reg.cmpTapFmt p t)),
    h := F.cmpTapFmt_h.get (n.reg (Reg.cmpTapFmt p t)), pair := F.cmpTapCfg_pair.get cfg = 1,
    us := F.cmpTapCfg_dTap.get cfg, lines := 0, paired := false }

/-- Gang codes: 1, 2 or 4 pipes; 0 is AUTO (R250). -/
def gangOf (code : Nat) : Nat := if code = 2 then 2 else if code = 3 then 4 else 1

/-- The settings that the staged fields of a programme ask for; lag, gang and scalers are left open. -/
def Dev.progAsk (n : Dev) (p : Nat) : ProgCfg :=
  let w := F.encChFmt_width.get (n.reg (Reg.cmpProgFmt p))
  let h := F.encChFmt_height.get (n.reg (Reg.cmpProgFmt p))
  let out := n.reg (Reg.cmpProgOut p)
  { crew := n.owner 3 p, gang := 1, width := w, height := h, num := F.encChTime_num.get (n.reg (Reg.cmpProgTime p)),
    den := F.encChTime_den.get (n.reg (Reg.cmpProgTime p)), form := F.cmpProgOut_form.get out,
    depth := F.cmpProgOut_depth.get out, lag := n.fld (Reg.cmpProgLag p) F.cmpProgLag_lagReq,
    arrive := n.fld (Reg.cmpProgLag p) F.cmpProgLag_arrive, egress := n.flag (Reg.cmpProgCfg p) F.cmpProgCfg_egress,
    queue := n.fld (Reg.cmpProgEgress p) F.cmpProgEgress_queue, zone := n.fld (Reg.cmpProgZone p) F.cmpProgZone_lines,
    zoneMax := n.fld (Reg.cmpProgZoneMax p) F.cmpProgZoneMax_lines,
    audGroup := n.fld (Reg.cmpProgZoneAud p) F.cmpProgZoneAud_audGroup,
    audTrim := signed 16 (n.fld (Reg.cmpProgZoneAud p) F.cmpProgZoneAud_audTrim),
    layers := (n.layersOn p).map fun l => n.layerAsk p l w h, taps := (n.tapsOn p).map fun t => n.tapAsk p t, flows := [] }

/-- Whether the fields of a programme, its layers and its taps are refused with FORMAT (R248, R281). -/
def Dev.progBad (n : Dev) (p : Nat) (g : ProgCfg) : Bool :=
  let out := n.reg (Reg.cmpProgOut p)
  let white := F.cmpProgOut_sdrWhite.get out
  decide (4 < n.fld (Reg.cmpProgCfg p) F.cmpProgCfg_preset) || sizeBad g.width g.height || !frameRates.contains (g.num, g.den) ||
    g.form = 3 || F.cmpProgOut_transfer.get out = 3 || decide (g.depth < 6 ∨ 12 < g.depth ∨ white < 48 ∨ 1000 < white) ||
    decide (10000 < g.arrive) || (g.zoneMax ≠ 0 && decide (g.zoneMax < g.zone)) || decide (2 * g.num * g.height < g.zone * g.den) ||
    decide (64 ≤ g.audGroup ∧ g.audGroup ≠ 255) || g.layers.any (n.layerBad p) ||
    g.taps.any fun t => decide (4 < t.fmt) || sizeBad t.w t.h || !ratioOk g.width t.w || !ratioOk g.height t.h ||
      (t.pair && decide (65536 < scalerLines g.height t.h * t.w) && g.taps.any fun s => s.tap = Nat.xor t.tap 1)

/-! ## Scalers (R267–R270) -/

/-- Whether a scaled layer needs a pair: 0 it takes no scaler, 1 one, 2 a pair, 3 more than it may take. -/
def scalerNeed (oneToOne pair : Bool) (lines width : Nat) : Nat :=
  if oneToOne then 0 else if lines * width ≤ 65536 then 1 else if pair && decide (lines * width ≤ 131072) then 2 else 3

/-- The lowest scaler of a kind that is free: one, or the first of an aligned pair (R267, R269). -/
def Adm.freeScaler (a : Adm) (pair : Bool) : Option Nat :=
  if pair then ((List.range 32).map (2 * ·)).find? fun s => !a.scalers.contains s && !a.scalers.contains (s + 1)
  else (List.range 64).find? fun s => !a.scalers.contains s

/-- The scalers that a layer holds. -/
def LayerCfg.holds (x : LayerCfg) : List Nat :=
  match x.scaler with
  | none => []
  | some s => if x.paired then [s, s + 1] else [s]

/-- A layer takes its scaler: the one it has where it keeps its kind, else the lowest free one. -/
def Adm.takeScaler (a : Adm) (h : Nat) (old : Option LayerCfg) (x : LayerCfg) : Adm × LayerCfg :=
  let lines := scalerLines x.cropH x.dstH
  let need := scalerNeed x.oneToOne x.pair lines x.dstW
  if need = 0 then (a, x)
  else
    let kept := old.bind fun o => if o.paired = decide (need = 2) then o.scaler else none
    match kept.or (a.freeScaler (decide (2 ≤ need) && x.pair)) with
    | none => (a.fail [{ reason := 0x07, obj := h }], x)
    | some s =>
      let y := { x with scaler := some s, paired := decide (need = 2), lines := lines }
      if need = 3 then (a.fail [{ reason := 0x02, obj := h, cls := 4, idx := s, crews := [a.new.owner 3 (h - 0x240)] }], y)
      else ({ a with scalers := y.holds ++ a.scalers }, y)

/-! ## Programmes -/

/-- The (Stroke, cost) of the strips that pipe `j` of a programme's gang takes, over one repetition and a frame more. -/
def ProgCfg.releases (g : ProgCfg) (j : Nat) : List (Nat × Nat) :=
  (List.range (repFrames g.num g.den + 1)).flatMap fun k => (List.range g.strips).filterMap fun b =>
    if b % max 1 g.gang = j then some (g.release k b, g.stripCost b) else none

/-- The loads of a programme on its pipes (R249). -/
def ProgCfg.loads (g : ProgCfg) (p : Nat) : List Load :=
  (List.range g.gang).map fun j =>
    let frame := sumBy (fun b => if b % g.gang = j then g.stripCost b else 0) (List.range g.strips)
    let rate := per1001 g.num g.den frame
    { unit := 40 + p + j, obj := 0x240 + p, crew := g.crew, win := 3, burst := largestBurst (g.releases j), cost := 0, num := 0,
      den := 1, rate := rate, cut := rate }

/-- The test that a gang fails, with the pipe (R250, R439). -/
def Dev.gangFails (n : Dev) (p : Nat) (g : ProgCfg) : Option (Nat × Nat) :=
  let rest := (List.range (g.gang - 1)).map (p + 1 + ·)
  if p % g.gang ≠ 0 || rest.any fun q => n.progsOn.contains q then some (0x07, p)
  else if rest.any fun q => n.owner 3 q ≠ g.crew then some (0x09, p)
  else ((g.loads p).find? fun l => !loadsFit 125000 [l]).map fun l => (0x01, l.unit - 40)

/-- A programme with the gang asked for, or with the least that passes; the failure of the least where none does (R250, R559). A
programme that stays keeps its gang while it passes. -/
def Dev.withGang (n : Dev) (p : Nat) (g : ProgCfg) (old : Option Nat) : ProgCfg × Option (Nat × Nat) :=
  let code := n.fld (Reg.cmpProgCfg p) F.cmpProgCfg_gang
  let l := if code ≠ 0 then [gangOf code] else old.toList ++ [1, 2, 4]
  match l.find? fun k => (n.gangFails p { g with gang := k }).isNone with
  | some k => ({ g with gang := k }, none)
  | none =>
    let g := { g with gang := if code ≠ 0 then gangOf code else 1 }
    (g, n.gangFails p g)

/-- The encode channel that a tap feeds. -/
def Dev.tapUser (n : Dev) (t : Nat) : Option Nat :=
  n.encsOn.find? fun c => n.fld (Reg.encChSrc c) F.encChSrc_srcType = 2 && n.fld (Reg.encChSrc c) F.encChSrc_srcIndex = t

/-- A tap as it resolves: its line buffer and D_TAP (R269, R280), and the tests it fails. -/
def Dev.tapResolve (n : Dev) (p : Nat) (g : ProgCfg) (t : TapCfg) : TapCfg × List Fail :=
  let h := 0x240 + p
  let same := t.w = g.width && t.h = g.height
  let lines := scalerLines g.height t.h
  let need := scalerNeed same t.pair lines t.w
  let least := match n.tapUser t.tap with
    | some c => g.minTapUs t (max 32 (n.encAsk c 0).ctu)
    | none => 0
  ({ t with lines := if same then 0 else lines, paired := decide (need = 2), us := if t.us = 0 then least else t.us },
   (if need = 3 then [{ reason := 0x02, obj := h, cls := 4, idx := 64 + t.tap, crews := [g.crew] }] else []) ++
     (if t.us ≠ 0 ∧ t.us < least then [{ reason := 0x06, obj := h }] else []))

/-- What a programme names must be its Crew's (R255, R281, R439). -/
def Dev.progOwns (n : Dev) (p : Nat) (g : ProgCfg) : List Fail :=
  let h := 0x240 + p
  g.layers.flatMap (fun x =>
    ownerFail ((x.srcType = 1 && n.owner 4 x.srcIndex ≠ g.crew) || (x.srcType = 2 && n.owner 2 x.srcIndex ≠ g.crew)) h) ++
  ownerFail ((g.egress && n.owner 5 g.queue ≠ g.crew) || (decide (g.audGroup < 64) && n.owner 7 g.audGroup ≠ g.crew)) h

/-- One enabled programme is resolved: everything but its flows. -/
def Adm.progOne (a : Adm) (p : Nat) (old : Option ProgCfg) : Adm :=
  let h := 0x240 + p
  let n := a.new
  let g := n.progAsk p
  let a := a.fail (n.progOwns p g)
  if n.progBad p g then a.fail (formatFail true h)
  else
    let r := g.layers.foldl (fun (s : Adm × List LayerCfg) x =>
      let t := s.1.takeScaler h (old.bind fun o => o.layers.find? fun y => y.layer = x.layer) x
      (t.1, s.2 ++ [t.2])) (a, [])
    let a := r.1
    let g : ProgCfg := { g with layers := r.2 }
    let auto := g.autoLag
    let a := if g.lag ≠ 0 ∧ g.lag < auto then a.fail [{ reason := 0x06, obj := h }] else a
    let g : ProgCfg := { g with lag := if g.lag = 0 then auto else g.lag }
    let w := n.withGang p g ((old.filter fun o => o.crew = g.crew).map (·.gang))
    let a := match w.2 with
      | some f => a.fail [{ reason := f.1, obj := h, cls := 3, idx := f.2, crews := [g.crew] }]
      | none => a
    let g := w.1
    let taps := g.taps.map (n.tapResolve p g)
    let a := a.fail (taps.flatMap (·.2))
    let g := { g with taps := taps.map (·.1) }
    { a with progs := a.progs ++ [(p, g)], loads := a.loads ++ g.loads p, host := (a.host.1 + g.hostMBps, a.host.2) }

/-- Every enabled programme is resolved. The scalers that stay with their layers are set aside first. -/
def Adm.progAsked (a : Adm) (d : Dev) : Adm :=
  let was := a.old.progsOn.filterMap fun p => (d.progAhead p).map fun g => (p, g)
  let on := a.new.progsOn
  let stays := was.flatMap fun w => if on.contains w.1
    then w.2.layers.flatMap fun x => if (a.new.layersOn w.1).contains x.layer then x.holds else [] else []
  let a := on.foldl (fun a p => a.progOne p ((was.find? fun w => w.1 = p).map (·.2))) { a with scalers := stays }
  if 128 < sumBy (fun p => (a.new.layersOn p).length) on then a.fail [{ reason := 0x07 }] else a

/-- The read-only registers of a programme in force. -/
def ProgCfg.shown (g : ProgCfg) (p : Nat) : List (Nat × Word × Word) :=
  [setFields (Reg.cmpProgResolved p) [(F.cmpProgResolved_lag, g.lag),
     (F.cmpProgResolved_gang, if g.gang = 4 then 3 else g.gang), (F.cmpProgResolved_firstPipe, p)],
   setFields (Reg.cmpProgStake p) [(F.cmpProgStake_stakeNs, g.stakeNs)]] ++
  ((List.range 16).map fun l =>
    let x := g.layers.find? fun x => x.layer = l
    setFields (Reg.cmpLayerStatus p l) [(F.cmpLayerStatus_scaler, (x.bind (·.scaler)).getD 0x7F),
      (F.cmpLayerStatus_paired, bit ((x.map (·.paired)).getD false)), (F.cmpLayerStatus_lines, (x.map (·.lines)).getD 0)]) ++
  ((List.range 4).map fun t =>
    let x := g.taps.find? fun x => x.tap = 4 * p + t
    setFields (Reg.cmpTapResolved p t) [(F.cmpTapResolved_dTap, (x.map (·.us)).getD 0),
      (F.cmpTapResolved_lines, (x.map (·.lines)).getD 0), (F.cmpTapResolved_paired, bit ((x.map (·.paired)).getD false))])

/-- The read-only registers of a programme that is disabled. -/
def progHidden (p : Nat) : List (Nat × Word × Word) :=
  ([Reg.cmpProgResolved p, Reg.cmpProgStake p] ++ ((List.range 16).map fun l => Reg.cmpLayerStatus p l) ++
    ((List.range 4).map fun t => Reg.cmpTapResolved p t)).map fun a => (a, wholeWord, regReset a)

/-- RESERVE of a pipe's flow (R58). -/
def ProgCfg.reserve (g : ProgCfg) (j : Nat) : Nat := openMost 2 ((g.releases j).map (·.1)) + 1

/-- HBM of a programme (R283). -/
def Adm.progMem (a : Adm) (p : Nat) (g : ProgCfg) : MemUse :=
  let live (x : LayerCfg) : Bool := x.srcType = 1 || x.srcType = 3 || x.srcType = 4
  let tile (c : Nat) : Nat := ((a.decs.find? fun q => q.1 = c).map fun q => tileData q.2.width q.2.height q.2.chroma).getD 0
  ⟨0x240 + p, g.crew,
   (g.layers.filter live).map (fun x => 2 * frameBytes x.srcFmt x.srcW x.srcH) ++ [g.outBytes] ++
     (if g.zoneCap = 0 then [] else [(g.zoneCap + 64) * g.lineBytes]) ++ g.taps.map (fun t => 2 * frameBytes t.fmt t.w t.h),
   g.hbmTraffic tile⟩

/-- A resolved programme takes its flows and memory (R84, R250). -/
def Adm.progTake (a : Adm) (named : List Nat) (p : Nat) (g : ProgCfg) (old : Option ProgCfg) : Adm :=
  let kept := (old.filter fun o => o.gang = g.gang && o.crew = g.crew).map (·.flows)
  match kept.or (a.freeFlows named g.crew g.gang) with
  | none => a.fail [{ reason := 0x07, obj := 0x240 + p, cls := 7, idx := 1, crews := [g.crew] }]
  | some l =>
    let g := { g with flows := l }
    let changed := decide (old ≠ some g)
    let progs := a.progs.map fun (q : Nat × ProgCfg) => if q.1 = p then (p, g) else q
    let a : Adm := { a with progs := progs, mem := a.mem ++ [a.progMem p g] }
    let a := ((old.map (·.flows)).getD []).foldl (fun a f => if l.contains f then a else a.dropFlow f) a
    let a := (List.range g.gang).foldl (fun a j =>
      let f := l.getD j 0
      a.flow changed (.prog p) (flowWords f g.crew 3 2 2 true 2 1 (g.reserve j) 0 2 (p + j)) ⟨f, 40 + p + j, true, g.reserve j⟩) a
    if changed then
      { (a.put (g.shown p)) with place := { (a.put (g.shown p)).place with progs := (a.put (g.shown p)).place.progs ++ [(p, g)] } }
    else a

/-- Every resolved programme takes its flows; one that goes gives them up. -/
def Adm.progAll (a : Adm) (d : Dev) : Adm :=
  let was := a.old.progsOn.filterMap fun p => (d.progAhead p).map fun g => (p, g)
  let named := a.old.namedFlows ++ a.new.namedFlows
  let a : Adm := { a with taken := (was.flatMap fun w => w.2.flows) ++ a.taken }
  let a := a.progs.foldl (fun a q => a.progTake named q.1 q.2 ((was.find? fun w => w.1 = q.1).map (·.2))) a
  was.foldl (fun a w => if a.progs.any fun q => q.1 = w.1 then a else w.2.flows.foldl Adm.dropFlow (a.put (progHidden w.1))) a

end Sys2Proof.Machine
end

