-- ==== Sys2Proof/Machine/AdmAud.lean ====
section
/-! DEFINITION. Admission of audio (R294–R296, R299, R302, R309–R316, R325): ports, streams, groups, routes, ASRC channels and delay
rings. -/

namespace Sys2Proof.Machine

/-! ## Clocks and channels (R294, R295) -/

/-- Whether the house domain is the media domain (R305). -/
def Dev.houseMedia (n : Dev) : Bool := n.fld Reg.audClkCfg F.audClkCfg_role = 0

/-- The rate of a TDM port in Hz. -/
def Dev.tdmHz (n : Dev) (p : Nat) : Nat := rateHz (n.fld (Reg.audTdmCfg p) F.audTdmCfg_rate)

/-- Whether a TDM port runs in the media domain. -/
def Dev.tdmMedia (n : Dev) (p : Nat) : Bool := n.fld (Reg.audTdmCfg p) F.audTdmCfg_role = 0 && n.houseMedia

/-- The rate of a network stream in Hz, input or output. -/
def netHz (w : Word) : Nat := if F.audNetiCfg_rate96.get w = 1 then 96000 else 48000

/-- Whether a source is of the media domain, and its nominal rate where settings give one. -/
def Dev.sourceClock (n : Dev) (code : Nat) : Bool × Option Nat :=
  match audSource? code with
  | some (.tdm p) => (n.tdmMedia p, some (n.tdmHz p))
  | some (.net s) => (true, some (netHz (n.reg (Reg.audNetiCfg s))))
  | some (.host h) => (true, some (rateHz (n.fld (Reg.audHostCfg h) F.audHostCfg_rate)))
  | _ => (false, none)

/-- Channels of a source. -/
def Dev.sourceChannels (n : Dev) (code : Nat) : Nat :=
  match audSource? code with
  | some (.tdm p) => n.fld (Reg.audTdmCfg p) F.audTdmCfg_slots
  | some (.net s) => n.fld (Reg.audNetiCfg s) F.audNetiCfg_chM1 + 1
  | some (.host h) => n.hostChannels h
  | _ => 2

/-- Whether a channel needs an ASRC towards a group's rate. -/
def needsAsrc (clock : Bool × Option Nat) (fs : Nat) : Bool := !clock.1 || clock.2 ≠ some fs

/-- Whether the ratio of two nominal rates is one that an ASRC converts (R294). -/
def asrcRatioBad (rate : Option Nat) (fs : Nat) : Bool :=
  match rate with
  | none => false
  | some r => decide (4 * r < fs ∨ 4 * fs < r)

/-- Whether an arrival allowance is below the input latency of a source (R295, R309). -/
def Dev.tooSoon (n : Dev) (code fs us : Nat) : Bool :=
  let c := n.sourceClock code
  let asrc := if needsAsrc c fs then 1000 else 0
  let frame := c.2.getD fs
  match audSource? code with
  | some (.net s) => decide (us < [125, 250, 1000, 4000].getD (n.fld (Reg.audNetiCfg s) F.audNetiCfg_ptime) 0 + asrc)
  | some (.host _) => decide (us < asrc)
  | _ => decide (us * frame < 1000000 + asrc * frame)

/-- A destination channel (R316): its output by its number in AUDIO_IO, whether that is of the media domain, and its rate. -/
def Dev.destOf (n : Dev) (t : Nat) : Nat × Bool × Nat :=
  if t < 64 then (0x40 + t / 2, n.houseMedia, rateHz (n.fld Reg.audClkCfg F.audClkCfg_houseRate))
  else if t < 320 then
    let p := (t - 64) / 32
    (0x20 + p, n.tdmMedia p, n.tdmHz p)
  else
    let s := ((n.enabledOf (Reg.audNetoCfg 0) 0x10 256).find? fun s =>
      let first := n.fld (Reg.audNetoCh s) F.audNetoCh_first
      decide (first ≤ t - 320 ∧ t - 320 ≤ first + n.fld (Reg.audNetoCfg s) F.audNetoCfg_chM1)).getD 0
    (0x300 + s, true, netHz (n.reg (Reg.audNetoCfg s)))

/-! ## Ports and streams -/

/-- Whether MCLK is used above 49.152 MHz (R540). -/
def Dev.mclkBad (n : Dev) : Bool :=
  let w := n.reg Reg.audClkCfg
  (F.audClkCfg_role.get w = 2 || F.audClkCfg_mclkOutEn.get w = 1) &&
    decide (49152000 < (if F.audClkCfg_mclkX.get w = 1 then 512 else 256) * rateHz (F.audClkCfg_houseRate.get w))

/-- FORMAT of AES3 outputs, TDM ports and host streams, and of the house clock (R299, R540). -/
def Dev.portsBad (n : Dev) : Bool :=
  n.mclkBad || decide (5 < n.fld Reg.audClkCfg F.audClkCfg_houseRate) ||
  ((n.enabledOf (Reg.audAesoCfg 0) 0x20 32).any fun o => decide (1 < n.fld (Reg.audAesoCfg o) F.audAesoCfg_csPreset)) ||
  ((n.enabledOf (Reg.audHostCfg 0) 0x10 64).any fun h => decide (5 < n.fld (Reg.audHostCfg h) F.audHostCfg_rate)) ||
  (n.enabledOf (Reg.audTdmCfg 0) 0x10 8).any fun p =>
    let c := Reg.audTdmCfg p
    let slots := n.fld c F.audTdmCfg_slots
    let width := n.fld c F.audTdmCfg_width
    decide (4 < n.fld c F.audTdmCfg_preset ∨ slots < 2 ∨ 32 < slots ∨ width = 3 ∨ 5 < n.fld c F.audTdmCfg_rate ∨
      49152000 < n.tdmHz p * slots * (16 + 8 * width))

/-- Whether the encoding and packet time of a network stream are refused with FORMAT (R302). -/
def netBad (w : Word) : Bool :=
  let pt := F.audNetiCfg_ptime.get w
  (F.audNetiCfg_kind.get w = 0 && decide (1 < F.audNetiCfg_enc.get w)) || decide (3 < pt) || (pt = 3 && F.audNetiCfg_rate96.get w = 1)

/-- Bytes of RTP payload of a packet of a network stream (R302). -/
def netPayload (w : Word) : Nat :=
  let us := [125, 250, 1000, 4000].getD (F.audNetiCfg_ptime.get w) 0
  let size := if F.audNetiCfg_kind.get w = 1 then 4 else if F.audNetiCfg_enc.get w = 0 then 2 else 3
  netHz w * us / 1000000 * (F.audNetiCfg_chM1.get w + 1) * size

/-- The smallest MAX_FRAME of the enabled instances of the port pair of classifier entry `e` (R341, R355). -/
def Dev.pairMtu (n : Dev) (e : Nat) : Option Nat :=
  let ms := (List.range 64).filter fun m =>
    m / 4 % 8 = n.fld (Reg.egsClsKey e) F.egsClsKey_pair && n.flag (Reg.portMacCtl m) F.portMacCtl_enable
  (ms.map fun m => n.fld (Reg.portMacCtl m) F.portMacCtl_maxFrame).foldl (fun o x => some (min x (o.getD x))) none

/-- Whether a packet of a network input stream exceeds the MTU of a port that its flow arrives on (R302). The frame carries no tag
in this count, since MAX_FRAME leaves room for one (R348). -/
def Dev.inputTooLong (n : Dev) (s : Nat) : Bool :=
  let w := n.reg (Reg.audNetiCfg s)
  (n.enabledOf (Reg.egsClsKey 0) 0x20 4096).any fun e =>
    n.fld (Reg.egsClsFlow e) F.egsClsFlow_flow = F.audNetiCfg_flow.get w &&
      ((n.pairMtu e).map fun m =>
        decide (m < 14 + (if n.flag (Reg.egsClsKey e) F.egsClsKey_ver then 40 else 20) + 20 + netPayload w + 4)).getD false

/-- Whether the channels of two enabled network output streams overlap, or pass channel 1,023. -/
def Dev.outChannelsBad (n : Dev) (on : List Nat) : Bool :=
  let span (s : Nat) : Nat × Nat :=
    let f := n.fld (Reg.audNetoCh s) F.audNetoCh_first
    (f, f + n.fld (Reg.audNetoCfg s) F.audNetoCfg_chM1 + 1)
  on.any fun s => decide (1024 < (span s).2) || on.any fun t => decide (s < t ∧ (span s).1 < (span t).2 ∧ (span t).1 < (span s).2)

/-- Tests of ports and streams (R299, R302). A stream that has no handle of R440 is named 0. -/
def Dev.streamFails (n : Dev) : List Fail :=
  let ins := n.enabledOf (Reg.audNetiCfg 0) 0x10 256
  let outs := n.enabledOf (Reg.audNetoCfg 0) 0x10 256
  let chans (l : List Nat) (r : Nat → Nat) : Nat := sumBy (fun s => F.audNetiCfg_chM1.get (n.reg (r s)) + 1) l
  formatFail (n.portsBad || ins.any (fun s => netBad (n.reg (Reg.audNetiCfg s)) || n.inputTooLong s) ||
    outs.any (fun s => netBad (n.reg (Reg.audNetoCfg s))) || n.outChannelsBad outs) 0 ++
  (if 1024 < chans ins Reg.audNetiCfg ∨ 1024 < chans outs Reg.audNetoCfg then [{ reason := 0x07 }] else []) ++
  ownerFail (ins.any fun s => n.owner 8 (0x100 + s) ≠ n.owner 4 (n.fld (Reg.audNetiCfg s) F.audNetiCfg_flow)) 0 ++
  ownerFail (outs.any fun s => n.owner 8 (0x300 + s) ≠ n.owner 5 (n.fld (Reg.audNetoCfg s) F.audNetoCfg_queue)) 0

/-! ## Groups (R309–R314) -/

/-- The member entries of a group: source codes with their channels, in order. -/
def Dev.membersAsked (n : Dev) (g : Nat) : List (Nat × Nat) :=
  (List.range 16).filterMap fun i =>
    let w := n.reg (Reg.audGrpMember g (i / 2))
    let valid := (if i % 2 = 0 then F.audGrpMember_validLo else F.audGrpMember_validHi).get w
    let code := (if i % 2 = 0 then F.audGrpMember_sourceLo else F.audGrpMember_sourceHi).get w
    if valid = 1 then some (code, n.sourceChannels code) else none

/-- The delay in samples that a programme gives a group (R281), none when it would be below 0. -/
def ProgCfg.audDelay (p : ProgCfg) (fs : Nat) : Option Nat :=
  let line := p.num * p.height
  let x : Int := ((2 * p.zone * p.den * fs + line) / (2 * max 1 line) : Nat) + p.audTrim
  if x < 0 then none else some x.toNat

/-- The settings that the staged fields of a group ask for, and whether they are refused with FORMAT. -/
def Adm.grpAsk (a : Adm) (g : Nat) : AudGrpCfg × Bool :=
  let n := a.new
  let cfg := n.reg (Reg.audGrpCfg g)
  let code := F.audGrpCfg_rate.get cfg
  let fs := rateHz code
  let named := a.progs.filter fun p => p.2.audGroup = g
  let own := n.fld (Reg.audGrpDelay g) F.audGrpDelay_delay
  let delay := match named with
    | [] => some own
    | p :: _ => p.2.audDelay fs
  let members := n.membersAsked g
  ({ crew := n.owner 7 g, rate := fs, together := F.audGrpCfg_align.get cfg = 1, block := F.audGrpCfg_blockStrokes.get cfg,
     arriveUs := F.audGrpCfg_arriveUs.get cfg, delay := delay.getD 0, fromProg := !named.isEmpty, members := members, flow := 0 },
   decide (3 < F.audGrpCfg_preset.get cfg ∨ 5 < code ∨ F.audGrpCfg_blockStrokes.get cfg = 0 ∨ 10000 < F.audGrpCfg_arriveUs.get cfg ∨
     1 < named.length ∨ 2 * fs < delay.getD 0) || delay.isNone ||
     members.any fun m => (audSource? m.1).isNone || (needsAsrc (n.sourceClock m.1) fs && asrcRatioBad (n.sourceClock m.1).2 fs))

/-- The read-only registers of a group in force. -/
def AudGrpCfg.shown (x : AudGrpCfg) (g : Nat) : List (Nat × Word × Word) :=
  [setFields (Reg.audGrpStatus g) [(F.audGrpStatus_channels, x.channels)],
   setFields (Reg.audGrpResolved g) [(F.audGrpResolved_a, arriveStrokes x.arriveUs), (F.audGrpResolved_fromProg, bit x.fromProg),
     (F.audGrpResolved_delay, x.delay)]]

/-- One enabled group is admitted (R84, R309). -/
def Adm.grpOne (a : Adm) (named : List Nat) (g : Nat) (old : Option AudGrpCfg) : Adm :=
  let h := 0x280 + g
  let r := a.grpAsk g
  let x := r.1
  if r.2 then a.fail (formatFail true h)
  else
    let a := a.fail (ownerFail (x.members.any fun m => a.new.owner 8 m.1 ≠ x.crew) h ++
      (if x.members.any fun m => a.new.tooSoon m.1 x.rate x.arriveUs then [{ reason := 0x06, obj := h }] else []))
    let kept := (old.filter fun o => o.crew = x.crew).map fun o => [o.flow]
    match kept.or (a.freeFlows named x.crew 1) with
    | some [f] =>
      let x := { x with flow := f }
      let changed := decide (old ≠ some x)
      let a : Adm := { a with auds := a.auds ++ [(g, x)] }
      let a := a.flow changed (.audio g) (flowWords f x.crew 4 4 2 true 3 1 3 0 1 0) ⟨f, 72, true, 3⟩
      if changed then
        { (a.put (x.shown g)) with place := { (a.put (x.shown g)).place with auds := (a.put (x.shown g)).place.auds ++ [(g, x)] } }
      else a
    | _ => a.fail [{ reason := 0x07, obj := h, cls := 7, idx := 1, crews := [x.crew] }]

/-- Every enabled group; one that goes gives up its flow. -/
def Adm.grpAll (a : Adm) (d : Dev) : Adm :=
  let was := a.old.groupsOn.filterMap fun g => (d.audAhead g).map fun x => (g, x)
  let named := a.old.namedFlows ++ a.new.namedFlows
  let on := a.new.groupsOn
  let a : Adm := { a with taken := was.map (·.2.flow) ++ a.taken }
  let a := on.foldl (fun a g => a.grpOne named g ((was.find? fun w => w.1 = g).map (·.2))) a
  was.foldl (fun a w => if on.contains w.1 then a else
    (a.put [setFields (Reg.audGrpStatus w.1) [(F.audGrpStatus_channels, 0)], (Reg.audGrpResolved w.1, wholeWord, 0)]).dropFlow w.2.flow) a

/-- The delay rings of the sources that groups hold (R314), each under the handle of the first group that holds it. -/
def Adm.audRings (a : Adm) : List MemUse :=
  ((a.auds.flatMap fun p => p.2.members.map (·.1)).eraseDups).filterMap fun code =>
    let l := a.auds.filter fun p => p.2.members.any fun m => m.1 = code
    match l with
    | [] => none
    | (g, x) :: _ =>
      let ch := a.new.sourceChannels code
      let fs := maxBy (·.2.rate) l
      let bytes := ch * 4 * (maxBy (·.2.delay) l + (maxBy (fun p => arriveStrokes p.2.arriveUs) l + 3) * cdiv fs 8000)
      some ⟨0x280 + g, x.crew, [r4k bytes], ch * 4 * (fs + sumBy (·.2.rate) l)⟩

/-! ## Routes (R316) -/

/-- The enabled routes: destination channel, group, channel of the group. -/
def Dev.routesOn (n : Dev) : List (Nat × Nat × Nat) :=
  (n.enabledOf (Reg.audRoute 0) 4 1344).map fun t => (t, n.fld (Reg.audRoute t) F.audRoute_group, n.fld (Reg.audRoute t) F.audRoute_channel)

/-- Tests of the routes. -/
def Adm.routeFails (a : Adm) : List Fail :=
  let n := a.new
  n.routesOn.flatMap fun r =>
    let x := (a.auds.find? fun p => p.1 = r.2.1).map (·.2)
    let o := n.destOf r.1
    let fs := (x.map (·.rate)).getD o.2.2
    formatFail (decide ((x.map (·.channels)).getD 0 ≤ r.2.2) || (needsAsrc (o.2.1, some o.2.2) fs && asrcRatioBad (some o.2.2) fs) ||
      (decide (64 ≤ r.1 ∧ r.1 < 320) && decide (n.fld (Reg.audTdmCfg ((r.1 - 64) / 32)) F.audTdmCfg_slots ≤ (r.1 - 64) % 32))) 0 ++
    ownerFail (n.owner 8 o.1 ≠ n.owner 7 r.2.1) 0

/-! ## ASRC channels (R294) -/

/-- The channels that need an ASRC: inputs of groups first, then routed destinations. -/
def Adm.asrcNeeds (a : Adm) : List AsrcUse :=
  (a.auds.flatMap fun p => p.2.members.flatMap fun m =>
    if needsAsrc (a.new.sourceClock m.1) p.2.rate then (List.range m.2).map fun c => ⟨false, m.1, c, p.1, p.2.crew⟩ else []) ++
  a.new.routesOn.filterMap fun r =>
    let o := a.new.destOf r.1
    match (a.auds.find? fun p => p.1 = r.2.1).map (·.2) with
    | none => none
    | some x => if needsAsrc (o.2.1, some o.2.2) x.rate then some ⟨true, o.1, r.1, 0, x.crew⟩ else none

/-- The handle of the port or stream that an ASRC channel serves, 0 for one that has none (R440). -/
def AsrcUse.handle (u : AsrcUse) : Nat :=
  if u.io < 0x20 then 0x300 + u.io else if 0x40 ≤ u.io ∧ u.io < 0x60 then 0x320 + (u.io - 0x40)
  else if 0x200 ≤ u.io ∧ u.io < 0x240 then 0x2C0 + (u.io - 0x200) else 0

/-- ASRC channels are taken: one that serves the same channel stays, each other need takes the lowest free one. DESIGN CHOICE
(notes/assumptions/37.md). -/
def takeAsrcs (old : Tab (Option AsrcUse)) (needs : List AsrcUse) : Tab (Option AsrcUse) :=
  let kept := old.filter fun p => match p.2 with
    | some u => needs.contains u
    | none => false
  needs.foldl (fun t u =>
    if t.any fun p => p.2 = some u then t
    else match (List.range 1024).find? fun i => (Tab.get noAsrc t i).isNone with
      | some i => Tab.put noAsrc t i (some u)
      | none => t) kept

/-- What the registers of ASRC channels show of a change from one use to another. -/
def asrcShown (old new : Tab (Option AsrcUse)) : List (Nat × Word × Word) :=
  (List.range 256).flatMap fun i =>
    let o := Tab.get noAsrc old i
    match Tab.get noAsrc new i with
    | none => if o.isNone then [] else [(Reg.audAsrcState i, wholeWord, 0), (Reg.audAsrcRatio i, wholeWord, regReset (Reg.audAsrcRatio i))]
    | some u =>
      if o = some u then []
      else [setFields (Reg.audAsrcState i) [(F.audAsrcState_lock, 0), (F.audAsrcState_inUse, 1), (F.audAsrcState_dir, bit u.out),
        (F.audAsrcState_stream, u.handle)]]

/-- Whether AES3 outputs and TDM ports pass an ASRC. -/
def asrcPorts (new : Tab (Option AsrcUse)) : List (Nat × Word × Word) :=
  let used (p : AsrcUse → Bool) : Nat := bit (new.any fun e => (e.2.map p).getD false)
  ((List.range 32).map fun o => setFields (Reg.audAesoStatus o) [(F.audAesoStatus_asrc, used fun u => u.io = 0x40 + o)]) ++
  (List.range 8).map fun p => setFields (Reg.audTdmStatus p) [(F.audTdmStatus_asrc, used fun u => u.io = 0x20 + p)]

/-- What ASRC channels serve as the configuration ahead has it. -/
def Dev.asrcsAhead (d : Dev) : Tab (Option AsrcUse) := (d.stk.accepted.reverse.findSome? fun m => m.place.asrcs).getD d.aud.asrcs

/-- Audio is admitted. -/
def Adm.audAll (a : Adm) (d : Dev) : Adm :=
  let a := (a.fail a.new.streamFails).grpAll d
  let a := a.fail a.routeFails
  let a : Adm := { a with mem := a.mem ++ a.audRings }
  let needs := a.asrcNeeds
  let old := d.asrcsAhead
  let new := takeAsrcs old needs
  let a := if 256 < needs.length then a.fail [{ reason := 0x07 }] else a
  if new = old then a
  else
    let a := a.put (asrcShown old new ++ asrcPorts new)
    { a with place := { a.place with asrcs := some new } }

end Sys2Proof.Machine
end

