-- ==== Sys2Proof/Machine/AdmNet.lean ====
section
/-! DEFINITION. Admission of the network and of the settings of the whole device: classifier entries and merges (R355–R360, R380), lanes
and ports (R327–R342), the egress hierarchy and its rates (R362–R369, R383), time (R406), memory and thermal settings. -/

namespace Sys2Proof.Machine

/-! ## Ports (R326–R342) -/

/-- Whether a MAC instance is an egress port: enabled, and one that its group's MODE has (R330, R362). -/
def Dev.portOn (n : Dev) (m : Nat) : Bool :=
  n.flag (Reg.portGroupCfg (m / 4)) F.portGroupCfg_enable && n.flag (Reg.portMacCtl m) F.portMacCtl_enable &&
    (n.groupMode (m / 4) = 1 || (n.groupMode (m / 4) = 0 && m % 4 = 0))

/-- The enabled port groups. -/
def Dev.groupsUp (n : Dev) : List Nat := n.enabledOf (Reg.portGroupCfg 0) 0x20 16

/-- The lanes of which some register of their own is not at its reset value. -/
def Dev.lanesSet (n : Dev) : List Nat :=
  (List.range 64).filter fun l => n.reg (Reg.laneTxfir l) ≠ regReset (Reg.laneTxfir l)

/-- FORMAT of a lane's transmitter (R327): the magnitudes of the taps add up to at most 63. -/
def Dev.tapsBad (n : Dev) (l : Nat) : Bool :=
  let w := n.reg (Reg.laneTxfir l)
  let mag (f : Fld) : Nat := (signed 6 (f.get w)).natAbs
  decide (63 < mag F.laneTxfir_cM2 + mag F.laneTxfir_cM1 + F.laneTxfir_c0.get w + mag F.laneTxfir_c1)

/-- FORMAT of a MAC instance (R330, PORT_MAC_CTL, PORT_MAC_ADDR, PORT_MACSEC_CFG). -/
def Dev.macBad (n : Dev) (m : Nat) : Bool :=
  let a := Reg.portMacCtl m
  let size := n.fld a F.portMacCtl_maxFrame
  let hi := (n.reg (Reg.portMacAddrHi m)).toNat % 65536
  decide (size < 64 ∨ 9600 < size) ||
    (n.groupMode (m / 4) = 1 && (n.fld a F.portMacCtl_fec = 3 || (n.flag a F.portMacCtl_speed && n.fld a F.portMacCtl_fec = 2))) ||
    (hi = 0 && (n.reg (Reg.portMacAddrLo m)).toNat = 0) || bitAt hi 8 || n.fld (Reg.portMacsecCfg m) F.portMacsecCfg_validate = 3

/-- FORMAT of lanes and ports. -/
def Dev.linksBad (n : Dev) : Bool :=
  n.lanesSet.any n.tapsBad ||
  n.groupsUp.any (fun p => decide (6 < n.fld (Reg.portGroupCfg p) F.portGroupCfg_preset) || n.groupMode p = 3) ||
  (n.enabledOf (Reg.portMacCtl 0) 0x100 64).any n.macBad

/-! ## The classifier and the merge (R355–R360, R380) -/

/-- FORMAT of a valid classifier entry. -/
def Dev.entryBad (n : Dev) (e : Nat) : Bool :=
  let src := n.fld (Reg.egsClsKey e) F.egsClsKey_srcSel
  (src ≠ 0 && (List.range 4).all fun w => n.reg (Reg.egsSrcIp src w) = 0) ||
    n.fld (Reg.coxFlowCfg (n.fld (Reg.egsClsFlow e) F.egsClsFlow_flow)) F.coxFlowCfg_rank ≠ 0 ||
    (n.fld (Reg.egsClsPol e) F.egsClsPol_kbps ≠ 0 && decide (n.fld (Reg.egsClsSec e) F.egsClsSec_bytes < 1518))

/-- Tests of the valid classifier entries; entries have no handle. -/
def Dev.entryFails (n : Dev) : List Fail :=
  (n.enabledOf (Reg.egsClsKey 0) 0x20 4096).flatMap fun e =>
    let a := Reg.egsClsSec e
    formatFail (n.entryBad e) 0 ++
      ownerFail (n.flag a F.egsClsSec_srtp && n.owner 0x0A (n.fld a F.egsClsSec_key) ≠ n.owner 4 (n.fld (Reg.egsClsFlow e) F.egsClsFlow_flow)) 0

/-- What consumes an ingest flow, as the limits of R380 tell apart: the largest window in 10 µs, and the packets a second. The
packet rate of pictures and of coded streams depends on their senders and is left open. -/
def Adm.flowLimits (a : Adm) (f : Nat) : Option (Nat × Nat) :=
  let n := a.new
  let dec := a.decs.find? fun p => p.2.flowIn = f
  let enc := a.encs.find? fun p => p.2.srcType = 1 && p.2.srcIndex = f
  let lay : Option (ProgCfg × LayerCfg) := a.progs.findSome? fun (p : Nat × ProgCfg) => (p.2.layers.find? fun x => x.srcType = 1 && x.srcIndex = f).map fun x => (p.2, x)
  let aud := (n.enabledOf (Reg.audNetiCfg 0) 0x10 256).find? fun s => n.fld (Reg.audNetiCfg s) F.audNetiCfg_flow = f
  let cap := a.encs.any fun p => F.encChSei_captions.get p.2.sei = 1 && F.encChSei_captionFlow.get p.2.sei = f
  match dec, enc, lay, aud with
  | some p, _, _, _ => some (15000, Config.packetRate [1, p.2.maxRate])
  | _, some p, _, _ => some (1000, Config.packetRate [0, p.2.width, p.2.height, p.2.num, p.2.den, p.2.srcFmt])
  | _, _, some q, _ => some (1000, Config.packetRate [0, q.2.srcW, q.2.srcH, q.1.num, q.1.den, q.2.srcFmt])
  | _, _, _, some s => some (1000, 1000000 / [125, 250, 1000, 4000].getD (n.fld (Reg.audNetiCfg s) F.audNetiCfg_ptime) 1000)
  | _, _, _, _ => if cap then some (1000, 0) else none

/-- FORMAT of the merge of a flow (R380): 32,767 packets at the policed rate, taken in frames of the least length, or at the
consumer's rate. -/
def Adm.mergeBad (a : Adm) (f : Nat) : Bool :=
  let n := a.new
  let w := n.reg (Reg.pathFlowCfg f)
  let win := if F.pathFlowCfg_window.get w = 0 then 100 else F.pathFlowCfg_window.get w
  let kbps := sumBy (fun e => if n.fld (Reg.egsClsFlow e) F.egsClsFlow_flow = f then n.fld (Reg.egsClsPol e) F.egsClsPol_kbps else 0)
    (n.enabledOf (Reg.egsClsKey 0) 0x20 4096)
  F.pathFlowCfg_single.get w = 3 || (match a.flowLimits f with
    | none => false
    | some (most, rate) => decide (most < win ∨ 32767 * 100000 < win * (if kbps = 0 then rate else kbps * 1000 / 512)))

/-- The flows whose merge is tested: those with settings of their own, and those that classifier entries name. -/
def Dev.mergedFlows (n : Dev) : List Nat :=
  ((n.regs.filterMap fun (p : Nat × Word) => if 0xB10000 ≤ p.1 ∧ p.1 < 0xB20000 ∧ p.1 % 16 = 0 then some ((p.1 - 0xB10000) / 16) else none) ++
    n.classedFlows).eraseDups

/-! ## The egress hierarchy (R362–R367, R383) -/

/-- The stream that a queue of the new configuration carries (R363). -/
def Adm.carriedBy (a : Adm) (q : Nat) : Carried :=
  let h := a.new.fld (Reg.egsEqPkt q) F.egsEqPkt_stream
  if 0x100 ≤ h ∧ h < 0x200 then .enc (h - 0x100)
  else
    match a.progs.find? fun p => p.2.egress && p.2.queue == q with
    | some p => .prog p.1
    | none =>
      match (a.new.enabledOf (Reg.audNetoCfg 0) 0x10 256).find? fun s => a.new.fld (Reg.audNetoCfg s) F.audNetoCfg_queue == q with
      | some s => .aud s
      | none => .nothing

/-- How many streams name a queue (R363). -/
def Adm.namedBy (a : Adm) (q : Nat) : Nat :=
  bit (a.new.fld (Reg.egsEqPkt q) F.egsEqPkt_stream ≠ 0) + (a.progs.filter fun p => p.2.egress && p.2.queue == q).length +
    ((a.new.enabledOf (Reg.audNetoCfg 0) 0x10 256).filter fun s => a.new.fld (Reg.audNetoCfg s) F.audNetoCfg_queue == q).length

/-- What a queue sends: the frames of a kind in a number of seconds, as (payload bytes, frames), with the seconds; and the payload of
its largest anchored frame (R367). -/
structure Sending where
  bits : Nat
  anchor : Nat
  deriving DecidableEq, Repr

/-- The live counted rate in bit/s of queue `q`'s settings for a stream, and its largest anchored counted frame (R367). -/
def Adm.sending (a : Adm) (q : Nat) (x : Carried) : Option Sending :=
  let rd := a.new.reg
  let m := queuePort rd q
  let counted (payload : Nat) : Nat := countedLength rd m (frameLength rd q payload)
  match x with
  | .enc c =>
    match (a.encs.find? fun p => p.1 = c && p.2.live).map (·.2) with
    | none => none
    | some g =>
      let top := pktMax rd q
      let n := counted top
      if rdFld rd (Reg.egsEqCfg q) F.egsEqCfg_encap = 2 then some ⟨cdiv (g.bps * n) 1288, n⟩
      else
        let h := n - top
        let units := g.num * (if g.cls = 0 then g.bands else 1)
        some ⟨cdiv (g.bps * n) (top - 3) + cdiv (units * 16 * (h + 3)) g.den, counted (firstMax rd q)⟩
  | .prog p =>
    match (a.progs.find? fun e => e.1 = p).map (·.2) with
    | none => none
    | some g =>
      let l := rowPackets rd q g
      some ⟨cdiv (g.num * g.height * sumBy counted l * 8) g.den, maxBy counted (l.take 1)⟩
  | .aud s =>
    let p := outPacket rd s
    some ⟨cdiv ((if rdFld rd (Reg.audNetoCfg s) F.audNetoCfg_rate96 = 1 then 96000 else 48000) * counted p.2 * 8) (max 1 p.1), counted p.2⟩
  | .nothing => none

/-- The queue that dual-sends into a queue (R382). -/
def Dev.dualOf (n : Dev) (q : Nat) : Option Nat :=
  (n.enabledOf (Reg.pathDual 0) 4 4096).find? fun p => n.fld (Reg.pathDual p) F.pathDual_partner = q

/-- The enabled queues that send live frames, with what they send; a partner sends what its queue carries (R382). -/
def Adm.senders (a : Adm) : List (Nat × Sending) :=
  (a.new.enabledOf (Reg.egsEqCfg 0) 0x20 4096).filterMap fun q =>
    let x := match a.carriedBy q, a.new.dualOf q with
      | .nothing, some p => a.carriedBy p
      | y, _ => y
    (a.sending q x).map fun s => (q, s)

/-- Whether a frame of a queue is too long for its port (R302, EGS_EQ_PKT). -/
def Dev.tooLong (n : Dev) (q payload : Nat) : Bool :=
  let tag := n.fld (Reg.egsDestCtl (n.fld (Reg.egsEqCfg q) F.egsEqCfg_dest)) F.egsDestCtl_vlan ≠ 0xFFF
  decide (n.fld (Reg.portMacCtl (queuePort n.reg q)) F.portMacCtl_maxFrame + 4 * bit tag < frameLength n.reg q payload)

/-- The largest counted frame of a port: MAX_FRAME with a tag (R369). -/
def Dev.largestFrame (n : Dev) (m : Nat) : Nat := countedLength n.reg m (n.fld (Reg.portMacCtl m) F.portMacCtl_maxFrame + 4)

/-- FORMAT of an enabled queue (R302, R363, R372, EGS_EQ registers). -/
def Adm.queueBad (a : Adm) (q : Nat) : Bool :=
  let n := a.new
  let cfg := Reg.egsEqCfg q
  let encap := n.fld cfg F.egsEqCfg_encap
  let size := n.fld (Reg.egsEqPkt q) F.egsEqPkt_pktMax
  let first := n.fld (Reg.egsEqRtp q) F.egsEqRtp_firstMax
  let h := n.fld (Reg.egsEqPkt q) F.egsEqPkt_stream
  let x := a.carriedBy q
  let wrong := match x with
    | .enc c => !(encap = 1 || encap = 2) || (a.encs.any fun p => p.1 = c && !p.2.live)
    | .nothing => false
    | _ => encap ≠ 0
  let long := match x with
    | .aud s => n.tooLong q (outPacket n.reg s).2
    | _ => n.tooLong q (pktMax n.reg q)
  decide (4 < n.fld cfg F.egsEqCfg_preset) || encap = 3 || wrong || (h ≠ 0 && decide (h < 0x100 ∨ 0x200 ≤ h)) || decide (1 < a.namedBy q) ||
    (encap ≠ 2 && decide (size < 256 ∨ 8900 < size ∨ first < 4 ∨ size < 16 * first)) || long ||
    !n.flag (Reg.egsSubCfg (n.fld cfg F.egsEqCfg_sub)) F.egsSubCfg_enable ||
    decide (n.fld (Reg.egsEqBurst q) F.egsEqBurst_bytes < n.largestFrame (queuePort n.reg q)) ||
    decide (100000000 < n.fld (Reg.egsEqRate q) F.egsEqRate_kbps)

/-- The Crew of a queue's stream, where it carries one. -/
def Adm.streamCrew (a : Adm) (x : Carried) : Option Nat :=
  match x with
  | .enc c => some (a.new.owner 1 c)
  | .prog p => some (a.new.owner 3 p)
  | .aud s => some (a.new.owner 8 (0x300 + s))
  | .nothing => none

/-- OWNER of an enabled queue (R363, R374). -/
def Adm.queueStranger (a : Adm) (q : Nat) : Bool :=
  let n := a.new
  let crew := n.owner 5 q
  let sub := n.fld (Reg.egsEqCfg q) F.egsEqCfg_sub
  ((a.streamCrew (a.carriedBy q)).map fun k => decide (k ≠ crew)).getD false || n.owner 6 sub ≠ crew ||
    n.fld (Reg.egsDestCtl (n.fld (Reg.egsEqCfg q) F.egsEqCfg_dest)) F.egsDestCtl_sub ≠ sub ||
    (n.flag (Reg.egsEqCfg q) F.egsEqCfg_srtp && n.owner 0x0A (n.fld (Reg.egsEqKey q) F.egsEqKey_key) ≠ crew)

/-- The settings that a partner shares with its queue (R383). -/
def Dev.shared (n : Dev) (q : Nat) : List Nat :=
  [n.fld (Reg.egsEqCfg q) F.egsEqCfg_encap, n.fld (Reg.egsEqCfg q) F.egsEqCfg_srtp, n.fld (Reg.egsEqKey q) F.egsEqKey_key,
   n.fld (Reg.egsEqPkt q) F.egsEqPkt_pktMax, (n.reg (Reg.egsEqRtp q)).toNat, (n.reg (Reg.egsEqSsrc q)).toNat]

/-- Tests of a queue that dual-sends (R383). -/
def Adm.dualFails (a : Adm) (q : Nat) : List Fail :=
  let n := a.new
  let p := n.fld (Reg.pathDual q) F.pathDual_partner
  formatFail (!n.flag (Reg.egsEqCfg p) F.egsEqCfg_enable || a.namedBy p ≠ 0 || n.shared p ≠ n.shared q ||
    queuePort n.reg p / 32 = queuePort n.reg q / 32 ||
    (n.enabledOf (Reg.pathDual 0) 4 4096).any fun r => r ≠ q && n.fld (Reg.pathDual r) F.pathDual_partner = p) 0 ++
  ownerFail (n.owner 5 p ≠ n.owner 5 q) 0

/-- The line rate of a port in bit/s. -/
def Dev.lineRate (n : Dev) (m : Nat) : Nat := 8000000000000 / n.byteTime m

/-- PORT_BANDWIDTH of a class and index, used by some Crews. -/
def bandwidthFail (bad : Bool) (cls idx : Nat) (crews : List Nat) : List Fail :=
  if bad then [{ reason := 0x05, cls := cls, idx := idx, crews := crews }] else []

/-- Crews of the queues among some senders. -/
def Dev.sendersCrews (n : Dev) (l : List (Nat × Sending)) : List Nat := (l.map fun p => n.owner 5 p.1).eraseDups

/-- The live counted rate of some senders. -/
def sendRate (l : List (Nat × Sending)) : Nat := sumBy (·.2.bits) l

/-- Whether a rate in bit/s exceeds a KBPS field where that is not 0. -/
def overRate (bits kbps : Nat) : Bool := kbps ≠ 0 && decide (kbps * 1000 < bits)

/-- The tests of one egress port (R367). -/
def Dev.portFails (n : Dev) (l : List (Nat × Sending)) (m : Nat) : List Fail :=
  let l := l.filter fun p => queuePort n.reg p.1 = m
  let line := n.lineRate m
  let rate := sendRate l
  let port := decide (95 * line < 100 * rate) || overRate rate (n.fld (Reg.egsPortRate m) F.egsPortRate_kbps) ||
    decide (line < sumBy (·.2.anchor) l * 8 * 1000000)
  bandwidthFail port 6 (m / 4) (n.sendersCrews l) ++
  (List.range 8).flatMap fun c =>
    let k := l.filter fun p => queueClass n.reg p.1 = c
    bandwidthFail (overRate (sendRate k) (n.fld (Reg.egsTcRate m c) F.egsTcRate_kbps)) 6 (0x200 + 8 * m + c) (n.sendersCrews k)

/-- PORT_BANDWIDTH of every level (R367). -/
def Adm.rateFails (a : Adm) (l : List (Nat × Sending)) : List Fail :=
  let n := a.new
  ((l.map fun p => queuePort n.reg p.1).eraseDups.flatMap (n.portFails l)) ++
  ((l.map fun p => n.fld (Reg.egsEqCfg p.1) F.egsEqCfg_sub).eraseDups.flatMap fun s =>
    let k := l.filter fun p => n.fld (Reg.egsEqCfg p.1) F.egsEqCfg_sub = s
    bandwidthFail (overRate (sendRate k) (n.fld (Reg.egsSubRate s) F.egsSubRate_kbps)) 6 (0x100 + s) (n.owner 6 s :: n.sendersCrews k)) ++
  l.flatMap fun p => bandwidthFail (overRate p.2.bits (n.fld (Reg.egsEqRate p.1) F.egsEqRate_kbps)) 10 p.1 [n.owner 5 p.1]

/-- A port that stops, or a group that changes its MODE, while live frames use it (R342). -/
def Adm.portsTaken (a : Adm) (l : List (Nat × Sending)) : List Nat :=
  (l.map fun p => queuePort a.new.reg p.1).eraseDups.filter fun m =>
    a.old.portOn m && (!a.new.portOn m || a.old.groupMode (m / 4) ≠ a.new.groupMode (m / 4))

/-- FORMAT of subscribers, and of the buckets of the ports in use; ports that live frames lose are reported by R342. -/
def Adm.subsBad (a : Adm) (gone : List Nat) : Bool :=
  let n := a.new
  let size (m bytes : Nat) : Bool := decide (bytes < n.largestFrame m)
  ((n.enabledOf (Reg.egsSubCfg 0) 0x10 256).any fun s =>
    let m := n.fld (Reg.egsSubCfg s) F.egsSubCfg_port
    (!n.portOn m && !gone.contains m) || size m (n.fld (Reg.egsSubBurst s) F.egsSubBurst_bytes) ||
      decide (100000000 < n.fld (Reg.egsSubRate s) F.egsSubRate_kbps)) ||
  ((List.range 64).filter n.portOn).any fun m =>
    size m (n.fld (Reg.egsPortBurst m) F.egsPortBurst_bytes) || decide (signed 9 (n.fld (Reg.egsPortCfg m) F.egsPortCfg_overhead) < -64) ||
      decide (100000000 < n.fld (Reg.egsPortRate m) F.egsPortRate_kbps) ||
      (List.range 8).any fun c => size m (n.fld (Reg.egsTcBurst m c) F.egsTcBurst_bytes) ||
        decide (100000000 < n.fld (Reg.egsTcRate m c) F.egsTcRate_kbps)

/-- The staged gate list of a port: (gate bits, interval) entries. -/
def Dev.gateEntries (n : Dev) (m : Nat) : List (Nat × Nat) :=
  (List.range (n.fld (Reg.egsGclCtl m) F.egsGclCtl_entries)).map fun i =>
    (n.fld (Reg.egsGclEnt m i) F.egsGclEnt_gates, n.fld (Reg.egsGclEnt m i) F.egsGclEnt_interval)

/-- FORMAT of a port's gate list (R369). -/
def Dev.gatesBad (n : Dev) (m : Nat) : Bool :=
  let l := n.gateEntries m
  let cycle := sumBy (·.2) l
  let need := n.largestFrame m * n.byteTime m
  let best (c : Nat) : Nat := maxBy (fun i => openRun l c l.length i) (List.range l.length)
  decide (l.length < 1 ∨ 256 < l.length ∨ cycle < 1000 ∨ 1000000000 < cycle) || l.any (fun e => decide (e.2 < 64)) ||
    (List.range 8).any fun c => l.any (fun e => bitAt e.1 c) && decide (best c * 1000 < need)

/-- LIVE_KBPS at every level (R367). -/
def Adm.liveRates (a : Adm) (l : List (Nat × Sending)) : List (Nat × Word × Word) :=
  let n := a.new
  let kbps (k : List (Nat × Sending)) : Nat := cdiv (sendRate k) 1000
  let show_ (addr : Nat) (f : Fld) (k : List (Nat × Sending)) : List (Nat × Word × Word) :=
    if n.fld addr f = kbps k then [] else [setFields addr [(f, kbps k)]]
  let used (base stride num : Nat) (f : Fld) : List Nat := n.regs.filterMap fun p =>
    if base ≤ p.1 ∧ p.1 < base + stride * num ∧ (p.1 - base) % stride = 0 ∧ f.get p.2 ≠ 0 then some ((p.1 - base) / stride) else none
  let queues := ((l.map (·.1)) ++ used (Reg.egsEqStatus 0) 0x20 4096 F.egsEqStatus_liveKbps).eraseDups
  (queues.flatMap fun q => show_ (Reg.egsEqStatus q) F.egsEqStatus_liveKbps (l.filter fun p => p.1 = q)) ++
  ((List.range 256).flatMap fun s =>
    show_ (Reg.egsSubStatus s) F.egsSubStatus_liveKbps (l.filter fun p => n.fld (Reg.egsEqCfg p.1) F.egsEqCfg_sub = s)) ++
  (List.range 64).flatMap fun m =>
    let k := l.filter fun p => queuePort n.reg p.1 = m
    show_ (Reg.egsPortStatus m) F.egsPortStatus_liveKbps k ++
    (List.range 8).flatMap fun c => show_ (Reg.egsTcStatus m c) F.egsTcStatus_liveKbps (k.filter fun p => queueClass n.reg p.1 = c)

/-- Traffic is admitted. -/
def Adm.netAll (a : Adm) : Adm :=
  let n := a.new
  let on := n.enabledOf (Reg.egsEqCfg 0) 0x20 4096
  let l := a.senders
  let gone := a.portsTaken l
  let a := a.fail (formatFail (n.linksBad || a.subsBad gone || on.any a.queueBad || (n.mergedFlows.any a.mergeBad) ||
    ((n.enabledOf (Reg.egsGclCtl 0) 0x100 64).filter n.portOn).any n.gatesBad) 0 ++
    ownerFail (on.any a.queueStranger) 0 ++ n.entryFails ++
    ((n.enabledOf (Reg.pathDual 0) 4 4096).filter fun q => n.flag (Reg.egsEqCfg q) F.egsEqCfg_enable).flatMap a.dualFails ++
    gone.flatMap (fun m => bandwidthFail true 6 (m / 4) (n.sendersCrews (l.filter fun p => queuePort n.reg p.1 = m))) ++ a.rateFails l)
  a.put (a.liveRates l)

/-! ## Settings of the device -/

/-- FORMAT of a timed output (R406). -/
def Dev.timedBad (n : Dev) (i : Nat) : Bool :=
  let mode := n.fld (Reg.timeOutCfg i) F.timeOutCfg_mode
  let ns := (n.reg (Reg.timeOutPerNs i)).toNat % 2 ^ 30
  let frac := (n.reg (Reg.timeOutPerFrac i)).toNat
  let num := frac / 65536
  let den := frac % 65536
  let width := (n.reg (Reg.timeOutWidth i)).toNat % 2 ^ 30
  mode = 3 || (mode = 2 && decide (width < 8 ∨ den = 0 ∨ den ≤ num ∨ ns * den + num ≤ width * den ∨ ns < 100 ∨
    1000000000 * den < ns * den + num))

/-- FORMAT of the settings of the whole device: Cox, time, paths, memory and temperature. -/
def Dev.settingsBad (n : Dev) : Bool :=
  let margin := n.fld Reg.coxFinishCfg F.coxFinishCfg_marginNs
  let cap := n.fld Reg.memCfg F.memCfg_bwCap
  let width := n.fld Reg.timePpsCfg F.timePpsCfg_widthMs
  n.fld Reg.coxCtl F.coxCtl_migrateDefault = 0 || decide (margin < 2000 ∨ 20000 < margin) ||
    decide (2 < n.fld Reg.memCfg F.memCfg_preset ∨ cap < 50 ∨ 80 < cap) ||
    decide (2 < n.fld Reg.timeCtl F.timeCtl_preset) || n.fld Reg.timeCtl F.timeCtl_source = 3 || (List.range 8).any n.timedBad ||
    decide (width < 1 ∨ 999 < width ∨ 86399 < n.fld Reg.timeTodJam F.timeTodJam_jam) ||
    decide (31 < n.fld Reg.pathPtpCfg F.pathPtpCfg_port) || decide (2 < n.fld Reg.thmCfg F.thmCfg_preset) ||
    n.fld Reg.thmCfg F.thmCfg_upMs = 0 || n.fld Reg.thmCfg F.thmCfg_downMs = 0 || n.fld Reg.thmCfg F.thmCfg_maxStep = 0 ||
    n.fld Reg.thmCfg F.thmCfg_hyst = 0

/-- Whether STK_BUDGET_CFG and QUANTUM are refused with BUDGET_CFG (R24, R41, R71). -/
def Dev.budgetBad (n : Dev) : Bool :=
  let p := n.fld Reg.stkBudgetCfg F.stkBudgetCfg_livePreset
  decide ((2 < p ∧ p < 7) ∨ 132812 < n.liveCap ∨ 23438 < n.fld Reg.coxBeCfg F.coxBeCfg_quantum)

end Sys2Proof.Machine
end

