-- ==== Sys2Proof/Machine/Admit.lean ====
section
/-! DEFINITION. Admission of a commit as a whole (R20, R30–R37, R43, R446, R494, R527, R559): flows that drivers stage, the matching
store, HBM, the host budget, change orders, and the totals that registers show. -/

namespace Sys2Proof.Machine

/-! ## Flows that drivers stage (R54, R58, R84) -/

/-- Enabled flows that no object has. -/
def Adm.driverFlows (a : Adm) (d : Dev) : List Nat :=
  a.new.flowsOn.filter fun f => d.flowObjAhead f = .none && !a.taken.contains f

/-- Whether the fields of a flow are refused with FORMAT. -/
def Dev.flowBad (n : Dev) (f : Nat) : Bool :=
  let c := n.reg (Reg.coxFlowCfg f)
  let dl := n.reg (Reg.coxFlowDl f)
  let cls := F.coxFlowCfg_resClass.get c
  let req := n.fld (Reg.coxFlowAff f) F.coxFlowAff_homeReq
  decide (4 < cls ∨ 5 < F.coxFlowCfg_rank.get c ∨ 3 < F.coxFlowCfg_subst.get c) || F.coxFlowCfg_need.get c = 0 ||
    decide (F.coxFlowDl_finOff.get dl < F.coxFlowDl_relOff.get dl) || F.coxFlowDl_beTimeout.get dl = 0 ||
    (req ≠ 0x3F && decide ([32, 8, 16, 16, 1].getD cls 0 ≤ req))

/-- Whether a flow of a Crew may have unit `k` of a class as its home (R51, R441). -/
def Dev.homeOk (n : Dev) (cls k crew : Nat) (live : Bool) : Bool :=
  match cls with
  | 2 => n.owner 3 k == crew
  | 4 => true
  | _ => n.mayHome (unitOf cls k) crew live

/-- The home of a driver's flow: the one asked for, the one it has, or the lowest that passes; a Seat homes at most 16 encode flows (R133). -/
def Adm.driverHome (a : Adm) (f cls crew : Nat) (live : Bool) : Option Nat :=
  let req := a.new.fld (Reg.coxFlowAff f) F.coxFlowAff_homeReq
  let had := a.old.fld (Reg.coxFlowAff f) F.coxFlowAff_home
  let l := if req ≠ 0x3F then [req]
    else (if a.old.flowOn f && a.old.flowClass f = cls then [had] else []) ++ List.range ([32, 8, 16, 16, 1].getD cls 0)
  let ok (k : Nat) : Bool := a.new.homeOk cls k crew live
  (l.find? fun k => ok k && !(cls = 0 && decide (16 ≤ a.homed k))).or (l.find? ok)

/-- A driver's flow is admitted. A live one reserves an entry for each Stroke of its window, plus one. DESIGN CHOICE
(notes/assumptions/50.md). -/
def Adm.driverOne (a : Adm) (f : Nat) : Adm :=
  let n := a.new
  if n.flowBad f then a.fail (formatFail true 0)
  else
    let c := n.reg (Reg.coxFlowCfg f)
    let live := F.coxFlowCfg_live.get c = 1
    let cls := F.coxFlowCfg_resClass.get c
    let crew := n.owner 4 f
    let r := if live then min 255 (n.fld (Reg.coxFlowDl f) F.coxFlowDl_finOff + 2) else 0
    match a.driverHome f cls crew live with
    | none => a.fail [{ reason := 0x09, cls := if cls = 0 then 1 else if cls = 1 then 2 else if cls = 2 then 3 else 7 }]
    | some k =>
      let full := decide (cls = 0 ∧ 16 ≤ a.homed k)
      let a : Adm := { a with flows := ⟨f, unitOf cls k, live, r⟩ :: a.flows }
      let a := if full then a.fail [{ reason := 0x07, cls := 1, idx := k, crews := [crew] }] else a
      a.put [setFields (Reg.coxFlowCfg f) [(F.coxFlowCfg_crew, crew), (F.coxFlowCfg_reserve, r)],
        setFields (Reg.coxFlowAff f) [(F.coxFlowAff_home, k)]]

/-- What a driver stages on a flow of an object (R140, R158): only MIGRATE, and ANY not where a channel has several pieces. -/
def Adm.objectFlowFails (a : Adm) (d : Dev) (c : Commit) : List Fail :=
  let migrate : Word := BitVec.ofNat 32 F.coxFlowAff_migrate.mask
  (c.writes.flatMap fun w =>
    let f := (w.1 - 0x310000) / 16
    if w.1 < 0x310000 ∨ 0x320000 ≤ w.1 ∨ d.flowObjAhead f = .none then []
    else
      let keep := if w.1 = Reg.coxFlowAff f then rcMask w.1 &&& ~~~migrate else rcMask w.1
      formatFail ((w.2 ^^^ a.old.reg w.1) &&& keep ≠ 0) 0) ++
  a.encs.flatMap fun e =>
    formatFail (decide (1 < e.2.pieces) &&
      e.2.flows.any fun f => a.new.fld (Reg.coxFlowAff f) F.coxFlowAff_migrate = 1) (0x100 + e.1)

/-- Flows at large: FORMAT of the producers' rank (R52, R355), and the reservations of R58. -/
def Adm.flowsAll (a : Adm) (d : Dev) (c : Commit) : Adm :=
  let a := (a.driverFlows d).foldl Adm.driverOne a
  let ranks := a.new.namedFlows.any fun f => a.new.fld (Reg.coxFlowCfg f) F.coxFlowCfg_rank ≠ 0
  let live := a.flows.filter (·.live)
  a.fail (formatFail ranks 0 ++ a.objectFlowFails d c ++
    (if 8192 < sumBy (·.reserve) live then [{ reason := 0x07, cls := 7, idx := 0, crews := (live.map fun u => a.new.owner 4 u.flow).eraseDups }]
     else []))

/-! ## HBM (R226, R417–R420) -/

/-- The region of a Crew. -/
def Dev.crewRegion (n : Dev) (crew : Nat) : Option Nat :=
  (List.range 8).find? fun r => n.flag (Reg.memRegionCfg r) F.memRegionCfg_enable && n.fld (Reg.memRegionCfg r) F.memRegionCfg_crew = crew

/-- The unit of placement of a region: n × GRAIN (R419). -/
def Dev.regionUnit (n : Dev) (r : Nat) : Nat := (n.regionSet r).length * 2 ^ n.fld (Reg.memRegionCfg r) F.memRegionCfg_grain

/-- Bytes that an object takes in a region: each part a multiple of n × GRAIN. -/
def Dev.memBytes (n : Dev) (r : Nat) (m : MemUse) : Nat :=
  let u := max 1 (n.regionUnit r)
  sumBy (fun b => cdiv b u * u) m.parts

/-- Pools whose channel is disabled, with buffers still held (R222). -/
def Dev.oldPools (d : Dev) : List MemUse :=
  d.pools.filterMap fun p => match p.2 with
    | some q =>
      if q.closing then
        some ⟨if p.1 < 256 then 0x100 + p.1 else 0x200 + (p.1 - 256), if p.1 < 256 then d.owner 1 p.1 else d.owner 2 (p.1 - 256),
          [q.bytes * (q.buffers.filter fun b => !b.free).length], 0⟩
      else none
    | none => none

/-- The objects that do not fit their region: HBM_SPACE, with a pseudo-channel that failed training where the region has one (R425). -/
def Adm.spaceFails (a : Adm) : List Fail :=
  let n := a.new
  (a.mem.foldl (fun (s : List Fail × List (Nat × Nat)) m =>
    if m.parts.all (· = 0) && m.traffic = 0 then s
    else match n.crewRegion m.crew with
      | none => (⟨0x03, m.obj, 5, 0, [m.crew]⟩ :: s.1, s.2)
      | some r =>
        match (n.regionSet r).find? fun k => n.pcState k = 2 with
        | some k => (⟨0x03, m.obj, 5, k, [m.crew]⟩ :: s.1, s.2)
        | none =>
          let used := ((s.2.find? fun p => p.1 = r).map (·.2)).getD 0 + n.memBytes r m
          let size := (n.regionSet r).length * n.fld (Reg.memRegionCfg r) F.memRegionCfg_pcLen * 1048576
          (if size < used then ⟨0x03, m.obj, 5, 0, [m.crew]⟩ :: s.1 else s.1, (r, used) :: s.2.filter fun p => p.1 ≠ r))
    ([], [])).1

/-- Admitted traffic of the pseudo-channels: that of larger objects spread evenly, rounded up, then each smaller one in full on the most
loaded pseudo-channel of its region (R420). -/
def Adm.pcTraffic (a : Adm) : Tab Nat :=
  let n := a.new
  let whole := a.mem.filterMap fun m => (n.crewRegion m.crew).map fun r => (r, m)
  let small (p : Nat × MemUse) : Bool := decide (sumBy id p.2.parts < n.regionUnit p.1)
  let t := (whole.filter fun p => !small p).foldl (fun t p =>
    let s := n.regionSet p.1
    s.foldl (fun t k => Tab.upd zero t k (· + cdiv p.2.traffic s.length)) t) ([] : Tab Nat)
  (whole.filter small).foldl (fun t p =>
    let s := n.regionSet p.1
    match s with
    | [] => t
    | k0 :: _ =>
      let k := s.foldl (fun b k => if Tab.get zero t b < Tab.get zero t k then k else b) k0
      Tab.upd zero t k (· + p.2.traffic)) t

/-- HBM_BANDWIDTH (R420). -/
def Adm.bandwidthFails (a : Adm) (t : Tab Nat) : List Fail :=
  let cap := a.new.fld Reg.memCfg F.memCfg_bwCap * 256000000
  t.filterMap fun p =>
    if cap < p.2 then
      some ⟨0x04, 0, 5, p.1, (a.mem.filterMap fun m => (a.new.crewRegion m.crew).bind fun r =>
        if (a.new.regionSet r).contains p.1 then some m.crew else none).eraseDups⟩
    else none

/-! ## The whole configuration -/

/-- Every object of a configuration is admitted, in the order in which one builds on another. -/
def Adm.objects (a : Adm) (d : Dev) (c : Commit) : Adm :=
  let a := (a.decAsked).progAsked d
  let a := ((a.encAll d).decAll d).progAll d
  let a := (a.audAll d).netAll
  let a := a.flowsAll d c
  { a with mem := a.mem ++ d.oldPools }

/-- Crews whose objects carry host traffic. -/
def Adm.hostCrews (a : Adm) : List Nat :=
  ((a.encs.filter fun e => e.2.hostMBps ≠ 0).map (·.2.crew) ++ (a.progs.filter fun p => p.2.hostMBps ≠ 0).map (·.2.crew)).eraseDups

/-- The tests of resources shared by all objects (R117, R420). -/
def Adm.shared (a : Adm) (d : Dev) : Adm :=
  let m := d.hostScale 5000
  let tooMuch := decide (m < a.host.1 + sumBy (·.rd) d.posts ∨ m < a.host.2 + sumBy (·.wr) d.posts)
  a.fail (a.spaceFails ++ a.bandwidthFails a.pcTraffic ++ bandwidthFail tooMuch 6 16 (a.hostCrews ++ d.posts.map (·.crew)))

/-- The bits of a register's staged ENABLE or VALID field. -/
def enableMask (a : Nat) : Word :=
  match regClass? a with
  | none => 0
  | some (c, _) => BitVec.ofNat 32 (sumBy (fun f => if f.acc = .rc && (f.name = "ENABLE" || f.name = "VALID") then f.fld.mask else 0) c.fields)

/-- The registers in which a commit enables an object. -/
def Adm.enables (a : Adm) (c : Commit) : List Nat :=
  (c.writes.filter fun w => a.new.reg w.1 &&& ~~~(a.old.reg w.1) &&& enableMask w.1 ≠ 0).map (·.1)

/-- Whether a commit would add a classifier entry while the side CAM is full of entries that no seed places (R358). -/
def Adm.camStuck (a : Adm) (d : Dev) (c : Commit) : Bool :=
  let b := d.bank 0
  b.state = 0 && decide (64 ≤ b.before.length + b.since.length) && c.writes.any fun w =>
    decide (0xA10000 ≤ w.1 ∧ w.1 < 0xA30000) && a.new.flag (Reg.egsClsKey ((w.1 - 0xA10000) / 0x20)) F.egsClsKey_valid

/-- The tests of a commit that look at no object alone: its owner (R54, R439), time (R20), recovery and replay (R494, R527), HOLD (R430),
a Charter that is void (R442). -/
def Adm.general (a : Adm) (d : Dev) (c : Commit) : Adm :=
  let on := a.enables c
  let live := a.flows.any (·.live)
  let fresh := a.flows.any fun u => u.live && !(a.old.flowOn u.flow && a.old.flowLive u.flow)
  let free := d.fld Reg.stkStatus F.stkStatus_sync = 0 && !a.new.flag Reg.stkCtl F.stkCtl_allowFree
  let hold (n : Dev) : Bool := n.flag Reg.memCfg F.memCfg_freezeMode
  a.fail
    ((c.writes.flatMap fun w => ownerFail (((a.old.ownerOf w.1).map fun o => decide (o ≠ c.fn)).getD false) 0) ++
     (if fresh && free then [{ reason := 0x0F }] else []) ++ (if a.new.budgetBad then [{ reason := 0x0E }] else []) ++
     ownerFail (d.sec.void && !on.isEmpty) 0 ++ (if a.camStuck d c then [{ reason := 0x07, cls := 9, crews := [0] }] else []) ++
     formatFail (a.new.settingsBad || (d.flag Reg.rstStatus F.rstStatus_recovery && !on.isEmpty) ||
       (d.flag Reg.rplCtl F.rplCtl_replay && on.any fun x => decide (0x901000 ≤ x ∧ x < 0x901200)) ||
       (live && hold a.new && (fresh || !hold a.old))) 0)

/-- Admission under way of a commit of field writes. -/
def Dev.admitting (d : Dev) (c : Commit) : Adm :=
  let old := d.ahead
  let a : Adm := { old := old, new := old.withCommit { c with place := {} }, fn := c.fn, touched := [] }
  ((a.objects d c).shared d).general d c

/-! ## Change orders (R446) -/

/-- Whether an instance of a Charter class is enabled. -/
def Dev.instanceOn (n : Dev) (cls i : Nat) : Bool :=
  let on (a : Nat) : Bool := bitAt (n.reg a).toNat 31
  match cls with
  | 1 => on (Reg.encChCfg i)
  | 2 => on (Reg.decChCfg i)
  | 3 => on (Reg.cmpProgCfg i)
  | 4 => on (Reg.coxFlowCfg i) || n.namedFlows.contains i
  | 5 => on (Reg.egsEqCfg i)
  | 6 => on (Reg.egsSubCfg i)
  | 7 => on (Reg.audGrpCfg i)
  | 8 =>
    if i < 0x20 then on (Reg.audAesiCfg i) else if i < 0x28 then on (Reg.audTdmCfg (i - 0x20))
    else if 0x40 ≤ i ∧ i < 0x60 then on (Reg.audAesoCfg (i - 0x40)) else if 0x100 ≤ i ∧ i < 0x200 then on (Reg.audNetiCfg (i - 0x100))
    else if 0x200 ≤ i ∧ i < 0x240 then on (Reg.audHostCfg (i - 0x200)) else if 0x300 ≤ i then on (Reg.audNetoCfg (i - 0x300)) else false
  | 0x0A => n.keyInUse i
  | _ => false

/-- CLASS of a unit's Charter class, and the first unit number over all classes. -/
def unitBase (cls : Nat) : Nat × Nat := if cls = 0x0C then (1, 0) else if cls = 0x0D then (2, 32) else (7, 56)

/-- FORMAT of an order that names an offender of a class and index. -/
def orderFail (bad : Bool) (cls idx : Nat) : List Fail := if bad then [{ reason := 0x08, cls := cls, idx := idx, crews := [0] }] else []

/-- The tests of an owner entry (R446, R513). -/
def Adm.ownerEntryFails (a : Adm) (cls crew first count : Nat) : List Fail :=
  (List.range count).flatMap fun k =>
    let i := first + k
    let n := a.old
    if n.owner cls i = crew then []
    else if 0x0C ≤ cls ∧ cls ≤ 0x0E then
      let u := (unitBase cls).2 + i
      orderFail (crew ≠ 0x1E && a.flows.any fun f => f.unit = u && n.owner 4 f.flow ≠ crew) (unitBase cls).1 i
    else if cls = 0x0F then orderFail (decide (72 ≤ i) && crew ≠ 0) 0 i
    else orderFail (n.instanceOn cls i) 0 i

/-- Whether two regions share a byte of a pseudo-channel (R417). -/
def Dev.regionsMeet (n : Dev) (r s : Nat) : Bool :=
  let base (r : Nat) : Nat := n.fld (Reg.memRegionCfg r) F.memRegionCfg_pcBase
  let top (r : Nat) : Nat := base r + n.fld (Reg.memRegionCfg r) F.memRegionCfg_pcLen
  decide (base r < top s ∧ base s < top r) && (n.regionSet r).any fun k => (n.regionSet s).contains k

/-- The regions that break a rule of R417 after an order. -/
def Dev.regionsBad (n : Dev) : List Nat :=
  let on := (List.range 8).filter fun r => n.flag (Reg.memRegionCfg r) F.memRegionCfg_enable
  on.filter fun r =>
    let c := Reg.memRegionCfg r
    let crew := n.fld c F.memRegionCfg_crew
    (n.regionSet r).isEmpty || decide (n.fld c F.memRegionCfg_grain < 8 ∨ 16 < n.fld c F.memRegionCfg_grain ∨ 511 < n.fld c F.memRegionCfg_pcBase + n.fld c F.memRegionCfg_pcLen ∨
      16 < crew) || on.any fun s => s ≠ r && (n.regionsMeet r s || n.fld (Reg.memRegionCfg s) F.memRegionCfg_crew = crew)

/-- The regions that an order changes while objects take space in them (R419). -/
def Adm.regionsInUse (a : Adm) (new : Dev) : List Nat :=
  (List.range 8).filter fun r =>
    (List.range 5).any (fun w => a.old.reg (Reg.memRegionCfg r + 4 * w) ≠ new.reg (Reg.memRegionCfg r + 4 * w)) &&
      a.mem.any fun m => a.old.crewRegion m.crew = some r && !m.parts.all (· = 0)

/-- The tests of an order (R446). -/
def Dev.orderFails (d : Dev) (c : Commit) (o : Order) : List Fail :=
  let old := d.ahead
  let a : Adm := ({ old := old, new := old, fn := 0, touched := [] } : Adm).objects d c
  match o.kind with
  | 1 =>
    let l := (charterEntries o.body.length o.body).getD []
    let new := l.foldl Dev.applyEntry old
    (l.flatMap fun e => match e with
      | .owner cls crew first count => a.ownerEntryFails cls crew first count
      | _ => []) ++
    (new.regionsBad.flatMap fun r => orderFail true 5 r) ++ (a.regionsInUse new).flatMap fun r => orderFail true 5 r
  | 2 => orderFail (leAt d.rst.inForce 4 4 = 0xFFFFFFFF) 0 0
  | 3 => orderFail (d.fld Reg.secStatus F.secStatus_debug = o.body.getD 0 0 || d.rst.inForce.getD 13 0 = 1) 0 0
  | 4 => orderFail (!Config.onCurve ((o.body.drop 4).take 96)) 0 (leAt o.body 0 4)
  | 5 => orderFail (decide (leAt o.body 0 4 < d.fld Reg.secFw F.secFw_fwFloor ∨ 65536 ≤ leAt o.body 0 4)) 0 0
  | _ => []

/-! ## The verdict (R37, R39, R559) -/

/-- The latest effect Stroke of the commits accepted ahead. -/
def Dev.latestAhead (d : Dev) : Nat := maxBy (·.effect) d.stk.accepted

/-- The Crews whose own objects use, or would use, a unit, port, class or subscriber (R560). -/
def Adm.usersOf (a : Adm) (cls idx : Nat) : List Nat :=
  let n := a.new
  let homed (u : Nat) : List Nat := (a.flows.filter fun f => f.unit = u).map fun f => n.owner 4 f.flow
  let queues (p : Nat → Bool) : List Nat := ((n.enabledOf (Reg.egsEqCfg 0) 0x20 4096).filter p).map fun q => n.owner 5 q
  match cls with
  | 1 => homed idx
  | 2 => homed (32 + idx)
  | 3 => homed (40 + idx)
  | 6 =>
    if idx < 16 then queues fun q => queuePort n.reg q / 4 = idx
    else if 0x200 ≤ idx then queues fun q => queuePort n.reg q = (idx - 0x200) / 8 && queueClass n.reg q = idx % 8
    else if 0x100 ≤ idx then queues fun q => n.fld (Reg.egsEqCfg q) F.egsEqCfg_sub = idx - 0x100
    else []
  | _ => []

/-- A failure with every Crew that reads its CLASS and INDEX (R560). -/
def Adm.shownTo (a : Adm) (f : Fail) : Fail := { f with crews := (f.crews ++ a.usersOf f.cls f.idx).eraseDups }

/-- The verdict on a commit: the failure reported, if any, and what it decides. -/
def Dev.verdict (d : Dev) (c : Commit) : Option Fail × Placement :=
  let order : List Fail := if c.target ≠ 0 ∧ c.target < d.latestAhead then [{ reason := 0x0C }] else []
  match c.order with
  | some o => (firstFail (order ++ d.orderFails c o), {})
  | none =>
    let a := d.admitting c
    ((firstFail (order ++ a.fails)).map a.shownTo, { a.place with host := a.host })

/-! ## What registers show of the configuration in force -/

/-- Live loads of a unit, in cycles in 1,001 seconds. -/
def Adm.unitRate (a : Adm) (u : Nat) (f : Load → Nat) : Nat := sumBy f (a.loads.filter fun l => l.unit = u)

/-- Cycles a Stroke, rounded up, of cycles in 1,001 seconds (R182). -/
def perStroke (rate : Nat) : Nat := cdiv rate (8000 * 1001)

/-- The read-only registers that total a configuration. -/
def Adm.totals (a : Adm) : List (Nat × Word × Word) :=
  let n := a.new
  let t := a.pcTraffic
  let peak := t.foldl (fun (b : Nat × Nat) p => if b.2 < p.2 then p else b) (0, 0)
  let layers := a.progs.flatMap (·.2.layers)
  let taps := a.progs.flatMap (·.2.taps)
  let pool (m : MemUse) : Nat := sumBy id m.parts
  let mem (lo hi : Nat) : Nat := sumBy pool (a.mem.filter fun m => decide (lo ≤ m.obj ∧ m.obj < hi))
  let netCh (on : List Nat) (r : Nat → Nat) : Nat := sumBy (fun s => F.audNetiCfg_chM1.get (n.reg (r s)) + 1) on
  let budget := 32 * n.liveCap * 8000 * 1001
  [setFields Reg.encAdmit [(F.encAdmit_channels, a.encs.length), (F.encAdmit_loadMilli, sumBy (fun e => if e.2.live then e.2.loadMilli else 0) a.encs)],
   setFields Reg.decAdmit [(F.decAdmit_channels, a.decs.length), (F.decAdmit_loadMilli, sumBy (·.2.loadMilli) a.decs)],
   setFields Reg.decPoolMem [(F.decPoolMem_mib, cdiv (mem 0x100 0x240) 1048576)],
   setFields Reg.cmpAdmit [(F.cmpAdmit_layers, layers.length), (F.cmpAdmit_layerScl, sumBy (fun x => x.holds.length) layers),
     (F.cmpAdmit_tapScl, sumBy (fun x => if x.lines = 0 then 0 else if x.paired then 2 else 1) taps), (F.cmpAdmit_pipes, sumBy (·.2.gang) a.progs)],
   setFields Reg.cmpLoad [(F.cmpLoad_loadMilli, sumBy (·.2.loadMilli) a.progs)],
   setFields Reg.cmpMem [(F.cmpMem_mib, cdiv (mem 0x240 0x280) 1048576)],
   setFields Reg.audAdmit [(F.audAdmit_netInCh, netCh (n.enabledOf (Reg.audNetiCfg 0) 0x10 256) Reg.audNetiCfg),
     (F.audAdmit_netOutCh, netCh (n.enabledOf (Reg.audNetoCfg 0) 0x10 256) Reg.audNetoCfg), (F.audAdmit_asrc, a.asrcNeeds.length)],
   setFields Reg.memAdmit [(F.memAdmit_peakPc, peak.1), (F.memAdmit_peakPermille, min 1023 (peak.2 * 1000 / 25600000000)),
     (F.memAdmit_totalGbps, cdiv (sumBy (·.traffic) a.mem) 1000000000)],
   setFields Reg.stkStatus [(F.stkStatus_live, bit (a.flows.any (·.live)))]] ++
  ((List.range 8).map fun r => setFields (Reg.memRegionUse r) [(F.memRegionUse_usedMib,
    cdiv (sumBy (n.memBytes r) (a.mem.filter fun m => n.crewRegion m.crew = some r)) 1048576)]) ++
  ((List.range 56).map fun u => setFields (Reg.coxUnitState u) [(F.coxUnitState_liveDemand, perStroke (a.unitRate u (·.rate)))]) ++
  (List.range 17).map fun c => setFields (Reg.stkCrewLoad c) [(F.stkCrewLoad_percent,
    if budget = 0 then 0 else 100 * sumBy (·.rate) (a.loads.filter fun l => decide (l.unit < 32) && l.crew = c) / budget)]

/-- The configuration in force, gathered as admission gathers it. -/
def Dev.inForce (d : Dev) : Adm :=
  let d := { d with stk := { d.stk with accepted := [] } }
  ({ old := d, new := d, fn := 0, touched := [] } : Adm).objects d
    { fn := 0, target := 0, writes := [], admitting := false, effect := 0, builds := [], order := none, place := {} }

/-- Registers and books follow the configuration in force: totals, search-cut demands (R184), the host budget in use (R117), where the
larger of the two counts while an accepted commit waits. -/
def Dev.showAdmitted (d : Dev) : Dev :=
  let a := d.inForce
  let d := a.totals.foldl Dev.takeBits d
  let most (was now : Nat) : Nat := if d.stk.accepted.isEmpty then now else max was now
  let d := d.onCox fun c => { c with cut := (List.range 56).foldl (fun t u => Tab.put zero t u (perStroke (a.unitRate u (·.cut)))) [] }
  (d.onHif fun h => { h with liveRd := most h.liveRd a.host.1, liveWr := most h.liveWr a.host.2 }).showReserved

end Sys2Proof.Machine
end

