-- ==== Sys2Proof/Machine/Commits.lean ====
section
/-! DEFINITION. Commits from write to effect (R13, R34–R40, R44–R46, R49, R358): what STK_COMMIT_STATUS reports, the tables that a
commit builds, and what its effect starts, changes and ends. -/

namespace Sys2Proof.Machine

/-- Changes the commit queue and the tables. -/
def Dev.onStk (d : Dev) (f : Stk → Stk) : Dev := { d with stk := f d.stk }

/-! ## What a function reads of its commit (R36, R43, R560) -/

/-- Commits that a function has written. -/
def Dev.seqOfFn (d : Dev) (fn : Nat) : Nat := Tab.get zero d.stk.seqs fn

/-- Shows STATE, REASON and DETAIL of a commit, while it is the last that its function has written. -/
def Dev.showCommit (d : Dev) (c : Commit) (state reason detail : Nat) : Dev :=
  if c.order.isSome ∨ d.seqOfFn c.fn ≠ c.seq then d
  else
    let w := pack [(reason, F.stkCommitStatus_reason.lo), (state, F.stkCommitStatus_state.lo), (c.seq % 65536, F.stkCommitStatus_seq.lo)]
    (d.setFnReg c.fn Reg.stkCommitStatus (BitVec.ofNat 32 w)).setFnReg c.fn Reg.stkCommitDetail (BitVec.ofNat 32 detail)

/-- Shows the Stroke of an ACCEPTED or EFFECTIVE commit. -/
def Dev.showStroke (d : Dev) (c : Commit) (s : Nat) : Dev :=
  if c.order.isSome then d
  else (d.setFnReg c.fn Reg.stkCommitStrokeLo (BitVec.ofNat 32 s)).setFnReg c.fn Reg.stkCommitStrokeHi (BitVec.ofNat 32 (s / 2 ^ 32))

/-- STK_COMMIT_DETAIL as a function reads it: CLASS and INDEX of resources that its own objects use, OBJECT of its own (R560). -/
def Dev.detailFor (d : Dev) (fn : Nat) (f : Fail) : Nat :=
  let mine := f.crews.contains fn
  let own := ((objKind f.obj).bind ObjKind.charter).any fun p => d.owner p.1 p.2 = fn
  detailWord (if mine then f.cls else 0) (if mine then f.idx else 0) (if own then f.obj else 0)

/-- Refuses a commit: its fields stay staged (R13). -/
def Dev.refuseCommit (d : Dev) (c : Commit) (f : Fail) : Dev :=
  match c.order with
  | some _ => d.orderRefused f.reason (d.detailFor 0 f)
  | none => d.showCommit c 5 f.reason (d.detailFor c.fn f)

/-! ## Tables (R44–R46, R358) -/

/-- The place of a table in STK_BANK_STATUS. -/
def tableIdx : TableId → Nat
  | .classifier => 0
  | .key => 1
  | .gate => 2
  | .tone => 3
  | .affinity => 4

/-- The entries of a table that words of a commit change: classifier entries, ports, flows. Keys and tone LUTs are changed by
descriptors (Tables.lean). -/
def tableEntries (t : TableId) (writes : List (Nat × Word)) : List Nat :=
  (writes.filterMap fun w =>
    let a := w.1
    match t with
    | .classifier => if 0xA10000 ≤ a ∧ a < 0xA30000 then some ((a - 0xA10000) / 0x20) else none
    | .gate =>
      if 0xA90000 ≤ a ∧ a < 0xAA0000 then some ((a - 0xA90000) / 0x400)
      else if 0xA80000 ≤ a ∧ a < 0xA84000 ∧ 0xC0 ≤ a % 0x100 then some ((a - 0xA80000) / 0x100) else none
    | .affinity => if 0x310000 ≤ a ∧ a < 0x320000 ∧ a % 16 = 8 then some ((a - 0x310000) / 16) else none
    | _ => none).eraseDups

/-- Side-CAM entries of a table in use. -/
def Bank.used (b : Bank) : Nat := b.before.length + b.since.length

/-- Whether a commit waits for a build of a table: it changes entries that cannot go to the side CAM, because no build is under way,
the side CAM lacks room, or the table has none (R45, R46). DESIGN CHOICE (notes/assumptions/17.md). -/
def Dev.needsBuild (d : Dev) (c : Commit) (t : TableId) : Bool :=
  let l := tableEntries t c.writes
  let b := d.bank (tableIdx t)
  !l.isEmpty && (b.state = 0 || t == .gate || decide (64 < b.used + l.length))

/-- At the first boundary after its write a commit is ADMITTING, and the tables it changes are built. -/
def Dev.beginAdmission (d : Dev) (c : Commit) : Dev × Commit :=
  let l := [TableId.classifier, .gate, .affinity].filter (d.needsBuild c)
  let d := l.foldl (fun d t => d.onBank (tableIdx t) fun b => { b with state := 1 }) d
  let c := { c with admitting := true, builds := l }
  (d.showCommit c 2 0 0, c)

/-- Every QUEUED commit becomes ADMITTING. -/
def Dev.admitQueued (d : Dev) : Dev :=
  let r : Dev × List Commit := d.stk.queue.foldl (fun (s : Dev × List Commit) c =>
    if c.admitting then (s.1, s.2 ++ [c])
    else
      ((s.1.beginAdmission c).1, s.2 ++ [(s.1.beginAdmission c).2])) (d, [])
  r.1.onStk fun k => { k with queue := r.2 }

/-- The key of a classifier entry, as a number. -/
def Dev.entryKey (d : Dev) (e : Nat) : Nat :=
  ([0, 4, 8, 12].foldl (fun k o => k * 2 ^ 32 + (d.reg (Reg.egsClsDip e 0 + o)).toNat) 0 * 2 ^ 32 + (d.reg (Reg.egsClsKey e)).toNat) * 65536 +
    d.fld (Reg.egsClsFlow e) F.egsClsFlow_udpDport

/-- Valid classifier entries. -/
def Dev.classifierEntries (d : Dev) : List Nat := d.enabledOf (Reg.egsClsKey 0) 0x20 4096

/-- The entries that find no place under a seed. -/
def Dev.unplacedUnder (d : Dev) (seed : Nat) : List Nat :=
  let l := d.classifierEntries
  let keys := l.map d.entryKey
  l.filter fun e => Config.unplaced seed keys (d.entryKey e)

/-- The seed of a new bank, and the entries left in the side CAM: seeds are taken in turn from `first`, and where all 16 fail the
first stays (R358). -/
def Dev.chooseSeed (d : Dev) (first : Nat) : Nat × List Nat :=
  match (List.range 16).find? fun i => (d.unplacedUnder ((first + i) % 16)).isEmpty with
  | some i => ((first + i) % 16, [])
  | none => (first % 16, d.unplacedUnder (first % 16))

/-- The Crews whose objects use a table. -/
def Dev.tableCrews (d : Dev) (t : TableId) : List Nat :=
  (match t with
   | .classifier => d.classedFlows.map d.flowCrew
   | .key => d.sec.keys.map fun (p : Nat × Option KeySlot) => d.owner 0x0A p.1
   | .gate => [0]
   | .tone => d.progsOn.map (d.owner 3)
   | .affinity => d.flowsOn.map d.flowCrew).eraseDups.filter fun c => decide (c < 17)

/-- The banks of a table swap: side-CAM entries that the new bank holds are released, those written since the build began are kept,
and the swap is recorded (R44, R45, R522). A new seed of the classifier completes a rehash (R358). -/
def Dev.swapBank (d : Dev) (t : TableId) : Dev :=
  let i := tableIdx t
  let b := d.bank i
  let d := (d.tableCrews t).foldl (fun d c => d.record c 0x05 0 0 [i]) d
  if t == .classifier then
    let st := Reg.egsClsStatus
    let seed := d.fld st F.egsClsStatus_seed
    let r := d.chooseSeed (if b.rehash then seed + 1 else seed)
    let d := d.onBank i fun b => { state := 0, before := r.2 ++ b.since, since := [], rehash := false }
    let d := d.setFld st F.egsClsStatus_seed r.1
    let d := if b.rehash || r.1 ≠ seed then d.addFld st F.egsClsStatus_rehashes 1 else d
    if b.since ≠ [] ∧ d.fld Reg.egsClsCfg F.egsClsCfg_rehashAt < (d.bank i).used then d.rehash else d
  else d.onBank i fun b => { state := 0, before := b.since, since := [], rehash := false }

/-- A rehash that is ready swaps at a boundary (R44), unless a commit waits for the same build, which then swaps at its effect (R46). -/
def Dev.swapRehashed (d : Dev) : Dev :=
  let b := d.bank 0
  if b.rehash && b.state = 2 && !(d.stk.queue ++ d.stk.accepted).any fun c => c.builds.contains .classifier then d.swapBank .classifier
  else d

/-- The tables that a commit changes, at its effect: those built for it swap; of the others its entries are in the side CAM, and a
classifier build that runs begins again with them (R45, R358). -/
def Dev.tablesAtEffect (d : Dev) (c : Commit) : Dev :=
  [TableId.classifier, .gate, .affinity].foldl (fun d t =>
    let l := tableEntries t c.writes
    let b := d.bank (tableIdx t)
    if l.isEmpty then d
    else if c.builds.contains t && b.state = 2 then d.swapBank t
    else if c.builds.contains t || b.state = 0 then d
    else d.onBank (tableIdx t) fun b =>
      { b with state := (if t == .classifier then 1 else b.state), since := (b.since ++ l).eraseDups.take (64 - b.before.length) }) d

/-- The builds of a commit that is refused are given up. -/
def Dev.dropBuilds (d : Dev) (c : Commit) : Dev :=
  c.builds.foldl (fun d t => d.onBank (tableIdx t) fun b =>
    if b.rehash then b else { state := 0, before := b.before ++ b.since, since := [], rehash := false }) d

/-- TABLE_BUILD_DONE (R44): a build that runs makes its table SHADOW_READY. -/
def execTableBuildDone (table : TableId) (s : State) : Host.Outcome State Fault Refusal :=
  s.lift fun d => d.onBank (tableIdx table) fun b => if b.state = 1 then { b with state := 2 } else b

/-! ## Registers and flows at the effect (R13, R80, R81, R158) -/

/-- After an effect the staged fields are the values in force, except where its function has staged others since. The values of the
flows of objects replace what was staged on them, MIGRATE apart (R158). -/
def Dev.settleStaged (d : Dev) (c : Commit) : Dev :=
  let flows := c.place.flows.map (·.1)
  let migrate : Word := BitVec.ofNat 32 F.coxFlowAff_migrate.mask
  { d with staged := d.staged.filterMap fun p =>
      let a := p.1 % 2 ^ 32
      let now := d.reg a &&& rcMask a
      p.2.bind fun w =>
        let w' := if 0x310000 ≤ a ∧ a < 0x320000 ∧ flows.contains ((a - 0x310000) / 16) then
            (if a % 16 = 8 then mergeWord migrate w now else now)
          else w
        if (p.1 / 2 ^ 32 = c.fn ∧ c.writes.contains (a, w)) ∨ w' = now then none else some (p.1, some w') }

/-- The flows whose registers a commit writes or decides. -/
def Commit.flowsMoved (c : Commit) : List Nat :=
  ((c.writes.map (·.1) ++ c.place.regs.map (·.1)).filterMap fun a =>
    if 0x310000 ≤ a ∧ a < 0x320000 then some ((a - 0x310000) / 16) else none).eraseDups

/-- Flows that a commit disables are withdrawn, before its registers change (R80). -/
def Dev.withdrawFor (d new : Dev) (c : Commit) : Dev :=
  (c.flowsMoved.filter fun f => d.flowOn f && !new.flowOn f).foldl Dev.withdrawFlow d

/-- A flow that changes keeps its old settings for the items released earlier (R81). -/
def Dev.flowsChanged (d old : Dev) (c : Commit) : Dev :=
  c.flowsMoved.foldl (fun d f =>
    let x := Reg.coxFlowCfg f
    let y := Reg.coxFlowDl f
    let z := Reg.coxFlowAff f
    if old.reg x = d.reg x ∧ old.reg y = d.reg y ∧ old.reg z = d.reg z then d
    else d.onCox fun k =>
      { k with was := Tab.upd noWas k.was f fun l =>
          if old.flowOn f && d.flowOn f then (d.now, old.reg x, old.reg y, old.reg z) :: l.filter (fun w => decide (d.now < w.1 + 1024))
          else [] }) d

/-- A flow of no object. -/
def noFlowObj (_ : Nat) : FlowObj := FlowObj.none

/-- Sets the object of a flow. -/
def Dev.setFlowObj (d : Dev) (f : Nat) (o : FlowObj) : Dev :=
  d.onCox fun k => { k with flowObj := Tab.put noFlowObj k.flowObj f o }

/-- A flow that its object has left: withdrawn, and its registers at their reset values (R80, R158). -/
def Dev.retireFlow (d : Dev) (f : Nat) : Dev :=
  let d := (flowReset f).foldl Dev.takeBits (d.withdrawFlow f)
  let d := { d with staged := d.staged.filter fun p => !(0x310000 + 16 * f ≤ p.1 % 2 ^ 32 && p.1 % 2 ^ 32 < 0x310010 + 16 * f) }
  (d.setFlowObj f .none).onCox fun k => { k with was := Tab.put noWas k.was f [] }

/-! ## Encode channels (R147, R154, R156) -/

/-- The MDCV and CLL values until SET_HDR sets others (R147), as words 3–9 of that descriptor. -/
def hdrDefault : List Nat :=
  [8500 * 65536 + 39850, 6550 * 65536 + 2300, 35400 * 65536 + 14600, 15635 * 65536 + 16450, 10000000, 50, 1000 * 65536 + 400]

/-- The first frame whose boundary is at or after the current one; host pictures are counted from 0 (R154, R288). -/
def Dev.firstFrame (d : Dev) (g : EncCfg) : Nat := if g.srcType = 4 then 0 else cdiv (d.now * g.num) (8000 * g.den)

/-- Whether a best-effort channel has not begun the picture it stands at. -/
def Dev.notBegun (d : Dev) (x : EncDyn) : Bool :=
  let fs := (x.cfgs.head?).elim [] fun p => p.2.flows
  !(d.cox.items.any fun i => fs.contains i.flow && (bitAt i.filled 0 || i.unit.isSome)) &&
    x.bands.all fun r => r.j ≠ x.place || r.pieces.all fun p => !p.done && p.bits = 0

/-- The pool of an encode channel, created or of another size (R222, R225). -/
def Dev.poolEnc (d : Dev) (c : Nat) (g : EncCfg) : Dev :=
  d.setPool c (some (match d.pool? c with
    | none => newPool (0x100 + c) (g.refCount + 1) g.bufBytes
    | some p =>
      if p.closing then newPool (0x100 + c) (g.refCount + 1) g.bufBytes
      else if p.bytes = g.bufBytes ∧ p.buffers.length = g.refCount + 1 then p
      else p.resized (0x100 + c) (g.refCount + 1) g.bufBytes))

/-- Settings as search takes them from the current Stroke on (R187), with those that items still to be coded were released under. -/
def EncDyn.searchFrom (x : EncDyn) (now : Nat) (g : EncCfg) : EncDyn :=
  { x with search := (now, g) :: x.search.filter (fun p => decide (now < p.1 + 1024)) ++
      (x.search.filter fun p => decide (p.1 + 1024 ≤ now)).take 1 }

/-- An encode channel starts, or takes new settings from a frame on (R154); a live one that loses HOST_COPY ends its BS_POST (R165). -/
def Dev.startEnc (d : Dev) (c : Nat) (g : EncCfg) : Dev :=
  match d.enc? c with
  | none =>
    let k := d.firstFrame g
    let x : EncDyn := { cfgs := [(k, g)], first := k, place := k, hdr := hdrDefault, search := [(d.now, g)] }
    let d := ({ d with enc := Tab.put noEnc d.enc c (some x) }.setReg (Reg.encChRcStat c) 0).poolEnc c g
    if g.live then d else d.startPicture c g k
  | some x =>
    let be := ((x.cfgs.head?).map fun p => !p.2.live).getD false
    let still := d.notBegun x
    let k := if g.live || !be then d.firstFrame g else if still then x.place else x.place + 1
    let d := if g.live && !g.hostCopy then d.endDescs (fun y => y.opcode = 0x30 && y.object = 0x100 + c) 0x23 else d
    let d := (d.poolEnc c g).onEnc c fun x =>
      let x := x.searchFrom d.now g
      { x with cfgs := (k, g) :: x.cfgs.filter (fun p => decide (p.1 < k)), place := (if g.live || be then x.place else k)
               bands := (if be && still then x.bands.filter fun r => r.j ≠ x.place else x.bands)
               pictures := (if be && still then x.pictures.filter fun p => p.1 ≠ x.place else x.pictures) }
    if !g.live && (!be || still) then d.startPicture c g k else d

/-- An encode channel ends: what waits on it is shut down, the flows of its earlier settings go with it, and its pool at the next
boundary (R80, R156, R222, R556). -/
def Dev.stopEnc (d : Dev) (c : Nat) : Dev :=
  match d.enc? c with
  | none => d
  | some x =>
    let d := (x.force.map (·.desc) ++ x.hdrNext ++ x.posts).foldl (fun d y => d.finish y 0x23 []) d
    let fs := (x.cfgs.flatMap fun p => p.2.pktFlow :: p.2.flows).filter fun f =>
      match d.flowObj f with
      | .encPiece e _ => e = c
      | .encPkt e => e = c
      | _ => false
    let d := fs.foldl Dev.retireFlow d
    let d := d.setPool c ((d.pool? c).map fun p => { p with closing := true, buffers := p.buffers.map fun _ => Buffer.empty })
    { d with enc := Tab.put noEnc d.enc c none }

/-- Whether the items of settings that others follow from frame `k` on are over. -/
def Dev.settingsOver (d : Dev) (x : EncDyn) (g : EncCfg) (k : Nat) : Bool :=
  if g.live then k = 0 || decide (g.release (k - 1) (g.bands - 1) + 5 ≤ d.now) else decide (k ≤ x.place)

/-- The flows of settings that are over go (R81, R154). -/
def Dev.retireEnc (d : Dev) (c : Nat) : Dev :=
  match d.enc? c with
  | none => d
  | some x =>
    let own (g : EncCfg) : List Nat := g.pktFlow :: g.flows
    let pairs := x.cfgs.zip (x.cfgs.drop 1)
    let ended := pairs.filter fun p => d.settingsOver x p.2.2 p.1.1
    let keep := (x.cfgs.head?.elim [] fun p => own p.2) ++
      (pairs.filter fun p => !d.settingsOver x p.2.2 p.1.1).flatMap fun p => own p.2.2
    ((ended.flatMap fun p => own p.2.2).filter fun f => !keep.contains f && d.flowOn f &&
      (match d.flowObj f with
       | .encPiece e _ => e = c
       | .encPkt e => e = c
       | _ => false)).eraseDups.foldl Dev.retireFlow d

/-! ## Other blocks -/

/-- A decode channel starts, changes its place, or restarts (R557). -/
def Dev.commitDec (d : Dev) (c : Nat) (g : DecCfg) : Dev :=
  match d.dec? c with
  | none => d.startDec c g
  | some x =>
    if x.cfg.raw = g.raw then d.onDec c fun x => { x with cfg := g }
    else ((d.abortObject (.dec c)).stopDec c).startDec c g

/-- Audio inputs and ports that a commit enables are unlocked until they lock; those it disables stop (R296, R301, R310). -/
def Dev.commitInputs (d old : Dev) : Dev :=
  let d := (List.range 32).foldl (fun d i =>
    let a := Reg.audAesiCfg i
    let was := old.flag a F.audAesiCfg_enable
    let is := d.flag a F.audAesiCfg_enable
    if was = is then d
    else if is then d.unlock i
    else ((d.relock i).setFld (Reg.audAesiStatus i) F.audAesiStatus_lock 0).onAud fun x => { x with cs := Tab.put noCs x.cs i (noCs 0) }) d
  (List.range 8).foldl (fun d p =>
    let a := Reg.audTdmCfg p
    let mode (n : Dev) : Nat := if n.flag a F.audTdmCfg_enable then 1 + n.fld a F.audTdmCfg_role else 0
    let ok (v : Nat) : Dev := d.setFld (Reg.audTdmStatus p) F.audTdmStatus_clockOk v
    if mode old = mode d then d
    else match mode d with
      | 1 => (ok 1).relock (0x20 + p)
      | 2 => (ok 0).unlock (0x20 + p)
      | _ => (ok 0).relock (0x20 + p)) d

/-- Slot masks that a commit writes hold from now on (R320). -/
def Dev.commitMasks (d : Dev) (c : Commit) : Dev :=
  (List.range 10).foldl (fun d p =>
    [(0, Reg.audMaskIn p), (1, Reg.audMaskOut p)].foldl (fun d m =>
      if c.writes.any fun w => w.1 = m.2 then
        d.onAud fun a => { a with masks := Tab.upd noMasks a.masks (2 * p + m.1) fun l => ((d.now, (d.reg m.2).toNat) :: l).take 64 }
      else d) d) d

/-- BASE of a port's staged gate list. -/
def Dev.gateBase (d : Dev) (m : Nat) : Nat :=
  timeWords (d.reg (Reg.egsGclBaseNs m)).toNat (d.reg (Reg.egsGclBaseSecLo m)).toNat (d.reg (Reg.egsGclBaseSecHi m)).toNat

/-- Whether a written classifier entry starts anew against the settings before: it becomes valid, or what it matches changes. -/
def Dev.entryFresh (d old : Dev) (e : Nat) : Bool :=
  d.flag (Reg.egsClsKey e) F.egsClsKey_valid && (!old.flag (Reg.egsClsKey e) F.egsClsKey_valid || decide (d.entryKey e ≠ old.entryKey e))

/-- Policers at an effect: one that the commit enables is full (R359); one whose rate or burst changes keeps the level it has reached.
The rest keep filling. -/
def Dev.policersAfter (d old : Dev) (entries : List Nat) (t : Tab (Option Bucket)) : Tab (Option Bucket) :=
  (t.filter fun p => !(entries.contains (p.1 / 2) &&
    (d.entryFresh old (p.1 / 2) || decide (old.fld (Reg.egsClsPol (p.1 / 2)) F.egsClsPol_kbps = 0)))).map fun p =>
      let e := p.1 / 2
      if entries.contains e then
        (p.1, some ⟨levelOf p.2 (old.fld (Reg.egsClsPol e) F.egsClsPol_kbps) (old.fld (Reg.egsClsSec e) F.egsClsSec_bytes)
          (d.localNs 0), d.localNs 0⟩)
      else p

/-- The SRTP windows at an effect: the index of an entry goes on across a change of KEY (R458); it starts again where the entry starts
anew or SRTP is switched on (R360). -/
def Dev.replayAfter (d old : Dev) (entries : List Nat) (t : Tab (List Nat)) : Tab (List Nat) :=
  t.filter fun p => !(entries.contains p.1 &&
    (d.entryFresh old p.1 || !old.flag (Reg.egsClsSec p.1) F.egsClsSec_srtp))

/-- The buckets of egress at an effect: one whose rate or burst changes keeps the level that it reached under the old ones (R365). -/
def Dev.settleBuckets (d old : Dev) : Dev :=
  let settle (p : Nat × Option Bucket) : Nat × Option Bucket :=
    if d.bucketOf p.1 = old.bucketOf p.1 then p else (p.1, some ⟨old.bucketLevel p.1 (d.localNs 0), d.localNs 0⟩)
  d.onEgs fun e => { e with buckets := e.buckets.map settle }

/-- The traffic block at an effect: a gate list that is written becomes pending, or its gates open (R369, R370); policers and SRTP
windows of written entries go on or start again (R359, R360, R458); a queue that is enabled counts its packets from 0. -/
def Dev.commitEgress (d old : Dev) (c : Commit) : Dev :=
  let d := (tableEntries .gate c.writes).foldl (fun d m =>
    if d.flag (Reg.egsGclCtl m) F.egsGclCtl_enable then d.gatePend m ⟨d.gateEntries m, d.gateBase m⟩
    else if old.flag (Reg.egsGclCtl m) F.egsGclCtl_enable then d.gateOpen m else d) d
  let entries := tableEntries .classifier c.writes
  let queues := (c.writes.filterMap fun w =>
    if 0xA40000 ≤ w.1 ∧ w.1 < 0xA60000 ∧ w.1 % 0x20 = 0 ∧ !bitAt (old.reg w.1).toNat 31 then some ((w.1 - 0xA40000) / 0x20) else none)
  d.onEgs fun e =>
    { e with policers := d.policersAfter old entries e.policers
             replay := d.replayAfter old entries e.replay
             sent := e.sent.filter fun p => !queues.contains p.1 }

/-- Objects that an effect disables end, with what names them (R165, R193, R222, R276, R321, R556). -/
def Dev.endObjects (d old : Dev) : Dev :=
  let gone (on : Dev → List Nat) : List Nat := (on old).filter fun i => !(on d).contains i
  let d := (gone Dev.encsOn).foldl (fun d c => ((d.abortObject (.enc c)).abortObject (.pic c)).stopEnc c) d
  let d := (gone Dev.decsOn).foldl (fun d c => (d.abortObject (.dec c)).stopDec c) d
  let d := (gone Dev.progsOn).foldl (fun d p => (d.abortObject (.prog p)).stopProg p) d
  let d := (gone Dev.groupsOn).foldl (fun d g => (d.abortObject (.group g)).stopGrp g) d
  (gone fun n => n.enabledOf (Reg.audHostCfg 0) 0x10 64).foldl (fun d h => d.abortObject (.stream h)) d

/-- What admission decided of objects starts or changes them. -/
def Dev.startObjects (d : Dev) (p : Placement) : Dev :=
  let d := p.decs.foldl (fun d x => d.commitDec x.1 x.2) d
  let d := p.progs.foldl (fun d x => d.startProg x.1 x.2) d
  let d := p.encs.foldl (fun d x => d.startEnc x.1 x.2) d
  let d := p.auds.foldl (fun d x => d.startGrp x.1 x.2) d
  match p.asrcs with
  | some t => d.onAud fun a => { a with asrcs := t }
  | none => d

/-- All of a commit takes effect (R34): tables, registers, flows, objects, and the blocks whose settings it changes; a block in reset
takes them when it is released (R40). -/
def Dev.commitEffect (d : Dev) (c : Commit) : Dev :=
  let old := d
  let d := d.withdrawFor (d.withCommit c) c
  let d := (d.withCommit c).settleStaged c
  let d := d.tablesAtEffect c
  let d := (d.flowsChanged old c).endObjects old
  let d := c.place.flows.foldl (fun d f => d.setFlowObj f.1 f.2) d
  let d := d.startObjects c.place
  let d := ((d.commitInputs old).commitMasks c).commitEgress old c
  let d := if c.writes.any fun w => w.1 = Reg.audClkCfg then d.houseCommit else d
  let d := if d.inReset 4 then d else d.lanesAfterCommit old.reg
  let d := ((List.range 8).filter fun n => c.writes.any fun w => decide (Reg.timeOutCfg n ≤ w.1 ∧ w.1 < Reg.timeOutCfg (n + 1))).foldl
    Dev.outCommit d
  let d := if d.live = old.live then d else d.showInc
  d.capStep.showAdmitted.settleBuckets old

/-- A commit takes effect, is reported, and is recorded in its Crew's log (R39, R522). -/
def Dev.takeEffect (d : Dev) (c : Commit) : Dev :=
  let d := ((d.commitEffect c).showCommit c 4 0 0).showStroke c d.now
  d.record c.fn 0x01 0 0 [c.seq % 2 ^ 32, d.nowLo]

/-! ## The boundary (R34–R39, R447) -/

/-- Commits whose target Stroke comes before they are accepted are refused (R38). -/
def Dev.missTargets (d : Dev) : Dev :=
  let late (c : Commit) : Bool := c.target ≠ 0 && decide (c.target ≤ d.now)
  let gone := d.stk.queue.filter late
  gone.foldl (fun d c => (d.dropBuilds c).refuseCommit c { reason := 0x0B })
    (d.onStk fun k => { k with queue := k.queue.filter fun c => !late c })

/-- What becomes of one accepted commit at a boundary: an order waits until its pending records are written, and misses its target
without them (R447). -/
def acceptedAt (x : HbmDev) (c : Commit) : HbmDev :=
  let d := x.2
  let out (d : Dev) : Dev := d.onStk fun k => { k with accepted := k.accepted.filter fun e => e ≠ c }
  if d.now < c.effect then x
  else match c.order with
    | none => (x.1, (out d).takeEffect c)
    | some o =>
      if (d.sec.order.map (·.pendingWritten)).getD false then
        let y := applyOrder o (x.1, out d)
        (y.1, y.2.showAdmitted.record 0 0x01 0 0 [o.seq % 2 ^ 32, d.nowLo])
      else if c.target ≠ 0 then (x.1, (out d).orderRefused 0x0B 0)
      else x

/-- Accepted commits whose Stroke has come take effect in the order of admission (R35). -/
def effects (x : HbmDev) : HbmDev := x.2.stk.accepted.foldl acceptedAt x

/-! ## Commands -/

/-- STK_COMMIT_WRITE (R34, R36, R38): a function submits its staged fields. A change order that waits is no commit of PF0's own here.
DESIGN CHOICE (notes/assumptions/67.md). -/
def Dev.commitWrite (d : Dev) (fn target : Nat) : Dev :=
  if !d.mayWrite fn Reg.stkCommit then d
  else
    let n := d.seqOfFn fn + 1
    let t := if target % 2 ^ 32 = 0 then 0 else strokeOf d.now target
    let c : Commit := { fn := fn, target := t, writes := d.stagedOf fn, admitting := false, effect := 0, builds := [], order := none,
                        place := {}, seq := n }
    let d := d.onStk fun k => { k with seqs := Tab.put zero k.seqs fn n }
    if d.stk.queue.any fun q => q.fn = fn && q.order.isNone then d.refuseCommit c { reason := 0x0D }
    else if target % 2 ^ 32 ≠ 0 ∧ t ≤ d.now then d.refuseCommit c { reason := 0x0A }
    else (d.onStk fun k => { k with queue := k.queue ++ [c] }).showCommit c 1 0 0

/-- STK_COMMIT_WRITE. -/
def execStkCommitWrite (fn target : Nat) (s : State) : Host.Outcome State Fault Refusal := s.lift fun d => d.commitWrite fn target

/-- A commit is accepted (R35, R39): its effect Stroke is its target, or with target 0 the next boundary, never before the target
of a commit accepted ahead. -/
def Dev.acceptCommit (d : Dev) (c : Commit) (p : Placement) : Dev :=
  let e := if c.target ≠ 0 then c.target else max (d.now + 1) d.latestAhead
  let c := { c with effect := e, place := p }
  let d := d.onStk fun k => { k with accepted := k.accepted ++ [c] }
  let d := d.onHif fun h => { h with liveRd := max h.liveRd p.host.1, liveWr := max h.liveWr p.host.2 }
  match c.order with
  | some _ => d.orderAccepted
  | none => (d.showCommit c 3 0 0).showStroke c e

/-- The pools that a placement makes or enlarges, as (handle, Crew, bytes) (R222, R226). -/
def Dev.poolsMade (d : Dev) (p : Placement) : List (Nat × Nat × Nat) :=
  (p.encs.filterMap fun (e : Nat × EncCfg) =>
    let n := (e.2.refCount + 1) * e.2.bufBytes
    let has := ((d.pool? e.1).map fun q => if q.closing then 0 else q.bytes * q.buffers.length).getD 0
    if has < n then some (0x100 + e.1, e.2.crew, n) else none) ++
  p.decs.filterMap fun (e : Nat × DecCfg) =>
    if (d.dec? e.1).any fun x => x.cfg.raw = e.2.raw then none else some (0x200 + e.1, e.2.crew, e.2.buffers * e.2.bufBytes)

/-- The pools of a commit are filled with zeros in their Crews' regions (R226). -/
def fillPools (x : HbmDev) (l : List (Nat × Nat × Nat)) : HbmDev :=
  l.foldl (fun x p =>
    match x.2.crewRegion p.2.1 with
    | none => x
    | some r => zeroRegion x r (Config.placedAt p.1 p.2.2 * x.2.regionUnit r) p.2.2) x

/-- COMMIT_ADMISSION_DONE (R30, R35, R37): once the tables it needs are built, the oldest commit is accepted or refused. One that makes
pools has them filled first; it stays ADMITTING, and is judged again once that is done (R226). DESIGN CHOICE (notes/assumptions/72.md). -/
def admissionDone (x : HbmDev) : HbmDev :=
  let d := x.2
  match d.stk.queue with
  | [] => x
  | c :: rest =>
    if !c.admitting || !d.fwRuns || !(c.builds.all fun t => (d.bank (tableIdx t)).state = 2) then x
    else
      let v := d.verdict c
      let out := d.onStk fun k => { k with queue := rest }
      match v.1 with
      | some f => (x.1, (out.dropBuilds c).refuseCommit c f)
      | none =>
        let made := d.poolsMade v.2
        match c.filled with
        | some t =>
          if d.now < t then x
          else
            let y := fillPools (x.1, out) made
            (y.1, y.2.acceptCommit c v.2)
        | none =>
          if made = [] then (x.1, out.acceptCommit c v.2)
          else (x.1, d.onStk fun k => { k with queue := { c with filled := some (d.now + Config.fillStrokes (sumBy (·.2.2) made)) } :: rest })

/-- COMMIT_ADMISSION_DONE. -/
def execCommitAdmissionDone (s : State) : Host.Outcome State Fault Refusal := s.liftMem admissionDone

/-- A function's QUEUED and ADMITTING commit is refused with WITHDRAWN (R40), and with `accepted` its ACCEPTED ones too (R450). -/
def Dev.withdrawCommits (d : Dev) (fn : Nat) (accepted : Bool) : Dev :=
  let mine (c : Commit) : Bool := c.fn = fn
  let gone := (if accepted then d.stk.accepted.filter mine else []) ++ d.stk.queue.filter mine
  let d := d.onStk fun k =>
    { k with queue := k.queue.filter fun c => !mine c, accepted := if accepted then k.accepted.filter fun c => !mine c else k.accepted }
  gone.foldl (fun d c => (d.dropBuilds c).refuseCommit c { reason := 0x11 }) d

end Sys2Proof.Machine
end

