-- ==== Sys2Proof/Machine/Tables.lean ====
section
/-! DEFINITION. The key table and the tone LUTs as double-banked tables (R44–R46, R266, R287, R456): builds that descriptors ask for, edits
through the side CAM, edits that wait for a swap, and LUT_LOAD, LUT_POKE, KEY_IMPORT and KEY_DESTROY. DEDUCED
(notes/assumptions/17.md). -/

namespace Sys2Proof.Machine

/-- A build of a table begins, or begins again, with everything that the side CAM holds (R44, R45). -/
def Dev.beginBuild (d : Dev) (t : TableId) : Dev :=
  d.onBank (tableIdx t) fun b => { b with state := 1, before := b.before ++ b.since, since := [] }

/-- LUT_LOADs that have been read and have not taken effect. -/
def Dev.lutLoads (d : Dev) : List Desc := (d.hif.staged ++ d.hif.due).filter fun x => x.opcode = 0x24

/-- A LUT_LOAD that has just been staged has the shadow bank built (R266). -/
def Dev.stageBuilds (d : Dev) (before : Nat) : Dev := if before < d.lutLoads.length then d.beginBuild .tone else d

/-- Entries changed through the side CAM (R45): none where it lacks room. A table that is IDLE is built from then on. -/
def Dev.camEdit (d : Dev) (t : TableId) (keys : List Nat) : Option Dev :=
  let b := d.bank (tableIdx t)
  let fresh := keys.filter fun k => !(b.before ++ b.since).contains k
  if 64 < b.used + fresh.length then none
  else some (d.onBank (tableIdx t) fun b =>
    if b.state = 0 then { b with state := 1, before := b.before ++ fresh }
    else { b with before := b.before.filter (fun k => !keys.contains k), since := (b.since ++ keys).eraseDups })

/-- An edit that waits for the swap of a shadow bank that is built with it (R46). -/
def Dev.deferEdit (d : Dev) (t : TableId) (x : Desc) (k : Option KeySlot) : Dev :=
  (d.beginBuild t).onStk fun s => { s with deferred := s.deferred ++ [⟨t, x, k⟩] }

/-! ## Edits -/

/-- Sets an entry of a layer's tone LUT. -/
def Dev.setLut (d : Dev) (slot i v : Nat) : Dev :=
  d.onCmp fun c => { c with lut := Tab.put noLut c.lut (1024 * slot + i % 1024) (some (v % 2 ^ 20)) }

/-- The edits of a LUT_POKE, as (index, value) (R287). -/
def Desc.pokes (x : Desc) : List (Nat × Nat) :=
  [4, 5, 6, 7].filterMap fun i => if x.w i = 0 then none else some (x.w i / 2 ^ 20 % 1024, x.w i)

/-- A LUT_POKE takes effect. -/
def Dev.pokeLut (d : Dev) (x : Desc) : Dev := (x.pokes.foldl (fun d p => d.setLut x.layerSlot p.1 p.2) d).finish x 0 []

/-- A KEY_IMPORT takes effect: the slot is LOADED (R456). -/
def Dev.loadKey (d : Dev) (x : Desc) (k : KeySlot) : Dev := (d.setKey x.keySlot (some k)).finish x 0 [k.kcv]

/-- An edit that waited takes effect, and its completion gives the Stroke of the swap (R46). An import whose key has been zeroised meanwhile,
or whose slot has come into use, is refused. -/
def Dev.runDeferred (d : Dev) (e : Deferred) : Dev :=
  if e.table == .tone then d.pokeLut e.desc
  else match e.key with
    | none => d.finish e.desc 0x30 [7]
    | some k => if d.keyInUse e.desc.keySlot then d.finish e.desc 0x30 [10] else d.loadKey e.desc k

/-- The bank of the key table or of the tone LUTs swaps, and what waited for it takes effect. While the side CAM still holds entries, or
another LUT_LOAD waits, the next build begins. -/
def Dev.swapTable (d : Dev) (t : TableId) : Dev :=
  let go := d.stk.deferred.filter fun e => e.table == t
  let d := (d.swapBank t).onStk fun k => { k with deferred := k.deferred.filter fun e => !(e.table == t) }
  let d := go.foldl Dev.runDeferred d
  if (d.bank (tableIdx t)).used ≠ 0 ∨ (t = .tone ∧ d.lutLoads ≠ []) then d.beginBuild t else d

/-- Builds that no commit and no LUT_LOAD waits for swap at the first boundary after they are ready (R44). -/
def Dev.swapReady (d : Dev) : Dev :=
  let d := d.swapRehashed
  let d := if (d.bank 1).state = 2 then d.swapTable .key else d
  if (d.bank 3).state = 2 ∧ d.lutLoads = [] then d.swapTable .tone else d

/-! ## Commands -/

/-- LUT_LOAD (R266, R287): the bank swaps at the target, with the 1,024 entries read; entries poked since the build began are kept (R45). A
build that the target finds unfinished is missed; without a target it goes on. -/
def execLutLoad (crew ring : Nat) (entries : List Nat) (s : State) : Host.Outcome State Fault Refusal :=
  s.lift fun d =>
    match d.takeDue crew ring 0x24 with
    | none => d
    | some (x, e) =>
      if entries.length < 1024 ∨ (d.bank 3).state ≠ 2 then (if x.w 1 = 0 then d else e.finish x 0x10 [0xB])
      else
        let slot := x.layerSlot
        let kept := (d.bank 3).since
        let e := (List.range 1024).foldl (fun e i => if kept.contains (1024 * slot + i) then e else e.setLut slot i (entries.getD i 0)) e
        (e.swapTable .tone).finish x 0 []

/-- LUT_POKE (R266, R287): up to four edits through the side CAM, or at the next swap where it is full (R46). -/
def execLutPoke (crew ring : Nat) (s : State) : Host.Outcome State Fault Refusal :=
  s.onDue crew ring 0x25 fun d x =>
    match d.camEdit .tone (x.pokes.map fun p => 1024 * x.layerSlot + p.1).eraseDups with
    | some d => d.pokeLut x
    | none => d.deferEdit .tone x none

/-- KEY_IMPORT (R456): the blob is unwrapped and the slot loaded through the side CAM, or at the next swap where it is full (R46), or the
descriptor is refused with a sub-code. -/
def execKeyImport (crew ring : Nat) (blob : List Nat) (s : State) : Host.Outcome State Fault Refusal :=
  s.onDue crew ring 0x60 fun d x =>
    let uid := sumBy (fun i => (d.reg (Reg.secDevUid i)).toNat * 2 ^ (32 * i)) (List.range 4)
    match d.importBarred with
    | some sub => d.finish x 0x30 [sub]
    | none =>
      if !Config.onCurve (blob.take 96) then d.finish x 0x30 [9]
      else
        match Config.unwrap (leNat d.nvm.importPub) uid x.crew x.keySlot (x.w 3 % 4) blob with
        | none => d.finish x 0x30 [8]
        | some (key, salt) =>
          if d.keyInUse x.keySlot then d.finish x 0x30 [10]
          else
            let k : KeySlot := ⟨x.w 3 % 4, Config.kcv key % 2 ^ 24, key, salt⟩
            match d.camEdit .key [x.keySlot] with
            | some d => d.loadKey x k
            | none => d.deferEdit .key x (some k)

/-- KEY_DESTROY (R457). -/
def execKeyDestroy (crew ring : Nat) (s : State) : Host.Outcome State Fault Refusal :=
  s.onDue crew ring 0x61 fun d x =>
    if d.keyInUse x.keySlot then d.finish x 0x30 [10] else (d.zeroKey x.keySlot).finish x 0 []

end Sys2Proof.Machine
end

