-- ==== Sys2Proof/Machine/Stroke.lean ====
section
/-! DEFINITION. The Stroke boundary (R16) with everything that comes about inside it, the records that a feed applies at their
Strokes (R528), STK_BUDGET_CFG (R42), and the read of STK_NOW_LO. -/

namespace Sys2Proof.Machine

/-! ## Records of a feed (R528) -/

/-- A TOKEN record: a token of a flow's item, an arrival of an ingest flow for the layers and audio streams that take it, or a block
of a host audio stream. -/
def Dev.feedToken (d : Dev) (r : FedRec) : Dev :=
  let f := r.obj
  let a := r.data.getD 0 0
  let b := r.data.getD 1 0
  match d.flowObj f with
  | .encPiece _ _ => if r.sub = 0 then d.bandToken f a b else d.token f a r.sub b
  | .dec c =>
    let d := if r.sub = 0 then d.onDec c fun x =>
        { x with start := x.start.or (some b), units := ⟨b, true, true, false, b, 0⟩ :: x.units.filter fun u => u.slot ≠ b }
      else d
    d.token f a r.sub b
  | .none =>
    let d := (d.layersOf f).foldl (fun d l => d.layerStrip l.1 l.2 a b) d
    let d := (d.audsOf f).foldl (fun d s =>
      let n := near32 (d.now * (if d.flag (Reg.audNetiCfg s) F.audNetiCfg_rate96 then 12 else 6)) b
      d.arrive (0x100 + s) n (n + d.packetSamples s)) d
    if 0x2C0 ≤ f ∧ f < 0x300 ∧ (d.playback? (f - 0x2C0)).isSome then
      let fs := rateHz (d.fld (Reg.audHostCfg (f - 0x2C0)) F.audHostCfg_rate)
      let n := near32 (d.now * fs / 8000) b
      let strokes := ((d.playback? (f - 0x2C0)).map fun p => max 1 (p.desc.w 6 / 65536 % 64)).getD 1
      d.arrive (0x200 + (f - 0x2C0)) n (n + cdiv (strokes * fs) 8000)
    else d
  | .prog p => if 8 ≤ r.sub then d.copyWhole p (r.sub - 8) else d.token f a r.sub b
  | _ => d.token f a r.sub b

/-- A SUBST record: the substitute of an item runs. -/
def Dev.feedSubst (d : Dev) (f seq how : Nat) : Dev :=
  match d.item? f seq with
  | some i => if how = 4 then (if i.floor = 0 then d.endLate i else d) else (d.leaveUnit i (i.cyclesRun d.nowNs)).substitute i how
  | none => if (d.gone? f seq).isNone then d.substitute (d.newItem f seq d.now false) how else d

/-- A POISON record: the item ends poisoned. -/
def Dev.feedPoison (d : Dev) (f seq : Nat) : Dev :=
  match d.item? f seq with
  | none => d
  | some i =>
    let d := d.record (d.flowCrew f) 0x08 0 f [f, seq]
    ((d.leaveUnit i (i.cyclesRun d.nowNs)).endItem f seq false).produce i { noResult with poisoned := true } none

/-- A HOUSE_CLOCK record: the house clock is lost or restored; the offset stays as last measured. -/
def Dev.feedHouse (d : Dev) (cause : Nat) : Dev :=
  let a := Reg.audClkStatus
  let ppm := signed 16 (d.fld a F.audClkStatus_ppm)
  let d := if cause = 2 then (d.setFld a F.audClkStatus_house 1).setFld a F.audClkStatus_extPresent 1
    else (d.setFld a F.audClkStatus_house 2).setFld a F.audClkStatus_extPresent 0
  (d.muteHouse).houseEvent cause ppm

/-- A PICK record: the path that a merge key is taken from. -/
def Dev.feedPick (d : Dev) (f key path : Nat) : Dev :=
  let m := d.merge f
  d.setMerge f { m with keys := m.keys.map fun k => if k.key % 2 ^ 32 = key then { k with path := path } else k }

/-- The table of a code of STK_BANK_STATUS. -/
def tableOf (i : Nat) : TableId :=
  match i with
  | 0 => .classifier
  | 1 => .key
  | 2 => .gate
  | 3 => .tone
  | _ => .affinity

/-- A record is applied as the event it records (R528). -/
def Dev.applyRecord (d : Dev) (r : FedRec) : Dev :=
  let v (i : Nat) : Nat := r.data.getD i 0
  match r.kind with
  | 0x02 => d.feedToken r
  | 0x03 => d.onCmp fun c => { c with fences := Tab.put noFence c.fences (r.obj - 0x1000) (v 0 + v 1 * 2 ^ 32, d.now) }
  | 0x04 =>
    let a := Reg.coxThrottle (v 0)
    if v 0 < 40 then (d.setFld a F.coxThrottle_step (v 1)).setFld a F.coxThrottle_degrade (v 2) else d
  | 0x05 => if v 0 = 1 ∨ v 0 = 3 then d.swapTable (tableOf (v 0)) else d.swapBank (tableOf (v 0))
  | 0x06 => d.stepClock (signed 64 (v 0 + v 1 * 2 ^ 32))
  | 0x07 => d.feedSubst (v 0) (v 1) (v 2)
  | 0x08 => d.feedPoison (v 0) (v 1)
  | 0x09 => if v 0 < 256 then d.setReg (Reg.audAsrcRatio (v 0)) (BitVec.ofNat 32 (v 1)) else d
  | 0x0A => d.feedPick (v 0) (v 1) (v 2)
  | 0x0C => d.feedHouse (v 0)
  | _ => d

/-- The records of every feed whose Stroke has come are applied in order; feeds that are through complete (R528). -/
def Dev.applyFeeds (d : Dev) : Dev :=
  let due := d.rpl.feeds.flatMap fun f => f.2.1.filter fun r => decide (r.stroke ≤ d.now)
  let d := due.foldl Dev.applyRecord d
  let now := d.now
  let left := d.rpl.feeds.map fun (f : Desc × List FedRec × Nat) =>
    (f.1, f.2.1.filter (fun r => decide (now < r.stroke)), f.2.2 + (f.2.1.filter fun r => decide (r.stroke ≤ now)).length)
  { d with rpl := { d.rpl with feeds := left } }.feedsDone

/-! ## The boundary -/

/-- The bands of encode channels among what has arrived. -/
def bandsOf (l : List Arrival) : List BandContent :=
  l.filterMap fun a => match a with
    | .band b => some b
    | _ => none

/-- The samples of a layer's source that a command states (R255, R273). -/
def Dev.takeArrival (d : Dev) (a : Arrival) : Dev :=
  match a with
  | .band _ => d
  | .strip p l k j planes => d.layerSource p l ⟨k, j, planes⟩
  | .buffer p l planes => d.layerBuffer p l planes

/-- The tokens and finished work of a boundary in the media block: records of live items that are due (R526), superseded flows, bands and their tokens (R143, R204), decode
buffers and the channels they feed (R236, R242), strips (R251), taps (R280), audio groups (R312) and what is
played (R309). -/
def Dev.mediaBoundary (d : Dev) (content : List Arrival) : Dev :=
  let d := d.recordsDue
  let encs := d.enc.map (·.1)
  let d := encs.foldl (fun d c => (d.retireEnc c).encBoundary (bandsOf content) c) (content.foldl Dev.takeArrival d)
  let d := (d.dec.map (·.1)).foldl (fun d c => d.decBoundary c) d
  let d := encs.foldl (fun d c => (d.decFeeds c).tapFeeds c) d
  let d := (d.cmp.progs.map (·.1)).foldl (fun d p => d.cmpBoundary p) d
  ((d.aud.groups.map (·.1)).foldl (fun d g => d.audBoundary g) d).houseBack.playDue

/-- Whether a boundary can come: TIME is out of reset, and a bench under PACE STEP has boundaries to take (R483, R527). -/
def Dev.mayStep (d : Dev) : Bool :=
  !d.inReset 2 && (!d.replay || d.flag Reg.rplCtl F.rplCtl_pace || d.fld Reg.rplStatus F.rplStatus_pending ≠ 0)

/-- The Stroke count advances; a bench under PACE STEP takes one of its boundaries. -/
def Dev.advance (d : Dev) : Dev :=
  let d := d.onStk fun k => { k with stroke := k.stroke + 1, phase := 0 }
  if d.replay && !d.flag Reg.rplCtl F.rplCtl_pace then
    (d.setFld Reg.rplStatus F.rplStatus_pending (d.fld Reg.rplStatus F.rplStatus_pending - 1)).showReplay
  else d

/-- What follows the effects of commits at a boundary, in the blocks that are out of reset. -/
def Dev.afterEffects (d : Dev) (content : List Arrival) : Dev :=
  let d := d.swapReady.admitQueued
  let d := d.shutRings.suspendsBoundary.dueDescriptors
  let d := d.throttleAll.drainFlows.showReserved
  let d := if d.inReset 5 then d else d.mediaBoundary content
  let d := if d.inReset 4 then d else d.egressBoundary
  let d := d.syncBoundary.pmuStroke
  let d := if d.inReset 6 then d else d.pollDoorbells
  d.applyFeeds

/-- STROKE_BOUNDARY (R16). -/
def strokeBoundary (content : List Arrival) (x : HbmDev) : HbmDev :=
  if !x.2.mayStep then x
  else
    let y := effects (x.1, x.2.advance.newCapacity.leapDay.missTargets.releasePools)
    (y.1, y.2.afterEffects content)

/-- STROKE_BOUNDARY. -/
def execStrokeBoundary (content : List Arrival) (s : State) : Host.Outcome State Fault Refusal := s.liftMem (strokeBoundary content)

/-! ## Registers of STK -/

/-- LIVE_CAP of a LIVE_PRESET code (R42). -/
def presetCap (code : Nat) : Nat := [0x206CC, 0x1C9C3, 0x1312D].getD code 0

/-- A write of STK_BUDGET_CFG by its own preset rules (R42). -/
def Dev.budgetWrite (d : Dev) (fn value : Nat) : Dev :=
  let a := Reg.stkBudgetCfg
  let w := BitVec.ofNat 32 value
  let old := d.stagedReg fn a
  let p := F.stkBudgetCfg_livePreset.get w
  let same := p = F.stkBudgetCfg_livePreset.get old
  if !d.mayWrite fn a then d
  else if p = 7 then d.takeWord fn a w
  else if p < 3 ∧ !same then d.takeWord fn a (F.stkBudgetCfg_liveCap.set w (presetCap p))
  else if same then
    if F.stkBudgetCfg_liveCap.get w = F.stkBudgetCfg_liveCap.get old then d
    else d.takeWord fn a (F.stkBudgetCfg_livePreset.set w 7)
  else d.takeWord fn a w

/-- BUDGET_CFG_WRITE (R42). -/
def execBudgetCfgWrite (fn value : Nat) (s : State) : Host.Outcome State Fault Refusal := s.lift fun d => d.budgetWrite fn value

/-- STK_NOW_LO_READ (R16): the read returns the low word and latches the high one for the same function. -/
def execStkNowLoRead (fn : Nat) (s : State) : Host.Outcome State Fault Refusal :=
  s.lift fun d =>
    let a := Reg.stkNowLo
    if !d.sees fn a then d.emit (.read fn a 0)
    else (d.setFnReg fn Reg.stkNowHi (BitVec.ofNat 32 (d.now / 2 ^ 32))).emit (.read fn a d.nowLo)

end Sys2Proof.Machine
end

