-- ==== Sys2Proof/Machine/Fetch.lean ====
section
/-! DEFINITION. What needs every family: a descriptor's arrival, tested against the rules of all opcodes (R102), host reads that
fail (R120), TIME_QUERY (R409), RPL_FEED (R528) and the firmware controllers (R489, R496). -/

namespace Sys2Proof.Machine

/-! ## TIME_QUERY, RPL_FEED -/

/-- TIME_QUERY (R409). -/
def execTimeQuery (crew ring : Nat) (s : State) : Host.Outcome State Fault Refusal :=
  s.onDue crew ring 0x70 fun d x =>
    let l := signed 17 (d.fld Reg.timeTodCfg F.timeTodCfg_localOffset)
    d.finish x 0 [pack [(d.utcOffset % 65536, 16), (d.sync, 0)], unsigned 32 l, 0, 0]

/-- RPL_FEED (R528): the records that `words` holds are fed, and those of this Stroke applied. -/
def execRplFeed (crew ring : Nat) (words : List Nat) (s : State) : Host.Outcome State Fault Refusal :=
  s.onDue crew ring 0x85 fun d x => (d.feed x (words.take (x.w 5 / 4))).applyFeeds

/-! ## Firmware controllers (R466, R489, R494, R496, R497) -/

/-- Shows MEDIA_READY: every domain released, the controllers running, the Charter loaded (R497). -/
def Dev.showReady (d : Dev) : Dev :=
  let a := Reg.rstStatus
  d.setFld a F.rstStatus_mediaReady (bit (d.fld a F.rstStatus_inReset = 0 && d.fwRuns && !d.sec.void))

/-- Sets RST_STATUS.FW: 0 NONE, 1 RUNNING, 2 FAILED, 3 RESTARTING. -/
def Dev.setFw (d : Dev) (v : Nat) : Dev := (d.setFld Reg.rstStatus F.rstStatus_fw v).showReady

/-- The controllers run: a FW_LOAD that waits completes with the version (R496). -/
def Dev.fwStarted (d : Dev) : Dev :=
  let d := d.setFw 1
  match d.rst.fwLoad with
  | none => d
  | some x => { d with rst := { d.rst with fwLoad := none } }.finish x 0 [d.rst.image.getD 0]

/-- FW_LOAD's own tests (R496). -/
def testFwLoad (_ : Dev) (x : Desc) : Option (Nat × List Nat) := formatIf (x.w 3 % 4096 ≠ 0 || decide (8388608 < x.w 5))

/-- FW_LOAD (R496): the image is read and goes to be verified; controllers that run restart. A FW_LOAD waits while another
does. -/
def execFwLoad (crew ring : Nat) (s : State) : Host.Outcome State Fault Refusal :=
  s.lift fun d =>
    if d.rst.fwLoad.isSome then d
    else
      match d.takeDue crew ring 0xF1 with
      | none => d
      | some (x, d) =>
        let d := { d with rst := { d.rst with fwLoad := some x, image := none } }.emit (.hostRead x.crew (x.addr 3) (x.w 5))
        if d.fld Reg.rstStatus F.rstStatus_fw = 1 then d.setFw 3 else d

/-- The verified image of a version that FW_FLOOR allows starts: at once where the controllers were stopped, at the end of the restart
where they are restarting, and at the release of MEDIA while that is in reset. -/
def Dev.fwVerified (d : Dev) (version : Nat) : Dev :=
  let d := { d with rst := { d.rst with image := some version } }.setFld Reg.secFw F.secFw_fwVersion version
  if d.fld Reg.rstStatus F.rstStatus_fw = 3 ∨ d.inReset 5 ∨ d.blockHeld 7 0 then d else d.fwStarted

/-- An image that fails leaves the controllers stopped (R496). -/
def Dev.fwRefused (d : Dev) : Dev :=
  let d := { d with rst := { d.rst with image := none } }
  match d.rst.fwLoad with
  | none => d.setFw 2
  | some x => ({ d with rst := { d.rst with fwLoad := none } }.setFw 0).finish x 0x30 [7]

/-- FW_IMAGE_VERIFIED (R466, R496): the image of a FW_LOAD, or with BOOT_SRC SPI the one read from flash once SEC is released, has
been verified; `ok` says that its signature is right. -/
def execFwImageVerified (ok : Bool) (version : Nat) (s : State) : Host.Outcome State Fault Refusal :=
  s.lift fun d =>
    let spi := d.rst.inForce.getD 8 0 = 1
    if d.secReset || (d.rst.fwLoad.isNone && !(spi && d.rst.image.isNone)) then d
    else if ok && decide (d.fld Reg.secFw F.secFw_fwFloor ≤ version) then d.fwVerified version
    else d.fwRefused

/-- WATCHDOG_FIRE (R489). -/
def execWatchdogFire (s : State) : Host.Outcome State Fault Refusal :=
  s.lift fun d =>
    if !d.fwRuns || !d.flag Reg.rstWdt F.rstWdt_enable then d
    else
      let d := d.setFld Reg.rstCause F.rstCause_sources (d.fld Reg.rstCause F.rstCause_sources ||| 2 ^ 7)
      (d.addFld Reg.rstWdt F.rstWdt_fires 1).setFw 3

/-- CONTROLLERS_RESTARTED (R489, R496): controllers that restart, and hold a verified image, run again. -/
def execControllersRestarted (s : State) : Host.Outcome State Fault Refusal :=
  s.lift fun d =>
    if d.fld Reg.rstStatus F.rstStatus_fw ≠ 3 ∨ d.inReset 5 ∨ d.blockHeld 7 0 ∨ d.rst.image.isNone then d else d.fwStarted

/-! ## A descriptor's data (R102) -/

/-- TIME_QUERY and FW_LOAD. -/
def lateRules : List OpRule :=
  let z (k : ObjKind) : Bool := k == .zero
  [{ opcode := 0x70, masks := [], kind := z, house := false, test := fun _ _ => none },
   { opcode := 0xF1, masks := [(3, allBits), (4, allBits), (5, allBits)], kind := z, house := true, test := testFwLoad }]

/-- The rules of every opcode. -/
def allRules : List OpRule :=
  hostRules ++ encodeRules ++ decodeRules ++ composeRules ++ audioRules ++ replayRules ++ thermalRules ++ securityRules ++ lateRules

/-- DESCRIPTOR_READ_COMPLETE (R102). -/
def execDescriptorReadComplete (crew ring : Nat) (words : List Nat) (s : State) : Host.Outcome State Fault Refusal :=
  s.lift fun d => (d.descriptorRead allRules crew ring words).stageBuilds d.lutLoads.length

/-! ## Host reads that fail (R120) -/

/-- A read of a host buffer fails: a live item goes without its operand and takes its substitute at its deadline; the picture of a
best-effort encode item ends ABORT_POISONED. -/
def Dev.bufferFailed (d : Dev) (flow seq : Nat) : Dev :=
  match d.item? flow seq with
  | none => d
  | some i =>
    if i.live then d
    else match d.flowObj flow with
      | .encPiece c _ =>
        match d.bandOfItem c i with
        | none => d
        | some (g, j, _) => d.abandon c g j 0x21
      | _ => d.endItem flow seq false

/-- Opcodes whose descriptors carry out what host memory holds: tables, masks, keys, frames, orders, feeds and firmware images. -/
def dataOps : List Nat := [0x24, 0x27, 0x60, 0x65, 0x66, 0x85, 0xF1]

/-- The data of the oldest due descriptor of a ring pair cannot be read: it completes ABORT_POISONED. -/
def Dev.dataFailed (d : Dev) (crew ring : Nat) : Dev :=
  match d.hif.due.find? fun x => x.crew = crew && x.ring = ring with
  | none => d
  | some x =>
    if dataOps.contains x.opcode then (d.onHif fun h => { h with due := h.due.filter fun y => y ≠ x }).finish x 0x21 [] else d

/-- The image of a FW_LOAD cannot be read: the FW_LOAD completes ABORT_POISONED, and the controllers stay stopped. -/
def Dev.firmwareFailed (d : Dev) : Dev :=
  match d.rst.fwLoad with
  | none => d
  | some x =>
    if d.rst.image.isSome then d else ({ d with rst := { d.rst with fwLoad := none } }.setFw 0).finish x 0x21 []

/-- HOST_READ_FAILURE (R120). -/
def execHostReadFailure (read : HostRead) (s : State) : Host.Outcome State Fault Refusal :=
  s.lift fun d =>
    if d.inReset 6 then d
    else match read with
    | .doorbell crew => d.doorbellFailed crew
    | .descriptor crew ring => d.descriptorFailed crew ring
    | .buffer flow seq => d.bufferFailed flow seq
    | .layer prog layer => d.copyFailed prog layer
    | .audio stream => d.playBlock stream [] true
    | .data crew ring => d.dataFailed crew ring
    | .firmware => d.firmwareFailed

end Sys2Proof.Machine
end

