-- ==== Sys2Proof/Machine/Reset.lean ====
section
/-! DEFINITION. Entering reset (R450, R482, R483, R486–R490): the contexts of functions, what a domain or a single block loses, the
sources and their reach. -/

namespace Sys2Proof.Machine

/-! ## Host contexts (R89, R118, R119, R450) -/

/-- A firmware image that was still to be read from a Crew's memory: its FW_LOAD ends, and the controllers stay stopped (R118). -/
def Dev.imageLost (d : Dev) (crew : Nat) : Dev :=
  if d.rst.image.isNone && d.rst.fwLoad.any fun x => x.crew = crew then { d with rst := { d.rst with fwLoad := none } }.setFw 0 else d

/-- The host pictures, layer copies and firmware image of a Crew that need host memory end without a completion; the pictures are counted in
ISOLATED of their ring pair (R118). -/
def Dev.hostLost (d : Dev) (crew : Nat) : Dev :=
  let d := d.imageLost crew
  let d := d.enc.foldl (fun d p =>
    match d.enc? p.1, d.encCfg? p.1 with
    | some x, some g =>
      let mine := x.posts.filter fun y => y.crew = crew
      if mine.isEmpty then d
      else
        let d := mine.foldl (fun d y => d.addFld (Reg.hifRingStat crew y.ring) F.hifRingStat_isolated 1) d
        (d.onEnc p.1 fun x => { x with posts := x.posts.filter fun y => y.crew ≠ crew }).abandon p.1 g x.place 0x20
    | _, _ => d) d
  d.cmp.progs.foldl (fun d p =>
    match d.prog? p.1 with
    | none => d
    | some x => (x.posts.filter fun q => q.desc.crew = crew && !q.copied).foldl (fun d q => d.postOver p.1 q 0x20 0 0) d) d

/-- The host side of a Crew is reset, with the work that needs it (R118, R119). -/
def Dev.loseContext (d : Dev) (crew : Nat) : Dev := (d.resetContext crew).hostLost crew

/-- VF n loses its host side, by FLR, D3hot or its function; with HOST_PERSIST 0 its Crew is to be released (R119, R450). -/
def Dev.loseVf (d : Dev) (n : Nat) : Dev :=
  let persists := d.flag (Reg.secCrewPolicy n) F.secCrewPolicy_hostPersist
  let d := d.loseContext n
  if persists then d
  else d.onHif fun h => { h with releasing := n :: h.releasing.filter (· ≠ n) }

/-- VF_FLR (R40, R119). -/
def execVfFlr (vf : Nat) (s : State) : Host.Outcome State Fault Refusal :=
  s.lift fun d => if vf = 0 ∨ d.hif.numVfs < vf ∨ d.inReset 6 then d
    else ((d.loseVf vf).withdrawCommits vf false).onHif fun h => { h with absent := vf :: h.absent.filter (· ≠ vf) }

/-- VF_D3HOT (R89, R119): the context goes as an FLR takes it; commits are withdrawn by an FLR alone (R40). -/
def execVfD3hot (vf : Nat) (s : State) : Host.Outcome State Fault Refusal :=
  s.lift fun d => if vf = 0 ∨ d.hif.numVfs < vf ∨ d.inReset 6 then d else d.loseVf vf

/-- VF_ENABLE_CLEAR (R86, R119): NumVFs falls to a value, 0 when VF Enable is cleared; the functions above it are lost. -/
def execVfEnableClear (numVfs : Nat) (s : State) : Host.Outcome State Fault Refusal :=
  s.lift fun d =>
    let was := d.hif.numVfs
    if d.inReset 6 ∨ was ≤ numVfs then d
    else
      let lost := (List.range (was - numVfs)).map (numVfs + 1 + ·)
      let d := (lost.foldl Dev.loseVf d).onHif fun h =>
        { h with numVfs := numVfs, absent := h.absent.filter fun n => decide (n ≤ numVfs) }
      lost.foldl Dev.showCrew d

/-- The words that disable every enabled object of a Crew. -/
def Dev.disabling (d : Dev) (crew : Nat) : List (Nat × Word) :=
  d.regs.filterMap fun (p : Nat × Word) =>
    if d.ownerOf p.1 ≠ some crew then none
    else (regClass? p.1).bind fun c => (c.1.field? "ENABLE").bind fun f =>
      if f.acc == .rc && f.fld.get p.2 = 1 then some (p.1, f.fld.set p.2 0) else none

/-- The release of a Crew (R450): its commits are withdrawn, its objects disabled by a commit of no function, its keys zeroised. -/
def Dev.releaseCrew (d : Dev) (crew : Nat) : Dev :=
  let d := (d.onHif fun h => { h with releasing := h.releasing.filter (· ≠ crew) }).withdrawCommits crew true
  let c : Commit := { fn := crew, target := 0, writes := d.disabling crew, admitting := false, effect := d.now, builds := []
                      order := none, place := {} }
  let place := (({ d with stk := { d.stk with accepted := [] } } : Dev).verdict c).2
  let d := d.commitEffect { c with place := place }
  let d := d.onSec fun s => { s with keys := s.keys.filter fun p => d.owner 0x0A p.1 ≠ crew }
  d.audit .crewReleased [crew]

/-- CREW_RELEASE (R450): at the first boundary after the event, ahead of the commits due there. -/
def execCrewRelease (crew : Nat) (s : State) : Host.Outcome State Fault Refusal :=
  s.lift fun d => if d.hif.releasing.contains crew then d.releaseCrew crew else d

/-! ## Sources and their reach (R482, R486) -/

/-- A source of reset. -/
inductive ResetSource where
  | por | supply | thermal | resetN | perst | hotReset | linkDown | watchdog | debug | clockFault | pf0Flr
  deriving DecidableEq, Repr

/-- Its bit in RST_CAUSE and RST_SRC_ACTIVE. -/
def ResetSource.bit : ResetSource → Nat
  | .por => 0 | .supply => 1 | .thermal => 2 | .resetN => 3 | .perst => 4 | .hotReset => 5 | .linkDown => 6 | .watchdog => 7
  | .debug => 8 | .clockFault => 9 | .pf0Flr => 10

/-- SEC, TIME, MEM, NET, MEDIA and HIF. -/
def allButAo : Nat := 0x7E

/-- The domains that PERST# reaches, by AUTONOMOUS in the option bytes in force (R482). -/
def Dev.perstReach (d : Dev) : Nat := if bitAt (d.rst.inForce.getD 11 0) 0 then 0x40 else 0x7A

/-- Whether a source is asserted now. -/
def Dev.asserted (d : Dev) (s : ResetSource) : Bool := bitAt (d.fld Reg.rstSrcActive F.rstSrcActive_sources) s.bit

/-- Sets or clears a source in RST_SRC_ACTIVE. -/
def Dev.setActive (d : Dev) (s : ResetSource) (on : Bool) : Dev :=
  let v := d.fld Reg.rstSrcActive F.rstSrcActive_sources
  let rest := v - (if bitAt v s.bit then 2 ^ s.bit else 0)
  d.setFld Reg.rstSrcActive F.rstSrcActive_sources (if on then rest + 2 ^ s.bit else rest)

/-- Records a source in RST_CAUSE. -/
def Dev.cause (d : Dev) (s : ResetSource) : Dev :=
  d.setFld Reg.rstCause F.rstCause_sources (d.fld Reg.rstCause F.rstCause_sources ||| 2 ^ s.bit)

/-- The union of the reaches of the sources asserted now. -/
def Dev.reach (d : Dev) : Nat :=
  let r (s : ResetSource) (m : Nat) : Nat := if d.asserted s then m else 0
  r .por 0x7F ||| r .supply 0x7F ||| r .thermal allButAo ||| r .resetN allButAo ||| r .clockFault allButAo ||| r .perst d.rst.reach

/-- Whether a domain is in CLOCK_FAULT (R485). -/
def Dev.clockFaulted (d : Dev) (k : Nat) : Bool := bitAt (d.fld Reg.rstStatus F.rstStatus_clockFault) k

/-- Whether everything but its clock lets a domain be released (R484, R485): no source reaches it, and every earlier domain is out of
reset or in CLOCK_FAULT; a fault of TIME or MEM keeps NET and MEDIA in reset, and lets HIF go. -/
def Dev.releasable (d : Dev) (k : Nat) : Bool :=
  let broken := d.clockFaulted 2 || d.clockFaulted 3
  let media (k : Nat) : Bool := k = 4 || k = 5
  decide (k < 7) && d.inReset k && !d.clockFaulted k && !bitAt d.reach k && !(media k && broken) &&
    (List.range k).all fun e => !d.inReset e || d.clockFaulted e || (media e && broken)

/-- Shows RST_PENDING_CLK: the domains that wait for their clock alone. -/
def Dev.showPending (d : Dev) : Dev :=
  d.setFld Reg.rstPendingClk F.rstPendingClk_domains (sumBy (fun k => bit (d.releasable k) * 2 ^ k) (List.range 7))

/-! ## Option bytes shown in other blocks (R491, R493) -/

/-- The effective thresholds of R499 with their offsets. -/
def thermLimit (opt : List Nat) (i : Nat) : Nat :=
  let o := signed 8 (opt.getD (16 + i) 0)
  (([95, 100, 105, 115].getD i 0 : Nat) + (if -15 ≤ o ∧ o ≤ 0 then o else 0) : Int).toNat

/-- Shows what the option bytes in force decide in registers of other blocks. -/
def Dev.showOptions (d : Dev) : Dev :=
  let o := d.rst.inForce
  if o.isEmpty then d
  else
    let t := Reg.thmLimits
    let d := ((d.setFld t F.thmLimits_warn (thermLimit o 0)).setFld t F.thmLimits_throttle (thermLimit o 1)).setFld t
      F.thmLimits_critical (thermLimit o 2)
    let d := d.setFld t F.thmLimits_shutdown (thermLimit o 3)
    let d := d.setFld Reg.secStatus F.secStatus_lifecycle (max (min 2 (o.getD 12 0)) d.rst.lifecycle)
    let d := d.setFld Reg.secFw F.secFw_fwFloor (max (leAt o 14 2) d.rst.fwFloor)
    let d := d.setFld Reg.memTrainCtl F.memTrainCtl_policy (bit (bitAt (o.getD 11 0) 2))
    (List.range 64).foldl (fun d l => d.setFld (Reg.laneCtl l) F.laneCtl_useSnap (bit (bitAt (o.getD 11 0) 1))) d

/-! ## What a domain loses (R483, R487) -/

/-- The registers of a block return to their reset values, those of its functions too. -/
def Dev.clearBlock (d : Dev) (b : Nat) : Dev :=
  let d := d.clearRegs (b * 0x100000) ((b + 1) * 0x100000)
  { d with fnRegs := d.fnRegs.filter fun p => p.1 % 2 ^ 32 / 0x100000 ≠ b
           latch := d.latch.filter fun p => p.1 / 0x100000 ≠ b }

/-- The domain that carries out an opcode. DEDUCED from the blocks of R481 (notes/assumptions/54.md). -/
def opcodeDomain (op : Nat) : Nat :=
  if op = 0xF0 then 6 else if op = 0x70 then 2 else if op = 0xF2 then 0 else if op = 0x64 ∨ op = 0x65 then 4
  else if 0x60 ≤ op ∧ op < 0x70 then 1 else 5

/-- The descriptors that a domain's objects hold. -/
def Dev.heldDescs (d : Dev) (k : Nat) : List Desc :=
  match k with
  | 1 => (d.sec.order.map (·.desc)).toList ++ d.sec.suspends.map (·.1)
  | 4 => d.egs.control.flatMap fun p => p.2.filterMap (·.2.1)
  | 5 =>
    (d.enc.flatMap fun p => (p.2.map fun x => x.posts ++ x.hdrNext ++ x.force.map (·.desc)).getD []) ++
      (d.dec.flatMap fun p => (p.2.map (·.resync)).getD []) ++
      (d.cmp.progs.flatMap fun p => (p.2.map fun x => x.posts.map (·.desc) ++ x.moves).getD []) ++
      d.rpl.feeds.map (·.1) ++ d.rst.fwLoad.toList
  | _ => []

/-- Descriptors in flight for a domain complete ABORT_ISOLATED (R483). -/
def Dev.abortFor (d : Dev) (k : Nat) : Dev :=
  let hit (x : Desc) : Bool := opcodeDomain x.opcode = k
  let gone := (d.hif.due ++ d.hif.staged).filter hit ++ d.heldDescs k
  let d := d.onHif fun h => { h with due := h.due.filter fun x => !hit x, staged := h.staged.filter fun x => !hit x }
  let d := gone.foldl (fun d x => d.finish x 0x20 []) d
  (d.hif.standing.filter fun s => hit s.desc).foldl (fun d s => d.endStanding s 0x20 []) d

/-- HIF with every context (R118, R483). -/
def Dev.resetHif (d : Dev) : Dev :=
  let d := (List.range 17).foldl (fun d c => d.resetContext c) d
  let d := d.onHif fun h => { h with numVfs := 0, reads := [], ringReads := [], writes := [], ringWrites := [], absent := [], pcie := [] }
  let d := ((d.clearBlock 0x14).clearBlock 0xF).clearBlock 0
  let d := (List.range 17).foldl (fun d c => d.hostLost c) { d with chk := [], staged := [] }
  (List.range 17).foldl Dev.showCrew (d.setFld Reg.rstStatus F.rstStatus_configReady 0)

/-- MEDIA: every object, Cox, the counters, the replay side, and the firmware controllers. -/
def Dev.resetMedia (d : Dev) : Dev :=
  let d := d.abortFor 5
  let d := [0x3, 0x4, 0x5, 0x6, 0x7, 0x12, 0x13].foldl Dev.clearBlock d
  let z := Dev.reset
  let d := { d with cox := z.cox, enc := [], pools := [], dec := [], cmp := {}, aud := {}, pmu := {}, rpl := {} }
  { d with rst := { d.rst with fwLoad := none, image := none } }.setFw 0

/-- NET: lanes, ports, traffic and paths. -/
def Dev.resetNet (d : Dev) : Dev :=
  let d := d.abortFor 4
  let d := [0x8, 0x9, 0xA, 0xB].foldl Dev.clearBlock d
  { d with lan := {}, egs := {}, pth := {} }

/-- MEM, the reads that wait there first. -/
def Dev.resetMem (d : Dev) : Dev := { ((List.range 128).foldl Dev.cutReads d).clearBlock 0xD with hbm := {} }

/-- TIME: the local clock, the Stroke, the commit queue and the tables' banks. What THM counts in Strokes counts from the new 0. DEDUCED
(notes/assumptions/51.md). -/
def Dev.resetTime (d : Dev) : Dev :=
  let d := d.abortFor 2
  let d := match d.sec.order with
    | some o => if 3 ≤ o.stage then d.dropOrder.finish o.desc 0x20 [] else d
    | none => d
  let d := d.clearBlock 2
  { d.clearBlock 0xC with tim := {}, stk := Dev.reset.stk, thm := { d.thm with updated := [], changed := 0, resumes := 0 } }

/-- The registers of SEC that outlive its reset: the pins and TAMPER, which AO latches, what the option bytes and counters decide,
orders applied since POR, the audit backlog, which waits on die, policies, and the identity. -/
def secKept (a : Nat) : Word :=
  if a = Reg.secStatus then
    BitVec.ofNat 32 (F.secStatus_lifecycle.mask ||| F.secStatus_tamper.mask ||| F.secStatus_zeroizePin.mask ||| F.secStatus_tamperPin.mask)
  else if a = Reg.secOrderStatus then BitVec.ofNat 32 F.secOrderStatus_applied.mask
  else if a = Reg.secAuditStatus ∨ a = Reg.secAuditNext ∨ a = Reg.secFw then 0xFFFFFFFF
  else if (Reg.secDevUid 0 ≤ a ∧ a ≤ Reg.secDevUid 3) ∨ (Reg.secCrewPolicy 0 ≤ a ∧ a ≤ Reg.secCrewPolicy 16) then 0xFFFFFFFF
  else 0

/-- Every order is dropped from the commit queue. -/
def Dev.dropOrders (d : Dev) : Dev :=
  { d with stk := { d.stk with queue := d.stk.queue.filter (·.order.isNone), accepted := d.stk.accepted.filter (·.order.isNone) } }

/-- SEC: the key store is zeroised, an order in flight and suspensions are lost, DEBUG returns to LOCKED (R463, R465, R487). -/
def Dev.resetSec (d : Dev) : Dev :=
  let d := (d.abortFor 1).dropOrders
  let kept := d.regs.filter fun p => p.1 / 0x100000 = 0xE && secKept p.1 ≠ 0
  let d := kept.foldl (fun d p => d.setReg p.1 (mergeWord (secKept p.1) p.2 (regReset p.1))) (d.clearBlock 0xE)
  d.zeroise.onSec fun s => { s with order := none, suspends := [], enrolKey := [], requests := 0 }

/-- The registers of AO that outlive a reset of AO: the sticky records, what the store itself holds, and what RST_STATUS shows of other
domains. -/
def aoKept (a : Nat) : Word :=
  if a = Reg.rstCause ∨ a = Reg.rstSrcActive ∨ a = Reg.nvmWear then 0xFFFFFFFF
  else if a = Reg.rstStatus then
    BitVec.ofNat 32 (F.rstStatus_inReset.mask ||| F.rstStatus_clockFault.mask ||| F.rstStatus_fw.mask ||| F.rstStatus_configReady.mask)
  else if a = Reg.rstWdt then BitVec.ofNat 32 F.rstWdt_fires.mask
  else if a = Reg.nvmStatus then BitVec.ofNat 32 (F.nvmStatus_spares.mask ||| F.nvmStatus_worn.mask)
  else 0

/-- AO but for the sticky records: records that wait on die, saves and summaries are lost, erases end with their sectors dirty
(R482, R504, R506). -/
def Dev.resetAo (d : Dev) : Dev :=
  let d := d.abortErases
  let kept := d.regs.filter fun p => aoKept p.1 ≠ 0
  let d := ((d.clearBlock 0x1).clearBlock 0x10).clearBlock 0x11
  let d := kept.foldl (fun d p => d.setReg p.1 (mergeWord (aoKept p.1) p.2 (regReset p.1))) d
  let d := d.onNvm fun n => { n with queue := [], saves := [], summaries := [] }
  let d := (d.setReg Reg.secAuditStatus 0).setFld Reg.secStatus F.secStatus_tamper 0
  let d := { d with sec := { d.sec with backlog := [], lostSince := 0 }, rst := { d.rst with inForce := [] } }
  let d := if d.thm.alert then d.emit (.pin "ALERT_N" true) else d
  { d with thm := { thermtrip := d.thm.thermtrip } }

/-- A domain loses its configuration and contents (R487); AO, TIME, MEM and SEC, NET, MEDIA, HIF by code. -/
def Dev.loseDomain (d : Dev) (k : Nat) : Dev :=
  match k with
  | 0 => d.resetAo
  | 1 => d.resetSec
  | 2 => d.resetTime
  | 3 => d.resetMem
  | 4 => d.resetNet
  | 5 => d.resetMedia
  | _ => d.resetHif

/-- The domain that a class of single blocks lies in. -/
def blockClassDomain (cls : Nat) : Nat := if cls = 5 then 4 else if cls = 6 then 1 else 5

/-- A single block is released: lanes start, SEC runs its start with the Charter's tables as they are, controllers restart. -/
def Dev.blockLeave (d : Dev) (cls idx : Nat) : Dev :=
  if d.inReset (blockClassDomain cls) || d.blockHeld cls idx then d
  else match cls with
    | 5 => ((List.range 4).foldl (fun d k => d.startLane (4 * idx + k)) d).showGroup idx
    | 6 => (d.showOptions.secStart 0).showReady
    | _ => d

/-- The clock faults of single blocks in the domains of a mask clear (R485). -/
def Dev.clearSlotFaults (d : Dev) (mask : Nat) : Dev :=
  [0, 1, 2, 3].foldl (fun d n =>
    let a := Reg.rstBlock n
    if bitAt mask (blockClassDomain (d.fld a F.rstBlock_class)) then d.setFld a F.rstBlock_clockFault 0 else d) d

/-- The domains of a mask enter reset (R483), HIF first, so that a completion which it no longer carries is discarded. IN_RESET shows
them and their CLOCK_FAULT clears (R485). Single blocks that slots of AO held are released with AO's reset. -/
def Dev.enter (d : Dev) (mask : Nat) : Dev :=
  let a := Reg.rstStatus
  let held := (([0, 1, 2, 3].map fun n => d.reg (Reg.rstBlock n)).filter fun w => bitAt mask 0 && F.rstBlock_assert.get w = 1)
  let on := (List.range 7).reverse.filter fun k => bitAt mask k
  let d := on.foldl Dev.loseDomain d
  let d := d.setFld a F.rstStatus_inReset (d.fld a F.rstStatus_inReset ||| (mask % 128))
  let f := d.fld a F.rstStatus_clockFault
  let d := d.setFld a F.rstStatus_clockFault (sumBy (fun k => bit (bitAt f k && !bitAt mask k) * 2 ^ k) (List.range 7))
  let d := d.clearSlotFaults mask
  let d := held.foldl (fun d w => d.blockLeave (F.rstBlock_class.get w) (F.rstBlock_index.get w)) d
  let d := if bitAt mask 5 && !bitAt mask 2 then d.showAdmitted else d
  d.showOptions.showPending.showReady

/-- The memory's contents go with MEM. -/
def enterMem (mask : Nat) (x : HbmDev) : HbmDev := (if bitAt mask 3 then [] else x.1, x.2.enter mask)

/-- A source is asserted: held ones show in RST_SRC_ACTIVE until they are released. -/
def assertSource (s : ResetSource) (held : Bool) (mask : Nat) (x : HbmDev) : HbmDev :=
  let d := x.2.cause s
  enterMem mask (x.1, if held then d.setActive s true else d)

/-- A held source is released. -/
def Dev.releaseSource (d : Dev) (s : ResetSource) : Dev := (d.setActive s false).showPending

/-! ## The commands -/

/-- PERST_ASSERT (R118, R482, R488). -/
def execPerstAssert (s : State) : Host.Outcome State Fault Refusal :=
  s.liftMem fun x =>
    let m := x.2.perstReach
    assertSource .perst true m (x.1, { x.2 with rst := { x.2.rst with reach := m } })

/-- PERST_RELEASE (R486). -/
def execPerstRelease (s : State) : Host.Outcome State Fault Refusal := s.lift fun d => d.releaseSource .perst

/-- HOT_RESET (R118). -/
def execHotReset (s : State) : Host.Outcome State Fault Refusal := s.liftMem (assertSource .hotReset false 0x40)

/-- LINK_DOWN (R118). -/
def execLinkDown (s : State) : Host.Outcome State Fault Refusal := s.liftMem (assertSource .linkDown false 0x40)

/-- PF0_FLR (R40, R118). -/
def execPf0Flr (s : State) : Host.Outcome State Fault Refusal :=
  s.liftMem fun x => assertSource .pf0Flr false 0x40 (x.1, x.2.withdrawCommits 0 false)

/-- PF0_D3HOT (R40, R89, R118). -/
def execPf0D3hot (s : State) : Host.Outcome State Fault Refusal :=
  s.liftMem fun x => assertSource .pf0Flr false 0x40 (x.1, x.2.withdrawCommits 0 false)

/-- RESET_N_ASSERT (R482). -/
def execResetNAssert (s : State) : Host.Outcome State Fault Refusal := s.liftMem (assertSource .resetN true allButAo)

/-- RESET_N_RELEASE (R486). -/
def execResetNRelease (s : State) : Host.Outcome State Fault Refusal := s.lift fun d => d.releaseSource .resetN

/-- SYSCLK_LOSS (R537): as if RESET_N were held low, with RST_CAUSE.CLOCK_FAULT. -/
def execSysclkLoss (s : State) : Host.Outcome State Fault Refusal := s.liftMem (assertSource .clockFault true allButAo)

/-- SYSCLK_RETURN (R537). -/
def execSysclkReturn (s : State) : Host.Outcome State Fault Refusal := s.lift fun d => d.releaseSource .clockFault

/-- DEBUG_RESET (R465, R482): only while DEBUG is FULL. -/
def execDebugReset (domains : Nat) (s : State) : Host.Outcome State Fault Refusal :=
  s.liftMem fun x =>
    if x.2.fld Reg.secStatus F.secStatus_debug ≠ 2 then x else assertSource .debug false (domains % 128) x

/-- SUPPLY_RESET (R482, R504). -/
def execSupplyReset (s : State) : Host.Outcome State Fault Refusal := s.liftMem (assertSource .supply true 0x7F)

/-- SUPPLY_RESET_RELEASE (R486, R535). -/
def execSupplyResetRelease (s : State) : Host.Outcome State Fault Refusal := s.lift fun d => d.releaseSource .supply

/-- Power-on reset: what the store and the pins hold is kept; all else returns to its reset value, the sticky records too, and the
thermal shutdown ends (R482, R538). -/
def Dev.powerOn (d : Dev) : Dev :=
  let e := d.enter 0x7F
  let pins := sumBy (fun s => bit (d.asserted s) * 2 ^ s.bit) [ResetSource.supply, .resetN, .perst, .clockFault]
  let st := d.reg Reg.secStatus
  let levels : Word := BitVec.ofNat 32 (F.secStatus_zeroizePin.mask ||| F.secStatus_tamperPin.mask)
  let z := Dev.reset
  let r : Dev := { z with nvm := e.nvm, rst := { z.rst with copyA := d.rst.copyA, copyB := d.rst.copyB, lifecycle := d.rst.lifecycle
                                                            fwFloor := d.rst.fwFloor, reach := d.rst.reach }
                          out := e.out, log := e.log, free := e.free }
  let r := (r.setReg Reg.nvmStatus (e.reg Reg.nvmStatus)).setReg Reg.nvmWear (e.reg Reg.nvmWear)
  let r := (r.setFld Reg.rstSrcActive F.rstSrcActive_sources (pins + 1)).setReg Reg.secStatus (mergeWord levels st 0)
  if d.thm.thermtrip then r.emit (.pin "THERMTRIP_N" true) else r

/-- POR (R482). -/
def execPor (s : State) : Host.Outcome State Fault Refusal := s.liftMem fun x => ([], x.2.powerOn)

/-- POR_RELEASE (R482, R535): with the supplies up in order POR releases; out of order the spec gives no behaviour. -/
def execPorRelease (inOrder : Bool) (s : State) : Host.Outcome State Fault Refusal :=
  if inOrder then s.lift fun d => d.releaseSource .por else .fault .supplyOrder

/-! ## Thermal shutdown (R509) -/

/-- Writes the shutdown record into the next power-event slot, even while writes are held. A sector whose erase would keep 8 slots erased is
left dirty, since new writes are blocked (R509); in a worn region the record is refused and counted in LOST (R506). -/
def Dev.shutdownRecord (d : Dev) (payload : List Nat) : Dev :=
  if d.nvm.worn.contains 1 then d.addFld Reg.nvmLost F.nvmLost_lost 1
  else
  let n := d.nvm.powerSeq
  let d := d.onNvm fun x => { x with power := (⟨1, LogKind.shutdown.code, 0, d.now, payload⟩, true) :: x.power.take 255
                                     powerSeq := n + 1, shutdown := some true }
  let p := ringSlot 28 4 n
  let d := d.onNvm fun x => { x with used := Tab.put zero x.used p.1 (p.2 + 1) }
  match d.powerErase? with
  | some k => d.onNvm fun x => { x with dirty := x.dirty ++ [k].filter fun k => !x.dirty.contains k }
  | none => d

/-- THERMAL_SHUTDOWN (R509): erases are aborted, the shutdown record is written, THERMTRIP_N is asserted, and the
thermal-shutdown reset takes effect. -/
def execThermalShutdown (source : Nat) (s : State) : Host.Outcome State Fault Refusal :=
  s.liftMem fun x =>
    let d := x.2
    if d.inReset 0 || d.thm.thermtrip || decide (68 ≤ source) || decide (d.sourceTemp source < d.threshold 4) ||
        (decide (source < 64) && !d.sensorValid source) then x
    else
      let cut := d.nvm.erasing.getLast?
      let d := d.abortErases.shutdownRecord [source, unsigned 32 (d.sourceTemp source), cut.getD 0xFFFF,
        d.fld Reg.nvmLost F.nvmLost_lost, d.fld Reg.secAuditStatus F.secAuditStatus_lost]
      let d := (d.onThm fun t => { t with thermtrip := true }).emit (.pin "THERMTRIP_N" false)
      assertSource .thermal true allButAo (x.1, d)

end Sys2Proof.Machine
end

