-- ==== Sys2Proof/Machine/Release.lean ====
section
/-! DEFINITION. Leaving reset (R484, R485, R510): the release of each domain, clocks that stay unstable, single blocks (R490), and the
option bytes (R491–R495). -/

namespace Sys2Proof.Machine

/-! ## Option bytes (R491–R495) -/

/-- GENERATION of a copy. -/
def optionGen (b : List Nat) : Nat := leAt b 4 4

/-- Whether copy `copy` is valid: its FORMAT and CHECK are right (R493). -/
def optionValid (copy : Nat) (b : List Nat) : Bool :=
  b.length = 256 && leAt b 0 2 = 1 &&
    leAt b 252 4 = crc32cBytes (wordBytes (copy * 65536 + optionGen b % 65536) ++ b.take 252)

/-- The safe defaults: as shipped, with BOOT_SRC HOST, TOTAL_VFS 0, AUTONOMOUS 0 and DEBUG_LOCK 1 (R493). -/
def safeDefaults : List Nat := ((shippedOptions.set 10 0).set 11 6).set 13 1 ++ [0, 0, 0, 0]

/-- Option bytes with the rule of R492 applied: the monotonic counters' values count where they are higher. -/
def withCounters (b : List Nat) (lifecycle fwFloor : Nat) : List Nat :=
  let f := max (leAt b 14 2) fwFloor
  ((b.set 12 (max (b.getD 12 0) lifecycle)).set 14 (f % 256)).set 15 (f / 256)

/-- Where the option bytes come from: 0 copy A, 1 copy B, 2 the safe defaults (R493). -/
def optionChoice (a b : List Nat) : Nat :=
  match optionValid 0 a, optionValid 1 b with
  | true, true => if optionGen a < optionGen b then 1 else 0
  | true, false => 0
  | false, true => 1
  | false, false => 2

/-- The option-byte reader (R493): the copy in force, its report, and recovery when neither copy is valid (R494). -/
def Dev.readOptions (d : Dev) : Dev :=
  let a := d.rst.copyA
  let b := d.rst.copyB
  let src := optionChoice a b
  let base := match src with
    | 0 => a
    | 1 => b
    | _ => safeDefaults
  let o := withCounters base d.rst.lifecycle d.rst.fwFloor
  let s := Reg.rstObStatus
  let d := { d with rst := { d.rst with inForce := o } }
  let d := ((d.setFld s F.rstObStatus_source src).setFld s F.rstObStatus_validA (bit (optionValid 0 a))).setFld s
    F.rstObStatus_validB (bit (optionValid 1 b))
  let d := d.setReg Reg.rstObGen (BitVec.ofNat 32 (if src = 2 then 0 else optionGen base))
  let d := (List.range 64).foldl (fun d w => d.setReg (Reg.rstOb w) (BitVec.ofNat 32 (leAt o (4 * w) 4))) d
  (d.setFld Reg.rstStatus F.rstStatus_recovery (bit (src = 2))).showOptions

/-- Bytes that a write of RST_OB_EDIT may change: neither security-relevant nor FORMAT, GENERATION or CHECK (R491, R495). -/
def editable (o : Nat) : Bool := o = 9 || o = 11 || decide (16 ≤ o ∧ o < 252)

/-- A write of RST_OB_EDIT (R495): with GO a new copy is written with one byte changed, or REFUSED sets. -/
def Dev.obEditWrite (d : Dev) (fn value : Nat) : Dev :=
  let a := Reg.rstObEdit
  let s := Reg.rstObStatus
  if !d.mayWrite fn a then d
  else
    let d := d.plainWrite fn a (BitVec.ofNat 32 (value % 65536))
    if !bitAt value 31 then d
    else if !editable (value / 256 % 256) || optionGen d.rst.inForce = 0xFFFFFFFF then d.setFld s F.rstObStatus_refused 1
    else (d.setFld s F.rstObStatus_refused 0).applyOptions [(value / 256 % 256, value % 256)]

/-- OB_EDIT_GO (R495). -/
def execObEditGo (fn value : Nat) (s : State) : Host.Outcome State Fault Refusal := s.lift fun d => d.obEditWrite fn value

/-! ## Single blocks (R67, R463, R489, R490) -/

/-- An item in service on a unit just isolated completes ABORT_ISOLATED: the floor pass of an encode band waits for a unit ahead of every
other item, the picture of a best-effort one ends, and any other item waits for its substitute, which runs at once where its deadline has
passed (R67). -/
def Dev.isolateItem (d : Dev) (i : Item) : Dev :=
  match d.flowObj i.flow with
  | .encPiece c _ =>
    let e := d.endItem i.flow i.seq false
    if i.live then d.beginFloor i (if i.floor = 0 then 0x20 else i.floor) none
    else match d.bandOfItem c i with
    | none => e
    | some (g, j, _) => e.abandon c g j 0x20
  | _ =>
    let j : Item := { i with unit := none, isolated := true }
    let d := d.onItem i.flow i.seq fun _ => j
    if d.substDue j then d.substitute j (d.substOf j) else d

/-- A unit enters reset. -/
def Dev.isolateUnit (d : Dev) (u : Nat) : Dev :=
  let d := d.onCox fun c => { c with pause := Tab.put zero c.pause u 0 }
  match d.served u with
  | none => d
  | some i => d.isolateItem i

/-- The instances of a class of single blocks (R490). -/
def blockCount (cls : Nat) : Nat := [0, 32, 8, 16, 16, 16, 1, 1].getD cls 0

/-- A single block enters reset behind its wrapper (R483, R490). -/
def Dev.blockEnter (d : Dev) (cls idx : Nat) : Dev :=
  match cls with
  | 1 => d.isolateUnit idx
  | 2 => d.isolateUnit (32 + idx)
  | 3 => d.isolateUnit (40 + idx)
  | 4 => d.isolateUnit (56 + idx)
  | 5 =>
    let d := (d.subPorts idx).foldl Dev.portDown d
    ((List.range 4).foldl (fun d k =>
      let l := 4 * idx + k
      (d.onLane l fun _ => {}).setReg (Reg.laneStatus l) (regReset (Reg.laneStatus l))) d).showGroup idx
  | 6 => (d.resetSec.audit .secReset []).showReady
  | 7 => if d.fld Reg.rstStatus F.rstStatus_fw = 1 then d.setFw 3 else d.showReady
  | _ => d

/-- A write of RST_BLOCK_n (R490). -/
def Dev.blockWrite (d : Dev) (fn slot value : Nat) : Dev :=
  let a := Reg.rstBlock slot
  let w := d.reg a
  let cls := value / 65536 % 8
  let idx := value % 32
  let on := bitAt value 31
  if !d.mayWrite fn a then d
  else if F.rstBlock_assert.get w = 1 then
    if on then d
    else (d.setFld a F.rstBlock_assert 0).blockLeave (F.rstBlock_class.get w) (F.rstBlock_index.get w)
  else if blockCount cls ≤ idx then d
  else
    let d := (d.setFld a F.rstBlock_class cls).setFld a F.rstBlock_index idx
    if on then ((d.setFld a F.rstBlock_assert 1).setFld a F.rstBlock_clockFault 0).blockEnter cls idx else d

/-- BLOCK_RESET_ASSERT (R490). -/
def execBlockResetAssert (fn slot value : Nat) (s : State) : Host.Outcome State Fault Refusal :=
  s.lift fun d => if slot < 4 then d.blockWrite fn slot value else d

/-- BLOCK_RESET_RELEASE (R490). -/
def execBlockResetRelease (fn slot value : Nat) (s : State) : Host.Outcome State Fault Refusal :=
  s.lift fun d => if slot < 4 then d.blockWrite fn slot value else d

/-! ## Domains (R484, R487, R497, R510) -/

/-- AO is released (R510): the option bytes are read, the last shutdown is reported once, the event log's SEQ is loaded, the erases of dirty
sectors start (R506), and a BOOT record is logged. -/
def Dev.aoStart (d : Dev) : Dev :=
  let last := match d.nvm.shutdown with
    | none => 0
    | some true => 1
    | some false => 2
  let d := (d.readOptions.onNvm fun n => { n with shutdown := none }).setFld Reg.nvmStatus F.nvmStatus_lastShutdown last
  let d := (d.setReg Reg.nvmLogSeq (BitVec.ofNat 32 d.nvm.logSeq)).showBusy
  d.eraseDirty.nvmLog .boot 0 [last]

/-- NET is released: the lanes that the configuration in force enables start (R334, R484). -/
def Dev.netStart (d : Dev) : Dev :=
  (List.range 16).foldl (fun d p => d.showGroup p)
    (((List.range 64).filter d.laneOn).foldl (fun d l => d.startLane l) d)

/-- A domain comes to its ready point (R484). -/
def Dev.ready (d : Dev) (k : Nat) (facts : ReleaseFacts) : Dev :=
  match k with
  | 0 => d.aoStart
  | 1 =>
    let d := d.readOptions.setFld Reg.secStatus F.secStatus_enrolPin (bit facts.enrolLow)
    d.secStart facts.selfTest
  | 2 => d.setSync .free
  | 3 => d.trainAll facts.eyes
  | 4 => d.netStart
  | 5 => if d.rst.image.isSome then d.setFw 1 else d
  | _ => (List.range 17).foldl Dev.showCrew d

/-- DOMAIN_RELEASE (R484): with its clock stable, a domain that nothing else holds is released and comes to its ready point. -/
def execDomainRelease (domain : Nat) (facts : ReleaseFacts) (s : State) : Host.Outcome State Fault Refusal :=
  s.lift fun d =>
    if !d.releasable domain then d
    else
      let a := Reg.rstStatus
      let d := d.setFld a F.rstStatus_inReset (d.fld a F.rstStatus_inReset - 2 ^ domain)
      (d.ready domain facts).showPending.showReady

/-- CLOCK_FAULT to CREW_0 with cause DOMAIN_CLOCK, and its record (R485). -/
def Dev.domainClock (d : Dev) (which : Nat) : Dev :=
  let ws := [4, which, 0, 0]
  (d.postEvent 0 .clockFault 0 ws).nvmLog .clockFault 0 ws

/-- DOMAIN_CLOCK_TIMEOUT (R485): of a domain that waits for its clock alone, or of the block of a slot, 0x10 + n, whose release was
asked for. Without SEC's clock the device behaves as with SEC in ERROR. -/
def execDomainClockTimeout (which : Nat) (s : State) : Host.Outcome State Fault Refusal :=
  s.lift fun d =>
    if which < 7 then
      if !d.releasable which then d
      else
        let a := Reg.rstStatus
        let d := d.setFld a F.rstStatus_clockFault (d.fld a F.rstStatus_clockFault + 2 ^ which)
        let d := if which = 1 then d.setFld Reg.secStatus F.secStatus_state 2 else d
        (d.domainClock which).showPending
    else if 0x10 ≤ which ∧ which < 0x14 then
      let a := Reg.rstBlock (which - 0x10)
      let cls := d.fld a F.rstBlock_class
      if cls = 0 ∨ d.flag a F.rstBlock_assert = true ∨ d.flag a F.rstBlock_clockFault = true then d
      else ((d.setFld a F.rstBlock_clockFault 1).blockEnter cls (d.fld a F.rstBlock_index)).domainClock which
    else d

end Sys2Proof.Machine
end

