-- ==== Sys2Proof/Machine/RegWrite.lean ====
section
/-! DEFINITION. REGISTER_WRITE (R7, R10, R11, R554): a write in BAR0. A register with a rule of its own takes the write as that rule
says; every other takes it by its access codes and presets. -/

namespace Sys2Proof.Machine

/-- The place of an address in `n` registers of a stride from a base. -/
def placeIn (a base stride n : Nat) : Option Nat :=
  if base ≤ a ∧ (a - base) % stride = 0 ∧ (a - base) / stride < n then some ((a - base) / stride) else none

/-- TIMEOUT_MS outside 10–10,000 is taken as 500 (RST_WDT). -/
def Dev.wdtWrite (d : Dev) (fn value : Nat) : Dev :=
  let t := value % 65536
  let v := if 10 ≤ t ∧ t ≤ 10000 then t else 500
  d.plainWrite fn Reg.rstWdt (BitVec.ofNat 32 (value / 65536 * 65536 + v))

/-- Writing 1 to bit 31 of THM_RAIL sets MIN_MV to 0xFFFF. -/
def Dev.railWrite (d : Dev) (r value : Nat) : Dev :=
  if bitAt value 31 then d.setFld (Reg.thmRail r) F.thmRail_minMv 0xFFFF else d

/-- The channel-status bytes that PRO_AUTO sets for a rate code: professional, no emphasis, 24 bits, and the rate in bytes 0 and
4 (R323). PRESUMED: the codes of AES3 (notes/assumptions/38.md). -/
def csAuto (rate : Nat) : List Nat :=
  let b0 := [0x45, 0x85, 0x05, 0x05, 0x05, 0x05].getD rate 0x05
  let b4 := [0x00, 0x00, 0x50, 0x10, 0x58, 0x18].getD rate 0x00
  [b0, 0, 0x2C, 0, b4] ++ List.replicate 19 0

/-- Word `w` of the channel status that a function reads of an AES3 output: its staged bytes or PRO_AUTO's, with the CRCC in byte
23 (R298, R323). -/
def Dev.csWord (d : Dev) (fn o w : Nat) : Nat :=
  let bytes := if F.audAesoCfg_csPreset.get (d.stagedReg fn (Reg.audAesoCfg o)) = 1 then
      csAuto (F.audClkCfg_houseRate.get (d.stagedReg fn Reg.audClkCfg))
    else (List.range 6).flatMap fun i => wordBytes (d.stagedReg fn (Reg.audAesoCs o i)).toNat
  leNat (((bytes.set 23 (crcc (bytes.take 23))).drop (4 * w)).take 4)

/-- CS_PRESET leaves PRO_AUTO: the bytes keep its values. -/
def Dev.csKeep (d : Dev) (fn o : Nat) : Dev :=
  (List.range 6).foldl (fun e w => e.takeWord fn (Reg.audAesoCs o w) (BitVec.ofNat 32 (d.csWord fn o w))) d

/-- A write of a word of AUD_AESO_CS sets CS_PRESET to 0 (R323). -/
def Dev.csWrite (d : Dev) (fn o a value : Nat) : Dev :=
  let c := Reg.audAesoCfg o
  ((d.csKeep fn o).takeWord fn a (BitVec.ofNat 32 value)).takeWord fn c (F.audAesoCfg_csPreset.set (d.stagedReg fn c) 0)

/-- A write of AUD_AESO_CFG. -/
def Dev.aesoWrite (d : Dev) (fn o value : Nat) : Dev :=
  let w := BitVec.ofNat 32 value
  let d := if F.audAesoCfg_csPreset.get w = 0 then d.csKeep fn o else d
  d.plainWrite fn (Reg.audAesoCfg o) w

/-- The registers of RST, THM and SEC with rules of their own. -/
def Dev.writeAo (d : Dev) (fn a value : Nat) : Option Dev :=
  if a = Reg.rstWdt then some (d.wdtWrite fn value)
  else if a = Reg.rstObEdit then some (d.obEditWrite fn value)
  else if a = Reg.secEnrolCtl then some (d.enrolWrite fn value)
  else if a = Reg.secZeroise then some (d.zeroiseWrite fn value)
  else ((placeIn a (Reg.rstBlock 0) 4 4).map fun n => d.blockWrite fn n value).or
    ((placeIn a (Reg.thmRail 0) 4 11).map fun r => d.railWrite r value)

/-- The registers of STK, TIME, AUD, LANE and EGS with rules of their own. -/
def Dev.writeMedia (d : Dev) (fn a value : Nat) : Option Dev :=
  if a = Reg.stkCommit then some (d.commitWrite fn value)
  else if a = Reg.stkBudgetCfg then some (d.budgetWrite fn value)
  else if a = Reg.timeIncInt ∨ a = Reg.timeIncFrac then some (d.incWrite fn a value)
  else if a = Reg.timeAdj then some (d.adjWrite fn value)
  else if a = Reg.laneSnapCtl then some (d.snapCtlWrite fn value)
  else if a = Reg.egsClsCfg then some (d.clsCfgWrite fn value)
  else ((placeIn a (Reg.laneCtl 0) 0x40 64).map fun l => d.laneCtlWrite fn l value).or
    (((placeIn a (Reg.laneTest 0) 0x40 64).map fun l => d.laneTestWrite fn l value).or
      (if 0x702000 ≤ a ∧ a < 0x702400 ∧ 8 ≤ a % 0x20 then some (d.csWrite fn ((a - 0x702000) / 0x20) a value)
       else (placeIn a (Reg.audAesoCfg 0) 0x20 32).map fun o => d.aesoWrite fn o value))

/-- The registers of PMU, RPL and CHK with rules of their own. -/
def Dev.writeCount (d : Dev) (fn a value : Nat) : Option Dev :=
  if a = Reg.rplCtl then some (d.rplCtlWrite fn value)
  else if a = Reg.rplStep then some (d.rplStepWrite fn value)
  else if 0xF01000 ≤ a ∧ a < 0xF01800 ∧ a % 0x40 < 0x20 then
    let n := match a % 0x40 with
      | 0x14 => 1
      | 0x18 => 2
      | _ => 4
    some (d.chkPut fn ((a - 0xF01000) / 0x40) (a % 0x40) n value)
  else ((placeIn a (Reg.pmuBankCtl 0) 0x80 143).map fun b => d.pmuCtlWrite fn b value).or
    (if 0x1201000 ≤ a ∧ a < 0x1205780 ∧ 0x20 ≤ a % 0x80 ∧ a % 0x80 < 0x40 then
      some (d.pmuCfgWrite fn ((a - 0x1201000) / 0x80) (a % 0x80 / 4 - 8) value) else none)

/-- The registers of a Crew page with rules of their own (R92, R111, R122): an address that ring pairs or the event ring use is held
while they are in use. -/
def Dev.writePage (d : Dev) (fn a value : Nat) : Option Dev :=
  let c := (a - 0x1410000) / 0x1000
  let o := a % 0x1000
  let r := (o - 0x100) / 0x20
  let plain := d.plainWrite fn a (BitVec.ofNat 32 value)
  if a < 0x1410000 ∨ 0x1421000 ≤ a then none
  else if o < 8 then some (if (List.range 64).all fun r => d.ringState c r = 0 then plain else d)
  else if o < 0x10 then some (if d.flag (Reg.hifEvqCfg c) F.hifEvqCfg_enable then d else plain)
  else if o = 0x10 then some (d.evqCfgWrite fn c value)
  else if 0x100 ≤ o ∧ o < 0x900 then
    match o % 0x20 with
    | 0x10 => some (d.ringCfgWrite fn c r value)
    | 0x14 => some (d.ringModWrite fn c r value)
    | _ => if o % 0x20 < 0x10 ∧ d.ringState c r ≠ 0 then some d else none
  else none

/-- A write that reaches the register at an address. -/
def writeReg (x : HbmDev) (fn a value : Nat) : HbmDev :=
  if a = Reg.memThaw then thawWrite x fn value
  else if a = Reg.memTrainCtl then (x.1, x.2.trainCtlWrite fn value)
  else
    let d := x.2
    let special := (d.writeAo fn a value).or ((d.writeMedia fn a value).or ((d.writeCount fn a value).or (d.writePage fn a value)))
    (x.1, special.getD (d.plainWrite fn a (BitVec.ofNat 32 value)))

/-- SEC_ENROL_KEY_w, write-only (R438). -/
def enrolKeyAt (a : Nat) : Option Nat := placeIn a 0xE00380 4 24

/-- REGISTER_WRITE (R11): an aligned 32-bit write that the function may make of a register that it sees; any other is discarded
(R7, R10). -/
def registerWrite (x : HbmDev) (fn off size value : Nat) : HbmDev :=
  let d := x.2
  let v := value % 2 ^ 32
  match (barAddr fn off).bind enrolKeyAt with
  | some w =>
    if fn = 0 ∧ size = 4 ∧ d.blockAnswers 0xE00380 = true then
      (x.1, d.onSec fun s => { s with enrolKey := Tab.put zero s.enrolKey w v })
    else x
  | none =>
    match d.writable fn off size with
    | none => x
    | some a => writeReg x fn a v

/-- REGISTER_WRITE (R11). -/
def execRegisterWrite (fn offset size value : Nat) (s : State) : Host.Outcome State Fault Refusal :=
  s.liftMem fun x => registerWrite x fn offset size value

end Sys2Proof.Machine
end

