-- ==== Sys2Proof/Machine/Dispatch.lean ====
section
/-! DEFINITION. The dispatch: one arm per command, each one direct call of its meaning. -/

namespace Sys2Proof.Machine

/-- The effect of a command on everything but the queue of waiting commands. -/
def exec (i : Instr) (s : State) : Host.Outcome State Fault Refusal :=
  match i with
  | .strokeBoundary content => Sys2Proof.Machine.execStrokeBoundary content s
  | .sensorSample temps => Sys2Proof.Machine.execSensorSample temps s
  | .throttleStepChange => Sys2Proof.Machine.execThrottleStepChange s
  | .thermalShutdown source => Sys2Proof.Machine.execThermalShutdown source s
  | .stkCommitWrite fn target => Sys2Proof.Machine.execStkCommitWrite fn target s
  | .commitAdmissionDone => Sys2Proof.Machine.execCommitAdmissionDone s
  | .tableBuildDone table => Sys2Proof.Machine.execTableBuildDone table s
  | .budgetCfgWrite fn value => Sys2Proof.Machine.execBudgetCfgWrite fn value s
  | .stkNowLoRead fn => Sys2Proof.Machine.execStkNowLoRead fn s
  | .registerWrite fn offset size value => Sys2Proof.Machine.execRegisterWrite fn offset size value s
  | .operandToken flow seq slot handle ns => Sys2Proof.Machine.execOperandToken flow seq slot handle ns s
  | .itemDispatch ns => Sys2Proof.Machine.execItemDispatch ns s
  | .itemComplete flow seq result picture ns => Sys2Proof.Machine.execItemComplete flow seq result picture ns s
  | .throttlePauseEnd unit ns => Sys2Proof.Machine.execThrottlePauseEnd unit ns s
  | .substituteAction flow seq => Sys2Proof.Machine.execSubstituteAction flow seq s
  | .deadlineFinish flow seq => Sys2Proof.Machine.execDeadlineFinish flow seq s
  | .beTimeout flow seq => Sys2Proof.Machine.execBeTimeout flow seq s
  | .partialAuToken chan k => Sys2Proof.Machine.execPartialAuToken chan k s
  | .frameBoundary handle k => Sys2Proof.Machine.execFrameBoundary handle k s
  | .flipDeadline prog k => Sys2Proof.Machine.execFlipDeadline prog k s
  | .layerCopyStart prog layer => Sys2Proof.Machine.execLayerCopyStart prog layer s
  | .layerCopyComplete prog layer => Sys2Proof.Machine.execLayerCopyComplete prog layer s
  | .bar2DoorbellWrite fn offset size value => Sys2Proof.Machine.execBar2DoorbellWrite fn offset size value s
  | .doorbellReadComplete crew words => Sys2Proof.Machine.execDoorbellReadComplete crew words s
  | .descriptorFetch crew ring => Sys2Proof.Machine.execDescriptorFetch crew ring s
  | .descriptorReadComplete crew ring words => Sys2Proof.Machine.execDescriptorReadComplete crew ring words s
  | .orderedDescriptorStart crew ring => Sys2Proof.Machine.execOrderedDescriptorStart crew ring s
  | .hostReadFailure read => Sys2Proof.Machine.execHostReadFailure read s
  | .heldCompletionWrite crew ring => Sys2Proof.Machine.execHeldCompletionWrite crew ring s
  | .holdTimeout crew ring => Sys2Proof.Machine.execHoldTimeout crew ring s
  | .evqHeadWrite fn head => Sys2Proof.Machine.execEvqHeadWrite fn head s
  | .evqEnable fn crew value => Sys2Proof.Machine.execEvqEnable fn crew value s
  | .evqDisable fn crew value => Sys2Proof.Machine.execEvqDisable fn crew value s
  | .ringEnable fn crew ring value => Sys2Proof.Machine.execRingEnable fn crew ring value s
  | .ringDisable fn crew ring value => Sys2Proof.Machine.execRingDisable fn crew ring value s
  | .ringDrained crew ring => Sys2Proof.Machine.execRingDrained crew ring s
  | .msixModerationExpiry fn vector => Sys2Proof.Machine.execMsixModerationExpiry fn vector s
  | .pcieLinkUp width speed => Sys2Proof.Machine.execPcieLinkUp width speed s
  | .linkTrainedBelowX8 width speed => Sys2Proof.Machine.execLinkTrainedBelowX8 width speed s
  | .configurationReady fn => Sys2Proof.Machine.execConfigurationReady fn s
  | .perstAssert => Sys2Proof.Machine.execPerstAssert s
  | .perstRelease => Sys2Proof.Machine.execPerstRelease s
  | .hotReset => Sys2Proof.Machine.execHotReset s
  | .linkDown => Sys2Proof.Machine.execLinkDown s
  | .pf0Flr => Sys2Proof.Machine.execPf0Flr s
  | .pf0D3hot => Sys2Proof.Machine.execPf0D3hot s
  | .vfFlr vf => Sys2Proof.Machine.execVfFlr vf s
  | .vfD3hot vf => Sys2Proof.Machine.execVfD3hot vf s
  | .vfEnableClear numVfs => Sys2Proof.Machine.execVfEnableClear numVfs s
  | .crewRelease crew => Sys2Proof.Machine.execCrewRelease crew s
  | .nop crew ring => Sys2Proof.Machine.execNop crew ring s
  | .forceIrap crew ring => Sys2Proof.Machine.execForceIrap crew ring s
  | .setHdr crew ring => Sys2Proof.Machine.execSetHdr crew ring s
  | .query crew ring => Sys2Proof.Machine.execQuery crew ring s
  | .bsPost crew ring => Sys2Proof.Machine.execBsPost crew ring s
  | .bsDelivery chan => Sys2Proof.Machine.execBsDelivery chan s
  | .bsStop crew ring => Sys2Proof.Machine.execBsStop crew ring s
  | .decQuery crew ring => Sys2Proof.Machine.execDecQuery crew ring s
  | .decResync crew ring => Sys2Proof.Machine.execDecResync crew ring s
  | .layerPost crew ring => Sys2Proof.Machine.execLayerPost crew ring s
  | .layerMove crew ring => Sys2Proof.Machine.execLayerMove crew ring s
  | .fenceSignal crew ring => Sys2Proof.Machine.execFenceSignal crew ring s
  | .fenceQuery crew ring => Sys2Proof.Machine.execFenceQuery crew ring s
  | .lutLoad crew ring entries => Sys2Proof.Machine.execLutLoad crew ring entries s
  | .lutPoke crew ring => Sys2Proof.Machine.execLutPoke crew ring s
  | .setMatrix crew ring => Sys2Proof.Machine.execSetMatrix crew ring s
  | .setMask crew ring entries => Sys2Proof.Machine.execSetMask crew ring entries s
  | .picPost crew ring => Sys2Proof.Machine.execPicPost crew ring s
  | .progQuery crew ring => Sys2Proof.Machine.execProgQuery crew ring s
  | .statsPost crew ring => Sys2Proof.Machine.execStatsPost crew ring s
  | .statsDelivery chan => Sys2Proof.Machine.execStatsDelivery chan s
  | .statsStop crew ring => Sys2Proof.Machine.execStatsStop crew ring s
  | .audRxPost crew ring => Sys2Proof.Machine.execAudRxPost crew ring s
  | .audRxBlock group => Sys2Proof.Machine.execAudRxBlock group s
  | .audTxPost crew ring => Sys2Proof.Machine.execAudTxPost crew ring s
  | .audTxBlockRead stream header => Sys2Proof.Machine.execAudTxBlockRead stream header s
  | .audPortPost crew ring => Sys2Proof.Machine.execAudPortPost crew ring s
  | .audStop crew ring => Sys2Proof.Machine.execAudStop crew ring s
  | .audQuery crew ring => Sys2Proof.Machine.execAudQuery crew ring s
  | .keyImport crew ring blob => Sys2Proof.Machine.execKeyImport crew ring blob s
  | .keyDestroy crew ring => Sys2Proof.Machine.execKeyDestroy crew ring s
  | .keyQuery crew ring => Sys2Proof.Machine.execKeyQuery crew ring s
  | .macsecSa crew ring => Sys2Proof.Machine.execMacsecSa crew ring s
  | .eapolPost crew ring => Sys2Proof.Machine.execEapolPost crew ring s
  | .eapolSend crew ring bytes => Sys2Proof.Machine.execEapolSend crew ring bytes s
  | .changeOrder crew ring bytes => Sys2Proof.Machine.execChangeOrder crew ring bytes s
  | .orderVerified ownerOk umpireOk => Sys2Proof.Machine.execOrderVerified ownerOk umpireOk s
  | .orderMarkerWritten => Sys2Proof.Machine.execOrderMarkerWritten s
  | .auditRead crew ring => Sys2Proof.Machine.execAuditRead crew ring s
  | .crewSuspend crew ring => Sys2Proof.Machine.execCrewSuspend crew ring s
  | .timeQuery crew ring => Sys2Proof.Machine.execTimeQuery crew ring s
  | .cntPost crew ring => Sys2Proof.Machine.execCntPost crew ring s
  | .cntLatch crew => Sys2Proof.Machine.execCntLatch crew s
  | .cntStop crew ring => Sys2Proof.Machine.execCntStop crew ring s
  | .rplPost crew ring => Sys2Proof.Machine.execRplPost crew ring s
  | .rplBufferDelivery crew => Sys2Proof.Machine.execRplBufferDelivery crew s
  | .rplStop crew ring => Sys2Proof.Machine.execRplStop crew ring s
  | .rplMark crew ring => Sys2Proof.Machine.execRplMark crew ring s
  | .rplFeed crew ring words => Sys2Proof.Machine.execRplFeed crew ring words s
  | .fwLoad crew ring => Sys2Proof.Machine.execFwLoad crew ring s
  | .logRead crew ring => Sys2Proof.Machine.execLogRead crew ring s
  | .ethFrameReceive mac frame ns => Sys2Proof.Machine.execEthFrameReceive mac frame ns s
  | .mergeKeyLost flow key => Sys2Proof.Machine.execMergeKeyLost flow key s
  | .liveFrameLaunch port ns => Sys2Proof.Machine.execLiveFrameLaunch port ns s
  | .controlFrameLaunch port ns => Sys2Proof.Machine.execControlFrameLaunch port ns s
  | .gateIntervalEnd port => Sys2Proof.Machine.execGateIntervalEnd port s
  | .gateListTakeover port => Sys2Proof.Machine.execGateListTakeover port s
  | .rehashWrite fn value => Sys2Proof.Machine.execRehashWrite fn value s
  | .laneLockLoss lane ns => Sys2Proof.Machine.execLaneLockLoss lane ns s
  | .warmRelockTimeout lane => Sys2Proof.Machine.execWarmRelockTimeout lane s
  | .laneLock lane ns margin => Sys2Proof.Machine.execLaneLock lane ns margin s
  | .portUp group sub => Sys2Proof.Machine.execPortUp group sub s
  | .anComplete group sub fec => Sys2Proof.Machine.execAnComplete group sub fec s
  | .marginSample lane margin after => Sys2Proof.Machine.execMarginSample lane margin after s
  | .idleWindowEnd lane idleBlocks => Sys2Proof.Machine.execIdleWindowEnd lane idleBlocks s
  | .laneSnapSave fn value => Sys2Proof.Machine.execLaneSnapSave fn value s
  | .laneRestartCold fn lane value => Sys2Proof.Machine.execLaneRestartCold fn lane value s
  | .laneTestWrite fn lane value => Sys2Proof.Machine.execLaneTestWrite fn lane value s
  | .injGo fn lane value => Sys2Proof.Machine.execInjGo fn lane value s
  | .ptpMessageReceive mac msg ns => Sys2Proof.Machine.execPtpMessageReceive mac msg ns s
  | .ptpDelayReqSend side => Sys2Proof.Machine.execPtpDelayReqSend side s
  | .ptpFailover => Sys2Proof.Machine.execPtpFailover s
  | .syncHoldover => Sys2Proof.Machine.execSyncHoldover s
  | .ptpRevert => Sys2Proof.Machine.execPtpRevert s
  | .partitionEnter => Sys2Proof.Machine.execPartitionEnter s
  | .gmChange => Sys2Proof.Machine.execGmChange s
  | .partitionLeave => Sys2Proof.Machine.execPartitionLeave s
  | .healthReport facts => Sys2Proof.Machine.execHealthReport facts s
  | .timeAdjGo fn value => Sys2Proof.Machine.execTimeAdjGo fn value s
  | .timeIncWrite fn offset value => Sys2Proof.Machine.execTimeIncWrite fn offset value s
  | .tcompUpdate => Sys2Proof.Machine.execTcompUpdate s
  | .timedOutputEdge output => Sys2Proof.Machine.execTimedOutputEdge output s
  | .ppsOutEdge => Sys2Proof.Machine.execPpsOutEdge s
  | .timeInputEdge input falling ns => Sys2Proof.Machine.execTimeInputEdge input falling ns s
  | .timeInNsRead fn input => Sys2Proof.Machine.execTimeInNsRead fn input s
  | .timeNowNsRead fn ns => Sys2Proof.Machine.execTimeNowNsRead fn ns s
  | .macCounterLoRead fn mac counter => Sys2Proof.Machine.execMacCounterLoRead fn mac counter s
  | .pmuCntLoRead fn bank counter => Sys2Proof.Machine.execPmuCntLoRead fn bank counter s
  | .aes3InputFrame input parityA parityB validA validB csA csB blockStart => Sys2Proof.Machine.execAes3InputFrame input parityA parityB validA validB csA csB blockStart s
  | .aes3Lock input rate => Sys2Proof.Machine.execAes3Lock input rate s
  | .aes3LockLoss input => Sys2Proof.Machine.execAes3LockLoss input s
  | .tdmClockLoss port => Sys2Proof.Machine.execTdmClockLoss port s
  | .tdmClockReturn port => Sys2Proof.Machine.execTdmClockReturn port s
  | .houseClockLoss outOfRange ppm => Sys2Proof.Machine.execHouseClockLoss outOfRange ppm s
  | .houseClockRestore ppm => Sys2Proof.Machine.execHouseClockRestore ppm s
  | .asrcLock asrc => Sys2Proof.Machine.execAsrcLock asrc s
  | .asrcRatioUpdate asrc ratio => Sys2Proof.Machine.execAsrcRatioUpdate asrc ratio s
  | .audioRampEnd group => Sys2Proof.Machine.execAudioRampEnd group s
  | .hbmRequest pc crew addr write flips => Sys2Proof.Machine.execHbmRequest pc crew addr write flips s
  | .hbmUncorrectableRead pc sector crew syndrome => Sys2Proof.Machine.execHbmUncorrectableRead pc sector crew syndrome s
  | .caParityError pc sector retryOk ns => Sys2Proof.Machine.execCaParityError pc sector retryOk ns s
  | .thaw pc => Sys2Proof.Machine.execThaw pc s
  | .memThawGo fn value => Sys2Proof.Machine.execMemThawGo fn value s
  | .refreshDue pc bank idle => Sys2Proof.Machine.execRefreshDue pc bank idle s
  | .stackTempReport stack temp => Sys2Proof.Machine.execStackTempReport stack temp s
  | .scrubRead pc sector => Sys2Proof.Machine.execScrubRead pc sector s
  | .trackingMeasure pc lane left right => Sys2Proof.Machine.execTrackingMeasure pc lane left right s
  | .memTrainSave fn value => Sys2Proof.Machine.execMemTrainSave fn value s
  | .enrolGo fn value => Sys2Proof.Machine.execEnrolGo fn value s
  | .secZeroiseGo fn value => Sys2Proof.Machine.execSecZeroiseGo fn value s
  | .zeroizePinAssert => Sys2Proof.Machine.execZeroizePinAssert s
  | .tamperPinAssert => Sys2Proof.Machine.execTamperPinAssert s
  | .securityPinRelease pin => Sys2Proof.Machine.execSecurityPinRelease pin s
  | .entropyTestFail => Sys2Proof.Machine.execEntropyTestFail s
  | .drbgReseed => Sys2Proof.Machine.execDrbgReseed s
  | .auditEntryWrite => Sys2Proof.Machine.execAuditEntryWrite s
  | .por => Sys2Proof.Machine.execPor s
  | .supplyReset => Sys2Proof.Machine.execSupplyReset s
  | .resetNAssert => Sys2Proof.Machine.execResetNAssert s
  | .resetNRelease => Sys2Proof.Machine.execResetNRelease s
  | .sysclkLoss => Sys2Proof.Machine.execSysclkLoss s
  | .debugReset domains => Sys2Proof.Machine.execDebugReset domains s
  | .domainRelease domain facts => Sys2Proof.Machine.execDomainRelease domain facts s
  | .domainClockTimeout which => Sys2Proof.Machine.execDomainClockTimeout which s
  | .watchdogFire => Sys2Proof.Machine.execWatchdogFire s
  | .fwImageVerified ok version => Sys2Proof.Machine.execFwImageVerified ok version s
  | .blockResetAssert fn slot value => Sys2Proof.Machine.execBlockResetAssert fn slot value s
  | .blockResetRelease fn slot value => Sys2Proof.Machine.execBlockResetRelease fn slot value s
  | .obEditGo fn value => Sys2Proof.Machine.execObEditGo fn value s
  | .railBelowWarn rail mv => Sys2Proof.Machine.execRailBelowWarn rail mv s
  | .railRecover rail mv => Sys2Proof.Machine.execRailRecover rail mv s
  | .nvmHoldEnd => Sys2Proof.Machine.execNvmHoldEnd s
  | .nvmRecordWrite => Sys2Proof.Machine.execNvmRecordWrite s
  | .sectorEraseDone sector ok => Sys2Proof.Machine.execSectorEraseDone sector ok s
  | .logTokenRefill => Sys2Proof.Machine.execLogTokenRefill s
  | .smbusBlockRead command => Sys2Proof.Machine.execSmbusBlockRead command s
  | .pmuCntCfgWrite fn bank counter value => Sys2Proof.Machine.execPmuCntCfgWrite fn bank counter value s
  | .pmuBankClear fn bank value => Sys2Proof.Machine.execPmuBankClear fn bank value s
  | .pmuPresetLoad fn bank value => Sys2Proof.Machine.execPmuPresetLoad fn bank value s
  | .sharedCounterLatch => Sys2Proof.Machine.execSharedCounterLatch s
  | .rplCtlWrite fn value => Sys2Proof.Machine.execRplCtlWrite fn value s
  | .rplStepWrite fn value => Sys2Proof.Machine.execRplStepWrite fn value s
  | .chkCfgWrite fn unit reg value => Sys2Proof.Machine.execChkCfgWrite fn unit reg value s
  | .chkFoldWrite fn unit value => Sys2Proof.Machine.execChkFoldWrite fn unit value s
  | .chkDataWrite fn unit size value => Sys2Proof.Machine.execChkDataWrite fn unit size value s
  | .chkResultRead fn unit reg => Sys2Proof.Machine.execChkResultRead fn unit reg s
  | .checkerLock lane => Sys2Proof.Machine.execCheckerLock lane s
  | .checkerLockLoss lane errors => Sys2Proof.Machine.execCheckerLockLoss lane errors s
  | .timedPulseEnd output => Sys2Proof.Machine.execTimedPulseEnd output s
  | .porRelease inOrder => Sys2Proof.Machine.execPorRelease inOrder s
  | .supplyResetRelease => Sys2Proof.Machine.execSupplyResetRelease s
  | .sysclkReturn => Sys2Proof.Machine.execSysclkReturn s
  | .controllersRestarted => Sys2Proof.Machine.execControllersRestarted s
  | .sideHealthTimeout side cause => Sys2Proof.Machine.execSideHealthTimeout side cause s

end Sys2Proof.Machine
end

