-- ==== Sys2Proof/Machine/View.lean ====
section
/-! DEFINITION. What a read of a register without a step of its own returns (R6, R7, R10, R11, R92, R472, R558): the staged value of
staged fields, the value held of others, and status that follows from the rest of the state. A read changes nothing, so that no
command stands for it; the commands that read with a side effect are in their families. -/

namespace Sys2Proof.Machine

/-- A word with fields set to what they show. -/
def showFields (w : Word) (l : List (Fld × Nat)) : Word := l.foldl (fun w p => p.1.set w p.2) w

/-! ## STK and COX -/

/-- STK_STATUS.SLEWING: the local clock runs at other than its nominal increment. DEDUCED (notes/assumptions/48.md). -/
def Dev.slewing (d : Dev) : Bool := decide (d.rawDeviation ≠ 0)

/-- Registers of STK that PF0 or a VF reads. -/
def Dev.viewStk (d : Dev) (a : Nat) (w : Word) : Word :=
  let st (t : TableId) : Nat := (d.bank (tableIdx t)).state
  let used (t : TableId) : Nat := (d.bank (tableIdx t)).used
  if a = Reg.stkNowLo then BitVec.ofNat 32 d.now
  else if a = Reg.stkPhase then BitVec.ofNat 32 d.stk.phase
  else if a = Reg.stkStatus then showFields w [(F.stkStatus_slewing, bit d.slewing)]
  else if a = Reg.stkBankStatus then
    showFields w [(F.stkBankStatus_classifier, st .classifier), (F.stkBankStatus_key, st .key), (F.stkBankStatus_gate, st .gate),
      (F.stkBankStatus_tone, st .tone), (F.stkBankStatus_affinity, st .affinity)]
  else if a = Reg.stkSidecamUse0 then
    showFields w [(F.stkSidecamUse0_classifier, used .classifier), (F.stkSidecamUse0_key, used .key), (F.stkSidecamUse0_tone, used .tone)]
  else if a = Reg.stkSidecamUse1 then showFields w [(F.stkSidecamUse1_affinity, used .affinity)]
  else w

/-- Registers of COX. -/
def Dev.viewCox (d : Dev) (a : Nat) (w : Word) : Word :=
  if a = Reg.coxStoreStatus then showFields w [(F.coxStoreStatus_inUse, (d.cox.items.filter fun i => i.unit.isNone).length)]
  else match placeIn a (Reg.coxUnitState 0) 4 40, placeIn a (Reg.coxFlowStat 0) 0x10 4096 with
    | some u, _ => showFields w [(F.coxUnitState_state, d.unitState u)]
    | none, some f =>
      let mine := d.cox.items.filter fun i => i.flow = f && i.unit.isNone
      showFields w [(F.coxFlowStat_entries, min 255 mine.length), (F.coxFlowStat_ready, min 255 (mine.filter fun i => i.readyNo ≠ 0).length)]
    | none, none => w

/-! ## Objects (R440, R558) -/

/-- STATE of an encode channel. -/
def Dev.encState (d : Dev) (c : Nat) : Nat :=
  match d.enc? c, d.encCfg? c with
  | some x, some g =>
    if g.flows.any (fun f => d.unitIsolated (d.homeUnit f)) || d.unitIsolated (56 + g.pkt) then 4
    else if x.mismatch then 3 else if x.begun then 2 else 1
  | _, _ => 0

/-- STATE of a decode channel. -/
def Dev.decState (d : Dev) (c : Nat) : Nat :=
  match d.dec? c with
  | none => 0
  | some x =>
    if d.unitIsolated (32 + x.cfg.dseat) then 5 else if x.mismatch then 4 else if x.start.isNone then 1
    else if x.episode.isSome then 3 else 2

/-- STATE of a programme. -/
def Dev.progState (d : Dev) (p : Nat) : Nat :=
  match d.prog? p with
  | none => 0
  | some x =>
    if (List.range (max 1 x.cfg.gang)).any fun i => d.unitIsolated (40 + p + i) then 3 else if x.episode.isSome then 2 else 1

/-- STATE of a layer: 0 DISABLED, 1 SHOWING, 2 NOT_READY, 3 DARK, 4 HELD. -/
def LayerDyn.state (y : LayerDyn) : Nat := if y.dark ≠ 0 then 3 else if !y.shown then 2 else if y.held then 4 else 1

/-- STATE of an audio group. -/
def Dev.grpState (d : Dev) (g : Nat) : Nat :=
  match Tab.get (fun _ => Option.none) d.aud.groups g with
  | none => 0
  | some (x : AudGrpDyn) => if d.inReset 5 then 3 else if x.episode.isSome then 2 else 1

/-- DEC_POOL_STATUS of a pool: buffers, free, short-term, long-term, output pending and held ones (R224). -/
def Dev.poolFields (d : Dev) (p : Nat) : List (Fld × Nat) :=
  match Tab.get (fun _ => Option.none) d.pools p with
  | some (x : Pool) =>
    let n (f : Buffer → Bool) : Nat := (x.buffers.filter f).length
    [(F.decPoolStatus_buffers, x.buffers.length), (F.decPoolStatus_free, n Buffer.free), (F.decPoolStatus_short, n fun b => b.mark = 1),
     (F.decPoolStatus_long, n fun b => b.mark = 2), (F.decPoolStatus_outPending, n fun b => b.outPending),
     (F.decPoolStatus_held, n fun b => decide (0 < b.hold))]
  | none => []

/-- Registers of ENC, DEC, CMP. -/
def Dev.viewVideo (d : Dev) (a : Nat) (w : Word) : Word :=
  match placeIn a (Reg.encChStatus 0) 0x80 256, placeIn a (Reg.decChStatus 0) 0x40 64, placeIn a (Reg.decPoolStatus 0) 0x10 320 with
  | some c, _, _ =>
    showFields w [(F.encChStatus_state, d.encState c), (F.encChStatus_srcMismatch, bit (((d.enc? c).map (·.mismatch)).getD false)),
      (F.encChStatus_stream, 0x100 + c)]
  | none, some c, _ =>
    showFields w [(F.decChStatus_state, d.decState c), (F.decChStatus_taint, bit (((d.dec? c).map (·.last)).getD false)),
      (F.decChStatus_stream, 0x200 + c)]
  | none, none, some p => showFields w (d.poolFields p)
  | none, none, none =>
    let p := (a - 0x610000) / 0x1000
    let o := a % 0x1000
    if a < 0x610000 ∨ 0x620000 ≤ a then w
    else if o = 0x34 then
      let dark := ((d.prog? p).map fun x => sumBy (fun y => bit (y.dark ≠ 0) * 2 ^ y.layer) x.layers).getD 0
      showFields w [(F.cmpProgStatus_state, d.progState p), (F.cmpProgStatus_stream, 0x240 + p), (F.cmpProgStatus_dark, dark)]
    else if 0x400 ≤ o ∧ o < 0x800 ∧ o % 0x40 = 0x20 then
      match (d.prog? p).bind fun x => x.layer? ((o - 0x400) / 0x40) with
      | none => w
      | some y => showFields w [(F.cmpLayerStatus_state, y.state), (F.cmpLayerStatus_darkCause, y.dark)]
    else w

/-- Registers of AUD: states, the handles of ports and streams, and the channel status sent. -/
def Dev.viewAud (d : Dev) (fn a : Nat) (w : Word) : Word :=
  match placeIn a (Reg.audAesiCfg 0) 0x80 32, placeIn a (Reg.audAesoCfg 0) 0x20 32, placeIn a (Reg.audGrpStatus 0) 0x80 64,
      placeIn a (Reg.audHostCfg 0) 0x10 64 with
  | some i, _, _, _ => showFields w [(F.audAesiCfg_stream, 0x300 + i)]
  | none, some o, _, _ => showFields w [(F.audAesoCfg_stream, 0x320 + o)]
  | none, none, some g, _ => showFields w [(F.audGrpStatus_state, d.grpState g), (F.audGrpStatus_stream, 0x280 + g)]
  | none, none, none, some h => showFields w [(F.audHostCfg_stream, 0x2C0 + h)]
  | none, none, none, none =>
    if 0x702000 ≤ a ∧ a < 0x702400 ∧ 8 ≤ a % 0x20 then BitVec.ofNat 32 (d.csWord fn ((a - 0x702000) / 0x20) ((a % 0x20 - 8) / 4))
    else w

/-! ## Traffic, security, counters, host -/

/-- Registers of EGS. -/
def Dev.viewEgs (d : Dev) (a : Nat) (w : Word) : Word :=
  if a = Reg.egsClsStatus then
    showFields w [(F.egsClsStatus_entries, d.classifierEntries.length), (F.egsClsStatus_sidecam, (d.bank 0).used)]
  else match placeIn a (Reg.egsEqStatus 0) 0x20 4096 with
    | some q => showFields w [(F.egsEqStatus_state, d.queueState q)]
    | none => w

/-- SEC_OWN_DATA of a function (R472): a VF sees its own number, SHARED of a unit, and none of any other instance. -/
def Dev.ownData (d : Dev) (fn : Nat) : Nat :=
  let s := d.fnReg fn Reg.secOwnSel
  let cls := F.secOwnSel_class.get s
  let i := F.secOwnSel_index.get s
  let o := if classSize cls ≤ i then 0x1F else d.owner cls i
  if fn = 0 ∨ o = fn ∨ (o = 0x1E ∧ 0x0C ≤ cls ∧ cls ≤ 0x0E) then o else 0x1F

/-- Registers of SEC. -/
def Dev.viewSec (d : Dev) (fn a : Nat) (w : Word) : Word :=
  if a = Reg.secOwnData then BitVec.ofNat 32 (d.ownData fn)
  else match placeIn a (Reg.secCrewState 0) 4 17 with
    | some c => showFields w [(F.secCrewState_function, bit (c = 0 || decide (c ≤ d.hif.numVfs))), (F.secCrewState_keys, d.keysOf c)]
    | none => w

/-- Registers of PMU and RPL. -/
def Dev.viewPmu (d : Dev) (a : Nat) (w : Word) : Word :=
  match placeIn a (Reg.rplLogStatus 0) 8 17 with
  | some c => showFields w [(F.rplLogStatus_content, d.fld (Reg.secCrewPolicy c) F.secCrewPolicy_replayContent)]
  | none =>
    let b := (a - 0x1201000) / 0x80
    let o := a % 0x80
    if a < 0x1201000 ∨ 0x1205780 ≤ a then w
    else if o = 0 then showFields w [(F.pmuBankCtl_owner, d.owner 0x0F b)]
    else if 0x20 ≤ o ∧ o < 0x40 then showFields w [(F.pmuCntCfg_crew, d.owner 0x0F b)]
    else w

/-- Registers of HIF. -/
def Dev.viewHif (d : Dev) (a : Nat) (w : Word) : Word :=
  if a = Reg.hifBwStatus then showFields w [(F.hifBwStatus_rdMbps, d.hostTraffic.1), (F.hifBwStatus_wrMbps, d.hostTraffic.2)] else w

/-- The value that a read of a register returns to a function that sees it. -/
def Dev.view (d : Dev) (fn a : Nat) : Word :=
  match Tab.get (fun _ => Option.none) d.latch a with
  | some v => BitVec.ofNat 32 v
  | none =>
    let w := d.plainRead fn a
    match a / 0x100000 with
    | 0x2 => d.viewStk a w
    | 0x3 => d.viewCox a w
    | 0x4 => d.viewVideo a w
    | 0x5 => d.viewVideo a w
    | 0x6 => d.viewVideo a w
    | 0x7 => d.viewAud fn a w
    | 0xA => d.viewEgs a w
    | 0xE => d.viewSec fn a w
    | 0x12 => d.viewPmu a w
    | 0x13 => d.viewPmu a w
    | 0x14 => d.viewHif a w
    | _ => w

/-- A read at an offset of a function's BAR0: 0 where nothing is mapped for it or the access is no aligned word (R7, R10); of a register
that belongs to a Crew, PF0 reads only what the house may see (R92). -/
def Dev.readBar (d : Dev) (fn off size : Nat) : Word :=
  if size ≠ 4 ∨ off % 4 ≠ 0 then 0
  else match d.mapped fn off with
    | none => 0
    | some a => if fn = 0 && d.houseBarred a then d.view fn a &&& houseSees a else d.view fn a

/-! ## BAR2 (R91) -/

/-- Word `i` of a function's pending-bit array: a vector fired while it was masked (R91). -/
def Dev.pendingBits (d : Dev) (fn i : Nat) : Nat :=
  sumBy (fun v => Tab.get zero d.hif.msixPend (64 * fn + 32 * i + v) * 2 ^ v) (List.range 32)

/-- A word of a function's BAR2: the MSI-X table and the pending-bit array. DESIGN CHOICE (notes/assumptions/29.md): doorbells and the event-ring
head, of which the spec states writes alone, read 0, as an unmapped offset does (R7). -/
def Dev.bar2Word (d : Dev) (fn off : Nat) : Nat :=
  if d.inReset 6 ∨ d.hif.numVfs < fn ∨ off % 4 ≠ 0 then 0
  else if 0x8000 ≤ off ∧ off < 0x8400 then Tab.get msixReset d.hif.msix (256 * fn + (off - 0x8000) / 4)
  else if 0xC000 ≤ off ∧ off < 0xC008 then d.pendingBits fn ((off - 0xC000) / 4)
  else 0

/-- A read in a function's BAR2, of an aligned word or double word. -/
def Dev.readBar2 (d : Dev) (fn off size : Nat) : Nat :=
  if (size ≠ 4 ∧ size ≠ 8) ∨ off % size ≠ 0 then 0
  else d.bar2Word fn off + (if size = 8 then d.bar2Word fn (off + 4) * 2 ^ 32 else 0)

/-! ## PCI configuration (R85, R88) -/

/-- What of PCI configuration space R85 states, by name: PCI Express gives each its place and its encoding. Sizes are in bytes, widths in lanes,
and `speed` is a speed code. -/
inductive PciField where
  | vendor | device | classCode | speed | width | payloadMax | payload | readRequest | tag10 | msixVectors | msixTable | msixPending | msi
  | intx | aer | ecrc | totalVfs | firstVf | vfStride | ari | flr | d3hot | aspm | l1pm | ats | pri | pasid | atomicOp | tph
  deriving DecidableEq, Repr

/-- The answer to a configuration request: Configuration Request Retry Status, or a value. -/
inductive ConfigAnswer where
  | retry
  | value (v : Nat)
  deriving DecidableEq, Repr

/-- Whether a function is ready for configuration requests (R88). -/
def Dev.configReady (d : Dev) (fn : Nat) : Bool :=
  d.flag Reg.hifLinkStatus F.hifLinkStatus_ready && !d.hif.absent.contains fn

/-- The value of a configuration field of a function. Anything absent from R85 reads 0. Programmed sizes that nothing has programmed are
PCI Express's own resets, 128 and 512 bytes: PRESUMED (notes/assumptions/29.md). -/
def Dev.pciField (d : Dev) (fn : Nat) (f : PciField) : Nat :=
  let pf := bit (fn = 0)
  match f with
  | .vendor => Config.vendorId
  | .device => if fn = 0 then 0x6400 else 0x6401
  | .classCode => 0x048000
  | .speed => d.maxSpeed
  | .width => d.maxWidth
  | .payloadMax => 512
  | .payload => 128 * 2 ^ Tab.get zero d.hif.pcie (2 * fn)
  | .readRequest => 128 * 2 ^ Tab.get (fun _ => 2) d.hif.pcie (2 * fn + 1)
  | .tag10 => 1
  | .msixVectors => 64
  | .msixTable => 0x8000
  | .msixPending => 0xC000
  | .aer => 1
  | .ecrc => 1
  | .totalVfs => pf * d.totalVfs
  | .firstVf => pf
  | .vfStride => pf
  | .ari => 1
  | .flr => 1
  | .d3hot => 1
  | _ => 0

/-- What a configuration read of a function's field answers (R85, R88). -/
def Dev.readConfig (d : Dev) (fn : Nat) (f : PciField) : ConfigAnswer :=
  if d.configReady fn then .value (d.pciField fn f) else .retry

end Sys2Proof.Machine
end

