-- ==== Sys2Proof/WellFormed.lean ====
section
/-! DEFINITION. Which commands the spec's numbering admits: each operand within the range that its block gives it. A command that is
not well-formed names nothing of the device, so nothing sends it; exec answers such a command too, with no effect where its
operand selects nothing. -/

namespace Sys2Proof

/-- PF0 or one of 16 VFs (R85, R86). -/
def okFn (fn : Nat) : Bool := decide (fn ≤ 16)

/-- CREW_0 or one of 16 Crews (R86). -/
def okCrew (c : Nat) : Bool := decide (c ≤ 16)

/-- A ring pair of a Crew (R93). -/
def okRing (c r : Nat) : Bool := okCrew c && decide (r < 64)

/-- A 32-bit word. -/
def okWord (v : Nat) : Bool := decide (v < 2 ^ 32)

/-- An instant within a Stroke (R16). -/
def okNs (ns : Nat) : Bool := decide (ns < 125000)

/-- A flow and a sequence number (R51, R55). -/
def okItem (f seq : Nat) : Bool := decide (f < 4096 ∧ seq < 65536)

/-- A MAC instance, or a lane: there are 64 of each (R326). -/
def ok64 (m : Nat) : Bool := decide (m < 64)

/-- A sector of a pseudo-channel: 2^29 bytes in sectors of 32 (R412). -/
def okSector (pc sector : Nat) : Bool := decide (pc < 128 ∧ sector < 2 ^ 24)

/-- A list of words. -/
def okWords (l : List Nat) : Bool := l.all okWord

/-- A list of bytes. -/
def okBytes (l : List Nat) : Bool := l.all fun b => decide (b < 256)

/-- A host read names what it is a read of (R120). -/
def HostRead.ok : HostRead → Bool
  | .doorbell c => okCrew c
  | .descriptor c r => okRing c r
  | .buffer f seq => okItem f seq
  | .layer p l => decide (p < 16 ∧ l < 16)
  | .audio s => decide (s < 64)
  | .data c r => okRing c r
  | .firmware => true

/-- A band of a frame of an encode channel. -/
def BandContent.ok (b : BandContent) : Bool :=
  decide (b.chan < 256 ∧ b.band < 4096 ∧ b.planes.length = 3) && b.planes.all fun p => p.all fun r => r.all fun v => decide (v < 4096)

/-- Samples have at most 12 bits. -/
def planesOk (n : Nat) (l : List (List (List Nat))) : Bool := l.length == n && l.all fun p => p.all fun r => r.all fun v => decide (v < 4096)

/-- Programmes and layers are of the machine; a buffer has alpha beside its three components. -/
def Arrival.ok : Arrival → Bool
  | .band b => b.ok
  | .strip p l _ j planes => decide (p < 16 ∧ l < 16 ∧ j < 512) && planesOk 3 planes
  | .buffer p l planes => decide (p < 16 ∧ l < 16) && planesOk 4 planes

/-- The causes of R239 are one byte, reconstructed samples have 10 bits (R223), a check value is a word. -/
def ItemResult.ok (r : ItemResult) : Bool :=
  decide (r.cause < 256 ∧ r.crc < 2 ^ 32) && r.ctuBits.length == r.floorBits.length &&
    (r.luma.all fun l => l.all fun v => decide (v < 1024)) && r.blocks.all fun b => decide (b.list < 2 ∧ b.ref < 16)

/-- A frame's tag and addresses fit their fields (R348). -/
def EthFrame.ok (f : EthFrame) : Bool :=
  decide (f.da < 2 ^ 48 ∧ f.sa < 2 ^ 48) &&
    f.tag.all fun t => decide ((t.1 = 0x8100 ∨ t.1 = 0x88A8) ∧ t.2.1 < 4096 ∧ t.2.2 < 8)

/-- What a PTP message says fits its fields (R401). -/
def PtpBody.ok (m : PtpBody) : Bool :=
  match m with
  | .announce a => decide (a.gm < 2 ^ 64 ∧ a.priority1 < 256 ∧ a.clockClass < 256 ∧ a.accuracy < 256 ∧ a.variance < 65536 ∧ a.priority2 < 256 ∧
      a.steps < 65536 ∧ a.interval < 32)
  | _ => true

/-- Whether every operand of a command is in its range. -/
def Instr.wf : Instr → Bool
  | .strokeBoundary content => content.all Arrival.ok
  | .sensorSample temps => temps.all fun t => decide (t.1 < 64)
  | .throttleStepChange => true
  | .thermalShutdown source => decide (source < 68)
  | .stkCommitWrite fn target => okFn fn && okWord target
  | .commitAdmissionDone => true
  | .tableBuildDone _ => true
  | .budgetCfgWrite fn value => okFn fn && okWord value
  | .stkNowLoRead fn => okFn fn
  | .registerWrite fn offset size value =>
    okFn fn && decide (offset < (if fn = 0 then 2 ^ 26 else 2 ^ 20)) && (size == 1 || size == 2 || size == 4 || size == 8) &&
      decide (value < 2 ^ (8 * size))
  | .operandToken flow seq slot handle ns => okItem flow seq && decide (slot < 4 ∧ handle < 2 ^ 32) && okNs ns
  | .itemDispatch ns => okNs ns
  | .itemComplete flow seq result _ ns => okItem flow seq && result.ok && okNs ns
  | .throttlePauseEnd unit ns => decide (unit < 40) && okNs ns
  | .substituteAction flow seq => okItem flow seq
  | .deadlineFinish flow seq | .beTimeout flow seq => okItem flow seq
  | .partialAuToken chan _ => ok64 chan
  | .frameBoundary handle _ => decide (0x100 ≤ handle ∧ handle < 0x240)
  | .flipDeadline prog _ => decide (prog < 16)
  | .layerCopyStart prog layer | .layerCopyComplete prog layer => decide (prog < 16 ∧ layer < 16)
  | .bar2DoorbellWrite fn offset size value =>
    okFn fn && decide (offset < (if fn = 0 then 2 ^ 24 else 2 ^ 16)) && (size == 1 || size == 2 || size == 4 || size == 8) &&
      decide (value < 2 ^ (8 * size))
  | .doorbellReadComplete crew words => okCrew crew && decide (words.length ≤ 64) && okWords words
  | .descriptorFetch crew ring => okRing crew ring
  | .descriptorReadComplete crew ring words => okRing crew ring && words.length == 16 && okWords words
  | .orderedDescriptorStart crew ring => okRing crew ring
  | .hostReadFailure read => read.ok
  | .heldCompletionWrite crew ring | .holdTimeout crew ring => okRing crew ring
  | .evqHeadWrite fn head => okFn fn && okWord head
  | .evqEnable fn crew value | .evqDisable fn crew value => okFn fn && okCrew crew && okWord value
  | .ringEnable fn crew ring value | .ringDisable fn crew ring value => okFn fn && okRing crew ring && okWord value
  | .ringDrained crew ring => okRing crew ring
  | .msixModerationExpiry fn vector => okFn fn && ok64 vector
  | .pcieLinkUp width speed | .linkTrainedBelowX8 width speed => decide (width < 32 ∧ speed < 8)
  | .configurationReady fn => okFn fn
  | .perstAssert | .perstRelease | .hotReset | .linkDown | .pf0Flr | .pf0D3hot => true
  | .vfFlr vf | .vfD3hot vf => decide (1 ≤ vf ∧ vf ≤ 16)
  | .vfEnableClear numVfs => decide (numVfs ≤ 16)
  | .crewRelease crew => decide (1 ≤ crew ∧ crew ≤ 16)
  | .nop crew ring | .forceIrap crew ring | .setHdr crew ring | .query crew ring | .bsPost crew ring | .bsStop crew ring
  | .decQuery crew ring | .decResync crew ring | .layerPost crew ring | .layerMove crew ring | .fenceSignal crew ring
  | .fenceQuery crew ring | .lutPoke crew ring | .setMatrix crew ring | .picPost crew ring | .progQuery crew ring
  | .statsPost crew ring | .statsStop crew ring | .audRxPost crew ring | .audTxPost crew ring | .audPortPost crew ring
  | .audStop crew ring | .audQuery crew ring | .keyDestroy crew ring | .keyQuery crew ring | .macsecSa crew ring
  | .eapolPost crew ring | .auditRead crew ring | .crewSuspend crew ring | .timeQuery crew ring | .cntPost crew ring
  | .cntStop crew ring | .rplPost crew ring | .rplStop crew ring | .rplMark crew ring | .fwLoad crew ring
  | .logRead crew ring => okRing crew ring
  | .bsDelivery chan | .statsDelivery chan => decide (chan < 256)
  | .lutLoad crew ring entries | .setMask crew ring entries | .rplFeed crew ring entries => okRing crew ring && okWords entries
  | .audRxBlock group | .audioRampEnd group => ok64 group
  | .audTxBlockRead stream header => ok64 stream && okWords header
  | .keyImport crew ring blob | .eapolSend crew ring blob | .changeOrder crew ring blob => okRing crew ring && okBytes blob
  | .orderVerified _ _ | .orderMarkerWritten => true
  | .cntLatch crew | .rplBufferDelivery crew => okCrew crew
  | .ethFrameReceive mac frame ns => ok64 mac && frame.ok && okNs ns
  | .mergeKeyLost flow _ => decide (flow < 4096)
  | .liveFrameLaunch port ns | .controlFrameLaunch port ns => ok64 port && okNs ns
  | .gateIntervalEnd port | .gateListTakeover port => ok64 port
  | .rehashWrite fn value => okFn fn && okWord value
  | .laneLockLoss lane ns => ok64 lane && okNs ns
  | .warmRelockTimeout lane | .checkerLock lane => ok64 lane
  | .laneLock lane ns margin => ok64 lane && okNs ns && decide (margin < 256)
  | .portUp group sub => decide (group < 16 ∧ sub < 4)
  | .anComplete group sub fec => decide (group < 16 ∧ sub < 4 ∧ fec < 4)
  | .marginSample lane margin after => ok64 lane && decide (margin < 256 ∧ after < 256)
  | .idleWindowEnd lane idleBlocks => ok64 lane && decide (idleBlocks ≤ 65536)
  | .laneSnapSave fn value => okFn fn && okWord value
  | .laneRestartCold fn lane value | .laneTestWrite fn lane value | .injGo fn lane value => okFn fn && ok64 lane && okWord value
  | .ptpMessageReceive mac msg ns => ok64 mac && okNs ns && decide (msg.domain < 256 ∧ msg.source < 2 ^ 80) && msg.body.ok
  | .ptpDelayReqSend side => decide (side < 2)
  | .ptpFailover | .syncHoldover | .ptpRevert | .partitionEnter | .gmChange | .partitionLeave => true
  | .healthReport facts => facts.all fun x => ok64 x.mac
  | .timeAdjGo fn value => okFn fn && okWord value
  | .timeIncWrite fn _ value => okFn fn && okWord value
  | .tcompUpdate | .ppsOutEdge => true
  | .timedOutputEdge output => decide (output < 8)
  | .timeInputEdge input _ ns => decide (input < 5) && okNs ns
  | .timeInNsRead fn input => okFn fn && decide (input < 5)
  | .timeNowNsRead fn ns => okFn fn && okNs ns
  | .macCounterLoRead fn mac counter => okFn fn && ok64 mac && decide (counter < 11)
  | .pmuCntLoRead fn bank counter => okFn fn && decide (bank < 143 ∧ counter < 8)
  | .aes3InputFrame input _ _ _ _ _ _ _ => decide (input < 32)
  | .aes3Lock input rate => decide (input < 32 ∧ rate < 8)
  | .aes3LockLoss input => decide (input < 32)
  | .tdmClockLoss port | .tdmClockReturn port => decide (port < 8)
  | .houseClockLoss _ ppm | .houseClockRestore ppm => decide (-32768 ≤ ppm ∧ ppm < 32768)
  | .asrcLock asrc => decide (asrc < 256)
  | .asrcRatioUpdate asrc ratio => decide (asrc < 256) && okWord ratio
  | .hbmRequest pc crew addr write flips =>
    okCrew crew && decide (pc < 128 ∧ addr < 2 ^ 29 ∧ flips < 2 ^ 288) && okBytes (write.getD [])
  | .hbmUncorrectableRead pc sector crew syndrome => okSector pc sector && okCrew crew && decide (syndrome < 2 ^ 16)
  | .caParityError pc sector _ ns => okSector pc sector && okNs ns
  | .thaw pc => decide (pc < 128)
  | .memThawGo fn value => okFn fn && okWord value
  | .refreshDue pc bank _ => decide (pc < 128 ∧ bank < 64)
  | .stackTempReport stack temp => decide (stack < 4 ∧ temp < 256)
  | .scrubRead pc sector => okSector pc sector
  | .trackingMeasure pc lane _ _ => decide (pc < 128 ∧ lane < 10)
  | .memTrainSave fn value | .enrolGo fn value | .secZeroiseGo fn value | .obEditGo fn value | .rplCtlWrite fn value
  | .rplStepWrite fn value => okFn fn && okWord value
  | .zeroizePinAssert | .tamperPinAssert | .securityPinRelease _ | .entropyTestFail | .drbgReseed | .auditEntryWrite => true
  | .por | .supplyReset | .resetNAssert | .resetNRelease | .sysclkLoss => true
  | .debugReset domains => decide (domains < 128)
  | .domainRelease domain facts => decide (domain < 7) && facts.eyes.all fun e => decide (e.1 < 128)
  | .domainClockTimeout which => decide (which < 7 ∨ 0x10 ≤ which ∧ which < 0x14)
  | .watchdogFire | .fwImageVerified _ _ => true
  | .blockResetAssert fn slot value | .blockResetRelease fn slot value => okFn fn && decide (slot < 4) && okWord value
  | .railBelowWarn rail mv | .railRecover rail mv => decide (rail < 11 ∧ mv < 65536)
  | .nvmHoldEnd | .nvmRecordWrite | .logTokenRefill => true
  | .sectorEraseDone sector _ => decide (sector < 256)
  | .smbusBlockRead command => decide (command < 256)
  | .pmuCntCfgWrite fn bank counter value => okFn fn && decide (bank < 143 ∧ counter < 8) && okWord value
  | .pmuBankClear fn bank value | .pmuPresetLoad fn bank value => okFn fn && decide (bank < 143) && okWord value
  | .sharedCounterLatch => true
  | .chkCfgWrite fn unit reg value =>
    okFn fn && decide (unit < 32) && (reg == 0 || reg == 4 || reg == 8 || reg == 12) && okWord value
  | .chkFoldWrite fn unit value => okFn fn && decide (unit < 32) && okWord value
  | .chkDataWrite fn unit size value =>
    okFn fn && decide (unit < 32) && (size == 1 || size == 2 || size == 4) && decide (value < 2 ^ (8 * size))
  | .chkResultRead fn unit reg => okFn fn && decide (unit < 32 ∧ reg < 0x40 ∧ reg % 4 = 0)
  | .checkerLockLoss lane errors => ok64 lane && okWord errors
  | .timedPulseEnd output => decide (output ≤ 8)
  | .porRelease _ | .supplyResetRelease | .sysclkReturn | .controllersRestarted => true
  | .sideHealthTimeout side cause => decide (side < 2 ∧ cause < 3)

end Sys2Proof
end

