-- ==== Sys2Proof/Safety.lean ====
section
/-! DEFINITION. The terms that statements about the block use: the canonical form of the HBM, what a command shows, what a completion
entry holds, when a descriptor is due, and what leaves registers alone. A run is safe where no step stops; only POR_RELEASE with the
supplies out of order stops. -/

namespace Sys2Proof

/-- The one command that stops. -/
def Instr.stops (c : Instr) : Bool := c == .porRelease false

/-- The commands that can change the bytes of the HBM: memory traffic, the boundary (a change order gives space away, R419), the filling of
pools (R226), writes of MEM_THAW, and the resets that reach MEM. -/
def Instr.reachesHbm : Instr → Bool
  | .hbmRequest .. | .thaw _ | .memThawGo .. | .registerWrite .. | .scrubRead .. | .strokeBoundary _ | .commitAdmissionDone | .thermalShutdown _
  | .perstAssert | .hotReset | .linkDown | .pf0Flr | .pf0D3hot | .resetNAssert | .sysclkLoss | .debugReset _ | .supplyReset
  | .por => true
  | _ => false

end Sys2Proof

namespace Sys2Proof.Machine

/-- The HBM's bytes are in canonical form. -/
def Memory.wf (m : Memory) : Bool := Tab.wf zeroByte m

/-- A state whose next step does not stop. -/
def State.Safe (s : State) : Prop := ∃ t, step s = .next t

/-- What the device shows between two of its states holds an output. -/
def Dev.Shows (d t : Dev) (o : Output) : Prop := ∃ new, t.out = new ++ d.out ∧ o ∈ new

/-- What the device shows between two of its states is one output. -/
def Dev.ShowsOnly (d t : Dev) (o : Output) : Prop := t.out = o :: d.out

/-- A completion entry of a descriptor is written with a status and words 3–6, in the layout of R104. -/
def Dev.Completes (d t : Dev) (x : Desc) (status : Nat) (ws : List Nat) : Prop :=
  ∃ i w2 chk, d.Shows t (.entry x.crew x.ring i
    [pack [(status, 24), (x.opcode, 16), (x.tag, 0)], d.nowLo, w2, ws.getD 0 0, ws.getD 1 0, ws.getD 2 0, ws.getD 3 0, chk])

/-- A descriptor is the oldest due one of a ring pair, of an opcode. -/
def Dev.IsDue (d : Dev) (crew ring opcode : Nat) (x : Desc) : Prop :=
  d.hif.due.find? (fun y => y.crew = crew && y.ring = ring) = some x ∧ x.opcode = opcode

/-- A descriptor's ring pair is still the one it was read under, its completion is asked for on DONE too, and its entry can be written at once:
none waits before it, and the capacity of the Stroke has room for it (R110, R115, R116). -/
def Dev.Answers (d : Dev) (x : Desc) : Prop :=
  (∃ g, d.ring x.crew x.ring = some g ∧ g.epoch = x.epoch ∧ g.held = []) ∧ x.quiet = false ∧ d.entryShare x.crew x.ring = true

/-- Every register but those listed is as it was. -/
def Dev.KeepsRegs (d t : Dev) (l : List Nat) : Prop := ∀ a, a ∉ l → t.reg a = d.reg a

/-- Nothing changes but the host side and what is shown. -/
def State.HostOnly (s t : State) : Prop := t = { s with dev := { s.dev with hif := t.dev.hif, out := t.dev.out } }

/-- Nothing changes but registers, and of these only those listed. -/
def State.RegsOnly (s t : State) (l : List Nat) : Prop :=
  t = { s with dev := { s.dev with regs := t.dev.regs } } ∧ s.dev.KeepsRegs t.dev l

/-- A register whose writes a rule of its own governs: REGISTER_WRITE passes them to it. -/
def Dev.ownRule (d : Dev) (fn a v : Nat) : Bool :=
  a = Reg.memThaw || a = Reg.memTrainCtl || (d.writeAo fn a v).isSome || (d.writeMedia fn a v).isSome || (d.writeCount fn a v).isSome ||
    (d.writePage fn a v).isSome

/-- Whether a token reaches one item: all but a band token of a best-effort band, which reaches each of its segments (R148). -/
def Dev.oneToken (d : Dev) (flow seq slot : Nat) : Bool :=
  slot ≠ 0 || (match d.flowObj flow with
    | .encPiece c _ => (match d.encItem? c seq with
      | some (g, _) => g.live
      | none => true)
    | _ => true)

end Sys2Proof.Machine
end

