-- ==== Sys2Proof/Certificates/Slice0/Obligations.lean ====
section
/-! DEFINITION. The statements for the provers. Each docstring names the rule of the spec that a statement formalises, and says where
a clause is the model's own choice. -/

open Sys2Proof Sys2Proof.Machine

/-! ## The block -/

/-- A step takes the command at the front of the queue and carries it out with the queue's rest; on an empty queue it changes nothing
(the model's choice, notes/assumptions/1.md). -/
def Obligations.StepTakesFrontCommand : Prop :=
  (∀ (s : State) (c : Instr) (rest : List Instr), s.pending = c :: rest → step s = exec c { s with pending := rest }) ∧
    ∀ s : State, s.pending = [] → step s = .next s

/-- Right after reset no command waits, the HBM lists nothing, every register of the table reads its reset value, all seven domains are
in reset and the Stroke count is 0. Which instant reset is, and the values of registers to which the spec gives none, are the model's choice
(notes/assumptions/2.md, 3.md). -/
def Obligations.ResetState : Prop :=
  State.reset.pending = [] ∧ State.reset.mem = [] ∧ (∀ a, State.reset.dev.reg a = regReset a) ∧
    (∀ dom < 7, State.reset.dev.inReset dom = true) ∧ State.reset.dev.now = 0 ∧ State.reset.dev.out = []

/-- The HBM is in canonical form at reset. -/
def Obligations.ResetMemoryCanonical : Prop := Memory.wf State.reset.mem = true

/-- Every step keeps the HBM in canonical form: addresses strictly rising, and no byte listed that reads as an unlisted one. -/
def Obligations.MemoryStaysCanonical : Prop :=
  ∀ s t : State, Memory.wf s.mem = true → step s = .next t → Memory.wf t.mem = true

/-- Every command but POR_RELEASE with the supplies out of order (R535) answers a next state in every state, and touches the queue of
waiting commands not at all; that one stops with its own fault. A command whose occasion has not come changes
nothing, and that fault is there, by the model's choice (notes/assumptions/5.md, 63.md). -/
def Obligations.CommandsAnswer : Prop :=
  (∀ (c : Instr) (s : State), c.stops = false → ∃ t, exec c s = .next t ∧ t.pending = s.pending) ∧
    ∀ s : State, exec (.porRelease false) s = .fault .supplyOrder

/-- No byte of the HBM changes but by memory traffic, the boundary, a write of MEM_THAW and the resets that reach MEM. -/
def Obligations.HbmFrame : Prop :=
  ∀ (c : Instr) (s t : State), c.reachesHbm = false → exec c s = .next t → t.mem = s.mem

/-- R7: an offset that is not mapped for a function reads 0, and a write of it changes nothing, whatever the size of the access. -/
def Obligations.UnmappedOffsets : Prop :=
  ∀ (s : State) (fn off size value : Nat), s.dev.mapped fn off = none →
    s.dev.readBar fn off size = 0 ∧ exec (.registerWrite fn off size value) s = .next s

/-- R10 with R7: an access of any size but an aligned word is as if its offset were unmapped. -/
def Obligations.OddAccesses : Prop :=
  ∀ (s : State) (fn off size value : Nat), size ≠ 4 ∨ off % 4 ≠ 0 →
    s.dev.readBar fn off size = 0 ∧ exec (.registerWrite fn off size value) s = .next s

/-! ## Descriptors -/

/-- R107 with R101, R104 and R108: a NOP that is due completes DONE in the next slot of its completion queue, with the 64-bit Stroke in
words 3 and 4, its reserved slot is given back, and nothing outside the host side changes. R100: with QUIET a descriptor that completes
DONE shows no entry, and its reserved slot is given back all the same (NOP). -/
def Obligations.NopCompletes : Prop :=
  (∀ (s : State) (crew ring : Nat) (x : Desc) (g : Ring), s.dev.IsDue crew ring 0xF0 x → s.dev.Answers x →
      s.dev.ring x.crew x.ring = some g →
      ∃ t, exec (.nop crew ring) s = .next t ∧ s.HostOnly t ∧ x ∉ t.dev.hif.due ∧
        (∃ h, t.dev.ring x.crew x.ring = some h ∧ h.cqSeq = g.cqSeq + 1 ∧ h.reserved = g.reserved - 1 ∧ x.seq ∉ h.opened ∧
          h.lost = false) ∧
        ∃ body, s.dev.Shows t.dev (.entry x.crew x.ring (g.cqSeq % s.dev.cqSize x.crew x.ring)
            (body ++ [crc32c ((64 * x.crew + x.ring) * 65536 + g.cqSeq % 65536) body])) ∧
          body = [pack [(0xF0, 16), (x.tag, 0)], s.dev.nowLo,
            pack [(bit g.lost, 17), (if g.cqSeq / s.dev.cqSize x.crew x.ring % 2 = 0 then 1 else 0, 16),
              (s.dev.fld (Reg.hifRingStatus x.crew x.ring) F.hifRingStatus_sqHead, 0)],
            s.dev.now % 2 ^ 32, s.dev.now / 2 ^ 32, 0, 0]) ∧
  (∀ (s : State) (crew ring : Nat) (x : Desc) (g : Ring), s.dev.IsDue crew ring 0xF0 x → x.quiet = true →
      s.dev.ring x.crew x.ring = some g → g.epoch = x.epoch →
      ∃ t, exec (.nop crew ring) s = .next t ∧ t.dev.out = s.dev.out ∧ s.HostOnly t ∧
        ∃ h, t.dev.ring x.crew x.ring = some h ∧ h.cqSeq = g.cqSeq ∧ h.reserved = g.reserved - 1)


/-- R289: PROG_QUERY completes at its target with the counts of the programme, each of which wraps. -/
def Obligations.ProgQueryCounts : Prop :=
  ∀ (s : State) (crew ring : Nat) (x : Desc) (y : ProgDyn), s.dev.IsDue crew ring 0x29 x → s.dev.Answers x →
    s.dev.prog? (x.object - 0x240) = some y →
    ∃ t, exec (.progQuery crew ring) s = .next t ∧ s.HostOnly t ∧ s.dev.Completes t.dev x 0
      [y.frames % 2 ^ 32, y.held % 2 ^ 32, y.postsHeld % 2 ^ 32, y.episodes % 2 ^ 16 * 2 ^ 16 + y.darks % 2 ^ 16]

/-- R409: TIME_QUERY completes DONE at its target with UTC_OFFSET, SYNC and LOCAL_OFFSET; every function may use it, with OBJECT 0; the
other opcodes of its family are refused with REFUSED_FORMAT. -/
def Obligations.TimeQuery : Prop :=
  (∀ (s : State) (crew ring : Nat) (x : Desc), s.dev.IsDue crew ring 0x70 x → s.dev.Answers x →
    ∃ t, exec (.timeQuery crew ring) s = .next t ∧ s.HostOnly t ∧ s.dev.Completes t.dev x 0
      [s.dev.utcOffset % 2 ^ 16 * 2 ^ 16 + s.dev.sync,
        unsigned 32 (signed 17 (s.dev.fld Reg.timeTodCfg F.timeTodCfg_localOffset)), 0, 0]) ∧
  (∀ (d : Dev) (x : Desc), 0x71 ≤ x.opcode → x.opcode ≤ 0x7F → d.refusal? allRules x = some (0x13, [])) ∧
  ∃ r, r ∈ allRules ∧ r.opcode = 0x70 ∧ r.house = false ∧ r.kind = (· == .zero)

/-- R161, R244, R286, R321, R457: QUERY, DEC_QUERY, AUD_QUERY, FENCE_QUERY and KEY_QUERY complete DONE with what their object counts or
holds, and change nothing outside the host side. -/
def Obligations.QueriesComplete : Prop :=
  (∀ (s : State) (crew ring : Nat) (x : Desc) (y : EncDyn), s.dev.IsDue crew ring 0x12 x → s.dev.Answers x →
    s.dev.enc? x.chan = some y →
    ∃ t, exec (.query crew ring) s = .next t ∧ s.HostOnly t ∧ s.dev.Completes t.dev x 0
      [y.coded % 2 ^ 32, y.floorBands % 2 ^ 32, y.heldBands % 2 ^ 32, y.mismatches % 2 ^ 16 * 2 ^ 16 + y.forced % 2 ^ 16]) ∧
  (∀ (s : State) (crew ring : Nat) (x : Desc) (y : DecDyn), s.dev.IsDue crew ring 0x18 x → s.dev.Answers x →
    s.dev.dec? (x.object - 0x200) = some y →
    ∃ t, exec (.decQuery crew ring) s = .next t ∧ s.HostOnly t ∧ s.dev.Completes t.dev x 0
      [y.decoded % 2 ^ 32, y.held % 2 ^ 32, y.concealed % 2 ^ 32, y.episodes % 2 ^ 16 * 2 ^ 16 + y.discarded % 2 ^ 16]) ∧
  (∀ (s : State) (crew ring : Nat) (x : Desc) (y : AudGrpDyn), s.dev.IsDue crew ring 0x44 x → s.dev.Answers x →
    s.dev.grp? (x.object - 0x280) = some y →
    ∃ t, exec (.audQuery crew ring) s = .next t ∧ s.HostOnly t ∧ s.dev.Completes t.dev x 0
      [y.read % 2 ^ 32, y.concealed % 2 ^ 32, y.late % 2 ^ 32, y.episodes % 2 ^ 32]) ∧
  (∀ (s : State) (crew ring : Nat) (x : Desc), s.dev.IsDue crew ring 0x23 x → s.dev.Answers x →
    ∃ t, exec (.fenceQuery crew ring) s = .next t ∧ s.HostOnly t ∧ s.dev.Completes t.dev x 0
      [(s.dev.fence (x.object - 0x1000)).1 % 2 ^ 32, (s.dev.fence (x.object - 0x1000)).1 / 2 ^ 32,
        (s.dev.fence (x.object - 0x1000)).2 % 2 ^ 32]) ∧
  ∀ (s : State) (crew ring : Nat) (x : Desc), s.dev.IsDue crew ring 0x62 x → s.dev.Answers x →
    ∃ t, exec (.keyQuery crew ring) s = .next t ∧ s.HostOnly t ∧ s.dev.Completes t.dev x 0
      (match s.dev.key (x.object - 0x2000) with
       | none => [0, 0]
       | some k => [k.purpose + 4, k.kcv])

/-- R162, R189, R317, R318, R319, R459, R519, R526: a post that takes effect stands from the current Stroke with no buffer used yet; it
completes only by its deliveries, so nothing is shown. AUD_TX_POST stands as soon as it is staged. R165, R193, R321, R519, R526: a stop of
a post that stands completes DONE, and the post leaves and completes DONE with its delivery count while its Crew's share has room for that
entry; a stop of one that does not stand completes REFUSED_FORMAT. A BS_STOP or STATS_STOP does so where no delivery is under way. -/
def Obligations.PostsAndStops : Prop :=
  let ends (s t : State) (x : Desc) (find : Option Standing) : Prop :=
    match find with
    | none => s.dev.Completes t.dev x 0x13 [] ∧ t.dev.hif.standing.map (·.desc) = s.dev.hif.standing.map (·.desc)
    | some p => s.dev.Completes t.dev x 0 [] ∧ (∀ q ∈ t.dev.hif.standing, q.is p.desc = false) ∧
        (s.dev.Answers p.desc → s.dev.writesOf p.desc.crew + 1 < s.dev.hostScale 120 → s.dev.Completes t.dev p.desc 0 [p.count])
  ((∀ (s : State) (crew ring op : Nat) (c : Instr) (x : Desc) ,
      (c, op) ∈ [(Instr.bsPost crew ring, 0x30), (.statsPost crew ring, 0x50), (.audRxPost crew ring, 0x40),
        (.audPortPost crew ring, 0x42), (.eapolPost crew ring, 0x64), (.cntPost crew ring, 0x80)] →
      s.dev.IsDue crew ring op x →
      ∃ t p, exec c s = .next t ∧ t = { s with dev := { s.dev with hif := t.dev.hif } } ∧ x ∉ t.dev.hif.due ∧
        t.dev.hif.standing = s.dev.hif.standing ++ [p] ∧
        p.desc = x ∧ p.start = s.dev.now ∧ p.next = 0 ∧ p.count = 0 ∧ p.gap = false ∧ p.busy = []) ∧
    (∀ (s : State) (crew ring : Nat) (x : Desc), s.dev.IsDue crew ring 0x82 x →
      ∃ t p, exec (.rplPost crew ring) s = .next t ∧ t.dev.hif.standing = s.dev.hif.standing ++ [p] ∧ p.desc = x ∧
        p.start = s.dev.now ∧ p.count = 0 ∧ t.dev.reg (Reg.rplLogSeq x.crew) = 0 ∧
        t.dev.fld (Reg.rplLogStatus x.crew) F.rplLogStatus_lost = 0 ∧
        s.dev.KeepsRegs t.dev [Reg.rplLogSeq x.crew, Reg.rplLogStatus x.crew]) ∧
    ∀ (s : State) (crew ring : Nat) (x : Desc),
      (s.dev.hif.due ++ s.dev.hif.staged).find? (fun y => y.crew = crew && y.ring = ring && y.opcode = 0x41 && !y.waits) = some x →
      ∃ t p, exec (.audTxPost crew ring) s = .next t ∧ t = { s with dev := { s.dev with hif := t.dev.hif } } ∧
        x ∉ t.dev.hif.due ∧ x ∉ t.dev.hif.staged ∧ t.dev.hif.standing = s.dev.hif.standing ++ [p] ∧ p.desc = x ∧ p.count = 0) ∧
  (∀ (s : State) (crew ring op : Nat) (c : Instr) (x : Desc) (find : Option Standing),
      (c, op, find) ∈ [(Instr.audStop crew ring, 0x43, s.dev.hif.standing.find? fun p =>
          p.desc.object = x.object && p.desc.tag = x.w 3 % 65536 && [0x40, 0x41, 0x42].contains p.desc.opcode),
        (.cntStop crew ring, 0x81, s.dev.crewStanding? 0x80 x.crew), (.rplStop crew ring, 0x83, s.dev.crewStanding? 0x82 x.crew)] →
      s.dev.IsDue crew ring op x → s.dev.Answers x →
      ∃ t, exec c s = .next t ∧ s.HostOnly t ∧ ends s t x find) ∧
  ∀ (s : State) (crew ring op : Nat) (c : Instr) (x : Desc) (find : Option Standing),
    (c, op, find) ∈ [(Instr.bsStop crew ring, 0x31, s.dev.standing? 0x30 x.object),
      (.statsStop crew ring, 0x51, s.dev.standing? 0x50 x.object)] →
    (∀ y, s.dev.enc? x.chan = some y → y.units = [] ∧ y.stats = []) → s.dev.IsDue crew ring op x → s.dev.Answers x →
    ∃ t, exec c s = .next t ∧ t = { s with dev := { s.dev with hif := t.dev.hif, out := t.dev.out, enc := t.dev.enc } } ∧
      (∀ k, t.dev.enc? k = s.dev.enc? k) ∧ ends s t x find


/-- R272, R286: FENCE_SIGNAL raises its fence to the value of words 3 and 4 at this Stroke and completes DONE; a value that is not greater
is refused with REFUSED_FORMAT and changes no fence. No other fence changes. R261, R265, R266, R287: LUT_LOAD, LUT_POKE, SET_MATRIX and
SET_MASK take their values into the layer or the programme they name, and complete DONE. LUT_LOAD, its shadow bank built, takes all 1,024
entries but those poked since the build began (R45); LUT_POKE those of its words 4–7 that are not 0, through the side CAM; without room there
it waits for the next swap (R46). -/
def Obligations.FencesAndPixelTables : Prop :=
  (∀ (s : State) (crew ring : Nat) (x : Desc), s.dev.IsDue crew ring 0x22 x → s.dev.Answers x →
      ∃ t, exec (.fenceSignal crew ring) s = .next t ∧
        (∀ f, f ≠ x.object - 0x1000 → t.dev.fence f = s.dev.fence f) ∧
        if x.w 3 + x.w 4 * 2 ^ 32 ≤ (s.dev.fence (x.object - 0x1000)).1 then
          s.dev.Completes t.dev x 0x13 [] ∧ s.HostOnly t
        else
          t.dev.fence (x.object - 0x1000) = (x.w 3 + x.w 4 * 2 ^ 32, s.dev.now) ∧ s.dev.Completes t.dev x 0 [] ∧
            ∃ r, t.dev.log = r :: s.dev.log ∧ r.crew = x.crew ∧ r.kind = 0x03 ∧ r.obj = x.object ∧ r.data = [x.w 3, x.w 4]) ∧
  ((∀ (s : State) (crew ring : Nat) (entries : List Nat) (x : Desc), s.dev.IsDue crew ring 0x24 x → s.dev.Answers x →
      1024 ≤ entries.length → (s.dev.bank 3).state = 2 → s.dev.stk.deferred = [] →
      ∃ t, exec (.lutLoad crew ring entries) s = .next t ∧ s.dev.Completes t.dev x 0 [] ∧
        s.dev.KeepsRegs t.dev ((List.range 17).flatMap fun c => [Reg.rplLogStatus c, Reg.rplLogSeq c]) ∧
        t = { s with dev := { s.dev with regs := t.dev.regs, hif := t.dev.hif, out := t.dev.out, cmp := t.dev.cmp, stk := t.dev.stk
                                         log := t.dev.log } } ∧
        ∀ i < 1024, Tab.get noLut t.dev.cmp.lut (1024 * x.layerSlot + i) =
          if (s.dev.bank 3).since.contains (1024 * x.layerSlot + i) = true then Tab.get noLut s.dev.cmp.lut (1024 * x.layerSlot + i)
          else some (entries.getD i 0 % 2 ^ 20)) ∧
    (∀ (s : State) (crew ring : Nat) (x : Desc), s.dev.IsDue crew ring 0x25 x → x.w 7 ≠ 0 →
      ((s.dev.bank 3).used + 4 ≤ 64 → s.dev.Answers x →
        ∃ t, exec (.lutPoke crew ring) s = .next t ∧ s.dev.Completes t.dev x 0 [] ∧
          t = { s with dev := { s.dev with hif := t.dev.hif, out := t.dev.out, cmp := t.dev.cmp, stk := t.dev.stk } } ∧
          Tab.get noLut t.dev.cmp.lut (1024 * x.layerSlot + x.w 7 / 2 ^ 20 % 1024) = some (x.w 7 % 2 ^ 20)) ∧
      (64 ≤ (s.dev.bank 3).used →
        (∀ i < 1024, 1024 * x.layerSlot + i ∉ (s.dev.bank 3).before ∧ 1024 * x.layerSlot + i ∉ (s.dev.bank 3).since) →
        ∃ t, exec (.lutPoke crew ring) s = .next t ∧ t.dev.out = s.dev.out ∧ t.dev.cmp = s.dev.cmp ∧
          t.dev.stk.deferred = s.dev.stk.deferred ++ [⟨.tone, x, none⟩])) ∧
    (∀ (s : State) (crew ring : Nat) (x : Desc), s.dev.IsDue crew ring 0x26 x → s.dev.Answers x →
      ∃ t, exec (.setMatrix crew ring) s = .next t ∧ s.dev.Completes t.dev x 0 [] ∧
        t = { s with dev := { s.dev with hif := t.dev.hif, out := t.dev.out, cmp := t.dev.cmp } } ∧
        Tab.get noList t.dev.cmp.matrix x.layerSlot = [x.w 4 / 65536, x.w 4 % 65536, x.w 5 / 65536, x.w 5 % 65536,
          x.w 6 / 65536, x.w 6 % 65536, x.w 7 / 65536, x.w 7 % 65536, x.w 8 / 65536]) ∧
    ∀ (s : State) (crew ring : Nat) (entries : List Nat) (x : Desc), s.dev.IsDue crew ring 0x27 x → s.dev.Answers x →
      4096 ≤ entries.length →
      ∃ t, exec (.setMask crew ring entries) s = .next t ∧ s.dev.Completes t.dev x 0 [] ∧
        t = { s with dev := { s.dev with hif := t.dev.hif, out := t.dev.out, cmp := t.dev.cmp } } ∧
        Tab.get noList t.dev.cmp.mask x.prog = (entries.take 4096).map (· % 4096))


/-- R159, R160, R245, R273, R285, R288: FORCE_IRAP, SET_HDR, PIC_POST, LAYER_MOVE, LAYER_POST and DEC_RESYNC join what their object waits
to do, and are completed by it later: no entry is shown. -/
def Obligations.DescriptorsJoinObjects : Prop :=
  (∀ (s : State) (crew ring : Nat) (x : Desc) (y : EncDyn), s.dev.IsDue crew ring 0x10 x → s.dev.enc? x.chan = some y →
    ∃ t, exec (.forceIrap crew ring) s = .next t ∧ t.dev.out = s.dev.out ∧
      t = { s with dev := { s.dev with hif := t.dev.hif, enc := t.dev.enc } } ∧
      t.dev.enc? x.chan = some { y with force := y.force ++ [⟨x, x.w 3 % 4, none⟩] }) ∧
  (∀ (s : State) (crew ring : Nat) (x : Desc) (y : EncDyn), s.dev.IsDue crew ring 0x11 x → s.dev.enc? x.chan = some y →
    ∃ t, exec (.setHdr crew ring) s = .next t ∧
      t = { s with dev := { s.dev with hif := t.dev.hif, enc := t.dev.enc } } ∧
      t.dev.enc? x.chan = some { y with hdrNext := y.hdrNext ++ [x] }) ∧
  (∀ (s : State) (crew ring : Nat) (x : Desc) (y : EncDyn), s.dev.IsDue crew ring 0x28 x → s.dev.enc? x.chan = some y →
    ∃ t n, exec (.picPost crew ring) s = .next t ∧ s.dev.ShowsOnly t.dev (.hostRead x.crew (x.w 3 + x.w 4 * 2 ^ 32) n) ∧
      t = { s with dev := { s.dev with hif := t.dev.hif, enc := t.dev.enc, cox := t.dev.cox, out := t.dev.out } } ∧
      (∀ i ∈ s.dev.cox.items, i.target ≠ noTarget → i ∈ t.dev.cox.items) ∧
      t.dev.enc? x.chan = some { y with posts := y.posts ++ [x] }) ∧
  (∀ (s : State) (crew ring : Nat) (x : Desc) (y : ProgDyn), s.dev.IsDue crew ring 0x21 x → s.dev.prog? x.prog = some y →
    ∃ t, exec (.layerMove crew ring) s = .next t ∧
      t = { s with dev := { s.dev with hif := t.dev.hif, cmp := t.dev.cmp } } ∧
      t.dev.prog? x.prog = some { y with moves := y.moves ++ [x] }) ∧
  (∀ (s : State) (crew ring : Nat) (x : Desc) (y : ProgDyn),
    (s.dev.hif.due ++ s.dev.hif.staged).find? (fun y => y.crew = crew && y.ring = ring && y.opcode = 0x20 && !y.waits) = some x →
    s.dev.prog? x.prog = some y →
    ∃ t p, exec (.layerPost crew ring) s = .next t ∧
      t = { s with dev := { s.dev with hif := t.dev.hif, cmp := t.dev.cmp } } ∧ x ∉ t.dev.hif.staged ∧
      t.dev.prog? x.prog = some { y with posts := y.posts ++ [p] } ∧ p.desc = x ∧ p.layer = x.w 3 % 16 ∧ p.start = none ∧
      p.copied = false) ∧
  ∀ (s : State) (crew ring : Nat) (x : Desc) (y : DecDyn), s.dev.IsDue crew ring 0x19 x → s.dev.dec? (x.object - 0x200) = some y →
    ∃ t, exec (.decResync crew ring) s = .next t ∧
      t = { s with dev := { s.dev with hif := t.dev.hif, dec := t.dev.dec, pools := t.dev.pools } } ∧
      t.dev.dec? (x.object - 0x200) =
        some { y with start := none, mismatch := false, episode := none, refreshing := false, resync := y.resync ++ [x] }

/-! ## Keys and orders -/

/-- R456, R457, R459: with the block ready, the slot not in use and room in the side CAM, KEY_IMPORT loads the slot with its purpose and key
check value where the blob's point lies on the curve and its unwrap succeeds, and is refused with KEY_REFUSED otherwise; KEY_DESTROY empties the slot;
MACSEC_SA puts the association of word 3 in place or takes it out. Each shows its completion and changes no register. What cryptography
gives is opaque. R456, R465: KEY_IMPORT is refused with KEY_REFUSED, sub-code 6, outside DEPLOYED, and 7 while the block is not ready,
DEBUG is open, TAMPER is set or a security pin is asserted; no slot changes. -/
def Obligations.KeyDescriptors : Prop :=
  ((∀ (s : State) (crew ring : Nat) (blob : List Nat) (x : Desc), s.dev.IsDue crew ring 0x60 x → s.dev.Answers x →
      s.dev.importBarred = none → s.dev.keyInUse x.keySlot = false → (s.dev.bank 1).used < 64 →
      let uid := sumBy (fun i => (s.dev.reg (Reg.secDevUid i)).toNat * 2 ^ (32 * i)) (List.range 4)
      ∃ t, exec (.keyImport crew ring blob) s = .next t ∧
        t = { s with dev := { s.dev with hif := t.dev.hif, out := t.dev.out, sec := t.dev.sec, stk := t.dev.stk } } ∧
        (∀ n, n ≠ x.keySlot → t.dev.key n = s.dev.key n) ∧
        if Config.onCurve (blob.take 96) = true then
          match Config.unwrap (leNat s.dev.nvm.importPub) uid x.crew x.keySlot (x.w 3 % 4) blob with
          | some (key, salt) => t.dev.key x.keySlot = some ⟨x.w 3 % 4, Config.kcv key % 2 ^ 24, key, salt⟩ ∧
              s.dev.Completes t.dev x 0 [Config.kcv key % 2 ^ 24]
          | none => t.dev.sec = s.dev.sec ∧ s.dev.Completes t.dev x 0x30 [8]
        else t.dev.sec = s.dev.sec ∧ s.dev.Completes t.dev x 0x30 [9]) ∧
    (∀ (s : State) (crew ring : Nat) (x : Desc), s.dev.IsDue crew ring 0x61 x → s.dev.Answers x →
      ∃ t, exec (.keyDestroy crew ring) s = .next t ∧
        t = { s with dev := { s.dev with hif := t.dev.hif, out := t.dev.out, sec := t.dev.sec, stk := t.dev.stk } } ∧
        (∀ n, n ≠ x.keySlot → t.dev.key n = s.dev.key n) ∧
        if s.dev.keyInUse x.keySlot = true then s.dev.Completes t.dev x 0x30 [10] ∧ t.dev.sec = s.dev.sec
        else s.dev.Completes t.dev x 0 [] ∧ t.dev.key x.keySlot = none) ∧
    ∀ (s : State) (crew ring : Nat) (x : Desc), s.dev.IsDue crew ring 0x63 x → s.dev.Answers x →
      ∃ t, exec (.macsecSa crew ring) s = .next t ∧
        t = { s with dev := { s.dev with hif := t.dev.hif, out := t.dev.out, sec := t.dev.sec } } ∧
        s.dev.Completes t.dev x 0 [] ∧
        Tab.get noSa t.dev.sec.sas (saKey (x.w 3)) =
          if bitAt (x.w 3) 12 = true then
            some ⟨x.keySlot, if s.dev.flag (Reg.portMacsecCfg (x.w 3 % 64)) F.portMacsecCfg_cipher = true
              then x.w 4 + x.w 5 * 2 ^ 32 else x.w 4, x.w 6 + x.w 7 * 2 ^ 32⟩
          else none) ∧
  (∀ (s : State) (crew ring : Nat) (blob : List Nat) (x : Desc), s.dev.IsDue crew ring 0x60 x → s.dev.Answers x →
      (s.dev.lifecycle ≠ 1 →
        ∃ t, exec (.keyImport crew ring blob) s = .next t ∧ s.HostOnly t ∧ s.dev.Completes t.dev x 0x30 [6]) ∧
      (s.dev.lifecycle = 1 →
        (s.dev.secState ≠ 1 ∨ s.dev.fld Reg.secStatus F.secStatus_debug ≠ 0 ∨
          s.dev.flag Reg.secStatus F.secStatus_tamper = true ∨ s.dev.flag Reg.secStatus F.secStatus_tamperPin = true ∨
          s.dev.flag Reg.secStatus F.secStatus_zeroizePin = true) →
        ∃ t, exec (.keyImport crew ring blob) s = .next t ∧ s.HostOnly t ∧ s.dev.Completes t.dev x 0x30 [7]))


/-- R444, R446–R448: an order that is well formed, for this device and not beside another is taken for verification; one verified joins the
commit queue with its TARGET; once applied, its marker makes the Charter in force the one in NVM, and it completes DONE with SEQ. -/
def Obligations.ChangeOrders : Prop :=
  (∀ (s : State) (crew ring : Nat) (bytes : List Nat) (x : Desc), s.dev.IsDue crew ring 0x66 x →
    s.dev.orderFormat (x.w 5) bytes = true → s.dev.flag Reg.rstStatus F.rstStatus_recovery = false → s.dev.secState = 1 →
    s.dev.lifecycle = 1 → (bytes.drop 16).take 16 = s.dev.uidBytes → s.dev.sec.order = none →
    ∃ t o, exec (.changeOrder crew ring bytes) s = .next t ∧ t.dev.out = s.dev.out ∧ t.dev.sec.order = some o ∧ o.desc = x ∧
      o.stage = 2 ∧ o.order.kind = leAt bytes 2 2 ∧ o.order.seq = leAt bytes 8 8 ∧ o.target = leAt bytes 40 8 ∧
      t.dev.fld Reg.secOrderStatus F.secOrderStatus_state = 2 ∧ s.dev.KeepsRegs t.dev [Reg.secOrderStatus]) ∧
  (∀ (s : State) (o : OrderDyn), s.dev.sec.order = some o → o.stage = 2 → s.dev.fwRuns = true →
    s.dev.orderSub o true true = none →
    ∃ t c, exec (.orderVerified true true) s = .next t ∧ t.dev.sec.order = some { o with stage := 3 } ∧
      t.dev.stk.queue = s.dev.stk.queue ++ [c] ∧ c.fn = 0 ∧ c.target = o.target ∧ c.order = some o.order ∧
      t.dev.fld Reg.secOrderStatus F.secOrderStatus_state = 3 ∧ s.dev.KeepsRegs t.dev [Reg.secOrderStatus]) ∧
  (∀ (s : State) (o : OrderDyn) (ownerOk umpireOk : Bool) (sub : Nat), s.dev.sec.order = some o → o.stage = 2 →
    s.dev.fwRuns = true → s.dev.orderSub o ownerOk umpireOk = some sub → s.dev.Answers o.desc →
    ∃ t, exec (.orderVerified ownerOk umpireOk) s = .next t ∧ t.dev.sec.order = none ∧ s.dev.Completes t.dev o.desc 0x30 [sub] ∧
      t.dev.stk = s.dev.stk) ∧
  ∀ (s : State) (o : OrderDyn), s.dev.sec.order = some o → o.stage = 5 → s.dev.nvmHeld = false → s.dev.Answers o.desc →
    ∃ t, exec .orderMarkerWritten s = .next t ∧ t.dev.sec.order = none ∧ t.dev.nvm.charter = some s.dev.charterNow ∧
      s.dev.Completes t.dev o.desc 0 [o.order.seq % 2 ^ 32, o.order.seq / 2 ^ 32]

/-- R444, tests 4–6, in this order: NOT_AFTER has passed (5), the Owner's signature fails (2), the Umpire's (3), SEQ is not greater than the
one in force (4). -/
def Obligations.OrderTests : Prop :=
  ∀ (d : Dev) (o : OrderDyn) (ownerOk umpireOk : Bool),
    (d.orderSub o ownerOk umpireOk = some 5 ↔ o.notAfter ≠ 0 ∧ o.notAfter < d.now) ∧
    (d.orderSub o ownerOk umpireOk = some 2 ↔ ¬(o.notAfter ≠ 0 ∧ o.notAfter < d.now) ∧ ownerOk = false) ∧
    (d.orderSub o ownerOk umpireOk = none ↔
      (o.notAfter = 0 ∨ d.now ≤ o.notAfter) ∧ ownerOk = true ∧ umpireOk = true ∧ d.charterSeq < o.order.seq)

/-- R449, R467, R468, R470: CREW_SUSPEND joins the suspensions with its entry in the backlog; the oldest entry of the backlog is written with
the next number while the ring's slot is erased and writes are not held,
and in a worn region is refused and counted; AUDIT_READ delivers the entries it names, oldest first, in the layout
of an export, and completes with their count. -/
def Obligations.AuditAndSuspend : Prop :=
  (∀ (s : State) (crew ring : Nat) (x : Desc), s.dev.sec.backlog.length < 16 → s.dev.IsDue crew ring 0x68 x →
    ∃ t e, exec (.crewSuspend crew ring) s = .next t ∧ t.dev.out = s.dev.out ∧
      t.dev.sec.suspends = s.dev.sec.suspends ++ [(x, x.w 3, x.w 4 % 4, false)] ∧
      t.dev.sec.backlog = s.dev.sec.backlog ++ [e] ∧ e.kind = (if x.w 4 % 4 = 0 then 5 else 4) ∧ e.stroke = s.dev.now ∧
      s.dev.KeepsRegs t.dev [Reg.secAuditStatus]) ∧
  (∀ (s : State) (e : AuditEntry) (rest : List AuditEntry), s.dev.sec.backlog = e :: rest → s.dev.nvmHeld = false →
    s.dev.slotErased (ringSlot 80 16 s.dev.nvm.auditSeq) = true → 3 ∉ s.dev.nvm.worn →
    ∃ t, exec .auditEntryWrite s = .next t ∧ t.dev.sec.backlog = rest ∧ t.dev.sec.lostSince = 0 ∧
      t.dev.nvm.audit.head? = some (s.dev.nvm.auditSeq, s.dev.nvm.epoch, e, s.dev.sec.lostSince,
        Config.auditMac s.dev.nvm.auditKey s.dev.lastMac (auditHead s.dev.nvm.auditSeq s.dev.nvm.epoch e s.dev.sec.lostSince)) ∧
      t.dev.nvm.auditSeq = s.dev.nvm.auditSeq + 1 ∧ t.dev.free = s.dev.free ∧
      s.dev.KeepsRegs t.dev [Reg.secAuditStatus, Reg.secAuditNext, Reg.nvmStatus]) ∧
  (∀ (s : State) (e : AuditEntry) (rest : List AuditEntry), s.dev.sec.backlog = e :: rest → 3 ∈ s.dev.nvm.worn →
    ∃ t, exec .auditEntryWrite s = .next t ∧ t.dev.sec.backlog = rest ∧ t.dev.nvm = s.dev.nvm ∧
      t.dev.fld Reg.nvmLost F.nvmLost_lost = (s.dev.fld Reg.nvmLost F.nvmLost_lost + 1) % 2 ^ F.nvmLost_lost.width ∧
      s.dev.KeepsRegs t.dev [Reg.secAuditStatus, Reg.nvmLost]) ∧
  ∀ (s : State) (crew ring : Nat) (x : Desc) (l : List (Nat × Nat × AuditEntry × Nat × Nat)), s.dev.IsDue crew ring 0x67 x →
    s.dev.Answers x →
    l = (s.dev.nvm.audit.filter fun e => e.2.1 = s.dev.nvm.epoch && decide (x.w 3 ≤ e.1 ∧ e.1 < x.w 3 + x.w 4 % 2048)).reverse →
    ∃ t pair tag, exec (.auditRead crew ring) s = .next t ∧ s.dev.KeepsRegs t.dev [Reg.secSelftest] ∧ t.mem = s.mem ∧
      t.dev.nvm = s.dev.nvm ∧ t.dev.sec = { s.dev.sec with requests := s.dev.sec.requests + 1 } ∧
      s.dev.Shows t.dev (.hostWrite x.crew (x.w 5 + x.w 6 * 2 ^ 32)
        (exportWords pair [x.w 7, x.w 8, x.w 9, x.w 10] (x.w 3) l ++ wordsOf 12 tag)) ∧
      (exportWords pair [x.w 7, x.w 8, x.w 9, x.w 10] (x.w 3) l).length = 32 + 16 * l.length ∧
      s.dev.Completes t.dev x 0 [l.length, 176 + 64 * l.length]

/-- R464: SEC_ZEROISE.GO, ZEROIZE_N and TAMPER_N empty every key slot and every SA; TAMPER_N sets TAMPER, which its release leaves set. -/
def Obligations.Zeroisation : Prop :=
  (∀ (s : State) (fn value : Nat), s.dev.mayWrite fn Reg.secZeroise = true → bitAt value 31 = true →
    ∃ t, exec (.secZeroiseGo fn value) s = .next t ∧ (∀ k, t.dev.key k = none) ∧ t.dev.sec.sas = [] ∧
      s.dev.KeepsRegs t.dev [Reg.secAuditStatus]) ∧
  (∀ s : State,
    ∃ t, exec .zeroizePinAssert s = .next t ∧ (∀ k, t.dev.key k = none) ∧ t.dev.sec.sas = [] ∧
      t.dev.flag Reg.secStatus F.secStatus_zeroizePin = true ∧ s.dev.KeepsRegs t.dev [Reg.secStatus, Reg.secAuditStatus]) ∧
  (∀ s : State,
    ∃ t, exec .tamperPinAssert s = .next t ∧ (∀ k, t.dev.key k = none) ∧ t.dev.sec.sas = [] ∧
      t.dev.flag Reg.secStatus F.secStatus_tamperPin = true ∧ t.dev.flag Reg.secStatus F.secStatus_tamper = true ∧
      s.dev.KeepsRegs t.dev [Reg.secStatus, Reg.secAuditStatus, Reg.nvmStatus]) ∧
  ∀ (s : State) (pin : SecPin),
    ∃ t, exec (.securityPinRelease pin) s = .next t ∧ s.RegsOnly t [Reg.secStatus] ∧
      t.dev.flag Reg.secStatus F.secStatus_tamper = s.dev.flag Reg.secStatus F.secStatus_tamper ∧
      t.dev.flag Reg.secStatus (match pin with
        | .zeroize => F.secStatus_zeroizePin
        | .tamper => F.secStatus_tamperPin) = false

/-- R460, R462: a failure of the entropy source's tests is a self-test failure: STATE ERROR, test 8, every key zeroised; a reseed starts
the count of requests again. Both while the block is out of reset. R438: outside DEPLOYED and with ENROL_N low, ENROL_GO for a role not
done takes the key words as the role's public key where they are a point of the curve, and sets BAD where they are not; a role done stays
as it is. Whether they are is opaque. -/
def Obligations.EntropyAndEnrolment : Prop :=
  ((∀ s : State, s.dev.secReset = false →
      ∃ t, exec .entropyTestFail s = .next t ∧ t.dev.secState = 2 ∧ t.dev.fld Reg.secSelftest F.secSelftest_failed = 8 ∧
        (∀ k, t.dev.key k = none) ∧ t.dev.sec.sas = [] ∧
        s.dev.KeepsRegs t.dev [Reg.secStatus, Reg.secSelftest, Reg.secAuditStatus]) ∧
    ∀ s : State, s.dev.secReset = false →
      ∃ t, exec .drbgReseed s = .next t ∧ t = { s with dev := { s.dev with sec := { s.dev.sec with requests := 0 } } }) ∧
  (∀ (s : State) (fn value : Nat), s.dev.mayWrite fn Reg.secEnrolCtl = true → bitAt value 31 = true → value % 4 < 3 →
      s.dev.lifecycle = 0 → s.dev.flag Reg.secStatus F.secStatus_enrolPin = true →
      bitAt (s.dev.fld Reg.secEnrolCtl F.secEnrolCtl_done) (value % 4) = false →
      let bytes := keyBytes fun w => Tab.get zero s.dev.sec.enrolKey w
      ∃ t, exec (.enrolGo fn value) s = .next t ∧ t.dev.out = s.dev.out ∧ t.mem = s.mem ∧
        (∀ r, r ≠ value % 4 → Tab.get noList t.dev.nvm.roles r = Tab.get noList s.dev.nvm.roles r) ∧
        if Config.onCurve bytes = true then
          t.dev.flag Reg.secEnrolCtl F.secEnrolCtl_bad = false ∧ Tab.get noList t.dev.nvm.roles (value % 4) = bytes ∧
            bitAt (t.dev.fld Reg.secEnrolCtl F.secEnrolCtl_done) (value % 4) = true
        else t.dev.flag Reg.secEnrolCtl F.secEnrolCtl_bad = true ∧ t.dev.nvm.roles = s.dev.nvm.roles)


/-! ## The record log, firmware, the event log -/

/-- R496, R511, R526, R528: RPL_MARK is recorded with its four words and completes DONE; LOG_READ delivers the event-log records asked for
and completes with their count; FW_LOAD reads the image and waits for its verification, the controllers that ran being restarted. -/
def Obligations.MarksLogsAndLoads : Prop :=
  (∀ (s : State) (crew ring : Nat) (x : Desc), s.dev.IsDue crew ring 0x84 x → s.dev.Answers x →
    ∃ t r, exec (.rplMark crew ring) s = .next t ∧ s.dev.Completes t.dev x 0 [] ∧ t.dev.log = r :: s.dev.log ∧
      r.crew = x.crew ∧ r.kind = 0x21 ∧ r.stroke = s.dev.now ∧ r.data = [x.w 3, x.w 4, x.w 5, x.w 6]) ∧
  (∀ (s : State) (crew ring : Nat) (x : Desc), s.dev.IsDue crew ring 0xF2 x → s.dev.Answers x →
    ∃ t next, exec (.logRead crew ring) s = .next t ∧ s.HostOnly t ∧
      s.dev.Completes t.dev x 0 [(s.dev.logFrom (x.w 3) (x.w 4 % 4096)).length, next] ∧
      s.dev.Shows t.dev (.hostWrite x.crew (x.w 5 + x.w 6 * 2 ^ 32)
        ((s.dev.logFrom (x.w 3) (x.w 4 % 4096)).flatMap fun p => p.2.words p.1 (ringAddr 32 48 p.1)))) ∧
  (∀ (s : State) (crew ring : Nat) (x : Desc), s.dev.rst.fwLoad = none → s.dev.IsDue crew ring 0xF1 x →
    ∃ t, exec (.fwLoad crew ring) s = .next t ∧ t.dev.rst.fwLoad = some x ∧ t.dev.rst.image = none ∧
      s.dev.Shows t.dev (.hostRead x.crew (x.w 3 + x.w 4 * 2 ^ 32) (x.w 5)) ∧ t.dev.fwRuns = false) ∧
  ∀ (s : State) (crew ring : Nat) (words : List Nat) (x : Desc) (r : List FedRec × Nat × Nat), s.dev.IsDue crew ring 0x85 x →
    s.dev.rpl.feeds = [] → r = feedRecords (words.take (x.w 5 / 4)).length s.dev.rpl.fed (words.take (x.w 5 / 4)) →
    (∀ p ∈ r.1, s.dev.now < p.stroke ∧ p.kind = 0x02) →
    ∃ t, exec (.rplFeed crew ring words) s = .next t ∧ t.dev.rpl.fed = r.2.1 ∧
      s.dev.KeepsRegs t.dev [Reg.rplStatus] ∧
      (r.1 = [] → t.dev.rpl.feeds = [] ∧ (s.dev.Answers x → s.dev.Completes t.dev x 0 [0])) ∧
      (r.1 ≠ [] → t.dev.rpl.feeds = [(x, r.1, 0)] ∧ t.dev.out = s.dev.out)

/-- R459: a frame of EAPOL_SEND waits behind the control frames of its port, with its descriptor to complete when it is sent. -/
def Obligations.EapolSendQueues : Prop :=
  ∀ (s : State) (crew ring : Nat) (bytes : List Nat) (x : Desc), s.dev.IsDue crew ring 0x65 x →
    ∃ t, exec (.eapolSend crew ring bytes) s = .next t ∧
      t = { s with dev := { s.dev with hif := t.dev.hif, egs := t.dev.egs } } ∧
      Tab.get noList t.dev.egs.control (x.w 6 % 64) = Tab.get noList s.dev.egs.control (x.w 6 % 64) ++ [(x.w 5, some x, bytes)] ∧
      ∀ m, m ≠ x.w 6 % 64 → Tab.get noList t.dev.egs.control m = Tab.get noList s.dev.egs.control m

/-! ## The host attachment -/

/-- R85, R88, R117: a link that trains shows its lanes and speed, within what the option bytes allow; at ×8 and 8 GT/s or better FULL_RATE
is 1 and the host budget is 5,000 MB/s, below that FULL_RATE is 0 and the budget scaled. A link with no lane is left out of the scaling (the model's choice, notes/assumptions/40.md).
CONFIGURATION_READY
of PF0 sets READY; of a VF that TotalVFs allows it makes the VF one of NumVFs (the model's choice, notes/assumptions/30.md). -/
def Obligations.LinkAndReady : Prop :=
  (∀ (s : State) (width speed : Nat), width ≤ s.dev.maxWidth → speed ≤ s.dev.maxSpeed → ∀ c ∈ [Instr.pcieLinkUp width speed, .linkTrainedBelowX8 width speed],
    ∃ t, exec c s = .next t ∧ s.RegsOnly t [Reg.hifLinkStatus, Reg.hifBwBudget] ∧
      t.dev.fld Reg.hifLinkStatus F.hifLinkStatus_width = width ∧ t.dev.fld Reg.hifLinkStatus F.hifLinkStatus_speed = speed ∧
      t.dev.flag Reg.hifLinkStatus F.hifLinkStatus_dlUp = true ∧
      (t.dev.flag Reg.hifLinkStatus F.hifLinkStatus_fullRate = true ↔ 8 ≤ width ∧ 3 ≤ speed) ∧
      (8 ≤ width → 3 ≤ speed → t.dev.fld Reg.hifBwBudget F.hifBwBudget_mbps = 5000) ∧
      (0 < width → speed < 3 ∨ width < 8 →
        t.dev.fld Reg.hifBwBudget F.hifBwBudget_mbps = min 5000 (5000 * linkRate width speed * 10 / (13 * 78769)))) ∧
  (∀ s : State, s.dev.inReset 6 = false →
    ∃ t, exec (.configurationReady 0) s = .next t ∧ t.dev.flag Reg.hifLinkStatus F.hifLinkStatus_ready = true ∧
      t.dev.flag Reg.rstStatus F.rstStatus_configReady = true ∧
      s.RegsOnly t [Reg.hifLinkStatus, Reg.rstStatus, Reg.hifCrewStatus 0]) ∧
  ∀ (s : State) (vf : Nat), s.dev.inReset 6 = false → 1 ≤ vf → vf ≤ s.dev.totalVfs →
    ∃ t, exec (.configurationReady vf) s = .next t ∧ t.dev.hif.numVfs = max s.dev.hif.numVfs vf ∧
      s.dev.KeepsRegs t.dev [Reg.hifCrewStatus vf]

/-- R122: an enable of a ring pair that is DISABLED, with settings that are not refused, makes it ACTIVE with its sequence numbers, head
and tail 0 and CFG_ERR clear. One that is refused sets CFG_ERR and changes nothing else of it. R123: a write of ENABLE 0 of a ring pair
that is ACTIVE or HOLDING puts it in DRAINING; once nothing of it is outstanding and
nothing is held, it is DISABLED. A write of ENABLE 1 while it drains does not enable it. -/
def Obligations.RingStates : Prop :=
  (∀ (s : State) (fn crew ring value : Nat) (x : Dev), crew < 17 → ring < 64 →
      s.dev.mayWrite fn (Reg.hifRingCfg crew ring) = true → s.dev.ringState crew ring = 0 →
      F.hifRingCfg_enable.get (BitVec.ofNat 32 value) = 1 →
      x = s.dev.plainWrite fn (Reg.hifRingCfg crew ring) (F.hifRingCfg_enable.set (BitVec.ofNat 32 value) 0) →
      ∃ t, exec (.ringEnable fn crew ring value) s = .next t ∧ t.dev.out = s.dev.out ∧
        (x.ringRefused crew ring = false →
          t.dev.ringState crew ring = 1 ∧ t.dev.ringOn crew ring = true ∧
            t.dev.flag (Reg.hifRingStatus crew ring) F.hifRingStatus_cfgErr = false ∧
            t.dev.fld (Reg.hifRingStatus crew ring) F.hifRingStatus_sqHead = 0 ∧
            ∃ g, t.dev.ring crew ring = some g ∧ g.sqSeq = 0 ∧ g.tail = 0 ∧ g.cqSeq = 0 ∧ g.cqCons = 0 ∧ g.reserved = 0 ∧
              g.held = [] ∧ g.epoch = s.dev.hif.epoch + 1) ∧
        (x.ringRefused crew ring = true →
          t.dev.flag (Reg.hifRingStatus crew ring) F.hifRingStatus_cfgErr = true ∧ t.dev.hif = s.dev.hif ∧
            s.RegsOnly t [Reg.hifRingStatus crew ring, Reg.hifCrewStatus crew])) ∧
  ((∀ (s : State) (fn crew ring value : Nat), crew < 17 → ring < 64 →
      s.dev.mayWrite fn (Reg.hifRingCfg crew ring) = true → s.dev.ringState crew ring = 1 ∨ s.dev.ringState crew ring = 3 →
      F.hifRingCfg_enable.get (BitVec.ofNat 32 value) = 0 →
      ∃ t, exec (.ringDisable fn crew ring value) s = .next t ∧ t.dev.ringState crew ring = 2 ∧ t.dev.ringOn crew ring = false ∧
        s.RegsOnly t [Reg.hifRingCfg crew ring, Reg.hifRingStatus crew ring, Reg.hifCrewStatus crew]) ∧
    (∀ (s : State) (fn crew ring value : Nat), crew < 17 → ring < 64 →
      s.dev.mayWrite fn (Reg.hifRingCfg crew ring) = true → s.dev.ringState crew ring = 2 →
      ∃ t, exec (.ringEnable fn crew ring value) s = .next t ∧ s.RegsOnly t [Reg.hifRingCfg crew ring] ∧
        t.dev.ringOn crew ring = s.dev.ringOn crew ring) ∧
    ∀ (s : State) (crew ring : Nat) (g : Ring), s.dev.ring crew ring = some g → s.dev.ringState crew ring = 2 → g.opened = [] →
      g.held = [] → g.issued = 0 →
      ∃ t, exec (.ringDrained crew ring) s = .next t ∧ t.dev.ring crew ring = none ∧ t.dev.ringState crew ring = 0 ∧
        s.dev.KeepsRegs t.dev [Reg.hifRingStatus crew ring, Reg.hifCrewStatus crew] ∧
        t = { s with dev := { s.dev with regs := t.dev.regs, hif := t.dev.hif } })


/-- R94, R96, R97: a doorbell word takes effect where its SQ_TAIL lies further ahead of the head than the tail held, and its CQ_HEAD within
the entries written and not consumed; a value that fails its test leaves no trace. Word r of a doorbell area is that of ring pair r; a
write in BAR2 counts while BAR_DB is 1 and the Crew is not suspended. -/
def Obligations.Doorbells : Prop :=
  let taken (s t : State) (crew ring w : Nat) (g : Ring) : Prop :=
    ∃ h, t.dev.ring crew ring = some h ∧ h.sqSeq = g.sqSeq ∧ h.cqSeq = g.cqSeq ∧ h.reserved = g.reserved ∧
      h.tail = (let n := s.dev.sqSize crew ring
        if (g.tail + n - g.sqSeq % n) % n < (w % 65536 % n + n - g.sqSeq % n) % n then w % 65536 % n else g.tail) ∧
      h.cqCons = (let n := s.dev.cqSize crew ring
        let adv := (w / 65536 + n - g.cqCons % n) % n
        if 0 < adv ∧ adv ≤ g.cqSeq - g.cqCons then g.cqCons + adv else g.cqCons)
  (∀ (s : State) (crew ring : Nat) (words : List Nat) (g : Ring), s.dev.inReset 6 = false → ring < words.length → words.length ≤ 64 →
    s.dev.ring crew ring = some g →
    ∃ t, exec (.doorbellReadComplete crew words) s = .next t ∧ taken s t crew ring (words.getD ring 0) g ∧
      t = { s with dev := { s.dev with hif := t.dev.hif } }) ∧
  ∀ (s : State) (fn ring value : Nat) (g : Ring), s.dev.inReset 6 = false → fn ≤ s.dev.hif.numVfs → ring < 64 →
    s.dev.suspended fn = false → s.dev.ring fn ring = some g →
    ∃ t, exec (.bar2DoorbellWrite fn (8 * ring) 4 value) s = .next t ∧
      (s.dev.flag (Reg.hifRingCfg fn ring) F.hifRingCfg_barDb = true → taken s t fn ring (value % 2 ^ 32) g ∧
        t = { s with dev := { s.dev with hif := t.dev.hif } }) ∧
      (s.dev.flag (Reg.hifRingCfg fn ring) F.hifRingCfg_barDb = false → t = s)

/-- R60, R93, R108, R116: a descriptor is read where one is announced, a slot of the completion queue can be reserved, none is held, a host
picture that found the operand store full finds room, and the share allows; the slot is reserved and the read issued at the next place of the ring. -/
def Obligations.DescriptorFetch : Prop :=
  ∀ (s : State) (crew ring : Nat) (g : Ring), s.dev.ring crew ring = some g → s.dev.ringState crew ring = 1 →
    s.dev.suspended crew = false → g.held = [] → g.retried = none → 0 < s.dev.announced crew ring → 0 < s.dev.freeSlots crew ring →
    (g.full = true → s.dev.storeRoom = true) → s.dev.readShare crew ring = true →
    ∃ t h, exec (.descriptorFetch crew ring) s = .next t ∧ t.dev.ring crew ring = some h ∧ h.issued = g.issued + 1 ∧
      h.reserved = g.reserved + 1 ∧ h.sqSeq = g.sqSeq ∧
      s.dev.ShowsOnly t.dev (.hostRead crew ((s.dev.reg (Reg.hifSqBaseLo crew ring)).toNat +
        (s.dev.reg (Reg.hifSqBaseHi crew ring)).toNat * 2 ^ 32 + 64 * ((g.sqSeq + g.issued) % s.dev.sqSize crew ring)) 64) ∧
      t = { s with dev := { s.dev with hif := t.dev.hif, pmu := t.dev.pmu, out := t.dev.out } }

/-- R100–R103, R105, R110, R116: a descriptor whose CHECK fails completes REFUSED_CHECK with the value computed and the fold word, and is counted; one that
passes CHECK and fails a later test completes with that test's status and words; one that passes them all is staged to take effect at its
target, or at the next boundary. The SQ head moves by one in every case, but that of a host picture that finds no entry of the operand store
free. An entry is written at once where none waits and the capacity has room (R110, R116). -/
def Obligations.DescriptorTests : Prop :=
  ∀ (s : State) (crew ring : Nat) (words : List Nat) (g : Ring) (x : Desc) (e : Dev), words.length = 16 → crew < 17 → ring < 64 →
    s.dev.ring crew ring = some g → 0 < g.issued → x = ⟨crew, ring, g.sqSeq, words, 0, false, g.epoch, 0, 0, 0⟩ →
    e = (s.dev.setRing crew ring (some { g with issued := g.issued - 1, sqSeq := g.sqSeq + 1, opened := g.opened ++ [g.sqSeq],
                                                 retried := none })).setFld
      (Reg.hifRingStatus crew ring) F.hifRingStatus_sqHead ((g.sqSeq + 1) % s.dev.sqSize crew ring) →
    (x.opcode = 0x28 → e.storeRoom = true) →
    ∃ t h, exec (.descriptorReadComplete crew ring words) s = .next t ∧ t.dev.ring crew ring = some h ∧
      h.sqSeq = g.sqSeq + 1 ∧ h.issued = g.issued - 1 ∧
      t.dev.fld (Reg.hifRingStatus crew ring) F.hifRingStatus_sqHead = (g.sqSeq + 1) % s.dev.sqSize crew ring % 2 ^ 16 ∧
      (x.w 15 ≠ crc32c ((64 * crew + ring) * 65536 + g.sqSeq % 65536) (words.take 15) →
        (g.held = [] → s.dev.entryShare crew ring = true →
          s.dev.Completes t.dev x 0x11 [crc32c ((64 * crew + ring) * 65536 + g.sqSeq % 65536) (words.take 15),
            (64 * crew + ring) * 65536 + g.sqSeq % 65536]) ∧ t.dev.hif.staged = s.dev.hif.staged) ∧
      (x.w 15 = crc32c ((64 * crew + ring) * 65536 + g.sqSeq % 65536) (words.take 15) →
        (∀ status ws, e.refusal? allRules x = some (status, ws) → status ≠ 0 →
          (g.held = [] → s.dev.entryShare crew ring = true → s.dev.Completes t.dev x status ws) ∧
            t.dev.hif.staged = s.dev.hif.staged) ∧
        (e.refusal? allRules x = none →
          ∃ y, t.dev.hif.staged = s.dev.hif.staged ++ [y] ∧ y.words = words ∧ y.crew = crew ∧ y.ring = ring ∧ y.seq = g.sqSeq ∧
            y.effect = s.dev.effectOf x ∧ y.waits = (x.ordered && !g.opened.isEmpty) ∧ t.dev.out = s.dev.out))

/-- R100: an ORDERED descriptor that waits starts once every earlier descriptor of its SQ has completed, and takes effect no earlier than
the next boundary. -/
def Obligations.OrderedStart : Prop :=
  ∀ (s : State) (crew ring : Nat) (g : Ring) (x : Desc), s.dev.ring crew ring = some g →
    s.dev.hif.staged.find? (fun y => y.crew = crew && y.ring = ring && y.waits) = some x →
    ∃ t, exec (.orderedDescriptorStart crew ring) s = .next t ∧
      ((∃ n ∈ g.opened, n < x.seq) → t = s) ∧
      ((∀ n ∈ g.opened, x.seq ≤ n) →
        { x with waits := false, effect := max x.effect (s.dev.now + 1) } ∈ t.dev.hif.staged ∧ x ∉ t.dev.hif.staged ∧
          t = { s with dev := { s.dev with hif := { s.dev.hif with staged := t.dev.hif.staged } } })

/-- R120: a failed descriptor read gives one INTERNAL_FAULT entry with OPCODE and TAG 0 and is retried; a second one sets FETCH_ERR and the
ring pair drains. A failed doorbell read is counted in FETCH_FAIL of ring pair 0. Nothing is executed. A descriptor whose own data cannot be
read completes ABORT_POISONED. -/
def Obligations.HostReadFailures : Prop :=
  (∀ (s : State) (crew ring : Nat) (g : Ring), s.dev.inReset 6 = false → s.dev.ring crew ring = some g → 0 < g.issued →
    g.retried = none → g.held = [] → s.dev.entryShare crew ring = true →
    ∃ t h i w2 chk, exec (.hostReadFailure (.descriptor crew ring)) s = .next t ∧ t.dev.ring crew ring = some h ∧ h.issued = 0 ∧
      h.retried = some s.dev.now ∧ h.sqSeq = g.sqSeq ∧ t.dev.ringState crew ring = s.dev.ringState crew ring ∧
      s.dev.Shows t.dev (.entry crew ring i [0x3F000000, s.dev.nowLo, w2, 0, 0, 0, 0, chk])) ∧
  (∀ (s : State) (crew ring : Nat) (g : Ring), s.dev.inReset 6 = false → s.dev.ring crew ring = some g → 0 < g.issued →
    g.retried ≠ none →
    ∃ t, exec (.hostReadFailure (.descriptor crew ring)) s = .next t ∧ t.dev.ringState crew ring = 2 ∧
      t.dev.flag (Reg.hifRingStatus crew ring) F.hifRingStatus_fetchErr = true ∧ t.dev.ringOn crew ring = false ∧
      t.dev.out = s.dev.out) ∧
  (∀ (s : State) (crew ring : Nat) (x : Desc), s.dev.inReset 6 = false →
    s.dev.hif.due.find? (fun y => y.crew = crew && y.ring = ring) = some x →
    x.opcode ∈ [0x24, 0x27, 0x60, 0x65, 0x66, 0x85, 0xF1] → s.dev.Answers x →
    ∃ t, exec (.hostReadFailure (.data crew ring)) s = .next t ∧ s.HostOnly t ∧ x ∉ t.dev.hif.due ∧ s.dev.Completes t.dev x 0x21 []) ∧
  ∀ (s : State) (crew : Nat), s.dev.inReset 6 = false →
    ∃ t, exec (.hostReadFailure (.doorbell crew)) s = .next t ∧ s.RegsOnly t [Reg.hifRingStat crew 0] ∧
      t.dev.fld (Reg.hifRingStat crew 0) F.hifRingStat_fetchFail =
        (s.dev.fld (Reg.hifRingStat crew 0) F.hifRingStat_fetchFail + 1) % 2 ^ F.hifRingStat_fetchFail.width

/-- R104, R109: the oldest completion that waits takes a slot that has freed, or the one reserved for it, once the capacity has room, and its
entry gives the Stroke in which its item completed; one held for HOLD_STROKES is dropped, counted in OVF_DROP, and the next entry carries
LOST; a GAP that it carried is owed again (R164). With nothing held any more the ring pair goes from HOLDING to ACTIVE. -/
def Obligations.HeldCompletions : Prop :=
  (∀ (s : State) (crew ring : Nat) (g : Ring) (h : Held) (rest : List Held), s.dev.ring crew ring = some g → g.held = h :: rest →
    h.slot = true ∨ 0 < s.dev.freeSlots crew ring → s.dev.entryShare crew ring = true →
    ∃ t k w2 chk, exec (.heldCompletionWrite crew ring) s = .next t ∧ t.dev.ring crew ring = some k ∧ k.held = rest ∧
      k.cqSeq = g.cqSeq + 1 ∧
      s.dev.Shows t.dev (.entry crew ring (g.cqSeq % s.dev.cqSize crew ring)
        [pack [(h.status, 24), (h.opcode, 16), (h.tag, 0)], h.since % 2 ^ 32, w2, h.words.getD 0 0, h.words.getD 1 0, h.words.getD 2 0,
          h.words.getD 3 0, chk]) ∧
      s.dev.KeepsRegs t.dev [Reg.hifRingStatus crew ring] ∧
      (rest = [] → s.dev.ringState crew ring = 3 → t.dev.ringState crew ring = 1)) ∧
  ∀ (s : State) (crew ring : Nat) (g : Ring) (h : Held) (rest : List Held), s.dev.ring crew ring = some g → g.held = h :: rest →
    h.slot = false → h.since + s.dev.fld (Reg.hifRingMod crew ring) F.hifRingMod_holdStrokes ≤ s.dev.now →
    ∃ t, exec (.holdTimeout crew ring) s = .next t ∧ t.dev.ring crew ring = some { g with held := rest, lost := true } ∧
      t.dev.fld (Reg.hifRingStat crew ring) F.hifRingStat_ovfDrop =
        (s.dev.fld (Reg.hifRingStat crew ring) F.hifRingStat_ovfDrop + 1) % 2 ^ F.hifRingStat_ovfDrop.width ∧
      s.dev.KeepsRegs t.dev [Reg.hifRingStat crew ring, Reg.hifRingStatus crew ring] ∧ t.dev.out = s.dev.out ∧
      ∀ p ∈ s.dev.hif.standing, p.desc.crew = crew → p.desc.ring = ring → p.desc.seq = h.post →
        ∃ q ∈ t.dev.hif.standing, q.desc = p.desc ∧ q.gap = (p.gap || bitAt (h.words.getD 1 0) (gapBit h.opcode))

/-- R111, R113: an enable of a disabled event ring with a legal size and base clears TAIL, LOST, head and sequence number; ENABLE 0 stops
the ring at once; a head that passes the test of R97 is taken, any other leaves no trace. -/
def Obligations.EventRing : Prop :=
  (∀ (s : State) (fn crew value : Nat), crew < 17 → s.dev.mayWrite fn (Reg.hifEvqCfg crew) = true →
    F.hifEvqCfg_enable.get (BitVec.ofNat 32 value) = 1 → s.dev.flag (Reg.hifEvqCfg crew) F.hifEvqCfg_enable = false →
    (s.dev.plainWrite fn (Reg.hifEvqCfg crew) (F.hifEvqCfg_enable.set (BitVec.ofNat 32 value) 0)).evqValid crew = true →
    ∃ t, exec (.evqEnable fn crew value) s = .next t ∧ t.dev.flag (Reg.hifEvqCfg crew) F.hifEvqCfg_enable = true ∧
      t.dev.reg (Reg.hifEvqStatus crew) = 0 ∧ Tab.get zero t.dev.hif.evHead crew = 0 ∧ Tab.get zero t.dev.hif.evSeq crew = 0 ∧
      Tab.get zero t.dev.hif.evLost crew = 0 ∧ t.dev.out = s.dev.out) ∧
  (∀ (s : State) (fn crew value : Nat), crew < 17 → s.dev.mayWrite fn (Reg.hifEvqCfg crew) = true →
    F.hifEvqCfg_enable.get (BitVec.ofNat 32 value) = 0 →
    ∃ t, exec (.evqDisable fn crew value) s = .next t ∧ t.dev.flag (Reg.hifEvqCfg crew) F.hifEvqCfg_enable = false ∧
      t.dev.hif = s.dev.hif ∧ t.dev.out = s.dev.out) ∧
  ∀ (s : State) (fn head size old tail : Nat), s.dev.inReset 6 = false → fn ≤ s.dev.hif.numVfs →
    s.dev.flag (Reg.hifEvqCfg fn) F.hifEvqCfg_enable = true → size = 2 ^ s.dev.fld (Reg.hifEvqCfg fn) F.hifEvqCfg_log2Size →
    old = Tab.get zero s.dev.hif.evHead fn → old < size → head < size →
    tail = s.dev.fld (Reg.hifEvqStatus fn) F.hifEvqStatus_tail →
    ∃ t, exec (.evqHeadWrite fn head) s = .next t ∧
      (0 < (head + size - old) % size → (head + size - old) % size ≤ (tail + size - old) % size →
        Tab.get zero t.dev.hif.evHead fn = head ∧ t = { s with dev := { s.dev with hif := { s.dev.hif with evHead := t.dev.hif.evHead } } }) ∧
      (¬(0 < (head + size - old) % size ∧ (head + size - old) % size ≤ (tail + size - old) % size) → t = s)

/-- R114: once the moderation of a ring with an unsignalled entry allows, its vector fires, and every ring that shares the vector then has
no unsignalled entry. A masked
vector becomes pending in place of sending its message (the model's reading of R91's table, notes/assumptions/29.md). -/
def Obligations.MsixModeration : Prop :=
  ∀ (s : State) (fn vector r : Nat), r < 65 → 0 < s.dev.unsig fn r → s.dev.ringVector fn r = vector →
    s.dev.ringIntEn fn r = true → s.dev.mayFire fn r = true →
    ∃ t, exec (.msixModerationExpiry fn vector) s = .next t ∧ s.HostOnly t ∧
      (if s.dev.msixMasked fn vector = true then t.dev.out = s.dev.out ∧ Tab.get zero t.dev.hif.msixPend (64 * fn + vector) = 1
       else s.dev.ShowsOnly t.dev (.msix fn vector)) ∧
      Tab.get zero t.dev.hif.lastInt (64 * fn + vector) = s.dev.now + 1 ∧
      (∀ q < 65, s.dev.ringVector fn q = vector → t.dev.unsig fn q = 0) ∧
      ∀ q < 65, s.dev.ringVector fn q ≠ vector → t.dev.unsig fn q = s.dev.unsig fn q

/-! ## Commits and the boundary -/

/-- R36: a write of STK_COMMIT while the function's own commit is QUEUED or ADMITTING is refused with reason BUSY (0x0D); the earlier
commit is unaffected. -/
def Obligations.CommitBusy : Prop :=
  ∀ (s : State) (fn target : Nat), s.dev.mayWrite fn Reg.stkCommit = true →
    (s.dev.stk.queue.any fun q => q.fn = fn && q.order.isNone) = true →
    ∃ t, exec (.stkCommitWrite fn target) s = .next t ∧
      F.stkCommitStatus_state.get (t.dev.fnReg fn Reg.stkCommitStatus) = 5 ∧
      F.stkCommitStatus_reason.get (t.dev.fnReg fn Reg.stkCommitStatus) = 0x0D ∧
      t.dev.stk.queue = s.dev.stk.queue ∧ t.dev.stk.accepted = s.dev.stk.accepted ∧ t.dev.stk.banks = s.dev.stk.banks ∧
      t = { s with dev := { s.dev with fnRegs := t.dev.fnRegs, stk := t.dev.stk } }

/-- R34, R38: a write of STK_COMMIT of a function without a waiting commit joins the queue as QUEUED with the fields staged then, or is
refused with TARGET_PAST (0x0A) where its target Stroke is not in the future; target 0 is for as soon as possible. SEQ counts the
write either way. R18 reads the target; one before Stroke 0 is past. A target equal to the current Stroke counts as past (the model's choice, notes/assumptions/13.md). -/
def Obligations.CommitWritten : Prop :=
  ∀ (s : State) (fn target : Nat), s.dev.mayWrite fn Reg.stkCommit = true →
    (s.dev.stk.queue.any fun q => q.fn = fn && q.order.isNone) = false →
    let at_ := if target % 2 ^ 32 = 0 then 0 else strokeOf s.dev.now target
    ∃ t, exec (.stkCommitWrite fn target) s = .next t ∧
      F.stkCommitStatus_seq.get (t.dev.fnReg fn Reg.stkCommitStatus) = (s.dev.seqOfFn fn + 1) % 65536 ∧
      t.dev.seqOfFn fn = s.dev.seqOfFn fn + 1 ∧ (∀ f, f ≠ fn → t.dev.seqOfFn f = s.dev.seqOfFn f) ∧
      t = { s with dev := { s.dev with fnRegs := t.dev.fnRegs, stk := t.dev.stk } } ∧
      if target % 2 ^ 32 ≠ 0 ∧ at_ ≤ s.dev.now then
        F.stkCommitStatus_state.get (t.dev.fnReg fn Reg.stkCommitStatus) = 5 ∧
          F.stkCommitStatus_reason.get (t.dev.fnReg fn Reg.stkCommitStatus) = 0x0A ∧ t.dev.stk.queue = s.dev.stk.queue
      else
        F.stkCommitStatus_state.get (t.dev.fnReg fn Reg.stkCommitStatus) = 1 ∧
          ∃ c, t.dev.stk.queue = s.dev.stk.queue ++ [c] ∧ c.fn = fn ∧ c.target = at_ ∧ c.writes = s.dev.stagedOf fn ∧
            c.order = none ∧ c.admitting = false

/-- R35, R39: once the tables it needs are built, the oldest commit of the queue is accepted for its target — with target 0 for the
next boundary, never before the target of a commit accepted ahead — or refused with the reason found; its fields stay staged. R226: one that
makes pools waits, ADMITTING, until they are filled, and is then accepted with them (the model's choice of the steps,
notes/assumptions/72.md). A build that runs makes its table SHADOW_READY (R44). -/
def Obligations.CommitsAdmitted : Prop :=
  let placed (s : State) (c : Commit) : Commit :=
    { c with effect := if c.target ≠ 0 then c.target else max (s.dev.now + 1) s.dev.latestAhead, place := (s.dev.verdict c).2 }
  (∀ (s : State) (c : Commit) (rest : List Commit), s.dev.stk.queue = c :: rest → c.admitting = true → s.dev.fwRuns = true →
    (∀ b ∈ c.builds, (s.dev.bank (tableIdx b)).state = 2) → c.order = none → s.dev.seqOfFn c.fn = c.seq → c.filled = none →
    s.dev.poolsMade (s.dev.verdict c).2 = [] →
    ∃ t, exec .commitAdmissionDone s = .next t ∧ t.dev.stk.queue = rest ∧ t.dev.regs = s.dev.regs ∧
      t.dev.staged = s.dev.staged ∧ t.dev.out = s.dev.out ∧ t.mem = s.mem ∧
      match (s.dev.verdict c).1 with
      | some f =>
        F.stkCommitStatus_state.get (t.dev.fnReg c.fn Reg.stkCommitStatus) = 5 ∧
          F.stkCommitStatus_reason.get (t.dev.fnReg c.fn Reg.stkCommitStatus) = f.reason % 256 ∧
          t.dev.stk.accepted = s.dev.stk.accepted
      | none =>
        let e := (placed s c).effect
        F.stkCommitStatus_state.get (t.dev.fnReg c.fn Reg.stkCommitStatus) = 3 ∧
          (t.dev.fnReg c.fn Reg.stkCommitStrokeLo).toNat = e % 2 ^ 32 ∧
          (t.dev.fnReg c.fn Reg.stkCommitStrokeHi).toNat = e / 2 ^ 32 % 2 ^ 32 ∧
          t.dev.stk.accepted = s.dev.stk.accepted ++ [placed s c]) ∧
  (∀ (s : State) (c : Commit) (rest : List Commit), s.dev.stk.queue = c :: rest → c.admitting = true → s.dev.fwRuns = true →
    (∀ b ∈ c.builds, (s.dev.bank (tableIdx b)).state = 2) → (s.dev.verdict c).1 = none → s.dev.poolsMade (s.dev.verdict c).2 ≠ [] →
    (c.filled = none → ∃ t n, exec .commitAdmissionDone s = .next t ∧ s.dev.now ≤ n ∧
      t = { s with dev := { s.dev with stk := { s.dev.stk with queue := { c with filled := some n } :: rest } } }) ∧
    (∀ n, c.filled = some n → s.dev.now < n → exec .commitAdmissionDone s = .next s) ∧
    ∀ n, c.filled = some n → n ≤ s.dev.now →
      ∃ t, exec .commitAdmissionDone s = .next t ∧ t.dev.stk.queue = rest ∧
        t.dev.stk.accepted = s.dev.stk.accepted ++ [placed s c] ∧ t.dev.regs = s.dev.regs ∧ t.dev.out = s.dev.out ∧
        t.mem = (fillPools (s.mem, s.dev) (s.dev.poolsMade (s.dev.verdict c).2)).1) ∧
  ∀ (s : State) (table : TableId), (s.dev.bank (tableIdx table)).state = 1 →
    ∃ t, exec (.tableBuildDone table) s = .next t ∧
      t.dev.bank (tableIdx table) = { s.dev.bank (tableIdx table) with state := 2 } ∧
      (∀ i, i ≠ tableIdx table → t.dev.bank i = s.dev.bank i) ∧
      t = { s with dev := { s.dev with stk := { s.dev.stk with banks := t.dev.stk.banks } } }

/-- R16, R102: at a boundary of a device without objects, commits or feeds the Stroke count goes up by one and the phase within the
Stroke begins at 0, every staged descriptor whose Stroke has come is due, but posts of a ring pair that drains (R123), and the HBM is
unchanged. Under PACE STEP a bench takes a
boundary only while it has some to take, and there is none while TIME is in reset (R483, R527). -/
def Obligations.StrokeBoundary : Prop :=
  (∀ (s : State) (content : List Arrival), s.dev.mayStep = true → s.dev.stk.queue = [] → s.dev.stk.accepted = [] →
    s.dev.enc = [] → s.dev.dec = [] → s.dev.cmp.progs = [] → s.dev.aud.groups = [] → s.dev.rpl.feeds = [] →
    ∃ t, exec (.strokeBoundary content) s = .next t ∧ t.dev.now = s.dev.now + 1 ∧ t.dev.stk.phase = 0 ∧ t.mem = s.mem ∧
      ∀ x ∈ s.dev.hif.staged, x.waits = false → x.effect ≤ s.dev.now + 1 →
        (standingOps.contains x.opcode = true → s.dev.ringState x.crew x.ring ≠ 2) → x ∈ t.dev.hif.due) ∧
  ∀ (s : State) (content : List Arrival), s.dev.mayStep = false → exec (.strokeBoundary content) s = .next s

/-- R42: the preset rules of STK_BUDGET_CFG. Codes 0, 1 and 2 newly carried set LIVE_CAP to the preset's value; code 7 takes the cap
carried; the code already read takes the cap carried and then reads 7, or changes nothing where that cap is the one read. R16: a read
of STK_NOW_LO shows the low word of the Stroke and latches the high one. -/
def Obligations.BudgetAndNow : Prop :=
  (∀ (s : State) (fn value : Nat), s.dev.mayWrite fn Reg.stkBudgetCfg = true →
    let w := BitVec.ofNat 32 value
    let p := F.stkBudgetCfg_livePreset.get w
    let old := s.dev.stagedReg fn Reg.stkBudgetCfg
    ∃ t, exec (.budgetCfgWrite fn value) s = .next t ∧
      t = { s with dev := { s.dev with staged := t.dev.staged, regs := t.dev.regs } } ∧ s.dev.KeepsRegs t.dev [Reg.stkBudgetCfg] ∧
      (p = 7 → F.stkBudgetCfg_livePreset.get (t.dev.stagedReg fn Reg.stkBudgetCfg) = 7 ∧
        F.stkBudgetCfg_liveCap.get (t.dev.stagedReg fn Reg.stkBudgetCfg) = F.stkBudgetCfg_liveCap.get w) ∧
      (p < 3 → p ≠ F.stkBudgetCfg_livePreset.get old →
        F.stkBudgetCfg_livePreset.get (t.dev.stagedReg fn Reg.stkBudgetCfg) = p ∧
          F.stkBudgetCfg_liveCap.get (t.dev.stagedReg fn Reg.stkBudgetCfg) = [0x206CC, 0x1C9C3, 0x1312D].getD p 0) ∧
      (p ≠ 7 → p = F.stkBudgetCfg_livePreset.get old → F.stkBudgetCfg_liveCap.get w ≠ F.stkBudgetCfg_liveCap.get old →
        F.stkBudgetCfg_livePreset.get (t.dev.stagedReg fn Reg.stkBudgetCfg) = 7 ∧
          F.stkBudgetCfg_liveCap.get (t.dev.stagedReg fn Reg.stkBudgetCfg) = F.stkBudgetCfg_liveCap.get w) ∧
      (p ≠ 7 → p = F.stkBudgetCfg_livePreset.get old → F.stkBudgetCfg_liveCap.get w = F.stkBudgetCfg_liveCap.get old → t = s)) ∧
  ∀ (s : State) (fn : Nat), s.dev.sees fn Reg.stkNowLo = true →
    ∃ t, exec (.stkNowLoRead fn) s = .next t ∧ s.dev.ShowsOnly t.dev (.read fn Reg.stkNowLo (s.dev.now % 2 ^ 32)) ∧
      t.dev.fnReg fn Reg.stkNowHi = BitVec.ofNat 32 (s.dev.now / 2 ^ 32) ∧
      t = { s with dev := { s.dev with fnRegs := t.dev.fnRegs, out := t.dev.out } }

/-- R11, R13: an aligned word write of a register that no rule and no preset of its own governs. Where every field of it is RC, the
written fields are staged for the function: it reads them back, the register in force and what other functions have staged stay. Where
every field is RW, they hold at once, and no other register changes. R438: a write of SEC_ENROL_KEY keeps the word. -/
def Obligations.RegisterWrites : Prop :=
  (∀ (s : State) (fn off v a : Nat) (c : RegClass) (ix : List Nat), (barAddr fn off).bind enrolKeyAt = none →
    s.dev.writable fn off 4 = some a → s.dev.ownRule fn a (v % 2 ^ 32) = false → presetFor (s.dev.plainRead fn) a = none →
    regClass? a = some (c, ix) → c.perFn = false →
    let w := BitVec.ofNat 32 (v % 2 ^ 32)
    ((∀ f ∈ c.fields, f.acc = .rc) →
      ∃ t, exec (.registerWrite fn off 4 v) s = .next t ∧ t = { s with dev := { s.dev with staged := t.dev.staged, regs := t.dev.regs } } ∧
        s.dev.KeepsRegs t.dev [] ∧ t.dev.stagedReg fn a &&& rcMask a = w &&& rcMask a ∧
        ∀ g b, b < 2 ^ 32 → ¬(g = fn ∧ b = a) → a < 2 ^ 32 → t.dev.stagedReg g b = s.dev.stagedReg g b) ∧
    ((∀ f ∈ c.fields, f.acc = .rw) →
      ∃ t, exec (.registerWrite fn off 4 v) s = .next t ∧ s.RegsOnly t [a] ∧
        t.dev.reg a &&& BitVec.ofNat 32 (c.maskOf fun x => x == .rw) = w &&& BitVec.ofNat 32 (c.maskOf fun x => x == .rw))) ∧
  ∀ (s : State) (off v i : Nat), (barAddr 0 off).bind enrolKeyAt = some i → s.dev.blockAnswers 0xE00380 = true →
    ∃ t, exec (.registerWrite 0 off 4 v) s = .next t ∧ Tab.get zero t.dev.sec.enrolKey i = v % 2 ^ 32 ∧
      t = { s with dev := { s.dev with sec := { s.dev.sec with enrolKey := t.dev.sec.enrolKey } } }

/-! ## Cox -/

/-- R55–R57, R59, R76: a token of an enabled flow that reaches one item. A slot that is filled discards it and counts it in COX_DUP_CNT; a
slot that is not takes its handle, and the item joins its unit's ready list when all needed slots are filled; a first token makes the
entry; with no room for one, or for an item whose substitute has run, it is discarded and counted in LATE_DROP. The recording of the
token, its count and the buffer of a discarded one aside, nothing else changes. -/
def Obligations.OperandTokens : Prop :=
  ∀ (s : State) (flow seq slot handle ns : Nat), s.dev.replay = false → s.dev.inReset 5 = false → slot < 4 → flow < 4096 →
    s.dev.flowOn flow = true → s.dev.oneToken flow seq slot = true →
    ∃ t, exec (.operandToken flow seq slot handle ns) s = .next t ∧ t.mem = s.mem ∧ t.dev.out = s.dev.out ∧
      (∃ r new, t.dev.log = new ++ r :: s.dev.log ∧ (∀ q ∈ new, q.kind = 0x13 ∧ q.crew = s.dev.flowCrew flow) ∧
        (s.dev.flag (Reg.secCrewPolicy (s.dev.flowCrew flow)) F.secCrewPolicy_replayContent = false → new = []) ∧ r.kind = 0x02 ∧ r.sub = slot ∧ r.obj = flow ∧ r.data = [seq, handle] ∧
        r.crew = s.dev.flowCrew flow ∧ r.stroke = s.dev.now) ∧
      match s.dev.item? flow seq with
      | some i =>
        if bitAt i.filled slot = true then
          t.dev.cox = s.dev.cox ∧
            t.dev.fld Reg.coxDupCnt F.coxDupCnt_dup = (s.dev.fld Reg.coxDupCnt F.coxDupCnt_dup + 1) % 2 ^ F.coxDupCnt_dup.width
        else
          ∃ j, t.dev.item? flow seq = some j ∧ j.filled = i.filled + 2 ^ slot ∧ j.handles = i.handles.set slot handle ∧
            j.e = i.e ∧ j.rd = i.rd ∧ j.cd = i.cd ∧ j.unit = i.unit ∧
            ((∀ k < 4, bitAt (i.filled + 2 ^ slot) k = true) → j.readyNo ≠ 0)
      | none =>
        match s.dev.gone? flow seq with
        | some true =>
          t.dev.cox = s.dev.cox ∧ t.dev.fld Reg.coxEventCnt F.coxEventCnt_lateDrop =
            (s.dev.fld Reg.coxEventCnt F.coxEventCnt_lateDrop + 1) % 2 ^ F.coxEventCnt_lateDrop.width
        | some false =>
          t.dev.cox = s.dev.cox ∧
            t.dev.fld Reg.coxDupCnt F.coxDupCnt_dup = (s.dev.fld Reg.coxDupCnt F.coxDupCnt_dup + 1) % 2 ^ F.coxDupCnt_dup.width
        | none =>
          let own := s.dev.flowLive flow && decide (s.dev.heldEntries flow < s.dev.fld (Reg.coxFlowCfg flow) F.coxFlowCfg_reserve)
          if own = false ∧ s.dev.storeRoom = false then
            t.dev.cox = s.dev.cox ∧ t.dev.fld Reg.coxEventCnt F.coxEventCnt_lateDrop =
              (s.dev.fld Reg.coxEventCnt F.coxEventCnt_lateDrop + 1) % 2 ^ F.coxEventCnt_lateDrop.width
          else
            ∃ j, t.dev.item? flow seq = some j ∧ bitAt j.filled slot = true ∧ j.flow = flow ∧ j.seq = seq ∧ j.unit = none ∧
              j.shared = !own ∧ (∀ i ∈ s.dev.cox.items, i.flow ≠ flow → i ∈ t.dev.cox.items)

/-- R61–R64: the ready item that starts is first in the order of service among those a unit can take — live by completion deadline and
flow, best-effort by target — and it starts on that unit, which COX_FLOW_AFF.LAST then names, at its certified cost or at level 1 the cut
one (R184). With none, nothing starts. -/
def Obligations.ItemsStart : Prop :=
  (∀ (s : State) (ns : Nat) (i : Item) (u : Nat), i.flow < 4096 →
    (s.dev.atNs ns).firstServed ns ((s.dev.atNs ns).dispatchable ns) = some (i, u) →
    ∃ t lv n, exec (.itemDispatch ns) s = .next t ∧
      t.dev.cox.items = (s.dev.cox.items.map fun j =>
        if j.flow = i.flow ∧ j.seq = i.seq then { j with unit := some u, level := lv, cost := n, began := s.dev.now * 125000 + ns } else j) ∧
      (lv ≠ 1 → n = i.cost) ∧
      t.dev.fld (Reg.coxFlowAff i.flow) F.coxFlowAff_last = unitNo u % 2 ^ F.coxFlowAff_last.width ∧
      s.dev.KeepsRegs t.dev [Reg.coxFlowAff i.flow] ∧ t.dev.out = s.dev.out ∧ t.mem = s.mem) ∧
  (∀ (s : State) (ns : Nat), (s.dev.atNs ns).firstServed ns ((s.dev.atNs ns).dispatchable ns) = none →
    exec (.itemDispatch ns) s = .next { s with dev := s.dev.atNs ns }) ∧
  ∀ (d : Dev) (ns : Nat) (l : List (Item × Nat)) (x : Item × Nat), d.firstServed ns l = some x →
    x ∈ l ∧ ∀ y ∈ l, placeBefore (d.servicePlace ns y.1) (d.servicePlace ns x.1) = false

/-- R75, R78, R416: an item in service that completes leaves its unit and the store, and gives what its object makes of it. A Seat or decode Seat
at step k of 1 to 15 then pauses for ceil(w × k ÷ (16 − k)) cycles; at step 0 it does not. THROTTLE_PAUSE_END ends the pause of that
unit and of no other. The pause cycles come from the item's actual cycle count. R416: the on-die words that the item read are counted
as corrected or uncorrected, and one that could not be corrected makes the item end as poisoned. -/
def Obligations.CompletionsAndPauses : Prop :=
  (∀ (s : State) (flow seq ns : Nat) (q : ItemResult) (picture : Option PictureFacts) (i : Item), s.dev.item? flow seq = some i →
    i.unit.isSome = true →
    ∃ d : Dev, exec (.itemComplete flow seq q picture ns) s = .next { s with dev := (((d.leaveUnit i q.cycles).endItem flow seq (decide (i.floor = 0x02))).produce i (afterOnDie q) picture) } ∧
      (q.poisoned = false → q.broken = 0 → d = (s.dev.atNs ns).countOnDie q) ∧
      (q.poisoned = true ∨ 0 < q.broken → (afterOnDie q).poisoned = true ∧
        d = ((s.dev.atNs ns).countOnDie q).record (s.dev.flowCrew flow) 0x08 0 flow [flow, seq])) ∧
  (∀ (d : Dev) (q : ItemResult),
    (d.countOnDie q).fld Reg.memOndieErr F.memOndieErr_corrected = (d.fld Reg.memOndieErr F.memOndieErr_corrected + q.fixed) % 65536 ∧
      (d.countOnDie q).fld Reg.memOndieErr F.memOndieErr_uncorrected = (d.fld Reg.memOndieErr F.memOndieErr_uncorrected + q.broken) % 65536 ∧
      d.KeepsRegs (d.countOnDie q) [Reg.memOndieErr] ∧ d.countOnDie q = { d with regs := (d.countOnDie q).regs }) ∧
  (∀ (d : Dev) (i : Item) (w u : Nat), i.unit = some u → u < 40 →
    (d.leaveUnit i w).pauseOf u = (if d.stepOf u = 0 ∨ 16 ≤ d.stepOf u then 0
      else (w * d.stepOf u + (16 - d.stepOf u) - 1) / (16 - d.stepOf u)) ∧
      (d.leaveUnit i w).regs = d.regs ∧ (d.leaveUnit i w).out = d.out ∧ (d.leaveUnit i w).cox.items = d.cox.items ∧
      ∀ v, v ≠ u → (d.leaveUnit i w).pauseOf v = d.pauseOf v) ∧
  (∀ (d : Dev) (flow seq : Nat) (b : Bool), (d.endItem flow seq b).item? flow seq = none ∧
    (d.endItem flow seq b).gone? flow seq = some b ∧
    (∀ f q, ¬(f = flow ∧ q = seq) → (d.endItem flow seq b).item? f q = d.item? f q) ∧
    d.endItem flow seq b = { d with cox := (d.endItem flow seq b).cox }) ∧
  ∀ (s : State) (unit ns : Nat), ∃ t, exec (.throttlePauseEnd unit ns) s = .next t ∧ t.dev.pauseOf unit = 0 ∧
    (∀ v, v ≠ unit → t.dev.pauseOf v = s.dev.pauseOf v) ∧ t = { s with dev := { (s.dev.atNs ns) with cox := t.dev.cox } }

/-- R73, R74: a live item that lacks an operand when the boundary after its release deadline has passed runs its flow's SUBST action; MARGIN_NS
before the end of its completion deadline one in service or ready is ended: an encode item goes on with its floor pass, any other with the
action of the deadline. Each is counted in COX_EVENT_CNT.SUBST and in the flow's own count and recorded as a timing event, and a substituted
item leaves the store as one whose substitute has run. R75: a best-effort item whose deadline passes while it waits leaves the store, its
operands released; an encode channel abandons its picture, ABORT_TIMEOUT. -/
def Obligations.SubstitutesRun : Prop :=
  let counted (d e : Dev) (i : Item) (how : Nat) : Prop :=
    e.fld Reg.coxEventCnt F.coxEventCnt_subst = (d.fld Reg.coxEventCnt F.coxEventCnt_subst + 1) % 2 ^ F.coxEventCnt_subst.width ∧
      e.fld (Reg.coxFlowStat i.flow) F.coxFlowStat_subst =
        (d.fld (Reg.coxFlowStat i.flow) F.coxFlowStat_subst + 1) % 2 ^ F.coxFlowStat_subst.width ∧ e.out = d.out ∧
      ∃ r, e.log = r :: d.log ∧ r.kind = 0x07 ∧ r.obj = i.flow ∧ r.data = [i.flow, i.seq, how] ∧ r.stroke = d.now
  (∀ (s : State) (flow seq : Nat) (i : Item), s.dev.item? flow seq = some i → s.dev.substDue i = true →
    exec (.substituteAction flow seq) s = .next { s with dev := s.dev.substitute i (s.dev.substOf i) }) ∧
  (∀ (s : State) (flow seq : Nat) (i : Item), i = s.dev.newItem flow seq s.dev.now false →
    s.dev.item? flow seq = none → s.dev.gone? flow seq = none → s.dev.flowOn flow = true →
    (∀ l, s.dev.duesAt flow i.e = some l → seq ∈ l) → s.dev.substDue i = true →
    exec (.substituteAction flow seq) s = .next { s with dev := s.dev.substitute i (s.dev.substOf i) }) ∧
  (∀ (d : Dev) (i : Item) (how : Nat), i.flow < 4096 →
    ∃ e : Dev, d.substitute i how = e.standInFor i ∧ counted d e i how ∧ e.item? i.flow i.seq = none ∧
      e.gone? i.flow i.seq = some true) ∧
  (∀ (s : State) (flow seq : Nat) (i : Item) (d : Dev), flow < 4096 → s.dev.item? flow seq = some i → i.live = true → i.readyNo ≠ 0 →
    i.floor = 0 → i.cd ≤ s.dev.now → d = s.dev.atNs (125000 - s.dev.fld Reg.coxFinishCfg F.coxFinishCfg_marginNs) →
    (∀ c p, s.dev.flowObj flow = .encPiece c p →
      ∃ t, exec (.deadlineFinish flow seq) s = .next t ∧ t.mem = s.mem ∧ counted d t.dev i 4 ∧
        t.dev.item? flow seq = some { i with floor := 0x02, cost := i.floorCost } ∧
        ∀ f q, ¬(f = flow ∧ q = seq) → t.dev.item? f q = s.dev.item? f q) ∧
    ((∀ c p, s.dev.flowObj flow ≠ .encPiece c p) →
      exec (.deadlineFinish flow seq) s =
        .next { s with dev := (d.leaveUnit i (i.cyclesRun d.nowNs)).substitute i 4 })) ∧
  (∀ (s : State) (flow seq : Nat) (i : Item) (c p j b : Nat) (g : EncCfg), s.dev.item? flow seq = some i → i.live = false →
    i.unit = none → i.cd < s.dev.now → s.dev.flowObj flow = .encPiece c p → s.dev.bandOfItem c i = some (g, j, b) →
    ∃ d : Dev, exec (.beTimeout flow seq) s = .next { s with dev := d.abandon c g j 0x22 } ∧ d.item? flow seq = none ∧
      d.gone? flow seq = some false ∧ d = { s.dev with cox := d.cox }) ∧
  ∀ (s : State) (flow seq : Nat) (i : Item), s.dev.item? flow seq = some i → i.live = false → i.unit = none → i.cd < s.dev.now →
    (∀ c p, s.dev.flowObj flow ≠ .encPiece c p) →
    ∃ t, exec (.beTimeout flow seq) s = .next t ∧ t.dev.item? flow seq = none ∧ t.dev.gone? flow seq = some false ∧
      t = { s with dev := { s.dev with cox := t.dev.cox, pools := t.dev.pools } }

/-! ## Pictures and sound -/

/-- R21, R154, R160, R163, R192, R210, R233, R242: a frame boundary of a live encode channel settles the kind of that frame, the first of a
coded video sequence being an IDR picture, and takes in the MDCV and CLL values whose effect has come; one of a decode channel presents
the picture whose time has come, or keeps the one shown. The token of a unit still incomplete is issued at the boundary after its release
deadline. Units of a bitstream and records of statistics that find no post are gone, and one that is due is written into the next free buffer. The coding of a piece never leaves less of its budget
than the floor pass of what follows, so that the floor run always fits. -/
def Obligations.FramesAndUnits : Prop :=
  (∀ (s : State) (c k : Nat) (x : EncDyn) (p : Nat × EncCfg), c < 256 → s.dev.enc? c = some x → cfgFor x.cfgs k = some p →
    p.2.live = true → x.first ≤ k → frameStroke p.2.num p.2.den k = s.dev.now →
    ∃ t y, exec (.frameBoundary (0x100 + c) k) s = .next t ∧ t.dev.enc? c = some y ∧ y.settled k = true ∧
      y.hdrNext = x.hdrNext.filter (fun h => decide (s.dev.now < h.effect)) ∧
      (x.settled k = false → x.mismatch = false → x.lastIrap = none → y.kindOf k = 0) ∧
      (∀ e, e ≠ c → t.dev.enc? e = s.dev.enc? e) ∧
      t = { s with dev := { s.dev with enc := t.dev.enc, hif := t.dev.hif, out := t.dev.out } }) ∧
  (∀ (s : State) (c k : Nat) (x : DecDyn), c < 64 → s.dev.dec? c = some x → frameStroke x.cfg.num x.cfg.den k = s.dev.now →
    ∃ t, exec (.frameBoundary (0x200 + c) k) s = .next t ∧
      t = { s with dev := { s.dev with dec := t.dev.dec, pools := t.dev.pools } } ∧
      match (((s.dev.pool? (256 + c)).bind fun y =>
        (y.buffers.zipIdx.find? fun b => b.1.outPending && b.1.present.any fun j => j + x.cfg.pres = k).map (·.2)).or x.shown) with
      | none => t = s
      | some i => ∃ y, t.dev.dec? c = some y ∧ y.shown = some i ∧ y.holds.head? = some i ∧ y.holds.length ≤ 2) ∧
  (∀ (s : State) (chan k : Nat) (x : DecDyn) (u : SlotUnit), s.dev.dec? chan = some x →
    s.dev.now = x.cfg.release k + x.cfg.relOff + 1 → x.unit? k = some u → u.sent = false → u.tooLarge = false → x.mismatch = false →
    ∃ t r new, exec (.partialAuToken chan k) s = .next t ∧ t.mem = s.mem ∧ t.dev.out = s.dev.out ∧ t.dev.log = new ++ r :: s.dev.log ∧
      (∀ q ∈ new, q.kind = 0x13) ∧
      r.kind = 0x02 ∧ r.obj = x.cfg.flow ∧ r.data = [k % 65536, k] ∧
      t.dev.dec? chan = some { x with units := x.units.map fun v => if v.slot = k then { v with sent := true } else v }) ∧
  (∀ (s : State) (chan : Nat) (x : EncDyn), s.dev.enc? chan = some x → s.dev.standing? 0x30 (0x100 + chan) = none →
    ∃ t, exec (.bsDelivery chan) s = .next t ∧ t.dev.enc? chan = some { x with units := [] } ∧
      t = { s with dev := { s.dev with enc := t.dev.enc } }) ∧
  (∀ (s : State) (chan : Nat) (x : EncDyn), s.dev.enc? chan = some x → s.dev.standing? 0x50 (0x100 + chan) = none →
    ∃ t, exec (.statsDelivery chan) s = .next t ∧ t.dev.enc? chan = some { x with stats := [] } ∧
      t = { s with dev := { s.dev with enc := t.dev.enc } }) ∧
  (∀ (s : State) (chan : Nat) (x : EncDyn) (p : Standing) (u : UnitRec), s.dev.enc? chan = some x →
    s.dev.standing? 0x30 (0x100 + chan) = some p → bitAt (p.desc.w 6) 16 = false → x.units = [u] → p.start ≤ u.released →
    s.dev.unitLate chan u = false →
    0 < u.bytes → u.bytes ≤ p.desc.w 5 → 0 < p.desc.w 6 % 65536 → p.isBusy (p.next % (p.desc.w 6 % 65536)) = false →
    ∃ t y, exec (.bsDelivery chan) s = .next t ∧ t.dev.enc? chan = some y ∧ y.units = [] ∧
      s.dev.Shows t.dev (.hostData p.desc.crew (p.desc.addr 3 + p.next % (p.desc.w 6 % 65536) * p.desc.w 5) u.bytes) ∧
      (∃ q ∈ t.dev.hif.standing, q.desc = p.desc ∧ q.count = p.count + 1 ∧ (p.gap = false → q.gap = false) ∧
        (s.dev.Answers p.desc → 0 < s.dev.freeSlots p.desc.crew p.desc.ring → q.gap = false) ∧
        q.next = (p.next + 1) % (p.desc.w 6 % 65536)) ∧
      t = { s with dev := { s.dev with enc := t.dev.enc, hif := t.dev.hif, out := t.dev.out, regs := t.dev.regs } }) ∧
  (∀ (s : State) (chan : Nat) (x : EncDyn) (p : Standing) (u : UnitRec), s.dev.enc? chan = some x →
    s.dev.standing? 0x50 (0x100 + chan) = some p → bitAt (p.desc.w 6) 16 = false → x.stats = [u] → p.start ≤ u.released →
    s.dev.unitLate chan u = false →
    let l := u.statWords (bitAt (p.desc.w 6) 17)
    4 * l.length ≤ p.desc.w 5 → 0 < p.desc.w 6 % 65536 → p.isBusy (p.next % (p.desc.w 6 % 65536)) = false →
    ∃ t y, exec (.statsDelivery chan) s = .next t ∧ t.dev.enc? chan = some y ∧ y.stats = [] ∧
      s.dev.Shows t.dev (.hostWrite p.desc.crew (p.desc.addr 3 + p.next % (p.desc.w 6 % 65536) * p.desc.w 5) l) ∧
      (∃ q ∈ t.dev.hif.standing, q.desc = p.desc ∧ q.count = p.count + 1 ∧ (p.gap = false → q.gap = false) ∧
        (s.dev.Answers p.desc → 0 < s.dev.freeSlots p.desc.crew p.desc.ring → q.gap = false) ∧
        q.next = (p.next + 1) % (p.desc.w 6 % 65536)) ∧
      t = { s with dev := { s.dev with enc := t.dev.enc, hif := t.dev.hif, out := t.dev.out, regs := t.dev.regs } }) ∧
  ∀ (fl : Nat → Nat) (budget i used : Nat) (l : List Nat), used + fl i ≤ budget →
    match codeRun fl budget i used l with
    | (bits, none) => bits + fl (i + l.length) ≤ budget
    | (bits, some k) => i ≤ k ∧ k < i + l.length ∧ bits + fl k ≤ budget

/-- R273–R276, R285: the oldest post of a layer whose fence has been reached starts its copy, which completes at a fixed Stroke by its size and
the layer's rate; a copy that is over is whole, and recorded (R49). At the flip deadline of a frame the newest post that can be flipped in is shown — DONE
where it was meant for that frame, DONE_HELD for a later one — and without one the layer is held while a post waits; moves whose effect has
come are made. -/
def Obligations.Composition : Prop :=
  (∀ (s : State) (prog layer : Nat) (x : ProgDyn) (q : Post) (l : LayerCfg), s.dev.prog? prog = some x →
    x.posts.find? (fun q => q.layer = layer && q.start.isNone && s.dev.fenceReached q.desc) = some q → x.layerCfg? layer = some l →
    ∃ t y, exec (.layerCopyStart prog layer) s = .next t ∧ t.dev.prog? prog = some y ∧
      s.dev.Shows t.dev (.hostRead q.desc.crew (q.desc.addr 4) (frameBytes l.srcFmt l.srcW l.srcH)) ∧
      (∃ r ∈ y.posts, r.desc = q.desc ∧ r.start = some s.dev.now ∧
        r.done = some (s.dev.now + cdiv (frameBytes l.srcFmt l.srcW l.srcH) (max 1 (x.cfg.copyRate l)))) ∧
      (∀ p, p ≠ prog → t.dev.prog? p = s.dev.prog? p) ∧
      t = { s with dev := { s.dev with cmp := t.dev.cmp, hif := t.dev.hif, out := t.dev.out } }) ∧
  (∀ (s : State) (prog layer : Nat) (x : ProgDyn), s.dev.prog? prog = some x →
    ∃ t, exec (.layerCopyComplete prog layer) s = .next t ∧
      t = { s with dev := { s.dev with cmp := t.dev.cmp, regs := t.dev.regs, hif := t.dev.hif, log := t.dev.log } } ∧
      s.dev.KeepsRegs t.dev (x.posts.flatMap fun r => [Reg.rplLogStatus r.desc.crew, Reg.rplLogSeq r.desc.crew]) ∧
      (∃ new, t.dev.log = new ++ s.dev.log ∧ ∀ r ∈ new, (r.kind = 0x02 ∧ r.sub = 8 + layer ∨ r.kind = 0x13) ∧ r.stroke = s.dev.now) ∧
      t.dev.prog? prog = some { x with posts := x.posts.map fun r =>
        if r.layer = layer ∧ (r.done.any fun e => decide (e ≤ s.dev.now)) = true then { r with copied := true } else r } ∧
      ∀ p, p ≠ prog → t.dev.prog? p = s.dev.prog? p) ∧
  ∀ (s : State) (prog k : Nat) (x : ProgDyn) (l : LayerCfg) (z : LayerDyn), s.dev.prog? prog = some x →
    s.dev.now = flipStroke x.cfg.num x.cfg.den k → x.cfg.layers.filter (fun m => m.srcType = 3 || m.srcType = 4) = [l] →
    l.group = 0 → s.dev.tapFed prog = [] → x.layer? l.layer = some z →
    ∃ t y w, exec (.flipDeadline prog k) s = .next t ∧ t.dev.prog? prog = some y ∧ y.layer? l.layer = some w ∧
      y.moves = x.moves.filter (fun m => decide (s.dev.now < m.effect)) ∧
      t = { s with dev := { s.dev with cmp := t.dev.cmp, hif := t.dev.hif, out := t.dev.out } } ∧
      match ((x.posts.filter fun q => q.layer = l.layer).filter (s.dev.flippable k)).getLast? with
      | none => w.shown = z.shown ∧ w.held = (x.posts.filter fun q => q.layer = l.layer).any (s.dev.waiting k)
      | some q => w.shown = true ∧ w.held = false ∧ (∀ r ∈ y.posts, r.desc ≠ q.desc) ∧
          (s.dev.Answers q.desc → s.dev.writesOf q.desc.crew + x.posts.length < s.dev.hostScale 120 → if q.frame = k then s.dev.Completes t.dev q.desc 0 [k % 2 ^ 32, 0]
            else s.dev.Completes t.dev q.desc 0x04 [k % 2 ^ 32, 1])

/-- R296, R297, R301: an enabled AES3 input locks at the rate measured, and a lock lost is shown; each frame of a locked input counts its
parity errors, gives the sample before it for one that has an error, and joins the channel-status block that its Z preamble began, and 192 frames of consumer status are shown whole. A slave TDM
port that loses its clock stops its output, and starts it again with a ramp up when the clock returns. R306–R308: without the external house clock, or with
it back, house outputs ramp down, the status names the clock in use, and CLOCK_FAULT is raised to CREW_0; an ASRC channel in use reports its lock
and, each eighth Stroke, its ratio. R313: a new delay of a group applies at the end of its ramp. -/
def Obligations.AudioInputs : Prop :=
  (∀ (s : State) (input rate : Nat), input < 32 → s.dev.flag (Reg.audAesiCfg input) F.audAesiCfg_enable = true → rate < 8 →
    ∃ t, exec (.aes3Lock input rate) s = .next t ∧ t.dev.flag (Reg.audAesiStatus input) F.audAesiStatus_lock = true ∧
      t.dev.fld (Reg.audAesiStatus input) F.audAesiStatus_rate = rate ∧ s.dev.KeepsRegs t.dev [Reg.audAesiStatus input] ∧
      (∀ u, (Tab.get noUnlocks t.dev.aud.unlocked input).head? ≠ some (u, none)) ∧
      t = { s with dev := { s.dev with regs := t.dev.regs, aud := t.dev.aud } }) ∧
  (∀ (s : State) (input : Nat), input < 32 → s.dev.flag (Reg.audAesiStatus input) F.audAesiStatus_lock = true →
    ∃ t u, exec (.aes3LockLoss input) s = .next t ∧ t.dev.flag (Reg.audAesiStatus input) F.audAesiStatus_lock = false ∧
      (Tab.get noUnlocks t.dev.aud.unlocked input).head? = some (u, none) ∧ s.dev.KeepsRegs t.dev [Reg.audAesiStatus input] ∧
      t = { s with dev := { s.dev with regs := t.dev.regs, aud := t.dev.aud } }) ∧
  (∀ (s : State) (input : Nat) (pa pb va vb ca cb z : Bool) (x : CsAsm), input < 32 →
    s.dev.flag (Reg.audAesiCfg input) F.audAesiCfg_enable = true → s.dev.flag (Reg.audAesiStatus input) F.audAesiStatus_lock = true →
    x = (if z = true then { pos := 0, a := [], b := [] } else Tab.get noCs s.dev.aud.cs input) →
    ∃ t, exec (.aes3InputFrame input pa pb va vb ca cb z) s = .next t ∧
      t = { s with dev := { s.dev with regs := t.dev.regs, aud := t.dev.aud } } ∧
      t.dev.fld (Reg.audAesiStatus input) F.audAesiStatus_parityErr =
        (s.dev.fld (Reg.audAesiStatus input) F.audAesiStatus_parityErr + bit pa + bit pb) % 256 ∧
      Tab.get noFrames t.dev.aud.ins input = (Tab.get noFrames s.dev.aud.ins input).next s.dev.now pa pb ∧
      (x.pos < 191 → Tab.get noCs t.dev.aud.cs input = { pos := x.pos + 1, a := x.a ++ [bit ca], b := x.b ++ [bit cb] } ∧
        s.dev.KeepsRegs t.dev [Reg.audAesiStatus input]) ∧
      (x.pos = 191 → (csBytes (x.a ++ [bit ca])).getD 0 0 % 2 = 0 → (csBytes (x.b ++ [bit cb])).getD 0 0 % 2 = 0 →
        Tab.get noCs t.dev.aud.cs input = noCs 0 ∧ ∀ w < 6,
          t.dev.reg (Reg.audAesiCsA input w) = BitVec.ofNat 32 (leNat (((csBytes (x.a ++ [bit ca])).drop (4 * w)).take 4)) ∧
          t.dev.reg (Reg.audAesiCsB input w) = BitVec.ofNat 32 (leNat (((csBytes (x.b ++ [bit cb])).drop (4 * w)).take 4)))) ∧
  (∀ (s : State) (port : Nat), port < 8 → s.dev.flag (Reg.audTdmCfg port) F.audTdmCfg_enable = true →
    s.dev.fld (Reg.audTdmCfg port) F.audTdmCfg_role ≠ 0 →
    (∃ t, exec (.tdmClockLoss port) s = .next t ∧ t.dev.flag (Reg.audTdmStatus port) F.audTdmStatus_clockOk = false ∧
      s.dev.ShowsOnly t.dev (.pin ("TDM_DOUT_" ++ toString port) false) ∧ s.dev.KeepsRegs t.dev [Reg.audTdmStatus port] ∧
      t = { s with dev := { s.dev with regs := t.dev.regs, aud := t.dev.aud, out := t.dev.out } }) ∧
    (s.dev.flag (Reg.audTdmStatus port) F.audTdmStatus_clockOk = false →
      ∃ t, exec (.tdmClockReturn port) s = .next t ∧ t.dev.flag (Reg.audTdmStatus port) F.audTdmStatus_clockOk = true ∧
        s.dev.ShowsOnly t.dev (.pin ("TDM_DOUT_" ++ toString port) true) ∧ s.dev.KeepsRegs t.dev [Reg.audTdmStatus port] ∧
        Tab.get noRamp t.dev.aud.ramps (0x20 + port) = some ⟨true, s.dev.now + 1⟩ ∧
        t = { s with dev := { s.dev with regs := t.dev.regs, aud := t.dev.aud, out := t.dev.out } })) ∧
  (∀ (s : State) (out : Bool) (ppm : Int), s.dev.fld Reg.audClkCfg F.audClkCfg_role ≠ 0 →
    s.dev.fld Reg.audClkStatus F.audClkStatus_house = 1 →
    ∃ t, exec (.houseClockLoss out ppm) s = .next t ∧ t.dev.fld Reg.audClkStatus F.audClkStatus_house = 2 ∧
      t.dev.fld Reg.audClkStatus F.audClkStatus_extPresent = 0 ∧ t.dev.fld Reg.audClkStatus F.audClkStatus_ppm = unsigned 16 ppm ∧
      t.dev.fld Reg.audClkStatus F.audClkStatus_muted = 1 ∧
      ∀ o < 32, s.dev.flag (Reg.audAesoCfg o) F.audAesoCfg_enable = true →
        t.dev.fld (Reg.audAesoStatus o) F.audAesoStatus_muted = 1 ∧
          Tab.get noRamp t.dev.aud.ramps (0x40 + o) = some ⟨false, s.dev.now + 1⟩) ∧
  (∀ (s : State) (ppm : Int), s.dev.fld Reg.audClkStatus F.audClkStatus_house = 2 →
    s.dev.fld Reg.audClkCfg F.audClkCfg_restoreMs ≠ 0 →
    ∃ t, exec (.houseClockRestore ppm) s = .next t ∧ t.dev.fld Reg.audClkStatus F.audClkStatus_house = 1 ∧
      t.dev.fld Reg.audClkStatus F.audClkStatus_extPresent = 1 ∧ t.dev.fld Reg.audClkStatus F.audClkStatus_ppm = unsigned 16 ppm ∧
      t.dev.fld Reg.audClkStatus F.audClkStatus_muted = 1) ∧
  (∀ (s : State) (a ratio : Nat), a < 256 → s.dev.flag (Reg.audAsrcState a) F.audAsrcState_inUse = true →
    (∃ t, exec (.asrcLock a) s = .next t ∧ t.dev.fld (Reg.audAsrcState a) F.audAsrcState_lock = 1 ∧
      t = { s with dev := { s.dev with regs := t.dev.regs, aud := t.dev.aud } } ∧
      t.dev.aud = { s.dev.aud with ramps := t.dev.aud.ramps } ∧
      ∀ u, s.dev.asrc? a = some u → 0x40 ≤ u.io → u.io < 0x60 →
        t.dev.fld (Reg.audAesoStatus (u.io - 0x40)) F.audAesoStatus_muted = 0) ∧
    (s.dev.now % 8 = 0 →
      ∃ t r, exec (.asrcRatioUpdate a ratio) s = .next t ∧ t.dev.reg (Reg.audAsrcRatio a) = BitVec.ofNat 32 ratio ∧
        t.dev.out = s.dev.out ∧ t.dev.log = r :: s.dev.log ∧ r.kind = 0x09 ∧ r.data = [a, ratio % 2 ^ 32])) ∧
  ∀ (s : State) (group n at_ : Nat) (x : AudGrpDyn), group < 64 → s.dev.grp? group = some x → x.next = some (n, at_) → at_ ≤ s.dev.now →
    ∃ t, exec (.audioRampEnd group) s = .next t ∧
      t.dev.grp? group = some { x with cfg := { x.cfg with delay := n }, next := none, back := some s.dev.now } ∧
      (∀ g, g ≠ group → t.dev.grp? g = s.dev.grp? g) ∧ s.dev.KeepsRegs t.dev [Reg.audGrpResolved group] ∧
      t = { s with dev := { s.dev with regs := t.dev.regs, aud := t.dev.aud } }

/-! ## Deliveries, counters, check values and the bench -/

/-- R317–R320: the block of a capture post that is over, with its buffer free, is written — a header of its first sample, its samples and
those concealed, before the samples of each channel — and counted, and the next block follows it, unless the link is short and the block
late; the block of a playback post whose time
has come is read, its samples arrive where its header is the right one, and the next block follows. R519–R521: at a multiple of PERIOD
the banks of a Crew are latched into its user page and delivered into a free buffer. R526: a full log buffer is delivered. -/
def Obligations.BlocksAndSnapshots : Prop :=
  (∀ (s : State) (group : Nat) (p : Standing) (x : AudGrpDyn), s.dev.grp? group = some x →
    s.dev.hif.standing.filter (fun q => (q.desc.opcode = 0x40 || q.desc.opcode = 0x42) && q.desc.object = 0x280 + group) = [p] →
    s.dev.hif.standing.find? (fun q => q.is p.desc) = some p → p.desc.opcode = 0x40 → s.dev.blockOver p x = true →
    s.dev.blockOver { p with aux := [p.aux.getD 0 0 + max 1 x.cfg.block, 0] } x = false → p.isBusy p.next = false →
    let lo := cdiv (p.aux.getD 0 0 * x.cfg.rate) 8000
    let hi := cdiv ((p.aux.getD 0 0 + max 1 x.cfg.block) * x.cfg.rate) 8000
    s.dev.tooLate ((hi - 1 + x.cfg.delay) * 8000 / x.cfg.rate + arriveStrokes x.cfg.arriveUs + 2) = false →
    ∃ t q, exec (.audRxBlock group) s = .next t ∧
      t = { s with dev := { s.dev with hif := t.dev.hif, out := t.dev.out, regs := t.dev.regs } } ∧
      (∀ i < p.desc.w 5 % 65536,
        let ch := p.desc.w 5 / 65536 + i
        s.dev.Shows t.dev (.hostWrite p.desc.crew
          (p.desc.addr 3 + (i * p.desc.blocks + p.next) * blockBytes x.cfg.rate x.cfg.block)
          ([lo % 2 ^ 32, hi - lo, ((List.range (hi - lo)).filter fun k => (s.dev.groupSample x ch (lo + k)).2).length] ++
            List.replicate 13 0 ++ (List.range (hi - lo)).map fun k => s.dev.sampleWord x (bitAt (p.desc.w 6) 16) ch (lo + k)))) ∧
      q ∈ t.dev.hif.standing ∧ q.desc = p.desc ∧ q.count = p.count + 1 ∧ (p.gap = false → q.gap = false) ∧
      (s.dev.Answers p.desc → 0 < s.dev.freeSlots p.desc.crew p.desc.ring → q.gap = false) ∧
      q.next = (p.next + 1) % p.desc.blocks ∧ q.aux.getD 0 0 = p.aux.getD 0 0 + max 1 x.cfg.block) ∧
  (∀ (s : State) (stream : Nat) (header : List Nat) (p : Standing), s.dev.playback? stream = some p →
    (∀ q ∈ s.dev.hif.standing, q.is p.desc = true → q = p) →
    let b := max 1 (p.desc.w 6 / 65536 % 64)
    let n := p.aux.getD 0 0
    let from_ := p.aux.getD 1 0 + n * b
    let fs := rateHz (s.dev.fld (Reg.audHostCfg stream) F.audHostCfg_rate)
    let lo := cdiv (from_ * fs) 8000
    let hi := cdiv ((from_ + b) * fs) 8000
    from_ ≤ s.dev.now + 4 →
    ∃ t q, exec (.audTxBlockRead stream header) s = .next t ∧ t.mem = s.mem ∧
      q ∈ t.dev.hif.standing ∧ q.desc = p.desc ∧ q.count = p.count + 1 ∧ q.aux = [n + 1, p.aux.getD 1 0] ∧
      (∀ c < s.dev.hostChannels stream, s.dev.Shows t.dev (.hostRead p.desc.crew
        (p.desc.addr 3 + (c * p.desc.blocks + n % p.desc.blocks) * blockBytes fs b) (blockBytes fs b))) ∧
      if header.getD 0 0 = lo % 2 ^ 32 ∧ header.getD 1 0 = hi - lo then
        ∃ from', (Tab.get noArrivals t.dev.aud.arrived (0x200 + stream)).head? = some (from', hi, s.dev.now)
      else t.dev.aud = s.dev.aud) ∧
  (∀ (s : State) (crew : Nat) (p : Standing), s.dev.crewStanding? 0x80 crew = some p →
    s.dev.now % max 1 (p.desc.w 6 / 65536) = 0 →
    ∃ t q, exec (.cntLatch crew) s = .next t ∧
      Tab.get noList t.dev.pmu.page crew = ((s.dev.banksOf crew).take 64).flatMap (fun b => s.dev.snapshotWords b ++ [0]) ∧
      t = { s with dev := { s.dev with hif := t.dev.hif, out := t.dev.out, regs := t.dev.regs, pmu := t.dev.pmu } } ∧
      t.dev.pmu.counts = s.dev.pmu.counts ∧ q ∈ t.dev.hif.standing ∧ q.desc = p.desc ∧
      if p.isBusy p.next = true then q.gap = true ∧ q.count = p.count ∧ t.dev.out = s.dev.out
      else (p.gap = false → q.gap = false) ∧
        (s.dev.Answers p.desc → 0 < s.dev.freeSlots p.desc.crew p.desc.ring → q.gap = false) ∧
        q.count = p.count + 1 ∧ q.next = (p.next + 1) % (p.desc.w 6 % 65536) ∧
        s.dev.Shows t.dev (.hostWrite crew (p.desc.addr 3 + p.next * p.desc.w 5)
          ((s.dev.banksOf crew).flatMap fun b => s.dev.snapshotRecord b))) ∧
  ∀ (s : State) (crew : Nat) (p : Standing) (b n first : Nat) (words : List Nat), s.dev.crewStanding? 0x82 crew = some p → s.dev.now % 8000 ≠ 0 →
    p.full = [(b, n, first, words)] →
    ∃ t q, exec (.rplBufferDelivery crew) s = .next t ∧
      s.dev.Shows t.dev (.hostWrite crew (p.desc.addr 3 + b * p.desc.w 5) words) ∧
      q ∈ t.dev.hif.standing ∧ q.desc = p.desc ∧ q.full = [] ∧ q.count = p.count + 1 ∧ (p.gap = false → q.gap = false) ∧
      (s.dev.Answers p.desc → 0 < s.dev.freeSlots p.desc.crew p.desc.ring → q.gap = false) ∧
      t = { s with dev := { s.dev with hif := t.dev.hif, out := t.dev.out, regs := t.dev.regs } }

/-- R515–R517, R529: a write of PMU_CNT_CFG that names an event of the bank, and with FLOW_EN a flow of the bank's owner, takes its settings and
clears the counter; any other only sets REFUSED. CLEAR clears the eight counters of its bank; PRESET LOAD sets its four events and clears
their counters. Shared counters show the values latched at multiples of 8,000 Strokes. A read of the low word latches the high one. -/
def Obligations.Counters : Prop :=
  (∀ (s : State) (fn bank j value : Nat), bank < 143 → j < 8 → s.dev.mayWrite fn (Reg.pmuCntCfg bank j) = true →
    let w := BitVec.ofNat 32 value
    let flowEn := F.pmuCntCfg_flowEn.get w = 1
    ∃ t, exec (.pmuCntCfgWrite fn bank j value) s = .next t ∧
      if pmuDefined bank (F.pmuCntCfg_event.get w) = true ∧
          (flowEn → bank < 72 ∧ s.dev.owner 4 (F.pmuCntCfg_flow.get w) = s.dev.owner 0x0F bank) then
        t.dev.reg (Reg.pmuCntCfg bank j) = w &&& 0xFFFFFF80#32 ∧ Tab.get zero t.dev.pmu.counts (8 * bank + j) = 0 ∧
          Tab.get zero t.dev.pmu.shown (8 * bank + j) = 0 ∧
          (∀ k, k ≠ 8 * bank + j → Tab.get zero t.dev.pmu.counts k = Tab.get zero s.dev.pmu.counts k) ∧
          s.dev.KeepsRegs t.dev [Reg.pmuCntCfg bank j, Reg.pmuBankCtl bank] ∧
          t = { s with dev := { s.dev with regs := t.dev.regs, pmu := t.dev.pmu } }
      else t.dev.flag (Reg.pmuBankCtl bank) F.pmuBankCtl_refused = true ∧ s.RegsOnly t [Reg.pmuBankCtl bank]) ∧
  (∀ (s : State) (fn bank value : Nat), bank < 143 → s.dev.mayWrite fn (Reg.pmuBankCtl bank) = true →
    F.pmuBankCtl_clear.get (BitVec.ofNat 32 value) = 1 →
    ∃ t, exec (.pmuBankClear fn bank value) s = .next t ∧
      (∀ j < 8, Tab.get zero t.dev.pmu.counts (8 * bank + j) = 0 ∧ Tab.get zero t.dev.pmu.shown (8 * bank + j) = 0) ∧
      (∀ k, k / 8 ≠ bank → Tab.get zero t.dev.pmu.counts k = Tab.get zero s.dev.pmu.counts k) ∧
      t = { s with dev := { s.dev with regs := t.dev.regs, pmu := t.dev.pmu } }) ∧
  (∀ (s : State) (fn bank value : Nat), bank < 143 → s.dev.mayWrite fn (Reg.pmuBankCtl bank) = true →
    F.pmuBankCtl_preset.get (BitVec.ofNat 32 value) = 1 →
    ∃ t, exec (.pmuPresetLoad fn bank value) s = .next t ∧ t.dev.fld (Reg.pmuBankCtl bank) F.pmuBankCtl_preset = 1 ∧
      (∀ j < 4, Tab.get zero t.dev.pmu.counts (8 * bank + j) = 0 ∧
        t.dev.fld (Reg.pmuCntCfg bank j) F.pmuCntCfg_event = [0x000, 0x041, 0x042, 0x040].getD j 0 ∧
        t.dev.fld (Reg.pmuCntCfg bank j) F.pmuCntCfg_mode = [1, 1, 1, 0].getD j 0 ∧
        (t.dev.flag (Reg.pmuCntCfg bank j) F.pmuCntCfg_enable = true ↔ pmuDefined bank ([0x000, 0x041, 0x042, 0x040].getD j 0) = true)) ∧
      (∀ k, k / 8 ≠ bank → Tab.get zero t.dev.pmu.counts k = Tab.get zero s.dev.pmu.counts k) ∧
      t = { s with dev := { s.dev with regs := t.dev.regs, pmu := t.dev.pmu } }) ∧
  (∀ s : State, s.dev.now % 8000 = 0 →
    ∃ t, exec .sharedCounterLatch s = .next t ∧ t.dev.pmu.counts = s.dev.pmu.counts ∧
      (∀ bank < 143, ∀ j < 8, pmuShared (s.dev.fld (Reg.pmuCntCfg bank j) F.pmuCntCfg_event) = true →
        t.dev.pmuValue bank j = Tab.get zero s.dev.pmu.counts (8 * bank + j)) ∧
      t = { s with dev := { s.dev with pmu := t.dev.pmu } }) ∧
  ∀ (s : State) (fn bank j : Nat), bank < 143 → j < 8 → s.dev.sees fn (Reg.pmuCntLo bank j) = true →
    ¬(fn = 0 ∧ s.dev.houseBarred (Reg.pmuCntLo bank j) = true) →
    ∃ t, exec (.pmuCntLoRead fn bank j) s = .next t ∧
      s.dev.ShowsOnly t.dev (.read fn (Reg.pmuCntLo bank j) (s.dev.pmuValue bank j % 2 ^ 32)) ∧
      Tab.get (fun _ => none) t.dev.latch (Reg.pmuCntHi bank j) = some (s.dev.pmuValue bank j / 2 ^ 32) ∧
      t = { s with dev := { s.dev with latch := t.dev.latch, out := t.dev.out } }

/-- R475–R479: a write to a check-value unit waits in the unit's queue, which CHK_STATUS shows; a full queue lets its oldest take effect
first. A read of CHK_RESULT returns once all have: after a data write, the CRC of R476 over the bytes fed, least significant first. R527:
a write of RPL_CTL with a new REPLAY is taken only while no port group is enabled and no live work is admitted, and sets REFUSED
otherwise; entering REPLAY sets SYNC to FREE and the Stroke to RPL_START. RPL_STEP adds boundaries to PENDING, up to its largest value.
R528 and the rest of the bench are stated at RPL_FEED. -/
def Obligations.ChecksAndBench : Prop :=
  ((∀ (s : State) (fn unit off n v : Nat) (c : Instr), unit < 32 → s.dev.mayWrite fn (Reg.chkCfg unit + off) = true →
      (s.dev.chkUnit unit).queue.length < 16 →
      (c, off, n) ∈ [(Instr.chkCfgWrite fn unit 0x00 v, 0x00, 4), (.chkCfgWrite fn unit 0x04 v, 0x04, 4),
        (.chkCfgWrite fn unit 0x08 v, 0x08, 4), (.chkCfgWrite fn unit 0x0C v, 0x0C, 4), (.chkFoldWrite fn unit v, 0x10, 4),
        (.chkDataWrite fn unit 1 v, 0x14, 1), (.chkDataWrite fn unit 2 v, 0x18, 2), (.chkDataWrite fn unit 4 v, 0x1C, 4)] →
      ∃ t, exec c s = .next t ∧ (t.dev.chkUnit unit).queue = (s.dev.chkUnit unit).queue ++ [(off, n, v)] ∧
        (t.dev.chkUnit unit).crc = (s.dev.chkUnit unit).crc ∧ (∀ u, u ≠ unit → t.dev.chkUnit u = s.dev.chkUnit u) ∧
        t.dev.flag (Reg.chkStatus unit) F.chkStatus_busy = true ∧
        t.dev.fld (Reg.chkStatus unit) F.chkStatus_queue = (s.dev.chkUnit unit).queue.length + 1 ∧
        s.dev.KeepsRegs t.dev [Reg.chkStatus unit] ∧ t = { s with dev := { s.dev with regs := t.dev.regs, chk := t.dev.chk } }) ∧
    ∀ (s : State) (fn unit v : Nat), unit < 32 → s.dev.sees fn (Reg.chkResult unit) = true →
      ¬(fn = 0 ∧ s.dev.houseBarred (Reg.chkResult unit) = true) → (s.dev.chkUnit unit).queue = [(0x1C, 4, v)] →
      ∃ t, exec (.chkResultRead fn unit 0x20) s = .next t ∧
        (t.dev.chkUnit unit).crc =
          [v % 256, v / 256 % 256, v / 65536 % 256, v / 16777216 % 256].foldl (s.dev.chkSpec unit).byteIn (s.dev.chkUnit unit).crc ∧
        (t.dev.chkUnit unit).queue = [] ∧ t.dev.flag (Reg.chkStatus unit) F.chkStatus_busy = false ∧
        s.dev.ShowsOnly t.dev (.read fn (Reg.chkResult unit) ((s.dev.chkSpec unit).result (t.dev.chkUnit unit).crc % 2 ^ 32)) ∧
        t = { s with dev := { s.dev with regs := t.dev.regs, chk := t.dev.chk, out := t.dev.out } }) ∧
  ((∀ (s : State) (fn value : Nat), s.dev.mayWrite fn Reg.rplCtl = true →
      F.rplCtl_replay.get (BitVec.ofNat 32 value) ≠ s.dev.fld Reg.rplCtl F.rplCtl_replay →
      ∃ t, exec (.rplCtlWrite fn value) s = .next t ∧ t.dev.out = s.dev.out ∧ t.mem = s.mem ∧
        t.dev.flag Reg.rplCtl F.rplCtl_pace = decide (F.rplCtl_pace.get (BitVec.ofNat 32 value) = 1) ∧
        if s.dev.benchIdle = true then
          t.dev.fld Reg.rplCtl F.rplCtl_replay = F.rplCtl_replay.get (BitVec.ofNat 32 value) ∧
            (F.rplCtl_replay.get (BitVec.ofNat 32 value) = 1 → t.dev.sync = 0 ∧ t.dev.stk.phase = 0 ∧
              t.dev.now = (s.dev.reg Reg.rplStartLo).toNat + (s.dev.reg Reg.rplStartHi).toNat * 2 ^ 32) ∧
            (F.rplCtl_replay.get (BitVec.ofNat 32 value) = 0 → t.dev.stk = s.dev.stk)
        else t.dev.flag Reg.rplCtl F.rplCtl_refused = true ∧ t.dev.fld Reg.rplCtl F.rplCtl_replay = s.dev.fld Reg.rplCtl F.rplCtl_replay ∧
          s.RegsOnly t [Reg.rplCtl]) ∧
    ∀ (s : State) (fn value : Nat), s.dev.mayWrite fn Reg.rplStep = true →
      ∃ t, exec (.rplStepWrite fn value) s = .next t ∧ s.RegsOnly t [Reg.rplStatus] ∧
        t.dev.fld Reg.rplStatus F.rplStatus_pending = min 255 (s.dev.fld Reg.rplStatus F.rplStatus_pending + value % 65536))

/-! ## Lanes, traffic, time and paths -/

/-- R332, R337–R341: a locked lane that loses lock starts warm from a valid snapshot, and cold without one or within 1 s of a warm relock,
with the snapshot invalid; its port goes down. A warm relock that has not locked in time goes cold. A lane that locks shows it, and a warm
relock is counted. A port whose lanes are locked comes up and accepts egress from the next boundary; negotiation that is done shows the FEC.
A write of ADAPT 2 starts the lane cold. -/
def Obligations.LanesStart : Prop :=
  (∀ (s : State) (lane ns : Nat), lane < 64 → s.dev.laneState lane = 3 →
    let x := s.dev.lane lane
    let warm := x.snap.isSome && !(x.warmAt.any fun w => decide (s.dev.localNs ns < w + 1000000000))
    ∃ t, exec (.laneLockLoss lane ns) s = .next t ∧
      t = { s with dev := { s.dev with regs := t.dev.regs, lan := t.dev.lan, egs := t.dev.egs, hif := t.dev.hif, out := t.dev.out
                                       log := t.dev.log, free := t.dev.free } } ∧
      t.dev.laneState lane = (if warm = true then 4 else if s.dev.trains lane = true then 2 else 1) ∧
      t.dev.flag (Reg.laneStatus lane) F.laneStatus_blockLock = false ∧ t.dev.flag (Reg.laneStatus lane) F.laneStatus_cdrLock = false ∧
      t.dev.flag (Reg.laneStatus lane) F.laneStatus_frozen = false ∧ (t.dev.lane lane).lost = some (s.dev.localNs ns) ∧
      t.dev.linkUp (s.dev.laneMac lane) = false ∧ (∀ l, l ≠ lane → t.dev.lane l = s.dev.lane l) ∧
      if warm = true then x.snap = some (t.dev.lane lane).eq ∧ (t.dev.lane lane).snap = x.snap
      else (t.dev.lane lane).snap = none ∧ t.dev.flag (Reg.laneStatus lane) F.laneStatus_snapValid = false ∧
        t.dev.fld (Reg.laneCnt lane) F.laneCnt_coldStarts = (s.dev.fld (Reg.laneCnt lane) F.laneCnt_coldStarts + 1) % 256) ∧
  (∀ (s : State) (lane : Nat), lane < 64 → s.dev.laneState lane = 4 →
    ∃ t, exec (.warmRelockTimeout lane) s = .next t ∧ t.dev.laneState lane = (if s.dev.trains lane = true then 2 else 1) ∧
      (t.dev.lane lane).snap = none ∧ (t.dev.lane lane).lost = (s.dev.lane lane).lost ∧
      t.dev.fld (Reg.laneCnt lane) F.laneCnt_coldStarts = (s.dev.fld (Reg.laneCnt lane) F.laneCnt_coldStarts + 1) % 256 ∧
      t = { s with dev := { s.dev with regs := t.dev.regs, lan := t.dev.lan, free := t.dev.free } }) ∧
  (∀ (s : State) (lane ns margin : Nat), lane < 64 → s.dev.laneState lane ∈ [1, 2, 4] →
    ∃ t, exec (.laneLock lane ns margin) s = .next t ∧ t.dev.laneState lane = 3 ∧
      t.dev.flag (Reg.laneStatus lane) F.laneStatus_blockLock = true ∧ t.dev.flag (Reg.laneStatus lane) F.laneStatus_cdrLock = true ∧
      (t.dev.lane lane).lost = none ∧ (t.dev.lane lane).snap = (s.dev.lane lane).snap ∧ (t.dev.lane lane).eq = (s.dev.lane lane).eq ∧
      (∀ l, l ≠ lane → t.dev.lane l = s.dev.lane l) ∧
      t = { s with dev := { s.dev with regs := t.dev.regs, lan := t.dev.lan, hif := t.dev.hif, out := t.dev.out, log := t.dev.log } } ∧
      if s.dev.laneState lane = 4 ∧ (s.dev.lane lane).lost.isSome = true then
        (t.dev.lane lane).warmAt = some (s.dev.localNs ns) ∧
          t.dev.fld (Reg.laneCnt lane) F.laneCnt_relocks = (s.dev.fld (Reg.laneCnt lane) F.laneCnt_relocks + 1) % 65536
      else (t.dev.lane lane).warmAt = (s.dev.lane lane).warmAt ∧ t.dev.reg (Reg.laneCnt lane) = s.dev.reg (Reg.laneCnt lane)) ∧
  (∀ (s : State) (group sub : Nat), group < 16 → sub < 4 → s.dev.canUp (4 * group + sub) = true →
    let m := 4 * group + sub
    ∃ t, exec (.portUp group sub) s = .next t ∧ t.dev.linkUp m = true ∧
      t.dev.flag (Reg.portMacStatus m) F.portMacStatus_localFault = false ∧ Tab.get zero t.dev.lan.upFrom m = s.dev.now + 2 ∧
      (s.dev.negotiates m = false → t.dev.fld (Reg.portMacStatus m) F.portMacStatus_fec = s.dev.plainFec m) ∧
      t.dev.flag (Reg.portGroupStatus group) F.portGroupStatus_aligned = decide (s.dev.groupMode group = 0) ∧
      (∀ k, k ≠ m → k < 64 → t.dev.linkUp k = s.dev.linkUp k) ∧
      t = { s with dev := { s.dev with regs := t.dev.regs, lan := t.dev.lan, hif := t.dev.hif, log := t.dev.log } }) ∧
  (∀ (s : State) (group sub fec : Nat), group < 16 → sub < 4 → s.dev.laneOn (4 * group + sub) = true →
    s.dev.negotiates (4 * group + sub) = true → (s.dev.groupMode group = 1 ∨ sub = 0) →
    let m := 4 * group + sub
    ∃ t, exec (.anComplete group sub fec) s = .next t ∧ t.dev.flag (Reg.portMacStatus m) F.portMacStatus_anDone = true ∧
      t.dev.fld (Reg.portMacStatus m) F.portMacStatus_fec = (if s.dev.groupMode group = 0 then 3 else fec % 4) ∧
      s.dev.KeepsRegs t.dev ([Reg.portMacStatus m, Reg.portGroupStatus group] ++ (s.dev.portLanes m).map Reg.laneAdapt) ∧
      t = { s with dev := { s.dev with regs := t.dev.regs, free := t.dev.free } }) ∧
  ∀ (s : State) (fn lane value : Nat), lane < 64 → s.dev.mayWrite fn (Reg.laneCtl lane) = true →
    F.laneCtl_adapt.get (BitVec.ofNat 32 value) = 2 → s.dev.laneOn lane = true → s.dev.groupMode (lane / 4) ≠ 2 →
    ∃ t, exec (.laneRestartCold fn lane value) s = .next t ∧ t.dev.fld (Reg.laneCtl lane) F.laneCtl_adapt = 0 ∧
      t.dev.laneState lane = (if s.dev.trains lane = true then 2 else 1) ∧ (t.dev.lane lane).snap = none ∧
      t.dev.linkUp (s.dev.laneMac lane) = false ∧
      t.dev.fld (Reg.laneCnt lane) F.laneCnt_coldStarts = (s.dev.fld (Reg.laneCnt lane) F.laneCnt_coldStarts + 1) % 256 ∧
      (∀ l, l ≠ lane → t.dev.lane l = s.dev.lane l) ∧ t.mem = s.mem

/-- R328, R329, R333–R336, R344–R346, R354: a margin sample is shown; below MARGIN_MIN a frozen lane loads its snapshot, keeps its lock
and counts a revert; the 1,000th good sample makes the snapshot. The end of an idle window shows the share and freezes or unfreezes guarded
lanes. SAVE stores every valid snapshot, or waits while writes are held. In TEST the generator, the checker and injection are as written;
the checker locks, in near-end loopback where the generator sends its own pattern (R347), and a loss adds its errors. A read of a counter's low word latches the high one. -/
def Obligations.LanesSample : Prop :=
  (∀ (s : State) (lane margin after : Nat), lane < 64 → s.dev.laneState lane ≠ 3 →
    ∃ t, exec (.marginSample lane margin after) s = .next t ∧ s.dev.KeepsRegs t.dev [Reg.laneStatus lane] ∧
      t = { s with dev := { s.dev with regs := t.dev.regs, lan := t.dev.lan } } ∧ (∀ l, t.dev.lane l = s.dev.lane l) ∧
      Tab.get fullMargin t.dev.lan.margins lane = min (min margin 255) (Tab.get fullMargin s.dev.lan.margins lane) ∧
      t.dev.fld (Reg.laneStatus lane) F.laneStatus_margin = min margin 255 ∧ t.dev.laneState lane = s.dev.laneState lane) ∧
  (∀ (s : State) (lane margin after eq : Nat), lane < 64 → s.dev.laneState lane = 3 →
    (s.dev.flag (Reg.laneStatus lane) F.laneStatus_frozen = true ∨ s.dev.fld (Reg.laneCtl lane) F.laneCtl_adapt = 1) →
    margin < s.dev.fld (Reg.laneGuard lane) F.laneGuard_marginMin → (s.dev.lane lane).snap = some eq → s.dev.revertBarred lane = false →
    ∃ t, exec (.marginSample lane margin after) s = .next t ∧ (t.dev.lane lane).eq = eq ∧ (t.dev.lane lane).snap = some eq ∧
      (t.dev.lane lane).revertAt = some s.dev.now ∧ t.dev.laneState lane = 3 ∧
      t.dev.flag (Reg.laneStatus lane) F.laneStatus_frozen = s.dev.flag (Reg.laneStatus lane) F.laneStatus_frozen ∧
      t.dev.fld (Reg.laneStatus lane) F.laneStatus_margin = margin ∧
      t.dev.fld (Reg.laneCnt lane) F.laneCnt_reverts = (s.dev.fld (Reg.laneCnt lane) F.laneCnt_reverts + 1) % 256 ∧
      (∀ m < 64, t.dev.linkUp m = s.dev.linkUp m) ∧
      t = { s with dev := { s.dev with regs := t.dev.regs, lan := t.dev.lan, hif := t.dev.hif, out := t.dev.out, log := t.dev.log } }) ∧
  (∀ (s : State) (lane margin after : Nat), lane < 64 → s.dev.laneState lane = 3 →
    s.dev.flag (Reg.laneStatus lane) F.laneStatus_frozen = false → s.dev.fld (Reg.laneCtl lane) F.laneCtl_adapt = 0 →
    (s.dev.lane lane).run = 999 →
    ((s.dev.lane lane).snap = none ∨ s.dev.fld (Reg.laneStatus lane) F.laneStatus_snapMargin ≤ min margin 255) →
    ∃ t, exec (.marginSample lane margin after) s = .next t ∧ (t.dev.lane lane).snap = some (s.dev.lane lane).eq ∧
      (t.dev.lane lane).run = 0 ∧ t.dev.flag (Reg.laneStatus lane) F.laneStatus_snapValid = true ∧
      t.dev.fld (Reg.laneStatus lane) F.laneStatus_snapMargin = min (s.dev.lane lane).least (min margin 255) ∧
      t.dev.laneState lane = 3 ∧ s.dev.KeepsRegs t.dev [Reg.laneStatus lane, Reg.laneAdapt lane] ∧
      t = { s with dev := { s.dev with regs := t.dev.regs, lan := t.dev.lan, free := t.dev.free } }) ∧
  (∀ (s : State) (lane idle : Nat), lane < 64 → idle ≤ 65536 →
    ∃ t, exec (.idleWindowEnd lane idle) s = .next t ∧ s.RegsOnly t ((s.dev.portLanes lane).map Reg.laneStatus) ∧
      ∀ l ∈ s.dev.portLanes lane, t.dev.fld (Reg.laneStatus l) F.laneStatus_idlePct = idle * 100 / 65536 ∧
        t.dev.laneState l = s.dev.laneState l ∧
        t.dev.flag (Reg.laneStatus l) F.laneStatus_frozen =
          (if s.dev.flag (Reg.laneGuard l) F.laneGuard_guardEn = true then
            decide (62260 ≤ idle) || (decide (58982 < idle) && s.dev.flag (Reg.laneStatus l) F.laneStatus_frozen)
          else s.dev.flag (Reg.laneStatus l) F.laneStatus_frozen)) ∧
  (∀ (s : State) (fn value : Nat), s.dev.mayWrite fn Reg.laneSnapCtl = true → value % 2 = 1 →
    s.dev.flag Reg.laneSnapCtl F.laneSnapCtl_save = false →
    let l := (List.range 64).filterMap fun l =>
      ((s.dev.lane l).snap).map fun eq => (l, s.dev.laneMode l, eq, s.dev.fld (Reg.laneStatus l) F.laneStatus_snapMargin)
    ∃ t, exec (.laneSnapSave fn value) s = .next t ∧ s.dev.KeepsRegs t.dev [Reg.laneSnapCtl] ∧
      t.dev.flag Reg.laneSnapCtl F.laneSnapCtl_save = s.dev.nvmHeld ∧ t.dev.flag Reg.laneSnapCtl F.laneSnapCtl_busy = s.dev.nvmHeld ∧
      t = { s with dev := { s.dev with
        regs := t.dev.regs
        nvm := if s.dev.nvmHeld = true then { s.dev.nvm with saves := s.dev.nvm.saves ++ [.snapshots l] }
          else { s.dev.nvm with snapshots := l } } }) ∧
  (∀ (s : State) (fn lane value : Nat), lane < 64 → s.dev.mayWrite fn (Reg.laneTest lane) = true → s.dev.groupMode (lane / 4) = 2 →
    let w := BitVec.ofNat 32 value
    let n := F.laneTest_injParam.get w
    ∀ c, c = Instr.laneTestWrite fn lane value ∨ c = Instr.injGo fn lane value →
    ∃ t, exec c s = .next t ∧
      t.dev.fld (Reg.laneTest lane) F.laneTest_gen =
        (if F.laneTest_gen.get w = 7 then s.dev.fld (Reg.laneTest lane) F.laneTest_gen else F.laneTest_gen.get w) ∧
      t.dev.fld (Reg.laneTest lane) F.laneTest_chk =
        (if F.laneTest_chk.get w = 7 then s.dev.fld (Reg.laneTest lane) F.laneTest_chk else F.laneTest_chk.get w) ∧
      t.dev.fld (Reg.laneTest lane) F.laneTest_inj = F.laneTest_inj.get w ∧ t.dev.fld (Reg.laneTest lane) F.laneTest_injParam = n ∧
      (F.laneTest_chk.get w ≠ 7 → t.dev.reg (Reg.laneChkErr lane) = 0) ∧
      s.dev.KeepsRegs t.dev [Reg.laneTest lane, Reg.laneChkErr lane] ∧
      t = { s with dev := { s.dev with regs := t.dev.regs, lan := t.dev.lan, out := t.dev.out } } ∧
      (F.laneTest_injGo.get w = 0 → t.dev.out = s.dev.out) ∧ (F.laneTest_inj.get w = 0 → t.dev.out = s.dev.out ∧ (t.dev.lane lane).rate = none) ∧
      (F.laneTest_injGo.get w = 1 → F.laneTest_inj.get w = 1 → s.dev.ShowsOnly t.dev (.inject lane 1 1)) ∧
      (F.laneTest_injGo.get w = 1 → F.laneTest_inj.get w = 2 → 1 ≤ n → s.dev.ShowsOnly t.dev (.inject lane 2 n)) ∧
      (F.laneTest_injGo.get w = 1 → F.laneTest_inj.get w = 3 → 4 ≤ n → n ≤ 40 →
        s.dev.ShowsOnly t.dev (.inject lane 3 n) ∧ (t.dev.lane lane).rate = some n)) ∧
  (∀ (s : State) (lane : Nat), lane < 64 → s.dev.laneState lane = 5 → s.dev.fld (Reg.laneTest lane) F.laneTest_chk ≠ 0 →
    (∀ gen, s.dev.laneHears lane = some gen → gen = s.dev.fld (Reg.laneTest lane) F.laneTest_chk) →
    ∃ t, exec (.checkerLock lane) s = .next t ∧ s.RegsOnly t [Reg.laneChkErr lane] ∧
      t.dev.flag (Reg.laneChkErr lane) F.laneChkErr_chkLock = true ∧
      t.dev.fld (Reg.laneChkErr lane) F.laneChkErr_errors = s.dev.fld (Reg.laneChkErr lane) F.laneChkErr_errors) ∧
  (∀ (s : State) (lane errors : Nat), lane < 64 → s.dev.flag (Reg.laneChkErr lane) F.laneChkErr_chkLock = true →
    ∃ t, exec (.checkerLockLoss lane errors) s = .next t ∧ s.RegsOnly t [Reg.laneChkErr lane] ∧
      t.dev.flag (Reg.laneChkErr lane) F.laneChkErr_chkLock = false ∧
      t.dev.fld (Reg.laneChkErr lane) F.laneChkErr_errors =
        min (2 ^ 31 - 1) (s.dev.fld (Reg.laneChkErr lane) F.laneChkErr_errors + errors)) ∧
  ∀ (s : State) (fn mac counter : Nat), mac < 64 → counter < 11 → s.dev.sees fn (Reg.portMacCntLo mac counter) = true →
    ∃ t, exec (.macCounterLoRead fn mac counter) s = .next t ∧
      s.dev.ShowsOnly t.dev (.read fn (Reg.portMacCntLo mac counter) (s.dev.reg (Reg.portMacCntLo mac counter)).toNat) ∧
      Tab.get (fun _ => none) t.dev.latch (Reg.portMacCntHi mac counter) = some (s.dev.reg (Reg.portMacCntHi mac counter)).toNat ∧
      t = { s with dev := { s.dev with latch := t.dev.latch, out := t.dev.out } }

/-- R348, R349, R356, R358, R365, R366, R368–R370, R379: a frame whose FCS is wrong, or whose length is outside the limits, is dropped and
counted; one that no classifier entry takes counts as a miss; PAUSE stops the transmitter or is counted. A key lost is counted and no longer
waited for. The first frame laid out leaves when its time has come, and the first control frame when its gate, its buckets and the layout
let it; each debits the buckets on its path. A gate interval that ends gives way to the next entry, and a pending list takes over at its
time. REHASH starts the build of the classifier. -/
def Obligations.Traffic : Prop :=
  (∀ (s : State) (mac ns : Nat) (f : EthFrame), mac < 64 → s.dev.inReset 4 = false → s.dev.linkUp mac = true → f.fcsOk = false →
    ∃ t, exec (.ethFrameReceive mac f ns) s = .next t ∧
      s.dev.KeepsRegs t.dev [Reg.portMacCntLo mac 2, Reg.portMacCntHi mac 2] ∧
      (t.dev.reg (Reg.portMacCntLo mac 2)).toNat + (t.dev.reg (Reg.portMacCntHi mac 2)).toNat * 2 ^ 32 =
        ((s.dev.reg (Reg.portMacCntLo mac 2)).toNat + (s.dev.reg (Reg.portMacCntHi mac 2)).toNat * 2 ^ 32 + 1) % 2 ^ 64 ∧
      t = { s with dev := { s.dev with regs := t.dev.regs, stk := { s.dev.stk with phase := ns } } }) ∧
  (∀ (s : State) (mac ns : Nat) (f : EthFrame), mac < 64 → s.dev.inReset 4 = false → s.dev.linkUp mac = true → f.fcsOk = true →
    (f.bytes < 64 ∨ s.dev.fld (Reg.portMacCtl mac) F.portMacCtl_maxFrame + 4 * bit f.tag.isSome < f.bytes) →
    ∃ t, exec (.ethFrameReceive mac f ns) s = .next t ∧
      s.dev.KeepsRegs t.dev [Reg.portMacCntLo mac 3, Reg.portMacCntHi mac 3] ∧
      (t.dev.reg (Reg.portMacCntLo mac 3)).toNat + (t.dev.reg (Reg.portMacCntHi mac 3)).toNat * 2 ^ 32 =
        ((s.dev.reg (Reg.portMacCntLo mac 3)).toNat + (s.dev.reg (Reg.portMacCntHi mac 3)).toNat * 2 ^ 32 + 1) % 2 ^ 64 ∧
      t = { s with dev := { s.dev with regs := t.dev.regs, stk := { s.dev.stk with phase := ns } } }) ∧
  (∀ (s : State) (mac ns : Nat) (f : EthFrame), mac < 64 → s.dev.inReset 4 = false → s.dev.linkUp mac = true → f.fcsOk = true →
    64 ≤ f.bytes → f.bytes ≤ s.dev.fld (Reg.portMacCtl mac) F.portMacCtl_maxFrame → f.tag = none → s.dev.accepts mac f.da = true →
    (∀ (ver src dst dport ssrc seq ts : Nat) (marker : Bool) (payload : Nat) (authOk : Bool) (media : Media),
      f.body = .ip ver src dst dport false true ssrc seq ts marker payload authOk media →
      s.dev.classify mac f ver src dst dport = none → s.dev.flag (Reg.portMacsecCfg mac) F.portMacsecCfg_enable = false →
      ∃ t, exec (.ethFrameReceive mac f ns) s = .next t ∧
        t.dev.fld Reg.egsClsMiss F.egsClsMiss_misses = (s.dev.fld Reg.egsClsMiss F.egsClsMiss_misses + 1) % 2 ^ 32 ∧
        s.dev.KeepsRegs t.dev [Reg.egsClsMiss, Reg.portMacCntLo mac 0, Reg.portMacCntHi mac 0, Reg.portMacCntLo mac 1,
          Reg.portMacCntHi mac 1] ∧
        t = { s with dev := { s.dev with regs := t.dev.regs, stk := { s.dev.stk with phase := ns } } }) ∧
    ∀ quanta : Nat, f.body = .pause quanta → s.dev.flag (Reg.portMacCtl mac) F.portMacCtl_pauseRx = true →
      ∃ t, exec (.ethFrameReceive mac f ns) s = .next t ∧
        Tab.get zero t.dev.pth.paused mac = s.dev.localNs ns + cdiv (quanta % 65536 * 64 * s.dev.byteTime mac) 1000 ∧
        (∀ m, m ≠ mac → Tab.get zero t.dev.pth.paused m = Tab.get zero s.dev.pth.paused m) ∧
        s.dev.KeepsRegs t.dev [Reg.portMacCntLo mac 0, Reg.portMacCntHi mac 0, Reg.portMacCntLo mac 1, Reg.portMacCntHi mac 1] ∧
        t = { s with dev := { s.dev with regs := t.dev.regs, pth := t.dev.pth, stk := { s.dev.stk with phase := ns } } }) ∧
  (∀ (s : State) (flow key : Nat) (e : MergeKey), e ∈ (s.dev.merge flow).keys → e.path ≠ 2 → key < e.key →
    e.at_ + s.dev.window flow < (s.dev.now + 1) * 125000 → (∀ k ∈ (s.dev.merge flow).keys, k.key ≠ key) →
    ∃ t, exec (.mergeKeyLost flow key) s = .next t ∧ (t.dev.merge flow).lost = (s.dev.merge flow).lost + 1 ∧
      (t.dev.merge flow).high = (s.dev.merge flow).high ∧
      (∀ k, (∃ x ∈ (t.dev.merge flow).keys, x.key = k) ↔ k = key ∨ ∃ x ∈ (s.dev.merge flow).keys, x.key = k) ∧
      (∀ bits k mac crc n, unwrapKey bits (t.dev.merge flow).high k = key →
        s.dev.fld (Reg.pathFlowCfg flow) F.pathFlowCfg_single ≠ 2 - mac / 32 →
        (t.dev.mergeCandidate flow bits k mac crc n).2 = .discard ∧
          ((t.dev.mergeCandidate flow bits k mac crc n).1.merge flow).late = (t.dev.merge flow).late + 1) ∧
      (∀ f, f ≠ flow → t.dev.merge f = s.dev.merge f) ∧ t = { s with dev := { s.dev with pth := t.dev.pth } }) ∧
  (∀ (s : State) (port ns : Nat) (x : LiveFrame) (r : List LiveFrame), port < 64 → Tab.get noList s.dev.egs.layout port = x :: r →
    s.dev.linkUp port = true → s.dev.isPaused port (s.dev.localNs ns) = false → x.start ≤ ns * 1000 + 999 →
    Tab.get zero s.dev.egs.busy port ≤ s.dev.localNs ns * 1000 + 999 → s.dev.flag (Reg.portMacsecCfg port) F.portMacsecCfg_enable = false →
    ∃ t, exec (.liveFrameLaunch port ns) s = .next t ∧ Tab.get noList t.dev.egs.layout port = r ∧
      (∀ m, m ≠ port → Tab.get noList t.dev.egs.layout m = Tab.get noList s.dev.egs.layout m) ∧
      Tab.get zero t.dev.egs.busy port = s.dev.localNs ns * 1000 + x.length * s.dev.byteTime port ∧
      s.dev.ShowsOnly t.dev (.frame port x.queue ([(s.dev.fld (Reg.egsEqRtp x.queue) F.egsEqRtp_seq0 + x.no) % 65536, x.bytes] ++ s.dev.headerOf port x)) ∧
      (∀ rate, (s.dev.bucketOf port).1 = some rate → t.dev.bucketLevel port (s.dev.localNs ns) =
        s.dev.bucketLevel port (s.dev.localNs ns) - ((x.length * 8000000 : Nat) : Int)) ∧
      s.dev.KeepsRegs t.dev [Reg.portMacCntLo port 4, Reg.portMacCntHi port 4, Reg.portMacCntLo port 5, Reg.portMacCntHi port 5] ∧
      t = { s with dev := { s.dev with regs := t.dev.regs, egs := t.dev.egs, out := t.dev.out
                                       stk := { s.dev.stk with phase := ns } } }) ∧
  (∀ (s : State) (port ns bytes : Nat) (r : List (Nat × Option Desc × List Nat)) (content : List Nat), port < 64 →
    Tab.get noList s.dev.egs.control port = (bytes, none, content) :: r → s.dev.takesEgress port = true →
    s.dev.isPaused port (s.dev.localNs ns) = false → Tab.get zero s.dev.egs.busy port ≤ s.dev.localNs ns * 1000 →
    (s.dev.gates port).active = none → Tab.get noList s.dev.egs.layout port = [] →
    0 ≤ s.dev.bucketLevel port (s.dev.localNs ns) →
    0 ≤ s.dev.bucketLevel (64 + 8 * port + s.dev.fld (Reg.egsPortCfg port) F.egsPortCfg_ctrlTc) (s.dev.localNs ns) →
    countedLength s.dev.reg port bytes * s.dev.byteTime port ≤ 2 ^ 40 * 1000 →
    s.dev.flag (Reg.portMacsecCfg port) F.portMacsecCfg_enable = false →
    ∃ t, exec (.controlFrameLaunch port ns) s = .next t ∧ Tab.get noList t.dev.egs.control port = r ∧
      (∀ m, m ≠ port → Tab.get noList t.dev.egs.control m = Tab.get noList s.dev.egs.control m) ∧
      Tab.get zero t.dev.egs.busy port = s.dev.localNs ns * 1000 + countedLength s.dev.reg port bytes * s.dev.byteTime port ∧
      s.dev.ShowsOnly t.dev (.frame port 4096 (bytes :: content)) ∧
      s.dev.KeepsRegs t.dev [Reg.portMacCntLo port 4, Reg.portMacCntHi port 4, Reg.portMacCntLo port 5, Reg.portMacCntHi port 5] ∧
      t = { s with dev := { s.dev with regs := t.dev.regs, egs := t.dev.egs, out := t.dev.out
                                       stk := { s.dev.stk with phase := ns } } }) ∧
  (∀ (s : State) (port : Nat) (l : GateList), (s.dev.gates port).active = some l → (s.dev.gates port).ends < (s.dev.now + 1) * 125000 →
    let i := ((s.dev.gates port).entry + 1) % max 1 l.entries.length
    ∃ t, exec (.gateIntervalEnd port) s = .next t ∧
      t.dev.gates port = { s.dev.gates port with entry := i, ends := (s.dev.gates port).ends + (l.entries.getD i (0, 0)).2 } ∧
      (∀ m, m ≠ port → t.dev.gates m = s.dev.gates m) ∧ t = { s with dev := { s.dev with egs := t.dev.egs } }) ∧
  (∀ (s : State) (port at_ : Nat) (l : GateList), port < 64 → (s.dev.gates port).pending = some (l, at_) → at_ < (s.dev.now + 1) * 125000 →
    ∃ t, exec (.gateListTakeover port) s = .next t ∧ (t.dev.gates port).active = some l ∧ (t.dev.gates port).pending = none ∧
      (∀ m, m ≠ port → t.dev.gates m = s.dev.gates m) ∧
      (l.base ≤ at_ → (at_ - l.base) % l.cycle = 0 → (∃ e es, l.entries = e :: es ∧ 0 < e.2) →
        (t.dev.gates port).entry = 0 ∧ (t.dev.gates port).ends = at_ + (l.entries.getD 0 (0, 0)).2) ∧
      t.dev.fld (Reg.egsGclStatus port) F.egsGclStatus_state = 1 ∧
      s.dev.KeepsRegs t.dev [Reg.egsGclStatus port] ∧ t = { s with dev := { s.dev with regs := t.dev.regs, egs := t.dev.egs } }) ∧
  ∀ (s : State) (fn value : Nat), s.dev.mayWrite fn Reg.egsClsCfg = true → s.dev.stk.banks ≠ [] →
    ∃ t, exec (.rehashWrite fn value) s = .next t ∧
      t.dev.fld Reg.egsClsCfg F.egsClsCfg_rehashAt =
        (if 1 ≤ value % 128 ∧ value % 128 ≤ 64 then value % 128 else s.dev.fld Reg.egsClsCfg F.egsClsCfg_rehashAt) ∧
      s.dev.KeepsRegs t.dev [Reg.egsClsCfg] ∧ (∀ i, i ≠ 0 → t.dev.bank i = s.dev.bank i) ∧
      (if bitAt value 31 = true then t.dev.bank 0 =
        { state := 1, before := (s.dev.bank 0).before ++ (s.dev.bank 0).since, since := [], rehash := true }
      else t.dev.bank 0 = s.dev.bank 0) ∧
      t = { s with dev := { s.dev with regs := t.dev.regs, stk := { s.dev.stk with banks := t.dev.stk.banks } } }

/-- R395–R398, R405–R408: TIME_ADJ steps the clock while nothing live is admitted, and is refused otherwise; a base increment written is
taken under EXPERT alone, and the effective one keeps the bound of R396; the correction is interpolated from the table. A timed output goes
to its active level at each edge and back at the pulse's end, as PPS_OUT does. An edge that is selected is captured, or counted when the
FIFO is full; a read of TIME_IN_NS pops it, and a read of TIME_NOW_NS latches the seconds. -/
def Obligations.LocalClock : Prop :=
  (∀ (s : State) (fn value : Nat), s.dev.mayWrite fn Reg.timeAdj = true → bitAt value 31 = true →
    let ns := (s.dev.reg Reg.timeAdjNs).toNat % 2 ^ 30
    let sec := (s.dev.reg Reg.timeAdjSecLo).toNat + (s.dev.reg Reg.timeAdjSecHi).toNat % 65536 * 2 ^ 32
    ∃ t, exec (.timeAdjGo fn value) s = .next t ∧ t.dev.fld Reg.timeAdj F.timeAdj_mode = value / 2 ^ 30 % 2 ∧
      t = { s with dev := { s.dev with regs := t.dev.regs, stk := t.dev.stk, tim := t.dev.tim, hif := t.dev.hif, log := t.dev.log } } ∧
      if s.dev.live = true then t.dev.flag Reg.timeStatus F.timeStatus_adjRefused = true ∧ s.RegsOnly t [Reg.timeAdj, Reg.timeStatus]
      else t.dev.nowNs = (if value / 2 ^ 30 % 2 = 1 then sec * 1000000000 + ns
          else ((s.dev.nowNs : Int) + signed 48 sec * 1000000000 + signed 30 ns).toNat) ∧
        t.dev.fld Reg.timeStatus F.timeStatus_steps = (s.dev.fld Reg.timeStatus F.timeStatus_steps + 1) % 65536) ∧
  (∀ (s : State) (fn offset value : Nat), s.dev.basicServo = true → exec (.timeIncWrite fn offset value) s = .next s) ∧
  (∀ (s : State) (fn offset value : Nat), s.dev.basicServo = false → s.dev.mayWrite fn offset = true →
    offset = Reg.timeIncInt ∨ offset = Reg.timeIncFrac →
    ∃ t, exec (.timeIncWrite fn offset value) s = .next t ∧
      t.dev.reg offset = BitVec.ofNat 32 (if offset = Reg.timeIncInt then value % 16 else value) ∧
      (t.dev.reg Reg.timeIncEff).toInt = max (-s.dev.incBound) (min s.dev.incBound ((t.dev.baseInc : Int) - 2 ^ 33 + s.dev.tim.corr)) ∧
      s.RegsOnly t [offset, Reg.timeIncEff, Reg.timeStatus]) ∧
  (∀ s : State, let x := signed 12 (s.dev.fld (Reg.thmTs (s.dev.fld Reg.timeTcompCfg F.timeTcompCfg_tsSensor)) F.thmTs_temp) + 320
    ∃ t, exec .tcompUpdate s = .next t ∧
      (t.dev.reg Reg.timeIncEff).toInt = max (-s.dev.incBound) (min s.dev.incBound ((s.dev.baseInc : Int) - 2 ^ 33 + t.dev.tim.corr)) ∧
      s.dev.KeepsRegs t.dev [Reg.timeIncEff, Reg.timeStatus] ∧
      t = { s with dev := { s.dev with regs := t.dev.regs, tim := { s.dev.tim with corr := t.dev.tim.corr }, free := t.dev.free } } ∧
      (s.dev.flag Reg.timeCtl F.timeCtl_tcompEn = false → t.dev.tim.corr = 0) ∧
      (s.dev.flag Reg.timeCtl F.timeCtl_tcompEn = true → 0 ≤ x → x ≤ 1260 →
        let i := x.toNat / 20
        let r := x.toNat % 20
        t.dev.tim.corr = ppbToFrac (s.dev.tcompEntry i * ((20 - r : Nat) : Int) +
          if r = 0 then 0 else s.dev.tcompEntry (i + 1) * (r : Int)))) ∧
  (∀ (s : State) (n j : Nat), n < 8 → (s.dev.timeOut n).next = some j → s.dev.outEdge n j < (s.dev.now + 1) * 125000 →
    ∃ t, exec (.timedOutputEdge n) s = .next t ∧
      s.dev.ShowsOnly t.dev (.pin ("TIME_OUT_" ++ toString n) (true != s.dev.flag (Reg.timeOutCfg n) F.timeOutCfg_polarity)) ∧
      t.dev.timeOut n = ⟨if s.dev.outMode n = 2 then some (j + 1) else none, true,
        s.dev.outEdge n j + (s.dev.reg (Reg.timeOutWidth n)).toNat⟩ ∧ (∀ m, m ≠ n → t.dev.timeOut m = s.dev.timeOut m) ∧
      t = { s with dev := { s.dev with tim := t.dev.tim, out := t.dev.out } }) ∧
  (∀ (s : State) (n : Nat), n ≤ 8 → (s.dev.timeOut n).high = true → (s.dev.timeOut n).ends < (s.dev.now + 1) * 125000 →
    ∃ t, exec (.timedPulseEnd n) s = .next t ∧
      s.dev.ShowsOnly t.dev (if n = 8 then .pin "PPS_OUT" false
        else .pin ("TIME_OUT_" ++ toString n) (s.dev.flag (Reg.timeOutCfg n) F.timeOutCfg_polarity)) ∧
      t.dev.timeOut n = ⟨(s.dev.timeOut n).next, false, (s.dev.timeOut n).ends⟩ ∧ (∀ m, m ≠ n → t.dev.timeOut m = s.dev.timeOut m) ∧
      t = { s with dev := { s.dev with tim := t.dev.tim, out := t.dev.out } }) ∧
  (∀ s : State, s.dev.flag Reg.timePpsCfg F.timePpsCfg_outEn = true → s.dev.now % 8000 = 0 →
    ∃ t, exec .ppsOutEdge s = .next t ∧ s.dev.ShowsOnly t.dev (.pin "PPS_OUT" true) ∧ (t.dev.timeOut 8).high = true ∧
      (t.dev.timeOut 8).ends = s.dev.now * 125000 + s.dev.fld Reg.timePpsCfg F.timePpsCfg_widthMs * 1000000 ∧
      (∀ m, m ≠ 8 → t.dev.timeOut m = s.dev.timeOut m) ∧ t = { s with dev := { s.dev with tim := t.dev.tim, out := t.dev.out } }) ∧
  (∀ (s : State) (n ns : Nat) (falling : Bool), n < 5 → s.dev.inReset 2 = false →
    bitAt (s.dev.fld (Reg.timeInCfg n) F.timeInCfg_edge) (bit falling) = true →
    ¬(n = 4 ∧ falling = false ∧ s.dev.fld Reg.timeCtl F.timeCtl_source = 1) →
    ∃ t, exec (.timeInputEdge n falling ns) s = .next t ∧ s.dev.KeepsRegs t.dev [Reg.timeInCfg n] ∧
      t = { s with dev := { s.dev with regs := t.dev.regs, tim := t.dev.tim, stk := { s.dev.stk with phase := ns } } } ∧
      (∀ m, m ≠ n → t.dev.captures m = s.dev.captures m) ∧
      if (s.dev.captures n).length < 16 then t.dev.captures n = s.dev.captures n ++ [(s.dev.localNs ns, falling)] ∧
        t.dev.fld (Reg.timeInCfg n) F.timeInCfg_count = (s.dev.captures n).length + 1
      else t.dev.captures n = s.dev.captures n ∧
        t.dev.fld (Reg.timeInCfg n) F.timeInCfg_ovf = (s.dev.fld (Reg.timeInCfg n) F.timeInCfg_ovf + 1) % 256) ∧
  (∀ (s : State) (fn n : Nat), n < 5 → s.dev.sees fn (Reg.timeInNs n) = true →
    ∃ t, exec (.timeInNsRead fn n) s = .next t ∧
      match s.dev.captures n with
      | [] => s.dev.ShowsOnly t.dev (.read fn (Reg.timeInNs n) 0) ∧ t = { s with dev := { s.dev with out := t.dev.out } }
      | (x, falling) :: rest =>
        s.dev.ShowsOnly t.dev (.read fn (Reg.timeInNs n) (2 ^ 31 + bit falling * 2 ^ 30 + x % 1000000000)) ∧ t.dev.captures n = rest ∧
          t.dev.reg (Reg.timeInSecLo n) = BitVec.ofNat 32 (x / 1000000000) ∧
          t.dev.reg (Reg.timeInSecHi n) = BitVec.ofNat 32 (x / 1000000000 / 2 ^ 32 % 65536) ∧
          s.dev.KeepsRegs t.dev [Reg.timeInCfg n, Reg.timeInSecLo n, Reg.timeInSecHi n] ∧
          t = { s with dev := { s.dev with regs := t.dev.regs, tim := t.dev.tim, out := t.dev.out } }) ∧
  ∀ (s : State) (fn ns : Nat), s.dev.sees fn Reg.timeNowNs = true →
    ∃ t, exec (.timeNowNsRead fn ns) s = .next t ∧
      s.dev.ShowsOnly t.dev (.read fn Reg.timeNowNs (s.dev.localNs ns % 1000000000)) ∧
      t.dev.reg Reg.timeNowSecLo = BitVec.ofNat 32 (s.dev.localNs ns / 1000000000) ∧
      t.dev.reg Reg.timeNowSecHi = BitVec.ofNat 32 (s.dev.localNs ns / 1000000000 / 2 ^ 32 % 65536) ∧
      s.dev.KeepsRegs t.dev [Reg.timeNowNs, Reg.timeNowSecLo, Reg.timeNowSecHi, Reg.timeNowFrac] ∧
      t = { s with dev := { s.dev with regs := t.dev.regs, out := t.dev.out, free := t.dev.free, stk := { s.dev.stk with phase := ns } } }

/-- R385–R387, R389, R390, R399–R402: PTP messages of a side in use, in the device's domain, give it its best master and its measurements, and drive the servo on the active side from the
locked grandmaster; on any other instance they are dropped. A delay request joins the port's control frames. The servo fails over to the
standby, returns to the preferred side, enters and leaves PARTITION, and changes the grandmaster, as the sides stand; SYNC goes to HOLDOVER
when none is healthy. A health report shows each enabled port. -/
def Obligations.TwoPaths : Prop :=
  (∀ (s : State) (mac ns : Nat) (msg : PtpMessage), mac < 64 → s.dev.linkUp mac = true →
    (∀ i < 2, ¬(s.dev.sideMac i = mac ∧ s.dev.sideUsed i = true)) →
    ∃ t, exec (.ptpMessageReceive mac msg ns) s = .next t ∧ s.dev.KeepsRegs t.dev [Reg.portMacCntLo mac 3, Reg.portMacCntHi mac 3] ∧
      (t.dev.reg (Reg.portMacCntLo mac 3)).toNat + (t.dev.reg (Reg.portMacCntHi mac 3)).toNat * 2 ^ 32 =
        ((s.dev.reg (Reg.portMacCntLo mac 3)).toNat + (s.dev.reg (Reg.portMacCntHi mac 3)).toNat * 2 ^ 32 + 1) % 2 ^ 64 ∧
      t = { s with dev := { s.dev with regs := t.dev.regs, stk := { s.dev.stk with phase := ns } } }) ∧
  (∀ (s : State) (ns : Nat) (m : PtpMessage) (ps : Int), m.domain = s.dev.fld Reg.timeCtl F.timeCtl_domain → m.body = .sync ps →
    (s.dev.side s.dev.activeSide).best = some m.source →
    s.dev.ptpRuns = true → s.dev.linkUp (s.dev.sideMac s.dev.activeSide) = true → (s.dev.side s.dev.activeSide).gm = s.dev.gmLocked →
    let offset := s.dev.syncOffset s.dev.activeSide ps
    ∃ t, exec (.ptpMessageReceive (s.dev.sideMac s.dev.activeSide) m ns) s = .next t ∧
      t.dev.reg Reg.timeOffset = BitVec.ofInt 32 (max (-(2 ^ 31)) (min (2 ^ 31 - 1) (offset / 1000))) ∧
      (t.dev.side s.dev.activeSide).vlan = m.vlan ∧
      (t.dev.side s.dev.activeSide).sync = true ∧ (t.dev.side s.dev.activeSide).offset = offset ∧
      t.dev.tim.lockRun = (if offset.natAbs ≤ 1000 * s.dev.fld Reg.timeServoCfg F.timeServoCfg_lockNs then s.dev.tim.lockRun + 1 else 0) ∧
      (s.dev.sync = 0 → t.dev.sync = if 16 ≤ t.dev.tim.lockRun then 1 else 0) ∧
      (s.dev.basicServo = false → t.dev.baseInc = s.dev.baseInc) ∧
      t = { s with dev := { s.dev with regs := t.dev.regs, stk := t.dev.stk, tim := t.dev.tim, pth := t.dev.pth, hif := t.dev.hif
                                       log := t.dev.log, free := t.dev.free } }) ∧
  (∀ (s : State) (ns i : Nat) (m : PtpMessage) (ps : Int), i < 2 → s.dev.sideUsed i = true → s.dev.ptpRuns = true →
    s.dev.linkUp (s.dev.sideMac i) = true → m.domain = s.dev.fld Reg.timeCtl F.timeCtl_domain → m.body = .delayResp ps →
    (s.dev.side i).best = some m.source → s.dev.flag Reg.timeCtl F.timeCtl_mech = false →
    let v := s.dev.meanDelay i ps
    ∃ t, exec (.ptpMessageReceive (s.dev.sideMac i) m ns) s = .next t ∧ (t.dev.side i).delay = true ∧ (t.dev.side i).pathDelay = v ∧
      (i = s.dev.activeSide → t.dev.reg Reg.timePathDelay = BitVec.ofInt 32 (max (-(2 ^ 31)) (min (2 ^ 31 - 1) (v / 1000)))) ∧
      t = { s with dev := { s.dev with regs := t.dev.regs, pth := t.dev.pth, stk := { s.dev.stk with phase := ns } } }) ∧
  (∀ (s : State) (ns i : Nat) (m : PtpMessage) (a : Announce), i < 2 → s.dev.sideUsed i = true → s.dev.ptpRuns = true →
    s.dev.linkUp (s.dev.sideMac i) = true → m.domain = s.dev.fld Reg.timeCtl F.timeCtl_domain → m.body = .announce a →
    let x := ((s.dev.side i).hear s.dev.now m.source a).choose s.dev.now
    ∃ t, exec (.ptpMessageReceive (s.dev.sideMac i) m ns) s = .next t ∧ (t.dev.side i).masters = x.masters ∧ x.masters.length ≤
        max 8 (s.dev.side i).masters.length ∧ (t.dev.side i).gm = x.gm ∧
      (x.best = some m.source → (t.dev.side i).announce = true ∧ x.gm = a.gm ∧
        (s.dev.gmLocked = 0 → i = s.dev.activeSide → a.gm < 2 ^ 64 → t.dev.gmLocked = a.gm)) ∧
      t = { s with dev := { s.dev with regs := t.dev.regs, pth := t.dev.pth, tim := t.dev.tim, stk := { s.dev.stk with phase := ns } } }) ∧
  (∀ (s : State) (i : Nat), i < 2 → s.dev.sideUsed i = true → s.dev.ptpRuns = true → s.dev.linkUp (s.dev.sideMac i) = true →
    ∃ t, exec (.ptpDelayReqSend i) s = .next t ∧
      Tab.get noList t.dev.egs.control (s.dev.sideMac i) = Tab.get noList s.dev.egs.control (s.dev.sideMac i) ++
        [(s.dev.ptpBytes (if s.dev.flag Reg.timeCtl F.timeCtl_mech = true then 54 else 44) + 4 * bit (s.dev.side i).vlan.isSome, none, [])] ∧
      (∀ m, m ≠ s.dev.sideMac i → Tab.get noList t.dev.egs.control m = Tab.get noList s.dev.egs.control m) ∧
      t = { s with dev := { s.dev with egs := t.dev.egs } }) ∧
  (∀ (s : State) (i cause : Nat), i < 2 →
    ∃ t, exec (.sideHealthTimeout i cause) s = .next t ∧ t.dev.healthy i = false ∧
      (match cause with
        | 0 => (t.dev.side i).announce = false
        | 1 => (t.dev.side i).sync = false
        | _ => (t.dev.side i).delay = false) ∧
      s.dev.KeepsRegs t.dev [Reg.pathPtpStatus] ∧ t = { s with dev := { s.dev with regs := t.dev.regs, pth := t.dev.pth } }) ∧
  (∀ s : State, s.dev.ptpRuns = true → s.dev.healthy s.dev.activeSide = false → s.dev.healthy (1 - s.dev.activeSide) = true →
    (s.dev.side (1 - s.dev.activeSide)).gm = s.dev.gmLocked →
    ∃ t, exec .ptpFailover s = .next t ∧ t.dev.activeSide = 1 - s.dev.activeSide ∧ t.dev.gmLocked = s.dev.gmLocked ∧
      t.dev.reg Reg.timePathDelay = satNs (s.dev.side (1 - s.dev.activeSide)).pathDelay ∧
      t = { s with dev := { s.dev with regs := t.dev.regs, pth := t.dev.pth, hif := t.dev.hif, out := t.dev.out, log := t.dev.log } }) ∧
  (∀ (s : State) (w : Nat), s.dev.pth.wait = some w → s.dev.ptpRuns = true → w + 8000 * s.dev.wtr ≤ s.dev.now →
    s.dev.healthy s.dev.prefer = true → (s.dev.side s.dev.prefer).gm < 2 ^ 64 →
    ((s.dev.side s.dev.prefer).gm = s.dev.gmLocked ∨ s.dev.gmSettled = true) →
    ∃ t, exec .ptpRevert s = .next t ∧ t.dev.activeSide = s.dev.prefer ∧ t.dev.gmLocked = (s.dev.side s.dev.prefer).gm ∧
      t.dev.reg Reg.timePathDelay = satNs (s.dev.side s.dev.prefer).pathDelay ∧
      t = { s with dev := { s.dev with regs := t.dev.regs, pth := t.dev.pth, hif := t.dev.hif, out := t.dev.out, log := t.dev.log } }) ∧
  (∀ s : State, s.dev.ptpRuns = true → s.dev.partitioned = false → s.dev.healthy 0 = true → s.dev.healthy 1 = true →
    (s.dev.side 0).gm ≠ (s.dev.side 1).gm →
    ∃ t, exec .partitionEnter s = .next t ∧ t.dev.partitioned = true ∧ t.dev.activeSide = s.dev.activeSide ∧
      t.dev.gmLocked = s.dev.gmLocked ∧ t.dev.reg Reg.pathGmOtherLo = BitVec.ofNat 32 s.dev.otherGm ∧
      t.dev.reg Reg.pathGmOtherHi = BitVec.ofNat 32 (s.dev.otherGm / 2 ^ 32) ∧
      t = { s with dev := { s.dev with regs := t.dev.regs, hif := t.dev.hif, out := t.dev.out } }) ∧
  (∀ s : State, s.dev.partitioned = true → (s.dev.side 0).gm = (s.dev.side 1).gm →
    ∃ t, exec .partitionLeave s = .next t ∧ t.dev.partitioned = false ∧ t.dev.reg Reg.pathGmOtherLo = 0 ∧
      t.dev.reg Reg.pathGmOtherHi = 0 ∧ t.dev.gmLocked = s.dev.gmLocked ∧
      t = { s with dev := { s.dev with regs := t.dev.regs, hif := t.dev.hif, out := t.dev.out } }) ∧
  (∀ (s : State) (i : Nat), (s.dev.healthy (1 - s.dev.activeSide) = true ∧ i = 1 - s.dev.activeSide ∨
      s.dev.healthy (1 - s.dev.activeSide) = false ∧ s.dev.healthy s.dev.activeSide = true ∧ i = s.dev.activeSide) →
    s.dev.ptpRuns = true → s.dev.gmSettled = true → (s.dev.side i).gm < 2 ^ 64 →
    (∀ j < 2, s.dev.healthy j = true → (s.dev.side j).gm ≠ s.dev.gmLocked) →
    ∃ t, exec .gmChange s = .next t ∧ t.dev.gmLocked = (s.dev.side i).gm ∧ t.dev.activeSide = i ∧ t.dev.pth.lastGm = some s.dev.now ∧
      t = { s with dev := { s.dev with regs := t.dev.regs, pth := t.dev.pth, hif := t.dev.hif, out := t.dev.out } }) ∧
  (∀ s : State, s.dev.sync = 1 → s.dev.fld Reg.timeCtl F.timeCtl_source = 0 → s.dev.healthy 0 = false → s.dev.healthy 1 = false →
    s.dev.replay = false →
    ∃ t, exec .syncHoldover s = .next t ∧ t.dev.sync = 2 ∧ t.dev.fld Reg.timeStatus F.timeStatus_sync = 2 ∧
      t.dev.baseInc = (if s.dev.basicServo = true then meanInc s.dev.tim.hist s.dev.now s.dev.baseInc % 2 ^ 36 else s.dev.baseInc) ∧
      s.RegsOnly t [Reg.stkStatus, Reg.timeStatus, Reg.timeIncInt, Reg.timeIncFrac, Reg.timeIncEff]) ∧
  ∀ (s : State) (x : HealthFacts), s.dev.now % 8000 = 0 → s.dev.inReset 4 = false → x.mac < 64 →
    s.dev.flag (Reg.portMacCtl x.mac) F.portMacCtl_enable = true → (∀ p ∈ s.dev.pth.merges, p.1 < 4096) →
    (s.dev.pth.merges.map (·.1)).Nodup →
    ∃ t, exec (.healthReport [x]) s = .next t ∧
      t = { s with dev := { s.dev with regs := t.dev.regs, pth := t.dev.pth, hif := t.dev.hif, out := t.dev.out, lan := t.dev.lan } } ∧
      t.dev.lan = { s.dev.lan with margins := [] } ∧
      t.dev.fld (Reg.pathPortHealth x.mac) F.pathPortHealth_minMargin = s.dev.minMargin x.mac ∧
      t.dev.health x.mac = (if s.dev.linkUp x.mac = false then 2 else if (s.dev.healthCause x).1 ≠ 0 then 1
        else if s.dev.health x.mac = 1 ∧ Tab.get zero s.dev.pth.clean x.mac < 9 then 1 else 0) ∧
      (∀ m < 64, m ≠ x.mac → t.dev.health m = s.dev.health m) ∧
      (s.dev.linkUp x.mac = true → 0 < x.uncorrected → t.dev.fld (Reg.pathPortHealth x.mac) F.pathPortHealth_cause = 2) ∧
      t.dev.pth.pairs = [] ∧ t.dev.pth.mismatch = [] ∧ t.dev.pth.delivered = [] ∧
      ∀ f, (t.dev.merge f).lost = 0 ∧ (t.dev.merge f).high = (s.dev.merge f).high ∧ (t.dev.merge f).keys = (s.dev.merge f).keys

/-! ## Memory, temperature, the store and resets -/

/-- R414, R418, R421–R430: a request of the region's owner has its write queued, or its read answered from the newest write that covers the
sector, else from the cells; another Crew's gets poisoned data, or is discarded, and TAG_ERR counts; while the pseudo-channel is frozen a
request waits. An uncorrectable read counts and freezes, or gets poisoned data where its sector froze lately; a fourth address parity error
within 1 ms, or one on a retry, freezes. A thaw answers the failing read with poisoned data and lets the waiting requests go in order.
Refreshes are issued, postponed or owed; the stack's temperature sets the rate; a scrub corrects the cells; a lane's centre follows its
tracking by one step. SAVE stores the centres, or waits while writes are held. -/
def Obligations.HbmRequests : Prop :=
  (∀ (s : State) (pc crew addr : Nat) (l : List Nat), pc < 128 → addr + l.length ≤ 2 ^ 29 → s.dev.inReset 3 = false →
    s.dev.pcState pc = 0 → s.dev.regionCrew pc addr = crew → l ≠ [] → addr % 32 + l.length ≤ 32 → (s.dev.pc pc).queue.length ≤ 63 →
    ∃ t, exec (.hbmRequest pc crew addr (some l) 0) s = .next t ∧ (t.dev.pc pc).queue = (s.dev.pc pc).queue ++ [(addr, l)] ∧
      (∀ k, k ≠ pc → t.dev.pc k = s.dev.pc k) ∧ t = { s with dev := { s.dev with regs := t.dev.regs, hbm := t.dev.hbm, pmu := t.dev.pmu } }) ∧
  (∀ (s : State) (pc crew addr : Nat), pc < 128 → addr + 1 ≤ 2 ^ 29 → s.dev.inReset 3 = false → s.dev.pcState pc = 0 →
    s.dev.regionCrew pc addr = crew → (∀ w ∈ (s.dev.pc pc).queue, w.1 / 32 ≠ addr / 32) →
    s.dev.checkDiff pc (addr / 32 * 32) = 0 → s.dev.checkDiff pc (addr / 32 * 32 + 16) = 0 →
    ∃ t, exec (.hbmRequest pc crew addr none 0) s = .next t ∧
      s.dev.ShowsOnly t.dev (.hbmData pc (addr / 32 * 32) (readBytes s.mem pc (addr / 32 * 32) 32) false) ∧
      (t.dev.pc pc).queue = (s.dev.pc pc).queue ∧
      t = { s with dev := { s.dev with regs := t.dev.regs, hbm := t.dev.hbm, pmu := t.dev.pmu, out := t.dev.out } }) ∧
  (∀ (s : State) (pc crew addr : Nat) (w : Nat × List Nat), pc < 128 → addr + 1 ≤ 2 ^ 29 → s.dev.inReset 3 = false →
    s.dev.pcState pc = 0 → s.dev.regionCrew pc addr = crew →
    ((s.dev.pc pc).queue.filter fun w => w.1 / 32 = addr / 32).getLast? = some w → w.2.length = 32 →
    ∃ t, exec (.hbmRequest pc crew addr none 0) s = .next t ∧
      s.dev.ShowsOnly t.dev (.hbmData pc (addr / 32 * 32) w.2 false) ∧ (t.dev.pc pc).queue = (s.dev.pc pc).queue ∧ t.mem = s.mem) ∧
  (∀ (s : State) (pc crew addr flips : Nat) (w : Option (List Nat)), pc < 128 → addr + max 1 (w.getD []).length ≤ 2 ^ 29 →
    s.dev.inReset 3 = false →
    (s.dev.pcState pc = 0 → s.dev.regionCrew pc addr ≠ crew →
      ∃ t, exec (.hbmRequest pc crew addr w flips) s = .next t ∧
        t.dev.fld (Reg.memPcErr pc) F.memPcErr_tagErr = (s.dev.fld (Reg.memPcErr pc) F.memPcErr_tagErr + 1) % 256 ∧
        t = { s with dev := { s.dev with regs := t.dev.regs, out := t.dev.out } } ∧
        if w.isSome = true then t.dev.out = s.dev.out else s.dev.ShowsOnly t.dev (.hbmData pc (addr / 32 * 32) [] true)) ∧
    (s.dev.pcState pc = 1 →
      ∃ t, exec (.hbmRequest pc crew addr w flips) s = .next t ∧
        t.dev.pc pc = { s.dev.pc pc with waiting := (s.dev.pc pc).waiting ++ [⟨crew, addr, w, flips⟩] } ∧
        (∀ k, k ≠ pc → t.dev.pc k = s.dev.pc k) ∧ t = { s with dev := { s.dev with hbm := t.dev.hbm } })) ∧
  (∀ (s : State) (pc sector crew syn : Nat), pc < 128 → syn < 65536 → s.dev.pcState pc = 0 →
    ∃ t, exec (.hbmUncorrectableRead pc sector crew syn) s = .next t ∧
      t.dev.fld (Reg.memPcErr pc) F.memPcErr_ue = (s.dev.fld (Reg.memPcErr pc) F.memPcErr_ue + 1) % 65536 ∧ t.mem = s.mem ∧
      if s.dev.frozeLately pc sector = true then t.dev.pcState pc = 0 ∧ s.dev.ShowsOnly t.dev (.hbmData pc (sector * 32) [] true) ∧
        s.dev.KeepsRegs t.dev [Reg.memPcErr pc]
      else t.dev.pcState pc = 1 ∧ (t.dev.pc pc).failing = some (sector, crew) ∧
        t.dev.fld Reg.memStatus F.memStatus_frozen = (s.dev.fld Reg.memStatus F.memStatus_frozen + 1) % 256 ∧
        (s.dev.flag (Reg.memSnapInfo 0) F.memSnapInfo_valid = false → t.dev.flag (Reg.memSnapInfo 0) F.memSnapInfo_valid = true ∧
          t.dev.reg (Reg.memSnapSector 0) = BitVec.ofNat 32 sector ∧ t.dev.reg (Reg.memSnapStroke 0) = BitVec.ofNat 32 s.dev.nowLo) ∧
        t = { s with dev := { s.dev with regs := t.dev.regs, hbm := t.dev.hbm, nvm := t.dev.nvm, hif := t.dev.hif, out := t.dev.out
                                         log := t.dev.log } }) ∧
  (∀ (s : State) (pc sector ns : Nat) (retryOk : Bool), pc < 128 →
    ∃ t, exec (.caParityError pc sector retryOk ns) s = .next t ∧
      t.dev.fld (Reg.memPcErr pc) F.memPcErr_caParity = (s.dev.fld (Reg.memPcErr pc) F.memPcErr_caParity + 1) % 256 ∧
      t.dev.pcState pc = (if s.dev.pcState pc = 0 ∧ (retryOk = false ∨
        3 ≤ ((s.dev.pc pc).parity.filter fun u => decide (s.dev.localNs ns < u + 1000000)).length) then 1 else s.dev.pcState pc) ∧
      (∀ k < 128, k ≠ pc → t.dev.pcState k = s.dev.pcState k) ∧ t.mem = s.mem) ∧
  (∀ (s : State) (c : Instr) (pc fn value : Nat), pc < 128 → s.dev.pcState pc = 1 →
    (c = .thaw pc ∧ s.dev.flag Reg.memCfg F.memCfg_freezeMode = false ∨
      c = .memThawGo fn value ∧ s.dev.flag Reg.memCfg F.memCfg_freezeMode = true ∧ s.dev.mayWrite fn Reg.memThaw = true ∧
        F.memThaw_go.get (BitVec.ofNat 32 value) = 1 ∧ F.memThaw_pc.get (BitVec.ofNat 32 value) = pc) →
    ∃ (t : State) (u : Dev), exec c s = .next t ∧ u.pcState pc = 0 ∧
      u.pc pc = { s.dev.pc pc with waiting := [], owed := [], failing := none, cmds := (u.pc pc).cmds } ∧
      (∀ k, k ≠ pc → u.pc k = s.dev.pc k) ∧
      u.fld Reg.memStatus F.memStatus_frozen = s.dev.fld Reg.memStatus F.memStatus_frozen - 1 ∧
      u.out = (match (s.dev.pc pc).failing with
        | some (sector, _) => .hbmData pc (sector * 32) [] true :: s.dev.out
        | none => s.dev.out) ∧
      u = { s.dev with regs := u.regs, hbm := u.hbm, out := u.out } ∧
      t = { s with mem := ((s.dev.pc pc).waiting.foldl (fun x r => accept x pc r) (s.mem, u)).1
                   dev := ((s.dev.pc pc).waiting.foldl (fun x r => accept x pc r) (s.mem, u)).2 }) ∧
  (∀ (s : State) (pc bank : Nat) (idle : Bool), s.dev.pcState pc ≤ 1 →
    ∃ t, exec (.refreshDue pc bank idle) s = .next t ∧ (∀ k, k ≠ pc → t.dev.pc k = s.dev.pc k) ∧
      t = { s with dev := { s.dev with hbm := t.dev.hbm } } ∧
      if s.dev.pcState pc = 1 then t.dev.pc pc = { s.dev.pc pc with owed := (s.dev.pc pc).owed ++ [bank] }
      else Tab.get zero (t.dev.pc pc).postponed bank = (if idle = true then 0 else min 8 (Tab.get zero (s.dev.pc pc).postponed bank + 1)) ∨
        8 < Tab.get zero (s.dev.pc pc).postponed bank) ∧
  (∀ (s : State) (stack temp : Nat), stack < 4 → temp < 256 → s.dev.inReset 3 = false →
    let a := Reg.memStackStatus stack
    let twice := if 85 < temp then 1 else if temp < 80 then 0 else s.dev.fld a F.memStackStatus_refresh2x
    ∃ t, exec (.stackTempReport stack temp) s = .next t ∧ t.dev.fld a F.memStackStatus_temp = temp ∧
      t.dev.fld a F.memStackStatus_refresh2x = twice ∧ bitAt (t.dev.fld Reg.memStatus F.memStatus_refresh2x) stack = (twice == 1) ∧
      s.RegsOnly t [a, Reg.memStatus]) ∧
  (∀ (s : State) (pc sector j e : Nat) (l : List Nat), pc < 128 → s.dev.pcState pc = 0 → s.dev.fld Reg.memCfg F.memCfg_scrubHours ≠ 0 →
    s.dev.regionOf pc (sector * 32) ≠ none → decodeGranule (s.mem, s.dev) pc (sector * 32) = (l, .symbol j e) →
    s.dev.checkDiff pc (sector * 32 + 16) = 0 →
    ∃ t, exec (.scrubRead pc sector) s = .next t ∧ readBytes t.mem pc (sector * 32) 16 = l ∧ t.dev.checkDiff pc (sector * 32) = 0 ∧
      readBytes t.mem pc (sector * 32 + 16) 16 = readBytes s.mem pc (sector * 32 + 16) 16 ∧
      t.dev.fld (Reg.memPcStatus pc) F.memPcStatus_ce = (s.dev.fld (Reg.memPcStatus pc) F.memPcStatus_ce + 1) % 65536 ∧
      t = { s with mem := t.mem, dev := { s.dev with regs := t.dev.regs, hbm := t.dev.hbm } }) ∧
  (∀ (s : State) (pc lane left right : Nat), s.dev.pcState pc = 0 →
    let c := Tab.get zero (s.dev.pc pc).centre lane
    ∃ t, exec (.trackingMeasure pc lane left right) s = .next t ∧
      Tab.get zero (t.dev.pc pc).centre lane =
        (if c < (left + right) / 2 then c + 1 else if (left + right) / 2 < c then c - 1 else c) ∧
      (∀ m, m ≠ lane → Tab.get zero (t.dev.pc pc).centre m = Tab.get zero (s.dev.pc pc).centre m) ∧
      s.dev.KeepsRegs t.dev [Reg.memPcStatus pc] ∧ t = { s with dev := { s.dev with regs := t.dev.regs, hbm := t.dev.hbm } }) ∧
  ∀ (s : State) (fn value : Nat), s.dev.mayWrite fn Reg.memTrainCtl = true → bitAt value 31 = true →
    s.dev.flag Reg.memTrainCtl F.memTrainCtl_save = false →
    let l := (List.range 128).flatMap fun pc => (List.range 10).map fun n => (pc * 16 + n, Tab.get zero (s.dev.pc pc).centre n)
    ∃ t, exec (.memTrainSave fn value) s = .next t ∧ s.dev.KeepsRegs t.dev [Reg.memTrainCtl] ∧
      t.dev.flag Reg.memTrainCtl F.memTrainCtl_save = s.dev.nvmHeld ∧ t.dev.flag Reg.memTrainCtl F.memTrainCtl_busy = s.dev.nvmHeld ∧
      t = { s with dev := { s.dev with
        regs := t.dev.regs
        nvm := if s.dev.nvmHeld = true then { s.dev.nvm with saves := s.dev.nvm.saves ++ [.centres l] }
          else { s.dev.nvm with centres := l } } }

/-- R498–R500, R502, R503, R506, R507, R543: a sensor's sample is taken and Tmax follows the hottest source, or the CRITICAL threshold with
more than 16 sensors invalid; the level follows Tmax, and ALERT_N stands while a rail is below WARN or the level is not 0. The throttle step
follows Tmax by one. A rail that falls below its warning level opens an episode, which holds writes of the store and aborts its erases; the
recovery of the last rail closes it, and the end of the hold releases the saves that waited. The oldest record that waits is written into an
erased slot; an erase that is done frees its sector, or one that failed takes a spare, and with none WORN reads 1. A token comes back where
no summary waits. An SMBus block read returns the register its command names. -/
def Obligations.ThermalAndStore : Prop :=
  (∀ (s : State) (n : Nat) (v : Int), n < 64 → -440 ≤ v → v ≤ 1200 → s.dev.inReset 0 = false →
    ∃ t, exec (.sensorSample [(n, some v)]) s = .next t ∧ t.dev.sensor n = v ∧ t.dev.sensorValid n = true ∧ t.mem = s.mem ∧
      (let bad := ((List.range 64).filter fun k => !t.dev.sensorValid k).length
       t.dev.fld Reg.thmStatus F.thmStatus_badSensors = bad ∧ t.dev.fld Reg.thmStatus F.thmStatus_hot = t.dev.hottest ∧
         t.dev.tmax = if 16 < bad then s.dev.threshold 3 else t.dev.sourceTemp t.dev.hottest) ∧
      (let step (l : Nat) : Nat :=
        if l < 3 ∧ s.dev.threshold (l + 1) ≤ t.dev.tmax then l + 1
        else if 0 < l ∧ t.dev.tmax < s.dev.threshold l - 8 * (s.dev.fld Reg.thmCfg F.thmCfg_hyst : Int) then l - 1 else l
       t.dev.fld Reg.thmStatus F.thmStatus_level = step (step (step (s.dev.fld Reg.thmStatus F.thmStatus_level)))) ∧
      t.dev.thm.alert = (decide (t.dev.fld Reg.thmSupply F.thmSupply_belowWarn ≠ 0) ||
        decide (t.dev.fld Reg.thmStatus F.thmStatus_level ≠ 0)) ∧
      (∀ k < 64, k ≠ n → t.dev.sensor k = s.dev.sensor k ∧
        t.dev.sensorValid k = (s.dev.sensorValid k && decide (s.dev.now < Tab.get zero s.dev.thm.updated k + 8)))) ∧
  (∀ s : State, s.dev.replay = false →
    let k := s.dev.fld Reg.thmStatus F.thmStatus_step
    let since := s.dev.now - s.dev.thm.changed
    let up := decide (s.dev.threshold 2 ≤ s.dev.tmax) && decide (8 * s.dev.fld Reg.thmCfg F.thmCfg_upMs ≤ since) &&
      decide (k < s.dev.fld Reg.thmCfg F.thmCfg_maxStep)
    let down := decide (s.dev.tmax < s.dev.threshold 2 - 8 * (s.dev.fld Reg.thmCfg F.thmCfg_hyst : Int)) &&
      decide (8 * s.dev.fld Reg.thmCfg F.thmCfg_downMs ≤ since) && decide (0 < k)
    ∃ t, exec .throttleStepChange s = .next t ∧ t.mem = s.mem ∧
      t.dev.fld Reg.thmStatus F.thmStatus_step = (if up = true then k + 1 else if down = true then k - 1 else k) ∧
      (if up = true ∨ down = true then t.dev.thm.changed = s.dev.now ∧
        ∀ u < 40, t.dev.fld (Reg.coxThrottle u) F.coxThrottle_thmStep = t.dev.fld Reg.thmStatus F.thmStatus_step
      else t = s)) ∧
  (∀ (s : State) (rail mv : Nat), rail < 11 → mv < 4096 → s.dev.inReset 0 = false → s.dev.thm.episode = none →
    ∃ t, exec (.railBelowWarn rail mv) s = .next t ∧ t.dev.nvmHeld = true ∧
      t.dev.fld Reg.thmSupply F.thmSupply_belowWarn = s.dev.fld Reg.thmSupply F.thmSupply_belowWarn ||| 2 ^ rail ∧
      t.dev.fld Reg.thmSupply F.thmSupply_episodes = (s.dev.fld Reg.thmSupply F.thmSupply_episodes + 1) % 65536 ∧
      t.dev.thm.episode = some (s.dev.nowNs, 2 ^ rail, [(rail, mv)]) ∧ t.dev.nvm.erasing = [] ∧ t.dev.thm.alert = true ∧
      (∀ k ∈ s.dev.nvm.erasing, k ∈ t.dev.nvm.dirty) ∧ t.mem = s.mem) ∧
  (∀ (s : State) (rail mv at_ mask : Nat) (low : List (Nat × Nat)), rail < 11 →
    s.dev.fld Reg.thmSupply F.thmSupply_belowWarn = 2 ^ rail → s.dev.thm.episode = some (at_, mask, low) →
    ∃ t, exec (.railRecover rail mv) s = .next t ∧ t.dev.fld Reg.thmSupply F.thmSupply_belowWarn = 0 ∧ t.dev.thm.episode = none ∧
      t.dev.thm.last = some ((s.dev.nowNs - at_) / 1000, mask, worstRail low) ∧ t.dev.nvmHeld = s.dev.nvmHeld ∧ t.dev.nvm = s.dev.nvm ∧
      t = { s with dev := { s.dev with regs := t.dev.regs, thm := t.dev.thm, hif := t.dev.hif, out := t.dev.out } }) ∧
  (∀ s : State, s.dev.nvmHeld = true → s.dev.thm.episode = none →
    ∃ t, exec .nvmHoldEnd s = .next t ∧ t.dev.nvmHeld = false ∧ t.dev.nvm.saves = [] ∧ t.dev.thm.last = none ∧
      t = { s with dev := { s.dev with regs := t.dev.regs, nvm := t.dev.nvm, thm := t.dev.thm, rst := t.dev.rst } }) ∧
  (∀ (s : State) (r : NvmRec) (rest : List NvmRec), s.dev.sec.order = none → s.dev.nvm.queue = r :: rest → s.dev.nvmHeld = false →
    s.dev.slotErased (ringSlot 32 48 s.dev.nvm.logSeq) = true →
    ∃ t, exec .nvmRecordWrite s = .next t ∧ t.dev.nvm.queue = rest ∧
      t.dev.nvm.log = (s.dev.nvm.logSeq, r) :: s.dev.nvm.log.take 3071 ∧ t.dev.nvm.logSeq = s.dev.nvm.logSeq + 1 ∧
      t.dev.reg Reg.nvmLogSeq = BitVec.ofNat 32 (s.dev.nvm.logSeq + 1) ∧
      t.dev.fld Reg.nvmStatus F.nvmStatus_queued = rest.length % 64 ∧ s.dev.KeepsRegs t.dev [Reg.nvmStatus, Reg.nvmLogSeq] ∧
      t = { s with dev := { s.dev with regs := t.dev.regs, nvm := t.dev.nvm } }) ∧
  (∀ (s : State) (sector : Nat) (ok : Bool), sector ∈ s.dev.nvm.erasing →
    ∃ t, exec (.sectorEraseDone sector ok) s = .next t ∧ sector ∉ t.dev.nvm.erasing ∧ sector ∉ t.dev.nvm.dirty ∧
      Tab.get zero t.dev.nvm.used sector = 0 ∧
      (let sp := s.dev.fld Reg.nvmStatus F.nvmStatus_spares
       t.dev.fld Reg.nvmStatus F.nvmStatus_spares = (if ok = true then sp else sp - 1) ∧
         (ok = false → sp = 0 → t.dev.flag Reg.nvmStatus F.nvmStatus_worn = true ∧ sectorRegion sector ∈ t.dev.nvm.worn)) ∧
      s.dev.KeepsRegs t.dev [Reg.nvmStatus, Reg.nvmWear] ∧ t = { s with dev := { s.dev with regs := t.dev.regs, nvm := t.dev.nvm } }) ∧
  (∀ s : State, s.dev.nvm.summaries = [] →
    ∃ t, exec .logTokenRefill s = .next t ∧ t.dev.fld Reg.nvmLog F.nvmLog_tokens = min 256 (s.dev.fld Reg.nvmLog F.nvmLog_tokens + 1) ∧
      s.RegsOnly t [Reg.nvmLog]) ∧
  ∀ (s : State) (k : Nat), s.dev.inReset 0 = false →
    ∃ t, exec (.smbusBlockRead k) s = .next t ∧ t = { s with dev := { s.dev with out := t.dev.out } } ∧
      s.dev.ShowsOnly t.dev (.smbus (wordBytes
        (([Reg.deviceId, Reg.thmStatus, Reg.thmSupply, Reg.rstStatus, Reg.nvmStatus].map fun a => (s.dev.reg a).toNat).getD k 0)))

/-- R118, R463, R482, R483, R486–R488, R504, R509, R537: a source that is asserted shows in RST_CAUSE, and the domains it reaches enter reset
and lose their contents; the others stay as they are. Power-on reset reaches every domain and clears the records that were kept. What a domain loses where the spec does
not list it is the model's reading (notes/assumptions/54.md). -/
def Obligations.ResetsReach : Prop :=
  (∀ (s : State) (c : Instr) (n mask : Nat) (held : Bool), (s.dev.regs.map (·.1)).Nodup →
    ((c, n, mask, held) ∈ [(Instr.perstAssert, 4, s.dev.perstReach, true), (.hotReset, 5, 0x40, false), (.linkDown, 6, 0x40, false),
      (.pf0Flr, 10, 0x40, false), (.pf0D3hot, 10, 0x40, false), (.resetNAssert, 3, 0x7E, true), (.sysclkLoss, 9, 0x7E, true),
      (.supplyReset, 1, 0x7F, true)] ∨
      ∃ dom : Nat, s.dev.fld Reg.secStatus F.secStatus_debug = 2 ∧ (c, n, mask, held) = (.debugReset dom, 8, dom % 128, false)) →
    ∃ t, exec c s = .next t ∧ (∀ k < 7, t.dev.inReset k = (bitAt mask k || s.dev.inReset k)) ∧
      (∀ j < 11, bitAt (t.dev.fld Reg.rstCause F.rstCause_sources) j = (decide (j = n) || bitAt (s.dev.fld Reg.rstCause F.rstCause_sources) j)) ∧
      (∀ j < 11, bitAt (t.dev.fld Reg.rstSrcActive F.rstSrcActive_sources) j =
        (held && decide (j = n) || bitAt (s.dev.fld Reg.rstSrcActive F.rstSrcActive_sources) j)) ∧
      (if bitAt mask 3 = true then t.mem = [] ∧ t.dev.hbm = {} else t.mem = s.mem) ∧
      (bitAt mask 1 = true → t.dev.sec.keys = [] ∧ t.dev.sec.order = none ∧ t.dev.fld Reg.secStatus F.secStatus_debug = 0) ∧
      (bitAt mask 2 = true → t.dev.stk = Dev.reset.stk ∧ t.dev.tim = {}) ∧
      (bitAt mask 4 = true → t.dev.lan = {} ∧ t.dev.egs = {} ∧ t.dev.pth = {}) ∧
      (bitAt mask 5 = true → t.dev.enc = [] ∧ t.dev.dec = [] ∧ t.dev.cmp = {} ∧ t.dev.aud = {} ∧ t.dev.pmu = {} ∧ t.dev.rpl = {}) ∧
      (bitAt mask 6 = true → t.dev.hif.numVfs = 0 ∧ t.dev.staged = [] ∧ t.dev.chk = [] ∧ ∀ crew ≤ 16, ∀ r < 64, t.dev.ring crew r = none)) ∧
  (∀ (s : State) (source : Nat), s.dev.inReset 0 = false → s.dev.thm.thermtrip = false → source < 68 →
    s.dev.threshold 4 ≤ s.dev.sourceTemp source → (source < 64 → s.dev.sensorValid source = true) → 1 ∉ s.dev.nvm.worn →
    ∃ t, exec (.thermalShutdown source) s = .next t ∧ s.dev.Shows t.dev (.pin "THERMTRIP_N" false) ∧ t.dev.thm.thermtrip = true ∧
      (∀ k < 7, 1 ≤ k → t.dev.inReset k = true) ∧ t.dev.inReset 0 = false ∧ t.mem = [] ∧
      bitAt (t.dev.fld Reg.rstSrcActive F.rstSrcActive_sources) 2 = true ∧ t.dev.nvm.shutdown = some true ∧ (∀ k ∈ s.dev.nvm.erasing, k ∈ t.dev.nvm.dirty) ∧
      t.dev.nvm.powerSeq = s.dev.nvm.powerSeq + 1) ∧
  ∀ s : State,
    ∃ t, exec .por s = .next t ∧ t.mem = [] ∧ t.pending = s.pending ∧ t.dev.fld Reg.rstCause F.rstCause_sources = 1 ∧
      (∀ k < 7, t.dev.inReset k = true) ∧ t.dev.stk = Dev.reset.stk ∧ t.dev.hif = Dev.reset.hif ∧ t.dev.enc = [] ∧ t.dev.sec = {} ∧
      t.dev.thm = {} ∧ t.dev.nvm.log = s.dev.nvm.log ∧ t.dev.rst.copyA = s.dev.rst.copyA ∧ t.dev.rst.copyB = s.dev.rst.copyB

/-- R40, R118, R119, R450, R484–R486, R489, R490, R495, R496: a source released no longer shows. A VF that is reset, or a lower NumVFs, takes
the rings of its Crew, and a Crew that is released loses its keys and its commits. A domain that only waits for its clock is released, or
in CLOCK_FAULT. A single block enters reset and leaves it as its register says. The watchdog restarts the controllers, which run again
with a verified image. OB_EDIT writes a copy with one byte changed, or is refused. -/
def Obligations.ResetsEnd : Prop :=
  (∀ (s : State) (c : Instr) (n : Nat), (c, n) ∈ [(Instr.perstRelease, 4), (.resetNRelease, 3), (.sysclkReturn, 9), (.supplyResetRelease, 1),
      (.porRelease true, 0)] →
    ∃ t, exec c s = .next t ∧ s.RegsOnly t [Reg.rstSrcActive, Reg.rstPendingClk] ∧
      ∀ j < 11, bitAt (t.dev.fld Reg.rstSrcActive F.rstSrcActive_sources) j =
        (decide (j ≠ n) && bitAt (s.dev.fld Reg.rstSrcActive F.rstSrcActive_sources) j)) ∧
  (∀ (s : State) (c : Instr) (vf : Nat), c = .vfFlr vf ∨ c = .vfD3hot vf → 1 ≤ vf → vf ≤ s.dev.hif.numVfs → s.dev.inReset 6 = false →
    ∃ t, exec c s = .next t ∧ t.mem = s.mem ∧ (∀ r < 64, t.dev.ring vf r = none) ∧ t.dev.hif.numVfs = s.dev.hif.numVfs ∧
      (t.dev.hif.releasing.contains vf = true ↔ s.dev.hif.releasing.contains vf = true ∨
        s.dev.flag (Reg.secCrewPolicy vf) F.secCrewPolicy_hostPersist = false) ∧
      (c = .vfFlr vf → ∀ k ∈ t.dev.stk.queue, k.fn ≠ vf)) ∧
  (∀ (s : State) (n : Nat), n < s.dev.hif.numVfs → s.dev.inReset 6 = false →
    ∃ t, exec (.vfEnableClear n) s = .next t ∧ t.dev.hif.numVfs = n ∧ t.mem = s.mem ∧
      ∀ vf, n < vf → vf ≤ s.dev.hif.numVfs → ∀ r < 64, t.dev.ring vf r = none) ∧
  (∀ (s : State) (crew : Nat), s.dev.hif.releasing.contains crew = true →
    ∃ t, exec (.crewRelease crew) s = .next t ∧ t.dev.hif.releasing.contains crew = false ∧ t.mem = s.mem ∧
      (∀ p ∈ t.dev.sec.keys, t.dev.owner 0x0A p.1 ≠ crew) ∧ ∀ k ∈ t.dev.stk.queue, k.fn ≠ crew) ∧
  (∀ (s : State) (k : Nat) (facts : ReleaseFacts), s.dev.releasable k = true →
    ∃ t, exec (.domainRelease k facts) s = .next t ∧ t.mem = s.mem ∧ (∀ j < 7, t.dev.inReset j = (decide (j ≠ k) && s.dev.inReset j)) ∧
      (k = 2 → t.dev.sync = 0) ∧ (k = 3 → t.dev.flag Reg.memStatus F.memStatus_trained = true) ∧
      (k = 5 → t.dev.fld Reg.rstStatus F.rstStatus_fw = if s.dev.rst.image.isSome = true then 1 else s.dev.fld Reg.rstStatus F.rstStatus_fw)) ∧
  (∀ (s : State) (k : Nat), s.dev.releasable k = true →
    ∃ t, exec (.domainClockTimeout k) s = .next t ∧ t.mem = s.mem ∧ (∀ j < 7, t.dev.clockFaulted j = (decide (j = k) || s.dev.clockFaulted j)) ∧
      (∀ j < 7, t.dev.inReset j = s.dev.inReset j) ∧ (k = 1 → t.dev.secState = 2)) ∧
  (∀ (s : State) (fn slot value : Nat), slot < 4 → s.dev.mayWrite fn (Reg.rstBlock slot) = true → bitAt value 31 = true →
    s.dev.flag (Reg.rstBlock slot) F.rstBlock_assert = false →
    let cls := value / 65536 % 8
    value % 32 < blockCount cls →
    ∃ t, exec (.blockResetAssert fn slot value) s = .next t ∧ t.mem = s.mem ∧ t.dev.blockHeld cls (value % 32) = true ∧
      t.dev.flag (Reg.rstBlock slot) F.rstBlock_assert = true ∧ t.dev.fld (Reg.rstBlock slot) F.rstBlock_class = cls ∧
      t.dev.fld (Reg.rstBlock slot) F.rstBlock_index = value % 32 ∧
      (cls = 5 → ∀ m ∈ s.dev.subPorts (value % 32), t.dev.linkUp m = false) ∧ (cls = 6 → t.dev.sec.keys = [])) ∧
  (∀ (s : State) (fn slot value : Nat), slot < 4 → s.dev.mayWrite fn (Reg.rstBlock slot) = true → bitAt value 31 = false →
    s.dev.flag (Reg.rstBlock slot) F.rstBlock_assert = true →
    ∃ t, exec (.blockResetRelease fn slot value) s = .next t ∧ t.mem = s.mem ∧
      t.dev.flag (Reg.rstBlock slot) F.rstBlock_assert = false ∧
      t.dev.fld (Reg.rstBlock slot) F.rstBlock_class = s.dev.fld (Reg.rstBlock slot) F.rstBlock_class ∧
      t.dev.fld (Reg.rstBlock slot) F.rstBlock_index = s.dev.fld (Reg.rstBlock slot) F.rstBlock_index) ∧
  (∀ s : State, s.dev.fwRuns = true → s.dev.flag Reg.rstWdt F.rstWdt_enable = true →
    ∃ t, exec .watchdogFire s = .next t ∧ t.dev.fld Reg.rstStatus F.rstStatus_fw = 3 ∧ t.dev.fwRuns = false ∧
      bitAt (t.dev.fld Reg.rstCause F.rstCause_sources) 7 = true ∧
      t.dev.fld Reg.rstWdt F.rstWdt_fires = (s.dev.fld Reg.rstWdt F.rstWdt_fires + 1) % 256 ∧
      s.RegsOnly t [Reg.rstCause, Reg.rstWdt, Reg.rstStatus]) ∧
  (∀ (s : State) (ok : Bool) (version : Nat) (x : Desc), s.dev.secReset = false → s.dev.rst.fwLoad = some x →
    ∃ t, exec (.fwImageVerified ok version) s = .next t ∧ t.mem = s.mem ∧
      if ok = true ∧ s.dev.fld Reg.secFw F.secFw_fwFloor ≤ version then t.dev.rst.image = some version ∧
        (s.dev.fld Reg.rstStatus F.rstStatus_fw ≠ 3 → s.dev.inReset 5 = false → s.dev.blockHeld 7 0 = false →
          t.dev.fld Reg.rstStatus F.rstStatus_fw = 1 ∧ t.dev.rst.fwLoad = none ∧
            (s.dev.Answers x → s.dev.Completes t.dev x 0 [version]))
      else t.dev.rst.image = none ∧ t.dev.rst.fwLoad = none ∧ t.dev.fld Reg.rstStatus F.rstStatus_fw = 0 ∧
        (s.dev.Answers x → s.dev.Completes t.dev x 0x30 [7])) ∧
  (∀ (s : State) (v : Nat), s.dev.fld Reg.rstStatus F.rstStatus_fw = 3 → s.dev.inReset 5 = false → s.dev.blockHeld 7 0 = false →
    s.dev.rst.image = some v →
    ∃ t, exec .controllersRestarted s = .next t ∧ t.dev.fwRuns = true ∧ t.dev.rst.fwLoad = none ∧ t.mem = s.mem ∧
      s.dev.KeepsRegs t.dev [Reg.rstStatus]) ∧
  ∀ (s : State) (fn value : Nat), s.dev.mayWrite fn Reg.rstObEdit = true → bitAt value 31 = true →
    let off := value / 256 % 256
    ∃ t, exec (.obEditGo fn value) s = .next t ∧ t.mem = s.mem ∧
      if editable off = true ∧ optionGen s.dev.rst.inForce ≠ 0xFFFFFFFF then
        t.dev.flag Reg.rstObStatus F.rstObStatus_refused = false ∧ t.dev.flag Reg.rstObStatus F.rstObStatus_busy = s.dev.nvmHeld ∧
          (s.dev.optionSource = 0 → s.dev.nvmHeld = false → t.dev.rst.copyA = s.dev.rst.copyA ∧
            t.dev.rst.copyB = newOptions s.dev.rst.inForce 1 [(off, value % 256)]) ∧
          (s.dev.optionSource = 1 → s.dev.nvmHeld = false → t.dev.rst.copyB = s.dev.rst.copyB ∧
            t.dev.rst.copyA = newOptions s.dev.rst.inForce 0 [(off, value % 256)])
      else t.dev.flag Reg.rstObStatus F.rstObStatus_refused = true ∧ t.dev.rst = s.dev.rst ∧ t.dev.nvm = s.dev.nvm

/-! ## Each command's own effect -/

/-- The main effect of each form of the thermal and record-store commands (R498–R500, R502, R503, R506, R507, R543), of commits, tables and
substitutes (R35, R37, R44, R73–R75), of frames, deliveries and layers (R163, R192, R233, R242, R273–R276), of the HBM (R414–R430), of the
ends of resets (R118, R119, R450, R484–R486, R489, R490, R496) and of the two PTP sides and the local clock (R385–R408): under conditions on
the state and the operands alone, the command answers a next state that holds it. What else holds is in the statements of each family.
Which parts are the model's choice is said there. -/
def Obligations.OwnEffects : Prop :=
  ((∀ (s : State) (n : Nat) (v : Int), n < 64 → -440 ≤ v → v ≤ 1200 → s.dev.inReset 0 = false →
      ∃ t, exec (.sensorSample [(n, some v)]) s = .next t ∧ t.dev.sensor n = v ∧ t.dev.sensorValid n = true) ∧
    (∀ s : State, s.dev.replay = false → s.dev.threshold 2 ≤ s.dev.tmax →
      8 * s.dev.fld Reg.thmCfg F.thmCfg_upMs ≤ s.dev.now - s.dev.thm.changed →
      s.dev.fld Reg.thmStatus F.thmStatus_step < s.dev.fld Reg.thmCfg F.thmCfg_maxStep →
      ∃ t, exec .throttleStepChange s = .next t ∧
        t.dev.fld Reg.thmStatus F.thmStatus_step = s.dev.fld Reg.thmStatus F.thmStatus_step + 1 ∧
        ∀ u < 40, t.dev.fld (Reg.coxThrottle u) F.coxThrottle_thmStep = s.dev.fld Reg.thmStatus F.thmStatus_step + 1) ∧
    (∀ (s : State) (rail mv : Nat), rail < 11 → mv < 4096 → s.dev.inReset 0 = false → s.dev.thm.episode = none →
      ∃ t, exec (.railBelowWarn rail mv) s = .next t ∧ t.dev.nvmHeld = true ∧
        t.dev.thm.episode = some (s.dev.nowNs, 2 ^ rail, [(rail, mv)])) ∧
    (∀ (s : State) (rail mv at_ mask : Nat) (low : List (Nat × Nat)), rail < 11 →
      s.dev.fld Reg.thmSupply F.thmSupply_belowWarn = 2 ^ rail → s.dev.thm.episode = some (at_, mask, low) →
      ∃ t, exec (.railRecover rail mv) s = .next t ∧ t.dev.fld Reg.thmSupply F.thmSupply_belowWarn = 0 ∧ t.dev.thm.episode = none) ∧
    (∀ s : State, s.dev.nvmHeld = true → s.dev.thm.episode = none →
      ∃ t, exec .nvmHoldEnd s = .next t ∧ t.dev.nvmHeld = false) ∧
    (∀ (s : State) (r : NvmRec) (rest : List NvmRec), s.dev.sec.order = none → s.dev.nvm.queue = r :: rest → s.dev.nvmHeld = false →
      s.dev.slotErased (ringSlot 32 48 s.dev.nvm.logSeq) = true →
      ∃ t, exec .nvmRecordWrite s = .next t ∧ t.dev.nvm.queue = rest ∧ t.dev.nvm.log.head? = some (s.dev.nvm.logSeq, r)) ∧
    (∀ (s : State) (sector : Nat) (ok : Bool), sector ∈ s.dev.nvm.erasing →
      ∃ t, exec (.sectorEraseDone sector ok) s = .next t ∧ sector ∉ t.dev.nvm.erasing ∧ sector ∉ t.dev.nvm.dirty) ∧
    (∀ s : State, s.dev.nvm.summaries = [] →
      ∃ t, exec .logTokenRefill s = .next t ∧
        t.dev.fld Reg.nvmLog F.nvmLog_tokens = min 256 (s.dev.fld Reg.nvmLog F.nvmLog_tokens + 1)) ∧
    ∀ (s : State) (k : Nat), s.dev.inReset 0 = false →
      ∃ t, exec (.smbusBlockRead k) s = .next t ∧ s.dev.ShowsOnly t.dev (.smbus (wordBytes
        (([Reg.deviceId, Reg.thmStatus, Reg.thmSupply, Reg.rstStatus, Reg.nvmStatus].map fun a => (s.dev.reg a).toNat).getD k 0)))) ∧
  ((∀ (s : State) (c : Commit) (rest : List Commit), s.dev.stk.queue = c :: rest → c.admitting = true → s.dev.fwRuns = true →
      (∀ b ∈ c.builds, (s.dev.bank (tableIdx b)).state = 2) → c.order = none → s.dev.seqOfFn c.fn = c.seq → c.filled = none →
      (s.dev.verdict c).1 = none → s.dev.poolsMade (s.dev.verdict c).2 = [] →
      ∃ t m, exec .commitAdmissionDone s = .next t ∧ t.dev.stk.queue = rest ∧ t.dev.stk.accepted = s.dev.stk.accepted ++ [m] ∧
        m.fn = c.fn ∧ m.writes = c.writes ∧ m.effect = (if c.target ≠ 0 then c.target else max (s.dev.now + 1) s.dev.latestAhead) ∧
        F.stkCommitStatus_state.get (t.dev.fnReg c.fn Reg.stkCommitStatus) = 3) ∧
    (∀ (s : State) (table : TableId), (s.dev.bank (tableIdx table)).state = 1 →
      ∃ t, exec (.tableBuildDone table) s = .next t ∧ (t.dev.bank (tableIdx table)).state = 2) ∧
    (∀ (s : State) (flow seq : Nat) (i : Item), flow < 4096 → s.dev.item? flow seq = some i →
      s.dev.substDue i = true →
      ∃ (t : State) (e : Dev), exec (.substituteAction flow seq) s = .next t ∧ t.dev = e.standInFor i ∧
        e.item? flow seq = none ∧ e.gone? flow seq = some true ∧ t.mem = s.mem) ∧
    (∀ (s : State) (flow seq : Nat) (i : Item), flow < 4096 → s.dev.item? flow seq = some i → i.live = true → i.readyNo ≠ 0 →
      i.floor = 0 → i.cd ≤ s.dev.now →
      ∃ t, exec (.deadlineFinish flow seq) s = .next t ∧
        ((∃ c p, s.dev.flowObj flow = .encPiece c p) → t.dev.item? flow seq = some { i with floor := 0x02, cost := i.floorCost }) ∧
        ((∀ c p, s.dev.flowObj flow ≠ .encPiece c p) → ∃ e : Dev, t.dev = e.standInFor i ∧ e.item? flow seq = none ∧
          e.gone? flow seq = some true)) ∧
    ∀ (s : State) (flow seq : Nat) (i : Item), s.dev.item? flow seq = some i → i.live = false → i.unit = none → i.cd < s.dev.now →
      (∀ c p, s.dev.flowObj flow ≠ .encPiece c p) →
      ∃ t, exec (.beTimeout flow seq) s = .next t ∧ t.dev.item? flow seq = none ∧ t.dev.gone? flow seq = some false) ∧
  ((∀ (s : State) (c k : Nat) (x : EncDyn) (p : Nat × EncCfg), c < 256 → s.dev.enc? c = some x → cfgFor x.cfgs k = some p →
      p.2.live = true → x.first ≤ k → frameStroke p.2.num p.2.den k = s.dev.now →
      ∃ t y, exec (.frameBoundary (0x100 + c) k) s = .next t ∧ t.dev.enc? c = some y ∧ y.settled k = true) ∧
    (∀ (s : State) (chan k : Nat) (x : DecDyn) (u : SlotUnit), s.dev.dec? chan = some x →
      s.dev.now = x.cfg.release k + x.cfg.relOff + 1 → x.unit? k = some u → u.sent = false → u.tooLarge = false → x.mismatch = false →
      ∃ t r new, exec (.partialAuToken chan k) s = .next t ∧ t.dev.log = new ++ r :: s.dev.log ∧ (∀ q ∈ new, q.kind = 0x13) ∧ r.kind = 0x02 ∧ r.obj = x.cfg.flow ∧
        r.data = [k % 65536, k]) ∧
    (∀ (s : State) (chan : Nat) (x : EncDyn) (p : Standing) (u : UnitRec), s.dev.enc? chan = some x →
      s.dev.standing? 0x30 (0x100 + chan) = some p → bitAt (p.desc.w 6) 16 = false → x.units = [u] → p.start ≤ u.released →
      s.dev.unitLate chan u = false → 0 < u.bytes → u.bytes ≤ p.desc.w 5 → 0 < p.desc.w 6 % 65536 →
      p.isBusy (p.next % (p.desc.w 6 % 65536)) = false →
      ∃ t, exec (.bsDelivery chan) s = .next t ∧
        s.dev.Shows t.dev (.hostData p.desc.crew (p.desc.addr 3 + p.next % (p.desc.w 6 % 65536) * p.desc.w 5) u.bytes)) ∧
    (∀ (s : State) (chan : Nat) (x : EncDyn) (p : Standing) (u : UnitRec), s.dev.enc? chan = some x →
      s.dev.standing? 0x50 (0x100 + chan) = some p → bitAt (p.desc.w 6) 16 = false → x.stats = [u] → p.start ≤ u.released →
      s.dev.unitLate chan u = false →
      4 * (u.statWords (bitAt (p.desc.w 6) 17)).length ≤ p.desc.w 5 → 0 < p.desc.w 6 % 65536 →
      p.isBusy (p.next % (p.desc.w 6 % 65536)) = false →
      ∃ t, exec (.statsDelivery chan) s = .next t ∧
        s.dev.Shows t.dev (.hostWrite p.desc.crew (p.desc.addr 3 + p.next % (p.desc.w 6 % 65536) * p.desc.w 5)
          (u.statWords (bitAt (p.desc.w 6) 17)))) ∧
    (∀ (s : State) (prog layer : Nat) (x : ProgDyn) (q : Post) (l : LayerCfg), s.dev.prog? prog = some x →
      x.posts.find? (fun q => q.layer = layer && q.start.isNone && s.dev.fenceReached q.desc) = some q → x.layerCfg? layer = some l →
      ∃ t y, exec (.layerCopyStart prog layer) s = .next t ∧ t.dev.prog? prog = some y ∧
        s.dev.Shows t.dev (.hostRead q.desc.crew (q.desc.addr 4) (frameBytes l.srcFmt l.srcW l.srcH)) ∧
        ∃ r ∈ y.posts, r.desc = q.desc ∧ r.start = some s.dev.now) ∧
    (∀ (s : State) (prog layer : Nat) (x : ProgDyn) (q : Post) (e : Nat), s.dev.prog? prog = some x → q ∈ x.posts → q.layer = layer →
      q.done = some e → e ≤ s.dev.now →
      ∃ t y, exec (.layerCopyComplete prog layer) s = .next t ∧ t.dev.prog? prog = some y ∧ { q with copied := true } ∈ y.posts) ∧
    ∀ (s : State) (prog k : Nat) (x : ProgDyn) (l : LayerCfg) (z : LayerDyn) (q : Post), s.dev.prog? prog = some x →
      s.dev.now = flipStroke x.cfg.num x.cfg.den k → x.cfg.layers.filter (fun m => m.srcType = 3 || m.srcType = 4) = [l] →
      l.group = 0 → s.dev.tapFed prog = [] → x.layer? l.layer = some z →
      ((x.posts.filter fun q => q.layer = l.layer).filter (s.dev.flippable k)).getLast? = some q →
      ∃ t y w, exec (.flipDeadline prog k) s = .next t ∧ t.dev.prog? prog = some y ∧ y.layer? l.layer = some w ∧ w.shown = true ∧
        w.held = false ∧ ∀ r ∈ y.posts, r.desc ≠ q.desc) ∧
  ((∀ (s : State) (pc crew addr : Nat) (l : List Nat), pc < 128 → addr + l.length ≤ 2 ^ 29 → s.dev.inReset 3 = false →
      s.dev.pcState pc = 0 → s.dev.regionCrew pc addr = crew → l ≠ [] → addr % 32 + l.length ≤ 32 → (s.dev.pc pc).queue.length ≤ 63 →
      ∃ t, exec (.hbmRequest pc crew addr (some l) 0) s = .next t ∧ (t.dev.pc pc).queue = (s.dev.pc pc).queue ++ [(addr, l)]) ∧
    (∀ (s : State) (pc sector crew syn : Nat), pc < 128 → syn < 65536 → s.dev.pcState pc = 0 → s.dev.frozeLately pc sector = false →
      ∃ t, exec (.hbmUncorrectableRead pc sector crew syn) s = .next t ∧ t.dev.pcState pc = 1 ∧
        (t.dev.pc pc).failing = some (sector, crew)) ∧
    (∀ (s : State) (pc sector ns : Nat) (retryOk : Bool), pc < 128 →
      ∃ t, exec (.caParityError pc sector retryOk ns) s = .next t ∧
        t.dev.fld (Reg.memPcErr pc) F.memPcErr_caParity = (s.dev.fld (Reg.memPcErr pc) F.memPcErr_caParity + 1) % 256) ∧
    (∀ (s : State) (pc : Nat), pc < 128 → s.dev.pcState pc = 1 → s.dev.flag Reg.memCfg F.memCfg_freezeMode = false →
      (s.dev.pc pc).waiting = [] → ∃ t, exec (.thaw pc) s = .next t ∧ t.dev.pcState pc = 0 ∧ (t.dev.pc pc).failing = none) ∧
    (∀ (s : State) (fn value pc : Nat), pc < 128 → s.dev.pcState pc = 1 → s.dev.flag Reg.memCfg F.memCfg_freezeMode = true →
      s.dev.mayWrite fn Reg.memThaw = true → F.memThaw_go.get (BitVec.ofNat 32 value) = 1 →
      F.memThaw_pc.get (BitVec.ofNat 32 value) = pc → (s.dev.pc pc).waiting = [] →
      ∃ t, exec (.memThawGo fn value) s = .next t ∧ t.dev.pcState pc = 0 ∧ (t.dev.pc pc).failing = none) ∧
    (∀ (s : State) (pc bank : Nat), s.dev.pcState pc = 1 →
      ∃ t, exec (.refreshDue pc bank true) s = .next t ∧ (t.dev.pc pc).owed = (s.dev.pc pc).owed ++ [bank]) ∧
    (∀ (s : State) (stack temp : Nat), stack < 4 → temp < 256 → s.dev.inReset 3 = false →
      ∃ t, exec (.stackTempReport stack temp) s = .next t ∧ t.dev.fld (Reg.memStackStatus stack) F.memStackStatus_temp = temp) ∧
    (∀ (s : State) (pc sector j e : Nat) (l : List Nat), pc < 128 → s.dev.pcState pc = 0 →
      s.dev.fld Reg.memCfg F.memCfg_scrubHours ≠ 0 → s.dev.regionOf pc (sector * 32) ≠ none →
      decodeGranule (s.mem, s.dev) pc (sector * 32) = (l, .symbol j e) → s.dev.checkDiff pc (sector * 32 + 16) = 0 →
      ∃ t, exec (.scrubRead pc sector) s = .next t ∧ readBytes t.mem pc (sector * 32) 16 = l) ∧
    (∀ (s : State) (pc lane left right : Nat), s.dev.pcState pc = 0 → Tab.get zero (s.dev.pc pc).centre lane < (left + right) / 2 →
      ∃ t, exec (.trackingMeasure pc lane left right) s = .next t ∧
        Tab.get zero (t.dev.pc pc).centre lane = Tab.get zero (s.dev.pc pc).centre lane + 1) ∧
    ∀ (s : State) (fn value : Nat), s.dev.mayWrite fn Reg.memTrainCtl = true → bitAt value 31 = true →
      s.dev.flag Reg.memTrainCtl F.memTrainCtl_save = false → s.dev.nvmHeld = false →
      ∃ t, exec (.memTrainSave fn value) s = .next t ∧ t.dev.nvm.centres =
        (List.range 128).flatMap fun pc => (List.range 10).map fun n => (pc * 16 + n, Tab.get zero (s.dev.pc pc).centre n)) ∧
  ((∀ (s : State) (c : Instr) (n : Nat), (c, n) ∈ [(Instr.perstRelease, 4), (.resetNRelease, 3), (.sysclkReturn, 9),
      (.supplyResetRelease, 1), (.porRelease true, 0)] →
      ∃ t, exec c s = .next t ∧ bitAt (t.dev.fld Reg.rstSrcActive F.rstSrcActive_sources) n = false) ∧
    (∀ (s : State) (c : Instr) (vf : Nat), c = .vfFlr vf ∨ c = .vfD3hot vf → 1 ≤ vf → vf ≤ s.dev.hif.numVfs → s.dev.inReset 6 = false →
      ∃ t, exec c s = .next t ∧ ∀ r < 64, t.dev.ring vf r = none) ∧
    (∀ (s : State) (n : Nat), n < s.dev.hif.numVfs → s.dev.inReset 6 = false →
      ∃ t, exec (.vfEnableClear n) s = .next t ∧ t.dev.hif.numVfs = n) ∧
    (∀ (s : State) (crew : Nat), s.dev.hif.releasing.contains crew = true →
      ∃ t, exec (.crewRelease crew) s = .next t ∧ t.dev.hif.releasing.contains crew = false ∧ ∀ k ∈ t.dev.stk.queue, k.fn ≠ crew) ∧
    (∀ (s : State) (k : Nat) (facts : ReleaseFacts), s.dev.releasable k = true →
      ∃ t, exec (.domainRelease k facts) s = .next t ∧ ∀ j < 7, t.dev.inReset j = (decide (j ≠ k) && s.dev.inReset j)) ∧
    (∀ (s : State) (k : Nat), s.dev.releasable k = true →
      ∃ t, exec (.domainClockTimeout k) s = .next t ∧ ∀ j < 7, t.dev.clockFaulted j = (decide (j = k) || s.dev.clockFaulted j)) ∧
    (∀ (s : State) (fn slot value : Nat), slot < 4 → s.dev.mayWrite fn (Reg.rstBlock slot) = true → bitAt value 31 = true →
      s.dev.flag (Reg.rstBlock slot) F.rstBlock_assert = false → value % 32 < blockCount (value / 65536 % 8) →
      ∃ t, exec (.blockResetAssert fn slot value) s = .next t ∧ t.dev.blockHeld (value / 65536 % 8) (value % 32) = true) ∧
    (∀ (s : State) (fn slot value : Nat), slot < 4 → s.dev.mayWrite fn (Reg.rstBlock slot) = true → bitAt value 31 = false →
      s.dev.flag (Reg.rstBlock slot) F.rstBlock_assert = true →
      ∃ t, exec (.blockResetRelease fn slot value) s = .next t ∧ t.dev.flag (Reg.rstBlock slot) F.rstBlock_assert = false) ∧
    (∀ s : State, s.dev.fwRuns = true → s.dev.flag Reg.rstWdt F.rstWdt_enable = true →
      ∃ t, exec .watchdogFire s = .next t ∧ t.dev.fwRuns = false ∧ t.dev.fld Reg.rstStatus F.rstStatus_fw = 3) ∧
    (∀ (s : State) (version : Nat) (x : Desc), s.dev.secReset = false → s.dev.rst.fwLoad = some x →
      s.dev.fld Reg.secFw F.secFw_fwFloor ≤ version →
      ∃ t, exec (.fwImageVerified true version) s = .next t ∧ t.dev.rst.image = some version) ∧
    (∀ (s : State) (v : Nat), s.dev.fld Reg.rstStatus F.rstStatus_fw = 3 → s.dev.inReset 5 = false → s.dev.blockHeld 7 0 = false →
      s.dev.rst.image = some v → ∃ t, exec .controllersRestarted s = .next t ∧ t.dev.fwRuns = true) ∧
    ∀ (s : State) (fn value : Nat), s.dev.mayWrite fn Reg.rstObEdit = true → bitAt value 31 = true →
      editable (value / 256 % 256) = true → optionGen s.dev.rst.inForce ≠ 0xFFFFFFFF → s.dev.optionSource = 0 → s.dev.nvmHeld = false →
      ∃ t, exec (.obEditGo fn value) s = .next t ∧
        t.dev.rst.copyB = newOptions s.dev.rst.inForce 1 [(value / 256 % 256, value % 256)]) ∧
  (∀ (s : State) (ns : Nat) (m : PtpMessage) (ps : Int), m.domain = s.dev.fld Reg.timeCtl F.timeCtl_domain → m.body = .sync ps →
      (s.dev.side s.dev.activeSide).best = some m.source →
      s.dev.ptpRuns = true → s.dev.linkUp (s.dev.sideMac s.dev.activeSide) = true → (s.dev.side s.dev.activeSide).gm = s.dev.gmLocked →
      ∃ t, exec (.ptpMessageReceive (s.dev.sideMac s.dev.activeSide) m ns) s = .next t ∧
        (t.dev.side s.dev.activeSide).sync = true ∧
        (t.dev.side s.dev.activeSide).offset = s.dev.syncOffset s.dev.activeSide ps) ∧
    (∀ (s : State) (i : Nat), i < 2 → s.dev.sideUsed i = true → s.dev.ptpRuns = true → s.dev.linkUp (s.dev.sideMac i) = true →
      ∃ t, exec (.ptpDelayReqSend i) s = .next t ∧
        Tab.get noList t.dev.egs.control (s.dev.sideMac i) = Tab.get noList s.dev.egs.control (s.dev.sideMac i) ++
          [(s.dev.ptpBytes (if s.dev.flag Reg.timeCtl F.timeCtl_mech = true then 54 else 44) + 4 * bit (s.dev.side i).vlan.isSome, none, [])]) ∧
    (∀ (s : State) (i cause : Nat), i < 2 → ∃ t, exec (.sideHealthTimeout i cause) s = .next t ∧ t.dev.healthy i = false) ∧
    (∀ s : State, s.dev.ptpRuns = true → s.dev.healthy s.dev.activeSide = false → s.dev.healthy (1 - s.dev.activeSide) = true →
      (s.dev.side (1 - s.dev.activeSide)).gm = s.dev.gmLocked →
      ∃ t, exec .ptpFailover s = .next t ∧ t.dev.activeSide = 1 - s.dev.activeSide) ∧
    (∀ (s : State) (w : Nat), s.dev.pth.wait = some w → s.dev.ptpRuns = true → w + 8000 * s.dev.wtr ≤ s.dev.now →
      s.dev.healthy s.dev.prefer = true → (s.dev.side s.dev.prefer).gm = s.dev.gmLocked → s.dev.gmLocked < 2 ^ 64 →
      ∃ t, exec .ptpRevert s = .next t ∧ t.dev.activeSide = s.dev.prefer) ∧
    (∀ s : State, s.dev.ptpRuns = true → s.dev.partitioned = false → s.dev.healthy 0 = true → s.dev.healthy 1 = true →
      (s.dev.side 0).gm ≠ (s.dev.side 1).gm → ∃ t, exec .partitionEnter s = .next t ∧ t.dev.partitioned = true) ∧
    (∀ s : State, s.dev.partitioned = true → (s.dev.side 0).gm = (s.dev.side 1).gm →
      ∃ t, exec .partitionLeave s = .next t ∧ t.dev.partitioned = false) ∧
    (∀ s : State, s.dev.healthy (1 - s.dev.activeSide) = true → s.dev.ptpRuns = true → s.dev.gmSettled = true →
      (s.dev.side (1 - s.dev.activeSide)).gm < 2 ^ 64 → (∀ j < 2, s.dev.healthy j = true → (s.dev.side j).gm ≠ s.dev.gmLocked) →
      ∃ t, exec .gmChange s = .next t ∧ t.dev.gmLocked = (s.dev.side (1 - s.dev.activeSide)).gm) ∧
    (∀ s : State, s.dev.sync = 1 → s.dev.fld Reg.timeCtl F.timeCtl_source = 0 → s.dev.healthy 0 = false → s.dev.healthy 1 = false →
      s.dev.replay = false → ∃ t, exec .syncHoldover s = .next t ∧ t.dev.sync = 2) ∧
    (∀ (s : State) (x : HealthFacts), s.dev.now % 8000 = 0 → s.dev.inReset 4 = false → x.mac < 64 →
      s.dev.flag (Reg.portMacCtl x.mac) F.portMacCtl_enable = true → (∀ p ∈ s.dev.pth.merges, p.1 < 4096) →
      (s.dev.pth.merges.map (·.1)).Nodup → s.dev.linkUp x.mac = false →
      ∃ t, exec (.healthReport [x]) s = .next t ∧ t.dev.health x.mac = 2) ∧
    (∀ (s : State) (fn value : Nat), s.dev.mayWrite fn Reg.timeAdj = true → bitAt value 31 = true → bitAt value 30 = true →
      s.dev.live = false →
      ∃ t, exec (.timeAdjGo fn value) s = .next t ∧
        t.dev.nowNs = ((s.dev.reg Reg.timeAdjSecLo).toNat + (s.dev.reg Reg.timeAdjSecHi).toNat % 65536 * 2 ^ 32) * 1000000000 +
          (s.dev.reg Reg.timeAdjNs).toNat % 2 ^ 30) ∧
    (∀ (s : State) (fn value : Nat), s.dev.basicServo = false → s.dev.mayWrite fn Reg.timeIncInt = true →
      ∃ t, exec (.timeIncWrite fn Reg.timeIncInt value) s = .next t ∧ t.dev.reg Reg.timeIncInt = BitVec.ofNat 32 (value % 16)) ∧
    (∀ s : State, s.dev.flag Reg.timeCtl F.timeCtl_tcompEn = false →
      ∃ t, exec .tcompUpdate s = .next t ∧ t.dev.tim.corr = 0) ∧
    (∀ (s : State) (n j : Nat), n < 8 → (s.dev.timeOut n).next = some j → s.dev.outEdge n j < (s.dev.now + 1) * 125000 →
      ∃ t, exec (.timedOutputEdge n) s = .next t ∧ (t.dev.timeOut n).high = true) ∧
    (∀ (s : State) (n : Nat), n ≤ 8 → (s.dev.timeOut n).high = true → (s.dev.timeOut n).ends < (s.dev.now + 1) * 125000 →
      ∃ t, exec (.timedPulseEnd n) s = .next t ∧ (t.dev.timeOut n).high = false) ∧
    (∀ s : State, s.dev.flag Reg.timePpsCfg F.timePpsCfg_outEn = true → s.dev.now % 8000 = 0 →
      ∃ t, exec .ppsOutEdge s = .next t ∧ s.dev.ShowsOnly t.dev (.pin "PPS_OUT" true)) ∧
    (∀ (s : State) (n ns : Nat) (falling : Bool), n < 5 → s.dev.inReset 2 = false →
      bitAt (s.dev.fld (Reg.timeInCfg n) F.timeInCfg_edge) (bit falling) = true →
      ¬(n = 4 ∧ falling = false ∧ s.dev.fld Reg.timeCtl F.timeCtl_source = 1) → (s.dev.captures n).length < 16 →
      ∃ t, exec (.timeInputEdge n falling ns) s = .next t ∧ t.dev.captures n = s.dev.captures n ++ [(s.dev.localNs ns, falling)]) ∧
    (∀ (s : State) (fn n x : Nat) (falling : Bool) (rest : List (Nat × Bool)), n < 5 → s.dev.sees fn (Reg.timeInNs n) = true →
      s.dev.captures n = (x, falling) :: rest →
      ∃ t, exec (.timeInNsRead fn n) s = .next t ∧ t.dev.captures n = rest ∧
        s.dev.ShowsOnly t.dev (.read fn (Reg.timeInNs n) (2 ^ 31 + bit falling * 2 ^ 30 + x % 1000000000))) ∧
    ∀ (s : State) (fn ns : Nat), s.dev.sees fn Reg.timeNowNs = true →
      ∃ t, exec (.timeNowNsRead fn ns) s = .next t ∧
        s.dev.ShowsOnly t.dev (.read fn Reg.timeNowNs (s.dev.localNs ns % 1000000000))

/-! ## Pixel arithmetic -/

/-- Pixel arithmetic and composition: a dithered component stays within DEPTH bits (R265), a search plane's sample is a nibble
(R167), an opaque layer at full global alpha hides what is beneath it and one at global alpha 0 leaves it (R263), gamut results and the
tone map stay in 20 bits (R258, R262), and an IDENTITY gamut leaves components of 20 bits as they are (R261). Where no layer's DST covers a
place the background shows (R254), a held strip repeats the co-located strip of the frame before where that was composed (R278), and a
frame is composed with the settings that its flip deadline took down (R266). -/
def Obligations.PixelArithmetic : Prop :=
  (∀ (d : Dev) (p k x y : Nat) (strip : List (List Nat)) (v : Nat),
    d.dither p k x y strip v < 2 ^ d.fld (Reg.cmpProgOut p) F.cmpProgOut_depth) ∧
  (∀ (factor ctu cols rows : Nat) (a : Nat → Nat → Nat) (x y : Nat), nibble factor ctu cols rows a x y < 16) ∧
  (∀ c below : Nat, c < 2 ^ 20 → blend false 1023 4095 c below = c) ∧
  (∀ (premult : Bool) (alpha c below : Nat), below < 2 ^ 20 → blend premult 0 alpha c below = below) ∧
  (∀ (m : List Int) (v : Nat × Nat × Nat), (gamut m v).1 < 2 ^ 20 ∧ (gamut m v).2.1 < 2 ^ 20 ∧ (gamut m v).2.2 < 2 ^ 20) ∧
  (∀ (d : Dev) (mode slot : Nat) (v : Nat × Nat × Nat), mode = 1 ∨ mode = 2 → (d.toneMap mode slot v).1 < 2 ^ 20) ∧
  (∀ (d : Dev) (slot r g b : Nat), r < 2 ^ 20 → g < 2 ^ 20 → b < 2 ^ 20 → gamut (d.gamutOf 0 slot) (r, g, b) = (r, g, b)) ∧
  (∀ (d : Dev) (p k px py : Nat) (x : ProgDyn) (layers : List (LayerCfg × Shown)),
    (∀ q ∈ layers, ¬((x.originOf k q.1).1 ≤ px ∧ (px : Int) < (x.originOf k q.1).1 + q.1.dstW ∧
      (x.originOf k q.1).2 ≤ py ∧ (py : Int) < (x.originOf k q.1).2 + q.1.dstH)) →
    d.composedAt p k x layers px py = d.backgroundOf p) ∧
  (∀ (d : Dev) (p k b : Nat) (x : ProgDyn) (i : StripImage), d.prog? p = some x → x.image? (k - 1) b = some i →
    ∃ y, (d.stripHeld p k b).prog? p = some y ∧ y.image? k b = some { i with k := k }) ∧
  ∀ (d : Dev) (p k a : Nat) (x : ProgDyn) (r : Tab Word), d.prog? p = some x → a ∈ x.lookRegs p →
    (({ d.takeLook p k with regs := r } : Dev).seen p k).reg a = d.reg a
end

