-- ==== Sys2Proof/Laws/State.lean ====
section
/-! SUPPORT. What each update of the device leaves as it was, field by field, and what it writes: all true by unfolding, and in the
simp set, so that no proof unfolds a record update. -/

namespace Sys2Proof.Machine

/-! ## fnRegs -/

theorem Dev.with_fnRegs_regs (d : Dev) (x : Tab Word) : ({ d with fnRegs := x } : Dev).regs = d.regs := rfl
theorem Dev.with_fnRegs_staged (d : Dev) (x : Tab Word) : ({ d with fnRegs := x } : Dev).staged = d.staged := rfl
theorem Dev.with_fnRegs_stk (d : Dev) (x : Tab Word) : ({ d with fnRegs := x } : Dev).stk = d.stk := rfl
theorem Dev.with_fnRegs_cox (d : Dev) (x : Tab Word) : ({ d with fnRegs := x } : Dev).cox = d.cox := rfl
theorem Dev.with_fnRegs_hif (d : Dev) (x : Tab Word) : ({ d with fnRegs := x } : Dev).hif = d.hif := rfl
theorem Dev.with_fnRegs_enc (d : Dev) (x : Tab Word) : ({ d with fnRegs := x } : Dev).enc = d.enc := rfl
theorem Dev.with_fnRegs_pools (d : Dev) (x : Tab Word) : ({ d with fnRegs := x } : Dev).pools = d.pools := rfl
theorem Dev.with_fnRegs_dec (d : Dev) (x : Tab Word) : ({ d with fnRegs := x } : Dev).dec = d.dec := rfl
theorem Dev.with_fnRegs_cmp (d : Dev) (x : Tab Word) : ({ d with fnRegs := x } : Dev).cmp = d.cmp := rfl
theorem Dev.with_fnRegs_aud (d : Dev) (x : Tab Word) : ({ d with fnRegs := x } : Dev).aud = d.aud := rfl
theorem Dev.with_fnRegs_lan (d : Dev) (x : Tab Word) : ({ d with fnRegs := x } : Dev).lan = d.lan := rfl
theorem Dev.with_fnRegs_egs (d : Dev) (x : Tab Word) : ({ d with fnRegs := x } : Dev).egs = d.egs := rfl
theorem Dev.with_fnRegs_pth (d : Dev) (x : Tab Word) : ({ d with fnRegs := x } : Dev).pth = d.pth := rfl
theorem Dev.with_fnRegs_tim (d : Dev) (x : Tab Word) : ({ d with fnRegs := x } : Dev).tim = d.tim := rfl
theorem Dev.with_fnRegs_hbm (d : Dev) (x : Tab Word) : ({ d with fnRegs := x } : Dev).hbm = d.hbm := rfl
theorem Dev.with_fnRegs_sec (d : Dev) (x : Tab Word) : ({ d with fnRegs := x } : Dev).sec = d.sec := rfl
theorem Dev.with_fnRegs_chk (d : Dev) (x : Tab Word) : ({ d with fnRegs := x } : Dev).chk = d.chk := rfl
theorem Dev.with_fnRegs_rst (d : Dev) (x : Tab Word) : ({ d with fnRegs := x } : Dev).rst = d.rst := rfl
theorem Dev.with_fnRegs_thm (d : Dev) (x : Tab Word) : ({ d with fnRegs := x } : Dev).thm = d.thm := rfl
theorem Dev.with_fnRegs_nvm (d : Dev) (x : Tab Word) : ({ d with fnRegs := x } : Dev).nvm = d.nvm := rfl
theorem Dev.with_fnRegs_pmu (d : Dev) (x : Tab Word) : ({ d with fnRegs := x } : Dev).pmu = d.pmu := rfl
theorem Dev.with_fnRegs_rpl (d : Dev) (x : Tab Word) : ({ d with fnRegs := x } : Dev).rpl = d.rpl := rfl
theorem Dev.with_fnRegs_latch (d : Dev) (x : Tab Word) : ({ d with fnRegs := x } : Dev).latch = d.latch := rfl
theorem Dev.with_fnRegs_log (d : Dev) (x : Tab Word) : ({ d with fnRegs := x } : Dev).log = d.log := rfl
theorem Dev.with_fnRegs_out (d : Dev) (x : Tab Word) : ({ d with fnRegs := x } : Dev).out = d.out := rfl
theorem Dev.with_fnRegs_free (d : Dev) (x : Tab Word) : ({ d with fnRegs := x } : Dev).free = d.free := rfl

/-! ## staged -/

theorem Dev.with_staged_regs (d : Dev) (x : Tab (Option Word)) : ({ d with staged := x } : Dev).regs = d.regs := rfl
theorem Dev.with_staged_fnRegs (d : Dev) (x : Tab (Option Word)) : ({ d with staged := x } : Dev).fnRegs = d.fnRegs := rfl
theorem Dev.with_staged_stk (d : Dev) (x : Tab (Option Word)) : ({ d with staged := x } : Dev).stk = d.stk := rfl
theorem Dev.with_staged_cox (d : Dev) (x : Tab (Option Word)) : ({ d with staged := x } : Dev).cox = d.cox := rfl
theorem Dev.with_staged_hif (d : Dev) (x : Tab (Option Word)) : ({ d with staged := x } : Dev).hif = d.hif := rfl
theorem Dev.with_staged_enc (d : Dev) (x : Tab (Option Word)) : ({ d with staged := x } : Dev).enc = d.enc := rfl
theorem Dev.with_staged_pools (d : Dev) (x : Tab (Option Word)) : ({ d with staged := x } : Dev).pools = d.pools := rfl
theorem Dev.with_staged_dec (d : Dev) (x : Tab (Option Word)) : ({ d with staged := x } : Dev).dec = d.dec := rfl
theorem Dev.with_staged_cmp (d : Dev) (x : Tab (Option Word)) : ({ d with staged := x } : Dev).cmp = d.cmp := rfl
theorem Dev.with_staged_aud (d : Dev) (x : Tab (Option Word)) : ({ d with staged := x } : Dev).aud = d.aud := rfl
theorem Dev.with_staged_lan (d : Dev) (x : Tab (Option Word)) : ({ d with staged := x } : Dev).lan = d.lan := rfl
theorem Dev.with_staged_egs (d : Dev) (x : Tab (Option Word)) : ({ d with staged := x } : Dev).egs = d.egs := rfl
theorem Dev.with_staged_pth (d : Dev) (x : Tab (Option Word)) : ({ d with staged := x } : Dev).pth = d.pth := rfl
theorem Dev.with_staged_tim (d : Dev) (x : Tab (Option Word)) : ({ d with staged := x } : Dev).tim = d.tim := rfl
theorem Dev.with_staged_hbm (d : Dev) (x : Tab (Option Word)) : ({ d with staged := x } : Dev).hbm = d.hbm := rfl
theorem Dev.with_staged_sec (d : Dev) (x : Tab (Option Word)) : ({ d with staged := x } : Dev).sec = d.sec := rfl
theorem Dev.with_staged_chk (d : Dev) (x : Tab (Option Word)) : ({ d with staged := x } : Dev).chk = d.chk := rfl
theorem Dev.with_staged_rst (d : Dev) (x : Tab (Option Word)) : ({ d with staged := x } : Dev).rst = d.rst := rfl
theorem Dev.with_staged_thm (d : Dev) (x : Tab (Option Word)) : ({ d with staged := x } : Dev).thm = d.thm := rfl
theorem Dev.with_staged_nvm (d : Dev) (x : Tab (Option Word)) : ({ d with staged := x } : Dev).nvm = d.nvm := rfl
theorem Dev.with_staged_pmu (d : Dev) (x : Tab (Option Word)) : ({ d with staged := x } : Dev).pmu = d.pmu := rfl
theorem Dev.with_staged_rpl (d : Dev) (x : Tab (Option Word)) : ({ d with staged := x } : Dev).rpl = d.rpl := rfl
theorem Dev.with_staged_latch (d : Dev) (x : Tab (Option Word)) : ({ d with staged := x } : Dev).latch = d.latch := rfl
theorem Dev.with_staged_log (d : Dev) (x : Tab (Option Word)) : ({ d with staged := x } : Dev).log = d.log := rfl
theorem Dev.with_staged_out (d : Dev) (x : Tab (Option Word)) : ({ d with staged := x } : Dev).out = d.out := rfl
theorem Dev.with_staged_free (d : Dev) (x : Tab (Option Word)) : ({ d with staged := x } : Dev).free = d.free := rfl

/-! ## setReg -/

@[simp] theorem Dev.setReg_regs (d : Dev) (a : Nat) (w : Word) : (d.setReg a w).regs = Tab.put regReset d.regs a w := rfl
@[simp] theorem Dev.setReg_staged (d : Dev) (a : Nat) (w : Word) : (d.setReg a w).staged = d.staged := rfl
@[simp] theorem Dev.setReg_fnRegs (d : Dev) (a : Nat) (w : Word) : (d.setReg a w).fnRegs = d.fnRegs := rfl
@[simp] theorem Dev.setReg_stk (d : Dev) (a : Nat) (w : Word) : (d.setReg a w).stk = d.stk := rfl
@[simp] theorem Dev.setReg_cox (d : Dev) (a : Nat) (w : Word) : (d.setReg a w).cox = d.cox := rfl
@[simp] theorem Dev.setReg_hif (d : Dev) (a : Nat) (w : Word) : (d.setReg a w).hif = d.hif := rfl
@[simp] theorem Dev.setReg_enc (d : Dev) (a : Nat) (w : Word) : (d.setReg a w).enc = d.enc := rfl
@[simp] theorem Dev.setReg_pools (d : Dev) (a : Nat) (w : Word) : (d.setReg a w).pools = d.pools := rfl
@[simp] theorem Dev.setReg_dec (d : Dev) (a : Nat) (w : Word) : (d.setReg a w).dec = d.dec := rfl
@[simp] theorem Dev.setReg_cmp (d : Dev) (a : Nat) (w : Word) : (d.setReg a w).cmp = d.cmp := rfl
@[simp] theorem Dev.setReg_aud (d : Dev) (a : Nat) (w : Word) : (d.setReg a w).aud = d.aud := rfl
@[simp] theorem Dev.setReg_lan (d : Dev) (a : Nat) (w : Word) : (d.setReg a w).lan = d.lan := rfl
@[simp] theorem Dev.setReg_egs (d : Dev) (a : Nat) (w : Word) : (d.setReg a w).egs = d.egs := rfl
@[simp] theorem Dev.setReg_pth (d : Dev) (a : Nat) (w : Word) : (d.setReg a w).pth = d.pth := rfl
@[simp] theorem Dev.setReg_tim (d : Dev) (a : Nat) (w : Word) : (d.setReg a w).tim = d.tim := rfl
@[simp] theorem Dev.setReg_hbm (d : Dev) (a : Nat) (w : Word) : (d.setReg a w).hbm = d.hbm := rfl
@[simp] theorem Dev.setReg_sec (d : Dev) (a : Nat) (w : Word) : (d.setReg a w).sec = d.sec := rfl
@[simp] theorem Dev.setReg_chk (d : Dev) (a : Nat) (w : Word) : (d.setReg a w).chk = d.chk := rfl
@[simp] theorem Dev.setReg_rst (d : Dev) (a : Nat) (w : Word) : (d.setReg a w).rst = d.rst := rfl
@[simp] theorem Dev.setReg_thm (d : Dev) (a : Nat) (w : Word) : (d.setReg a w).thm = d.thm := rfl
@[simp] theorem Dev.setReg_nvm (d : Dev) (a : Nat) (w : Word) : (d.setReg a w).nvm = d.nvm := rfl
@[simp] theorem Dev.setReg_pmu (d : Dev) (a : Nat) (w : Word) : (d.setReg a w).pmu = d.pmu := rfl
@[simp] theorem Dev.setReg_rpl (d : Dev) (a : Nat) (w : Word) : (d.setReg a w).rpl = d.rpl := rfl
@[simp] theorem Dev.setReg_latch (d : Dev) (a : Nat) (w : Word) : (d.setReg a w).latch = d.latch := rfl
@[simp] theorem Dev.setReg_log (d : Dev) (a : Nat) (w : Word) : (d.setReg a w).log = d.log := rfl
@[simp] theorem Dev.setReg_out (d : Dev) (a : Nat) (w : Word) : (d.setReg a w).out = d.out := rfl
@[simp] theorem Dev.setReg_free (d : Dev) (a : Nat) (w : Word) : (d.setReg a w).free = d.free := rfl
@[simp] theorem Dev.setReg_read_fnReg (d : Dev) (a : Nat) (w : Word) (y z : Nat) : (d.setReg a w).fnReg y z = d.fnReg y z := rfl
@[simp] theorem Dev.setReg_read_now (d : Dev) (a : Nat) (w : Word) : (d.setReg a w).now = d.now := rfl
@[simp] theorem Dev.setReg_read_nowLo (d : Dev) (a : Nat) (w : Word) : (d.setReg a w).nowLo = d.nowLo := rfl
@[simp] theorem Dev.setReg_read_owner (d : Dev) (a : Nat) (w : Word) (y z : Nat) : (d.setReg a w).owner y z = d.owner y z := rfl
@[simp] theorem Dev.setReg_read_ring (d : Dev) (a : Nat) (w : Word) (y z : Nat) : (d.setReg a w).ring y z = d.ring y z := rfl
@[simp] theorem Dev.setReg_read_itemOf (d : Dev) (a : Nat) (w : Word) (y z : Nat) : (d.setReg a w).item? y z = d.item? y z := rfl
@[simp] theorem Dev.setReg_read_encOf (d : Dev) (a : Nat) (w : Word) (y : Nat) : (d.setReg a w).enc? y = d.enc? y := rfl
@[simp] theorem Dev.setReg_read_decOf (d : Dev) (a : Nat) (w : Word) (y : Nat) : (d.setReg a w).dec? y = d.dec? y := rfl
@[simp] theorem Dev.setReg_read_progOf (d : Dev) (a : Nat) (w : Word) (y : Nat) : (d.setReg a w).prog? y = d.prog? y := rfl

/-! ## setFld -/

@[simp] theorem Dev.setFld_regs (d : Dev) (a : Nat) (f : Fld) (v : Nat) : (d.setFld a f v).regs = Tab.put regReset d.regs a (f.set (d.reg a) v) := rfl
@[simp] theorem Dev.setFld_staged (d : Dev) (a : Nat) (f : Fld) (v : Nat) : (d.setFld a f v).staged = d.staged := rfl
@[simp] theorem Dev.setFld_fnRegs (d : Dev) (a : Nat) (f : Fld) (v : Nat) : (d.setFld a f v).fnRegs = d.fnRegs := rfl
@[simp] theorem Dev.setFld_stk (d : Dev) (a : Nat) (f : Fld) (v : Nat) : (d.setFld a f v).stk = d.stk := rfl
@[simp] theorem Dev.setFld_cox (d : Dev) (a : Nat) (f : Fld) (v : Nat) : (d.setFld a f v).cox = d.cox := rfl
@[simp] theorem Dev.setFld_hif (d : Dev) (a : Nat) (f : Fld) (v : Nat) : (d.setFld a f v).hif = d.hif := rfl
@[simp] theorem Dev.setFld_enc (d : Dev) (a : Nat) (f : Fld) (v : Nat) : (d.setFld a f v).enc = d.enc := rfl
@[simp] theorem Dev.setFld_pools (d : Dev) (a : Nat) (f : Fld) (v : Nat) : (d.setFld a f v).pools = d.pools := rfl
@[simp] theorem Dev.setFld_dec (d : Dev) (a : Nat) (f : Fld) (v : Nat) : (d.setFld a f v).dec = d.dec := rfl
@[simp] theorem Dev.setFld_cmp (d : Dev) (a : Nat) (f : Fld) (v : Nat) : (d.setFld a f v).cmp = d.cmp := rfl
@[simp] theorem Dev.setFld_aud (d : Dev) (a : Nat) (f : Fld) (v : Nat) : (d.setFld a f v).aud = d.aud := rfl
@[simp] theorem Dev.setFld_lan (d : Dev) (a : Nat) (f : Fld) (v : Nat) : (d.setFld a f v).lan = d.lan := rfl
@[simp] theorem Dev.setFld_egs (d : Dev) (a : Nat) (f : Fld) (v : Nat) : (d.setFld a f v).egs = d.egs := rfl
@[simp] theorem Dev.setFld_pth (d : Dev) (a : Nat) (f : Fld) (v : Nat) : (d.setFld a f v).pth = d.pth := rfl
@[simp] theorem Dev.setFld_tim (d : Dev) (a : Nat) (f : Fld) (v : Nat) : (d.setFld a f v).tim = d.tim := rfl
@[simp] theorem Dev.setFld_hbm (d : Dev) (a : Nat) (f : Fld) (v : Nat) : (d.setFld a f v).hbm = d.hbm := rfl
@[simp] theorem Dev.setFld_sec (d : Dev) (a : Nat) (f : Fld) (v : Nat) : (d.setFld a f v).sec = d.sec := rfl
@[simp] theorem Dev.setFld_chk (d : Dev) (a : Nat) (f : Fld) (v : Nat) : (d.setFld a f v).chk = d.chk := rfl
@[simp] theorem Dev.setFld_rst (d : Dev) (a : Nat) (f : Fld) (v : Nat) : (d.setFld a f v).rst = d.rst := rfl
@[simp] theorem Dev.setFld_thm (d : Dev) (a : Nat) (f : Fld) (v : Nat) : (d.setFld a f v).thm = d.thm := rfl
@[simp] theorem Dev.setFld_nvm (d : Dev) (a : Nat) (f : Fld) (v : Nat) : (d.setFld a f v).nvm = d.nvm := rfl
@[simp] theorem Dev.setFld_pmu (d : Dev) (a : Nat) (f : Fld) (v : Nat) : (d.setFld a f v).pmu = d.pmu := rfl
@[simp] theorem Dev.setFld_rpl (d : Dev) (a : Nat) (f : Fld) (v : Nat) : (d.setFld a f v).rpl = d.rpl := rfl
@[simp] theorem Dev.setFld_latch (d : Dev) (a : Nat) (f : Fld) (v : Nat) : (d.setFld a f v).latch = d.latch := rfl
@[simp] theorem Dev.setFld_log (d : Dev) (a : Nat) (f : Fld) (v : Nat) : (d.setFld a f v).log = d.log := rfl
@[simp] theorem Dev.setFld_out (d : Dev) (a : Nat) (f : Fld) (v : Nat) : (d.setFld a f v).out = d.out := rfl
@[simp] theorem Dev.setFld_free (d : Dev) (a : Nat) (f : Fld) (v : Nat) : (d.setFld a f v).free = d.free := rfl
@[simp] theorem Dev.setFld_read_fnReg (d : Dev) (a : Nat) (f : Fld) (v : Nat) (y z : Nat) : (d.setFld a f v).fnReg y z = d.fnReg y z := rfl
@[simp] theorem Dev.setFld_read_now (d : Dev) (a : Nat) (f : Fld) (v : Nat) : (d.setFld a f v).now = d.now := rfl
@[simp] theorem Dev.setFld_read_nowLo (d : Dev) (a : Nat) (f : Fld) (v : Nat) : (d.setFld a f v).nowLo = d.nowLo := rfl
@[simp] theorem Dev.setFld_read_owner (d : Dev) (a : Nat) (f : Fld) (v : Nat) (y z : Nat) : (d.setFld a f v).owner y z = d.owner y z := rfl
@[simp] theorem Dev.setFld_read_ring (d : Dev) (a : Nat) (f : Fld) (v : Nat) (y z : Nat) : (d.setFld a f v).ring y z = d.ring y z := rfl
@[simp] theorem Dev.setFld_read_itemOf (d : Dev) (a : Nat) (f : Fld) (v : Nat) (y z : Nat) : (d.setFld a f v).item? y z = d.item? y z := rfl
@[simp] theorem Dev.setFld_read_encOf (d : Dev) (a : Nat) (f : Fld) (v : Nat) (y : Nat) : (d.setFld a f v).enc? y = d.enc? y := rfl
@[simp] theorem Dev.setFld_read_decOf (d : Dev) (a : Nat) (f : Fld) (v : Nat) (y : Nat) : (d.setFld a f v).dec? y = d.dec? y := rfl
@[simp] theorem Dev.setFld_read_progOf (d : Dev) (a : Nat) (f : Fld) (v : Nat) (y : Nat) : (d.setFld a f v).prog? y = d.prog? y := rfl

/-! ## addFld -/

@[simp] theorem Dev.addFld_staged (d : Dev) (a : Nat) (f : Fld) (n : Nat) : (d.addFld a f n).staged = d.staged := rfl
@[simp] theorem Dev.addFld_fnRegs (d : Dev) (a : Nat) (f : Fld) (n : Nat) : (d.addFld a f n).fnRegs = d.fnRegs := rfl
@[simp] theorem Dev.addFld_stk (d : Dev) (a : Nat) (f : Fld) (n : Nat) : (d.addFld a f n).stk = d.stk := rfl
@[simp] theorem Dev.addFld_cox (d : Dev) (a : Nat) (f : Fld) (n : Nat) : (d.addFld a f n).cox = d.cox := rfl
@[simp] theorem Dev.addFld_hif (d : Dev) (a : Nat) (f : Fld) (n : Nat) : (d.addFld a f n).hif = d.hif := rfl
@[simp] theorem Dev.addFld_enc (d : Dev) (a : Nat) (f : Fld) (n : Nat) : (d.addFld a f n).enc = d.enc := rfl
@[simp] theorem Dev.addFld_pools (d : Dev) (a : Nat) (f : Fld) (n : Nat) : (d.addFld a f n).pools = d.pools := rfl
@[simp] theorem Dev.addFld_dec (d : Dev) (a : Nat) (f : Fld) (n : Nat) : (d.addFld a f n).dec = d.dec := rfl
@[simp] theorem Dev.addFld_cmp (d : Dev) (a : Nat) (f : Fld) (n : Nat) : (d.addFld a f n).cmp = d.cmp := rfl
@[simp] theorem Dev.addFld_aud (d : Dev) (a : Nat) (f : Fld) (n : Nat) : (d.addFld a f n).aud = d.aud := rfl
@[simp] theorem Dev.addFld_lan (d : Dev) (a : Nat) (f : Fld) (n : Nat) : (d.addFld a f n).lan = d.lan := rfl
@[simp] theorem Dev.addFld_egs (d : Dev) (a : Nat) (f : Fld) (n : Nat) : (d.addFld a f n).egs = d.egs := rfl
@[simp] theorem Dev.addFld_pth (d : Dev) (a : Nat) (f : Fld) (n : Nat) : (d.addFld a f n).pth = d.pth := rfl
@[simp] theorem Dev.addFld_tim (d : Dev) (a : Nat) (f : Fld) (n : Nat) : (d.addFld a f n).tim = d.tim := rfl
@[simp] theorem Dev.addFld_hbm (d : Dev) (a : Nat) (f : Fld) (n : Nat) : (d.addFld a f n).hbm = d.hbm := rfl
@[simp] theorem Dev.addFld_sec (d : Dev) (a : Nat) (f : Fld) (n : Nat) : (d.addFld a f n).sec = d.sec := rfl
@[simp] theorem Dev.addFld_chk (d : Dev) (a : Nat) (f : Fld) (n : Nat) : (d.addFld a f n).chk = d.chk := rfl
@[simp] theorem Dev.addFld_rst (d : Dev) (a : Nat) (f : Fld) (n : Nat) : (d.addFld a f n).rst = d.rst := rfl
@[simp] theorem Dev.addFld_thm (d : Dev) (a : Nat) (f : Fld) (n : Nat) : (d.addFld a f n).thm = d.thm := rfl
@[simp] theorem Dev.addFld_nvm (d : Dev) (a : Nat) (f : Fld) (n : Nat) : (d.addFld a f n).nvm = d.nvm := rfl
@[simp] theorem Dev.addFld_pmu (d : Dev) (a : Nat) (f : Fld) (n : Nat) : (d.addFld a f n).pmu = d.pmu := rfl
@[simp] theorem Dev.addFld_rpl (d : Dev) (a : Nat) (f : Fld) (n : Nat) : (d.addFld a f n).rpl = d.rpl := rfl
@[simp] theorem Dev.addFld_latch (d : Dev) (a : Nat) (f : Fld) (n : Nat) : (d.addFld a f n).latch = d.latch := rfl
@[simp] theorem Dev.addFld_log (d : Dev) (a : Nat) (f : Fld) (n : Nat) : (d.addFld a f n).log = d.log := rfl
@[simp] theorem Dev.addFld_out (d : Dev) (a : Nat) (f : Fld) (n : Nat) : (d.addFld a f n).out = d.out := rfl
@[simp] theorem Dev.addFld_free (d : Dev) (a : Nat) (f : Fld) (n : Nat) : (d.addFld a f n).free = d.free := rfl
@[simp] theorem Dev.addFld_read_fnReg (d : Dev) (a : Nat) (f : Fld) (n : Nat) (y z : Nat) : (d.addFld a f n).fnReg y z = d.fnReg y z := rfl
@[simp] theorem Dev.addFld_read_now (d : Dev) (a : Nat) (f : Fld) (n : Nat) : (d.addFld a f n).now = d.now := rfl
@[simp] theorem Dev.addFld_read_nowLo (d : Dev) (a : Nat) (f : Fld) (n : Nat) : (d.addFld a f n).nowLo = d.nowLo := rfl
@[simp] theorem Dev.addFld_read_owner (d : Dev) (a : Nat) (f : Fld) (n : Nat) (y z : Nat) : (d.addFld a f n).owner y z = d.owner y z := rfl
@[simp] theorem Dev.addFld_read_ring (d : Dev) (a : Nat) (f : Fld) (n : Nat) (y z : Nat) : (d.addFld a f n).ring y z = d.ring y z := rfl
@[simp] theorem Dev.addFld_read_itemOf (d : Dev) (a : Nat) (f : Fld) (n : Nat) (y z : Nat) : (d.addFld a f n).item? y z = d.item? y z := rfl
@[simp] theorem Dev.addFld_read_encOf (d : Dev) (a : Nat) (f : Fld) (n : Nat) (y : Nat) : (d.addFld a f n).enc? y = d.enc? y := rfl
@[simp] theorem Dev.addFld_read_decOf (d : Dev) (a : Nat) (f : Fld) (n : Nat) (y : Nat) : (d.addFld a f n).dec? y = d.dec? y := rfl
@[simp] theorem Dev.addFld_read_progOf (d : Dev) (a : Nat) (f : Fld) (n : Nat) (y : Nat) : (d.addFld a f n).prog? y = d.prog? y := rfl

/-! ## satFld -/

@[simp] theorem Dev.satFld_staged (d : Dev) (a : Nat) (f : Fld) (n : Nat) : (d.satFld a f n).staged = d.staged := rfl
@[simp] theorem Dev.satFld_fnRegs (d : Dev) (a : Nat) (f : Fld) (n : Nat) : (d.satFld a f n).fnRegs = d.fnRegs := rfl
@[simp] theorem Dev.satFld_stk (d : Dev) (a : Nat) (f : Fld) (n : Nat) : (d.satFld a f n).stk = d.stk := rfl
@[simp] theorem Dev.satFld_cox (d : Dev) (a : Nat) (f : Fld) (n : Nat) : (d.satFld a f n).cox = d.cox := rfl
@[simp] theorem Dev.satFld_hif (d : Dev) (a : Nat) (f : Fld) (n : Nat) : (d.satFld a f n).hif = d.hif := rfl
@[simp] theorem Dev.satFld_enc (d : Dev) (a : Nat) (f : Fld) (n : Nat) : (d.satFld a f n).enc = d.enc := rfl
@[simp] theorem Dev.satFld_pools (d : Dev) (a : Nat) (f : Fld) (n : Nat) : (d.satFld a f n).pools = d.pools := rfl
@[simp] theorem Dev.satFld_dec (d : Dev) (a : Nat) (f : Fld) (n : Nat) : (d.satFld a f n).dec = d.dec := rfl
@[simp] theorem Dev.satFld_cmp (d : Dev) (a : Nat) (f : Fld) (n : Nat) : (d.satFld a f n).cmp = d.cmp := rfl
@[simp] theorem Dev.satFld_aud (d : Dev) (a : Nat) (f : Fld) (n : Nat) : (d.satFld a f n).aud = d.aud := rfl
@[simp] theorem Dev.satFld_lan (d : Dev) (a : Nat) (f : Fld) (n : Nat) : (d.satFld a f n).lan = d.lan := rfl
@[simp] theorem Dev.satFld_egs (d : Dev) (a : Nat) (f : Fld) (n : Nat) : (d.satFld a f n).egs = d.egs := rfl
@[simp] theorem Dev.satFld_pth (d : Dev) (a : Nat) (f : Fld) (n : Nat) : (d.satFld a f n).pth = d.pth := rfl
@[simp] theorem Dev.satFld_tim (d : Dev) (a : Nat) (f : Fld) (n : Nat) : (d.satFld a f n).tim = d.tim := rfl
@[simp] theorem Dev.satFld_hbm (d : Dev) (a : Nat) (f : Fld) (n : Nat) : (d.satFld a f n).hbm = d.hbm := rfl
@[simp] theorem Dev.satFld_sec (d : Dev) (a : Nat) (f : Fld) (n : Nat) : (d.satFld a f n).sec = d.sec := rfl
@[simp] theorem Dev.satFld_chk (d : Dev) (a : Nat) (f : Fld) (n : Nat) : (d.satFld a f n).chk = d.chk := rfl
@[simp] theorem Dev.satFld_rst (d : Dev) (a : Nat) (f : Fld) (n : Nat) : (d.satFld a f n).rst = d.rst := rfl
@[simp] theorem Dev.satFld_thm (d : Dev) (a : Nat) (f : Fld) (n : Nat) : (d.satFld a f n).thm = d.thm := rfl
@[simp] theorem Dev.satFld_nvm (d : Dev) (a : Nat) (f : Fld) (n : Nat) : (d.satFld a f n).nvm = d.nvm := rfl
@[simp] theorem Dev.satFld_pmu (d : Dev) (a : Nat) (f : Fld) (n : Nat) : (d.satFld a f n).pmu = d.pmu := rfl
@[simp] theorem Dev.satFld_rpl (d : Dev) (a : Nat) (f : Fld) (n : Nat) : (d.satFld a f n).rpl = d.rpl := rfl
@[simp] theorem Dev.satFld_latch (d : Dev) (a : Nat) (f : Fld) (n : Nat) : (d.satFld a f n).latch = d.latch := rfl
@[simp] theorem Dev.satFld_log (d : Dev) (a : Nat) (f : Fld) (n : Nat) : (d.satFld a f n).log = d.log := rfl
@[simp] theorem Dev.satFld_out (d : Dev) (a : Nat) (f : Fld) (n : Nat) : (d.satFld a f n).out = d.out := rfl
@[simp] theorem Dev.satFld_free (d : Dev) (a : Nat) (f : Fld) (n : Nat) : (d.satFld a f n).free = d.free := rfl
@[simp] theorem Dev.satFld_read_fnReg (d : Dev) (a : Nat) (f : Fld) (n : Nat) (y z : Nat) : (d.satFld a f n).fnReg y z = d.fnReg y z := rfl
@[simp] theorem Dev.satFld_read_now (d : Dev) (a : Nat) (f : Fld) (n : Nat) : (d.satFld a f n).now = d.now := rfl
@[simp] theorem Dev.satFld_read_nowLo (d : Dev) (a : Nat) (f : Fld) (n : Nat) : (d.satFld a f n).nowLo = d.nowLo := rfl
@[simp] theorem Dev.satFld_read_owner (d : Dev) (a : Nat) (f : Fld) (n : Nat) (y z : Nat) : (d.satFld a f n).owner y z = d.owner y z := rfl
@[simp] theorem Dev.satFld_read_ring (d : Dev) (a : Nat) (f : Fld) (n : Nat) (y z : Nat) : (d.satFld a f n).ring y z = d.ring y z := rfl
@[simp] theorem Dev.satFld_read_itemOf (d : Dev) (a : Nat) (f : Fld) (n : Nat) (y z : Nat) : (d.satFld a f n).item? y z = d.item? y z := rfl
@[simp] theorem Dev.satFld_read_encOf (d : Dev) (a : Nat) (f : Fld) (n : Nat) (y : Nat) : (d.satFld a f n).enc? y = d.enc? y := rfl
@[simp] theorem Dev.satFld_read_decOf (d : Dev) (a : Nat) (f : Fld) (n : Nat) (y : Nat) : (d.satFld a f n).dec? y = d.dec? y := rfl
@[simp] theorem Dev.satFld_read_progOf (d : Dev) (a : Nat) (f : Fld) (n : Nat) (y : Nat) : (d.satFld a f n).prog? y = d.prog? y := rfl

/-! ## clearRegs -/

@[simp] theorem Dev.clearRegs_staged (d : Dev) (lo hi : Nat) : (d.clearRegs lo hi).staged = d.staged := rfl
@[simp] theorem Dev.clearRegs_fnRegs (d : Dev) (lo hi : Nat) : (d.clearRegs lo hi).fnRegs = d.fnRegs := rfl
@[simp] theorem Dev.clearRegs_stk (d : Dev) (lo hi : Nat) : (d.clearRegs lo hi).stk = d.stk := rfl
@[simp] theorem Dev.clearRegs_cox (d : Dev) (lo hi : Nat) : (d.clearRegs lo hi).cox = d.cox := rfl
@[simp] theorem Dev.clearRegs_hif (d : Dev) (lo hi : Nat) : (d.clearRegs lo hi).hif = d.hif := rfl
@[simp] theorem Dev.clearRegs_enc (d : Dev) (lo hi : Nat) : (d.clearRegs lo hi).enc = d.enc := rfl
@[simp] theorem Dev.clearRegs_pools (d : Dev) (lo hi : Nat) : (d.clearRegs lo hi).pools = d.pools := rfl
@[simp] theorem Dev.clearRegs_dec (d : Dev) (lo hi : Nat) : (d.clearRegs lo hi).dec = d.dec := rfl
@[simp] theorem Dev.clearRegs_cmp (d : Dev) (lo hi : Nat) : (d.clearRegs lo hi).cmp = d.cmp := rfl
@[simp] theorem Dev.clearRegs_aud (d : Dev) (lo hi : Nat) : (d.clearRegs lo hi).aud = d.aud := rfl
@[simp] theorem Dev.clearRegs_lan (d : Dev) (lo hi : Nat) : (d.clearRegs lo hi).lan = d.lan := rfl
@[simp] theorem Dev.clearRegs_egs (d : Dev) (lo hi : Nat) : (d.clearRegs lo hi).egs = d.egs := rfl
@[simp] theorem Dev.clearRegs_pth (d : Dev) (lo hi : Nat) : (d.clearRegs lo hi).pth = d.pth := rfl
@[simp] theorem Dev.clearRegs_tim (d : Dev) (lo hi : Nat) : (d.clearRegs lo hi).tim = d.tim := rfl
@[simp] theorem Dev.clearRegs_hbm (d : Dev) (lo hi : Nat) : (d.clearRegs lo hi).hbm = d.hbm := rfl
@[simp] theorem Dev.clearRegs_sec (d : Dev) (lo hi : Nat) : (d.clearRegs lo hi).sec = d.sec := rfl
@[simp] theorem Dev.clearRegs_chk (d : Dev) (lo hi : Nat) : (d.clearRegs lo hi).chk = d.chk := rfl
@[simp] theorem Dev.clearRegs_rst (d : Dev) (lo hi : Nat) : (d.clearRegs lo hi).rst = d.rst := rfl
@[simp] theorem Dev.clearRegs_thm (d : Dev) (lo hi : Nat) : (d.clearRegs lo hi).thm = d.thm := rfl
@[simp] theorem Dev.clearRegs_nvm (d : Dev) (lo hi : Nat) : (d.clearRegs lo hi).nvm = d.nvm := rfl
@[simp] theorem Dev.clearRegs_pmu (d : Dev) (lo hi : Nat) : (d.clearRegs lo hi).pmu = d.pmu := rfl
@[simp] theorem Dev.clearRegs_rpl (d : Dev) (lo hi : Nat) : (d.clearRegs lo hi).rpl = d.rpl := rfl
@[simp] theorem Dev.clearRegs_latch (d : Dev) (lo hi : Nat) : (d.clearRegs lo hi).latch = d.latch := rfl
@[simp] theorem Dev.clearRegs_log (d : Dev) (lo hi : Nat) : (d.clearRegs lo hi).log = d.log := rfl
@[simp] theorem Dev.clearRegs_out (d : Dev) (lo hi : Nat) : (d.clearRegs lo hi).out = d.out := rfl
@[simp] theorem Dev.clearRegs_free (d : Dev) (lo hi : Nat) : (d.clearRegs lo hi).free = d.free := rfl
@[simp] theorem Dev.clearRegs_read_fnReg (d : Dev) (lo hi : Nat) (y z : Nat) : (d.clearRegs lo hi).fnReg y z = d.fnReg y z := rfl
@[simp] theorem Dev.clearRegs_read_now (d : Dev) (lo hi : Nat) : (d.clearRegs lo hi).now = d.now := rfl
@[simp] theorem Dev.clearRegs_read_nowLo (d : Dev) (lo hi : Nat) : (d.clearRegs lo hi).nowLo = d.nowLo := rfl
@[simp] theorem Dev.clearRegs_read_owner (d : Dev) (lo hi : Nat) (y z : Nat) : (d.clearRegs lo hi).owner y z = d.owner y z := rfl
@[simp] theorem Dev.clearRegs_read_ring (d : Dev) (lo hi : Nat) (y z : Nat) : (d.clearRegs lo hi).ring y z = d.ring y z := rfl
@[simp] theorem Dev.clearRegs_read_itemOf (d : Dev) (lo hi : Nat) (y z : Nat) : (d.clearRegs lo hi).item? y z = d.item? y z := rfl
@[simp] theorem Dev.clearRegs_read_encOf (d : Dev) (lo hi : Nat) (y : Nat) : (d.clearRegs lo hi).enc? y = d.enc? y := rfl
@[simp] theorem Dev.clearRegs_read_decOf (d : Dev) (lo hi : Nat) (y : Nat) : (d.clearRegs lo hi).dec? y = d.dec? y := rfl
@[simp] theorem Dev.clearRegs_read_progOf (d : Dev) (lo hi : Nat) (y : Nat) : (d.clearRegs lo hi).prog? y = d.prog? y := rfl

/-! ## setFnReg -/

@[simp] theorem Dev.setFnReg_regs (d : Dev) (fn a : Nat) (w : Word) : (d.setFnReg fn a w).regs = d.regs := Dev.with_fnRegs_regs _ _
@[simp] theorem Dev.setFnReg_staged (d : Dev) (fn a : Nat) (w : Word) : (d.setFnReg fn a w).staged = d.staged := Dev.with_fnRegs_staged _ _
@[simp] theorem Dev.setFnReg_fnRegs (d : Dev) (fn a : Nat) (w : Word) : (d.setFnReg fn a w).fnRegs = Tab.put fnReset d.fnRegs (fnKey fn a) w := rfl
@[simp] theorem Dev.setFnReg_stk (d : Dev) (fn a : Nat) (w : Word) : (d.setFnReg fn a w).stk = d.stk := Dev.with_fnRegs_stk _ _
@[simp] theorem Dev.setFnReg_cox (d : Dev) (fn a : Nat) (w : Word) : (d.setFnReg fn a w).cox = d.cox := Dev.with_fnRegs_cox _ _
@[simp] theorem Dev.setFnReg_hif (d : Dev) (fn a : Nat) (w : Word) : (d.setFnReg fn a w).hif = d.hif := Dev.with_fnRegs_hif _ _
@[simp] theorem Dev.setFnReg_enc (d : Dev) (fn a : Nat) (w : Word) : (d.setFnReg fn a w).enc = d.enc := Dev.with_fnRegs_enc _ _
@[simp] theorem Dev.setFnReg_pools (d : Dev) (fn a : Nat) (w : Word) : (d.setFnReg fn a w).pools = d.pools := Dev.with_fnRegs_pools _ _
@[simp] theorem Dev.setFnReg_dec (d : Dev) (fn a : Nat) (w : Word) : (d.setFnReg fn a w).dec = d.dec := Dev.with_fnRegs_dec _ _
@[simp] theorem Dev.setFnReg_cmp (d : Dev) (fn a : Nat) (w : Word) : (d.setFnReg fn a w).cmp = d.cmp := Dev.with_fnRegs_cmp _ _
@[simp] theorem Dev.setFnReg_aud (d : Dev) (fn a : Nat) (w : Word) : (d.setFnReg fn a w).aud = d.aud := Dev.with_fnRegs_aud _ _
@[simp] theorem Dev.setFnReg_lan (d : Dev) (fn a : Nat) (w : Word) : (d.setFnReg fn a w).lan = d.lan := Dev.with_fnRegs_lan _ _
@[simp] theorem Dev.setFnReg_egs (d : Dev) (fn a : Nat) (w : Word) : (d.setFnReg fn a w).egs = d.egs := Dev.with_fnRegs_egs _ _
@[simp] theorem Dev.setFnReg_pth (d : Dev) (fn a : Nat) (w : Word) : (d.setFnReg fn a w).pth = d.pth := Dev.with_fnRegs_pth _ _
@[simp] theorem Dev.setFnReg_tim (d : Dev) (fn a : Nat) (w : Word) : (d.setFnReg fn a w).tim = d.tim := Dev.with_fnRegs_tim _ _
@[simp] theorem Dev.setFnReg_hbm (d : Dev) (fn a : Nat) (w : Word) : (d.setFnReg fn a w).hbm = d.hbm := Dev.with_fnRegs_hbm _ _
@[simp] theorem Dev.setFnReg_sec (d : Dev) (fn a : Nat) (w : Word) : (d.setFnReg fn a w).sec = d.sec := Dev.with_fnRegs_sec _ _
@[simp] theorem Dev.setFnReg_chk (d : Dev) (fn a : Nat) (w : Word) : (d.setFnReg fn a w).chk = d.chk := Dev.with_fnRegs_chk _ _
@[simp] theorem Dev.setFnReg_rst (d : Dev) (fn a : Nat) (w : Word) : (d.setFnReg fn a w).rst = d.rst := Dev.with_fnRegs_rst _ _
@[simp] theorem Dev.setFnReg_thm (d : Dev) (fn a : Nat) (w : Word) : (d.setFnReg fn a w).thm = d.thm := Dev.with_fnRegs_thm _ _
@[simp] theorem Dev.setFnReg_nvm (d : Dev) (fn a : Nat) (w : Word) : (d.setFnReg fn a w).nvm = d.nvm := Dev.with_fnRegs_nvm _ _
@[simp] theorem Dev.setFnReg_pmu (d : Dev) (fn a : Nat) (w : Word) : (d.setFnReg fn a w).pmu = d.pmu := Dev.with_fnRegs_pmu _ _
@[simp] theorem Dev.setFnReg_rpl (d : Dev) (fn a : Nat) (w : Word) : (d.setFnReg fn a w).rpl = d.rpl := Dev.with_fnRegs_rpl _ _
@[simp] theorem Dev.setFnReg_latch (d : Dev) (fn a : Nat) (w : Word) : (d.setFnReg fn a w).latch = d.latch := Dev.with_fnRegs_latch _ _
@[simp] theorem Dev.setFnReg_log (d : Dev) (fn a : Nat) (w : Word) : (d.setFnReg fn a w).log = d.log := Dev.with_fnRegs_log _ _
@[simp] theorem Dev.setFnReg_out (d : Dev) (fn a : Nat) (w : Word) : (d.setFnReg fn a w).out = d.out := Dev.with_fnRegs_out _ _
@[simp] theorem Dev.setFnReg_free (d : Dev) (fn a : Nat) (w : Word) : (d.setFnReg fn a w).free = d.free := Dev.with_fnRegs_free _ _
@[simp] theorem Dev.setFnReg_read_reg (d : Dev) (fn a : Nat) (w : Word) (y : Nat) : (d.setFnReg fn a w).reg y = d.reg y := by simp only [Dev.reg, Dev.setFnReg_regs]
@[simp] theorem Dev.setFnReg_read_now (d : Dev) (fn a : Nat) (w : Word) : (d.setFnReg fn a w).now = d.now := by simp only [Dev.now, Dev.setFnReg_stk]
@[simp] theorem Dev.setFnReg_read_nowLo (d : Dev) (fn a : Nat) (w : Word) : (d.setFnReg fn a w).nowLo = d.nowLo := by simp only [Dev.nowLo, Dev.setFnReg_stk]
@[simp] theorem Dev.setFnReg_read_owner (d : Dev) (fn a : Nat) (w : Word) (y z : Nat) : (d.setFnReg fn a w).owner y z = d.owner y z := by simp only [Dev.owner, Dev.setFnReg_sec]
@[simp] theorem Dev.setFnReg_read_ring (d : Dev) (fn a : Nat) (w : Word) (y z : Nat) : (d.setFnReg fn a w).ring y z = d.ring y z := by simp only [Dev.ring, Dev.setFnReg_hif]
@[simp] theorem Dev.setFnReg_read_itemOf (d : Dev) (fn a : Nat) (w : Word) (y z : Nat) : (d.setFnReg fn a w).item? y z = d.item? y z := by simp only [Dev.item?, Dev.setFnReg_cox]
@[simp] theorem Dev.setFnReg_read_encOf (d : Dev) (fn a : Nat) (w : Word) (y : Nat) : (d.setFnReg fn a w).enc? y = d.enc? y := by simp only [Dev.enc?, Dev.setFnReg_enc]
@[simp] theorem Dev.setFnReg_read_decOf (d : Dev) (fn a : Nat) (w : Word) (y : Nat) : (d.setFnReg fn a w).dec? y = d.dec? y := by simp only [Dev.dec?, Dev.setFnReg_dec]
@[simp] theorem Dev.setFnReg_read_progOf (d : Dev) (fn a : Nat) (w : Word) (y : Nat) : (d.setFnReg fn a w).prog? y = d.prog? y := by simp only [Dev.prog?, Dev.setFnReg_cmp]

/-! ## stage -/

@[simp] theorem Dev.stage_regs (d : Dev) (fn a : Nat) (w : Word) : (d.stage fn a w).regs = d.regs := Dev.with_staged_regs _ _
@[simp] theorem Dev.stage_fnRegs (d : Dev) (fn a : Nat) (w : Word) : (d.stage fn a w).fnRegs = d.fnRegs := Dev.with_staged_fnRegs _ _
@[simp] theorem Dev.stage_stk (d : Dev) (fn a : Nat) (w : Word) : (d.stage fn a w).stk = d.stk := Dev.with_staged_stk _ _
@[simp] theorem Dev.stage_cox (d : Dev) (fn a : Nat) (w : Word) : (d.stage fn a w).cox = d.cox := Dev.with_staged_cox _ _
@[simp] theorem Dev.stage_hif (d : Dev) (fn a : Nat) (w : Word) : (d.stage fn a w).hif = d.hif := Dev.with_staged_hif _ _
@[simp] theorem Dev.stage_enc (d : Dev) (fn a : Nat) (w : Word) : (d.stage fn a w).enc = d.enc := Dev.with_staged_enc _ _
@[simp] theorem Dev.stage_pools (d : Dev) (fn a : Nat) (w : Word) : (d.stage fn a w).pools = d.pools := Dev.with_staged_pools _ _
@[simp] theorem Dev.stage_dec (d : Dev) (fn a : Nat) (w : Word) : (d.stage fn a w).dec = d.dec := Dev.with_staged_dec _ _
@[simp] theorem Dev.stage_cmp (d : Dev) (fn a : Nat) (w : Word) : (d.stage fn a w).cmp = d.cmp := Dev.with_staged_cmp _ _
@[simp] theorem Dev.stage_aud (d : Dev) (fn a : Nat) (w : Word) : (d.stage fn a w).aud = d.aud := Dev.with_staged_aud _ _
@[simp] theorem Dev.stage_lan (d : Dev) (fn a : Nat) (w : Word) : (d.stage fn a w).lan = d.lan := Dev.with_staged_lan _ _
@[simp] theorem Dev.stage_egs (d : Dev) (fn a : Nat) (w : Word) : (d.stage fn a w).egs = d.egs := Dev.with_staged_egs _ _
@[simp] theorem Dev.stage_pth (d : Dev) (fn a : Nat) (w : Word) : (d.stage fn a w).pth = d.pth := Dev.with_staged_pth _ _
@[simp] theorem Dev.stage_tim (d : Dev) (fn a : Nat) (w : Word) : (d.stage fn a w).tim = d.tim := Dev.with_staged_tim _ _
@[simp] theorem Dev.stage_hbm (d : Dev) (fn a : Nat) (w : Word) : (d.stage fn a w).hbm = d.hbm := Dev.with_staged_hbm _ _
@[simp] theorem Dev.stage_sec (d : Dev) (fn a : Nat) (w : Word) : (d.stage fn a w).sec = d.sec := Dev.with_staged_sec _ _
@[simp] theorem Dev.stage_chk (d : Dev) (fn a : Nat) (w : Word) : (d.stage fn a w).chk = d.chk := Dev.with_staged_chk _ _
@[simp] theorem Dev.stage_rst (d : Dev) (fn a : Nat) (w : Word) : (d.stage fn a w).rst = d.rst := Dev.with_staged_rst _ _
@[simp] theorem Dev.stage_thm (d : Dev) (fn a : Nat) (w : Word) : (d.stage fn a w).thm = d.thm := Dev.with_staged_thm _ _
@[simp] theorem Dev.stage_nvm (d : Dev) (fn a : Nat) (w : Word) : (d.stage fn a w).nvm = d.nvm := Dev.with_staged_nvm _ _
@[simp] theorem Dev.stage_pmu (d : Dev) (fn a : Nat) (w : Word) : (d.stage fn a w).pmu = d.pmu := Dev.with_staged_pmu _ _
@[simp] theorem Dev.stage_rpl (d : Dev) (fn a : Nat) (w : Word) : (d.stage fn a w).rpl = d.rpl := Dev.with_staged_rpl _ _
@[simp] theorem Dev.stage_latch (d : Dev) (fn a : Nat) (w : Word) : (d.stage fn a w).latch = d.latch := Dev.with_staged_latch _ _
@[simp] theorem Dev.stage_log (d : Dev) (fn a : Nat) (w : Word) : (d.stage fn a w).log = d.log := Dev.with_staged_log _ _
@[simp] theorem Dev.stage_out (d : Dev) (fn a : Nat) (w : Word) : (d.stage fn a w).out = d.out := Dev.with_staged_out _ _
@[simp] theorem Dev.stage_free (d : Dev) (fn a : Nat) (w : Word) : (d.stage fn a w).free = d.free := Dev.with_staged_free _ _
@[simp] theorem Dev.stage_read_reg (d : Dev) (fn a : Nat) (w : Word) (y : Nat) : (d.stage fn a w).reg y = d.reg y := by simp only [Dev.reg, Dev.stage_regs]
@[simp] theorem Dev.stage_read_fnReg (d : Dev) (fn a : Nat) (w : Word) (y z : Nat) : (d.stage fn a w).fnReg y z = d.fnReg y z := by simp only [Dev.fnReg, Dev.stage_fnRegs]
@[simp] theorem Dev.stage_read_now (d : Dev) (fn a : Nat) (w : Word) : (d.stage fn a w).now = d.now := by simp only [Dev.now, Dev.stage_stk]
@[simp] theorem Dev.stage_read_nowLo (d : Dev) (fn a : Nat) (w : Word) : (d.stage fn a w).nowLo = d.nowLo := by simp only [Dev.nowLo, Dev.stage_stk]
@[simp] theorem Dev.stage_read_owner (d : Dev) (fn a : Nat) (w : Word) (y z : Nat) : (d.stage fn a w).owner y z = d.owner y z := by simp only [Dev.owner, Dev.stage_sec]
@[simp] theorem Dev.stage_read_ring (d : Dev) (fn a : Nat) (w : Word) (y z : Nat) : (d.stage fn a w).ring y z = d.ring y z := by simp only [Dev.ring, Dev.stage_hif]
@[simp] theorem Dev.stage_read_itemOf (d : Dev) (fn a : Nat) (w : Word) (y z : Nat) : (d.stage fn a w).item? y z = d.item? y z := by simp only [Dev.item?, Dev.stage_cox]
@[simp] theorem Dev.stage_read_encOf (d : Dev) (fn a : Nat) (w : Word) (y : Nat) : (d.stage fn a w).enc? y = d.enc? y := by simp only [Dev.enc?, Dev.stage_enc]
@[simp] theorem Dev.stage_read_decOf (d : Dev) (fn a : Nat) (w : Word) (y : Nat) : (d.stage fn a w).dec? y = d.dec? y := by simp only [Dev.dec?, Dev.stage_dec]
@[simp] theorem Dev.stage_read_progOf (d : Dev) (fn a : Nat) (w : Word) (y : Nat) : (d.stage fn a w).prog? y = d.prog? y := by simp only [Dev.prog?, Dev.stage_cmp]

/-! ## emit -/

@[simp] theorem Dev.emit_regs (d : Dev) (o : Output) : (d.emit o).regs = d.regs := rfl
@[simp] theorem Dev.emit_staged (d : Dev) (o : Output) : (d.emit o).staged = d.staged := rfl
@[simp] theorem Dev.emit_fnRegs (d : Dev) (o : Output) : (d.emit o).fnRegs = d.fnRegs := rfl
@[simp] theorem Dev.emit_stk (d : Dev) (o : Output) : (d.emit o).stk = d.stk := rfl
@[simp] theorem Dev.emit_cox (d : Dev) (o : Output) : (d.emit o).cox = d.cox := rfl
@[simp] theorem Dev.emit_hif (d : Dev) (o : Output) : (d.emit o).hif = d.hif := rfl
@[simp] theorem Dev.emit_enc (d : Dev) (o : Output) : (d.emit o).enc = d.enc := rfl
@[simp] theorem Dev.emit_pools (d : Dev) (o : Output) : (d.emit o).pools = d.pools := rfl
@[simp] theorem Dev.emit_dec (d : Dev) (o : Output) : (d.emit o).dec = d.dec := rfl
@[simp] theorem Dev.emit_cmp (d : Dev) (o : Output) : (d.emit o).cmp = d.cmp := rfl
@[simp] theorem Dev.emit_aud (d : Dev) (o : Output) : (d.emit o).aud = d.aud := rfl
@[simp] theorem Dev.emit_lan (d : Dev) (o : Output) : (d.emit o).lan = d.lan := rfl
@[simp] theorem Dev.emit_egs (d : Dev) (o : Output) : (d.emit o).egs = d.egs := rfl
@[simp] theorem Dev.emit_pth (d : Dev) (o : Output) : (d.emit o).pth = d.pth := rfl
@[simp] theorem Dev.emit_tim (d : Dev) (o : Output) : (d.emit o).tim = d.tim := rfl
@[simp] theorem Dev.emit_hbm (d : Dev) (o : Output) : (d.emit o).hbm = d.hbm := rfl
@[simp] theorem Dev.emit_sec (d : Dev) (o : Output) : (d.emit o).sec = d.sec := rfl
@[simp] theorem Dev.emit_chk (d : Dev) (o : Output) : (d.emit o).chk = d.chk := rfl
@[simp] theorem Dev.emit_rst (d : Dev) (o : Output) : (d.emit o).rst = d.rst := rfl
@[simp] theorem Dev.emit_thm (d : Dev) (o : Output) : (d.emit o).thm = d.thm := rfl
@[simp] theorem Dev.emit_nvm (d : Dev) (o : Output) : (d.emit o).nvm = d.nvm := rfl
@[simp] theorem Dev.emit_pmu (d : Dev) (o : Output) : (d.emit o).pmu = d.pmu := rfl
@[simp] theorem Dev.emit_rpl (d : Dev) (o : Output) : (d.emit o).rpl = d.rpl := rfl
@[simp] theorem Dev.emit_latch (d : Dev) (o : Output) : (d.emit o).latch = d.latch := rfl
@[simp] theorem Dev.emit_log (d : Dev) (o : Output) : (d.emit o).log = d.log := rfl
@[simp] theorem Dev.emit_out (d : Dev) (o : Output) : (d.emit o).out = o :: d.out := rfl
@[simp] theorem Dev.emit_free (d : Dev) (o : Output) : (d.emit o).free = d.free := rfl
@[simp] theorem Dev.emit_read_reg (d : Dev) (o : Output) (y : Nat) : (d.emit o).reg y = d.reg y := rfl
@[simp] theorem Dev.emit_read_fnReg (d : Dev) (o : Output) (y z : Nat) : (d.emit o).fnReg y z = d.fnReg y z := rfl
@[simp] theorem Dev.emit_read_now (d : Dev) (o : Output) : (d.emit o).now = d.now := rfl
@[simp] theorem Dev.emit_read_nowLo (d : Dev) (o : Output) : (d.emit o).nowLo = d.nowLo := rfl
@[simp] theorem Dev.emit_read_owner (d : Dev) (o : Output) (y z : Nat) : (d.emit o).owner y z = d.owner y z := rfl
@[simp] theorem Dev.emit_read_ring (d : Dev) (o : Output) (y z : Nat) : (d.emit o).ring y z = d.ring y z := rfl
@[simp] theorem Dev.emit_read_itemOf (d : Dev) (o : Output) (y z : Nat) : (d.emit o).item? y z = d.item? y z := rfl
@[simp] theorem Dev.emit_read_encOf (d : Dev) (o : Output) (y : Nat) : (d.emit o).enc? y = d.enc? y := rfl
@[simp] theorem Dev.emit_read_decOf (d : Dev) (o : Output) (y : Nat) : (d.emit o).dec? y = d.dec? y := rfl
@[simp] theorem Dev.emit_read_progOf (d : Dev) (o : Output) (y : Nat) : (d.emit o).prog? y = d.prog? y := rfl

/-! ## onHif -/

@[simp] theorem Dev.onHif_regs (d : Dev) (f : Hif → Hif) : (d.onHif f).regs = d.regs := rfl
@[simp] theorem Dev.onHif_staged (d : Dev) (f : Hif → Hif) : (d.onHif f).staged = d.staged := rfl
@[simp] theorem Dev.onHif_fnRegs (d : Dev) (f : Hif → Hif) : (d.onHif f).fnRegs = d.fnRegs := rfl
@[simp] theorem Dev.onHif_stk (d : Dev) (f : Hif → Hif) : (d.onHif f).stk = d.stk := rfl
@[simp] theorem Dev.onHif_cox (d : Dev) (f : Hif → Hif) : (d.onHif f).cox = d.cox := rfl
@[simp] theorem Dev.onHif_hif (d : Dev) (f : Hif → Hif) : (d.onHif f).hif = f d.hif := rfl
@[simp] theorem Dev.onHif_enc (d : Dev) (f : Hif → Hif) : (d.onHif f).enc = d.enc := rfl
@[simp] theorem Dev.onHif_pools (d : Dev) (f : Hif → Hif) : (d.onHif f).pools = d.pools := rfl
@[simp] theorem Dev.onHif_dec (d : Dev) (f : Hif → Hif) : (d.onHif f).dec = d.dec := rfl
@[simp] theorem Dev.onHif_cmp (d : Dev) (f : Hif → Hif) : (d.onHif f).cmp = d.cmp := rfl
@[simp] theorem Dev.onHif_aud (d : Dev) (f : Hif → Hif) : (d.onHif f).aud = d.aud := rfl
@[simp] theorem Dev.onHif_lan (d : Dev) (f : Hif → Hif) : (d.onHif f).lan = d.lan := rfl
@[simp] theorem Dev.onHif_egs (d : Dev) (f : Hif → Hif) : (d.onHif f).egs = d.egs := rfl
@[simp] theorem Dev.onHif_pth (d : Dev) (f : Hif → Hif) : (d.onHif f).pth = d.pth := rfl
@[simp] theorem Dev.onHif_tim (d : Dev) (f : Hif → Hif) : (d.onHif f).tim = d.tim := rfl
@[simp] theorem Dev.onHif_hbm (d : Dev) (f : Hif → Hif) : (d.onHif f).hbm = d.hbm := rfl
@[simp] theorem Dev.onHif_sec (d : Dev) (f : Hif → Hif) : (d.onHif f).sec = d.sec := rfl
@[simp] theorem Dev.onHif_chk (d : Dev) (f : Hif → Hif) : (d.onHif f).chk = d.chk := rfl
@[simp] theorem Dev.onHif_rst (d : Dev) (f : Hif → Hif) : (d.onHif f).rst = d.rst := rfl
@[simp] theorem Dev.onHif_thm (d : Dev) (f : Hif → Hif) : (d.onHif f).thm = d.thm := rfl
@[simp] theorem Dev.onHif_nvm (d : Dev) (f : Hif → Hif) : (d.onHif f).nvm = d.nvm := rfl
@[simp] theorem Dev.onHif_pmu (d : Dev) (f : Hif → Hif) : (d.onHif f).pmu = d.pmu := rfl
@[simp] theorem Dev.onHif_rpl (d : Dev) (f : Hif → Hif) : (d.onHif f).rpl = d.rpl := rfl
@[simp] theorem Dev.onHif_latch (d : Dev) (f : Hif → Hif) : (d.onHif f).latch = d.latch := rfl
@[simp] theorem Dev.onHif_log (d : Dev) (f : Hif → Hif) : (d.onHif f).log = d.log := rfl
@[simp] theorem Dev.onHif_out (d : Dev) (f : Hif → Hif) : (d.onHif f).out = d.out := rfl
@[simp] theorem Dev.onHif_free (d : Dev) (f : Hif → Hif) : (d.onHif f).free = d.free := rfl
@[simp] theorem Dev.onHif_read_reg (d : Dev) (f : Hif → Hif) (y : Nat) : (d.onHif f).reg y = d.reg y := rfl
@[simp] theorem Dev.onHif_read_fnReg (d : Dev) (f : Hif → Hif) (y z : Nat) : (d.onHif f).fnReg y z = d.fnReg y z := rfl
@[simp] theorem Dev.onHif_read_now (d : Dev) (f : Hif → Hif) : (d.onHif f).now = d.now := rfl
@[simp] theorem Dev.onHif_read_nowLo (d : Dev) (f : Hif → Hif) : (d.onHif f).nowLo = d.nowLo := rfl
@[simp] theorem Dev.onHif_read_owner (d : Dev) (f : Hif → Hif) (y z : Nat) : (d.onHif f).owner y z = d.owner y z := rfl
@[simp] theorem Dev.onHif_read_itemOf (d : Dev) (f : Hif → Hif) (y z : Nat) : (d.onHif f).item? y z = d.item? y z := rfl
@[simp] theorem Dev.onHif_read_encOf (d : Dev) (f : Hif → Hif) (y : Nat) : (d.onHif f).enc? y = d.enc? y := rfl
@[simp] theorem Dev.onHif_read_decOf (d : Dev) (f : Hif → Hif) (y : Nat) : (d.onHif f).dec? y = d.dec? y := rfl
@[simp] theorem Dev.onHif_read_progOf (d : Dev) (f : Hif → Hif) (y : Nat) : (d.onHif f).prog? y = d.prog? y := rfl

/-! ## setRing -/

@[simp] theorem Dev.setRing_regs (d : Dev) (c r : Nat) (x : Option Ring) : (d.setRing c r x).regs = d.regs := rfl
@[simp] theorem Dev.setRing_staged (d : Dev) (c r : Nat) (x : Option Ring) : (d.setRing c r x).staged = d.staged := rfl
@[simp] theorem Dev.setRing_fnRegs (d : Dev) (c r : Nat) (x : Option Ring) : (d.setRing c r x).fnRegs = d.fnRegs := rfl
@[simp] theorem Dev.setRing_stk (d : Dev) (c r : Nat) (x : Option Ring) : (d.setRing c r x).stk = d.stk := rfl
@[simp] theorem Dev.setRing_cox (d : Dev) (c r : Nat) (x : Option Ring) : (d.setRing c r x).cox = d.cox := rfl
@[simp] theorem Dev.setRing_enc (d : Dev) (c r : Nat) (x : Option Ring) : (d.setRing c r x).enc = d.enc := rfl
@[simp] theorem Dev.setRing_pools (d : Dev) (c r : Nat) (x : Option Ring) : (d.setRing c r x).pools = d.pools := rfl
@[simp] theorem Dev.setRing_dec (d : Dev) (c r : Nat) (x : Option Ring) : (d.setRing c r x).dec = d.dec := rfl
@[simp] theorem Dev.setRing_cmp (d : Dev) (c r : Nat) (x : Option Ring) : (d.setRing c r x).cmp = d.cmp := rfl
@[simp] theorem Dev.setRing_aud (d : Dev) (c r : Nat) (x : Option Ring) : (d.setRing c r x).aud = d.aud := rfl
@[simp] theorem Dev.setRing_lan (d : Dev) (c r : Nat) (x : Option Ring) : (d.setRing c r x).lan = d.lan := rfl
@[simp] theorem Dev.setRing_egs (d : Dev) (c r : Nat) (x : Option Ring) : (d.setRing c r x).egs = d.egs := rfl
@[simp] theorem Dev.setRing_pth (d : Dev) (c r : Nat) (x : Option Ring) : (d.setRing c r x).pth = d.pth := rfl
@[simp] theorem Dev.setRing_tim (d : Dev) (c r : Nat) (x : Option Ring) : (d.setRing c r x).tim = d.tim := rfl
@[simp] theorem Dev.setRing_hbm (d : Dev) (c r : Nat) (x : Option Ring) : (d.setRing c r x).hbm = d.hbm := rfl
@[simp] theorem Dev.setRing_sec (d : Dev) (c r : Nat) (x : Option Ring) : (d.setRing c r x).sec = d.sec := rfl
@[simp] theorem Dev.setRing_chk (d : Dev) (c r : Nat) (x : Option Ring) : (d.setRing c r x).chk = d.chk := rfl
@[simp] theorem Dev.setRing_rst (d : Dev) (c r : Nat) (x : Option Ring) : (d.setRing c r x).rst = d.rst := rfl
@[simp] theorem Dev.setRing_thm (d : Dev) (c r : Nat) (x : Option Ring) : (d.setRing c r x).thm = d.thm := rfl
@[simp] theorem Dev.setRing_nvm (d : Dev) (c r : Nat) (x : Option Ring) : (d.setRing c r x).nvm = d.nvm := rfl
@[simp] theorem Dev.setRing_pmu (d : Dev) (c r : Nat) (x : Option Ring) : (d.setRing c r x).pmu = d.pmu := rfl
@[simp] theorem Dev.setRing_rpl (d : Dev) (c r : Nat) (x : Option Ring) : (d.setRing c r x).rpl = d.rpl := rfl
@[simp] theorem Dev.setRing_latch (d : Dev) (c r : Nat) (x : Option Ring) : (d.setRing c r x).latch = d.latch := rfl
@[simp] theorem Dev.setRing_log (d : Dev) (c r : Nat) (x : Option Ring) : (d.setRing c r x).log = d.log := rfl
@[simp] theorem Dev.setRing_out (d : Dev) (c r : Nat) (x : Option Ring) : (d.setRing c r x).out = d.out := rfl
@[simp] theorem Dev.setRing_free (d : Dev) (c r : Nat) (x : Option Ring) : (d.setRing c r x).free = d.free := rfl
@[simp] theorem Dev.setRing_read_reg (d : Dev) (c r : Nat) (x : Option Ring) (y : Nat) : (d.setRing c r x).reg y = d.reg y := rfl
@[simp] theorem Dev.setRing_read_fnReg (d : Dev) (c r : Nat) (x : Option Ring) (y z : Nat) : (d.setRing c r x).fnReg y z = d.fnReg y z := rfl
@[simp] theorem Dev.setRing_read_now (d : Dev) (c r : Nat) (x : Option Ring) : (d.setRing c r x).now = d.now := rfl
@[simp] theorem Dev.setRing_read_nowLo (d : Dev) (c r : Nat) (x : Option Ring) : (d.setRing c r x).nowLo = d.nowLo := rfl
@[simp] theorem Dev.setRing_read_owner (d : Dev) (c r : Nat) (x : Option Ring) (y z : Nat) : (d.setRing c r x).owner y z = d.owner y z := rfl
@[simp] theorem Dev.setRing_read_itemOf (d : Dev) (c r : Nat) (x : Option Ring) (y z : Nat) : (d.setRing c r x).item? y z = d.item? y z := rfl
@[simp] theorem Dev.setRing_read_encOf (d : Dev) (c r : Nat) (x : Option Ring) (y : Nat) : (d.setRing c r x).enc? y = d.enc? y := rfl
@[simp] theorem Dev.setRing_read_decOf (d : Dev) (c r : Nat) (x : Option Ring) (y : Nat) : (d.setRing c r x).dec? y = d.dec? y := rfl
@[simp] theorem Dev.setRing_read_progOf (d : Dev) (c r : Nat) (x : Option Ring) (y : Nat) : (d.setRing c r x).prog? y = d.prog? y := rfl

/-! ## onRing -/

@[simp] theorem Dev.onRing_regs (d : Dev) (c r : Nat) (f : Ring → Ring) : (d.onRing c r f).regs = d.regs := rfl
@[simp] theorem Dev.onRing_staged (d : Dev) (c r : Nat) (f : Ring → Ring) : (d.onRing c r f).staged = d.staged := rfl
@[simp] theorem Dev.onRing_fnRegs (d : Dev) (c r : Nat) (f : Ring → Ring) : (d.onRing c r f).fnRegs = d.fnRegs := rfl
@[simp] theorem Dev.onRing_stk (d : Dev) (c r : Nat) (f : Ring → Ring) : (d.onRing c r f).stk = d.stk := rfl
@[simp] theorem Dev.onRing_cox (d : Dev) (c r : Nat) (f : Ring → Ring) : (d.onRing c r f).cox = d.cox := rfl
@[simp] theorem Dev.onRing_enc (d : Dev) (c r : Nat) (f : Ring → Ring) : (d.onRing c r f).enc = d.enc := rfl
@[simp] theorem Dev.onRing_pools (d : Dev) (c r : Nat) (f : Ring → Ring) : (d.onRing c r f).pools = d.pools := rfl
@[simp] theorem Dev.onRing_dec (d : Dev) (c r : Nat) (f : Ring → Ring) : (d.onRing c r f).dec = d.dec := rfl
@[simp] theorem Dev.onRing_cmp (d : Dev) (c r : Nat) (f : Ring → Ring) : (d.onRing c r f).cmp = d.cmp := rfl
@[simp] theorem Dev.onRing_aud (d : Dev) (c r : Nat) (f : Ring → Ring) : (d.onRing c r f).aud = d.aud := rfl
@[simp] theorem Dev.onRing_lan (d : Dev) (c r : Nat) (f : Ring → Ring) : (d.onRing c r f).lan = d.lan := rfl
@[simp] theorem Dev.onRing_egs (d : Dev) (c r : Nat) (f : Ring → Ring) : (d.onRing c r f).egs = d.egs := rfl
@[simp] theorem Dev.onRing_pth (d : Dev) (c r : Nat) (f : Ring → Ring) : (d.onRing c r f).pth = d.pth := rfl
@[simp] theorem Dev.onRing_tim (d : Dev) (c r : Nat) (f : Ring → Ring) : (d.onRing c r f).tim = d.tim := rfl
@[simp] theorem Dev.onRing_hbm (d : Dev) (c r : Nat) (f : Ring → Ring) : (d.onRing c r f).hbm = d.hbm := rfl
@[simp] theorem Dev.onRing_sec (d : Dev) (c r : Nat) (f : Ring → Ring) : (d.onRing c r f).sec = d.sec := rfl
@[simp] theorem Dev.onRing_chk (d : Dev) (c r : Nat) (f : Ring → Ring) : (d.onRing c r f).chk = d.chk := rfl
@[simp] theorem Dev.onRing_rst (d : Dev) (c r : Nat) (f : Ring → Ring) : (d.onRing c r f).rst = d.rst := rfl
@[simp] theorem Dev.onRing_thm (d : Dev) (c r : Nat) (f : Ring → Ring) : (d.onRing c r f).thm = d.thm := rfl
@[simp] theorem Dev.onRing_nvm (d : Dev) (c r : Nat) (f : Ring → Ring) : (d.onRing c r f).nvm = d.nvm := rfl
@[simp] theorem Dev.onRing_pmu (d : Dev) (c r : Nat) (f : Ring → Ring) : (d.onRing c r f).pmu = d.pmu := rfl
@[simp] theorem Dev.onRing_rpl (d : Dev) (c r : Nat) (f : Ring → Ring) : (d.onRing c r f).rpl = d.rpl := rfl
@[simp] theorem Dev.onRing_latch (d : Dev) (c r : Nat) (f : Ring → Ring) : (d.onRing c r f).latch = d.latch := rfl
@[simp] theorem Dev.onRing_log (d : Dev) (c r : Nat) (f : Ring → Ring) : (d.onRing c r f).log = d.log := rfl
@[simp] theorem Dev.onRing_out (d : Dev) (c r : Nat) (f : Ring → Ring) : (d.onRing c r f).out = d.out := rfl
@[simp] theorem Dev.onRing_free (d : Dev) (c r : Nat) (f : Ring → Ring) : (d.onRing c r f).free = d.free := rfl
@[simp] theorem Dev.onRing_read_reg (d : Dev) (c r : Nat) (f : Ring → Ring) (y : Nat) : (d.onRing c r f).reg y = d.reg y := rfl
@[simp] theorem Dev.onRing_read_fnReg (d : Dev) (c r : Nat) (f : Ring → Ring) (y z : Nat) : (d.onRing c r f).fnReg y z = d.fnReg y z := rfl
@[simp] theorem Dev.onRing_read_now (d : Dev) (c r : Nat) (f : Ring → Ring) : (d.onRing c r f).now = d.now := rfl
@[simp] theorem Dev.onRing_read_nowLo (d : Dev) (c r : Nat) (f : Ring → Ring) : (d.onRing c r f).nowLo = d.nowLo := rfl
@[simp] theorem Dev.onRing_read_owner (d : Dev) (c r : Nat) (f : Ring → Ring) (y z : Nat) : (d.onRing c r f).owner y z = d.owner y z := rfl
@[simp] theorem Dev.onRing_read_itemOf (d : Dev) (c r : Nat) (f : Ring → Ring) (y z : Nat) : (d.onRing c r f).item? y z = d.item? y z := rfl
@[simp] theorem Dev.onRing_read_encOf (d : Dev) (c r : Nat) (f : Ring → Ring) (y : Nat) : (d.onRing c r f).enc? y = d.enc? y := rfl
@[simp] theorem Dev.onRing_read_decOf (d : Dev) (c r : Nat) (f : Ring → Ring) (y : Nat) : (d.onRing c r f).dec? y = d.dec? y := rfl
@[simp] theorem Dev.onRing_read_progOf (d : Dev) (c r : Nat) (f : Ring → Ring) (y : Nat) : (d.onRing c r f).prog? y = d.prog? y := rfl

/-! ## onStanding -/

@[simp] theorem Dev.onStanding_regs (d : Dev) (p : Standing → Bool) (f : Standing → Standing) : (d.onStanding p f).regs = d.regs := rfl
@[simp] theorem Dev.onStanding_staged (d : Dev) (p : Standing → Bool) (f : Standing → Standing) : (d.onStanding p f).staged = d.staged := rfl
@[simp] theorem Dev.onStanding_fnRegs (d : Dev) (p : Standing → Bool) (f : Standing → Standing) : (d.onStanding p f).fnRegs = d.fnRegs := rfl
@[simp] theorem Dev.onStanding_stk (d : Dev) (p : Standing → Bool) (f : Standing → Standing) : (d.onStanding p f).stk = d.stk := rfl
@[simp] theorem Dev.onStanding_cox (d : Dev) (p : Standing → Bool) (f : Standing → Standing) : (d.onStanding p f).cox = d.cox := rfl
@[simp] theorem Dev.onStanding_enc (d : Dev) (p : Standing → Bool) (f : Standing → Standing) : (d.onStanding p f).enc = d.enc := rfl
@[simp] theorem Dev.onStanding_pools (d : Dev) (p : Standing → Bool) (f : Standing → Standing) : (d.onStanding p f).pools = d.pools := rfl
@[simp] theorem Dev.onStanding_dec (d : Dev) (p : Standing → Bool) (f : Standing → Standing) : (d.onStanding p f).dec = d.dec := rfl
@[simp] theorem Dev.onStanding_cmp (d : Dev) (p : Standing → Bool) (f : Standing → Standing) : (d.onStanding p f).cmp = d.cmp := rfl
@[simp] theorem Dev.onStanding_aud (d : Dev) (p : Standing → Bool) (f : Standing → Standing) : (d.onStanding p f).aud = d.aud := rfl
@[simp] theorem Dev.onStanding_lan (d : Dev) (p : Standing → Bool) (f : Standing → Standing) : (d.onStanding p f).lan = d.lan := rfl
@[simp] theorem Dev.onStanding_egs (d : Dev) (p : Standing → Bool) (f : Standing → Standing) : (d.onStanding p f).egs = d.egs := rfl
@[simp] theorem Dev.onStanding_pth (d : Dev) (p : Standing → Bool) (f : Standing → Standing) : (d.onStanding p f).pth = d.pth := rfl
@[simp] theorem Dev.onStanding_tim (d : Dev) (p : Standing → Bool) (f : Standing → Standing) : (d.onStanding p f).tim = d.tim := rfl
@[simp] theorem Dev.onStanding_hbm (d : Dev) (p : Standing → Bool) (f : Standing → Standing) : (d.onStanding p f).hbm = d.hbm := rfl
@[simp] theorem Dev.onStanding_sec (d : Dev) (p : Standing → Bool) (f : Standing → Standing) : (d.onStanding p f).sec = d.sec := rfl
@[simp] theorem Dev.onStanding_chk (d : Dev) (p : Standing → Bool) (f : Standing → Standing) : (d.onStanding p f).chk = d.chk := rfl
@[simp] theorem Dev.onStanding_rst (d : Dev) (p : Standing → Bool) (f : Standing → Standing) : (d.onStanding p f).rst = d.rst := rfl
@[simp] theorem Dev.onStanding_thm (d : Dev) (p : Standing → Bool) (f : Standing → Standing) : (d.onStanding p f).thm = d.thm := rfl
@[simp] theorem Dev.onStanding_nvm (d : Dev) (p : Standing → Bool) (f : Standing → Standing) : (d.onStanding p f).nvm = d.nvm := rfl
@[simp] theorem Dev.onStanding_pmu (d : Dev) (p : Standing → Bool) (f : Standing → Standing) : (d.onStanding p f).pmu = d.pmu := rfl
@[simp] theorem Dev.onStanding_rpl (d : Dev) (p : Standing → Bool) (f : Standing → Standing) : (d.onStanding p f).rpl = d.rpl := rfl
@[simp] theorem Dev.onStanding_latch (d : Dev) (p : Standing → Bool) (f : Standing → Standing) : (d.onStanding p f).latch = d.latch := rfl
@[simp] theorem Dev.onStanding_log (d : Dev) (p : Standing → Bool) (f : Standing → Standing) : (d.onStanding p f).log = d.log := rfl
@[simp] theorem Dev.onStanding_out (d : Dev) (p : Standing → Bool) (f : Standing → Standing) : (d.onStanding p f).out = d.out := rfl
@[simp] theorem Dev.onStanding_free (d : Dev) (p : Standing → Bool) (f : Standing → Standing) : (d.onStanding p f).free = d.free := rfl
@[simp] theorem Dev.onStanding_read_reg (d : Dev) (p : Standing → Bool) (f : Standing → Standing) (y : Nat) : (d.onStanding p f).reg y = d.reg y := rfl
@[simp] theorem Dev.onStanding_read_fnReg (d : Dev) (p : Standing → Bool) (f : Standing → Standing) (y z : Nat) : (d.onStanding p f).fnReg y z = d.fnReg y z := rfl
@[simp] theorem Dev.onStanding_read_now (d : Dev) (p : Standing → Bool) (f : Standing → Standing) : (d.onStanding p f).now = d.now := rfl
@[simp] theorem Dev.onStanding_read_nowLo (d : Dev) (p : Standing → Bool) (f : Standing → Standing) : (d.onStanding p f).nowLo = d.nowLo := rfl
@[simp] theorem Dev.onStanding_read_owner (d : Dev) (p : Standing → Bool) (f : Standing → Standing) (y z : Nat) : (d.onStanding p f).owner y z = d.owner y z := rfl
@[simp] theorem Dev.onStanding_read_itemOf (d : Dev) (p : Standing → Bool) (f : Standing → Standing) (y z : Nat) : (d.onStanding p f).item? y z = d.item? y z := rfl
@[simp] theorem Dev.onStanding_read_encOf (d : Dev) (p : Standing → Bool) (f : Standing → Standing) (y : Nat) : (d.onStanding p f).enc? y = d.enc? y := rfl
@[simp] theorem Dev.onStanding_read_decOf (d : Dev) (p : Standing → Bool) (f : Standing → Standing) (y : Nat) : (d.onStanding p f).dec? y = d.dec? y := rfl
@[simp] theorem Dev.onStanding_read_progOf (d : Dev) (p : Standing → Bool) (f : Standing → Standing) (y : Nat) : (d.onStanding p f).prog? y = d.prog? y := rfl

/-! ## onStk -/

@[simp] theorem Dev.onStk_regs (d : Dev) (f : Stk → Stk) : (d.onStk f).regs = d.regs := rfl
@[simp] theorem Dev.onStk_staged (d : Dev) (f : Stk → Stk) : (d.onStk f).staged = d.staged := rfl
@[simp] theorem Dev.onStk_fnRegs (d : Dev) (f : Stk → Stk) : (d.onStk f).fnRegs = d.fnRegs := rfl
@[simp] theorem Dev.onStk_stk (d : Dev) (f : Stk → Stk) : (d.onStk f).stk = f d.stk := rfl
@[simp] theorem Dev.onStk_cox (d : Dev) (f : Stk → Stk) : (d.onStk f).cox = d.cox := rfl
@[simp] theorem Dev.onStk_hif (d : Dev) (f : Stk → Stk) : (d.onStk f).hif = d.hif := rfl
@[simp] theorem Dev.onStk_enc (d : Dev) (f : Stk → Stk) : (d.onStk f).enc = d.enc := rfl
@[simp] theorem Dev.onStk_pools (d : Dev) (f : Stk → Stk) : (d.onStk f).pools = d.pools := rfl
@[simp] theorem Dev.onStk_dec (d : Dev) (f : Stk → Stk) : (d.onStk f).dec = d.dec := rfl
@[simp] theorem Dev.onStk_cmp (d : Dev) (f : Stk → Stk) : (d.onStk f).cmp = d.cmp := rfl
@[simp] theorem Dev.onStk_aud (d : Dev) (f : Stk → Stk) : (d.onStk f).aud = d.aud := rfl
@[simp] theorem Dev.onStk_lan (d : Dev) (f : Stk → Stk) : (d.onStk f).lan = d.lan := rfl
@[simp] theorem Dev.onStk_egs (d : Dev) (f : Stk → Stk) : (d.onStk f).egs = d.egs := rfl
@[simp] theorem Dev.onStk_pth (d : Dev) (f : Stk → Stk) : (d.onStk f).pth = d.pth := rfl
@[simp] theorem Dev.onStk_tim (d : Dev) (f : Stk → Stk) : (d.onStk f).tim = d.tim := rfl
@[simp] theorem Dev.onStk_hbm (d : Dev) (f : Stk → Stk) : (d.onStk f).hbm = d.hbm := rfl
@[simp] theorem Dev.onStk_sec (d : Dev) (f : Stk → Stk) : (d.onStk f).sec = d.sec := rfl
@[simp] theorem Dev.onStk_chk (d : Dev) (f : Stk → Stk) : (d.onStk f).chk = d.chk := rfl
@[simp] theorem Dev.onStk_rst (d : Dev) (f : Stk → Stk) : (d.onStk f).rst = d.rst := rfl
@[simp] theorem Dev.onStk_thm (d : Dev) (f : Stk → Stk) : (d.onStk f).thm = d.thm := rfl
@[simp] theorem Dev.onStk_nvm (d : Dev) (f : Stk → Stk) : (d.onStk f).nvm = d.nvm := rfl
@[simp] theorem Dev.onStk_pmu (d : Dev) (f : Stk → Stk) : (d.onStk f).pmu = d.pmu := rfl
@[simp] theorem Dev.onStk_rpl (d : Dev) (f : Stk → Stk) : (d.onStk f).rpl = d.rpl := rfl
@[simp] theorem Dev.onStk_latch (d : Dev) (f : Stk → Stk) : (d.onStk f).latch = d.latch := rfl
@[simp] theorem Dev.onStk_log (d : Dev) (f : Stk → Stk) : (d.onStk f).log = d.log := rfl
@[simp] theorem Dev.onStk_out (d : Dev) (f : Stk → Stk) : (d.onStk f).out = d.out := rfl
@[simp] theorem Dev.onStk_free (d : Dev) (f : Stk → Stk) : (d.onStk f).free = d.free := rfl
@[simp] theorem Dev.onStk_read_reg (d : Dev) (f : Stk → Stk) (y : Nat) : (d.onStk f).reg y = d.reg y := rfl
@[simp] theorem Dev.onStk_read_fnReg (d : Dev) (f : Stk → Stk) (y z : Nat) : (d.onStk f).fnReg y z = d.fnReg y z := rfl
@[simp] theorem Dev.onStk_read_owner (d : Dev) (f : Stk → Stk) (y z : Nat) : (d.onStk f).owner y z = d.owner y z := rfl
@[simp] theorem Dev.onStk_read_ring (d : Dev) (f : Stk → Stk) (y z : Nat) : (d.onStk f).ring y z = d.ring y z := rfl
@[simp] theorem Dev.onStk_read_itemOf (d : Dev) (f : Stk → Stk) (y z : Nat) : (d.onStk f).item? y z = d.item? y z := rfl
@[simp] theorem Dev.onStk_read_encOf (d : Dev) (f : Stk → Stk) (y : Nat) : (d.onStk f).enc? y = d.enc? y := rfl
@[simp] theorem Dev.onStk_read_decOf (d : Dev) (f : Stk → Stk) (y : Nat) : (d.onStk f).dec? y = d.dec? y := rfl
@[simp] theorem Dev.onStk_read_progOf (d : Dev) (f : Stk → Stk) (y : Nat) : (d.onStk f).prog? y = d.prog? y := rfl

/-! ## onBank -/

@[simp] theorem Dev.onBank_regs (d : Dev) (i : Nat) (f : Bank → Bank) : (d.onBank i f).regs = d.regs := rfl
@[simp] theorem Dev.onBank_staged (d : Dev) (i : Nat) (f : Bank → Bank) : (d.onBank i f).staged = d.staged := rfl
@[simp] theorem Dev.onBank_fnRegs (d : Dev) (i : Nat) (f : Bank → Bank) : (d.onBank i f).fnRegs = d.fnRegs := rfl
@[simp] theorem Dev.onBank_cox (d : Dev) (i : Nat) (f : Bank → Bank) : (d.onBank i f).cox = d.cox := rfl
@[simp] theorem Dev.onBank_hif (d : Dev) (i : Nat) (f : Bank → Bank) : (d.onBank i f).hif = d.hif := rfl
@[simp] theorem Dev.onBank_enc (d : Dev) (i : Nat) (f : Bank → Bank) : (d.onBank i f).enc = d.enc := rfl
@[simp] theorem Dev.onBank_pools (d : Dev) (i : Nat) (f : Bank → Bank) : (d.onBank i f).pools = d.pools := rfl
@[simp] theorem Dev.onBank_dec (d : Dev) (i : Nat) (f : Bank → Bank) : (d.onBank i f).dec = d.dec := rfl
@[simp] theorem Dev.onBank_cmp (d : Dev) (i : Nat) (f : Bank → Bank) : (d.onBank i f).cmp = d.cmp := rfl
@[simp] theorem Dev.onBank_aud (d : Dev) (i : Nat) (f : Bank → Bank) : (d.onBank i f).aud = d.aud := rfl
@[simp] theorem Dev.onBank_lan (d : Dev) (i : Nat) (f : Bank → Bank) : (d.onBank i f).lan = d.lan := rfl
@[simp] theorem Dev.onBank_egs (d : Dev) (i : Nat) (f : Bank → Bank) : (d.onBank i f).egs = d.egs := rfl
@[simp] theorem Dev.onBank_pth (d : Dev) (i : Nat) (f : Bank → Bank) : (d.onBank i f).pth = d.pth := rfl
@[simp] theorem Dev.onBank_tim (d : Dev) (i : Nat) (f : Bank → Bank) : (d.onBank i f).tim = d.tim := rfl
@[simp] theorem Dev.onBank_hbm (d : Dev) (i : Nat) (f : Bank → Bank) : (d.onBank i f).hbm = d.hbm := rfl
@[simp] theorem Dev.onBank_sec (d : Dev) (i : Nat) (f : Bank → Bank) : (d.onBank i f).sec = d.sec := rfl
@[simp] theorem Dev.onBank_chk (d : Dev) (i : Nat) (f : Bank → Bank) : (d.onBank i f).chk = d.chk := rfl
@[simp] theorem Dev.onBank_rst (d : Dev) (i : Nat) (f : Bank → Bank) : (d.onBank i f).rst = d.rst := rfl
@[simp] theorem Dev.onBank_thm (d : Dev) (i : Nat) (f : Bank → Bank) : (d.onBank i f).thm = d.thm := rfl
@[simp] theorem Dev.onBank_nvm (d : Dev) (i : Nat) (f : Bank → Bank) : (d.onBank i f).nvm = d.nvm := rfl
@[simp] theorem Dev.onBank_pmu (d : Dev) (i : Nat) (f : Bank → Bank) : (d.onBank i f).pmu = d.pmu := rfl
@[simp] theorem Dev.onBank_rpl (d : Dev) (i : Nat) (f : Bank → Bank) : (d.onBank i f).rpl = d.rpl := rfl
@[simp] theorem Dev.onBank_latch (d : Dev) (i : Nat) (f : Bank → Bank) : (d.onBank i f).latch = d.latch := rfl
@[simp] theorem Dev.onBank_log (d : Dev) (i : Nat) (f : Bank → Bank) : (d.onBank i f).log = d.log := rfl
@[simp] theorem Dev.onBank_out (d : Dev) (i : Nat) (f : Bank → Bank) : (d.onBank i f).out = d.out := rfl
@[simp] theorem Dev.onBank_free (d : Dev) (i : Nat) (f : Bank → Bank) : (d.onBank i f).free = d.free := rfl
@[simp] theorem Dev.onBank_read_reg (d : Dev) (i : Nat) (f : Bank → Bank) (y : Nat) : (d.onBank i f).reg y = d.reg y := rfl
@[simp] theorem Dev.onBank_read_fnReg (d : Dev) (i : Nat) (f : Bank → Bank) (y z : Nat) : (d.onBank i f).fnReg y z = d.fnReg y z := rfl
@[simp] theorem Dev.onBank_read_owner (d : Dev) (i : Nat) (f : Bank → Bank) (y z : Nat) : (d.onBank i f).owner y z = d.owner y z := rfl
@[simp] theorem Dev.onBank_read_ring (d : Dev) (i : Nat) (f : Bank → Bank) (y z : Nat) : (d.onBank i f).ring y z = d.ring y z := rfl
@[simp] theorem Dev.onBank_read_itemOf (d : Dev) (i : Nat) (f : Bank → Bank) (y z : Nat) : (d.onBank i f).item? y z = d.item? y z := rfl
@[simp] theorem Dev.onBank_read_encOf (d : Dev) (i : Nat) (f : Bank → Bank) (y : Nat) : (d.onBank i f).enc? y = d.enc? y := rfl
@[simp] theorem Dev.onBank_read_decOf (d : Dev) (i : Nat) (f : Bank → Bank) (y : Nat) : (d.onBank i f).dec? y = d.dec? y := rfl
@[simp] theorem Dev.onBank_read_progOf (d : Dev) (i : Nat) (f : Bank → Bank) (y : Nat) : (d.onBank i f).prog? y = d.prog? y := rfl

/-! ## atNs -/

@[simp] theorem Dev.atNs_regs (d : Dev) (ns : Nat) : (d.atNs ns).regs = d.regs := rfl
@[simp] theorem Dev.atNs_staged (d : Dev) (ns : Nat) : (d.atNs ns).staged = d.staged := rfl
@[simp] theorem Dev.atNs_fnRegs (d : Dev) (ns : Nat) : (d.atNs ns).fnRegs = d.fnRegs := rfl
@[simp] theorem Dev.atNs_cox (d : Dev) (ns : Nat) : (d.atNs ns).cox = d.cox := rfl
@[simp] theorem Dev.atNs_hif (d : Dev) (ns : Nat) : (d.atNs ns).hif = d.hif := rfl
@[simp] theorem Dev.atNs_enc (d : Dev) (ns : Nat) : (d.atNs ns).enc = d.enc := rfl
@[simp] theorem Dev.atNs_pools (d : Dev) (ns : Nat) : (d.atNs ns).pools = d.pools := rfl
@[simp] theorem Dev.atNs_dec (d : Dev) (ns : Nat) : (d.atNs ns).dec = d.dec := rfl
@[simp] theorem Dev.atNs_cmp (d : Dev) (ns : Nat) : (d.atNs ns).cmp = d.cmp := rfl
@[simp] theorem Dev.atNs_aud (d : Dev) (ns : Nat) : (d.atNs ns).aud = d.aud := rfl
@[simp] theorem Dev.atNs_lan (d : Dev) (ns : Nat) : (d.atNs ns).lan = d.lan := rfl
@[simp] theorem Dev.atNs_egs (d : Dev) (ns : Nat) : (d.atNs ns).egs = d.egs := rfl
@[simp] theorem Dev.atNs_pth (d : Dev) (ns : Nat) : (d.atNs ns).pth = d.pth := rfl
@[simp] theorem Dev.atNs_tim (d : Dev) (ns : Nat) : (d.atNs ns).tim = d.tim := rfl
@[simp] theorem Dev.atNs_hbm (d : Dev) (ns : Nat) : (d.atNs ns).hbm = d.hbm := rfl
@[simp] theorem Dev.atNs_sec (d : Dev) (ns : Nat) : (d.atNs ns).sec = d.sec := rfl
@[simp] theorem Dev.atNs_chk (d : Dev) (ns : Nat) : (d.atNs ns).chk = d.chk := rfl
@[simp] theorem Dev.atNs_rst (d : Dev) (ns : Nat) : (d.atNs ns).rst = d.rst := rfl
@[simp] theorem Dev.atNs_thm (d : Dev) (ns : Nat) : (d.atNs ns).thm = d.thm := rfl
@[simp] theorem Dev.atNs_nvm (d : Dev) (ns : Nat) : (d.atNs ns).nvm = d.nvm := rfl
@[simp] theorem Dev.atNs_pmu (d : Dev) (ns : Nat) : (d.atNs ns).pmu = d.pmu := rfl
@[simp] theorem Dev.atNs_rpl (d : Dev) (ns : Nat) : (d.atNs ns).rpl = d.rpl := rfl
@[simp] theorem Dev.atNs_latch (d : Dev) (ns : Nat) : (d.atNs ns).latch = d.latch := rfl
@[simp] theorem Dev.atNs_log (d : Dev) (ns : Nat) : (d.atNs ns).log = d.log := rfl
@[simp] theorem Dev.atNs_out (d : Dev) (ns : Nat) : (d.atNs ns).out = d.out := rfl
@[simp] theorem Dev.atNs_free (d : Dev) (ns : Nat) : (d.atNs ns).free = d.free := rfl
@[simp] theorem Dev.atNs_read_reg (d : Dev) (ns : Nat) (y : Nat) : (d.atNs ns).reg y = d.reg y := rfl
@[simp] theorem Dev.atNs_read_fnReg (d : Dev) (ns : Nat) (y z : Nat) : (d.atNs ns).fnReg y z = d.fnReg y z := rfl
@[simp] theorem Dev.atNs_read_owner (d : Dev) (ns : Nat) (y z : Nat) : (d.atNs ns).owner y z = d.owner y z := rfl
@[simp] theorem Dev.atNs_read_ring (d : Dev) (ns : Nat) (y z : Nat) : (d.atNs ns).ring y z = d.ring y z := rfl
@[simp] theorem Dev.atNs_read_itemOf (d : Dev) (ns : Nat) (y z : Nat) : (d.atNs ns).item? y z = d.item? y z := rfl
@[simp] theorem Dev.atNs_read_encOf (d : Dev) (ns : Nat) (y : Nat) : (d.atNs ns).enc? y = d.enc? y := rfl
@[simp] theorem Dev.atNs_read_decOf (d : Dev) (ns : Nat) (y : Nat) : (d.atNs ns).dec? y = d.dec? y := rfl
@[simp] theorem Dev.atNs_read_progOf (d : Dev) (ns : Nat) (y : Nat) : (d.atNs ns).prog? y = d.prog? y := rfl

/-! ## onCox -/

@[simp] theorem Dev.onCox_regs (d : Dev) (f : Cox → Cox) : (d.onCox f).regs = d.regs := rfl
@[simp] theorem Dev.onCox_staged (d : Dev) (f : Cox → Cox) : (d.onCox f).staged = d.staged := rfl
@[simp] theorem Dev.onCox_fnRegs (d : Dev) (f : Cox → Cox) : (d.onCox f).fnRegs = d.fnRegs := rfl
@[simp] theorem Dev.onCox_stk (d : Dev) (f : Cox → Cox) : (d.onCox f).stk = d.stk := rfl
@[simp] theorem Dev.onCox_cox (d : Dev) (f : Cox → Cox) : (d.onCox f).cox = f d.cox := rfl
@[simp] theorem Dev.onCox_hif (d : Dev) (f : Cox → Cox) : (d.onCox f).hif = d.hif := rfl
@[simp] theorem Dev.onCox_enc (d : Dev) (f : Cox → Cox) : (d.onCox f).enc = d.enc := rfl
@[simp] theorem Dev.onCox_pools (d : Dev) (f : Cox → Cox) : (d.onCox f).pools = d.pools := rfl
@[simp] theorem Dev.onCox_dec (d : Dev) (f : Cox → Cox) : (d.onCox f).dec = d.dec := rfl
@[simp] theorem Dev.onCox_cmp (d : Dev) (f : Cox → Cox) : (d.onCox f).cmp = d.cmp := rfl
@[simp] theorem Dev.onCox_aud (d : Dev) (f : Cox → Cox) : (d.onCox f).aud = d.aud := rfl
@[simp] theorem Dev.onCox_lan (d : Dev) (f : Cox → Cox) : (d.onCox f).lan = d.lan := rfl
@[simp] theorem Dev.onCox_egs (d : Dev) (f : Cox → Cox) : (d.onCox f).egs = d.egs := rfl
@[simp] theorem Dev.onCox_pth (d : Dev) (f : Cox → Cox) : (d.onCox f).pth = d.pth := rfl
@[simp] theorem Dev.onCox_tim (d : Dev) (f : Cox → Cox) : (d.onCox f).tim = d.tim := rfl
@[simp] theorem Dev.onCox_hbm (d : Dev) (f : Cox → Cox) : (d.onCox f).hbm = d.hbm := rfl
@[simp] theorem Dev.onCox_sec (d : Dev) (f : Cox → Cox) : (d.onCox f).sec = d.sec := rfl
@[simp] theorem Dev.onCox_chk (d : Dev) (f : Cox → Cox) : (d.onCox f).chk = d.chk := rfl
@[simp] theorem Dev.onCox_rst (d : Dev) (f : Cox → Cox) : (d.onCox f).rst = d.rst := rfl
@[simp] theorem Dev.onCox_thm (d : Dev) (f : Cox → Cox) : (d.onCox f).thm = d.thm := rfl
@[simp] theorem Dev.onCox_nvm (d : Dev) (f : Cox → Cox) : (d.onCox f).nvm = d.nvm := rfl
@[simp] theorem Dev.onCox_pmu (d : Dev) (f : Cox → Cox) : (d.onCox f).pmu = d.pmu := rfl
@[simp] theorem Dev.onCox_rpl (d : Dev) (f : Cox → Cox) : (d.onCox f).rpl = d.rpl := rfl
@[simp] theorem Dev.onCox_latch (d : Dev) (f : Cox → Cox) : (d.onCox f).latch = d.latch := rfl
@[simp] theorem Dev.onCox_log (d : Dev) (f : Cox → Cox) : (d.onCox f).log = d.log := rfl
@[simp] theorem Dev.onCox_out (d : Dev) (f : Cox → Cox) : (d.onCox f).out = d.out := rfl
@[simp] theorem Dev.onCox_free (d : Dev) (f : Cox → Cox) : (d.onCox f).free = d.free := rfl
@[simp] theorem Dev.onCox_read_reg (d : Dev) (f : Cox → Cox) (y : Nat) : (d.onCox f).reg y = d.reg y := rfl
@[simp] theorem Dev.onCox_read_fnReg (d : Dev) (f : Cox → Cox) (y z : Nat) : (d.onCox f).fnReg y z = d.fnReg y z := rfl
@[simp] theorem Dev.onCox_read_now (d : Dev) (f : Cox → Cox) : (d.onCox f).now = d.now := rfl
@[simp] theorem Dev.onCox_read_nowLo (d : Dev) (f : Cox → Cox) : (d.onCox f).nowLo = d.nowLo := rfl
@[simp] theorem Dev.onCox_read_owner (d : Dev) (f : Cox → Cox) (y z : Nat) : (d.onCox f).owner y z = d.owner y z := rfl
@[simp] theorem Dev.onCox_read_ring (d : Dev) (f : Cox → Cox) (y z : Nat) : (d.onCox f).ring y z = d.ring y z := rfl
@[simp] theorem Dev.onCox_read_encOf (d : Dev) (f : Cox → Cox) (y : Nat) : (d.onCox f).enc? y = d.enc? y := rfl
@[simp] theorem Dev.onCox_read_decOf (d : Dev) (f : Cox → Cox) (y : Nat) : (d.onCox f).dec? y = d.dec? y := rfl
@[simp] theorem Dev.onCox_read_progOf (d : Dev) (f : Cox → Cox) (y : Nat) : (d.onCox f).prog? y = d.prog? y := rfl

/-! ## onItem -/

@[simp] theorem Dev.onItem_regs (d : Dev) (q seq : Nat) (f : Item → Item) : (d.onItem q seq f).regs = d.regs := rfl
@[simp] theorem Dev.onItem_staged (d : Dev) (q seq : Nat) (f : Item → Item) : (d.onItem q seq f).staged = d.staged := rfl
@[simp] theorem Dev.onItem_fnRegs (d : Dev) (q seq : Nat) (f : Item → Item) : (d.onItem q seq f).fnRegs = d.fnRegs := rfl
@[simp] theorem Dev.onItem_stk (d : Dev) (q seq : Nat) (f : Item → Item) : (d.onItem q seq f).stk = d.stk := rfl
@[simp] theorem Dev.onItem_hif (d : Dev) (q seq : Nat) (f : Item → Item) : (d.onItem q seq f).hif = d.hif := rfl
@[simp] theorem Dev.onItem_enc (d : Dev) (q seq : Nat) (f : Item → Item) : (d.onItem q seq f).enc = d.enc := rfl
@[simp] theorem Dev.onItem_pools (d : Dev) (q seq : Nat) (f : Item → Item) : (d.onItem q seq f).pools = d.pools := rfl
@[simp] theorem Dev.onItem_dec (d : Dev) (q seq : Nat) (f : Item → Item) : (d.onItem q seq f).dec = d.dec := rfl
@[simp] theorem Dev.onItem_cmp (d : Dev) (q seq : Nat) (f : Item → Item) : (d.onItem q seq f).cmp = d.cmp := rfl
@[simp] theorem Dev.onItem_aud (d : Dev) (q seq : Nat) (f : Item → Item) : (d.onItem q seq f).aud = d.aud := rfl
@[simp] theorem Dev.onItem_lan (d : Dev) (q seq : Nat) (f : Item → Item) : (d.onItem q seq f).lan = d.lan := rfl
@[simp] theorem Dev.onItem_egs (d : Dev) (q seq : Nat) (f : Item → Item) : (d.onItem q seq f).egs = d.egs := rfl
@[simp] theorem Dev.onItem_pth (d : Dev) (q seq : Nat) (f : Item → Item) : (d.onItem q seq f).pth = d.pth := rfl
@[simp] theorem Dev.onItem_tim (d : Dev) (q seq : Nat) (f : Item → Item) : (d.onItem q seq f).tim = d.tim := rfl
@[simp] theorem Dev.onItem_hbm (d : Dev) (q seq : Nat) (f : Item → Item) : (d.onItem q seq f).hbm = d.hbm := rfl
@[simp] theorem Dev.onItem_sec (d : Dev) (q seq : Nat) (f : Item → Item) : (d.onItem q seq f).sec = d.sec := rfl
@[simp] theorem Dev.onItem_chk (d : Dev) (q seq : Nat) (f : Item → Item) : (d.onItem q seq f).chk = d.chk := rfl
@[simp] theorem Dev.onItem_rst (d : Dev) (q seq : Nat) (f : Item → Item) : (d.onItem q seq f).rst = d.rst := rfl
@[simp] theorem Dev.onItem_thm (d : Dev) (q seq : Nat) (f : Item → Item) : (d.onItem q seq f).thm = d.thm := rfl
@[simp] theorem Dev.onItem_nvm (d : Dev) (q seq : Nat) (f : Item → Item) : (d.onItem q seq f).nvm = d.nvm := rfl
@[simp] theorem Dev.onItem_pmu (d : Dev) (q seq : Nat) (f : Item → Item) : (d.onItem q seq f).pmu = d.pmu := rfl
@[simp] theorem Dev.onItem_rpl (d : Dev) (q seq : Nat) (f : Item → Item) : (d.onItem q seq f).rpl = d.rpl := rfl
@[simp] theorem Dev.onItem_latch (d : Dev) (q seq : Nat) (f : Item → Item) : (d.onItem q seq f).latch = d.latch := rfl
@[simp] theorem Dev.onItem_log (d : Dev) (q seq : Nat) (f : Item → Item) : (d.onItem q seq f).log = d.log := rfl
@[simp] theorem Dev.onItem_out (d : Dev) (q seq : Nat) (f : Item → Item) : (d.onItem q seq f).out = d.out := rfl
@[simp] theorem Dev.onItem_free (d : Dev) (q seq : Nat) (f : Item → Item) : (d.onItem q seq f).free = d.free := rfl
@[simp] theorem Dev.onItem_read_reg (d : Dev) (q seq : Nat) (f : Item → Item) (y : Nat) : (d.onItem q seq f).reg y = d.reg y := rfl
@[simp] theorem Dev.onItem_read_fnReg (d : Dev) (q seq : Nat) (f : Item → Item) (y z : Nat) : (d.onItem q seq f).fnReg y z = d.fnReg y z := rfl
@[simp] theorem Dev.onItem_read_now (d : Dev) (q seq : Nat) (f : Item → Item) : (d.onItem q seq f).now = d.now := rfl
@[simp] theorem Dev.onItem_read_nowLo (d : Dev) (q seq : Nat) (f : Item → Item) : (d.onItem q seq f).nowLo = d.nowLo := rfl
@[simp] theorem Dev.onItem_read_owner (d : Dev) (q seq : Nat) (f : Item → Item) (y z : Nat) : (d.onItem q seq f).owner y z = d.owner y z := rfl
@[simp] theorem Dev.onItem_read_ring (d : Dev) (q seq : Nat) (f : Item → Item) (y z : Nat) : (d.onItem q seq f).ring y z = d.ring y z := rfl
@[simp] theorem Dev.onItem_read_encOf (d : Dev) (q seq : Nat) (f : Item → Item) (y : Nat) : (d.onItem q seq f).enc? y = d.enc? y := rfl
@[simp] theorem Dev.onItem_read_decOf (d : Dev) (q seq : Nat) (f : Item → Item) (y : Nat) : (d.onItem q seq f).dec? y = d.dec? y := rfl
@[simp] theorem Dev.onItem_read_progOf (d : Dev) (q seq : Nat) (f : Item → Item) (y : Nat) : (d.onItem q seq f).prog? y = d.prog? y := rfl

/-! ## onEnc -/

@[simp] theorem Dev.onEnc_regs (d : Dev) (c : Nat) (f : EncDyn → EncDyn) : (d.onEnc c f).regs = d.regs := rfl
@[simp] theorem Dev.onEnc_staged (d : Dev) (c : Nat) (f : EncDyn → EncDyn) : (d.onEnc c f).staged = d.staged := rfl
@[simp] theorem Dev.onEnc_fnRegs (d : Dev) (c : Nat) (f : EncDyn → EncDyn) : (d.onEnc c f).fnRegs = d.fnRegs := rfl
@[simp] theorem Dev.onEnc_stk (d : Dev) (c : Nat) (f : EncDyn → EncDyn) : (d.onEnc c f).stk = d.stk := rfl
@[simp] theorem Dev.onEnc_cox (d : Dev) (c : Nat) (f : EncDyn → EncDyn) : (d.onEnc c f).cox = d.cox := rfl
@[simp] theorem Dev.onEnc_hif (d : Dev) (c : Nat) (f : EncDyn → EncDyn) : (d.onEnc c f).hif = d.hif := rfl
@[simp] theorem Dev.onEnc_pools (d : Dev) (c : Nat) (f : EncDyn → EncDyn) : (d.onEnc c f).pools = d.pools := rfl
@[simp] theorem Dev.onEnc_dec (d : Dev) (c : Nat) (f : EncDyn → EncDyn) : (d.onEnc c f).dec = d.dec := rfl
@[simp] theorem Dev.onEnc_cmp (d : Dev) (c : Nat) (f : EncDyn → EncDyn) : (d.onEnc c f).cmp = d.cmp := rfl
@[simp] theorem Dev.onEnc_aud (d : Dev) (c : Nat) (f : EncDyn → EncDyn) : (d.onEnc c f).aud = d.aud := rfl
@[simp] theorem Dev.onEnc_lan (d : Dev) (c : Nat) (f : EncDyn → EncDyn) : (d.onEnc c f).lan = d.lan := rfl
@[simp] theorem Dev.onEnc_egs (d : Dev) (c : Nat) (f : EncDyn → EncDyn) : (d.onEnc c f).egs = d.egs := rfl
@[simp] theorem Dev.onEnc_pth (d : Dev) (c : Nat) (f : EncDyn → EncDyn) : (d.onEnc c f).pth = d.pth := rfl
@[simp] theorem Dev.onEnc_tim (d : Dev) (c : Nat) (f : EncDyn → EncDyn) : (d.onEnc c f).tim = d.tim := rfl
@[simp] theorem Dev.onEnc_hbm (d : Dev) (c : Nat) (f : EncDyn → EncDyn) : (d.onEnc c f).hbm = d.hbm := rfl
@[simp] theorem Dev.onEnc_sec (d : Dev) (c : Nat) (f : EncDyn → EncDyn) : (d.onEnc c f).sec = d.sec := rfl
@[simp] theorem Dev.onEnc_chk (d : Dev) (c : Nat) (f : EncDyn → EncDyn) : (d.onEnc c f).chk = d.chk := rfl
@[simp] theorem Dev.onEnc_rst (d : Dev) (c : Nat) (f : EncDyn → EncDyn) : (d.onEnc c f).rst = d.rst := rfl
@[simp] theorem Dev.onEnc_thm (d : Dev) (c : Nat) (f : EncDyn → EncDyn) : (d.onEnc c f).thm = d.thm := rfl
@[simp] theorem Dev.onEnc_nvm (d : Dev) (c : Nat) (f : EncDyn → EncDyn) : (d.onEnc c f).nvm = d.nvm := rfl
@[simp] theorem Dev.onEnc_pmu (d : Dev) (c : Nat) (f : EncDyn → EncDyn) : (d.onEnc c f).pmu = d.pmu := rfl
@[simp] theorem Dev.onEnc_rpl (d : Dev) (c : Nat) (f : EncDyn → EncDyn) : (d.onEnc c f).rpl = d.rpl := rfl
@[simp] theorem Dev.onEnc_latch (d : Dev) (c : Nat) (f : EncDyn → EncDyn) : (d.onEnc c f).latch = d.latch := rfl
@[simp] theorem Dev.onEnc_log (d : Dev) (c : Nat) (f : EncDyn → EncDyn) : (d.onEnc c f).log = d.log := rfl
@[simp] theorem Dev.onEnc_out (d : Dev) (c : Nat) (f : EncDyn → EncDyn) : (d.onEnc c f).out = d.out := rfl
@[simp] theorem Dev.onEnc_free (d : Dev) (c : Nat) (f : EncDyn → EncDyn) : (d.onEnc c f).free = d.free := rfl
@[simp] theorem Dev.onEnc_read_reg (d : Dev) (c : Nat) (f : EncDyn → EncDyn) (y : Nat) : (d.onEnc c f).reg y = d.reg y := rfl
@[simp] theorem Dev.onEnc_read_fnReg (d : Dev) (c : Nat) (f : EncDyn → EncDyn) (y z : Nat) : (d.onEnc c f).fnReg y z = d.fnReg y z := rfl
@[simp] theorem Dev.onEnc_read_now (d : Dev) (c : Nat) (f : EncDyn → EncDyn) : (d.onEnc c f).now = d.now := rfl
@[simp] theorem Dev.onEnc_read_nowLo (d : Dev) (c : Nat) (f : EncDyn → EncDyn) : (d.onEnc c f).nowLo = d.nowLo := rfl
@[simp] theorem Dev.onEnc_read_owner (d : Dev) (c : Nat) (f : EncDyn → EncDyn) (y z : Nat) : (d.onEnc c f).owner y z = d.owner y z := rfl
@[simp] theorem Dev.onEnc_read_ring (d : Dev) (c : Nat) (f : EncDyn → EncDyn) (y z : Nat) : (d.onEnc c f).ring y z = d.ring y z := rfl
@[simp] theorem Dev.onEnc_read_itemOf (d : Dev) (c : Nat) (f : EncDyn → EncDyn) (y z : Nat) : (d.onEnc c f).item? y z = d.item? y z := rfl
@[simp] theorem Dev.onEnc_read_decOf (d : Dev) (c : Nat) (f : EncDyn → EncDyn) (y : Nat) : (d.onEnc c f).dec? y = d.dec? y := rfl
@[simp] theorem Dev.onEnc_read_progOf (d : Dev) (c : Nat) (f : EncDyn → EncDyn) (y : Nat) : (d.onEnc c f).prog? y = d.prog? y := rfl

/-! ## setPool -/

@[simp] theorem Dev.setPool_regs (d : Dev) (p : Nat) (x : Option Pool) : (d.setPool p x).regs = d.regs := rfl
@[simp] theorem Dev.setPool_staged (d : Dev) (p : Nat) (x : Option Pool) : (d.setPool p x).staged = d.staged := rfl
@[simp] theorem Dev.setPool_fnRegs (d : Dev) (p : Nat) (x : Option Pool) : (d.setPool p x).fnRegs = d.fnRegs := rfl
@[simp] theorem Dev.setPool_stk (d : Dev) (p : Nat) (x : Option Pool) : (d.setPool p x).stk = d.stk := rfl
@[simp] theorem Dev.setPool_cox (d : Dev) (p : Nat) (x : Option Pool) : (d.setPool p x).cox = d.cox := rfl
@[simp] theorem Dev.setPool_hif (d : Dev) (p : Nat) (x : Option Pool) : (d.setPool p x).hif = d.hif := rfl
@[simp] theorem Dev.setPool_enc (d : Dev) (p : Nat) (x : Option Pool) : (d.setPool p x).enc = d.enc := rfl
@[simp] theorem Dev.setPool_pools (d : Dev) (p : Nat) (x : Option Pool) : (d.setPool p x).pools = Tab.put noPool d.pools p x := rfl
@[simp] theorem Dev.setPool_dec (d : Dev) (p : Nat) (x : Option Pool) : (d.setPool p x).dec = d.dec := rfl
@[simp] theorem Dev.setPool_cmp (d : Dev) (p : Nat) (x : Option Pool) : (d.setPool p x).cmp = d.cmp := rfl
@[simp] theorem Dev.setPool_aud (d : Dev) (p : Nat) (x : Option Pool) : (d.setPool p x).aud = d.aud := rfl
@[simp] theorem Dev.setPool_lan (d : Dev) (p : Nat) (x : Option Pool) : (d.setPool p x).lan = d.lan := rfl
@[simp] theorem Dev.setPool_egs (d : Dev) (p : Nat) (x : Option Pool) : (d.setPool p x).egs = d.egs := rfl
@[simp] theorem Dev.setPool_pth (d : Dev) (p : Nat) (x : Option Pool) : (d.setPool p x).pth = d.pth := rfl
@[simp] theorem Dev.setPool_tim (d : Dev) (p : Nat) (x : Option Pool) : (d.setPool p x).tim = d.tim := rfl
@[simp] theorem Dev.setPool_hbm (d : Dev) (p : Nat) (x : Option Pool) : (d.setPool p x).hbm = d.hbm := rfl
@[simp] theorem Dev.setPool_sec (d : Dev) (p : Nat) (x : Option Pool) : (d.setPool p x).sec = d.sec := rfl
@[simp] theorem Dev.setPool_chk (d : Dev) (p : Nat) (x : Option Pool) : (d.setPool p x).chk = d.chk := rfl
@[simp] theorem Dev.setPool_rst (d : Dev) (p : Nat) (x : Option Pool) : (d.setPool p x).rst = d.rst := rfl
@[simp] theorem Dev.setPool_thm (d : Dev) (p : Nat) (x : Option Pool) : (d.setPool p x).thm = d.thm := rfl
@[simp] theorem Dev.setPool_nvm (d : Dev) (p : Nat) (x : Option Pool) : (d.setPool p x).nvm = d.nvm := rfl
@[simp] theorem Dev.setPool_pmu (d : Dev) (p : Nat) (x : Option Pool) : (d.setPool p x).pmu = d.pmu := rfl
@[simp] theorem Dev.setPool_rpl (d : Dev) (p : Nat) (x : Option Pool) : (d.setPool p x).rpl = d.rpl := rfl
@[simp] theorem Dev.setPool_latch (d : Dev) (p : Nat) (x : Option Pool) : (d.setPool p x).latch = d.latch := rfl
@[simp] theorem Dev.setPool_log (d : Dev) (p : Nat) (x : Option Pool) : (d.setPool p x).log = d.log := rfl
@[simp] theorem Dev.setPool_out (d : Dev) (p : Nat) (x : Option Pool) : (d.setPool p x).out = d.out := rfl
@[simp] theorem Dev.setPool_free (d : Dev) (p : Nat) (x : Option Pool) : (d.setPool p x).free = d.free := rfl
@[simp] theorem Dev.setPool_read_reg (d : Dev) (p : Nat) (x : Option Pool) (y : Nat) : (d.setPool p x).reg y = d.reg y := rfl
@[simp] theorem Dev.setPool_read_fnReg (d : Dev) (p : Nat) (x : Option Pool) (y z : Nat) : (d.setPool p x).fnReg y z = d.fnReg y z := rfl
@[simp] theorem Dev.setPool_read_now (d : Dev) (p : Nat) (x : Option Pool) : (d.setPool p x).now = d.now := rfl
@[simp] theorem Dev.setPool_read_nowLo (d : Dev) (p : Nat) (x : Option Pool) : (d.setPool p x).nowLo = d.nowLo := rfl
@[simp] theorem Dev.setPool_read_owner (d : Dev) (p : Nat) (x : Option Pool) (y z : Nat) : (d.setPool p x).owner y z = d.owner y z := rfl
@[simp] theorem Dev.setPool_read_ring (d : Dev) (p : Nat) (x : Option Pool) (y z : Nat) : (d.setPool p x).ring y z = d.ring y z := rfl
@[simp] theorem Dev.setPool_read_itemOf (d : Dev) (p : Nat) (x : Option Pool) (y z : Nat) : (d.setPool p x).item? y z = d.item? y z := rfl
@[simp] theorem Dev.setPool_read_encOf (d : Dev) (p : Nat) (x : Option Pool) (y : Nat) : (d.setPool p x).enc? y = d.enc? y := rfl
@[simp] theorem Dev.setPool_read_decOf (d : Dev) (p : Nat) (x : Option Pool) (y : Nat) : (d.setPool p x).dec? y = d.dec? y := rfl
@[simp] theorem Dev.setPool_read_progOf (d : Dev) (p : Nat) (x : Option Pool) (y : Nat) : (d.setPool p x).prog? y = d.prog? y := rfl

/-! ## onBuffer -/

@[simp] theorem Dev.onBuffer_regs (d : Dev) (p i : Nat) (f : Buffer → Buffer) : (d.onBuffer p i f).regs = d.regs := rfl
@[simp] theorem Dev.onBuffer_staged (d : Dev) (p i : Nat) (f : Buffer → Buffer) : (d.onBuffer p i f).staged = d.staged := rfl
@[simp] theorem Dev.onBuffer_fnRegs (d : Dev) (p i : Nat) (f : Buffer → Buffer) : (d.onBuffer p i f).fnRegs = d.fnRegs := rfl
@[simp] theorem Dev.onBuffer_stk (d : Dev) (p i : Nat) (f : Buffer → Buffer) : (d.onBuffer p i f).stk = d.stk := rfl
@[simp] theorem Dev.onBuffer_cox (d : Dev) (p i : Nat) (f : Buffer → Buffer) : (d.onBuffer p i f).cox = d.cox := rfl
@[simp] theorem Dev.onBuffer_hif (d : Dev) (p i : Nat) (f : Buffer → Buffer) : (d.onBuffer p i f).hif = d.hif := rfl
@[simp] theorem Dev.onBuffer_enc (d : Dev) (p i : Nat) (f : Buffer → Buffer) : (d.onBuffer p i f).enc = d.enc := rfl
@[simp] theorem Dev.onBuffer_dec (d : Dev) (p i : Nat) (f : Buffer → Buffer) : (d.onBuffer p i f).dec = d.dec := rfl
@[simp] theorem Dev.onBuffer_cmp (d : Dev) (p i : Nat) (f : Buffer → Buffer) : (d.onBuffer p i f).cmp = d.cmp := rfl
@[simp] theorem Dev.onBuffer_aud (d : Dev) (p i : Nat) (f : Buffer → Buffer) : (d.onBuffer p i f).aud = d.aud := rfl
@[simp] theorem Dev.onBuffer_lan (d : Dev) (p i : Nat) (f : Buffer → Buffer) : (d.onBuffer p i f).lan = d.lan := rfl
@[simp] theorem Dev.onBuffer_egs (d : Dev) (p i : Nat) (f : Buffer → Buffer) : (d.onBuffer p i f).egs = d.egs := rfl
@[simp] theorem Dev.onBuffer_pth (d : Dev) (p i : Nat) (f : Buffer → Buffer) : (d.onBuffer p i f).pth = d.pth := rfl
@[simp] theorem Dev.onBuffer_tim (d : Dev) (p i : Nat) (f : Buffer → Buffer) : (d.onBuffer p i f).tim = d.tim := rfl
@[simp] theorem Dev.onBuffer_hbm (d : Dev) (p i : Nat) (f : Buffer → Buffer) : (d.onBuffer p i f).hbm = d.hbm := rfl
@[simp] theorem Dev.onBuffer_sec (d : Dev) (p i : Nat) (f : Buffer → Buffer) : (d.onBuffer p i f).sec = d.sec := rfl
@[simp] theorem Dev.onBuffer_chk (d : Dev) (p i : Nat) (f : Buffer → Buffer) : (d.onBuffer p i f).chk = d.chk := rfl
@[simp] theorem Dev.onBuffer_rst (d : Dev) (p i : Nat) (f : Buffer → Buffer) : (d.onBuffer p i f).rst = d.rst := rfl
@[simp] theorem Dev.onBuffer_thm (d : Dev) (p i : Nat) (f : Buffer → Buffer) : (d.onBuffer p i f).thm = d.thm := rfl
@[simp] theorem Dev.onBuffer_nvm (d : Dev) (p i : Nat) (f : Buffer → Buffer) : (d.onBuffer p i f).nvm = d.nvm := rfl
@[simp] theorem Dev.onBuffer_pmu (d : Dev) (p i : Nat) (f : Buffer → Buffer) : (d.onBuffer p i f).pmu = d.pmu := rfl
@[simp] theorem Dev.onBuffer_rpl (d : Dev) (p i : Nat) (f : Buffer → Buffer) : (d.onBuffer p i f).rpl = d.rpl := rfl
@[simp] theorem Dev.onBuffer_latch (d : Dev) (p i : Nat) (f : Buffer → Buffer) : (d.onBuffer p i f).latch = d.latch := rfl
@[simp] theorem Dev.onBuffer_log (d : Dev) (p i : Nat) (f : Buffer → Buffer) : (d.onBuffer p i f).log = d.log := rfl
@[simp] theorem Dev.onBuffer_out (d : Dev) (p i : Nat) (f : Buffer → Buffer) : (d.onBuffer p i f).out = d.out := rfl
@[simp] theorem Dev.onBuffer_free (d : Dev) (p i : Nat) (f : Buffer → Buffer) : (d.onBuffer p i f).free = d.free := rfl
@[simp] theorem Dev.onBuffer_read_reg (d : Dev) (p i : Nat) (f : Buffer → Buffer) (y : Nat) : (d.onBuffer p i f).reg y = d.reg y := rfl
@[simp] theorem Dev.onBuffer_read_fnReg (d : Dev) (p i : Nat) (f : Buffer → Buffer) (y z : Nat) : (d.onBuffer p i f).fnReg y z = d.fnReg y z := rfl
@[simp] theorem Dev.onBuffer_read_now (d : Dev) (p i : Nat) (f : Buffer → Buffer) : (d.onBuffer p i f).now = d.now := rfl
@[simp] theorem Dev.onBuffer_read_nowLo (d : Dev) (p i : Nat) (f : Buffer → Buffer) : (d.onBuffer p i f).nowLo = d.nowLo := rfl
@[simp] theorem Dev.onBuffer_read_owner (d : Dev) (p i : Nat) (f : Buffer → Buffer) (y z : Nat) : (d.onBuffer p i f).owner y z = d.owner y z := rfl
@[simp] theorem Dev.onBuffer_read_ring (d : Dev) (p i : Nat) (f : Buffer → Buffer) (y z : Nat) : (d.onBuffer p i f).ring y z = d.ring y z := rfl
@[simp] theorem Dev.onBuffer_read_itemOf (d : Dev) (p i : Nat) (f : Buffer → Buffer) (y z : Nat) : (d.onBuffer p i f).item? y z = d.item? y z := rfl
@[simp] theorem Dev.onBuffer_read_encOf (d : Dev) (p i : Nat) (f : Buffer → Buffer) (y : Nat) : (d.onBuffer p i f).enc? y = d.enc? y := rfl
@[simp] theorem Dev.onBuffer_read_decOf (d : Dev) (p i : Nat) (f : Buffer → Buffer) (y : Nat) : (d.onBuffer p i f).dec? y = d.dec? y := rfl
@[simp] theorem Dev.onBuffer_read_progOf (d : Dev) (p i : Nat) (f : Buffer → Buffer) (y : Nat) : (d.onBuffer p i f).prog? y = d.prog? y := rfl

/-! ## onDec -/

@[simp] theorem Dev.onDec_regs (d : Dev) (c : Nat) (f : DecDyn → DecDyn) : (d.onDec c f).regs = d.regs := rfl
@[simp] theorem Dev.onDec_staged (d : Dev) (c : Nat) (f : DecDyn → DecDyn) : (d.onDec c f).staged = d.staged := rfl
@[simp] theorem Dev.onDec_fnRegs (d : Dev) (c : Nat) (f : DecDyn → DecDyn) : (d.onDec c f).fnRegs = d.fnRegs := rfl
@[simp] theorem Dev.onDec_stk (d : Dev) (c : Nat) (f : DecDyn → DecDyn) : (d.onDec c f).stk = d.stk := rfl
@[simp] theorem Dev.onDec_cox (d : Dev) (c : Nat) (f : DecDyn → DecDyn) : (d.onDec c f).cox = d.cox := rfl
@[simp] theorem Dev.onDec_hif (d : Dev) (c : Nat) (f : DecDyn → DecDyn) : (d.onDec c f).hif = d.hif := rfl
@[simp] theorem Dev.onDec_enc (d : Dev) (c : Nat) (f : DecDyn → DecDyn) : (d.onDec c f).enc = d.enc := rfl
@[simp] theorem Dev.onDec_pools (d : Dev) (c : Nat) (f : DecDyn → DecDyn) : (d.onDec c f).pools = d.pools := rfl
@[simp] theorem Dev.onDec_cmp (d : Dev) (c : Nat) (f : DecDyn → DecDyn) : (d.onDec c f).cmp = d.cmp := rfl
@[simp] theorem Dev.onDec_aud (d : Dev) (c : Nat) (f : DecDyn → DecDyn) : (d.onDec c f).aud = d.aud := rfl
@[simp] theorem Dev.onDec_lan (d : Dev) (c : Nat) (f : DecDyn → DecDyn) : (d.onDec c f).lan = d.lan := rfl
@[simp] theorem Dev.onDec_egs (d : Dev) (c : Nat) (f : DecDyn → DecDyn) : (d.onDec c f).egs = d.egs := rfl
@[simp] theorem Dev.onDec_pth (d : Dev) (c : Nat) (f : DecDyn → DecDyn) : (d.onDec c f).pth = d.pth := rfl
@[simp] theorem Dev.onDec_tim (d : Dev) (c : Nat) (f : DecDyn → DecDyn) : (d.onDec c f).tim = d.tim := rfl
@[simp] theorem Dev.onDec_hbm (d : Dev) (c : Nat) (f : DecDyn → DecDyn) : (d.onDec c f).hbm = d.hbm := rfl
@[simp] theorem Dev.onDec_sec (d : Dev) (c : Nat) (f : DecDyn → DecDyn) : (d.onDec c f).sec = d.sec := rfl
@[simp] theorem Dev.onDec_chk (d : Dev) (c : Nat) (f : DecDyn → DecDyn) : (d.onDec c f).chk = d.chk := rfl
@[simp] theorem Dev.onDec_rst (d : Dev) (c : Nat) (f : DecDyn → DecDyn) : (d.onDec c f).rst = d.rst := rfl
@[simp] theorem Dev.onDec_thm (d : Dev) (c : Nat) (f : DecDyn → DecDyn) : (d.onDec c f).thm = d.thm := rfl
@[simp] theorem Dev.onDec_nvm (d : Dev) (c : Nat) (f : DecDyn → DecDyn) : (d.onDec c f).nvm = d.nvm := rfl
@[simp] theorem Dev.onDec_pmu (d : Dev) (c : Nat) (f : DecDyn → DecDyn) : (d.onDec c f).pmu = d.pmu := rfl
@[simp] theorem Dev.onDec_rpl (d : Dev) (c : Nat) (f : DecDyn → DecDyn) : (d.onDec c f).rpl = d.rpl := rfl
@[simp] theorem Dev.onDec_latch (d : Dev) (c : Nat) (f : DecDyn → DecDyn) : (d.onDec c f).latch = d.latch := rfl
@[simp] theorem Dev.onDec_log (d : Dev) (c : Nat) (f : DecDyn → DecDyn) : (d.onDec c f).log = d.log := rfl
@[simp] theorem Dev.onDec_out (d : Dev) (c : Nat) (f : DecDyn → DecDyn) : (d.onDec c f).out = d.out := rfl
@[simp] theorem Dev.onDec_free (d : Dev) (c : Nat) (f : DecDyn → DecDyn) : (d.onDec c f).free = d.free := rfl
@[simp] theorem Dev.onDec_read_reg (d : Dev) (c : Nat) (f : DecDyn → DecDyn) (y : Nat) : (d.onDec c f).reg y = d.reg y := rfl
@[simp] theorem Dev.onDec_read_fnReg (d : Dev) (c : Nat) (f : DecDyn → DecDyn) (y z : Nat) : (d.onDec c f).fnReg y z = d.fnReg y z := rfl
@[simp] theorem Dev.onDec_read_now (d : Dev) (c : Nat) (f : DecDyn → DecDyn) : (d.onDec c f).now = d.now := rfl
@[simp] theorem Dev.onDec_read_nowLo (d : Dev) (c : Nat) (f : DecDyn → DecDyn) : (d.onDec c f).nowLo = d.nowLo := rfl
@[simp] theorem Dev.onDec_read_owner (d : Dev) (c : Nat) (f : DecDyn → DecDyn) (y z : Nat) : (d.onDec c f).owner y z = d.owner y z := rfl
@[simp] theorem Dev.onDec_read_ring (d : Dev) (c : Nat) (f : DecDyn → DecDyn) (y z : Nat) : (d.onDec c f).ring y z = d.ring y z := rfl
@[simp] theorem Dev.onDec_read_itemOf (d : Dev) (c : Nat) (f : DecDyn → DecDyn) (y z : Nat) : (d.onDec c f).item? y z = d.item? y z := rfl
@[simp] theorem Dev.onDec_read_encOf (d : Dev) (c : Nat) (f : DecDyn → DecDyn) (y : Nat) : (d.onDec c f).enc? y = d.enc? y := rfl
@[simp] theorem Dev.onDec_read_progOf (d : Dev) (c : Nat) (f : DecDyn → DecDyn) (y : Nat) : (d.onDec c f).prog? y = d.prog? y := rfl

/-! ## onCmp -/

@[simp] theorem Dev.onCmp_regs (d : Dev) (f : Cmp → Cmp) : (d.onCmp f).regs = d.regs := rfl
@[simp] theorem Dev.onCmp_staged (d : Dev) (f : Cmp → Cmp) : (d.onCmp f).staged = d.staged := rfl
@[simp] theorem Dev.onCmp_fnRegs (d : Dev) (f : Cmp → Cmp) : (d.onCmp f).fnRegs = d.fnRegs := rfl
@[simp] theorem Dev.onCmp_stk (d : Dev) (f : Cmp → Cmp) : (d.onCmp f).stk = d.stk := rfl
@[simp] theorem Dev.onCmp_cox (d : Dev) (f : Cmp → Cmp) : (d.onCmp f).cox = d.cox := rfl
@[simp] theorem Dev.onCmp_hif (d : Dev) (f : Cmp → Cmp) : (d.onCmp f).hif = d.hif := rfl
@[simp] theorem Dev.onCmp_enc (d : Dev) (f : Cmp → Cmp) : (d.onCmp f).enc = d.enc := rfl
@[simp] theorem Dev.onCmp_pools (d : Dev) (f : Cmp → Cmp) : (d.onCmp f).pools = d.pools := rfl
@[simp] theorem Dev.onCmp_dec (d : Dev) (f : Cmp → Cmp) : (d.onCmp f).dec = d.dec := rfl
@[simp] theorem Dev.onCmp_cmp (d : Dev) (f : Cmp → Cmp) : (d.onCmp f).cmp = f d.cmp := rfl
@[simp] theorem Dev.onCmp_aud (d : Dev) (f : Cmp → Cmp) : (d.onCmp f).aud = d.aud := rfl
@[simp] theorem Dev.onCmp_lan (d : Dev) (f : Cmp → Cmp) : (d.onCmp f).lan = d.lan := rfl
@[simp] theorem Dev.onCmp_egs (d : Dev) (f : Cmp → Cmp) : (d.onCmp f).egs = d.egs := rfl
@[simp] theorem Dev.onCmp_pth (d : Dev) (f : Cmp → Cmp) : (d.onCmp f).pth = d.pth := rfl
@[simp] theorem Dev.onCmp_tim (d : Dev) (f : Cmp → Cmp) : (d.onCmp f).tim = d.tim := rfl
@[simp] theorem Dev.onCmp_hbm (d : Dev) (f : Cmp → Cmp) : (d.onCmp f).hbm = d.hbm := rfl
@[simp] theorem Dev.onCmp_sec (d : Dev) (f : Cmp → Cmp) : (d.onCmp f).sec = d.sec := rfl
@[simp] theorem Dev.onCmp_chk (d : Dev) (f : Cmp → Cmp) : (d.onCmp f).chk = d.chk := rfl
@[simp] theorem Dev.onCmp_rst (d : Dev) (f : Cmp → Cmp) : (d.onCmp f).rst = d.rst := rfl
@[simp] theorem Dev.onCmp_thm (d : Dev) (f : Cmp → Cmp) : (d.onCmp f).thm = d.thm := rfl
@[simp] theorem Dev.onCmp_nvm (d : Dev) (f : Cmp → Cmp) : (d.onCmp f).nvm = d.nvm := rfl
@[simp] theorem Dev.onCmp_pmu (d : Dev) (f : Cmp → Cmp) : (d.onCmp f).pmu = d.pmu := rfl
@[simp] theorem Dev.onCmp_rpl (d : Dev) (f : Cmp → Cmp) : (d.onCmp f).rpl = d.rpl := rfl
@[simp] theorem Dev.onCmp_latch (d : Dev) (f : Cmp → Cmp) : (d.onCmp f).latch = d.latch := rfl
@[simp] theorem Dev.onCmp_log (d : Dev) (f : Cmp → Cmp) : (d.onCmp f).log = d.log := rfl
@[simp] theorem Dev.onCmp_out (d : Dev) (f : Cmp → Cmp) : (d.onCmp f).out = d.out := rfl
@[simp] theorem Dev.onCmp_free (d : Dev) (f : Cmp → Cmp) : (d.onCmp f).free = d.free := rfl
@[simp] theorem Dev.onCmp_read_reg (d : Dev) (f : Cmp → Cmp) (y : Nat) : (d.onCmp f).reg y = d.reg y := rfl
@[simp] theorem Dev.onCmp_read_fnReg (d : Dev) (f : Cmp → Cmp) (y z : Nat) : (d.onCmp f).fnReg y z = d.fnReg y z := rfl
@[simp] theorem Dev.onCmp_read_now (d : Dev) (f : Cmp → Cmp) : (d.onCmp f).now = d.now := rfl
@[simp] theorem Dev.onCmp_read_nowLo (d : Dev) (f : Cmp → Cmp) : (d.onCmp f).nowLo = d.nowLo := rfl
@[simp] theorem Dev.onCmp_read_owner (d : Dev) (f : Cmp → Cmp) (y z : Nat) : (d.onCmp f).owner y z = d.owner y z := rfl
@[simp] theorem Dev.onCmp_read_ring (d : Dev) (f : Cmp → Cmp) (y z : Nat) : (d.onCmp f).ring y z = d.ring y z := rfl
@[simp] theorem Dev.onCmp_read_itemOf (d : Dev) (f : Cmp → Cmp) (y z : Nat) : (d.onCmp f).item? y z = d.item? y z := rfl
@[simp] theorem Dev.onCmp_read_encOf (d : Dev) (f : Cmp → Cmp) (y : Nat) : (d.onCmp f).enc? y = d.enc? y := rfl
@[simp] theorem Dev.onCmp_read_decOf (d : Dev) (f : Cmp → Cmp) (y : Nat) : (d.onCmp f).dec? y = d.dec? y := rfl

/-! ## onProg -/

@[simp] theorem Dev.onProg_regs (d : Dev) (p : Nat) (f : ProgDyn → ProgDyn) : (d.onProg p f).regs = d.regs := rfl
@[simp] theorem Dev.onProg_staged (d : Dev) (p : Nat) (f : ProgDyn → ProgDyn) : (d.onProg p f).staged = d.staged := rfl
@[simp] theorem Dev.onProg_fnRegs (d : Dev) (p : Nat) (f : ProgDyn → ProgDyn) : (d.onProg p f).fnRegs = d.fnRegs := rfl
@[simp] theorem Dev.onProg_stk (d : Dev) (p : Nat) (f : ProgDyn → ProgDyn) : (d.onProg p f).stk = d.stk := rfl
@[simp] theorem Dev.onProg_cox (d : Dev) (p : Nat) (f : ProgDyn → ProgDyn) : (d.onProg p f).cox = d.cox := rfl
@[simp] theorem Dev.onProg_hif (d : Dev) (p : Nat) (f : ProgDyn → ProgDyn) : (d.onProg p f).hif = d.hif := rfl
@[simp] theorem Dev.onProg_enc (d : Dev) (p : Nat) (f : ProgDyn → ProgDyn) : (d.onProg p f).enc = d.enc := rfl
@[simp] theorem Dev.onProg_pools (d : Dev) (p : Nat) (f : ProgDyn → ProgDyn) : (d.onProg p f).pools = d.pools := rfl
@[simp] theorem Dev.onProg_dec (d : Dev) (p : Nat) (f : ProgDyn → ProgDyn) : (d.onProg p f).dec = d.dec := rfl
@[simp] theorem Dev.onProg_aud (d : Dev) (p : Nat) (f : ProgDyn → ProgDyn) : (d.onProg p f).aud = d.aud := rfl
@[simp] theorem Dev.onProg_lan (d : Dev) (p : Nat) (f : ProgDyn → ProgDyn) : (d.onProg p f).lan = d.lan := rfl
@[simp] theorem Dev.onProg_egs (d : Dev) (p : Nat) (f : ProgDyn → ProgDyn) : (d.onProg p f).egs = d.egs := rfl
@[simp] theorem Dev.onProg_pth (d : Dev) (p : Nat) (f : ProgDyn → ProgDyn) : (d.onProg p f).pth = d.pth := rfl
@[simp] theorem Dev.onProg_tim (d : Dev) (p : Nat) (f : ProgDyn → ProgDyn) : (d.onProg p f).tim = d.tim := rfl
@[simp] theorem Dev.onProg_hbm (d : Dev) (p : Nat) (f : ProgDyn → ProgDyn) : (d.onProg p f).hbm = d.hbm := rfl
@[simp] theorem Dev.onProg_sec (d : Dev) (p : Nat) (f : ProgDyn → ProgDyn) : (d.onProg p f).sec = d.sec := rfl
@[simp] theorem Dev.onProg_chk (d : Dev) (p : Nat) (f : ProgDyn → ProgDyn) : (d.onProg p f).chk = d.chk := rfl
@[simp] theorem Dev.onProg_rst (d : Dev) (p : Nat) (f : ProgDyn → ProgDyn) : (d.onProg p f).rst = d.rst := rfl
@[simp] theorem Dev.onProg_thm (d : Dev) (p : Nat) (f : ProgDyn → ProgDyn) : (d.onProg p f).thm = d.thm := rfl
@[simp] theorem Dev.onProg_nvm (d : Dev) (p : Nat) (f : ProgDyn → ProgDyn) : (d.onProg p f).nvm = d.nvm := rfl
@[simp] theorem Dev.onProg_pmu (d : Dev) (p : Nat) (f : ProgDyn → ProgDyn) : (d.onProg p f).pmu = d.pmu := rfl
@[simp] theorem Dev.onProg_rpl (d : Dev) (p : Nat) (f : ProgDyn → ProgDyn) : (d.onProg p f).rpl = d.rpl := rfl
@[simp] theorem Dev.onProg_latch (d : Dev) (p : Nat) (f : ProgDyn → ProgDyn) : (d.onProg p f).latch = d.latch := rfl
@[simp] theorem Dev.onProg_log (d : Dev) (p : Nat) (f : ProgDyn → ProgDyn) : (d.onProg p f).log = d.log := rfl
@[simp] theorem Dev.onProg_out (d : Dev) (p : Nat) (f : ProgDyn → ProgDyn) : (d.onProg p f).out = d.out := rfl
@[simp] theorem Dev.onProg_free (d : Dev) (p : Nat) (f : ProgDyn → ProgDyn) : (d.onProg p f).free = d.free := rfl
@[simp] theorem Dev.onProg_read_reg (d : Dev) (p : Nat) (f : ProgDyn → ProgDyn) (y : Nat) : (d.onProg p f).reg y = d.reg y := rfl
@[simp] theorem Dev.onProg_read_fnReg (d : Dev) (p : Nat) (f : ProgDyn → ProgDyn) (y z : Nat) : (d.onProg p f).fnReg y z = d.fnReg y z := rfl
@[simp] theorem Dev.onProg_read_now (d : Dev) (p : Nat) (f : ProgDyn → ProgDyn) : (d.onProg p f).now = d.now := rfl
@[simp] theorem Dev.onProg_read_nowLo (d : Dev) (p : Nat) (f : ProgDyn → ProgDyn) : (d.onProg p f).nowLo = d.nowLo := rfl
@[simp] theorem Dev.onProg_read_owner (d : Dev) (p : Nat) (f : ProgDyn → ProgDyn) (y z : Nat) : (d.onProg p f).owner y z = d.owner y z := rfl
@[simp] theorem Dev.onProg_read_ring (d : Dev) (p : Nat) (f : ProgDyn → ProgDyn) (y z : Nat) : (d.onProg p f).ring y z = d.ring y z := rfl
@[simp] theorem Dev.onProg_read_itemOf (d : Dev) (p : Nat) (f : ProgDyn → ProgDyn) (y z : Nat) : (d.onProg p f).item? y z = d.item? y z := rfl
@[simp] theorem Dev.onProg_read_encOf (d : Dev) (p : Nat) (f : ProgDyn → ProgDyn) (y : Nat) : (d.onProg p f).enc? y = d.enc? y := rfl
@[simp] theorem Dev.onProg_read_decOf (d : Dev) (p : Nat) (f : ProgDyn → ProgDyn) (y : Nat) : (d.onProg p f).dec? y = d.dec? y := rfl

/-! ## onAud -/

@[simp] theorem Dev.onAud_regs (d : Dev) (f : Aud → Aud) : (d.onAud f).regs = d.regs := rfl
@[simp] theorem Dev.onAud_staged (d : Dev) (f : Aud → Aud) : (d.onAud f).staged = d.staged := rfl
@[simp] theorem Dev.onAud_fnRegs (d : Dev) (f : Aud → Aud) : (d.onAud f).fnRegs = d.fnRegs := rfl
@[simp] theorem Dev.onAud_stk (d : Dev) (f : Aud → Aud) : (d.onAud f).stk = d.stk := rfl
@[simp] theorem Dev.onAud_cox (d : Dev) (f : Aud → Aud) : (d.onAud f).cox = d.cox := rfl
@[simp] theorem Dev.onAud_hif (d : Dev) (f : Aud → Aud) : (d.onAud f).hif = d.hif := rfl
@[simp] theorem Dev.onAud_enc (d : Dev) (f : Aud → Aud) : (d.onAud f).enc = d.enc := rfl
@[simp] theorem Dev.onAud_pools (d : Dev) (f : Aud → Aud) : (d.onAud f).pools = d.pools := rfl
@[simp] theorem Dev.onAud_dec (d : Dev) (f : Aud → Aud) : (d.onAud f).dec = d.dec := rfl
@[simp] theorem Dev.onAud_cmp (d : Dev) (f : Aud → Aud) : (d.onAud f).cmp = d.cmp := rfl
@[simp] theorem Dev.onAud_aud (d : Dev) (f : Aud → Aud) : (d.onAud f).aud = f d.aud := rfl
@[simp] theorem Dev.onAud_lan (d : Dev) (f : Aud → Aud) : (d.onAud f).lan = d.lan := rfl
@[simp] theorem Dev.onAud_egs (d : Dev) (f : Aud → Aud) : (d.onAud f).egs = d.egs := rfl
@[simp] theorem Dev.onAud_pth (d : Dev) (f : Aud → Aud) : (d.onAud f).pth = d.pth := rfl
@[simp] theorem Dev.onAud_tim (d : Dev) (f : Aud → Aud) : (d.onAud f).tim = d.tim := rfl
@[simp] theorem Dev.onAud_hbm (d : Dev) (f : Aud → Aud) : (d.onAud f).hbm = d.hbm := rfl
@[simp] theorem Dev.onAud_sec (d : Dev) (f : Aud → Aud) : (d.onAud f).sec = d.sec := rfl
@[simp] theorem Dev.onAud_chk (d : Dev) (f : Aud → Aud) : (d.onAud f).chk = d.chk := rfl
@[simp] theorem Dev.onAud_rst (d : Dev) (f : Aud → Aud) : (d.onAud f).rst = d.rst := rfl
@[simp] theorem Dev.onAud_thm (d : Dev) (f : Aud → Aud) : (d.onAud f).thm = d.thm := rfl
@[simp] theorem Dev.onAud_nvm (d : Dev) (f : Aud → Aud) : (d.onAud f).nvm = d.nvm := rfl
@[simp] theorem Dev.onAud_pmu (d : Dev) (f : Aud → Aud) : (d.onAud f).pmu = d.pmu := rfl
@[simp] theorem Dev.onAud_rpl (d : Dev) (f : Aud → Aud) : (d.onAud f).rpl = d.rpl := rfl
@[simp] theorem Dev.onAud_latch (d : Dev) (f : Aud → Aud) : (d.onAud f).latch = d.latch := rfl
@[simp] theorem Dev.onAud_log (d : Dev) (f : Aud → Aud) : (d.onAud f).log = d.log := rfl
@[simp] theorem Dev.onAud_out (d : Dev) (f : Aud → Aud) : (d.onAud f).out = d.out := rfl
@[simp] theorem Dev.onAud_free (d : Dev) (f : Aud → Aud) : (d.onAud f).free = d.free := rfl
@[simp] theorem Dev.onAud_read_reg (d : Dev) (f : Aud → Aud) (y : Nat) : (d.onAud f).reg y = d.reg y := rfl
@[simp] theorem Dev.onAud_read_fnReg (d : Dev) (f : Aud → Aud) (y z : Nat) : (d.onAud f).fnReg y z = d.fnReg y z := rfl
@[simp] theorem Dev.onAud_read_now (d : Dev) (f : Aud → Aud) : (d.onAud f).now = d.now := rfl
@[simp] theorem Dev.onAud_read_nowLo (d : Dev) (f : Aud → Aud) : (d.onAud f).nowLo = d.nowLo := rfl
@[simp] theorem Dev.onAud_read_owner (d : Dev) (f : Aud → Aud) (y z : Nat) : (d.onAud f).owner y z = d.owner y z := rfl
@[simp] theorem Dev.onAud_read_ring (d : Dev) (f : Aud → Aud) (y z : Nat) : (d.onAud f).ring y z = d.ring y z := rfl
@[simp] theorem Dev.onAud_read_itemOf (d : Dev) (f : Aud → Aud) (y z : Nat) : (d.onAud f).item? y z = d.item? y z := rfl
@[simp] theorem Dev.onAud_read_encOf (d : Dev) (f : Aud → Aud) (y : Nat) : (d.onAud f).enc? y = d.enc? y := rfl
@[simp] theorem Dev.onAud_read_decOf (d : Dev) (f : Aud → Aud) (y : Nat) : (d.onAud f).dec? y = d.dec? y := rfl
@[simp] theorem Dev.onAud_read_progOf (d : Dev) (f : Aud → Aud) (y : Nat) : (d.onAud f).prog? y = d.prog? y := rfl

/-! ## onGrp -/

@[simp] theorem Dev.onGrp_regs (d : Dev) (g : Nat) (f : AudGrpDyn → AudGrpDyn) : (d.onGrp g f).regs = d.regs := rfl
@[simp] theorem Dev.onGrp_staged (d : Dev) (g : Nat) (f : AudGrpDyn → AudGrpDyn) : (d.onGrp g f).staged = d.staged := rfl
@[simp] theorem Dev.onGrp_fnRegs (d : Dev) (g : Nat) (f : AudGrpDyn → AudGrpDyn) : (d.onGrp g f).fnRegs = d.fnRegs := rfl
@[simp] theorem Dev.onGrp_stk (d : Dev) (g : Nat) (f : AudGrpDyn → AudGrpDyn) : (d.onGrp g f).stk = d.stk := rfl
@[simp] theorem Dev.onGrp_cox (d : Dev) (g : Nat) (f : AudGrpDyn → AudGrpDyn) : (d.onGrp g f).cox = d.cox := rfl
@[simp] theorem Dev.onGrp_hif (d : Dev) (g : Nat) (f : AudGrpDyn → AudGrpDyn) : (d.onGrp g f).hif = d.hif := rfl
@[simp] theorem Dev.onGrp_enc (d : Dev) (g : Nat) (f : AudGrpDyn → AudGrpDyn) : (d.onGrp g f).enc = d.enc := rfl
@[simp] theorem Dev.onGrp_pools (d : Dev) (g : Nat) (f : AudGrpDyn → AudGrpDyn) : (d.onGrp g f).pools = d.pools := rfl
@[simp] theorem Dev.onGrp_dec (d : Dev) (g : Nat) (f : AudGrpDyn → AudGrpDyn) : (d.onGrp g f).dec = d.dec := rfl
@[simp] theorem Dev.onGrp_cmp (d : Dev) (g : Nat) (f : AudGrpDyn → AudGrpDyn) : (d.onGrp g f).cmp = d.cmp := rfl
@[simp] theorem Dev.onGrp_lan (d : Dev) (g : Nat) (f : AudGrpDyn → AudGrpDyn) : (d.onGrp g f).lan = d.lan := rfl
@[simp] theorem Dev.onGrp_egs (d : Dev) (g : Nat) (f : AudGrpDyn → AudGrpDyn) : (d.onGrp g f).egs = d.egs := rfl
@[simp] theorem Dev.onGrp_pth (d : Dev) (g : Nat) (f : AudGrpDyn → AudGrpDyn) : (d.onGrp g f).pth = d.pth := rfl
@[simp] theorem Dev.onGrp_tim (d : Dev) (g : Nat) (f : AudGrpDyn → AudGrpDyn) : (d.onGrp g f).tim = d.tim := rfl
@[simp] theorem Dev.onGrp_hbm (d : Dev) (g : Nat) (f : AudGrpDyn → AudGrpDyn) : (d.onGrp g f).hbm = d.hbm := rfl
@[simp] theorem Dev.onGrp_sec (d : Dev) (g : Nat) (f : AudGrpDyn → AudGrpDyn) : (d.onGrp g f).sec = d.sec := rfl
@[simp] theorem Dev.onGrp_chk (d : Dev) (g : Nat) (f : AudGrpDyn → AudGrpDyn) : (d.onGrp g f).chk = d.chk := rfl
@[simp] theorem Dev.onGrp_rst (d : Dev) (g : Nat) (f : AudGrpDyn → AudGrpDyn) : (d.onGrp g f).rst = d.rst := rfl
@[simp] theorem Dev.onGrp_thm (d : Dev) (g : Nat) (f : AudGrpDyn → AudGrpDyn) : (d.onGrp g f).thm = d.thm := rfl
@[simp] theorem Dev.onGrp_nvm (d : Dev) (g : Nat) (f : AudGrpDyn → AudGrpDyn) : (d.onGrp g f).nvm = d.nvm := rfl
@[simp] theorem Dev.onGrp_pmu (d : Dev) (g : Nat) (f : AudGrpDyn → AudGrpDyn) : (d.onGrp g f).pmu = d.pmu := rfl
@[simp] theorem Dev.onGrp_rpl (d : Dev) (g : Nat) (f : AudGrpDyn → AudGrpDyn) : (d.onGrp g f).rpl = d.rpl := rfl
@[simp] theorem Dev.onGrp_latch (d : Dev) (g : Nat) (f : AudGrpDyn → AudGrpDyn) : (d.onGrp g f).latch = d.latch := rfl
@[simp] theorem Dev.onGrp_log (d : Dev) (g : Nat) (f : AudGrpDyn → AudGrpDyn) : (d.onGrp g f).log = d.log := rfl
@[simp] theorem Dev.onGrp_out (d : Dev) (g : Nat) (f : AudGrpDyn → AudGrpDyn) : (d.onGrp g f).out = d.out := rfl
@[simp] theorem Dev.onGrp_free (d : Dev) (g : Nat) (f : AudGrpDyn → AudGrpDyn) : (d.onGrp g f).free = d.free := rfl
@[simp] theorem Dev.onGrp_read_reg (d : Dev) (g : Nat) (f : AudGrpDyn → AudGrpDyn) (y : Nat) : (d.onGrp g f).reg y = d.reg y := rfl
@[simp] theorem Dev.onGrp_read_fnReg (d : Dev) (g : Nat) (f : AudGrpDyn → AudGrpDyn) (y z : Nat) : (d.onGrp g f).fnReg y z = d.fnReg y z := rfl
@[simp] theorem Dev.onGrp_read_now (d : Dev) (g : Nat) (f : AudGrpDyn → AudGrpDyn) : (d.onGrp g f).now = d.now := rfl
@[simp] theorem Dev.onGrp_read_nowLo (d : Dev) (g : Nat) (f : AudGrpDyn → AudGrpDyn) : (d.onGrp g f).nowLo = d.nowLo := rfl
@[simp] theorem Dev.onGrp_read_owner (d : Dev) (g : Nat) (f : AudGrpDyn → AudGrpDyn) (y z : Nat) : (d.onGrp g f).owner y z = d.owner y z := rfl
@[simp] theorem Dev.onGrp_read_ring (d : Dev) (g : Nat) (f : AudGrpDyn → AudGrpDyn) (y z : Nat) : (d.onGrp g f).ring y z = d.ring y z := rfl
@[simp] theorem Dev.onGrp_read_itemOf (d : Dev) (g : Nat) (f : AudGrpDyn → AudGrpDyn) (y z : Nat) : (d.onGrp g f).item? y z = d.item? y z := rfl
@[simp] theorem Dev.onGrp_read_encOf (d : Dev) (g : Nat) (f : AudGrpDyn → AudGrpDyn) (y : Nat) : (d.onGrp g f).enc? y = d.enc? y := rfl
@[simp] theorem Dev.onGrp_read_decOf (d : Dev) (g : Nat) (f : AudGrpDyn → AudGrpDyn) (y : Nat) : (d.onGrp g f).dec? y = d.dec? y := rfl
@[simp] theorem Dev.onGrp_read_progOf (d : Dev) (g : Nat) (f : AudGrpDyn → AudGrpDyn) (y : Nat) : (d.onGrp g f).prog? y = d.prog? y := rfl

/-! ## onLane -/

@[simp] theorem Dev.onLane_regs (d : Dev) (l : Nat) (f : LaneDyn → LaneDyn) : (d.onLane l f).regs = d.regs := rfl
@[simp] theorem Dev.onLane_staged (d : Dev) (l : Nat) (f : LaneDyn → LaneDyn) : (d.onLane l f).staged = d.staged := rfl
@[simp] theorem Dev.onLane_fnRegs (d : Dev) (l : Nat) (f : LaneDyn → LaneDyn) : (d.onLane l f).fnRegs = d.fnRegs := rfl
@[simp] theorem Dev.onLane_stk (d : Dev) (l : Nat) (f : LaneDyn → LaneDyn) : (d.onLane l f).stk = d.stk := rfl
@[simp] theorem Dev.onLane_cox (d : Dev) (l : Nat) (f : LaneDyn → LaneDyn) : (d.onLane l f).cox = d.cox := rfl
@[simp] theorem Dev.onLane_hif (d : Dev) (l : Nat) (f : LaneDyn → LaneDyn) : (d.onLane l f).hif = d.hif := rfl
@[simp] theorem Dev.onLane_enc (d : Dev) (l : Nat) (f : LaneDyn → LaneDyn) : (d.onLane l f).enc = d.enc := rfl
@[simp] theorem Dev.onLane_pools (d : Dev) (l : Nat) (f : LaneDyn → LaneDyn) : (d.onLane l f).pools = d.pools := rfl
@[simp] theorem Dev.onLane_dec (d : Dev) (l : Nat) (f : LaneDyn → LaneDyn) : (d.onLane l f).dec = d.dec := rfl
@[simp] theorem Dev.onLane_cmp (d : Dev) (l : Nat) (f : LaneDyn → LaneDyn) : (d.onLane l f).cmp = d.cmp := rfl
@[simp] theorem Dev.onLane_aud (d : Dev) (l : Nat) (f : LaneDyn → LaneDyn) : (d.onLane l f).aud = d.aud := rfl
@[simp] theorem Dev.onLane_egs (d : Dev) (l : Nat) (f : LaneDyn → LaneDyn) : (d.onLane l f).egs = d.egs := rfl
@[simp] theorem Dev.onLane_pth (d : Dev) (l : Nat) (f : LaneDyn → LaneDyn) : (d.onLane l f).pth = d.pth := rfl
@[simp] theorem Dev.onLane_tim (d : Dev) (l : Nat) (f : LaneDyn → LaneDyn) : (d.onLane l f).tim = d.tim := rfl
@[simp] theorem Dev.onLane_hbm (d : Dev) (l : Nat) (f : LaneDyn → LaneDyn) : (d.onLane l f).hbm = d.hbm := rfl
@[simp] theorem Dev.onLane_sec (d : Dev) (l : Nat) (f : LaneDyn → LaneDyn) : (d.onLane l f).sec = d.sec := rfl
@[simp] theorem Dev.onLane_chk (d : Dev) (l : Nat) (f : LaneDyn → LaneDyn) : (d.onLane l f).chk = d.chk := rfl
@[simp] theorem Dev.onLane_rst (d : Dev) (l : Nat) (f : LaneDyn → LaneDyn) : (d.onLane l f).rst = d.rst := rfl
@[simp] theorem Dev.onLane_thm (d : Dev) (l : Nat) (f : LaneDyn → LaneDyn) : (d.onLane l f).thm = d.thm := rfl
@[simp] theorem Dev.onLane_nvm (d : Dev) (l : Nat) (f : LaneDyn → LaneDyn) : (d.onLane l f).nvm = d.nvm := rfl
@[simp] theorem Dev.onLane_pmu (d : Dev) (l : Nat) (f : LaneDyn → LaneDyn) : (d.onLane l f).pmu = d.pmu := rfl
@[simp] theorem Dev.onLane_rpl (d : Dev) (l : Nat) (f : LaneDyn → LaneDyn) : (d.onLane l f).rpl = d.rpl := rfl
@[simp] theorem Dev.onLane_latch (d : Dev) (l : Nat) (f : LaneDyn → LaneDyn) : (d.onLane l f).latch = d.latch := rfl
@[simp] theorem Dev.onLane_log (d : Dev) (l : Nat) (f : LaneDyn → LaneDyn) : (d.onLane l f).log = d.log := rfl
@[simp] theorem Dev.onLane_out (d : Dev) (l : Nat) (f : LaneDyn → LaneDyn) : (d.onLane l f).out = d.out := rfl
@[simp] theorem Dev.onLane_free (d : Dev) (l : Nat) (f : LaneDyn → LaneDyn) : (d.onLane l f).free = d.free := rfl
@[simp] theorem Dev.onLane_read_reg (d : Dev) (l : Nat) (f : LaneDyn → LaneDyn) (y : Nat) : (d.onLane l f).reg y = d.reg y := rfl
@[simp] theorem Dev.onLane_read_fnReg (d : Dev) (l : Nat) (f : LaneDyn → LaneDyn) (y z : Nat) : (d.onLane l f).fnReg y z = d.fnReg y z := rfl
@[simp] theorem Dev.onLane_read_now (d : Dev) (l : Nat) (f : LaneDyn → LaneDyn) : (d.onLane l f).now = d.now := rfl
@[simp] theorem Dev.onLane_read_nowLo (d : Dev) (l : Nat) (f : LaneDyn → LaneDyn) : (d.onLane l f).nowLo = d.nowLo := rfl
@[simp] theorem Dev.onLane_read_owner (d : Dev) (l : Nat) (f : LaneDyn → LaneDyn) (y z : Nat) : (d.onLane l f).owner y z = d.owner y z := rfl
@[simp] theorem Dev.onLane_read_ring (d : Dev) (l : Nat) (f : LaneDyn → LaneDyn) (y z : Nat) : (d.onLane l f).ring y z = d.ring y z := rfl
@[simp] theorem Dev.onLane_read_itemOf (d : Dev) (l : Nat) (f : LaneDyn → LaneDyn) (y z : Nat) : (d.onLane l f).item? y z = d.item? y z := rfl
@[simp] theorem Dev.onLane_read_encOf (d : Dev) (l : Nat) (f : LaneDyn → LaneDyn) (y : Nat) : (d.onLane l f).enc? y = d.enc? y := rfl
@[simp] theorem Dev.onLane_read_decOf (d : Dev) (l : Nat) (f : LaneDyn → LaneDyn) (y : Nat) : (d.onLane l f).dec? y = d.dec? y := rfl
@[simp] theorem Dev.onLane_read_progOf (d : Dev) (l : Nat) (f : LaneDyn → LaneDyn) (y : Nat) : (d.onLane l f).prog? y = d.prog? y := rfl

/-! ## onEgs -/

@[simp] theorem Dev.onEgs_regs (d : Dev) (f : Egs → Egs) : (d.onEgs f).regs = d.regs := rfl
@[simp] theorem Dev.onEgs_staged (d : Dev) (f : Egs → Egs) : (d.onEgs f).staged = d.staged := rfl
@[simp] theorem Dev.onEgs_fnRegs (d : Dev) (f : Egs → Egs) : (d.onEgs f).fnRegs = d.fnRegs := rfl
@[simp] theorem Dev.onEgs_stk (d : Dev) (f : Egs → Egs) : (d.onEgs f).stk = d.stk := rfl
@[simp] theorem Dev.onEgs_cox (d : Dev) (f : Egs → Egs) : (d.onEgs f).cox = d.cox := rfl
@[simp] theorem Dev.onEgs_hif (d : Dev) (f : Egs → Egs) : (d.onEgs f).hif = d.hif := rfl
@[simp] theorem Dev.onEgs_enc (d : Dev) (f : Egs → Egs) : (d.onEgs f).enc = d.enc := rfl
@[simp] theorem Dev.onEgs_pools (d : Dev) (f : Egs → Egs) : (d.onEgs f).pools = d.pools := rfl
@[simp] theorem Dev.onEgs_dec (d : Dev) (f : Egs → Egs) : (d.onEgs f).dec = d.dec := rfl
@[simp] theorem Dev.onEgs_cmp (d : Dev) (f : Egs → Egs) : (d.onEgs f).cmp = d.cmp := rfl
@[simp] theorem Dev.onEgs_aud (d : Dev) (f : Egs → Egs) : (d.onEgs f).aud = d.aud := rfl
@[simp] theorem Dev.onEgs_lan (d : Dev) (f : Egs → Egs) : (d.onEgs f).lan = d.lan := rfl
@[simp] theorem Dev.onEgs_egs (d : Dev) (f : Egs → Egs) : (d.onEgs f).egs = f d.egs := rfl
@[simp] theorem Dev.onEgs_pth (d : Dev) (f : Egs → Egs) : (d.onEgs f).pth = d.pth := rfl
@[simp] theorem Dev.onEgs_tim (d : Dev) (f : Egs → Egs) : (d.onEgs f).tim = d.tim := rfl
@[simp] theorem Dev.onEgs_hbm (d : Dev) (f : Egs → Egs) : (d.onEgs f).hbm = d.hbm := rfl
@[simp] theorem Dev.onEgs_sec (d : Dev) (f : Egs → Egs) : (d.onEgs f).sec = d.sec := rfl
@[simp] theorem Dev.onEgs_chk (d : Dev) (f : Egs → Egs) : (d.onEgs f).chk = d.chk := rfl
@[simp] theorem Dev.onEgs_rst (d : Dev) (f : Egs → Egs) : (d.onEgs f).rst = d.rst := rfl
@[simp] theorem Dev.onEgs_thm (d : Dev) (f : Egs → Egs) : (d.onEgs f).thm = d.thm := rfl
@[simp] theorem Dev.onEgs_nvm (d : Dev) (f : Egs → Egs) : (d.onEgs f).nvm = d.nvm := rfl
@[simp] theorem Dev.onEgs_pmu (d : Dev) (f : Egs → Egs) : (d.onEgs f).pmu = d.pmu := rfl
@[simp] theorem Dev.onEgs_rpl (d : Dev) (f : Egs → Egs) : (d.onEgs f).rpl = d.rpl := rfl
@[simp] theorem Dev.onEgs_latch (d : Dev) (f : Egs → Egs) : (d.onEgs f).latch = d.latch := rfl
@[simp] theorem Dev.onEgs_log (d : Dev) (f : Egs → Egs) : (d.onEgs f).log = d.log := rfl
@[simp] theorem Dev.onEgs_out (d : Dev) (f : Egs → Egs) : (d.onEgs f).out = d.out := rfl
@[simp] theorem Dev.onEgs_free (d : Dev) (f : Egs → Egs) : (d.onEgs f).free = d.free := rfl
@[simp] theorem Dev.onEgs_read_reg (d : Dev) (f : Egs → Egs) (y : Nat) : (d.onEgs f).reg y = d.reg y := rfl
@[simp] theorem Dev.onEgs_read_fnReg (d : Dev) (f : Egs → Egs) (y z : Nat) : (d.onEgs f).fnReg y z = d.fnReg y z := rfl
@[simp] theorem Dev.onEgs_read_now (d : Dev) (f : Egs → Egs) : (d.onEgs f).now = d.now := rfl
@[simp] theorem Dev.onEgs_read_nowLo (d : Dev) (f : Egs → Egs) : (d.onEgs f).nowLo = d.nowLo := rfl
@[simp] theorem Dev.onEgs_read_owner (d : Dev) (f : Egs → Egs) (y z : Nat) : (d.onEgs f).owner y z = d.owner y z := rfl
@[simp] theorem Dev.onEgs_read_ring (d : Dev) (f : Egs → Egs) (y z : Nat) : (d.onEgs f).ring y z = d.ring y z := rfl
@[simp] theorem Dev.onEgs_read_itemOf (d : Dev) (f : Egs → Egs) (y z : Nat) : (d.onEgs f).item? y z = d.item? y z := rfl
@[simp] theorem Dev.onEgs_read_encOf (d : Dev) (f : Egs → Egs) (y : Nat) : (d.onEgs f).enc? y = d.enc? y := rfl
@[simp] theorem Dev.onEgs_read_decOf (d : Dev) (f : Egs → Egs) (y : Nat) : (d.onEgs f).dec? y = d.dec? y := rfl
@[simp] theorem Dev.onEgs_read_progOf (d : Dev) (f : Egs → Egs) (y : Nat) : (d.onEgs f).prog? y = d.prog? y := rfl

/-! ## onPth -/

@[simp] theorem Dev.onPth_regs (d : Dev) (f : Pth → Pth) : (d.onPth f).regs = d.regs := rfl
@[simp] theorem Dev.onPth_staged (d : Dev) (f : Pth → Pth) : (d.onPth f).staged = d.staged := rfl
@[simp] theorem Dev.onPth_fnRegs (d : Dev) (f : Pth → Pth) : (d.onPth f).fnRegs = d.fnRegs := rfl
@[simp] theorem Dev.onPth_stk (d : Dev) (f : Pth → Pth) : (d.onPth f).stk = d.stk := rfl
@[simp] theorem Dev.onPth_cox (d : Dev) (f : Pth → Pth) : (d.onPth f).cox = d.cox := rfl
@[simp] theorem Dev.onPth_hif (d : Dev) (f : Pth → Pth) : (d.onPth f).hif = d.hif := rfl
@[simp] theorem Dev.onPth_enc (d : Dev) (f : Pth → Pth) : (d.onPth f).enc = d.enc := rfl
@[simp] theorem Dev.onPth_pools (d : Dev) (f : Pth → Pth) : (d.onPth f).pools = d.pools := rfl
@[simp] theorem Dev.onPth_dec (d : Dev) (f : Pth → Pth) : (d.onPth f).dec = d.dec := rfl
@[simp] theorem Dev.onPth_cmp (d : Dev) (f : Pth → Pth) : (d.onPth f).cmp = d.cmp := rfl
@[simp] theorem Dev.onPth_aud (d : Dev) (f : Pth → Pth) : (d.onPth f).aud = d.aud := rfl
@[simp] theorem Dev.onPth_lan (d : Dev) (f : Pth → Pth) : (d.onPth f).lan = d.lan := rfl
@[simp] theorem Dev.onPth_egs (d : Dev) (f : Pth → Pth) : (d.onPth f).egs = d.egs := rfl
@[simp] theorem Dev.onPth_pth (d : Dev) (f : Pth → Pth) : (d.onPth f).pth = f d.pth := rfl
@[simp] theorem Dev.onPth_tim (d : Dev) (f : Pth → Pth) : (d.onPth f).tim = d.tim := rfl
@[simp] theorem Dev.onPth_hbm (d : Dev) (f : Pth → Pth) : (d.onPth f).hbm = d.hbm := rfl
@[simp] theorem Dev.onPth_sec (d : Dev) (f : Pth → Pth) : (d.onPth f).sec = d.sec := rfl
@[simp] theorem Dev.onPth_chk (d : Dev) (f : Pth → Pth) : (d.onPth f).chk = d.chk := rfl
@[simp] theorem Dev.onPth_rst (d : Dev) (f : Pth → Pth) : (d.onPth f).rst = d.rst := rfl
@[simp] theorem Dev.onPth_thm (d : Dev) (f : Pth → Pth) : (d.onPth f).thm = d.thm := rfl
@[simp] theorem Dev.onPth_nvm (d : Dev) (f : Pth → Pth) : (d.onPth f).nvm = d.nvm := rfl
@[simp] theorem Dev.onPth_pmu (d : Dev) (f : Pth → Pth) : (d.onPth f).pmu = d.pmu := rfl
@[simp] theorem Dev.onPth_rpl (d : Dev) (f : Pth → Pth) : (d.onPth f).rpl = d.rpl := rfl
@[simp] theorem Dev.onPth_latch (d : Dev) (f : Pth → Pth) : (d.onPth f).latch = d.latch := rfl
@[simp] theorem Dev.onPth_log (d : Dev) (f : Pth → Pth) : (d.onPth f).log = d.log := rfl
@[simp] theorem Dev.onPth_out (d : Dev) (f : Pth → Pth) : (d.onPth f).out = d.out := rfl
@[simp] theorem Dev.onPth_free (d : Dev) (f : Pth → Pth) : (d.onPth f).free = d.free := rfl
@[simp] theorem Dev.onPth_read_reg (d : Dev) (f : Pth → Pth) (y : Nat) : (d.onPth f).reg y = d.reg y := rfl
@[simp] theorem Dev.onPth_read_fnReg (d : Dev) (f : Pth → Pth) (y z : Nat) : (d.onPth f).fnReg y z = d.fnReg y z := rfl
@[simp] theorem Dev.onPth_read_now (d : Dev) (f : Pth → Pth) : (d.onPth f).now = d.now := rfl
@[simp] theorem Dev.onPth_read_nowLo (d : Dev) (f : Pth → Pth) : (d.onPth f).nowLo = d.nowLo := rfl
@[simp] theorem Dev.onPth_read_owner (d : Dev) (f : Pth → Pth) (y z : Nat) : (d.onPth f).owner y z = d.owner y z := rfl
@[simp] theorem Dev.onPth_read_ring (d : Dev) (f : Pth → Pth) (y z : Nat) : (d.onPth f).ring y z = d.ring y z := rfl
@[simp] theorem Dev.onPth_read_itemOf (d : Dev) (f : Pth → Pth) (y z : Nat) : (d.onPth f).item? y z = d.item? y z := rfl
@[simp] theorem Dev.onPth_read_encOf (d : Dev) (f : Pth → Pth) (y : Nat) : (d.onPth f).enc? y = d.enc? y := rfl
@[simp] theorem Dev.onPth_read_decOf (d : Dev) (f : Pth → Pth) (y : Nat) : (d.onPth f).dec? y = d.dec? y := rfl
@[simp] theorem Dev.onPth_read_progOf (d : Dev) (f : Pth → Pth) (y : Nat) : (d.onPth f).prog? y = d.prog? y := rfl

/-! ## onSide -/

@[simp] theorem Dev.onSide_regs (d : Dev) (i : Nat) (f : Side → Side) : (d.onSide i f).regs = d.regs := rfl
@[simp] theorem Dev.onSide_staged (d : Dev) (i : Nat) (f : Side → Side) : (d.onSide i f).staged = d.staged := rfl
@[simp] theorem Dev.onSide_fnRegs (d : Dev) (i : Nat) (f : Side → Side) : (d.onSide i f).fnRegs = d.fnRegs := rfl
@[simp] theorem Dev.onSide_stk (d : Dev) (i : Nat) (f : Side → Side) : (d.onSide i f).stk = d.stk := rfl
@[simp] theorem Dev.onSide_cox (d : Dev) (i : Nat) (f : Side → Side) : (d.onSide i f).cox = d.cox := rfl
@[simp] theorem Dev.onSide_hif (d : Dev) (i : Nat) (f : Side → Side) : (d.onSide i f).hif = d.hif := rfl
@[simp] theorem Dev.onSide_enc (d : Dev) (i : Nat) (f : Side → Side) : (d.onSide i f).enc = d.enc := rfl
@[simp] theorem Dev.onSide_pools (d : Dev) (i : Nat) (f : Side → Side) : (d.onSide i f).pools = d.pools := rfl
@[simp] theorem Dev.onSide_dec (d : Dev) (i : Nat) (f : Side → Side) : (d.onSide i f).dec = d.dec := rfl
@[simp] theorem Dev.onSide_cmp (d : Dev) (i : Nat) (f : Side → Side) : (d.onSide i f).cmp = d.cmp := rfl
@[simp] theorem Dev.onSide_aud (d : Dev) (i : Nat) (f : Side → Side) : (d.onSide i f).aud = d.aud := rfl
@[simp] theorem Dev.onSide_lan (d : Dev) (i : Nat) (f : Side → Side) : (d.onSide i f).lan = d.lan := rfl
@[simp] theorem Dev.onSide_egs (d : Dev) (i : Nat) (f : Side → Side) : (d.onSide i f).egs = d.egs := rfl
@[simp] theorem Dev.onSide_tim (d : Dev) (i : Nat) (f : Side → Side) : (d.onSide i f).tim = d.tim := rfl
@[simp] theorem Dev.onSide_hbm (d : Dev) (i : Nat) (f : Side → Side) : (d.onSide i f).hbm = d.hbm := rfl
@[simp] theorem Dev.onSide_sec (d : Dev) (i : Nat) (f : Side → Side) : (d.onSide i f).sec = d.sec := rfl
@[simp] theorem Dev.onSide_chk (d : Dev) (i : Nat) (f : Side → Side) : (d.onSide i f).chk = d.chk := rfl
@[simp] theorem Dev.onSide_rst (d : Dev) (i : Nat) (f : Side → Side) : (d.onSide i f).rst = d.rst := rfl
@[simp] theorem Dev.onSide_thm (d : Dev) (i : Nat) (f : Side → Side) : (d.onSide i f).thm = d.thm := rfl
@[simp] theorem Dev.onSide_nvm (d : Dev) (i : Nat) (f : Side → Side) : (d.onSide i f).nvm = d.nvm := rfl
@[simp] theorem Dev.onSide_pmu (d : Dev) (i : Nat) (f : Side → Side) : (d.onSide i f).pmu = d.pmu := rfl
@[simp] theorem Dev.onSide_rpl (d : Dev) (i : Nat) (f : Side → Side) : (d.onSide i f).rpl = d.rpl := rfl
@[simp] theorem Dev.onSide_latch (d : Dev) (i : Nat) (f : Side → Side) : (d.onSide i f).latch = d.latch := rfl
@[simp] theorem Dev.onSide_log (d : Dev) (i : Nat) (f : Side → Side) : (d.onSide i f).log = d.log := rfl
@[simp] theorem Dev.onSide_out (d : Dev) (i : Nat) (f : Side → Side) : (d.onSide i f).out = d.out := rfl
@[simp] theorem Dev.onSide_free (d : Dev) (i : Nat) (f : Side → Side) : (d.onSide i f).free = d.free := rfl
@[simp] theorem Dev.onSide_read_reg (d : Dev) (i : Nat) (f : Side → Side) (y : Nat) : (d.onSide i f).reg y = d.reg y := rfl
@[simp] theorem Dev.onSide_read_fnReg (d : Dev) (i : Nat) (f : Side → Side) (y z : Nat) : (d.onSide i f).fnReg y z = d.fnReg y z := rfl
@[simp] theorem Dev.onSide_read_now (d : Dev) (i : Nat) (f : Side → Side) : (d.onSide i f).now = d.now := rfl
@[simp] theorem Dev.onSide_read_nowLo (d : Dev) (i : Nat) (f : Side → Side) : (d.onSide i f).nowLo = d.nowLo := rfl
@[simp] theorem Dev.onSide_read_owner (d : Dev) (i : Nat) (f : Side → Side) (y z : Nat) : (d.onSide i f).owner y z = d.owner y z := rfl
@[simp] theorem Dev.onSide_read_ring (d : Dev) (i : Nat) (f : Side → Side) (y z : Nat) : (d.onSide i f).ring y z = d.ring y z := rfl
@[simp] theorem Dev.onSide_read_itemOf (d : Dev) (i : Nat) (f : Side → Side) (y z : Nat) : (d.onSide i f).item? y z = d.item? y z := rfl
@[simp] theorem Dev.onSide_read_encOf (d : Dev) (i : Nat) (f : Side → Side) (y : Nat) : (d.onSide i f).enc? y = d.enc? y := rfl
@[simp] theorem Dev.onSide_read_decOf (d : Dev) (i : Nat) (f : Side → Side) (y : Nat) : (d.onSide i f).dec? y = d.dec? y := rfl
@[simp] theorem Dev.onSide_read_progOf (d : Dev) (i : Nat) (f : Side → Side) (y : Nat) : (d.onSide i f).prog? y = d.prog? y := rfl

/-! ## onTim -/

@[simp] theorem Dev.onTim_regs (d : Dev) (f : Tim → Tim) : (d.onTim f).regs = d.regs := rfl
@[simp] theorem Dev.onTim_staged (d : Dev) (f : Tim → Tim) : (d.onTim f).staged = d.staged := rfl
@[simp] theorem Dev.onTim_fnRegs (d : Dev) (f : Tim → Tim) : (d.onTim f).fnRegs = d.fnRegs := rfl
@[simp] theorem Dev.onTim_stk (d : Dev) (f : Tim → Tim) : (d.onTim f).stk = d.stk := rfl
@[simp] theorem Dev.onTim_cox (d : Dev) (f : Tim → Tim) : (d.onTim f).cox = d.cox := rfl
@[simp] theorem Dev.onTim_hif (d : Dev) (f : Tim → Tim) : (d.onTim f).hif = d.hif := rfl
@[simp] theorem Dev.onTim_enc (d : Dev) (f : Tim → Tim) : (d.onTim f).enc = d.enc := rfl
@[simp] theorem Dev.onTim_pools (d : Dev) (f : Tim → Tim) : (d.onTim f).pools = d.pools := rfl
@[simp] theorem Dev.onTim_dec (d : Dev) (f : Tim → Tim) : (d.onTim f).dec = d.dec := rfl
@[simp] theorem Dev.onTim_cmp (d : Dev) (f : Tim → Tim) : (d.onTim f).cmp = d.cmp := rfl
@[simp] theorem Dev.onTim_aud (d : Dev) (f : Tim → Tim) : (d.onTim f).aud = d.aud := rfl
@[simp] theorem Dev.onTim_lan (d : Dev) (f : Tim → Tim) : (d.onTim f).lan = d.lan := rfl
@[simp] theorem Dev.onTim_egs (d : Dev) (f : Tim → Tim) : (d.onTim f).egs = d.egs := rfl
@[simp] theorem Dev.onTim_pth (d : Dev) (f : Tim → Tim) : (d.onTim f).pth = d.pth := rfl
@[simp] theorem Dev.onTim_tim (d : Dev) (f : Tim → Tim) : (d.onTim f).tim = f d.tim := rfl
@[simp] theorem Dev.onTim_hbm (d : Dev) (f : Tim → Tim) : (d.onTim f).hbm = d.hbm := rfl
@[simp] theorem Dev.onTim_sec (d : Dev) (f : Tim → Tim) : (d.onTim f).sec = d.sec := rfl
@[simp] theorem Dev.onTim_chk (d : Dev) (f : Tim → Tim) : (d.onTim f).chk = d.chk := rfl
@[simp] theorem Dev.onTim_rst (d : Dev) (f : Tim → Tim) : (d.onTim f).rst = d.rst := rfl
@[simp] theorem Dev.onTim_thm (d : Dev) (f : Tim → Tim) : (d.onTim f).thm = d.thm := rfl
@[simp] theorem Dev.onTim_nvm (d : Dev) (f : Tim → Tim) : (d.onTim f).nvm = d.nvm := rfl
@[simp] theorem Dev.onTim_pmu (d : Dev) (f : Tim → Tim) : (d.onTim f).pmu = d.pmu := rfl
@[simp] theorem Dev.onTim_rpl (d : Dev) (f : Tim → Tim) : (d.onTim f).rpl = d.rpl := rfl
@[simp] theorem Dev.onTim_latch (d : Dev) (f : Tim → Tim) : (d.onTim f).latch = d.latch := rfl
@[simp] theorem Dev.onTim_log (d : Dev) (f : Tim → Tim) : (d.onTim f).log = d.log := rfl
@[simp] theorem Dev.onTim_out (d : Dev) (f : Tim → Tim) : (d.onTim f).out = d.out := rfl
@[simp] theorem Dev.onTim_free (d : Dev) (f : Tim → Tim) : (d.onTim f).free = d.free := rfl
@[simp] theorem Dev.onTim_read_reg (d : Dev) (f : Tim → Tim) (y : Nat) : (d.onTim f).reg y = d.reg y := rfl
@[simp] theorem Dev.onTim_read_fnReg (d : Dev) (f : Tim → Tim) (y z : Nat) : (d.onTim f).fnReg y z = d.fnReg y z := rfl
@[simp] theorem Dev.onTim_read_now (d : Dev) (f : Tim → Tim) : (d.onTim f).now = d.now := rfl
@[simp] theorem Dev.onTim_read_nowLo (d : Dev) (f : Tim → Tim) : (d.onTim f).nowLo = d.nowLo := rfl
@[simp] theorem Dev.onTim_read_owner (d : Dev) (f : Tim → Tim) (y z : Nat) : (d.onTim f).owner y z = d.owner y z := rfl
@[simp] theorem Dev.onTim_read_ring (d : Dev) (f : Tim → Tim) (y z : Nat) : (d.onTim f).ring y z = d.ring y z := rfl
@[simp] theorem Dev.onTim_read_itemOf (d : Dev) (f : Tim → Tim) (y z : Nat) : (d.onTim f).item? y z = d.item? y z := rfl
@[simp] theorem Dev.onTim_read_encOf (d : Dev) (f : Tim → Tim) (y : Nat) : (d.onTim f).enc? y = d.enc? y := rfl
@[simp] theorem Dev.onTim_read_decOf (d : Dev) (f : Tim → Tim) (y : Nat) : (d.onTim f).dec? y = d.dec? y := rfl
@[simp] theorem Dev.onTim_read_progOf (d : Dev) (f : Tim → Tim) (y : Nat) : (d.onTim f).prog? y = d.prog? y := rfl

/-! ## onOut -/

@[simp] theorem Dev.onOut_regs (d : Dev) (n : Nat) (f : TimeOut → TimeOut) : (d.onOut n f).regs = d.regs := rfl
@[simp] theorem Dev.onOut_staged (d : Dev) (n : Nat) (f : TimeOut → TimeOut) : (d.onOut n f).staged = d.staged := rfl
@[simp] theorem Dev.onOut_fnRegs (d : Dev) (n : Nat) (f : TimeOut → TimeOut) : (d.onOut n f).fnRegs = d.fnRegs := rfl
@[simp] theorem Dev.onOut_stk (d : Dev) (n : Nat) (f : TimeOut → TimeOut) : (d.onOut n f).stk = d.stk := rfl
@[simp] theorem Dev.onOut_cox (d : Dev) (n : Nat) (f : TimeOut → TimeOut) : (d.onOut n f).cox = d.cox := rfl
@[simp] theorem Dev.onOut_hif (d : Dev) (n : Nat) (f : TimeOut → TimeOut) : (d.onOut n f).hif = d.hif := rfl
@[simp] theorem Dev.onOut_enc (d : Dev) (n : Nat) (f : TimeOut → TimeOut) : (d.onOut n f).enc = d.enc := rfl
@[simp] theorem Dev.onOut_pools (d : Dev) (n : Nat) (f : TimeOut → TimeOut) : (d.onOut n f).pools = d.pools := rfl
@[simp] theorem Dev.onOut_dec (d : Dev) (n : Nat) (f : TimeOut → TimeOut) : (d.onOut n f).dec = d.dec := rfl
@[simp] theorem Dev.onOut_cmp (d : Dev) (n : Nat) (f : TimeOut → TimeOut) : (d.onOut n f).cmp = d.cmp := rfl
@[simp] theorem Dev.onOut_aud (d : Dev) (n : Nat) (f : TimeOut → TimeOut) : (d.onOut n f).aud = d.aud := rfl
@[simp] theorem Dev.onOut_lan (d : Dev) (n : Nat) (f : TimeOut → TimeOut) : (d.onOut n f).lan = d.lan := rfl
@[simp] theorem Dev.onOut_egs (d : Dev) (n : Nat) (f : TimeOut → TimeOut) : (d.onOut n f).egs = d.egs := rfl
@[simp] theorem Dev.onOut_pth (d : Dev) (n : Nat) (f : TimeOut → TimeOut) : (d.onOut n f).pth = d.pth := rfl
@[simp] theorem Dev.onOut_hbm (d : Dev) (n : Nat) (f : TimeOut → TimeOut) : (d.onOut n f).hbm = d.hbm := rfl
@[simp] theorem Dev.onOut_sec (d : Dev) (n : Nat) (f : TimeOut → TimeOut) : (d.onOut n f).sec = d.sec := rfl
@[simp] theorem Dev.onOut_chk (d : Dev) (n : Nat) (f : TimeOut → TimeOut) : (d.onOut n f).chk = d.chk := rfl
@[simp] theorem Dev.onOut_rst (d : Dev) (n : Nat) (f : TimeOut → TimeOut) : (d.onOut n f).rst = d.rst := rfl
@[simp] theorem Dev.onOut_thm (d : Dev) (n : Nat) (f : TimeOut → TimeOut) : (d.onOut n f).thm = d.thm := rfl
@[simp] theorem Dev.onOut_nvm (d : Dev) (n : Nat) (f : TimeOut → TimeOut) : (d.onOut n f).nvm = d.nvm := rfl
@[simp] theorem Dev.onOut_pmu (d : Dev) (n : Nat) (f : TimeOut → TimeOut) : (d.onOut n f).pmu = d.pmu := rfl
@[simp] theorem Dev.onOut_rpl (d : Dev) (n : Nat) (f : TimeOut → TimeOut) : (d.onOut n f).rpl = d.rpl := rfl
@[simp] theorem Dev.onOut_latch (d : Dev) (n : Nat) (f : TimeOut → TimeOut) : (d.onOut n f).latch = d.latch := rfl
@[simp] theorem Dev.onOut_log (d : Dev) (n : Nat) (f : TimeOut → TimeOut) : (d.onOut n f).log = d.log := rfl
@[simp] theorem Dev.onOut_out (d : Dev) (n : Nat) (f : TimeOut → TimeOut) : (d.onOut n f).out = d.out := rfl
@[simp] theorem Dev.onOut_free (d : Dev) (n : Nat) (f : TimeOut → TimeOut) : (d.onOut n f).free = d.free := rfl
@[simp] theorem Dev.onOut_read_reg (d : Dev) (n : Nat) (f : TimeOut → TimeOut) (y : Nat) : (d.onOut n f).reg y = d.reg y := rfl
@[simp] theorem Dev.onOut_read_fnReg (d : Dev) (n : Nat) (f : TimeOut → TimeOut) (y z : Nat) : (d.onOut n f).fnReg y z = d.fnReg y z := rfl
@[simp] theorem Dev.onOut_read_now (d : Dev) (n : Nat) (f : TimeOut → TimeOut) : (d.onOut n f).now = d.now := rfl
@[simp] theorem Dev.onOut_read_nowLo (d : Dev) (n : Nat) (f : TimeOut → TimeOut) : (d.onOut n f).nowLo = d.nowLo := rfl
@[simp] theorem Dev.onOut_read_owner (d : Dev) (n : Nat) (f : TimeOut → TimeOut) (y z : Nat) : (d.onOut n f).owner y z = d.owner y z := rfl
@[simp] theorem Dev.onOut_read_ring (d : Dev) (n : Nat) (f : TimeOut → TimeOut) (y z : Nat) : (d.onOut n f).ring y z = d.ring y z := rfl
@[simp] theorem Dev.onOut_read_itemOf (d : Dev) (n : Nat) (f : TimeOut → TimeOut) (y z : Nat) : (d.onOut n f).item? y z = d.item? y z := rfl
@[simp] theorem Dev.onOut_read_encOf (d : Dev) (n : Nat) (f : TimeOut → TimeOut) (y : Nat) : (d.onOut n f).enc? y = d.enc? y := rfl
@[simp] theorem Dev.onOut_read_decOf (d : Dev) (n : Nat) (f : TimeOut → TimeOut) (y : Nat) : (d.onOut n f).dec? y = d.dec? y := rfl
@[simp] theorem Dev.onOut_read_progOf (d : Dev) (n : Nat) (f : TimeOut → TimeOut) (y : Nat) : (d.onOut n f).prog? y = d.prog? y := rfl

/-! ## onPc -/

@[simp] theorem Dev.onPc_regs (d : Dev) (k : Nat) (f : PcDyn → PcDyn) : (d.onPc k f).regs = d.regs := rfl
@[simp] theorem Dev.onPc_staged (d : Dev) (k : Nat) (f : PcDyn → PcDyn) : (d.onPc k f).staged = d.staged := rfl
@[simp] theorem Dev.onPc_fnRegs (d : Dev) (k : Nat) (f : PcDyn → PcDyn) : (d.onPc k f).fnRegs = d.fnRegs := rfl
@[simp] theorem Dev.onPc_stk (d : Dev) (k : Nat) (f : PcDyn → PcDyn) : (d.onPc k f).stk = d.stk := rfl
@[simp] theorem Dev.onPc_cox (d : Dev) (k : Nat) (f : PcDyn → PcDyn) : (d.onPc k f).cox = d.cox := rfl
@[simp] theorem Dev.onPc_hif (d : Dev) (k : Nat) (f : PcDyn → PcDyn) : (d.onPc k f).hif = d.hif := rfl
@[simp] theorem Dev.onPc_enc (d : Dev) (k : Nat) (f : PcDyn → PcDyn) : (d.onPc k f).enc = d.enc := rfl
@[simp] theorem Dev.onPc_pools (d : Dev) (k : Nat) (f : PcDyn → PcDyn) : (d.onPc k f).pools = d.pools := rfl
@[simp] theorem Dev.onPc_dec (d : Dev) (k : Nat) (f : PcDyn → PcDyn) : (d.onPc k f).dec = d.dec := rfl
@[simp] theorem Dev.onPc_cmp (d : Dev) (k : Nat) (f : PcDyn → PcDyn) : (d.onPc k f).cmp = d.cmp := rfl
@[simp] theorem Dev.onPc_aud (d : Dev) (k : Nat) (f : PcDyn → PcDyn) : (d.onPc k f).aud = d.aud := rfl
@[simp] theorem Dev.onPc_lan (d : Dev) (k : Nat) (f : PcDyn → PcDyn) : (d.onPc k f).lan = d.lan := rfl
@[simp] theorem Dev.onPc_egs (d : Dev) (k : Nat) (f : PcDyn → PcDyn) : (d.onPc k f).egs = d.egs := rfl
@[simp] theorem Dev.onPc_pth (d : Dev) (k : Nat) (f : PcDyn → PcDyn) : (d.onPc k f).pth = d.pth := rfl
@[simp] theorem Dev.onPc_tim (d : Dev) (k : Nat) (f : PcDyn → PcDyn) : (d.onPc k f).tim = d.tim := rfl
@[simp] theorem Dev.onPc_sec (d : Dev) (k : Nat) (f : PcDyn → PcDyn) : (d.onPc k f).sec = d.sec := rfl
@[simp] theorem Dev.onPc_chk (d : Dev) (k : Nat) (f : PcDyn → PcDyn) : (d.onPc k f).chk = d.chk := rfl
@[simp] theorem Dev.onPc_rst (d : Dev) (k : Nat) (f : PcDyn → PcDyn) : (d.onPc k f).rst = d.rst := rfl
@[simp] theorem Dev.onPc_thm (d : Dev) (k : Nat) (f : PcDyn → PcDyn) : (d.onPc k f).thm = d.thm := rfl
@[simp] theorem Dev.onPc_nvm (d : Dev) (k : Nat) (f : PcDyn → PcDyn) : (d.onPc k f).nvm = d.nvm := rfl
@[simp] theorem Dev.onPc_pmu (d : Dev) (k : Nat) (f : PcDyn → PcDyn) : (d.onPc k f).pmu = d.pmu := rfl
@[simp] theorem Dev.onPc_rpl (d : Dev) (k : Nat) (f : PcDyn → PcDyn) : (d.onPc k f).rpl = d.rpl := rfl
@[simp] theorem Dev.onPc_latch (d : Dev) (k : Nat) (f : PcDyn → PcDyn) : (d.onPc k f).latch = d.latch := rfl
@[simp] theorem Dev.onPc_log (d : Dev) (k : Nat) (f : PcDyn → PcDyn) : (d.onPc k f).log = d.log := rfl
@[simp] theorem Dev.onPc_out (d : Dev) (k : Nat) (f : PcDyn → PcDyn) : (d.onPc k f).out = d.out := rfl
@[simp] theorem Dev.onPc_free (d : Dev) (k : Nat) (f : PcDyn → PcDyn) : (d.onPc k f).free = d.free := rfl
@[simp] theorem Dev.onPc_read_reg (d : Dev) (k : Nat) (f : PcDyn → PcDyn) (y : Nat) : (d.onPc k f).reg y = d.reg y := rfl
@[simp] theorem Dev.onPc_read_fnReg (d : Dev) (k : Nat) (f : PcDyn → PcDyn) (y z : Nat) : (d.onPc k f).fnReg y z = d.fnReg y z := rfl
@[simp] theorem Dev.onPc_read_now (d : Dev) (k : Nat) (f : PcDyn → PcDyn) : (d.onPc k f).now = d.now := rfl
@[simp] theorem Dev.onPc_read_nowLo (d : Dev) (k : Nat) (f : PcDyn → PcDyn) : (d.onPc k f).nowLo = d.nowLo := rfl
@[simp] theorem Dev.onPc_read_owner (d : Dev) (k : Nat) (f : PcDyn → PcDyn) (y z : Nat) : (d.onPc k f).owner y z = d.owner y z := rfl
@[simp] theorem Dev.onPc_read_ring (d : Dev) (k : Nat) (f : PcDyn → PcDyn) (y z : Nat) : (d.onPc k f).ring y z = d.ring y z := rfl
@[simp] theorem Dev.onPc_read_itemOf (d : Dev) (k : Nat) (f : PcDyn → PcDyn) (y z : Nat) : (d.onPc k f).item? y z = d.item? y z := rfl
@[simp] theorem Dev.onPc_read_encOf (d : Dev) (k : Nat) (f : PcDyn → PcDyn) (y : Nat) : (d.onPc k f).enc? y = d.enc? y := rfl
@[simp] theorem Dev.onPc_read_decOf (d : Dev) (k : Nat) (f : PcDyn → PcDyn) (y : Nat) : (d.onPc k f).dec? y = d.dec? y := rfl
@[simp] theorem Dev.onPc_read_progOf (d : Dev) (k : Nat) (f : PcDyn → PcDyn) (y : Nat) : (d.onPc k f).prog? y = d.prog? y := rfl

/-! ## setDiff -/

@[simp] theorem Dev.setDiff_regs (d : Dev) (pc off v : Nat) : (d.setDiff pc off v).regs = d.regs := rfl
@[simp] theorem Dev.setDiff_staged (d : Dev) (pc off v : Nat) : (d.setDiff pc off v).staged = d.staged := rfl
@[simp] theorem Dev.setDiff_fnRegs (d : Dev) (pc off v : Nat) : (d.setDiff pc off v).fnRegs = d.fnRegs := rfl
@[simp] theorem Dev.setDiff_stk (d : Dev) (pc off v : Nat) : (d.setDiff pc off v).stk = d.stk := rfl
@[simp] theorem Dev.setDiff_cox (d : Dev) (pc off v : Nat) : (d.setDiff pc off v).cox = d.cox := rfl
@[simp] theorem Dev.setDiff_hif (d : Dev) (pc off v : Nat) : (d.setDiff pc off v).hif = d.hif := rfl
@[simp] theorem Dev.setDiff_enc (d : Dev) (pc off v : Nat) : (d.setDiff pc off v).enc = d.enc := rfl
@[simp] theorem Dev.setDiff_pools (d : Dev) (pc off v : Nat) : (d.setDiff pc off v).pools = d.pools := rfl
@[simp] theorem Dev.setDiff_dec (d : Dev) (pc off v : Nat) : (d.setDiff pc off v).dec = d.dec := rfl
@[simp] theorem Dev.setDiff_cmp (d : Dev) (pc off v : Nat) : (d.setDiff pc off v).cmp = d.cmp := rfl
@[simp] theorem Dev.setDiff_aud (d : Dev) (pc off v : Nat) : (d.setDiff pc off v).aud = d.aud := rfl
@[simp] theorem Dev.setDiff_lan (d : Dev) (pc off v : Nat) : (d.setDiff pc off v).lan = d.lan := rfl
@[simp] theorem Dev.setDiff_egs (d : Dev) (pc off v : Nat) : (d.setDiff pc off v).egs = d.egs := rfl
@[simp] theorem Dev.setDiff_pth (d : Dev) (pc off v : Nat) : (d.setDiff pc off v).pth = d.pth := rfl
@[simp] theorem Dev.setDiff_tim (d : Dev) (pc off v : Nat) : (d.setDiff pc off v).tim = d.tim := rfl
@[simp] theorem Dev.setDiff_sec (d : Dev) (pc off v : Nat) : (d.setDiff pc off v).sec = d.sec := rfl
@[simp] theorem Dev.setDiff_chk (d : Dev) (pc off v : Nat) : (d.setDiff pc off v).chk = d.chk := rfl
@[simp] theorem Dev.setDiff_rst (d : Dev) (pc off v : Nat) : (d.setDiff pc off v).rst = d.rst := rfl
@[simp] theorem Dev.setDiff_thm (d : Dev) (pc off v : Nat) : (d.setDiff pc off v).thm = d.thm := rfl
@[simp] theorem Dev.setDiff_nvm (d : Dev) (pc off v : Nat) : (d.setDiff pc off v).nvm = d.nvm := rfl
@[simp] theorem Dev.setDiff_pmu (d : Dev) (pc off v : Nat) : (d.setDiff pc off v).pmu = d.pmu := rfl
@[simp] theorem Dev.setDiff_rpl (d : Dev) (pc off v : Nat) : (d.setDiff pc off v).rpl = d.rpl := rfl
@[simp] theorem Dev.setDiff_latch (d : Dev) (pc off v : Nat) : (d.setDiff pc off v).latch = d.latch := rfl
@[simp] theorem Dev.setDiff_log (d : Dev) (pc off v : Nat) : (d.setDiff pc off v).log = d.log := rfl
@[simp] theorem Dev.setDiff_out (d : Dev) (pc off v : Nat) : (d.setDiff pc off v).out = d.out := rfl
@[simp] theorem Dev.setDiff_free (d : Dev) (pc off v : Nat) : (d.setDiff pc off v).free = d.free := rfl
@[simp] theorem Dev.setDiff_read_reg (d : Dev) (pc off v : Nat) (y : Nat) : (d.setDiff pc off v).reg y = d.reg y := rfl
@[simp] theorem Dev.setDiff_read_fnReg (d : Dev) (pc off v : Nat) (y z : Nat) : (d.setDiff pc off v).fnReg y z = d.fnReg y z := rfl
@[simp] theorem Dev.setDiff_read_now (d : Dev) (pc off v : Nat) : (d.setDiff pc off v).now = d.now := rfl
@[simp] theorem Dev.setDiff_read_nowLo (d : Dev) (pc off v : Nat) : (d.setDiff pc off v).nowLo = d.nowLo := rfl
@[simp] theorem Dev.setDiff_read_owner (d : Dev) (pc off v : Nat) (y z : Nat) : (d.setDiff pc off v).owner y z = d.owner y z := rfl
@[simp] theorem Dev.setDiff_read_ring (d : Dev) (pc off v : Nat) (y z : Nat) : (d.setDiff pc off v).ring y z = d.ring y z := rfl
@[simp] theorem Dev.setDiff_read_itemOf (d : Dev) (pc off v : Nat) (y z : Nat) : (d.setDiff pc off v).item? y z = d.item? y z := rfl
@[simp] theorem Dev.setDiff_read_encOf (d : Dev) (pc off v : Nat) (y : Nat) : (d.setDiff pc off v).enc? y = d.enc? y := rfl
@[simp] theorem Dev.setDiff_read_decOf (d : Dev) (pc off v : Nat) (y : Nat) : (d.setDiff pc off v).dec? y = d.dec? y := rfl
@[simp] theorem Dev.setDiff_read_progOf (d : Dev) (pc off v : Nat) (y : Nat) : (d.setDiff pc off v).prog? y = d.prog? y := rfl

/-! ## onSec -/

@[simp] theorem Dev.onSec_regs (d : Dev) (f : Sec → Sec) : (d.onSec f).regs = d.regs := rfl
@[simp] theorem Dev.onSec_staged (d : Dev) (f : Sec → Sec) : (d.onSec f).staged = d.staged := rfl
@[simp] theorem Dev.onSec_fnRegs (d : Dev) (f : Sec → Sec) : (d.onSec f).fnRegs = d.fnRegs := rfl
@[simp] theorem Dev.onSec_stk (d : Dev) (f : Sec → Sec) : (d.onSec f).stk = d.stk := rfl
@[simp] theorem Dev.onSec_cox (d : Dev) (f : Sec → Sec) : (d.onSec f).cox = d.cox := rfl
@[simp] theorem Dev.onSec_hif (d : Dev) (f : Sec → Sec) : (d.onSec f).hif = d.hif := rfl
@[simp] theorem Dev.onSec_enc (d : Dev) (f : Sec → Sec) : (d.onSec f).enc = d.enc := rfl
@[simp] theorem Dev.onSec_pools (d : Dev) (f : Sec → Sec) : (d.onSec f).pools = d.pools := rfl
@[simp] theorem Dev.onSec_dec (d : Dev) (f : Sec → Sec) : (d.onSec f).dec = d.dec := rfl
@[simp] theorem Dev.onSec_cmp (d : Dev) (f : Sec → Sec) : (d.onSec f).cmp = d.cmp := rfl
@[simp] theorem Dev.onSec_aud (d : Dev) (f : Sec → Sec) : (d.onSec f).aud = d.aud := rfl
@[simp] theorem Dev.onSec_lan (d : Dev) (f : Sec → Sec) : (d.onSec f).lan = d.lan := rfl
@[simp] theorem Dev.onSec_egs (d : Dev) (f : Sec → Sec) : (d.onSec f).egs = d.egs := rfl
@[simp] theorem Dev.onSec_pth (d : Dev) (f : Sec → Sec) : (d.onSec f).pth = d.pth := rfl
@[simp] theorem Dev.onSec_tim (d : Dev) (f : Sec → Sec) : (d.onSec f).tim = d.tim := rfl
@[simp] theorem Dev.onSec_hbm (d : Dev) (f : Sec → Sec) : (d.onSec f).hbm = d.hbm := rfl
@[simp] theorem Dev.onSec_sec (d : Dev) (f : Sec → Sec) : (d.onSec f).sec = f d.sec := rfl
@[simp] theorem Dev.onSec_chk (d : Dev) (f : Sec → Sec) : (d.onSec f).chk = d.chk := rfl
@[simp] theorem Dev.onSec_rst (d : Dev) (f : Sec → Sec) : (d.onSec f).rst = d.rst := rfl
@[simp] theorem Dev.onSec_thm (d : Dev) (f : Sec → Sec) : (d.onSec f).thm = d.thm := rfl
@[simp] theorem Dev.onSec_nvm (d : Dev) (f : Sec → Sec) : (d.onSec f).nvm = d.nvm := rfl
@[simp] theorem Dev.onSec_pmu (d : Dev) (f : Sec → Sec) : (d.onSec f).pmu = d.pmu := rfl
@[simp] theorem Dev.onSec_rpl (d : Dev) (f : Sec → Sec) : (d.onSec f).rpl = d.rpl := rfl
@[simp] theorem Dev.onSec_latch (d : Dev) (f : Sec → Sec) : (d.onSec f).latch = d.latch := rfl
@[simp] theorem Dev.onSec_log (d : Dev) (f : Sec → Sec) : (d.onSec f).log = d.log := rfl
@[simp] theorem Dev.onSec_out (d : Dev) (f : Sec → Sec) : (d.onSec f).out = d.out := rfl
@[simp] theorem Dev.onSec_free (d : Dev) (f : Sec → Sec) : (d.onSec f).free = d.free := rfl
@[simp] theorem Dev.onSec_read_reg (d : Dev) (f : Sec → Sec) (y : Nat) : (d.onSec f).reg y = d.reg y := rfl
@[simp] theorem Dev.onSec_read_fnReg (d : Dev) (f : Sec → Sec) (y z : Nat) : (d.onSec f).fnReg y z = d.fnReg y z := rfl
@[simp] theorem Dev.onSec_read_now (d : Dev) (f : Sec → Sec) : (d.onSec f).now = d.now := rfl
@[simp] theorem Dev.onSec_read_nowLo (d : Dev) (f : Sec → Sec) : (d.onSec f).nowLo = d.nowLo := rfl
@[simp] theorem Dev.onSec_read_ring (d : Dev) (f : Sec → Sec) (y z : Nat) : (d.onSec f).ring y z = d.ring y z := rfl
@[simp] theorem Dev.onSec_read_itemOf (d : Dev) (f : Sec → Sec) (y z : Nat) : (d.onSec f).item? y z = d.item? y z := rfl
@[simp] theorem Dev.onSec_read_encOf (d : Dev) (f : Sec → Sec) (y : Nat) : (d.onSec f).enc? y = d.enc? y := rfl
@[simp] theorem Dev.onSec_read_decOf (d : Dev) (f : Sec → Sec) (y : Nat) : (d.onSec f).dec? y = d.dec? y := rfl
@[simp] theorem Dev.onSec_read_progOf (d : Dev) (f : Sec → Sec) (y : Nat) : (d.onSec f).prog? y = d.prog? y := rfl

/-! ## onChk -/

@[simp] theorem Dev.onChk_regs (d : Dev) (u : Nat) (f : ChkDyn → ChkDyn) : (d.onChk u f).regs = d.regs := rfl
@[simp] theorem Dev.onChk_staged (d : Dev) (u : Nat) (f : ChkDyn → ChkDyn) : (d.onChk u f).staged = d.staged := rfl
@[simp] theorem Dev.onChk_fnRegs (d : Dev) (u : Nat) (f : ChkDyn → ChkDyn) : (d.onChk u f).fnRegs = d.fnRegs := rfl
@[simp] theorem Dev.onChk_stk (d : Dev) (u : Nat) (f : ChkDyn → ChkDyn) : (d.onChk u f).stk = d.stk := rfl
@[simp] theorem Dev.onChk_cox (d : Dev) (u : Nat) (f : ChkDyn → ChkDyn) : (d.onChk u f).cox = d.cox := rfl
@[simp] theorem Dev.onChk_hif (d : Dev) (u : Nat) (f : ChkDyn → ChkDyn) : (d.onChk u f).hif = d.hif := rfl
@[simp] theorem Dev.onChk_enc (d : Dev) (u : Nat) (f : ChkDyn → ChkDyn) : (d.onChk u f).enc = d.enc := rfl
@[simp] theorem Dev.onChk_pools (d : Dev) (u : Nat) (f : ChkDyn → ChkDyn) : (d.onChk u f).pools = d.pools := rfl
@[simp] theorem Dev.onChk_dec (d : Dev) (u : Nat) (f : ChkDyn → ChkDyn) : (d.onChk u f).dec = d.dec := rfl
@[simp] theorem Dev.onChk_cmp (d : Dev) (u : Nat) (f : ChkDyn → ChkDyn) : (d.onChk u f).cmp = d.cmp := rfl
@[simp] theorem Dev.onChk_aud (d : Dev) (u : Nat) (f : ChkDyn → ChkDyn) : (d.onChk u f).aud = d.aud := rfl
@[simp] theorem Dev.onChk_lan (d : Dev) (u : Nat) (f : ChkDyn → ChkDyn) : (d.onChk u f).lan = d.lan := rfl
@[simp] theorem Dev.onChk_egs (d : Dev) (u : Nat) (f : ChkDyn → ChkDyn) : (d.onChk u f).egs = d.egs := rfl
@[simp] theorem Dev.onChk_pth (d : Dev) (u : Nat) (f : ChkDyn → ChkDyn) : (d.onChk u f).pth = d.pth := rfl
@[simp] theorem Dev.onChk_tim (d : Dev) (u : Nat) (f : ChkDyn → ChkDyn) : (d.onChk u f).tim = d.tim := rfl
@[simp] theorem Dev.onChk_hbm (d : Dev) (u : Nat) (f : ChkDyn → ChkDyn) : (d.onChk u f).hbm = d.hbm := rfl
@[simp] theorem Dev.onChk_sec (d : Dev) (u : Nat) (f : ChkDyn → ChkDyn) : (d.onChk u f).sec = d.sec := rfl
@[simp] theorem Dev.onChk_chk (d : Dev) (u : Nat) (f : ChkDyn → ChkDyn) : (d.onChk u f).chk = Tab.upd newChk d.chk u f := rfl
@[simp] theorem Dev.onChk_rst (d : Dev) (u : Nat) (f : ChkDyn → ChkDyn) : (d.onChk u f).rst = d.rst := rfl
@[simp] theorem Dev.onChk_thm (d : Dev) (u : Nat) (f : ChkDyn → ChkDyn) : (d.onChk u f).thm = d.thm := rfl
@[simp] theorem Dev.onChk_nvm (d : Dev) (u : Nat) (f : ChkDyn → ChkDyn) : (d.onChk u f).nvm = d.nvm := rfl
@[simp] theorem Dev.onChk_pmu (d : Dev) (u : Nat) (f : ChkDyn → ChkDyn) : (d.onChk u f).pmu = d.pmu := rfl
@[simp] theorem Dev.onChk_rpl (d : Dev) (u : Nat) (f : ChkDyn → ChkDyn) : (d.onChk u f).rpl = d.rpl := rfl
@[simp] theorem Dev.onChk_latch (d : Dev) (u : Nat) (f : ChkDyn → ChkDyn) : (d.onChk u f).latch = d.latch := rfl
@[simp] theorem Dev.onChk_log (d : Dev) (u : Nat) (f : ChkDyn → ChkDyn) : (d.onChk u f).log = d.log := rfl
@[simp] theorem Dev.onChk_out (d : Dev) (u : Nat) (f : ChkDyn → ChkDyn) : (d.onChk u f).out = d.out := rfl
@[simp] theorem Dev.onChk_free (d : Dev) (u : Nat) (f : ChkDyn → ChkDyn) : (d.onChk u f).free = d.free := rfl
@[simp] theorem Dev.onChk_read_reg (d : Dev) (u : Nat) (f : ChkDyn → ChkDyn) (y : Nat) : (d.onChk u f).reg y = d.reg y := rfl
@[simp] theorem Dev.onChk_read_fnReg (d : Dev) (u : Nat) (f : ChkDyn → ChkDyn) (y z : Nat) : (d.onChk u f).fnReg y z = d.fnReg y z := rfl
@[simp] theorem Dev.onChk_read_now (d : Dev) (u : Nat) (f : ChkDyn → ChkDyn) : (d.onChk u f).now = d.now := rfl
@[simp] theorem Dev.onChk_read_nowLo (d : Dev) (u : Nat) (f : ChkDyn → ChkDyn) : (d.onChk u f).nowLo = d.nowLo := rfl
@[simp] theorem Dev.onChk_read_owner (d : Dev) (u : Nat) (f : ChkDyn → ChkDyn) (y z : Nat) : (d.onChk u f).owner y z = d.owner y z := rfl
@[simp] theorem Dev.onChk_read_ring (d : Dev) (u : Nat) (f : ChkDyn → ChkDyn) (y z : Nat) : (d.onChk u f).ring y z = d.ring y z := rfl
@[simp] theorem Dev.onChk_read_itemOf (d : Dev) (u : Nat) (f : ChkDyn → ChkDyn) (y z : Nat) : (d.onChk u f).item? y z = d.item? y z := rfl
@[simp] theorem Dev.onChk_read_encOf (d : Dev) (u : Nat) (f : ChkDyn → ChkDyn) (y : Nat) : (d.onChk u f).enc? y = d.enc? y := rfl
@[simp] theorem Dev.onChk_read_decOf (d : Dev) (u : Nat) (f : ChkDyn → ChkDyn) (y : Nat) : (d.onChk u f).dec? y = d.dec? y := rfl
@[simp] theorem Dev.onChk_read_progOf (d : Dev) (u : Nat) (f : ChkDyn → ChkDyn) (y : Nat) : (d.onChk u f).prog? y = d.prog? y := rfl

/-! ## onThm -/

@[simp] theorem Dev.onThm_regs (d : Dev) (f : Thm → Thm) : (d.onThm f).regs = d.regs := rfl
@[simp] theorem Dev.onThm_staged (d : Dev) (f : Thm → Thm) : (d.onThm f).staged = d.staged := rfl
@[simp] theorem Dev.onThm_fnRegs (d : Dev) (f : Thm → Thm) : (d.onThm f).fnRegs = d.fnRegs := rfl
@[simp] theorem Dev.onThm_stk (d : Dev) (f : Thm → Thm) : (d.onThm f).stk = d.stk := rfl
@[simp] theorem Dev.onThm_cox (d : Dev) (f : Thm → Thm) : (d.onThm f).cox = d.cox := rfl
@[simp] theorem Dev.onThm_hif (d : Dev) (f : Thm → Thm) : (d.onThm f).hif = d.hif := rfl
@[simp] theorem Dev.onThm_enc (d : Dev) (f : Thm → Thm) : (d.onThm f).enc = d.enc := rfl
@[simp] theorem Dev.onThm_pools (d : Dev) (f : Thm → Thm) : (d.onThm f).pools = d.pools := rfl
@[simp] theorem Dev.onThm_dec (d : Dev) (f : Thm → Thm) : (d.onThm f).dec = d.dec := rfl
@[simp] theorem Dev.onThm_cmp (d : Dev) (f : Thm → Thm) : (d.onThm f).cmp = d.cmp := rfl
@[simp] theorem Dev.onThm_aud (d : Dev) (f : Thm → Thm) : (d.onThm f).aud = d.aud := rfl
@[simp] theorem Dev.onThm_lan (d : Dev) (f : Thm → Thm) : (d.onThm f).lan = d.lan := rfl
@[simp] theorem Dev.onThm_egs (d : Dev) (f : Thm → Thm) : (d.onThm f).egs = d.egs := rfl
@[simp] theorem Dev.onThm_pth (d : Dev) (f : Thm → Thm) : (d.onThm f).pth = d.pth := rfl
@[simp] theorem Dev.onThm_tim (d : Dev) (f : Thm → Thm) : (d.onThm f).tim = d.tim := rfl
@[simp] theorem Dev.onThm_hbm (d : Dev) (f : Thm → Thm) : (d.onThm f).hbm = d.hbm := rfl
@[simp] theorem Dev.onThm_sec (d : Dev) (f : Thm → Thm) : (d.onThm f).sec = d.sec := rfl
@[simp] theorem Dev.onThm_chk (d : Dev) (f : Thm → Thm) : (d.onThm f).chk = d.chk := rfl
@[simp] theorem Dev.onThm_rst (d : Dev) (f : Thm → Thm) : (d.onThm f).rst = d.rst := rfl
@[simp] theorem Dev.onThm_thm (d : Dev) (f : Thm → Thm) : (d.onThm f).thm = f d.thm := rfl
@[simp] theorem Dev.onThm_nvm (d : Dev) (f : Thm → Thm) : (d.onThm f).nvm = d.nvm := rfl
@[simp] theorem Dev.onThm_pmu (d : Dev) (f : Thm → Thm) : (d.onThm f).pmu = d.pmu := rfl
@[simp] theorem Dev.onThm_rpl (d : Dev) (f : Thm → Thm) : (d.onThm f).rpl = d.rpl := rfl
@[simp] theorem Dev.onThm_latch (d : Dev) (f : Thm → Thm) : (d.onThm f).latch = d.latch := rfl
@[simp] theorem Dev.onThm_log (d : Dev) (f : Thm → Thm) : (d.onThm f).log = d.log := rfl
@[simp] theorem Dev.onThm_out (d : Dev) (f : Thm → Thm) : (d.onThm f).out = d.out := rfl
@[simp] theorem Dev.onThm_free (d : Dev) (f : Thm → Thm) : (d.onThm f).free = d.free := rfl
@[simp] theorem Dev.onThm_read_reg (d : Dev) (f : Thm → Thm) (y : Nat) : (d.onThm f).reg y = d.reg y := rfl
@[simp] theorem Dev.onThm_read_fnReg (d : Dev) (f : Thm → Thm) (y z : Nat) : (d.onThm f).fnReg y z = d.fnReg y z := rfl
@[simp] theorem Dev.onThm_read_now (d : Dev) (f : Thm → Thm) : (d.onThm f).now = d.now := rfl
@[simp] theorem Dev.onThm_read_nowLo (d : Dev) (f : Thm → Thm) : (d.onThm f).nowLo = d.nowLo := rfl
@[simp] theorem Dev.onThm_read_owner (d : Dev) (f : Thm → Thm) (y z : Nat) : (d.onThm f).owner y z = d.owner y z := rfl
@[simp] theorem Dev.onThm_read_ring (d : Dev) (f : Thm → Thm) (y z : Nat) : (d.onThm f).ring y z = d.ring y z := rfl
@[simp] theorem Dev.onThm_read_itemOf (d : Dev) (f : Thm → Thm) (y z : Nat) : (d.onThm f).item? y z = d.item? y z := rfl
@[simp] theorem Dev.onThm_read_encOf (d : Dev) (f : Thm → Thm) (y : Nat) : (d.onThm f).enc? y = d.enc? y := rfl
@[simp] theorem Dev.onThm_read_decOf (d : Dev) (f : Thm → Thm) (y : Nat) : (d.onThm f).dec? y = d.dec? y := rfl
@[simp] theorem Dev.onThm_read_progOf (d : Dev) (f : Thm → Thm) (y : Nat) : (d.onThm f).prog? y = d.prog? y := rfl

/-! ## onNvm -/

@[simp] theorem Dev.onNvm_regs (d : Dev) (f : Nvm → Nvm) : (d.onNvm f).regs = d.regs := rfl
@[simp] theorem Dev.onNvm_staged (d : Dev) (f : Nvm → Nvm) : (d.onNvm f).staged = d.staged := rfl
@[simp] theorem Dev.onNvm_fnRegs (d : Dev) (f : Nvm → Nvm) : (d.onNvm f).fnRegs = d.fnRegs := rfl
@[simp] theorem Dev.onNvm_stk (d : Dev) (f : Nvm → Nvm) : (d.onNvm f).stk = d.stk := rfl
@[simp] theorem Dev.onNvm_cox (d : Dev) (f : Nvm → Nvm) : (d.onNvm f).cox = d.cox := rfl
@[simp] theorem Dev.onNvm_hif (d : Dev) (f : Nvm → Nvm) : (d.onNvm f).hif = d.hif := rfl
@[simp] theorem Dev.onNvm_enc (d : Dev) (f : Nvm → Nvm) : (d.onNvm f).enc = d.enc := rfl
@[simp] theorem Dev.onNvm_pools (d : Dev) (f : Nvm → Nvm) : (d.onNvm f).pools = d.pools := rfl
@[simp] theorem Dev.onNvm_dec (d : Dev) (f : Nvm → Nvm) : (d.onNvm f).dec = d.dec := rfl
@[simp] theorem Dev.onNvm_cmp (d : Dev) (f : Nvm → Nvm) : (d.onNvm f).cmp = d.cmp := rfl
@[simp] theorem Dev.onNvm_aud (d : Dev) (f : Nvm → Nvm) : (d.onNvm f).aud = d.aud := rfl
@[simp] theorem Dev.onNvm_lan (d : Dev) (f : Nvm → Nvm) : (d.onNvm f).lan = d.lan := rfl
@[simp] theorem Dev.onNvm_egs (d : Dev) (f : Nvm → Nvm) : (d.onNvm f).egs = d.egs := rfl
@[simp] theorem Dev.onNvm_pth (d : Dev) (f : Nvm → Nvm) : (d.onNvm f).pth = d.pth := rfl
@[simp] theorem Dev.onNvm_tim (d : Dev) (f : Nvm → Nvm) : (d.onNvm f).tim = d.tim := rfl
@[simp] theorem Dev.onNvm_hbm (d : Dev) (f : Nvm → Nvm) : (d.onNvm f).hbm = d.hbm := rfl
@[simp] theorem Dev.onNvm_sec (d : Dev) (f : Nvm → Nvm) : (d.onNvm f).sec = d.sec := rfl
@[simp] theorem Dev.onNvm_chk (d : Dev) (f : Nvm → Nvm) : (d.onNvm f).chk = d.chk := rfl
@[simp] theorem Dev.onNvm_rst (d : Dev) (f : Nvm → Nvm) : (d.onNvm f).rst = d.rst := rfl
@[simp] theorem Dev.onNvm_thm (d : Dev) (f : Nvm → Nvm) : (d.onNvm f).thm = d.thm := rfl
@[simp] theorem Dev.onNvm_nvm (d : Dev) (f : Nvm → Nvm) : (d.onNvm f).nvm = f d.nvm := rfl
@[simp] theorem Dev.onNvm_pmu (d : Dev) (f : Nvm → Nvm) : (d.onNvm f).pmu = d.pmu := rfl
@[simp] theorem Dev.onNvm_rpl (d : Dev) (f : Nvm → Nvm) : (d.onNvm f).rpl = d.rpl := rfl
@[simp] theorem Dev.onNvm_latch (d : Dev) (f : Nvm → Nvm) : (d.onNvm f).latch = d.latch := rfl
@[simp] theorem Dev.onNvm_log (d : Dev) (f : Nvm → Nvm) : (d.onNvm f).log = d.log := rfl
@[simp] theorem Dev.onNvm_out (d : Dev) (f : Nvm → Nvm) : (d.onNvm f).out = d.out := rfl
@[simp] theorem Dev.onNvm_free (d : Dev) (f : Nvm → Nvm) : (d.onNvm f).free = d.free := rfl
@[simp] theorem Dev.onNvm_read_reg (d : Dev) (f : Nvm → Nvm) (y : Nat) : (d.onNvm f).reg y = d.reg y := rfl
@[simp] theorem Dev.onNvm_read_fnReg (d : Dev) (f : Nvm → Nvm) (y z : Nat) : (d.onNvm f).fnReg y z = d.fnReg y z := rfl
@[simp] theorem Dev.onNvm_read_now (d : Dev) (f : Nvm → Nvm) : (d.onNvm f).now = d.now := rfl
@[simp] theorem Dev.onNvm_read_nowLo (d : Dev) (f : Nvm → Nvm) : (d.onNvm f).nowLo = d.nowLo := rfl
@[simp] theorem Dev.onNvm_read_owner (d : Dev) (f : Nvm → Nvm) (y z : Nat) : (d.onNvm f).owner y z = d.owner y z := rfl
@[simp] theorem Dev.onNvm_read_ring (d : Dev) (f : Nvm → Nvm) (y z : Nat) : (d.onNvm f).ring y z = d.ring y z := rfl
@[simp] theorem Dev.onNvm_read_itemOf (d : Dev) (f : Nvm → Nvm) (y z : Nat) : (d.onNvm f).item? y z = d.item? y z := rfl
@[simp] theorem Dev.onNvm_read_encOf (d : Dev) (f : Nvm → Nvm) (y : Nat) : (d.onNvm f).enc? y = d.enc? y := rfl
@[simp] theorem Dev.onNvm_read_decOf (d : Dev) (f : Nvm → Nvm) (y : Nat) : (d.onNvm f).dec? y = d.dec? y := rfl
@[simp] theorem Dev.onNvm_read_progOf (d : Dev) (f : Nvm → Nvm) (y : Nat) : (d.onNvm f).prog? y = d.prog? y := rfl

end Sys2Proof.Machine
end

