-- ==== Sys2Proof/Laws/Tab.lean ====
section
/-! SUPPORT. The laws of sparse tables: what a read gives after a write, and that every operation keeps the canonical
form. -/

namespace Sys2Proof.Machine

variable {α : Type} {d : Nat → α}

@[simp] theorem Tab.get_nil (k : Nat) : Tab.get d ([] : Tab α) k = d k := rfl

@[simp] theorem Tab.get_set_same (t : Tab α) (k : Nat) (v : α) : Tab.get d (Tab.set t k v) k = v := by
  induction t with
  | nil => simp [Tab.set, Tab.get]
  | cons p r ih =>
    obtain ⟨k', v'⟩ := p
    simp only [Tab.set]
    split_ifs with h₁ h₂
    · simp [Tab.get]
    · simp [Tab.get]
    · simp [Tab.get, ih, Ne.symm h₂]

theorem Tab.get_set_other (t : Tab α) {k j : Nat} (v : α) (h : j ≠ k) : Tab.get d (Tab.set t k v) j = Tab.get d t j := by
  induction t with
  | nil => simp [Tab.set, Tab.get, Ne.symm h]
  | cons p r ih =>
    obtain ⟨k', v'⟩ := p
    simp only [Tab.set]
    split_ifs with h₁ h₂
    · simp [Tab.get, Ne.symm h]
    · subst h₂; simp [Tab.get, Ne.symm h]
    · simp [Tab.get, ih]

/-- A read of a filtered table gives the old value where every entry of the key is kept. -/
theorem Tab.get_filter_keep (t : Tab α) (p : Nat × α → Bool) (k : Nat) (h : ∀ v, p (k, v) = true) :
    Tab.get d (t.filter p) k = Tab.get d t k := by
  induction t with
  | nil => rfl
  | cons x r ih =>
    obtain ⟨k', v'⟩ := x
    by_cases hk : k' = k
    · subst hk; simp [List.filter, h, Tab.get]
    · by_cases hp : p (k', v') = true
      · simp [List.filter, hp, Tab.get, hk, ih]
      · simp [List.filter, hp, Tab.get, hk, ih]

/-- A read of a filtered table gives the unlisted value where no entry of the key is kept. -/
theorem Tab.get_filter_drop (t : Tab α) (p : Nat × α → Bool) (k : Nat) (h : ∀ v, p (k, v) = false) :
    Tab.get d (t.filter p) k = d k := by
  induction t with
  | nil => rfl
  | cons x r ih =>
    obtain ⟨k', v'⟩ := x
    by_cases hk : k' = k
    · subst hk; simp [List.filter, h, ih]
    · by_cases hp : p (k', v') = true
      · simp [List.filter, hp, Tab.get, hk, ih]
      · simp [List.filter, hp, ih]

/-- A partial map over a table does not see an entry set where it sees neither the old value nor the new one. -/
theorem Tab.filterMap_set {β : Type} (t : Tab α) {k : Nat} {v : α} (g : Nat × α → Option β) (hv : g (k, v) = none)
    (ho : g (k, Tab.get d t k) = none) : (Tab.set t k v).filterMap g = t.filterMap g := by
  induction t with
  | nil => simp [Tab.set, hv]
  | cons p r ih =>
    obtain ⟨k', v'⟩ := p
    simp only [Tab.set]
    split_ifs with h₁ h₂
    · simp [List.filterMap_cons, hv]
    · subst h₂
      simp only [Tab.get, if_true] at ho
      simp [List.filterMap_cons, hv, ho]
    · simp only [Tab.get, if_neg (Ne.symm h₂)] at ho
      simp [List.filterMap_cons, ih ho]

variable [DecidableEq α]

/-- A read after a write of the same key gives the value written. -/
@[simp] theorem Tab.get_put_same (t : Tab α) (k : Nat) (v : α) : Tab.get d (Tab.put d t k v) k = v := by
  unfold Tab.put
  split_ifs with h
  · rw [h]; exact Tab.get_filter_drop _ _ _ (by simp)
  · simp

/-- A write leaves every other key alone. -/
theorem Tab.get_put_other (t : Tab α) {k j : Nat} (v : α) (h : j ≠ k) : Tab.get d (Tab.put d t k v) j = Tab.get d t j := by
  unfold Tab.put
  split_ifs with hv
  · exact Tab.get_filter_keep _ _ _ (by simp [h])
  · exact Tab.get_set_other t v h

theorem Tab.get_put (t : Tab α) (k j : Nat) (v : α) :
    Tab.get d (Tab.put d t k v) j = if j = k then v else Tab.get d t j := by
  split_ifs with h
  · subst h; simp
  · exact Tab.get_put_other t v h

@[simp] theorem Tab.get_upd_same (t : Tab α) (k : Nat) (f : α → α) : Tab.get d (Tab.upd d t k f) k = f (Tab.get d t k) := by
  simp [Tab.upd]

theorem Tab.get_upd_other (t : Tab α) {k j : Nat} (f : α → α) (h : j ≠ k) :
    Tab.get d (Tab.upd d t k f) j = Tab.get d t j := Tab.get_put_other t _ h

/-! ## The canonical form -/

theorem Tab.wfFrom_mono {t : Tab α} {a b : Nat} (hab : a ≤ b) (h : Tab.wfFrom d b t = true) : Tab.wfFrom d a t = true := by
  cases t with
  | nil => rfl
  | cons p r =>
    obtain ⟨k, v⟩ := p
    simp only [Tab.wfFrom, Bool.and_eq_true, decide_eq_true_eq] at h ⊢
    exact ⟨⟨le_trans hab h.1.1, h.1.2⟩, h.2⟩

theorem Tab.wfFrom_filter (t : Tab α) (p : Nat × α → Bool) (b : Nat) (h : Tab.wfFrom d b t = true) :
    Tab.wfFrom d b (t.filter p) = true := by
  induction t generalizing b with
  | nil => rfl
  | cons x r ih =>
    obtain ⟨k, v⟩ := x
    simp only [Tab.wfFrom, Bool.and_eq_true, decide_eq_true_eq] at h
    by_cases hp : p (k, v) = true
    · simp [hp, Tab.wfFrom, h.1, ih _ h.2]
    · simp only [List.filter, hp]
      exact Tab.wfFrom_mono (Nat.le_succ_of_le h.1.1) (ih _ h.2)

theorem Tab.wfFrom_set (t : Tab α) (k : Nat) (v : α) (b : Nat) (hb : b ≤ k) (hv : v ≠ d k) (h : Tab.wfFrom d b t = true) :
    Tab.wfFrom d b (Tab.set t k v) = true := by
  induction t generalizing b with
  | nil => simp [Tab.set, Tab.wfFrom, hb, hv]
  | cons x r ih =>
    obtain ⟨k', v'⟩ := x
    simp only [Tab.wfFrom, Bool.and_eq_true, decide_eq_true_eq] at h
    simp only [Tab.set]
    split_ifs with h₁ h₂
    · simp [Tab.wfFrom, hb, hv, h.1.2, h.2]; omega
    · subst h₂; simp [Tab.wfFrom, hb, hv, h.2]
    · simp only [Tab.wfFrom, Bool.and_eq_true, decide_eq_true_eq]
      exact ⟨h.1, ih _ (by omega) h.2⟩

/-- A filter keeps the canonical form. -/
theorem Tab.wf_filter {t : Tab α} (p : Nat × α → Bool) (h : Tab.wf d t = true) : Tab.wf d (t.filter p) = true :=
  Tab.wfFrom_filter t p 0 h

/-- A write keeps the canonical form. -/
theorem Tab.wf_put {t : Tab α} (k : Nat) (v : α) (h : Tab.wf d t = true) : Tab.wf d (Tab.put d t k v) = true := by
  unfold Tab.put
  split_ifs with hv
  · exact Tab.wf_filter _ h
  · exact Tab.wfFrom_set t k v 0 (Nat.zero_le k) hv h

theorem Tab.wf_upd {t : Tab α} (k : Nat) (f : α → α) (h : Tab.wf d t = true) : Tab.wf d (Tab.upd d t k f) = true :=
  Tab.wf_put k _ h

@[simp] theorem Tab.wf_nil : Tab.wf d ([] : Tab α) = true := rfl

end Sys2Proof.Machine
end

