-- ==== Sys2Proof/Laws/Regs.lean ====
section
/-! SUPPORT. Registers and their fields: what a read gives after a write of the same field, of another field of the register, and of
another register. -/

namespace Sys2Proof.Machine

/-- A field lies in a 32-bit word. -/
def Fld.ok (f : Fld) : Prop := f.lo ≤ f.hi ∧ f.hi < 32

theorem Fld.split (f : Fld) (w : Word) :
    w.toNat = w.toNat % 2 ^ f.lo + f.get w * 2 ^ f.lo + w.toNat / 2 ^ (f.lo + f.width) * 2 ^ (f.lo + f.width) := by
  have h₁ := Nat.div_add_mod w.toNat (2 ^ f.lo)
  have h₂ := Nat.div_add_mod (w.toNat / 2 ^ f.lo) (2 ^ f.width)
  rw [Nat.div_div_eq_div_mul, ← pow_add] at h₂
  unfold Fld.get
  calc w.toNat = 2 ^ f.lo * (w.toNat / 2 ^ f.lo) + w.toNat % 2 ^ f.lo := h₁.symm
    _ = 2 ^ f.lo * (2 ^ f.width * (w.toNat / 2 ^ (f.lo + f.width)) + w.toNat / 2 ^ f.lo % 2 ^ f.width) + w.toNat % 2 ^ f.lo := by
        rw [h₂]
    _ = _ := by rw [pow_add]; ring

theorem Fld.get_lt (f : Fld) (w : Word) : f.get w < 2 ^ f.width := Nat.mod_lt _ (by positivity)

theorem Fld.set_toNat {f : Fld} (hf : f.ok) (w : Word) (v : Nat) :
    (f.set w v).toNat =
      w.toNat % 2 ^ f.lo + v % 2 ^ f.width * 2 ^ f.lo + w.toNat / 2 ^ (f.lo + f.width) * 2 ^ (f.lo + f.width) := by
  have hs := Fld.split f w
  have hw : w.toNat < 2 ^ 32 := w.isLt
  have hle : f.lo + f.width ≤ 32 := by unfold Fld.width; have := hf.1; have := hf.2; omega
  have hv : v % 2 ^ f.width < 2 ^ f.width := Nat.mod_lt _ (by positivity)
  have hm : w.toNat % 2 ^ f.lo < 2 ^ f.lo := Nat.mod_lt _ (by positivity)
  have hlt : w.toNat % 2 ^ f.lo + v % 2 ^ f.width * 2 ^ f.lo + w.toNat / 2 ^ (f.lo + f.width) * 2 ^ (f.lo + f.width) < 2 ^ 32 := by
    have h₁ : w.toNat % 2 ^ f.lo + v % 2 ^ f.width * 2 ^ f.lo < 2 ^ (f.lo + f.width) := by
      rw [pow_add]
      calc w.toNat % 2 ^ f.lo + v % 2 ^ f.width * 2 ^ f.lo < 2 ^ f.lo + v % 2 ^ f.width * 2 ^ f.lo := by omega
        _ = (v % 2 ^ f.width + 1) * 2 ^ f.lo := by ring
        _ ≤ 2 ^ f.width * 2 ^ f.lo := Nat.mul_le_mul_right _ hv
        _ = _ := by ring
    have h₂ : w.toNat / 2 ^ (f.lo + f.width) < 2 ^ (32 - (f.lo + f.width)) := by
      apply Nat.div_lt_of_lt_mul; rw [← pow_add]; rwa [Nat.add_sub_cancel' hle]
    calc _ < 2 ^ (f.lo + f.width) + w.toNat / 2 ^ (f.lo + f.width) * 2 ^ (f.lo + f.width) := by omega
      _ = (w.toNat / 2 ^ (f.lo + f.width) + 1) * 2 ^ (f.lo + f.width) := by ring
      _ ≤ 2 ^ (32 - (f.lo + f.width)) * 2 ^ (f.lo + f.width) := Nat.mul_le_mul_right _ h₂
      _ = 2 ^ 32 := by rw [← pow_add, Nat.sub_add_cancel hle]
  unfold Fld.set
  rw [BitVec.toNat_ofNat]
  have : w.toNat - f.get w * 2 ^ f.lo + v % 2 ^ f.width * 2 ^ f.lo =
      w.toNat % 2 ^ f.lo + v % 2 ^ f.width * 2 ^ f.lo + w.toNat / 2 ^ (f.lo + f.width) * 2 ^ (f.lo + f.width) := by omega
  rw [this, Nat.mod_eq_of_lt hlt]

/-- A field reads what was written to it, cut to its width. -/
theorem Fld.get_set {f : Fld} (hf : f.ok) (w : Word) (v : Nat) : f.get (f.set w v) = v % 2 ^ f.width := by
  have hm : w.toNat % 2 ^ f.lo < 2 ^ f.lo := Nat.mod_lt _ (by positivity)
  rw [Fld.get, Fld.set_toNat hf, pow_add]
  have : w.toNat % 2 ^ f.lo + v % 2 ^ f.width * 2 ^ f.lo + w.toNat / (2 ^ f.lo * 2 ^ f.width) * (2 ^ f.lo * 2 ^ f.width) =
      w.toNat % 2 ^ f.lo + 2 ^ f.lo * (v % 2 ^ f.width + 2 ^ f.width * (w.toNat / (2 ^ f.lo * 2 ^ f.width))) := by ring
  rw [this, Nat.add_mul_div_left _ _ (by positivity), Nat.div_eq_of_lt hm, Nat.zero_add, Nat.add_mul_mod_self_left, Nat.mod_mod]

/-- A write of a field leaves every bit of the word outside it alone. -/
theorem Fld.testBit_set {f : Fld} (hf : f.ok) (w : Word) (v i : Nat) (h : i < f.lo ∨ f.hi < i) :
    (f.set w v).toNat.testBit i = w.toNat.testBit i := by
  have hs := Fld.split f w
  have hv : v % 2 ^ f.width < 2 ^ f.width := Nat.mod_lt _ (by positivity)
  have hg := Fld.get_lt f w
  have hm : w.toNat % 2 ^ f.lo < 2 ^ f.lo := Nat.mod_lt _ (by positivity)
  have key (x : Nat) (hx : x < 2 ^ f.width) :
      w.toNat % 2 ^ f.lo + x * 2 ^ f.lo + w.toNat / 2 ^ (f.lo + f.width) * 2 ^ (f.lo + f.width) =
        2 ^ (f.lo + f.width) * (w.toNat / 2 ^ (f.lo + f.width)) + (2 ^ f.lo * x + w.toNat % 2 ^ f.lo) := by ring
  have bound (x : Nat) (hx : x < 2 ^ f.width) : 2 ^ f.lo * x + w.toNat % 2 ^ f.lo < 2 ^ (f.lo + f.width) := by
    rw [pow_add]
    calc 2 ^ f.lo * x + w.toNat % 2 ^ f.lo < 2 ^ f.lo * x + 2 ^ f.lo := by omega
      _ = 2 ^ f.lo * (x + 1) := by ring
      _ ≤ 2 ^ f.lo * 2 ^ f.width := Nat.mul_le_mul_left _ hx
  have e₁ : (f.set w v).toNat.testBit i =
      (2 ^ (f.lo + f.width) * (w.toNat / 2 ^ (f.lo + f.width)) + (2 ^ f.lo * (v % 2 ^ f.width) + w.toNat % 2 ^ f.lo)).testBit i := by
    rw [Fld.set_toNat hf, key _ hv]
  have e₂ : w.toNat.testBit i =
      (2 ^ (f.lo + f.width) * (w.toNat / 2 ^ (f.lo + f.width)) + (2 ^ f.lo * f.get w + w.toNat % 2 ^ f.lo)).testBit i := by
    conv_lhs => rw [hs, key _ hg]
  rw [e₁, e₂, Nat.testBit_two_pow_mul_add _ (bound _ hv), Nat.testBit_two_pow_mul_add _ (bound _ hg)]
  split_ifs with hi
  · have hlo : i < f.lo := by
      rcases h with h | h
      · exact h
      · unfold Fld.width at hi; have := hf.1; omega
    rw [Nat.testBit_two_pow_mul_add _ hm, Nat.testBit_two_pow_mul_add _ hm]
    simp [hlo]
  · rfl

/-- A field's value by its bits. -/
theorem Fld.get_testBit (f : Fld) (w : Word) (i : Nat) : (f.get w).testBit i = (decide (i < f.width) && w.toNat.testBit (f.lo + i)) := by
  rw [Fld.get, Nat.testBit_mod_two_pow, Nat.testBit_div_two_pow, Nat.add_comm i]

/-- A write of one field leaves a field beside it alone. -/
theorem Fld.get_set_other {f g : Fld} (hf : f.ok) (hd : g.hi < f.lo ∨ f.hi < g.lo) (w : Word) (v : Nat) :
    g.get (f.set w v) = g.get w := by
  apply Nat.eq_of_testBit_eq
  intro i
  rw [Fld.get_testBit, Fld.get_testBit]
  by_cases hi : i < g.width
  · rw [Fld.testBit_set hf]
    unfold Fld.width at hi
    rcases hd with h | h
    · left; omega
    · right; omega
  · simp [hi]

namespace Dev

@[simp] theorem reg_setReg_same (d : Dev) (a : Nat) (w : Word) : (d.setReg a w).reg a = w := Tab.get_put_same _ _ _

theorem reg_setReg_other (d : Dev) {a b : Nat} (w : Word) (h : b ≠ a) : (d.setReg a w).reg b = d.reg b := Tab.get_put_other _ _ h

theorem reg_setFld_same (d : Dev) (a : Nat) (f : Fld) (v : Nat) : (d.setFld a f v).reg a = f.set (d.reg a) v := by
  simp [Dev.setFld]

theorem reg_setFld_other (d : Dev) {a b : Nat} (f : Fld) (v : Nat) (h : b ≠ a) : (d.setFld a f v).reg b = d.reg b :=
  reg_setReg_other d _ h

theorem reg_addFld_other (d : Dev) {a b : Nat} (f : Fld) (n : Nat) (h : b ≠ a) : (d.addFld a f n).reg b = d.reg b :=
  reg_setFld_other d f _ h

theorem reg_satFld_other (d : Dev) {a b : Nat} (f : Fld) (n : Nat) (h : b ≠ a) : (d.satFld a f n).reg b = d.reg b :=
  reg_setFld_other d f _ h

/-- A field reads what was set, cut to its width. -/
theorem fld_setFld_same (d : Dev) (a : Nat) {f : Fld} (hf : f.ok) (v : Nat) : (d.setFld a f v).fld a f = v % 2 ^ f.width := by
  rw [Dev.fld, reg_setFld_same, Fld.get_set hf]

/-- Setting one field leaves a field beside it alone. -/
theorem fld_setFld_field (d : Dev) (a : Nat) {f g : Fld} (hf : f.ok) (hd : g.hi < f.lo ∨ f.hi < g.lo) (v : Nat) :
    (d.setFld a f v).fld a g = d.fld a g := by
  rw [Dev.fld, reg_setFld_same, Fld.get_set_other hf hd, Dev.fld]

/-- Setting a field leaves every other register alone. -/
theorem fld_setFld_other (d : Dev) {a b : Nat} (f g : Fld) (v : Nat) (h : b ≠ a) : (d.setFld a f v).fld b g = d.fld b g := by
  rw [Dev.fld, reg_setFld_other d f v h, Dev.fld]

theorem fld_addFld_same (d : Dev) (a : Nat) {f : Fld} (hf : f.ok) (n : Nat) :
    (d.addFld a f n).fld a f = (d.fld a f + n) % 2 ^ f.width := fld_setFld_same d a hf _

@[simp] theorem fnReg_setFnReg_same (d : Dev) (fn a : Nat) (w : Word) : (d.setFnReg fn a w).fnReg fn a = w := by
  simp only [Dev.fnReg, Dev.setFnReg_fnRegs]
  exact Tab.get_put_same _ _ _

/-- A function's own register is left alone by writes of its others below 2^32, and of every other function's. -/
theorem fnReg_setFnReg_other (d : Dev) {fn a fn' a' : Nat} (w : Word) (h : fnKey fn' a' ≠ fnKey fn a) :
    (d.setFnReg fn a w).fnReg fn' a' = d.fnReg fn' a' := by
  simp only [Dev.fnReg, Dev.setFnReg_fnRegs]
  exact Tab.get_put_other _ _ h

@[simp] theorem ring_setRing_same (d : Dev) (c r : Nat) (x : Option Ring) : (d.setRing c r x).ring c r = x :=
  Tab.get_put_same _ _ _

theorem ring_setRing_other (d : Dev) {c r c' r' : Nat} (x : Option Ring) (h : 64 * c' + r' ≠ 64 * c + r) :
    (d.setRing c r x).ring c' r' = d.ring c' r' := Tab.get_put_other _ _ h

@[simp] theorem ring_onRing_same (d : Dev) (c r : Nat) (f : Ring → Ring) : (d.onRing c r f).ring c r = (d.ring c r).map f := by
  simp [Dev.onRing]

end Dev

end Sys2Proof.Machine
end

