-- ==== Sys2Proof/Laws/Ops.lean ====
section
/-! SUPPORT. What each shared operation can do, said once: what it changes, what it leaves, and what it shows. Proofs cite these lemmas and do
not unfold the operations. -/

namespace Sys2Proof.Machine

/-! ## Carrying a change to the state -/

@[simp] theorem State.lift_eq (f : Dev → Dev) (s : State) : s.lift f = .next { s with dev := f s.dev } := rfl

@[simp] theorem State.liftMem_eq (f : HbmDev → HbmDev) (s : State) :
    s.liftMem f = .next { s with mem := (f (s.mem, s.dev)).1, dev := (f (s.mem, s.dev)).2 } := rfl

/-- A descriptor that is due is taken, and what the command does with it is done. -/
theorem State.onDue_of_isDue {s : State} {c r op : Nat} {x : Desc} (f : Dev → Desc → Dev) (h : s.dev.IsDue c r op x) :
    s.onDue c r op f = .next { s with dev := f (s.dev.onHif fun v => { v with due := v.due.filter fun y => y ≠ x }) x } := by
  simp only [State.onDue, State.lift_eq, Dev.takeDue, h.1, h.2, if_true]

/-- Without one that is due, nothing changes. -/
theorem State.onDue_of_none {s : State} {c r op : Nat} (f : Dev → Desc → Dev) (h : s.dev.takeDue c r op = none) :
    s.onDue c r op f = .next s := by
  simp [State.onDue, h]

/-! ## What is shown -/

/-- What is shown stays shown. -/
theorem Dev.Shows.later {d t u : Dev} {o : Output} (h : d.Shows t o) (hu : ∃ new, u.out = new ++ t.out) : d.Shows u o := by
  obtain ⟨n, e, m⟩ := h
  obtain ⟨k, e'⟩ := hu
  exact ⟨k ++ n, by rw [e', e, List.append_assoc], List.mem_append_right _ m⟩

/-- What is shown after more has been shown is shown. -/
theorem Dev.Shows.earlier {d t u : Dev} {o : Output} (hd : ∃ new, t.out = new ++ d.out) (h : t.Shows u o) : d.Shows u o := by
  obtain ⟨n, e, m⟩ := h
  obtain ⟨k, e'⟩ := hd
  exact ⟨n ++ k, by rw [e, e', List.append_assoc], List.mem_append_left _ m⟩

theorem Dev.Shows.emit (d : Dev) (o : Output) : d.Shows (d.emit o) o := ⟨[o], rfl, List.mem_singleton.mpr rfl⟩

theorem Dev.emit_grows (d : Dev) (o : Output) : ∃ new, (d.emit o).out = new ++ d.out := ⟨[o], rfl⟩

/-! ## Interrupts, entries and completions: the host side alone -/

/-- A vector that fires changes the host side, and is shown unless it is masked. -/
theorem Dev.fireVector_eq (d : Dev) (c v : Nat) :
    d.fireVector c v = { d with hif := (d.fireVector c v).hif,
                                out := if d.msixMasked c v then d.out else .msix c v :: d.out } := by
  unfold Dev.fireVector
  split <;> rfl

theorem Dev.signal_eq (d : Dev) (c r : Nat) : d.signal c r = { d with hif := (d.signal c r).hif, out := (d.signal c r).out } := by
  unfold Dev.signal
  dsimp only
  split
  · rw [Dev.fireVector_eq]
    rfl
  · rfl

theorem Dev.signal_out (d : Dev) (c r : Nat) : ∃ new, (d.signal c r).out = new ++ d.out := by
  unfold Dev.signal
  dsimp only
  split
  · rw [Dev.fireVector_eq]
    split
    · exact ⟨[], rfl⟩
    · exact ⟨[_], rfl⟩
  · exact ⟨[], rfl⟩

/-- Signalling changes no ring pair. -/
theorem Dev.signal_rings (d : Dev) (c r : Nat) : (d.signal c r).hif.rings = d.hif.rings := by
  unfold Dev.signal
  dsimp only
  split
  · unfold Dev.fireVector
    split <;> rfl
  · rfl

/-- Writing an entry changes the host side and what is shown. -/
theorem Dev.writeEntryAt_eq (d : Dev) (at_ c r st op tag : Nat) (ws : List Nat) :
    d.writeEntryAt at_ c r st op tag ws =
      { d with hif := (d.writeEntryAt at_ c r st op tag ws).hif, out := (d.writeEntryAt at_ c r st op tag ws).out } := by
  unfold Dev.writeEntryAt
  split
  · rfl
  · dsimp only
    rw [Dev.signal_eq]
    rfl

theorem Dev.writeEntryAt_out (d : Dev) (at_ c r st op tag : Nat) (ws : List Nat) :
    ∃ new, (d.writeEntryAt at_ c r st op tag ws).out = new ++ d.out := by
  unfold Dev.writeEntryAt
  split
  · exact ⟨[], rfl⟩
  · dsimp only
    obtain ⟨n, e⟩ := Dev.signal_out (((d.emit _)).setRing c r (some _)) c r
    exact ⟨n ++ [_], by rw [e, List.append_assoc]; rfl⟩

/-- On an enabled ring pair the entry is written into the next slot, and the ring pair counts it. -/
theorem Dev.writeEntryAt_ring {d : Dev} {c r : Nat} {g : Ring} (h : d.ring c r = some g) (at_ st op tag : Nat) (ws : List Nat) :
    (d.writeEntryAt at_ c r st op tag ws).ring c r = some { g with cqSeq := g.cqSeq + 1, lost := false } := by
  unfold Dev.writeEntryAt
  rw [h]
  dsimp only
  rw [Dev.ring, Dev.signal_rings, ← Dev.ring, Dev.ring_setRing_same]

/-- On an enabled ring pair the entry is shown in its slot. -/
theorem Dev.writeEntryAt_shows {d : Dev} {c r : Nat} {g : Ring} (h : d.ring c r = some g) (at_ st op tag : Nat) (ws : List Nat) :
    ∃ w2 chk, d.Shows (d.writeEntryAt at_ c r st op tag ws) (.entry c r (g.cqSeq % d.cqSize c r)
      [pack [(st, 24), (op, 16), (tag, 0)], at_ % 2 ^ 32, w2, ws.getD 0 0, ws.getD 1 0, ws.getD 2 0, ws.getD 3 0, chk]) := by
  unfold Dev.writeEntryAt
  rw [h]
  exact ⟨_, _, (Dev.Shows.emit d _).later (Dev.signal_out _ _ _)⟩

theorem Dev.writeEntry_eq (d : Dev) (c r st op tag : Nat) (ws : List Nat) :
    d.writeEntry c r st op tag ws =
      { d with hif := (d.writeEntry c r st op tag ws).hif, out := (d.writeEntry c r st op tag ws).out } :=
  Dev.writeEntryAt_eq _ _ _ _ _ _ _ _

theorem Dev.writeHeld_eq (d : Dev) (c r : Nat) (h : Held) :
    d.writeHeld c r h = { d with hif := (d.writeHeld c r h).hif, out := (d.writeHeld c r h).out } := by
  unfold Dev.writeHeld
  dsimp only
  rw [Dev.writeEntryAt_eq]
  rfl

theorem Dev.writeHeld_out (d : Dev) (c r : Nat) (h : Held) : ∃ new, (d.writeHeld c r h).out = new ++ d.out := by
  obtain ⟨n, e⟩ := Dev.writeEntryAt_out ((d.onRing c r fun g => { g with reserved := g.reserved - bit h.slot }).countWrite c r) h.since c r
    h.status h.opcode h.tag h.words
  exact ⟨n, e⟩

/-- On an enabled ring pair the entry of a completion is shown, with the Stroke in which its item completed. -/
theorem Dev.writeHeld_shows {d : Dev} {c r : Nat} {g : Ring} (hg : d.ring c r = some g) (h : Held) :
    ∃ w2 chk, d.Shows (d.writeHeld c r h) (.entry c r (g.cqSeq % d.cqSize c r)
      [pack [(h.status, 24), (h.opcode, 16), (h.tag, 0)], h.since % 2 ^ 32, w2, h.words.getD 0 0, h.words.getD 1 0, h.words.getD 2 0,
        h.words.getD 3 0, chk]) := by
  have hr : ((d.onRing c r fun g => { g with reserved := g.reserved - bit h.slot }).countWrite c r).ring c r =
      some { g with reserved := g.reserved - bit h.slot } := by
    show (d.onRing c r fun g => { g with reserved := g.reserved - bit h.slot }).ring c r = _
    rw [Dev.ring_onRing_same, hg]; rfl
  obtain ⟨w, k, hs⟩ := Dev.writeEntryAt_shows hr h.since h.status h.opcode h.tag h.words
  exact ⟨w, k, hs⟩

theorem Dev.complete_eq (d : Dev) (c r : Nat) (h : Held) :
    d.complete c r h = { d with hif := (d.complete c r h).hif, out := (d.complete c r h).out } := by
  unfold Dev.complete
  split
  · rw [Dev.writeHeld_eq]
  · rfl

theorem Dev.complete_out (d : Dev) (c r : Nat) (h : Held) : ∃ new, (d.complete c r h).out = new ++ d.out := by
  unfold Dev.complete
  split
  · exact Dev.writeHeld_out _ _ _ _
  · exact ⟨[], rfl⟩

/-- A sum starts from what it is given. -/
theorem sumBy_cons {α : Type} (f : α → Nat) (x : α) (l : List α) : sumBy f (x :: l) = f x + sumBy f l := by
  have h (a : Nat) : ∀ l : List α, l.foldl (fun a x => a + f x) a = a + l.foldl (fun a x => a + f x) 0 := by
    intro l
    induction l generalizing a with
    | nil => rfl
    | cons y r ih => simp only [List.foldl_cons]; rw [ih (a + f y), ih (0 + f y)]; omega
  show l.foldl (fun a x => a + f x) (0 + f x) = _
  rw [h, Nat.zero_add]
  rfl

/-- A sum over a table does not see an entry set where both the old value and the new one count nothing. -/
theorem Tab.sumBy_set {α : Type} {d : Nat → α} (t : Tab α) {k : Nat} {v : α} (f : Nat × α → Nat) (hv : f (k, v) = 0)
    (ho : f (k, Tab.get d t k) = 0) : sumBy f (Tab.set t k v) = sumBy f t := by
  induction t with
  | nil => simp [Tab.set, sumBy_cons, hv]
  | cons p r ih =>
    obtain ⟨k', v'⟩ := p
    simp only [Tab.set]
    split_ifs with h₁ h₂
    · simp [sumBy_cons, hv]
    · subst h₂
      simp only [Tab.get, if_true] at ho
      simp [sumBy_cons, hv, ho]
    · simp only [Tab.get, if_neg (Ne.symm h₂)] at ho
      simp [sumBy_cons, ih ho]

/-- A change of a ring pair that has nothing to write, and has nothing to write after it, leaves every share of the capacity as it was. -/
theorem Dev.entryShare_onRing {d : Dev} {c r : Nat} {g : Ring} (hg : d.ring c r = some g) (f : Ring → Ring) (h₁ : g.held = [])
    (h₂ : (f g).held = []) (a b : Nat) : (d.onRing c r f).entryShare a b = d.entryShare a b := by
  have hk : Tab.get noRing d.hif.rings (64 * c + r) = some g := hg
  have hr : (d.onRing c r f).hif.rings = Tab.set d.hif.rings (64 * c + r) (some (f g)) := by
    show Tab.put noRing d.hif.rings (64 * c + r) ((d.ring c r).map f) = _
    rw [hg, Tab.put, if_neg (by simp [noRing])]; rfl
  have hw : (d.onRing c r f).waitingRings = d.waitingRings := by
    unfold Dev.waitingRings
    rw [hr, Tab.filterMap_set (d := noRing) _ _ (by simp [h₂]) (by simp [hk, h₁])]
    rfl
  have ho (o : Nat) : (d.onRing c r f).waitingOf o = d.waitingOf o := by
    unfold Dev.waitingOf
    rw [hr, Tab.sumBy_set (d := noRing) _ _ (by simp [h₂]) (by simp [hk, h₁])]
    rfl
  unfold Dev.entryShare
  simp only [hw, ho]
  rfl

theorem Dev.finish_eq (d : Dev) (x : Desc) (st : Nat) (ws : List Nat) :
    d.finish x st ws = { d with hif := (d.finish x st ws).hif, out := (d.finish x st ws).out } := by
  unfold Dev.finish
  dsimp only
  split
  · rfl
  · split
    · rfl
    · rw [Dev.complete_eq]
      rfl

theorem Dev.finish_out (d : Dev) (x : Desc) (st : Nat) (ws : List Nat) : ∃ new, (d.finish x st ws).out = new ++ d.out := by
  unfold Dev.finish
  dsimp only
  split
  · exact ⟨[], rfl⟩
  · split
    · exact ⟨[], rfl⟩
    · obtain ⟨n, e⟩ := Dev.complete_out (d.onRing x.crew x.ring fun g => { g with opened := g.opened.filter (· ≠ x.seq) }) x.crew x.ring
        ⟨st, x.opcode, x.tag, ws, d.now, x.seq, 0, true⟩
      exact ⟨n, e⟩

/-- A descriptor whose ring pair is still the one it was read under, with nothing waiting there and room in the capacity, and which asks for
it, has its completion entry written. -/
theorem Dev.finish_completes {d : Dev} {x : Desc} {g : Ring} (st : Nat) (ws : List Nat) (hg : d.ring x.crew x.ring = some g)
    (he : g.epoch = x.epoch) (hh : g.held = []) (hs : d.entryShare x.crew x.ring = true) (hq : x.quiet = false ∨ st ≠ 0) :
    d.Completes (d.finish x st ws) x st ws := by
  have hn : (x.quiet && decide (st = 0)) = false := by rcases hq with h | h <;> simp [h]
  have hr : (d.onRing x.crew x.ring fun g => { g with opened := g.opened.filter (· ≠ x.seq) }).ring x.crew x.ring =
      some { g with opened := g.opened.filter (· ≠ x.seq) } := by
    rw [Dev.ring_onRing_same, hg]; rfl
  obtain ⟨w, k, h⟩ := Dev.writeHeld_shows hr ⟨st, x.opcode, x.tag, ws, d.now, x.seq, 0, true⟩
  refine ⟨g.cqSeq % d.cqSize x.crew x.ring, w, k, ?_⟩
  have hf : d.finish x st ws = (d.onRing x.crew x.ring fun g => { g with opened := g.opened.filter (· ≠ x.seq) }).writeHeld x.crew x.ring
      ⟨st, x.opcode, x.tag, ws, d.now, x.seq, 0, true⟩ := by
    unfold Dev.finish
    rw [if_neg (by rw [hg]; simp [he])]
    dsimp only
    rw [hn, if_neg Bool.false_ne_true, Dev.complete]
    rw [if_pos (by rw [hr, Dev.entryShare_onRing hg _ hh hh, hs, Option.all_some, hh]; rfl)]
    rfl
  rw [hf]
  exact h

/-- A descriptor that is answered completes with any status. -/
theorem Dev.finish_of_answers {d : Dev} {x : Desc} (st : Nat) (ws : List Nat) (h : d.Answers x) :
    d.Completes (d.finish x st ws) x st ws := by
  obtain ⟨⟨g, hg, he, hh⟩, hq, hs⟩ := h
  exact Dev.finish_completes st ws hg he hh hs (.inl hq)

theorem Dev.endStanding_eq (d : Dev) (p : Standing) (st : Nat) (ws : List Nat) :
    d.endStanding p st ws = { d with hif := (d.endStanding p st ws).hif, out := (d.endStanding p st ws).out } := by
  unfold Dev.endStanding
  rw [Dev.finish_eq]
  rfl

theorem Dev.endStanding_out (d : Dev) (p : Standing) (st : Nat) (ws : List Nat) : ∃ new, (d.endStanding p st ws).out = new ++ d.out :=
  Dev.finish_out _ _ _ _

/-! ## Registers of the operations that also write registers -/

theorem Dev.setReg_eq (d : Dev) (a : Nat) (w : Word) : d.setReg a w = { d with regs := (d.setReg a w).regs } := rfl

theorem Dev.setFld_eq (d : Dev) (a : Nat) (f : Fld) (v : Nat) : d.setFld a f v = { d with regs := (d.setFld a f v).regs } := rfl

theorem Dev.addFld_eq (d : Dev) (a : Nat) (f : Fld) (n : Nat) : d.addFld a f n = { d with regs := (d.addFld a f n).regs } := rfl

theorem Dev.satFld_eq (d : Dev) (a : Nat) (f : Fld) (n : Nat) : d.satFld a f n = { d with regs := (d.satFld a f n).regs } := rfl

/-- An operation that leaves the registers' table alone leaves every register alone. -/
theorem Dev.reg_of_regs {d t : Dev} (h : t.regs = d.regs) (a : Nat) : t.reg a = d.reg a := by rw [Dev.reg, h, Dev.reg]

@[simp] theorem Dev.reg_finish (d : Dev) (x : Desc) (st : Nat) (ws : List Nat) (a : Nat) : (d.finish x st ws).reg a = d.reg a :=
  Dev.reg_of_regs (by rw [Dev.finish_eq]) a

@[simp] theorem Dev.reg_endStanding (d : Dev) (p : Standing) (st : Nat) (ws : List Nat) (a : Nat) :
    (d.endStanding p st ws).reg a = d.reg a := Dev.reg_of_regs (by rw [Dev.endStanding_eq]) a

@[simp] theorem Dev.reg_writeEntry (d : Dev) (c r st op tag : Nat) (ws : List Nat) (a : Nat) :
    (d.writeEntry c r st op tag ws).reg a = d.reg a := Dev.reg_of_regs (by rw [Dev.writeEntry_eq]) a

@[simp] theorem Dev.reg_signal (d : Dev) (c r a : Nat) : (d.signal c r).reg a = d.reg a := Dev.reg_of_regs (by rw [Dev.signal_eq]) a

@[simp] theorem Dev.reg_emit (d : Dev) (o : Output) (a : Nat) : (d.emit o).reg a = d.reg a := rfl

@[simp] theorem Dev.reg_onHif (d : Dev) (f : Hif → Hif) (a : Nat) : (d.onHif f).reg a = d.reg a := rfl

@[simp] theorem Dev.reg_onStanding (d : Dev) (p : Standing → Bool) (f : Standing → Standing) (a : Nat) :
    (d.onStanding p f).reg a = d.reg a := rfl

theorem Dev.hold_eq (d : Dev) (c r : Nat) (f : Ring → Ring) (a : Nat) (g : Fld) (v : Nat) (p : Standing → Bool)
    (h : Standing → Standing) : (((d.onRing c r f).setFld a g v).onStanding p h) =
      { d with hif := (((d.onRing c r f).setFld a g v).onStanding p h).hif, out := (((d.onRing c r f).setFld a g v).onStanding p h).out
               regs := (((d.onRing c r f).setFld a g v).onStanding p h).regs } := rfl

theorem Dev.drop_eq (d : Dev) (c r : Nat) (f : Ring → Ring) (a : Nat) (g : Fld) (n : Nat) :
    ((d.onRing c r f).addFld a g n) = { d with hif := ((d.onRing c r f).addFld a g n).hif, out := ((d.onRing c r f).addFld a g n).out
                                               regs := ((d.onRing c r f).addFld a g n).regs } := rfl

/-- A delivery changes the host side, what is shown, and the registers of its ring pair. -/
theorem Dev.deliver_eq (d : Dev) (p : Standing) (buf st : Nat) (ws : List Nat) :
    d.deliver p buf st ws = { d with hif := (d.deliver p buf st ws).hif, out := (d.deliver p buf st ws).out
                                     regs := (d.deliver p buf st ws).regs } := by
  unfold Dev.deliver
  dsimp only
  split
  · rfl
  · split
    · rfl
    · split
      · rw [Dev.complete_eq]; rfl
      · split
        · split
          · exact Dev.hold_eq _ _ _ _ _ _ _ _ _
          · rfl
        · exact Dev.drop_eq _ _ _ _ _ _ _

theorem Dev.reg_deliver (d : Dev) (p : Standing) (buf st : Nat) (ws : List Nat) {a : Nat}
    (h₁ : a ≠ Reg.hifRingStatus p.desc.crew p.desc.ring) (h₂ : a ≠ Reg.hifRingStat p.desc.crew p.desc.ring) :
    (d.deliver p buf st ws).reg a = d.reg a := by
  unfold Dev.deliver
  dsimp only
  split
  · rfl
  · split
    · rfl
    · split
      · exact Dev.reg_of_regs (by rw [Dev.complete_eq]; rfl) a
      · split
        · split
          · rw [Dev.reg_onStanding, Dev.reg_setFld_other _ _ _ h₁]; rfl
          · rfl
        · rw [Dev.reg_addFld_other _ _ _ h₂]; rfl

/-- A record of the log changes the log, the host side of its buffer, and the two registers that count it. -/
theorem Dev.record_eq (d : Dev) (c kind sub obj : Nat) (data : List Nat) :
    d.record c kind sub obj data = { d with regs := (d.record c kind sub obj data).regs, hif := (d.record c kind sub obj data).hif
                                            log := ⟨c, d.now, kind, sub, obj, data⟩ :: d.log } := by
  unfold Dev.record Dev.logRecord
  split
  · rfl
  · dsimp only
    split <;> rfl

theorem Dev.reg_record (d : Dev) (c kind sub obj : Nat) (data : List Nat) {a : Nat} (h₁ : a ≠ Reg.rplLogStatus c)
    (h₂ : a ≠ Reg.rplLogSeq c) : (d.record c kind sub obj data).reg a = d.reg a := by
  show (d.logRecord c _).reg a = d.reg a
  unfold Dev.logRecord
  split
  · rfl
  · dsimp only
    split
    · rw [Dev.logLoss, Dev.reg_onStanding, Dev.reg_addFld_other _ _ _ h₁]
    · rw [Dev.reg_onStanding, Dev.reg_setReg_other _ _ h₂]

theorem Dev.record_rings (d : Dev) (c kind sub obj : Nat) (data : List Nat) :
    (d.record c kind sub obj data).hif.rings = d.hif.rings := by
  show (d.logRecord c _).hif.rings = d.hif.rings
  unfold Dev.logRecord
  split
  · rfl
  · dsimp only
    split <;> rfl

/-- A block of content in a record log changes the host side of its buffer, and the register that counts a loss. -/
theorem Dev.logBlock_eq (d : Dev) (c : Nat) (ws : List Nat) :
    d.logBlock c ws = { d with regs := (d.logBlock c ws).regs, hif := (d.logBlock c ws).hif } := by
  unfold Dev.logBlock
  split
  · rfl
  · split <;> rfl

theorem Dev.reg_logBlock (d : Dev) (c : Nat) (ws : List Nat) {a : Nat} (h : a ≠ Reg.rplLogStatus c) : (d.logBlock c ws).reg a = d.reg a := by
  unfold Dev.logBlock
  split
  · rfl
  · split
    · rw [Dev.logLoss, Dev.reg_onStanding, Dev.reg_addFld_other _ _ _ h]
    · rw [Dev.reg_onStanding]

/-- A record of a live item that is not due yet waits, and changes nothing else. -/
theorem Dev.recordFrom_of_early (d : Dev) {due : Nat} (h : d.now < due) (c kind sub obj : Nat) (data : List Nat) :
    d.recordFrom due c kind sub obj data =
      { d with rpl := { d.rpl with later := d.rpl.later ++ [(due, ⟨c, due, kind, sub, obj, data⟩)] } } :=
  if_neg (Nat.not_le.mpr h)

/-- The record of a token of a Crew that asks for no content is one record. -/
theorem Dev.recordToken_plain (d : Dev) (c slot obj : Nat) (data : List Nat)
    (h : (d.record c 0x02 slot obj data).flag (Reg.secCrewPolicy c) F.secCrewPolicy_replayContent = false) :
    d.recordToken c slot obj data = d.record c 0x02 slot obj data := by
  unfold Dev.recordToken
  simp only [h, Bool.not_false, if_true]

/-- Writing an event changes the host side, what is shown, and the status register of its Crew's event ring. -/
theorem Dev.writeEvent_eq (d : Dev) (c code obj : Nat) (ws : List Nat) (at_ : Nat) :
    d.writeEvent c code obj ws at_ = { d with regs := (d.writeEvent c code obj ws at_).regs, hif := (d.writeEvent c code obj ws at_).hif
                                              out := (d.writeEvent c code obj ws at_).out } := by
  unfold Dev.writeEvent
  dsimp only
  split
  · rfl
  · split
    · rfl
    · rw [Dev.signal_eq]
      rfl

theorem Dev.writeEvent_out (d : Dev) (c code obj : Nat) (ws : List Nat) (at_ : Nat) :
    ∃ new, (d.writeEvent c code obj ws at_).out = new ++ d.out := by
  unfold Dev.writeEvent
  dsimp only
  split
  · exact ⟨[], rfl⟩
  · split
    · exact ⟨[], rfl⟩
    · obtain ⟨n, h⟩ := Dev.signal_out (((((d.emit (.event c (d.fld (Reg.hifEvqStatus c) F.hifEvqStatus_tail) _)).setFld
        (Reg.hifEvqStatus c) F.hifEvqStatus_tail _)).onHif _).countWrite c 64) c 64
      exact ⟨n ++ [_], by rw [h, List.append_assoc]; rfl⟩

theorem Dev.reg_writeEvent (d : Dev) (c code obj : Nat) (ws : List Nat) (at_ : Nat) {a : Nat} (h : a ≠ Reg.hifEvqStatus c) :
    (d.writeEvent c code obj ws at_).reg a = d.reg a := by
  unfold Dev.writeEvent
  dsimp only
  split
  · rw [Dev.satFld, Dev.reg_setFld_other _ _ _ h]
  · split
    · rw [Dev.reg_onHif, Dev.satFld, Dev.reg_setFld_other _ _ _ h]
    · rw [Dev.reg_signal, Dev.countWrite, Dev.reg_onHif, Dev.reg_onHif, Dev.reg_setFld_other _ _ _ h, Dev.reg_emit]

theorem Dev.writeEvent_rings (d : Dev) (c code obj : Nat) (ws : List Nat) (at_ : Nat) :
    (d.writeEvent c code obj ws at_).hif.rings = d.hif.rings := by
  unfold Dev.writeEvent
  dsimp only
  split
  · rfl
  · split
    · rfl
    · rw [Dev.signal_rings]; rfl

/-- An event changes the host side, what is shown, and the status register of its Crew's event ring. -/
theorem Dev.postEvent_eq (d : Dev) (c : Nat) (e : EventCode) (obj : Nat) (ws : List Nat) :
    d.postEvent c e obj ws = { d with regs := (d.postEvent c e obj ws).regs, hif := (d.postEvent c e obj ws).hif
                                      out := (d.postEvent c e obj ws).out } := by
  unfold Dev.postEvent
  split
  · rfl
  · exact Dev.writeEvent_eq _ _ _ _ _ _

theorem Dev.postEvent_out (d : Dev) (c : Nat) (e : EventCode) (obj : Nat) (ws : List Nat) :
    ∃ new, (d.postEvent c e obj ws).out = new ++ d.out := by
  unfold Dev.postEvent
  split
  · exact ⟨[], rfl⟩
  · exact Dev.writeEvent_out _ _ _ _ _ _

theorem Dev.reg_postEvent (d : Dev) (c : Nat) (e : EventCode) (obj : Nat) (ws : List Nat) {a : Nat} (h : a ≠ Reg.hifEvqStatus c) :
    (d.postEvent c e obj ws).reg a = d.reg a := by
  unfold Dev.postEvent
  split
  · rfl
  · exact Dev.reg_writeEvent _ _ _ _ _ _ h

/-- An event changes no ring pair. -/
theorem Dev.postEvent_rings (d : Dev) (c : Nat) (e : EventCode) (obj : Nat) (ws : List Nat) :
    (d.postEvent c e obj ws).hif.rings = d.hif.rings := by
  unfold Dev.postEvent
  split
  · rfl
  · exact Dev.writeEvent_rings _ _ _ _ _ _

/-! ## The store and the audit backlog -/

theorem Dev.nvmPut_eq (d : Dev) (r : NvmRec) : d.nvmPut r = { d with regs := (d.nvmPut r).regs, nvm := (d.nvmPut r).nvm } := by
  unfold Dev.nvmPut
  split <;> rfl

theorem Dev.nvmPut_after {d e : Dev} (h : e = { d with regs := e.regs }) (r : NvmRec) :
    e.nvmPut r = { d with regs := (e.nvmPut r).regs, nvm := (e.nvmPut r).nvm } := by
  generalize ht : e.nvmPut r = t
  have h₂ := Dev.nvmPut_eq e r
  rw [ht] at h₂
  rw [h₂, h]

theorem Dev.nvmLog_eq (d : Dev) (k : LogKind) (v : Nat) (p : List Nat) :
    d.nvmLog k v p = { d with regs := (d.nvmLog k v p).regs, nvm := (d.nvmLog k v p).nvm } := by
  unfold Dev.nvmLog
  dsimp only
  split
  · exact Dev.nvmPut_after (Dev.setFld_eq _ _ _ _) _
  · split
    · rfl
    · exact Dev.addFld_eq _ _ _ _

theorem Dev.reg_nvmPut (d : Dev) (r : NvmRec) {a : Nat} (h₁ : a ≠ Reg.nvmLost) (h₂ : a ≠ Reg.nvmStatus) :
    (d.nvmPut r).reg a = d.reg a := by
  unfold Dev.nvmPut
  split
  · rw [Dev.reg_addFld_other _ _ _ h₁]
  · rw [Dev.reg_setFld_other _ _ _ h₂]; rfl

theorem Dev.reg_nvmLog (d : Dev) (k : LogKind) (v : Nat) (p : List Nat) {a : Nat} (h₁ : a ≠ Reg.nvmLost) (h₂ : a ≠ Reg.nvmStatus)
    (h₃ : a ≠ Reg.nvmLog) : (d.nvmLog k v p).reg a = d.reg a := by
  unfold Dev.nvmLog
  dsimp only
  split
  · rw [Dev.reg_nvmPut _ _ h₁ h₂, Dev.reg_setFld_other _ _ _ h₃]
  · split
    · rfl
    · rw [Dev.reg_addFld_other _ _ _ h₃]

theorem Dev.audit_eq (d : Dev) (k : AuditKind) (data : List Nat) :
    d.audit k data = { d with regs := (d.audit k data).regs, sec := (d.audit k data).sec } := by
  unfold Dev.audit
  split <;> rfl

theorem Dev.reg_audit (d : Dev) (k : AuditKind) (data : List Nat) {a : Nat} (h : a ≠ Reg.secAuditStatus) :
    (d.audit k data).reg a = d.reg a := by
  unfold Dev.audit
  split
  · show (d.addFld Reg.secAuditStatus F.secAuditStatus_lost 1).reg a = d.reg a
    rw [Dev.reg_addFld_other _ _ _ h]
  · rw [Dev.reg_setFld_other _ _ _ h]; rfl

/-! ## The counters of a MAC instance -/

theorem Dev.setReg_setReg_eq (d : Dev) (a b : Nat) (v w : Word) :
    (d.setReg a v).setReg b w = { d with regs := ((d.setReg a v).setReg b w).regs } := rfl

theorem Dev.macCount_eq (d : Dev) (m i n : Nat) : d.macCount m i n = { d with regs := (d.macCount m i n).regs } :=
  Dev.setReg_setReg_eq _ _ _ _ _

theorem Dev.reg_macCount_other (d : Dev) (m i n : Nat) {a : Nat} (h₁ : a ≠ Reg.portMacCntLo m i) (h₂ : a ≠ Reg.portMacCntHi m i) :
    (d.macCount m i n).reg a = d.reg a := by
  unfold Dev.macCount
  dsimp only
  rw [Dev.reg_setReg_other _ _ h₂, Dev.reg_setReg_other _ _ h₁]

/-- A 64-bit counter counts, and wraps. -/
theorem Dev.macCount_value (d : Dev) (m i n : Nat) :
    ((d.macCount m i n).reg (Reg.portMacCntLo m i)).toNat + ((d.macCount m i n).reg (Reg.portMacCntHi m i)).toNat * 2 ^ 32 =
      ((d.reg (Reg.portMacCntLo m i)).toNat + (d.reg (Reg.portMacCntHi m i)).toNat * 2 ^ 32 + n) % 2 ^ 64 := by
  unfold Dev.macCount
  dsimp only
  rw [Dev.reg_setReg_same, Dev.reg_setReg_other _ _ (by simp [Reg.portMacCntLo, Reg.portMacCntHi]), Dev.reg_setReg_same]
  simp only [BitVec.toNat_ofNat]
  omega

end Sys2Proof.Machine
end

