-- ==== Sys2Proof/Laws/Memory.lean ====
section
/-! SUPPORT. The bytes of the HBM: a read after a write, and that every operation over memory keeps the canonical form. -/

namespace Sys2Proof.Machine

/-! ## Bytes -/

theorem Memory.wf_nil : Memory.wf [] = true := rfl

theorem Memory.wf_foldl {α : Type} (f : Memory → α → Memory) (hf : ∀ m a, Memory.wf m = true → Memory.wf (f m a) = true) (l : List α)
    (m : Memory) (h : Memory.wf m = true) : Memory.wf (l.foldl f m) = true := by
  induction l generalizing m with
  | nil => exact h
  | cons a r ih => exact ih _ (hf m a h)

theorem Memory.wf_writeBytes {m : Memory} (h : Memory.wf m = true) (pc off : Nat) (l : List Nat) :
    Memory.wf (writeBytes m pc off l) = true := Memory.wf_foldl _ (fun _ _ h => Tab.wf_put _ _ h) _ _ h

theorem Memory.wf_zeroBytes {m : Memory} (h : Memory.wf m = true) (pc off n : Nat) : Memory.wf (zeroBytes m pc off n) = true :=
  Tab.wf_filter _ h

/-- A byte outside a write reads as before. -/
theorem Tab.get_writeBytes_other (m : Memory) (pc off : Nat) (l : List Nat) (a : Nat) (h : ∀ i < l.length, a ≠ hbmAddr pc (off + i)) :
    Tab.get zeroByte (writeBytes m pc off l) a = Tab.get zeroByte m a := by
  unfold writeBytes
  have key : ∀ (k : List (Nat × Nat)) (m : Memory), (∀ p ∈ k, a ≠ hbmAddr pc (off + p.2)) →
      Tab.get zeroByte (k.foldl (fun m p => Tab.put zeroByte m (hbmAddr pc (off + p.2)) (BitVec.ofNat 8 p.1)) m) a =
        Tab.get zeroByte m a := by
    intro k
    induction k with
    | nil => intro m _; rfl
    | cons p r ih =>
      intro m hp
      rw [List.foldl_cons, ih _ fun q hq => hp q (List.mem_cons_of_mem _ hq), Tab.get_put_other _ _ (hp p List.mem_cons_self)]
  apply key
  intro p hp
  have := List.mem_zipIdx hp
  exact h p.2 (by omega)

/-! ## The operations -/

/-- The memory part of an operation on memory and device. -/
theorem wf_hbm_foldl {α : Type} (f : HbmDev → α → HbmDev) (hf : ∀ x a, Memory.wf x.1 = true → Memory.wf (f x a).1 = true) (l : List α)
    (x : HbmDev) (h : Memory.wf x.1 = true) : Memory.wf (l.foldl f x).1 = true := by
  induction l generalizing x with
  | nil => exact h
  | cons a r ih => exact ih _ (hf x a h)

/-- The same from memory and device apart. -/
theorem wf_hbm_foldl_pair {α : Type} (f : HbmDev → α → HbmDev) (hf : ∀ x a, Memory.wf x.1 = true → Memory.wf (f x a).1 = true)
    (l : List α) (m : Memory) (d : Dev) (h : Memory.wf m = true) : Memory.wf (l.foldl f (m, d)).1 = true :=
  wf_hbm_foldl f hf l (m, d) h

theorem wf_flipGranule {x : HbmDev} (h : Memory.wf x.1 = true) (pc off flips : Nat) : Memory.wf (flipGranule x pc off flips).1 = true := by
  unfold flipGranule
  split
  · exact h
  · exact Memory.wf_writeBytes h _ _ _

theorem wf_drainWrite {x : HbmDev} (h : Memory.wf x.1 = true) (pc : Nat) (w : Nat × List Nat) :
    Memory.wf (drainWrite x pc w).1 = true := by
  unfold drainWrite
  refine wf_hbm_foldl _ (fun x g h => ?_) _ _ h
  dsimp only
  have hm (l : List (Nat × Nat)) (m : Memory) (hm : Memory.wf m = true) :
      Memory.wf (l.foldl (fun m p => writeBytes m pc (w.1 + p.2) [p.1]) m) = true :=
    Memory.wf_foldl _ (fun _ _ h => Memory.wf_writeBytes h _ _ _) _ _ hm
  split
  · exact h
  · split
    · exact Memory.wf_writeBytes h _ _ _
    · split
      · exact hm _ _ (Memory.wf_writeBytes h _ _ _)
      · exact hm _ _ (Memory.wf_writeBytes h _ _ _)
      · split <;> exact hm _ _ (Memory.wf_writeBytes h _ _ _)

theorem wf_drainWrite_pair {m : Memory} (h : Memory.wf m = true) (d : Dev) (pc : Nat) (w : Nat × List Nat) :
    Memory.wf (drainWrite (m, d) pc w).1 = true := by
  have := @wf_drainWrite (m, d)
  exact this h pc w

theorem wf_drainTo (n pc f : Nat) {x : HbmDev} (h : Memory.wf x.1 = true) : Memory.wf (drainTo n pc f x).1 = true := by
  induction f generalizing x with
  | zero => exact h
  | succ f ih =>
    unfold drainTo
    split
    · exact h
    · split
      · exact h
      · apply ih
        apply wf_drainWrite_pair h

theorem wf_drainSector {x : HbmDev} (h : Memory.wf x.1 = true) (pc sector : Nat) : Memory.wf (drainSector x pc sector).1 = true := by
  unfold drainSector
  apply wf_hbm_foldl_pair _ (fun _ _ h => wf_drainWrite h _ _)
  exact h

theorem wf_readSector {x : HbmDev} (h : Memory.wf x.1 = true) (pc sector crew : Nat) :
    Memory.wf (readSector x pc sector crew).1 = true := by
  have hc {x : HbmDev} (h : Memory.wf x.1 = true) (off : Nat) : Memory.wf (readSector.readCells pc sector crew x off).1 = true := by
    unfold readSector.readCells
    dsimp only
    split
    · exact h
    · split <;> exact h
  unfold readSector
  dsimp only
  split
  · split
    · exact h
    · exact hc (wf_drainSector h _ _) _
  · exact hc h _

theorem wf_queueWrite {x : HbmDev} (h : Memory.wf x.1 = true) (pc : Nat) (w : Nat × List Nat) :
    Memory.wf (queueWrite x pc w).1 = true := wf_drainTo 63 pc 64 h

theorem wf_serve {x : HbmDev} (h : Memory.wf x.1 = true) (pc : Nat) (r : MemReq) : Memory.wf (serve x pc r).1 = true := by
  unfold serve
  split
  · exact h
  · have hf := wf_flipGranule (wf_flipGranule h pc (r.addr / 32 * 32) (r.flips % 2 ^ 144)) pc (r.addr / 32 * 32 + 16)
      (r.flips / 2 ^ 144 % 2 ^ 144)
    dsimp only
    split
    · exact wf_hbm_foldl _ (fun _ _ h => wf_queueWrite h _ _) _ _ hf
    · generalize flipGranule (flipGranule x pc (r.addr / 32 * 32) (r.flips % 2 ^ 144)) pc (r.addr / 32 * 32 + 16)
        (r.flips / 2 ^ 144 % 2 ^ 144) = y at hf ⊢
      apply @wf_readSector (y.1, _)
      exact hf

theorem wf_accept {x : HbmDev} (h : Memory.wf x.1 = true) (pc : Nat) (r : MemReq) : Memory.wf (accept x pc r).1 = true := by
  unfold accept
  split
  · exact wf_serve h _ _
  · exact h
  · exact h

theorem wf_thawPc {x : HbmDev} (h : Memory.wf x.1 = true) (pc : Nat) : Memory.wf (thawPc x pc).1 = true := by
  unfold thawPc
  split
  · exact h
  · apply wf_hbm_foldl_pair _ (fun _ _ h => wf_accept h _ _)
    exact h

theorem wf_thawPc_pair {m : Memory} (h : Memory.wf m = true) (d : Dev) (pc : Nat) : Memory.wf (thawPc (m, d) pc).1 = true := by
  have := @wf_thawPc (m, d)
  exact this h pc

theorem wf_thawWrite {x : HbmDev} (h : Memory.wf x.1 = true) (fn value : Nat) : Memory.wf (thawWrite x fn value).1 = true := by
  unfold thawWrite
  dsimp only
  split
  · split
    · apply wf_thawPc_pair h
    · exact h
  · exact h

theorem wf_scrubGranule {x : HbmDev} (h : Memory.wf x.1 = true) (pc off : Nat) : Memory.wf (scrubGranule x pc off).1 = true := by
  unfold scrubGranule
  dsimp only
  split
  · exact h
  · exact Memory.wf_writeBytes h _ _ _
  · exact h

theorem wf_enterMem {x : HbmDev} (h : Memory.wf x.1 = true) (mask : Nat) : Memory.wf (enterMem mask x).1 = true := by
  unfold enterMem
  dsimp only
  split
  · rfl
  · exact h

theorem wf_zeroFill {x : HbmDev} (h : Memory.wf x.1 = true) (old : Dev) : Memory.wf (zeroFill old x).1 = true := by
  unfold zeroFill
  exact Tab.wf_filter _ h

end Sys2Proof.Machine
end

