-- ==== Sys2Proof/Laws/Planes.lean ====
section
/-! SUPPORT. What storing a sample keeps: the sample (R223). -/

namespace Sys2Proof.Machine

/-- A sample stored at ten bits is read back as it was coded: the shift left is undone exactly (R223). -/
@[simp] theorem EncCfg.unstored_stored (g : EncCfg) (v : Nat) : g.unstored (g.stored v) = v := by
  simp only [EncCfg.unstored, EncCfg.stored]
  exact Nat.mul_div_cancel v (Nat.two_pow_pos _)

/-- Reducing a sample of a width to a width leaves it within the latter (R126). -/
theorem reduced_lt (src depth v : Nat) : reduced src depth v < 2 ^ depth := by
  have := Nat.two_pow_pos depth
  simp only [reduced]; omega

/-- The nearest sample of a row of `n` samples is one of them (R166, R179). -/
theorem nearest_lt (n : Nat) (i : Int) (h : 0 < n) : nearest n i < n := by
  simp only [nearest, clampTo]; omega

end Sys2Proof.Machine
end

