-- ==== Sys2Proof/Tests/Slice0.lean ====
section
/-! SUPPORT. Tests: a smoke test with an ill-formed term for each check of WellFormed, small tests of single steps on values that the
spec writes out, and for each statement with hypotheses a witness that something meets them. -/

namespace Sys2Proof.Tests

open Sys2Proof.Machine

set_option Elab.async false

/-! ## States to test on -/

/-- The device out of reset, with some registers set. -/
def live (l : List (Nat × Word)) : Dev := ((Reg.rstStatus, 0#32) :: l).foldl (fun d (p : Nat × Word) => d.setReg p.1 p.2) Dev.reset

/-- A state with no command waiting and empty HBM. -/
def st (d : Dev) : State := ⟨[], [], d⟩

/-- An active ring pair that holds one reserved slot. -/
def ring0 : Ring := ⟨1, 1, 0, 0, 1, 0, [0], false, [], none, 1, false⟩

/-- A descriptor of CREW_0's ring pair 0, with its opcode, object and words from 3 on; bits 23–21 of its word 0 as given. -/
def desc' (flags op obj : Nat) (ws : List Nat) : Desc :=
  ⟨0, 0, 0, [op * 2 ^ 24 + flags * 2 ^ 21 + 0x77, 1, obj] ++ ws ++ List.replicate (13 - ws.length) 0, 0, false, 1, 0, 0, 0⟩

/-- A descriptor with no flags. -/
def desc (op obj : Nat) (ws : List Nat) : Desc := desc' 0 op obj ws

/-- A descriptor that is due on ring pair 0 of CREW_0. -/
def dueOn (d : Dev) (x : Desc) : Dev := { d with hif := { d.hif with rings := [(0, some ring0)], due := [x] } }

/-- Settings of an HEVC channel of one Piece: 1920 × 1080 at 60 frames a second from a host picture source, Crew 0. -/
def encCfg0 : EncCfg :=
  { crew := 0, live := true, cls := 0, vvc := false, profile := 1, tier := 0, level := 123, ctu := 64, headN := 17, width := 1920,
    height := 1080, num := 60, den := 1, hostCopy := false, srcType := 0, srcFmt := 0, srcIndex := 0, chroma := 1, division := 0,
    pieces := 1, firstSeat := 0, asked := (1, 0, 0), tapUs := 0, subpic := false, irapPeriod := 0, rolling := false, rollFrames := 0,
    toolOff := 0, sei := 0, meMode := 0, refs := 0, haloShare := false, hierH := 0, hierV := 0, winH := 0, winV := 0, winS := 0, vbr := false,
    scenecut := false, cutIrap := false, qpMin := 0, qpMax := 51, rate := 2000, target := 0, refCount := 1, flows := [256], pktFlow := 0,
    pkt := 0, segCtus := 0 }

/-- A channel that has coded 5 frames. -/
def enc0 : EncDyn := { cfgs := [(0, encCfg0)], first := 0, coded := 5 }

/-- Settings of a decode channel of the same format. -/
def decCfg0 : DecCfg :=
  { crew := 0, vvc := false, profile := 1, level := 123, dpbMax := 6, reorder := 0, chroma := 1, gdrStart := false, gdrClears := false,
    width := 1920, height := 1080, num := 60, den := 1, flowIn := 0, maxRate := 2000, arriveUs := 1000, win := 2, pres := 0,
    consumers := 0, dseat := 0, flow := 512, raw := [] }

/-- A decode channel in operation. -/
def dec0 : DecDyn := { cfg := decCfg0, first := 0 }

/-- A programme of the same format with no layer. -/
def progCfg0 : ProgCfg :=
  { crew := 0, gang := 0, width := 1920, height := 1080, num := 60, den := 1, form := 0, depth := 8, lag := 0, arrive := 0,
    egress := false, queue := 0, zone := 0, zoneMax := 0, audGroup := 0, audTrim := 0, layers := [], taps := [], flows := [1024] }

/-- A programme in operation. -/
def prog0 : ProgDyn := { cfg := progCfg0, first := 0, layers := [], frames := 7 }

/-- An audio group at 48 kHz. -/
def grp0 : AudGrpDyn :=
  { cfg := { crew := 0, rate := 48000, together := false, block := 48, arriveUs := 1000, delay := 0, fromProg := false, members := [],
             flow := 1100 }, upto := 60, read := 3 }

/-- A standing descriptor with nothing delivered. -/
def standing0 (x : Desc) : Standing := ⟨x, 0, 0, 0, false, [], none, [], [], []⟩

/-- The device with encode channel 0, decode channel 0, programme 0 and audio group 0 in operation. -/
def busyDev (l : List (Nat × Word)) : Dev :=
  let d := live l
  { d with enc := [(0, some enc0)], dec := [(0, some dec0)], cmp := { d.cmp with progs := [(0, some prog0)] },
           aud := { d.aud with groups := [(0, some grp0)] } }

/-- RST_STATUS with no domain in reset and the firmware running. -/
def fwOn : Nat × Word := (Reg.rstStatus, F.rstStatus_fw.set 0 1)

/-- SEC_STATUS of a DEPLOYED device whose security block is ready. -/
def secOn : Nat × Word := (Reg.secStatus, F.secStatus_lifecycle.set (F.secStatus_state.set 0 1) 1)

/-- The bytes of an order of kind RETIRE with sequence number 9, for the device whose UID reads 0, to take effect at once. -/
def retireOrder : List Nat :=
  [1, 0, 6, 0, 64, 0, 0, 0, 9, 0, 0, 0, 0, 0, 0, 0] ++ List.replicate 240 0

/-- A commit of PF0 that waits. -/
def commit0 (admitting : Bool) : Commit := ⟨0, 0, [], admitting, 0, [.classifier], none, {}, 1, none⟩

/-- A device with a commit in its queue and the first bank in a state. -/
def commitDev (admitting : Bool) (bank : Nat) : Dev :=
  let d := live [fwOn]
  { d with stk := { d.stk with queue := [commit0 admitting], seqs := [(0, 1)], banks := [⟨bank, [], [], false⟩] } }

/-! ## Ill-formed commands, refused by each check of WellFormed -/

theorem test_illFormedFunctionsAndCrews :
    ∀ c ∈ [Instr.stkCommitWrite 17 0, .budgetCfgWrite 17 0, .stkNowLoRead 17, .registerWrite 17 0 4 0, .bar2DoorbellWrite 17 0 4 0,
      .rehashWrite 17 0, .laneSnapSave 17 0, .timeAdjGo 17 0, .timeIncWrite 17 0 0, .memThawGo 17 0, .memTrainSave 17 0, .enrolGo 17 0,
      .secZeroiseGo 17 0, .obEditGo 17 0, .rplCtlWrite 17 0, .rplStepWrite 17 0, .configurationReady 17, .evqHeadWrite 17 0,
      .doorbellReadComplete 17 [], .cntLatch 17, .rplBufferDelivery 17, .crewRelease 0, .crewRelease 17, .vfFlr 0, .vfD3hot 17,
      .vfEnableClear 17, .evqEnable 0 17 0, .evqDisable 17 0 0, .nop 17 0, .hostReadFailure (.doorbell 17)], c.wf = false := by
  decide +kernel

theorem test_illFormedRings :
    ∀ c ∈ [Instr.nop 0 64, .forceIrap 0 64, .setHdr 0 64, .query 0 64, .bsPost 0 64, .bsStop 0 64, .decQuery 0 64, .decResync 0 64,
      .layerPost 0 64, .layerMove 0 64, .fenceSignal 0 64, .fenceQuery 0 64, .lutPoke 0 64, .setMatrix 0 64, .picPost 0 64,
      .progQuery 0 64, .statsPost 0 64, .statsStop 0 64, .audRxPost 0 64, .audTxPost 0 64, .audPortPost 0 64, .audStop 0 64,
      .audQuery 0 64, .keyDestroy 0 64, .keyQuery 0 64, .macsecSa 0 64, .eapolPost 0 64, .auditRead 0 64, .crewSuspend 0 64,
      .timeQuery 0 64, .cntPost 0 64, .cntStop 0 64, .rplPost 0 64, .rplStop 0 64, .rplMark 0 64, .fwLoad 0 64, .logRead 0 64,
      .lutLoad 0 64 [], .setMask 0 64 [], .rplFeed 0 64 [], .keyImport 0 64 [], .eapolSend 0 64 [], .changeOrder 0 64 [],
      .descriptorFetch 0 64, .descriptorReadComplete 0 64 (List.replicate 16 0), .orderedDescriptorStart 0 64,
      .heldCompletionWrite 0 64, .holdTimeout 0 64, .ringEnable 0 0 64 0, .ringDisable 0 0 64 0, .ringDrained 0 64,
      .hostReadFailure (.descriptor 0 64)], c.wf = false := by decide +kernel

theorem test_illFormedWordsAndSizes :
    ∀ c ∈ [Instr.stkCommitWrite 0 (2 ^ 32), .budgetCfgWrite 0 (2 ^ 32), .registerWrite 0 0 3 0, .registerWrite 0 0 1 256,
      .registerWrite 0 (2 ^ 26) 4 0, .registerWrite 1 (2 ^ 20) 4 0, .bar2DoorbellWrite 0 0 3 0, .bar2DoorbellWrite 1 65536 4 0,
      .doorbellReadComplete 0 (List.replicate 65 0), .doorbellReadComplete 0 [2 ^ 32], .descriptorReadComplete 0 0 [],
      .evqEnable 0 0 (2 ^ 32), .evqDisable 0 0 (2 ^ 32), .ringEnable 0 0 0 (2 ^ 32), .ringDisable 0 0 0 (2 ^ 32), .lutLoad 0 0 [2 ^ 32],
      .keyImport 0 0 [256], .audTxBlockRead 0 [2 ^ 32], .asrcRatioUpdate 0 (2 ^ 32), .checkerLockLoss 0 (2 ^ 32), .rplFeed 0 0 [2 ^ 32],
      .changeOrder 0 0 [256], .eapolSend 0 0 [256], .setMask 0 0 [2 ^ 32], .hbmRequest 0 0 0 (some [256]) 0,
      .chkDataWrite 0 0 2 65536, .chkDataWrite 0 0 8 0, .chkCfgWrite 0 0 2 0, .chkFoldWrite 0 32 0, .chkResultRead 0 0 0x40,
      .pmuCntCfgWrite 0 143 0 0, .pmuBankClear 0 143 0, .pmuPresetLoad 0 143 0, .pmuCntLoRead 0 0 8, .blockResetAssert 0 4 0,
      .blockResetRelease 0 0 (2 ^ 32), .laneRestartCold 0 64 0, .laneTestWrite 0 0 (2 ^ 32), .injGo 0 64 0,
      .macCounterLoRead 0 0 11], c.wf = false := by decide +kernel

theorem test_illFormedItemsAndTimes :
    ∀ c ∈ [Instr.operandToken 4096 0 0 0 0, .operandToken 0 65536 0 0 0, .operandToken 0 0 4 0 0, .operandToken 0 0 0 0 125000,
      .itemDispatch 125000, .itemComplete 0 0 ⟨0, [1], [], [], 0, false, 0, [], [], 0, 0, 0⟩ none 0, .itemComplete 0 0 ⟨0, [], [], [], 256, false, 0, [], [], 0, 0, 0⟩ none 0,
      .itemComplete 0 0 { noResult with luma := [[1024]] } none 0, .itemComplete 0 0 { noResult with blocks := [⟨false, false, 2, 0, 0, 0⟩] } none 0,
      .throttlePauseEnd 40 0, .substituteAction 4096 0, .deadlineFinish 0 65536, .beTimeout 4096 0, .partialAuToken 64 0,
      .frameBoundary 0x240 0, .frameBoundary 0xFF 0, .flipDeadline 16 0, .layerCopyStart 0 16, .layerCopyComplete 16 0,
      .bsDelivery 256, .statsDelivery 256, .audRxBlock 64, .audioRampEnd 64, .strokeBoundary [.band ⟨256, 0, 0, 0, [[], [], []]⟩], .strokeBoundary [.band ⟨0, 0, 0, 0, []⟩], .strokeBoundary [.strip 16 0 0 0 [[], [], []]], .strokeBoundary [.buffer 0 0 [[], [], []]],
      .strokeBoundary [.band ⟨0, 0, 0, 0, [[[4096]], [], []]⟩],
      .hostReadFailure (.buffer 4096 0), .hostReadFailure (.layer 16 0), .hostReadFailure (.audio 64), .hostReadFailure (.data 0 64),
      .mergeKeyLost 4096 0, .timeInputEdge 0 true 125000, .timeNowNsRead 0 125000, .laneLockLoss 0 125000, .liveFrameLaunch 64 0,
      .controlFrameLaunch 0 125000, .caParityError 0 0 true 125000, .ptpMessageReceive 64 ⟨0, 0, none, .delayReq⟩ 0, .ptpMessageReceive 0 ⟨256, 0, none, .delayReq⟩ 0,
      .ptpMessageReceive 0 ⟨0, 0, none, .announce ⟨2 ^ 64, 0, 0, 0, 0, 0, 0, 0, none, false⟩⟩ 0], c.wf = false := by
  decide +kernel

theorem test_illFormedUnits :
    ∀ c ∈ [Instr.sensorSample [(64, none)], .thermalShutdown 68, .pcieLinkUp 32 0, .linkTrainedBelowX8 0 8, .msixModerationExpiry 0 64,
      .ethFrameReceive 0 ⟨64, true, 2 ^ 48, 0, none, none, .other⟩ 0, .ethFrameReceive 0 ⟨64, true, 0, 0, some (0x8100, 4096, 0), none, .other⟩ 0,
      .gateIntervalEnd 64, .gateListTakeover 64, .warmRelockTimeout 64, .checkerLock 64, .laneLock 0 0 256, .portUp 16 0, .portUp 0 4,
      .anComplete 0 0 4, .marginSample 0 256 0, .idleWindowEnd 0 65537, .ptpDelayReqSend 2, .healthReport [⟨64, 0, 0, 0, false, false⟩],
      .timedOutputEdge 8, .timedPulseEnd 9, .timeInputEdge 5 true 0, .timeInNsRead 0 5, .aes3InputFrame 32 true true true true true true true,
      .aes3Lock 0 8, .aes3LockLoss 32, .tdmClockLoss 8, .tdmClockReturn 8, .houseClockLoss true 32768, .houseClockRestore (-32769),
      .asrcLock 256, .hbmRequest 128 0 0 none 0, .hbmRequest 0 0 (2 ^ 29) none 0, .hbmUncorrectableRead 0 (2 ^ 24) 0 0,
      .hbmUncorrectableRead 0 0 0 65536, .caParityError 128 0 true 0, .thaw 128, .refreshDue 0 64 true, .stackTempReport 4 0,
      .scrubRead 128 0, .trackingMeasure 0 10 0 0, .debugReset 128, .domainRelease 7 ⟨0, true, []⟩, .domainRelease 0 ⟨0, true, [(128, 0)]⟩,
      .domainClockTimeout 7, .railBelowWarn 11 0, .railRecover 0 65536, .sectorEraseDone 256 true, .smbusBlockRead 256,
      .sideHealthTimeout 2 0, .sideHealthTimeout 0 3], c.wf = false := by decide +kernel

/-- Commands at the ends of their ranges are well-formed. -/
theorem test_wellFormed :
    ∀ c ∈ [Instr.nop 16 63, .registerWrite 0 0x3FFFFFF 8 (2 ^ 64 - 1), .operandToken 4095 65535 3 (2 ^ 32 - 1) 124999,
      .ethFrameReceive 63 ⟨64, true, 2 ^ 48 - 1, 0, some (0x88A8, 4095, 7), none, .other⟩ 124999, .thermalShutdown 67,
      .hbmRequest 127 0x10 (2 ^ 29 - 1) (some [255]) 0, .domainClockTimeout 0x13, .pmuCntCfgWrite 0 142 7 (2 ^ 32 - 1),
      .houseClockLoss true (-32768)], c.wf = true := by decide +kernel

/-! ## Single steps on the spec's own values -/

/-- Whether a command answers a next state with a property of its device. -/
def answers (c : Instr) (d : Dev) (p : Dev → Bool) : Bool :=
  match exec c (st d) with
  | .next t => p t.dev
  | _ => false

/-- The device with VFs 1 to 3 enabled. -/
def vf3 : Dev := let d := live []; { d with hif := { d.hif with numVfs := 3 } }

/-- 03_host_rings.md, the first descriptor of a Crew: HIF_RING_CFG_0 of VF3 written with 0x9000_0800 reads 0x9884_0800. -/
theorem test_ringCfgPreset : answers (.ringEnable 3 3 0 0x90000800) vf3 (fun t => t.readBar 3 0xF0110 4 == 0x98840800) = true := by
  decide +kernel

/-- The same example: word 0 of the NOP's entry is 0x00F0_0001, word 2 is 0x0001_0001, words 3 and 4 are the Stroke, and the fold word of
CHECK is 0x00C0_0000. -/
theorem test_nopEntry :
    (let ws := [0xF0000001] ++ List.replicate 14 0
     let x : Desc := ⟨3, 0, 0, ws ++ [0], 0, false, 1, 0, 0, 0⟩
     let d := live [(Reg.hifRingStatus 3 0, F.hifRingStatus_sqHead.set 0 1)]
     let d : Dev := { d with stk := { d.stk with stroke := 2 ^ 32 + 7 }
                             hif := { d.hif with rings := [(192, some { ring0 with lost := false })], due := [x] } }
     answers (.nop 3 0) d fun t => t.out == [.entry 3 0 0
       [0x00F00001, 7, 0x00010001, 7, 1, 0, 0, crc32c 0x00C00000 [0x00F00001, 7, 0x00010001, 7, 1, 0, 0]]]) = true := by decide +kernel

/-- 16_check_units.md: CHK_5 fed "123456789" reads 0xE306_9283. -/
theorem test_checkUnit :
    (let d := live []
     let d : Dev := { d with chk := [(5, ⟨(d.chkSpec 5).restart, 0, [(0x1C, 4, 0x34333231), (0x1C, 4, 0x38373635), (0x14, 1, 0x39)]⟩)] }
     answers (.chkResultRead 0 5 0x20) d fun t => t.out == [.read 0 (Reg.chkResult 5) 0xE3069283] && t.readBar 0 (Reg.chkCount 5) 4 == 9) = true := by
  decide +kernel

/-- 06_rate_control.md, band 10: with a budget of 3,848 and floor bounds of 72 and 16, CTU 15 begins the floor run after 3,456 bits. -/
theorem test_floorRun :
    codeRun (fun i => if i < 20 then 72 + 16 * (19 - i) else 0) 3848 0 0 ([3442] ++ List.replicate 14 1 ++ [296, 50, 50, 50, 50]) =
      (3456, some 15) := by decide +kernel

/-- 00_scope.md, R7: an unmapped offset reads 0; a write of it changes nothing. -/
theorem test_unmapped : answers (.registerWrite 3 0xFFFFC 4 0xFFFFFFFF) vf3 (fun t => t == vf3) = true := by decide +kernel

/-- 03_host_rings.md, R117: at ×8 and 8 GT/s the host budget is 5,000 MB/s. -/
theorem test_fullRate :
    answers (.pcieLinkUp 8 3) (live []) (fun t => t.fld Reg.hifBwBudget F.hifBwBudget_mbps == 5000) = true := by decide +kernel

/-- 01_stroke.md, R36: a second commit of a function is refused with reason BUSY. -/
theorem test_busy :
    answers (.stkCommitWrite 0 0) (commitDev false 0) (fun t =>
      F.stkCommitStatus_reason.get (t.fnReg 0 Reg.stkCommitStatus) == 0x0D) = true := by decide +kernel

/-- 08_composition.md, R272: a fence does not go back. -/
theorem test_fenceBack :
    (let x := desc 0x22 0x1000 [4, 0]
     let d := dueOn (live []) x
     answers (.fenceSignal 0 0) { d with cmp := { d.cmp with fences := [(0, (5, 0))] } } fun t => t.fence 0 == (5, 0)) = true := by
  decide +kernel

/-- 15_crews_secrecy.md, R464: TAMPER_N empties the key slots. -/
theorem test_tamper :
    answers .tamperPinAssert { live [] with sec := { keys := [(4, some ⟨1, 0, 0, []⟩)] } } (fun t => t.key 4 == none) = true := by
  decide +kernel

/-- 17_reset_boot.md, R535: the supplies out of order stop the model. -/
theorem test_supplyOrder : (match exec (.porRelease false) State.reset with
    | .fault .supplyOrder => true
    | _ => false) = true := by decide +kernel

/-! ## Witnesses of the statements' hypotheses -/

theorem witness_StepTakesFrontCommand :
    (State.mk [.nop 0 0] [] Dev.reset).pending = .nop 0 0 :: [] ∧ State.reset.pending = [] := by decide +kernel

theorem witness_MemoryStaysCanonical :
    Memory.wf [(5, 1#8), (9, 3#8)] = true ∧ ∃ t, step ⟨[.hbmRequest 0 0 0 none 0], [(5, 1#8), (9, 3#8)], live []⟩ = .next t :=
  ⟨by decide, _, rfl⟩

theorem witness_CommandsAnswer : Instr.stops .por = false ∧ Instr.stops (.porRelease false) = true := by decide

theorem witness_HbmFrame : Instr.reachesHbm (.nop 0 0) = false ∧ ∃ t, exec (.nop 0 0) State.reset = .next t := ⟨by decide, _, rfl⟩

theorem witness_UnmappedOffsets :
    State.reset.dev.mapped 3 0xFFFFC = none ∧ State.reset.dev.mapped 0 0x3FFFFFC = none ∧ (live []).mapped 0 0x3FFFFFC = none := by
  decide +kernel

theorem witness_OddAccesses : (2 ≠ 4 ∨ 0 % 4 ≠ 0) ∧ (4 ≠ 4 ∨ 2 % 4 ≠ 0) := by decide

theorem witness_NopCompletes :
    let d := dueOn (live []) (desc 0xF0 0 [])
    let q := dueOn (live []) (desc' 1 0xF0 0 [])
    (d.IsDue 0 0 0xF0 (desc 0xF0 0 []) ∧ d.Answers (desc 0xF0 0 []) ∧ d.ring 0 0 = some ring0) ∧
      q.IsDue 0 0 0xF0 (desc' 1 0xF0 0 []) ∧ (desc' 1 0xF0 0 []).quiet = true ∧ q.ring 0 0 = some ring0 ∧
      ring0.epoch = (desc' 1 0xF0 0 []).epoch := by
  unfold Dev.IsDue Dev.Answers; decide +kernel


theorem witness_ProgQueryCounts :
    let x := desc 0x29 0x240 []
    let d := dueOn (busyDev []) x
    d.IsDue 0 0 0x29 x ∧ d.Answers x ∧ d.prog? (x.object - 0x240) = some prog0 := by
  unfold Dev.IsDue Dev.Answers; decide +kernel

theorem witness_TimeQuery :
    let x := desc 0x70 0 []
    let d := dueOn (live []) x
    (d.IsDue 0 0 0x70 x ∧ d.Answers x) ∧ 0x71 ≤ (desc 0x7F 0 []).opcode ∧ (desc 0x7F 0 []).opcode ≤ 0x7F := by
  unfold Dev.IsDue Dev.Answers; decide +kernel

theorem witness_QueriesComplete :
    (let x := desc 0x12 0x100 []
     let d := dueOn (busyDev []) x
     d.IsDue 0 0 0x12 x ∧ d.Answers x ∧ d.enc? x.chan = some enc0) ∧
    (let x := desc 0x18 0x200 []
     let d := dueOn (busyDev []) x
     d.IsDue 0 0 0x18 x ∧ d.Answers x ∧ d.dec? (x.object - 0x200) = some dec0) ∧
    (let x := desc 0x44 0x280 []
     let d := dueOn (busyDev []) x
     d.IsDue 0 0 0x44 x ∧ d.Answers x ∧ d.grp? (x.object - 0x280) = some grp0) ∧
    ∀ op ∈ [(0x23, 0x1000), (0x62, 0x2000)],
      let x := desc op.1 op.2 []
      let d := dueOn (live []) x
      d.IsDue 0 0 op.1 x ∧ d.Answers x := by
  unfold Dev.IsDue Dev.Answers; decide +kernel

/-- A descriptor that is due with one that stands. -/
def dueBeside (x y : Desc) : Dev :=
  let d := dueOn (busyDev []) x
  { d with hif := { d.hif with standing := [standing0 y] } }

theorem witness_PostsAndStops :
    (∀ op ∈ [0x30, 0x50, 0x40, 0x42, 0x64, 0x80, 0x82], (dueOn (live []) (desc op 0x100 [])).IsDue 0 0 op (desc op 0x100 [])) ∧
    (let x := desc 0x41 0x100 []
     let d := dueOn (live []) x
     (d.hif.due ++ d.hif.staged).find? (fun y => y.crew = 0 && y.ring = 0 && y.opcode = 0x41 && !y.waits) = some x) ∧
    (∀ op ∈ [0x31, 0x51, 0x43, 0x81, 0x83],
      let x := desc op 0x100 [0x77]
      let d := dueBeside x (desc (if op = 0x43 then 0x40 else op - 1) 0x100 [])
      let e := dueOn (live []) x
      d.IsDue 0 0 op x ∧ d.Answers x ∧ e.IsDue 0 0 op x ∧ e.Answers x) ∧
    (let d := dueBeside (desc 0x31 0x100 []) (desc 0x30 0x100 [])
     d.standing? 0x30 0x100 = some (standing0 (desc 0x30 0x100 [])) ∧ d.Answers (desc 0x30 0x100 [])) ∧
    (let d := dueBeside (desc 0x51 0x100 []) (desc 0x50 0x100 [])
     d.standing? 0x50 0x100 = some (standing0 (desc 0x50 0x100 [])) ∧ d.Answers (desc 0x50 0x100 [])) ∧
    (let d := dueBeside (desc 0x43 0x280 [0x77]) (desc 0x42 0x280 [])
     (d.hif.standing.find? fun p => p.desc.object = 0x280 && p.desc.tag = 0x77 && [0x40, 0x41, 0x42].contains p.desc.opcode) =
         some (standing0 (desc 0x42 0x280 [])) ∧
       d.Answers (desc 0x42 0x280 [])) ∧
    (let d := dueBeside (desc 0x81 0 []) (desc 0x80 0 [])
     d.crewStanding? 0x80 0 = some (standing0 (desc 0x80 0 [])) ∧ d.Answers (desc 0x80 0 [])) ∧
    (let d := dueBeside (desc 0x83 0 []) (desc 0x82 0 [])
     d.crewStanding? 0x82 0 = some (standing0 (desc 0x82 0 [])) ∧ d.Answers (desc 0x82 0 []) ∧ d.writesOf 0 + 1 < d.hostScale 120) ∧
    ((dueBeside (desc 0x31 0x100 []) (desc 0x30 0x100 [])).enc? 0 = some enc0 ∧ enc0.units = [] ∧ enc0.stats = []) := by
  unfold Dev.IsDue Dev.Answers; decide +kernel

theorem witness_FencesAndPixelTables :
    (∀ p ∈ [(0x22, 0x1000, [0, 0]), (0x22, 0x1000, [1, 0]), (0x22, 0x1FFF, [0xFFFFFFFF, 0xFFFFFFFF]), (0x24, 0x240, [15]),
        (0x25, 0x240, [0, 0, 0, 0, 0x3FFFFFFF]), (0x26, 0x240, [0, 1]), (0x27, 0x240, [])],
      let x := desc p.1 p.2.1 p.2.2
      let d := dueOn (live []) x
      d.IsDue 0 0 p.1 x ∧ d.Answers x) ∧
    (desc 0x25 0x240 [0, 0, 0, 0, 0x3FFFFFFF]).w 7 ≠ 0 ∧ 1024 ≤ (List.replicate 1024 0xFFFFF).length ∧
    4096 ≤ (List.replicate 4096 4095).length ∧
    (∀ b ∈ [(⟨2, [], [5], false⟩ : Bank), ⟨0, [], List.range 60, false⟩, ⟨0, [], (List.range 64).map (5000 + ·), false⟩],
      let d := live []
      let d : Dev := { d with stk := { d.stk with banks := [⟨0, [], [], false⟩, ⟨0, [], [], false⟩, ⟨0, [], [], false⟩, b] } }
      d.bank 3 = b ∧ d.stk.deferred = [] ∧ (b.used + 4 ≤ 64 ∨ 64 ≤ b.used) ∧ (64 ≤ b.used → ∀ i < 1024, i ∉ b.before ∧ i ∉ b.since)) ∧
    (desc 0x22 0x1000 [0, 0]).w 3 ≤ ((live []).fence 0).1 ∧ ¬(desc 0x22 0x1000 [1, 0]).w 3 ≤ ((live []).fence 0).1 := by
  unfold Dev.IsDue Dev.Answers
  simp only [List.length_replicate]
  decide +kernel

theorem witness_DescriptorsJoinObjects :
    (∀ p ∈ [(0x10, 0x100), (0x11, 0x100), (0x28, 0x400), (0x19, 0x200), (0x21, 0x240)],
      let x := desc p.1 p.2 []
      (dueOn (busyDev []) x).IsDue 0 0 p.1 x) ∧
    ((desc 0x10 0x100 []).chan = 0 ∧ (desc 0x11 0x100 []).chan = 0 ∧ (desc 0x28 0x400 []).chan = 0 ∧
      (busyDev []).enc? 0 = some enc0) ∧
    ((busyDev []).dec? ((desc 0x19 0x200 []).object - 0x200) = some dec0 ∧ (busyDev []).prog? (desc 0x21 0x240 []).prog = some prog0) ∧
    (let x := desc 0x20 0x240 []
     let d := dueOn (busyDev []) x
     (d.hif.due ++ d.hif.staged).find? (fun y => y.crew = 0 && y.ring = 0 && y.opcode = 0x20 && !y.waits) = some x ∧
       d.prog? x.prog = some prog0) := by
  unfold Dev.IsDue; decide +kernel

/-- An order in flight. -/
def order0 (stage : Nat) : OrderDyn := ⟨desc 0x66 0 [], ⟨6, 9, []⟩, stage, false, 0, 0, 0⟩

theorem witness_KeyDescriptors :
    (let x := desc 0x60 0x2005 [1]
     let d := dueOn (live [secOn]) x
     d.IsDue 0 0 0x60 x ∧ d.Answers x ∧ d.importBarred = none ∧ d.keyInUse x.keySlot = false ∧ (d.bank 1).used < 64 ∧ d.lifecycle = 1) ∧
    (∀ x ∈ [desc 0x61 0x2000 [], desc 0x63 0x2FFF [0x1000, 1], desc 0x63 0x2FFF [0]],
      let d := dueOn (live [secOn]) x
      d.IsDue 0 0 x.opcode x ∧ d.Answers x) ∧
    (let x := desc 0x60 0x2005 [1]
     let d := dueOn (live []) x
     d.IsDue 0 0 0x60 x ∧ d.Answers x ∧ d.lifecycle ≠ 1) ∧
    ∀ f ∈ [F.secStatus_state, F.secStatus_tamper, F.secStatus_tamperPin, F.secStatus_zeroizePin, F.secStatus_debug],
      let x := desc 0x60 0x2005 [1]
      let d := dueOn (live [(Reg.secStatus, f.set secOn.2 (if f = F.secStatus_state then 0 else 1))]) x
      d.IsDue 0 0 0x60 x ∧ d.Answers x ∧ d.lifecycle = 1 ∧
        (d.secState ≠ 1 ∨ d.fld Reg.secStatus F.secStatus_debug ≠ 0 ∨ d.flag Reg.secStatus F.secStatus_tamper = true ∨
          d.flag Reg.secStatus F.secStatus_tamperPin = true ∨ d.flag Reg.secStatus F.secStatus_zeroizePin = true) := by
  unfold Dev.IsDue Dev.Answers; decide +kernel

theorem witness_KeyDescriptors_inUse (d : Dev) :
    ({ d with sec := { d.sec with sas := [(0, some ⟨(desc 0x61 0x2000 []).keySlot, 1, 0⟩)] } } : Dev).keyInUse
      (desc 0x61 0x2000 []).keySlot = true := by
  simp [Dev.keyInUse]

theorem witness_ChangeOrders :
    (let x := desc 0x66 0 [0, 0, 256]
     let d := dueOn (live [fwOn, secOn]) x
     d.IsDue 0 0 0x66 x ∧ d.orderFormat (x.w 5) retireOrder = true ∧ d.flag Reg.rstStatus F.rstStatus_recovery = false ∧
       d.secState = 1 ∧ d.lifecycle = 1 ∧ (retireOrder.drop 16).take 16 = d.uidBytes ∧ d.sec.order = none) ∧
    ∀ stage ∈ [2, 5],
      let d := dueOn (live [fwOn, secOn]) (desc 0xF0 0 [])
      let d : Dev := { d with sec := { d.sec with order := some (order0 stage) } }
      d.sec.order = some (order0 stage) ∧ (order0 stage).stage = stage ∧ d.fwRuns = true ∧ d.orderSub (order0 stage) true true = none ∧
        d.orderSub (order0 stage) false true = some 2 ∧ d.Answers (order0 stage).desc ∧ d.nvmHeld = false := by
  unfold Dev.IsDue Dev.Answers; decide +kernel

theorem witness_AuditAndSuspend :
    (let x := desc 0x68 0 [3, 1]
     let d := dueOn (live [secOn]) x
     d.sec.backlog.length < 16 ∧ d.IsDue 0 0 0x68 x) ∧
    (let d := live [secOn]
     let d : Dev := { d with sec := { d.sec with backlog := [⟨4, 0, []⟩] } }
     d.sec.backlog = ⟨4, 0, []⟩ :: [] ∧ d.nvmHeld = false ∧ d.slotErased (ringSlot 80 16 d.nvm.auditSeq) = true ∧
       3 ∉ d.nvm.worn ∧ 3 ∈ ({ d.nvm with worn := [3] } : Nvm).worn) ∧
    (let x := desc 0x67 0 [0, 2047]
     let d := dueOn (live [secOn]) x
     d.IsDue 0 0 0x67 x ∧ d.Answers x) := by
  unfold Dev.IsDue Dev.Answers; decide +kernel

theorem witness_Zeroisation : (live []).mayWrite 0 Reg.secZeroise = true ∧ bitAt 0x80000000 31 = true := by decide +kernel

theorem witness_EntropyAndEnrolment :
    (live []).secReset = false ∧
    ∀ role < 3,
      let d := live [(Reg.secStatus, F.secStatus_enrolPin.set 0 1)]
      let v := 0x80000000 + role
      d.mayWrite 0 Reg.secEnrolCtl = true ∧ bitAt v 31 = true ∧ v % 4 < 3 ∧ d.lifecycle = 0 ∧
        d.flag Reg.secStatus F.secStatus_enrolPin = true ∧ bitAt (d.fld Reg.secEnrolCtl F.secEnrolCtl_done) (v % 4) = false := by
  decide +kernel

/-- A fed token record for Stroke 5, whose check word is right. -/
def fedWords : List Nat := [5, 0, 0x02000000, 0, 0, 0, 0, crc32c 0 [5, 0, 0x02000000, 0, 0, 0, 0]]

theorem witness_MarksLogsAndLoads :
    (∀ x ∈ [desc 0x84 0 [1, 2, 3, 4], desc 0xF2 0 [0, 4095]],
      let d := dueOn (live []) x
      d.IsDue 0 0 x.opcode x ∧ d.Answers x) ∧
    (let x := desc 0xF1 0 [0, 0, 4096]
     let d := dueOn (live []) x
     d.rst.fwLoad = none ∧ d.IsDue 0 0 0xF1 x) ∧
    ∀ ws ∈ [fedWords, []],
      let x := desc 0x85 0 [0, 0, 32]
      let d := dueOn (live []) x
      d.IsDue 0 0 0x85 x ∧ d.rpl.feeds = [] ∧
        ∀ p ∈ (feedRecords (ws.take (x.w 5 / 4)).length d.rpl.fed (ws.take (x.w 5 / 4))).1, d.now < p.stroke ∧ p.kind = 0x02 := by
  unfold Dev.IsDue Dev.Answers; decide +kernel

theorem witness_EapolSendQueues :
    (dueOn (live []) (desc 0x65 0 [0, 0, 60, 63])).IsDue 0 0 0x65 (desc 0x65 0 [0, 0, 60, 63]) := by
  unfold Dev.IsDue; decide +kernel

theorem witness_LinkAndReady :
    (16 ≤ (live []).maxWidth ∧ 4 ≤ (live []).maxSpeed) ∧ (8 ≤ 8 ∧ 3 ≤ 3) ∧ (0 < 1 ∧ (1 < 3 ∨ 1 < 8)) ∧ (live []).inReset 6 = false ∧
    (let d := live [(Reg.rstOb 2, 0x100000#32)]
     d.inReset 6 = false ∧ 1 ≤ 1 ∧ 16 ≤ d.totalVfs) := by decide +kernel

/-- A device with ring pair 63 of Crew 16 in a state. -/
def ringAt (state : Nat) (g : Option Ring) : Dev :=
  let d := live [(Reg.hifRingCfg 16 63, F.hifRingCfg_enable.set 0 1), (Reg.hifRingStatus 16 63, F.hifRingStatus_state.set 0 state)]
  { d with hif := { d.hif with rings := [(64 * 16 + 63, g)], numVfs := 16 } }

theorem witness_RingStates :
    (let d := live []
     let v := (F.hifRingCfg_enable.set 0 1).toNat
     let x := d.plainWrite 0 (Reg.hifRingCfg 0 0) (F.hifRingCfg_enable.set (BitVec.ofNat 32 v) 0)
     let w := (F.hifRingCfg_enable.set (F.hifRingCfg_sqLog2.set 0 1) 1).toNat
     let y := d.plainWrite 0 (Reg.hifRingCfg 0 0) (F.hifRingCfg_enable.set (BitVec.ofNat 32 w) 0)
     d.mayWrite 0 (Reg.hifRingCfg 0 0) = true ∧ d.ringState 0 0 = 0 ∧ F.hifRingCfg_enable.get (BitVec.ofNat 32 v) = 1 ∧
       F.hifRingCfg_enable.get (BitVec.ofNat 32 w) = 1 ∧ x.ringRefused 0 0 = false ∧ y.ringRefused 0 0 = true) ∧
    (∀ n ∈ [1, 3],
      let d := ringAt n (some ring0)
      d.mayWrite 16 (Reg.hifRingCfg 16 63) = true ∧ d.ringState 16 63 = n ∧ F.hifRingCfg_enable.get (BitVec.ofNat 32 0) = 0 ∧
        d.ring 16 63 = some ring0) ∧
    (let g : Ring := { ring0 with opened := [] }
     let d := ringAt 2 (some g)
     d.mayWrite 16 (Reg.hifRingCfg 16 63) = true ∧ d.ring 16 63 = some g ∧ d.ringState 16 63 = 2 ∧ g.opened = [] ∧ g.held = [] ∧
       g.issued = 0) := by decide +kernel

theorem witness_Doorbells :
    (let d := ringAt 1 (some ring0)
     d.inReset 6 = false ∧ 63 < (List.replicate 64 1).length ∧ (List.replicate 64 1).length ≤ 64 ∧ d.ringOn 16 63 = true ∧
       d.ring 16 63 = some ring0) ∧
    ∀ v < 2,
      let d := (ringAt 1 (some ring0)).setFld (Reg.hifRingCfg 16 63) F.hifRingCfg_barDb v
      d.inReset 6 = false ∧ 16 ≤ d.hif.numVfs ∧ d.suspended 16 = false ∧ d.ring 16 63 = some ring0 ∧
        (d.flag (Reg.hifRingCfg 16 63) F.hifRingCfg_barDb = true ↔ v = 1) := by decide +kernel

theorem witness_DescriptorFetch :
    let g : Ring := { ring0 with tail := 2 }
    let d := (ringAt 1 (some g)).setReg Reg.hifBwBudget 5000#32
    d.ring 16 63 = some g ∧ d.ringState 16 63 = 1 ∧ d.suspended 16 = false ∧ g.held = [] ∧ g.retried = none ∧
      0 < d.announced 16 63 ∧ 0 < d.freeSlots 16 63 ∧ d.storeRoom = true ∧ d.readShare 16 63 = true := by decide +kernel

/-- The NOP of the spec's example, its CHECK right for sequence number 1 of ring pair 63 of Crew 16, and with it wrong. -/
def nopWords (op check : Nat) : List Nat :=
  let ws := [op * 2 ^ 24 + 1] ++ List.replicate 14 0
  ws ++ [(crc32c ((64 * 16 + 63) * 65536 + 1) ws + check) % 2 ^ 32]

theorem witness_DescriptorTests :
    let g : Ring := { ring0 with issued := 1 }
    let d := ringAt 1 (some g)
    let x (ws : List Nat) : Desc := ⟨16, 63, 1, ws, 0, false, 1, 0, 0, 0⟩
    let e := (d.setRing 16 63 (some { g with issued := 0, sqSeq := 2, opened := [0, 1], retried := none })).setFld
      (Reg.hifRingStatus 16 63) F.hifRingStatus_sqHead (2 % d.sqSize 16 63)
    d.ring 16 63 = some g ∧ 0 < g.issued ∧ (∀ op ∈ [0xF0, 0xEE], ∀ c < 2, (nopWords op c).length = 16) ∧
      (x (nopWords 0xF0 1)).w 15 ≠ crc32c ((64 * 16 + 63) * 65536 + 1) ((nopWords 0xF0 1).take 15) ∧
      (x (nopWords 0xF0 0)).w 15 = crc32c ((64 * 16 + 63) * 65536 + 1) ((nopWords 0xF0 0).take 15) ∧
      e.refusal? allRules (x (nopWords 0xF0 0)) = none ∧
      (x (nopWords 0xEE 0)).w 15 = crc32c ((64 * 16 + 63) * 65536 + 1) ((nopWords 0xEE 0).take 15) ∧
      e.refusal? allRules (x (nopWords 0xEE 0)) = some (0x13, []) ∧ g.held = [] ∧ d.entryShare 16 63 = true ∧
      (x (nopWords 0xF0 0)).opcode ≠ 0x28 ∧ (x (nopWords 0x28 0)).opcode = 0x28 ∧ e.storeRoom = true := by decide +kernel

theorem witness_OrderedStart :
    ∀ n < 2,
      let x : Desc := ⟨0, 0, 1, [0xF0800000], 0, true, 1, 0, 0, 0⟩
      let g : Ring := { ring0 with sqSeq := 2, opened := [n, 1] }
      let d := live []
      let d : Dev := { d with hif := { d.hif with rings := [(0, some g)], staged := [x] } }
      d.ring 0 0 = some g ∧ d.hif.staged.find? (fun y => y.crew = 0 && y.ring = 0 && y.waits) = some x ∧
        ((∃ k ∈ g.opened, k < x.seq) ↔ n = 0) ∧ ((∀ k ∈ g.opened, x.seq ≤ k) ↔ n = 1) := by decide +kernel

theorem witness_HostReadFailures :
    (∀ r ∈ [none, some 0],
      let g : Ring := { ring0 with issued := 1, retried := r }
      let d := ringAt 1 (some g)
      d.inReset 6 = false ∧ d.ring 16 63 = some g ∧ 0 < g.issued ∧ g.retried = r ∧ g.held = [] ∧ d.entryShare 16 63 = true) ∧
    ∀ op ∈ [0x24, 0x27, 0x60, 0x65, 0x66, 0x85, 0xF1],
      let x := desc op 0 []
      let d := dueOn (live []) x
      d.inReset 6 = false ∧ d.hif.due.find? (fun y => y.crew = 0 && y.ring = 0) = some x ∧ x.opcode = op ∧ d.Answers x := by
  unfold Dev.Answers; decide +kernel

theorem witness_HeldCompletions :
    let h : Held := ⟨0, 0x30, 1, [], 0, 0, 0, false⟩
    let g : Ring := { ring0 with held := [h] }
    let d := (ringAt 3 (some g)).setFld (Reg.hifRingMod 16 63) F.hifRingMod_holdStrokes 0
    let x : Desc := ⟨16, 63, 0, [0x30000001], 0, false, 1, 0, 0, 0⟩
    let d : Dev := { d with hif := { d.hif with standing := [standing0 x] } }
    standing0 x ∈ d.hif.standing ∧ x.crew = 16 ∧ x.ring = 63 ∧ x.seq = h.post ∧ d.entryShare 16 63 = true ∧ h.slot = false ∧
    d.ring 16 63 = some g ∧ g.held = h :: [] ∧ 0 < d.freeSlots 16 63 ∧ d.ringState 16 63 = 3 ∧
      h.since + d.fld (Reg.hifRingMod 16 63) F.hifRingMod_holdStrokes ≤ d.now := by decide +kernel

theorem witness_EventRing :
    (let d := live []
     let v := (F.hifEvqCfg_enable.set (F.hifEvqCfg_log2Size.set 0 6) 1).toNat
     d.mayWrite 0 (Reg.hifEvqCfg 0) = true ∧ F.hifEvqCfg_enable.get (BitVec.ofNat 32 v) = 1 ∧
       d.flag (Reg.hifEvqCfg 0) F.hifEvqCfg_enable = false ∧
       (d.plainWrite 0 (Reg.hifEvqCfg 0) (F.hifEvqCfg_enable.set (BitVec.ofNat 32 v) 0)).evqValid 0 = true ∧
       F.hifEvqCfg_enable.get (BitVec.ofNat 32 0) = 0) ∧
    (let d := live [(Reg.hifEvqCfg 0, F.hifEvqCfg_enable.set (F.hifEvqCfg_log2Size.set 0 6) 1),
                    (Reg.hifEvqStatus 0, F.hifEvqStatus_tail.set 0 3)]
     d.inReset 6 = false ∧ d.flag (Reg.hifEvqCfg 0) F.hifEvqCfg_enable = true ∧
       64 = 2 ^ d.fld (Reg.hifEvqCfg 0) F.hifEvqCfg_log2Size ∧ Tab.get zero d.hif.evHead 0 = 0 ∧
       3 = d.fld (Reg.hifEvqStatus 0) F.hifEvqStatus_tail ∧
       (0 < (3 + 64 - 0) % 64 ∧ (3 + 64 - 0) % 64 ≤ (3 + 64 - 0) % 64) ∧
       ¬(0 < (4 + 64 - 0) % 64 ∧ (4 + 64 - 0) % 64 ≤ (3 + 64 - 0) % 64)) := by decide +kernel

theorem witness_MsixModeration :
    let d := live [(Reg.hifRingCfg 0 0, (F.hifRingCfg_intEn.set (F.hifRingCfg_vector.set 0 5) 1))]
    let d : Dev := { d with hif := { d.hif with unsig := [(0, 1)] } }
    0 < d.unsig 0 0 ∧ d.ringVector 0 0 = 5 ∧ d.ringIntEn 0 0 = true ∧ d.mayFire 0 0 = true ∧ d.ringVector 0 1 ≠ 5 ∧
      d.msixMasked 0 5 = true ∧ ({ d with hif := { d.hif with msix := [(23, 0)] } } : Dev).msixMasked 0 5 = false := by
  decide +kernel

theorem witness_CommitBusy :
    (commitDev false 0).mayWrite 0 Reg.stkCommit = true ∧
      ((commitDev false 0).stk.queue.any fun q => q.fn = 0 && q.order.isNone) = true := by decide +kernel

theorem witness_CommitWritten :
    (live []).mayWrite 0 Reg.stkCommit = true ∧ ((live []).stk.queue.any fun q => q.fn = 0 && q.order.isNone) = false := by
  decide +kernel

/-- A commit that enables decode channel 0 for PF0, with a pool of one region to make, on a device that can take it. -/
def poolCommit : Commit :=
  ⟨0, 0, [(Reg.decChCfg 0, F.decChCfg_dpbMax.set (F.decChCfg_profile.set 0x80000000 2) 6),
    (Reg.decChFmt 0, F.encChFmt_height.set (F.encChFmt_width.set 0 1920) 1080), (Reg.decChTime 0, F.encChTime_den.set (F.encChTime_num.set 0 60) 1),
    (Reg.decChSrc 0, F.decChSrc_flow.set 0 256), (Reg.decChRate 0, F.decChRate_maxRate.set 0 2), (Reg.decChTiming 0, 0)],
   true, 0, [], none, {}, 1, none⟩

/-- That device. -/
def poolDev (c : Commit) : Dev :=
  let d := live [(Reg.stkStatus, F.stkStatus_sync.set 0 1), fwOn, (Reg.memRegionMask 7 3, 0x80000000#32),
    (Reg.memRegionCfg 7, F.memRegionCfg_pcLen.set (F.memRegionCfg_enable.set 0 1) 511)]
  { d with stk := { d.stk with queue := [c], seqs := [(0, 1)] } }

/-- Pools are made, and with none to make the commit is accepted at once. -/
theorem witness_CommitsAdmitted_pools :
    (∀ c ∈ [poolCommit, { poolCommit with filled := some 5 }, { poolCommit with filled := some 0 }],
      (poolDev c).stk.queue = c :: [] ∧ c.admitting = true ∧ (poolDev c).fwRuns = true ∧ c.builds = [] ∧
        ((poolDev c).verdict c).1 = none ∧ (poolDev c).poolsMade ((poolDev c).verdict c).2 ≠ []) ∧
    (let c : Commit := { poolCommit with writes := [] }
     c.order = none ∧ (poolDev c).seqOfFn c.fn = c.seq ∧ c.filled = none ∧ ((poolDev c).verdict c).1 = none ∧
       (poolDev c).poolsMade ((poolDev c).verdict c).2 = []) := by decide +kernel

theorem witness_CommitsAdmitted :
    (let d := commitDev true 2
     d.stk.queue = commit0 true :: [] ∧ (commit0 true).admitting = true ∧ d.fwRuns = true ∧
       (∀ b ∈ (commit0 true).builds, (d.bank (tableIdx b)).state = 2) ∧ (commit0 true).order = none ∧
       d.seqOfFn (commit0 true).fn = (commit0 true).seq ∧ (commit0 true).filled = none ∧
       d.poolsMade (d.verdict (commit0 true)).2 = []) ∧
    ((commitDev true 1).bank (tableIdx .classifier)).state = 1 := by decide +kernel

theorem witness_StrokeBoundary :
    (let x := { desc 0xF0 0 [] with effect := 1 }
     let d := live []
     let d : Dev := { d with hif := { d.hif with staged := [x] } }
     d.mayStep = true ∧ d.stk.queue = [] ∧ d.stk.accepted = [] ∧ d.enc = [] ∧ d.dec = [] ∧ d.cmp.progs = [] ∧ d.aud.groups = [] ∧
       d.rpl.feeds = [] ∧ x ∈ d.hif.staged ∧ x.waits = false ∧ x.effect ≤ d.now + 1 ∧
       standingOps.contains x.opcode = false ∧ d.ringState x.crew x.ring ≠ 2) ∧
    State.reset.dev.mayStep = false := by decide +kernel

theorem witness_BudgetAndNow :
    let d := live []
    let old := d.stagedReg 0 Reg.stkBudgetCfg
    d.mayWrite 0 Reg.stkBudgetCfg = true ∧ d.sees 0 Reg.stkNowLo = true ∧
      (∀ p ∈ [0, 1, 2, 7], F.stkBudgetCfg_livePreset.get (F.stkBudgetCfg_livePreset.set old p) = p) ∧
      F.stkBudgetCfg_livePreset.get old ≠ 7 ∧
      F.stkBudgetCfg_liveCap.get (F.stkBudgetCfg_liveCap.set old 5) ≠ F.stkBudgetCfg_liveCap.get old := by decide +kernel

theorem witness_RegisterWrites :
    (let d := live []
     let a := Reg.coxFlowDl 4095
     (barAddr 0 a).bind enrolKeyAt = none ∧ d.writable 0 a 4 = some a ∧ d.ownRule 0 a 0xFFFFFFFF = false ∧
       presetFor (d.plainRead 0) a = none ∧ ∃ c ix, regClass? a = some (c, ix) ∧ c.perFn = false ∧ ∀ f ∈ c.fields, f.acc = .rc) ∧
    (let d := live []
     let a := Reg.hifSqBaseLo 0 63
     (barAddr 0 a).bind enrolKeyAt = none ∧ d.writable 0 a 4 = some a ∧ d.ownRule 0 a 0xFFFFFFFF = false ∧
       presetFor (d.plainRead 0) a = none ∧ ∃ c ix, regClass? a = some (c, ix) ∧ c.perFn = false ∧ ∀ f ∈ c.fields, f.acc = .rw) ∧
    (barAddr 0 0xE00380).bind enrolKeyAt = some 0 ∧ (live []).blockAnswers 0xE00380 = true := by
  refine ⟨⟨by decide +kernel, by decide +kernel, by decide +kernel, by decide +kernel, _, _, rfl, by decide, by decide⟩,
    ⟨by decide +kernel, by decide +kernel, by decide +kernel, by decide +kernel, _, _, rfl, by decide, by decide⟩, ?_⟩
  decide +kernel

/-- An item of flow 7 with one operand more to come, live unless said otherwise. -/
def item0 (live : Bool) (filled ready : Nat) (unit : Option Nat) : Item :=
  ⟨7, 3, 3, 0, 1, 4, live, 3, filled, [0, 0, 0, 0], false, ready, unit, 1000, 0, 0, false, 0, 0, 0⟩

/-- The settings of flow 7: enabled, needing its slots 0 and 1, live unless said otherwise, with a reserve of 2 entries. -/
def flow7 (live : Bool) : Nat × Word :=
  (Reg.coxFlowCfg 7, F.coxFlowCfg_reserve.set (F.coxFlowCfg_need.set (F.coxFlowCfg_live.set (F.coxFlowCfg_enable.set 0 1)
    (if live then 1 else 0)) 3) 2)

/-- A device at a Stroke with flow 7 and its items. -/
def itemDev (live_ : Bool) (now : Nat) (items : List Item) (gone : List (Nat × Nat × Bool)) : Dev :=
  let d := live [fwOn, flow7 live_]
  { d with stk := { d.stk with stroke := now }, cox := { d.cox with items := items, gone := gone } }

theorem witness_OperandTokens :
    (∀ d ∈ [itemDev true 0 [] [], itemDev false 0 [] [], itemDev true 0 [item0 true 13 0 none] [], itemDev true 0 [] [(7, 3, true)],
        itemDev true 0 [] [(7, 3, false)]],
      d.replay = false ∧ d.inReset 5 = false ∧ d.flowOn 7 = true ∧ d.oneToken 7 3 0 = true ∧ d.oneToken 7 3 3 = true) ∧
    ((itemDev true 0 [item0 true 13 0 none] []).item? 7 3 = some (item0 true 13 0 none) ∧ bitAt 13 0 = true ∧ bitAt 13 1 = false) ∧
    ((itemDev true 0 [] [(7, 3, true)]).item? 7 3 = none ∧ (itemDev true 0 [] [(7, 3, true)]).gone? 7 3 = some true ∧
      (itemDev true 0 [] [(7, 3, false)]).gone? 7 3 = some false ∧ (itemDev true 0 [] []).gone? 7 3 = none) := by decide +kernel

theorem witness_ItemsStart :
    (let d := (itemDev true 0 [item0 true 15 1 none] []).atNs 0
     d.firstServed 0 (d.dispatchable 0) = some (item0 true 15 1 none, 0)) ∧
    (let d := (itemDev true 0 [] []).atNs 124999
     d.firstServed 124999 (d.dispatchable 124999) = none) := by decide +kernel

theorem witness_CompletionsAndPauses :
    (itemDev true 0 [item0 true 15 1 (some 39)] []).item? 7 3 = some (item0 true 15 1 (some 39)) ∧
      (item0 true 15 1 (some 39)).unit.isSome = true ∧ (item0 true 15 1 (some 39)).unit = some 39 ∧ 39 < 40 ∧
      noResult.poisoned = false ∧ noResult.broken = 0 ∧ 0 < ({ noResult with broken := 1 } : ItemResult).broken := by decide +kernel

theorem witness_SubstitutesRun :
    ((itemDev true 2 [item0 true 13 0 none] []).item? 7 3 = some (item0 true 13 0 none) ∧
      (itemDev true 2 [item0 true 13 0 none] []).substDue (item0 true 13 0 none) = true) ∧
    (let d := (itemDev true 409 [] []).setReg (Reg.coxFlowDl 7) 0
     let d : Dev := { d with dec := [(0, some dec0)], cox := { d.cox with flowObj := [(7, .dec 0)] } }
     d.item? 7 3 = none ∧ d.gone? 7 3 = none ∧ d.flowOn 7 = true ∧ d.duesAt 7 (d.newItem 7 3 d.now false).e = some [3] ∧
       d.substDue (d.newItem 7 3 d.now false) = true) ∧
    (let i := item0 true 15 1 (some 0)
     let d := itemDev true 4 [i] []
     d.item? 7 3 = some i ∧ i.live = true ∧ i.readyNo ≠ 0 ∧ i.floor = 0 ∧ i.cd ≤ d.now ∧
       ({ d with cox := { d.cox with flowObj := [(7, .encPiece 0 0)] } } : Dev).flowObj 7 = .encPiece 0 0 ∧ d.flowObj 7 = .none) ∧
    (let i := item0 false 15 1 none
     let d := itemDev false 5 [i] []
     d.item? 7 3 = some i ∧ i.live = false ∧ i.unit = none ∧ i.cd < d.now ∧ d.flowObj 7 = .none) ∧
    (let i := item0 false 15 1 none
     let d := itemDev false 5 [i] []
     let d : Dev := { d with enc := [(0, some { enc0 with cfgs := [(0, { encCfg0 with live := false, flows := [7] })] })]
                             cox := { d.cox with flowObj := [(7, .encPiece 0 0)] } }
     d.item? 7 3 = some i ∧ d.flowObj 7 = .encPiece 0 0 ∧ (d.bandOfItem 0 i).isSome = true) := by
  decide +kernel

/-- A device at a Stroke with its encode channel, decode channel, programme and audio group. -/
def atStroke (now : Nat) (l : List (Nat × Word)) : Dev :=
  let d := busyDev l
  { d with stk := { d.stk with stroke := now } }

/-- A coded unit of 100 bytes. -/
def unit0 : UnitRec := ⟨0, 0, 0, 16, 100, 0, false, false, true, true, true, 0, 0, false, 0, [], List.replicate 15 0, [], [0], [], []⟩

/-- A slot's unit that is not yet complete. -/
def slot3 : SlotUnit := ⟨3, false, false, false, 0, 0⟩

theorem witness_FramesAndUnits :
    (let d := atStroke 400 []
     d.enc? 0 = some enc0 ∧ cfgFor enc0.cfgs 3 = some (0, encCfg0) ∧ encCfg0.live = true ∧ enc0.first ≤ 3 ∧
       frameStroke encCfg0.num encCfg0.den 3 = d.now ∧ enc0.settled 3 = false ∧ enc0.mismatch = false ∧ enc0.lastIrap = none ∧
       d.dec? 0 = some dec0 ∧ frameStroke dec0.cfg.num dec0.cfg.den 3 = d.now) ∧
    (let x : DecDyn := { dec0 with units := [slot3] }
     let d := atStroke 409 []
     let d : Dev := { d with dec := [(0, some x)] }
     d.dec? 0 = some x ∧ d.now = x.cfg.release 3 + x.cfg.relOff + 1 ∧ x.unit? 3 = some slot3 ∧ slot3.sent = false ∧
       slot3.tooLarge = false ∧ x.mismatch = false) ∧
    ((busyDev []).standing? 0x30 0x100 = none ∧ (busyDev []).standing? 0x50 0x100 = none) ∧
    (let x : EncDyn := { enc0 with units := [unit0] }
     let p := standing0 (desc 0x30 0x100 [0, 0, 100, 1])
     let d := live []
     let d : Dev := { d with enc := [(0, some x)], hif := { d.hif with standing := [p] } }
     d.enc? 0 = some x ∧ d.standing? 0x30 0x100 = some p ∧ bitAt (p.desc.w 6) 16 = false ∧ p.start ≤ unit0.released ∧ 0 < unit0.bytes ∧
       unit0.bytes ≤ p.desc.w 5 ∧ 0 < p.desc.w 6 % 65536 ∧ p.isBusy (p.next % (p.desc.w 6 % 65536)) = false ∧ d.unitLate 0 unit0 = false) ∧
    (let x : EncDyn := { enc0 with stats := [unit0] }
     let p := standing0 (desc 0x50 0x100 [0, 0, 128, 1])
     let d := live []
     let d : Dev := { d with enc := [(0, some x)], hif := { d.hif with standing := [p] } }
     d.enc? 0 = some x ∧ d.standing? 0x50 0x100 = some p ∧ bitAt (p.desc.w 6) 16 = false ∧ p.start ≤ unit0.released ∧
       4 * (unit0.statWords (bitAt (p.desc.w 6) 17)).length ≤ p.desc.w 5 ∧ 0 < p.desc.w 6 % 65536 ∧
       p.isBusy (p.next % (p.desc.w 6 % 65536)) = false ∧ d.unitLate 0 unit0 = false) ∧
    0 + (fun _ => 5) 0 ≤ (5 : Nat) := by decide +kernel

/-- A layer of host pictures. -/
def layer0 : LayerCfg :=
  { layer := 2, srcType := 3, srcFmt := 0, srcIndex := 0, srcW := 64, srcH := 64, cropX := 0, cropY := 0, cropW := 64, cropH := 64,
    dstX := 0, dstY := 0, dstW := 64, dstH := 64, group := 0, miss := 0, gamut := 0, pair := false, scaler := none, paired := false,
    lines := 0 }

/-- Its post for frame 5, whose copy is over or has not begun. -/
def post0 (frame : Nat) (copied : Bool) : Post :=
  ⟨desc 0x20 0x240 [2, 0, 0, 0, 0x1000, 0, 0], 2, frame, if copied then some 0 else none, if copied then some 1 else none, copied, []⟩

/-- A programme with the layer and posts. -/
def prog2 (posts : List Post) : ProgDyn :=
  { prog0 with cfg := { progCfg0 with layers := [layer0] }, layers := [{ layer := 2 }], posts := posts }

/-- A device at a Stroke with the programme alone. -/
def progDev (now : Nat) (posts : List Post) : Dev :=
  let d := dueOn (live []) (desc 0xF0 0 [])
  { d with stk := { d.stk with stroke := now }, cmp := { d.cmp with progs := [(0, some (prog2 posts))] } }

theorem witness_Composition :
    (let x := prog2 [post0 5 false]
     let d := progDev 0 [post0 5 false]
     d.prog? 0 = some x ∧
       x.posts.find? (fun q => q.layer = 2 && q.start.isNone && d.fenceReached q.desc) = some (post0 5 false) ∧
       x.layerCfg? 2 = some layer0) ∧
    (∀ f ∈ [5, 4],
      let d := progDev (flipStroke 60 1 5) [post0 f true]
      let x := prog2 [post0 f true]
      d.prog? 0 = some x ∧ d.now = flipStroke x.cfg.num x.cfg.den 5 ∧
        x.cfg.layers.filter (fun m => m.srcType = 3 || m.srcType = 4) = [layer0] ∧ layer0.group = 0 ∧ d.tapFed 0 = [] ∧
        x.layer? layer0.layer = some { layer := 2 } ∧
        ((x.posts.filter fun q => q.layer = 2).filter (d.flippable 5)).getLast? = some (post0 f true) ∧ d.Answers (post0 f true).desc ∧
        d.writesOf 0 + x.posts.length < d.hostScale 120 ∧ post0 f true ∈ x.posts ∧ (post0 f true).done = some 1 ∧ 1 ≤ d.now) ∧
    (let d := progDev (flipStroke 60 1 5) []
     d.prog? 0 = some (prog2 []) ∧
       (((prog2 []).posts.filter fun q => q.layer = 2).filter (d.flippable 5)).getLast? = none) := by
  unfold Dev.Answers; decide +kernel

theorem witness_AudioInputs :
    (let d := live [(Reg.audAesiCfg 31, F.audAesiCfg_enable.set 0 1), (Reg.audAesiStatus 31, F.audAesiStatus_lock.set 0 1)]
     d.flag (Reg.audAesiCfg 31) F.audAesiCfg_enable = true ∧ d.flag (Reg.audAesiStatus 31) F.audAesiStatus_lock = true ∧
       (Tab.get noCs d.aud.cs 31).pos = 192 ∧ ({ pos := 0, a := [], b := [] } : CsAsm).pos < 191) ∧
    (let x : CsAsm := { pos := 191, a := List.replicate 191 0, b := List.replicate 191 0 }
     (csBytes (x.a ++ [bit true])).getD 0 0 % 2 = 0 ∧ (csBytes (x.b ++ [bit true])).getD 0 0 % 2 = 0) ∧
    (let d := live [(Reg.audTdmCfg 7, F.audTdmCfg_role.set (F.audTdmCfg_enable.set 0 1) 1)]
     d.flag (Reg.audTdmCfg 7) F.audTdmCfg_enable = true ∧ d.fld (Reg.audTdmCfg 7) F.audTdmCfg_role ≠ 0 ∧
       d.flag (Reg.audTdmStatus 7) F.audTdmStatus_clockOk = false) ∧
    (let d := live [(Reg.audClkCfg, F.audClkCfg_role.set 0 1), (Reg.audClkStatus, F.audClkStatus_house.set 0 1),
                    (Reg.audAesoCfg 31, F.audAesoCfg_enable.set 0 1)]
     d.fld Reg.audClkCfg F.audClkCfg_role ≠ 0 ∧ d.fld Reg.audClkStatus F.audClkStatus_house = 1 ∧
       d.flag (Reg.audAesoCfg 31) F.audAesoCfg_enable = true) ∧
    (let d := live [(Reg.audClkCfg, F.audClkCfg_restoreMs.set 0 1), (Reg.audClkStatus, F.audClkStatus_house.set 0 2)]
     d.fld Reg.audClkStatus F.audClkStatus_house = 2 ∧ d.fld Reg.audClkCfg F.audClkCfg_restoreMs ≠ 0) ∧
    (let d := live [(Reg.audAsrcState 255, F.audAsrcState_inUse.set 0 1)]
     let d : Dev := { d with aud := { d.aud with asrcs := [(255, some ⟨true, 0x5F, 0, 0, 0⟩)] } }
     d.flag (Reg.audAsrcState 255) F.audAsrcState_inUse = true ∧ d.asrc? 255 = some ⟨true, 0x5F, 0, 0, 0⟩ ∧ d.now % 8 = 0) ∧
    (let x : AudGrpDyn := { grp0 with next := some (4, 0) }
     let d := live []
     let d : Dev := { d with aud := { d.aud with groups := [(63, some x)] } }
     d.grp? 63 = some x ∧ x.next = some (4, 0) ∧ 0 ≤ d.now) := by decide +kernel

/-- A device at a Stroke with an audio group and standing descriptors, ring pair 0 active. -/
def audDev (now : Nat) (l : List Standing) : Dev :=
  let d := dueOn (busyDev []) (desc 0xF0 0 [])
  { d with stk := { d.stk with stroke := now }, hif := { d.hif with standing := l } }

theorem witness_BlocksAndSnapshots :
    (let p := standing0 (desc 0x40 0x280 [0, 0, 1, 2])
     let d := audDev 60 [p]
     d.grp? 0 = some grp0 ∧
       d.hif.standing.filter (fun q => (q.desc.opcode = 0x40 || q.desc.opcode = 0x42) && q.desc.object = 0x280 + 0) = [p] ∧
       d.hif.standing.find? (fun q => q.is p.desc) = some p ∧ p.desc.opcode = 0x40 ∧ d.blockOver p grp0 = true ∧
       d.blockOver { p with aux := [p.aux.getD 0 0 + max 1 grp0.cfg.block, 0] } grp0 = false ∧ p.isBusy p.next = false ∧
       (∀ due < 100, d.tooLate due = false) ∧ 0 < d.freeSlots 0 0) ∧
    (let p := standing0 (desc 0x41 0x2C0 [0, 0, 1, 2])
     let d := audDev 0 [p]
     d.playback? 0 = some p ∧ (∀ q ∈ d.hif.standing, q.is p.desc = true → q = p) ∧
       p.aux.getD 1 0 + p.aux.getD 0 0 * max 1 (p.desc.w 6 / 65536 % 64) ≤ d.now + 4) ∧
    (∀ busy ∈ [[], [(0, 0)]],
      let p := { standing0 (desc 0x80 0 [0, 0, 4096, 0x00080002]) with busy := busy }
      let d := audDev 16 [p]
      d.crewStanding? 0x80 0 = some p ∧ d.now % max 1 (p.desc.w 6 / 65536) = 0 ∧ p.isBusy p.next = !busy.isEmpty) ∧
    (let p := { standing0 (desc 0x82 0 [0, 0, 4096, 2]) with full := [(1, 64, 0, [7])] }
     let d := audDev 7999 [p]
     d.crewStanding? 0x82 0 = some p ∧ d.now % 8000 ≠ 0 ∧ p.full = [(1, 64, 0, [7])]) := by decide +kernel

theorem witness_Counters :
    (let d := live []
     let w (f : Fld) (v : Nat) : Nat := (f.set 0 v).toNat
     d.mayWrite 0 (Reg.pmuCntCfg 142 7) = true ∧ d.mayWrite 0 (Reg.pmuBankCtl 142) = true ∧
       pmuDefined 142 (F.pmuCntCfg_event.get (BitVec.ofNat 32 0)) = true ∧
       pmuDefined 142 (F.pmuCntCfg_event.get (BitVec.ofNat 32 (w F.pmuCntCfg_event 0x3FF))) = false ∧
       d.mayWrite 0 (Reg.pmuCntCfg 0 0) = true ∧ F.pmuCntCfg_flowEn.get (F.pmuCntCfg_flowEn.set 0 1) = 1 ∧
       d.owner 4 0 = d.owner 0x0F 0 ∧
       F.pmuBankCtl_clear.get (BitVec.ofNat 32 (w F.pmuBankCtl_clear 1)) = 1 ∧
       F.pmuBankCtl_preset.get (BitVec.ofNat 32 (w F.pmuBankCtl_preset 1)) = 1) ∧
    ((live []).now % 8000 = 0 ∧ (live []).sees 0 (Reg.pmuCntLo 142 7) = true ∧
      ¬(0 = 0 ∧ (live []).houseBarred (Reg.pmuCntLo 142 7) = true)) := by decide +kernel

theorem witness_ChecksAndBench :
    (let d := live []
     (∀ off ∈ [0x00, 0x04, 0x08, 0x0C, 0x10, 0x14, 0x18, 0x1C], d.mayWrite 0 (Reg.chkCfg 31 + off) = true) ∧
       (d.chkUnit 31).queue.length < 16 ∧ d.sees 0 (Reg.chkResult 31) = true ∧ ¬(0 = 0 ∧ d.houseBarred (Reg.chkResult 31) = true)) ∧
    (let d : Dev := { live [] with chk := [(31, ⟨0, 0, [(0x1C, 4, 0xFFFFFFFF)]⟩)] }
     (d.chkUnit 31).queue = [(0x1C, 4, 0xFFFFFFFF)]) ∧
    (let d := live []
     d.mayWrite 0 Reg.rplCtl = true ∧
       F.rplCtl_replay.get (BitVec.ofNat 32 (F.rplCtl_replay.set 0 1).toNat) ≠ d.fld Reg.rplCtl F.rplCtl_replay ∧
       d.benchIdle = true ∧ d.mayWrite 0 Reg.rplStep = true) ∧
    (live [(Reg.portGroupCfg 0, F.portGroupCfg_enable.set 0 1)]).benchIdle = false := by decide +kernel

/-- Lane 63 in a state, its group in QUAD with MAC instance 63 enabled, with a snapshot or none. -/
def laneDev (state : Nat) (x : LaneDyn) : Dev :=
  let d := live [(Reg.portGroupCfg 15, F.portGroupCfg_mode.set (F.portGroupCfg_enable.set 0 1) 1),
                 (Reg.portMacCtl 63, F.portMacCtl_enable.set 0 1), (Reg.laneStatus 63, F.laneStatus_state.set 0 state)]
  { d with lan := { d.lan with lanes := [(63, x)] } }

theorem witness_LanesStart :
    (laneDev 3 { snap := some 5 }).laneState 63 = 3 ∧ (laneDev 4 { lost := some 0 }).laneState 63 = 4 ∧
      ((laneDev 4 { lost := some 0 }).lane 63).lost.isSome = true ∧
      (∀ n ∈ [1, 2, 4], (laneDev n {}).laneState 63 ∈ [1, 2, 4]) ∧
      (laneDev 3 {}).canUp (4 * 15 + 3) = true ∧ (laneDev 3 {}).negotiates 63 = false ∧
    (let d := (laneDev 2 {}).setFld (Reg.portGroupCfg 15) F.portGroupCfg_an 1
     d.laneOn 63 = true ∧ d.negotiates 63 = true ∧ d.groupMode 15 = 1) ∧
    (let d := (laneDev 2 {}).setFld (Reg.portGroupCfg 15) F.portGroupCfg_mode 0
     let d := d.setFld (Reg.portGroupCfg 15) F.portGroupCfg_an 1
     d.laneOn (4 * 15 + 0) = true ∧ d.negotiates (4 * 15 + 0) = true) ∧
    (laneDev 3 {}).mayWrite 0 (Reg.laneCtl 63) = true ∧
      F.laneCtl_adapt.get (BitVec.ofNat 32 (F.laneCtl_adapt.set 0 2).toNat) = 2 ∧ (laneDev 3 {}).laneOn 63 = true ∧
      (laneDev 3 {}).groupMode (63 / 4) ≠ 2 := by decide +kernel

theorem witness_LanesSample :
    (laneDev 2 {}).laneState 63 ≠ 3 ∧
    (∀ p ∈ [(1, 0), (0, 1)],
      let d := (((laneDev 3 { snap := some 5 }).setFld (Reg.laneStatus 63) F.laneStatus_frozen p.1).setFld (Reg.laneCtl 63)
        F.laneCtl_adapt p.2).setFld (Reg.laneGuard 63) F.laneGuard_marginMin 20
      d.laneState 63 = 3 ∧
        (d.flag (Reg.laneStatus 63) F.laneStatus_frozen = true ∨ d.fld (Reg.laneCtl 63) F.laneCtl_adapt = 1) ∧
        19 < d.fld (Reg.laneGuard 63) F.laneGuard_marginMin ∧ (d.lane 63).snap = some 5 ∧ d.revertBarred 63 = false) ∧
    (let d := (laneDev 3 { run := 999 }).setFld (Reg.laneCtl 63) F.laneCtl_adapt 0
     d.laneState 63 = 3 ∧ d.flag (Reg.laneStatus 63) F.laneStatus_frozen = false ∧ d.fld (Reg.laneCtl 63) F.laneCtl_adapt = 0 ∧
       (d.lane 63).run = 999 ∧ (d.lane 63).snap = none) ∧
    (let d := laneDev 3 { run := 999, snap := some 5 }
     (d.lane 63).run = 999 ∧ d.fld (Reg.laneStatus 63) F.laneStatus_snapMargin ≤ min 255 255) ∧
    ((live []).mayWrite 0 Reg.laneSnapCtl = true ∧ 1 % 2 = 1 ∧ (live []).flag Reg.laneSnapCtl F.laneSnapCtl_save = false) ∧
    (let d := (laneDev 5 {}).setFld (Reg.portGroupCfg 15) F.portGroupCfg_mode 2
     let d := d.setFld (Reg.laneTest 63) F.laneTest_chk 1
     let w := F.laneTest_injParam.set (F.laneTest_inj.set (F.laneTest_injGo.set 0 1) 3) 40
     d.mayWrite 0 (Reg.laneTest 63) = true ∧ d.groupMode (63 / 4) = 2 ∧ F.laneTest_injGo.get w = 1 ∧ F.laneTest_inj.get w = 3 ∧
       4 ≤ F.laneTest_injParam.get w ∧ F.laneTest_injParam.get w ≤ 40 ∧ d.laneState 63 = 5 ∧
       d.fld (Reg.laneTest 63) F.laneTest_chk ≠ 0 ∧ d.laneHears 63 = none ∧
       (((d.setFld (Reg.laneCtl 63) F.laneCtl_loopback 1).setFld (Reg.laneTest 63) F.laneTest_gen 1).laneHears 63 = some 1)) ∧
    (let w (inj n : Nat) : Word := F.laneTest_injParam.set (F.laneTest_inj.set (F.laneTest_injGo.set 0 1) inj) n
     (F.laneTest_inj.get (w 1 1) = 1 ∧ F.laneTest_inj.get (w 2 1) = 2 ∧ 1 ≤ F.laneTest_injParam.get (w 2 1)) ∧
       F.laneTest_inj.get (w 0 0) = 0 ∧ F.laneTest_injGo.get (0 : Word) = 0) ∧
    (live [(Reg.laneChkErr 63, F.laneChkErr_chkLock.set 0 1)]).flag (Reg.laneChkErr 63) F.laneChkErr_chkLock = true ∧
    (live []).sees 0 (Reg.portMacCntLo 63 10) = true := by decide +kernel

/-- A device with the link of MAC instance 63 up. -/
def upDev : Dev := live [(Reg.portMacStatus 63, F.portMacStatus_link.set 0 1), (Reg.portMacCtl 63, F.portMacCtl_maxFrame.set 0 1518)]

/-- A frame of 64 bytes to a group address. -/
def frame0 (bytes : Nat) (fcsOk : Bool) (body : FrameBody) : EthFrame := ⟨bytes, fcsOk, 2 ^ 40, 0, none, none, body⟩

theorem witness_Traffic :
    (let d := upDev
     d.inReset 4 = false ∧ d.linkUp 63 = true ∧ (frame0 64 false .other).fcsOk = false ∧ (frame0 63 true .other).bytes < 64 ∧
       d.fld (Reg.portMacCtl 63) F.portMacCtl_maxFrame + 4 * bit (frame0 1519 true .other).tag.isSome < (frame0 1519 true .other).bytes ∧
       64 ≤ (frame0 1518 true .other).bytes ∧ (frame0 1518 true .other).bytes ≤ d.fld (Reg.portMacCtl 63) F.portMacCtl_maxFrame ∧
       (frame0 64 true .other).tag = none ∧ d.accepts 63 (frame0 64 true .other).da = true ∧
       d.classify 63 (frame0 64 true .other) 4 1 2 5000 = none ∧ d.flag (Reg.portMacsecCfg 63) F.portMacsecCfg_enable = false ∧
       (d.setFld (Reg.portMacCtl 63) F.portMacCtl_pauseRx 1).flag (Reg.portMacCtl 63) F.portMacCtl_pauseRx = true) ∧
    (let e : MergeKey := ⟨100, 0, 0, 0, false⟩
     let m : MergeDyn := ⟨100, [e], 0, 0, 0, 0, 0⟩
     let d := live []
     let d : Dev := { d with stk := { d.stk with stroke := 8 }, pth := { d.pth with merges := [(7, some m)] } }
     e ∈ (d.merge 7).keys ∧ e.path ≠ 2 ∧ 99 < e.key ∧ e.at_ + d.window 7 < (d.now + 1) * 125000 ∧
       (∀ k ∈ (d.merge 7).keys, k.key ≠ 99) ∧ unwrapKey 16 100 99 = 99 ∧
       d.fld (Reg.pathFlowCfg 7) F.pathFlowCfg_single ≠ 2 - 63 / 32) ∧
    (let d := upDev
     let x : LiveFrame := ⟨5000, 5000, 9, 0, 84, 64, false, 0, false, []⟩
     let d : Dev := { d with egs := { d.egs with layout := [(63, [x])] } }
     Tab.get noList d.egs.layout 63 = x :: [] ∧ d.linkUp 63 = true ∧ d.isPaused 63 (d.localNs 5) = false ∧
       x.start ≤ 5 * 1000 + 999 ∧ Tab.get zero d.egs.busy 63 ≤ d.localNs 5 * 1000 + 999 ∧
       d.flag (Reg.portMacsecCfg 63) F.portMacsecCfg_enable = false) ∧
    (let d := upDev
     let d : Dev := { d with egs := { d.egs with control := [(63, [(60, none, [])])] }, lan := { d.lan with upFrom := [(63, 1)] } }
     Tab.get noList d.egs.control 63 = (60, none, []) :: [] ∧ d.takesEgress 63 = true ∧ d.isPaused 63 (d.localNs 5) = false ∧
       Tab.get zero d.egs.busy 63 ≤ d.localNs 5 * 1000 ∧ (d.gates 63).active = none ∧ Tab.get noList d.egs.layout 63 = [] ∧
       0 ≤ d.bucketLevel 63 (d.localNs 5) ∧
       0 ≤ d.bucketLevel (64 + 8 * 63 + d.fld (Reg.egsPortCfg 63) F.egsPortCfg_ctrlTc) (d.localNs 5) ∧
       countedLength d.reg 63 60 * d.byteTime 63 ≤ 2 ^ 40 * 1000) ∧
    (let l : GateList := ⟨[(1, 50000), (255, 75000)], 0⟩
     let d := live []
     let d : Dev := { d with egs := { d.egs with gates := [(63, some ⟨some l, 1, 125000 - 1, some (l, 0)⟩)] } }
     (d.gates 63).active = some l ∧ (d.gates 63).ends < (d.now + 1) * 125000 ∧ (d.gates 63).pending = some (l, 0) ∧
       0 < (d.now + 1) * 125000 ∧ l.base ≤ 0 ∧ (0 - l.base) % l.cycle = 0 ∧ l.entries = (1, 50000) :: [(255, 75000)] ∧ 0 < 50000) ∧
    ((commitDev false 0).mayWrite 0 Reg.egsClsCfg = true ∧ (commitDev false 0).stk.banks ≠ []) := by decide +kernel

theorem witness_LocalClock :
    (let d := live []
     d.mayWrite 0 Reg.timeAdj = true ∧ bitAt 0x80000000 31 = true ∧ d.basicServo = true ∧ d.live = false ∧
       (live [(Reg.stkStatus, F.stkStatus_live.set 0 1)]).live = true) ∧
    (let d := live [(Reg.timeCtl, F.timeCtl_tcompEn.set (F.timeCtl_servo.set 0 1) 1)]
     d.basicServo = false ∧ d.mayWrite 0 Reg.timeIncInt = true ∧ d.mayWrite 0 Reg.timeIncFrac = true ∧
       d.flag Reg.timeCtl F.timeCtl_tcompEn = true ∧
       ∀ n ∈ [0xEC0, 0x3AC],
         let e := d.setFld (Reg.thmTs (d.fld Reg.timeTcompCfg F.timeTcompCfg_tsSensor)) F.thmTs_temp n
         let x := signed 12 (e.fld (Reg.thmTs (e.fld Reg.timeTcompCfg F.timeTcompCfg_tsSensor)) F.thmTs_temp) + 320
         0 ≤ x ∧ x ≤ 1260) ∧
    (let d := live [(Reg.timePpsCfg, F.timePpsCfg_outEn.set 0 1), (Reg.timeInCfg 4, F.timeInCfg_edge.set 0 3)]
     let d : Dev := { d with tim := { d.tim with outs := [(7, ⟨some 3, true, 5⟩), (8, ⟨none, true, 124999⟩)],
                                                 caps := [(0, List.replicate 16 (5, false)), (4, [(7, true)])] } }
     d.outEdge 7 3 < (d.now + 1) * 125000 ∧ (d.timeOut 8).ends < (d.now + 1) * 125000 ∧ d.now % 8000 = 0 ∧ (d.timeOut 7).next = some 3 ∧ (d.timeOut 7).high = true ∧ (d.timeOut 8).high = true ∧
       d.flag Reg.timePpsCfg F.timePpsCfg_outEn = true ∧ d.inReset 2 = false ∧
       (∀ f ∈ [false, true], bitAt (d.fld (Reg.timeInCfg 4) F.timeInCfg_edge) (bit f) = true) ∧
       d.fld Reg.timeCtl F.timeCtl_source ≠ 1 ∧ (d.captures 4).length < 16 ∧ ¬(d.captures 0).length < 16 ∧
       d.sees 0 (Reg.timeInNs 4) = true ∧ d.captures 4 = (7, true) :: [] ∧ d.captures 1 = [] ∧ d.sees 0 Reg.timeNowNs = true) := by
  decide +kernel

/-- A device whose ports 0 and 32 carry the two sides of the clock protocol, with what its sides know. -/
def ptpDev (now : Nat) (sides : Tab Side) (l : List (Nat × Word)) : Dev :=
  let d := live ([(Reg.pathPtpCfg, F.pathPtpCfg_standbyEn.set (F.pathPtpCfg_enable.set 0 1) 1),
    (Reg.portMacStatus 0, F.portMacStatus_link.set 0 1), (Reg.portMacStatus 32, F.portMacStatus_link.set 0 1),
    (Reg.portMacStatus 5, F.portMacStatus_link.set 0 1)] ++ l)
  { d with stk := { d.stk with stroke := now }, pth := { d.pth with sides := sides } }

/-- A side that is healthy, of a grandmaster. -/
def side0 (gm : Nat) : Side := { announce := true, sync := true, delay := true, gm := gm }

/-- A side that follows the master of port 9. -/
def side9 : Side := { announce := true, sync := true, delay := true, gm := 0, best := some 9 }

/-- R401: a master of priority 1 below another's is the better one, once two of its Announces have come; the first of a master that is new does
not choose it. -/
theorem test_bestMaster :
    let a : Announce := ⟨7, 128, 6, 33, 0, 128, 0, 256, some 37, false⟩
    let b : Announce := ⟨8, 127, 248, 254, 65535, 128, 3, 256, none, false⟩
    let x : Side := ((side9.hear 0 9 a).hear 0 9 a).choose 0
    let y : Side := (x.hear 0 4 b).choose 0
    let z : Side := (y.hear 0 4 b).choose 0
    x.best = some 9 ∧ x.gm = 7 ∧ y.best = some 9 ∧ z.best = some 4 ∧ z.gm = 8 := by decide +kernel

theorem witness_TwoPaths :
    (let d := ptpDev 0 [(0, side9)] []
     (d.side d.activeSide).best = some 9 ∧ d.linkUp 5 = true ∧ (∀ i < 2, ¬(d.sideMac i = 5 ∧ d.sideUsed i = true)) ∧ d.ptpRuns = true ∧
       d.linkUp (d.sideMac d.activeSide) = true ∧ (d.side d.activeSide).gm = d.gmLocked ∧
       (∀ i < 2, d.sideUsed i = true ∧ d.linkUp (d.sideMac i) = true) ∧ d.flag Reg.timeCtl F.timeCtl_mech = false) ∧
    (let d := ptpDev 0 [(1, side0 0)] []
     d.ptpRuns = true ∧ d.healthy d.activeSide = false ∧ d.healthy (1 - d.activeSide) = true ∧
       (d.side (1 - d.activeSide)).gm = d.gmLocked) ∧
    (let d := ptpDev 100000000 [(0, side0 (2 ^ 64 - 1))] [(Reg.pathPtpStatus, F.pathPtpStatus_onB.set 0 1)]
     let d : Dev := { d with pth := { d.pth with wait := some 0 } }
     d.pth.wait = some 0 ∧ d.ptpRuns = true ∧ 0 + 8000 * d.wtr ≤ d.now ∧ d.healthy d.prefer = true ∧ (d.side d.prefer).gm < 2 ^ 64 ∧
       d.gmSettled = true) ∧
    (let d := ptpDev 0 [(0, side0 1), (1, side0 2)] []
     d.ptpRuns = true ∧ d.partitioned = false ∧ d.healthy 0 = true ∧ d.healthy 1 = true ∧ (d.side 0).gm ≠ (d.side 1).gm ∧
       d.gmSettled = true ∧ d.healthy (1 - d.activeSide) = true ∧ (d.side (1 - d.activeSide)).gm < 2 ^ 64 ∧
       ∀ j < 2, d.healthy j = true → (d.side j).gm ≠ d.gmLocked) ∧
    (let d := ptpDev 0 [(0, side0 1)] []
     d.healthy (1 - d.activeSide) = false ∧ d.healthy d.activeSide = true ∧ ∀ j < 2, d.healthy j = true → (d.side j).gm ≠ d.gmLocked) ∧
    (let d := ptpDev 0 [(0, side0 1), (1, side0 1)] [(Reg.pathPtpStatus, F.pathPtpStatus_partition.set 0 1)]
     d.partitioned = true ∧ (d.side 0).gm = (d.side 1).gm) ∧
    (let d := ptpDev 0 [] [(Reg.stkStatus, F.stkStatus_sync.set 0 1)]
     d.sync = 1 ∧ d.fld Reg.timeCtl F.timeCtl_source = 0 ∧ d.healthy 0 = false ∧ d.healthy 1 = false ∧ d.replay = false) ∧
    (let d := ptpDev 8000 [] [(Reg.portMacCtl 63, F.portMacCtl_enable.set 0 1)]
     let d : Dev := { d with pth := { d.pth with merges := [(7, some ⟨5, [], 0, 0, 0, 0, 0⟩), (4095, some ⟨5, [], 0, 0, 0, 0, 0⟩)] } }
     d.now % 8000 = 0 ∧ d.inReset 4 = false ∧ d.flag (Reg.portMacCtl 63) F.portMacCtl_enable = true ∧
       (∀ p ∈ d.pth.merges, p.1 < 4096) ∧ (d.pth.merges.map (·.1)).Nodup) := by decide +kernel

/-- A device with region 7 of Crew 5 over all of pseudo-channel 127, that pseudo-channel in a state. -/
def hbmDev (state : Nat) (l : List (Nat × Word)) : Dev :=
  live ([(Reg.memRegionCfg 7, F.memRegionCfg_pcLen.set (F.memRegionCfg_crew.set (F.memRegionCfg_enable.set 0 1) 5) 511),
    (Reg.memRegionMask 7 3, 0x80000000#32), (Reg.memPcStatus 127, F.memPcStatus_state.set 0 state)] ++ l)

/-- The same with what pseudo-channel 127 holds. -/
def pcDev (state : Nat) (x : PcDyn) (l : List (Nat × Word)) : Dev :=
  let d := hbmDev state l
  { d with hbm := { d.hbm with pcs := [(127, x)] } }

theorem witness_HbmRequests :
    (let d := hbmDev 0 []
     d.inReset 3 = false ∧ d.pcState 127 = 0 ∧ d.regionCrew 127 (2 ^ 20) = 5 ∧ d.regionCrew 127 (2 ^ 29 - 1) ≠ 5 ∧
       2 ^ 29 - 1 + max 1 (Option.getD (none : Option (List Nat)) []).length ≤ 2 ^ 29 ∧ 2 ^ 20 % 32 + (List.replicate 32 255).length ≤ 32 ∧
       (d.pc 127).queue.length ≤ 63 ∧ (∀ w ∈ (d.pc 127).queue, w.1 / 32 ≠ 2 ^ 20 / 32) ∧
       d.checkDiff 127 (2 ^ 20 / 32 * 32) = 0 ∧ d.checkDiff 127 (2 ^ 20 / 32 * 32 + 16) = 0 ∧ d.frozeLately 127 9 = false ∧
       d.flag (Reg.memSnapInfo 0) F.memSnapInfo_valid = false) ∧
    (let w : Nat × List Nat := (2 ^ 20, List.replicate 32 7)
     let d := pcDev 0 { queue := [w] } []
     ((d.pc 127).queue.filter fun w => w.1 / 32 = 2 ^ 20 / 32).getLast? = some w ∧ w.2.length = 32) ∧
    (hbmDev 1 []).pcState 127 = 1 ∧
    (pcDev 0 { froze := [(9, 0)] } []).frozeLately 127 9 = true ∧
    (let d := pcDev 0 { parity := [0, 0, 0] } []
     3 ≤ ((d.pc 127).parity.filter fun u => decide (d.localNs 124999 < u + 1000000)).length) ∧
    (let d := pcDev 1 { waiting := [⟨5, 2 ^ 20, none, 0⟩], failing := some (9, 5) } [(Reg.memCfg, F.memCfg_freezeMode.set 0 1)]
     let w := F.memThaw_pc.set (F.memThaw_go.set 0 1) 127
     d.pcState 127 = 1 ∧ d.flag Reg.memCfg F.memCfg_freezeMode = true ∧ d.mayWrite 0 Reg.memThaw = true ∧
       F.memThaw_go.get (BitVec.ofNat 32 w.toNat) = 1 ∧ F.memThaw_pc.get (BitVec.ofNat 32 w.toNat) = 127) ∧
    (hbmDev 1 []).flag Reg.memCfg F.memCfg_freezeMode = false ∧
    (hbmDev 0 []).pcState 127 ≤ 1 ∧ (hbmDev 1 []).pcState 127 ≤ 1 ∧
    (let d := hbmDev 0 []
     let d : Dev := { d with hbm := { d.hbm with check := [(granuleKey 127 (2 ^ 20), 1)] } }
     d.fld Reg.memCfg F.memCfg_scrubHours ≠ 0 ∧ d.regionOf 127 (2 ^ 15 * 32) ≠ none ∧
       decodeGranule ([], d) 127 (2 ^ 15 * 32) = (List.replicate 16 0, .symbol 32 1) ∧ d.checkDiff 127 (2 ^ 15 * 32 + 16) = 0) ∧
    ((live []).mayWrite 0 Reg.memTrainCtl = true ∧ bitAt 0x80000000 31 = true ∧
      (live []).flag Reg.memTrainCtl F.memTrainCtl_save = false) := by decide +kernel

theorem witness_ThermalAndStore :
    ((live []).inReset 0 = false ∧ (live []).replay = false ∧ (live []).thm.episode = none ∧ (-440 : Int) ≤ 1200) ∧
    (let d := live [(Reg.thmLimits, F.thmLimits_throttle.set 0 95), (Reg.thmStatus, F.thmStatus_tmax.set 0 800),
                    (Reg.thmCfg, F.thmCfg_maxStep.set 0 8)]
     d.threshold 2 ≤ d.tmax ∧ 8 * d.fld Reg.thmCfg F.thmCfg_upMs ≤ d.now - d.thm.changed ∧
       d.fld Reg.thmStatus F.thmStatus_step < d.fld Reg.thmCfg F.thmCfg_maxStep) ∧
    (let d := live [(Reg.thmSupply, F.thmSupply_belowWarn.set 0 1024)]
     let d : Dev := { d with thm := { d.thm with episode := some (0, 1024, [(10, 5)]) } }
     d.fld Reg.thmSupply F.thmSupply_belowWarn = 2 ^ 10 ∧ d.thm.episode = some (0, 1024, [(10, 5)])) ∧
    (let d := live [(Reg.thmSupply, F.thmSupply_hold.set 0 1)]
     d.nvmHeld = true ∧ d.thm.episode = none) ∧
    (let r : NvmRec := ⟨0, 1, 0, 0, []⟩
     let d := live []
     let d : Dev := { d with nvm := { d.nvm with queue := [r] } }
     d.sec.order = none ∧ d.nvm.queue = r :: [] ∧ d.nvmHeld = false ∧ d.slotErased (ringSlot 32 48 d.nvm.logSeq) = true) ∧
    (let d := live [(Reg.nvmStatus, 0)]
     let d : Dev := { d with nvm := { d.nvm with erasing := [255], dirty := [255] } }
     255 ∈ d.nvm.erasing ∧ d.fld Reg.nvmStatus F.nvmStatus_spares = 0) ∧
    (live []).nvm.summaries = [] := by decide +kernel

theorem witness_ResetsReach :
    ((live []).regs.map (·.1)).Nodup ∧ bitAt (live []).perstReach 6 = true ∧
    (live [(Reg.secStatus, F.secStatus_debug.set 0 2)]).fld Reg.secStatus F.secStatus_debug = 2 ∧
    (let d := live [(Reg.thmLimits, F.thmLimits_shutdown.set 0 10), (Reg.thmTs 63, F.thmTs_valid.set (F.thmTs_temp.set 0 900) 1)]
     d.inReset 0 = false ∧ d.thm.thermtrip = false ∧ d.threshold 4 ≤ d.sourceTemp 63 ∧ d.sensorValid 63 = true ∧
       1 ∉ d.nvm.worn) := by decide +kernel

theorem witness_ResetsEnd :
    (let d := live []
     let d : Dev := { d with hif := { d.hif with numVfs := 16 } }
     16 ≤ d.hif.numVfs ∧ 15 < d.hif.numVfs ∧ d.inReset 6 = false ∧
       (d.setFld (Reg.secCrewPolicy 16) F.secCrewPolicy_hostPersist 0).flag (Reg.secCrewPolicy 16) F.secCrewPolicy_hostPersist = false ∧
       d.flag (Reg.secCrewPolicy 16) F.secCrewPolicy_hostPersist = true) ∧
    (let d := live []
     let d : Dev := { d with hif := { d.hif with releasing := [16] } }
     d.hif.releasing.contains 16 = true) ∧
    (State.reset.dev.releasable 0 = true ∧
      ∀ k < 7, (live [(Reg.rstStatus, F.rstStatus_inReset.set 0 (2 ^ k)), (Reg.rstSrcActive, 0)]).releasable k = true) ∧
    (let d := live [(Reg.rstBlock 3, F.rstBlock_assert.set 0 1)]
     (live []).mayWrite 0 (Reg.rstBlock 3) = true ∧ (live []).flag (Reg.rstBlock 3) F.rstBlock_assert = false ∧
       (∀ cls ∈ [1, 2, 3, 4, 5, 6, 7], 0x80000000 + cls * 65536 + (blockCount cls - 1) % 32 < 2 ^ 32 ∧
         (0x80000000 + cls * 65536 + (blockCount cls - 1)) / 65536 % 8 = cls ∧
         (0x80000000 + cls * 65536 + (blockCount cls - 1)) % 32 < blockCount cls) ∧
       d.mayWrite 0 (Reg.rstBlock 3) = true ∧ bitAt 0 31 = false ∧ d.flag (Reg.rstBlock 3) F.rstBlock_assert = true) ∧
    (let d := live [fwOn, (Reg.rstWdt, F.rstWdt_enable.set 0 1)]
     d.fwRuns = true ∧ d.flag Reg.rstWdt F.rstWdt_enable = true) ∧
    (let x := desc 0xF1 0 [0, 0, 4096]
     let d := live [fwOn]
     let d : Dev := { d with rst := { d.rst with fwLoad := some x } }
     d.secReset = false ∧ d.rst.fwLoad = some x ∧ d.fld Reg.secFw F.secFw_fwFloor ≤ 0 ∧ d.fld Reg.rstStatus F.rstStatus_fw ≠ 3 ∧
       d.inReset 5 = false ∧ d.blockHeld 7 0 = false) ∧
    (let d := live [(Reg.rstStatus, F.rstStatus_fw.set 0 3)]
     let d : Dev := { d with rst := { d.rst with image := some 1 } }
     d.fld Reg.rstStatus F.rstStatus_fw = 3 ∧ d.inReset 5 = false ∧ d.blockHeld 7 0 = false ∧ d.rst.image = some 1) ∧
    ((live []).mayWrite 0 Reg.rstObEdit = true ∧ bitAt 0x80000900 31 = true ∧ editable (0x80000900 / 256 % 256) = true ∧
      editable (0x8000FC00 / 256 % 256) = false ∧ optionGen (live []).rst.inForce ≠ 0xFFFFFFFF) := by decide +kernel


/-! ## Pixel arithmetic -/

/-- R261: 0.6274 and −0.0012 in units of 1/16,384 round to 10,279 and −20. -/
theorem test_gamut_preset :
    (Dev.reset.gamutOf 1 0).headD 0 = 10279 ∧ (Dev.reset.gamutOf 2 0).getD 6 0 = -20 := by decide +kernel

/-- R265: with DEPTH 10 and no dither, 0x7FFF + 32 gives 0x200. -/
theorem test_dither_none : Dev.reset.dither 0 0 0 0 [] 0x7FFF = 0x200 := by decide +kernel

theorem witness_PixelArithmetic :
    (0x80000 : Nat) < 2 ^ 20 ∧ (0xFFFFF : Nat) < 2 ^ 20 ∧ (0 : Nat) < 2 ^ 20 ∧ (1 = 1 ∨ 1 = 2) ∧ (2 = 1 ∨ 2 = 2) := by decide +kernel

/-! ## Worked values of the coding chapters -/

/-- Channel 9 of 05_motion_search.md: 8K120 VVC Sprint, CTU 64, eight TILES pieces, the STANDARD search. -/
def chan9 : EncCfg :=
  { encCfg0 with vvc := true, width := 7680, height := 4320, num := 120, division := 1, pieces := 8, meMode := 2, refs := 2, hierH := 512,
                 hierV := 256, winH := 512, winV := 256, winS := 4 }

/-- 05_motion_search.md: UNITS 828 and CUT_UNITS 128, as the schedules are counted, and a record of 9,664 bytes. -/
theorem test_searchUnits :
    chan9.fullSearch.units chan9.ctu = 828 ∧ chan9.cutSearch.units chan9.ctu = 128 ∧ chan9.statBytes 0 true = 9664 := by decide +kernel

/-- Channel 20 of 06_rate_control.md: HEVC 720p50 Sprint at 9,000 kbit/s. -/
def chan20 : EncCfg := { encCfg0 with width := 1280, height := 720, num := 50, rate := 9000, division := 1 }

/-- 06_rate_control.md: slots of 2,000 and 500 bytes, TICK_DIV 45, 4 sub-ticks and 1, initial removal delay 160, a CPB of 16,112 bits. -/
theorem test_rateTrace :
    chan20.slot 0 = 2000 ∧ chan20.slot 10 = 500 ∧ chan20.tickDiv = 45 ∧ chan20.slotTicks 0 = 4 ∧ chan20.slotTicks 10 = 1 ∧
      chan20.removalDelay = 160 ∧ chan20.cpb = 16112 := by decide +kernel

/-- R145: drop-frame counting at 60000/1001 skips the first four numbers of minute 1 and none of minute 10. -/
theorem test_dropFrame :
    timeLabel 60000 1001 3599 = (0, 0, 59, 59) ∧ timeLabel 60000 1001 3600 = (0, 1, 0, 4) ∧ timeLabel 60000 1001 35964 = (0, 10, 0, 0) ∧
      nextTimeCode 60000 1001 (0, 0, 59, 59) = (0, 1, 0, 4) := by decide +kernel

/-- R176: of positions with one SAD the shorter vector ranks first, then the lower dy, then the lower dx. -/
theorem test_ranking :
    bestOf 3 (fun _ => 7) [(1, 0), (0, 1), (-1, 0), (0, -1), (2, 2)] = [(0, -1), (-1, 0), (1, 0)] := by decide +kernel

/-- R18: a target is read within 2^31 Strokes of now; one that would fall before Stroke 0 is past. -/
theorem test_targets :
    strokeOf 5 (2 ^ 32 - 1) = 0 ∧ strokeOf (2 ^ 32 + 5) (2 ^ 32 - 1) = 2 ^ 32 - 1 ∧ strokeOf (2 ^ 32 - 1) 3 = 2 ^ 32 + 3 := by decide +kernel

/-! ## The rest of the witnesses of OwnEffects: those whose premises no other witness meets together -/

theorem witness_OwnEffects :
    (let d := pcDev 1 { failing := some (9, 5) } [(Reg.memCfg, F.memCfg_freezeMode.set 0 1)]
     d.pcState 127 = 1 ∧ (d.pc 127).waiting = [] ∧ d.flag Reg.memCfg F.memCfg_freezeMode = true) ∧
    (let d := pcDev 1 { failing := some (9, 5) } []
     d.pcState 127 = 1 ∧ (d.pc 127).waiting = [] ∧ d.flag Reg.memCfg F.memCfg_freezeMode = false) ∧
    ((hbmDev 0 []).pcState 127 = 0 ∧ Tab.get zero ((hbmDev 0 []).pc 127).centre 0 < (200 + 200) / 2) ∧
    ((live []).nvmHeld = false ∧ (live []).optionSource = 0 ∧ optionGen (live []).rst.inForce ≠ 0xFFFFFFFF ∧
      bitAt 0xC0000000 31 = true ∧ bitAt 0xC0000000 30 = true ∧ (live []).live = false ∧ (live [(Reg.timeCtl, 0)]).flag Reg.timeCtl F.timeCtl_tcompEn = false) ∧
    (let d := ptpDev 100000000 [(0, side0 0)] [(Reg.pathPtpStatus, F.pathPtpStatus_onB.set 0 1)]
     let d : Dev := { d with pth := { d.pth with wait := some 0 } }
     d.healthy d.prefer = true ∧ (d.side d.prefer).gm = d.gmLocked ∧ d.gmLocked < 2 ^ 64) ∧
    (ptpDev 8000 [] []).linkUp 63 = false := by decide +kernel

/-- R306: halfway down a linear ramp of 1 ms half of a sample's way is left, and none after its end (hand calculation at 48 kHz: Stroke 104
begins with sample 624, four Strokes after the start). -/
theorem test_ramp_half :
    let p : Play := ⟨0, 0, 104, 624, 48000, 0, 0, [9], [0]⟩
    (Ramp.gain ⟨false, 100⟩ p 624, Ramp.gain ⟨false, 96⟩ p 624, Ramp.gain ⟨true, 103⟩ p 624) = (4 * 48000, 0, 48000) ∧
      ramped p 624 (some ⟨false, 96⟩) 9 = 0 ∧ ramped p 624 (some ⟨true, 96⟩) 9 = 9 := by decide +kernel

end Sys2Proof.Tests
end

section
/-! PROOFS. The scope of the model: accesses of BAR0 (R7, R10), writes of registers by their access codes (R11, R13, R438), and
doorbells (R94, R96, R97). Settles O7, O8, O26 and O39. -/

namespace Sys2Proof.Machine

/-! ## Addresses of an array of registers -/

theorem eq_of_placeIn {a base stride n i : Nat} (h : placeIn a base stride n = some i) : a = base + stride * i ∧ i < n := by
  obtain ⟨⟨hb, hm, hn⟩, hi⟩ := Option.ite_none_right_eq_some.mp h
  obtain rfl := Option.some.inj hi
  have := Nat.div_add_mod (a - base) stride
  exact ⟨by omega, hn⟩

/-- Every word of SEC_ENROL_KEY is a register of the table, at an aligned address of SEC's block. -/
theorem of_enrolKeyAt {a i : Nat} (h : enrolKeyAt a = some i) :
    (regClass? a).isSome = true ∧ a % 4 = 0 ∧ a / 0x100000 = 0xE := by
  have inTable : ∀ i < 24, (regClass? (0xE00380 + 4 * i)).isSome = true := by decide +kernel
  obtain ⟨rfl, hi⟩ := eq_of_placeIn h
  exact ⟨inTable i hi, by omega, by omega⟩

/-! ## Accesses of BAR0 -/

/-- The only offsets at which a write can reach a word of SEC_ENROL_KEY are mapped ones of PF0. -/
theorem Dev.mapped_enrolKey {d : Dev} {off i : Nat} (h : enrolKeyAt off = some i) (hb : d.blockAnswers 0xE00380 = true) :
    d.mapped 0 off = some off := by
  obtain ⟨hr, -, hd⟩ := of_enrolKeyAt h
  have ha : d.blockAnswers off = true := by
    rw [Dev.blockAnswers] at hb ⊢
    rwa [hd]
  simp [Dev.mapped, barAddr, Dev.sees, hr, ha]

theorem Dev.writable_of_mapped_none {d : Dev} {fn off : Nat} (size : Nat) (h : d.mapped fn off = none) :
    d.writable fn off size = none := by
  rw [Dev.mapped, Option.filter_eq_none_iff] at h
  unfold Dev.writable
  split
  · refine Option.filter_eq_none_iff.mpr fun a ha hw => h a ha ?_
    simp only [Dev.mayWrite, Bool.and_eq_true] at hw
    exact hw.1.1
  · rfl

theorem Dev.writable_of_odd (d : Dev) (fn : Nat) {off size : Nat} (h : size ≠ 4 ∨ off % 4 ≠ 0) : d.writable fn off size = none :=
  if_neg (by omega)

theorem Dev.readBar_of_mapped_none {d : Dev} {fn off : Nat} (size : Nat) (h : d.mapped fn off = none) : d.readBar fn off size = 0 := by
  unfold Dev.readBar
  rw [h]
  split <;> rfl

theorem Dev.readBar_of_odd (d : Dev) (fn : Nat) {off size : Nat} (h : size ≠ 4 ∨ off % 4 ≠ 0) : d.readBar fn off size = 0 := if_pos h

theorem registerWrite_enrolKey (x : HbmDev) {fn off i : Nat} (size value : Nat) (h : (barAddr fn off).bind enrolKeyAt = some i) :
    registerWrite x fn off size value =
      if fn = 0 ∧ size = 4 ∧ x.2.blockAnswers 0xE00380 = true then
        (x.1, x.2.onSec fun s => { s with enrolKey := Tab.put zero s.enrolKey i (value % 2 ^ 32) })
      else x := by
  rw [registerWrite, h]

theorem registerWrite_of_writable {x : HbmDev} {fn off size a : Nat} (value : Nat) (hk : (barAddr fn off).bind enrolKeyAt = none)
    (hw : x.2.writable fn off size = some a) : registerWrite x fn off size value = writeReg x fn a (value % 2 ^ 32) := by
  rw [registerWrite, hk, hw]

/-- A write that reaches no register, and no word of SEC_ENROL_KEY either, is discarded. -/
theorem registerWrite_discarded {x : HbmDev} {fn off size : Nat} (value : Nat) (hw : x.2.writable fn off size = none)
    (hk : fn = 0 → size = 4 → x.2.blockAnswers 0xE00380 = true → enrolKeyAt off = none) :
    registerWrite x fn off size value = x := by
  cases he : (barAddr fn off).bind enrolKeyAt with
  | none => rw [registerWrite, he, hw]
  | some i =>
    rw [registerWrite_enrolKey x size value he, if_neg]
    rintro ⟨rfl, h4, hb⟩
    have hn : enrolKeyAt off = none := hk rfl h4 hb
    have hs : enrolKeyAt off = some i := he
    simp [hn] at hs

theorem exec_registerWrite_eq (fn off size value : Nat) (s : State) :
    exec (.registerWrite fn off size value) s = execRegisterWrite fn off size value s := rfl

theorem exec_registerWrite (fn off size value : Nat) (s : State) :
    exec (.registerWrite fn off size value) s =
      .next { s with mem := (registerWrite (s.mem, s.dev) fn off size value).1
                     dev := (registerWrite (s.mem, s.dev) fn off size value).2 } := by
  rw [exec_registerWrite_eq, execRegisterWrite, State.liftMem_eq]

theorem exec_registerWrite_discarded {s : State} {fn off size : Nat} (value : Nat) (hw : s.dev.writable fn off size = none)
    (hk : fn = 0 → size = 4 → s.dev.blockAnswers 0xE00380 = true → enrolKeyAt off = none) :
    exec (.registerWrite fn off size value) s = .next s := by
  rw [exec_registerWrite, registerWrite_discarded (x := (s.mem, s.dev)) value hw hk]

/-- Settles O7: only mapped offsets reach a register, those of SEC_ENROL_KEY, which REGISTER_WRITE takes apart, included. -/
theorem unmappedOffsets : Obligations.UnmappedOffsets := by
  intro s fn off size value h
  refine ⟨Dev.readBar_of_mapped_none size h, exec_registerWrite_discarded value (Dev.writable_of_mapped_none size h) ?_⟩
  rintro rfl - hb
  rw [Option.eq_none_iff_forall_ne_some]
  intro i he
  simp [Dev.mapped_enrolKey he hb] at h

/-- Settles O8: no register, and no word of SEC_ENROL_KEY, lies at an odd access. -/
theorem oddAccesses : Obligations.OddAccesses := by
  intro s fn off size value h
  refine ⟨Dev.readBar_of_odd s.dev fn h, exec_registerWrite_discarded value (Dev.writable_of_odd s.dev fn h) ?_⟩
  rintro - h4 -
  rw [Option.eq_none_iff_forall_ne_some]
  intro i he
  obtain ⟨-, ha, -⟩ := of_enrolKeyAt he
  omega

/-! ## Masks of access codes -/

theorem RegClass.maskOf_congr {c : RegClass} {p q : Access → Bool} (h : ∀ f ∈ c.fields, p f.acc = q f.acc) :
    c.maskOf p = c.maskOf q := by
  unfold RegClass.maskOf
  revert h
  induction c.fields with
  | nil => exact fun _ => rfl
  | cons f l ih =>
    intro h
    rw [List.forall_mem_cons] at h
    rw [sumBy_cons, sumBy_cons, h.1, ih h.2]

/-- No bit carries an access code that no field has. -/
theorem RegClass.maskOf_eq_zero {c : RegClass} {p : Access → Bool} (h : ∀ f ∈ c.fields, p f.acc = false) : c.maskOf p = 0 := by
  unfold RegClass.maskOf
  revert h
  induction c.fields with
  | nil => exact fun _ => rfl
  | cons f l ih =>
    intro h
    rw [List.forall_mem_cons] at h
    rw [sumBy_cons, h.1, ih h.2]
    rfl

theorem rcMask_of_regClass {a : Nat} {c : RegClass} {ix : List Nat} (h : regClass? a = some (c, ix)) :
    rcMask a = BitVec.ofNat 32 (c.maskOf fun x => x == .rc) := by
  rw [rcMask, h]

/-- The merged word holds the new bits under its mask. -/
theorem mergeWord_and_mask (m new old : Word) : mergeWord m new old &&& m = new &&& m := by
  ext i
  simp only [mergeWord, BitVec.getElem_and, BitVec.getElem_or, BitVec.getElem_not]
  cases m[i] <;> simp

theorem and_mergeWord (m new old : Word) : mergeWord m (new &&& m) old = mergeWord m new old := by
  rw [mergeWord, BitVec.and_assoc, BitVec.and_self, mergeWord]

/-! ## Staged registers -/

theorem fnKey_ne {fn a g b : Nat} (ha : a < 2 ^ 32) (hb : b < 2 ^ 32) (h : ¬(g = fn ∧ b = a)) : fnKey g b ≠ fnKey fn a := by
  unfold fnKey
  omega

/-- What is staged is read back. -/
theorem Dev.stagedReg_stage_same (d : Dev) (fn a : Nat) (w : Word) :
    (d.stage fn a w).stagedReg fn a &&& rcMask a = w &&& rcMask a := by
  have hs : Tab.get noStaged (d.stage fn a w).staged (fnKey fn a) =
      if w &&& rcMask a = d.reg a &&& rcMask a ∧ d.toChange a = false then none else some (w &&& rcMask a) := Tab.get_put_same _ _ _
  unfold Dev.stagedReg
  rw [hs]
  split_ifs with hw
  · exact hw.1.symm
  · dsimp only
    rw [and_mergeWord, mergeWord_and_mask]

/-- Staging for one function and register leaves what is staged elsewhere alone. -/
theorem Dev.stagedReg_stage_other (d : Dev) {fn a g b : Nat} (w : Word) (h : fnKey g b ≠ fnKey fn a) :
    (d.stage fn a w).stagedReg g b = d.stagedReg g b := by
  have hs : Tab.get noStaged (d.stage fn a w).staged (fnKey g b) = Tab.get noStaged d.staged (fnKey g b) := Tab.get_put_other _ _ h
  unfold Dev.stagedReg
  rw [hs]
  rfl

/-! ## Writes by access codes -/

section
variable {d : Dev} {fn a : Nat} {c : RegClass} {ix : List Nat} (hc : regClass? a = some (c, ix)) (hp : presetFor (d.plainRead fn) a = none)
include hc hp

/-- Without a preset and without W1C fields, a write is taken by the access codes alone. -/
theorem Dev.plainWrite_of_no_preset (hw : ∀ f ∈ c.fields, f.acc ≠ .w1c) (w : Word) :
    d.plainWrite fn a w =
      d.takeWord fn a (mergeWord (BitVec.ofNat 32 (c.maskOf fun x => x == .rw || x == .rc)) w (d.plainRead fn a)) := by
  have hm : c.maskOf (fun x => x == .w1c) = 0 := RegClass.maskOf_eq_zero fun f hf => by simp [hw f hf]
  simp [Dev.plainWrite, hc, presetWrite, hp, hm]

/-- A register all of whose fields are RC stages the written word. -/
theorem Dev.plainWrite_of_rc (hr : ∀ f ∈ c.fields, f.acc = .rc) (w : Word) :
    d.plainWrite fn a w = if rcMask a = 0 then d else d.stage fn a (mergeWord (rcMask a) w (d.plainRead fn a)) := by
  have hrw : c.maskOf (fun x => x == .rw) = 0 := RegClass.maskOf_eq_zero fun f hf => by simp [hr f hf]
  have hm : c.maskOf (fun x => x == .rw || x == .rc) = c.maskOf fun x => x == .rc := RegClass.maskOf_congr fun f hf => by simp [hr f hf]
  rw [Dev.plainWrite_of_no_preset hc hp (fun f hf => by simp [hr f hf]), hm, ← rcMask_of_regClass hc]
  simp [Dev.takeWord, hc, hrw]

/-- A register all of whose fields are RW holds the written word at once. -/
theorem Dev.plainWrite_of_rw (hf : c.perFn = false) (hr : ∀ f ∈ c.fields, f.acc = .rw) (w : Word) :
    let m := BitVec.ofNat 32 (c.maskOf fun x => x == .rw)
    d.plainWrite fn a w = if m = 0 then d else d.setReg a (mergeWord m (mergeWord m w (d.plainRead fn a)) (d.reg a)) := by
  have hrc : rcMask a = 0 := by
    rw [rcMask_of_regClass hc, RegClass.maskOf_eq_zero fun f hf => by simp [hr f hf]]; rfl
  have hm : c.maskOf (fun x => x == .rw || x == .rc) = c.maskOf fun x => x == .rw := RegClass.maskOf_congr fun f hf => by simp [hr f hf]
  rw [Dev.plainWrite_of_no_preset hc hp (fun f hf => by simp [hr f hf]), hm]
  simp [Dev.takeWord, hc, hrc, hf]

end

/-- A write of a register that no rule of its own governs is taken by its access codes and presets. -/
theorem writeReg_of_ownRule_false {x : HbmDev} {fn a v : Nat} (h : x.2.ownRule fn a v = false) :
    writeReg x fn a v = (x.1, x.2.plainWrite fn a (BitVec.ofNat 32 v)) := by
  simp only [Dev.ownRule, Bool.or_eq_false_iff, decide_eq_false_iff_not, Option.isSome_eq_false_iff, Option.isNone_iff_eq_none] at h
  obtain ⟨⟨⟨⟨⟨hthaw, htrain⟩, hao⟩, hmedia⟩, hcount⟩, hpage⟩ := h
  simp [writeReg, hthaw, htrain, hao, hmedia, hcount, hpage]

theorem exec_registerWrite_plain {s : State} {fn off v a : Nat} (hk : (barAddr fn off).bind enrolKeyAt = none)
    (hw : s.dev.writable fn off 4 = some a) (ho : s.dev.ownRule fn a (v % 2 ^ 32) = false) :
    exec (.registerWrite fn off 4 v) s = .next { s with dev := s.dev.plainWrite fn a (BitVec.ofNat 32 (v % 2 ^ 32)) } := by
  rw [exec_registerWrite, registerWrite_of_writable (x := (s.mem, s.dev)) v hk hw, writeReg_of_ownRule_false (x := (s.mem, s.dev)) ho]

theorem exec_registerWrite_enrolKey {s : State} {off i : Nat} (v : Nat) (hk : (barAddr 0 off).bind enrolKeyAt = some i)
    (hb : s.dev.blockAnswers 0xE00380 = true) :
    exec (.registerWrite 0 off 4 v) s =
      .next { s with dev := s.dev.onSec fun c => { c with enrolKey := Tab.put zero c.enrolKey i (v % 2 ^ 32) } } := by
  rw [exec_registerWrite, registerWrite_enrolKey _ 4 v hk, if_pos ⟨rfl, rfl, hb⟩]

/-- Settles O39: the word is staged where every field is RC, and held where every field is RW; SEC_ENROL_KEY keeps its own. -/
theorem registerWrites : Obligations.RegisterWrites := by
  refine ⟨fun s fn off v a c ix hk hw ho hp hc hf => ⟨fun hrc => ?_, fun hrw => ?_⟩, fun s off v i hk hb => ?_⟩
  · refine ⟨_, exec_registerWrite_plain hk hw ho, ?_⟩
    rw [Dev.plainWrite_of_rc hc hp hrc]
    split_ifs with hm
    · exact ⟨rfl, fun _ _ => rfl, by simp [hm], fun _ _ _ _ _ => rfl⟩
    · refine ⟨rfl, fun _ _ => rfl, ?_, fun g b hb hne ha => Dev.stagedReg_stage_other s.dev _ (fnKey_ne ha hb hne)⟩
      dsimp only
      rw [Dev.stagedReg_stage_same, mergeWord_and_mask]
  · refine ⟨_, exec_registerWrite_plain hk hw ho, ?_⟩
    rw [Dev.plainWrite_of_rw hc hp hf hrw]
    split_ifs with hm
    · exact ⟨⟨rfl, fun _ _ => rfl⟩, by simp [hm]⟩
    · refine ⟨⟨rfl, fun b hb => Dev.reg_setReg_other s.dev _ (List.ne_of_not_mem_cons hb)⟩, ?_⟩
      dsimp only
      rw [Dev.reg_setReg_same, mergeWord_and_mask, mergeWord_and_mask]
  · exact ⟨_, exec_registerWrite_enrolKey v hk hb, Tab.get_put_same _ _ _, rfl⟩

/-! ## Doorbells -/

/-- A ring pair after a doorbell word of it: each of the two values moves where it passes its test (R97). -/
def Dev.rung (d : Dev) (c r w : Nat) (g : Ring) : Ring :=
  let sq := d.sqSize c r
  let cq := d.cqSize c r
  let t := w % 65536 % sq
  let adv := (w / 65536 + cq - g.cqCons % cq) % cq
  { g with tail := if (g.tail + sq - g.sqSeq % sq) % sq < (t + sq - g.sqSeq % sq) % sq then t else g.tail
           cqCons := if 0 < adv ∧ adv ≤ g.cqSeq - g.cqCons then g.cqCons + adv else g.cqCons }

/-- A doorbell word changes the host side alone. -/
theorem Dev.doorbell_eq (d : Dev) (c r w : Nat) : d.doorbell c r w = { d with hif := (d.doorbell c r w).hif } := by
  unfold Dev.doorbell
  split <;> rfl

theorem Dev.doorbell_of_none {d : Dev} {c r : Nat} (h : d.ring c r = none) (w : Nat) : d.doorbell c r w = d := by
  rw [Dev.doorbell, h]

theorem Dev.ring_doorbell {d : Dev} {c r : Nat} {g : Ring} (h : d.ring c r = some g) (w c' r' : Nat) :
    (d.doorbell c r w).ring c' r' = (d.setRing c r (some (d.rung c r w g))).ring c' r' := by
  rw [Dev.doorbell, h]
  rfl

theorem Dev.ring_doorbell_same {d : Dev} {c r : Nat} {g : Ring} (h : d.ring c r = some g) (w : Nat) :
    (d.doorbell c r w).ring c r = some (d.rung c r w g) := by
  rw [Dev.ring_doorbell h, Dev.ring_setRing_same]

theorem Dev.ring_doorbell_other (d : Dev) (c w : Nat) {r r' : Nat} (h : r' ≠ r) :
    (d.doorbell c r w).ring c r' = d.ring c r' := by
  cases hg : d.ring c r with
  | none => rw [Dev.doorbell_of_none hg]
  | some g => rw [Dev.ring_doorbell hg, Dev.ring_setRing_other _ _ (by omega)]

/-- The sizes of a ring pair are registers, so a doorbell word of one ring pair leaves the tests of another as they are. -/
theorem Dev.rung_doorbell (d : Dev) (c r w c' r' w' : Nat) (g : Ring) : (d.doorbell c r w).rung c' r' w' g = d.rung c' r' w' g := by
  rw [Dev.doorbell_eq]
  rfl

/-- The words of a doorbell area, for ring pairs of a Crew from one on. -/
def Dev.doorbells (d : Dev) (c : Nat) (words : List Nat) (first : Nat) : Dev :=
  (words.zipIdx first).foldl (fun d p => d.doorbell c p.2 p.1) d

theorem Dev.doorbells_cons (d : Dev) (c w : Nat) (words : List Nat) (first : Nat) :
    d.doorbells c (w :: words) first = (d.doorbell c first w).doorbells c words (first + 1) := rfl

theorem Dev.hifOnly_trans {d e t : Dev} (h₁ : e = { d with hif := e.hif }) (h₂ : t = { e with hif := t.hif }) :
    t = { d with hif := t.hif } := by
  rw [h₂, h₁]

theorem Dev.doorbells_eq (d : Dev) (c : Nat) (words : List Nat) (first : Nat) :
    d.doorbells c words first = { d with hif := (d.doorbells c words first).hif } := by
  induction words generalizing d first with
  | nil => rfl
  | cons w words ih =>
    rw [Dev.doorbells_cons]
    exact Dev.hifOnly_trans (Dev.doorbell_eq d c first w) (ih _ _)

/-- Ring pairs before the first one of the area are left alone. -/
theorem Dev.ring_doorbells_before (d : Dev) (c : Nat) (words : List Nat) {first r : Nat} (h : r < first) :
    (d.doorbells c words first).ring c r = d.ring c r := by
  induction words generalizing d first with
  | nil => rfl
  | cons w words ih => rw [Dev.doorbells_cons, ih _ (by omega), Dev.ring_doorbell_other d c w (by omega)]

/-- Each ring pair of the area takes its own word. -/
theorem Dev.ring_doorbells {d : Dev} {c first i : Nat} {words : List Nat} {g : Ring} (hi : i < words.length)
    (h : d.ring c (first + i) = some g) :
    (d.doorbells c words first).ring c (first + i) = some (d.rung c (first + i) (words.getD i 0) g) := by
  induction words generalizing d first i with
  | nil => simp at hi
  | cons w words ih =>
    rw [Dev.doorbells_cons]
    cases i with
    | zero => rw [Dev.ring_doorbells_before _ _ _ (by omega)]; exact Dev.ring_doorbell_same h w
    | succ i =>
      have hr : (d.doorbell c first w).ring c (first + 1 + i) = some g := by
        rw [Dev.ring_doorbell_other d c w (by omega), ← h, Nat.add_assoc, Nat.add_comm 1]
      have := ih (by simpa using hi) hr
      rw [Dev.rung_doorbell, Nat.add_assoc, Nat.add_comm 1] at this
      simpa using this

theorem exec_doorbellReadComplete_eq (crew : Nat) (words : List Nat) (s : State) :
    exec (.doorbellReadComplete crew words) s = execDoorbellReadComplete crew words s := rfl

theorem exec_doorbellReadComplete (crew : Nat) (words : List Nat) {s : State} (h : s.dev.inReset 6 = false) :
    exec (.doorbellReadComplete crew words) s = .next { s with dev := s.dev.doorbells crew words 0 } := by
  rw [exec_doorbellReadComplete_eq, execDoorbellReadComplete, State.lift_eq, h]
  rfl

theorem exec_bar2DoorbellWrite_eq (fn offset size value : Nat) (s : State) :
    exec (.bar2DoorbellWrite fn offset size value) s = execBar2DoorbellWrite fn offset size value s := rfl

/-- A word written to a ring pair's place in BAR2 is its doorbell while BAR_DB is 1, and is discarded otherwise (R96). -/
theorem exec_bar2DoorbellWrite {s : State} {fn ring : Nat} (value : Nat) (h : s.dev.inReset 6 = false) (hfn : fn ≤ s.dev.hif.numVfs)
    (hr : ring < 64) (hs : s.dev.suspended fn = false) :
    exec (.bar2DoorbellWrite fn (8 * ring) 4 value) s =
      .next { s with dev := if s.dev.flag (Reg.hifRingCfg fn ring) F.hifRingCfg_barDb = true then s.dev.doorbell fn ring (value % 2 ^ 32)
                            else s.dev } := by
  have hd : 8 * ring / 8 = ring := by omega
  rw [exec_bar2DoorbellWrite_eq, execBar2DoorbellWrite, State.lift_eq, if_neg (by simp [h]; omega), if_pos (by omega)]
  simp [hd, hs]

/-- Settles O26: of each ring pair the area and BAR2 carry one word, which `Dev.rung` tests. -/
theorem doorbells : Obligations.Doorbells := by
  refine ⟨fun s crew ring words g hreset hring _ hg => ?_, fun s fn ring value g hreset hfn hring hsus hg => ?_⟩
  · have hg₀ : s.dev.ring crew (0 + ring) = some g := by rwa [Nat.zero_add]
    have ht := Dev.ring_doorbells hring hg₀
    rw [Nat.zero_add] at ht
    refine ⟨_, exec_doorbellReadComplete crew words hreset, ⟨_, ht, rfl, rfl, rfl, rfl, rfl⟩, ?_⟩
    dsimp only
    rw [← Dev.doorbells_eq]
  · refine ⟨_, exec_bar2DoorbellWrite value hreset hfn hring hsus, fun hb => ?_, fun hb => ?_⟩
    · rw [if_pos hb]
      refine ⟨⟨_, Dev.ring_doorbell_same hg _, rfl, rfl, rfl, rfl, rfl⟩, ?_⟩
      dsimp only
      rw [← Dev.doorbell_eq]
    · rw [if_neg (by simp [hb])]

end Sys2Proof.Machine
end

section
/-! PROOFS. Commits as a function writes them and sees them (R34, R36, R38), STK_BUDGET_CFG (R42) and STK_NOW (R16). Settles O34, O35 and
O38. -/

namespace Sys2Proof.Machine

/-! ## The words of a commit's status -/

/-- The word of STK_COMMIT_STATUS. -/
def commitStatusWord (reason state seq : Nat) : Word :=
  BitVec.ofNat 32 (pack [(reason, F.stkCommitStatus_reason.lo), (state, F.stkCommitStatus_state.lo), (seq % 65536, F.stkCommitStatus_seq.lo)])

theorem toNat_commitStatusWord (reason state seq : Nat) :
    (commitStatusWord reason state seq).toNat = (reason * 2 ^ 24 + state * 2 ^ 20 + seq % 65536) % 2 ^ 32 := by
  simp only [commitStatusWord, pack, List.foldl, BitVec.toNat_ofNat, Nat.zero_add, pow_zero, Nat.mul_one]

theorem get_stkCommitStatus_reason (w : Word) : F.stkCommitStatus_reason.get w = w.toNat / 2 ^ 24 % 2 ^ 8 := rfl

theorem get_stkCommitStatus_state (w : Word) : F.stkCommitStatus_state.get w = w.toNat / 2 ^ 20 % 2 ^ 4 := rfl

theorem get_stkCommitStatus_seq (w : Word) : F.stkCommitStatus_seq.get w = w.toNat / 2 ^ 0 % 2 ^ 16 := rfl

theorem get_reason_commitStatusWord (reason seq : Nat) {state : Nat} (h : state < 16) :
    F.stkCommitStatus_reason.get (commitStatusWord reason state seq) = reason % 256 := by
  rw [get_stkCommitStatus_reason, toNat_commitStatusWord]
  omega

theorem get_state_commitStatusWord (reason seq : Nat) {state : Nat} (h : state < 16) :
    F.stkCommitStatus_state.get (commitStatusWord reason state seq) = state := by
  rw [get_stkCommitStatus_state, toNat_commitStatusWord]
  omega

theorem get_seq_commitStatusWord (reason state seq : Nat) :
    F.stkCommitStatus_seq.get (commitStatusWord reason state seq) = seq % 65536 := by
  rw [get_stkCommitStatus_seq, toNat_commitStatusWord]
  omega

/-! ## What is shown of a commit -/

/-- A write of a function's own register on top of changes of such registers alone. -/
theorem Dev.setFnReg_after {d e : Dev} (h : e = { d with fnRegs := e.fnRegs }) (fn a : Nat) (w : Word) :
    e.setFnReg fn a w = { d with fnRegs := (e.setFnReg fn a w).fnRegs } := by
  rw [Dev.setFnReg_fnRegs, Dev.setFnReg, h]

theorem Dev.showCommit_eq (d : Dev) (c : Commit) (state reason detail : Nat) :
    d.showCommit c state reason detail = { d with fnRegs := (d.showCommit c state reason detail).fnRegs } := by
  unfold Dev.showCommit
  split
  · rfl
  · exact Dev.setFnReg_after (Dev.setFnReg_after rfl _ _ _) _ _ _

theorem Dev.fnReg_status_showCommit {d : Dev} {c : Commit} (ho : c.order = none) (hs : d.seqOfFn c.fn = c.seq) (state reason detail : Nat) :
    (d.showCommit c state reason detail).fnReg c.fn Reg.stkCommitStatus = commitStatusWord reason state c.seq := by
  have hk : fnKey c.fn Reg.stkCommitStatus ≠ fnKey c.fn Reg.stkCommitDetail := fnKey_ne (by decide) (by decide) fun h => absurd h.2 (by decide)
  rw [Dev.showCommit, if_neg (by simp [ho, hs]), Dev.fnReg_setFnReg_other _ _ hk, Dev.fnReg_setFnReg_same]
  rfl

theorem Dev.refuseCommit_of_no_order {c : Commit} (h : c.order = none) (d : Dev) (f : Fail) :
    d.refuseCommit c f = d.showCommit c 5 f.reason (d.detailFor c.fn f) := by
  rw [Dev.refuseCommit, h]

/-! ## A write of STK_COMMIT -/

/-- The commit that a write of STK_COMMIT makes. -/
def Dev.writtenCommit (d : Dev) (fn at_ : Nat) : Commit :=
  { fn := fn, target := at_, writes := d.stagedOf fn, admitting := false, effect := 0, builds := [], order := none, place := {},
    seq := d.seqOfFn fn + 1 }

/-- Every write of STK_COMMIT is counted. -/
def Dev.countCommit (d : Dev) (fn : Nat) : Dev := d.onStk fun k => { k with seqs := Tab.put zero k.seqs fn (d.seqOfFn fn + 1) }

theorem Dev.seqOfFn_countCommit_same (d : Dev) (fn : Nat) : (d.countCommit fn).seqOfFn fn = d.seqOfFn fn + 1 := by
  show Tab.get zero (Tab.put zero d.stk.seqs fn (d.seqOfFn fn + 1)) fn = _
  rw [Tab.get_put_same]

theorem Dev.seqOfFn_countCommit_other (d : Dev) {fn f : Nat} (h : f ≠ fn) : (d.countCommit fn).seqOfFn f = d.seqOfFn f := by
  show Tab.get zero (Tab.put zero d.stk.seqs fn (d.seqOfFn fn + 1)) f = _
  rw [Tab.get_put_other _ _ h, Dev.seqOfFn]

/-- A write of STK_COMMIT that reaches it is counted, and refused BUSY or TARGET_PAST, or queued. -/
theorem Dev.commitWrite_of_mayWrite {d : Dev} {fn : Nat} (target : Nat) (h : d.mayWrite fn Reg.stkCommit = true) :
    d.commitWrite fn target =
      let at_ := if target % 2 ^ 32 = 0 then 0 else strokeOf d.now target
      let c := d.writtenCommit fn at_
      if (d.stk.queue.any fun q => q.fn = fn && q.order.isNone) = true then (d.countCommit fn).refuseCommit c { reason := 0x0D }
      else if target % 2 ^ 32 ≠ 0 ∧ at_ ≤ d.now then (d.countCommit fn).refuseCommit c { reason := 0x0A }
      else ((d.countCommit fn).onStk fun k => { k with queue := k.queue ++ [c] }).showCommit c 1 0 0 := by
  rw [Dev.commitWrite, if_neg (by simp [h])]
  rfl

theorem exec_stkCommitWrite (fn target : Nat) (s : State) :
    exec (.stkCommitWrite fn target) s = .next { s with dev := s.dev.commitWrite fn target } := rfl

/-- A counted write that is refused shows STATE 5 and its reason, and changes nothing else. -/
theorem Dev.refuse_writtenCommit (d : Dev) (fn at_ : Nat) (f : Fail) :
    let e := (d.countCommit fn).refuseCommit (d.writtenCommit fn at_) f
    e.fnReg fn Reg.stkCommitStatus = commitStatusWord f.reason 5 (d.seqOfFn fn + 1) ∧ e = { d.countCommit fn with fnRegs := e.fnRegs } := by
  have hs : (d.countCommit fn).seqOfFn (d.writtenCommit fn at_).fn = (d.writtenCommit fn at_).seq := Dev.seqOfFn_countCommit_same d fn
  dsimp only
  rw [Dev.refuseCommit_of_no_order rfl]
  exact ⟨Dev.fnReg_status_showCommit rfl hs _ _ _, Dev.showCommit_eq _ _ _ _ _⟩

/-- A counted write that joins the queue shows STATE 1, and changes nothing else. -/
theorem Dev.queue_writtenCommit (d : Dev) (fn at_ : Nat) :
    let q := (d.countCommit fn).onStk fun k => { k with queue := k.queue ++ [d.writtenCommit fn at_] }
    let e := q.showCommit (d.writtenCommit fn at_) 1 0 0
    e.fnReg fn Reg.stkCommitStatus = commitStatusWord 0 1 (d.seqOfFn fn + 1) ∧ e = { q with fnRegs := e.fnRegs } := by
  intro q e
  have hs : q.seqOfFn (d.writtenCommit fn at_).fn = (d.writtenCommit fn at_).seq := Dev.seqOfFn_countCommit_same d fn
  exact ⟨Dev.fnReg_status_showCommit rfl hs _ _ _, Dev.showCommit_eq _ _ _ _ _⟩

/-- Settles O34: the write counts, and its refusal touches what is shown of it alone. -/
theorem commitBusy : Obligations.CommitBusy := by
  intro s fn target hw hb
  refine ⟨_, exec_stkCommitWrite fn target s, ?_⟩
  rw [Dev.commitWrite_of_mayWrite target hw]
  simp only [hb, if_true]
  obtain ⟨hr, he⟩ := Dev.refuse_writtenCommit s.dev fn (if target % 2 ^ 32 = 0 then 0 else strokeOf s.dev.now target) { reason := 0x0D }
  rw [hr]
  refine ⟨get_state_commitStatusWord _ _ (by decide), get_reason_commitStatusWord _ _ (by decide), ?_⟩
  rw [he]
  exact ⟨rfl, rfl, rfl, rfl⟩

/-- Settles O35: the commit is refused or joins the queue, after the write has been counted. -/
theorem commitWritten : Obligations.CommitWritten := by
  intro s fn target hw hb at_
  refine ⟨_, exec_stkCommitWrite fn target s, ?_⟩
  rw [Dev.commitWrite_of_mayWrite target hw]
  simp only [hb, if_false, Bool.false_eq_true]
  by_cases hp : target % 2 ^ 32 ≠ 0 ∧ at_ ≤ s.dev.now
  · obtain ⟨hr, he⟩ := Dev.refuse_writtenCommit s.dev fn at_ { reason := 0x0A }
    simp only [if_pos hp, at_] at hr he ⊢
    rw [hr, he]
    exact ⟨get_seq_commitStatusWord _ _ _, Dev.seqOfFn_countCommit_same s.dev fn, fun _ => Dev.seqOfFn_countCommit_other s.dev, rfl,
      get_state_commitStatusWord _ _ (by decide), get_reason_commitStatusWord _ _ (by decide), rfl⟩
  · obtain ⟨hr, he⟩ := Dev.queue_writtenCommit s.dev fn at_
    simp only [if_neg hp, at_] at hr he ⊢
    rw [hr, he]
    exact ⟨get_seq_commitStatusWord _ _ _, Dev.seqOfFn_countCommit_same s.dev fn, fun _ => Dev.seqOfFn_countCommit_other s.dev, rfl,
      get_state_commitStatusWord _ _ (by decide), _, rfl, rfl, rfl, rfl, rfl, rfl⟩

/-! ## STK_BUDGET_CFG and STK_NOW -/

/-- A field reads the same in words that agree under a mask that covers it. -/
theorem Fld.get_eq_of_and_eq {f : Fld} {m x y : Word} (hm : ∀ i < f.width, m.toNat.testBit (f.lo + i) = true) (h : x &&& m = y &&& m) :
    f.get x = f.get y := by
  apply Nat.eq_of_testBit_eq
  intro i
  rw [Fld.get_testBit, Fld.get_testBit]
  by_cases hi : i < f.width
  · have hb := congrArg (fun w : Word => w.toNat.testBit (f.lo + i)) h
    simp only [BitVec.toNat_and, Nat.testBit_and, hm i hi, Bool.and_true] at hb
    rw [hb]
  · simp [hi]

theorem rcMask_stkBudgetCfg : rcMask Reg.stkBudgetCfg = 0x0703FFFF#32 := by decide +kernel

theorem rwMask_stkBudgetCfg :
    (regClass? Reg.stkBudgetCfg).map (fun p => BitVec.ofNat 32 (p.1.maskOf fun x => x == .rw)) = some 0#32 := by decide +kernel

/-- A write of STK_BUDGET_CFG stages the word: no field of it is taken at once. -/
theorem Dev.takeWord_stkBudgetCfg (d : Dev) (fn : Nat) (w : Word) :
    d.takeWord fn Reg.stkBudgetCfg w = d.stage fn Reg.stkBudgetCfg w := by
  have hm := rwMask_stkBudgetCfg
  unfold Dev.takeWord
  cases hc : regClass? Reg.stkBudgetCfg with
  | none => simp [hc] at hm
  | some p =>
    rw [hc, Option.map_some, Option.some_inj] at hm
    simp [hm, rcMask_stkBudgetCfg]

/-- Both fields of STK_BUDGET_CFG are read back as they were written. -/
theorem Dev.get_takeWord_stkBudgetCfg (d : Dev) (fn : Nat) (w : Word) {f : Fld}
    (hf : f = F.stkBudgetCfg_livePreset ∨ f = F.stkBudgetCfg_liveCap) :
    f.get ((d.takeWord fn Reg.stkBudgetCfg w).stagedReg fn Reg.stkBudgetCfg) = f.get w := by
  rw [Dev.takeWord_stkBudgetCfg]
  refine Fld.get_eq_of_and_eq (fun i hi => ?_) (Dev.stagedReg_stage_same d fn Reg.stkBudgetCfg w)
  rw [rcMask_stkBudgetCfg]
  revert i hi
  rcases hf with rfl | rfl <;> decide

/-- What STK_BUDGET_CFG holds after a write: the word that its preset rules make of the one carried, or what it held (R42). -/
def budgetWord (old w : Word) : Option Word :=
  let p := F.stkBudgetCfg_livePreset.get w
  if p ≠ 7 ∧ p = F.stkBudgetCfg_livePreset.get old then
    if F.stkBudgetCfg_liveCap.get w = F.stkBudgetCfg_liveCap.get old then none else some (F.stkBudgetCfg_livePreset.set w 7)
  else if p < 3 then some (F.stkBudgetCfg_liveCap.set w (presetCap p))
  else some w

theorem Dev.budgetWrite_of_mayWrite {d : Dev} {fn : Nat} (value : Nat) (h : d.mayWrite fn Reg.stkBudgetCfg = true) :
    d.budgetWrite fn value =
      (budgetWord (d.stagedReg fn Reg.stkBudgetCfg) (BitVec.ofNat 32 value)).elim d (d.takeWord fn Reg.stkBudgetCfg) := by
  unfold Dev.budgetWrite budgetWord
  dsimp only
  rw [if_neg (by simp [h])]
  generalize F.stkBudgetCfg_livePreset.get (BitVec.ofNat 32 value) = p
  generalize F.stkBudgetCfg_livePreset.get (d.stagedReg fn Reg.stkBudgetCfg) = q
  by_cases h7 : p = 7
  · simp [h7]
  · by_cases hs : p = q
    · split_ifs <;> simp_all
    · split_ifs <;> simp_all

theorem exec_budgetCfgWrite (fn value : Nat) (s : State) :
    exec (.budgetCfgWrite fn value) s = .next { s with dev := s.dev.budgetWrite fn value } := rfl

/-- What a write of STK_BUDGET_CFG makes of it changes what is staged alone. -/
theorem Dev.takeBudget_eq (d : Dev) (fn : Nat) (o : Option Word) :
    o.elim d (d.takeWord fn Reg.stkBudgetCfg) = { d with staged := (o.elim d (d.takeWord fn Reg.stkBudgetCfg)).staged } := by
  cases o with
  | none => rfl
  | some w =>
    rw [Option.elim_some, Dev.takeWord_stkBudgetCfg]
    rfl

theorem Dev.emit_after_fnRegs {d e : Dev} (h : e = { d with fnRegs := e.fnRegs }) (o : Output) :
    e.emit o = { d with fnRegs := (e.emit o).fnRegs, out := (e.emit o).out } := by
  rw [Dev.emit, h]

theorem exec_stkNowLoRead {s : State} {fn : Nat} (h : s.dev.sees fn Reg.stkNowLo = true) :
    exec (.stkNowLoRead fn) s = .next { s with dev :=
      (s.dev.setFnReg fn Reg.stkNowHi (BitVec.ofNat 32 (s.dev.now / 2 ^ 32))).emit (.read fn Reg.stkNowLo s.dev.nowLo) } := by
  have he : exec (.stkNowLoRead fn) s = execStkNowLoRead fn s := rfl
  rw [he, execStkNowLoRead, State.lift_eq, if_neg (by simp [h])]

/-- Settles O38: the word staged by each of the preset rules of STK_BUDGET_CFG is read back by its fields. -/
theorem budgetAndNow : Obligations.BudgetAndNow := by
  refine ⟨?_, fun s fn h => ?_⟩
  · intro s fn value hw w p old
    refine ⟨_, exec_budgetCfgWrite fn value s, ?_⟩
    rw [Dev.budgetWrite_of_mayWrite value hw]
    have hp (v : Word) : F.stkBudgetCfg_livePreset.get ((s.dev.takeWord fn Reg.stkBudgetCfg v).stagedReg fn Reg.stkBudgetCfg) = _ :=
      Dev.get_takeWord_stkBudgetCfg s.dev fn v (.inl rfl)
    have hc (v : Word) : F.stkBudgetCfg_liveCap.get ((s.dev.takeWord fn Reg.stkBudgetCfg v).stagedReg fn Reg.stkBudgetCfg) = _ :=
      Dev.get_takeWord_stkBudgetCfg s.dev fn v (.inr rfl)
    have okp : F.stkBudgetCfg_livePreset.ok := ⟨by decide, by decide⟩
    have okc : F.stkBudgetCfg_liveCap.ok := ⟨by decide, by decide⟩
    have hcap : ∀ q < 3, presetCap q % 2 ^ F.stkBudgetCfg_liveCap.width = presetCap q := by decide
    refine ⟨?_, fun a _ => ?_, fun h7 => ?_, fun h3 hne => ?_, fun h7 he hcc => ?_, fun h7 he hcc => ?_⟩
    · rw [Dev.takeBudget_eq]
    · rw [Dev.takeBudget_eq]; rfl
    · rw [budgetWord, if_neg (fun h => h.1 h7), if_neg (show ¬p < 3 by rw [h7]; decide)]
      exact ⟨(hp w).trans h7, hc w⟩
    · rw [budgetWord, if_neg (fun h => hne h.2), if_pos h3]
      exact ⟨(hp _).trans (Fld.get_set_other okc (.inr (by decide)) _ _), (hc _).trans ((Fld.get_set okc _ _).trans (hcap p h3))⟩
    · rw [budgetWord, if_pos ⟨h7, he⟩, if_neg hcc]
      exact ⟨(hp _).trans (Fld.get_set okp _ _), (hc _).trans (Fld.get_set_other okp (.inl (by decide)) _ _)⟩
    · rw [budgetWord, if_pos ⟨h7, he⟩, if_pos hcc]
      rfl
  · refine ⟨_, exec_stkNowLoRead h, ?_, ?_, ?_⟩
    · rw [Dev.ShowsOnly, Dev.emit_out, Dev.setFnReg_out, Dev.nowLo, Dev.now]
    · rw [Dev.emit_read_fnReg, Dev.fnReg_setFnReg_same]
    · rw [Dev.emit_after_fnRegs (Dev.setFnReg_after rfl _ _ _)]

end Sys2Proof.Machine
end

section
/-! PROOFS. The admission of commits (R35, R39), with the filling of pools (R226), and the builds of tables (R44). Settles O36. -/

namespace Sys2Proof.Machine

/-! ## Banks -/

/-- A change of one bank of a table that stands. -/
theorem Dev.bank_onBank (d : Dev) (i j : Nat) (f : Bank → Bank) :
    (d.onBank i f).bank j = if j = i ∧ j < d.stk.banks.length then f (d.bank j) else d.bank j := by
  simp only [Dev.bank, Dev.onBank, List.getD_eq_getElem?_getD, List.getElem?_map, List.getElem?_zipIdx, Nat.zero_add]
  by_cases hj : j < d.stk.banks.length
  · by_cases hi : j = i
    · subst hi
      simp [hj]
    · simp [hj, hi]
  · simp [hj]

/-- A change of one bank of a table that stands. -/
theorem Dev.bank_onBank_same {d : Dev} {i : Nat} (h : i < d.stk.banks.length) (f : Bank → Bank) : (d.onBank i f).bank i = f (d.bank i) := by
  rw [Dev.bank_onBank, if_pos ⟨rfl, h⟩]

theorem Dev.bank_onBank_other (d : Dev) {i j : Nat} (h : j ≠ i) (f : Bank → Bank) : (d.onBank i f).bank j = d.bank j := by
  rw [Dev.bank_onBank, if_neg fun e => h e.1]

/-- A bank that is not IDLE is one of the five. -/
theorem Dev.lt_banks_of_state {d : Dev} {i : Nat} (h : (d.bank i).state ≠ 0) : i < d.stk.banks.length := by
  by_contra hi
  exact h (by rw [Dev.bank, List.getD_eq_default _ _ (Nat.le_of_not_lt hi)])

theorem Dev.onBank_eq (d : Dev) (i : Nat) (f : Bank → Bank) :
    d.onBank i f = { d with stk := { d.stk with banks := (d.onBank i f).stk.banks } } := rfl

theorem Dev.dropBuilds_eq (d : Dev) (c : Commit) :
    d.dropBuilds c = { d with stk := { d.stk with banks := (d.dropBuilds c).stk.banks } } := by
  unfold Dev.dropBuilds
  induction c.builds generalizing d with
  | nil => rfl
  | cons t l ih =>
    rw [List.foldl_cons, ih, Dev.onBank_eq]

theorem exec_tableBuildDone (table : TableId) (s : State) :
    exec (.tableBuildDone table) s =
      .next { s with dev := s.dev.onBank (tableIdx table) fun b => if b.state = 1 then { b with state := 2 } else b } := rfl

/-! ## What is shown of a commit that is accepted -/

theorem Dev.showStroke_eq (d : Dev) (c : Commit) (e : Nat) :
    d.showStroke c e = { d with fnRegs := (d.showStroke c e).fnRegs } := by
  unfold Dev.showStroke
  split
  · rfl
  · exact Dev.setFnReg_after (Dev.setFnReg_after rfl _ _ _) _ _ _

theorem Dev.fnReg_showStroke_lo {c : Commit} (h : c.order = none) (d : Dev) (e : Nat) :
    (d.showStroke c e).fnReg c.fn Reg.stkCommitStrokeLo = BitVec.ofNat 32 e := by
  have hk : fnKey c.fn Reg.stkCommitStrokeLo ≠ fnKey c.fn Reg.stkCommitStrokeHi :=
    fnKey_ne (by decide) (by decide) fun h => absurd h.2 (by decide)
  rw [Dev.showStroke, if_neg (by simp [h]), Dev.fnReg_setFnReg_other _ _ hk, Dev.fnReg_setFnReg_same]

theorem Dev.fnReg_showStroke_hi {c : Commit} (h : c.order = none) (d : Dev) (e : Nat) :
    (d.showStroke c e).fnReg c.fn Reg.stkCommitStrokeHi = BitVec.ofNat 32 (e / 2 ^ 32) := by
  rw [Dev.showStroke, if_neg (by simp [h]), Dev.fnReg_setFnReg_same]

theorem Dev.fnReg_status_showStroke (d : Dev) (c : Commit) (e : Nat) :
    (d.showStroke c e).fnReg c.fn Reg.stkCommitStatus = d.fnReg c.fn Reg.stkCommitStatus := by
  have hl : fnKey c.fn Reg.stkCommitStatus ≠ fnKey c.fn Reg.stkCommitStrokeLo :=
    fnKey_ne (by decide) (by decide) fun h => absurd h.2 (by decide)
  have hh : fnKey c.fn Reg.stkCommitStatus ≠ fnKey c.fn Reg.stkCommitStrokeHi :=
    fnKey_ne (by decide) (by decide) fun h => absurd h.2 (by decide)
  unfold Dev.showStroke
  split
  · rfl
  · rw [Dev.fnReg_setFnReg_other _ _ hh, Dev.fnReg_setFnReg_other _ _ hl]

/-- A commit as it is accepted: with its effect Stroke and what admission decided of it. -/
def Dev.accepted (d : Dev) (c : Commit) (p : Placement) : Commit :=
  { c with effect := if c.target ≠ 0 then c.target else max (d.now + 1) d.latestAhead, place := p }

/-- The device as a commit joins the accepted ones, before it is shown. -/
def Dev.joined (d : Dev) (c : Commit) (p : Placement) : Dev :=
  (d.onStk fun k => { k with accepted := k.accepted ++ [d.accepted c p] }).onHif fun h =>
    { h with liveRd := max h.liveRd p.host.1, liveWr := max h.liveWr p.host.2 }

theorem Dev.acceptCommit_of_no_order {c : Commit} (h : c.order = none) (d : Dev) (p : Placement) :
    d.acceptCommit c p =
      ((d.joined c p).showCommit (d.accepted c p) 3 0 0).showStroke (d.accepted c p) (d.accepted c p).effect := by
  cases c
  cases h
  rfl

theorem Dev.acceptCommit_eq {c : Commit} (h : c.order = none) (d : Dev) (p : Placement) :
    d.acceptCommit c p = { d.joined c p with fnRegs := (d.acceptCommit c p).fnRegs } := by
  rw [Dev.acceptCommit_of_no_order h, Dev.showStroke_eq, Dev.showCommit_eq]

/-! ## Filling of pools -/

/-- Filling pools depends on registers, and changes the HBM and its check symbols, and not on the commit queue. -/
theorem fillPools_onStk (m : Memory) (d : Dev) (f : Stk → Stk) (l : List (Nat × Nat × Nat)) :
    fillPools (m, d.onStk f) l = ((fillPools (m, d) l).1, (fillPools (m, d) l).2.onStk f) := by
  unfold fillPools
  induction l generalizing m d with
  | nil => rfl
  | cons p l ih =>
    rw [List.foldl_cons, List.foldl_cons]
    have hr : (d.onStk f).crewRegion p.2.1 = d.crewRegion p.2.1 := rfl
    simp only [hr]
    split
    · exact ih m d
    · next r _ =>
      exact ih (zeroRegion (m, d) r (Config.placedAt p.1 p.2.2 * d.regionUnit r) p.2.2).1
        (zeroRegion (m, d) r (Config.placedAt p.1 p.2.2 * d.regionUnit r) p.2.2).2

theorem fillPools_eq (x : HbmDev) (l : List (Nat × Nat × Nat)) :
    (fillPools x l).2 = { x.2 with hbm := (fillPools x l).2.hbm } := by
  unfold fillPools
  induction l generalizing x with
  | nil => rfl
  | cons p l ih =>
    rw [List.foldl_cons, ih]
    split <;> rfl

/-! ## COMMIT_ADMISSION_DONE -/

/-- A change order makes no pools. -/
theorem Dev.poolsMade_verdict_of_order {c : Commit} {o : Order} (h : c.order = some o) (d e : Dev) : e.poolsMade (d.verdict c).2 = [] := by
  rw [Dev.verdict, h]
  rfl

theorem exec_commitAdmissionDone (s : State) :
    exec .commitAdmissionDone s =
      .next { s with mem := (admissionDone (s.mem, s.dev)).1, dev := (admissionDone (s.mem, s.dev)).2 } := rfl

section
variable {m : Memory} {d : Dev} {c : Commit} {rest : List Commit} (hq : d.stk.queue = c :: rest) (ha : c.admitting = true)
  (hr : d.fwRuns = true) (hb : ∀ b ∈ c.builds, (d.bank (tableIdx b)).state = 2)
include hq ha hr hb

/-- The oldest commit is judged once the tables that it needs are built. -/
theorem admissionDone_of_ready :
    admissionDone (m, d) =
      let out := d.onStk fun k => { k with queue := rest }
      let made := d.poolsMade (d.verdict c).2
      match (d.verdict c).1 with
      | some f => (m, (out.dropBuilds c).refuseCommit c f)
      | none =>
        match c.filled with
        | some t =>
          if d.now < t then (m, d)
          else ((fillPools (m, out) made).1, (fillPools (m, out) made).2.acceptCommit c (d.verdict c).2)
        | none =>
          if made = [] then (m, out.acceptCommit c (d.verdict c).2)
          else
            let f := d.now + Config.fillStrokes (sumBy (·.2.2) made)
            (m, d.onStk fun k => { k with queue := { c with filled := some f } :: rest }) := by
  have hall : (c.builds.all fun t => (d.bank (tableIdx t)).state = 2) = true := by simpa using hb
  unfold admissionDone
  simp only [hq, ha, hr, hall, Bool.not_true, Bool.or_self, if_false, Bool.false_eq_true] <;> rfl

theorem admissionDone_refused {f : Fail} (hv : (d.verdict c).1 = some f) :
    admissionDone (m, d) = (m, ((d.onStk fun k => { k with queue := rest }).dropBuilds c).refuseCommit c f) := by
  rw [admissionDone_of_ready hq ha hr hb]
  simp only [hv]

theorem admissionDone_accepted (hv : (d.verdict c).1 = none) (hf : c.filled = none) (hm : d.poolsMade (d.verdict c).2 = []) :
    admissionDone (m, d) = (m, (d.onStk fun k => { k with queue := rest }).acceptCommit c (d.verdict c).2) := by
  rw [admissionDone_of_ready hq ha hr hb]
  simp only [hv, hf, hm, if_true]

/-- The filling of pools begins, and gives the Stroke of its end. -/
theorem admissionDone_fills (hv : (d.verdict c).1 = none) (hf : c.filled = none) (hm : d.poolsMade (d.verdict c).2 ≠ []) :
    ∃ n, d.now ≤ n ∧ admissionDone (m, d) = (m, d.onStk fun k => { k with queue := { c with filled := some n } :: rest }) := by
  refine ⟨d.now + Config.fillStrokes (sumBy (·.2.2) (d.poolsMade (d.verdict c).2)), Nat.le_add_right _ _, ?_⟩
  rw [admissionDone_of_ready hq ha hr hb]
  simp only [hv, hf, hm, if_false]

theorem admissionDone_filling {n : Nat} (hv : (d.verdict c).1 = none) (hf : c.filled = some n) (hn : d.now < n) :
    admissionDone (m, d) = (m, d) := by
  rw [admissionDone_of_ready hq ha hr hb]
  simp only [hv, hf, hn, if_true]

theorem admissionDone_filled {n : Nat} (hv : (d.verdict c).1 = none) (hf : c.filled = some n) (hn : n ≤ d.now) :
    admissionDone (m, d) =
      let y := fillPools (m, d.onStk fun k => { k with queue := rest }) (d.poolsMade (d.verdict c).2)
      (y.1, y.2.acceptCommit c (d.verdict c).2) := by
  rw [admissionDone_of_ready hq ha hr hb]
  simp only [hv, hf, Nat.not_lt.mpr hn, if_false]

end

/-- What an accepted commit of a function shows, and what its acceptance leaves as it was. -/
theorem Dev.acceptCommit_shows {d : Dev} {c : Commit} (ho : c.order = none) (hs : d.seqOfFn c.fn = c.seq) (p : Placement) :
    let t := d.acceptCommit c p
    F.stkCommitStatus_state.get (t.fnReg c.fn Reg.stkCommitStatus) = 3 ∧
      t.fnReg c.fn Reg.stkCommitStrokeLo = BitVec.ofNat 32 (d.accepted c p).effect ∧
      t.fnReg c.fn Reg.stkCommitStrokeHi = BitVec.ofNat 32 ((d.accepted c p).effect / 2 ^ 32) := by
  dsimp only
  have hw := Dev.fnReg_status_showCommit (d := d.joined c p) (c := d.accepted c p) ho hs 3 0 0
  have hst := Dev.fnReg_status_showStroke ((d.joined c p).showCommit (d.accepted c p) 3 0 0) (d.accepted c p) (d.accepted c p).effect
  rw [Dev.acceptCommit_of_no_order ho]
  refine ⟨?_, Dev.fnReg_showStroke_lo ho _ _, Dev.fnReg_showStroke_hi ho _ _⟩
  rw [show c.fn = (d.accepted c p).fn from rfl, hst, hw]
  exact get_state_commitStatusWord _ _ (by decide)

/-- Settles O36: the verdict on the oldest commit is reported, and with it the commit leaves the queue. -/
theorem commitsAdmitted : Obligations.CommitsAdmitted := by
  refine ⟨?_, ?_, ?_⟩
  · intro s c rest hq ha hr hb ho hs hf hm
    refine ⟨_, exec_commitAdmissionDone s, ?_⟩
    cases hv : (s.dev.verdict c).1 with
    | some f =>
      rw [admissionDone_refused hq ha hr hb hv]
      generalize he : (s.dev.onStk fun k => { k with queue := rest }).dropBuilds c = e
      have hd : e = { s.dev with stk := e.stk } := by rw [← he, Dev.dropBuilds_eq]; rfl
      have hk : e.stk.queue = rest ∧ e.stk.accepted = s.dev.stk.accepted ∧ e.stk.seqs = s.dev.stk.seqs := by
        rw [← he, Dev.dropBuilds_eq]; exact ⟨rfl, rfl, rfl⟩
      obtain ⟨hqueue, hacc, hseqs⟩ := hk
      have hw := Dev.fnReg_status_showCommit (d := e) ho (by rw [Dev.seqOfFn, hseqs]; exact hs) 5 f.reason (e.detailFor c.fn f)
      dsimp only
      rw [Dev.refuseCommit_of_no_order ho, hw, Dev.showCommit_eq]
      refine ⟨hqueue, ?_, ?_, ?_, rfl, get_state_commitStatusWord _ _ (by decide), get_reason_commitStatusWord _ _ (by decide), hacc⟩ <;>
        rw [hd]
    | none =>
      obtain ⟨hst, hlo, hhi⟩ := Dev.acceptCommit_shows (d := s.dev.onStk fun k => { k with queue := rest }) ho hs (s.dev.verdict c).2
      rw [admissionDone_accepted hq ha hr hb hv hf hm]
      dsimp only at hst hlo hhi ⊢
      rw [hst, hlo, hhi, Dev.acceptCommit_eq ho]
      exact ⟨rfl, rfl, rfl, rfl, rfl, rfl, BitVec.toNat_ofNat _ _, BitVec.toNat_ofNat _ _, rfl⟩
  · intro s c rest hq ha hr hb hv hm
    have ho : c.order = none := by
      cases h : c.order with
      | none => rfl
      | some o => exact absurd (Dev.poolsMade_verdict_of_order h _ _) hm
    refine ⟨fun hf => ?_, fun n hf hn => ?_, fun n hf hn => ?_⟩
    · obtain ⟨n, hn, he⟩ := admissionDone_fills (m := s.mem) hq ha hr hb hv hf hm
      refine ⟨_, n, exec_commitAdmissionDone s, hn, ?_⟩
      rw [he]
      rfl
    · rw [exec_commitAdmissionDone, admissionDone_filling hq ha hr hb hv hf hn]
    · refine ⟨_, exec_commitAdmissionDone s, ?_⟩
      rw [admissionDone_filled hq ha hr hb hv hf hn]
      dsimp only
      rw [fillPools_onStk, Dev.acceptCommit_eq ho, fillPools_eq]
      exact ⟨rfl, rfl, rfl, rfl, rfl⟩
  · intro s table h
    have hl : tableIdx table < s.dev.stk.banks.length := Dev.lt_banks_of_state (by omega)
    refine ⟨_, exec_tableBuildDone table s, ?_, fun i hi => Dev.bank_onBank_other _ hi _, ?_⟩
    · dsimp only
      rw [Dev.bank_onBank_same hl, if_pos h]
    · rw [Dev.onBank_eq]

end Sys2Proof.Machine
end

section
/-! PROOFS. Fences and the entries that answer their descriptors (R115, R116, R272, R451). Settles O14. -/

namespace Sys2Proof.Machine

/-! ## A Crew number whose policy word is a record log's SEQ

The registers of a Crew are found by its number times a stride, and nothing bounds the Crew of an event that waits to be written: of Crew
1310529 the address of SEC_CREW_POLICY is that of RPL_LOG_SEQ of Crew 0. A record of Crew 0 then changes NO_SURPLUS of that Crew, and with it
the turn in which the entry of the descriptor that made the record is written. -/

theorem secCrewPolicy_eq_rplLogSeq : Reg.secCrewPolicy 1310529 = Reg.rplLogSeq 0 := by decide

/-- A FENCE_SIGNAL of fence 0 with value 1. -/
def aliasedSignal : Desc := ⟨0, 0, 0, [0x22 * 2 ^ 24, 0, 0x1000, 1], 0, false, 0, 0, 0, 0⟩

/-- A ring pair of Crew 0 that has had its guaranteed share of entries, beside an event of Crew 1310529 that has had its own, while
RPL_LOG_SEQ of Crew 0, which that Crew's policy word is too, is about to carry out of bit 25. -/
def aliasedDev : Dev :=
  { Dev.reset with
    regs := [(Reg.rplLogSeq 0, BitVec.ofNat 32 (2 ^ 26 - 1))]
    hif := { Dev.reset.hif with
      rings := [(0, some ⟨1, 0, 0, 0, 1, 0, [0], false, [], none, 0, false⟩)]
      due := [aliasedSignal]
      standing := [⟨⟨0, 1, 0, [0x82 * 2 ^ 24, 0, 0, 0, 0, 4096, 2], 0, false, 0, 0, 0, 0⟩, 0, 0, 0, false, [], none, [0, 0, 0], [], []⟩]
      events := [(1310529, 1, 0, [], 0)]
      writes := [(0, 121), (1310529, 120)] } }

def aliasedState : State := { State.reset with dev := aliasedDev }

/-- What has been shown after a next state. -/
def shownAfter : Host.Outcome State Fault Refusal → Option (List Output)
  | .next t => some t.dev.out
  | _ => none

theorem aliasedSignal_isDue : aliasedDev.IsDue 0 0 0x22 aliasedSignal := ⟨by decide, by decide⟩

/-- The entry of FENCE_SIGNAL could be written at once: NO_SURPLUS lets the event of the other Crew have no turn. -/
theorem aliasedSignal_answers : aliasedDev.Answers aliasedSignal :=
  ⟨⟨⟨1, 0, 0, 0, 1, 0, [0], false, [], none, 0, false⟩, by decide, by decide, by decide⟩, by decide, by decide +kernel⟩

/-- After the record of the signal the event's turn comes first, and the entry waits. -/
theorem out_fenceSignal_aliased : shownAfter (exec (.fenceSignal 0 0) aliasedState) = some [] := by decide +kernel

theorem Dev.Completes.out_ne_nil {d t : Dev} {x : Desc} {status : Nat} {ws : List Nat} (h : d.Completes t x status ws) : t.out ≠ [] := by
  obtain ⟨i, w, k, new, ho, hm⟩ := h
  rw [ho]
  exact List.append_ne_nil_of_left_ne_nil (List.ne_nil_of_mem hm) _

/-- Refutes O14: what a record of FENCE_SIGNAL writes to RPL_LOG_SEQ can be the policy word of a Crew whose event waits, and the entry of the
descriptor, which could be written at once before, then waits for a later Stroke. No Crew from 0 to 16 has such a policy word. -/
theorem not_fencesAndPixelTables : ¬ Obligations.FencesAndPixelTables := by
  rintro ⟨hsignal, -⟩
  obtain ⟨t, ht, -, h⟩ := hsignal aliasedState 0 0 aliasedSignal aliasedSignal_isDue aliasedSignal_answers
  have hout := out_fenceSignal_aliased
  rw [ht] at hout
  rw [if_neg (by decide)] at h
  exact h.2.1.out_ne_nil (Option.some.inj hout)

end Sys2Proof.Machine
end

section
/-! PROOFS. The Stroke boundary of a device without objects (R16, R102, R123): what every part of a boundary leaves as it was. Settles
O37. -/

namespace Sys2Proof.Machine

/-! ## What every part of a boundary leaves as it was -/

/-- The Stroke and what a boundary acts on: commits, descriptors, objects and feeds. -/
structure Turn where
  stroke : Nat
  phase : Nat
  queue : List Commit
  accepted : List Commit
  staged : List Desc
  due : List Desc
  enc : Tab (Option EncDyn)
  dec : Tab (Option DecDyn)
  progs : Tab (Option ProgDyn)
  groups : Tab (Option AudGrpDyn)
  feeds : List (Desc × List FedRec × Nat)

/-- The turn that a device is at. -/
def Dev.turn (d : Dev) : Turn :=
  ⟨d.stk.stroke, d.stk.phase, d.stk.queue, d.stk.accepted, d.hif.staged, d.hif.due, d.enc, d.dec, d.cmp.progs, d.aud.groups, d.rpl.feeds⟩

/-- What every step of a fold leaves as it was, the fold leaves as it was. -/
theorem Dev.foldl_keeps {α β : Type} (v : Dev → β) {f : Dev → α → Dev} {l : List α} (h : ∀ d, ∀ a ∈ l, v (f d a) = v d) (d : Dev) :
    v (l.foldl f d) = v d :=
  List.foldlRecOn (motive := fun e : Dev => v e = v d) l f rfl fun e he a ha => (h e a ha).trans he

/-- A fold of steps that keep the turn keeps it. -/
theorem Dev.turn_foldl {α : Type} {f : Dev → α → Dev} (h : ∀ d a, (f d a).turn = d.turn) (l : List α) (d : Dev) :
    (l.foldl f d).turn = d.turn := Dev.foldl_keeps Dev.turn (fun d a _ => h d a) d

/- The laws of register writes are not stated as definitional: the kernel would evaluate the table of registers at a written address. -/
@[simp] theorem Dev.turn_setReg (d : Dev) (a : Nat) (w : Word) : (d.setReg a w).turn = d.turn := by cases d; rfl
@[simp] theorem Dev.turn_setFld (d : Dev) (a : Nat) (f : Fld) (v : Nat) : (d.setFld a f v).turn = d.turn := by cases d; rfl
@[simp] theorem Dev.turn_addFld (d : Dev) (a : Nat) (f : Fld) (n : Nat) : (d.addFld a f n).turn = d.turn := by cases d; rfl
@[simp] theorem Dev.turn_satFld (d : Dev) (a : Nat) (f : Fld) (n : Nat) : (d.satFld a f n).turn = d.turn := by cases d; rfl
@[simp] theorem Dev.turn_emit (d : Dev) (o : Output) : (d.emit o).turn = d.turn := rfl
theorem Dev.turn_onHif (d : Dev) (f : Hif → Hif) (h : ∀ x, (f x).staged = x.staged ∧ (f x).due = x.due) : (d.onHif f).turn = d.turn := by
  rw [Dev.turn, Dev.onHif, (h d.hif).1, (h d.hif).2]
  rfl
@[simp] theorem Dev.turn_onRing (d : Dev) (c r : Nat) (f : Ring → Ring) : (d.onRing c r f).turn = d.turn := rfl
@[simp] theorem Dev.turn_setRing (d : Dev) (c r : Nat) (x : Option Ring) : (d.setRing c r x).turn = d.turn := rfl
@[simp] theorem Dev.turn_onStanding (d : Dev) (p : Standing → Bool) (f : Standing → Standing) : (d.onStanding p f).turn = d.turn := rfl
@[simp] theorem Dev.turn_countWrite (d : Dev) (c r : Nat) : (d.countWrite c r).turn = d.turn := rfl
@[simp] theorem Dev.turn_onBank (d : Dev) (i : Nat) (f : Bank → Bank) : (d.onBank i f).turn = d.turn := rfl
@[simp] theorem Dev.turn_onSec (d : Dev) (f : Sec → Sec) : (d.onSec f).turn = d.turn := rfl
@[simp] theorem Dev.turn_onTim (d : Dev) (f : Tim → Tim) : (d.onTim f).turn = d.turn := rfl
@[simp] theorem Dev.turn_onEgs (d : Dev) (f : Egs → Egs) : (d.onEgs f).turn = d.turn := rfl
@[simp] theorem Dev.turn_onCox (d : Dev) (f : Cox → Cox) : (d.onCox f).turn = d.turn := rfl

/-! ## Entries, events and records -/

@[simp] theorem Dev.turn_signal (d : Dev) (c r : Nat) : (d.signal c r).turn = d.turn := by
  unfold Dev.signal
  dsimp only
  split
  · unfold Dev.fireVector
    split <;> rfl
  · rfl

@[simp] theorem Dev.turn_writeEntryAt (d : Dev) (at_ c r st op tag : Nat) (ws : List Nat) :
    (d.writeEntryAt at_ c r st op tag ws).turn = d.turn := by
  unfold Dev.writeEntryAt
  split
  · rfl
  · simp

@[simp] theorem Dev.turn_writeHeld (d : Dev) (c r : Nat) (h : Held) : (d.writeHeld c r h).turn = d.turn := by
  simp [Dev.writeHeld]

@[simp] theorem Dev.turn_finish (d : Dev) (x : Desc) (st : Nat) (ws : List Nat) : (d.finish x st ws).turn = d.turn := by
  unfold Dev.finish Dev.complete
  dsimp only
  split_ifs <;> simp

@[simp] theorem Dev.turn_writeEvent (d : Dev) (c code obj : Nat) (ws : List Nat) (at_ : Nat) :
    (d.writeEvent c code obj ws at_).turn = d.turn := by
  unfold Dev.writeEvent
  dsimp only
  split
  · rw [Dev.turn_satFld]
  · split
    · rw [Dev.turn_onHif, Dev.turn_satFld]
      exact fun _ => ⟨rfl, rfl⟩
    · rw [Dev.turn_signal, Dev.turn_countWrite, Dev.turn_onHif, Dev.turn_setFld, Dev.turn_emit]
      exact fun _ => ⟨rfl, rfl⟩

@[simp] theorem Dev.turn_record (d : Dev) (c kind sub obj : Nat) (data : List Nat) : (d.record c kind sub obj data).turn = d.turn := by
  show (d.logRecord c _).turn = d.turn
  unfold Dev.logRecord
  split
  · rfl
  · dsimp only
    split
    · rw [Dev.logLoss, Dev.turn_onStanding, Dev.turn_addFld]
    · rw [Dev.turn_onStanding, Dev.turn_setReg]

theorem Dev.turn_flushOne {d e : Dev} (h : d.flushOne = some e) : e.turn = d.turn := by
  obtain ⟨p, -, h⟩ := Option.bind_eq_some_iff.mp h
  split at h
  · obtain ⟨x, -, rfl⟩ := Option.map_eq_some_iff.mp h
    rw [Dev.turn_writeEvent]
    rfl
  · obtain ⟨g, -, h⟩ := Option.bind_eq_some_iff.mp h
    obtain ⟨x, -, rfl⟩ := Option.map_eq_some_iff.mp h
    simp

theorem Dev.turn_flushEntries (n : Nat) (d : Dev) : (Dev.flushEntries n d).turn = d.turn := by
  induction n generalizing d with
  | zero => rfl
  | succ n ih =>
    rw [Dev.flushEntries]
    split
    · rfl
    · next e h => rw [ih, Dev.turn_flushOne h]

@[simp] theorem Dev.turn_newCapacity (d : Dev) : d.newCapacity.turn = d.turn := Dev.turn_flushEntries _ _

/-! ## The parts of a boundary -/

@[simp] theorem Dev.turn_leapDay (d : Dev) : d.leapDay.turn = d.turn := by
  unfold Dev.leapDay
  split
  · rfl
  · split <;> rfl

@[simp] theorem Dev.turn_releasePools (d : Dev) : d.releasePools.turn = d.turn := rfl

@[simp] theorem Dev.turn_rehash (d : Dev) : d.rehash.turn = d.turn := rfl

@[simp] theorem Dev.turn_swapBank (d : Dev) (t : TableId) : (d.swapBank t).turn = d.turn := by
  have hrec (i : Nat) : ((d.tableCrews t).foldl (fun d c => d.record c 0x05 0 0 [i]) d).turn = d.turn :=
    Dev.turn_foldl (fun d c => Dev.turn_record d c 0x05 0 0 [i]) _ _
  unfold Dev.swapBank
  dsimp only
  split
  · split_ifs <;> simp only [Dev.turn_rehash, Dev.turn_addFld, Dev.turn_setFld, Dev.turn_onBank, hrec]
  · rw [Dev.turn_onBank, hrec]

@[simp] theorem Dev.turn_swapRehashed (d : Dev) : d.swapRehashed.turn = d.turn := by
  unfold Dev.swapRehashed
  dsimp only
  split
  · exact Dev.turn_swapBank _ _
  · rfl

@[simp] theorem Dev.turn_beginBuild (d : Dev) (t : TableId) : (d.beginBuild t).turn = d.turn := rfl

@[simp] theorem Dev.turn_setLut (d : Dev) (slot i v : Nat) : (d.setLut slot i v).turn = d.turn := rfl

@[simp] theorem Dev.turn_runDeferred (d : Dev) (e : Deferred) : (d.runDeferred e).turn = d.turn := by
  have hset : (e.desc.pokes.foldl (fun d p => d.setLut e.desc.layerSlot p.1 p.2) d).turn = d.turn :=
    Dev.turn_foldl (fun d (p : Nat × Nat) => Dev.turn_setLut d _ p.1 p.2) _ _
  unfold Dev.runDeferred Dev.pokeLut Dev.loadKey Dev.setKey
  split
  · rw [Dev.turn_finish, hset]
  · split
    · simp
    · split <;> simp

@[simp] theorem Dev.turn_swapTable (d : Dev) (t : TableId) : (d.swapTable t).turn = d.turn := by
  have hrun (l : List Deferred) (d : Dev) : (l.foldl Dev.runDeferred d).turn = d.turn := Dev.turn_foldl Dev.turn_runDeferred l d
  have hdef (d : Dev) (f : List Deferred → List Deferred) : (d.onStk fun k => { k with deferred := f k.deferred }).turn = d.turn := rfl
  unfold Dev.swapTable
  dsimp only
  split
  · rw [Dev.turn_beginBuild, hrun, hdef _ fun l => l.filter _, Dev.turn_swapBank]
  · rw [hrun, hdef _ fun l => l.filter _, Dev.turn_swapBank]

@[simp] theorem Dev.turn_swapReady (d : Dev) : d.swapReady.turn = d.turn := by
  unfold Dev.swapReady
  dsimp only
  split_ifs <;> simp

@[simp] theorem Dev.turn_showCrew (d : Dev) (c : Nat) : (d.showCrew c).turn = d.turn := by
  rw [Dev.showCrew, Dev.turn_setFld, Dev.turn_setFld]

@[simp] theorem Dev.turn_suspendsBoundary (d : Dev) : d.suspendsBoundary.turn = d.turn := by
  unfold Dev.suspendsBoundary
  dsimp only
  rw [Dev.turn_foldl fun d p => by rw [Dev.turn_finish, Dev.turn_showCrew, Dev.turn_setFld], Dev.turn_onSec]

@[simp] theorem Dev.turn_throttle (d : Dev) (u k : Nat) : (d.throttle u k).turn = d.turn := by
  unfold Dev.throttle
  dsimp only
  split
  · rfl
  · rw [Dev.turn_foldl fun d c => Dev.turn_record d c 0x04 0 0 _, Dev.turn_setFld, Dev.turn_setFld]

@[simp] theorem Dev.turn_throttleAll (d : Dev) : d.throttleAll.turn = d.turn := by
  unfold Dev.throttleAll
  dsimp only
  rw [Dev.turn_foldl fun d u => Dev.turn_throttle d u _, Dev.turn_onCox]

@[simp] theorem Dev.turn_drainFlows (d : Dev) : d.drainFlows.turn = d.turn := rfl

@[simp] theorem Dev.turn_showReserved (d : Dev) : d.showReserved.turn = d.turn := by simp [Dev.showReserved]

@[simp] theorem Dev.turn_recordsDue (d : Dev) : d.recordsDue.turn = d.turn := by
  unfold Dev.recordsDue
  rw [Dev.turn_foldl fun d p => Dev.turn_record d _ _ _ _ _]
  rfl

@[simp] theorem Dev.turn_rampOutput (d : Dev) (io : Nat) (up : Bool) : (d.rampOutput io up).turn = d.turn := rfl

@[simp] theorem Dev.turn_unmute (d : Dev) (io : Nat) : (d.unmute io).turn = d.turn := by
  unfold Dev.unmute
  dsimp only
  split
  · split
    · rw [Dev.turn_rampOutput, Dev.turn_setFld]
    · rw [Dev.turn_setFld]
  · split
    · rw [Dev.turn_rampOutput]
    · rfl

@[simp] theorem Dev.turn_houseMuted (d : Dev) : d.houseMuted.turn = d.turn := by
  unfold Dev.houseMuted
  split
  · rfl
  · exact Dev.turn_setFld _ _ _ _

@[simp] theorem Dev.turn_houseBack (d : Dev) : d.houseBack.turn = d.turn := by
  unfold Dev.houseBack
  dsimp only
  split
  · rfl
  · rw [Dev.turn_houseMuted, Dev.turn_foldl Dev.turn_unmute]

@[simp] theorem Dev.turn_play (d : Dev) (p : Play) : (d.play p).turn = d.turn := by
  unfold Dev.play
  dsimp only
  split
  · split
    · rfl
    · exact Dev.turn_emit _ _
  · split
    · split
      · rfl
      · exact Dev.turn_emit _ _
    · split
      · rfl
      · exact Dev.turn_emit _ _

@[simp] theorem Dev.turn_playDue (d : Dev) : d.playDue.turn = d.turn := by
  unfold Dev.playDue
  dsimp only
  rw [Dev.turn_foldl Dev.turn_play]
  rfl

@[simp] theorem Dev.turn_macCount (d : Dev) (m i n : Nat) : (d.macCount m i n).turn = d.turn := by simp [Dev.macCount]

@[simp] theorem Dev.turn_putLive (d : Dev) (q : Nat) (n : Nominal) (no s : Nat) : (d.putLive q n no s).turn = d.turn := by
  unfold Dev.putLive
  dsimp only
  split_ifs <;> simp

@[simp] theorem Dev.turn_putQueue (d : Dev) (q s : Nat) : (d.putQueue q s).turn = d.turn := by
  unfold Dev.putQueue
  refine Dev.turn_foldl (fun d n => ?_) _ _
  dsimp only
  split <;> simp

@[simp] theorem Dev.turn_egressBoundary (d : Dev) : d.egressBoundary.turn = d.turn := by
  unfold Dev.egressBoundary
  split
  · rfl
  · dsimp only
    rw [Dev.turn_onEgs, Dev.turn_foldl fun d q => Dev.turn_putQueue d q _, Dev.turn_onEgs]

@[simp] theorem Dev.turn_syncBoundary (d : Dev) : d.syncBoundary.turn = d.turn := by
  unfold Dev.syncBoundary Dev.setSync
  dsimp only
  split_ifs <;> simp

@[simp] theorem Dev.turn_pmuStroke (d : Dev) : d.pmuStroke.turn = d.turn := by
  unfold Dev.pmuStroke
  refine Dev.turn_foldl (fun d p => ?_) _ _
  dsimp only
  split <;> rfl

@[simp] theorem Dev.turn_pollDoorbells (d : Dev) : d.pollDoorbells.turn = d.turn := by
  unfold Dev.pollDoorbells
  refine (Dev.turn_foldl (fun d c => ?_) _ _).trans rfl
  split
  · split
    · rfl
    · exact Dev.turn_emit _ _
  · rfl

/-! ## The parts of a boundary that change the turn -/

/-- The Stroke count goes up by one, and the phase begins at 0. -/
theorem Dev.turn_advance (d : Dev) : d.advance.turn = { d.turn with stroke := d.turn.stroke + 1, phase := 0 } := by
  unfold Dev.advance Dev.showReplay
  dsimp only
  split
  · rw [Dev.turn_setFld, Dev.turn_setFld]
    rfl
  · rfl

theorem Dev.turn_missTargets {d : Dev} (h : d.turn.queue = []) : d.missTargets.turn = d.turn := by
  have hq : d.stk.queue = [] := h
  simp only [Dev.missTargets, hq, List.filter_nil, List.foldl_nil]
  rw [Dev.turn, Dev.turn, hq]
  simp [Dev.onStk, hq]

theorem Dev.turn_admitQueued {d : Dev} (h : d.turn.queue = []) : d.admitQueued.turn = d.turn := by
  have hq : d.stk.queue = [] := h
  simp only [Dev.admitQueued, hq, List.foldl_nil]
  rw [Dev.turn, Dev.turn, hq]
  simp [Dev.onStk]

theorem Dev.regs_missTargets {d : Dev} (h : d.turn.queue = []) : d.missTargets.regs = d.regs := by
  have hq : d.stk.queue = [] := h
  simp only [Dev.missTargets, hq, List.filter_nil, List.foldl_nil]
  rfl

theorem Dev.regs_admitQueued {d : Dev} (h : d.turn.queue = []) : d.admitQueued.regs = d.regs := by
  have hq : d.stk.queue = [] := h
  simp only [Dev.admitQueued, hq, List.foldl_nil]
  rfl

theorem effects_of_none {m : Memory} {d : Dev} (h : d.turn.accepted = []) : effects (m, d) = (m, d) := by
  have ha : d.stk.accepted = [] := h
  rw [effects, ha]
  rfl

theorem Dev.turn_endDescs (d : Dev) (hit : Desc → Bool) (status : Nat) :
    (d.endDescs hit status).turn =
      { d.turn with staged := d.turn.staged.filter fun x => !hit x, due := d.turn.due.filter fun x => !hit x } := by
  unfold Dev.endDescs
  dsimp only
  rw [Dev.turn_foldl fun d x => Dev.turn_finish d x status []]
  rfl

theorem Dev.turn_dueDescriptors (d : Dev) :
    d.dueDescriptors.turn =
      { d.turn with due := d.turn.due ++ d.turn.staged.filter (fun x => !x.waits && decide (x.effect ≤ d.turn.stroke))
                    staged := d.turn.staged.filter fun x => !(!x.waits && decide (x.effect ≤ d.turn.stroke)) } := rfl

/-! ## Registers of ring pairs before descriptors are due -/

theorem Dev.regs_finish (d : Dev) (x : Desc) (st : Nat) (ws : List Nat) : (d.finish x st ws).regs = d.regs := by rw [Dev.finish_eq]

theorem Dev.regs_endDescs (d : Dev) (hit : Desc → Bool) (status : Nat) : (d.endDescs hit status).regs = d.regs := by
  unfold Dev.endDescs
  exact Dev.foldl_keeps Dev.regs (fun d x _ => Dev.regs_finish d x status []) _

/-- Registers below those of HIF's pages, where ring pairs have theirs. -/
theorem Dev.ringState_setFld_low (d : Dev) {a : Nat} (f : Fld) (v c r : Nat) (h : a < 0x1410000) :
    (d.setFld a f v).ringState c r = d.ringState c r := Dev.fld_setFld_other d f _ v (by unfold Reg.hifRingStatus; omega)

theorem Dev.ringState_of_regs {d e : Dev} (h : e.regs = d.regs) (c r : Nat) : e.ringState c r = d.ringState c r := by
  rw [Dev.ringState, Dev.fld, Dev.reg_of_regs h, ← Dev.fld, ← Dev.ringState]

theorem Dev.ringState_of_reg {d e : Dev} {c r : Nat} (h : e.reg (Reg.hifRingStatus c r) = d.reg (Reg.hifRingStatus c r)) :
    e.ringState c r = d.ringState c r := by
  rw [Dev.ringState, Dev.fld, h, ← Dev.fld, ← Dev.ringState]

theorem Dev.ringState_advance (d : Dev) (c r : Nat) : d.advance.ringState c r = d.ringState c r := by
  unfold Dev.advance Dev.showReplay
  dsimp only
  split
  · rw [Dev.ringState_setFld_low _ _ _ _ _ (by decide), Dev.ringState_setFld_low _ _ _ _ _ (by decide)]
    rfl
  · rfl

/-- The status of an event ring is never at the address of a ring pair's. -/
theorem hifRingStatus_ne_hifEvqStatus (c r crew : Nat) : Reg.hifRingStatus c r ≠ Reg.hifEvqStatus crew := by
  unfold Reg.hifRingStatus Reg.hifEvqStatus
  omega

theorem Dev.ringState_flushOne {d e : Dev} (h : d.flushOne = some e) (c r : Nat) : e.ringState c r = d.ringState c r := by
  obtain ⟨p, -, h⟩ := Option.bind_eq_some_iff.mp h
  split at h
  · obtain ⟨x, -, rfl⟩ := Option.map_eq_some_iff.mp h
    refine Dev.ringState_of_reg ?_
    rw [Dev.reg_writeEvent _ _ _ _ _ _ (hifRingStatus_ne_hifEvqStatus c r _), Dev.reg_onHif]
  · obtain ⟨g, -, h⟩ := Option.bind_eq_some_iff.mp h
    obtain ⟨x, -, rfl⟩ := Option.map_eq_some_iff.mp h
    refine Dev.ringState_of_regs ?_ c r
    rw [Dev.writeHeld_eq]
    rfl

theorem Dev.ringState_flushEntries (n : Nat) (d : Dev) (c r : Nat) : (Dev.flushEntries n d).ringState c r = d.ringState c r := by
  induction n generalizing d with
  | zero => rfl
  | succ n ih =>
    rw [Dev.flushEntries]
    split
    · rfl
    · next e h => rw [ih, Dev.ringState_flushOne h]

theorem Dev.regs_leapDay (d : Dev) : d.leapDay.regs = d.regs := by
  unfold Dev.leapDay
  split
  · rfl
  · split <;> rfl

theorem Dev.regs_runDeferred (d : Dev) (e : Deferred) : (d.runDeferred e).regs = d.regs := by
  have hset : (e.desc.pokes.foldl (fun d p => d.setLut e.desc.layerSlot p.1 p.2) d).regs = d.regs :=
    Dev.foldl_keeps Dev.regs (fun d (p : Nat × Nat) _ => (rfl : (d.setLut _ p.1 p.2).regs = d.regs)) d
  unfold Dev.runDeferred Dev.pokeLut Dev.loadKey Dev.setKey
  split
  · rw [Dev.regs_finish, hset]
  · split
    · exact Dev.regs_finish _ _ _ _
    · split
      · exact Dev.regs_finish _ _ _ _
      · exact Dev.regs_finish _ _ _ _

theorem Dev.ringState_swapBank (d : Dev) (t : TableId) (c r : Nat) : (d.swapBank t).ringState c r = d.ringState c r := by
  have hrec (i : Nat) : ((d.tableCrews t).foldl (fun d c => d.record c 0x05 0 0 [i]) d).ringState c r = d.ringState c r := by
    refine Dev.foldl_keeps (fun d => d.ringState c r) (fun e crew hc => ?_) d
    have hlt : crew < 17 := by simpa using List.of_mem_filter hc
    refine Dev.ringState_of_reg (Dev.reg_record e crew 0x05 0 0 [i] ?_ ?_)
    · unfold Reg.hifRingStatus Reg.rplLogStatus; omega
    · unfold Reg.hifRingStatus Reg.rplLogSeq; omega
  have hbank (d : Dev) (i : Nat) (f : Bank → Bank) : (d.onBank i f).ringState c r = d.ringState c r := rfl
  have hseed (d : Dev) (f : Fld) (v : Nat) : (d.setFld Reg.egsClsStatus f v).ringState c r = d.ringState c r :=
    Dev.ringState_setFld_low d f v c r (by decide)
  unfold Dev.swapBank
  dsimp only
  split
  · split_ifs <;> simp only [Dev.rehash, Dev.addFld, hbank, hseed, hrec]
  · rw [hbank, hrec]

theorem Dev.ringState_swapTable (d : Dev) (t : TableId) (c r : Nat) : (d.swapTable t).ringState c r = d.ringState c r := by
  have hrun (l : List Deferred) (d : Dev) : (l.foldl Dev.runDeferred d).ringState c r = d.ringState c r :=
    Dev.ringState_of_regs (Dev.foldl_keeps Dev.regs (fun d e _ => Dev.regs_runDeferred d e) d) c r
  have hstk (d : Dev) (f : Stk → Stk) : (d.onStk f).ringState c r = d.ringState c r := rfl
  have hbuild (d : Dev) : (d.beginBuild t).ringState c r = d.ringState c r := rfl
  unfold Dev.swapTable
  dsimp only
  split
  · rw [hbuild, hrun, hstk, Dev.ringState_swapBank]
  · rw [hrun, hstk, Dev.ringState_swapBank]

theorem Dev.ringState_swapReady (d : Dev) (c r : Nat) : d.swapReady.ringState c r = d.ringState c r := by
  have hre : d.swapRehashed.ringState c r = d.ringState c r := by
    unfold Dev.swapRehashed
    dsimp only
    split
    · exact Dev.ringState_swapBank _ _ _ _
    · rfl
  unfold Dev.swapReady
  dsimp only
  split_ifs <;> simp only [Dev.ringState_swapTable, hre]

/-- At a boundary only posts of ring pairs that drain are shut down (R123): of what is staged all else stays. -/
theorem Dev.turn_shutRings (d : Dev) :
    ∃ staged due, d.shutRings.turn = { d.turn with staged := staged, due := due } ∧
      ∀ x ∈ d.turn.staged, (standingOps.contains x.opcode = true → d.ringState x.crew x.ring ≠ 2) → x ∈ staged := by
  suffices h : d.shutRings.regs = d.regs ∧ ∃ staged due, d.shutRings.turn = { d.turn with staged := staged, due := due } ∧
      ∀ x ∈ d.turn.staged, (standingOps.contains x.opcode = true → d.ringState x.crew x.ring ≠ 2) → x ∈ staged from h.2
  unfold Dev.shutRings
  refine List.foldlRecOn (motive := fun e : Dev => e.regs = d.regs ∧ ∃ staged due, e.turn = { d.turn with staged := staged, due := due } ∧
    ∀ x ∈ d.turn.staged, (standingOps.contains x.opcode = true → d.ringState x.crew x.ring ≠ 2) → x ∈ staged) _ _
    ⟨rfl, _, _, rfl, fun x hx _ => hx⟩ fun e he p _ => ?_
  obtain ⟨hregs, staged, due, ht, hin⟩ := he
  dsimp only
  split
  · next h2 =>
    rw [Dev.ringState_of_regs hregs] at h2
    refine ⟨(Dev.regs_endDescs _ _ _).trans hregs, _, _, by rw [Dev.turn_endDescs, ht], fun x hx hs => ?_⟩
    refine List.mem_filter.mpr ⟨hin x hx hs, ?_⟩
    simp only [Bool.not_eq_true', Bool.and_eq_false_iff, decide_eq_false_iff_not]
    by_contra hn
    simp only [not_or, not_not, Bool.not_eq_false] at hn
    obtain ⟨⟨hc, hr⟩, ho⟩ := hn
    exact hs ho (by rw [hc, hr, h2])
  · exact ⟨hregs, staged, due, ht, hin⟩

/-! ## The media block, and feeds -/

theorem Dev.turn_takeArrival {d : Dev} (h : d.turn.progs = []) (a : Arrival) : (d.takeArrival a).turn = d.turn := by
  have hp : d.cmp.progs = [] := h
  have hon (p : Nat) (f : ProgDyn → ProgDyn) : (d.onProg p f).turn = d.turn := by
    have hnone : d.prog? p = none := by rw [Dev.prog?, hp, Tab.get_nil]
    have hput : Tab.put noProg d.cmp.progs p ((d.prog? p).map f) = d.cmp.progs := by
      rw [hp, hnone]
      rfl
    rw [Dev.onProg, Dev.turn, Dev.onCmp]
    dsimp only
    rw [hput]
    rfl
  cases a with
  | band b => rfl
  | strip p l k j planes => exact hon p _
  | buffer p l planes => exact hon p _

/-- Without objects the media block keeps the turn. -/
theorem Dev.turn_mediaBoundary {d : Dev} (content : List Arrival) (he : d.turn.enc = []) (hd : d.turn.dec = []) (hp : d.turn.progs = [])
    (hg : d.turn.groups = []) : (d.mediaBoundary content).turn = d.turn := by
  have henc : d.recordsDue.enc = [] := (congrArg Turn.enc (Dev.turn_recordsDue d)).trans he
  have harr : (content.foldl Dev.takeArrival d.recordsDue).turn = d.turn :=
    List.foldlRecOn (motive := fun e : Dev => e.turn = d.turn) _ _ (Dev.turn_recordsDue d) fun e h a _ =>
      (Dev.turn_takeArrival (by rw [h, hp]) a).trans h
  unfold Dev.mediaBoundary
  simp only [henc, List.map_nil, List.foldl_nil]
  generalize content.foldl Dev.takeArrival d.recordsDue = e at harr
  have hdec : e.dec = [] := (congrArg Turn.dec harr).trans hd
  have hprogs : e.cmp.progs = [] := (congrArg Turn.progs harr).trans hp
  have hgroups : e.aud.groups = [] := (congrArg Turn.groups harr).trans hg
  simp only [hdec, hprogs, hgroups, List.map_nil, List.foldl_nil]
  rw [Dev.turn_playDue, Dev.turn_houseBack, harr]

theorem Dev.turn_applyFeeds {d : Dev} (h : d.turn.feeds = []) : d.applyFeeds.turn = d.turn := by
  have hf : d.rpl.feeds = [] := h
  simp only [Dev.applyFeeds, Dev.feedsDone, hf, List.flatMap_nil, List.map_nil, List.filter_nil, List.foldl_nil]
  rw [Dev.turn, Dev.turn, hf]

/-- Without commits, objects and feeds, what follows the effects of commits makes staged descriptors due and keeps the rest of the turn. -/
theorem Dev.turn_afterEffects {d : Dev} (content : List Arrival) (hq : d.turn.queue = []) (he : d.turn.enc = []) (hd : d.turn.dec = [])
    (hp : d.turn.progs = []) (hg : d.turn.groups = []) (hf : d.turn.feeds = []) :
    (d.afterEffects content).turn = d.swapReady.admitQueued.shutRings.suspendsBoundary.dueDescriptors.turn := by
  have hsw : d.swapReady.admitQueued.turn = d.turn :=
    (Dev.turn_admitQueued (by rw [Dev.turn_swapReady, hq])).trans (Dev.turn_swapReady d)
  obtain ⟨staged, due, hshut, -⟩ := Dev.turn_shutRings d.swapReady.admitQueued
  generalize hw : d.swapReady.admitQueued.shutRings.suspendsBoundary.dueDescriptors = w
  have hidle : w.turn.enc = [] ∧ w.turn.dec = [] ∧ w.turn.progs = [] ∧ w.turn.groups = [] ∧ w.turn.feeds = [] := by
    rw [← hw, Dev.turn_dueDescriptors, Dev.turn_suspendsBoundary, hshut, hsw]
    exact ⟨he, hd, hp, hg, hf⟩
  obtain ⟨he, hd, hp, hg, hf⟩ := hidle
  unfold Dev.afterEffects
  simp only [hw]
  have hm (e : Dev) (h : e.turn = w.turn) : (if e.inReset 5 then e else e.mediaBoundary content).turn = w.turn := by
    split
    · exact h
    · rw [Dev.turn_mediaBoundary content (by rw [h, he]) (by rw [h, hd]) (by rw [h, hp]) (by rw [h, hg]), h]
  have heg (e : Dev) (h : e.turn = w.turn) : (if e.inReset 4 then e else e.egressBoundary).turn = w.turn := by
    split
    · exact h
    · rw [Dev.turn_egressBoundary, h]
  have hpoll (e : Dev) (h : e.turn = w.turn) : (if e.inReset 6 then e else e.pollDoorbells).turn = w.turn := by
    split
    · exact h
    · rw [Dev.turn_pollDoorbells, h]
  have hlast := hpoll _ (((Dev.turn_pmuStroke _).trans (Dev.turn_syncBoundary _)).trans (heg _ (hm w.throttleAll.drainFlows.showReserved
    (by rw [Dev.turn_showReserved, Dev.turn_drainFlows, Dev.turn_throttleAll]))))
  rw [Dev.turn_applyFeeds (by rw [hlast, hf]), hlast]

theorem strokeBoundary_of_no_step {x : HbmDev} (content : List Arrival) (h : x.2.mayStep = false) : strokeBoundary content x = x := by
  rw [strokeBoundary, if_pos (by simp [h])]

theorem exec_strokeBoundary (content : List Arrival) (s : State) :
    exec (.strokeBoundary content) s =
      .next { s with mem := (strokeBoundary content (s.mem, s.dev)).1, dev := (strokeBoundary content (s.mem, s.dev)).2 } := rfl

/-- Settles O37: a boundary without commits, objects and feeds moves the Stroke on and makes descriptors due, and keeps the rest of the
turn. -/
theorem theStrokeBoundary : Obligations.StrokeBoundary := by
  refine ⟨fun s content hs hq ha he hd hp hg hf => ?_, fun s content hs => ?_⟩
  · generalize hl : s.dev.advance.newCapacity.leapDay = l
    have hlt : l.turn = { s.dev.turn with stroke := s.dev.turn.stroke + 1, phase := 0 } := by
      rw [← hl, Dev.turn_leapDay, Dev.turn_newCapacity, Dev.turn_advance]
    have hlq : l.turn.queue = [] := by rw [hlt]; exact hq
    generalize hb : l.missTargets.releasePools = b
    have hbt : b.turn = { s.dev.turn with stroke := s.dev.turn.stroke + 1, phase := 0 } := by
      rw [← hb, Dev.turn_releasePools, Dev.turn_missTargets hlq, hlt]
    have hbq : b.swapReady.turn.queue = [] := by rw [Dev.turn_swapReady, hbt]; exact hq
    have hbe : strokeBoundary content (s.mem, s.dev) = (s.mem, b.afterEffects content) := by
      rw [strokeBoundary, if_neg (by simp [hs])]
      dsimp only
      rw [hl, hb, effects_of_none (by rw [hbt]; exact ha)]
    have hring (c r : Nat) : b.swapReady.admitQueued.ringState c r = s.dev.ringState c r := by
      have hmiss : b.regs = l.regs := by rw [← hb]; exact Dev.regs_missTargets hlq
      rw [Dev.ringState_of_regs (Dev.regs_admitQueued hbq), Dev.ringState_swapReady, Dev.ringState_of_regs hmiss, ← hl,
        Dev.ringState_of_regs (Dev.regs_leapDay _), Dev.newCapacity, Dev.ringState_flushEntries]
      exact Dev.ringState_advance s.dev c r
    obtain ⟨staged, due, hshut, hin⟩ := Dev.turn_shutRings b.swapReady.admitQueued
    have ht : (b.afterEffects content).turn = { s.dev.turn with
        stroke := s.dev.turn.stroke + 1, phase := 0
        due := due ++ staged.filter fun x => !x.waits && decide (x.effect ≤ s.dev.turn.stroke + 1)
        staged := staged.filter fun x => !(!x.waits && decide (x.effect ≤ s.dev.turn.stroke + 1)) } := by
      rw [Dev.turn_afterEffects content (by rw [hbt]; exact hq) (by rw [hbt]; exact he) (by rw [hbt]; exact hd) (by rw [hbt]; exact hp)
        (by rw [hbt]; exact hg) (by rw [hbt]; exact hf), Dev.turn_dueDescriptors, Dev.turn_suspendsBoundary, hshut,
        Dev.turn_admitQueued hbq, Dev.turn_swapReady, hbt]
    refine ⟨_, exec_strokeBoundary content s, ?_⟩
    rw [hbe]
    refine ⟨congrArg Turn.stroke ht, congrArg Turn.phase ht, rfl, fun x hx hw hx' hr => ?_⟩
    have hd : (b.afterEffects content).hif.due = _ := congrArg Turn.due ht
    rw [hd]
    refine List.mem_append_right _ (List.mem_filter.mpr ⟨hin x ?_ fun ho => ?_, ?_⟩)
    · rw [Dev.turn_admitQueued hbq, Dev.turn_swapReady, hbt]
      exact hx
    · rw [hring]
      exact hr ho
    · simp only [hw, Bool.not_false, Bool.true_and, decide_eq_true_eq]
      exact hx'
  · rw [exec_strokeBoundary, strokeBoundary_of_no_step (x := (s.mem, s.dev)) content hs]

end Sys2Proof.Machine
end

section
/-! PROOFS. Frame boundaries and the coding of a piece (R154, R160, R210, R233, R242), and deliveries into host buffers (R163, R192). Settles
O44. -/

namespace Sys2Proof.Machine

/-! ## What is shown about a channel after a change of one -/

theorem Dev.enc_onEnc_same (d : Dev) (c : Nat) (f : EncDyn → EncDyn) : (d.onEnc c f).enc? c = (d.enc? c).map f :=
  Tab.get_put_same _ _ _

theorem Dev.enc_onEnc_other (d : Dev) {c e : Nat} (f : EncDyn → EncDyn) (h : e ≠ c) : (d.onEnc c f).enc? e = d.enc? e :=
  Tab.get_put_other _ _ h

theorem Dev.dec_onDec_same (d : Dev) (c : Nat) (f : DecDyn → DecDyn) : (d.onDec c f).dec? c = (d.dec? c).map f :=
  Tab.get_put_same _ _ _

/-- Descriptors that complete one after the other change the host side and what is shown. -/
theorem Dev.foldl_finish_eq {α : Type} (x : α → Desc) (st : α → Nat) (ws : α → List Nat) (l : List α) (d : Dev) :
    l.foldl (fun d a => d.finish (x a) (st a) (ws a)) d =
      { d with hif := (l.foldl (fun d a => d.finish (x a) (st a) (ws a)) d).hif
               out := (l.foldl (fun d a => d.finish (x a) (st a) (ws a)) d).out } :=
  List.foldlRecOn (motive := fun e : Dev => e = { d with hif := e.hif, out := e.out }) l _ rfl fun e he a _ => by
    rw [Dev.finish_eq]
    generalize (e.finish (x a) (st a) (ws a)).hif = h, (e.finish (x a) (st a) (ws a)).out = o
    rw [he]

/-! ## Frame boundaries of encode channels (R154, R160) -/

theorem exec_frameBoundary_enc (c k : Nat) (s : State) (hc : c < 256) {x : EncDyn} {p : Nat × EncCfg} (hx : s.dev.enc? c = some x)
    (hp : cfgFor x.cfgs k = some p) (hl : p.2.live = true) (hk : x.first ≤ k) (hs : frameStroke p.2.num p.2.den k = s.dev.now) :
    exec (.frameBoundary (0x100 + c) k) s = .next { s with dev := s.dev.encFrame c k } := by
  show execFrameBoundary _ _ s = _
  rw [execFrameBoundary, State.lift_eq]
  have hin : 0x100 ≤ 0x100 + c ∧ 0x100 + c < 0x200 := by omega
  simp only [hin, and_self, if_true, Nat.add_sub_cancel_left, hx, Option.bind_some, hp, Option.map_some, hl, hk, hs]

theorem cfgFor_isSome {l : List (Nat × EncCfg)} (h : l ≠ []) (j : Nat) : ∃ p, cfgFor l j = some p := by
  induction l with
  | nil => exact absurd rfl h
  | cons p r ih =>
    cases r with
    | nil => exact ⟨p, rfl⟩
    | cons q r =>
      by_cases hj : p.1 ≤ j
      · exact ⟨p, if_pos hj⟩
      · obtain ⟨w, hw⟩ := ih (by simp)
        exact ⟨w, (if_neg hj).trans hw⟩

theorem ne_nil_of_cfgFor {l : List (Nat × EncCfg)} {j : Nat} {p : Nat × EncCfg} (h : cfgFor l j = some p) : l ≠ [] := by
  rintro rfl
  exact absurd h (by simp [cfgFor])

/-- Opening a frame takes in nothing of MDCV and CLL. -/
theorem EncDyn.hdrNext_openFrame (x : EncDyn) (k now : Nat) : (x.openFrame k now).hdrNext = x.hdrNext := by
  unfold EncDyn.openFrame
  split
  · rfl
  · split_ifs <;> rfl

/-- The strongest of the kinds asked for, with an IDR picture among them, is an IDR picture. -/
theorem foldl_min_append_zero (l : List Nat) (n : Nat) : (l ++ [0]).foldl min n = 0 := by simp

theorem EncDyn.settled_openFrame {x : EncDyn} {k : Nat} {p : Nat × EncCfg} (h : cfgFor x.cfgs k = some p) (now : Nat) :
    (x.openFrame k now).settled k = true := by
  unfold EncDyn.openFrame
  rw [h]
  dsimp only
  split_ifs with h₁ h₂
  · exact h₁
  · simp [EncDyn.settled]
  · simp [EncDyn.settled, EncDyn.settle]

/-- Where nothing came before it in its sequence, a frame that opens is an IDR picture. -/
theorem EncDyn.kindOf_openFrame {x : EncDyn} {k : Nat} {p : Nat × EncCfg} (h : cfgFor x.cfgs k = some p) (hs : x.settled k = false)
    (hm : x.mismatch = false) (hi : x.lastIrap = none) (now : Nat) : (x.openFrame k now).kindOf k = 0 := by
  unfold EncDyn.openFrame
  rw [h]
  simp only [hs, hm, Bool.false_eq_true, if_false]
  simp only [EncDyn.kindOf, EncDyn.settle, hi, if_true, foldl_min_append_zero]
  simp

/-- The settings that a frame boundary keeps. -/
theorem exists_cfgFor_kept {l : List (Nat × EncCfg)} {j : Nat} {p : Nat × EncCfg} (h : cfgFor l j = some p) (k : Nat) :
    ∃ q, cfgFor (l.filter (fun p => decide (k - 64 < p.1)) ++ (l.filter fun p => decide (p.1 ≤ k - 64)).take 1) j = some q := by
  refine cfgFor_isSome (fun hn => ?_) j
  obtain ⟨h₁, h₂⟩ := List.append_eq_nil_iff.mp hn
  obtain ⟨q, r, rfl⟩ := List.exists_cons_of_ne_nil (ne_nil_of_cfgFor h)
  by_cases hq : k - 64 < q.1
  · simp [hq] at h₁
  · simp [Nat.le_of_not_lt hq] at h₂

/-- A frame boundary settles its frame. -/
theorem Dev.encFrame_settles {d : Dev} {c k : Nat} {x : EncDyn} {p : Nat × EncCfg} (hx : d.enc? c = some x)
    (hp : cfgFor x.cfgs k = some p) :
    ∃ y, (d.encFrame c k).enc? c = some y ∧ y.settled k = true ∧ y.hdrNext = x.hdrNext.filter (fun h => decide (d.now < h.effect)) ∧
      (x.settled k = false → x.mismatch = false → x.lastIrap = none → y.kindOf k = 0) ∧
      (∀ e, e ≠ c → (d.encFrame c k).enc? e = d.enc? e) ∧
      d.encFrame c k = { d with enc := (d.encFrame c k).enc, hif := (d.encFrame c k).hif, out := (d.encFrame c k).out } := by
  obtain ⟨q, hq⟩ := exists_cfgFor_kept hp k
  unfold Dev.encFrame
  rw [hx]
  dsimp only
  rw [Dev.foldl_finish_eq (fun y => y) (fun _ => 0) (fun _ => [])]
  refine ⟨_, (Dev.enc_onEnc_same _ _ _).trans (congrArg (Option.map _) hx), ?_, ?_, fun h₁ h₂ h₃ => ?_, fun e he =>
    Dev.enc_onEnc_other _ _ he, rfl⟩
  · exact EncDyn.settled_openFrame hq _
  · exact EncDyn.hdrNext_openFrame _ _ _
  · refine EncDyn.kindOf_openFrame hq ?_ ?_ ?_ _
    · exact h₁
    · exact h₂
    · simp only [h₃, ite_self]

/-! ## Frame boundaries of decode channels (R242) -/

theorem exec_frameBoundary_dec (c k : Nat) (s : State) (hc : c < 64) {x : DecDyn} (hx : s.dev.dec? c = some x)
    (hs : frameStroke x.cfg.num x.cfg.den k = s.dev.now) :
    exec (.frameBoundary (0x200 + c) k) s = .next { s with dev := s.dev.decFrame c k } := by
  show execFrameBoundary _ _ s = _
  rw [execFrameBoundary, State.lift_eq]
  have hno : ¬(0x100 ≤ 0x200 + c ∧ 0x200 + c < 0x200) := by omega
  have hin : 0x200 ≤ 0x200 + c ∧ 0x200 + c < 0x240 := by omega
  simp only [hno, hin, and_self, if_false, if_true, Nat.add_sub_cancel_left, hx, hs]

/-- The buffer of the picture whose time has come at a frame boundary of a decode channel. -/
def Dev.timely (d : Dev) (c k : Nat) (x : DecDyn) : Option Nat :=
  (d.pool? (256 + c)).bind fun y =>
    (y.buffers.zipIdx.find? fun b => b.1.outPending && b.1.present.any fun j => j + x.cfg.pres = k).map (·.2)

/-- Its picture no longer waits to be presented. -/
def Dev.untimed (d : Dev) (c : Nat) (i? : Option Nat) : Dev :=
  match i? with
  | some i => d.onBuffer (256 + c) i fun b => { b with outPending := false }
  | none => d

/-- The buffers that the consumers of a channel hold when buffer `i` is presented. -/
def DecDyn.holding (x : DecDyn) (i : Nat) : List Nat := if x.holds.head? = some i then [i] else i :: x.holds.take 1

/-- Buffer `i` is presented. -/
def Dev.present (d : Dev) (c k i : Nat) (x : DecDyn) : Dev :=
  let n := d.consumers c
  let picture := ((d.pool? (256 + c)).bind fun y => y.buffers[i]?).map fun b => (⟨[c, b.slot.getD 0], b.planes⟩ : Stored)
  let d := d.onDec c fun y =>
    { y with shown := some i, holds := x.holding i, shows := ((picture.map fun b => (k, b)).toList ++ y.shows).take 16 }
  let d := if (x.holding i).length = 2 then d.onBuffers (512 + c) fun b => { b with hold := 0 } else d
  d.setPool (256 + c) ((d.pool? (256 + c)).map fun y =>
    { y with buffers := y.buffers.zipIdx.map fun b => { b.1 with hold := if (x.holding i).contains b.2 then n else 0 } })

theorem Dev.decFrame_of_some {d : Dev} {c k i : Nat} {x : DecDyn} (hx : d.dec? c = some x) (h : (d.timely c k x).or x.shown = some i) :
    d.decFrame c k = (d.untimed c (d.timely c k x)).present c k i x := by
  unfold Dev.decFrame
  rw [hx]
  show (match (d.timely c k x).or x.shown with
    | none => _
    | some i => (d.untimed c (d.timely c k x)).present c k i x) = _
  rw [h]

theorem Dev.decFrame_of_none {d : Dev} {c k : Nat} {x : DecDyn} (hx : d.dec? c = some x) (h : (d.timely c k x).or x.shown = none) :
    d.decFrame c k = d := by
  unfold Dev.decFrame
  rw [hx]
  show (match (d.timely c k x).or x.shown with
    | none => d.untimed c (d.timely c k x)
    | some i => _) = _
  rw [h, (Option.or_eq_none_iff.mp h).1]
  rfl

theorem Dev.untimed_eq (d : Dev) (c : Nat) (i? : Option Nat) : d.untimed c i? = { d with pools := (d.untimed c i?).pools } := by
  cases i? <;> rfl

theorem Dev.present_eq (d : Dev) (c k i : Nat) (x : DecDyn) :
    d.present c k i x = { d with dec := (d.present c k i x).dec, pools := (d.present c k i x).pools } := by
  unfold Dev.present
  dsimp only
  split <;> rfl

theorem Dev.dec_present {d : Dev} {c : Nat} {x : DecDyn} (hx : d.dec? c = some x) (k i : Nat) :
    ∃ l, (d.present c k i x).dec? c = some { x with shown := some i, holds := x.holding i, shows := l } := by
  unfold Dev.present
  dsimp only
  split_ifs
  all_goals exact ⟨_, (Dev.dec_onDec_same _ _ _).trans (congrArg (Option.map _) hx)⟩

/-- A frame boundary of a decode channel changes what decode channels hold and the pools. -/
theorem Dev.decFrame_eq {d : Dev} {c k i : Nat} {x : DecDyn} (hx : d.dec? c = some x) (h : (d.timely c k x).or x.shown = some i) :
    d.decFrame c k = { d with dec := (d.decFrame c k).dec, pools := (d.decFrame c k).pools } := by
  rw [Dev.decFrame_of_some hx h, Dev.present_eq]
  generalize (Dev.present _ c k i x).dec = e, (Dev.present _ c k i x).pools = p
  rw [Dev.untimed_eq]

/-- The picture to present is presented and held, with at most the one before it. -/
theorem Dev.decFrame_presents {d : Dev} {c k i : Nat} {x : DecDyn} (hx : d.dec? c = some x) (h : (d.timely c k x).or x.shown = some i) :
    ∃ y, (d.decFrame c k).dec? c = some y ∧ y.shown = some i ∧ y.holds.head? = some i ∧ y.holds.length ≤ 2 := by
  have hu : (d.untimed c (d.timely c k x)).dec? c = some x := by rw [Dev.untimed_eq]; exact hx
  rw [Dev.decFrame_of_some hx h]
  generalize d.untimed c (d.timely c k x) = e at hu
  obtain ⟨l, hl⟩ := Dev.dec_present hu k i
  refine ⟨_, hl, rfl, ?_, ?_⟩
  · show (x.holding i).head? = _
    unfold DecDyn.holding
    split_ifs <;> rfl
  · show (x.holding i).length ≤ 2
    unfold DecDyn.holding
    split_ifs
    · exact Nat.le_succ 1
    · simp only [List.length_cons, List.length_take]
      omega

/-! ## The token of a unit that is still incomplete (R233) -/

/-- An item keeps no buffer in slot 0. -/
theorem Dev.releaseOperand_zero (d : Dev) (f handle : Nat) : d.releaseOperand f 0 handle = d := by
  unfold Dev.releaseOperand
  split <;> rfl

theorem Dev.pmuCount_eq (d : Dev) (bank : Nat) (e : PmuEvent) (crew flow n : Nat) :
    d.pmuCount bank e crew flow n = { d with pmu := (d.pmuCount bank e crew flow n).pmu } := by
  unfold Dev.pmuCount
  split
  · rfl
  · refine List.foldlRecOn (motive := fun t : Dev => t = { d with pmu := t.pmu }) _ _ rfl fun t ht j _ => ?_
    dsimp only
    split
    · rw [ht]; rfl
    · exact ht

theorem Dev.makeReady_eq (d : Dev) (f seq : Nat) : d.makeReady f seq = { d with cox := (d.makeReady f seq).cox } := by
  unfold Dev.makeReady
  split
  · rfl
  · split <;> rfl

/-- A token for slot 0 changes Cox, its registers and the counters. -/
theorem Dev.token_zero_eq (d : Dev) (f seq handle : Nat) :
    d.token f seq 0 handle = { d with regs := (d.token f seq 0 handle).regs, cox := (d.token f seq 0 handle).cox
                                      pmu := (d.token f seq 0 handle).pmu } := by
  unfold Dev.token Dev.lateDrop
  dsimp only
  simp only [Dev.releaseOperand_zero]
  rw [Dev.pmuCount_eq]
  generalize (d.pmuCount _ _ _ _ _).pmu = p
  have add (a : Nat) (g : Fld) (n : Nat) (e : Dev) : e.addFld a g n = { e with regs := (e.addFld a g n).regs } := Dev.addFld_eq _ _ _ _
  split
  · rfl
  · split
    · split
      · rw [add]
      · rw [Dev.makeReady_eq]; rfl
    · split
      · rw [add]
      · rw [add]
      · split
        · rw [add]
        · rw [Dev.makeReady_eq]; rfl

/-- The record of a token changes the log, the registers of its Crew's record log and the host side. -/
theorem Dev.recordToken_eq (d : Dev) (c slot obj : Nat) (data : List Nat) :
    d.recordToken c slot obj data = { d with regs := (d.recordToken c slot obj data).regs, hif := (d.recordToken c slot obj data).hif
                                             log := (d.recordToken c slot obj data).log } := by
  unfold Dev.recordToken
  dsimp only
  split
  · rw [Dev.record_eq]
  · refine List.foldlRecOn (motive := fun t : Dev => t = { d with regs := t.regs, hif := t.hif, log := t.log }) _ _ ?_ fun t ht i _ => ?_
    · rw [Dev.record_eq]
      generalize (Dev.record _ c 0x13 0 0 _).regs = r, (Dev.record _ c 0x13 0 0 _).hif = h
      rw [Dev.record_eq]
    · rw [Dev.logBlock_eq]
      generalize (t.logBlock _ _).regs = r, (t.logBlock _ _).hif = h
      rw [ht]

theorem Dev.log_record (d : Dev) (c kind sub obj : Nat) (data : List Nat) :
    (d.record c kind sub obj data).log = ⟨c, d.now, kind, sub, obj, data⟩ :: d.log := by rw [Dev.record_eq]

/-- The record of a token is followed by records of its content alone. -/
theorem Dev.log_recordToken (d : Dev) (c slot obj : Nat) (data : List Nat) :
    ∃ new, (d.recordToken c slot obj data).log = new ++ ⟨c, d.now, 0x02, slot, obj, data⟩ :: d.log ∧ ∀ q ∈ new, q.kind = 0x13 := by
  unfold Dev.recordToken
  dsimp only
  split
  · exact ⟨[], Dev.log_record _ _ _ _ _ _, by simp⟩
  · rw [Dev.foldl_keeps Dev.log fun e i _ => by rw [Dev.logBlock_eq], Dev.log_record, Dev.log_record]
    exact ⟨[_], rfl, by simp⟩

theorem exec_partialAuToken (chan k : Nat) (s : State) {x : DecDyn} {u : SlotUnit} (hx : s.dev.dec? chan = some x)
    (hn : s.dev.now = x.cfg.release k + x.cfg.relOff + 1) (hu : x.unit? k = some u) (h₁ : u.sent = false) (h₂ : u.tooLarge = false)
    (h₃ : x.mismatch = false) : exec (.partialAuToken chan k) s = .next { s with dev := s.dev.auToken chan k } := by
  show execPartialAuToken _ _ s = _
  rw [execPartialAuToken, State.lift_eq]
  simp only [hx, hn, hu, h₁, h₂, h₃, decide_true, Option.map_some, Option.getD_some, Bool.not_false, Bool.and_self, if_true]

/-- The token of a unit is recorded, and sent. -/
theorem Dev.auToken_sent {d : Dev} {c : Nat} {x : DecDyn} (hx : d.dec? c = some x) (k : Nat) :
    ∃ r new, (d.auToken c k).out = d.out ∧ (d.auToken c k).log = new ++ r :: d.log ∧ (∀ q ∈ new, q.kind = 0x13) ∧ r.kind = 0x02 ∧
      r.obj = x.cfg.flow ∧ r.data = [k % 65536, k] ∧
      (d.auToken c k).dec? c = some { x with units := x.units.map fun v => if v.slot = k then { v with sent := true } else v } := by
  unfold Dev.auToken
  rw [hx]
  dsimp only
  unfold Dev.tokenIn
  rw [Dev.token_zero_eq]
  generalize he : (d.onDec c fun x => { x with units := x.units.map fun u => if u.slot = k then { u with sent := true } else u }) = e
  obtain ⟨new, hl, hk⟩ := Dev.log_recordToken e (e.flowCrew x.cfg.flow) 0 x.cfg.flow [k % 65536, k]
  have hf := Dev.recordToken_eq e (e.flowCrew x.cfg.flow) 0 x.cfg.flow [k % 65536, k]
  refine ⟨⟨e.flowCrew x.cfg.flow, e.now, 0x02, 0, x.cfg.flow, [k % 65536, k]⟩, new, ?_, hl.trans ?_, hk, rfl, rfl, rfl, ?_⟩
  · show (e.recordToken _ _ _ _).out = _
    rw [hf, ← he]; rfl
  · rw [← he]; rfl
  · show (e.recordToken _ _ _ _).dec? c = _
    rw [hf]
    show e.dec? c = _
    rw [← he, Dev.dec_onDec_same, hx]; rfl

/-! ## Standing descriptors (R108, R164) -/

/-- A standing descriptor as it was, but that the driver may hold more of its buffers. -/
def Standing.Kept (p q : Standing) : Prop := q = { p with busy := q.busy } ∧ ∀ b, p.isBusy b = true → q.isBusy b = true

theorem Standing.Kept.refl (p : Standing) : p.Kept p := ⟨rfl, fun _ h => h⟩

theorem Standing.Kept.trans {p q r : Standing} (h : p.Kept q) (h' : q.Kept r) : p.Kept r :=
  ⟨by rw [h'.1, h.1], fun b hb => h'.2 b (h.2 b hb)⟩

/-- The standing descriptors of one state are kept in another. -/
def Dev.KeepsStanding (d t : Dev) : Prop := ∀ p ∈ d.hif.standing, ∃ q ∈ t.hif.standing, p.Kept q

theorem Dev.KeepsStanding.of_eq {d t : Dev} (h : t.hif.standing = d.hif.standing) : d.KeepsStanding t :=
  fun p hp => ⟨p, h ▸ hp, .refl p⟩

theorem Dev.KeepsStanding.trans {d e t : Dev} (h : d.KeepsStanding e) (h' : e.KeepsStanding t) : d.KeepsStanding t := fun p hp =>
  let ⟨q, hq, hpq⟩ := h p hp
  let ⟨r, hr, hqr⟩ := h' q hq
  ⟨r, hr, hpq.trans hqr⟩

theorem Dev.KeepsStanding.onStanding (d : Dev) (c : Standing → Bool) {f : Standing → Standing} (h : ∀ p : Standing, p.Kept (f p)) :
    d.KeepsStanding (d.onStanding c f) := fun p hp =>
  ⟨_, List.mem_map_of_mem hp, by split; exacts [h p, .refl p]⟩

theorem Dev.standing_signal (d : Dev) (c r : Nat) : (d.signal c r).hif.standing = d.hif.standing := by
  unfold Dev.signal
  dsimp only
  split
  · unfold Dev.fireVector
    split <;> rfl
  · rfl

theorem Dev.standing_writeEntryAt (d : Dev) (at_ c r st op tag : Nat) (ws : List Nat) :
    (d.writeEntryAt at_ c r st op tag ws).hif.standing = d.hif.standing := by
  unfold Dev.writeEntryAt
  split
  · rfl
  · dsimp only
    rw [Dev.standing_signal]; rfl

theorem Dev.KeepsStanding.writeHeld (d : Dev) (c r : Nat) (h : Held) : d.KeepsStanding (d.writeHeld c r h) := by
  unfold Dev.writeHeld
  dsimp only
  refine .trans (.of_eq ?_) (.onStanding _ _ fun p => ⟨rfl, fun b hb => ?_⟩)
  · rw [Dev.standing_writeEntryAt]; rfl
  · simp only [Standing.isBusy, List.any_map, List.any_eq_true, decide_eq_true_eq, Function.comp] at hb ⊢
    obtain ⟨y, hy, rfl⟩ := hb
    refine ⟨y, hy, ?_⟩
    split_ifs with e <;> simp [e]

theorem Dev.KeepsStanding.complete (d : Dev) (c r : Nat) (h : Held) : d.KeepsStanding (d.complete c r h) := by
  unfold Dev.complete
  split
  · exact .writeHeld _ _ _ _
  · exact .of_eq rfl

/-- The driver holds one buffer more. -/
theorem Standing.kept_busy (p : Standing) (n : Nat × Nat) : p.Kept { p with busy := p.busy ++ [n] } :=
  ⟨rfl, fun b hb => by
    simp only [Standing.isBusy, List.any_append, Bool.or_eq_true] at hb ⊢
    exact .inl hb⟩

/-- The driver holds the buffer of a delivery. -/
def Dev.handOver (d : Dev) (p : Standing) (buf : Nat) : Dev :=
  d.onStanding (·.is p.desc) fun s => { s with busy := s.busy ++ [(buf, 0)] }

theorem Dev.KeepsStanding.handOver (d : Dev) (p : Standing) (buf : Nat) : d.KeepsStanding (d.handOver p buf) :=
  .onStanding _ _ fun q => q.kept_busy _

theorem Standing.is_self (p : Standing) : p.is p.desc = true := by simp [Standing.is]

theorem Dev.handOver_busy {d : Dev} {p : Standing} (hp : p ∈ d.hif.standing) (buf : Nat) :
    ∃ q ∈ (d.handOver p buf).hif.standing, p.Kept q ∧ q.isBusy buf = true := by
  refine ⟨_, List.mem_map_of_mem hp, ?_⟩
  rw [if_pos p.is_self]
  exact ⟨p.kept_busy _, by simp [Standing.isBusy]⟩

/-- The completion of a delivery for which a CQ slot is free. -/
def Dev.deliverNow (d : Dev) (p : Standing) (buf st : Nat) (ws : List Nat) : Dev :=
  ((d.handOver p buf).onRing p.desc.crew p.desc.ring fun g => { g with reserved := g.reserved + 1 }).complete p.desc.crew p.desc.ring
    ⟨st, p.desc.opcode, p.desc.tag, ws, d.now, p.desc.seq, buf, true⟩

theorem Dev.KeepsStanding.deliverNow (d : Dev) (p : Standing) (buf st : Nat) (ws : List Nat) :
    (d.handOver p buf).KeepsStanding (d.deliverNow p buf st ws) :=
  fun q hq => Dev.KeepsStanding.complete (Dev.onRing (d.handOver p buf) _ _ _) _ _ _ q hq

theorem Dev.KeepsStanding.deliver (d : Dev) (p : Standing) (buf st : Nat) (ws : List Nat) : d.KeepsStanding (d.deliver p buf st ws) := by
  unfold Dev.deliver
  dsimp only
  split
  · exact .of_eq rfl
  · split
    · exact .of_eq rfl
    · split
      · exact .trans (.handOver d p buf) (.deliverNow d p buf st ws)
      · split
        · refine .trans (.of_eq ?_) (.handOver _ p buf)
          split
          · rw [Dev.setFld_hif]; rfl
          · rfl
        · exact .of_eq (by rw [Dev.addFld_hif]; rfl)

/-- Where the delivery of a descriptor that asks for completions has a CQ slot, the driver holds its buffer. -/
theorem Dev.deliver_busy {d : Dev} {p : Standing} (hp : p ∈ d.hif.standing) (ha : d.Answers p.desc)
    (hf : 0 < d.freeSlots p.desc.crew p.desc.ring) (buf st : Nat) (ws : List Nat) :
    ∃ q ∈ (d.deliver p buf st ws).hif.standing, p.Kept q ∧ q.isBusy buf = true := by
  obtain ⟨⟨g, hg, -, hh⟩, hq, -⟩ := ha
  have hd : d.deliver p buf st ws = d.deliverNow p buf st ws := by
    unfold Dev.deliver
    simp only [hg, hq, hh, hf, Bool.false_and, Bool.false_eq_true, if_false, List.all_nil, decide_true, Bool.and_self, if_true]
    rfl
  obtain ⟨q, hq, hpq, hb⟩ := Dev.handOver_busy hp buf
  obtain ⟨r, hr, hqr⟩ := Dev.KeepsStanding.deliverNow d p buf st ws q hq
  exact ⟨r, hd ▸ hr, hpq.trans hqr, hqr.2 _ hb⟩

/-! ## A delivery into one buffer (R163, R192) -/

theorem cdiv_le_one {a b : Nat} (h : a ≤ b) : cdiv a b ≤ 1 := by
  unfold cdiv
  rcases Nat.eq_zero_or_pos b with rfl | hb
  · simp
  · exact Nat.lt_succ_iff.mp ((Nat.div_lt_iff_lt_mul hb).mpr (by omega))

theorem Dev.deliver_out (d : Dev) (p : Standing) (buf st : Nat) (ws : List Nat) : ∃ new, (d.deliver p buf st ws).out = new ++ d.out := by
  unfold Dev.deliver
  dsimp only
  split
  · exact ⟨[], rfl⟩
  · split
    · exact ⟨[], rfl⟩
    · split
      · exact Dev.complete_out _ _ _ _
      · split
        · split <;> exact ⟨[], rfl⟩
        · exact ⟨[], rfl⟩

/-- What a delivery writes into its one buffer. -/
def Standing.written (p : Standing) (bytes : Nat) (content : Option (List Nat)) : Output :=
  let a := p.desc.addr 3 + p.next % (p.desc.w 6 % 65536) * p.desc.w 5
  match content with
  | none => .hostData p.desc.crew a bytes
  | some l => .hostWrite p.desc.crew a (l.take (bytes / 4))

/-- A delivery that fits into the next buffer, which the driver does not hold, is one write and one completion. -/
theorem Dev.deliverUnit_one {p : Standing} {bytes : Nat} (hb : bytes ≤ p.desc.w 5) (hk : 0 < p.desc.w 6 % 65536)
    (hf : p.isBusy (p.next % (p.desc.w 6 % 65536)) = false) (d : Dev) (status all first last w5 w6 : Nat) (content : Option (List Nat)) :
    ∃ ws, d.deliverUnit p bytes status all first last w5 w6 content =
      ((d.emit (p.written bytes content)).deliver p (p.next % (p.desc.w 6 % 65536)) status ws).onStanding (·.is p.desc) fun q =>
        { q with next := (q.next + 1) % (p.desc.w 6 % 65536), count := q.count + 1, gap := q.gapLeft (p.next % (p.desc.w 6 % 65536)) } := by
  have hn : max 1 (cdiv bytes (p.desc.w 5)) = 1 := Nat.max_eq_left (cdiv_le_one hb)
  have hm : min (p.desc.w 5) (bytes - 0) = bytes := by omega
  have hbufs : p.nextBuffers 1 = [p.next % (p.desc.w 6 % 65536)] := rfl
  unfold Dev.deliverUnit
  simp only [hn, hbufs, List.any_cons, List.any_nil, hf, Bool.or_false, Nat.lt_one_iff, hk.ne', decide_false, Bool.false_eq_true, if_false,
    List.zipIdx_cons, List.zipIdx_nil, List.foldl_cons, List.foldl_nil, Nat.zero_mul, hm, Nat.zero_div, List.drop_zero, List.headD_cons]
  cases content <;> exact ⟨_, rfl⟩

/-- What a delivery into one buffer does. -/
theorem Dev.deliverUnit_delivers {d : Dev} {p : Standing} (hp : p ∈ d.hif.standing) {bytes : Nat} (hb : bytes ≤ p.desc.w 5)
    (hk : 0 < p.desc.w 6 % 65536) (hf : p.isBusy (p.next % (p.desc.w 6 % 65536)) = false) (status all first last w5 w6 : Nat)
    (content : Option (List Nat)) {t : Dev} (ht : t = d.deliverUnit p bytes status all first last w5 w6 content) :
    d.Shows t (p.written bytes content) ∧
      (∃ q ∈ t.hif.standing, q.desc = p.desc ∧ q.count = p.count + 1 ∧ (p.gap = false → q.gap = false) ∧
        (d.Answers p.desc → 0 < d.freeSlots p.desc.crew p.desc.ring → q.gap = false) ∧ q.next = (p.next + 1) % (p.desc.w 6 % 65536)) ∧
      t = { d with hif := t.hif, out := t.out, regs := t.regs } := by
  obtain ⟨ws, hw⟩ := Dev.deliverUnit_one hb hk hf d status all first last w5 w6 content
  rw [hw] at ht
  subst ht
  refine ⟨(Dev.Shows.emit d _).later (Dev.deliver_out _ _ _ _ _), ?_, ?_⟩
  · have key : ∃ q ∈ ((d.emit (p.written bytes content)).deliver p (p.next % (p.desc.w 6 % 65536)) status ws).hif.standing, p.Kept q ∧
        (d.Answers p.desc → 0 < d.freeSlots p.desc.crew p.desc.ring → q.isBusy (p.next % (p.desc.w 6 % 65536)) = true) := by
      by_cases h : d.Answers p.desc ∧ 0 < d.freeSlots p.desc.crew p.desc.ring
      · obtain ⟨q, hq, hpq, hb⟩ := Dev.deliver_busy (d := d.emit (p.written bytes content)) hp h.1 h.2 (p.next % (p.desc.w 6 % 65536)) status ws
        exact ⟨q, hq, hpq, fun _ _ => hb⟩
      · obtain ⟨q, hq, hpq⟩ := Dev.KeepsStanding.deliver (d.emit (p.written bytes content)) p (p.next % (p.desc.w 6 % 65536)) status ws p hp
        exact ⟨q, hq, hpq, fun h₁ h₂ => absurd ⟨h₁, h₂⟩ h⟩
    obtain ⟨q, hq, ⟨he, -⟩, hbusy⟩ := key
    refine ⟨_, List.mem_map_of_mem hq, ?_⟩
    have his : q.is p.desc = true := by rw [he]; exact p.is_self
    rw [if_pos his]
    refine ⟨by rw [he], by rw [he], fun h => ?_, fun h₁ h₂ => ?_, by rw [he]⟩
    · show q.gapLeft _ = false
      have : q.gap = false := by rw [he]; exact h
      rw [Standing.gapLeft, this, Bool.false_and]
    · show q.gapLeft _ = false
      rw [Standing.gapLeft, hbusy h₁ h₂, Bool.not_true, Bool.and_false]
  · rw [Dev.deliver_eq]
    rfl

/-! ## Deliveries of encode channels (R163, R192) -/

theorem Dev.unitLate_onEnc {f : EncDyn → EncDyn} (h : ∀ x, (f x).cfgs = x.cfgs) (d : Dev) (c e : Nat) (u : UnitRec) :
    (d.onEnc c f).unitLate e u = d.unitLate e u := by
  have hc : (d.onEnc c f).encCfg? e = d.encCfg? e := by
    unfold Dev.encCfg?
    by_cases hce : e = c
    · subst hce
      rw [Dev.enc_onEnc_same]
      cases d.enc? e with
      | none => rfl
      | some x => simp only [Option.map_some, Option.bind_some, h]
    · rw [Dev.enc_onEnc_other _ _ hce]
  unfold Dev.unitLate
  rw [hc]
  rfl

theorem Dev.standing_mem {d : Dev} {op obj : Nat} {p : Standing} (h : d.standing? op obj = some p) : p ∈ d.hif.standing :=
  List.mem_of_find?_eq_some h

theorem exec_bsDelivery (chan : Nat) (s : State) : exec (.bsDelivery chan) s = .next { s with dev := s.dev.deliverBsAll chan } := rfl

theorem exec_statsDelivery (chan : Nat) (s : State) :
    exec (.statsDelivery chan) s = .next { s with dev := s.dev.deliverStatsAll chan } := rfl

/-- A unit that a post is there for, and that comes in time, is delivered. -/
theorem Dev.deliverBs_of_standing {d : Dev} {c : Nat} {p : Standing} {u : UnitRec} (hp : d.standing? 0x30 (0x100 + c) = some p)
    (hr : p.start ≤ u.released) (hl : d.unitLate c u = false) :
    d.deliverBs c u = d.deliverUnit p u.bytes u.status (2 ^ 18 * bit u.held + 2 ^ 17 * bit u.floor)
      (2 ^ 22 * bit u.params + 2 ^ 16 * bit u.irap) (2 ^ 21 * bit u.lastInAu) (u.k % 2 ^ 32) (pack [(u.first, 16), (u.last, 0)]) := by
  unfold Dev.deliverBs
  rw [hp]
  simp only [Nat.not_lt.mpr hr, hl, if_false, Bool.false_eq_true]

theorem Dev.deliverStats_of_standing {d : Dev} {c : Nat} {p : Standing} {u : UnitRec} (hp : d.standing? 0x50 (0x100 + c) = some p)
    (hr : p.start ≤ u.released) (hl : d.unitLate c u = false) :
    d.deliverStats c u = d.deliverUnit p u.bytes 0 (2 ^ 18 * bit u.held + 2 ^ 17 * bit u.floor) 0 0 (u.k % 2 ^ 32)
      (pack [(u.first, 16), (u.last, 0)]) (some u.record) := by
  unfold Dev.deliverStats
  rw [hp]
  simp only [Nat.not_lt.mpr hr, hl, if_false, Bool.false_eq_true]

section
variable {d : Dev} {c : Nat} {x : EncDyn}

theorem Dev.deliverBsAll_of_none (h : d.standing? 0x30 (0x100 + c) = none) :
    d.deliverBsAll c = d.onEnc c fun x => { x with units := [] } := by
  unfold Dev.deliverBsAll
  rw [h]
  cases d.enc? c <;> rfl

theorem Dev.deliverStatsAll_of_none (h : d.standing? 0x50 (0x100 + c) = none) :
    d.deliverStatsAll c = d.onEnc c fun x => { x with stats := [] } := by
  unfold Dev.deliverStatsAll
  rw [h]
  cases d.enc? c <;> rfl

variable {p : Standing} {u : UnitRec} (hx : d.enc? c = some x) (hj : bitAt (p.desc.w 6) 16 = false) (hr : p.start ≤ u.released)
  (hl : d.unitLate c u = false)
include hx hj hr hl

theorem Dev.deliverBsAll_one (hp : d.standing? 0x30 (0x100 + c) = some p) (hu : x.units = [u]) :
    d.deliverBsAll c = (d.onEnc c fun x => { x with units := [] }).deliverUnit p u.bytes u.status
      (2 ^ 18 * bit u.held + 2 ^ 17 * bit u.floor) (2 ^ 22 * bit u.params + 2 ^ 16 * bit u.irap) (2 ^ 21 * bit u.lastInAu) (u.k % 2 ^ 32)
      (pack [(u.first, 16), (u.last, 0)]) := by
  unfold Dev.deliverBsAll
  simp only [hx, hp, hu, hj, deliveries, Bool.false_and, Bool.not_false, if_true, List.foldl_cons, List.foldl_nil]
  exact Dev.deliverBs_of_standing hp hr ((Dev.unitLate_onEnc (by intro x; rfl) _ _ _ _).trans hl)

theorem Dev.deliverStatsAll_one (hp : d.standing? 0x50 (0x100 + c) = some p) (hu : x.stats = [u]) :
    d.deliverStatsAll c = (d.onEnc c fun x => { x with stats := [] }).deliverUnit p
      (4 * (u.statWords (bitAt (p.desc.w 6) 17)).length) 0 (2 ^ 18 * bit u.held + 2 ^ 17 * bit u.floor) 0 0 (u.k % 2 ^ 32)
      (pack [(u.first, 16), (u.last, 0)]) (some (u.statWords (bitAt (p.desc.w 6) 17))) := by
  unfold Dev.deliverStatsAll
  simp only [hx, hp, hu, hj, deliveries, Bool.not_false, if_true, List.map_cons, List.map_nil, List.foldl_cons, List.foldl_nil]
  exact Dev.deliverStats_of_standing hp hr ((Dev.unitLate_onEnc (by intro x; rfl) _ _ _ _).trans hl)

end

/-! ## The floor reserve (R210) -/

/-- The coding of a piece never leaves less than the floor pass of what follows. -/
theorem codeRun_keeps_floor (fl : Nat → Nat) (budget : Nat) (l : List Nat) (i used : Nat) (h : used + fl i ≤ budget) :
    match codeRun fl budget i used l with
    | (bits, none) => bits + fl (i + l.length) ≤ budget
    | (bits, some k) => i ≤ k ∧ k < i + l.length ∧ bits + fl k ≤ budget := by
  induction l generalizing i used with
  | nil => exact h
  | cons b r ih =>
    by_cases hb : used + b + fl (i + 1) ≤ budget
    · have hr := ih (i + 1) (used + b) hb
      rw [show codeRun fl budget i used (b :: r) = codeRun fl budget (i + 1) (used + b) r from if_pos hb]
      revert hr
      cases codeRun fl budget (i + 1) (used + b) r with
      | mk bits k? =>
        cases k? with
        | none =>
          intro hr
          rw [List.length_cons, show i + (r.length + 1) = i + 1 + r.length by omega]
          exact hr
        | some k =>
          rintro ⟨h₁, h₂, h₃⟩
          exact ⟨by omega, by rw [List.length_cons]; omega, h₃⟩
    · rw [show codeRun fl budget i used (b :: r) = (used, some i) from if_neg hb]
      exact ⟨Nat.le_refl i, by rw [List.length_cons]; omega, h⟩

/-- A delivery of a channel's one unit, after the unit is taken away. -/
theorem Dev.delivers_after_onEnc {d : Dev} {c : Nat} {x : EncDyn} {p : Standing} (hx : d.enc? c = some x) (f : EncDyn → EncDyn)
    (hp : p ∈ d.hif.standing) {bytes : Nat} (hb : bytes ≤ p.desc.w 5) (hk : 0 < p.desc.w 6 % 65536)
    (hf : p.isBusy (p.next % (p.desc.w 6 % 65536)) = false) (status all first last w5 w6 : Nat) (content : Option (List Nat)) {t : Dev}
    (ht : t = (d.onEnc c f).deliverUnit p bytes status all first last w5 w6 content) :
    t.enc? c = some (f x) ∧ d.Shows t (p.written bytes content) ∧
      (∃ q ∈ t.hif.standing, q.desc = p.desc ∧ q.count = p.count + 1 ∧ (p.gap = false → q.gap = false) ∧
        (d.Answers p.desc → 0 < d.freeSlots p.desc.crew p.desc.ring → q.gap = false) ∧ q.next = (p.next + 1) % (p.desc.w 6 % 65536)) ∧
      t = { d with enc := t.enc, hif := t.hif, out := t.out, regs := t.regs } := by
  obtain ⟨hs, hq, he⟩ := Dev.deliverUnit_delivers (d := d.onEnc c f) hp hb hk hf status all first last w5 w6 content ht
  have hen : t.enc? c = some (f x) := by
    rw [he]
    show (d.onEnc c f).enc? c = _
    rw [Dev.enc_onEnc_same, hx]; rfl
  refine ⟨hen, hs, hq, ?_⟩
  generalize t.hif = h, t.out = o, t.regs = r at he
  rw [he]
  rfl

/-- Settles O44, by what a frame boundary, a token and a delivery do, and by induction on the CTUs of a piece. -/
theorem framesAndUnits : Obligations.FramesAndUnits := by
  unfold Obligations.FramesAndUnits
  refine ⟨?encFrame, ?decFrame, ?token, ?noBs, ?noStats, ?bs, ?stats, fun fl budget i used l h => codeRun_keeps_floor fl budget l i used h⟩
  case encFrame =>
    intro s c k x p hc hx hp hl hk hs
    obtain ⟨y, hy, h₁, h₂, h₃, h₄, h₅⟩ := Dev.encFrame_settles (k := k) hx hp
    refine ⟨_, y, exec_frameBoundary_enc c k s hc hx hp hl hk hs, hy, h₁, h₂, h₃, h₄, ?_⟩
    show State.mk s.pending s.mem (s.dev.encFrame c k) = _
    rw [h₅]
  case decFrame =>
    intro s c k x hc hx hs
    refine ⟨_, exec_frameBoundary_dec c k s hc hx hs, ?_⟩
    show _ ∧ match (s.dev.timely c k x).or x.shown with
      | none => _
      | some i => _
    cases h : (s.dev.timely c k x).or x.shown with
    | none => exact ⟨by rw [Dev.decFrame_of_none hx h], by rw [Dev.decFrame_of_none hx h]⟩
    | some i =>
      refine ⟨?_, Dev.decFrame_presents hx h⟩
      show State.mk s.pending s.mem (s.dev.decFrame c k) = _
      rw [Dev.decFrame_eq hx h]
  case token =>
    intro s chan k x u hx hn hu h₁ h₂ h₃
    obtain ⟨r, new, ho, hl, hk, hr⟩ := Dev.auToken_sent hx k
    exact ⟨_, r, new, exec_partialAuToken chan k s hx hn hu h₁ h₂ h₃, rfl, ho, hl, hk, hr⟩
  case noBs =>
    intro s chan x hx h
    refine ⟨_, exec_bsDelivery chan s, ?_⟩
    rw [Dev.deliverBsAll_of_none h]
    exact ⟨(Dev.enc_onEnc_same _ _ _).trans (congrArg (Option.map _) hx), rfl⟩
  case noStats =>
    intro s chan x hx h
    refine ⟨_, exec_statsDelivery chan s, ?_⟩
    rw [Dev.deliverStatsAll_of_none h]
    exact ⟨(Dev.enc_onEnc_same _ _ _).trans (congrArg (Option.map _) hx), rfl⟩
  case bs =>
    intro s chan x p u hx hp hj hu hr hl _ hb hk hf
    obtain ⟨he, hs, hq, ht⟩ := Dev.delivers_after_onEnc hx _ (Dev.standing_mem hp) hb hk hf _ _ _ _ _ _ _ (Dev.deliverBsAll_one hx hj hr hl hp hu)
    refine ⟨_, _, exec_bsDelivery chan s, he, rfl, hs, hq, ?_⟩
    show State.mk s.pending s.mem (s.dev.deliverBsAll chan) = _
    rw [ht]
  case stats =>
    intro s chan x p u hx hp hj hu hr hl l hb hk hf
    obtain ⟨he, hs, hq, ht⟩ := Dev.delivers_after_onEnc hx _ (Dev.standing_mem hp) hb hk hf _ _ _ _ _ _ _
      (Dev.deliverStatsAll_one hx hj hr hl hp hu)
    refine ⟨_, _, exec_statsDelivery chan s, he, rfl, ?_, hq, ?_⟩
    · have hw : p.written (4 * l.length) (some l) =
          .hostWrite p.desc.crew (p.desc.addr 3 + p.next % (p.desc.w 6 % 65536) * p.desc.w 5) l := by
        rw [Standing.written, Nat.mul_div_cancel_left _ (by decide), List.take_length]
      rw [← hw]
      exact hs
    · show State.mk s.pending s.mem (s.dev.deliverStatsAll chan) = _
      rw [ht]

end Sys2Proof.Machine
end

section
/-! PROOFS. Layer posts that a flip completes (R110, R274). Settles O45. -/

namespace Sys2Proof.Machine

/-! ## A ring pair's number that is another Crew's ring pair

Ring pairs are found by 64 times the Crew plus their number, and nothing bounds the ring pair of a descriptor: ring pair 64 of CREW_0 is
ring pair 0 of Crew 1. The completion of an older post that is read under the first, held back by the capacity of CREW_0, then waits before
that of the post that is flipped in, whose Crew has room. -/

/-- A layer of host pictures. -/
def hostLayer : LayerCfg :=
  { layer := 2, srcType := 3, srcFmt := 0, srcIndex := 0, srcW := 64, srcH := 64, cropX := 0, cropY := 0, cropW := 64, cropH := 64,
    dstX := 0, dstY := 0, dstW := 64, dstH := 64, group := 0, miss := 0, gamut := 0, pair := false, scaler := none, paired := false,
    lines := 0 }

/-- A post of it that a Crew has read under a ring pair, for frame 0 and whole at Stroke 0. -/
def wholePost (crew ring : Nat) : Post := ⟨⟨crew, ring, 0, [0x20 * 2 ^ 24, 0, 0x240, 2], 0, false, 0, 0, 0, 0⟩, 2, 0, some 0, some 0, true, []⟩

/-- A programme with the layer, a post of CREW_0 and a newer one of Crew 1. -/
def aliasedProg : ProgDyn :=
  { cfg := { crew := 0, gang := 0, width := 64, height := 64, num := 60, den := 1, form := 0, depth := 8, lag := 0, arrive := 0, egress := false,
             queue := 0, zone := 0, zoneMax := 0, audGroup := 0, audTrim := 0, layers := [hostLayer], taps := [], flows := [1024] }
    first := 0, layers := [{ layer := 2 }], posts := [wholePost 0 64, wholePost 1 0] }

/-- A device with the programme at Stroke 0, where CREW_0 has taken all of the capacity and ring pair 0 of Crew 1 holds nothing. -/
def aliasedFlip : Dev :=
  { Dev.reset with
    cmp := { Dev.reset.cmp with progs := [(0, some aliasedProg)] }
    hif := { Dev.reset.hif with rings := [(64, some ⟨2, 0, 0, 0, 2, 0, [0], false, [], none, 0, false⟩)], writes := [(0, 2048)] } }

/-- The newer post is the one to flip in. -/
theorem newest_aliasedFlip :
    ((aliasedProg.posts.filter fun q => q.layer = hostLayer.layer).filter (aliasedFlip.flippable 0)).getLast? = some (wholePost 1 0) := by decide

theorem aliasedFlip_answers : aliasedFlip.Answers (wholePost 1 0).desc :=
  ⟨⟨⟨2, 0, 0, 0, 2, 0, [0], false, [], none, 0, false⟩, by decide, by decide, by decide⟩, by decide, by decide +kernel⟩

theorem aliasedFlip_share : aliasedFlip.writesOf (wholePost 1 0).desc.crew + aliasedProg.posts.length < aliasedFlip.hostScale 120 := by decide +kernel

/-- The flip deadline writes no entry: that of the newer post waits behind that of the older one. -/
theorem out_flipDeadline_aliased : shownAfter (exec (.flipDeadline 0 0) { State.reset with dev := aliasedFlip }) = some [] := by decide +kernel

/-- Refutes O45: the older post of a layer can be read under a number that is another Crew's ring pair, and its completion, for which its own
Crew has no share left, then waits before that of the post that is flipped in. No ring pair from 0 to 63 is another Crew's. -/
theorem not_composition : ¬ Obligations.Composition := by
  rintro ⟨-, -, hflip⟩
  obtain ⟨t, y, w, ht, -, -, -, -, h⟩ := hflip { State.reset with dev := aliasedFlip } 0 0 aliasedProg hostLayer { layer := 2 } (by decide)
    (by decide) (by decide) (by decide) (by decide) (by decide)
  rw [show ((aliasedProg.posts.filter fun q => q.layer = hostLayer.layer).filter
    ((State.mk State.reset.pending State.reset.mem aliasedFlip).dev.flippable 0)).getLast? = some (wholePost 1 0) from newest_aliasedFlip] at h
  obtain ⟨-, -, -, hc⟩ := h
  have hdone := hc aliasedFlip_answers aliasedFlip_share
  rw [if_pos (by decide)] at hdone
  have hout := out_flipDeadline_aliased
  rw [ht] at hout
  exact hdone.out_ne_nil (Option.some.inj hout)

end Sys2Proof.Machine
end

section
/-! PROOFS. The Charter at the release of SEC (R442, R484). Settles O58 and O59. -/

namespace Sys2Proof.Machine

/-! ## A Charter that names RST_STATUS

At the release of SEC the words of the Charter in NVM are written into the registers that it names (R442), and nothing bounds their
addresses: a Charter with a word for RST_STATUS decides which domains are in reset. -/

/-- A Charter whose one word shows no domain in reset. -/
def releasingCharter : Charter := ⟨[], [(Reg.rstStatus, 0)], 1⟩

/-- A device with that Charter, and no role keys, that is not in FACTORY. -/
structure Dev.Chartered (d : Dev) : Prop where
  charter : d.nvm.charter = some releasingCharter
  roles : d.nvm.roles = []
  deployed : d.lifecycle ≠ 0

/-- The Charter that is loaded writes its word. -/
theorem Dev.Chartered.reg_loadCharter {d : Dev} (h : d.Chartered) : d.loadCharter.reg Reg.rstStatus = 0#32 := by
  unfold Dev.loadCharter
  generalize he : charterRegs.foldl (fun d a => d.setReg a (regReset a)) (d.onSec fun s => { s with owner := [], void := false }) = e
  have hl : e.lifecycle = d.lifecycle := by
    rw [← he]
    exact Dev.foldl_keeps Dev.lifecycle (l := charterRegs) (fun t a ha => by
      unfold Dev.lifecycle Dev.fld
      rw [Dev.reg_setReg_other _ _ (fun h => by subst h; revert ha; decide)]) _
  have hn : e.nvm = d.nvm := by
    rw [← he]
    exact Dev.foldl_keeps Dev.nvm (l := charterRegs) (fun _ _ _ => Dev.setReg_nvm _ _ _) _
  dsimp only
  rw [if_neg (by rw [hl]; exact h.deployed), hn, h.charter]
  dsimp only [releasingCharter, List.foldl_cons, List.foldl_nil]
  rw [Dev.reg_setReg_other _ _ (by decide), Dev.reg_setReg_other _ _ (by decide), Dev.reg_setReg_same]

/-- The start of SEC up to the Charter, where a self-test fails. -/
def Dev.startedUp (d : Dev) (failed : Nat) : Dev :=
  let s := Reg.secStatus
  let d := d.zeroise.onSec fun x => { x with requests := 0 }
  let d := d.setFld Reg.secSelftest F.secSelftest_passed (2 ^ (failed - 1) - 1)
  let d := (d.setFld s F.secStatus_auditEpoch d.nvm.epoch).setReg Reg.secAuditNext (BitVec.ofNat 32 d.nvm.auditSeq)
  let d := (List.range 24).foldl (fun d w => d.setReg (Reg.secImportPub w) (keyWord d.nvm.importPub w)) d
  let d := d.nvm.roles.foldl (fun d p => d.setRole p.1 p.2) d
  d.setFld Reg.secEnrolCtl F.secEnrolCtl_done (sumBy (fun p => 2 ^ p.1) d.nvm.roles)

theorem Dev.secStart_of_failed (d : Dev) {failed : Nat} (h : failed ≠ 0) :
    d.secStart failed = (d.startedUp failed).loadCharter.selfTestFail failed := by
  have hb : (failed == 0) = false := beq_eq_false_iff_ne.mpr h
  unfold Dev.secStart
  simp only [hb, Bool.false_and, Bool.not_false, if_true, ne_eq, h, not_false_eq_true, if_false]
  rfl

/-- Writing fields of registers but LIFECYCLE keeps it. -/
theorem Dev.Chartered.of_setFld {d : Dev} (h : d.Chartered) {a : Nat} {f : Fld} (v : Nat)
    (hf : a ≠ Reg.secStatus ∨ f.ok ∧ f.hi < F.secStatus_lifecycle.lo) : (d.setFld a f v).Chartered := by
  refine ⟨h.charter, h.roles, ?_⟩
  have hl : (d.setFld a f v).lifecycle = d.lifecycle := by
    by_cases ha : a = Reg.secStatus
    · obtain ⟨ho, hd⟩ := hf.resolve_left (not_not_intro ha)
      rw [ha]
      exact Dev.fld_setFld_field _ _ ho (.inr hd) _
    · exact Dev.fld_setFld_other _ _ _ _ (Ne.symm ha)
  rw [hl]
  exact h.deployed

theorem Dev.Chartered.of_setReg {d : Dev} (h : d.Chartered) {a : Nat} (ha : a ≠ Reg.secStatus) (w : Word) : (d.setReg a w).Chartered := by
  refine ⟨h.charter, h.roles, ?_⟩
  have hl : (d.setReg a w).lifecycle = d.lifecycle := by
    unfold Dev.lifecycle Dev.fld
    rw [Dev.reg_setReg_other _ _ (Ne.symm ha)]
  rw [hl]
  exact h.deployed

theorem Dev.Chartered.foldl {α : Type} {f : Dev → α → Dev} {l : List α} (hf : ∀ d, ∀ a ∈ l, d.Chartered → (f d a).Chartered) {d : Dev}
    (h : d.Chartered) : (l.foldl f d).Chartered :=
  List.foldlRecOn (motive := Dev.Chartered) l f h fun e he a ha => hf e a ha he

theorem Dev.Chartered.of_startedUp {d : Dev} (h : d.Chartered) (failed : Nat) : (d.startedUp failed).Chartered := by
  have hz : (d.zeroise.onSec fun x => { x with requests := 0 }).Chartered := ⟨h.charter, h.roles, h.deployed⟩
  unfold Dev.startedUp
  dsimp only
  refine .of_setFld ?_ _ (.inl (by decide))
  generalize he : (List.range 24).foldl (fun (d : Dev) w => d.setReg (Reg.secImportPub w) (keyWord d.nvm.importPub w)) _ = e
  have hc : e.Chartered := by
    rw [← he]
    refine .foldl (fun t w _ ht => ht.of_setReg (by unfold Reg.secImportPub Reg.secStatus; omega) _) ?_
    exact ((hz.of_setFld _ (.inl (by decide))).of_setFld _ (.inr ⟨by unfold Fld.ok; decide, by decide⟩)).of_setReg (by decide) _
  rw [hc.roles]
  exact hc

theorem Dev.Chartered.of_setLifecycle {d : Dev} (h : d.Chartered) {v : Nat} (hv : v % 4 ≠ 0) :
    (d.setFld Reg.secStatus F.secStatus_lifecycle v).Chartered := by
  refine ⟨by rw [Dev.setFld_nvm]; exact h.charter, by rw [Dev.setFld_nvm]; exact h.roles, ?_⟩
  unfold Dev.lifecycle
  rw [Dev.fld_setFld_same _ _ ⟨by decide, by decide⟩]
  exact hv

theorem Dev.Chartered.of_rst {d : Dev} (h : d.Chartered) (r : Rst) : ({ d with rst := r } : Dev).Chartered := by
  cases d
  exact ⟨h.charter, h.roles, h.deployed⟩

/-- The option bytes in force show no life cycle below that of the counters. -/
theorem Dev.Chartered.of_showOptions {d : Dev} (h : d.Chartered) (h₁ : 0 < d.rst.lifecycle) (h₂ : d.rst.lifecycle ≤ 2) :
    d.showOptions.Chartered := by
  unfold Dev.showOptions
  dsimp only
  split
  · exact h
  · refine .foldl (fun t l hl ht => ht.of_setFld _ (.inl (by have := List.mem_range.mp hl; unfold Reg.laneCtl Reg.secStatus; omega))) ?_
    have hm : max (min 2 (d.rst.inForce.getD 12 0)) d.rst.lifecycle ≤ 2 := max_le (Nat.min_le_left _ _) h₂
    have hv : max (min 2 (d.rst.inForce.getD 12 0)) d.rst.lifecycle % 4 ≠ 0 := by omega
    refine .of_setFld (.of_setFld ?_ _ (.inl (by decide))) _ (.inl (by decide))
    rw [Dev.setFld_rst, Dev.setFld_rst, Dev.setFld_rst, Dev.setFld_rst]
    refine .of_setLifecycle ?_ hv
    exact (((h.of_setFld _ (.inl (by decide))).of_setFld _ (.inl (by decide))).of_setFld _ (.inl (by decide))).of_setFld _ (.inl (by decide))

theorem Dev.Chartered.of_readOptions {d : Dev} (h : d.Chartered) (h₁ : 0 < d.rst.lifecycle) (h₂ : d.rst.lifecycle ≤ 2) :
    d.readOptions.Chartered := by
  unfold Dev.readOptions
  dsimp only
  generalize he : (List.range 64).foldl (fun (d : Dev) w => d.setReg (Reg.rstOb w) _) _ = e
  have hr : e.rst.lifecycle = d.rst.lifecycle := by
    rw [← he, Dev.foldl_keeps Dev.rst fun t w _ => Dev.setReg_rst _ _ _]
    rw [Dev.setReg_rst, Dev.setFld_rst, Dev.setFld_rst, Dev.setFld_rst]
  refine .of_showOptions (.of_setFld ?_ _ (.inl (by decide))) (by rw [Dev.setFld_rst, hr]; exact h₁) (by rw [Dev.setFld_rst, hr]; exact h₂)
  rw [← he]
  refine .foldl (fun t w hw ht => ht.of_setReg (by have := List.mem_range.mp hw; unfold Reg.rstOb Reg.secStatus; omega) _) ?_
  refine .of_setReg (.of_setFld (.of_setFld (.of_setFld ?_ _ (.inl (by decide))) _ (.inl (by decide))) _ (.inl (by decide))) (by decide) _
  exact h.of_rst _

theorem Dev.reg_zeroise (d : Dev) (a : Nat) : d.zeroise.reg a = d.reg a := rfl

/-- A self-test that fails writes no register of AO. -/
theorem Dev.reg_rstStatus_selfTestFail (d : Dev) (test : Nat) : (d.selfTestFail test).reg Reg.rstStatus = d.reg Reg.rstStatus := by
  unfold Dev.selfTestFail
  dsimp only
  rw [Dev.reg_audit _ _ _ (by decide)]
  rw [Dev.reg_zeroise]
  rw [Dev.reg_setFld_other _ _ _ (by decide), Dev.reg_setFld_other _ _ _ (by decide)]

/-- What SEC finds at its release: its first self-test fails, ENROL_N is high. -/
def failingFacts : ReleaseFacts := { selfTest := 1, enrolLow := false, eyes := [] }

theorem Dev.ready_sec (d : Dev) (facts : ReleaseFacts) :
    d.ready 1 facts = (d.readOptions.setFld Reg.secStatus F.secStatus_enrolPin (bit facts.enrolLow)).secStart facts.selfTest := rfl

/-- SEC comes to its ready point with RST_STATUS as the Charter says. -/
theorem Dev.Chartered.reg_ready {d : Dev} (h : d.Chartered) (h₁ : 0 < d.rst.lifecycle) (h₂ : d.rst.lifecycle ≤ 2) :
    (d.ready 1 failingFacts).reg Reg.rstStatus = 0#32 := by
  have hs : ((d.readOptions.setFld Reg.secStatus F.secStatus_enrolPin (bit failingFacts.enrolLow))).Chartered :=
    (h.of_readOptions h₁ h₂).of_setFld _ (.inr ⟨⟨by decide, by decide⟩, by decide⟩)
  rw [Dev.ready_sec, Dev.secStart_of_failed _ (by decide), Dev.reg_rstStatus_selfTestFail]
  exact (hs.of_startedUp _).reg_loadCharter

/-- Showing what waits for its clock and what is ready changes no IN_RESET. -/
theorem Dev.inReset_showReady (d : Dev) (k : Nat) : d.showPending.showReady.inReset k = bitAt (F.rstStatus_inReset.get (d.reg Reg.rstStatus)) k := by
  unfold Dev.inReset Dev.showReady
  dsimp only
  rw [Dev.fld_setFld_field _ _ ⟨by decide, by decide⟩ (by decide)]
  unfold Dev.showPending
  rw [Dev.fld_setFld_other _ _ _ _ (by decide), Dev.fld]

theorem exec_domainRelease {s : State} {k : Nat} (h : s.dev.releasable k = true) (facts : ReleaseFacts) :
    exec (.domainRelease k facts) s = .next { s with dev :=
      ((s.dev.setFld Reg.rstStatus F.rstStatus_inReset (s.dev.fld Reg.rstStatus F.rstStatus_inReset - 2 ^ k)).ready k
        facts).showPending.showReady } := by
  show execDomainRelease k facts s = _
  rw [execDomainRelease, State.lift_eq]
  simp only [h, Bool.not_true, Bool.false_eq_true, if_false]

/-- A deployed device of which AO alone has been released, with no source of reset and the Charter. -/
def charteredDev : Dev :=
  { Dev.reset with
    regs := [(Reg.rstStatus, F.rstStatus_inReset.set 0 0x7E), (Reg.rstSrcActive, 0), (Reg.secStatus, F.secStatus_lifecycle.set 0 1)]
    rst := { Dev.reset.rst with lifecycle := 1 }
    nvm := { Dev.reset.nvm with charter := some releasingCharter } }

theorem charteredDev_chartered : charteredDev.Chartered := ⟨rfl, rfl, by decide⟩

theorem charteredDev_releasable : charteredDev.releasable 1 = true := by decide +kernel

theorem inReset_charteredDev : charteredDev.inReset 2 = true := by decide

/-- The release of SEC, on a device whose Charter names RST_STATUS, takes TIME out of reset too. -/
theorem inReset_release_chartered {t : State} (h : exec (.domainRelease 1 failingFacts) { State.reset with dev := charteredDev } = .next t) :
    t.dev.inReset 2 = false := by
  rw [exec_domainRelease charteredDev_releasable] at h
  obtain rfl := Host.Outcome.next.inj h
  have hc : (charteredDev.setFld Reg.rstStatus F.rstStatus_inReset (charteredDev.fld Reg.rstStatus F.rstStatus_inReset - 2 ^ 1)).Chartered :=
    charteredDev_chartered.of_setFld _ (.inl (by decide))
  show (Dev.showReady _).inReset 2 = false
  rw [Dev.inReset_showReady, hc.reg_ready (by rw [Dev.setFld_rst]; decide) (by rw [Dev.setFld_rst]; decide)]
  decide

/-- No release of SEC leaves every other domain's reset as it was: `charteredDev` is a device where one does not. -/
theorem not_release_keeps_reset : ¬ ∀ (s : State) (k : Nat) (facts : ReleaseFacts), s.dev.releasable k = true →
    ∃ t, exec (.domainRelease k facts) s = .next t ∧ ∀ j < 7, t.dev.inReset j = (decide (j ≠ k) && s.dev.inReset j) := by
  intro h
  obtain ⟨t, ht, hj⟩ := h { State.reset with dev := charteredDev } 1 failingFacts charteredDev_releasable
  have h₂ : t.dev.inReset 2 = charteredDev.inReset 2 := hj 2 (by decide)
  rw [inReset_release_chartered ht, inReset_charteredDev] at h₂
  exact Bool.false_ne_true h₂

/-- Refutes O58: the words of the Charter that SEC loads at its release can be those of RST_STATUS, and take other domains out of reset. A
Charter that names registers of regions and policies alone does not. -/
theorem not_resetsEnd : ¬ Obligations.ResetsEnd := by
  rintro ⟨-, -, -, -, hrelease, -⟩
  refine not_release_keeps_reset fun s k facts hk => ?_
  obtain ⟨t, ht, -, hj, -⟩ := hrelease s k facts hk
  exact ⟨t, ht, hj⟩

/-- Refutes O59, by the same release of SEC as O58. -/
theorem not_ownEffects : ¬ Obligations.OwnEffects := by
  rintro ⟨-, -, -, -, ⟨-, -, -, -, hrelease, -⟩, -⟩
  exact not_release_keeps_reset hrelease

end Sys2Proof.Machine
end

section
/-! PROOFS. The read of a descriptor (R60, R93, R108, R116). Settles O27. -/

namespace Sys2Proof.Machine

theorem exec_descriptorFetch_eq (crew ring : Nat) (s : State) : exec (.descriptorFetch crew ring) s = execDescriptorFetch crew ring s := rfl

/-- On an active ring pair of a Crew that is not suspended, with nothing held and no retry to wait for, a descriptor announced may be read
once a slot of the completion queue is free and a host picture that found the operand store full finds room. -/
theorem Dev.mayRead_of_announced {d : Dev} {c r : Nat} {g : Ring} (hg : d.ring c r = some g) (hs : d.ringState c r = 1)
    (hu : d.suspended c = false) (hh : g.held = []) (ht : g.retried = none) (ha : 0 < d.announced c r) (hf : 0 < d.freeSlots c r)
    (hr : g.full = true → d.storeRoom = true) : d.mayRead c r = true := by
  have hroom : (!g.full || d.storeRoom) = true := by
    cases hb : g.full with
    | false => rfl
    | true => exact hr hb
  simp [Dev.mayRead, hg, hs, hu, hh, ht, ha, hf, hroom]

/-- The two counters of descriptor reads stand in the counters' state alone. -/
theorem Dev.countRead_eq (d : Dev) (c : Nat) (surplus : Bool) :
    ∃ p, (if surplus then (d.pmuCount 142 .descRead c 0 1).pmuCount 142 .surplus c 0 1 else d.pmuCount 142 .descRead c 0 1) =
      { d with pmu := p } := by
  rw [Dev.pmuCount_eq d]
  generalize (d.pmuCount 142 .descRead c 0 1).pmu = p
  split
  · rw [Dev.pmuCount_eq]
    exact ⟨_, rfl⟩
  · exact ⟨p, rfl⟩

/-- A read that may be made, within its share, is issued at the ring's next place, with a slot of the completion queue reserved. -/
theorem exec_descriptorFetch {s : State} {c r : Nat} {g : Ring} (hg : s.dev.ring c r = some g) (hm : s.dev.mayRead c r = true)
    (hs : s.dev.readShare c r = true) :
    ∃ p a b, exec (.descriptorFetch c r) s = .next { s with dev :=
      (({ (s.dev.setRing c r (some { g with issued := g.issued + 1, reserved := g.reserved + 1, full := false })).onHif
          fun k => { k with reads := a, ringReads := b } with pmu := p } : Dev).emit
        (.hostRead c ((s.dev.reg (Reg.hifSqBaseLo c r)).toNat + (s.dev.reg (Reg.hifSqBaseHi c r)).toNat * 2 ^ 32 +
          64 * ((g.sqSeq + g.issued) % s.dev.sqSize c r)) 64)) } := by
  rw [exec_descriptorFetch_eq, execDescriptorFetch, State.lift_eq, hg]
  simp only [hm, hs, Bool.and_self, if_true]
  obtain ⟨p, hp⟩ := Dev.countRead_eq
    ((s.dev.setRing c r (some { g with issued := g.issued + 1, reserved := g.reserved + 1, full := false })).onHif fun k =>
      { k with reads := Tab.upd zero k.reads c (· + 1), ringReads := Tab.upd zero k.ringReads (64 * c + r) (· + 1) })
    c (decide (s.dev.hostScale 60 ≤ s.dev.readsOf c))
  rw [hp]
  exact ⟨p, _, _, rfl⟩

/-- Settles O27, by the conditions of a read and the one it issues. -/
theorem descriptorFetch : Obligations.DescriptorFetch := by
  unfold Obligations.DescriptorFetch
  intro s crew ring g hg hs hu hh ht ha hf hr hshare
  obtain ⟨p, a, b, he⟩ := exec_descriptorFetch hg (Dev.mayRead_of_announced hg hs hu hh ht ha hf hr) hshare
  exact ⟨_, { g with issued := g.issued + 1, reserved := g.reserved + 1, full := false }, he,
    Dev.ring_setRing_same s.dev crew ring (some _), rfl, rfl, rfl, rfl, rfl⟩

end Sys2Proof.Machine
end

section
/-! PROOFS. The entries of the matching store, and the completions of items with the pauses of their units (R55, R75, R76, R78, R416). Settles
O42. -/

namespace Sys2Proof.Machine

/-! ## The entries of the store -/

theorem Dev.key_of_item {d : Dev} {f seq : Nat} {i : Item} (h : d.item? f seq = some i) : i.flow = f ∧ i.seq = seq := by
  simpa using List.find?_some h

/-- A change of an entry that keeps its flow and number is a change of what is found there, and of nothing else. -/
theorem Dev.item_onItem (d : Dev) (f seq : Nat) {g : Item → Item} (hg : ∀ i, (g i).flow = i.flow ∧ (g i).seq = i.seq) (a b : Nat) :
    (d.onItem f seq g).item? a b = if a = f ∧ b = seq then (d.item? a b).map g else d.item? a b := by
  have hkey : (fun i : Item => i.flow = a && i.seq = b) ∘ (fun i : Item => if i.flow = f ∧ i.seq = seq then g i else i) =
      fun i : Item => (i.flow = a && i.seq = b : Bool) := by
    funext i
    dsimp only [Function.comp]
    split
    · rw [(hg i).1, (hg i).2]
    · rfl
  have hfind : (d.onItem f seq g).item? a b = (d.item? a b).map fun i => if i.flow = f ∧ i.seq = seq then g i else i := by
    show List.find? _ (List.map _ _) = _
    rw [List.find?_map, hkey]
    rfl
  rw [hfind]
  cases h : d.item? a b with
  | none => simp
  | some i =>
    obtain ⟨rfl, rfl⟩ := Dev.key_of_item h
    simp only [Option.map_some]
    split <;> rfl

theorem Dev.item_onItem_same {d : Dev} {f seq : Nat} {i : Item} {g : Item → Item} (hg : ∀ i, (g i).flow = i.flow ∧ (g i).seq = i.seq)
    (h : d.item? f seq = some i) : (d.onItem f seq g).item? f seq = some (g i) := by
  rw [Dev.item_onItem d f seq hg, if_pos ⟨rfl, rfl⟩, h]
  rfl

theorem Dev.mem_onItem {d : Dev} {f : Nat} {i : Item} (seq : Nat) (g : Item → Item) (hf : i.flow ≠ f) (h : i ∈ d.cox.items) :
    i ∈ (d.onItem f seq g).cox.items :=
  List.mem_map.mpr ⟨i, h, if_neg fun hk => hf hk.1⟩

/-- An item that ends is no longer in the store; every other stays. -/
theorem Dev.item_endItem (d : Dev) (f seq : Nat) (sub : Bool) (a b : Nat) :
    (d.endItem f seq sub).item? a b = if a = f ∧ b = seq then none else d.item? a b := by
  show (d.cox.items.filter fun i => !(i.flow = f && i.seq = seq)).find? _ = _
  rw [List.find?_filter]
  split
  · next h =>
    obtain ⟨rfl, rfl⟩ := h
    refine List.find?_eq_none.mpr fun i _ => ?_
    cases (decide (i.flow = a) && decide (i.seq = b)) <;> simp
  · next h =>
    refine congrFun (congrArg List.find? (funext fun i => ?_)) _
    by_cases hi : i.flow = a ∧ i.seq = b
    · obtain ⟨rfl, rfl⟩ := hi
      simpa [Decidable.imp_iff_not_or] using h
    · simpa using fun ha hb => absurd ⟨ha, hb⟩ hi

@[simp] theorem Dev.item_endItem_same (d : Dev) (f seq : Nat) (sub : Bool) : (d.endItem f seq sub).item? f seq = none := by
  rw [Dev.item_endItem, if_pos ⟨rfl, rfl⟩]

/-- What became of an item that ends is what its end says. -/
@[simp] theorem Dev.gone_endItem_same (d : Dev) (f seq : Nat) (sub : Bool) : (d.endItem f seq sub).gone? f seq = some sub := by
  simp [Dev.gone?, Dev.endItem]

theorem Dev.endItem_eq (d : Dev) (f seq : Nat) (sub : Bool) : d.endItem f seq sub = { d with cox := (d.endItem f seq sub).cox } := rfl

/-! ## Completions and pauses (R75, R78, R416)

The laws of register writes are stated for any addresses: at given ones the kernel would evaluate the table of registers. -/

theorem Dev.addFld_addFld_eq (d : Dev) (a b : Nat) (f g : Fld) (n m : Nat) :
    (d.addFld a f n).addFld b g m = { d with regs := ((d.addFld a f n).addFld b g m).regs } := rfl

theorem Dev.countOnDie_eq (d : Dev) (q : ItemResult) : d.countOnDie q = { d with regs := (d.countOnDie q).regs } :=
  Dev.addFld_addFld_eq _ _ _ _ _ _ _

theorem Dev.flowCrew_countOnDie (d : Dev) (q : ItemResult) (f : Nat) : (d.countOnDie q).flowCrew f = d.flowCrew f := by
  rw [Dev.flowCrew, Dev.countOnDie, Dev.addFld_read_owner, Dev.addFld_read_owner, Dev.flowCrew]

theorem exec_itemComplete_eq (flow seq : Nat) (q : ItemResult) (picture : Option PictureFacts) (ns : Nat) (s : State) :
    exec (.itemComplete flow seq q picture ns) s = execItemComplete flow seq q picture ns s := rfl

theorem exec_itemComplete {s : State} {flow seq : Nat} {i : Item} (hi : s.dev.item? flow seq = some i) (hu : i.unit.isSome = true)
    (q : ItemResult) (picture : Option PictureFacts) (ns : Nat) :
    exec (.itemComplete flow seq q picture ns) s = .next { s with dev :=
      ((((if (afterOnDie q).poisoned then ((s.dev.atNs ns).countOnDie q).record (s.dev.flowCrew flow) 0x08 0 flow [flow, seq]
        else (s.dev.atNs ns).countOnDie q).leaveUnit i q.cycles).endItem flow seq (decide (i.floor = 0x02))).produce i (afterOnDie q)
          picture) } := by
  have hcrew : ((s.dev.atNs ns).countOnDie q).flowCrew flow = s.dev.flowCrew flow := Dev.flowCrew_countOnDie _ _ _
  have hcycles : (afterOnDie q).cycles = q.cycles := rfl
  rw [exec_itemComplete_eq, execItemComplete, State.lift_eq, hi]
  dsimp only
  rw [if_neg (by simp [Option.isNone_iff_eq_none, Option.isSome_iff_ne_none.mp hu]), hcrew, hcycles]

theorem okMemOndieErr_corrected : F.memOndieErr_corrected.ok := ⟨by decide, by decide⟩

theorem okMemOndieErr_uncorrected : F.memOndieErr_uncorrected.ok := ⟨by decide, by decide⟩

/-- The two counts of on-die errors stand side by side in one register, and each is moved by its own number. -/
theorem Dev.countOnDie_counts (d : Dev) (q : ItemResult) :
    (d.countOnDie q).fld Reg.memOndieErr F.memOndieErr_corrected = (d.fld Reg.memOndieErr F.memOndieErr_corrected + q.fixed) % 65536 ∧
      (d.countOnDie q).fld Reg.memOndieErr F.memOndieErr_uncorrected =
        (d.fld Reg.memOndieErr F.memOndieErr_uncorrected + q.broken) % 65536 := by
  constructor
  · rw [Dev.countOnDie, Dev.addFld, Dev.fld_setFld_field _ _ okMemOndieErr_uncorrected (.inr (by decide)),
      Dev.fld_addFld_same _ _ okMemOndieErr_corrected]
    rfl
  · rw [Dev.countOnDie, Dev.fld_addFld_same _ _ okMemOndieErr_uncorrected, Dev.addFld,
      Dev.fld_setFld_field _ _ okMemOndieErr_corrected (.inl (by decide))]
    rfl

theorem Dev.keepsRegs_countOnDie (d : Dev) (q : ItemResult) : d.KeepsRegs (d.countOnDie q) [Reg.memOndieErr] := by
  intro a ha
  have hne : a ≠ Reg.memOndieErr := fun h => ha (List.mem_singleton.mpr h)
  rw [Dev.countOnDie, Dev.reg_addFld_other _ _ _ hne, Dev.reg_addFld_other _ _ _ hne]

theorem Dev.pauseOf_put (d : Dev) (u n v : Nat) :
    (d.onCox fun c => { c with pause := Tab.put zero c.pause u n }).pauseOf v = if v = u then n else d.pauseOf v := Tab.get_put _ _ _ _

/-- A unit that an item leaves takes that item's pause, and the counters count it. -/
theorem Dev.leaveUnit_eq {d : Dev} {i : Item} {u : Nat} (hu : i.unit = some u) (w : Nat) :
    d.leaveUnit i w = { d.onCox fun c => { c with pause := Tab.put zero c.pause u (if u < 40 then pauseCycles w (d.stepOf u) else 0) } with
      pmu := (d.leaveUnit i w).pmu } := by
  unfold Dev.leaveUnit
  rw [hu]
  dsimp only
  split
  · exact Dev.pmuCount_eq _ _ _ _ _ _
  · rfl

theorem Dev.pauseOf_leaveUnit {d : Dev} {i : Item} {u : Nat} (hu : i.unit = some u) (w v : Nat) :
    (d.leaveUnit i w).pauseOf v = if v = u then (if u < 40 then pauseCycles w (d.stepOf u) else 0) else d.pauseOf v := by
  rw [Dev.leaveUnit_eq hu]
  exact Dev.pauseOf_put _ _ _ _

theorem exec_throttlePauseEnd (unit ns : Nat) (s : State) : exec (.throttlePauseEnd unit ns) s =
    .next { s with dev := (s.dev.atNs ns).onCox fun c => { c with pause := Tab.put zero c.pause unit 0 } } := rfl

/-- Settles O42, by what a completion, a unit that is left and an item that ends give. -/
theorem completionsAndPauses : Obligations.CompletionsAndPauses := by
  unfold Obligations.CompletionsAndPauses
  refine ⟨?complete, ?onDie, ?pause, ?ends, ?pauseEnd⟩
  case complete =>
    intro s flow seq ns q picture i hi hu
    refine ⟨_, exec_itemComplete hi hu q picture ns, fun hp hb => ?_, fun hbad => ?_⟩
    · rw [if_neg (by simp [afterOnDie, hp, hb])]
    · have hp : (afterOnDie q).poisoned = true := by simpa [afterOnDie] using hbad
      exact ⟨hp, if_pos hp⟩
  case onDie =>
    intro d q
    obtain ⟨hc, hu⟩ := Dev.countOnDie_counts d q
    exact ⟨hc, hu, Dev.keepsRegs_countOnDie d q, Dev.countOnDie_eq d q⟩
  case pause =>
    intro d i w u hu hlt
    have heq := Dev.leaveUnit_eq (d := d) hu w
    refine ⟨?_, (congrArg Dev.regs heq).trans rfl, (congrArg Dev.out heq).trans rfl,
      (congrArg (fun e : Dev => e.cox.items) heq).trans rfl, fun v hv => ?_⟩
    · rw [Dev.pauseOf_leaveUnit hu, if_pos rfl, if_pos hlt]
      rfl
    · rw [Dev.pauseOf_leaveUnit hu, if_neg hv]
  case ends =>
    intro d flow seq b
    exact ⟨Dev.item_endItem_same d flow seq b, Dev.gone_endItem_same d flow seq b,
      fun f q hne => (Dev.item_endItem d flow seq b f q).trans (if_neg hne), Dev.endItem_eq d flow seq b⟩
  case pauseEnd =>
    intro s unit ns
    exact ⟨_, exec_throttlePauseEnd unit ns s, (Dev.pauseOf_put _ _ _ _).trans (if_pos rfl),
      fun v hv => (Dev.pauseOf_put _ _ _ _).trans (if_neg hv), rfl⟩

end Sys2Proof.Machine
end

section
/-! PROOFS. Substitutes, deadlines and the time-outs of best-effort items (R73–R75). Settles O43. -/

namespace Sys2Proof.Machine

/-! ## What a substitution counts (R73, R74) -/

/-- A substitution is counted for the device and for its flow, and is the latest record; nothing is shown. -/
def Dev.SubstCounted (d e : Dev) (i : Item) (how : Nat) : Prop :=
  e.fld Reg.coxEventCnt F.coxEventCnt_subst = (d.fld Reg.coxEventCnt F.coxEventCnt_subst + 1) % 2 ^ F.coxEventCnt_subst.width ∧
    e.fld (Reg.coxFlowStat i.flow) F.coxFlowStat_subst =
      (d.fld (Reg.coxFlowStat i.flow) F.coxFlowStat_subst + 1) % 2 ^ F.coxFlowStat_subst.width ∧ e.out = d.out ∧
    ∃ r, e.log = r :: d.log ∧ r.kind = 0x07 ∧ r.obj = i.flow ∧ r.data = [i.flow, i.seq, how] ∧ r.stroke = d.now

/-- The record log's registers of every Crew lie above all registers of Cox. -/
theorem Dev.fld_record_below (d : Dev) (c kind sub obj : Nat) (data : List Nat) {a : Nat} (h : a < Reg.rplLogStatus 0) (f : Fld) :
    (d.record c kind sub obj data).fld a f = d.fld a f := by
  simp only [Reg.rplLogStatus] at h
  rw [Dev.fld, Dev.reg_record d c kind sub obj data (by simp only [Reg.rplLogStatus]; omega) (by simp only [Reg.rplLogSeq]; omega), Dev.fld]

theorem Dev.record_addFld_addFld (d : Dev) (a b : Nat) (f g : Fld) (n m c kind sub obj : Nat) (data : List Nat) :
    ((d.addFld a f n).addFld b g m).record c kind sub obj data =
      { d with regs := (((d.addFld a f n).addFld b g m).record c kind sub obj data).regs
               hif := (((d.addFld a f n).addFld b g m).record c kind sub obj data).hif
               log := ⟨c, d.now, kind, sub, obj, data⟩ :: d.log } := by
  rw [Dev.record_eq]
  rfl

theorem Dev.countSubst_eq (d : Dev) (i : Item) (how : Nat) :
    d.countSubst i how = { d with regs := (d.countSubst i how).regs, hif := (d.countSubst i how).hif
                                  log := ⟨d.flowCrew i.flow, d.now, 0x07, 0, i.flow, [i.flow, i.seq, how]⟩ :: d.log } :=
  Dev.record_addFld_addFld _ _ _ _ _ _ _ _ _ _ _ _

theorem Dev.countSubst_counted (d : Dev) {i : Item} (how : Nat) (h : i.flow < 4096) : d.SubstCounted (d.countSubst i how) i how := by
  have hne : Reg.coxFlowStat i.flow ≠ Reg.coxEventCnt := by simp only [Reg.coxFlowStat, Reg.coxEventCnt]; omega
  have hbelow : Reg.coxFlowStat i.flow < Reg.rplLogStatus 0 := by simp only [Reg.coxFlowStat, Reg.rplLogStatus]; omega
  refine ⟨?_, ?_, ?_, ⟨_, congrArg Dev.log (Dev.countSubst_eq d i how), rfl, rfl, rfl, rfl⟩⟩
  · rw [Dev.countSubst, Dev.fld_record_below _ _ _ _ _ _ (by decide), Dev.addFld, Dev.fld_setFld_other _ _ _ _ hne.symm,
      Dev.fld_addFld_same _ _ ⟨by decide, by decide⟩]
  · rw [Dev.countSubst, Dev.fld_record_below _ _ _ _ _ _ hbelow, Dev.fld_addFld_same _ _ ⟨by decide, by decide⟩, Dev.addFld,
      Dev.fld_setFld_other _ _ _ _ hne]
  · rw [Dev.countSubst_eq]

/-- What follows in Cox takes nothing of it away. -/
theorem Dev.SubstCounted.onCox {d e : Dev} {i : Item} {how : Nat} (h : d.SubstCounted e i how) (f : Cox → Cox) :
    d.SubstCounted (e.onCox f) i how := h

@[simp] theorem Dev.item_countSubst (d : Dev) (i : Item) (how f q : Nat) : (d.countSubst i how).item? f q = d.item? f q := by
  rw [Dev.countSubst_eq]; rfl

/-! ## SUBSTITUTE_ACTION (R73) -/

theorem exec_substituteAction_eq (flow seq : Nat) (s : State) :
    exec (.substituteAction flow seq) s = execSubstituteAction flow seq s := rfl

theorem exec_substituteAction_item {s : State} {flow seq : Nat} {i : Item} (hi : s.dev.item? flow seq = some i)
    (hd : s.dev.substDue i = true) :
    exec (.substituteAction flow seq) s = .next { s with dev := s.dev.substitute i (s.dev.substOf i) } := by
  rw [exec_substituteAction_eq, execSubstituteAction, State.lift_eq, hi]
  simp only [hd, if_true]

theorem exec_substituteAction_new {s : State} {flow seq : Nat} {i : Item} (he : i = s.dev.newItem flow seq s.dev.now false)
    (hi : s.dev.item? flow seq = none) (hg : s.dev.gone? flow seq = none) (ho : s.dev.flowOn flow = true)
    (hk : ∀ l, s.dev.duesAt flow i.e = some l → seq ∈ l) (hd : s.dev.substDue i = true) :
    exec (.substituteAction flow seq) s = .next { s with dev := s.dev.substitute i (s.dev.substOf i) } := by
  have hknown : ((s.dev.duesAt flow i.e).map fun l => l.contains seq).getD true = true := by
    cases h : s.dev.duesAt flow i.e with
    | none => rfl
    | some l => simpa using hk l h
  rw [exec_substituteAction_eq, execSubstituteAction, State.lift_eq, hi]
  simp only [← he, hg, ho, hknown, hd, Option.isNone_none, Bool.and_self, if_true]

/-! ## DEADLINE_FINISH (R74) -/

theorem exec_deadlineFinish {s : State} {flow seq : Nat} {i : Item} (hi : s.dev.item? flow seq = some i) (hl : i.live = true)
    (hr : i.readyNo ≠ 0) (hf : i.floor = 0) (hc : i.cd ≤ s.dev.now) : exec (.deadlineFinish flow seq) s =
      .next { s with dev := (s.dev.atNs (125000 - s.dev.fld Reg.coxFinishCfg F.coxFinishCfg_marginNs)).endLate i } := by
  show execDeadlineFinish _ _ s = _
  rw [execDeadlineFinish, State.lift_eq, hi]
  simp [hl, hr, hf, hc]

/-- An encode item goes on with its floor pass. -/
theorem Dev.endLate_of_encPiece {d : Dev} {i : Item} {c p : Nat} (h : d.flowObj i.flow = .encPiece c p) :
    d.endLate i = (d.countSubst i 4).beginFloor i 0x02 i.unit := by
  rw [Dev.endLate, h]

/-- Any other item leaves its unit, and its substitute runs. -/
theorem Dev.endLate_of_other {d : Dev} {i : Item} (h : ∀ c p, d.flowObj i.flow ≠ .encPiece c p) :
    d.endLate i = (d.leaveUnit i (i.cyclesRun d.nowNs)).substitute i 4 := by
  rw [Dev.endLate]
  split
  · next c p hc => exact absurd hc (h c p)
  · rfl

theorem Dev.item_beginFloor (d : Dev) (i : Item) (st : Nat) (u : Option Nat) (f q : Nat) :
    (d.beginFloor i st u).item? f q =
      if f = i.flow ∧ q = i.seq then (d.item? f q).map fun x => { x with floor := st, unit := u, cost := i.floorCost } else d.item? f q :=
  Dev.item_onItem d i.flow i.seq (g := fun x => { x with floor := st, unit := u, cost := i.floorCost }) (fun _ => ⟨rfl, rfl⟩) f q

/-! ## BE_TIMEOUT (R75) -/

/-- The operands that an item holds go back to their producers. -/
def Dev.releaseFilled (d : Dev) (f : Nat) (i : Item) : Dev :=
  [0, 1, 2, 3].foldl (fun d n => if bitAt i.filled n && bitAt i.need n then d.releaseOperand f n (i.handles.getD n 0) else d) d

theorem Dev.releaseOperand_eq (d : Dev) (f slot handle : Nat) :
    d.releaseOperand f slot handle = { d with pools := (d.releaseOperand f slot handle).pools } := by
  unfold Dev.releaseOperand
  split
  · split <;> rfl
  · rfl

theorem Dev.releaseFilled_eq (d : Dev) (f : Nat) (i : Item) : d.releaseFilled f i = { d with pools := (d.releaseFilled f i).pools } := by
  refine List.foldlRecOn (motive := fun e : Dev => e = { d with pools := e.pools }) _ _ rfl fun e he n _ => ?_
  split
  · rw [Dev.releaseOperand_eq, he]
  · exact he

/-- An encode item holds no buffer of a producer. -/
theorem Dev.releaseFilled_of_encPiece {d : Dev} {f c p : Nat} (h : d.flowObj f = .encPiece c p) (i : Item) : d.releaseFilled f i = d :=
  List.foldl_fixed' (fun n => by rw [Dev.releaseOperand, h]; exact ite_self d) _

section
variable {s : State} {flow seq : Nat} {i : Item} (hi : s.dev.item? flow seq = some i) (hl : i.live = false) (hu : i.unit = none)
  (hc : i.cd < s.dev.now)
include hi hl hu hc

theorem exec_beTimeout_other (ho : ∀ c p, s.dev.flowObj flow ≠ .encPiece c p) :
    exec (.beTimeout flow seq) s = .next { s with dev := (s.dev.releaseFilled flow i).endItem flow seq false } := by
  have hobj : ((s.dev.releaseFilled flow i).endItem flow seq false).flowObj flow = s.dev.flowObj flow := by
    rw [Dev.endItem_eq, Dev.releaseFilled_eq]; rfl
  show execBeTimeout _ _ s = _
  rw [execBeTimeout, State.lift_eq, hi]
  simp only [hl, hu, hc, decide_true, Option.isNone_none, Bool.not_false, Bool.and_self, if_true]
  split
  · next c p h => exact absurd (hobj.symm.trans h) (ho c p)
  · rfl

theorem exec_beTimeout_encPiece {c p j b : Nat} {g : EncCfg} (ho : s.dev.flowObj flow = .encPiece c p)
    (hb : s.dev.bandOfItem c i = some (g, j, b)) :
    exec (.beTimeout flow seq) s = .next { s with dev := (s.dev.endItem flow seq false).abandon c g j 0x22 } := by
  have hobj : (s.dev.endItem flow seq false).flowObj flow = .encPiece c p := ho
  have hband : (s.dev.endItem flow seq false).bandOfItem c i = some (g, j, b) := hb
  have hrel := Dev.releaseFilled_of_encPiece ho i
  rw [Dev.releaseFilled] at hrel
  show execBeTimeout _ _ s = _
  rw [execBeTimeout, State.lift_eq, hi]
  simp only [hl, hu, hc, hrel, hobj, hband, decide_true, Option.isNone_none, Bool.not_false, Bool.and_self, if_true]

end

/-- Settles O43, by what a substitution counts, the floor pass that a deadline begins and the end of a best-effort item. -/
theorem substitutesRun : Obligations.SubstitutesRun := by
  unfold Obligations.SubstitutesRun
  intro counted
  refine ⟨fun s flow seq i => exec_substituteAction_item, fun s flow seq i => exec_substituteAction_new, ?counts, ?deadline, ?abandons,
    ?timeout⟩
  case counts =>
    intro d i how h
    exact ⟨(d.countSubst i how).endItem i.flow i.seq true, rfl, (Dev.countSubst_counted d how h).onCox _, Dev.item_endItem_same _ _ _ _,
      Dev.gone_endItem_same _ _ _ _⟩
  case deadline =>
    intro s flow seq i d hflow hi hl hr hf hc hd
    obtain ⟨rfl, rfl⟩ := Dev.key_of_item hi
    have hexec := hd ▸ exec_deadlineFinish hi hl hr hf hc
    have hobj : d.flowObj i.flow = s.dev.flowObj i.flow := by rw [hd]; rfl
    have hitem (f q : Nat) : (d.countSubst i 4).item? f q = s.dev.item? f q := by rw [Dev.item_countSubst, hd]; rfl
    refine ⟨fun c p ho => ?_, fun ho => ?_⟩
    · rw [Dev.endLate_of_encPiece (hobj.trans ho)] at hexec
      refine ⟨_, hexec, rfl, (Dev.countSubst_counted d 4 hflow).onCox _, ?_, fun f q hne => ?_⟩
      · rw [Dev.item_beginFloor, if_pos ⟨rfl, rfl⟩, hitem, hi]; rfl
      · rw [Dev.item_beginFloor, if_neg hne, hitem]
    · rw [hexec, Dev.endLate_of_other (by rwa [hobj])]
  case abandons =>
    intro s flow seq i c p j b g hi hl hu hc ho hb
    exact ⟨_, exec_beTimeout_encPiece hi hl hu hc ho hb, Dev.item_endItem_same _ _ _ _, Dev.gone_endItem_same _ _ _ _,
      Dev.endItem_eq _ _ _ _⟩
  case timeout =>
    intro s flow seq i hi hl hu hc ho
    refine ⟨_, exec_beTimeout_other hi hl hu hc ho, Dev.item_endItem_same _ _ _ _, Dev.gone_endItem_same _ _ _ _, ?_⟩
    rw [Dev.releaseFilled_eq]
    rfl

end Sys2Proof.Machine
end

section
/-! PROOFS. Operand tokens (R55–R59, R76): what a token reads of the device, and what it gives in each case. Settles O40. -/

namespace Sys2Proof.Machine

/-! ## What a record leaves of the registers

The registers of the record logs lie above every register that Cox reads. -/

theorem Tab.filter_set {α : Type} (t : Tab α) (k : Nat) (v : α) {p : Nat × α → Bool} (h : ∀ v, p (k, v) = false) :
    (Tab.set t k v).filter p = t.filter p := by
  induction t with
  | nil => simp [Tab.set, h]
  | cons x r ih =>
    obtain ⟨k', v'⟩ := x
    simp only [Tab.set]
    split_ifs with h₁ h₂
    · simp [h]
    · subst h₂; simp [h]
    · simp [List.filter_cons, ih]

theorem Tab.filter_put {α : Type} [DecidableEq α] {d : Nat → α} (t : Tab α) (k : Nat) (v : α) {p : Nat × α → Bool}
    (h : ∀ v, p (k, v) = false) : (Tab.put d t k v).filter p = t.filter p := by
  unfold Tab.put
  split_ifs with hv
  · rw [List.filter_filter]
    refine List.filter_congr fun x _ => ?_
    obtain ⟨k', v'⟩ := x
    by_cases hk : k' = k
    · subst hk; simp [h]
    · simp [hk]
  · exact Tab.filter_set t k v h

/-- The registers below those of the record logs. -/
def Dev.lowRegs (d : Dev) : Tab Word := d.regs.filter fun p => decide (p.1 < Reg.rplLogStatus 0)

theorem Dev.reg_of_lowRegs {d e : Dev} (h : e.lowRegs = d.lowRegs) {a : Nat} (ha : a < Reg.rplLogStatus 0) : e.reg a = d.reg a := by
  have hkeep (x : Dev) : Tab.get regReset x.lowRegs a = x.reg a := Tab.get_filter_keep _ _ _ fun _ => decide_eq_true ha
  rw [← hkeep, h, hkeep]

theorem Dev.flowsOn_of_lowRegs {d e : Dev} (h : e.lowRegs = d.lowRegs) : e.flowsOn = d.flowsOn := by
  have hkeep (x : Dev) : x.flowsOn = x.lowRegs.filterMap fun p =>
      if 0x310000 ≤ p.1 ∧ p.1 < 0x320000 ∧ p.1 % 16 = 0 ∧ F.coxFlowCfg_enable.get p.2 = 1 then some ((p.1 - 0x310000) / 16)
      else none := by
    rw [Dev.lowRegs, List.filterMap_filter]
    refine List.filterMap_congr fun p _ => ?_
    by_cases hp : p.1 < Reg.rplLogStatus 0
    · simp only [decide_eq_true hp, if_true]
    · rw [if_neg fun ⟨_, hlt, _⟩ => hp (lt_trans hlt (by decide)), if_neg (by simpa using hp)]
  rw [hkeep, h, hkeep]

theorem Dev.lt_of_flowsOn {d : Dev} {f : Nat} (h : f ∈ d.flowsOn) : f < 4096 := by
  obtain ⟨p, -, hp⟩ := List.mem_filterMap.mp h
  obtain ⟨⟨hlo, hhi, -⟩, hf⟩ := Option.ite_none_right_eq_some.mp hp
  have := Option.some.inj hf
  omega

theorem Dev.lowRegs_setReg (d : Dev) {a : Nat} (w : Word) (h : Reg.rplLogStatus 0 ≤ a) : (d.setReg a w).lowRegs = d.lowRegs :=
  Tab.filter_put _ _ _ fun _ => decide_eq_false (Nat.not_lt.mpr h)

theorem Dev.lowRegs_addFld (d : Dev) {a : Nat} (f : Fld) (n : Nat) (h : Reg.rplLogStatus 0 ≤ a) : (d.addFld a f n).lowRegs = d.lowRegs :=
  Dev.lowRegs_setReg d _ h

theorem Dev.lowRegs_onStanding (d : Dev) (p : Standing → Bool) (f : Standing → Standing) : (d.onStanding p f).lowRegs = d.lowRegs := rfl

theorem Dev.lowRegs_logLoss (d : Dev) (c : Nat) (p : Standing) : (d.logLoss c p).lowRegs = d.lowRegs := by
  rw [Dev.logLoss, Dev.lowRegs_onStanding, Dev.lowRegs_addFld _ _ _ (by simp only [Reg.rplLogStatus]; omega)]

@[simp] theorem Dev.lowRegs_record (d : Dev) (c kind sub obj : Nat) (data : List Nat) :
    (d.record c kind sub obj data).lowRegs = d.lowRegs := by
  show (d.logRecord c _).lowRegs = d.lowRegs
  unfold Dev.logRecord
  split
  · rfl
  · dsimp only
    split
    · exact Dev.lowRegs_logLoss d c _
    · rw [Dev.lowRegs_onStanding, Dev.lowRegs_setReg _ _ (by simp only [Reg.rplLogStatus, Reg.rplLogSeq]; omega)]

@[simp] theorem Dev.lowRegs_logBlock (d : Dev) (c : Nat) (ws : List Nat) : (d.logBlock c ws).lowRegs = d.lowRegs := by
  unfold Dev.logBlock
  split
  · rfl
  · split
    · exact Dev.lowRegs_logLoss d c _
    · rfl

@[simp] theorem Dev.lowRegs_recordToken (d : Dev) (c slot obj : Nat) (data : List Nat) :
    (d.recordToken c slot obj data).lowRegs = d.lowRegs := by
  unfold Dev.recordToken
  dsimp only
  split
  · exact Dev.lowRegs_record _ _ _ _ _ _
  · rw [Dev.foldl_keeps Dev.lowRegs fun e i _ => Dev.lowRegs_logBlock e _ _, Dev.lowRegs_record, Dev.lowRegs_record]

/-! ## What a token reads of the device -/

/-- A device whose store, and whose registers as far as Cox reads them, are those of another. -/
structure Dev.SameStore (d e : Dev) : Prop where
  cox : e.cox = d.cox
  regs : e.lowRegs = d.lowRegs

namespace Dev.SameStore

variable {d e : Dev} (h : d.SameStore e)
include h

theorem item (f seq : Nat) : e.item? f seq = d.item? f seq := by rw [Dev.item?, h.cox, Dev.item?]

theorem gone (f seq : Nat) : e.gone? f seq = d.gone? f seq := by rw [Dev.gone?, h.cox, Dev.gone?]

theorem fld {a : Nat} (ha : a < Reg.rplLogStatus 0) (g : Fld) : e.fld a g = d.fld a g := by
  rw [Dev.fld, Dev.reg_of_lowRegs h.regs ha, Dev.fld]

theorem flowFld {f : Nat} (hf : f < 4096) (g : Fld) : e.fld (Reg.coxFlowCfg f) g = d.fld (Reg.coxFlowCfg f) g :=
  h.fld (by simp only [Reg.coxFlowCfg, Reg.rplLogStatus]; omega) g

theorem flowOn {f : Nat} (hf : f < 4096) : e.flowOn f = d.flowOn f :=
  congrArg (fun n : Nat => decide (n = 1)) (h.flowFld hf F.coxFlowCfg_enable)

theorem flowLive {f : Nat} (hf : f < 4096) : e.flowLive f = d.flowLive f :=
  congrArg (fun n : Nat => decide (n = 1)) (h.flowFld hf F.coxFlowCfg_live)

theorem heldEntries (f : Nat) : e.heldEntries f = d.heldEntries f := by rw [Dev.heldEntries, h.cox, Dev.heldEntries]

theorem liveReserved : e.liveReserved = d.liveReserved := by
  have hlive : sumBy (fun f => if e.flowLive f then e.fld (Reg.coxFlowCfg f) F.coxFlowCfg_reserve else 0) d.flowsOn =
      sumBy (fun f => if d.flowLive f then d.fld (Reg.coxFlowCfg f) F.coxFlowCfg_reserve else 0) d.flowsOn :=
    List.foldl_ext _ _ _ fun a f hf => by
      have hlt := Dev.lt_of_flowsOn hf
      simp only [h.flowLive hlt, h.flowFld hlt]
  rw [Dev.liveReserved, Dev.flowsOn_of_lowRegs h.regs, hlive, h.cox, Dev.liveReserved]

theorem storeRoom : e.storeRoom = d.storeRoom := by rw [Dev.storeRoom, h.cox, h.liveReserved, Dev.storeRoom]

end Dev.SameStore

/-! ## What a token gives -/

/-- The device once a token of a flow is counted in the counters of Cox. -/
def Dev.tokenCounted (d : Dev) (f : Nat) : Dev := d.pmuCount 136 .token (d.flowCrew f) f 1

theorem Dev.sameStore_tokenCounted (d : Dev) (f : Nat) : d.SameStore (d.tokenCounted f) := by
  rw [Dev.tokenCounted, Dev.pmuCount_eq]
  exact ⟨rfl, rfl⟩

theorem Dev.SameStore.trans {d e t : Dev} (h₁ : d.SameStore e) (h₂ : e.SameStore t) : d.SameStore t :=
  ⟨h₂.cox.trans h₁.cox, h₂.regs.trans h₁.regs⟩

/-- A token is discarded and counted in a field: the store is as it was, and the count is one more. -/
def Dev.DiscardCounted (d t : Dev) (a : Nat) (g : Fld) : Prop := t.cox = d.cox ∧ t.fld a g = (d.fld a g + 1) % 2 ^ g.width

theorem Dev.SameStore.discard {d e : Dev} (h : d.SameStore e) {a : Nat} {g : Fld} (ha : a < Reg.rplLogStatus 0) (hg : g.ok)
    (f slot handle : Nat) : d.DiscardCounted ((e.addFld a g 1).releaseOperand f slot handle) a g := by
  rw [Dev.releaseOperand_eq]
  exact ⟨h.cox, (Dev.fld_addFld_same e a hg 1).trans (by rw [h.fld ha])⟩

theorem bitAt_add_two_pow {v i : Nat} (h : ¬bitAt v i = true) : bitAt (v + 2 ^ i) i = true := by
  simp only [bitAt, decide_eq_true_eq] at h ⊢
  rw [Nat.add_div_right _ (Nat.two_pow_pos i)]
  omega

theorem Dev.makeReady_keeps_others (d : Dev) (f seq : Nat) {i : Item} (hf : i.flow ≠ f) (h : i ∈ d.cox.items) :
    i ∈ (d.makeReady f seq).cox.items := by
  unfold Dev.makeReady
  split
  · exact h
  · split
    · exact Dev.mem_onItem seq _ hf h
    · exact h

/-- An entry joins its unit's ready list once all four slots count as filled, and is otherwise as it was. -/
theorem Dev.item_makeReady {d : Dev} {f seq : Nat} {i : Item} (h : d.item? f seq = some i) :
    ∃ n, (d.makeReady f seq).item? f seq = some { i with readyNo := n } ∧ ((∀ k < 4, bitAt i.filled k = true) → n ≠ 0) := by
  unfold Dev.makeReady
  rw [h]
  dsimp only
  split
  · exact ⟨d.cox.readyNo + 1, Dev.item_onItem_same (d := d.onCox _) (fun _ => ⟨rfl, rfl⟩) h, fun _ => Nat.succ_ne_zero _⟩
  · next hn =>
    refine ⟨i.readyNo, h, fun hall hz => hn ?_⟩
    rw [hz, decide_eq_true rfl, Bool.true_and, List.all_eq_true]
    exact fun k hk => hall k (List.mem_range.mp hk)

/-- A token changes Cox, its registers, the counters and the buffer that it names. -/
theorem Dev.token_eq (d : Dev) (f seq slot handle : Nat) :
    d.token f seq slot handle = { d with regs := (d.token f seq slot handle).regs, cox := (d.token f seq slot handle).cox
                                         pools := (d.token f seq slot handle).pools, pmu := (d.token f seq slot handle).pmu } := by
  have hadd (e : Dev) (a : Nat) (g : Fld) (n : Nat) : (e.addFld a g n).releaseOperand f slot handle =
      { e with regs := ((e.addFld a g n).releaseOperand f slot handle).regs
               pools := ((e.addFld a g n).releaseOperand f slot handle).pools } := by
    rw [Dev.releaseOperand_eq, Dev.addFld_eq]
  unfold Dev.token Dev.lateDrop
  dsimp only
  rw [Dev.pmuCount_eq]
  generalize (d.pmuCount _ _ _ _ _).pmu = p
  split
  · rw [Dev.releaseOperand_eq]
  · split
    · split
      · rw [hadd]
      · rw [Dev.makeReady_eq]; rfl
    · split
      · rw [hadd]
      · rw [hadd]
      · split
        · rw [hadd]
        · rw [Dev.makeReady_eq]; rfl

/-- The entry that the first token of an item makes, in the flow's own share of the store or not. -/
def Dev.firstEntry (d : Dev) (f seq slot handle : Nat) (own : Bool) : Item :=
  let i := d.newItem f seq (d.beTarget f seq) !own
  if bitAt i.filled slot then i else { i with filled := i.filled + 2 ^ slot, handles := i.handles.set slot handle }

theorem Dev.firstEntry_facts (d : Dev) (f seq slot handle : Nat) (own : Bool) :
    bitAt (d.firstEntry f seq slot handle own).filled slot = true ∧ (d.firstEntry f seq slot handle own).flow = f ∧
      (d.firstEntry f seq slot handle own).seq = seq ∧ (d.firstEntry f seq slot handle own).unit = none ∧
      (d.firstEntry f seq slot handle own).shared = !own := by
  unfold Dev.firstEntry
  dsimp only
  split
  · next hb => exact ⟨hb, rfl, rfl, rfl, rfl⟩
  · next hb => exact ⟨bitAt_add_two_pow hb, rfl, rfl, rfl, rfl⟩

section
/-! A token of an enabled flow, read on a device `d` whose store is that of the one that has counted the token. -/

variable {d e : Dev} {f seq slot : Nat} (h : d.SameStore (e.tokenCounted f)) (hf : f < 4096) (hs : slot < 4) (ho : d.flowOn f = true)
  (handle : Nat)
include h hf hs ho

theorem Dev.token_reaches_store : ¬((!(e.tokenCounted f).flowOn f) = true ∨ 4 ≤ slot) := by
  rw [h.flowOn hf, ho]
  simpa using hs

theorem Dev.token_of_item {i : Item} (hi : d.item? f seq = some i) :
    e.token f seq slot handle =
      if bitAt i.filled slot = true then ((e.tokenCounted f).addFld Reg.coxDupCnt F.coxDupCnt_dup 1).releaseOperand f slot handle
      else ((e.tokenCounted f).onItem f seq fun i =>
        { i with filled := i.filled + 2 ^ slot, handles := i.handles.set slot handle }).makeReady f seq := by
  unfold Dev.token
  dsimp only
  rw [← Dev.tokenCounted, if_neg (Dev.token_reaches_store h hf hs ho), h.item, hi]

theorem Dev.token_of_gone {b : Bool} (hi : d.item? f seq = none) (hg : d.gone? f seq = some b) :
    e.token f seq slot handle =
      if b = true then (e.tokenCounted f).lateDrop f slot handle
      else ((e.tokenCounted f).addFld Reg.coxDupCnt F.coxDupCnt_dup 1).releaseOperand f slot handle := by
  unfold Dev.token
  dsimp only
  rw [← Dev.tokenCounted, if_neg (Dev.token_reaches_store h hf hs ho), h.item, hi]
  dsimp only
  rw [h.gone, hg]
  cases b <;> rfl

theorem Dev.token_of_first {own : Bool}
    (hown : (d.flowLive f && decide (d.heldEntries f < d.fld (Reg.coxFlowCfg f) F.coxFlowCfg_reserve)) = own)
    (hi : d.item? f seq = none) (hg : d.gone? f seq = none) :
    e.token f seq slot handle =
      if (!own && !d.storeRoom) = true then (e.tokenCounted f).lateDrop f slot handle
      else ((e.tokenCounted f).onCox fun c =>
        { c with items := c.items ++ [(e.tokenCounted f).firstEntry f seq slot handle own] }).makeReady f seq := by
  unfold Dev.token
  dsimp only
  rw [← Dev.tokenCounted, if_neg (Dev.token_reaches_store h hf hs ho), h.item, hi]
  dsimp only
  rw [h.gone, hg]
  dsimp only
  rw [h.flowLive hf, h.heldEntries, h.flowFld hf, hown, h.storeRoom]
  rfl

/-- A token for a slot that is not filled takes it, and the entry is ready once no slot is left. -/
theorem Dev.token_fills {i : Item} (hi : d.item? f seq = some i) (hb : ¬bitAt i.filled slot = true) :
    ∃ n, (e.token f seq slot handle).item? f seq =
        some { i with filled := i.filled + 2 ^ slot, handles := i.handles.set slot handle, readyNo := n } ∧
      ((∀ k < 4, bitAt (i.filled + 2 ^ slot) k = true) → n ≠ 0) := by
  rw [Dev.token_of_item h hf hs ho handle hi, if_neg hb]
  exact Dev.item_makeReady (Dev.item_onItem_same
    (g := fun i => { i with filled := i.filled + 2 ^ slot, handles := i.handles.set slot handle }) (fun _ => ⟨rfl, rfl⟩)
    ((h.item f seq).trans hi))

/-- A first token that finds room makes the entry, and the entries of other flows stay. -/
theorem Dev.token_creates {own : Bool}
    (hown : (d.flowLive f && decide (d.heldEntries f < d.fld (Reg.coxFlowCfg f) F.coxFlowCfg_reserve)) = own)
    (hi : d.item? f seq = none) (hg : d.gone? f seq = none) (hr : ¬(own = false ∧ d.storeRoom = false)) :
    ∃ j, (e.token f seq slot handle).item? f seq = some j ∧ bitAt j.filled slot = true ∧ j.flow = f ∧ j.seq = seq ∧ j.unit = none ∧
      j.shared = !own ∧ ∀ i ∈ d.cox.items, i.flow ≠ f → i ∈ (e.token f seq slot handle).cox.items := by
  obtain ⟨hfill, hflow, hseq, hunit, hshared⟩ := (e.tokenCounted f).firstEntry_facts f seq slot handle own
  have hfind : ((e.tokenCounted f).onCox fun c =>
      { c with items := c.items ++ [(e.tokenCounted f).firstEntry f seq slot handle own] }).item? f seq =
        some ((e.tokenCounted f).firstEntry f seq slot handle own) := by
    have hnone : (e.tokenCounted f).cox.items.find? (fun i => i.flow = f && i.seq = seq) = none := (h.item f seq).trans hi
    rw [Dev.item?, Dev.onCox_cox, List.find?_append, hnone, Option.none_or, List.find?_singleton, if_pos (by simp [hflow, hseq])]
  obtain ⟨n, hready, -⟩ := Dev.item_makeReady hfind
  rw [Dev.token_of_first h hf hs ho handle hown hi hg, if_neg (by simpa using hr)]
  refine ⟨_, hready, hfill, hflow, hseq, hunit, hshared, fun i hmem hne => Dev.makeReady_keeps_others _ f seq hne ?_⟩
  exact List.mem_append_left _ (h.cox ▸ hmem)

end

/-! ## OPERAND_TOKEN -/

/-- A band token that reaches one item is a token of that item; that it has come is noted with its channel (R142). -/
theorem Dev.bandToken_of_oneToken {d : Dev} {f seq : Nat} (h : d.oneToken f seq 0 = true) (handle : Nat) :
    ∃ e : Dev, d.bandToken f seq handle = e.token f seq 0 handle ∧ e = { d with enc := e.enc } := by
  unfold Dev.bandToken
  split
  · next c p ho =>
    split
    · next g n hg =>
      have hl : g.live = true := by simpa [Dev.oneToken, ho, hg] using h
      dsimp only
      rw [if_pos hl]
      exact ⟨_, rfl, rfl⟩
    · exact ⟨d, rfl, rfl⟩
  · exact ⟨d, rfl, rfl⟩

/-- The record of a token is followed by that of its content, where the policy of its Crew asks for one (R525). -/
theorem Dev.log_recordToken_content (d : Dev) (c slot obj : Nat) (data : List Nat) :
    ∃ new, (d.recordToken c slot obj data).log = new ++ ⟨c, d.now, 0x02, slot, obj, data⟩ :: d.log ∧
      (∀ q ∈ new, q.kind = 0x13 ∧ q.crew = c) ∧
      (d.flag (Reg.secCrewPolicy c) F.secCrewPolicy_replayContent = false → new = []) := by
  by_cases hp : d.flag (Reg.secCrewPolicy c) F.secCrewPolicy_replayContent = false
  · have hflag : (d.record c 0x02 slot obj data).flag (Reg.secCrewPolicy c) F.secCrewPolicy_replayContent = false := by
      rw [← hp, Dev.flag, Dev.reg_record _ _ _ _ _ _ (by simp only [Reg.secCrewPolicy, Reg.rplLogStatus]; omega)
        (by simp only [Reg.secCrewPolicy, Reg.rplLogSeq]; omega), Dev.flag]
    rw [Dev.recordToken_plain _ _ _ _ _ hflag, Dev.log_record]
    exact ⟨[], rfl, by simp, fun _ => rfl⟩
  · unfold Dev.recordToken
    dsimp only
    split
    · exact ⟨[], Dev.log_record _ _ _ _ _ _, by simp, fun _ => rfl⟩
    · rw [Dev.foldl_keeps Dev.log fun e i _ => by rw [Dev.logBlock_eq], Dev.log_record, Dev.log_record]
      exact ⟨[_], rfl, by simp, fun h => absurd h hp⟩

/-- A token that reaches one item is recorded, and is taken by a device that is otherwise as it was, but for what its channel notes. -/
theorem exec_operandToken_one {s : State} {flow seq slot : Nat} (hr : s.dev.replay = false) (hi : s.dev.inReset 5 = false)
    (h : s.dev.oneToken flow seq slot = true) (handle ns : Nat) :
    ∃ e : Dev, exec (.operandToken flow seq slot handle ns) s = .next { s with dev := e.token flow seq slot handle } ∧
      e = { (s.dev.atNs ns).recordToken (s.dev.flowCrew flow) slot flow [seq, handle] with enc := e.enc } := by
  show ∃ e : Dev, execOperandToken _ _ _ _ _ s = _ ∧ _
  rw [execOperandToken, State.lift_eq, if_neg (by simp [hr, hi])]
  dsimp only
  split
  · next hz =>
    subst hz
    obtain ⟨e, he, heq⟩ := Dev.bandToken_of_oneToken (d := (s.dev.atNs ns).recordToken (s.dev.flowCrew flow) 0 flow [seq, handle])
      (f := flow) (seq := seq) (by rw [← h, Dev.recordToken_eq]; rfl) handle
    exact ⟨e, by rw [← he]; rfl, heq⟩
  · exact ⟨_, rfl, rfl⟩

/-- Settles O40, by the record of a token and the cases of what the store makes of it. -/
theorem operandTokens : Obligations.OperandTokens := by
  unfold Obligations.OperandTokens
  intro s flow seq slot handle ns hr hreset hslot hflow hon hone
  obtain ⟨e, hexec, he⟩ := exec_operandToken_one hr hreset hone handle ns
  have hrec := Dev.recordToken_eq (s.dev.atNs ns) (s.dev.flowCrew flow) slot flow [seq, handle]
  have hstore : s.dev.SameStore (e.tokenCounted flow) := by
    refine Dev.SameStore.trans ⟨?_, ?_⟩ (Dev.sameStore_tokenCounted e flow)
    · rw [he, hrec]; rfl
    · rw [he]; exact Dev.lowRegs_recordToken (s.dev.atNs ns) _ _ _ _
  obtain ⟨new, hlog, hnew, hplain⟩ := Dev.log_recordToken_content (s.dev.atNs ns) (s.dev.flowCrew flow) slot flow [seq, handle]
  have hout : (e.token flow seq slot handle).out = s.dev.out := by rw [Dev.token_eq, he, hrec]; rfl
  have htoken : (e.token flow seq slot handle).log =
      new ++ ⟨s.dev.flowCrew flow, s.dev.now, 0x02, slot, flow, [seq, handle]⟩ :: s.dev.log := by
    rw [Dev.token_eq, he]; exact hlog
  refine ⟨_, hexec, rfl, hout, ⟨_, new, htoken, hnew, hplain, rfl, rfl, rfl, rfl, rfl, rfl⟩, ?_⟩
  cases hi : s.dev.item? flow seq with
  | some i =>
    dsimp only
    split
    · next hb =>
      rw [Dev.token_of_item hstore hflow hslot hon handle hi, if_pos hb]
      exact hstore.discard (by decide) ⟨by decide, by decide⟩ flow slot handle
    · next hb =>
      obtain ⟨n, hj, hready⟩ := Dev.token_fills hstore hflow hslot hon handle hi hb
      exact ⟨_, hj, rfl, rfl, rfl, rfl, rfl, rfl, hready⟩
  | none =>
    dsimp only
    cases hg : s.dev.gone? flow seq with
    | some b =>
      rw [Dev.token_of_gone hstore hflow hslot hon handle hi hg]
      cases b with
      | true => exact hstore.discard (by decide) ⟨by decide, by decide⟩ flow slot handle
      | false => exact hstore.discard (by decide) ⟨by decide, by decide⟩ flow slot handle
    | none =>
      dsimp only
      split
      · next hfull =>
        rw [Dev.token_of_first hstore hflow hslot hon handle rfl hi hg, if_pos (by rw [hfull.1, hfull.2]; rfl)]
        exact hstore.discard (by decide) ⟨by decide, by decide⟩ flow slot handle
      · next hroom => exact Dev.token_creates hstore hflow hslot hon handle rfl hi hg hroom

end Sys2Proof.Machine
end

section
/-! PROOFS. Dispatch (R61–R64, R184): the order of service, and what the item that starts leaves. Settles O41. -/

namespace Sys2Proof.Machine

/-! ## The order of service (R61, R62, R70, R74) -/

/-- The order of service is the lexicographic order of three numbers. -/
theorem placeBefore_eq_true {a b : Nat × Nat × Nat} :
    placeBefore a b = true ↔ a.1 < b.1 ∨ a.1 = b.1 ∧ (a.2.1 < b.2.1 ∨ a.2.1 = b.2.1 ∧ a.2.2 < b.2.2) := by
  simp [placeBefore]

theorem placeBefore_irrefl (a : Nat × Nat × Nat) : placeBefore a a = false := by
  rw [← Bool.not_eq_true, placeBefore_eq_true]
  omega

theorem placeBefore_asymm {a b : Nat × Nat × Nat} (h : placeBefore a b = true) : placeBefore b a = false := by
  rw [← Bool.not_eq_true, placeBefore_eq_true]
  rw [placeBefore_eq_true] at h
  omega

/-- What comes after none of two places in turn comes after neither. -/
theorem placeBefore_false_trans {a b c : Nat × Nat × Nat} (h₁ : placeBefore a b = false) (h₂ : placeBefore b c = false) :
    placeBefore a c = false := by
  rw [← Bool.not_eq_true, placeBefore_eq_true] at *
  omega

theorem Dev.firstServed_eq_none {d : Dev} {ns : Nat} {l : List (Item × Nat)} (h : d.firstServed ns l = none) : l = [] := by
  cases l with
  | nil => rfl
  | cons x r =>
    rw [Dev.firstServed] at h
    split at h
    · cases h
    · split at h <;> cases h

/-- The one that is served first is among those given, and none of them comes before it. -/
theorem Dev.firstServed_first (d : Dev) (ns : Nat) (l : List (Item × Nat)) {x : Item × Nat} (h : d.firstServed ns l = some x) :
    x ∈ l ∧ ∀ y ∈ l, placeBefore (d.servicePlace ns y.1) (d.servicePlace ns x.1) = false := by
  induction l generalizing x with
  | nil => cases h
  | cons y r ih =>
    rw [Dev.firstServed] at h
    split at h
    · next hr =>
      cases h
      rw [Dev.firstServed_eq_none hr]
      exact ⟨List.mem_singleton_self _, fun z hz => by rw [List.mem_singleton.mp hz, placeBefore_irrefl]⟩
    · next z hz =>
      obtain ⟨hmem, hfirst⟩ := ih hz
      split at h
      · next hb =>
        cases h
        exact ⟨List.mem_cons_of_mem _ hmem, List.forall_mem_cons.mpr ⟨placeBefore_asymm hb, hfirst⟩⟩
      · next hb =>
        cases h
        exact ⟨List.mem_cons_self, List.forall_mem_cons.mpr ⟨placeBefore_irrefl _, fun w hw =>
          placeBefore_false_trans (hfirst w hw) (Bool.not_eq_true _ ▸ hb)⟩⟩

/-! ## The item that starts -/

/-- Two devices that differ at most in the counters and in what Cox holds beside its items. -/
def Dev.StoreKept (d e : Dev) : Prop := ∃ k p, e = { d with cox := k, pmu := p } ∧ k.items = d.cox.items

theorem Dev.StoreKept.refl (d : Dev) : d.StoreKept d := ⟨_, _, rfl, rfl⟩

theorem Dev.StoreKept.trans {d e t : Dev} (h₁ : d.StoreKept e) (h₂ : e.StoreKept t) : d.StoreKept t := by
  obtain ⟨k, p, rfl, hk⟩ := h₁
  obtain ⟨k', p', rfl, hk'⟩ := h₂
  exact ⟨k', p', rfl, hk'.trans hk⟩

theorem Dev.StoreKept.reg {d e : Dev} (h : d.StoreKept e) (a : Nat) : e.reg a = d.reg a := by
  obtain ⟨k, p, rfl, -⟩ := h
  rfl

theorem Dev.StoreKept.out {d e : Dev} (h : d.StoreKept e) : e.out = d.out := by
  obtain ⟨k, p, rfl, -⟩ := h
  rfl

theorem Dev.StoreKept.items {d e : Dev} (h : d.StoreKept e) : e.cox.items = d.cox.items := by
  obtain ⟨k, p, rfl, hk⟩ := h
  exact hk

theorem Dev.StoreKept.onCox (d : Dev) {f : Cox → Cox} (h : ∀ c, (f c).items = c.items) : d.StoreKept (d.onCox f) := ⟨_, _, rfl, h _⟩

theorem Dev.StoreKept.pmuCount (d : Dev) (bank : Nat) (e : PmuEvent) (crew flow n : Nat) : d.StoreKept (d.pmuCount bank e crew flow n) :=
  ⟨_, _, Dev.pmuCount_eq d bank e crew flow n, rfl⟩

/-- A window that is loaded keeps the items (R180). -/
theorem Dev.StoreKept.loadWindow (d : Dev) (i : Item) (u lv : Nat) (m : Bool) : d.StoreKept (d.loadWindow i u lv m) := by
  unfold Dev.loadWindow
  split
  · split
    · dsimp only
      split
      · exact .refl d
      · refine Dev.StoreKept.trans ?_ (Dev.StoreKept.pmuCount _ _ _ _ _ _)
        exact Dev.StoreKept.onCox d fun _ => rfl
    · exact .refl d
  · exact .refl d

/-- The level at which an item starts: that of its home Seat or decode Seat where it is live (R65, R77). -/
def Dev.startLevel (d : Dev) (i : Item) : Nat :=
  if i.live && decide (d.homeUnitAt i.flow i.e < 40) then d.fld (Reg.coxThrottle (d.homeUnitAt i.flow i.e)) F.coxThrottle_degrade else 0

/-- The cost at which an item starts: the cut one at level 1 of a Seat, its certified one else (R184). -/
def Dev.startCost (d : Dev) (i : Item) : Nat :=
  if d.startLevel i = 1 && i.floor == 0 && decide (d.homeUnitAt i.flow i.e < 32) then cutCost i.cost else i.cost

theorem Dev.startCost_of_level {d : Dev} {i : Item} (h : d.startLevel i ≠ 1) : d.startCost i = i.cost := by
  simp [Dev.startCost, h]

/-- The item in service on a unit, which its flow last ran on (R64, R65). -/
def Dev.inService (d : Dev) (i : Item) (u : Nat) : Dev :=
  (d.onItem i.flow i.seq fun j =>
    { j with unit := some u, level := d.startLevel i, cost := d.startCost i, began := d.now * 125000 + d.stk.phase }).setFld
      (Reg.coxFlowAff i.flow) F.coxFlowAff_last (unitNo u)

theorem Dev.out_inService (d : Dev) (i : Item) (u : Nat) : (d.inService i u).out = d.out := by
  rw [Dev.inService, Dev.setFld_out, Dev.onItem_out]

theorem Dev.items_inService (d : Dev) (i : Item) (u : Nat) : (d.inService i u).cox.items = d.cox.items.map fun j =>
    if j.flow = i.flow ∧ j.seq = i.seq then
      { j with unit := some u, level := d.startLevel i, cost := d.startCost i, began := d.now * 125000 + d.stk.phase }
    else j := by
  rw [Dev.inService, Dev.setFld_cox]
  rfl

/-- An item that starts is in service on its unit; all else is Cox's beside its items, and the counters'. -/
theorem Dev.start_keeps (d : Dev) (i : Item) (u : Nat) : (d.inService i u).StoreKept (d.start i u) := by
  unfold Dev.start
  dsimp only
  have hrun : (d.inService i u).StoreKept (((d.onItem i.flow i.seq fun j =>
      { j with unit := some u, level := d.startLevel i, cost := d.startCost i, began := d.now * 125000 + d.stk.phase }).onCox fun c =>
        { c with lastRun := Tab.put zero c.lastRun i.flow (u + 1) }).setFld (Reg.coxFlowAff i.flow) F.coxFlowAff_last (unitNo u)) :=
    ⟨_, _, rfl, rfl⟩
  have hused (e : Dev) (h : (d.inService i u).StoreKept e) : (d.inService i u).StoreKept (if i.live = true then e else e.onCox fun c =>
      { c with beUsed := Tab.upd zero c.beUsed u (· + d.beCycles i u) }) := by
    split
    · exact h
    · exact h.trans (Dev.StoreKept.onCox e fun _ => rfl)
  split
  · refine Dev.StoreKept.trans ?_ (Dev.StoreKept.pmuCount _ _ _ _ _ _)
    exact (hused _ hrun).trans (Dev.StoreKept.loadWindow _ _ _ _ _)
  · exact (hused _ hrun).trans (Dev.StoreKept.loadWindow _ _ _ _ _)

/-! ## ITEM_DISPATCH -/

theorem exec_itemDispatch_eq (ns : Nat) (s : State) : exec (.itemDispatch ns) s = execItemDispatch ns s := rfl

theorem exec_itemDispatch_some {s : State} {ns : Nat} {x : Item × Nat}
    (h : (s.dev.atNs ns).firstServed ns ((s.dev.atNs ns).dispatchable ns) = some x) :
    exec (.itemDispatch ns) s = .next { s with dev := (s.dev.atNs ns).start x.1 x.2 } := by
  rw [exec_itemDispatch_eq, execItemDispatch, State.lift_eq]
  dsimp only
  rw [← Dev.atNs, h]

theorem exec_itemDispatch_none {s : State} {ns : Nat}
    (h : (s.dev.atNs ns).firstServed ns ((s.dev.atNs ns).dispatchable ns) = none) :
    exec (.itemDispatch ns) s = .next { s with dev := s.dev.atNs ns } := by
  rw [exec_itemDispatch_eq, execItemDispatch, State.lift_eq]
  dsimp only
  rw [← Dev.atNs, h]

/-- Settles O41, by what starts an item and by induction on the items that can start. -/
theorem itemsStart : Obligations.ItemsStart := by
  unfold Obligations.ItemsStart
  refine ⟨fun s ns i u _ h => ?_, fun s ns => exec_itemDispatch_none, fun d ns l x => Dev.firstServed_first d ns l⟩
  have hkept := (s.dev.atNs ns).start_keeps i u
  have hitems := hkept.items.trans (Dev.items_inService _ i u)
  have hout := hkept.out.trans (Dev.out_inService _ i u)
  refine ⟨_, (s.dev.atNs ns).startLevel i, (s.dev.atNs ns).startCost i, exec_itemDispatch_some h, hitems, Dev.startCost_of_level, ?_,
    fun a ha => ?_, hout, rfl⟩
  · rw [Dev.fld, hkept.reg, ← Dev.fld, Dev.inService, Dev.fld_setFld_same _ _ ⟨by decide, by decide⟩]
  · rw [hkept.reg, Dev.inService, Dev.reg_setFld_other _ _ _ fun h => ha (List.mem_singleton.mpr h), Dev.onItem_read_reg]
    rfl

end Sys2Proof.Machine
end

section
/-! PROOFS. The completion entry of a descriptor, word for word, and what a completion leaves of its ring pair (R104, R107, R110). Settles
O9 and O29. -/

namespace Sys2Proof.Machine

/-! ## The words of an entry (R104) -/

/-- Words 0–6 of the entry that a ring pair writes next. -/
def Dev.entryBody (d : Dev) (c r : Nat) (g : Ring) (h : Held) : List Nat :=
  [pack [(h.status, 24), (h.opcode, 16), (h.tag, 0)], h.since % 2 ^ 32,
    pack [(bit g.lost, 17), (if g.cqSeq / d.cqSize c r % 2 = 0 then 1 else 0, 16),
      (d.fld (Reg.hifRingStatus c r) F.hifRingStatus_sqHead, 0)],
    h.words.getD 0 0, h.words.getD 1 0, h.words.getD 2 0, h.words.getD 3 0]

/-- The entry that a ring pair writes next, with its CHECK, in its slot. -/
def Dev.entryOut (d : Dev) (c r : Nat) (g : Ring) (h : Held) : Output :=
  .entry c r (g.cqSeq % d.cqSize c r) (d.entryBody c r g h ++ [crc32c ((64 * c + r) * 65536 + g.cqSeq % 65536) (d.entryBody c r g h)])

/-- On an enabled ring pair a completion's entry is shown with all its words. -/
theorem Dev.writeHeld_shows_entry {d : Dev} {c r : Nat} {g : Ring} (hg : d.ring c r = some g) (h : Held) :
    d.Shows (d.writeHeld c r h) (d.entryOut c r g h) := by
  have hr : ((d.onRing c r fun g => { g with reserved := g.reserved - bit h.slot }).countWrite c r).ring c r =
      some { g with reserved := g.reserved - bit h.slot } := by
    show (d.onRing c r _).ring c r = _
    rw [Dev.ring_onRing_same, hg, Option.map_some]
  unfold Dev.writeHeld Dev.writeEntryAt
  dsimp only
  rw [hr]
  exact (Dev.Shows.emit d _).later (Dev.signal_out _ _ _)

/-! ## The ring pair of a completion (R108, R110) -/

/-- The entry takes the next slot, and gives back the one reserved for it. -/
theorem Dev.ring_writeHeld {d : Dev} {c r : Nat} {g : Ring} (hg : d.ring c r = some g) (h : Held) :
    (d.writeHeld c r h).ring c r = some { g with reserved := g.reserved - bit h.slot, cqSeq := g.cqSeq + 1, lost := false } := by
  have hr : ((d.onRing c r fun g => { g with reserved := g.reserved - bit h.slot }).countWrite c r).ring c r =
      some { g with reserved := g.reserved - bit h.slot } := by
    show (d.onRing c r _).ring c r = _
    rw [Dev.ring_onRing_same, hg, Option.map_some]
  exact Dev.writeEntryAt_ring hr _ _ _ _ _

/-- A completion of a ring pair where none waits is written at once while the capacity has room. -/
theorem Dev.complete_of_room {d : Dev} {c r : Nat} {g : Ring} (hg : d.ring c r = some g) (hh : g.held = [])
    (hs : d.entryShare c r = true) (h : Held) : d.complete c r h = d.writeHeld c r h := by
  rw [Dev.complete, if_pos (by rw [hg, hs, Option.all_some, hh]; rfl)]

/-- A descriptor is no longer outstanding on its ring pair. -/
def Dev.closed (d : Dev) (x : Desc) : Dev := d.onRing x.crew x.ring fun g => { g with opened := g.opened.filter (· ≠ x.seq) }

theorem Dev.ring_closed {d : Dev} {x : Desc} {g : Ring} (hg : d.ring x.crew x.ring = some g) :
    (d.closed x).ring x.crew x.ring = some { g with opened := g.opened.filter (· ≠ x.seq) } := by
  rw [Dev.closed, Dev.ring_onRing_same, hg, Option.map_some]

theorem Dev.not_mem_opened_filter (l : List Nat) (n : Nat) : n ∉ l.filter (· ≠ n) := by simp

/-- A descriptor whose ring pair is still the one it was read under completes, unless it is quiet and DONE. -/
theorem Dev.finish_of_epoch {d : Dev} {x : Desc} {g : Ring} (st : Nat) (ws : List Nat) (hg : d.ring x.crew x.ring = some g)
    (he : g.epoch = x.epoch) (hq : x.quiet = false ∨ st ≠ 0) :
    d.finish x st ws = (d.closed x).complete x.crew x.ring ⟨st, x.opcode, x.tag, ws, d.now, x.seq, 0, true⟩ := by
  have hn : (x.quiet && decide (st = 0)) = false := by rcases hq with h | h <;> simp [h]
  unfold Dev.finish
  rw [if_neg (by rw [hg]; simp [he])]
  dsimp only
  rw [hn, if_neg Bool.false_ne_true]
  rfl

/-- A quiet descriptor that completes DONE gives back its slot. -/
theorem Dev.finish_quiet {d : Dev} {x : Desc} {g : Ring} (ws : List Nat) (hg : d.ring x.crew x.ring = some g)
    (he : g.epoch = x.epoch) (hq : x.quiet = true) :
    d.finish x 0 ws = (d.closed x).onRing x.crew x.ring fun g => { g with reserved := g.reserved - 1 } := by
  unfold Dev.finish
  rw [if_neg (by rw [hg]; simp [he])]
  dsimp only
  rw [hq, if_pos (by rfl)]
  rfl

theorem Dev.finish_of_room {d : Dev} {x : Desc} {g : Ring} (st : Nat) (ws : List Nat) (hg : d.ring x.crew x.ring = some g)
    (he : g.epoch = x.epoch) (hh : g.held = []) (hs : d.entryShare x.crew x.ring = true) (hq : x.quiet = false ∨ st ≠ 0) :
    d.finish x st ws = (d.closed x).writeHeld x.crew x.ring ⟨st, x.opcode, x.tag, ws, d.now, x.seq, 0, true⟩ := by
  rw [Dev.finish_of_epoch st ws hg he hq, Dev.complete_of_room (Dev.ring_closed hg) hh]
  exact (Dev.entryShare_onRing hg _ hh hh _ _).trans hs

/-- Of the descriptors that are due a completion changes none. -/
theorem Dev.due_finish (d : Dev) (x : Desc) (st : Nat) (ws : List Nat) : (d.finish x st ws).hif.due = d.hif.due :=
  congrArg Turn.due (Dev.turn_finish d x st ws)

/-- Of the descriptors that are staged a completion changes none. -/
theorem Dev.staged_finish (d : Dev) (x : Desc) (st : Nat) (ws : List Nat) : (d.finish x st ws).hif.staged = d.hif.staged :=
  congrArg Turn.staged (Dev.turn_finish d x st ws)

/-! ## A due descriptor that completes -/

/-- A descriptor is due no longer. -/
def Dev.taken (d : Dev) (x : Desc) : Dev := d.onHif fun v => { v with due := v.due.filter fun y => y ≠ x }

theorem Dev.ring_taken (d : Dev) (x : Desc) (c r : Nat) : (d.taken x).ring c r = d.ring c r := rfl

theorem Dev.entryShare_taken (d : Dev) (x : Desc) (c r : Nat) : (d.taken x).entryShare c r = d.entryShare c r := rfl

theorem Dev.not_due_finish_taken (d : Dev) (x y : Desc) (st : Nat) (ws : List Nat) : x ∉ ((d.taken x).finish y st ws).hif.due := by
  rw [Dev.due_finish]
  simp [Dev.taken]

/-- A descriptor that was due completes on the host side alone. -/
theorem State.hostOnly_finish_taken (s : State) (x y : Desc) (st : Nat) (ws : List Nat) :
    s.HostOnly { s with dev := (s.dev.taken x).finish y st ws } := by
  show State.mk _ _ _ = State.mk _ _ _
  rw [Dev.finish_eq]
  rfl

theorem Dev.entryBody_closed (d : Dev) (x : Desc) (c r : Nat) (g : Ring) (h : Held) :
    (d.closed x).entryBody c r g h = d.entryBody c r g h := rfl

theorem Dev.entryBody_taken (d : Dev) (x : Desc) (c r : Nat) (g : Ring) (h : Held) :
    (d.taken x).entryBody c r g h = d.entryBody c r g h := rfl

/-! ## NOP (R107) -/

theorem exec_nop {s : State} {crew ring : Nat} {x : Desc} (h : s.dev.IsDue crew ring 0xF0 x) :
    exec (.nop crew ring) s = .next { s with dev := (s.dev.taken x).finish x 0 [s.dev.now % 2 ^ 32, s.dev.now / 2 ^ 32] } :=
  State.onDue_of_isDue (fun d x => d.finish x 0 [d.now % 2 ^ 32, d.now / 2 ^ 32]) h

/-- Settles O9, by the entry that the ring pair writes next and what it leaves of the ring pair. -/
theorem nopCompletes : Obligations.NopCompletes := by
  unfold Obligations.NopCompletes
  refine ⟨fun s crew ring x g hdue hans hg => ?_, fun s crew ring x g hdue hq hg he => ?_⟩
  · obtain ⟨⟨g', hg', he, hh⟩, hq, hs⟩ := hans
    obtain rfl : g' = g := Option.some.inj (hg'.symm.trans hg)
    have hf := Dev.finish_of_room (d := s.dev.taken x) 0 [s.dev.now % 2 ^ 32, s.dev.now / 2 ^ 32] hg he hh hs (.inl hq)
    have hr : ((s.dev.taken x).closed x).ring x.crew x.ring = _ := Dev.ring_closed hg
    refine ⟨_, exec_nop hdue, State.hostOnly_finish_taken _ _ _ _ _, Dev.not_due_finish_taken _ _ _ _ _, ?_, ?_⟩
    · dsimp only
      rw [hf]
      exact ⟨_, Dev.ring_writeHeld hr _, rfl, rfl, Dev.not_mem_opened_filter _ _, rfl⟩
    · have hshow := Dev.writeHeld_shows_entry hr ⟨0, x.opcode, x.tag, [s.dev.now % 2 ^ 32, s.dev.now / 2 ^ 32], s.dev.now, x.seq, 0, true⟩
      rw [hdue.2] at hshow hf
      dsimp only
      rw [hf]
      refine ⟨_, hshow, ?_⟩
      rw [Dev.entryBody_closed, Dev.entryBody_taken]
      simp [Dev.entryBody, pack, Dev.nowLo, Dev.now]
  · refine ⟨_, exec_nop hdue, ?_, State.hostOnly_finish_taken _ _ _ _ _, ?_⟩
    · dsimp only
      rw [Dev.finish_quiet (d := s.dev.taken x) _ hg he hq]
      rfl
    · dsimp only
      rw [Dev.finish_quiet (d := s.dev.taken x) _ hg he hq, Dev.ring_onRing_same, Dev.ring_closed (d := s.dev.taken x) hg]
      exact ⟨_, rfl, rfl, rfl⟩

/-! ## ORDERED descriptors (R100) -/

/-- An ORDERED descriptor that starts: it waits no longer, and takes effect no earlier than the next boundary. -/
def Desc.started (x : Desc) (now : Nat) : Desc := { x with waits := false, effect := max x.effect (now + 1) }

/-- A descriptor starts, wherever it is staged. -/
def Dev.startOrdered (d : Dev) (x : Desc) : Dev :=
  d.onHif fun h => { h with staged := h.staged.map fun y => if y = x then x.started d.now else y }

theorem exec_orderedDescriptorStart {s : State} {crew ring : Nat} {g : Ring} {x : Desc} (hg : s.dev.ring crew ring = some g)
    (hx : s.dev.hif.staged.find? (fun y => y.crew = crew && y.ring = ring && y.waits) = some x) :
    exec (.orderedDescriptorStart crew ring) s =
      .next { s with dev := if g.opened.any fun n => decide (n < x.seq) then s.dev else s.dev.startOrdered x } := by
  show execOrderedDescriptorStart crew ring s = _
  rw [execOrderedDescriptorStart, State.lift_eq]
  simp only [hx, hg]
  rfl

/-- Settles O29: the first descriptor that waits starts in place, and is the only one changed. -/
theorem orderedStart : Obligations.OrderedStart := by
  unfold Obligations.OrderedStart
  intro s crew ring g x hg hx
  have hwaits : x.waits = true := by
    have h := List.find?_some hx
    simp only [Bool.and_eq_true] at h
    exact h.2
  refine ⟨_, exec_orderedDescriptorStart hg hx, fun ⟨n, hn, hlt⟩ => ?_, fun hall => ?_⟩
  · rw [if_pos (List.any_eq_true.mpr ⟨n, hn, decide_eq_true hlt⟩)]
  · have hnone : (g.opened.any fun n => decide (n < x.seq)) = false := by
      simpa using hall
    rw [hnone, if_neg Bool.false_ne_true]
    refine ⟨List.mem_map.mpr ⟨x, List.mem_of_find?_eq_some hx, if_pos rfl⟩, fun hmem => ?_, rfl⟩
    obtain ⟨y, -, hy⟩ := List.mem_map.mp hmem
    by_cases h : y = x
    · rw [if_pos h] at hy
      rw [← hy] at hwaits
      exact Bool.false_ne_true hwaits
    · rw [if_neg h] at hy
      exact h hy

end Sys2Proof.Machine
end

section
/-! PROOFS. The tests of a descriptor that has been read (R100–R103, R105, R110, R116). Settles O28. -/

namespace Sys2Proof.Machine

/-! ## What the share of the capacity reads of the registers (R116, R451) -/

/-- A field written beside NO_SURPLUS, in a register other than HIF_LINK_STATUS, leaves every share of the capacity as it was. -/
theorem Dev.entryShare_setFld (d : Dev) {a : Nat} {f : Fld} (hf : f.ok) (ha : a ≠ Reg.hifLinkStatus)
    (hb : F.secCrewPolicy_noSurplus.hi < f.lo ∨ f.hi < F.secCrewPolicy_noSurplus.lo) (v c r : Nat) :
    (d.setFld a f v).entryShare c r = d.entryShare c r := by
  have hscale (n : Nat) : (d.setFld a f v).hostScale n = d.hostScale n := by
    unfold Dev.hostScale Dev.flag Dev.fld
    dsimp only
    rw [Dev.reg_setFld_other _ _ _ ha.symm]
  have hpolicy (o : Nat) : (d.setFld a f v).noSurplus o = d.noSurplus o := by
    show decide ((d.setFld a f v).fld _ F.secCrewPolicy_noSurplus = 1) = decide (d.fld _ F.secCrewPolicy_noSurplus = 1)
    by_cases h : Reg.secCrewPolicy o = a
    · rw [h, Dev.fld_setFld_field _ _ hf hb]
    · rw [Dev.fld_setFld_other _ _ _ _ h]
  unfold Dev.entryShare
  simp only [hscale, hpolicy]
  rfl

/-- The registers of a ring pair lie above HIF_LINK_STATUS. -/
theorem ne_hifLinkStatus {a : Nat} (h : 0x01410000 ≤ a) : a ≠ Reg.hifLinkStatus := by
  unfold Reg.hifLinkStatus
  omega

/-! ## What completes a descriptor -/

theorem Dev.Completes.of_same {d e t u : Dev} {x : Desc} {st : Nat} {ws : List Nat} (h : e.Completes t x st ws) (ho : e.out = d.out)
    (hn : e.nowLo = d.nowLo) (hu : u.out = t.out) : d.Completes u x st ws := by
  obtain ⟨i, w, k, new, ht, hm⟩ := h
  rw [hn] at hm
  exact ⟨i, w, k, new, by rw [hu, ht, ho], hm⟩

/-- A completion moves no head and no read of its ring pair. -/
theorem Dev.ring_complete {d : Dev} {c r : Nat} {g : Ring} (hg : d.ring c r = some g) (h : Held) :
    ∃ k, (d.complete c r h).ring c r = some k ∧ k.sqSeq = g.sqSeq ∧ k.issued = g.issued := by
  unfold Dev.complete
  split
  · exact ⟨_, Dev.ring_writeHeld hg h, rfl, rfl⟩
  · exact ⟨{ g with held := heldIn h g.held }, by rw [Dev.ring_onRing_same, hg, Option.map_some], rfl, rfl⟩

theorem Dev.ring_finish {d : Dev} {x : Desc} {g : Ring} (hg : d.ring x.crew x.ring = some g) (st : Nat) (ws : List Nat) :
    ∃ k, (d.finish x st ws).ring x.crew x.ring = some k ∧ k.sqSeq = g.sqSeq ∧ k.issued = g.issued := by
  have hc := Dev.ring_closed hg
  by_cases he : g.epoch = x.epoch
  · by_cases hq : x.quiet = true ∧ st = 0
    · rw [hq.2, Dev.finish_quiet ws hg he hq.1, Dev.ring_onRing_same, hc]
      exact ⟨_, rfl, rfl, rfl⟩
    · rw [Dev.finish_of_epoch st ws hg he (by rw [← Bool.not_eq_true]; tauto)]
      exact Dev.ring_complete hc _
  · unfold Dev.finish
    rw [if_pos (by simp [hg, he])]
    exact ⟨g, hg, rfl, rfl⟩

/-! ## A descriptor that has been read -/

/-- A descriptor as it is read: the next of its ring pair. -/
def Ring.arrived (g : Ring) (c r : Nat) (words : List Nat) : Desc := ⟨c, r, g.sqSeq, words, 0, false, g.epoch, 0, 0, 0⟩

/-- A ring pair once its next descriptor has been read. -/
def Ring.read (g : Ring) : Ring :=
  { g with issued := g.issued - 1, sqSeq := g.sqSeq + 1, opened := g.opened ++ [g.sqSeq], retried := none }

/-- A device once the next descriptor of a ring pair has been read: the head has moved by one. -/
def Dev.headMoved (d : Dev) (c r : Nat) (g : Ring) : Dev :=
  (d.setRing c r (some g.read)).setFld (Reg.hifRingStatus c r) F.hifRingStatus_sqHead ((g.sqSeq + 1) % d.sqSize c r)

/-- The fold word of the CHECK of a ring pair's next descriptor. -/
def Ring.foldWord (g : Ring) (c r : Nat) : Nat := (64 * c + r) * 65536 + g.sqSeq % 65536

/-- The CHECK computed of the words of a ring pair's next descriptor. -/
def Ring.check (g : Ring) (c r : Nat) (words : List Nat) : Nat := crc32c (g.foldWord c r) (words.take 15)

theorem map_w_range {x : Desc} (h : x.words.length = 16) : (List.range 15).map x.w = x.words.take 15 := by
  refine List.ext_getElem (by simp [h]) fun i h₁ h₂ => ?_
  have hi : i < x.words.length := by simp at h₂; omega
  simp [Desc.w, List.getElem?_eq_getElem hi]

/-- A device that counts a failed CHECK. -/
def Dev.checkFailed (d : Dev) (c r : Nat) : Dev := d.addFld (Reg.hifRingStat c r) F.hifRingStat_checkErr 1

/-- A descriptor that has passed its tests, as it is staged. -/
def Dev.staging (d : Dev) (rules : List OpRule) (g : Ring) (x : Desc) : Desc :=
  let rate := ((rules.find? fun r => r.opcode = x.opcode).map fun r => r.rate d x).getD (0, 0)
  { x with effect := d.effectOf x, waits := x.ordered && !g.opened.isEmpty, rd := rate.1, wr := rate.2, target := (d.target? x).getD d.now }

/-- A descriptor is staged. -/
def Dev.stagedWith (d : Dev) (y : Desc) : Dev := d.onHif fun h => { h with staged := h.staged ++ [y] }

section
variable {d : Dev} {c r : Nat} {g : Ring} {words : List Nat} (hg : d.ring c r = some g) (hi : 0 < g.issued) (hw : words.length = 16)
  (rules : List OpRule)
include hg hi hw

theorem Dev.descriptorRead_of_badCheck (hc : (g.arrived c r words).w 15 ≠ g.check c r words) :
    d.descriptorRead rules c r words =
      ((d.headMoved c r g).checkFailed c r).finish (g.arrived c r words) 0x11 [g.check c r words, g.foldWord c r] := by
  have hx : words.take 16 = words := List.take_of_length_le hw.le
  unfold Dev.descriptorRead
  rw [hg]
  dsimp only
  rw [if_neg hi.ne', hx, map_w_range hw]
  exact if_pos hc.symm

/-- A descriptor that passes CHECK completes with the status and words of the first later test that it fails. -/
theorem Dev.descriptorRead_of_refused (hc : (g.arrived c r words).w 15 = g.check c r words) {st : Nat} {ws : List Nat}
    (hr : (d.headMoved c r g).refusal? rules (g.arrived c r words) = some (st, ws)) :
    d.descriptorRead rules c r words = (d.headMoved c r g).finish (g.arrived c r words) st ws := by
  have hx : words.take 16 = words := List.take_of_length_le hw.le
  unfold Dev.descriptorRead
  rw [hg]
  dsimp only
  rw [if_neg hi.ne', hx, map_w_range hw]
  refine (if_neg (not_not_intro hc.symm)).trans ?_
  split
  · next st' ws' h =>
    obtain ⟨rfl, rfl⟩ := Prod.mk.inj (Option.some.inj (h.symm.trans hr))
    rfl
  · next h => exact absurd (h.symm.trans hr) (Option.some_ne_none _).symm

/-- A descriptor that passes every test is staged, with room in the operand store where it is a host picture. -/
theorem Dev.descriptorRead_of_passed (hc : (g.arrived c r words).w 15 = g.check c r words)
    (hr : (d.headMoved c r g).refusal? rules (g.arrived c r words) = none)
    (hs : (g.arrived c r words).opcode = 0x28 → (d.headMoved c r g).storeRoom = true) :
    d.descriptorRead rules c r words =
      (d.headMoved c r g).stagedWith ((d.headMoved c r g).staging rules g (g.arrived c r words)) := by
  have hx : words.take 16 = words := List.take_of_length_le hw.le
  have hroom : ¬((decide ((g.arrived c r words).opcode = 0x28) && !(d.headMoved c r g).storeRoom) = true) := by
    simp only [Bool.and_eq_true, decide_eq_true_eq, not_and, Bool.not_eq_true', Bool.not_eq_false]
    exact hs
  unfold Dev.descriptorRead
  rw [hg]
  dsimp only
  rw [if_neg hi.ne', hx, map_w_range hw]
  refine (if_neg (not_not_intro hc.symm)).trans ?_
  split
  · next st' ws' h => exact absurd (h.symm.trans hr) (Option.some_ne_none _)
  · exact if_neg hroom

end

/-! ## What the read of a descriptor leaves -/

/-- What the tests of a descriptor find of the device that has read it: its ring pair's head has moved, and nothing else that they leave has
changed. -/
structure Dev.HasRead (d e : Dev) (c r : Nat) (g : Ring) : Prop where
  ring : e.ring c r = some g.read
  head : e.fld (Reg.hifRingStatus c r) F.hifRingStatus_sqHead = (g.sqSeq + 1) % d.sqSize c r % 2 ^ 16
  share : g.held = [] → e.entryShare c r = d.entryShare c r
  staged : e.hif.staged = d.hif.staged
  out : e.out = d.out
  stk : e.stk = d.stk

theorem Dev.hasRead_headMoved {d : Dev} {c r : Nat} {g : Ring} (hg : d.ring c r = some g) : d.HasRead (d.headMoved c r g) c r g where
  ring := by rw [Dev.headMoved, Dev.setFld_read_ring, Dev.ring_setRing_same]
  head := Dev.fld_setFld_same _ _ ⟨by decide, by decide⟩ _
  share hh := by
    have hset : d.setRing c r (some g.read) = d.onRing c r Ring.read := by rw [Dev.onRing, hg, Option.map_some]
    rw [Dev.headMoved, Dev.entryShare_setFld _ ⟨by decide, by decide⟩ (ne_hifLinkStatus (by unfold Reg.hifRingStatus; omega)) (by decide),
      hset, Dev.entryShare_onRing hg Ring.read hh hh]
  staged := by rw [Dev.headMoved, Dev.setFld_hif]; rfl
  out := by rw [Dev.headMoved, Dev.setFld_out, Dev.setRing_out]
  stk := by rw [Dev.headMoved, Dev.setFld_stk, Dev.setRing_stk]

/-- A CHECK that fails is counted in a field that nothing else of the read depends on. -/
theorem Dev.HasRead.checkFailed {d e : Dev} {c r : Nat} {g : Ring} (h : d.HasRead e c r g) : d.HasRead (e.checkFailed c r) c r g where
  ring := by rw [Dev.checkFailed, Dev.addFld, Dev.setFld_read_ring, h.ring]
  head := (Dev.fld_setFld_other _ _ _ _ (by unfold Reg.hifRingStatus Reg.hifRingStat; omega)).trans h.head
  share hh := (Dev.entryShare_setFld e ⟨by decide, by decide⟩ (ne_hifLinkStatus (by unfold Reg.hifRingStat; omega)) (by decide) _ _ _).trans
    (h.share hh)
  staged := by rw [Dev.checkFailed, Dev.addFld, Dev.setFld_hif, h.staged]
  out := by rw [Dev.checkFailed, Dev.addFld, Dev.setFld_out, h.out]
  stk := by rw [Dev.checkFailed, Dev.addFld, Dev.setFld_stk, h.stk]

/-- The build that a staged LUT_LOAD begins changes the tables' banks alone. -/
theorem Dev.stageBuilds_eq (d : Dev) (n : Nat) : d.stageBuilds n = { d with stk := (d.stageBuilds n).stk } := by
  unfold Dev.stageBuilds
  split <;> rfl

/-- What the statement says of the ring pair in each case. -/
structure Dev.HeadMoved (d t : Dev) (c r : Nat) (g : Ring) : Prop where
  ring : ∃ h, t.ring c r = some h ∧ h.sqSeq = g.sqSeq + 1 ∧ h.issued = g.issued - 1
  head : t.fld (Reg.hifRingStatus c r) F.hifRingStatus_sqHead = (g.sqSeq + 1) % d.sqSize c r % 2 ^ 16

theorem Dev.HeadMoved.stageBuilds {d t : Dev} {c r : Nat} {g : Ring} (h : d.HeadMoved t c r g) (n : Nat) :
    d.HeadMoved (t.stageBuilds n) c r g := by
  rw [Dev.stageBuilds_eq]
  exact ⟨h.ring, h.head⟩

section
variable {d e : Dev} {c r : Nat} {g : Ring} (h : d.HasRead e c r g) (words : List Nat)
include h

theorem Dev.HasRead.headMoved_finish (st : Nat) (ws : List Nat) : d.HeadMoved (e.finish (g.arrived c r words) st ws) c r g :=
  ⟨Dev.ring_finish (x := g.arrived c r words) h.ring st ws, by rw [Dev.fld, Dev.reg_finish]; exact h.head⟩

theorem Dev.HasRead.headMoved_stagedWith (y : Desc) : d.HeadMoved (e.stagedWith y) c r g := ⟨⟨_, h.ring, rfl, rfl⟩, h.head⟩

/-- A descriptor that is refused completes with its status where none waits before it and the capacity has room. -/
theorem Dev.HasRead.completes {st : Nat} (hst : st ≠ 0) (ws : List Nat) (hh : g.held = []) (hs : d.entryShare c r = true) (n : Nat) :
    d.Completes ((e.finish (g.arrived c r words) st ws).stageBuilds n) (g.arrived c r words) st ws := by
  have hc := Dev.finish_completes (x := g.arrived c r words) st ws h.ring rfl hh ((h.share hh).trans hs) (.inr hst)
  exact hc.of_same h.out (by rw [Dev.nowLo, h.stk, Dev.nowLo]) (by rw [Dev.stageBuilds_eq])

theorem Dev.HasRead.staged_finish (st : Nat) (ws : List Nat) (n : Nat) :
    ((e.finish (g.arrived c r words) st ws).stageBuilds n).hif.staged = d.hif.staged := by
  rw [Dev.stageBuilds_eq]
  exact (Dev.staged_finish _ _ _ _).trans h.staged

/-- A descriptor that is staged takes effect at its target, or at the next boundary. -/
theorem Dev.HasRead.stagedWith (rules : List OpRule) (n : Nat) :
    ∃ y, ((e.stagedWith (e.staging rules g (g.arrived c r words))).stageBuilds n).hif.staged = d.hif.staged ++ [y] ∧ y.words = words ∧
      y.crew = c ∧ y.ring = r ∧ y.seq = g.sqSeq ∧ y.effect = d.effectOf (g.arrived c r words) ∧
      y.waits = ((g.arrived c r words).ordered && !g.opened.isEmpty) ∧
      ((e.stagedWith (e.staging rules g (g.arrived c r words))).stageBuilds n).out = d.out := by
  have heffect : e.effectOf (g.arrived c r words) = d.effectOf (g.arrived c r words) := by
    unfold Dev.effectOf Dev.target? Dev.now
    rw [h.stk]
  refine ⟨e.staging rules g (g.arrived c r words), ?_, rfl, rfl, rfl, rfl, heffect, rfl, ?_⟩
  · rw [Dev.stageBuilds_eq]
    show e.hif.staged ++ _ = _
    rw [h.staged]
  · rw [Dev.stageBuilds_eq]
    exact h.out

end

theorem exec_descriptorReadComplete (crew ring : Nat) (words : List Nat) (s : State) :
    exec (.descriptorReadComplete crew ring words) s =
      .next { s with dev := (s.dev.descriptorRead allRules crew ring words).stageBuilds s.dev.lutLoads.length } := rfl

/-- Settles O28, by what the read of a descriptor gives in each of its three cases. -/
theorem descriptorTests : Obligations.DescriptorTests := by
  unfold Obligations.DescriptorTests
  intro s c r words g x e hw _ _ hg hi hx he hroom
  obtain rfl : x = g.arrived c r words := hx
  obtain rfl : e = s.dev.headMoved c r g := he
  have hread := Dev.hasRead_headMoved hg
  by_cases hc : (g.arrived c r words).w 15 = g.check c r words
  · cases hr : (s.dev.headMoved c r g).refusal? allRules (g.arrived c r words) with
    | some p =>
      obtain ⟨st, ws⟩ := p
      have hd := Dev.descriptorRead_of_refused hg hi hw allRules hc hr
      obtain ⟨⟨h, hk, hseq, hiss⟩, hsq⟩ := (hread.headMoved_finish words st ws).stageBuilds s.dev.lutLoads.length
      refine ⟨_, h, exec_descriptorReadComplete c r words s, ?_⟩
      dsimp only
      rw [hd]
      refine ⟨hk, hseq, hiss, hsq, fun hn => absurd hc hn, fun _ => ⟨fun st' ws' hr' hst => ?_, fun hr' => by simp at hr'⟩⟩
      obtain ⟨rfl, rfl⟩ := Prod.mk.inj (Option.some.inj hr')
      exact ⟨fun hh hs => hread.completes words hst _ hh hs _, hread.staged_finish words _ _ _⟩
    | none =>
      have hd := Dev.descriptorRead_of_passed hg hi hw allRules hc hr hroom
      obtain ⟨⟨h, hk, hseq, hiss⟩, hsq⟩ := (hread.headMoved_stagedWith (_ : Desc)).stageBuilds s.dev.lutLoads.length
      refine ⟨_, h, exec_descriptorReadComplete c r words s, ?_⟩
      dsimp only
      rw [hd]
      exact ⟨hk, hseq, hiss, hsq, fun hn => absurd hc hn, fun _ => ⟨fun _ _ hr' => by simp at hr', fun _ => hread.stagedWith words _ _⟩⟩
  · have hd := Dev.descriptorRead_of_badCheck hg hi hw allRules hc
    obtain ⟨⟨h, hk, hseq, hiss⟩, hsq⟩ := (hread.checkFailed.headMoved_finish words 0x11 [g.check c r words, g.foldWord c r]).stageBuilds
      s.dev.lutLoads.length
    refine ⟨_, h, exec_descriptorReadComplete c r words s, ?_⟩
    dsimp only
    rw [hd]
    exact ⟨hk, hseq, hiss, hsq, fun _ => ⟨fun hh hs => hread.checkFailed.completes words (by decide) _ hh hs _,
      hread.checkFailed.staged_finish words _ _ _⟩, fun h => absurd h hc⟩

end Sys2Proof.Machine
end

section
/-! PROOFS. Completions that wait (R104, R109, R164), host reads that fail (R120) and the moderation of interrupts (R114). Settles O30, O31 and
O33. -/

namespace Sys2Proof.Machine

/-! ## HOLDING and ACTIVE (R109) -/

/-- Leaving HOLDING changes registers alone. -/
theorem Dev.unhold_eq (d : Dev) (c r : Nat) : d.unhold c r = { d with regs := (d.unhold c r).regs } := by
  unfold Dev.unhold
  split
  · rfl
  · split
    · exact Dev.setFld_eq _ _ _ _
    · rfl

theorem Dev.reg_unhold (d : Dev) {c r a : Nat} (h : a ≠ Reg.hifRingStatus c r) : (d.unhold c r).reg a = d.reg a := by
  unfold Dev.unhold
  split
  · rfl
  · split
    · exact Dev.reg_setFld_other _ _ _ h
    · rfl

theorem Dev.ring_unhold (d : Dev) (c r a b : Nat) : (d.unhold c r).ring a b = d.ring a b := by rw [Dev.unhold_eq]; rfl

/-- With nothing held any more a ring pair that was HOLDING is ACTIVE. -/
theorem Dev.ringState_unhold {d : Dev} {c r : Nat} {g : Ring} (hg : d.ring c r = some g) (hh : g.held = [])
    (hs : d.ringState c r = 3) : (d.unhold c r).ringState c r = 1 := by
  unfold Dev.unhold
  rw [hg]
  dsimp only
  rw [if_pos (by rw [hh, hs]; rfl)]
  exact Dev.fld_setFld_same _ _ ⟨by decide, by decide⟩ _

/-! ## HELD_COMPLETION_WRITE (R109, R110) -/

/-- The oldest completion of a ring pair is written, and the others wait on. -/
def Dev.oldestWritten (d : Dev) (c r : Nat) (g : Ring) (h : Held) (rest : List Held) : Dev :=
  (d.setRing c r (some { g with held := rest })).writeHeld c r h

theorem exec_heldCompletionWrite {s : State} {c r : Nat} {g : Ring} {h : Held} {rest : List Held} (hg : s.dev.ring c r = some g)
    (hh : g.held = h :: rest) (hf : h.slot = true ∨ 0 < s.dev.freeSlots c r) (hs : s.dev.entryShare c r = true) :
    exec (.heldCompletionWrite c r) s = .next { s with dev := (s.dev.oldestWritten c r g h rest).unhold c r } := by
  have hgo : ((!h.slot && decide (s.dev.freeSlots c r = 0)) || !s.dev.entryShare c r) = false := by
    rcases hf with hf | hf
    · simp [hf, hs]
    · simp [hs, hf.ne']
  show execHeldCompletionWrite c r s = _
  rw [execHeldCompletionWrite, State.lift_eq]
  simp only [hg, hh, hgo, Bool.false_eq_true, if_false]
  rfl

theorem Dev.ring_oldestWritten (d : Dev) (c r : Nat) (g : Ring) (h : Held) (rest : List Held) :
    (d.oldestWritten c r g h rest).ring c r =
      some { g with held := rest, reserved := g.reserved - bit h.slot, cqSeq := g.cqSeq + 1, lost := false } :=
  Dev.ring_writeHeld (Dev.ring_setRing_same d c r _) h

theorem Dev.regs_oldestWritten (d : Dev) (c r : Nat) (g : Ring) (h : Held) (rest : List Held) :
    (d.oldestWritten c r g h rest).regs = d.regs := by
  unfold Dev.oldestWritten
  rw [Dev.writeHeld_eq]
  rfl

/-! ## HOLD_TIMEOUT (R109, R164) -/

/-- A standing descriptor whose delivery is dropped: the buffer comes back, and a GAP that the completion carried is owed again. -/
def Standing.dropped (p : Standing) (h : Held) : Standing :=
  { p with busy := p.busy.filter fun b => b ≠ (h.buf, 0), gap := p.gap || bitAt (h.words.getD 1 0) (gapBit h.opcode) }

/-- The standing descriptor that a held completion belongs to. -/
def Held.of (h : Held) (c r : Nat) (p : Standing) : Bool := p.desc.crew = c && p.desc.ring = r && p.desc.seq = h.post

/-- The oldest completion of a ring pair is dropped and counted. -/
def Dev.oldestDropped (d : Dev) (c r : Nat) (g : Ring) (h : Held) (rest : List Held) : Dev :=
  ((d.setRing c r (some { g with held := rest, lost := true })).addFld (Reg.hifRingStat c r) F.hifRingStat_ovfDrop 1).onStanding
    (h.of c r) (·.dropped h)

theorem exec_holdTimeout {s : State} {c r : Nat} {g : Ring} {h : Held} {rest : List Held} (hg : s.dev.ring c r = some g)
    (hh : g.held = h :: rest) (hslot : h.slot = false)
    (hlate : h.since + s.dev.fld (Reg.hifRingMod c r) F.hifRingMod_holdStrokes ≤ s.dev.now) :
    exec (.holdTimeout c r) s = .next { s with dev := (s.dev.oldestDropped c r g h rest).unhold c r } := by
  show execHoldTimeout c r s = _
  rw [execHoldTimeout, State.lift_eq]
  simp only [hg, hh, hslot, Bool.false_eq_true, false_or, Nat.not_lt.mpr hlate, if_false]
  rfl

theorem Dev.ring_oldestDropped (d : Dev) (c r : Nat) (g : Ring) (h : Held) (rest : List Held) :
    (d.oldestDropped c r g h rest).ring c r = some { g with held := rest, lost := true } := by
  show (Dev.addFld _ _ _ _).ring c r = _
  rw [Dev.addFld, Dev.setFld_read_ring, Dev.ring_setRing_same]

theorem Dev.reg_oldestDropped (d : Dev) {c r a : Nat} (g : Ring) (h : Held) (rest : List Held) (ha : a ≠ Reg.hifRingStat c r) :
    (d.oldestDropped c r g h rest).reg a = d.reg a := Dev.reg_addFld_other _ _ _ ha

theorem Dev.fld_ovfDrop_oldestDropped (d : Dev) (c r : Nat) (g : Ring) (h : Held) (rest : List Held) :
    (d.oldestDropped c r g h rest).fld (Reg.hifRingStat c r) F.hifRingStat_ovfDrop =
      (d.fld (Reg.hifRingStat c r) F.hifRingStat_ovfDrop + 1) % 2 ^ F.hifRingStat_ovfDrop.width :=
  Dev.fld_addFld_same _ _ ⟨by decide, by decide⟩ _

theorem Dev.standing_oldestDropped (d : Dev) (c r : Nat) (g : Ring) (h : Held) (rest : List Held) :
    (d.oldestDropped c r g h rest).hif.standing = d.hif.standing.map fun p => if h.of c r p then p.dropped h else p := by
  show (Dev.addFld _ _ _ _).hif.standing.map _ = _
  rw [Dev.addFld, Dev.setFld_hif]
  rfl

theorem Dev.out_oldestDropped (d : Dev) (c r : Nat) (g : Ring) (h : Held) (rest : List Held) :
    (d.oldestDropped c r g h rest).out = d.out := by
  rw [Dev.oldestDropped, Dev.onStanding_out, Dev.addFld, Dev.setFld_out, Dev.setRing_out]

theorem hifRingStat_ne_hifRingStatus (c r : Nat) : Reg.hifRingStat c r ≠ Reg.hifRingStatus c r := by
  unfold Reg.hifRingStat Reg.hifRingStatus
  omega

/-- Settles O31, by what the write and the drop of the oldest completion leave, and the end of HOLDING. -/
theorem heldCompletions : Obligations.HeldCompletions := by
  unfold Obligations.HeldCompletions
  refine ⟨fun s c r g h rest hg hh hf hs => ?_, fun s c r g h rest hg hh hslot hlate => ?_⟩
  · obtain ⟨w, k, hshow⟩ := Dev.writeHeld_shows (Dev.ring_setRing_same s.dev c r (some { g with held := rest })) h
    have hring := Dev.ring_oldestWritten s.dev c r g h rest
    have hreg := Dev.reg_of_regs (Dev.regs_oldestWritten s.dev c r g h rest)
    refine ⟨_, _, w, k, exec_heldCompletionWrite hg hh hf hs, (Dev.ring_unhold _ _ _ _ _).trans hring, rfl, rfl, ?_, fun a ha => ?_,
      fun hrest hstate => ?_⟩
    · dsimp only
      rw [Dev.unhold_eq]
      exact hshow
    · exact (Dev.reg_unhold _ fun h => ha (List.mem_singleton.mpr h)).trans (hreg a)
    · refine Dev.ringState_unhold hring hrest ?_
      unfold Dev.ringState Dev.fld
      rw [hreg]
      exact hstate
  · have hstat := hifRingStat_ne_hifRingStatus c r
    refine ⟨_, exec_holdTimeout hg hh hslot hlate, (Dev.ring_unhold _ _ _ _ _).trans (Dev.ring_oldestDropped _ _ _ _ _ _), ?_,
      fun a ha => ?_, ?_, fun p hp hcrew hring hseq => ?_⟩
    · dsimp only
      rw [Dev.fld, Dev.reg_unhold _ hstat]
      exact Dev.fld_ovfDrop_oldestDropped _ _ _ _ _ _
    · simp only [List.mem_cons, List.not_mem_nil, or_false, not_or] at ha
      exact (Dev.reg_unhold _ ha.2).trans (Dev.reg_oldestDropped _ _ _ _ ha.1)
    · dsimp only
      rw [Dev.unhold_eq]
      exact Dev.out_oldestDropped s.dev c r g h rest
    · have hof : h.of c r p = true := by simp [Held.of, hcrew, hring, hseq]
      refine ⟨p.dropped h, ?_, rfl, rfl⟩
      dsimp only
      rw [Dev.unhold_eq]
      show _ ∈ (s.dev.oldestDropped c r g h rest).hif.standing
      rw [Dev.standing_oldestDropped]
      exact List.mem_map.mpr ⟨p, hp, if_pos hof⟩

/-! ## A Crew number whose policy word is a ring pair's counters

As for the record logs of O14: of Crew 1589063 the address of SEC_CREW_POLICY is that of HIF_RING_STAT of ring pair 0 of Crew 0, and NO_SURPLUS
lies in FETCH_FAIL. The failed read that is counted there can then give the turn to an event of that Crew, and its INTERNAL_FAULT entry
waits. -/

theorem secCrewPolicy_eq_hifRingStat : Reg.secCrewPolicy 1589063 = Reg.hifRingStat 0 0 := by decide

/-- A ring pair of Crew 0 that reads a descriptor and has had its guaranteed share of entries, beside an event of Crew 1589063 that has had
its own, with three failed reads counted. -/
def aliasedRead : Dev :=
  { Dev.reset with
    regs := [(Reg.rstStatus, 0), (Reg.hifRingStat 0 0, F.hifRingStat_fetchFail.set 0 3)]
    hif := { Dev.reset.hif with
      rings := [(0, some ⟨0, 1, 0, 0, 1, 1, [], false, [], none, 0, false⟩)]
      events := [(1589063, 1, 0, [], 0)]
      writes := [(0, 121), (1589063, 120)] } }

/-- The entry could be written at once: NO_SURPLUS lets the event of the other Crew have no turn. -/
theorem aliasedRead_share : aliasedRead.entryShare 0 0 = true := by decide +kernel

/-- Once the fourth failed read is counted the event's turn comes first, and the entry waits. -/
theorem out_readFailure_aliased :
    shownAfter (exec (.hostReadFailure (.descriptor 0 0)) { State.reset with dev := aliasedRead }) = some [] := by decide +kernel

theorem Dev.Shows.out_ne_nil {d t : Dev} {o : Output} (h : d.Shows t o) : t.out ≠ [] := by
  obtain ⟨new, ho, hm⟩ := h
  rw [ho]
  exact List.append_ne_nil_of_left_ne_nil (List.ne_nil_of_mem hm) _

/-- Refutes O30: the counter of failed reads can be the policy word of a Crew whose event waits, and the INTERNAL_FAULT entry, which could be
written at once before, then waits for a later Stroke. No Crew from 0 to 16 has such a policy word. -/
theorem not_hostReadFailures : ¬ Obligations.HostReadFailures := by
  rintro ⟨hread, -⟩
  obtain ⟨t, h, i, w, k, ht, -, -, -, -, -, hshow⟩ := hread { State.reset with dev := aliasedRead } 0 0
    ⟨0, 1, 0, 0, 1, 1, [], false, [], none, 0, false⟩ (by decide) (by decide) (by decide) (by decide) (by decide) aliasedRead_share
  have hout := out_readFailure_aliased
  rw [ht] at hout
  exact hshow.out_ne_nil (Option.some.inj hout)

/-! ## Interrupts (R114) -/

/-- The rings that share the vector that fires have no unsignalled entry left. -/
theorem Dev.fireVector_hif_unsig (d : Dev) (c v : Nat) :
    (d.fireVector c v).hif.unsig = d.hif.unsig.filter fun p => !(p.1 / 65 = c && d.ringVector c (p.1 % 65) = v) := by
  unfold Dev.fireVector
  split <;> rfl

theorem Dev.fireVector_hif_lastInt (d : Dev) (c v : Nat) :
    (d.fireVector c v).hif.lastInt = Tab.put zero d.hif.lastInt (64 * c + v) (d.now + 1) := by
  unfold Dev.fireVector
  split <;> rfl

/-- A masked vector becomes pending, and nothing is sent. -/
theorem Dev.fireVector_masked {d : Dev} {c v : Nat} (h : d.msixMasked c v = true) :
    (d.fireVector c v).out = d.out ∧ Tab.get zero (d.fireVector c v).hif.msixPend (64 * c + v) = 1 := by
  unfold Dev.fireVector
  rw [if_pos h]
  exact ⟨rfl, Tab.get_put_same (d := zero) d.hif.msixPend (64 * c + v) 1⟩

/-- A vector that is not masked sends its message. -/
theorem Dev.fireVector_unmasked {d : Dev} {c v : Nat} (h : ¬d.msixMasked c v = true) : d.ShowsOnly (d.fireVector c v) (.msix c v) := by
  unfold Dev.fireVector
  rw [if_neg h]
  rfl

/-- The rings of a Crew that share the vector that fires have no unsignalled entry left, and the others keep theirs. -/
theorem Dev.unsig_fireVector (d : Dev) (c v : Nat) {q : Nat} (hq : q < 65) :
    (d.fireVector c v).unsig c q = if d.ringVector c q = v then 0 else d.unsig c q := by
  have hdiv : (65 * c + q) / 65 = c := by omega
  have hmod : (65 * c + q) % 65 = q := by omega
  unfold Dev.unsig
  rw [Dev.fireVector_hif_unsig]
  split_ifs with h
  · exact Tab.get_filter_drop _ _ _ fun x => by simp [hdiv, hmod, h]
  · exact Tab.get_filter_keep _ _ _ fun x => by simp [hdiv, hmod, h]

theorem exec_msixModerationExpiry {s : State} {fn vector r : Nat} (hr : r < 65) (hu : 0 < s.dev.unsig fn r)
    (hv : s.dev.ringVector fn r = vector) (hi : s.dev.ringIntEn fn r = true) (hm : s.dev.mayFire fn r = true) :
    exec (.msixModerationExpiry fn vector) s = .next { s with dev := s.dev.fireVector fn vector } := by
  show execMsixModerationExpiry fn vector s = _
  rw [execMsixModerationExpiry, State.lift_eq, if_pos]
  exact List.any_eq_true.mpr ⟨r, List.mem_range.mpr hr, by simp [hu, hv, hi, hm]⟩

/-- Settles O33, by what a vector that fires leaves. -/
theorem msixModeration : Obligations.MsixModeration := by
  unfold Obligations.MsixModeration
  intro s fn vector r hr hu hv hi hm
  refine ⟨_, exec_msixModerationExpiry hr hu hv hi hm, ?_, ?_, ?_, fun q hq hqv => ?_, fun q hq hqv => ?_⟩
  · show State.mk _ _ _ = State.mk _ _ _
    rw [Dev.fireVector_eq]
  · split_ifs with h
    · exact Dev.fireVector_masked h
    · exact Dev.fireVector_unmasked h
  · dsimp only
    rw [Dev.fireVector_hif_lastInt]
    exact Tab.get_put_same _ _ _
  · exact (Dev.unsig_fireVector _ _ _ hq).trans (if_pos hqv)
  · exact (Dev.unsig_fireVector _ _ _ hq).trans (if_neg hqv)

end Sys2Proof.Machine
end

section
/-! PROOFS. The link and the readiness of functions (R85, R88, R117), and ring pairs as they are enabled and
disabled (R122, R123). Settles O24 and O25. -/

namespace Sys2Proof.Machine

/-! ## What a write of a register by its access codes leaves (R11, R554) -/

/-- A device after changes of registers, of functions' own registers and of what is staged. -/
def Dev.RegsChanged (d e : Dev) : Prop := e = { d with regs := e.regs, fnRegs := e.fnRegs, staged := e.staged }

theorem Dev.RegsChanged.refl (d : Dev) : d.RegsChanged d := rfl

theorem Dev.RegsChanged.trans {d e t : Dev} (h : d.RegsChanged e) (h' : e.RegsChanged t) : d.RegsChanged t := by
  unfold Dev.RegsChanged at h h' ⊢
  rw [h', h]

theorem Dev.regsChanged_setReg (d : Dev) (a : Nat) (w : Word) : d.RegsChanged (d.setReg a w) := rfl

theorem Dev.regsChanged_setFnReg (d : Dev) (fn a : Nat) (w : Word) : d.RegsChanged (d.setFnReg fn a w) := by
  cases d
  rfl

theorem Dev.regsChanged_stage (d : Dev) (fn a : Nat) (w : Word) : d.RegsChanged (d.stage fn a w) := rfl

theorem Dev.regsChanged_takeWord (d : Dev) (fn a : Nat) (w : Word) : d.RegsChanged (d.takeWord fn a w) := by
  unfold Dev.takeWord
  split
  · exact .refl d
  · next c ix _ =>
    have hstage (e : Dev) (he : d.RegsChanged e) : d.RegsChanged (if rcMask a = 0 then e else e.stage fn a w) := by
      split
      · exact he
      · exact he.trans (Dev.regsChanged_stage e fn a w)
    refine hstage _ ?_
    split
    · exact .refl d
    · split
      · exact Dev.regsChanged_setFnReg _ _ _ _
      · exact Dev.regsChanged_setReg _ _ _

/-- A write by access codes and presets changes registers, a function's own registers and what is staged. -/
theorem Dev.regsChanged_plainWrite (d : Dev) (fn a : Nat) (w : Word) : d.RegsChanged (d.plainWrite fn a w) := by
  unfold Dev.plainWrite
  split
  · exact .refl d
  · next c ix _ =>
    have hfold (l : List (Nat × Word)) : d.RegsChanged (l.foldl (fun d p => d.takeWord fn p.1 p.2) d) :=
      List.foldlRecOn (motive := d.RegsChanged) l _ (.refl d) fun e he p _ => he.trans (Dev.regsChanged_takeWord e fn p.1 p.2)
    dsimp only
    split
    · exact hfold _
    · exact (hfold _).trans (Dev.regsChanged_setReg _ _ _)

theorem Dev.RegsChanged.hif {d e : Dev} (h : d.RegsChanged e) : e.hif = d.hif := by rw [h]

theorem Dev.RegsChanged.out {d e : Dev} (h : d.RegsChanged e) : e.out = d.out := by rw [h]

/-! ## HIF_CREW_STATUS (R86) -/

theorem Dev.showCrew_eq (d : Dev) (c : Nat) : d.showCrew c = { d with regs := (d.showCrew c).regs } := Dev.setReg_setReg_eq _ _ _ _ _

theorem Dev.showCrew_hif (d : Dev) (c : Nat) : (d.showCrew c).hif = d.hif := by rw [Dev.showCrew_eq]

theorem Dev.showCrew_out (d : Dev) (c : Nat) : (d.showCrew c).out = d.out := by rw [Dev.showCrew_eq]

/-- What a Crew's status shows is written into its status register alone. -/
theorem Dev.reg_showCrew (d : Dev) {c a : Nat} (h : a ≠ Reg.hifCrewStatus c) : (d.showCrew c).reg a = d.reg a := by
  unfold Dev.showCrew
  dsimp only
  rw [Dev.reg_setFld_other _ _ _ h, Dev.reg_setFld_other _ _ _ h]

theorem Dev.fld_showCrew (d : Dev) {c a : Nat} (h : a ≠ Reg.hifCrewStatus c) (f : Fld) : (d.showCrew c).fld a f = d.fld a f := by
  rw [Dev.fld, Dev.reg_showCrew d h, Dev.fld]

theorem Dev.flag_showCrew (d : Dev) {c a : Nat} (h : a ≠ Reg.hifCrewStatus c) (f : Fld) : (d.showCrew c).flag a f = d.flag a f := by
  rw [Dev.flag, Dev.reg_showCrew d h, Dev.flag]

/-- A one-bit field that has been set is a flag that is up. -/
theorem Dev.flag_setFld_same (d : Dev) (a : Nat) {f : Fld} (hf : f.ok) (hw : f.width = 1) (v : Nat) :
    (d.setFld a f v).flag a f = decide (v % 2 = 1) := by
  show decide ((d.setFld a f v).fld a f = 1) = _
  rw [Dev.fld_setFld_same d a hf, hw, pow_one]

theorem Dev.flag_setFld_field (d : Dev) (a : Nat) {f g : Fld} (hf : f.ok) (hd : g.hi < f.lo ∨ f.hi < g.lo) (v : Nat) :
    (d.setFld a f v).flag a g = d.flag a g := by
  show decide ((d.setFld a f v).fld a g = 1) = decide (d.fld a g = 1)
  rw [Dev.fld_setFld_field d a hf hd]

theorem Dev.flag_setFld_other (d : Dev) {a b : Nat} (f g : Fld) (v : Nat) (h : b ≠ a) : (d.setFld a f v).flag b g = d.flag b g := by
  show decide ((d.setFld a f v).fld b g = 1) = decide (d.fld b g = 1)
  rw [Dev.fld_setFld_other d f g v h]

/-! ## The link (R85, R88, R117) -/

/-- HIF_LINK_STATUS of a link that has trained. -/
def Dev.linkShown (d : Dev) (width speed : Nat) : Dev :=
  let a := Reg.hifLinkStatus
  (((d.setFld a F.hifLinkStatus_width width).setFld a F.hifLinkStatus_speed speed).setFld a F.hifLinkStatus_dlUp 1).setFld a
    F.hifLinkStatus_fullRate (bit (decide (8 ≤ width ∧ 3 ≤ speed)))

theorem Dev.linkTrained_of_le {d : Dev} {width speed : Nat} (hw : width ≤ d.maxWidth) (hv : speed ≤ d.maxSpeed) :
    d.linkTrained width speed =
      (d.linkShown width speed).setFld Reg.hifBwBudget F.hifBwBudget_mbps ((d.linkShown width speed).hostScale 5000) := by
  unfold Dev.linkTrained
  dsimp only
  rw [Nat.min_eq_left hw, Nat.min_eq_left hv]
  rfl

theorem Dev.maxWidth_le (d : Dev) : d.maxWidth ≤ 16 := by
  unfold Dev.maxWidth
  generalize hn : (d.reg (Reg.rstOb 2)).toNat / 256 % 8 = n
  have h : n < 8 := hn ▸ Nat.mod_lt _ (by decide)
  interval_cases n <;> decide

theorem Dev.maxSpeed_le (d : Dev) : d.maxSpeed ≤ 4 := Nat.sub_le _ _

section
variable (d : Dev) {width speed : Nat}

theorem Dev.fld_width_linkShown (hw : width ≤ 16) : (d.linkShown width speed).fld Reg.hifLinkStatus F.hifLinkStatus_width = width := by
  unfold Dev.linkShown
  dsimp only
  rw [Dev.fld_setFld_field _ _ ⟨by decide, by decide⟩ (by decide), Dev.fld_setFld_field _ _ ⟨by decide, by decide⟩ (by decide),
    Dev.fld_setFld_field _ _ ⟨by decide, by decide⟩ (by decide), Dev.fld_setFld_same _ _ ⟨by decide, by decide⟩]
  exact Nat.mod_eq_of_lt (lt_of_le_of_lt hw (by decide))

theorem Dev.fld_speed_linkShown (hv : speed ≤ 4) : (d.linkShown width speed).fld Reg.hifLinkStatus F.hifLinkStatus_speed = speed := by
  unfold Dev.linkShown
  dsimp only
  rw [Dev.fld_setFld_field _ _ ⟨by decide, by decide⟩ (by decide), Dev.fld_setFld_field _ _ ⟨by decide, by decide⟩ (by decide),
    Dev.fld_setFld_same _ _ ⟨by decide, by decide⟩]
  exact Nat.mod_eq_of_lt (lt_of_le_of_lt hv (by decide))

theorem Dev.flag_dlUp_linkShown : (d.linkShown width speed).flag Reg.hifLinkStatus F.hifLinkStatus_dlUp = true := by
  unfold Dev.linkShown
  dsimp only
  rw [Dev.flag_setFld_field _ _ ⟨by decide, by decide⟩ (by decide), Dev.flag_setFld_same _ _ ⟨by decide, by decide⟩ (by decide)]
  rfl

theorem Dev.flag_fullRate_linkShown :
    (d.linkShown width speed).flag Reg.hifLinkStatus F.hifLinkStatus_fullRate = decide (8 ≤ width ∧ 3 ≤ speed) := by
  unfold Dev.linkShown
  dsimp only
  rw [Dev.flag_setFld_same _ _ ⟨by decide, by decide⟩ (by decide)]
  by_cases h : 8 ≤ width ∧ 3 ≤ speed <;> simp [bit, h]

theorem Dev.reg_linkShown {a : Nat} (ha : a ≠ Reg.hifLinkStatus) : (d.linkShown width speed).reg a = d.reg a := by
  unfold Dev.linkShown
  dsimp only
  rw [Dev.reg_setFld_other _ _ _ ha, Dev.reg_setFld_other _ _ _ ha, Dev.reg_setFld_other _ _ _ ha, Dev.reg_setFld_other _ _ _ ha]

/-- The budget at full rate. -/
theorem Dev.hostScale_linkShown_full (n : Nat) (hw : 8 ≤ width) (hv : 3 ≤ speed) : (d.linkShown width speed).hostScale n = n := by
  unfold Dev.hostScale
  dsimp only
  rw [Dev.flag_fullRate_linkShown, if_pos (decide_eq_true ⟨hw, hv⟩)]

/-- The budget of a slower or narrower link that has a lane, scaled by its rate. -/
theorem Dev.hostScale_linkShown_scaled (n : Nat) (hw : width ≤ 16) (hv : speed ≤ 4) (h₀ : 0 < width) (h : speed < 3 ∨ width < 8) :
    (d.linkShown width speed).hostScale n = min n (n * linkRate width speed * 10 / (13 * 78769)) := by
  unfold Dev.hostScale
  dsimp only
  rw [Dev.flag_fullRate_linkShown, if_neg (by simp; omega), Dev.fld_width_linkShown d hw, Dev.fld_speed_linkShown d hv, if_neg h₀.ne']

end

/-- No scaling gives more than the whole. -/
theorem Dev.hostScale_le (d : Dev) (n : Nat) : d.hostScale n ≤ n := by
  unfold Dev.hostScale
  dsimp only
  split_ifs
  · exact le_rfl
  · exact le_rfl
  · exact Nat.min_le_left _ _

theorem Dev.fld_mbps_linkTrained {d : Dev} {width speed : Nat} (hw : width ≤ d.maxWidth) (hv : speed ≤ d.maxSpeed) :
    (d.linkTrained width speed).fld Reg.hifBwBudget F.hifBwBudget_mbps = (d.linkShown width speed).hostScale 5000 := by
  rw [Dev.linkTrained_of_le hw hv, Dev.fld_setFld_same _ _ ⟨by decide, by decide⟩]
  exact Nat.mod_eq_of_lt (lt_of_le_of_lt (Dev.hostScale_le _ _) (by decide))

theorem Dev.reg_linkTrained {d : Dev} {width speed : Nat} (hw : width ≤ d.maxWidth) (hv : speed ≤ d.maxSpeed) {a : Nat}
    (ha : a ≠ Reg.hifBwBudget) : (d.linkTrained width speed).reg a = (d.linkShown width speed).reg a := by
  rw [Dev.linkTrained_of_le hw hv, Dev.reg_setFld_other _ _ _ ha]

theorem Dev.linkTrained_eq (d : Dev) (width speed : Nat) :
    d.linkTrained width speed = { d with regs := (d.linkTrained width speed).regs } := rfl

/-- What a link that trains shows. -/
theorem State.shows_of_linkTrained {s t : State} {width speed : Nat} (ht : t = { s with dev := s.dev.linkTrained width speed })
    (hw : width ≤ s.dev.maxWidth) (hv : speed ≤ s.dev.maxSpeed) :
    s.RegsOnly t [Reg.hifLinkStatus, Reg.hifBwBudget] ∧
      t.dev.fld Reg.hifLinkStatus F.hifLinkStatus_width = width ∧ t.dev.fld Reg.hifLinkStatus F.hifLinkStatus_speed = speed ∧
      t.dev.flag Reg.hifLinkStatus F.hifLinkStatus_dlUp = true ∧
      (t.dev.flag Reg.hifLinkStatus F.hifLinkStatus_fullRate = true ↔ 8 ≤ width ∧ 3 ≤ speed) ∧
      (8 ≤ width → 3 ≤ speed → t.dev.fld Reg.hifBwBudget F.hifBwBudget_mbps = 5000) ∧
      (0 < width → speed < 3 ∨ width < 8 →
        t.dev.fld Reg.hifBwBudget F.hifBwBudget_mbps = min 5000 (5000 * linkRate width speed * 10 / (13 * 78769))) := by
  have hw₁ := hw.trans s.dev.maxWidth_le
  have hv₁ := hv.trans s.dev.maxSpeed_le
  have hreg : (s.dev.linkTrained width speed).reg Reg.hifLinkStatus = (s.dev.linkShown width speed).reg Reg.hifLinkStatus :=
    Dev.reg_linkTrained hw hv (by decide)
  have hmbps := Dev.fld_mbps_linkTrained hw hv
  subst ht
  refine ⟨⟨rfl, fun a ha => ?_⟩, ?_, ?_, ?_, ?_, fun h₁ h₂ => ?_, fun h₁ h₂ => ?_⟩
  · simp only [List.mem_cons, List.not_mem_nil, or_false, not_or] at ha
    exact (Dev.reg_linkTrained hw hv ha.2).trans (Dev.reg_linkShown _ ha.1)
  · dsimp only
    rw [Dev.fld, hreg]
    exact Dev.fld_width_linkShown s.dev hw₁
  · dsimp only
    rw [Dev.fld, hreg]
    exact Dev.fld_speed_linkShown s.dev hv₁
  · dsimp only
    rw [Dev.flag, hreg]
    exact Dev.flag_dlUp_linkShown s.dev
  · have hflag : (s.dev.linkTrained width speed).flag Reg.hifLinkStatus F.hifLinkStatus_fullRate = decide (8 ≤ width ∧ 3 ≤ speed) := by
      rw [Dev.flag, hreg]
      exact Dev.flag_fullRate_linkShown s.dev
    rw [hflag, decide_eq_true_iff]
  · exact hmbps.trans (Dev.hostScale_linkShown_full _ _ h₁ h₂)
  · exact hmbps.trans (Dev.hostScale_linkShown_scaled _ _ hw₁ hv₁ h₁ h₂)

/-! ## CONFIGURATION_READY (R88, R484) -/

/-- READY is shown, in HIF_LINK_STATUS and in RST_STATUS. -/
def Dev.readyShown (d : Dev) : Dev := (d.setFld Reg.hifLinkStatus F.hifLinkStatus_ready 1).setFld Reg.rstStatus F.rstStatus_configReady 1

/-- Of changes of registers alone the last gives the registers. -/
theorem Dev.regsOnly_trans {d e t : Dev} (h₁ : e = { d with regs := e.regs }) (h₂ : t = { e with regs := t.regs }) :
    t = { d with regs := t.regs } := by
  rw [h₂, h₁]

theorem exec_configurationReady_pf0 {s : State} (h : s.dev.inReset 6 = false) :
    exec (.configurationReady 0) s = .next { s with dev := s.dev.readyShown.showCrew 0 } := by
  show execConfigurationReady 0 s = _
  rw [execConfigurationReady, State.lift_eq]
  simp only [h, Bool.false_eq_true, if_false, if_true]
  rfl

/-- A VF is one of NumVFs, and answers. -/
def Dev.vfCounted (d : Dev) (vf : Nat) : Dev := d.onHif fun h => { h with numVfs := max h.numVfs vf, absent := h.absent.filter (· ≠ vf) }

theorem exec_configurationReady_vf {s : State} {vf : Nat} (h : s.dev.inReset 6 = false) (h₁ : 1 ≤ vf) (h₂ : vf ≤ s.dev.totalVfs) :
    exec (.configurationReady vf) s = .next { s with dev := (s.dev.vfCounted vf).showCrew vf } := by
  show execConfigurationReady vf s = _
  rw [execConfigurationReady, State.lift_eq]
  simp only [h, Bool.false_eq_true, if_false, if_neg (Nat.ne_of_gt h₁), if_pos h₂]
  rfl

/-- Settles O24, by the fields of HIF_LINK_STATUS after training, the budget that they give, and what CONFIGURATION_READY writes. -/
theorem linkAndReady : Obligations.LinkAndReady := by
  unfold Obligations.LinkAndReady
  refine ⟨fun s width speed hw hv c hc => ?_, fun s h => ?_, fun s vf h h₁ h₂ => ?_⟩
  · have he : exec c s = .next (State.mk s.pending s.mem (s.dev.linkTrained width speed)) := by
      simp only [List.mem_cons, List.not_mem_nil, or_false] at hc
      rcases hc with rfl | rfl <;> rfl
    exact ⟨_, he, State.shows_of_linkTrained rfl hw hv⟩
  · refine ⟨_, exec_configurationReady_pf0 h, ?_, ?_, ?_, fun a ha => ?_⟩
    · exact (Dev.flag_showCrew _ (by decide) _).trans ((Dev.flag_setFld_other _ _ _ _ (by decide)).trans
        (Dev.flag_setFld_same _ _ ⟨by decide, by decide⟩ (by decide) _))
    · exact (Dev.flag_showCrew _ (by decide) _).trans (Dev.flag_setFld_same _ _ ⟨by decide, by decide⟩ (by decide) _)
    · dsimp only
      rw [← Dev.regsOnly_trans (Dev.setReg_setReg_eq _ _ _ _ _) (Dev.showCrew_eq s.dev.readyShown 0)]
    · simp only [List.mem_cons, List.not_mem_nil, or_false, not_or] at ha
      obtain ⟨hlink, hrst, hcrew⟩ := ha
      exact (Dev.reg_showCrew _ hcrew).trans ((Dev.reg_setFld_other _ _ _ hrst).trans (Dev.reg_setFld_other _ _ _ hlink))
  · refine ⟨_, exec_configurationReady_vf h h₁ h₂, ?_, fun a ha => ?_⟩
    · dsimp only
      rw [Dev.showCrew_eq]
      rfl
    · exact Dev.reg_showCrew _ fun h => ha (List.mem_singleton.mpr h)

/-! ## Masks (R11) -/

/-- Bits outside the mask of a merge stay as they were. -/
theorem mergeWord_and_of_disjoint {m k : Word} (h : m &&& k = 0) (new old : Word) : mergeWord m new old &&& k = old &&& k := by
  ext i hi
  have hb := congrArg (fun w : Word => w[i]) h
  simp only [BitVec.getElem_and] at hb
  simp only [mergeWord, BitVec.getElem_and, BitVec.getElem_or, BitVec.getElem_not]
  revert hb
  cases m[i] <;> cases k[i] <;> simp

/-- A field outside a mask reads 0 in a word cut to the mask. -/
theorem Fld.get_and_of_disjoint {f : Fld} {m k : Word} (hk : ∀ i < f.width, k.toNat.testBit (f.lo + i) = true) (h : m &&& k = 0) (w : Word) :
    f.get (w &&& m) = 0 := by
  have hz : f.get (w &&& m) = f.get 0 :=
    Fld.get_eq_of_and_eq hk (by rw [BitVec.and_assoc, h]; simp)
  rw [hz]
  simp [Fld.get]

/-! ## Ring pairs (R122, R123) -/

theorem hifRingStatus_ne_hifCrewStatus (c r : Nat) : Reg.hifRingStatus c r ≠ Reg.hifCrewStatus c := by
  unfold Reg.hifRingStatus Reg.hifCrewStatus
  omega

theorem hifRingCfg_ne_hifCrewStatus (c r : Nat) : Reg.hifRingCfg c r ≠ Reg.hifCrewStatus c := by
  unfold Reg.hifRingCfg Reg.hifCrewStatus
  omega

theorem hifRingCfg_ne_hifRingStatus (c r : Nat) : Reg.hifRingCfg c r ≠ Reg.hifRingStatus c r := by
  unfold Reg.hifRingCfg Reg.hifRingStatus
  omega

theorem Dev.ringState_showCrew (d : Dev) (c r : Nat) : (d.showCrew c).ringState c r = d.ringState c r :=
  Dev.fld_showCrew d (hifRingStatus_ne_hifCrewStatus c r) _

theorem Dev.ringOn_showCrew (d : Dev) (c r : Nat) : (d.showCrew c).ringOn c r = d.ringOn c r :=
  Dev.flag_showCrew d (hifRingCfg_ne_hifCrewStatus c r) _

theorem Dev.ring_showCrew (d : Dev) (c a b : Nat) : (d.showCrew c).ring a b = d.ring a b := by
  rw [Dev.ring, Dev.showCrew_hif, Dev.ring]

theorem Dev.setRingState_eq (d : Dev) (c r v : Nat) : d.setRingState c r v = { d with regs := (d.setRingState c r v).regs } :=
  Dev.setFld_eq _ _ _ _

theorem Dev.ringState_setRingState (d : Dev) (c r v : Nat) : (d.setRingState c r v).ringState c r = v % 4 :=
  Dev.fld_setFld_same _ _ ⟨by decide, by decide⟩ _

theorem Dev.ringOn_setRingState (d : Dev) (c r v : Nat) : (d.setRingState c r v).ringOn c r = d.ringOn c r :=
  Dev.flag_setFld_other _ _ _ _ (hifRingCfg_ne_hifRingStatus c r)

/-- A ring pair whose settings have been written, as it is enabled: only FETCH_ERR stays of its status. -/
def Dev.statusCleared (x : Dev) (c r : Nat) : Dev :=
  (x.setFld (Reg.hifRingCfg c r) F.hifRingCfg_enable 1).setReg (Reg.hifRingStatus c r)
    (x.reg (Reg.hifRingStatus c r) &&& BitVec.ofNat 32 F.hifRingStatus_fetchErr.mask)

/-- The host side of a ring pair that is enabled. -/
def Dev.ringBegun (d : Dev) (c r : Nat) : Dev :=
  let x := d.onHif fun h => { h with epoch := h.epoch + 1, resetting := Tab.put zero h.resetting c 0
                                     unsig := Tab.put zero h.unsig (65 * c + r) 0 }
  x.setRing c r (some (newRing x.hif.epoch))

theorem Dev.ring_ringBegun (d : Dev) (c r : Nat) : (d.ringBegun c r).ring c r = some (newRing (d.hif.epoch + 1)) :=
  Dev.ring_setRing_same _ _ _ _

theorem Dev.reg_ringBegun (d : Dev) (c r a : Nat) : (d.ringBegun c r).reg a = d.reg a := rfl

theorem Dev.out_ringBegun (d : Dev) (c r : Nat) : (d.ringBegun c r).out = d.out := rfl

/-- A write of ENABLE 1 to a DISABLED ring pair enables it with the settings written, unless they are refused. -/
theorem Dev.ringCfgWrite_enable {d x : Dev} {fn c r value : Nat} (hm : d.mayWrite fn (Reg.hifRingCfg c r) = true) (hs : d.ringState c r = 0)
    (hon : F.hifRingCfg_enable.get (BitVec.ofNat 32 value) = 1)
    (hx : x = d.plainWrite fn (Reg.hifRingCfg c r) (F.hifRingCfg_enable.set (BitVec.ofNat 32 value) 0)) :
    d.ringCfgWrite fn c r value =
      if x.ringRefused c r then (d.setFld (Reg.hifRingStatus c r) F.hifRingStatus_cfgErr 1).showCrew c
      else (((x.statusCleared c r).setRingState c r 1).ringBegun c r).showCrew c := by
  subst hx
  unfold Dev.ringCfgWrite
  simp only [hm, hs, hon, Bool.not_true, Bool.false_eq_true, if_false, if_true, decide_true]
  rfl

/-- A write to a ring pair that is not DISABLED takes the fields that any state takes. -/
def Dev.ringFieldsTaken (d : Dev) (c r value : Nat) : Dev :=
  d.setReg (Reg.hifRingCfg c r) (mergeWord ringAnyMask (BitVec.ofNat 32 value) (d.reg (Reg.hifRingCfg c r)))

theorem Dev.ringState_ringFieldsTaken (d : Dev) (c r value : Nat) : (d.ringFieldsTaken c r value).ringState c r = d.ringState c r := by
  unfold Dev.ringState Dev.ringFieldsTaken Dev.fld
  rw [Dev.reg_setReg_other _ _ (hifRingCfg_ne_hifRingStatus c r).symm]

theorem Dev.ringOn_ringFieldsTaken (d : Dev) (c r value : Nat) : (d.ringFieldsTaken c r value).ringOn c r = d.ringOn c r := by
  have hk : ∀ i < F.hifRingCfg_enable.width, (BitVec.ofNat 32 F.hifRingCfg_enable.mask).toNat.testBit (F.hifRingCfg_enable.lo + i) = true := by
    decide
  have hget : F.hifRingCfg_enable.get (mergeWord ringAnyMask (BitVec.ofNat 32 value) (d.reg (Reg.hifRingCfg c r))) =
      F.hifRingCfg_enable.get (d.reg (Reg.hifRingCfg c r)) := Fld.get_eq_of_and_eq hk (mergeWord_and_of_disjoint (by decide) _ _)
  unfold Dev.ringOn Dev.ringFieldsTaken Dev.flag
  rw [Dev.reg_setReg_same, hget]

theorem Dev.ringCfgWrite_draining {d : Dev} {fn c r : Nat} (value : Nat) (hm : d.mayWrite fn (Reg.hifRingCfg c r) = true)
    (hs : d.ringState c r = 2) : d.ringCfgWrite fn c r value = d.ringFieldsTaken c r value := by
  have hs' := (Dev.ringState_ringFieldsTaken d c r value).trans hs
  unfold Dev.ringCfgWrite
  simp only [hm, hs, Bool.not_true, Bool.false_eq_true, if_false, OfNat.ofNat_ne_zero]
  exact if_pos (.inr hs')

/-- A write of ENABLE 0 to an enabled ring pair puts it in DRAINING. -/
theorem Dev.ringCfgWrite_disable {d : Dev} {fn c r value : Nat} (hm : d.mayWrite fn (Reg.hifRingCfg c r) = true)
    (hs : d.ringState c r = 1 ∨ d.ringState c r = 3) (hoff : F.hifRingCfg_enable.get (BitVec.ofNat 32 value) = 0) :
    d.ringCfgWrite fn c r value =
      (((d.ringFieldsTaken c r value).setFld (Reg.hifRingCfg c r) F.hifRingCfg_enable 0).setRingState c r 2).showCrew c := by
  have h₀ : d.ringState c r ≠ 0 := by omega
  have h₂ : ¬((d.ringFieldsTaken c r value).ringState c r = 2) := by rw [Dev.ringState_ringFieldsTaken]; omega
  unfold Dev.ringCfgWrite
  simp only [hm, h₀, hoff, Bool.not_true, Bool.false_eq_true, if_false, zero_ne_one, false_or]
  exact if_neg h₂

theorem exec_ringEnable {s : State} {fn crew ring : Nat} (value : Nat) (hc : crew < 17) (hr : ring < 64) :
    exec (.ringEnable fn crew ring value) s = .next { s with dev := s.dev.ringCfgWrite fn crew ring value } := by
  show execRingEnable fn crew ring value s = _
  rw [execRingEnable, State.lift_eq, if_pos ⟨hc, hr⟩]

theorem exec_ringDisable {s : State} {fn crew ring : Nat} (value : Nat) (hc : crew < 17) (hr : ring < 64) :
    exec (.ringDisable fn crew ring value) s = .next { s with dev := s.dev.ringCfgWrite fn crew ring value } := by
  show execRingDisable fn crew ring value s = _
  rw [execRingDisable, State.lift_eq, if_pos ⟨hc, hr⟩]

/-- A ring pair that drains, with nothing outstanding and nothing held, is DISABLED. -/
theorem exec_ringDrained {s : State} {crew ring : Nat} {g : Ring} (hg : s.dev.ring crew ring = some g) (hs : s.dev.ringState crew ring = 2)
    (ho : g.opened = []) (hh : g.held = []) (hi : g.issued = 0) :
    exec (.ringDrained crew ring) s =
      .next { s with dev := ((s.dev.setRing crew ring none).setRingState crew ring 0).showCrew crew } := by
  show execRingDrained crew ring s = _
  rw [execRingDrained, State.lift_eq]
  simp only [hg, hs, ho, hh, hi, and_self, if_true]

/-- Nothing of an enabled ring pair's status shows but its state and FETCH_ERR. -/
theorem Dev.fld_statusCleared (x : Dev) (c r : Nat) {f : Fld} (hs : f.hi < F.hifRingStatus_state.lo)
    (hk : ∀ i < f.width, (BitVec.ofNat 32 f.mask : Word).toNat.testBit (f.lo + i) = true)
    (hd : (BitVec.ofNat 32 F.hifRingStatus_fetchErr.mask : Word) &&& BitVec.ofNat 32 f.mask = 0) :
    ((x.statusCleared c r).setRingState c r 1).fld (Reg.hifRingStatus c r) f = 0 := by
  unfold Dev.setRingState
  rw [Dev.fld_setFld_field _ _ ⟨by decide, by decide⟩ (.inl hs), Dev.fld, Dev.statusCleared, Dev.reg_setReg_same]
  exact Fld.get_and_of_disjoint hk hd _

theorem Dev.ringOn_statusCleared (x : Dev) (c r : Nat) : (x.statusCleared c r).ringOn c r = true := by
  unfold Dev.ringOn Dev.statusCleared Dev.flag
  rw [Dev.reg_setReg_other _ _ (hifRingCfg_ne_hifRingStatus c r)]
  exact (Dev.flag_setFld_same x _ ⟨by decide, by decide⟩ (by decide) 1)

/-- What an enable with settings that are not refused leaves. -/
theorem Dev.ringBegun_shows (x : Dev) (c r : Nat) {t : Dev} (ht : t = (((x.statusCleared c r).setRingState c r 1).ringBegun c r).showCrew c) :
    t.ringState c r = 1 ∧ t.ringOn c r = true ∧ t.flag (Reg.hifRingStatus c r) F.hifRingStatus_cfgErr = false ∧
      t.fld (Reg.hifRingStatus c r) F.hifRingStatus_sqHead = 0 ∧ t.ring c r = some (newRing (x.hif.epoch + 1)) ∧ t.out = x.out := by
  subst ht
  have hst := hifRingStatus_ne_hifCrewStatus c r
  have herr := Dev.fld_statusCleared x c r (f := F.hifRingStatus_cfgErr) (by decide) (by decide) (by decide)
  refine ⟨?_, ?_, ?_, ?_, ?_, ?_⟩
  · rw [Dev.ringState_showCrew, Dev.ringState, Dev.fld, Dev.reg_ringBegun]
    exact Dev.ringState_setRingState _ _ _ _
  · rw [Dev.ringOn_showCrew, Dev.ringOn, Dev.flag, Dev.reg_ringBegun]
    exact (Dev.ringOn_setRingState _ _ _ _).trans (Dev.ringOn_statusCleared x c r)
  · rw [Dev.flag_showCrew _ hst, Dev.flag, Dev.reg_ringBegun, ← Dev.fld, herr]
    rfl
  · rw [Dev.fld_showCrew _ hst, Dev.fld, Dev.reg_ringBegun]
    exact Dev.fld_statusCleared x c r (by decide) (by decide) (by decide)
  · rw [Dev.ring_showCrew, Dev.ring_ringBegun, Dev.setRingState, Dev.setFld_hif, Dev.statusCleared, Dev.setReg_hif, Dev.setFld_hif]
  · rw [Dev.showCrew_out, Dev.out_ringBegun, Dev.setRingState, Dev.setFld_out, Dev.statusCleared, Dev.setReg_out, Dev.setFld_out]

/-- Settles O25, by what a write of HIF_RING_CFG does in each state of the ring pair. -/
theorem ringStates : Obligations.RingStates := by
  unfold Obligations.RingStates
  refine ⟨fun s fn c r value x hc hr hm hs hon hx => ?_, fun s fn c r value hc hr hm hs hoff => ?_, fun s fn c r value hc hr hm hs => ?_,
    fun s c r g hg hs ho hh hi => ?_⟩
  · have hchanged : s.dev.RegsChanged x := hx ▸ Dev.regsChanged_plainWrite _ _ _ _
    have he := exec_ringEnable (s := s) (fn := fn) value hc hr
    rw [Dev.ringCfgWrite_enable hm hs hon hx] at he
    cases href : x.ringRefused c r with
    | true =>
      rw [href, if_pos rfl] at he
      refine ⟨_, he, ?_, fun h => absurd h (by decide), fun _ => ⟨?_, ?_, ?_, fun a ha => ?_⟩⟩
      · exact (Dev.showCrew_out _ _).trans (Dev.setFld_out _ _ _ _)
      · exact (Dev.flag_showCrew _ (hifRingStatus_ne_hifCrewStatus c r) _).trans
          (Dev.flag_setFld_same _ _ ⟨by decide, by decide⟩ (by decide) _)
      · exact (Dev.showCrew_hif _ _).trans (Dev.setFld_hif _ _ _ _)
      · dsimp only
        rw [← Dev.regsOnly_trans (Dev.setFld_eq s.dev _ _ _) (Dev.showCrew_eq _ c)]
      · simp only [List.mem_cons, List.not_mem_nil, or_false, not_or] at ha
        exact (Dev.reg_showCrew _ ha.2).trans (Dev.reg_setFld_other _ _ _ ha.1)
    | false =>
      rw [href, if_neg Bool.false_ne_true] at he
      obtain ⟨hstate, hring, herr, hhead, hnew, hout⟩ := Dev.ringBegun_shows x c r rfl
      exact ⟨_, he, hout.trans hchanged.out, fun _ => ⟨hstate, hring, herr, hhead, _, hnew, rfl, rfl, rfl, rfl, rfl, rfl,
        by rw [← hchanged.hif]; rfl⟩, fun h => absurd h (by decide)⟩
  · have he := exec_ringDisable (s := s) (fn := fn) value hc hr
    rw [Dev.ringCfgWrite_disable hm hs hoff] at he
    refine ⟨_, he, (Dev.ringState_showCrew _ _ _).trans (Dev.ringState_setRingState _ _ _ _),
      (Dev.ringOn_showCrew _ _ _).trans ((Dev.ringOn_setRingState _ _ _ _).trans
        (Dev.flag_setFld_same _ _ ⟨by decide, by decide⟩ (by decide) _)), ?_, fun a ha => ?_⟩
    · have hfields : s.dev.ringFieldsTaken c r value = { s.dev with regs := (s.dev.ringFieldsTaken c r value).regs } := Dev.setReg_eq _ _ _
      have hdrain := Dev.regsOnly_trans (Dev.regsOnly_trans hfields (Dev.setFld_eq _ (Reg.hifRingCfg c r) F.hifRingCfg_enable 0))
        (Dev.setRingState_eq _ c r 2)
      dsimp only
      rw [← Dev.regsOnly_trans hdrain (Dev.showCrew_eq _ c)]
    · simp only [List.mem_cons, List.not_mem_nil, or_false, not_or] at ha
      obtain ⟨hcfg, hst, hcrew⟩ := ha
      exact (Dev.reg_showCrew _ hcrew).trans ((Dev.reg_setFld_other _ _ _ hst).trans ((Dev.reg_setFld_other _ _ _ hcfg).trans
        (Dev.reg_setReg_other _ _ hcfg)))
  · have he := exec_ringEnable (s := s) (fn := fn) value hc hr
    rw [Dev.ringCfgWrite_draining value hm hs] at he
    exact ⟨_, he, ⟨rfl, fun a ha => Dev.reg_setReg_other _ _ fun h => ha (List.mem_singleton.mpr h)⟩, Dev.ringOn_ringFieldsTaken _ _ _ _⟩
  · refine ⟨_, exec_ringDrained hg hs ho hh hi, ?_, (Dev.ringState_showCrew _ _ _).trans (Dev.ringState_setRingState _ _ _ _),
      fun a ha => ?_, ?_⟩
    · rw [Dev.ring_showCrew]
      exact (Dev.setFld_read_ring _ _ _ _ _ _).trans (Dev.ring_setRing_same _ _ _ _)
    · simp only [List.mem_cons, List.not_mem_nil, or_false, not_or] at ha
      exact (Dev.reg_showCrew _ ha.2).trans (Dev.reg_setFld_other _ _ _ ha.1)
    · have hdone := Dev.regsOnly_trans (Dev.setRingState_eq (s.dev.setRing c r none) c r 0) (Dev.showCrew_eq _ c)
      dsimp only
      generalize ((s.dev.setRing c r none).setRingState c r 0).showCrew c = t at hdone
      rw [hdone]
      rfl

end Sys2Proof.Machine
end

section
/-! PROOFS. Event rings: their enable and disable, and the head that the driver writes (R97, R111, R113). Settles O32. -/

namespace Sys2Proof.Machine

/-- Every field of HIF_EVQ_CFG is read-write, ENABLE among them. -/
theorem fields_hifEvqCfg : ∀ crew < 17, (regClass? (Reg.hifEvqCfg crew)).map (fun p =>
    (p.1.perFn, p.1.fields.all (·.acc == .rw), p.1.maskOf (· == .rw))) = some (false, true, 0xCFFFFF3F) := by decide +kernel

/-- No preset concerns HIF_EVQ_CFG. -/
theorem presetFor_hifEvqCfg (rd : Nat → Word) {crew : Nat} (hc : crew < 17) : presetFor rd (Reg.hifEvqCfg crew) = none := by
  interval_cases crew <;> rfl

/-- A write of HIF_EVQ_CFG by its access codes gives ENABLE the value written. -/
theorem Dev.get_enable_plainWrite_hifEvqCfg (d : Dev) (fn : Nat) {crew : Nat} (hc : crew < 17) (w : Word) :
    F.hifEvqCfg_enable.get ((d.plainWrite fn (Reg.hifEvqCfg crew) w).reg (Reg.hifEvqCfg crew)) = F.hifEvqCfg_enable.get w := by
  obtain ⟨⟨c, ix⟩, hclass, hfields⟩ := Option.map_eq_some_iff.mp (fields_hifEvqCfg crew hc)
  obtain ⟨hfn, hrw, hmask⟩ : c.perFn = false ∧ c.fields.all (·.acc == .rw) = true ∧ c.maskOf (· == .rw) = 0xCFFFFF3F := by
    simpa using hfields
  have hall : ∀ f ∈ c.fields, f.acc = .rw := fun f hf => eq_of_beq (List.all_eq_true.mp hrw f hf)
  rw [Dev.plainWrite_of_rw hclass (presetFor_hifEvqCfg _ hc) hfn hall, hmask, if_neg (by decide), Dev.reg_setReg_same]
  exact Fld.get_eq_of_and_eq (m := 0xCFFFFF3F) (by decide) (by
    show mergeWord 0xCFFFFF3F (mergeWord 0xCFFFFF3F w _) _ &&& _ = _
    rw [mergeWord_and_mask, mergeWord_and_mask])

/-! ## HIF_EVQ_CFG (R111) -/

/-- An event ring that is enabled: its status, head, sequence number and losses are cleared. -/
def Dev.evqBegun (d : Dev) (c : Nat) : Dev :=
  ((d.setFld (Reg.hifEvqCfg c) F.hifEvqCfg_enable 1).setReg (Reg.hifEvqStatus c) 0).onHif fun h =>
    { h with evSeq := Tab.put zero h.evSeq c 0, evHead := Tab.put zero h.evHead c 0, evLost := Tab.put zero h.evLost c 0
             unsig := Tab.put zero h.unsig (65 * c + 64) 0 }

theorem Dev.evqCfgWrite_enable {d : Dev} {fn c value : Nat} (hm : d.mayWrite fn (Reg.hifEvqCfg c) = true)
    (hon : F.hifEvqCfg_enable.get (BitVec.ofNat 32 value) = 1) (hoff : d.flag (Reg.hifEvqCfg c) F.hifEvqCfg_enable = false)
    (hv : (d.plainWrite fn (Reg.hifEvqCfg c) (F.hifEvqCfg_enable.set (BitVec.ofNat 32 value) 0)).evqValid c = true) :
    d.evqCfgWrite fn c value =
      (d.plainWrite fn (Reg.hifEvqCfg c) (F.hifEvqCfg_enable.set (BitVec.ofNat 32 value) 0)).evqBegun c := by
  unfold Dev.evqCfgWrite
  simp only [hm, hon, hoff, hv, Bool.not_true, Bool.false_eq_true, if_false, one_ne_zero]
  rfl

theorem Dev.evqCfgWrite_disable {d : Dev} {fn c value : Nat} (hm : d.mayWrite fn (Reg.hifEvqCfg c) = true)
    (hoff : F.hifEvqCfg_enable.get (BitVec.ofNat 32 value) = 0) :
    d.evqCfgWrite fn c value = d.plainWrite fn (Reg.hifEvqCfg c) (BitVec.ofNat 32 value) := by
  unfold Dev.evqCfgWrite
  simp only [hm, hoff, Bool.not_true, Bool.false_eq_true, if_false, if_true]

theorem exec_evqEnable (fn value : Nat) {crew : Nat} (s : State) (hc : crew < 17) :
    exec (.evqEnable fn crew value) s = .next { s with dev := s.dev.evqCfgWrite fn crew value } := by
  show execEvqEnable fn crew value s = _
  rw [execEvqEnable, State.lift_eq, if_pos hc]

theorem exec_evqDisable (fn value : Nat) {crew : Nat} (s : State) (hc : crew < 17) :
    exec (.evqDisable fn crew value) s = .next { s with dev := s.dev.evqCfgWrite fn crew value } := by
  show execEvqDisable fn crew value s = _
  rw [execEvqDisable, State.lift_eq, if_pos hc]

theorem Dev.reg_evqBegun (d : Dev) (c a : Nat) :
    (d.evqBegun c).reg a = ((d.setFld (Reg.hifEvqCfg c) F.hifEvqCfg_enable 1).setReg (Reg.hifEvqStatus c) 0).reg a :=
  Dev.onHif_read_reg _ _ _

theorem Dev.flag_enable_evqBegun (d : Dev) (c : Nat) : (d.evqBegun c).flag (Reg.hifEvqCfg c) F.hifEvqCfg_enable = true := by
  rw [Dev.flag, Dev.reg_evqBegun, Dev.reg_setReg_other _ _ (by unfold Reg.hifEvqCfg Reg.hifEvqStatus; omega)]
  exact Dev.flag_setFld_same d _ ⟨by decide, by decide⟩ (by decide) 1

/-- A ring that is enabled has its head, its sequence number and its count of losses at 0. -/
theorem Dev.evqBegun_clears (d : Dev) (c : Nat) : Tab.get zero (d.evqBegun c).hif.evHead c = 0 ∧
    Tab.get zero (d.evqBegun c).hif.evSeq c = 0 ∧ Tab.get zero (d.evqBegun c).hif.evLost c = 0 := by
  simp only [Dev.evqBegun, Dev.onHif, Tab.get_put_same, and_self]

/-! ## EVQ_HEAD_WRITE (R97, R113) -/

/-- How far a head written lies ahead of the one held. -/
def evqAdvance (head size old : Nat) : Nat := (head % 65536 + size - old) % size

/-- A head moved by less than the ring's size to a place in the ring is at that place. -/
theorem evqAdvance_arrives {head size old : Nat} (ho : old < size) (hh : head < size) :
    (old + (head + size - old) % size) % size = head := by
  rw [Nat.add_mod_mod, show old + (head + size - old) = head + size by omega, Nat.add_mod_right, Nat.mod_eq_of_lt hh]

theorem exec_evqHeadWrite {s : State} {fn head size old tail : Nat} (hr : s.dev.inReset 6 = false) (hfn : fn ≤ s.dev.hif.numVfs)
    (hon : s.dev.flag (Reg.hifEvqCfg fn) F.hifEvqCfg_enable = true) (hsize : size = 2 ^ s.dev.fld (Reg.hifEvqCfg fn) F.hifEvqCfg_log2Size)
    (hold : old = Tab.get zero s.dev.hif.evHead fn) (htail : tail = s.dev.fld (Reg.hifEvqStatus fn) F.hifEvqStatus_tail) :
    exec (.evqHeadWrite fn head) s = .next { s with dev :=
      (if 0 < evqAdvance head size old ∧ evqAdvance head size old ≤ (tail + size - old) % size then
        s.dev.onHif fun h => { h with evHead := Tab.put zero h.evHead fn ((old + evqAdvance head size old) % size) }
      else s.dev) } := by
  subst hsize hold htail
  show execEvqHeadWrite fn head s = _
  rw [execEvqHeadWrite, State.lift_eq]
  simp only [hr, hfn, hon, true_and]
  rfl

/-- Settles O32, by the write of HIF_EVQ_CFG in each case and the test of a head. -/
theorem eventRing : Obligations.EventRing := by
  unfold Obligations.EventRing
  refine ⟨fun s fn crew value hc hm hon hoff hv => ?_, fun s fn crew value hc hm hoff => ?_,
    fun s fn head size old tail hr hfn hon hsize hold ho hh htail => ?_⟩
  · have he := exec_evqEnable fn value s hc
    rw [Dev.evqCfgWrite_enable hm hon hoff hv] at he
    obtain ⟨hhead, hseq, hlost⟩ := Dev.evqBegun_clears
      (s.dev.plainWrite fn (Reg.hifEvqCfg crew) (F.hifEvqCfg_enable.set (BitVec.ofNat 32 value) 0)) crew
    refine ⟨_, he, Dev.flag_enable_evqBegun _ _, (Dev.reg_evqBegun _ _ _).trans (Dev.reg_setReg_same _ _ _),
      hhead, hseq, hlost, ?_⟩
    dsimp only
    rw [Dev.evqBegun, Dev.onHif_out, Dev.setReg_out, Dev.setFld_out, (Dev.regsChanged_plainWrite _ _ _ _).out]
  · have he := exec_evqDisable fn value s hc
    rw [Dev.evqCfgWrite_disable hm hoff] at he
    have hchanged := Dev.regsChanged_plainWrite s.dev fn (Reg.hifEvqCfg crew) (BitVec.ofNat 32 value)
    refine ⟨_, he, ?_, hchanged.hif, hchanged.out⟩
    dsimp only
    rw [Dev.flag, Dev.get_enable_plainWrite_hifEvqCfg s.dev fn hc, hoff]
    rfl
  · have hlt : size ≤ 65536 := by
      have hlog : s.dev.fld (Reg.hifEvqCfg fn) F.hifEvqCfg_log2Size < 2 ^ 4 := Fld.get_lt _ _
      rw [hsize]
      exact (Nat.pow_le_pow_right (by decide) (Nat.le_of_lt hlog)).trans (by decide)
    have hadv : evqAdvance head size old = (head + size - old) % size := by
      rw [evqAdvance, Nat.mod_eq_of_lt (lt_of_lt_of_le hh hlt)]
    refine ⟨_, exec_evqHeadWrite hr hfn hon hsize hold htail, fun h₁ h₂ => ?_, fun h => ?_⟩
    · rw [hadv, if_pos ⟨h₁, h₂⟩, evqAdvance_arrives ho hh]
      exact ⟨Tab.get_put_same (d := zero) _ _ _, rfl⟩
    · rw [hadv, if_neg h]

end Sys2Proof.Machine
end

section
/-! PROOFS. Blocks of audio, snapshots of counters and buffers of records: what each delivery writes, and the post it leaves (R317–R320,
R519–R521, R526). Settles O47. -/

namespace Sys2Proof.Machine

/-! ## The posts that a delivery leaves (R108, R164) -/

/-- The standing descriptors of `t` are those of `d`, in their order, each as it was but for the buffers that its driver holds. -/
def Dev.MapsStanding (d t : Dev) : Prop := ∃ f : Standing → Standing, t.hif.standing = d.hif.standing.map f ∧ ∀ q : Standing, q.Kept (f q)

theorem Dev.MapsStanding.of_eq {d t : Dev} (h : t.hif.standing = d.hif.standing) : d.MapsStanding t :=
  ⟨id, by rw [h, List.map_id], .refl⟩

theorem Dev.MapsStanding.trans {d e t : Dev} (h : d.MapsStanding e) (h' : e.MapsStanding t) : d.MapsStanding t := by
  obtain ⟨f, hf, kf⟩ := h
  obtain ⟨g, hg, kg⟩ := h'
  exact ⟨g ∘ f, by rw [hg, hf, List.map_map], fun q => (kf q).trans (kg _)⟩

theorem Dev.MapsStanding.onStanding (d : Dev) (c : Standing → Bool) {f : Standing → Standing} (h : ∀ p : Standing, p.Kept (f p)) :
    d.MapsStanding (d.onStanding c f) :=
  ⟨_, rfl, fun q => by split; exacts [h q, .refl q]⟩

theorem Dev.MapsStanding.complete (d : Dev) (c r : Nat) (h : Held) : d.MapsStanding (d.complete c r h) := by
  unfold Dev.complete
  split
  · unfold Dev.writeHeld
    refine .trans (.of_eq ?_) (.onStanding _ _ fun p => ⟨rfl, fun b hb => ?_⟩)
    · rw [Dev.standing_writeEntryAt]; rfl
    · simp only [Standing.isBusy, List.any_map, List.any_eq_true, decide_eq_true_eq, Function.comp] at hb ⊢
      obtain ⟨y, hy, rfl⟩ := hb
      refine ⟨y, hy, ?_⟩
      split_ifs with e <;> simp [e]
  · exact .of_eq rfl

theorem Dev.MapsStanding.handOver (d : Dev) (p : Standing) (buf : Nat) : d.MapsStanding (d.handOver p buf) :=
  .onStanding _ _ fun q => q.kept_busy _

theorem Dev.MapsStanding.deliverNow (d : Dev) (p : Standing) (buf st : Nat) (ws : List Nat) :
    (d.handOver p buf).MapsStanding (d.deliverNow p buf st ws) :=
  .trans (.of_eq rfl) (Dev.MapsStanding.complete (Dev.onRing (d.handOver p buf) p.desc.crew p.desc.ring _) _ _ _)

theorem Dev.MapsStanding.deliver (d : Dev) (p : Standing) (buf st : Nat) (ws : List Nat) : d.MapsStanding (d.deliver p buf st ws) := by
  unfold Dev.deliver
  dsimp only
  split
  · exact .of_eq rfl
  · split
    · exact .of_eq rfl
    · split
      · exact .trans (.handOver d p buf) (.deliverNow d p buf st ws)
      · split
        · refine .trans (.of_eq ?_) (.handOver _ p buf)
          split
          · rw [Dev.setFld_hif]; rfl
          · rfl
        · exact .of_eq (by rw [Dev.addFld_hif]; rfl)

/-- Where the descriptor asks for completions and a slot is free, the delivery completes at once. -/
theorem Dev.deliver_of_answers {d : Dev} {p : Standing} (ha : d.Answers p.desc) (hf : 0 < d.freeSlots p.desc.crew p.desc.ring)
    (buf st : Nat) (ws : List Nat) : d.deliver p buf st ws = d.deliverNow p buf st ws := by
  obtain ⟨⟨g, hg, -, hh⟩, hq, -⟩ := ha
  unfold Dev.deliver
  simp only [hg, hq, hh, hf, Bool.false_and, Bool.false_eq_true, if_false, List.all_nil, decide_true, Bool.and_self, if_true]
  rfl

/-- A delivery keeps every post, and with a free slot the driver holds its buffer. -/
theorem Dev.deliver_maps (d : Dev) (p : Standing) (buf st : Nat) (ws : List Nat) :
    ∃ f : Standing → Standing, (d.deliver p buf st ws).hif.standing = d.hif.standing.map f ∧ (∀ q : Standing, q.Kept (f q)) ∧
      (d.Answers p.desc → 0 < d.freeSlots p.desc.crew p.desc.ring → ∀ q : Standing, q.is p.desc = true → (f q).isBusy buf = true) := by
  by_cases h : d.Answers p.desc ∧ 0 < d.freeSlots p.desc.crew p.desc.ring
  · rw [Dev.deliver_of_answers h.1 h.2]
    obtain ⟨g, hg, kg⟩ := Dev.MapsStanding.deliverNow d p buf st ws
    refine ⟨fun q => g (if q.is p.desc then { q with busy := q.busy ++ [(buf, 0)] } else q), ?_, fun q => ?_, fun _ _ q hq => ?_⟩
    · rw [hg]
      exact List.map_map
    · refine .trans ?_ (kg _)
      split
      · exact q.kept_busy _
      · exact .refl q
    · refine (kg _).2 _ ?_
      rw [if_pos hq]
      simp [Standing.isBusy]
  · obtain ⟨f, hf, kf⟩ := Dev.MapsStanding.deliver d p buf st ws
    exact ⟨f, hf, kf, fun h₁ h₂ => absurd ⟨h₁, h₂⟩ h⟩

theorem Standing.Kept.desc {p q : Standing} (h : p.Kept q) : q.desc = p.desc := by rw [h.1]

/-- A buffer that the driver holds clears the gap; where none was owed, none is. -/
theorem Standing.Kept.gapLeft {p q : Standing} (h : p.Kept q) (buf : Nat) :
    (p.gap = false → q.gapLeft buf = false) ∧ (q.isBusy buf = true → q.gapLeft buf = false) := by
  have hg : q.gap = p.gap := by rw [h.1]
  exact ⟨fun hp => by simp [Standing.gapLeft, hg, hp], fun hq => by simp [Standing.gapLeft, hq]⟩

/-- A post after its delivery and the change `f` of it that follows. -/
theorem Dev.mem_deliver_onStanding {d : Dev} {p : Standing} (hp : p ∈ d.hif.standing) (buf st : Nat) (ws : List Nat)
    (f : Standing → Standing) : ∃ r, f r ∈ ((d.deliver p buf st ws).onStanding (·.is p.desc) f).hif.standing ∧ p.Kept r ∧
      (d.Answers p.desc → 0 < d.freeSlots p.desc.crew p.desc.ring → r.isBusy buf = true) := by
  obtain ⟨g, hg, kg, hbusy⟩ := Dev.deliver_maps d p buf st ws
  refine ⟨g p, List.mem_map.mpr ⟨g p, hg ▸ List.mem_map_of_mem hp, if_pos ?_⟩, kg p, fun h₁ h₂ => hbusy h₁ h₂ p p.is_self⟩
  simp [Standing.is, (kg p).desc]

/-- What finds a descriptor by its identity finds it after a delivery and the change of it that follows. -/
theorem Dev.find_deliver_onStanding {d : Dev} {p : Standing} (hp : d.hif.standing.find? (·.is p.desc) = some p) (buf st : Nat)
    (ws : List Nat) {f : Standing → Standing} (hf : ∀ q, (f q).desc = q.desc) :
    ∃ r, ((d.deliver p buf st ws).onStanding (·.is p.desc) f).hif.standing.find? (·.is p.desc) = some (f r) ∧ p.Kept r ∧
      (d.Answers p.desc → 0 < d.freeSlots p.desc.crew p.desc.ring → r.isBusy buf = true) := by
  obtain ⟨g, hg, kg, hbusy⟩ := Dev.deliver_maps d p buf st ws
  have his : ∀ q : Standing, (g q).is p.desc = q.is p.desc := fun q => by rw [Standing.is, (kg q).desc, Standing.is]
  have hif : ∀ q : Standing, (if (q.is p.desc) = true then f q else q).is p.desc = q.is p.desc := fun q => by
    split
    · rw [Standing.is, hf, Standing.is]
    · rfl
  refine ⟨g p, ?_, kg p, fun h₁ h₂ => hbusy h₁ h₂ p p.is_self⟩
  show ((d.deliver p buf st ws).hif.standing.map fun q => if q.is p.desc then f q else q).find? (·.is p.desc) = _
  rw [hg, List.map_map, List.find?_map, show ((fun q : Standing => q.is p.desc) ∘ ((fun q => if q.is p.desc then f q else q) ∘ g)) =
    (·.is p.desc) from funext fun q => (hif _).trans (his q), hp]
  simp only [Option.map_some, Function.comp, his, p.is_self, if_true]

/-! ## Several outputs -/

/-- Shows a list of outputs, one after the other. -/
def Dev.emitAll (d : Dev) (l : List Output) : Dev := { d with out := l.reverse ++ d.out }

theorem Dev.shows_emitAll (d : Dev) {l : List Output} {o : Output} (h : o ∈ l) : d.Shows (d.emitAll l) o :=
  ⟨_, rfl, List.mem_reverse.mpr h⟩

/-- Outputs that do not depend on what was shown before them. -/
theorem Dev.foldl_emit {α : Type} {g : Dev → α → Output} (hg : ∀ e o a, g (Dev.emit e o) a = g e a) (l : List α) (d : Dev) :
    l.foldl (fun e a => e.emit (g e a)) d = d.emitAll (l.map (g d)) := by
  induction l generalizing d with
  | nil => rfl
  | cons a r ih =>
    rw [List.foldl_cons, ih, show r.map (g (d.emit (g d a))) = r.map (g d) from List.map_congr_left fun b _ => hg d _ b]
    simp only [Dev.emitAll, Dev.emit, List.map_cons, List.reverse_cons, List.append_assoc, List.cons_append, List.nil_append]

/-! ## The block of a capture post (R317, R318) -/

/-- What the block of a capture post puts in the buffer of its channel `i`: a header, and the channel's samples. -/
def Dev.captured (d : Dev) (p : Standing) (x : AudGrpDyn) (i : Nat) : Output :=
  let ch := p.desc.w 5 / 65536 + i
  let lo := cdiv (p.aux.getD 0 0 * x.cfg.rate) 8000
  let hi := cdiv ((p.aux.getD 0 0 + max 1 x.cfg.block) * x.cfg.rate) 8000
  .hostWrite p.desc.crew (p.desc.addr 3 + (i * p.desc.blocks + p.next) * blockBytes x.cfg.rate x.cfg.block)
    ([lo % 2 ^ 32, hi - lo, ((List.range (hi - lo)).filter fun k => (d.groupSample x ch (lo + k)).2).length] ++ List.replicate 13 0 ++
      (List.range (hi - lo)).map fun k => d.sampleWord x (bitAt (p.desc.w 6) 16) ch (lo + k))

/-- A capture post once its block has been delivered. -/
def Standing.blockDone (q : Standing) (y : Desc) (to_ : Nat) : Standing :=
  { q with aux := [to_, 0], gap := q.gapLeft q.next, next := (q.next + 1) % y.blocks, count := q.count + 1 }

/-- The rings of a capture post, each with its place. -/
theorem zipIdx_range_map {α : Type} (f : Nat → α) (n : Nat) : ((List.range n).map f).zipIdx = (List.range n).map fun i => (f i, i) :=
  List.ext_getElem (by simp) fun i _ _ => by simp

/-- The delivery of a block in time into a free buffer. -/
theorem Dev.deliverBlock_capture {d : Dev} {p : Standing} {x : AudGrpDyn} (hop : p.desc.opcode = 0x40) (hbusy : p.isBusy p.next = false)
    (hlate : d.tooLate ((cdiv ((p.aux.getD 0 0 + max 1 x.cfg.block) * x.cfg.rate) 8000 - 1 + x.cfg.delay) * 8000 / x.cfg.rate +
      arriveStrokes x.cfg.arriveUs + 2) = false) :
    ∃ st ws, d.deliverBlock p x = ((d.emitAll ((List.range (p.desc.w 5 % 65536)).map (d.captured p x))).deliver p p.next st ws).onStanding
      (·.is p.desc) (·.blockDone p.desc (p.aux.getD 0 0 + max 1 x.cfg.block)) := by
  have hend : d.blockEnd p.desc x.cfg (p.aux.getD 0 0) = p.aux.getD 0 0 + max 1 x.cfg.block := by simp [Dev.blockEnd, hop]
  have hchan : d.postChannels x.cfg p.desc (p.aux.getD 0 0) =
      (List.range (p.desc.w 5 % 65536)).map fun i => some (p.desc.w 5 / 65536 + i) := by simp [Dev.postChannels, hop]
  unfold Dev.deliverBlock
  simp only [hend, hchan, hbusy, hlate, hop, Bool.or_self, Bool.false_eq_true, if_false, List.map_map, zipIdx_range_map, decide_false,
    Bool.false_and, List.foldl_map, Nat.reduceEqDiff, Function.comp, List.any_cons, List.any_nil, Bool.or_false, Bool.false_or,
    Option.any_some, List.map_cons, List.map_nil, Option.map_some, Option.getD_some, List.flatMap_map, ← List.map_eq_flatMap,
    List.filter_map, List.length_map, lt_irrefl]
  rw [Dev.foldl_emit]
  · exact ⟨_, _, rfl⟩
  · intros; rfl

/-- Whether a capture block is over depends on the time, the group and where the block starts. -/
theorem Dev.blockOver_congr {d t : Dev} (ht : t = { d with hif := t.hif, out := t.out, regs := t.regs }) {p q : Standing}
    (hdesc : q.desc = p.desc) (haux : q.aux = p.aux) (x : AudGrpDyn) : t.blockOver q x = d.blockOver p x := by
  unfold Dev.blockOver
  rw [hdesc, haux, ht]
  rfl

theorem Dev.deliverBlocks_succ {d : Dev} {g : Nat} {x : AudGrpDyn} {y : Desc} {p : Standing} (hx : d.grp? g = some x)
    (hp : d.hif.standing.find? (·.is y) = some p) (n : Nat) :
    d.deliverBlocks g y (n + 1) = if d.blockOver p x then (d.deliverBlock p x).deliverBlocks g y n else d := by
  rw [Dev.deliverBlocks, hx, hp]

theorem exec_audRxBlock {s : State} {group : Nat} {p : Standing} (h : s.dev.hif.standing.filter
    (fun q => (q.desc.opcode = 0x40 || q.desc.opcode = 0x42) && q.desc.object = 0x280 + group) = [p]) :
    exec (.audRxBlock group) s = .next { s with dev := s.dev.deliverBlocks group p.desc 64 } := by
  show execAudRxBlock group s = _
  rw [execAudRxBlock, State.lift_eq, h]
  rfl

/-! ## The block of a playback post (R319, R320) -/

/-- Posts other than `p` have another identity. -/
def Dev.Sole (d : Dev) (p : Standing) : Prop := p ∈ d.hif.standing ∧ ∀ q ∈ d.hif.standing, q.is p.desc = true → q = p

/-- A change of another post leaves `p` as it is. -/
theorem Dev.Sole.onStanding {d : Dev} {p r : Standing} (h : d.Sole p) (hr : r ∈ d.hif.standing) (hne : r ≠ p) {f : Standing → Standing}
    (hf : ∀ q, (f q).desc = q.desc) : (d.onStanding (·.is r.desc) f).Sole p := by
  have hpr : p.is r.desc = false := by
    refine Bool.eq_false_iff.mpr fun hp => hne (h.2 r hr ?_)
    simp only [Standing.is, Bool.and_eq_true, decide_eq_true_eq] at hp ⊢
    exact ⟨⟨hp.1.1.symm, hp.1.2.symm⟩, hp.2.symm⟩
  refine ⟨List.mem_map.mpr ⟨p, h.1, by simp [hpr]⟩, fun q hq his => ?_⟩
  obtain ⟨q', hq', rfl⟩ := List.mem_map.mp hq
  have hid : (if q'.is r.desc = true then f q' else q').is p.desc = q'.is p.desc := by
    split
    · simp [Standing.is, hf]
    · rfl
  have := h.2 q' hq' (hid ▸ his)
  subst this
  simp [hpr]

theorem Dev.Sole.of_eq {d t : Dev} {p : Standing} (h : d.Sole p) (ht : t.hif.standing = d.hif.standing) : t.Sole p := by
  unfold Dev.Sole
  rwa [ht]

theorem Standing.desc_logPut (seq : Nat) (ws : List Nat) (q : Standing) : (q.logPut seq ws).desc = q.desc := by
  unfold Standing.logPut
  dsimp only
  split <;> rfl

theorem Dev.crewStanding_mem {d : Dev} {op c : Nat} {r : Standing} (h : d.crewStanding? op c = some r) : r ∈ d.hif.standing :=
  List.mem_of_find?_eq_some h

theorem Dev.crewStanding_desc {d : Dev} {op c : Nat} {r : Standing} (h : d.crewStanding? op c = some r) :
    r.desc.opcode = op ∧ r.desc.crew = c := by
  have := List.find?_some h
  simpa using this

section
variable {d : Dev} {p : Standing} (hp : p.desc.opcode ≠ 0x82)
include hp

theorem Dev.Sole.logLoss {c : Nat} {r : Standing} (hr : d.crewStanding? 0x82 c = some r) (h : d.Sole p) : (d.logLoss c r).Sole p :=
  (h.of_eq (by rw [Dev.addFld_hif])).onStanding (by rw [Dev.addFld_hif]; exact Dev.crewStanding_mem hr)
    (fun he => hp (he ▸ (Dev.crewStanding_desc hr).1)) fun _ => rfl

/-- What a record does to the posts it does to the log post alone. -/
theorem Dev.Sole.record (h : d.Sole p) (c kind sub obj : Nat) (data : List Nat) : (d.record c kind sub obj data).Sole p := by
  refine Dev.Sole.of_eq (d := d.logRecord c ⟨c, d.now, kind, sub, obj, data⟩) ?_ rfl
  unfold Dev.logRecord
  cases hr : d.crewStanding? 0x82 c with
  | none => exact h
  | some r =>
    dsimp only
    split
    · exact h.logLoss hp hr
    · exact (h.of_eq (by rw [Dev.setReg_hif])).onStanding (by rw [Dev.setReg_hif]; exact Dev.crewStanding_mem hr)
        (fun he => hp (he ▸ (Dev.crewStanding_desc hr).1)) (Standing.desc_logPut _ _)

theorem Dev.Sole.logBlock (h : d.Sole p) (c : Nat) (ws : List Nat) : (d.logBlock c ws).Sole p := by
  unfold Dev.logBlock
  cases hr : d.crewStanding? 0x82 c with
  | none => exact h
  | some r =>
    dsimp only
    split
    · exact h.logLoss hp hr
    · exact h.onStanding (Dev.crewStanding_mem hr) (fun he => hp (he ▸ (Dev.crewStanding_desc hr).1)) (Standing.desc_logPut _ _)

theorem Dev.Sole.recordToken (h : d.Sole p) (c slot obj : Nat) (data : List Nat) : (d.recordToken c slot obj data).Sole p := by
  unfold Dev.recordToken
  dsimp only
  split
  · exact h.record hp _ _ _ _ _
  · exact List.foldlRecOn (motive := fun e : Dev => e.Sole p) _ _ ((h.record hp _ _ _ _ _).record hp _ _ _ _ _) fun e he i _ => he.logBlock hp _ _

end

/-- The reads of a block of a playback post: one for each channel. -/
def Dev.playReads (d : Dev) (stream : Nat) (p : Standing) (fs b : Nat) : List Output :=
  (List.range (d.hostChannels stream)).map fun c =>
    .hostRead p.desc.crew (p.desc.addr 3 + (c * p.desc.blocks + p.aux.getD 0 0 % p.desc.blocks) * blockBytes fs b) (blockBytes fs b)

/-- The samples of a block whose header is the right one arrive, with their record. -/
def Dev.played (d : Dev) (stream : Nat) (p : Standing) (lo hi : Nat) (ok : Bool) : Dev :=
  if ok then (d.arrive (0x200 + stream) lo hi).recordToken p.desc.crew 0 p.desc.object [lo % 65536, lo % 2 ^ 32] else d

/-- The block of a playback post whose time has come. -/
theorem Dev.playBlock_due {d : Dev} {stream : Nat} {p : Standing} (hp : d.playback? stream = some p) (header : List Nat)
    {b from_ fs lo hi : Nat}
    (hb : b = max 1 (p.desc.w 6 / 65536 % 64)) (hfrom : from_ = p.aux.getD 1 0 + p.aux.getD 0 0 * b) (hnow : from_ ≤ d.now + 4)
    (hfs : fs = rateHz (d.fld (Reg.audHostCfg stream) F.audHostCfg_rate)) (hlo : lo = cdiv (from_ * fs) 8000)
    (hhi : hi = cdiv ((from_ + b) * fs) 8000) :
    ∃ ws, d.playBlock stream header false = (((d.emitAll (d.playReads stream p fs b)).played stream p lo hi
        (header.getD 0 0 == lo % 2 ^ 32 && header.getD 1 0 == hi - lo)).deliver p (p.aux.getD 0 0 % p.desc.blocks) 0 ws).onStanding
      (·.is p.desc) fun q => { q with aux := [p.aux.getD 0 0 + 1, q.aux.getD 1 0], count := q.count + 1 } := by
  subst hb hfrom hfs hlo hhi
  unfold Dev.playBlock
  simp only [hp, Nat.not_lt.mpr hnow, if_false, Bool.not_false, Bool.true_and]
  rw [Dev.foldl_emit fun _ _ _ => rfl]
  exact ⟨_, rfl⟩

theorem Dev.played_eq (d : Dev) (stream : Nat) (p : Standing) (lo hi : Nat) (ok : Bool) :
    d.played stream p lo hi ok = { d with aud := if ok then (d.arrive (0x200 + stream) lo hi).aud else d.aud
                                          regs := (d.played stream p lo hi ok).regs, hif := (d.played stream p lo hi ok).hif
                                          log := (d.played stream p lo hi ok).log } := by
  cases ok with
  | false =>
    rw [show d.played stream p lo hi false = d from if_neg Bool.false_ne_true, if_neg Bool.false_ne_true]
  | true =>
    have h := Dev.recordToken_eq (d.arrive (0x200 + stream) lo hi) p.desc.crew 0 p.desc.object [lo % 65536, lo % 2 ^ 32]
    rw [show d.played stream p lo hi true = (d.arrive (0x200 + stream) lo hi).recordToken p.desc.crew 0 p.desc.object
      [lo % 65536, lo % 2 ^ 32] from if_pos rfl, if_pos rfl]
    generalize Dev.recordToken _ _ _ _ _ = t at h ⊢
    exact h

theorem Dev.Sole.played {d : Dev} {p : Standing} (h : d.Sole p) (hp : p.desc.opcode ≠ 0x82) (stream lo hi : Nat) (ok : Bool) :
    (d.played stream p lo hi ok).Sole p := by
  unfold Dev.played
  split
  · exact (h.of_eq (t := d.arrive (0x200 + stream) lo hi) rfl).recordToken hp _ _ _ _
  · exact h

/-- Samples that arrive are the newest arrivals of their source. -/
theorem Dev.head_arrive (d : Dev) (src lo hi : Nat) :
    ∃ from', (Tab.get noArrivals (d.arrive src lo hi).aud.arrived src).head? = some (from', hi, d.now) := by
  unfold Dev.arrive Dev.onAud
  dsimp only
  rw [Tab.get_upd_same]
  split
  · split
    · next h => exact ⟨_, by rw [h.2]; rfl⟩
    · exact ⟨lo, rfl⟩
  · exact ⟨lo, rfl⟩

/-! ## Snapshots of counters (R519–R521) -/

/-- The snapshot of a Crew's banks in its user page. -/
def Dev.paged (d : Dev) (crew : Nat) : Dev :=
  { d with pmu := { d.pmu with page := Tab.put noList d.pmu.page crew
                                (((d.banksOf crew).take 64).flatMap fun b => d.snapshotWords b ++ [0]) } }

/-- What a snapshot writes into the buffer of its post. -/
def Dev.snapshotOut (d : Dev) (crew : Nat) (p : Standing) : Output :=
  .hostWrite crew (p.desc.addr 3 + p.next * p.desc.w 5) ((d.banksOf crew).flatMap fun b => d.snapshotRecord b)

theorem Dev.snapshotRecord_paged (d : Dev) (crew bank : Nat) : (d.paged crew).snapshotRecord bank = d.snapshotRecord bank := rfl

theorem Dev.snapshotOut_paged (d : Dev) (crew : Nat) (p : Standing) : (d.paged crew).snapshotOut crew p = d.snapshotOut crew p := rfl

section
variable {s : State} {crew : Nat} {p : Standing} (hp : s.dev.crewStanding? 0x80 crew = some p)
  (hnow : s.dev.now % max 1 (p.desc.w 6 / 65536) = 0)
include hp hnow

theorem exec_cntLatch_busy (hb : p.isBusy p.next = true) : exec (.cntLatch crew) s =
    .next { s with dev := (s.dev.paged crew).onStanding (·.is p.desc) fun q => { q with gap := true } } := by
  show execCntLatch crew s = _
  rw [execCntLatch, State.lift_eq]
  simp only [hp, hnow, hb, ne_eq, not_true, if_false, if_true]
  rfl

theorem exec_cntLatch_free (hb : p.isBusy p.next = false) : ∃ ws, exec (.cntLatch crew) s =
    .next { s with dev := (((s.dev.paged crew).emit ((s.dev.paged crew).snapshotOut crew p)).deliver p p.next 0 ws).onStanding (·.is p.desc) fun q =>
      { q with next := (q.next + 1) % (q.desc.w 6 % 65536), count := q.count + 1, gap := q.gapLeft q.next } } := by
  show ∃ ws, execCntLatch crew s = _
  rw [execCntLatch, State.lift_eq]
  simp only [hp, hnow, hb, ne_eq, not_true, Bool.false_eq_true, if_false]
  exact ⟨_, rfl⟩

end

/-! ## Log buffers (R526) -/

theorem exec_rplBufferDelivery {s : State} {crew : Nat} {p : Standing} (hp : s.dev.crewStanding? 0x82 crew = some p)
    (hnow : s.dev.now % 8000 ≠ 0) {b n first : Nat} {words : List Nat} (hfull : p.full = [(b, n, first, words)]) :
    exec (.rplBufferDelivery crew) s =
      .next { s with dev := (s.dev.onStanding (·.is p.desc) fun q => { q with full := [] }).deliverLog p.desc (b, n, first, words) } := by
  show execRplBufferDelivery crew s = _
  rw [execRplBufferDelivery, State.lift_eq]
  simp only [hp, hnow, hfull, decide_false, Bool.false_and, Bool.false_eq_true, if_false, List.append_nil, List.foldl_cons, List.foldl_nil]

/-- A post's full buffers are taken away to be delivered. -/
theorem Dev.crewStanding_emptied {d : Dev} {op c : Nat} {p : Standing} (hp : d.crewStanding? op c = some p) :
    (d.onStanding (·.is p.desc) fun q => { q with full := [] }).crewStanding? op c = some { p with full := [] } := by
  unfold Dev.crewStanding? at hp ⊢
  show (d.hif.standing.map fun q => if q.is p.desc then { q with full := [] } else q).find? _ = _
  rw [List.find?_map, show ((fun q : Standing => decide (q.desc.opcode = op) && decide (q.desc.crew = c)) ∘
    fun q : Standing => if q.is p.desc then { q with full := [] } else q) = fun q => decide (q.desc.opcode = op) && decide (q.desc.crew = c) from
      funext fun q => by dsimp only [Function.comp]; split <;> rfl, hp]
  simp only [Option.map_some, p.is_self, if_true]

theorem Dev.deliverLog_some {d : Dev} {x : Desc} {p : Standing} (hp : d.crewStanding? 0x82 x.crew = some p) (b n first : Nat)
    (words : List Nat) : ∃ ws, d.deliverLog x (b, n, first, words) =
      ((d.emit (.hostWrite x.crew (x.addr 3 + b * x.w 5) words)).deliver p b 0 ws).onStanding (·.is x) fun q =>
        { q with count := q.count + 1, gap := q.gapLeft b } := by
  unfold Dev.deliverLog
  rw [hp]
  exact ⟨_, rfl⟩

/-! ## O47 -/

theorem Dev.shows_of_deliver {d e : Dev} {p : Standing} {o : Output} (h : d.Shows e o) (buf st : Nat) (ws : List Nat)
    (c : Standing → Bool) (f : Standing → Standing) : d.Shows ((e.deliver p buf st ws).onStanding c f) o :=
  h.later (Dev.deliver_out _ _ _ _ _)

/-- A delivery and the change of its post reach the host side and the registers alone. -/
theorem Dev.deliver_onStanding_eq {d e t : Dev} (he : e = { d with hif := e.hif, out := e.out, regs := e.regs }) {p : Standing}
    {buf st : Nat} {ws : List Nat} {c : Standing → Bool} {f : Standing → Standing} (ht : t = (e.deliver p buf st ws).onStanding c f) :
    t = { d with hif := t.hif, out := t.out, regs := t.regs } := by
  rw [Dev.deliver_eq, he] at ht
  subst ht
  rfl

/-- The block of a capture post that is over is delivered, and the next one is not over yet. -/
theorem audRxBlock_delivers {s : State} {group : Nat} {p : Standing} {x : AudGrpDyn} (hx : s.dev.grp? group = some x)
    (hfilter : s.dev.hif.standing.filter
      (fun q => (q.desc.opcode = 0x40 || q.desc.opcode = 0x42) && q.desc.object = 0x280 + group) = [p])
    (hp : s.dev.hif.standing.find? (·.is p.desc) = some p) (hop : p.desc.opcode = 0x40) (hover : s.dev.blockOver p x = true)
    (hnext : s.dev.blockOver { p with aux := [p.aux.getD 0 0 + max 1 x.cfg.block, 0] } x = false) (hbusy : p.isBusy p.next = false)
    (hlate : s.dev.tooLate ((cdiv ((p.aux.getD 0 0 + max 1 x.cfg.block) * x.cfg.rate) 8000 - 1 + x.cfg.delay) * 8000 / x.cfg.rate +
      arriveStrokes x.cfg.arriveUs + 2) = false) :
    ∃ t r, exec (.audRxBlock group) s = .next { s with dev := t } ∧ t = { s.dev with hif := t.hif, out := t.out, regs := t.regs } ∧
      (∀ i < p.desc.w 5 % 65536, s.dev.Shows t (s.dev.captured p x i)) ∧
      r.blockDone p.desc (p.aux.getD 0 0 + max 1 x.cfg.block) ∈ t.hif.standing ∧ p.Kept r ∧
      (s.dev.Answers p.desc → 0 < s.dev.freeSlots p.desc.crew p.desc.ring → r.isBusy p.next = true) := by
  obtain ⟨st, ws, hblock⟩ := Dev.deliverBlock_capture hop hbusy hlate
  obtain ⟨r, hfound, hkept, hheld⟩ := Dev.find_deliver_onStanding (d := s.dev.emitAll _) hp p.next st ws
    (f := (·.blockDone p.desc (p.aux.getD 0 0 + max 1 x.cfg.block))) fun _ => rfl
  have heq := Dev.deliver_onStanding_eq (d := s.dev) (e := s.dev.emitAll _) rfl hblock
  rw [← hblock] at hfound
  have hgrp : (s.dev.deliverBlock p x).grp? group = some x := by rw [heq]; exact hx
  have hdone : (s.dev.deliverBlock p x).blockOver (r.blockDone p.desc (p.aux.getD 0 0 + max 1 x.cfg.block)) x = false := by
    rw [Dev.blockOver_congr heq (p := { p with aux := [p.aux.getD 0 0 + max 1 x.cfg.block, 0] })
      (q := r.blockDone p.desc (p.aux.getD 0 0 + max 1 x.cfg.block)) hkept.desc rfl]
    exact hnext
  have hblocks : s.dev.deliverBlocks group p.desc 64 = s.dev.deliverBlock p x := by
    have hfirst := Dev.deliverBlocks_succ hx hp 63
    have hsecond := Dev.deliverBlocks_succ hgrp hfound 62
    rw [if_pos hover] at hfirst
    rw [hdone, if_neg Bool.false_ne_true] at hsecond
    exact hfirst.trans hsecond
  refine ⟨_, r, (exec_audRxBlock hfilter).trans (by rw [hblocks]), heq, fun i hi => ?_, List.mem_of_find?_eq_some hfound, hkept, hheld⟩
  rw [hblock]
  exact Dev.shows_of_deliver (Dev.shows_emitAll _ (List.mem_map_of_mem (List.mem_range.mpr hi))) _ _ _ _ _

theorem exec_audTxBlockRead (stream : Nat) (header : List Nat) (s : State) :
    exec (.audTxBlockRead stream header) s = .next { s with dev := s.dev.playBlock stream header false } := rfl

/-- The block of a playback post whose time has come is read. -/
theorem audTxBlockRead_reads {s : State} {stream : Nat} {p : Standing} (header : List Nat) (hp : s.dev.playback? stream = some p)
    (hsole : s.dev.Sole p) {b from_ fs lo hi : Nat} (hb : b = max 1 (p.desc.w 6 / 65536 % 64))
    (hfrom : from_ = p.aux.getD 1 0 + p.aux.getD 0 0 * b) (hnow : from_ ≤ s.dev.now + 4)
    (hfs : fs = rateHz (s.dev.fld (Reg.audHostCfg stream) F.audHostCfg_rate)) (hlo : lo = cdiv (from_ * fs) 8000)
    (hhi : hi = cdiv ((from_ + b) * fs) 8000) :
    ∃ t r, exec (.audTxBlockRead stream header) s = .next { s with dev := t } ∧
      { r with aux := [p.aux.getD 0 0 + 1, r.aux.getD 1 0], count := r.count + 1 } ∈ t.hif.standing ∧ p.Kept r ∧
      (∀ o ∈ s.dev.playReads stream p fs b, s.dev.Shows t o) ∧
      t.aud = if (header.getD 0 0 == lo % 2 ^ 32 && header.getD 1 0 == hi - lo) = true then (s.dev.arrive (0x200 + stream) lo hi).aud
        else s.dev.aud := by
  have hop : p.desc.opcode ≠ 0x82 := by
    have := List.find?_some hp
    simp only [Bool.and_eq_true, decide_eq_true_eq] at this
    omega
  obtain ⟨ws, hplay⟩ := Dev.playBlock_due hp header hb hfrom hnow hfs hlo hhi
  have hread : (s.dev.emitAll (s.dev.playReads stream p fs b)).Sole p := hsole
  have hall := Dev.played_eq (s.dev.emitAll (s.dev.playReads stream p fs b)) stream p lo hi
    (header.getD 0 0 == lo % 2 ^ 32 && header.getD 1 0 == hi - lo)
  have hplayed := (hread.played hop stream lo hi (header.getD 0 0 == lo % 2 ^ 32 && header.getD 1 0 == hi - lo)).1
  generalize Dev.played _ _ _ _ _ _ = e at hplay hall hplayed
  obtain ⟨r, hr, hkept, -⟩ := Dev.mem_deliver_onStanding hplayed (p.aux.getD 0 0 % p.desc.blocks) 0 ws
    fun q => { q with aux := [p.aux.getD 0 0 + 1, q.aux.getD 1 0], count := q.count + 1 }
  have heq := Dev.deliver_onStanding_eq (d := e) rfl hplay
  refine ⟨_, r, exec_audTxBlockRead stream header s, hplay ▸ hr, hkept, fun o ho => ?_, ?_⟩
  · rw [hplay]
    refine Dev.shows_of_deliver ?_ _ _ _ _ _
    rw [hall]
    exact Dev.shows_emitAll s.dev ho
  · rw [heq, hall]
    rfl

/-- The banks of a Crew go into its user page and into a free buffer. -/
theorem cntLatch_latches {s : State} {crew : Nat} {p : Standing} (hp : s.dev.crewStanding? 0x80 crew = some p)
    (hnow : s.dev.now % max 1 (p.desc.w 6 / 65536) = 0) :
    ∃ t q, exec (.cntLatch crew) s = .next { s with dev := t } ∧
      t = { s.dev.paged crew with hif := t.hif, out := t.out, regs := t.regs } ∧ q ∈ t.hif.standing ∧ q.desc = p.desc ∧
      if p.isBusy p.next = true then q.gap = true ∧ q.count = p.count ∧ t.out = s.dev.out
      else (p.gap = false → q.gap = false) ∧
        (s.dev.Answers p.desc → 0 < s.dev.freeSlots p.desc.crew p.desc.ring → q.gap = false) ∧
        q.count = p.count + 1 ∧ q.next = (p.next + 1) % (p.desc.w 6 % 65536) ∧ s.dev.Shows t (s.dev.snapshotOut crew p) := by
  have hmem : p ∈ s.dev.hif.standing := Dev.crewStanding_mem hp
  cases hb : p.isBusy p.next with
  | true =>
    refine ⟨_, { p with gap := true }, exec_cntLatch_busy hp hnow hb, rfl, ?_, rfl, ?_⟩
    · exact List.mem_map.mpr ⟨p, hmem, if_pos p.is_self⟩
    · exact ⟨rfl, rfl, rfl⟩
  | false =>
    obtain ⟨ws, hexec⟩ := exec_cntLatch_free hp hnow hb
    obtain ⟨r, hr, hkept, hheld⟩ := Dev.mem_deliver_onStanding (d := (s.dev.paged crew).emit ((s.dev.paged crew).snapshotOut crew p)) hmem
      p.next 0 ws fun q => { q with next := (q.next + 1) % (q.desc.w 6 % 65536), count := q.count + 1, gap := q.gapLeft q.next }
    have hrn : r.next = p.next := by rw [hkept.1]
    refine ⟨_, _, hexec, Dev.deliver_onStanding_eq (e := (s.dev.paged crew).emit _) rfl rfl, hr, hkept.desc, ?_⟩
    rw [if_neg Bool.false_ne_true]
    dsimp only
    rw [hrn, hkept.desc]
    refine ⟨(hkept.gapLeft _).1, fun h₁ h₂ => (hkept.gapLeft _).2 (hheld h₁ h₂), by rw [hkept.1], rfl, ?_⟩
    exact Dev.shows_of_deliver (Dev.snapshotOut_paged s.dev crew p ▸ Dev.Shows.emit _ _) _ _ _ _ _

/-- The one full buffer of a log post is delivered. -/
theorem rplBufferDelivery_delivers {s : State} {crew : Nat} {p : Standing} (hp : s.dev.crewStanding? 0x82 crew = some p)
    (hnow : s.dev.now % 8000 ≠ 0) {b n first : Nat} {words : List Nat} (hfull : p.full = [(b, n, first, words)]) :
    ∃ t r, exec (.rplBufferDelivery crew) s = .next { s with dev := t } ∧
      s.dev.Shows t (.hostWrite crew (p.desc.addr 3 + b * p.desc.w 5) words) ∧
      { r with count := r.count + 1, gap := r.gapLeft b } ∈ t.hif.standing ∧ ({ p with full := [] } : Standing).Kept r ∧
      (s.dev.Answers p.desc → 0 < s.dev.freeSlots p.desc.crew p.desc.ring → r.isBusy b = true) ∧
      t = { s.dev with hif := t.hif, out := t.out, regs := t.regs } := by
  have hcrew : p.desc.crew = crew := (Dev.crewStanding_desc hp).2
  have hempty := Dev.crewStanding_emptied hp
  obtain ⟨ws, hlog⟩ := Dev.deliverLog_some (x := p.desc) (hcrew.symm ▸ hempty) b n first words
  obtain ⟨r, hr, hkept, hheld⟩ := Dev.mem_deliver_onStanding (p := { p with full := [] })
    (d := (s.dev.onStanding (·.is p.desc) fun q => { q with full := [] }).emit (.hostWrite p.desc.crew (p.desc.addr 3 + b * p.desc.w 5) words))
    (Dev.crewStanding_mem hempty) b 0 ws fun q => { q with count := q.count + 1, gap := q.gapLeft b }
  refine ⟨_, r, exec_rplBufferDelivery hp hnow hfull, ?_, hlog ▸ hr, hkept, hheld, ?_⟩
  · rw [hlog, ← hcrew]
    exact Dev.shows_of_deliver (Dev.Shows.emit (Dev.onStanding _ _ _) _) _ _ _ _ _
  · exact Dev.deliver_onStanding_eq (e := Dev.emit (s.dev.onStanding _ _) _) rfl hlog

/-- Settles O47, by what each delivery writes and the post it leaves. -/
theorem blocksAndSnapshots : Obligations.BlocksAndSnapshots := by
  unfold Obligations.BlocksAndSnapshots
  refine ⟨?_, ?_, fun s crew p hp hnow => ?_, fun s crew p b n first words hp hnow hfull => ?_⟩
  · intro s group p x hx hfilter hp hop hover hnext hbusy lo hi hlate
    obtain ⟨t, r, hexec, heq, hshows, hmem, hkept, hheld⟩ := audRxBlock_delivers hx hfilter hp hop hover hnext hbusy hlate
    have hrn : r.next = p.next := by rw [hkept.1]
    refine ⟨_, _, hexec, congrArg (fun d => { s with dev := d }) heq, hshows, hmem, hkept.desc, ?_, ?_⟩
    · show r.count + 1 = _
      rw [hkept.1]
    · simp only [Standing.blockDone, hrn]
      exact ⟨(hkept.gapLeft _).1, fun h₁ h₂ => (hkept.gapLeft _).2 (hheld h₁ h₂), trivial, rfl⟩
  · intro s stream header p hp huniq b n from_ fs lo hi hnow
    obtain ⟨t, r, hexec, hmem, hkept, hshows, haud⟩ := audTxBlockRead_reads header hp ⟨List.mem_of_find?_eq_some hp, huniq⟩
      (b := b) rfl (from_ := from_) rfl hnow rfl (lo := lo) rfl (hi := hi) rfl
    refine ⟨_, _, hexec, rfl, hmem, hkept.desc, ?_, ?_, fun c hc => hshows _ (List.mem_map_of_mem (List.mem_range.mpr hc)), ?_⟩
    · show r.count + 1 = _
      rw [hkept.1]
    · show [_, r.aux.getD 1 0] = _
      rw [hkept.1]
    · rw [haud]
      split
      · next h =>
        rw [if_pos (by simpa using h)]
        exact Dev.head_arrive _ _ _ _
      · next h =>
        rw [if_neg (by simpa using h)]
  · obtain ⟨t, q, hexec, heq, hmem, hdesc, hpost⟩ := cntLatch_latches hp hnow
    have hpmu : t.pmu = (s.dev.paged crew).pmu := by rw [heq]
    refine ⟨_, q, hexec, ?_, ?_, ?_, hmem, hdesc, hpost⟩
    · dsimp only
      rw [hpmu]
      exact Tab.get_put_same _ _ _
    · refine congrArg (fun d => ({ s with dev := d } : State)) 
        (a₂ := { s.dev with hif := t.hif, out := t.out, regs := t.regs, pmu := t.pmu }) ?_
      rw [hpmu]
      exact heq
    · dsimp only
      rw [hpmu]
      rfl
  · obtain ⟨t, r, hexec, hshows, hmem, hkept, hheld, heq⟩ := rplBufferDelivery_delivers hp hnow hfull
    refine ⟨_, _, hexec, hshows, hmem, hkept.desc, ?_, ?_, (hkept.gapLeft _).1, fun h₁ h₂ => (hkept.gapLeft _).2 (hheld h₁ h₂),
      congrArg (fun d => { s with dev := d }) heq⟩
    · show r.full = []
      rw [hkept.1]
    · show r.count + 1 = _
      rw [hkept.1]

end Sys2Proof.Machine
end

section
/-! PROOFS. A reset that reaches a domain and does not leave it in reset (R442, R482, R488). Refutes O57. -/

namespace Sys2Proof.Machine

/-! ## A reset of the domain AO that restarts SEC

A single reset of the SEC block is held in RST_BLOCK, a register of the domain AO. A reset of AO clears that register, and so releases SEC,
which starts and loads the Charter in NVM; a Charter whose one word is RST_STATUS then shows no domain in reset, AO neither. -/

/-- A device out of reset, open for debug, whose SEC block is held in a single reset and whose Charter writes RST_STATUS. -/
def Dev.secHeldChartered : Dev :=
  { Dev.reset with
    regs := [(Reg.rstStatus, 0), (Reg.rstBlock 0, F.rstBlock_class.set (F.rstBlock_assert.set 0 1) 6), (Reg.rstSrcActive, 0),
      (Reg.secStatus, F.secStatus_debug.set (F.secStatus_lifecycle.set 0 1) 2)]
    nvm := { Dev.reset.nvm with charter := some releasingCharter } }

/-- A system with that device. -/
def State.secHeldChartered : State := { State.reset with dev := Dev.secHeldChartered }

theorem State.nodup_regs_secHeldChartered : (State.secHeldChartered.dev.regs.map (·.1)).Nodup := by decide +kernel

theorem State.debug_secHeldChartered : State.secHeldChartered.dev.fld Reg.secStatus F.secStatus_debug = 2 := by decide +kernel

/-- Whether a domain is in reset after an instruction; none where there is no next state. -/
def inResetAfter (c : Instr) (s : State) (k : Nat) : Option Bool :=
  match exec c s with
  | .next t => some (t.dev.inReset k)
  | _ => none

theorem inResetAfter_of_next {c : Instr} {s t : State} (h : exec c s = .next t) (k : Nat) : inResetAfter c s k = some (t.dev.inReset k) := by
  rw [inResetAfter, h]

/-- A reset of AO by the debugger leaves AO out of reset. -/
theorem inResetAfter_debugReset : inResetAfter (.debugReset 1) State.secHeldChartered 0 = some false := by decide +kernel

/-- Refutes O57: a reset of AO by the debugger releases the SEC block from its single reset, and the Charter that SEC then loads takes AO
out of reset. -/
theorem not_resetsReach : ¬ Obligations.ResetsReach := by
  unfold Obligations.ResetsReach
  rintro ⟨hsource, -, -⟩
  obtain ⟨t, hexec, hreach, -⟩ := hsource State.secHeldChartered (.debugReset 1) 8 1 false State.nodup_regs_secHeldChartered
    (.inr ⟨1, State.debug_secHeldChartered, rfl⟩)
  have hin : t.dev.inReset 0 = true := (hreach 0 (by decide)).trans (by rw [show bitAt 1 0 = true by decide, Bool.true_or])
  have hafter := inResetAfter_of_next hexec 0
  rw [inResetAfter_debugReset, hin] at hafter
  exact absurd hafter (by decide)

end Sys2Proof.Machine
end

section
/-! PROOFS. What a completion leaves to the others: every ring pair's epoch and the completions held there, every post, and the counts of the
capacity but for one entry (R108, R110, R116); and the queries (R161, R244, R286, R321, R457). Settles O12. -/

namespace Sys2Proof.Machine

/-! ## Completions shown earlier and later -/

theorem Dev.Completes.later {d e t : Dev} {x : Desc} {st : Nat} {ws : List Nat} (h : d.Completes e x st ws)
    (ht : ∃ new, t.out = new ++ e.out) : d.Completes t x st ws := by
  obtain ⟨i, w, k, hs⟩ := h
  exact ⟨i, w, k, hs.later ht⟩

theorem Dev.Completes.earlier {d e t : Dev} {x : Desc} {st : Nat} {ws : List Nat} (ho : ∃ new, e.out = new ++ d.out)
    (hn : e.nowLo = d.nowLo) (h : e.Completes t x st ws) : d.Completes t x st ws := by
  obtain ⟨i, w, k, hs⟩ := h
  rw [hn] at hs
  exact ⟨i, w, k, hs.earlier ho⟩

/-! ## Ring pairs after a completion (R108, R110) -/

/-- Every ring pair that was enabled still is, in its epoch and with the completions that it held. -/
def Dev.KeepsHeld (d t : Dev) : Prop :=
  ∀ c r g, d.ring c r = some g → ∃ k, t.ring c r = some k ∧ k.epoch = g.epoch ∧ k.held = g.held

theorem Dev.KeepsHeld.of_rings {d t : Dev} (h : t.hif.rings = d.hif.rings) : d.KeepsHeld t := fun c r g hg =>
  ⟨g, by rw [Dev.ring, h]; exact hg, rfl, rfl⟩

theorem Dev.KeepsHeld.trans {d e t : Dev} (h : d.KeepsHeld e) (h' : e.KeepsHeld t) : d.KeepsHeld t := fun c r g hg =>
  let ⟨k, hk, ek, lk⟩ := h c r g hg
  let ⟨m, hm, em, lm⟩ := h' c r k hk
  ⟨m, hm, em.trans ek, lm.trans lk⟩

theorem Dev.KeepsHeld.setRing {d : Dev} {c r : Nat} {g k : Ring} (hg : d.ring c r = some g) (he : k.epoch = g.epoch)
    (hh : k.held = g.held) : d.KeepsHeld (d.setRing c r (some k)) := fun c' r' g' hg' => by
  by_cases hkey : 64 * c' + r' = 64 * c + r
  · have hsame (e : Dev) : e.ring c' r' = e.ring c r := by rw [Dev.ring, hkey, Dev.ring]
    obtain rfl : g' = g := Option.some.inj (hg'.symm.trans ((hsame d).trans hg))
    exact ⟨k, (hsame _).trans (Dev.ring_setRing_same _ _ _ _), he, hh⟩
  · exact ⟨g', (Dev.ring_setRing_other _ _ hkey).trans hg', rfl, rfl⟩

theorem Dev.KeepsHeld.onRing {d : Dev} {c r : Nat} {g : Ring} (hg : d.ring c r = some g) {f : Ring → Ring}
    (he : (f g).epoch = g.epoch) (hh : (f g).held = g.held) : d.KeepsHeld (d.onRing c r f) := by
  rw [Dev.onRing, hg, Option.map_some]
  exact .setRing hg he hh

theorem Dev.KeepsHeld.writeEntryAt (d : Dev) (at_ c r st op tag : Nat) (ws : List Nat) : d.KeepsHeld (d.writeEntryAt at_ c r st op tag ws) := by
  unfold Dev.writeEntryAt
  split
  · exact .of_rings rfl
  · next g hg =>
    refine .trans (e := d.setRing c r (some { g with cqSeq := g.cqSeq + 1, lost := false })) (.setRing hg rfl rfl) (.of_rings ?_)
    rw [Dev.signal_rings]
    rfl

theorem Dev.KeepsHeld.writeHeld {d : Dev} {c r : Nat} {g : Ring} (hg : d.ring c r = some g) (h : Held) : d.KeepsHeld (d.writeHeld c r h) := by
  unfold Dev.writeHeld
  refine .trans (.onRing (f := fun g => { g with reserved := g.reserved - bit h.slot }) hg rfl rfl) ?_
  refine .trans (e := (d.onRing c r fun g => { g with reserved := g.reserved - bit h.slot }).countWrite c r) (.of_rings rfl) ?_
  exact .trans (.writeEntryAt _ _ _ _ _ _ _ _) (.of_rings rfl)

/-! ## The capacity after a completion (R115, R116) -/

theorem Dev.writes_signal (d : Dev) (c r : Nat) : (d.signal c r).hif.writes = d.hif.writes := by
  unfold Dev.signal
  dsimp only
  split
  · unfold Dev.fireVector
    split <;> rfl
  · rfl

theorem Dev.writes_writeEntryAt (d : Dev) (at_ c r st op tag : Nat) (ws : List Nat) :
    (d.writeEntryAt at_ c r st op tag ws).hif.writes = d.hif.writes := by
  unfold Dev.writeEntryAt
  split
  · rfl
  · dsimp only
    rw [Dev.writes_signal]
    rfl

/-- One entry more is counted, for one Crew. -/
theorem Dev.writesOf_writeHeld_le (d : Dev) (c r : Nat) (h : Held) (o : Nat) : (d.writeHeld c r h).writesOf o ≤ d.writesOf o + 1 := by
  have hw : (d.writeHeld c r h).hif.writes = Tab.upd zero d.hif.writes c (· + 1) := by
    show (Dev.writeEntryAt _ _ _ _ _ _ _ _).hif.writes = _
    rw [Dev.writes_writeEntryAt]
    rfl
  rw [Dev.writesOf, hw, Dev.writesOf]
  by_cases ho : o = c
  · rw [ho, Tab.get_upd_same]
  · rw [Tab.get_upd_other _ _ ho]
    exact Nat.le_succ _

theorem Dev.hostScale_of_regs {d t : Dev} (h : t.regs = d.regs) (n : Nat) : t.hostScale n = d.hostScale n := by
  unfold Dev.hostScale Dev.flag Dev.fld
  simp only [Dev.reg_of_regs h]

/-- Within its guaranteed share a Crew may write one more entry. -/
theorem Dev.entryShare_of_lt {d : Dev} {c : Nat} (h : d.writesOf c < d.hostScale 120) (r : Nat) : d.entryShare c r = true := by
  unfold Dev.entryShare
  exact if_pos h

/-- After a completion another descriptor's entry can still be written at once, where its Crew's guaranteed share has room for that entry
and for one more. -/
theorem Dev.Answers.finish {d : Dev} {x y : Desc} (hx : d.Answers x) (hy : d.Answers y) (hw : d.writesOf y.crew + 1 < d.hostScale 120)
    (st : Nat) (ws : List Nat) : (d.finish x st ws).Answers y := by
  obtain ⟨⟨g, hg, he, hh⟩, hq, hs⟩ := hx
  obtain ⟨⟨k, hk, hke, hkh⟩, hyq, -⟩ := hy
  have hf := Dev.finish_of_room st ws hg he hh hs (.inl hq)
  have hkeep : d.KeepsHeld (d.finish x st ws) := by
    rw [hf]
    exact .trans (.onRing hg rfl rfl) (.writeHeld (Dev.ring_closed hg) _)
  obtain ⟨m, hm, hme, hmh⟩ := hkeep _ _ k hk
  refine ⟨⟨m, hm, hme.trans hke, hmh.trans hkh⟩, hyq, Dev.entryShare_of_lt ?_ _⟩
  rw [Dev.hostScale_of_regs (Dev.regs_finish d x st ws)]
  refine lt_of_le_of_lt ?_ hw
  rw [hf]
  exact Dev.writesOf_writeHeld_le _ _ _ _ _

/-! ## Queries (R161, R244, R286, R321, R457) -/

/-- A command that completes its due descriptor, and does no more, shows the completion and changes the host side alone. -/
theorem State.completes_of_exec {s : State} {c : Instr} {x : Desc} {st : Nat} {ws : List Nat}
    (hexec : exec c s = .next { s with dev := (s.dev.taken x).finish x st ws }) (h : s.dev.Answers x) :
    ∃ t, exec c s = .next t ∧ s.HostOnly t ∧ s.dev.Completes t.dev x st ws :=
  ⟨_, hexec, State.hostOnly_finish_taken _ _ _ _ _, Dev.finish_of_answers (d := s.dev.taken x) st ws h⟩

/-- A due descriptor is taken, and what its command does with it is done. -/
theorem State.onDue_taken {s : State} {c r op : Nat} {x : Desc} (f : Dev → Desc → Dev) (h : s.dev.IsDue c r op x) :
    s.onDue c r op f = .next { s with dev := f (s.dev.taken x) x } := State.onDue_of_isDue f h

theorem pack_halves (a b : Nat) : pack [(a, 16), (b, 0)] = a * 2 ^ 16 + b := by simp [pack]

section
variable {s : State} {crew ring : Nat} {x : Desc}

theorem exec_query {y : EncDyn} (h : s.dev.IsDue crew ring 0x12 x) (hy : s.dev.enc? x.chan = some y) :
    exec (.query crew ring) s = .next { s with dev := ((s.dev.taken x).finish x 0
      [y.coded % 2 ^ 32, y.floorBands % 2 ^ 32, y.heldBands % 2 ^ 32, y.mismatches % 2 ^ 16 * 2 ^ 16 + y.forced % 2 ^ 16]) } := by
  have henc : (s.dev.taken x).enc? x.chan = some y := hy
  show execQuery crew ring s = _
  rw [execQuery, State.onDue_taken _ h]
  simp only [henc, pack_halves]
  rfl

theorem exec_decQuery {y : DecDyn} (h : s.dev.IsDue crew ring 0x18 x) (hy : s.dev.dec? (x.object - 0x200) = some y) :
    exec (.decQuery crew ring) s = .next { s with dev := ((s.dev.taken x).finish x 0
      [y.decoded % 2 ^ 32, y.held % 2 ^ 32, y.concealed % 2 ^ 32, y.episodes % 2 ^ 16 * 2 ^ 16 + y.discarded % 2 ^ 16]) } := by
  have hdec : (s.dev.taken x).dec? (x.object - 0x200) = some y := hy
  show execDecQuery crew ring s = _
  rw [execDecQuery, State.onDue_taken _ h]
  simp only [hdec, pack_halves]
  rfl

theorem exec_audQuery {y : AudGrpDyn} (h : s.dev.IsDue crew ring 0x44 x) (hy : s.dev.grp? (x.object - 0x280) = some y) :
    exec (.audQuery crew ring) s = .next { s with dev := ((s.dev.taken x).finish x 0
      [y.read % 2 ^ 32, y.concealed % 2 ^ 32, y.late % 2 ^ 32, y.episodes % 2 ^ 32]) } := by
  have hgrp : (s.dev.taken x).grp? x.grp = some y := hy
  show execAudQuery crew ring s = _
  rw [execAudQuery, State.onDue_taken _ h]
  simp only [hgrp]

theorem exec_fenceQuery (h : s.dev.IsDue crew ring 0x23 x) :
    exec (.fenceQuery crew ring) s = .next { s with dev := ((s.dev.taken x).finish x 0
      [(s.dev.fence (x.object - 0x1000)).1 % 2 ^ 32, (s.dev.fence (x.object - 0x1000)).1 / 2 ^ 32,
        (s.dev.fence (x.object - 0x1000)).2 % 2 ^ 32]) } := by
  show execFenceQuery crew ring s = _
  rw [execFenceQuery, State.onDue_taken _ h]
  rfl

/-- What a key slot answers of itself. -/
def keyWords (k : Option KeySlot) : List Nat := (k.map fun k => [k.purpose + 4, k.kcv]).getD [0, 0]

theorem exec_keyQuery (h : s.dev.IsDue crew ring 0x62 x) :
    exec (.keyQuery crew ring) s =
      .next { s with dev := (s.dev.taken x).finish x 0 (keyWords (s.dev.key (x.object - 0x2000))) } := by
  have hkey : (s.dev.taken x).key x.keySlot = s.dev.key (x.object - 0x2000) := rfl
  show execKeyQuery crew ring s = _
  rw [execKeyQuery, State.onDue_taken _ h]
  rw [hkey]
  cases s.dev.key (x.object - 0x2000) <;> rfl

end

/-- Settles O12, by the completion that each query is. -/
theorem queriesComplete : Obligations.QueriesComplete := by
  unfold Obligations.QueriesComplete
  refine ⟨fun s crew ring x y h ha hy => State.completes_of_exec (exec_query h hy) ha,
    fun s crew ring x y h ha hy => State.completes_of_exec (exec_decQuery h hy) ha,
    fun s crew ring x y h ha hy => State.completes_of_exec (exec_audQuery h hy) ha,
    fun s crew ring x h ha => State.completes_of_exec (exec_fenceQuery h) ha, fun s crew ring x h ha => ?_⟩
  have hq := State.completes_of_exec (exec_keyQuery h) ha
  cases hk : s.dev.key (x.object - 0x2000) with
  | none => rwa [hk] at hq
  | some k => rwa [hk] at hq

end Sys2Proof.Machine
end

section
/-! PROOFS. Standing posts as they begin, and the stops that end them (R162, R165, R189, R193, R317–R319, R321, R459, R519, R526). Settles
O13. -/

namespace Sys2Proof.Machine

/-! ## Posts (R162, R318, R526) -/

/-- A post that begins to stand: no buffer used, no delivery made. -/
def Desc.beginning (x : Desc) (now : Nat) (aux : List Nat) : Standing := ⟨x, now, 0, 0, false, [], none, aux, [], []⟩

/-- What a post of an opcode keeps beside its buffers as it begins to stand: a capture or port post the first Stroke of its block, and
whether the block before it was short (R317, R319). -/
def postAux (op : Nat) (d : Dev) : List Nat := if op = 0x40 ∨ op = 0x42 then [d.now, 0] else []

/-- A descriptor is neither due nor staged any longer. -/
def Dev.withdrawn (d : Dev) (x : Desc) : Dev :=
  d.onHif fun v => { v with due := v.due.filter (· ≠ x), staged := v.staged.filter (· ≠ x) }

theorem not_mem_filter_ne (l : List Desc) (x : Desc) : x ∉ l.filter (· ≠ x) := by simp

section
variable {s : State} {crew ring : Nat} {x : Desc}

/-- A due post takes effect: it stands from the current Stroke. -/
theorem State.posts_of_exec {c : Instr} {aux : List Nat} (hexec : exec c s = .next { s with dev := (s.dev.taken x).stand x aux }) :
    ∃ t p, exec c s = .next t ∧ t = { s with dev := { s.dev with hif := t.dev.hif } } ∧ x ∉ t.dev.hif.due ∧
      t.dev.hif.standing = s.dev.hif.standing ++ [p] ∧ p.desc = x ∧ p.start = s.dev.now ∧ p.next = 0 ∧ p.count = 0 ∧ p.gap = false ∧
      p.busy = [] :=
  ⟨_, x.beginning s.dev.now aux, hexec, rfl, not_mem_filter_ne _ _, rfl, rfl, rfl, rfl, rfl, rfl, rfl⟩

theorem exec_rplPost (h : s.dev.IsDue crew ring 0x82 x) : exec (.rplPost crew ring) s =
    .next { s with dev := ((((s.dev.taken x).stand x [0, 0, 0]).setReg (Reg.rplLogSeq x.crew) 0).setFld (Reg.rplLogStatus x.crew)
      F.rplLogStatus_lost 0) } := by
  show execRplPost crew ring s = _
  rw [execRplPost, State.onDue_taken _ h]

theorem exec_audTxPost (h : (s.dev.hif.due ++ s.dev.hif.staged).find?
    (fun y => y.crew = crew && y.ring = ring && y.opcode = 0x41 && !y.waits) = some x) :
    exec (.audTxPost crew ring) s = .next { s with dev := (s.dev.withdrawn x).stand x [0, s.dev.playFrom x] } := by
  show execAudTxPost crew ring s = _
  rw [execAudTxPost, State.lift_eq]
  simp only [h]
  rfl

end

theorem rplLogSeq_ne_rplLogStatus (c : Nat) : Reg.rplLogSeq c ≠ Reg.rplLogStatus c := by
  unfold Reg.rplLogSeq Reg.rplLogStatus
  omega

/-- The registers of a record log as its post begins. -/
theorem Dev.logBegins (d : Dev) (c : Nat) {t : Dev}
    (ht : t = (d.setReg (Reg.rplLogSeq c) 0).setFld (Reg.rplLogStatus c) F.rplLogStatus_lost 0) :
    t.reg (Reg.rplLogSeq c) = 0 ∧ t.fld (Reg.rplLogStatus c) F.rplLogStatus_lost = 0 ∧
      d.KeepsRegs t [Reg.rplLogSeq c, Reg.rplLogStatus c] := by
  subst ht
  refine ⟨?_, Dev.fld_setFld_same _ _ ⟨by decide, by decide⟩ 0, fun a ha => ?_⟩
  · rw [Dev.reg_setFld_other _ _ _ (rplLogSeq_ne_rplLogStatus c), Dev.reg_setReg_same]
  · simp only [List.mem_cons, List.not_mem_nil, or_false, not_or] at ha
    rw [Dev.reg_setFld_other _ _ _ ha.2, Dev.reg_setReg_other _ _ ha.1]

/-! ## Stops (R165, R193, R321, R519, R526) -/

theorem Dev.MapsStanding.finish (d : Dev) (x : Desc) (st : Nat) (ws : List Nat) : d.MapsStanding (d.finish x st ws) := by
  unfold Dev.finish
  dsimp only
  split
  · exact .of_eq rfl
  · split
    · exact .of_eq rfl
    · exact .trans (.of_eq rfl) (.complete (d.closed x) _ _ _)

theorem Dev.MapsStanding.descs {d t : Dev} (h : d.MapsStanding t) : t.hif.standing.map (·.desc) = d.hif.standing.map (·.desc) := by
  obtain ⟨f, hf, kf⟩ := h
  rw [hf, List.map_map]
  exact List.map_congr_left fun q _ => (kf q).desc

/-- A post that has ended stands no longer. -/
theorem Dev.not_is_endStanding (d : Dev) (p : Standing) (st : Nat) (ws : List Nat) :
    ∀ q ∈ (d.endStanding p st ws).hif.standing, q.is p.desc = false := by
  obtain ⟨f, hf, kf⟩ := Dev.MapsStanding.finish (d.onHif fun h => { h with standing := h.standing.filter fun t => !t.is p.desc }) p.desc st ws
  intro q hq
  rw [Dev.endStanding, hf] at hq
  obtain ⟨r, hr, rfl⟩ := List.mem_map.mp hq
  have his : (f r).is p.desc = r.is p.desc := by rw [Standing.is, (kf r).desc, Standing.is]
  simpa [his] using (List.mem_filter.mp hr).2

/-- What a stop shows and leaves of the posts, from the post that it finds. -/
def Dev.Ends (d t : Dev) (x : Desc) (find : Option Standing) : Prop :=
  match find with
  | none => d.Completes t x 0x13 [] ∧ t.hif.standing.map (·.desc) = d.hif.standing.map (·.desc)
  | some p => d.Completes t x 0 [] ∧ (∀ q ∈ t.hif.standing, q.is p.desc = false) ∧
      (d.Answers p.desc → d.writesOf p.desc.crew + 1 < d.hostScale 120 → d.Completes t p.desc 0 [p.count])

/-- A stop that is answered completes, and after it the post that it has found. -/
theorem Dev.Answers.ends {d : Dev} {x : Desc} (h : d.Answers x) (find : Option Standing) : d.Ends (d.stopPost x find) x find := by
  cases find with
  | none => exact ⟨Dev.finish_of_answers 0x13 [] h, (Dev.MapsStanding.finish _ _ _ _).descs⟩
  | some p =>
    refine ⟨(Dev.finish_of_answers 0 [] h).later (Dev.endStanding_out _ _ _ _), Dev.not_is_endStanding _ _ _ _, fun hp hw => ?_⟩
    have hended : ((d.finish x 0 []).onHif fun h => { h with standing := h.standing.filter fun t => !t.is p.desc }).Answers p.desc :=
      h.finish hp hw 0 []
    exact (Dev.finish_of_answers 0 [p.count] hended).earlier (Dev.finish_out d x 0 []) (by rw [Dev.finish_eq]; rfl)

theorem Dev.stopPost_eq (d : Dev) (x : Desc) (find : Option Standing) :
    d.stopPost x find = { d with hif := (d.stopPost x find).hif, out := (d.stopPost x find).out } := by
  cases find with
  | none => exact Dev.finish_eq _ _ _ _
  | some p =>
    rw [Dev.stopPost, Dev.endStanding_eq, Dev.finish_eq]

/-- A command that stops a post and does no more. -/
theorem State.stops_of_exec {s : State} {c : Instr} {x : Desc} {find : Option Standing}
    (hexec : exec c s = .next { s with dev := (s.dev.taken x).stopPost x find }) (h : s.dev.Answers x) :
    ∃ t, exec c s = .next t ∧ s.HostOnly t ∧ s.dev.Ends t.dev x find := by
  refine ⟨_, hexec, ?_, ?_⟩
  · show State.mk _ _ _ = State.mk _ _ _
    rw [Dev.stopPost_eq]
    rfl
  · have hends := Dev.Answers.ends (d := s.dev.taken x) h find
    cases find <;> exact hends

/-! ## Deliveries under way (R165, R193) -/

/-- Changes that agree on the channel that they find. -/
theorem Dev.onEnc_congr {d : Dev} {c : Nat} {f g : EncDyn → EncDyn} (h : ∀ y, d.enc? c = some y → f y = g y) :
    d.onEnc c f = d.onEnc c g := by
  rw [Dev.onEnc, Option.map_congr h, Dev.onEnc]

theorem Dev.enc_onEnc_id (d : Dev) (c k : Nat) : (d.onEnc c id).enc? k = d.enc? k := by
  by_cases hk : k = c
  · rw [hk, Dev.enc_onEnc_same, Option.map_id_apply]
  · exact Dev.enc_onEnc_other _ _ hk

theorem deliveries_nil (join : Bool) : deliveries [] join = ([], []) := by cases join <;> rfl

theorem EncDyn.units_nil {y : EncDyn} (h : y.units = []) : { y with units := [] } = y := by rw [← h]

theorem EncDyn.stats_nil {y : EncDyn} (h : y.stats = []) : { y with stats := [] } = y := by rw [← h]

/-- Where no unit waits nothing is delivered. -/
theorem Dev.deliverBsAll_of_idle {d : Dev} {c : Nat} (h : ∀ y, d.enc? c = some y → y.units = []) : d.deliverBsAll c = d.onEnc c id := by
  have hid : (d.onEnc c fun y => { y with units := [] }) = d.onEnc c id := Dev.onEnc_congr fun y hy => EncDyn.units_nil (h y hy)
  cases hp : d.standing? 0x30 (0x100 + c) with
  | none => exact (Dev.deliverBsAll_of_none hp).trans hid
  | some p =>
    rw [← hid, Dev.deliverBsAll, hp]
    cases hy : d.enc? c with
    | none => rfl
    | some y => simp only [h y hy, deliveries_nil, List.foldl_nil]

/-- Where no record of statistics waits nothing is delivered. -/
theorem Dev.deliverStatsAll_of_idle {d : Dev} {c : Nat} (h : ∀ y, d.enc? c = some y → y.stats = []) :
    d.deliverStatsAll c = d.onEnc c id := by
  have hid : (d.onEnc c fun y => { y with stats := [] }) = d.onEnc c id := Dev.onEnc_congr fun y hy => EncDyn.stats_nil (h y hy)
  cases hp : d.standing? 0x50 (0x100 + c) with
  | none => exact (Dev.deliverStatsAll_of_none hp).trans hid
  | some p =>
    rw [← hid, Dev.deliverStatsAll, hp]
    cases hy : d.enc? c with
    | none => rfl
    | some y =>
      simp only [h y hy, List.map_nil, deliveries_nil, List.foldl_nil]
      exact Dev.onEnc_congr fun z hz => by rw [h z hz, deliveries_nil]

/-- A command that stops a post after a delivery that has nothing to deliver. -/
theorem State.stops_of_exec_idle {s : State} {c : Instr} {x : Desc} {find : Option Standing}
    (hexec : exec c s = .next { s with dev := ((s.dev.taken x).onEnc x.chan id).stopPost x find }) (h : s.dev.Answers x) :
    ∃ t, exec c s = .next t ∧ t = { s with dev := { s.dev with hif := t.dev.hif, out := t.dev.out, enc := t.dev.enc } } ∧
      (∀ k, t.dev.enc? k = s.dev.enc? k) ∧ s.dev.Ends t.dev x find := by
  refine ⟨_, hexec, ?_, fun k => ?_, ?_⟩
  · show State.mk _ _ _ = State.mk _ _ _
    rw [Dev.stopPost_eq]
    rfl
  · dsimp only
    rw [Dev.stopPost_eq]
    exact Dev.enc_onEnc_id _ _ k
  · have hends := Dev.Answers.ends (d := (s.dev.taken x).onEnc x.chan id) h find
    cases find <;> exact hends

section
variable {s : State} {crew ring : Nat} {x : Desc}

theorem exec_bsStop (h : s.dev.IsDue crew ring 0x31 x) (hidle : ∀ y, s.dev.enc? x.chan = some y → y.units = []) :
    exec (.bsStop crew ring) s = .next { s with dev := ((s.dev.taken x).onEnc x.chan id).stopPost x (s.dev.standing? 0x30 x.object) } := by
  have hdel := Dev.deliverBsAll_of_idle (d := s.dev.taken x) hidle
  show execBsStop crew ring s = _
  rw [execBsStop, State.onDue_taken _ h]
  dsimp only
  rw [hdel]
  rfl

theorem exec_statsStop (h : s.dev.IsDue crew ring 0x51 x) (hidle : ∀ y, s.dev.enc? x.chan = some y → y.stats = []) :
    exec (.statsStop crew ring) s = .next { s with dev := ((s.dev.taken x).onEnc x.chan id).stopPost x (s.dev.standing? 0x50 x.object) } := by
  have hdel := Dev.deliverStatsAll_of_idle (d := s.dev.taken x) hidle
  show execStatsStop crew ring s = _
  rw [execStatsStop, State.onDue_taken _ h]
  dsimp only
  rw [hdel]
  rfl

end

/-- Settles O13: each post by what standing is, each stop by the post that it finds. -/
theorem postsAndStops : Obligations.PostsAndStops := by
  unfold Obligations.PostsAndStops
  intro ends
  have hends {s t : State} {x : Desc} {find : Option Standing} (h : s.dev.Ends t.dev x find) : ends s t x find := by
    cases find <;> exact h
  refine ⟨⟨?post, ?rplPost, ?audTxPost⟩, ?stop, ?encStop⟩
  case post =>
    intro s crew ring op c x hc h
    simp only [List.mem_cons, Prod.mk.injEq, List.not_mem_nil, or_false] at hc
    have hexec : exec c s = s.onDue crew ring op fun d x => d.stand x (postAux op d) := by
      rcases hc with ⟨rfl, rfl⟩ | ⟨rfl, rfl⟩ | ⟨rfl, rfl⟩ | ⟨rfl, rfl⟩ | ⟨rfl, rfl⟩ | ⟨rfl, rfl⟩ <;> rfl
    exact State.posts_of_exec (hexec.trans (State.onDue_taken _ h))
  case rplPost =>
    intro s crew ring x h
    obtain ⟨hseq, hlost, hkeep⟩ := Dev.logBegins ((s.dev.taken x).stand x [0, 0, 0]) x.crew rfl
    refine ⟨_, x.beginning s.dev.now [0, 0, 0], exec_rplPost h, ?_, rfl, rfl, rfl, hseq, hlost, fun a ha => (hkeep a ha).trans rfl⟩
    dsimp only
    rw [Dev.setFld_hif, Dev.setReg_hif]
    rfl
  case audTxPost =>
    intro s crew ring x h
    exact ⟨_, x.beginning s.dev.now [0, s.dev.playFrom x], exec_audTxPost h, rfl, not_mem_filter_ne _ _, not_mem_filter_ne _ _, rfl, rfl, rfl⟩
  case stop =>
    intro s crew ring op c x find hc h ha
    simp only [List.mem_cons, Prod.mk.injEq, List.not_mem_nil, or_false] at hc
    have hexec : exec c s = .next { s with dev := (s.dev.taken x).stopPost x find } := by
      rcases hc with ⟨rfl, rfl, rfl⟩ | ⟨rfl, rfl, rfl⟩ | ⟨rfl, rfl, rfl⟩
      · exact State.onDue_taken (fun d x => d.stopPost x (d.hif.standing.find? fun p =>
          p.desc.object = x.object && p.desc.tag = x.w 3 % 65536 && [0x40, 0x41, 0x42].contains p.desc.opcode)) h
      · exact State.onDue_taken (fun d x => d.stopPost x (d.crewStanding? 0x80 x.crew)) h
      · exact State.onDue_taken (fun d x => d.stopPost x (d.crewStanding? 0x82 x.crew)) h
    obtain ⟨t, ht, hhost, he⟩ := State.stops_of_exec hexec ha
    exact ⟨t, ht, hhost, hends he⟩
  case encStop =>
    intro s crew ring op c x find hc hidle h ha
    simp only [List.mem_cons, Prod.mk.injEq, List.not_mem_nil, or_false] at hc
    have hexec : exec c s = .next { s with dev := ((s.dev.taken x).onEnc x.chan id).stopPost x find } := by
      rcases hc with ⟨rfl, rfl, rfl⟩ | ⟨rfl, rfl, rfl⟩
      · exact exec_bsStop h fun y hy => (hidle y hy).1
      · exact exec_statsStop h fun y hy => (hidle y hy).2
    obtain ⟨t, ht, heq, henc, he⟩ := State.stops_of_exec_idle hexec ha
    exact ⟨t, ht, heq, henc, hends he⟩

end Sys2Proof.Machine
end

section
/-! PROOFS. Descriptors that wait for their object (R72, R159, R160, R245, R273, R285, R288). Settles O15. -/

namespace Sys2Proof.Machine

/-! ## Encode channels (R72, R159, R160, R288) -/

/-- A picture that is posted sets deadlines of the items that wait for it, and changes nothing else. -/
theorem Dev.picTarget_eq (d : Dev) (c : Nat) (x : Desc) : d.picTarget c x = { d with cox := (d.picTarget c x).cox } := by
  unfold Dev.picTarget
  split <;> rfl

/-- An item whose deadlines are set keeps them. -/
theorem Dev.mem_picTarget {d : Dev} {i : Item} (hi : i ∈ d.cox.items) (ht : i.target ≠ noTarget) (c : Nat) (x : Desc) :
    i ∈ (d.picTarget c x).cox.items := by
  unfold Dev.picTarget
  split
  · refine List.mem_map.mpr ⟨i, hi, if_neg ?_⟩
    simp [ht]
  · exact hi

section
variable {s : State} {crew ring : Nat} {x : Desc} {y : EncDyn}

/-- A due descriptor that joins what a channel waits to do shows nothing, and changes the host side and that channel alone. -/
theorem State.joinsEnc_of_exec {c : Instr} {f : EncDyn → EncDyn}
    (hexec : exec c s = .next { s with dev := (s.dev.taken x).onEnc x.chan f }) (hy : s.dev.enc? x.chan = some y) :
    ∃ t, exec c s = .next t ∧ t.dev.out = s.dev.out ∧ t = { s with dev := { s.dev with hif := t.dev.hif, enc := t.dev.enc } } ∧
      t.dev.enc? x.chan = some (f y) :=
  ⟨_, hexec, rfl, rfl, (Dev.enc_onEnc_same _ _ _).trans (congrArg (Option.map f) hy)⟩

theorem exec_forceIrap (h : s.dev.IsDue crew ring 0x10 x) : exec (.forceIrap crew ring) s =
    .next { s with dev := ((s.dev.taken x).onEnc x.chan fun y => { y with force := y.force ++ [⟨x, x.w 3 % 4, none⟩] }) } :=
  State.onDue_taken (fun d x => d.onEnc x.chan fun y => { y with force := y.force ++ [(⟨x, x.w 3 % 4, none⟩ : ForceReq)] }) h

theorem exec_setHdr (h : s.dev.IsDue crew ring 0x11 x) : exec (.setHdr crew ring) s =
    .next { s with dev := ((s.dev.taken x).onEnc x.chan fun y => { y with hdrNext := y.hdrNext ++ [x] }) } :=
  State.onDue_taken (fun d x => d.onEnc x.chan fun y => { y with hdrNext := y.hdrNext ++ [x] }) h

theorem exec_picPost (h : s.dev.IsDue crew ring 0x28 x) : ∃ n, exec (.picPost crew ring) s =
    .next { s with dev := ((((s.dev.taken x).picTarget x.chan x).emit (.hostRead x.crew (x.addr 3) n)).onEnc x.chan fun y =>
      { y with posts := y.posts ++ [x] }) } := by
  show ∃ n, execPicPost crew ring s = _
  rw [execPicPost, State.onDue_taken _ h]
  exact ⟨_, rfl⟩

/-- What a host picture that is posted shows and changes. -/
theorem picPost_joins (h : s.dev.IsDue crew ring 0x28 x) (hy : s.dev.enc? x.chan = some y) :
    ∃ t n, exec (.picPost crew ring) s = .next t ∧ s.dev.ShowsOnly t.dev (.hostRead x.crew (x.w 3 + x.w 4 * 2 ^ 32) n) ∧
      t = { s with dev := { s.dev with hif := t.dev.hif, enc := t.dev.enc, cox := t.dev.cox, out := t.dev.out } } ∧
      (∀ i ∈ s.dev.cox.items, i.target ≠ noTarget → i ∈ t.dev.cox.items) ∧
      t.dev.enc? x.chan = some { y with posts := y.posts ++ [x] } := by
  obtain ⟨n, hexec⟩ := exec_picPost h
  have hpic := Dev.picTarget_eq (s.dev.taken x) x.chan x
  refine ⟨_, n, hexec, ?_, ?_, fun i hi ht => Dev.mem_picTarget (d := s.dev.taken x) hi ht x.chan x, ?_⟩
  · dsimp only
    rw [hpic]
    rfl
  · dsimp only
    rw [hpic]
    rfl
  · dsimp only
    rw [hpic, Dev.enc_onEnc_same]
    exact congrArg (Option.map _) hy

end

/-! ## Programmes (R273, R285) -/

theorem Dev.prog_onProg_same (d : Dev) (p : Nat) (f : ProgDyn → ProgDyn) : (d.onProg p f).prog? p = (d.prog? p).map f :=
  Tab.get_put_same _ _ _

/-- A layer post as it is taken, of a programme with some settings: it names its layer and the frame that its effect intends. -/
def Desc.layerPost (x : Desc) (g : ProgCfg) : Post := ⟨x, x.w 3 % 16, firstFlip g.num g.den x.effect, none, none, false, []⟩

section
variable {s : State} {crew ring : Nat} {x : Desc} {y : ProgDyn}

theorem exec_layerMove (h : s.dev.IsDue crew ring 0x21 x) : exec (.layerMove crew ring) s =
    .next { s with dev := ((s.dev.taken x).onProg x.prog fun y => { y with moves := y.moves ++ [x] }) } :=
  State.onDue_taken (fun d x => d.onProg x.prog fun y => { y with moves := y.moves ++ [x] }) h

theorem exec_layerPost (h : (s.dev.hif.due ++ s.dev.hif.staged).find?
    (fun y => y.crew = crew && y.ring = ring && y.opcode = 0x20 && !y.waits) = some x) (hy : s.dev.prog? x.prog = some y) :
    exec (.layerPost crew ring) s =
      .next { s with dev := ((s.dev.withdrawn x).onProg x.prog fun z => { z with posts := z.posts ++ [x.layerPost y.cfg] }) } := by
  show execLayerPost crew ring s = _
  rw [execLayerPost, State.lift_eq]
  simp only [h, hy]
  rfl

end

/-! ## Decode channels (R245) -/

theorem Dev.onBuffers_eq (d : Dev) (p : Nat) (f : Buffer → Buffer) : d.onBuffers p f = { d with pools := (d.onBuffers p f).pools } := rfl

/-- A channel that waits for the next picture at which it can start (R245). -/
def DecDyn.resynced (y : DecDyn) (x : Desc) : DecDyn :=
  { y with start := none, mismatch := false, episode := none, refreshing := false, resync := y.resync ++ [x] }

theorem exec_decResync {s : State} {crew ring : Nat} {x : Desc} (h : s.dev.IsDue crew ring 0x19 x) : exec (.decResync crew ring) s =
    .next { s with dev := (((s.dev.taken x).onBuffers (256 + (x.object - 0x200)) fun b =>
      { b with mark := 0, stands := [], outPending := false }).onDec (x.object - 0x200) (·.resynced x)) } := by
  show execDecResync crew ring s = _
  rw [execDecResync, State.onDue_taken _ h]
  rfl

/-- Settles O15, by the change of its object that each descriptor is. -/
theorem descriptorsJoinObjects : Obligations.DescriptorsJoinObjects := by
  unfold Obligations.DescriptorsJoinObjects
  refine ⟨fun s crew ring x y h hy => State.joinsEnc_of_exec (exec_forceIrap h) hy, fun s crew ring x y h hy => ?setHdr,
    fun s crew ring x y h hy => picPost_joins h hy, fun s crew ring x y h hy => ?layerMove, fun s crew ring x y h hy => ?layerPost,
    fun s crew ring x y h hy => ?decResync⟩
  case setHdr =>
    obtain ⟨t, ht, -, heq, henc⟩ := State.joinsEnc_of_exec (exec_setHdr h) hy
    exact ⟨t, ht, heq, henc⟩
  case layerMove =>
    exact ⟨_, exec_layerMove h, rfl, (Dev.prog_onProg_same _ _ _).trans (congrArg (Option.map _) hy)⟩
  case layerPost =>
    exact ⟨_, x.layerPost y.cfg, exec_layerPost h hy, rfl, not_mem_filter_ne _ _,
      (Dev.prog_onProg_same _ _ _).trans (congrArg (Option.map _) hy), rfl, rfl, rfl, rfl⟩
  case decResync =>
    refine ⟨_, exec_decResync h, ?_, (Dev.dec_onDec_same _ _ _).trans (congrArg (Option.map (DecDyn.resynced · x)) hy)⟩
    dsimp only
    rw [Dev.onBuffers_eq]
    rfl

end Sys2Proof.Machine
end

section
/-! PROOFS. Pixel arithmetic and composition (R167, R254, R258, R261–R263, R265, R266, R278): rounding and clamping, the layers over a place, the
strips that are kept, and the settings that a frame takes down. Settles O60. -/

namespace Sys2Proof.Machine

/-! ## Rounding and clamping (R258) -/

theorem clampTo_le (top : Nat) (x : Int) : clampTo top x ≤ top := Nat.min_le_left _ _

theorem clampTo_natCast {top n : Nat} (h : n ≤ top) : clampTo top n = n := Nat.min_eq_right h

theorem clamp20_lt (x : Int) : clamp20 x < 2 ^ 20 := Nat.lt_succ_of_le (clampTo_le _ x)

theorem clamp20_natCast {n : Nat} (h : n < 2 ^ 20) : clamp20 n = n := clampTo_natCast (Nat.le_of_lt_succ h)

/-- A whole multiple of the divisor is not rounded. -/
theorem halfUp_mul_self (n : Int) {d : Nat} (h : 0 < d) : halfUp (n * d) d = n := by
  have hd : (0 : Int) < d := Int.natCast_pos.mpr h
  have hsum : 2 * (n * d) + d = d + ((2 * d : Nat) : Int) * n := by push_cast; ring
  rw [halfUp, hsum, Int.add_mul_ediv_left _ _ (by omega), Int.ediv_eq_zero_of_lt hd.le (by omega), Int.zero_add]

/-- A component of 20 bits that was multiplied by the divisor comes back as it was. -/
theorem clamp20_halfUp_mul {c d : Nat} (hc : c < 2 ^ 20) (hd : 0 < d) : clamp20 (halfUp ((c * d : Nat) : Int) d) = c := by
  rw [Int.natCast_mul, halfUp_mul_self _ hd, clamp20_natCast hc]

/-! ## The stages of a pixel (R167, R261–R263, R265) -/

theorem Dev.dither_lt (d : Dev) (p k x y : Nat) (strip : List (List Nat)) (v : Nat) :
    d.dither p k x y strip v < 2 ^ d.fld (Reg.cmpProgOut p) F.cmpProgOut_depth :=
  (Nat.min_le_right _ _).trans_lt (Nat.sub_lt (Nat.two_pow_pos _) Nat.one_pos)

theorem nibble_lt (factor ctu cols rows : Nat) (a : Nat → Nat → Nat) (x y : Nat) : nibble factor ctu cols rows a x y < 16 :=
  Nat.lt_succ_of_le (clampTo_le 15 _)

theorem blend_opaque {c : Nat} (below : Nat) (hc : c < 2 ^ 20) : blend false 1023 4095 c below = c := by
  have hsum : c * (4095 * 1023) + below * (4095 * 1023 - 4095 * 1023) = c * (4095 * 1023) := by rw [Nat.sub_self, Nat.mul_zero, Nat.add_zero]
  show clamp20 (halfUp ((c * (4095 * 1023) + below * (4095 * 1023 - 4095 * 1023) : Nat) : Int) (4095 * 1023)) = c
  rw [hsum]
  exact clamp20_halfUp_mul hc (by decide)

theorem blend_transparent (premult : Bool) (alpha c : Nat) {below : Nat} (hb : below < 2 ^ 20) : blend premult 0 alpha c below = below := by
  have hlayer : (if premult then c * 0 * 4095 else c * (alpha * 0)) = 0 := by cases premult <;> simp
  rw [blend, hlayer, Nat.mul_zero, Nat.sub_zero, Nat.zero_add]
  exact clamp20_halfUp_mul hb (by decide)

theorem gamut_lt (m : List Int) (v : Nat × Nat × Nat) : (gamut m v).1 < 2 ^ 20 ∧ (gamut m v).2.1 < 2 ^ 20 ∧ (gamut m v).2.2 < 2 ^ 20 :=
  ⟨clamp20_lt _, clamp20_lt _, clamp20_lt _⟩

/-- The coefficients of IDENTITY: 1 on the diagonal, in units of 1/16,384. -/
theorem Dev.gamutOf_identity (d : Dev) (slot : Nat) : d.gamutOf 0 slot = [16384, 0, 0, 0, 16384, 0, 0, 0, 16384] := by
  rw [Dev.gamutOf, if_neg (by decide)]
  decide

theorem gamut_identity {r g b : Nat} (hr : r < 2 ^ 20) (hg : g < 2 ^ 20) (hb : b < 2 ^ 20) :
    gamut [16384, 0, 0, 0, 16384, 0, 0, 0, 16384] (r, g, b) = (r, g, b) := by
  have row {c : Nat} (hc : c < 2 ^ 20) {n : Int} (hn : n = ((c * 16384 : Nat) : Int)) : clamp20 (halfUp n 16384) = c :=
    hn ▸ clamp20_halfUp_mul hc (by decide)
  refine Prod.ext (row hr ?_) (Prod.ext (row hg ?_) (row hb ?_)) <;> simp [Int.mul_comm]

theorem Dev.toneMap_fst_lt (d : Dev) {mode : Nat} (slot : Nat) (v : Nat × Nat × Nat) (h : mode = 1 ∨ mode = 2) :
    (d.toneMap mode slot v).1 < 2 ^ 20 := by
  rw [Dev.toneMap, if_neg (by omega)]
  dsimp only
  generalize (if mode = 1 then lightOf v else max v.1 (max v.2.1 v.2.2)) = m
  split_ifs
  · exact Nat.two_pow_pos 20
  · exact clamp20_lt _

/-! ## A place that no layer covers (R254) -/

/-- A layer whose DST does not cover the place is passed over. -/
theorem Dev.composedAt_of_uncovered (d : Dev) (p k px py : Nat) (x : ProgDyn) {layers : List (LayerCfg × Shown)}
    (h : ∀ q ∈ layers, ¬((x.originOf k q.1).1 ≤ px ∧ (px : Int) < (x.originOf k q.1).1 + q.1.dstW ∧
      (x.originOf k q.1).2 ≤ py ∧ (py : Int) < (x.originOf k q.1).2 + q.1.dstH)) :
    d.composedAt p k x layers px py = d.backgroundOf p := by
  refine List.foldlRecOn (motive := (· = d.backgroundOf p)) layers _ rfl fun below hb q hq => ?_
  have hout := h q hq
  exact (if_neg (by omega)).trans hb

/-! ## Strips that are kept (R278) -/

/-- The strips that a programme in operation keeps. -/
def Dev.stripsKept (d : Dev) (p : Nat) : Option (List StripImage) := (d.prog? p).map (·.images)

theorem Dev.stripsKept_of_cmp {d e : Dev} (h : e.cmp = d.cmp) (p : Nat) : e.stripsKept p = d.stripsKept p := by
  rw [Dev.stripsKept, Dev.prog?, h, ← Dev.prog?, ← Dev.stripsKept]

/-- A change of a programme that does not change its strips keeps them. -/
@[simp] theorem Dev.stripsKept_onProg (d : Dev) (p : Nat) {f : ProgDyn → ProgDyn} (h : ∀ x, (f x).images = x.images) :
    (d.onProg p f).stripsKept p = d.stripsKept p := by
  rw [Dev.stripsKept, Dev.prog_onProg_same, Option.map_map, Dev.stripsKept]
  exact congrArg (Option.map · _) (funext h)

@[simp] theorem Dev.stripsKept_addFld (d : Dev) (a : Nat) (f : Fld) (n p : Nat) : (d.addFld a f n).stripsKept p = d.stripsKept p :=
  Dev.stripsKept_of_cmp (Dev.addFld_cmp d a f n) p

@[simp] theorem Dev.stripsKept_recordFrom (d : Dev) (due c kind sub obj : Nat) (data : List Nat) (p : Nat) :
    (d.recordFrom due c kind sub obj data).stripsKept p = d.stripsKept p := by
  refine Dev.stripsKept_of_cmp ?_ p
  unfold Dev.recordFrom
  split
  · rw [Dev.record_eq]
  · rfl

@[simp] theorem Dev.stripsKept_progEvent (d : Dev) (p cause k mask n q : Nat) :
    (d.progEvent p cause k mask n).stripsKept q = d.stripsKept q :=
  Dev.stripsKept_of_cmp (by rw [Dev.progEvent, Dev.postEvent_eq]) q

@[simp] theorem Dev.stripsKept_markFrame (d : Dev) (p k cause mask : Nat) : (d.markFrame p k cause mask).stripsKept p = d.stripsKept p := by
  unfold Dev.markFrame
  split
  case h_1 => rfl
  case h_2 =>
    split
    case h_1 => split_ifs <;> simp
    case h_2 => simp
    case h_3 => simp

@[simp] theorem Dev.stripsKept_frameComposed (d : Dev) (p k : Nat) : (d.frameComposed p k).stripsKept p = d.stripsKept p := by
  unfold Dev.frameComposed
  split
  case h_1 => rfl
  case h_2 =>
    dsimp only
    split
    case h_1 => simp
    case h_2 => split_ifs <;> simp

/-- A strip that is over leaves the strips that are kept as they were. -/
theorem Dev.stripsKept_stripOver (d : Dev) (p k b crc : Nat) (held : Bool) : (d.stripOver p k b crc held).stripsKept p = d.stripsKept p := by
  unfold Dev.stripOver
  split
  case h_1 => rfl
  case h_2 =>
    dsimp only
    split_ifs <;> simp

/-- A strip that has been kept is the one found for its frame and place. -/
theorem Dev.image_keepStrip {d : Dev} {p : Nat} {x : ProgDyn} (h : d.prog? p = some x) (i : StripImage) :
    ∃ y, (d.keepStrip p i).prog? p = some y ∧ y.image? i.k i.b = some i := by
  rw [Dev.keepStrip, Dev.prog_onProg_same, h]
  exact ⟨_, rfl, List.find?_cons_of_pos (by simp)⟩

/-- What is found among the strips that are kept is found after any change that keeps them. -/
theorem Dev.image_of_stripsKept {d e : Dev} {p : Nat} (h : e.stripsKept p = d.stripsKept p) {x : ProgDyn} (hx : d.prog? p = some x) :
    ∃ y, e.prog? p = some y ∧ ∀ k b, y.image? k b = x.image? k b := by
  rw [Dev.stripsKept, Dev.stripsKept, hx] at h
  obtain ⟨y, hy, himages⟩ := Option.map_eq_some_iff.mp h
  exact ⟨y, hy, fun k b => by rw [ProgDyn.image?, himages, ← ProgDyn.image?]⟩

/-- A strip that is held is kept as the co-located strip of the frame before. -/
theorem Dev.image_stripHeld {d : Dev} {p k b : Nat} {x : ProgDyn} {i : StripImage} (hx : d.prog? p = some x) (hi : x.image? (k - 1) b = some i) :
    ∃ y, (d.stripHeld p k b).prog? p = some y ∧ y.image? k b = some { i with k := k } := by
  have hplace : i.b = b := by
    have := List.find?_some hi
    simp only [Bool.and_eq_true, decide_eq_true_eq] at this
    exact this.2
  obtain ⟨y, hy, hyi⟩ := Dev.image_keepStrip hx { i with k := k }
  obtain ⟨z, hz, himage⟩ := Dev.image_of_stripsKept (Dev.stripsKept_stripOver (d.keepStrip p { i with k := k }) p k b i.crc true) hy
  have hstep : d.stripHeld p k b = (d.keepStrip p { i with k := k }).stripOver p k b i.crc true := by
    simp only [Dev.stripHeld, hx, Option.bind_some, hi]
  refine ⟨z, hstep ▸ hz, ?_⟩
  rw [himage, ← hplace]
  exact hyi

/-! ## The settings of a frame (R266) -/

/-- Writing a word of its own to each of a list of registers. -/
theorem Dev.reg_foldl_setReg (word : Nat → Word) {l : List Nat} {a : Nat} (h : a ∈ l) (d : Dev) :
    ((l.map fun b => (b, word b)).foldl (fun d q => d.setReg q.1 q.2) d).reg a = word a := by
  induction l using List.reverseRecOn with
  | nil => exact absurd h List.not_mem_nil
  | append_singleton r b ih =>
    rw [List.map_append, List.foldl_append]
    show (Dev.setReg _ b (word b)).reg a = word a
    by_cases hab : a = b
    · rw [hab, Dev.reg_setReg_same]
    · rw [Dev.reg_setReg_other _ _ hab, ih ((List.mem_append.mp h).resolve_right (by simpa using hab))]

/-- What has been taken down for a frame is what is found for it: of its registers, the words that they then hold. -/
theorem Dev.look_takeLook {d : Dev} {p : Nat} {x : ProgDyn} (h : d.prog? p = some x) (k : Nat) :
    ∃ w : Look, (((d.takeLook p k).prog? p).bind fun y => y.looks.find? fun o => o.k = k) = some w ∧
      w.words = (x.lookRegs p).map fun a => (a, d.reg a) := by
  rw [Dev.takeLook, Dev.prog_onProg_same, h]
  simp only [Option.map_some, Option.bind_some, List.take_succ_cons, List.find?_cons, decide_true]
  exact ⟨_, rfl, rfl⟩

/-- A register that a frame takes down reads, as that frame sees it, the word that was taken down. -/
theorem Dev.reg_seen {d : Dev} {p k a : Nat} {w : Look} (hw : ((d.prog? p).bind fun x => x.looks.find? fun o => o.k = k) = some w)
    {l : List Nat} {word : Nat → Word} (hl : w.words = l.map fun b => (b, word b)) (ha : a ∈ l) : (d.seen p k).reg a = word a := by
  simp only [Dev.seen, hw, Dev.onCmp_read_reg, hl]
  exact Dev.reg_foldl_setReg word ha d

/-- Settles O60, by the stages of a pixel, the fold over the layers, the strips that are kept and the words that a frame takes down. -/
theorem pixelArithmetic : Obligations.PixelArithmetic := by
  refine ⟨Dev.dither_lt, nibble_lt, fun _ below hc => blend_opaque below hc, fun premult alpha c _ hb => blend_transparent premult alpha c hb,
    gamut_lt, fun d _ slot v hm => d.toneMap_fst_lt slot v hm, fun d slot r g b hr hg hb => ?identity,
    fun d p k px py x _ h => d.composedAt_of_uncovered p k px py x h, fun _ _ _ _ _ _ hx hi => Dev.image_stripHeld hx hi,
    fun d p k a x r hx ha => ?seen⟩
  case identity => rw [Dev.gamutOf_identity, gamut_identity hr hg hb]
  case seen =>
    obtain ⟨w, hw, hwords⟩ := Dev.look_takeLook hx k
    exact Dev.reg_seen (d := { d.takeLook p k with regs := r }) hw hwords ha

end Sys2Proof.Machine
end

section
/-! PROOFS. PROG_QUERY and the counts of its programme (R289). Settles O10. -/

namespace Sys2Proof.Machine

/-- The counts are those of the programme that the descriptor names, and each wraps. -/
theorem exec_progQuery {s : State} {crew ring : Nat} {x : Desc} {y : ProgDyn} (h : s.dev.IsDue crew ring 0x29 x)
    (hy : s.dev.prog? (x.object - 0x240) = some y) :
    exec (.progQuery crew ring) s = .next { s with dev := ((s.dev.taken x).finish x 0
      [y.frames % 2 ^ 32, y.held % 2 ^ 32, y.postsHeld % 2 ^ 32, y.episodes % 2 ^ 16 * 2 ^ 16 + y.darks % 2 ^ 16]) } := by
  have hprog : (s.dev.taken x).prog? x.prog = some y := hy
  show execProgQuery crew ring s = _
  rw [execProgQuery, State.onDue_taken _ h]
  simp only [hprog, pack_halves]
  rfl

/-- Settles O10, by the completion that the query is. -/
theorem progQueryCounts : Obligations.ProgQueryCounts :=
  fun _ _ _ _ _ h ha hy => State.completes_of_exec (exec_progQuery h hy) ha

end Sys2Proof.Machine
end

section
/-! PROOFS. AES3 inputs, TDM ports, the house clock, ASRC channels and the delay of a group (R296, R297, R301, R306–R308, R313). Settles
O46. What an operation leaves is said by lemmas over any address and cited by `rw`: `rfl` between devices at a given address would evaluate
the reset value of its register. -/

namespace Sys2Proof.Machine

/-! ## Registers and the audio block -/

theorem Dev.KeepsRegs.trans {d e t : Dev} {l : List Nat} (h : d.KeepsRegs e l) (h' : e.KeepsRegs t l) : d.KeepsRegs t l :=
  fun a ha => (h' a ha).trans (h a ha)

theorem Dev.keepsRegs_setFld (d : Dev) (a : Nat) (f : Fld) (v : Nat) : d.KeepsRegs (d.setFld a f v) [a] :=
  fun _ hb => Dev.reg_setFld_other d f v (List.ne_of_not_mem_cons hb)

/-- Nothing changes but registers and the audio block beside them. -/
def Dev.AudioChanged (d e : Dev) : Prop := e = { d with regs := e.regs, aud := e.aud }

theorem Dev.AudioChanged.trans {d e t : Dev} (h : d.AudioChanged e) (h' : e.AudioChanged t) : d.AudioChanged t := by
  unfold Dev.AudioChanged at h h' ⊢
  rw [h', h]

theorem Dev.AudioChanged.state {s : State} {e : Dev} (h : s.dev.AudioChanged e) :
    ({ s with dev := e } : State) = { s with dev := { s.dev with regs := e.regs, aud := e.aud } } :=
  congrArg (fun d => { s with dev := d }) h

theorem Dev.audioChanged_setFld (d : Dev) (a : Nat) (f : Fld) (v : Nat) : d.AudioChanged (d.setFld a f v) := rfl

theorem Dev.audioChanged_onAud (d : Dev) (f : Aud → Aud) : d.AudioChanged (d.onAud f) := rfl

/-- Nothing changes but registers, the audio block beside them, and what is shown. -/
theorem Dev.emit_of_audioChanged {d e : Dev} (h : d.AudioChanged e) (o : Output) :
    e.emit o = { d with regs := (e.emit o).regs, aud := (e.emit o).aud, out := (e.emit o).out } := by
  unfold Dev.AudioChanged at h
  rw [h]
  rfl

/-- Nothing changes but registers and the ramps of outputs. -/
def Dev.RampsChanged (d e : Dev) : Prop := e = { d with regs := e.regs, aud := { d.aud with ramps := e.aud.ramps } }

theorem Dev.RampsChanged.refl (d : Dev) : d.RampsChanged d := rfl

theorem Dev.RampsChanged.trans {d e t : Dev} (h : d.RampsChanged e) (h' : e.RampsChanged t) : d.RampsChanged t := by
  unfold Dev.RampsChanged at h h' ⊢
  rw [h', h]

theorem Dev.RampsChanged.now {d e : Dev} (h : d.RampsChanged e) : e.now = d.now := by
  unfold Dev.RampsChanged at h
  rw [h]
  rfl

theorem Dev.RampsChanged.aud {d e : Dev} (h : d.RampsChanged e) : e.aud = { d.aud with ramps := e.aud.ramps } := congrArg Dev.aud h

theorem Dev.RampsChanged.asrc {d e : Dev} (h : d.RampsChanged e) (a : Nat) : e.asrc? a = d.asrc? a := by
  rw [Dev.asrc?, h.aud, Dev.asrc?]

theorem Dev.RampsChanged.audioChanged {d e : Dev} (h : d.RampsChanged e) : d.AudioChanged e := by
  unfold Dev.RampsChanged at h
  rw [h]
  rfl

/-- A fold establishes for a member of its list what that member's step gives and no other member's step takes away. -/
theorem Dev.foldl_establishes {α : Type} {P : Dev → Prop} {f : Dev → α → Dev} {l : List α} {a : α} (ha : a ∈ l) (hset : ∀ d, P (f d a))
    (hkeep : ∀ d b, b ∈ l → b ≠ a → P d → P (f d b)) (d : Dev) : P (l.foldl f d) := by
  induction l using List.reverseRecOn with
  | nil => exact absurd ha List.not_mem_nil
  | append_singleton r b ih =>
    rw [List.foldl_append, List.foldl_cons, List.foldl_nil]
    by_cases hb : b = a
    · exact hb ▸ hset _
    · have hr : a ∈ r := (List.mem_append.mp ha).resolve_right fun h => hb (List.mem_singleton.mp h).symm
      exact hkeep _ b (by simp) hb (ih hr fun d c hc => hkeep d c (List.mem_append_left _ hc))

/-! ## Locks of sources (R296, R297, R301) -/

/-- A source that has relocked is in no stretch without lock. -/
theorem Dev.head_unlocked_relock (d : Dev) (src u : Nat) : (Tab.get noUnlocks (d.relock src).aud.unlocked src).head? ≠ some (u, none) := by
  simp only [Dev.relock, Dev.onAud_aud, Tab.get_upd_same]
  split
  · simp
  · next hl =>
    intro h
    obtain ⟨r, hr⟩ := List.head?_eq_some_iff.mp h
    exact hl _ _ hr

/-- A source that has lost lock is in a stretch without it. -/
theorem Dev.head_unlocked_unlock (d : Dev) (src : Nat) : ∃ u, (Tab.get noUnlocks (d.unlock src).aud.unlocked src).head? = some (u, none) := by
  simp only [Dev.unlock, Dev.onAud_aud, Tab.get_upd_same]
  split
  · next u _ hl => exact ⟨u, by rw [hl]; rfl⟩
  · exact ⟨d.now, rfl⟩

/-! ## AES3_LOCK and AES3_LOCK_LOSS -/

theorem exec_aes3Lock {s : State} {input : Nat} (rate : Nat) (hi : input < 32)
    (he : s.dev.flag (Reg.audAesiCfg input) F.audAesiCfg_enable = true) : exec (.aes3Lock input rate) s =
      .next { s with dev := (((s.dev.relock input).setFld (Reg.audAesiStatus input) F.audAesiStatus_lock 1).setFld
        (Reg.audAesiStatus input) F.audAesiStatus_rate (min 7 rate)) } := by
  show execAes3Lock input rate s = _
  rw [execAes3Lock, State.lift_eq, if_neg (by simp [he, hi])]

theorem exec_aes3LockLoss {s : State} {input : Nat} (hi : input < 32)
    (hl : s.dev.flag (Reg.audAesiStatus input) F.audAesiStatus_lock = true) : exec (.aes3LockLoss input) s =
      .next { s with dev := ((s.dev.unlock input).setFld (Reg.audAesiStatus input) F.audAesiStatus_lock 0).onAud fun a =>
        { a with cs := Tab.put noCs a.cs input (noCs 0) } } := by
  show execAes3LockLoss input s = _
  rw [execAes3LockLoss, State.lift_eq, if_neg (by simp [hl, hi])]

/-- An enabled AES3 input locks at the rate measured. -/
theorem aes3Lock_locks {s : State} {input rate : Nat} (hi : input < 32)
    (he : s.dev.flag (Reg.audAesiCfg input) F.audAesiCfg_enable = true) (hr : rate < 8) :
    ∃ t, exec (.aes3Lock input rate) s = .next t ∧ t.dev.flag (Reg.audAesiStatus input) F.audAesiStatus_lock = true ∧
      t.dev.fld (Reg.audAesiStatus input) F.audAesiStatus_rate = rate ∧ s.dev.KeepsRegs t.dev [Reg.audAesiStatus input] ∧
      (∀ u, (Tab.get noUnlocks t.dev.aud.unlocked input).head? ≠ some (u, none)) ∧
      t = { s with dev := { s.dev with regs := t.dev.regs, aud := t.dev.aud } } := by
  refine ⟨_, exec_aes3Lock rate hi he, ?_, ?_, ?_, fun u => ?_, Dev.AudioChanged.state ?_⟩
  · rw [Dev.flag_setFld_field _ _ ⟨by decide, by decide⟩ (by decide), Dev.flag_setFld_same _ _ ⟨by decide, by decide⟩ rfl]
    rfl
  · rw [Dev.fld_setFld_same _ _ ⟨by decide, by decide⟩, Nat.min_eq_right (by omega)]
    exact Nat.mod_eq_of_lt hr
  · exact Dev.KeepsRegs.trans (Dev.keepsRegs_setFld (s.dev.relock input) _ _ _) (Dev.keepsRegs_setFld _ _ _ _)
  · rw [Dev.setFld_aud, Dev.setFld_aud]
    exact s.dev.head_unlocked_relock input u
  · exact ((Dev.audioChanged_onAud s.dev _).trans (Dev.audioChanged_setFld _ _ _ _)).trans (Dev.audioChanged_setFld _ _ _ _)

/-- A lock lost is shown. -/
theorem aes3LockLoss_unlocks {s : State} {input : Nat} (hi : input < 32)
    (hl : s.dev.flag (Reg.audAesiStatus input) F.audAesiStatus_lock = true) :
    ∃ t u, exec (.aes3LockLoss input) s = .next t ∧ t.dev.flag (Reg.audAesiStatus input) F.audAesiStatus_lock = false ∧
      (Tab.get noUnlocks t.dev.aud.unlocked input).head? = some (u, none) ∧ s.dev.KeepsRegs t.dev [Reg.audAesiStatus input] ∧
      t = { s with dev := { s.dev with regs := t.dev.regs, aud := t.dev.aud } } := by
  obtain ⟨u, hhead⟩ := s.dev.head_unlocked_unlock input
  refine ⟨_, u, exec_aes3LockLoss hi hl, ?_, ?_, ?_, Dev.AudioChanged.state ?_⟩
  · rw [Dev.flag, Dev.onAud_read_reg, ← Dev.flag, Dev.flag_setFld_same _ _ ⟨by decide, by decide⟩ rfl]
    rfl
  · rw [Dev.onAud_aud, Dev.setFld_aud]
    exact hhead
  · intro a ha
    rw [Dev.onAud_read_reg]
    exact Dev.keepsRegs_setFld (s.dev.unlock input) _ _ _ a ha
  · exact ((Dev.audioChanged_onAud s.dev _).trans (Dev.audioChanged_setFld _ _ _ _)).trans (Dev.audioChanged_onAud _ _)

/-! ## Channel-status blocks (R296) -/

/-- The register of a word of the channel status of subframe A, or B. -/
def aesiCs (i : Nat) (b : Bool) (w : Nat) : Nat := if b then Reg.audAesiCsB i w else Reg.audAesiCsA i w

/-- The words of a block go into their registers. -/
def Dev.csShown (d : Dev) (i : Nat) (b : Bool) (bytes : List Nat) : Dev :=
  (List.range 6).foldl (fun d w => d.setReg (aesiCs i b w) (BitVec.ofNat 32 (leNat ((bytes.drop (4 * w)).take 4)))) d

theorem Dev.csBlock_shown (d : Dev) (i : Nat) {b : Bool} {bits : List Nat} (hpro : (csBytes bits).getD 0 0 % 2 = 0) :
    d.csBlock i b bits =
      (d.csShown i b (csBytes bits)).setFld (Reg.audAesiStatus i) (if b then F.audAesiStatus_proB else F.audAesiStatus_proA) 0 := by
  have hc : ¬(csBytes bits).getD 0 0 % 2 = 1 := by rw [hpro]; decide
  unfold Dev.csBlock
  dsimp only
  rw [if_neg fun h => hc h.1, decide_eq_false hc]
  rfl

/-- A block changes the registers of its subframe and, in the status of its input, either the count of CRCC errors or the form. -/
theorem Dev.csBlock_cases (d : Dev) (i : Nat) (b : Bool) (bits : List Nat) :
    d.csBlock i b bits = d.addFld (Reg.audAesiStatus i) F.audAesiStatus_crcErr 1 ∨
      ∃ v, d.csBlock i b bits =
        (d.csShown i b (csBytes bits)).setFld (Reg.audAesiStatus i) (if b then F.audAesiStatus_proB else F.audAesiStatus_proA) v := by
  unfold Dev.csBlock
  dsimp only
  split
  · exact .inl rfl
  · exact .inr ⟨_, rfl⟩

theorem Dev.csShown_eq (d : Dev) (i : Nat) (b : Bool) (bytes : List Nat) :
    d.csShown i b bytes = { d with regs := (d.csShown i b bytes).regs } :=
  List.foldlRecOn (motive := fun e : Dev => e = { d with regs := e.regs }) (List.range 6) _ rfl fun e he _ _ => by
    rw [Dev.setReg_eq, he]

theorem Dev.reg_csShown_other (d : Dev) {i a : Nat} {b : Bool} (bytes : List Nat) (h : ∀ w < 6, a ≠ aesiCs i b w) :
    (d.csShown i b bytes).reg a = d.reg a :=
  Dev.foldl_keeps (fun e => e.reg a) (fun e w hw => Dev.reg_setReg_other e _ (h w (List.mem_range.mp hw))) d

theorem Dev.reg_csShown (d : Dev) {i w : Nat} {b : Bool} (bytes : List Nat) (hw : w < 6) :
    (d.csShown i b bytes).reg (aesiCs i b w) = BitVec.ofNat 32 (leNat ((bytes.drop (4 * w)).take 4)) :=
  Dev.foldl_establishes (P := fun e => e.reg (aesiCs i b w) = BitVec.ofNat 32 (leNat ((bytes.drop (4 * w)).take 4)))
    (List.mem_range.mpr hw) (fun e => Dev.reg_setReg_same e _ _)
    (fun e v _ hv he => (Dev.reg_setReg_other e _ (by cases b <;> simp [aesiCs, Ne.symm hv])).trans he) d

theorem aesiStatus_ne_aesiCs (i : Nat) (b : Bool) (w : Nat) : Reg.audAesiStatus i ≠ aesiCs i b w := by
  cases b <;> simp only [aesiCs, Reg.audAesiStatus, Reg.audAesiCsA, Reg.audAesiCsB, Bool.false_eq_true, if_true, if_false] <;> omega

theorem aesiCsA_ne_aesiCsB {i v w : Nat} (hv : v < 6) : aesiCs i false v ≠ aesiCs i true w := by
  simp only [aesiCs, Reg.audAesiCsA, Reg.audAesiCsB, Bool.false_eq_true, if_true, if_false]
  omega

theorem Dev.csBlock_eq (d : Dev) (i : Nat) (b : Bool) (bits : List Nat) :
    d.csBlock i b bits = { d with regs := (d.csBlock i b bits).regs } := by
  obtain h | ⟨v, h⟩ := d.csBlock_cases i b bits
  · rw [h]
    exact Dev.addFld_eq _ _ _ _
  · rw [h, Dev.csShown_eq]
    rfl

theorem Dev.csBlock_aud (d : Dev) (i : Nat) (b : Bool) (bits : List Nat) : (d.csBlock i b bits).aud = d.aud := by rw [Dev.csBlock_eq]

theorem Dev.audioChanged_csBlock (d : Dev) (i : Nat) (b : Bool) (bits : List Nat) : d.AudioChanged (d.csBlock i b bits) := by
  rw [Dev.csBlock_eq]
  rfl

/-- A block leaves the count of parity errors alone. -/
theorem Dev.parityErr_csBlock (d : Dev) (i : Nat) (b : Bool) (bits : List Nat) :
    (d.csBlock i b bits).fld (Reg.audAesiStatus i) F.audAesiStatus_parityErr = d.fld (Reg.audAesiStatus i) F.audAesiStatus_parityErr := by
  obtain h | ⟨v, h⟩ := d.csBlock_cases i b bits
  · rw [h, Dev.addFld, Dev.fld_setFld_field d _ ⟨by decide, by decide⟩ (by decide)]
  · rw [h, Dev.fld_setFld_field _ _ (by cases b <;> exact ⟨by decide, by decide⟩) (by cases b <;> decide), Dev.fld,
      Dev.reg_csShown_other d _ fun w _ => aesiStatus_ne_aesiCs i b w, Dev.fld]

theorem Dev.reg_csBlock_word (d : Dev) {i w : Nat} {b : Bool} {bits : List Nat} (hpro : (csBytes bits).getD 0 0 % 2 = 0) (hw : w < 6) :
    (d.csBlock i b bits).reg (aesiCs i b w) = BitVec.ofNat 32 (leNat (((csBytes bits).drop (4 * w)).take 4)) := by
  rw [Dev.csBlock_shown d i hpro, Dev.reg_setFld_other _ _ _ (aesiStatus_ne_aesiCs i b w).symm, Dev.reg_csShown d _ hw]

/-- The block of subframe B leaves that of subframe A alone. -/
theorem Dev.reg_csBlockB_wordA (d : Dev) {i w : Nat} {bits : List Nat} (hpro : (csBytes bits).getD 0 0 % 2 = 0) (hw : w < 6) :
    (d.csBlock i true bits).reg (aesiCs i false w) = d.reg (aesiCs i false w) := by
  rw [Dev.csBlock_shown d i hpro, Dev.reg_setFld_other _ _ _ (aesiStatus_ne_aesiCs i false w).symm,
    Dev.reg_csShown_other d _ fun v _ => aesiCsA_ne_aesiCsB hw]

/-! ## AES3_INPUT_FRAME (R296, R297) -/

/-- The samples of a frame come in, and its parity errors are counted. -/
def Dev.aesSamples (d : Dev) (input : Nat) (pa pb : Bool) : Dev :=
  let e := d.onAud fun z => { z with ins := Tab.upd noFrames z.ins input fun y => y.next d.now pa pb }
  if !(pa || pb) then e else e.addFld (Reg.audAesiStatus input) F.audAesiStatus_parityErr (bit pa + bit pb)

/-- A channel-status block with the bits of one more frame. -/
def CsAsm.push (x : CsAsm) (ca cb : Bool) : CsAsm := { pos := x.pos + 1, a := x.a ++ [bit ca], b := x.b ++ [bit cb] }

/-- What an input has in assembly. -/
def Dev.assembled (d : Dev) (input : Nat) (y : CsAsm) : Dev := d.onAud fun z => { z with cs := Tab.put noCs z.cs input y }

/-- The bits of a frame join the block `x` in assembly; a block that is whole is shown. -/
def Dev.csFrame (d : Dev) (input : Nat) (x : CsAsm) (ca cb : Bool) : Dev :=
  if 192 ≤ x.pos then d
  else
    let y := x.push ca cb
    let d := d.assembled input (if y.pos = 192 then noCs 0 else y)
    if y.pos = 192 then (d.csBlock input false y.a).csBlock input true y.b else d

/-- Before the last frame of a block its bits join the block, and nothing else changes. -/
theorem Dev.csFrame_joins (d : Dev) (input : Nat) {x : CsAsm} (ca cb : Bool) (h : x.pos < 191) :
    d.csFrame input x ca cb = d.assembled input (x.push ca cb) := by
  have hy : (x.push ca cb).pos ≠ 192 := by simp only [CsAsm.push]; omega
  simp only [Dev.csFrame, if_neg hy, if_neg (show ¬192 ≤ x.pos by omega)]

/-- The last frame of a block makes it whole, and the input waits for the next one. -/
theorem Dev.csFrame_whole (d : Dev) (input : Nat) {x : CsAsm} (ca cb : Bool) (h : x.pos = 191) :
    d.csFrame input x ca cb =
      ((d.assembled input (noCs 0)).csBlock input false (x.push ca cb).a).csBlock input true (x.push ca cb).b := by
  have hy : (x.push ca cb).pos = 192 := by simp only [CsAsm.push]; omega
  simp only [Dev.csFrame, if_pos hy, if_neg (show ¬192 ≤ x.pos by omega)]

/-- A frame is outside a block, joins one, or makes one whole. -/
theorem Dev.csFrame_cases (d : Dev) (input : Nat) (x : CsAsm) (ca cb : Bool) :
    d.csFrame input x ca cb = d ∨ d.csFrame input x ca cb = d.assembled input (x.push ca cb) ∨
      d.csFrame input x ca cb =
        ((d.assembled input (noCs 0)).csBlock input false (x.push ca cb).a).csBlock input true (x.push ca cb).b := by
  obtain h | h | h : 192 ≤ x.pos ∨ x.pos < 191 ∨ x.pos = 191 := by omega
  · exact .inl (if_pos h)
  · exact .inr (.inl (d.csFrame_joins input ca cb h))
  · exact .inr (.inr (d.csFrame_whole input ca cb h))

theorem Dev.cs_assembled (d : Dev) (input : Nat) (y : CsAsm) : Tab.get noCs (d.assembled input y).aud.cs input = y := Tab.get_put_same _ _ _

theorem Dev.aesSamples_aud (d : Dev) (input : Nat) (pa pb : Bool) :
    (d.aesSamples input pa pb).aud = { d.aud with ins := Tab.upd noFrames d.aud.ins input fun y => y.next d.now pa pb } := by
  unfold Dev.aesSamples
  dsimp only
  split <;> rfl

theorem exec_aes3InputFrame {s : State} {input : Nat} (pa pb va vb ca cb z : Bool) {x : CsAsm} (hi : input < 32)
    (he : s.dev.flag (Reg.audAesiCfg input) F.audAesiCfg_enable = true)
    (hl : s.dev.flag (Reg.audAesiStatus input) F.audAesiStatus_lock = true)
    (hx : x = if z = true then { pos := 0, a := [], b := [] } else Tab.get noCs s.dev.aud.cs input) :
    exec (.aes3InputFrame input pa pb va vb ca cb z) s =
      .next { s with dev := (s.dev.aesSamples input pa pb).csFrame input x ca cb } := by
  have hcs : x = if z = true then { pos := 0, a := [], b := [] } else Tab.get noCs (s.dev.aesSamples input pa pb).aud.cs input := by
    rw [Dev.aesSamples_aud]
    exact hx
  rw [hcs]
  show execAes3InputFrame input pa pb va vb ca cb z s = _
  rw [execAes3InputFrame, State.lift_eq, if_neg (by simp [he, hl, hi])]
  rfl

theorem Dev.audioChanged_aesSamples (d : Dev) (input : Nat) (pa pb : Bool) : d.AudioChanged (d.aesSamples input pa pb) := by
  unfold Dev.aesSamples
  dsimp only
  split <;> rfl

theorem Dev.keepsRegs_aesSamples (d : Dev) (input : Nat) (pa pb : Bool) :
    d.KeepsRegs (d.aesSamples input pa pb) [Reg.audAesiStatus input] := by
  unfold Dev.aesSamples
  dsimp only
  split
  · exact fun _ _ => rfl
  · exact Dev.keepsRegs_setFld _ _ _ _

theorem Dev.parityErr_aesSamples (d : Dev) (input : Nat) (pa pb : Bool) :
    (d.aesSamples input pa pb).fld (Reg.audAesiStatus input) F.audAesiStatus_parityErr =
      (d.fld (Reg.audAesiStatus input) F.audAesiStatus_parityErr + bit pa + bit pb) % 256 := by
  unfold Dev.aesSamples
  dsimp only
  split <;> rename_i h
  · obtain ⟨rfl, rfl⟩ : pa = false ∧ pb = false := by simpa using h
    exact (Nat.mod_eq_of_lt (Fld.get_lt F.audAesiStatus_parityErr _)).symm
  · rw [Dev.fld_addFld_same _ _ ⟨by decide, by decide⟩, ← Nat.add_assoc]
    rfl

theorem Dev.audioChanged_csFrame (d : Dev) (input : Nat) (x : CsAsm) (ca cb : Bool) : d.AudioChanged (d.csFrame input x ca cb) := by
  obtain h | h | h := d.csFrame_cases input x ca cb
  · rw [h]
    rfl
  · rw [h]
    rfl
  · rw [h]
    exact .trans (e := d.assembled input (noCs 0)) rfl ((Dev.audioChanged_csBlock _ _ _ _).trans (Dev.audioChanged_csBlock _ _ _ _))

theorem Dev.ins_csFrame (d : Dev) (input : Nat) (x : CsAsm) (ca cb : Bool) : (d.csFrame input x ca cb).aud.ins = d.aud.ins := by
  obtain h | h | h := d.csFrame_cases input x ca cb
  · rw [h]
  · rw [h]
    rfl
  · rw [h, Dev.csBlock_aud, Dev.csBlock_aud]
    rfl

theorem Dev.parityErr_csFrame (d : Dev) (input : Nat) (x : CsAsm) (ca cb : Bool) :
    (d.csFrame input x ca cb).fld (Reg.audAesiStatus input) F.audAesiStatus_parityErr =
      d.fld (Reg.audAesiStatus input) F.audAesiStatus_parityErr := by
  obtain h | h | h := d.csFrame_cases input x ca cb
  · rw [h]
  · rw [h]
    rfl
  · rw [h, Dev.parityErr_csBlock, Dev.parityErr_csBlock]
    rfl

/-- A frame of a locked input gives its samples, counts its parity errors, and joins the block in assembly or makes it whole. -/
theorem aes3InputFrame_joins {s : State} {input : Nat} (pa pb va vb ca cb z : Bool) {x : CsAsm} (hi : input < 32)
    (he : s.dev.flag (Reg.audAesiCfg input) F.audAesiCfg_enable = true)
    (hl : s.dev.flag (Reg.audAesiStatus input) F.audAesiStatus_lock = true)
    (hx : x = if z = true then { pos := 0, a := [], b := [] } else Tab.get noCs s.dev.aud.cs input) :
    ∃ t, exec (.aes3InputFrame input pa pb va vb ca cb z) s = .next t ∧
      t = { s with dev := { s.dev with regs := t.dev.regs, aud := t.dev.aud } } ∧
      t.dev.fld (Reg.audAesiStatus input) F.audAesiStatus_parityErr =
        (s.dev.fld (Reg.audAesiStatus input) F.audAesiStatus_parityErr + bit pa + bit pb) % 256 ∧
      Tab.get noFrames t.dev.aud.ins input = (Tab.get noFrames s.dev.aud.ins input).next s.dev.now pa pb ∧
      (x.pos < 191 → Tab.get noCs t.dev.aud.cs input = x.push ca cb ∧ s.dev.KeepsRegs t.dev [Reg.audAesiStatus input]) ∧
      (x.pos = 191 → (csBytes (x.push ca cb).a).getD 0 0 % 2 = 0 → (csBytes (x.push ca cb).b).getD 0 0 % 2 = 0 →
        Tab.get noCs t.dev.aud.cs input = noCs 0 ∧ ∀ w < 6,
          t.dev.reg (aesiCs input false w) = BitVec.ofNat 32 (leNat (((csBytes (x.push ca cb).a).drop (4 * w)).take 4)) ∧
          t.dev.reg (aesiCs input true w) = BitVec.ofNat 32 (leNat (((csBytes (x.push ca cb).b).drop (4 * w)).take 4))) := by
  refine ⟨_, exec_aes3InputFrame pa pb va vb ca cb z hi he hl hx,
    ((Dev.audioChanged_aesSamples _ _ _ _).trans (Dev.audioChanged_csFrame _ _ _ _ _)).state, ?_, ?_, fun hpos => ?_, fun hpos hproA hproB => ?_⟩
  · rw [Dev.parityErr_csFrame, Dev.parityErr_aesSamples]
  · dsimp only
    rw [Dev.ins_csFrame, Dev.aesSamples_aud]
    dsimp only
    rw [Tab.get_upd_same]
  · dsimp only
    rw [Dev.csFrame_joins _ _ _ _ hpos]
    exact ⟨Dev.cs_assembled _ _ _, Dev.keepsRegs_aesSamples s.dev input pa pb⟩
  · dsimp only
    rw [Dev.csFrame_whole _ _ _ _ hpos]
    refine ⟨?_, fun w hw => ⟨?_, Dev.reg_csBlock_word _ hproB hw⟩⟩
    · rw [Dev.csBlock_aud, Dev.csBlock_aud, Dev.cs_assembled]
    · rw [Dev.reg_csBlockB_wordA _ hproB hw, Dev.reg_csBlock_word _ hproA hw]

/-! ## Ramps of outputs (R301, R306) -/

theorem Dev.rampsChanged_rampOutput (d : Dev) (io : Nat) (up : Bool) : d.RampsChanged (d.rampOutput io up) := rfl

theorem Dev.rampsChanged_setFld (d : Dev) (a : Nat) (f : Fld) (v : Nat) : d.RampsChanged (d.setFld a f v) := rfl

theorem Dev.rampsChanged_setReg (d : Dev) (a : Nat) (w : Word) : d.RampsChanged (d.setReg a w) := rfl

theorem Dev.ramp_rampOutput_same (d : Dev) (io : Nat) (up : Bool) :
    Tab.get noRamp (d.rampOutput io up).aud.ramps io = some ⟨up, d.now + 1⟩ := by
  rw [Dev.rampOutput, Dev.onAud_aud, Tab.get_put_same]

theorem Dev.ramp_rampOutput_other (d : Dev) {io o : Nat} (up : Bool) (h : o ≠ io) :
    Tab.get noRamp (d.rampOutput io up).aud.ramps o = Tab.get noRamp d.aud.ramps o := by
  rw [Dev.rampOutput, Dev.onAud_aud, Tab.get_put_other _ _ h]

theorem Dev.reg_rampOutput (d : Dev) (io : Nat) (up : Bool) (a : Nat) : (d.rampOutput io up).reg a = d.reg a := rfl

theorem Dev.fld_rampOutput (d : Dev) (io : Nat) (up : Bool) (a : Nat) (f : Fld) : (d.rampOutput io up).fld a f = d.fld a f := rfl

/-! ## TDM ports (R301) -/

section
variable {s : State} {port : Nat} (hp : port < 8) (he : s.dev.flag (Reg.audTdmCfg port) F.audTdmCfg_enable = true)
  (hr : s.dev.fld (Reg.audTdmCfg port) F.audTdmCfg_role ≠ 0)
include hp he hr

theorem exec_tdmClockLoss : exec (.tdmClockLoss port) s =
    .next { s with dev := (((s.dev.unlock (0x20 + port)).setFld (Reg.audTdmStatus port) F.audTdmStatus_clockOk 0).emit
      (.pin ("TDM_DOUT_" ++ toString port) false)) } := by
  show execTdmClockLoss port s = _
  rw [execTdmClockLoss, State.lift_eq, if_neg (by simp [he, hr, hp])]

theorem exec_tdmClockReturn (hc : s.dev.flag (Reg.audTdmStatus port) F.audTdmStatus_clockOk = false) : exec (.tdmClockReturn port) s =
    .next { s with dev := ((((s.dev.relock (0x20 + port)).setFld (Reg.audTdmStatus port) F.audTdmStatus_clockOk 1).emit
      (.pin ("TDM_DOUT_" ++ toString port) true)).rampOutput (0x20 + port) true) } := by
  show execTdmClockReturn port s = _
  rw [execTdmClockReturn, State.lift_eq, if_neg (by simp [he, hr, hp, hc])]

/-- A slave port without its clock stops its output. -/
theorem tdmClockLoss_stops :
    ∃ t, exec (.tdmClockLoss port) s = .next t ∧ t.dev.flag (Reg.audTdmStatus port) F.audTdmStatus_clockOk = false ∧
      s.dev.ShowsOnly t.dev (.pin ("TDM_DOUT_" ++ toString port) false) ∧ s.dev.KeepsRegs t.dev [Reg.audTdmStatus port] ∧
      t = { s with dev := { s.dev with regs := t.dev.regs, aud := t.dev.aud, out := t.dev.out } } := by
  have hchanged := (Dev.audioChanged_onAud s.dev _).trans (Dev.audioChanged_setFld (s.dev.unlock (0x20 + port)) (Reg.audTdmStatus port)
    F.audTdmStatus_clockOk 0)
  refine ⟨_, exec_tdmClockLoss hp he hr, ?_, ?_, fun a ha => ?_, congrArg (fun d => { s with dev := d }) (Dev.emit_of_audioChanged hchanged _)⟩
  · rw [Dev.flag, Dev.reg_emit, ← Dev.flag, Dev.flag_setFld_same _ _ ⟨by decide, by decide⟩ rfl]
    rfl
  · rw [Dev.ShowsOnly, Dev.emit_out, Dev.setFld_out]
    rfl
  · rw [Dev.reg_emit]
    exact Dev.keepsRegs_setFld (s.dev.unlock (0x20 + port)) _ _ _ a ha

/-- A slave port whose clock is back starts its output with a ramp up. -/
theorem tdmClockReturn_resumes (hc : s.dev.flag (Reg.audTdmStatus port) F.audTdmStatus_clockOk = false) :
    ∃ t, exec (.tdmClockReturn port) s = .next t ∧ t.dev.flag (Reg.audTdmStatus port) F.audTdmStatus_clockOk = true ∧
      s.dev.ShowsOnly t.dev (.pin ("TDM_DOUT_" ++ toString port) true) ∧ s.dev.KeepsRegs t.dev [Reg.audTdmStatus port] ∧
      Tab.get noRamp t.dev.aud.ramps (0x20 + port) = some ⟨true, s.dev.now + 1⟩ ∧
      t = { s with dev := { s.dev with regs := t.dev.regs, aud := t.dev.aud, out := t.dev.out } } := by
  have hchanged := (Dev.audioChanged_onAud s.dev _).trans (Dev.audioChanged_setFld (s.dev.relock (0x20 + port)) (Reg.audTdmStatus port)
    F.audTdmStatus_clockOk 1)
  refine ⟨_, exec_tdmClockReturn hp he hr hc, ?_, ?_, fun a ha => ?_, ?_, congrArg (fun d => { s with dev := d }) ?_⟩
  · rw [Dev.flag, Dev.reg_rampOutput, Dev.reg_emit, ← Dev.flag, Dev.flag_setFld_same _ _ ⟨by decide, by decide⟩ rfl]
    rfl
  · rw [Dev.ShowsOnly, Dev.rampOutput, Dev.onAud_out, Dev.emit_out, Dev.setFld_out]
    rfl
  · rw [Dev.reg_rampOutput, Dev.reg_emit]
    exact Dev.keepsRegs_setFld (s.dev.relock (0x20 + port)) _ _ _ a ha
  · rw [Dev.ramp_rampOutput_same, Dev.emit_read_now, Dev.setFld_read_now]
    rfl
  · have hemit := Dev.emit_of_audioChanged hchanged (.pin ("TDM_DOUT_" ++ toString port) true)
    generalize Dev.emit _ _ = e at hemit ⊢
    rw [hemit]
    rfl

end

/-! ## The house clock lost and restored (R306, R307) -/

/-- The status of the house clock names the clock in use and its offset. -/
def Dev.houseShown (d : Dev) (house ext : Nat) (ppm : Int) : Dev :=
  ((d.setFld Reg.audClkStatus F.audClkStatus_house house).setFld Reg.audClkStatus F.audClkStatus_extPresent ext).setFld
    Reg.audClkStatus F.audClkStatus_ppm (unsigned 16 ppm)

/-- A change of the clock in use: it is shown, the house outputs ramp down, and CREW_0 is told. -/
def Dev.houseChanged (d : Dev) (house ext cause : Nat) (ppm : Int) : Dev := (d.houseShown house ext ppm).muteHouse.houseEvent cause ppm

theorem exec_houseClockLoss {s : State} (out : Bool) (ppm : Int) (hr : s.dev.fld Reg.audClkCfg F.audClkCfg_role ≠ 0)
    (hh : s.dev.fld Reg.audClkStatus F.audClkStatus_house = 1) :
    exec (.houseClockLoss out ppm) s = .next { s with dev := s.dev.houseChanged 2 0 (if out then 3 else 1) ppm } := by
  show execHouseClockLoss out ppm s = _
  rw [execHouseClockLoss, State.lift_eq, if_neg (by simp [hr, hh])]
  rfl

theorem exec_houseClockRestore {s : State} (ppm : Int) (hh : s.dev.fld Reg.audClkStatus F.audClkStatus_house = 2)
    (hr : s.dev.fld Reg.audClkCfg F.audClkCfg_restoreMs ≠ 0) :
    exec (.houseClockRestore ppm) s = .next { s with dev := s.dev.houseChanged 1 1 2 ppm } := by
  show execHouseClockRestore ppm s = _
  rw [execHouseClockRestore, State.lift_eq, if_neg (by simp [hr, hh])]
  rfl

/-- An AES3 output is shown muted and ramps down. -/
def Dev.outputDown (d : Dev) (o : Nat) : Dev := (d.setFld (Reg.audAesoStatus o) F.audAesoStatus_muted 1).rampOutput (0x40 + o) false

/-- Enabled AES3 outputs are shown muted and ramp down. -/
def Dev.aesMuted (d : Dev) : Dev := d.houseOutputs.foldl Dev.outputDown d

/-- Master TDM ports ramp down. -/
def Dev.portsMuted (d : Dev) : Dev := d.housePorts.foldl (fun d p => d.rampOutput (0x20 + p) false) d

/-- Of some ASRC channels, those of house outputs track anew. -/
def Dev.asrcsUnlocked (d : Dev) (l : List Nat) : Dev :=
  l.foldl (fun d a => if d.houseAsrc a then d.setFld (Reg.audAsrcState a) F.audAsrcState_lock 0 else d) d

theorem Dev.muteHouse_eq (d : Dev) :
    d.muteHouse = (d.aesMuted.portsMuted.asrcsUnlocked (List.range 256)).setFld Reg.audClkStatus F.audClkStatus_muted 1 := rfl

theorem Dev.mem_houseOutputs {d : Dev} {o : Nat} :
    o ∈ d.houseOutputs ↔ o < 32 ∧ d.flag (Reg.audAesoCfg o) F.audAesoCfg_enable = true := by
  simp [Dev.houseOutputs]

theorem Dev.lt_of_mem_housePorts {d : Dev} {p : Nat} (h : p ∈ d.housePorts) : p < 8 :=
  List.mem_range.mp (List.mem_filter.mp h).1

/-- An AES3 output is shown muted, and its ramp down starts at the next boundary. -/
def Dev.OutputMuted (d : Dev) (o : Nat) : Prop :=
  d.fld (Reg.audAesoStatus o) F.audAesoStatus_muted = 1 ∧ Tab.get noRamp d.aud.ramps (0x40 + o) = some ⟨false, d.now + 1⟩

/-- It stays so where its status register, its ramp and the Stroke do. -/
theorem Dev.OutputMuted.keep {d e : Dev} {o : Nat} (h : d.OutputMuted o) (hreg : e.reg (Reg.audAesoStatus o) = d.reg (Reg.audAesoStatus o))
    (hramp : Tab.get noRamp e.aud.ramps (0x40 + o) = Tab.get noRamp d.aud.ramps (0x40 + o)) (hnow : e.now = d.now) : e.OutputMuted o := by
  unfold Dev.OutputMuted Dev.fld at h ⊢
  rwa [hreg, hramp, hnow]

theorem Dev.OutputMuted.setFld {d : Dev} {o : Nat} (h : d.OutputMuted o) {a : Nat} (ha : Reg.audAesoStatus o ≠ a) (f : Fld) (v : Nat) :
    (d.setFld a f v).OutputMuted o :=
  h.keep (Dev.reg_setFld_other d f v ha) (by rw [Dev.setFld_aud]) (Dev.setFld_read_now d a f v)

theorem Dev.OutputMuted.rampOutput {d : Dev} {o : Nat} (h : d.OutputMuted o) {io : Nat} (hio : 0x40 + o ≠ io) (up : Bool) :
    (d.rampOutput io up).OutputMuted o :=
  h.keep (Dev.reg_rampOutput d io up _) (Dev.ramp_rampOutput_other d up hio) (Dev.rampsChanged_rampOutput d io up).now

theorem Dev.outputMuted_outputDown (d : Dev) (o : Nat) : (d.outputDown o).OutputMuted o := by
  refine ⟨?_, ?_⟩ <;> rw [Dev.outputDown]
  · rw [Dev.fld_rampOutput, Dev.fld_setFld_same _ _ ⟨by decide, by decide⟩]
    rfl
  · rw [Dev.ramp_rampOutput_same, (Dev.rampsChanged_rampOutput _ _ _).now]

theorem Dev.outputMuted_aesMuted {d : Dev} {o : Nat} (ho : o ∈ d.houseOutputs) : d.aesMuted.OutputMuted o :=
  Dev.foldl_establishes (P := (·.OutputMuted o)) (f := Dev.outputDown) ho (fun e => e.outputMuted_outputDown o) (fun _ _ _ hb he =>
    (he.setFld (by simp only [Reg.audAesoStatus]; omega) _ _).rampOutput (by omega) _) d

theorem Dev.OutputMuted.portsMuted {d : Dev} {o : Nat} (h : d.OutputMuted o) : d.portsMuted.OutputMuted o :=
  List.foldlRecOn (motive := fun e : Dev => e.OutputMuted o) d.housePorts _ h fun e he p hp =>
    he.rampOutput (by have := Dev.lt_of_mem_housePorts hp; omega) _

theorem Dev.OutputMuted.asrcsUnlocked {d : Dev} {o : Nat} (h : d.OutputMuted o) (_ : o < 32) (l : List Nat) :
    (d.asrcsUnlocked l).OutputMuted o := by
  unfold Dev.asrcsUnlocked
  refine List.foldlRecOn (motive := fun e : Dev => e.OutputMuted o) _ _ h fun e he a _ => ?_
  split
  · exact he.setFld (by simp only [Reg.audAesoStatus, Reg.audAsrcState]; omega) _ _
  · exact he

theorem Dev.outputMuted_muteHouse {d : Dev} {o : Nat} (ho : o ∈ d.houseOutputs) : d.muteHouse.OutputMuted o := by
  have hlt := (Dev.mem_houseOutputs.mp ho).1
  rw [Dev.muteHouse_eq]
  exact ((Dev.outputMuted_aesMuted ho).portsMuted.asrcsUnlocked hlt _).setFld
    (by simp only [Reg.audAesoStatus, Reg.audClkStatus]; omega) _ _

/-- Ramps and locks leave the status of the house clock alone. -/
theorem Dev.reg_clkStatus_asrcsUnlocked (d : Dev) (l : List Nat) :
    (d.aesMuted.portsMuted.asrcsUnlocked l).reg Reg.audClkStatus = d.reg Reg.audClkStatus := by
  have haes (e : Dev) : e.aesMuted.reg Reg.audClkStatus = e.reg Reg.audClkStatus :=
    Dev.foldl_keeps (fun e => e.reg Reg.audClkStatus) (fun e o _ => (Dev.reg_rampOutput _ _ _ _).trans
      (Dev.reg_setFld_other e _ _ (by simp only [Reg.audAesoStatus, Reg.audClkStatus]; omega))) e
  have hports (e : Dev) : e.portsMuted.reg Reg.audClkStatus = e.reg Reg.audClkStatus :=
    Dev.foldl_keeps (fun e => e.reg Reg.audClkStatus) (fun e p _ => Dev.reg_rampOutput e _ _ _) e
  have hasrcs (e : Dev) : (e.asrcsUnlocked l).reg Reg.audClkStatus = e.reg Reg.audClkStatus := by
    unfold Dev.asrcsUnlocked
    refine Dev.foldl_keeps (fun e => e.reg Reg.audClkStatus) (fun e a _ => ?_) e
    split
    · exact Dev.reg_setFld_other e _ _ (by simp only [Reg.audAsrcState, Reg.audClkStatus]; omega)
    · rfl
  rw [hasrcs, hports, haes]

theorem Dev.clkMuted_muteHouse (d : Dev) : d.muteHouse.fld Reg.audClkStatus F.audClkStatus_muted = 1 := by
  rw [Dev.muteHouse_eq, Dev.fld_setFld_same _ _ ⟨by decide, by decide⟩]
  rfl

theorem Dev.clkStatus_muteHouse (d : Dev) {f : Fld} (hf : f.hi < F.audClkStatus_muted.lo ∨ F.audClkStatus_muted.hi < f.lo) :
    d.muteHouse.fld Reg.audClkStatus f = d.fld Reg.audClkStatus f := by
  rw [Dev.muteHouse_eq, Dev.fld_setFld_field _ _ ⟨by decide, by decide⟩ hf, Dev.fld, Dev.reg_clkStatus_asrcsUnlocked, Dev.fld]

/-- The event of a change of clock leaves the audio block and the Stroke as they are. -/
theorem Dev.houseEvent_keeps (d : Dev) (cause : Nat) (ppm : Int) :
    (d.houseEvent cause ppm).aud = d.aud ∧ (d.houseEvent cause ppm).now = d.now := by
  unfold Dev.houseEvent
  dsimp only
  constructor
  · rw [Dev.foldl_keeps Dev.aud fun e c _ => by rw [Dev.record_eq], Dev.nvmLog_eq, Dev.postEvent_eq]
  · rw [Dev.foldl_keeps Dev.now fun e c _ => by rw [Dev.record_eq]; rfl, Dev.nvmLog_eq, Dev.now, Dev.postEvent_eq]
    rfl

/-- Every register below those of NVM is as it was: the event, its record and the log's records write their own registers alone. -/
theorem Dev.reg_houseEvent (d : Dev) (cause : Nat) (ppm : Int) {a : Nat} (ha : a < Reg.nvmStatus) :
    (d.houseEvent cause ppm).reg a = d.reg a := by
  have hrec (e : Dev) (c : Nat) (data : List Nat) : (e.record c 0x0C 0 0 data).reg a = e.reg a :=
    Dev.reg_record _ _ _ _ _ _ (by simp only [Reg.nvmStatus, Reg.rplLogStatus] at *; omega)
      (by simp only [Reg.nvmStatus, Reg.rplLogSeq] at *; omega)
  unfold Dev.houseEvent
  dsimp only
  rw [Dev.foldl_keeps (fun e => e.reg a) fun e c _ => hrec e c _,
    Dev.reg_nvmLog _ _ _ _ (by simp only [Reg.nvmStatus, Reg.nvmLost] at *; omega) (Nat.ne_of_lt ha)
      (by simp only [Reg.nvmStatus, Reg.nvmLog] at *; omega),
    Dev.reg_postEvent _ _ _ _ _ (by simp only [Reg.nvmStatus, Reg.hifEvqStatus] at *; omega)]

theorem unsigned_lt (bits : Nat) (v : Int) : unsigned bits v < 2 ^ bits := by
  have hpos : (0 : Int) < 2 ^ bits := by positivity
  have hlt := Int.emod_lt_of_pos v hpos
  have hge := Int.emod_nonneg v hpos.ne'
  unfold unsigned
  zify
  rwa [Int.toNat_of_nonneg hge]

/-- A change of the clock in use shows the clock, whether the external one is there, and its offset, with the house muted. -/
theorem Dev.clkStatus_houseChanged (d : Dev) {house ext : Nat} (cause : Nat) (ppm : Int) (hh : house < 4) (he : ext < 2) :
    (d.houseChanged house ext cause ppm).fld Reg.audClkStatus F.audClkStatus_house = house ∧
      (d.houseChanged house ext cause ppm).fld Reg.audClkStatus F.audClkStatus_extPresent = ext ∧
      (d.houseChanged house ext cause ppm).fld Reg.audClkStatus F.audClkStatus_ppm = unsigned 16 ppm ∧
      (d.houseChanged house ext cause ppm).fld Reg.audClkStatus F.audClkStatus_muted = 1 := by
  have hfld (f : Fld) : (d.houseChanged house ext cause ppm).fld Reg.audClkStatus f =
      (d.houseShown house ext ppm).muteHouse.fld Reg.audClkStatus f := by
    rw [Dev.fld, Dev.houseChanged, Dev.reg_houseEvent _ _ _ (by decide), Dev.fld]
  refine ⟨?_, ?_, ?_, ?_⟩
  · rw [hfld, Dev.clkStatus_muteHouse _ (by decide), Dev.houseShown, Dev.fld_setFld_field _ _ ⟨by decide, by decide⟩ (by decide),
      Dev.fld_setFld_field _ _ ⟨by decide, by decide⟩ (by decide), Dev.fld_setFld_same _ _ ⟨by decide, by decide⟩]
    exact Nat.mod_eq_of_lt hh
  · rw [hfld, Dev.clkStatus_muteHouse _ (by decide), Dev.houseShown, Dev.fld_setFld_field _ _ ⟨by decide, by decide⟩ (by decide),
      Dev.fld_setFld_same _ _ ⟨by decide, by decide⟩]
    exact Nat.mod_eq_of_lt he
  · rw [hfld, Dev.clkStatus_muteHouse _ (by decide), Dev.houseShown, Dev.fld_setFld_same _ _ ⟨by decide, by decide⟩]
    exact Nat.mod_eq_of_lt (unsigned_lt 16 ppm)
  · rw [hfld, Dev.clkMuted_muteHouse]

/-- Every enabled AES3 output ramps down with a change of the clock in use. -/
theorem Dev.outputMuted_houseChanged {d : Dev} {o : Nat} (house ext cause : Nat) (ppm : Int) (ho : o < 32)
    (he : d.flag (Reg.audAesoCfg o) F.audAesoCfg_enable = true) : (d.houseChanged house ext cause ppm).OutputMuted o := by
  have hcfg : (d.houseShown house ext ppm).flag (Reg.audAesoCfg o) F.audAesoCfg_enable = true := by
    have hne : Reg.audAesoCfg o ≠ Reg.audClkStatus := by simp only [Reg.audAesoCfg, Reg.audClkStatus]; omega
    rw [Dev.houseShown, Dev.flag_setFld_other _ _ _ _ hne, Dev.flag_setFld_other _ _ _ _ hne, Dev.flag_setFld_other _ _ _ _ hne, he]
  obtain ⟨haud, hnow⟩ := (d.houseShown house ext ppm).muteHouse.houseEvent_keeps cause ppm
  exact (Dev.outputMuted_muteHouse (Dev.mem_houseOutputs.mpr ⟨ho, hcfg⟩)).keep
    (Dev.reg_houseEvent _ _ _ (by simp only [Reg.audAesoStatus, Reg.nvmStatus]; omega)) (by rw [Dev.houseChanged, haud]) hnow

theorem Dev.now_muteHouse (d : Dev) : d.muteHouse.now = d.now := by
  have haes (e : Dev) : e.aesMuted.now = e.now :=
    Dev.foldl_keeps Dev.now (fun e o _ => (Dev.rampsChanged_rampOutput _ _ _).now.trans (Dev.setFld_read_now _ _ _ _)) e
  have hports (e : Dev) : e.portsMuted.now = e.now := Dev.foldl_keeps Dev.now (fun e p _ => (Dev.rampsChanged_rampOutput e _ _).now) e
  have hasrcs (e : Dev) (l : List Nat) : (e.asrcsUnlocked l).now = e.now :=
    Dev.foldl_keeps Dev.now (fun e a _ => by
      split
      · exact Dev.setFld_read_now _ _ _ _
      · rfl) e
  rw [Dev.muteHouse_eq, Dev.setFld_read_now, hasrcs, hports, haes]

theorem Dev.now_houseChanged (d : Dev) (house ext cause : Nat) (ppm : Int) : (d.houseChanged house ext cause ppm).now = d.now := by
  rw [Dev.houseChanged, (Dev.houseEvent_keeps _ _ _).2, Dev.now_muteHouse, Dev.houseShown, Dev.setFld_read_now, Dev.setFld_read_now,
    Dev.setFld_read_now]

/-! ## ASRC channels (R306, R308) -/

/-- A channel with the ratio 1 shows it. -/
def Dev.ratioShown (d : Dev) (a : Nat) : Dev := if d.ratioOne a then d.setReg (Reg.audAsrcRatio a) 0x10000000 else d

/-- The house output that a channel serves ramps up. -/
def Dev.servedBack (d : Dev) (a : Nat) : Dev :=
  (d.asrc? a).elim d fun u => if d.houseAsrc a && (u.out || decide (0x40 ≤ u.io)) then d.unmute u.io else d

section
variable {s : State} {a : Nat} (ha : a < 256) (hu : s.dev.flag (Reg.audAsrcState a) F.audAsrcState_inUse = true)
include ha hu

theorem exec_asrcLock : exec (.asrcLock a) s =
    .next { s with dev := (((s.dev.setFld (Reg.audAsrcState a) F.audAsrcState_lock 1).ratioShown a).servedBack a).houseMuted } := by
  show execAsrcLock a s = _
  rw [execAsrcLock, State.lift_eq, if_neg (by simp [hu, ha])]
  generalize he : (s.dev.setFld (Reg.audAsrcState a) F.audAsrcState_lock 1).ratioShown a = e
  unfold Dev.ratioShown at he
  dsimp only
  rw [he, Dev.servedBack]
  cases e.asrc? a with
  | none => rw [Option.elim_none]
  | some u => rw [Option.elim_some]

theorem exec_asrcRatioUpdate (ratio : Nat) (hn : s.dev.now % 8 = 0) : exec (.asrcRatioUpdate a ratio) s =
    .next { s with dev := ((s.dev.setReg (Reg.audAsrcRatio a) (BitVec.ofNat 32 ratio)).record (((s.dev.asrc? a).map (·.crew)).getD 0) 0x09 0 0
      [a, ratio % 2 ^ 32]) } := by
  show execAsrcRatioUpdate a ratio s = _
  rw [execAsrcRatioUpdate, State.lift_eq, if_neg (by simp [hu, ha, hn])]

end

theorem Dev.rampsChanged_ratioShown (d : Dev) (a : Nat) : d.RampsChanged (d.ratioShown a) := by
  unfold Dev.ratioShown
  split
  · exact Dev.rampsChanged_setReg _ _ _
  · rfl

theorem Dev.reg_ratioShown (d : Dev) {a b : Nat} (h : b ≠ Reg.audAsrcRatio a) : (d.ratioShown a).reg b = d.reg b := by
  unfold Dev.ratioShown
  split
  · exact Dev.reg_setReg_other _ _ h
  · rfl

/-- What an output shows as it comes back. -/
def Dev.unmuteShown (d : Dev) (io : Nat) : Dev :=
  if 0x40 ≤ io ∧ io < 0x60 then d.setFld (Reg.audAesoStatus (io - 0x40)) F.audAesoStatus_muted 0 else d

theorem Dev.unmute_cases (d : Dev) (io : Nat) : d.unmute io = d.unmuteShown io ∨ d.unmute io = (d.unmuteShown io).rampOutput io true := by
  unfold Dev.unmute
  rw [← Dev.unmuteShown]
  dsimp only
  split
  · exact .inr rfl
  · exact .inl rfl

theorem Dev.reg_unmute_shown (d : Dev) (io a : Nat) : (d.unmute io).reg a = (d.unmuteShown io).reg a := by
  obtain h | h := d.unmute_cases io <;> rw [h]
  exact Dev.reg_rampOutput _ _ _ _

theorem Dev.rampsChanged_unmute (d : Dev) (io : Nat) : d.RampsChanged (d.unmute io) := by
  have hshown : d.RampsChanged (d.unmuteShown io) := by
    unfold Dev.unmuteShown
    split
    · exact Dev.rampsChanged_setFld _ _ _ _
    · rfl
  obtain h | h := d.unmute_cases io <;> rw [h]
  · exact hshown
  · exact hshown.trans (Dev.rampsChanged_rampOutput _ _ _)

theorem Dev.reg_unmute (d : Dev) {io a : Nat} (h : ∀ o < 32, a ≠ Reg.audAesoStatus o) : (d.unmute io).reg a = d.reg a := by
  rw [Dev.reg_unmute_shown, Dev.unmuteShown]
  split
  · exact Dev.reg_setFld_other _ _ _ (h _ (by omega))
  · rfl

theorem Dev.muted_unmute (d : Dev) {io : Nat} (hlo : 0x40 ≤ io) (hhi : io < 0x60) :
    (d.unmute io).fld (Reg.audAesoStatus (io - 0x40)) F.audAesoStatus_muted = 0 := by
  rw [Dev.fld, Dev.reg_unmute_shown, Dev.unmuteShown, if_pos ⟨hlo, hhi⟩, ← Dev.fld, Dev.fld_setFld_same _ _ ⟨by decide, by decide⟩,
    Nat.zero_mod]

theorem Dev.houseMuted_cases (d : Dev) : d.houseMuted = d ∨ d.houseMuted = d.setFld Reg.audClkStatus F.audClkStatus_muted 0 := by
  unfold Dev.houseMuted
  split
  · exact .inl rfl
  · exact .inr rfl

theorem Dev.rampsChanged_houseMuted (d : Dev) : d.RampsChanged d.houseMuted := by
  obtain h | h := d.houseMuted_cases <;> rw [h]
  · exact .refl d
  · exact Dev.rampsChanged_setFld _ _ _ _

theorem Dev.reg_houseMuted (d : Dev) {a : Nat} (h : a ≠ Reg.audClkStatus) : d.houseMuted.reg a = d.reg a := by
  obtain hm | hm := d.houseMuted_cases <;> rw [hm]
  exact Dev.reg_setFld_other _ _ _ h

/-- Of an output, a channel can only bring back the one it serves. -/
theorem Dev.servedBack_cases (d : Dev) (a : Nat) : d.servedBack a = d ∨ ∃ io, d.servedBack a = d.unmute io := by
  unfold Dev.servedBack
  cases d.asrc? a with
  | none => exact .inl rfl
  | some u =>
    rw [Option.elim_some]
    split
    · exact .inr ⟨_, rfl⟩
    · exact .inl rfl

theorem Dev.rampsChanged_servedBack (d : Dev) (a : Nat) : d.RampsChanged (d.servedBack a) := by
  obtain h | ⟨io, h⟩ := d.servedBack_cases a <;> rw [h]
  · exact .refl d
  · exact Dev.rampsChanged_unmute _ _

theorem Dev.reg_servedBack (d : Dev) {a b : Nat} (h : ∀ o < 32, b ≠ Reg.audAesoStatus o) : (d.servedBack a).reg b = d.reg b := by
  obtain hs | ⟨io, hs⟩ := d.servedBack_cases a <;> rw [hs]
  exact Dev.reg_unmute _ h

/-- An AES3 output is of the house domain, so the channel that serves it brings it back. -/
theorem Dev.servedBack_output {d : Dev} {a : Nat} {u : AsrcUse} (h : d.asrc? a = some u) (hlo : 0x40 ≤ u.io) (hhi : u.io < 0x60) :
    d.servedBack a = d.unmute u.io := by
  have hhouse : d.houseAsrc a = true := by simp [Dev.houseAsrc, h, hlo, hhi]
  rw [Dev.servedBack, h, Option.elim_some, if_pos (by simp [hhouse, hlo])]

/-- A channel in use reports its lock, and the AES3 output it serves is no longer muted. -/
theorem asrcLock_locks {s : State} {a : Nat} (ha : a < 256) (hu : s.dev.flag (Reg.audAsrcState a) F.audAsrcState_inUse = true) :
    ∃ t, exec (.asrcLock a) s = .next t ∧ t.dev.fld (Reg.audAsrcState a) F.audAsrcState_lock = 1 ∧ s.dev.RampsChanged t.dev ∧
      t = { s with dev := t.dev } ∧
      ∀ u, s.dev.asrc? a = some u → 0x40 ≤ u.io → u.io < 0x60 →
        t.dev.fld (Reg.audAesoStatus (u.io - 0x40)) F.audAesoStatus_muted = 0 := by
  have hshown := (Dev.rampsChanged_setFld s.dev _ _ _).trans
    (Dev.rampsChanged_ratioShown (s.dev.setFld (Reg.audAsrcState a) F.audAsrcState_lock 1) a)
  refine ⟨_, exec_asrcLock ha hu, ?_, ?_, rfl, fun u hasrc hlo hhi => ?_⟩
  · rw [Dev.fld, Dev.reg_houseMuted _ (by simp only [Reg.audAsrcState, Reg.audClkStatus]; omega),
      Dev.reg_servedBack _ fun o _ => by simp only [Reg.audAsrcState, Reg.audAesoStatus]; omega,
      Dev.reg_ratioShown _ (by simp only [Reg.audAsrcState, Reg.audAsrcRatio]; omega), ← Dev.fld]
    exact Dev.fld_setFld_same _ _ ⟨by decide, by decide⟩ 1
  · exact hshown.trans ((Dev.rampsChanged_servedBack _ _).trans (Dev.rampsChanged_houseMuted _))
  · rw [Dev.fld, Dev.reg_houseMuted _ (by simp only [Reg.audAesoStatus, Reg.audClkStatus]; omega), ← Dev.fld,
      Dev.servedBack_output ((hshown.asrc a).trans hasrc) hlo hhi, Dev.muted_unmute _ hlo hhi]

/-! ## The delay of a group (R313) -/

theorem Dev.grp_setFld (d : Dev) (a : Nat) (f : Fld) (v g : Nat) : (d.setFld a f v).grp? g = d.grp? g := rfl

theorem Dev.grp_onGrp_same (d : Dev) (g : Nat) (f : AudGrpDyn → AudGrpDyn) : (d.onGrp g f).grp? g = (d.grp? g).map f := by
  rw [Dev.grp?, Dev.onGrp, Dev.onAud_aud, Tab.get_put_same]

theorem Dev.grp_onGrp_other (d : Dev) {g k : Nat} (f : AudGrpDyn → AudGrpDyn) (h : k ≠ g) : (d.onGrp g f).grp? k = d.grp? k := by
  rw [Dev.grp?, Dev.onGrp, Dev.onAud_aud, Tab.get_put_other _ _ h, Dev.grp?]

theorem Dev.audioChanged_onGrp (d : Dev) (g : Nat) (f : AudGrpDyn → AudGrpDyn) : d.AudioChanged (d.onGrp g f) := rfl

theorem exec_audioRampEnd {s : State} {group n at_ : Nat} {x : AudGrpDyn} (hx : s.dev.grp? group = some x) (hn : x.next = some (n, at_))
    (ht : at_ ≤ s.dev.now) : exec (.audioRampEnd group) s =
      .next { s with dev := ((s.dev.onGrp group fun x =>
        { x with cfg := { x.cfg with delay := n }, next := none, back := some s.dev.now }).setFld (Reg.audGrpResolved group)
          F.audGrpResolved_delay n) } := by
  show execAudioRampEnd group s = _
  rw [execAudioRampEnd, State.lift_eq]
  simp only [hx, hn, Option.bind_some, if_neg (Nat.not_lt.mpr ht)]

/-- A new delay applies at the end of its ramp. -/
theorem audioRampEnd_applies {s : State} {group n at_ : Nat} {x : AudGrpDyn} (hx : s.dev.grp? group = some x) (hn : x.next = some (n, at_))
    (ht : at_ ≤ s.dev.now) :
    ∃ t, exec (.audioRampEnd group) s = .next t ∧
      t.dev.grp? group = some { x with cfg := { x.cfg with delay := n }, next := none, back := some s.dev.now } ∧
      (∀ g, g ≠ group → t.dev.grp? g = s.dev.grp? g) ∧ s.dev.KeepsRegs t.dev [Reg.audGrpResolved group] ∧
      t = { s with dev := { s.dev with regs := t.dev.regs, aud := t.dev.aud } } := by
  refine ⟨_, exec_audioRampEnd hx hn ht, ?_, fun g hne => ?_, Dev.keepsRegs_setFld (s.dev.onGrp _ _) _ _ _,
    ((Dev.audioChanged_onGrp s.dev _ _).trans (Dev.audioChanged_setFld _ _ _ _)).state⟩
  · rw [Dev.grp_setFld, Dev.grp_onGrp_same, hx]
    rfl
  · rw [Dev.grp_setFld, Dev.grp_onGrp_other _ _ hne]

/-! ## O46 -/

/-- Settles O46, by what each command of the audio inputs, of the house clock and of the ASRC channels leaves. -/
theorem audioInputs : Obligations.AudioInputs := by
  unfold Obligations.AudioInputs
  refine ⟨fun s input rate hi he hr => aes3Lock_locks hi he hr, fun s input hi hl => ?loss,
    fun s input pa pb va vb ca cb z x hi he hl hx => aes3InputFrame_joins pa pb va vb ca cb z hi he hl hx,
    fun s port hp he hr => ⟨?tdmLoss, fun hc => ?tdmReturn⟩, fun s out ppm hr hh => ?houseLoss, fun s ppm hh hr => ?houseRestore,
    fun s a ratio ha hu => ⟨?lock, fun hn => ?ratio⟩, fun s group n at_ x hg hx hn ht => ?delay⟩
  case loss => exact aes3LockLoss_unlocks hi hl
  case tdmLoss => exact tdmClockLoss_stops hp he hr
  case tdmReturn => exact tdmClockReturn_resumes hp he hr hc
  case houseLoss =>
    obtain ⟨hhouse, hext, hppm, hmuted⟩ :=
      s.dev.clkStatus_houseChanged (house := 2) (ext := 0) (if out then 3 else 1) ppm (by decide) (by decide)
    refine ⟨_, exec_houseClockLoss out ppm hr hh, hhouse, hext, hppm, hmuted, fun o ho he => ?_⟩
    obtain ⟨hshown, hramp⟩ := Dev.outputMuted_houseChanged 2 0 (if out then 3 else 1) ppm ho he
    exact ⟨hshown, by rw [hramp, Dev.now_houseChanged]⟩
  case houseRestore =>
    exact ⟨_, exec_houseClockRestore ppm hh hr, s.dev.clkStatus_houseChanged 2 ppm (by decide) (by decide)⟩
  case lock =>
    obtain ⟨t, hexec, hlock, hchanged, ht, hmuted⟩ := asrcLock_locks ha hu
    exact ⟨t, hexec, hlock, ht.trans hchanged.audioChanged.state, hchanged.aud, hmuted⟩
  case ratio =>
    refine ⟨_, _, exec_asrcRatioUpdate ha hu ratio hn, ?_, ?_, by rw [Dev.record_eq, Dev.setReg_log], rfl, rfl⟩
    · rw [Dev.reg_record _ _ _ _ _ _ (by simp only [Reg.audAsrcRatio, Reg.rplLogStatus]; omega)
        (by simp only [Reg.audAsrcRatio, Reg.rplLogSeq]; omega), Dev.reg_setReg_same]
    · rw [Dev.record_eq, Dev.setReg_out]
  case delay => exact audioRampEnd_applies hx hn ht

end Sys2Proof.Machine
end

section
/-! PROOFS. Lanes and ports (R332, R337–R341): loss of lock, relock, cold starts, ports that come up or go down, and negotiation. Settles O50.
The lanes' registers lie below those of the ports, and these below the ones that records and events write: what an operation leaves as it was
is said over the registers' addresses. -/

namespace Sys2Proof.Machine

/-! ## Lanes beside their registers -/

theorem Dev.lane_onLane_same (d : Dev) (l : Nat) (f : LaneDyn → LaneDyn) : (d.onLane l f).lane l = f (d.lane l) := Tab.get_upd_same _ _ _

theorem Dev.lane_onLane_other (d : Dev) {l k : Nat} (f : LaneDyn → LaneDyn) (h : k ≠ l) : (d.onLane l f).lane k = d.lane k :=
  Tab.get_upd_other _ _ h

theorem Dev.lane_of_lan {d e : Dev} (h : e.lan = d.lan) (l : Nat) : e.lane l = d.lane l := by rw [Dev.lane, h, Dev.lane]

@[simp] theorem Dev.lane_setFld (d : Dev) (a : Nat) (f : Fld) (v l : Nat) : (d.setFld a f v).lane l = d.lane l :=
  Dev.lane_of_lan (Dev.setFld_lan d a f v) l

@[simp] theorem Dev.lane_addFld (d : Dev) (a : Nat) (f : Fld) (n l : Nat) : (d.addFld a f n).lane l = d.lane l :=
  Dev.lane_of_lan (Dev.addFld_lan d a f n) l

@[simp] theorem Dev.lane_record (d : Dev) (c kind sub obj : Nat) (data : List Nat) (l : Nat) :
    (d.record c kind sub obj data).lane l = d.lane l := Dev.lane_of_lan (by rw [Dev.record_eq]) l

@[simp] theorem Dev.lane_postEvent (d : Dev) (c : Nat) (e : EventCode) (obj : Nat) (ws : List Nat) (l : Nat) :
    (d.postEvent c e obj ws).lane l = d.lane l := Dev.lane_of_lan (by rw [Dev.postEvent_eq]) l

/-! ## What changes of the device -/

/-- Nothing changes but registers, the lanes beside them, and the count of free values. -/
def Dev.LanesChanged (d e : Dev) : Prop := e = { d with regs := e.regs, lan := e.lan, free := e.free }

theorem Dev.LanesChanged.trans {d e t : Dev} (h : d.LanesChanged e) (h' : e.LanesChanged t) : d.LanesChanged t := by
  unfold Dev.LanesChanged at h h' ⊢
  rw [h', h]

theorem Dev.LanesChanged.refl (d : Dev) : d.LanesChanged d := rfl

theorem Dev.lanesChanged_setFld (d : Dev) (a : Nat) (f : Fld) (v : Nat) : d.LanesChanged (d.setFld a f v) := rfl

theorem Dev.lanesChanged_onLane (d : Dev) (l : Nat) (f : LaneDyn → LaneDyn) : d.LanesChanged (d.onLane l f) := rfl

theorem Dev.LanesChanged.setFld {d e : Dev} (h : d.LanesChanged e) (a : Nat) (f : Fld) (v : Nat) : d.LanesChanged (e.setFld a f v) :=
  h.trans (e.lanesChanged_setFld a f v)

theorem Dev.LanesChanged.addFld {d e : Dev} (h : d.LanesChanged e) (a : Nat) (f : Fld) (n : Nat) : d.LanesChanged (e.addFld a f n) :=
  h.setFld a f _

theorem Dev.LanesChanged.onLane {d e : Dev} (h : d.LanesChanged e) (l : Nat) (f : LaneDyn → LaneDyn) : d.LanesChanged (e.onLane l f) :=
  h.trans (e.lanesChanged_onLane l f)

theorem Dev.LanesChanged.state {s : State} {e : Dev} (h : s.dev.LanesChanged e) :
    ({ s with dev := e } : State) = { s with dev := { s.dev with regs := e.regs, lan := e.lan, free := e.free } } :=
  congrArg (fun d => { s with dev := d }) h

theorem Dev.LanesChanged.now {d e : Dev} (h : d.LanesChanged e) : e.now = d.now := by
  unfold Dev.LanesChanged at h
  rw [h]
  rfl

theorem Dev.LanesChanged.egs {d e : Dev} (h : d.LanesChanged e) : e.egs = d.egs := by
  unfold Dev.LanesChanged at h
  rw [h]

theorem Dev.LanesChanged.out {d e : Dev} (h : d.LanesChanged e) : e.out = d.out := by
  unfold Dev.LanesChanged at h
  rw [h]

/-- Nothing changes but registers, lanes and egress beside them, the host side, what is shown, the log, and the count of free values. -/
def Dev.NetChanged (d e : Dev) : Prop :=
  e = { d with regs := e.regs, lan := e.lan, egs := e.egs, hif := e.hif, out := e.out, log := e.log, free := e.free }

theorem Dev.NetChanged.trans {d e t : Dev} (h : d.NetChanged e) (h' : e.NetChanged t) : d.NetChanged t := by
  unfold Dev.NetChanged at h h' ⊢
  rw [h', h]

theorem Dev.NetChanged.refl (d : Dev) : d.NetChanged d := rfl

theorem Dev.LanesChanged.netChanged {d e : Dev} (h : d.LanesChanged e) : d.NetChanged e := by
  unfold Dev.LanesChanged at h
  rw [h]
  rfl

theorem Dev.netChanged_record (d : Dev) (c kind sub obj : Nat) (data : List Nat) : d.NetChanged (d.record c kind sub obj data) := by
  rw [Dev.record_eq]
  rfl

theorem Dev.netChanged_postEvent (d : Dev) (c : Nat) (e : EventCode) (obj : Nat) (ws : List Nat) :
    d.NetChanged (d.postEvent c e obj ws) := by
  rw [Dev.postEvent_eq]
  rfl

theorem Dev.netChanged_finish (d : Dev) (x : Desc) (st : Nat) (ws : List Nat) : d.NetChanged (d.finish x st ws) := by
  rw [Dev.finish_eq]
  rfl

theorem Dev.netChanged_macCount (d : Dev) (m i n : Nat) : d.NetChanged (d.macCount m i n) := by
  rw [Dev.macCount_eq]
  rfl

theorem Dev.NetChanged.state {s : State} {e : Dev} (h : s.dev.NetChanged e) :
    ({ s with dev := e } : State) = { s with dev := { s.dev with
      regs := e.regs, lan := e.lan, egs := e.egs, hif := e.hif, out := e.out, log := e.log, free := e.free } } :=
  congrArg (fun d => { s with dev := d }) h

/-! ## The settings of a lane's port -/

/-- The settings that a lane's port follows are as they were: those of its group, and of its own MAC. -/
def Dev.SameSettings (d e : Dev) (l : Nat) : Prop :=
  e.reg (Reg.portGroupCfg (l / 4)) = d.reg (Reg.portGroupCfg (l / 4)) ∧ e.reg (Reg.portMacCtl l) = d.reg (Reg.portMacCtl l)

theorem Dev.SameSettings.of_regs {d e : Dev} (h : e.regs = d.regs) (l : Nat) : d.SameSettings e l :=
  ⟨Dev.reg_of_regs h _, Dev.reg_of_regs h _⟩

theorem Dev.SameSettings.trans {d e t : Dev} {l : Nat} (h : d.SameSettings e l) (h' : e.SameSettings t l) : d.SameSettings t l :=
  ⟨h'.1.trans h.1, h'.2.trans h.2⟩

theorem Dev.SameSettings.of_keepsRegs {d e : Dev} {w : List Nat} {l : Nat} (h : d.KeepsRegs e w)
    (hg : Reg.portGroupCfg (l / 4) ∉ w) (hm : Reg.portMacCtl l ∉ w) : d.SameSettings e l := ⟨h _ hg, h _ hm⟩

theorem Dev.SameSettings.groupMode {d e : Dev} {l : Nat} (h : d.SameSettings e l) : e.groupMode (l / 4) = d.groupMode (l / 4) := by
  rw [Dev.groupMode, Dev.fld, h.1, Dev.groupMode, Dev.fld]

theorem Dev.SameSettings.negotiates {d e : Dev} {l : Nat} (h : d.SameSettings e l) : e.negotiates l = d.negotiates l := by
  simp only [Dev.negotiates, h.groupMode, Dev.flag, h.1, h.2]

theorem Dev.SameSettings.trains {d e : Dev} {l : Nat} (h : d.SameSettings e l) : e.trains l = d.trains l := by
  simp only [Dev.trains, h.negotiates, Dev.flag, h.1]

theorem Dev.SameSettings.laneOn {d e : Dev} {l : Nat} (h : d.SameSettings e l) : e.laneOn l = d.laneOn l := by
  simp only [Dev.laneOn, h.groupMode, Dev.flag, h.1, h.2]

theorem Dev.SameSettings.laneMac {d e : Dev} {l : Nat} (h : d.SameSettings e l) : e.laneMac l = d.laneMac l := by
  rw [Dev.laneMac, h.groupMode, Dev.laneMac]

theorem Dev.laneMac_lt (d : Dev) {l : Nat} (h : l < 64) : d.laneMac l < 64 := by
  unfold Dev.laneMac
  split <;> omega

theorem Dev.laneMac_div (d : Dev) (l : Nat) : d.laneMac l / 4 = l / 4 := by
  unfold Dev.laneMac
  split <;> omega

/-! ## What is shown of a lane's state -/

theorem LaneState.code_lt (x : LaneState) : x.code < 8 := by cases x <;> decide

theorem Dev.laneState_setLane (d : Dev) (l : Nat) (x : LaneState) : (d.setLane l x).laneState l = x.code := by
  unfold Dev.laneState Dev.setLane
  dsimp only
  rw [Dev.fld_setFld_field _ _ ⟨by decide, by decide⟩ (by decide), Dev.fld_setFld_field _ _ ⟨by decide, by decide⟩ (by decide),
    Dev.fld_setFld_same _ _ ⟨by decide, by decide⟩]
  exact Nat.mod_eq_of_lt x.code_lt

theorem Dev.blockLock_setLane (d : Dev) (l : Nat) (x : LaneState) :
    (d.setLane l x).flag (Reg.laneStatus l) F.laneStatus_blockLock = (x == .locked) := by
  unfold Dev.setLane
  dsimp only
  rw [Dev.flag_setFld_same _ _ ⟨by decide, by decide⟩ rfl]
  cases x <;> rfl

theorem Dev.cdrLock_setLane (d : Dev) (l : Nat) (x : LaneState) :
    (d.setLane l x).flag (Reg.laneStatus l) F.laneStatus_cdrLock = (x == .locked) := by
  unfold Dev.setLane
  dsimp only
  rw [Dev.flag_setFld_field _ _ ⟨by decide, by decide⟩ (by decide), Dev.flag_setFld_same _ _ ⟨by decide, by decide⟩ rfl]
  cases x <;> rfl

/-- The fields of LANE_STATUS below STATE and the two lock bits are no part of a lane's state. -/
theorem Dev.flag_setLane_below (d : Dev) (l : Nat) (x : LaneState) {g : Fld} (h : g.hi < 27) :
    (d.setLane l x).flag (Reg.laneStatus l) g = d.flag (Reg.laneStatus l) g := by
  unfold Dev.setLane
  dsimp only
  rw [Dev.flag_setFld_field _ _ ⟨by decide, by decide⟩ (.inl h),
    Dev.flag_setFld_field _ _ ⟨by decide, by decide⟩ (.inl (h.trans (by decide))),
    Dev.flag_setFld_field _ _ ⟨by decide, by decide⟩ (.inl (h.trans (by decide)))]

theorem Dev.keepsRegs_setLane (d : Dev) (l : Nat) (x : LaneState) : d.KeepsRegs (d.setLane l x) [Reg.laneStatus l] :=
  ((Dev.keepsRegs_setFld d _ _ _).trans (Dev.keepsRegs_setFld _ _ _ _)).trans (Dev.keepsRegs_setFld _ _ _ _)

theorem Dev.KeepsRegs.mono {d e : Dev} {l w : List Nat} (h : d.KeepsRegs e l) (hw : l ⊆ w) : d.KeepsRegs e w := fun a ha => h a fun hl => ha (hw hl)

theorem Dev.KeepsRegs.refl (d : Dev) (l : List Nat) : d.KeepsRegs d l := fun _ _ => rfl

theorem Dev.KeepsRegs.fld {d e : Dev} {l : List Nat} (h : d.KeepsRegs e l) {a : Nat} (ha : a ∉ l) (f : Fld) : e.fld a f = d.fld a f := by
  rw [Dev.fld, h a ha, Dev.fld]

theorem Dev.KeepsRegs.flag {d e : Dev} {l : List Nat} (h : d.KeepsRegs e l) {a : Nat} (ha : a ∉ l) (f : Fld) : e.flag a f = d.flag a f := by
  rw [Dev.flag, h a ha, Dev.flag]

theorem Dev.keepsRegs_onLane (d : Dev) (l : Nat) (f : LaneDyn → LaneDyn) (w : List Nat) : d.KeepsRegs (d.onLane l f) w :=
  fun a _ => d.onLane_read_reg l f a

theorem Dev.keepsRegs_fresh (d : Dev) (w : List Nat) : d.KeepsRegs d.fresh.2 w := fun _ _ => Dev.reg_of_regs rfl _

/-! ## Cold and warm starts (R334, R337) -/

/-- What a lane beside its registers holds after a cold start whose receiver state is `eq`. -/
def LaneDyn.cold (x : LaneDyn) (eq : Nat) : LaneDyn := { x with snap := none, run := 0, least := 255, eq := eq, begun := true }

/-- What a cold start of a lane shows and holds. -/
structure Dev.ColdStarted (d t : Dev) (l : Nat) : Prop where
  state : t.laneState l = if d.trains l = true then 2 else 1
  blockLock : t.flag (Reg.laneStatus l) F.laneStatus_blockLock = false
  cdrLock : t.flag (Reg.laneStatus l) F.laneStatus_cdrLock = false
  frozen : t.flag (Reg.laneStatus l) F.laneStatus_frozen = false
  snapValid : t.flag (Reg.laneStatus l) F.laneStatus_snapValid = false
  coldStarts : t.fld (Reg.laneCnt l) F.laneCnt_coldStarts = (d.fld (Reg.laneCnt l) F.laneCnt_coldStarts + 1) % 256
  lane : ∃ eq, t.lane l = (d.lane l).cold eq

theorem Dev.ColdStarted.later {d e t : Dev} {l : Nat} (h : d.ColdStarted e l) (hs : t.reg (Reg.laneStatus l) = e.reg (Reg.laneStatus l))
    (hc : t.reg (Reg.laneCnt l) = e.reg (Reg.laneCnt l)) (hl : t.lane l = e.lane l) : d.ColdStarted t l := by
  have hflag (f : Fld) : t.flag (Reg.laneStatus l) f = e.flag (Reg.laneStatus l) f := by rw [Dev.flag, hs, Dev.flag]
  obtain ⟨eq, hlane⟩ := h.lane
  refine ⟨?_, (hflag _).trans h.blockLock, (hflag _).trans h.cdrLock, (hflag _).trans h.frozen, (hflag _).trans h.snapValid, ?_,
    eq, hl.trans hlane⟩
  · rw [Dev.laneState, Dev.fld, hs]
    exact h.state
  · rw [Dev.fld, hc]
    exact h.coldStarts

theorem Dev.lanesChanged_dropSnap (d : Dev) (l : Nat) : d.LanesChanged (d.dropSnap l) :=
  (d.lanesChanged_onLane l _).setFld _ _ _

theorem Dev.lanesChanged_setEq (d : Dev) (l eq : Nat) : d.LanesChanged (d.setEq l eq) :=
  ((d.lanesChanged_onLane l _).setFld _ _ _).setFld _ _ _

theorem Dev.lanesChanged_adapt (d : Dev) (l : Nat) : d.LanesChanged (d.adapt l) :=
  Dev.LanesChanged.trans (e := d.fresh.2) rfl (Dev.lanesChanged_setEq _ _ _)

theorem Dev.lanesChanged_takeTaps (d : Dev) (l : Nat) : d.LanesChanged (d.takeTaps l) :=
  ((d.lanesChanged_setFld _ _ _).setFld _ _ _).setFld _ _ _

theorem Dev.lanesChanged_setLane (d : Dev) (l : Nat) (x : LaneState) : d.LanesChanged (d.setLane l x) :=
  ((d.lanesChanged_setFld _ _ _).setFld _ _ _).setFld _ _ _

theorem Dev.lanesChanged_showGroup (d : Dev) (p : Nat) : d.LanesChanged (d.showGroup p) :=
  (d.lanesChanged_setFld _ _ _).setFld _ _ _

/-- The lane right before a cold start gives it its state. -/
def Dev.coldBase (d : Dev) (l : Nat) : Dev :=
  (((((d.dropSnap l).adapt l).takeTaps l).onLane l fun x => { x with begun := true }).setFld (Reg.laneStatus l) F.laneStatus_frozen 0).addFld
    (Reg.laneCnt l) F.laneCnt_coldStarts 1

theorem Dev.coldStart_coldBase (d : Dev) (l : Nat) :
    d.coldStart l = (d.coldBase l).setLane l (if (d.coldBase l).trains l then .training else .coldAdapt) := rfl

theorem Dev.lanesChanged_coldBase (d : Dev) (l : Nat) : d.LanesChanged (d.coldBase l) :=
  (((((d.lanesChanged_dropSnap l).trans (Dev.lanesChanged_adapt _ l)).trans (Dev.lanesChanged_takeTaps _ l)).onLane l _).setFld _ _ _).setFld
    _ _ _

theorem Dev.lanesChanged_coldStart (d : Dev) (l : Nat) : d.LanesChanged (d.coldStart l) :=
  (d.lanesChanged_coldBase l).trans (Dev.lanesChanged_setLane _ _ _)

theorem Dev.lanesChanged_warmStart (d : Dev) (l eq : Nat) : d.LanesChanged (d.warmStart l eq) :=
  ((d.lanesChanged_setEq l eq).setFld _ _ _).trans (Dev.lanesChanged_setLane _ _ _)

/-- The receiver and the transmitter of a lane are shown in LANE_ADAPT alone. -/
theorem Dev.keepsRegs_setEq (d : Dev) (l eq : Nat) : d.KeepsRegs (d.setEq l eq) [Reg.laneAdapt l] :=
  ((d.keepsRegs_onLane l _ _).trans (Dev.keepsRegs_setFld _ _ _ _)).trans (Dev.keepsRegs_setFld _ _ _ _)

theorem Dev.keepsRegs_adapt (d : Dev) (l : Nat) : d.KeepsRegs (d.adapt l) [Reg.laneAdapt l] :=
  (d.keepsRegs_fresh _).trans (Dev.keepsRegs_setEq _ l _)

theorem Dev.keepsRegs_takeTaps (d : Dev) (l : Nat) : d.KeepsRegs (d.takeTaps l) [Reg.laneAdapt l] :=
  ((Dev.keepsRegs_setFld d _ _ _).trans (Dev.keepsRegs_setFld _ _ _ _)).trans (Dev.keepsRegs_setFld _ _ _ _)

theorem Dev.keepsRegs_dropSnap (d : Dev) (l : Nat) : d.KeepsRegs (d.dropSnap l) [Reg.laneStatus l] :=
  (d.keepsRegs_onLane l _ _).trans (Dev.keepsRegs_setFld _ _ _ _)

theorem Dev.keepsRegs_coldBase (d : Dev) (l : Nat) :
    d.KeepsRegs (d.coldBase l) [Reg.laneStatus l, Reg.laneAdapt l, Reg.laneCnt l] := by
  have htaps : d.KeepsRegs (((d.dropSnap l).adapt l).takeTaps l) [Reg.laneStatus l, Reg.laneAdapt l, Reg.laneCnt l] :=
    (((d.keepsRegs_dropSnap l).mono (by simp)).trans ((Dev.keepsRegs_adapt _ l).mono (by simp))).trans
      ((Dev.keepsRegs_takeTaps _ l).mono (by simp))
  exact ((htaps.trans (Dev.keepsRegs_onLane _ l _ _)).trans ((Dev.keepsRegs_setFld _ _ _ _).mono (by simp))).trans ((Dev.keepsRegs_setFld _ _ _ _).mono (by simp))

theorem Dev.keepsRegs_coldStart (d : Dev) (l : Nat) :
    d.KeepsRegs (d.coldStart l) [Reg.laneStatus l, Reg.laneAdapt l, Reg.laneCnt l] :=
  (d.keepsRegs_coldBase l).trans ((Dev.keepsRegs_setLane _ _ _).mono (by simp))

theorem Dev.keepsRegs_warmStart (d : Dev) (l eq : Nat) : d.KeepsRegs (d.warmStart l eq) [Reg.laneStatus l, Reg.laneAdapt l] :=
  (((d.keepsRegs_setEq l eq).mono (by simp)).trans ((Dev.keepsRegs_setFld _ _ _ _).mono (by simp))).trans
    ((Dev.keepsRegs_setLane _ _ _).mono (by simp))

/-- A register below those of the ports is a setting of no port. -/
theorem Dev.SameSettings.of_keepsLaneRegs {d e : Dev} {w : List Nat} {l : Nat} (h : d.KeepsRegs e w)
    (hw : ∀ a ∈ w, a < Reg.portGroupCfg 0) : d.SameSettings e l :=
  .of_keepsRegs h (fun hm => absurd (hw _ hm) (by simp only [Reg.portGroupCfg]; omega))
    fun hm => absurd (hw _ hm) (by simp only [Reg.portGroupCfg, Reg.portMacCtl]; omega)

theorem laneRegs_lt {l : Nat} (h : l < 64) : ∀ a ∈ [Reg.laneStatus l, Reg.laneAdapt l, Reg.laneCnt l], a < Reg.portGroupCfg 0 := by
  simp only [List.mem_cons, List.not_mem_nil, or_false, Reg.laneStatus, Reg.laneAdapt, Reg.laneCnt, Reg.portGroupCfg]
  omega

theorem Dev.sameSettings_coldStart (d : Dev) {l : Nat} (h : l < 64) (k : Nat) : d.SameSettings (d.coldStart l) k :=
  .of_keepsLaneRegs (d.keepsRegs_coldStart l) (laneRegs_lt h)

theorem Dev.sameSettings_warmStart (d : Dev) {l : Nat} (h : l < 64) (eq k : Nat) : d.SameSettings (d.warmStart l eq) k :=
  .of_keepsLaneRegs ((d.keepsRegs_warmStart l eq).mono (by simp)) (laneRegs_lt h)

theorem Dev.lane_setEq_same (d : Dev) (l eq : Nat) : (d.setEq l eq).lane l = { d.lane l with eq := eq } := by
  simp only [Dev.setEq, Dev.lane_setFld, Dev.lane_onLane_same]

theorem Dev.lane_setEq_other (d : Dev) {l k : Nat} (eq : Nat) (h : k ≠ l) : (d.setEq l eq).lane k = d.lane k := by
  simp only [Dev.setEq, Dev.lane_setFld, Dev.lane_onLane_other _ _ h]

@[simp] theorem Dev.lane_setLane (d : Dev) (l : Nat) (x : LaneState) (k : Nat) : (d.setLane l x).lane k = d.lane k := by
  simp only [Dev.setLane, Dev.lane_setFld]

@[simp] theorem Dev.lane_takeTaps (d : Dev) (l k : Nat) : (d.takeTaps l).lane k = d.lane k := by
  simp only [Dev.takeTaps, Dev.lane_setFld]

@[simp] theorem Dev.lane_showGroup (d : Dev) (p k : Nat) : (d.showGroup p).lane k = d.lane k := by
  simp only [Dev.showGroup, Dev.lane_setFld]

@[simp] theorem Dev.lane_fresh (d : Dev) (k : Nat) : d.fresh.2.lane k = d.lane k := Dev.lane_of_lan rfl k

theorem Dev.lane_coldStart_same (d : Dev) (l : Nat) : (d.coldStart l).lane l = (d.lane l).cold ((d.dropSnap l).fresh.1 + 1) := by
  rw [Dev.coldStart_coldBase, Dev.lane_setLane, Dev.coldBase, Dev.lane_addFld, Dev.lane_setFld, Dev.lane_onLane_same, Dev.lane_takeTaps,
    Dev.adapt, Dev.lane_setEq_same]
  rw [Dev.lane_fresh, Dev.dropSnap, Dev.lane_setFld, Dev.lane_onLane_same]
  rfl

theorem Dev.lane_coldStart_other (d : Dev) {l k : Nat} (h : k ≠ l) : (d.coldStart l).lane k = d.lane k := by
  rw [Dev.coldStart_coldBase, Dev.lane_setLane, Dev.coldBase, Dev.lane_addFld, Dev.lane_setFld, Dev.lane_onLane_other _ _ h,
    Dev.lane_takeTaps, Dev.adapt, Dev.lane_setEq_other _ _ h]
  rw [Dev.lane_fresh, Dev.dropSnap, Dev.lane_setFld, Dev.lane_onLane_other _ _ h]

theorem Dev.lane_warmStart_same (d : Dev) (l eq : Nat) : (d.warmStart l eq).lane l = { d.lane l with eq := eq } := by
  simp only [Dev.warmStart, Dev.lane_setLane, Dev.lane_setFld, Dev.lane_setEq_same]

theorem Dev.lane_warmStart_other (d : Dev) {l k : Nat} (eq : Nat) (h : k ≠ l) : (d.warmStart l eq).lane k = d.lane k := by
  simp only [Dev.warmStart, Dev.lane_setLane, Dev.lane_setFld, Dev.lane_setEq_other _ _ h]

theorem Dev.coldBase_flags (d : Dev) (l : Nat) :
    (d.coldBase l).flag (Reg.laneStatus l) F.laneStatus_frozen = false ∧
      (d.coldBase l).flag (Reg.laneStatus l) F.laneStatus_snapValid = false := by
  have hcnt : Reg.laneStatus l ≠ Reg.laneCnt l := by simp
  have hadapt : Reg.laneStatus l ∉ [Reg.laneAdapt l] := by simp
  rw [Dev.coldBase, Dev.addFld, Dev.flag_setFld_other _ _ _ _ hcnt, Dev.flag_setFld_other _ _ _ _ hcnt]
  constructor
  · rw [Dev.flag_setFld_same _ _ ⟨by decide, by decide⟩ rfl]
    rfl
  · rw [Dev.flag_setFld_field _ _ ⟨by decide, by decide⟩ (by decide)]
    rw [(Dev.keepsRegs_onLane _ l _ []).flag List.not_mem_nil, (Dev.keepsRegs_takeTaps _ l).flag hadapt, (Dev.keepsRegs_adapt _ l).flag hadapt, Dev.dropSnap,
      Dev.flag_setFld_same _ _ ⟨by decide, by decide⟩ rfl]
    rfl

theorem Dev.coldStarts_coldBase (d : Dev) (l : Nat) :
    (d.coldBase l).fld (Reg.laneCnt l) F.laneCnt_coldStarts = (d.fld (Reg.laneCnt l) F.laneCnt_coldStarts + 1) % 256 := by
  have hstatus : Reg.laneCnt l ≠ Reg.laneStatus l := by simp
  have hadapt : Reg.laneCnt l ∉ [Reg.laneAdapt l] := by simp
  have hbase : (((d.dropSnap l).adapt l).takeTaps l).fld (Reg.laneCnt l) F.laneCnt_coldStarts = d.fld (Reg.laneCnt l) F.laneCnt_coldStarts := by
    rw [(Dev.keepsRegs_takeTaps _ l).fld hadapt, (Dev.keepsRegs_adapt _ l).fld hadapt,
      (d.keepsRegs_dropSnap l).fld (by simp)]
  rw [Dev.coldBase, Dev.fld_addFld_same _ _ ⟨by decide, by decide⟩, Dev.fld_setFld_other _ _ _ _ hstatus,
    (Dev.keepsRegs_onLane _ l _ []).fld List.not_mem_nil, hbase]
  rfl

theorem Dev.coldStart_started (d : Dev) {l : Nat} (h : l < 64) : d.ColdStarted (d.coldStart l) l := by
  have htrains : (d.coldBase l).trains l = d.trains l :=
    Dev.SameSettings.trains (.of_keepsLaneRegs (d.keepsRegs_coldBase l) (laneRegs_lt h))
  obtain ⟨hfrozen, hvalid⟩ := d.coldBase_flags l
  refine ⟨?_, ?_, ?_, ?_, ?_, ?_, _, d.lane_coldStart_same l⟩ <;> rw [Dev.coldStart_coldBase]
  · rw [Dev.laneState_setLane, htrains]
    split <;> rfl
  · rw [Dev.blockLock_setLane]
    split <;> rfl
  · rw [Dev.cdrLock_setLane]
    split <;> rfl
  · rw [Dev.flag_setLane_below _ _ _ (by decide), hfrozen]
  · rw [Dev.flag_setLane_below _ _ _ (by decide), hvalid]
  · rw [(Dev.keepsRegs_setLane _ _ _).fld (by simp), d.coldStarts_coldBase]

theorem Dev.warmStart_shows (d : Dev) (l eq : Nat) :
    (d.warmStart l eq).laneState l = 4 ∧ (d.warmStart l eq).flag (Reg.laneStatus l) F.laneStatus_blockLock = false ∧
      (d.warmStart l eq).flag (Reg.laneStatus l) F.laneStatus_cdrLock = false ∧
      (d.warmStart l eq).flag (Reg.laneStatus l) F.laneStatus_frozen = false := by
  refine ⟨Dev.laneState_setLane _ _ _, Dev.blockLock_setLane _ _ _, Dev.cdrLock_setLane _ _ _, ?_⟩
  rw [Dev.warmStart, Dev.flag_setLane_below _ _ _ (by decide), Dev.flag_setFld_same _ _ ⟨by decide, by decide⟩ rfl]
  rfl

/-! ## Ports that go down (R338, R339) -/

theorem Dev.keepsRegs_record (d : Dev) (c kind sub obj : Nat) (data : List Nat) :
    d.KeepsRegs (d.record c kind sub obj data) [Reg.rplLogStatus c, Reg.rplLogSeq c] := fun _ ha =>
  Dev.reg_record d c kind sub obj data (List.ne_of_not_mem_cons ha) (List.ne_of_not_mem_cons (List.not_mem_of_not_mem_cons ha))

theorem Dev.keepsRegs_postEvent (d : Dev) (c : Nat) (e : EventCode) (obj : Nat) (ws : List Nat) :
    d.KeepsRegs (d.postEvent c e obj ws) [Reg.hifEvqStatus c] := fun _ ha =>
  Dev.reg_postEvent d c e obj ws (List.ne_of_not_mem_cons ha)

theorem Dev.keepsRegs_macCount (d : Dev) (m i n : Nat) : d.KeepsRegs (d.macCount m i n) [Reg.portMacCntLo m i, Reg.portMacCntHi m i] :=
  fun _ ha => Dev.reg_macCount_other d m i n (List.ne_of_not_mem_cons ha) (List.ne_of_not_mem_cons (List.not_mem_of_not_mem_cons ha))

theorem Dev.keepsRegs_showGroup (d : Dev) (p : Nat) : d.KeepsRegs (d.showGroup p) [Reg.portGroupStatus p] :=
  (d.keepsRegs_setFld _ _ _).trans (Dev.keepsRegs_setFld _ _ _ _)

@[simp] theorem Dev.lane_macCount (d : Dev) (m i n l : Nat) : (d.macCount m i n).lane l = d.lane l :=
  Dev.lane_of_lan (by rw [Dev.macCount_eq]) l

/-- A control frame that waits at a port that goes down: its descriptor, where it has one, ends. -/
def Dev.dropControl (d : Dev) (w : Nat × Option Desc × List Nat) : Dev :=
  match w.2.1 with
  | some x => d.finish x 0x20 []
  | none => d

theorem Dev.reg_dropControl (d : Dev) (w : Nat × Option Desc × List Nat) (a : Nat) : (d.dropControl w).reg a = d.reg a := by
  unfold Dev.dropControl
  split
  · exact Dev.reg_finish _ _ _ _ _
  · rfl

theorem Dev.netChanged_dropControl (d : Dev) (w : Nat × Option Desc × List Nat) : d.NetChanged (d.dropControl w) := by
  unfold Dev.dropControl
  split
  · exact d.netChanged_finish _ _ _
  · rfl

theorem Dev.lan_dropControl (d : Dev) (w : Nat × Option Desc × List Nat) : (d.dropControl w).lan = d.lan := by
  unfold Dev.dropControl
  split
  · rw [Dev.finish_eq]
  · rfl

/-- A port that is down, as its registers show it, with the frames discarded counted. -/
def Dev.downShown (d : Dev) (m : Nat) : Dev :=
  (((((d.setFld (Reg.portMacStatus m) F.portMacStatus_link 0).setFld (Reg.portMacStatus m) F.portMacStatus_localFault 1).addFld
    (Reg.portGroupStatus (m / 4)) F.portGroupStatus_downs 1).setFld (Reg.portGroupStatus (m / 4)) F.portGroupStatus_aligned 0).macCount m 10
      ((Tab.get noList d.egs.control m).length + (Tab.get noList d.egs.layout m).length))

/-- No frame waits at a port any more, and it accepts no egress. -/
def Dev.emptied (d : Dev) (m : Nat) : Dev :=
  { d with egs := { d.egs with control := Tab.put noList d.egs.control m [], layout := Tab.put noList d.egs.layout m [] }
           lan := { d.lan with upFrom := Tab.put zero d.lan.upFrom m 0 } }

theorem Dev.portDown_of_down {d : Dev} {m : Nat} (h : d.linkUp m = false) :
    d.portDown m = d.setFld (Reg.portMacStatus m) F.portMacStatus_localFault 1 := by
  unfold Dev.portDown
  dsimp only
  rw [h]
  rfl

theorem Dev.portDown_of_up {d : Dev} {m : Nat} (h : d.linkUp m = true) :
    d.portDown m = (((Tab.get noList d.egs.control m).foldl Dev.dropControl (d.downShown m)).emptied m).pathEvent m .portDown := by
  unfold Dev.portDown
  dsimp only
  rw [h]
  rfl

/-- The registers that a port going down writes. -/
def downRegs (m : Nat) : List Nat :=
  [Reg.portMacStatus m, Reg.portGroupStatus (m / 4), Reg.portMacCntLo m 10, Reg.portMacCntHi m 10, Reg.rplLogStatus 0, Reg.rplLogSeq 0]

theorem Dev.keepsRegs_downShown (d : Dev) (m : Nat) : d.KeepsRegs (d.downShown m) (downRegs m) :=
  ((((d.keepsRegs_setFld _ _ _).trans (Dev.keepsRegs_setFld _ _ _ _)).mono (by simp [downRegs])).trans
    (((Dev.keepsRegs_setFld _ _ _ _).trans (Dev.keepsRegs_setFld _ _ _ _)).mono (by simp [downRegs]))).trans
      ((Dev.keepsRegs_macCount _ _ _ _).mono (by simp [downRegs]))

theorem Dev.reg_foldl_dropControl (d : Dev) (l : List (Nat × Option Desc × List Nat)) (a : Nat) : (l.foldl Dev.dropControl d).reg a = d.reg a :=
  Dev.foldl_keeps (fun e => e.reg a) (fun e w _ => e.reg_dropControl w a) d

theorem Dev.netChanged_emptied (d : Dev) (m : Nat) : d.NetChanged (d.emptied m) := rfl

theorem Dev.reg_emptied (d : Dev) (m a : Nat) : (d.emptied m).reg a = d.reg a := Dev.reg_of_regs rfl a

theorem Dev.keepsRegs_portDown (d : Dev) (m : Nat) : d.KeepsRegs (d.portDown m) (downRegs m) := by
  cases h : d.linkUp m
  · rw [Dev.portDown_of_down h]
    exact (d.keepsRegs_setFld _ _ _).mono (by simp [downRegs])
  · rw [Dev.portDown_of_up h]
    refine Dev.KeepsRegs.trans (fun a ha => ?_) ((Dev.keepsRegs_record _ _ _ _ _ _).mono (by simp [downRegs]))
    rw [Dev.reg_emptied, Dev.reg_foldl_dropControl]
    exact d.keepsRegs_downShown m a ha

theorem Dev.lane_portDown (d : Dev) (m k : Nat) : (d.portDown m).lane k = d.lane k := by
  cases h : d.linkUp m
  · rw [Dev.portDown_of_down h, Dev.lane_setFld]
  · rw [Dev.portDown_of_up h, Dev.pathEvent, Dev.lane_record]
    show ((Tab.get noList d.egs.control m).foldl Dev.dropControl (d.downShown m)).lane k = _
    rw [Dev.lane_of_lan (Dev.foldl_keeps Dev.lan (fun e w _ => e.lan_dropControl w) _), Dev.downShown,
      Dev.lane_macCount, Dev.lane_setFld, Dev.lane_addFld, Dev.lane_setFld, Dev.lane_setFld]

theorem Dev.netChanged_downShown (d : Dev) (m : Nat) : d.NetChanged (d.downShown m) := by
  unfold Dev.downShown
  exact ((((d.lanesChanged_setFld _ _ _).setFld _ _ _).addFld _ _ _).setFld _ _ _).netChanged.trans (Dev.netChanged_macCount _ _ _ _)

theorem Dev.netChanged_foldl_dropControl (d : Dev) (l : List (Nat × Option Desc × List Nat)) : d.NetChanged (l.foldl Dev.dropControl d) :=
  List.foldlRecOn (motive := d.NetChanged) l _ (Dev.NetChanged.refl d) fun e he w _ => he.trans (e.netChanged_dropControl w)

theorem Dev.netChanged_portDown (d : Dev) (m : Nat) : d.NetChanged (d.portDown m) := by
  cases h : d.linkUp m
  · rw [Dev.portDown_of_down h]
    exact (d.lanesChanged_setFld _ _ _).netChanged
  · rw [Dev.portDown_of_up h]
    exact (((d.netChanged_downShown m).trans (Dev.netChanged_foldl_dropControl _ _)).trans (Dev.netChanged_emptied _ m)).trans (Dev.netChanged_record _ _ _ _ _ _)

/-- A port's status is none of its counters, nor its group's status, and lies below the registers of records. -/
theorem portMacStatus_not_mem {m : Nat} (h : m < 64) : ∀ a ∈ [Reg.portGroupStatus (m / 4), Reg.portMacCntLo m 10, Reg.portMacCntHi m 10,
    Reg.rplLogStatus 0, Reg.rplLogSeq 0], Reg.portMacStatus m ≠ a := by
  simp only [List.mem_cons, List.not_mem_nil, or_false, Reg.portMacStatus, Reg.portGroupStatus, Reg.portMacCntLo, Reg.portMacCntHi,
    Reg.rplLogStatus, Reg.rplLogSeq]
  omega

theorem Dev.linkUp_downShown (d : Dev) {m : Nat} (h : m < 64) : (d.downShown m).linkUp m = false := by
  have hne := portMacStatus_not_mem h
  have hgroup : Reg.portMacStatus m ≠ Reg.portGroupStatus (m / 4) := hne _ (by simp)
  unfold Dev.linkUp Dev.downShown
  rw [(Dev.keepsRegs_macCount _ _ _ _).flag fun ha => hne _ (by simp only [List.mem_cons] at ha ⊢; tauto) rfl,
    Dev.flag_setFld_other _ _ _ _ hgroup, Dev.addFld, Dev.flag_setFld_other _ _ _ _ hgroup,
    Dev.flag_setFld_field _ _ ⟨by decide, by decide⟩ (by decide), Dev.flag_setFld_same _ _ ⟨by decide, by decide⟩ rfl]
  rfl

theorem Dev.linkUp_portDown (d : Dev) {m : Nat} (h : m < 64) : (d.portDown m).linkUp m = false := by
  cases hup : d.linkUp m
  · rw [Dev.portDown_of_down hup, Dev.linkUp, Dev.flag_setFld_field _ _ ⟨by decide, by decide⟩ (by decide)]
    exact hup
  · rw [Dev.portDown_of_up hup, Dev.linkUp, Dev.pathEvent, (Dev.keepsRegs_record _ _ _ _ _ _).flag fun ha =>
        portMacStatus_not_mem h _ (by simp only [List.mem_cons] at ha ⊢; tauto) rfl, Dev.flag, Dev.reg_emptied, Dev.reg_foldl_dropControl]
    exact d.linkUp_downShown h

/-- What a port going down writes lies above the lanes' registers, and is no port's settings. -/
theorem le_downRegs (m : Nat) : ∀ a ∈ downRegs m, Reg.portGroupStatus 0 ≤ a := by
  simp only [downRegs, List.mem_cons, List.not_mem_nil, or_false, Reg.portMacStatus, Reg.portGroupStatus, Reg.portMacCntLo, Reg.portMacCntHi,
    Reg.rplLogStatus, Reg.rplLogSeq]
  omega

theorem settings_not_mem_downRegs (m : Nat) {l : Nat} (hl : l < 64) :
    Reg.portGroupCfg (l / 4) ∉ downRegs m ∧ Reg.portMacCtl l ∉ downRegs m := by
  simp only [downRegs, List.mem_cons, List.not_mem_nil, or_false, Reg.portMacStatus, Reg.portGroupStatus, Reg.portMacCntLo, Reg.portMacCntHi,
    Reg.rplLogStatus, Reg.rplLogSeq, Reg.portGroupCfg, Reg.portMacCtl]
  omega

/-! ## LANE_LOCK_LOSS (R337–R339) -/

/-- The port of a lane goes down, and its group shows it. -/
def Dev.laneDown (d : Dev) (l : Nat) : Dev := (d.portDown (d.laneMac l)).showGroup (l / 4)

theorem Dev.netChanged_laneDown (d : Dev) (l : Nat) : d.NetChanged (d.laneDown l) :=
  (d.netChanged_portDown _).trans (Dev.lanesChanged_showGroup _ _).netChanged

@[simp] theorem Dev.lane_laneDown (d : Dev) (l k : Nat) : (d.laneDown l).lane k = d.lane k := by
  rw [Dev.laneDown, Dev.lane_showGroup, Dev.lane_portDown]

/-- The registers of lanes lie below those of the ports. -/
theorem Dev.reg_laneDown (d : Dev) (l : Nat) {a : Nat} (h : a < Reg.portGroupCfg 0) : (d.laneDown l).reg a = d.reg a := by
  have hlow : a < Reg.portGroupStatus 0 := h.trans (by decide)
  have hshow : a ∉ [Reg.portGroupStatus (l / 4)] := by
    simp only [List.mem_singleton, Reg.portGroupStatus] at hlow ⊢
    omega
  rw [Dev.laneDown, Dev.keepsRegs_showGroup _ _ a hshow]
  exact d.keepsRegs_portDown _ a fun ha => absurd (le_downRegs _ a ha) (Nat.not_le.mpr hlow)

theorem Dev.linkUp_showGroup (d : Dev) {m p : Nat} (h : m < 64) (hp : p < 16) : (d.showGroup p).linkUp m = d.linkUp m :=
  (d.keepsRegs_showGroup p).flag (by simp only [List.mem_singleton, Reg.portMacStatus, Reg.portGroupStatus]; omega) _

theorem Dev.linkUp_laneDown (d : Dev) {l : Nat} (h : l < 64) : (d.laneDown l).linkUp (d.laneMac l) = false := by
  rw [Dev.laneDown, Dev.linkUp_showGroup _ (d.laneMac_lt h) (by omega), Dev.linkUp_portDown _ (d.laneMac_lt h)]

/-- A lane has lost lock at a local time: the event is recorded. -/
def Dev.lockLost (d : Dev) (l t : Nat) : Dev := (d.onLane l fun x => { x with lost := some t, run := 0, least := 255 }).pathEvent l .lockLost

theorem Dev.netChanged_lockLost (d : Dev) (l t : Nat) : d.NetChanged (d.lockLost l t) :=
  (d.lanesChanged_onLane l _).netChanged.trans (Dev.netChanged_record _ _ _ _ _ _)

theorem Dev.keepsRegs_lockLost (d : Dev) (l t : Nat) : d.KeepsRegs (d.lockLost l t) [Reg.rplLogStatus 0, Reg.rplLogSeq 0] :=
  (d.keepsRegs_onLane l _ _).trans (Dev.keepsRegs_record _ _ _ _ _ _)

theorem Dev.lane_lockLost_same (d : Dev) (l t : Nat) : (d.lockLost l t).lane l = { d.lane l with lost := some t, run := 0, least := 255 } := by
  rw [Dev.lockLost, Dev.pathEvent, Dev.lane_record, Dev.lane_onLane_same]

theorem Dev.lane_lockLost_other (d : Dev) {l k : Nat} (t : Nat) (h : k ≠ l) : (d.lockLost l t).lane k = d.lane k := by
  rw [Dev.lockLost, Dev.pathEvent, Dev.lane_record, Dev.lane_onLane_other _ _ h]

/-- The registers of lanes and of ports lie below those of records. -/
theorem Dev.reg_lockLost (d : Dev) (l t : Nat) {a : Nat} (h : a < Reg.rplLogStatus 0) : (d.lockLost l t).reg a = d.reg a :=
  d.keepsRegs_lockLost l t a (by
    simp only [List.mem_cons, List.not_mem_nil, or_false, Reg.rplLogStatus, Reg.rplLogSeq] at h ⊢
    omega)

/-- Whether a lane's last warm relock lies less than 1 s before a local time (R337). -/
def LaneDyn.relockedSince (x : LaneDyn) (t : Nat) : Bool := x.warmAt.any fun w => decide (t < w + 1000000000)

theorem Dev.laneLoss_warm {d : Dev} {l ns eq : Nat} (h : d.laneState l = 3) (hs : (d.lane l).snap = some eq)
    (hr : (d.lane l).relockedSince (d.localNs ns) = false) :
    d.laneLoss l ns = ((d.lockLost l (d.localNs ns)).warmStart l eq).laneDown l := by
  unfold Dev.laneLoss
  unfold LaneDyn.relockedSince at hr
  rw [if_neg (by rw [h]; decide)]
  dsimp only
  rw [hs]
  cases hw : (d.lane l).warmAt with
  | none => rfl
  | some w =>
    rw [hw, Option.any_some] at hr
    simp only [hr, Bool.false_eq_true, if_false]
    rfl

theorem Dev.laneLoss_cold {d : Dev} {l ns : Nat} (h : d.laneState l = 3)
    (hc : (d.lane l).snap = none ∨ (d.lane l).relockedSince (d.localNs ns) = true) :
    d.laneLoss l ns = ((d.lockLost l (d.localNs ns)).coldStart l).laneDown l := by
  unfold Dev.laneLoss
  unfold LaneDyn.relockedSince at hc
  rw [if_neg (by rw [h]; decide)]
  dsimp only
  rcases hc with hs | hr
  · rw [hs]
    rfl
  · obtain ⟨w, hw, hlt⟩ := (Option.any_eq_true _ _).mp hr
    rw [hw]
    cases (d.lane l).snap <;> simp only [hlt, if_true] <;> rfl

theorem Dev.sameSettings_lockLost (d : Dev) (l t : Nat) {k : Nat} (h : k < 64) : d.SameSettings (d.lockLost l t) k := by
  constructor <;> exact d.reg_lockLost l t (by simp only [Reg.portGroupCfg, Reg.portMacCtl, Reg.rplLogStatus]; omega)

theorem exec_laneLockLoss (lane ns : Nat) (s : State) :
    exec (.laneLockLoss lane ns) s = .next { s with dev := s.dev.laneLoss lane ns } := rfl

theorem laneStatus_lt {l : Nat} (h : l < 64) : Reg.laneStatus l < Reg.portGroupCfg 0 := laneRegs_lt h _ (by simp)

theorem laneCnt_lt {l : Nat} (h : l < 64) : Reg.laneCnt l < Reg.portGroupCfg 0 := laneRegs_lt h _ (by simp)

/-- A lane that has lost lock starts from a device `e` in which only it has started again, and its port goes down. -/
theorem Dev.laneDown_started {d e : Dev} {l t : Nat} (hl : l < 64) (hnet : (d.lockLost l t).LanesChanged e)
    (hset : (d.lockLost l t).SameSettings e l) (hkeep : ∀ k, k ≠ l → e.lane k = (d.lockLost l t).lane k) :
    d.NetChanged (e.laneDown l) ∧ (e.laneDown l).linkUp (d.laneMac l) = false ∧ ∀ k, k ≠ l → (e.laneDown l).lane k = d.lane k := by
  refine ⟨((d.netChanged_lockLost l t).trans hnet.netChanged).trans (e.netChanged_laneDown l), ?_, fun k hk => ?_⟩
  · rw [← ((d.sameSettings_lockLost l t hl).trans hset).laneMac]
    exact e.linkUp_laneDown hl
  · rw [Dev.lane_laneDown, hkeep k hk, d.lane_lockLost_other t hk]

/-- With a valid snapshot, and no warm relock within 1 s, the lane relocks warm from it. -/
theorem Dev.laneLoss_relocks {d : Dev} {l ns eq : Nat} (hl : l < 64) (h : d.laneState l = 3) (hs : (d.lane l).snap = some eq)
    (hr : (d.lane l).relockedSince (d.localNs ns) = false) :
    (d.laneLoss l ns).laneState l = 4 ∧ (d.laneLoss l ns).flag (Reg.laneStatus l) F.laneStatus_blockLock = false ∧
      (d.laneLoss l ns).flag (Reg.laneStatus l) F.laneStatus_cdrLock = false ∧
      (d.laneLoss l ns).flag (Reg.laneStatus l) F.laneStatus_frozen = false ∧
      ((d.laneLoss l ns).lane l) = { d.lane l with lost := some (d.localNs ns), run := 0, least := 255, eq := eq } ∧
      d.NetChanged (d.laneLoss l ns) ∧ (d.laneLoss l ns).linkUp (d.laneMac l) = false ∧
      ∀ k, k ≠ l → (d.laneLoss l ns).lane k = d.lane k := by
  rw [Dev.laneLoss_warm h hs hr]
  obtain ⟨hstate, hblock, hcdr, hfrozen⟩ := (d.lockLost l (d.localNs ns)).warmStart_shows l eq
  have hdown := fun f => congrArg (Fld.get f) (((d.lockLost l (d.localNs ns)).warmStart l eq).reg_laneDown l (laneStatus_lt hl))
  refine ⟨(hdown _).trans hstate, ?_, ?_, ?_, ?_, Dev.laneDown_started hl (Dev.lanesChanged_warmStart _ l eq)
    (Dev.sameSettings_warmStart _ hl eq l) fun k hk => Dev.lane_warmStart_other _ eq hk⟩
  · rw [Dev.flag, hdown]
    exact hblock
  · rw [Dev.flag, hdown]
    exact hcdr
  · rw [Dev.flag, hdown]
    exact hfrozen
  · rw [Dev.lane_laneDown, Dev.lane_warmStart_same, Dev.lane_lockLost_same]

/-- Without a valid snapshot, or within 1 s of a warm relock, the lane starts cold. -/
theorem Dev.laneLoss_startsCold {d : Dev} {l ns : Nat} (hl : l < 64) (h : d.laneState l = 3)
    (hc : (d.lane l).snap = none ∨ (d.lane l).relockedSince (d.localNs ns) = true) :
    (d.lockLost l (d.localNs ns)).ColdStarted (d.laneLoss l ns) l ∧
      d.NetChanged (d.laneLoss l ns) ∧ (d.laneLoss l ns).linkUp (d.laneMac l) = false ∧
      ∀ k, k ≠ l → (d.laneLoss l ns).lane k = d.lane k := by
  rw [Dev.laneLoss_cold h hc]
  exact ⟨(Dev.coldStart_started _ hl).later (Dev.reg_laneDown _ l (laneStatus_lt hl)) (Dev.reg_laneDown _ l (laneCnt_lt hl))
    (Dev.lane_laneDown _ l l), Dev.laneDown_started hl (Dev.lanesChanged_coldStart _ l) (Dev.sameSettings_coldStart _ hl l) fun k hk =>
      Dev.lane_coldStart_other _ hk⟩

theorem laneLockLoss_restarts {s : State} {lane : Nat} (ns : Nat) (hl : lane < 64) (h : s.dev.laneState lane = 3) :
    let x := s.dev.lane lane
    let warm := x.snap.isSome && !(x.warmAt.any fun w => decide (s.dev.localNs ns < w + 1000000000))
    ∃ t, exec (.laneLockLoss lane ns) s = .next t ∧
      t = { s with dev := { s.dev with regs := t.dev.regs, lan := t.dev.lan, egs := t.dev.egs, hif := t.dev.hif, out := t.dev.out
                                       log := t.dev.log, free := t.dev.free } } ∧
      t.dev.laneState lane = (if warm = true then 4 else if s.dev.trains lane = true then 2 else 1) ∧
      t.dev.flag (Reg.laneStatus lane) F.laneStatus_blockLock = false ∧ t.dev.flag (Reg.laneStatus lane) F.laneStatus_cdrLock = false ∧
      t.dev.flag (Reg.laneStatus lane) F.laneStatus_frozen = false ∧ (t.dev.lane lane).lost = some (s.dev.localNs ns) ∧
      t.dev.linkUp (s.dev.laneMac lane) = false ∧ (∀ l, l ≠ lane → t.dev.lane l = s.dev.lane l) ∧
      if warm = true then x.snap = some (t.dev.lane lane).eq ∧ (t.dev.lane lane).snap = x.snap
      else (t.dev.lane lane).snap = none ∧ t.dev.flag (Reg.laneStatus lane) F.laneStatus_snapValid = false ∧
        t.dev.fld (Reg.laneCnt lane) F.laneCnt_coldStarts = (s.dev.fld (Reg.laneCnt lane) F.laneCnt_coldStarts + 1) % 256 := by
  intro x warm
  refine ⟨_, exec_laneLockLoss lane ns s, ?_⟩
  cases hw : warm with
  | true =>
    obtain ⟨hsome, hsince⟩ : x.snap.isSome = true ∧ x.relockedSince (s.dev.localNs ns) = false := by
      simpa [warm, LaneDyn.relockedSince] using hw
    obtain ⟨eq, hs⟩ := Option.isSome_iff_exists.mp hsome
    obtain ⟨hstate, hblock, hcdr, hfrozen, hlane, hnet, hdown, hkeep⟩ := Dev.laneLoss_relocks hl h hs hsince
    refine ⟨hnet.state, hstate, hblock, hcdr, hfrozen, ?_, hdown, hkeep, ?_⟩
    · rw [hlane]
    · rw [if_pos rfl, hlane]
      exact ⟨hs, rfl⟩
  | false =>
    have hc : x.snap = none ∨ x.relockedSince (s.dev.localNs ns) = true := by
      simp only [warm, Bool.and_eq_false_iff, Bool.not_eq_false', Option.isSome_eq_false_iff, Option.isNone_iff_eq_none] at hw
      exact hw
    obtain ⟨hcold, hnet, hdown, hkeep⟩ := Dev.laneLoss_startsCold hl h hc
    obtain ⟨eq, hlane⟩ := hcold.lane
    have hcount := s.dev.reg_lockLost lane (s.dev.localNs ns) (a := Reg.laneCnt lane)
      ((laneCnt_lt hl).trans (by decide))
    refine ⟨hnet.state, ?_, hcold.blockLock, hcold.cdrLock, hcold.frozen, ?_, hdown, hkeep, ?_⟩
    · rw [hcold.state, (s.dev.sameSettings_lockLost lane _ hl).trains]
      rfl
    · rw [hlane, s.dev.lane_lockLost_same]
      rfl
    · rw [if_neg Bool.false_ne_true, hlane, hcold.coldStarts, Dev.fld, hcount]
      exact ⟨rfl, hcold.snapValid, rfl⟩

/-! ## WARM_RELOCK_TIMEOUT (R337) -/

/-- What is shown of a group lies above the registers of the lanes. -/
theorem Dev.reg_showGroup_below (d : Dev) (p : Nat) {a : Nat} (h : a < Reg.portGroupStatus 0) : (d.showGroup p).reg a = d.reg a :=
  d.keepsRegs_showGroup p a (by simp only [List.mem_singleton, Reg.portGroupStatus] at h ⊢; omega)

theorem Dev.reg_showGroup_lane (d : Dev) (p : Nat) {a : Nat} (h : a < Reg.portGroupCfg 0) : (d.showGroup p).reg a = d.reg a :=
  d.reg_showGroup_below p (h.trans (by decide))

theorem exec_warmRelockTimeout {s : State} {lane : Nat} (h : s.dev.laneState lane = 4) :
    exec (.warmRelockTimeout lane) s = .next { s with dev := (s.dev.coldStart lane).showGroup (lane / 4) } := by
  show execWarmRelockTimeout lane s = _
  rw [execWarmRelockTimeout, State.lift_eq, if_pos (by rw [h]; rfl)]

theorem warmRelockTimeout_startsCold {s : State} {lane : Nat} (hl : lane < 64) (h : s.dev.laneState lane = 4) :
    ∃ t, exec (.warmRelockTimeout lane) s = .next t ∧ t.dev.laneState lane = (if s.dev.trains lane = true then 2 else 1) ∧
      (t.dev.lane lane).snap = none ∧ (t.dev.lane lane).lost = (s.dev.lane lane).lost ∧
      t.dev.fld (Reg.laneCnt lane) F.laneCnt_coldStarts = (s.dev.fld (Reg.laneCnt lane) F.laneCnt_coldStarts + 1) % 256 ∧
      t = { s with dev := { s.dev with regs := t.dev.regs, lan := t.dev.lan, free := t.dev.free } } := by
  have hcold : s.dev.ColdStarted ((s.dev.coldStart lane).showGroup (lane / 4)) lane :=
    (s.dev.coldStart_started hl).later (Dev.reg_showGroup_lane _ _ (laneStatus_lt hl)) (Dev.reg_showGroup_lane _ _ (laneCnt_lt hl))
      (Dev.lane_showGroup _ _ _)
  obtain ⟨eq, hlane⟩ := hcold.lane
  exact ⟨_, exec_warmRelockTimeout h, hcold.state, by rw [hlane]; rfl, by rw [hlane]; rfl, hcold.coldStarts,
    ((s.dev.lanesChanged_coldStart lane).trans (Dev.lanesChanged_showGroup _ _)).state⟩

/-! ## LANE_LOCK (R337, R340, R341) -/

/-- A lane has locked. -/
def Dev.lockGained (d : Dev) (l : Nat) : Dev := (d.setLane l .locked).onLane l fun x => { x with lost := none, run := 0, least := 255 }

/-- A relock is recorded, and raised to CREW_0. -/
def Dev.relockNoted (d : Dev) (l : Nat) (e : PathEvent) (k : RelockKind) (us margin : Nat) : Dev := (d.pathEvent l e).laneRelock l k us margin

/-- A warm relock is counted. -/
def Dev.relockCounted (d : Dev) (l t : Nat) : Dev := (d.onLane l fun x => { x with warmAt := some t }).addFld (Reg.laneCnt l) F.laneCnt_relocks 1

theorem Dev.laneLocked_started {d : Dev} {l : Nat} (ns margin : Nat) (h : d.laneState l ∈ [1, 2, 4]) (hx : (d.lane l).lost = none) :
    d.laneLocked l ns margin = (d.lockGained l).showGroup (l / 4) := by
  unfold Dev.laneLocked
  dsimp only
  rw [if_neg (by simp only [List.mem_cons, List.not_mem_nil, or_false] at h; omega), hx]
  rfl

theorem Dev.laneLocked_cold {d : Dev} {l t₀ : Nat} (ns margin : Nat) (h : d.laneState l ∈ [1, 2]) (hx : (d.lane l).lost = some t₀) :
    d.laneLocked l ns margin =
      ((d.lockGained l).relockNoted l .locked .cold ((d.localNs ns - t₀) / 1000) margin).showGroup (l / 4) := by
  simp only [List.mem_cons, List.not_mem_nil, or_false] at h
  have hwarm : d.laneState l ≠ LaneState.warmRelock.code := by
    show d.laneState l ≠ 4
    omega
  unfold Dev.laneLocked
  dsimp only
  rw [if_neg (by omega), hx]
  simp only [hwarm, if_false]
  rfl

theorem Dev.laneLocked_warm {d : Dev} {l t₀ : Nat} (ns margin : Nat) (h : d.laneState l = 4) (hx : (d.lane l).lost = some t₀) :
    d.laneLocked l ns margin = (((d.lockGained l).relockNoted l .locked .warm ((d.localNs ns - t₀) / 1000) margin).relockCounted l
      (d.localNs ns)).showGroup (l / 4) := by
  have hwarm : d.laneState l = LaneState.warmRelock.code := h
  unfold Dev.laneLocked
  dsimp only
  rw [if_neg (by omega), hx]
  simp only [hwarm, if_true]
  rfl

theorem Dev.netChanged_relockNoted (d : Dev) (l : Nat) (e : PathEvent) (k : RelockKind) (us margin : Nat) :
    d.NetChanged (d.relockNoted l e k us margin) := (d.netChanged_record _ _ _ _ _).trans (Dev.netChanged_postEvent _ _ _ _ _)

theorem Dev.keepsRegs_relockNoted (d : Dev) (l : Nat) (e : PathEvent) (k : RelockKind) (us margin : Nat) :
    d.KeepsRegs (d.relockNoted l e k us margin) [Reg.rplLogStatus 0, Reg.rplLogSeq 0, Reg.hifEvqStatus 0] :=
  ((d.keepsRegs_record _ _ _ _ _).mono (by simp)).trans ((Dev.keepsRegs_postEvent _ _ _ _ _).mono (by simp))

/-- What records and events write lies above the registers of lanes and ports. -/
theorem Dev.reg_relockNoted (d : Dev) (l : Nat) (e : PathEvent) (k : RelockKind) (us margin : Nat) {a : Nat} (h : a < Reg.rplLogStatus 0) :
    (d.relockNoted l e k us margin).reg a = d.reg a := d.keepsRegs_relockNoted l e k us margin a (by
  simp only [List.mem_cons, List.not_mem_nil, or_false, Reg.rplLogStatus, Reg.rplLogSeq, Reg.hifEvqStatus] at h ⊢
  omega)

@[simp] theorem Dev.lane_relockNoted (d : Dev) (l : Nat) (e : PathEvent) (k : RelockKind) (us margin j : Nat) :
    (d.relockNoted l e k us margin).lane j = d.lane j := (Dev.lane_postEvent _ _ _ _ _ _).trans (Dev.lane_record _ _ _ _ _ _ _)

theorem Dev.egs_relockNoted (d : Dev) (l : Nat) (e : PathEvent) (k : RelockKind) (us margin : Nat) :
    (d.relockNoted l e k us margin).egs = d.egs := by
  rw [Dev.relockNoted, Dev.laneRelock, Dev.postEvent_eq, Dev.pathEvent, Dev.record_eq]

theorem Dev.free_relockNoted (d : Dev) (l : Nat) (e : PathEvent) (k : RelockKind) (us margin : Nat) :
    (d.relockNoted l e k us margin).free = d.free := by
  rw [Dev.relockNoted, Dev.laneRelock, Dev.postEvent_eq, Dev.pathEvent, Dev.record_eq]

theorem Dev.keepsRegs_lockGained (d : Dev) (l : Nat) : d.KeepsRegs (d.lockGained l) [Reg.laneStatus l] :=
  (d.keepsRegs_setLane l _).trans (Dev.keepsRegs_onLane _ _ _ _)

theorem Dev.lanesChanged_lockGained (d : Dev) (l : Nat) : d.LanesChanged (d.lockGained l) := (d.lanesChanged_setLane l _).onLane _ _

theorem Dev.lane_lockGained_same (d : Dev) (l : Nat) : (d.lockGained l).lane l = { d.lane l with lost := none, run := 0, least := 255 } := by
  rw [Dev.lockGained, Dev.lane_onLane_same, Dev.lane_setLane]

theorem Dev.lane_lockGained_other (d : Dev) {l k : Nat} (h : k ≠ l) : (d.lockGained l).lane k = d.lane k := by
  rw [Dev.lockGained, Dev.lane_onLane_other _ _ h, Dev.lane_setLane]

/-- A lane whose status is that of one that has locked shows it. -/
theorem Dev.shows_locked {d t : Dev} {l : Nat} (h : t.reg (Reg.laneStatus l) = (d.lockGained l).reg (Reg.laneStatus l)) :
    t.laneState l = 3 ∧ t.flag (Reg.laneStatus l) F.laneStatus_blockLock = true ∧ t.flag (Reg.laneStatus l) F.laneStatus_cdrLock = true := by
  have hreg : t.reg (Reg.laneStatus l) = (d.setLane l .locked).reg (Reg.laneStatus l) := h.trans (Dev.onLane_read_reg _ _ _ _)
  refine ⟨?_, ?_, ?_⟩
  · rw [Dev.laneState, Dev.fld, hreg]
    exact d.laneState_setLane l .locked
  · rw [Dev.flag, hreg]
    exact d.blockLock_setLane l .locked
  · rw [Dev.flag, hreg]
    exact d.cdrLock_setLane l .locked

@[simp] theorem Dev.egs_showGroup (d : Dev) (p : Nat) : (d.showGroup p).egs = d.egs := by
  rw [Dev.showGroup, Dev.setFld_egs, Dev.setFld_egs]

@[simp] theorem Dev.free_showGroup (d : Dev) (p : Nat) : (d.showGroup p).free = d.free := by
  rw [Dev.showGroup, Dev.setFld_free, Dev.setFld_free]

theorem Dev.egs_lockGained (d : Dev) (l : Nat) : (d.lockGained l).egs = d.egs := by
  rw [Dev.lockGained, Dev.onLane_egs, Dev.setLane, Dev.setFld_egs, Dev.setFld_egs, Dev.setFld_egs]

theorem Dev.free_lockGained (d : Dev) (l : Nat) : (d.lockGained l).free = d.free := by
  rw [Dev.lockGained, Dev.onLane_free, Dev.setLane, Dev.setFld_free, Dev.setFld_free, Dev.setFld_free]

theorem Dev.netChanged_relockCounted (d : Dev) (l t : Nat) : d.NetChanged (d.relockCounted l t) :=
  ((d.lanesChanged_onLane l _).addFld _ _ _).netChanged

theorem Dev.keepsRegs_relockCounted (d : Dev) (l t : Nat) : d.KeepsRegs (d.relockCounted l t) [Reg.laneCnt l] :=
  (d.keepsRegs_onLane l _ _).trans (Dev.keepsRegs_setFld _ _ _ _)

theorem Dev.relocks_relockCounted (d : Dev) (l t : Nat) :
    (d.relockCounted l t).fld (Reg.laneCnt l) F.laneCnt_relocks = (d.fld (Reg.laneCnt l) F.laneCnt_relocks + 1) % 65536 := by
  rw [Dev.relockCounted, Dev.fld_addFld_same _ _ ⟨by decide, by decide⟩, (d.keepsRegs_onLane l _ []).fld List.not_mem_nil]
  rfl

theorem Dev.lane_relockCounted_same (d : Dev) (l t : Nat) : (d.relockCounted l t).lane l = { d.lane l with warmAt := some t } := by
  rw [Dev.relockCounted, Dev.lane_addFld, Dev.lane_onLane_same]

theorem Dev.lane_relockCounted_other (d : Dev) {l k : Nat} (t : Nat) (h : k ≠ l) : (d.relockCounted l t).lane k = d.lane k := by
  rw [Dev.relockCounted, Dev.lane_addFld, Dev.lane_onLane_other _ _ h]

/-- A lane has locked, its status shows it, and no other lane has changed. -/
structure Dev.Locking (d e : Dev) (l : Nat) : Prop where
  status : e.reg (Reg.laneStatus l) = (d.lockGained l).reg (Reg.laneStatus l)
  others : ∀ k, k ≠ l → e.lane k = d.lane k
  net : d.NetChanged e
  egs : e.egs = d.egs
  free : e.free = d.free

theorem Dev.Locking.gained (d : Dev) (l : Nat) : d.Locking (d.lockGained l) l :=
  ⟨rfl, fun _ hk => d.lane_lockGained_other hk, (d.lanesChanged_lockGained l).netChanged, d.egs_lockGained l, d.free_lockGained l⟩

theorem Dev.Locking.noted {d e : Dev} {l : Nat} (h : d.Locking e l) (hl : l < 64) (p : PathEvent) (k : RelockKind) (us margin : Nat) :
    d.Locking (e.relockNoted l p k us margin) l where
  status := (e.reg_relockNoted l p k us margin ((laneStatus_lt hl).trans (by decide))).trans h.status
  others j hj := (e.lane_relockNoted l p k us margin j).trans (h.others j hj)
  net := h.net.trans (e.netChanged_relockNoted l p k us margin)
  egs := (e.egs_relockNoted l p k us margin).trans h.egs
  free := (e.free_relockNoted l p k us margin).trans h.free

theorem Dev.Locking.counted {d e : Dev} {l : Nat} (h : d.Locking e l) (t : Nat) : d.Locking (e.relockCounted l t) l where
  status := (e.keepsRegs_relockCounted l t _ (by simp)).trans h.status
  others j hj := (e.lane_relockCounted_other t hj).trans (h.others j hj)
  net := h.net.trans (e.netChanged_relockCounted l t)
  egs := by rw [Dev.relockCounted, Dev.addFld_egs, Dev.onLane_egs, h.egs]
  free := by rw [Dev.relockCounted, Dev.addFld_free, Dev.onLane_free, h.free]

theorem Dev.Locking.shown {d e : Dev} {l : Nat} (h : d.Locking e l) (hl : l < 64) (p : Nat) : d.Locking (e.showGroup p) l where
  status := (e.reg_showGroup_lane p (laneStatus_lt hl)).trans h.status
  others j hj := (e.lane_showGroup p j).trans (h.others j hj)
  net := h.net.trans (e.lanesChanged_showGroup p).netChanged
  egs := (e.egs_showGroup p).trans h.egs
  free := (e.free_showGroup p).trans h.free

/-- A lane that starts or relocks locks; a warm relock after a loss is counted. -/
theorem Dev.laneLocked_locks {d : Dev} {l : Nat} (ns margin : Nat) (hl : l < 64) (h : d.laneState l ∈ [1, 2, 4]) :
    d.Locking (d.laneLocked l ns margin) l ∧
      if d.laneState l = 4 ∧ (d.lane l).lost.isSome = true then
        (d.laneLocked l ns margin).lane l = { d.lane l with lost := none, run := 0, least := 255, warmAt := some (d.localNs ns) } ∧
          (d.laneLocked l ns margin).fld (Reg.laneCnt l) F.laneCnt_relocks = (d.fld (Reg.laneCnt l) F.laneCnt_relocks + 1) % 65536
      else (d.laneLocked l ns margin).lane l = { d.lane l with lost := none, run := 0, least := 255 } ∧
        (d.laneLocked l ns margin).reg (Reg.laneCnt l) = d.reg (Reg.laneCnt l) := by
  have hgained := Dev.Locking.gained d l
  have hcnt : (d.lockGained l).reg (Reg.laneCnt l) = d.reg (Reg.laneCnt l) := d.keepsRegs_lockGained l _ (by simp)
  have hc := laneCnt_lt hl
  have hlog := hc.trans (show Reg.portGroupCfg 0 < Reg.rplLogStatus 0 by decide)
  cases hx : (d.lane l).lost with
  | none =>
    rw [Dev.laneLocked_started ns margin h hx, if_neg (by simp), Dev.lane_showGroup, d.lane_lockGained_same,
      Dev.reg_showGroup_lane _ _ hc]
    exact ⟨hgained.shown hl _, rfl, hcnt⟩
  | some t₀ =>
    by_cases hw : d.laneState l = 4
    · rw [Dev.laneLocked_warm ns margin hw hx, if_pos ⟨hw, rfl⟩, Dev.lane_showGroup, Dev.lane_relockCounted_same, Dev.lane_relockNoted,
        d.lane_lockGained_same, Dev.fld, Dev.reg_showGroup_lane _ _ hc, ← Dev.fld, Dev.relocks_relockCounted, Dev.fld,
        Dev.reg_relockNoted _ _ _ _ _ _ hlog, hcnt]
      exact ⟨((hgained.noted hl _ _ _ _).counted _).shown hl _, rfl, rfl⟩
    · have hcold : d.laneState l ∈ [1, 2] := by
        simp only [List.mem_cons, List.not_mem_nil, or_false] at h ⊢
        omega
      rw [Dev.laneLocked_cold ns margin hcold hx, if_neg fun hc => hw hc.1, Dev.lane_showGroup, Dev.lane_relockNoted,
        d.lane_lockGained_same, Dev.reg_showGroup_lane _ _ hc, Dev.reg_relockNoted _ _ _ _ _ _ hlog]
      exact ⟨(hgained.noted hl _ _ _ _).shown hl _, rfl, hcnt⟩

theorem Dev.NetChanged.state_of_egs_free {s : State} {e : Dev} (h : s.dev.NetChanged e) (hegs : e.egs = s.dev.egs)
    (hfree : e.free = s.dev.free) : ({ s with dev := e } : State) =
      { s with dev := { s.dev with regs := e.regs, lan := e.lan, hif := e.hif, out := e.out, log := e.log } } := by
  rw [h.state, hegs, hfree]

theorem exec_laneLock (lane ns margin : Nat) (s : State) :
    exec (.laneLock lane ns margin) s = .next { s with dev := s.dev.laneLocked lane ns margin } := rfl

theorem laneLock_locks {s : State} {lane : Nat} (ns margin : Nat) (hl : lane < 64) (h : s.dev.laneState lane ∈ [1, 2, 4]) :
    ∃ t, exec (.laneLock lane ns margin) s = .next t ∧ t.dev.laneState lane = 3 ∧
      t.dev.flag (Reg.laneStatus lane) F.laneStatus_blockLock = true ∧ t.dev.flag (Reg.laneStatus lane) F.laneStatus_cdrLock = true ∧
      (t.dev.lane lane).lost = none ∧ (t.dev.lane lane).snap = (s.dev.lane lane).snap ∧ (t.dev.lane lane).eq = (s.dev.lane lane).eq ∧
      (∀ l, l ≠ lane → t.dev.lane l = s.dev.lane l) ∧
      t = { s with dev := { s.dev with regs := t.dev.regs, lan := t.dev.lan, hif := t.dev.hif, out := t.dev.out, log := t.dev.log } } ∧
      if s.dev.laneState lane = 4 ∧ (s.dev.lane lane).lost.isSome = true then
        (t.dev.lane lane).warmAt = some (s.dev.localNs ns) ∧
          t.dev.fld (Reg.laneCnt lane) F.laneCnt_relocks = (s.dev.fld (Reg.laneCnt lane) F.laneCnt_relocks + 1) % 65536
      else (t.dev.lane lane).warmAt = (s.dev.lane lane).warmAt ∧ t.dev.reg (Reg.laneCnt lane) = s.dev.reg (Reg.laneCnt lane) := by
  obtain ⟨hlocking, hcase⟩ := Dev.laneLocked_locks ns margin hl h
  obtain ⟨hstate, hblock, hcdr⟩ := Dev.shows_locked hlocking.status
  have hframe := hlocking.net.state_of_egs_free hlocking.egs hlocking.free
  refine ⟨_, exec_laneLock lane ns margin s, hstate, hblock, hcdr, ?_⟩
  split at hcase
  · next hwarm =>
    obtain ⟨hlane, hcount⟩ := hcase
    rw [if_pos hwarm, hlane]
    exact ⟨rfl, rfl, rfl, hlocking.others, hframe, rfl, hcount⟩
  · next hcold =>
    obtain ⟨hlane, hcount⟩ := hcase
    rw [if_neg hcold, hlane]
    exact ⟨rfl, rfl, rfl, hlocking.others, hframe, rfl, hcount⟩

/-! ## PORT_UP (R338, R341) -/

/-- The link is up, without a local fault. -/
def Dev.macLinked (d : Dev) (m : Nat) : Dev :=
  (d.setFld (Reg.portMacStatus m) F.portMacStatus_link 1).setFld (Reg.portMacStatus m) F.portMacStatus_localFault 0

/-- Without negotiation the FEC in force is the staged one. -/
def Dev.fecShown (d : Dev) (m : Nat) : Dev :=
  if d.negotiates m then d else d.setFld (Reg.portMacStatus m) F.portMacStatus_fec (d.plainFec m)

/-- The group shows whether its port is aligned. -/
def Dev.alignShown (d : Dev) (group : Nat) : Dev :=
  d.setFld (Reg.portGroupStatus group) F.portGroupStatus_aligned (bit (d.groupMode group = 0))

/-- A port accepts egress from the next boundary. -/
def Dev.acceptsEgress (d : Dev) (m : Nat) : Dev := { d with lan := { d.lan with upFrom := Tab.put zero d.lan.upFrom m (d.now + 2) } }

/-- The port of a MAC is up, before its group shows it. -/
def Dev.portRaised (d : Dev) (m group : Nat) : Dev := ((((d.macLinked m).fecShown m).alignShown group).acceptsEgress m).pathEvent m .portUp

theorem exec_portUp {s : State} {group sub : Nat} (h : s.dev.canUp (4 * group + sub) = true) :
    exec (.portUp group sub) s = .next { s with dev := (s.dev.portRaised (4 * group + sub) group).showGroup group } := by
  show execPortUp group sub s = _
  rw [execPortUp, State.lift_eq]
  dsimp only
  rw [h]
  rfl

theorem Dev.SameSettings.plainFec {d e : Dev} {m : Nat} (h : d.SameSettings e m) : e.plainFec m = d.plainFec m := by
  simp only [Dev.plainFec, h.groupMode, Dev.fld, h.2]

theorem Dev.plainFec_lt (d : Dev) (m : Nat) : d.plainFec m < 4 := by
  unfold Dev.plainFec
  split
  · decide
  · exact Fld.get_lt F.portMacCtl_fec _

theorem Dev.keepsRegs_macLinked (d : Dev) (m : Nat) : d.KeepsRegs (d.macLinked m) [Reg.portMacStatus m] :=
  (d.keepsRegs_setFld _ _ _).trans (Dev.keepsRegs_setFld _ _ _ _)

theorem Dev.keepsRegs_fecShown (d : Dev) (m : Nat) : d.KeepsRegs (d.fecShown m) [Reg.portMacStatus m] := by
  unfold Dev.fecShown
  split
  · exact .refl _ _
  · exact d.keepsRegs_setFld _ _ _

/-- A port's status is none of its settings. -/
theorem Dev.SameSettings.of_status {d e : Dev} {m : Nat} (h : d.KeepsRegs e [Reg.portMacStatus m]) : d.SameSettings e m :=
  .of_keepsRegs h (by simp only [List.mem_singleton, Reg.portGroupCfg, Reg.portMacStatus]; omega)
    (by simp only [List.mem_singleton, Reg.portMacCtl, Reg.portMacStatus]; omega)

theorem Dev.flag_fecShown (d : Dev) (m : Nat) {g : Fld} (hg : F.portMacStatus_fec.hi < g.lo) :
    (d.fecShown m).flag (Reg.portMacStatus m) g = d.flag (Reg.portMacStatus m) g := by
  unfold Dev.fecShown
  split
  · rfl
  · rw [Dev.flag_setFld_field _ _ ⟨by decide, by decide⟩ (.inr hg)]

theorem Dev.fec_fecShown {d : Dev} {m : Nat} (h : d.negotiates m = false) :
    (d.fecShown m).fld (Reg.portMacStatus m) F.portMacStatus_fec = d.plainFec m := by
  unfold Dev.fecShown
  rw [h, if_neg Bool.false_ne_true, Dev.fld_setFld_same _ _ ⟨by decide, by decide⟩]
  exact Nat.mod_eq_of_lt (d.plainFec_lt m)

theorem Dev.lanesChanged_fecShown (d : Dev) (m : Nat) : d.LanesChanged (d.fecShown m) := by
  unfold Dev.fecShown
  split
  · exact .refl d
  · exact d.lanesChanged_setFld _ _ _

theorem Dev.free_fecShown (d : Dev) (m : Nat) : (d.fecShown m).free = d.free := by
  unfold Dev.fecShown
  split
  · rfl
  · rw [Dev.setFld_free]

theorem Dev.reg_acceptsEgress (d : Dev) (m a : Nat) : (d.acceptsEgress m).reg a = d.reg a := Dev.reg_of_regs rfl a

theorem Dev.keepsRegs_portRaised (d : Dev) (m group : Nat) : d.KeepsRegs (d.portRaised m group)
    [Reg.portMacStatus m, Reg.portGroupStatus group, Reg.rplLogStatus 0, Reg.rplLogSeq 0] :=
  ((((d.keepsRegs_macLinked m).trans (Dev.keepsRegs_fecShown _ m)).mono (by simp)).trans
    ((Dev.keepsRegs_setFld _ _ _ _).mono (by simp))).trans
      (Dev.KeepsRegs.trans (fun a _ => Dev.reg_acceptsEgress _ m a) ((Dev.keepsRegs_record _ _ _ _ _ _).mono (by simp)))

/-- A port's status is shown by its own link, fault and FEC alone. -/
theorem Dev.reg_status_portRaised (d : Dev) {m : Nat} (group : Nat) (h : m < 64) (hg : group < 16) :
    (d.portRaised m group).reg (Reg.portMacStatus m) = ((d.macLinked m).fecShown m).reg (Reg.portMacStatus m) := by
  rw [Dev.portRaised, Dev.pathEvent, Dev.keepsRegs_record _ _ _ _ _ _ _ (by
      simp only [List.mem_cons, List.not_mem_nil, or_false, Reg.portMacStatus, Reg.rplLogStatus, Reg.rplLogSeq]; omega),
    Dev.reg_acceptsEgress, Dev.alignShown, Dev.reg_setFld_other _ _ _ (by simp only [Reg.portMacStatus, Reg.portGroupStatus]; omega)]

theorem Dev.portRaised_shows (d : Dev) {m group : Nat} (h : m < 64) (hg : group < 16) :
    (d.portRaised m group).linkUp m = true ∧ (d.portRaised m group).flag (Reg.portMacStatus m) F.portMacStatus_localFault = false ∧
      (d.negotiates m = false → (d.portRaised m group).fld (Reg.portMacStatus m) F.portMacStatus_fec = d.plainFec m) := by
  have hset := Dev.SameSettings.of_status (d.keepsRegs_macLinked m)
  unfold Dev.linkUp Dev.flag Dev.fld
  rw [d.reg_status_portRaised group h hg, ← Dev.flag, ← Dev.flag, ← Dev.fld, Dev.flag_fecShown _ _ (by decide),
    Dev.flag_fecShown _ _ (by decide)]
  refine ⟨?_, ?_, fun hn => ?_⟩
  · rw [Dev.macLinked, Dev.flag_setFld_field _ _ ⟨by decide, by decide⟩ (by decide), Dev.flag_setFld_same _ _ ⟨by decide, by decide⟩ rfl]
    rfl
  · rw [Dev.macLinked, Dev.flag_setFld_same _ _ ⟨by decide, by decide⟩ rfl]
    rfl
  · rw [Dev.fec_fecShown (hset.negotiates.trans hn), hset.plainFec]

theorem Dev.aligned_showGroup (d : Dev) (p : Nat) :
    (d.showGroup p).flag (Reg.portGroupStatus p) F.portGroupStatus_aligned = d.flag (Reg.portGroupStatus p) F.portGroupStatus_aligned := by
  rw [Dev.showGroup, Dev.flag_setFld_field _ _ ⟨by decide, by decide⟩ (by decide),
    Dev.flag_setFld_field _ _ ⟨by decide, by decide⟩ (by decide)]

theorem Dev.aligned_portRaised (d : Dev) {m : Nat} (h : m < 64) :
    (d.portRaised m (m / 4)).flag (Reg.portGroupStatus (m / 4)) F.portGroupStatus_aligned = decide (d.groupMode (m / 4) = 0) := by
  have hset := Dev.SameSettings.of_status ((d.keepsRegs_macLinked m).trans (Dev.keepsRegs_fecShown _ m))
  rw [Dev.portRaised, Dev.pathEvent, (Dev.keepsRegs_record _ _ _ _ _ _).flag (by
      simp only [List.mem_cons, List.not_mem_nil, or_false, Reg.portGroupStatus, Reg.rplLogStatus, Reg.rplLogSeq]; omega), Dev.flag,
    Dev.reg_acceptsEgress, ← Dev.flag, Dev.alignShown, Dev.flag_setFld_same _ _ ⟨by decide, by decide⟩ rfl, hset.groupMode]
  cases decide (d.groupMode (m / 4) = 0) <;> rfl

theorem Dev.lanesChanged_macLinked (d : Dev) (m : Nat) : d.LanesChanged (d.macLinked m) := (d.lanesChanged_setFld _ _ _).setFld _ _ _

theorem Dev.lanesChanged_alignShown (d : Dev) (group : Nat) : d.LanesChanged (d.alignShown group) := d.lanesChanged_setFld _ _ _

theorem Dev.lanesChanged_acceptsEgress (d : Dev) (m : Nat) : d.LanesChanged (d.acceptsEgress m) := rfl

theorem Dev.upFrom_acceptsEgress (d : Dev) (m : Nat) : Tab.get zero (d.acceptsEgress m).lan.upFrom m = d.now + 2 :=
  Tab.get_put_same d.lan.upFrom m (d.now + 2)

theorem Dev.free_acceptsEgress (d : Dev) (m : Nat) : (d.acceptsEgress m).free = d.free := rfl

theorem Dev.lan_showGroup (d : Dev) (p : Nat) : (d.showGroup p).lan = d.lan := by
  rw [Dev.showGroup, Dev.setFld_lan, Dev.setFld_lan]

theorem Dev.showGroup_eq (d : Dev) (p : Nat) : d.showGroup p = { d with regs := (d.showGroup p).regs } := by
  have h := d.lanesChanged_showGroup p
  unfold Dev.LanesChanged at h
  rw [d.lan_showGroup, d.free_showGroup] at h
  exact h

/-- A path event and what is shown of a group change registers, the log and its buffer. -/
theorem Dev.eventShown_eq (d : Dev) (what p : Nat) (e : PathEvent) : ∃ regs hif log,
    (d.pathEvent what e).showGroup p = { d with regs := regs, hif := hif, log := log } :=
  ⟨_, _, _, (Dev.showGroup_eq _ p).trans
    (congrArg (fun x : Dev => { x with regs := ((d.pathEvent what e).showGroup p).regs }) (d.record_eq _ _ _ _ _))⟩

theorem Dev.lanesChanged_accepting (d : Dev) (m group : Nat) :
    d.LanesChanged ((((d.macLinked m).fecShown m).alignShown group).acceptsEgress m) :=
  (((d.lanesChanged_macLinked m).trans (Dev.lanesChanged_fecShown _ m)).trans (Dev.lanesChanged_alignShown _ group)).trans
    (Dev.lanesChanged_acceptsEgress _ m)

theorem Dev.free_accepting (d : Dev) (m group : Nat) : ((((d.macLinked m).fecShown m).alignShown group).acceptsEgress m).free = d.free := by
  rw [Dev.free_acceptsEgress, Dev.alignShown, Dev.setFld_free, Dev.free_fecShown, Dev.macLinked, Dev.setFld_free, Dev.setFld_free]

theorem Dev.upFrom_accepting (d : Dev) (m group : Nat) :
    Tab.get zero ((((d.macLinked m).fecShown m).alignShown group).acceptsEgress m).lan.upFrom m = d.now + 2 := by
  rw [Dev.upFrom_acceptsEgress, (((d.lanesChanged_macLinked m).trans (Dev.lanesChanged_fecShown _ m)).trans
    (Dev.lanesChanged_alignShown _ group)).now]

/-- A port that comes up changes registers, what is beside them of lanes, and the log with its buffer. -/
theorem portUp_frame {s : State} {m group : Nat} {t : Dev} (ht : t = (s.dev.portRaised m group).showGroup group) :
    ({ s with dev := t } : State) = { s with dev := { s.dev with regs := t.regs, lan := t.lan, hif := t.hif, log := t.log } } ∧
      Tab.get zero t.lan.upFrom m = s.dev.now + 2 := by
  have hchanged := s.dev.lanesChanged_accepting m group
  have hfree := s.dev.free_accepting m group
  have hup := s.dev.upFrom_accepting m group
  rw [Dev.portRaised] at ht
  generalize (((s.dev.macLinked m).fecShown m).alignShown group).acceptsEgress m = d at ht hchanged hfree hup
  obtain ⟨regs, hif, log, he⟩ := d.eventShown_eq m group .portUp
  rw [ht, he]
  refine ⟨?_, hup⟩
  unfold Dev.LanesChanged at hchanged
  rw [hfree] at hchanged
  rw [hchanged]

theorem portUp_raises {s : State} {group sub : Nat} (hg : group < 16) (hs : sub < 4) (h : s.dev.canUp (4 * group + sub) = true) :
    let m := 4 * group + sub
    ∃ t, exec (.portUp group sub) s = .next t ∧ t.dev.linkUp m = true ∧
      t.dev.flag (Reg.portMacStatus m) F.portMacStatus_localFault = false ∧ Tab.get zero t.dev.lan.upFrom m = s.dev.now + 2 ∧
      (s.dev.negotiates m = false → t.dev.fld (Reg.portMacStatus m) F.portMacStatus_fec = s.dev.plainFec m) ∧
      t.dev.flag (Reg.portGroupStatus group) F.portGroupStatus_aligned = decide (s.dev.groupMode group = 0) ∧
      (∀ k, k ≠ m → k < 64 → t.dev.linkUp k = s.dev.linkUp k) ∧
      t = { s with dev := { s.dev with regs := t.dev.regs, lan := t.dev.lan, hif := t.dev.hif, log := t.dev.log } } := by
  intro m
  have hm : m < 64 := by omega
  have hgroup : m / 4 = group := by omega
  obtain ⟨hlink, hfault, hfec⟩ := s.dev.portRaised_shows hm hg
  obtain ⟨hframe, hup⟩ := portUp_frame (s := s) (m := m) (group := group) rfl
  have hstatus : Reg.portMacStatus m ∉ [Reg.portGroupStatus group] := by
    simp only [List.mem_singleton, Reg.portMacStatus, Reg.portGroupStatus]
    omega
  have hshow := Dev.keepsRegs_showGroup (s.dev.portRaised m group) group
  refine ⟨_, exec_portUp h, (hshow.flag hstatus _).trans hlink, (hshow.flag hstatus _).trans hfault, hup,
    fun hn => (hshow.fld hstatus _).trans (hfec hn), ?_, fun k hk hk' => ?_, hframe⟩
  · have haligned := s.dev.aligned_portRaised hm
    rw [hgroup] at haligned
    exact (Dev.aligned_showGroup _ _).trans haligned
  · rw [Dev.linkUp_showGroup _ hk' hg]
    refine (s.dev.keepsRegs_portRaised m group).flag ?_ _
    simp only [List.mem_cons, List.not_mem_nil, or_false, Reg.portMacStatus, Reg.portGroupStatus, Reg.rplLogStatus, Reg.rplLogSeq]
    omega

/-! ## AN_COMPLETE (R332) -/

/-- Training has set the taps of a lane. -/
def Dev.tapsTrained (d : Dev) (l : Nat) : Dev :=
  ((d.fresh.2.setFld (Reg.laneAdapt l) F.laneAdapt_txCm1 (Config.laneTrained d.fresh.1).1).setFld (Reg.laneAdapt l) F.laneAdapt_txC0
    (Config.laneTrained d.fresh.1).2.1).setFld (Reg.laneAdapt l) F.laneAdapt_txC1 (Config.laneTrained d.fresh.1).2.2

/-- Negotiation is done with a FEC. -/
def Dev.anShown (d : Dev) (m fec : Nat) : Dev :=
  (d.setFld (Reg.portMacStatus m) F.portMacStatus_anDone 1).setFld (Reg.portMacStatus m) F.portMacStatus_fec
    (if d.groupMode (m / 4) = 0 then 3 else fec)

/-- The lanes of a port that trains are trained. -/
def Dev.portTrained (d : Dev) (m : Nat) : Dev := if !d.trains m then d else (d.portLanes m).foldl Dev.tapsTrained d

theorem exec_anComplete {s : State} {group sub : Nat} (fec : Nat) (hs : sub < 4) (hon : s.dev.laneOn (4 * group + sub) = true)
    (hneg : s.dev.negotiates (4 * group + sub) = true) (hport : s.dev.groupMode group = 1 ∨ sub = 0) : exec (.anComplete group sub fec) s =
      .next { s with dev := ((s.dev.anShown (4 * group + sub) fec).portTrained (4 * group + sub)).showGroup group } := by
  have hgroup : (4 * group + sub) / 4 = group := by omega
  show execAnComplete group sub fec s = _
  rw [execAnComplete, State.lift_eq, Dev.anShown, hgroup]
  dsimp only
  rw [hon, hneg, if_neg (by rcases hport with h | h <;> simp [h])]
  rfl

theorem Dev.keepsRegs_tapsTrained (d : Dev) (l : Nat) : d.KeepsRegs (d.tapsTrained l) [Reg.laneAdapt l] :=
  (((d.keepsRegs_fresh _).trans (Dev.keepsRegs_setFld _ _ _ _)).trans (Dev.keepsRegs_setFld _ _ _ _)).trans (Dev.keepsRegs_setFld _ _ _ _)

theorem Dev.tapsTrained_eq (d : Dev) (l : Nat) : d.LanesChanged (d.tapsTrained l) ∧ (d.tapsTrained l).lan = d.lan :=
  ⟨((Dev.LanesChanged.setFld (e := d.fresh.2) rfl _ _ _).setFld _ _ _).setFld _ _ _, by
    rw [Dev.tapsTrained, Dev.setFld_lan, Dev.setFld_lan, Dev.setFld_lan]
    rfl⟩

theorem Dev.keepsRegs_portTrained (d : Dev) (m : Nat) : d.KeepsRegs (d.portTrained m) ((d.portLanes m).map Reg.laneAdapt) := by
  unfold Dev.portTrained
  split
  · exact .refl _ _
  · exact List.foldlRecOn (motive := fun e => d.KeepsRegs e ((d.portLanes m).map Reg.laneAdapt)) _ _ (.refl _ _) fun e he l hl =>
      he.trans ((e.keepsRegs_tapsTrained l).mono (List.cons_subset.mpr ⟨List.mem_map_of_mem hl, List.nil_subset _⟩))

theorem Dev.portTrained_eq (d : Dev) (m : Nat) : d.LanesChanged (d.portTrained m) ∧ (d.portTrained m).lan = d.lan := by
  unfold Dev.portTrained
  split
  · exact ⟨.refl d, rfl⟩
  · exact List.foldlRecOn (motive := fun e => d.LanesChanged e ∧ e.lan = d.lan) _ _ ⟨.refl d, rfl⟩ fun e he l _ =>
      ⟨he.1.trans (e.tapsTrained_eq l).1, (e.tapsTrained_eq l).2.trans he.2⟩

theorem Dev.keepsRegs_anShown (d : Dev) (m fec : Nat) : d.KeepsRegs (d.anShown m fec) [Reg.portMacStatus m] :=
  (d.keepsRegs_setFld _ _ _).trans (Dev.keepsRegs_setFld _ _ _ _)

theorem Dev.lanesChanged_anShown (d : Dev) (m fec : Nat) : d.LanesChanged (d.anShown m fec) := (d.lanesChanged_setFld _ _ _).setFld _ _ _

theorem Dev.anShown_shows (d : Dev) (m fec : Nat) :
    (d.anShown m fec).flag (Reg.portMacStatus m) F.portMacStatus_anDone = true ∧
      (d.anShown m fec).fld (Reg.portMacStatus m) F.portMacStatus_fec = if d.groupMode (m / 4) = 0 then 3 else fec % 4 := by
  rw [Dev.anShown, Dev.flag_setFld_field _ _ ⟨by decide, by decide⟩ (by decide), Dev.flag_setFld_same _ _ ⟨by decide, by decide⟩ rfl,
    Dev.fld_setFld_same _ _ ⟨by decide, by decide⟩]
  refine ⟨rfl, ?_⟩
  split <;> rfl

theorem Dev.SameSettings.portLanes {d e : Dev} {m : Nat} (h : d.SameSettings e m) : e.portLanes m = d.portLanes m := by
  rw [Dev.portLanes, h.groupMode, Dev.portLanes]

theorem Dev.mem_portLanes_lt {d : Dev} {m l : Nat} (hm : m < 64) (h : l ∈ d.portLanes m) : l < 64 := by
  unfold Dev.portLanes at h
  split at h
  · rw [List.mem_singleton] at h
    omega
  · obtain ⟨k, hk, rfl⟩ := List.mem_map.mp h
    have := List.mem_range.mp hk
    omega

theorem Dev.lan_anShown (d : Dev) (m fec : Nat) : (d.anShown m fec).lan = d.lan := by
  rw [Dev.anShown, Dev.setFld_lan, Dev.setFld_lan]

theorem anComplete_frame (s : State) (m fec group : Nat) :
    ({ s with dev := ((s.dev.anShown m fec).portTrained m).showGroup group } : State) = { s with dev := { s.dev with
      regs := (((s.dev.anShown m fec).portTrained m).showGroup group).regs
      free := (((s.dev.anShown m fec).portTrained m).showGroup group).free } } := by
  obtain ⟨htrained, hlan⟩ := Dev.portTrained_eq (s.dev.anShown m fec) m
  have hchanged := ((s.dev.lanesChanged_anShown m fec).trans htrained).trans (Dev.lanesChanged_showGroup _ group)
  have hlan' := (Dev.lan_showGroup ((s.dev.anShown m fec).portTrained m) group).trans (hlan.trans (s.dev.lan_anShown m fec))
  generalize ((s.dev.anShown m fec).portTrained m).showGroup group = t at hchanged hlan' ⊢
  rw [hchanged.state, hlan']

theorem anComplete_shows {s : State} {group sub : Nat} (fec : Nat) (hg : group < 16) (hs : sub < 4)
    (hon : s.dev.laneOn (4 * group + sub) = true) (hneg : s.dev.negotiates (4 * group + sub) = true)
    (hport : s.dev.groupMode group = 1 ∨ sub = 0) :
    let m := 4 * group + sub
    ∃ t, exec (.anComplete group sub fec) s = .next t ∧ t.dev.flag (Reg.portMacStatus m) F.portMacStatus_anDone = true ∧
      t.dev.fld (Reg.portMacStatus m) F.portMacStatus_fec = (if s.dev.groupMode group = 0 then 3 else fec % 4) ∧
      s.dev.KeepsRegs t.dev ([Reg.portMacStatus m, Reg.portGroupStatus group] ++ (s.dev.portLanes m).map Reg.laneAdapt) ∧
      t = { s with dev := { s.dev with regs := t.dev.regs, free := t.dev.free } } := by
  intro m
  have hm : m < 64 := by omega
  have hgroup : m / 4 = group := by omega
  obtain ⟨hdone, hfec⟩ := s.dev.anShown_shows m fec
  have hlanes : (s.dev.anShown m fec).portLanes m = s.dev.portLanes m := (Dev.SameSettings.of_status (s.dev.keepsRegs_anShown m fec)).portLanes
  have htrained := Dev.keepsRegs_portTrained (s.dev.anShown m fec) m
  rw [hlanes] at htrained
  have hkeep : (s.dev.anShown m fec).KeepsRegs (((s.dev.anShown m fec).portTrained m).showGroup group)
      ([Reg.portGroupStatus group] ++ (s.dev.portLanes m).map Reg.laneAdapt) :=
    (htrained.mono (by simp)).trans ((Dev.keepsRegs_showGroup _ _).mono (by simp))
  have hstatus : Reg.portMacStatus m ∉ [Reg.portGroupStatus group] ++ (s.dev.portLanes m).map Reg.laneAdapt := by
    intro ha
    rcases List.mem_append.mp ha with ha | ha
    · simp only [List.mem_singleton, Reg.portMacStatus, Reg.portGroupStatus] at ha
      omega
    · obtain ⟨l, hl, ha⟩ := List.mem_map.mp ha
      have := Dev.mem_portLanes_lt hm hl
      simp only [Reg.portMacStatus, Reg.laneAdapt] at ha
      omega
  refine ⟨_, exec_anComplete fec hs hon hneg hport, (hkeep.flag hstatus _).trans hdone, ?_,
    ((s.dev.keepsRegs_anShown m fec).mono (by simp)).trans (hkeep.mono (by simp)), anComplete_frame s m fec group⟩
  rw [hkeep.fld hstatus, hfec, hgroup]

/-! ## LANE_RESTART_COLD (R337) -/

/-- LANE_CTL has been written with ADAPT 2, which reads 0; what the write stages is kept. -/
def Dev.restartTaken (d : Dev) (fn l value : Nat) : Dev :=
  (d.stage fn (Reg.laneCtl l) (BitVec.ofNat 32 value)).setFld (Reg.laneCtl l) F.laneCtl_adapt 0

/-- A lane's loss is forgotten, and its port goes down. -/
def Dev.restartBase (d : Dev) (l : Nat) : Dev := (d.onLane l fun x => { x with lost := none }).portDown (d.laneMac l)

/-- A lane whose loss is forgotten and whose port is down starts cold. -/
def Dev.restarted (d : Dev) (l : Nat) : Dev := ((d.restartBase l).coldStart l).showGroup (l / 4)

theorem Dev.keepsRegs_restartTaken (d : Dev) (fn l value : Nat) : d.KeepsRegs (d.restartTaken fn l value) [Reg.laneCtl l] :=
  Dev.KeepsRegs.trans (fun a _ => Dev.stage_read_reg d _ _ _ a) (Dev.keepsRegs_setFld _ _ _ _)

theorem laneCtl_lt {l : Nat} (h : l < 64) : ∀ a ∈ [Reg.laneCtl l], a < Reg.portGroupCfg 0 := by
  simp only [List.mem_singleton, Reg.laneCtl, Reg.portGroupCfg]
  omega

theorem Dev.sameSettings_restartTaken (d : Dev) (fn value : Nat) {l : Nat} (hl : l < 64) (k : Nat) :
    d.SameSettings (d.restartTaken fn l value) k := .of_keepsLaneRegs (d.keepsRegs_restartTaken fn l value) (laneCtl_lt hl)

theorem exec_laneRestartCold {s : State} {fn lane value : Nat} (hl : lane < 64) (hw : s.dev.mayWrite fn (Reg.laneCtl lane) = true)
    (ha : F.laneCtl_adapt.get (BitVec.ofNat 32 value) = 2) (hon : s.dev.laneOn lane = true) (hm : s.dev.groupMode (lane / 4) ≠ 2) :
    exec (.laneRestartCold fn lane value) s = .next { s with dev := (s.dev.restartTaken fn lane value).restarted lane } := by
  have hset := s.dev.sameSettings_restartTaken fn value hl lane
  have hstage : s.dev.SameSettings (s.dev.stage fn (Reg.laneCtl lane) (BitVec.ofNat 32 value)) lane := .of_regs (Dev.stage_regs _ _ _ _) _
  have hon' : (s.dev.restartTaken fn lane value).laneOn lane = true := hset.laneOn.trans hon
  have hm' : (s.dev.restartTaken fn lane value).groupMode (lane / 4) ≠ 2 := hset.groupMode ▸ hm
  show execLaneRestartCold fn lane value s = _
  rw [execLaneRestartCold, State.lift_eq, Dev.laneCtlWrite]
  dsimp only
  have hloop : (decide ((s.dev.stage fn (Reg.laneCtl lane) (BitVec.ofNat 32 value)).groupMode (lane / 4) = 2) &&
      decide (F.laneCtl_loopback.get (BitVec.ofNat 32 value) ≠ 3)) = false := by
    rw [hstage.groupMode, decide_eq_false hm, Bool.false_and]
  rw [hw, ha, hloop]
  simp only [Bool.false_eq_true, Bool.not_true, if_false, ne_eq, not_true_eq_false, if_true]
  rw [if_neg (by decide), if_pos (by simpa using ⟨hon', hm'⟩)]
  rfl

theorem Dev.lane_restartTaken (d : Dev) (fn l value k : Nat) : (d.restartTaken fn l value).lane k = d.lane k := by
  rw [Dev.restartTaken, Dev.lane_setFld, Dev.lane_of_lan (Dev.stage_lan _ _ _ _)]

theorem Dev.keepsRegs_restartBase (d : Dev) (l : Nat) : d.KeepsRegs (d.restartBase l) (downRegs (d.laneMac l)) :=
  (d.keepsRegs_onLane l _ _).trans (Dev.keepsRegs_portDown _ _)

theorem Dev.sameSettings_restartBase (d : Dev) {l k : Nat} (h : k < 64) : d.SameSettings (d.restartBase l) k :=
  .of_keepsRegs (d.keepsRegs_restartBase l) (settings_not_mem_downRegs _ h).1 (settings_not_mem_downRegs _ h).2

theorem Dev.lane_restartBase_other (d : Dev) {l k : Nat} (h : k ≠ l) : (d.restartBase l).lane k = d.lane k := by
  rw [Dev.restartBase, Dev.lane_portDown, Dev.lane_onLane_other _ _ h]

/-- A lane restarted is cold, and its port is down. -/
theorem Dev.restarted_shows (d : Dev) {l : Nat} (h : l < 64) :
    (d.restartBase l).ColdStarted (d.restarted l) l ∧ (d.restarted l).linkUp (d.laneMac l) = false ∧
      (d.restarted l).fld (Reg.laneCtl l) F.laneCtl_adapt = d.fld (Reg.laneCtl l) F.laneCtl_adapt ∧
      ∀ k, k ≠ l → (d.restarted l).lane k = d.lane k := by
  have hctl : Reg.laneCtl l < Reg.portGroupCfg 0 := laneCtl_lt h _ (by simp)
  have hmac : Reg.portMacStatus (d.laneMac l) ∉ [Reg.laneStatus l, Reg.laneAdapt l, Reg.laneCnt l] := fun hmem =>
    absurd (laneRegs_lt h _ hmem) (by simp only [Reg.portMacStatus, Reg.portGroupCfg]; omega)
  unfold Dev.restarted
  refine ⟨(Dev.coldStart_started _ h).later (Dev.reg_showGroup_lane _ _ (laneStatus_lt h)) (Dev.reg_showGroup_lane _ _ (laneCnt_lt h))
    (Dev.lane_showGroup _ _ _), ?_, ?_, fun k hk => ?_⟩
  · rw [Dev.linkUp_showGroup _ (d.laneMac_lt h) (by omega), Dev.linkUp, (Dev.keepsRegs_coldStart _ _).flag hmac]
    exact Dev.linkUp_portDown _ (d.laneMac_lt h)
  · rw [Dev.fld, Dev.reg_showGroup_lane _ _ hctl, ← Dev.fld, (Dev.keepsRegs_coldStart _ _).fld (by simp),
      (d.keepsRegs_restartBase l).fld fun ha => absurd (le_downRegs _ _ ha) (Nat.not_le.mpr (hctl.trans (by decide)))]
  · rw [Dev.lane_showGroup, Dev.lane_coldStart_other _ hk, d.lane_restartBase_other hk]

theorem laneRestartCold_restarts {s : State} {fn lane value : Nat} (hl : lane < 64) (hw : s.dev.mayWrite fn (Reg.laneCtl lane) = true)
    (ha : F.laneCtl_adapt.get (BitVec.ofNat 32 value) = 2) (hon : s.dev.laneOn lane = true) (hm : s.dev.groupMode (lane / 4) ≠ 2) :
    ∃ t, exec (.laneRestartCold fn lane value) s = .next t ∧ t.dev.fld (Reg.laneCtl lane) F.laneCtl_adapt = 0 ∧
      t.dev.laneState lane = (if s.dev.trains lane = true then 2 else 1) ∧ (t.dev.lane lane).snap = none ∧
      t.dev.linkUp (s.dev.laneMac lane) = false ∧
      t.dev.fld (Reg.laneCnt lane) F.laneCnt_coldStarts = (s.dev.fld (Reg.laneCnt lane) F.laneCnt_coldStarts + 1) % 256 ∧
      (∀ l, l ≠ lane → t.dev.lane l = s.dev.lane l) ∧ t.mem = s.mem := by
  have hset := s.dev.sameSettings_restartTaken fn value hl lane
  have hctl : Reg.laneCnt lane ∉ [Reg.laneCtl lane] := by simp
  have hcnt : ((s.dev.restartTaken fn lane value).restartBase lane).fld (Reg.laneCnt lane) F.laneCnt_coldStarts =
      s.dev.fld (Reg.laneCnt lane) F.laneCnt_coldStarts := by
    rw [(Dev.keepsRegs_restartBase _ _).fld fun ha => absurd (le_downRegs _ _ ha) (Nat.not_le.mpr ((laneCnt_lt hl).trans (by decide))),
      (s.dev.keepsRegs_restartTaken fn lane value).fld hctl]
  obtain ⟨hcold, hdown, hadapt, hkeep⟩ := Dev.restarted_shows (s.dev.restartTaken fn lane value) hl
  obtain ⟨eq, hlane⟩ := hcold.lane
  refine ⟨_, exec_laneRestartCold hl hw ha hon hm, ?_, ?_, ?_, hset.laneMac ▸ hdown, ?_, fun k hk => ?_, rfl⟩
  · rw [hadapt, Dev.restartTaken, Dev.fld_setFld_same _ _ ⟨by decide, by decide⟩, Nat.zero_mod]
  · rw [hcold.state, (hset.trans (Dev.sameSettings_restartBase _ hl)).trains]
  · rw [hlane]
    rfl
  · rw [hcold.coldStarts, hcnt]
  · rw [hkeep k hk, Dev.lane_restartTaken]

/-- Settles O50, by what a cold and a warm start show, what a lane that locks shows, and what a port going up or down leaves. -/
theorem lanesStart : Obligations.LanesStart := by
  unfold Obligations.LanesStart
  exact ⟨fun _ _ ns hl h => laneLockLoss_restarts ns hl h, fun _ _ hl h => warmRelockTimeout_startsCold hl h,
    fun _ _ ns margin hl h => laneLock_locks ns margin hl h, fun _ _ _ hg hs h => portUp_raises hg hs h,
    fun _ _ _ fec hg hs hon hneg hport => anComplete_shows fec hg hs hon hneg hport,
    fun _ _ _ _ hl hw ha hon hm => laneRestartCold_restarts hl hw ha hon hm⟩

end Sys2Proof.Machine
end


section
/-! PROOFS. Margin samples, snapshots, the idle guard, tests of lanes and the counters of a MAC (R328, R329, R333–R336, R344–R347, R354).
Settles O51. -/

namespace Sys2Proof.Machine

/-! ## What changes of the device -/

/-- Nothing changes but registers. -/
def Dev.RegsAlone (d e : Dev) : Prop := e = { d with regs := e.regs }

theorem Dev.RegsAlone.refl (d : Dev) : d.RegsAlone d := rfl

theorem Dev.RegsAlone.trans {d e t : Dev} (h : d.RegsAlone e) (h' : e.RegsAlone t) : d.RegsAlone t := by
  unfold Dev.RegsAlone at h h' ⊢
  rw [h', h]

theorem Dev.regsAlone_setFld (d : Dev) (a : Nat) (f : Fld) (v : Nat) : d.RegsAlone (d.setFld a f v) := d.setFld_eq a f v

theorem Dev.RegsAlone.setFld {d e : Dev} (h : d.RegsAlone e) (a : Nat) (f : Fld) (v : Nat) : d.RegsAlone (e.setFld a f v) :=
  h.trans (e.regsAlone_setFld a f v)

theorem Dev.RegsAlone.state {s : State} {e : Dev} (h : s.dev.RegsAlone e) :
    ({ s with dev := e } : State) = { s with dev := { s.dev with regs := e.regs } } := congrArg (fun d => { s with dev := d }) h

/-! ## MARGIN_SAMPLE: the sample (R329) -/

/-- The least margin of a lane since the last report takes in a sample. -/
def Dev.leastNoted (d : Dev) (l v : Nat) : Dev :=
  { d with lan := { d.lan with margins := Tab.upd fullMargin d.lan.margins l (min v) } }

/-- A margin sample is shown, and counts for the next report. -/
def Dev.sampled (d : Dev) (l v : Nat) : Dev := (d.setFld (Reg.laneStatus l) F.laneStatus_margin v).leastNoted l v

theorem Dev.reg_leastNoted (d : Dev) (l v a : Nat) : (d.leastNoted l v).reg a = d.reg a := Dev.reg_of_regs rfl a

theorem Dev.lane_leastNoted (d : Dev) (l v k : Nat) : (d.leastNoted l v).lane k = d.lane k := rfl

theorem Dev.margins_leastNoted (d : Dev) (l v : Nat) :
    Tab.get fullMargin (d.leastNoted l v).lan.margins l = min v (Tab.get fullMargin d.lan.margins l) := Tab.get_upd_same d.lan.margins l (min v)

theorem Dev.lanesChanged_leastNoted (d : Dev) (l v : Nat) : d.LanesChanged (d.leastNoted l v) := rfl

theorem Dev.lanesChanged_sampled (d : Dev) (l v : Nat) : d.LanesChanged (d.sampled l v) :=
  (d.lanesChanged_setFld _ _ _).trans (Dev.lanesChanged_leastNoted _ l v)

theorem Dev.free_leastNoted (d : Dev) (l v : Nat) : (d.leastNoted l v).free = d.free := rfl

theorem Dev.free_sampled (d : Dev) (l v : Nat) : (d.sampled l v).free = d.free := by
  rw [Dev.sampled, Dev.free_leastNoted, Dev.setFld_free]

theorem Dev.lane_sampled (d : Dev) (l v k : Nat) : (d.sampled l v).lane k = d.lane k := by
  rw [Dev.sampled, Dev.lane_leastNoted, Dev.lane_setFld]

theorem Dev.margins_sampled (d : Dev) (l v : Nat) :
    Tab.get fullMargin (d.sampled l v).lan.margins l = min v (Tab.get fullMargin d.lan.margins l) := by
  rw [Dev.sampled, Dev.margins_leastNoted, Dev.setFld_lan]

theorem Dev.keepsRegs_sampled (d : Dev) (l v : Nat) : d.KeepsRegs (d.sampled l v) [Reg.laneStatus l] :=
  (d.keepsRegs_setFld _ _ _).trans fun a _ => Dev.reg_leastNoted _ l v a

/-- The sample is shown in its own field of LANE_STATUS. -/
theorem Dev.fld_sampled (d : Dev) (l v : Nat) {g : Fld} (h : g.hi < F.laneStatus_margin.lo ∨ F.laneStatus_margin.hi < g.lo) :
    (d.sampled l v).fld (Reg.laneStatus l) g = d.fld (Reg.laneStatus l) g := by
  rw [Dev.sampled, Dev.fld, Dev.reg_leastNoted, ← Dev.fld, Dev.fld_setFld_field _ _ ⟨by decide, by decide⟩ h]

theorem Dev.margin_sampled (d : Dev) (l : Nat) {v : Nat} (h : v < 256) :
    (d.sampled l v).fld (Reg.laneStatus l) F.laneStatus_margin = v := by
  rw [Dev.sampled, Dev.fld, Dev.reg_leastNoted, ← Dev.fld, Dev.fld_setFld_same _ _ ⟨by decide, by decide⟩]
  exact Nat.mod_eq_of_lt h

theorem Dev.laneState_sampled (d : Dev) (l v : Nat) : (d.sampled l v).laneState l = d.laneState l := d.fld_sampled l v (by decide)

theorem Dev.LanesChanged.state_of_free {s : State} {e : Dev} (h : s.dev.LanesChanged e) (hfree : e.free = s.dev.free) :
    ({ s with dev := e } : State) = { s with dev := { s.dev with regs := e.regs, lan := e.lan } } := by
  rw [h.state, hfree]

theorem exec_marginSample_unlocked {s : State} {lane : Nat} (margin after : Nat) (h : s.dev.laneState lane ≠ 3) :
    exec (.marginSample lane margin after) s = .next { s with dev := s.dev.sampled lane (min margin 255) } := by
  have hstate : (s.dev.sampled lane (min margin 255)).laneState lane ≠ LaneState.locked.code := by
    rw [Dev.laneState_sampled]
    exact h
  show execMarginSample lane margin after s = _
  rw [execMarginSample, State.lift_eq]
  exact congrArg (fun d => Host.Outcome.next { s with dev := d }) (if_pos hstate)

/-- On a lane that is not locked a sample is shown, and nothing follows from it. -/
theorem marginSample_shown {s : State} {lane : Nat} (margin after : Nat) (h : s.dev.laneState lane ≠ 3) :
    ∃ t, exec (.marginSample lane margin after) s = .next t ∧ s.dev.KeepsRegs t.dev [Reg.laneStatus lane] ∧
      t = { s with dev := { s.dev with regs := t.dev.regs, lan := t.dev.lan } } ∧ (∀ l, t.dev.lane l = s.dev.lane l) ∧
      Tab.get fullMargin t.dev.lan.margins lane = min (min margin 255) (Tab.get fullMargin s.dev.lan.margins lane) ∧
      t.dev.fld (Reg.laneStatus lane) F.laneStatus_margin = min margin 255 ∧ t.dev.laneState lane = s.dev.laneState lane :=
  ⟨_, exec_marginSample_unlocked margin after h, s.dev.keepsRegs_sampled _ _,
    (s.dev.lanesChanged_sampled _ _).state_of_free (s.dev.free_sampled _ _), s.dev.lane_sampled _ _, s.dev.margins_sampled _ _,
    s.dev.margin_sampled _ (by omega), s.dev.laneState_sampled _ _⟩

/-! ## MARGIN_SAMPLE: the revert (R336) -/

/-- A lane's snapshot is loaded, and the revert is counted. -/
def Dev.reverted (d : Dev) (l eq now : Nat) : Dev :=
  ((d.setEq l eq).onLane l fun x => { x with revertAt := some now, run := 0, least := 255 }).addFld (Reg.laneCnt l) F.laneCnt_reverts 1

theorem Dev.revertBarred_of {d e : Dev} {l : Nat} (hl : e.lane l = d.lane l) (hn : e.now = d.now) : e.revertBarred l = d.revertBarred l := by
  rw [Dev.revertBarred, hl, hn, Dev.revertBarred]

theorem exec_marginSample_reverts {s : State} {lane margin eq : Nat} (after : Nat) (h : s.dev.laneState lane = 3)
    (hheld : s.dev.flag (Reg.laneStatus lane) F.laneStatus_frozen = true ∨ s.dev.fld (Reg.laneCtl lane) F.laneCtl_adapt = 1)
    (hmin : margin < s.dev.fld (Reg.laneGuard lane) F.laneGuard_marginMin) (hsnap : (s.dev.lane lane).snap = some eq)
    (hbar : s.dev.revertBarred lane = false) :
    exec (.marginSample lane margin after) s = .next { s with
      dev := ((s.dev.sampled lane margin).reverted lane eq (s.dev.sampled lane margin).now).relockNoted lane .revert .revert 0 after } := by
  have hlt : s.dev.fld (Reg.laneGuard lane) F.laneGuard_marginMin < 256 := Fld.get_lt F.laneGuard_marginMin _
  have hmargin : min margin 255 = margin := by omega
  have hstate : (s.dev.sampled lane margin).laneState lane = LaneState.locked.code := (s.dev.laneState_sampled _ _).trans h
  have hguard : (s.dev.sampled lane margin).fld (Reg.laneGuard lane) F.laneGuard_marginMin =
      s.dev.fld (Reg.laneGuard lane) F.laneGuard_marginMin := (s.dev.keepsRegs_sampled lane margin).fld (by simp) _
  have hbar' : (s.dev.sampled lane margin).revertBarred lane = false :=
    (Dev.revertBarred_of (s.dev.lane_sampled _ _ _) (s.dev.lanesChanged_sampled _ _).now).trans hbar
  have hsnap' : ((s.dev.sampled lane margin).lane lane).snap = some eq := by rw [s.dev.lane_sampled, hsnap]
  have hfrozen : (s.dev.flag (Reg.laneStatus lane) F.laneStatus_frozen ||
      decide (s.dev.fld (Reg.laneCtl lane) F.laneCtl_adapt = 1)) = true := by simpa using hheld
  unfold Dev.sampled Dev.leastNoted at hstate hguard hbar' hsnap'
  show execMarginSample lane margin after s = _
  rw [execMarginSample, State.lift_eq]
  dsimp only
  rw [hmargin, hfrozen, hguard, if_neg (not_not.mpr hstate), decide_eq_false (Nat.not_le.mpr hmin), decide_eq_true hmin]
  simp only [Bool.false_eq_true, Bool.and_self, if_false, if_true, hsnap', hbar']
  rfl

theorem Dev.lane_reverted (d : Dev) (l eq now : Nat) :
    (d.reverted l eq now).lane l = { d.lane l with eq := eq, revertAt := some now, run := 0, least := 255 } := by
  rw [Dev.reverted, Dev.lane_addFld, Dev.lane_onLane_same, Dev.lane_setEq_same]

theorem Dev.keepsRegs_reverted (d : Dev) (l eq now : Nat) : d.KeepsRegs (d.reverted l eq now) [Reg.laneAdapt l, Reg.laneCnt l] :=
  (((d.keepsRegs_setEq l eq).mono (by simp)).trans (Dev.keepsRegs_onLane _ _ _ _)).trans ((Dev.keepsRegs_setFld _ _ _ _).mono (by simp))

theorem Dev.reverts_reverted (d : Dev) (l eq now : Nat) :
    (d.reverted l eq now).fld (Reg.laneCnt l) F.laneCnt_reverts = (d.fld (Reg.laneCnt l) F.laneCnt_reverts + 1) % 256 := by
  rw [Dev.reverted, Dev.fld_addFld_same _ _ ⟨by decide, by decide⟩, (Dev.keepsRegs_onLane _ l _ []).fld List.not_mem_nil,
    (d.keepsRegs_setEq l eq).fld (by simp)]
  rfl

theorem Dev.lanesChanged_reverted (d : Dev) (l eq now : Nat) : d.LanesChanged (d.reverted l eq now) :=
  ((d.lanesChanged_setEq l eq).onLane _ _).addFld _ _ _

theorem Dev.free_setEq (d : Dev) (l eq : Nat) : (d.setEq l eq).free = d.free := by
  rw [Dev.setEq, Dev.setFld_free, Dev.setFld_free, Dev.onLane_free]

theorem Dev.free_reverted (d : Dev) (l eq now : Nat) : (d.reverted l eq now).free = d.free := by
  rw [Dev.reverted, Dev.addFld_free, Dev.onLane_free, Dev.free_setEq]

/-- A revert changes lanes, and raises LANE_RELOCK. -/
theorem marginSample_frame {s : State} {lane eq v after : Nat} {t : Dev}
    (ht : t = ((s.dev.sampled lane v).reverted lane eq (s.dev.sampled lane v).now).relockNoted lane .revert .revert 0 after) :
    ({ s with dev := t } : State) = { s with dev := { s.dev with
      regs := t.regs, lan := t.lan, hif := t.hif, out := t.out, log := t.log } } := by
  have hlanes := (s.dev.lanesChanged_sampled lane v).trans (Dev.lanesChanged_reverted _ lane eq (s.dev.sampled lane v).now)
  have hfree := (Dev.free_reverted _ lane eq (s.dev.sampled lane v).now).trans (s.dev.free_sampled lane v)
  generalize (s.dev.sampled lane v).reverted lane eq (s.dev.sampled lane v).now = e at ht hlanes hfree
  refine Dev.NetChanged.state_of_egs_free (hlanes.netChanged.trans ?_) ?_ ?_
  · rw [ht]
    exact e.netChanged_relockNoted _ _ _ _ _
  · rw [ht, Dev.egs_relockNoted, hlanes.egs]
  · rw [ht, Dev.free_relockNoted, hfree]

/-- Below MARGIN_MIN a lane that is held or frozen goes back to its snapshot, and keeps its lock (R336). -/
theorem marginSample_reverts {s : State} {lane margin eq : Nat} (after : Nat) (hl : lane < 64) (h : s.dev.laneState lane = 3)
    (hheld : s.dev.flag (Reg.laneStatus lane) F.laneStatus_frozen = true ∨ s.dev.fld (Reg.laneCtl lane) F.laneCtl_adapt = 1)
    (hmin : margin < s.dev.fld (Reg.laneGuard lane) F.laneGuard_marginMin) (hsnap : (s.dev.lane lane).snap = some eq)
    (hbar : s.dev.revertBarred lane = false) :
    ∃ t, exec (.marginSample lane margin after) s = .next t ∧ (t.dev.lane lane).eq = eq ∧ (t.dev.lane lane).snap = some eq ∧
      (t.dev.lane lane).revertAt = some s.dev.now ∧ t.dev.laneState lane = 3 ∧
      t.dev.flag (Reg.laneStatus lane) F.laneStatus_frozen = s.dev.flag (Reg.laneStatus lane) F.laneStatus_frozen ∧
      t.dev.fld (Reg.laneStatus lane) F.laneStatus_margin = margin ∧
      t.dev.fld (Reg.laneCnt lane) F.laneCnt_reverts = (s.dev.fld (Reg.laneCnt lane) F.laneCnt_reverts + 1) % 256 ∧
      (∀ m < 64, t.dev.linkUp m = s.dev.linkUp m) ∧
      t = { s with dev := { s.dev with regs := t.dev.regs, lan := t.dev.lan, hif := t.dev.hif, out := t.dev.out, log := t.dev.log } } := by
  have hlt : s.dev.fld (Reg.laneGuard lane) F.laneGuard_marginMin < 256 := Fld.get_lt F.laneGuard_marginMin _
  have hlane : ((((s.dev.sampled lane margin).reverted lane eq (s.dev.sampled lane margin).now).relockNoted lane .revert .revert 0
      after).lane lane) = { s.dev.lane lane with eq := eq, revertAt := some s.dev.now, run := 0, least := 255 } := by
    rw [Dev.lane_relockNoted, Dev.lane_reverted, s.dev.lane_sampled, (s.dev.lanesChanged_sampled _ _).now]
  have hreg {a : Nat} (ha : a < Reg.rplLogStatus 0) (hn : a ∉ [Reg.laneAdapt lane, Reg.laneCnt lane]) :
      (((s.dev.sampled lane margin).reverted lane eq (s.dev.sampled lane margin).now).relockNoted lane .revert .revert 0 after).reg a =
        (s.dev.sampled lane margin).reg a :=
    (Dev.reg_relockNoted _ _ _ _ _ _ ha).trans (Dev.keepsRegs_reverted _ _ _ _ a hn)
  have hstatus := hreg ((laneStatus_lt hl).trans (by decide)) (by simp)
  refine ⟨_, exec_marginSample_reverts after h hheld hmin hsnap hbar, ?_, ?_, ?_, ?_, ?_, ?_, ?_, fun m hm => ?_, marginSample_frame rfl⟩
  · rw [hlane]
  · rw [hlane]
    exact hsnap
  · rw [hlane]
  · rw [Dev.laneState, Dev.fld, hstatus]
    exact (s.dev.laneState_sampled lane margin).trans h
  · rw [Dev.flag, hstatus]
    exact congrArg (fun n => decide (n = 1)) (s.dev.fld_sampled lane margin (by decide))
  · rw [Dev.fld, hstatus]
    exact s.dev.margin_sampled lane (by omega)
  · rw [Dev.fld, Dev.reg_relockNoted _ _ _ _ _ _ ((laneCnt_lt hl).trans (by decide)), ← Dev.fld, Dev.reverts_reverted,
      (s.dev.keepsRegs_sampled lane margin).fld (by simp)]
  · have hbelow : Reg.portMacStatus m < Reg.rplLogStatus 0 := by
      simp only [Reg.portMacStatus, Reg.rplLogStatus]
      omega
    have habove : ∀ a ∈ [Reg.laneStatus lane, Reg.laneAdapt lane, Reg.laneCnt lane], Reg.portMacStatus m ≠ a := fun a ha =>
      ((laneRegs_lt hl a ha).trans_le (by simp only [Reg.portMacStatus, Reg.portGroupCfg]; omega)).ne'
    rw [Dev.linkUp, Dev.flag, hreg hbelow (by simpa using ⟨habove _ (by simp), habove _ (by simp)⟩),
      s.dev.keepsRegs_sampled lane margin _ (by simpa using habove _ (by simp)), ← Dev.flag, ← Dev.linkUp]

/-! ## MARGIN_SAMPLE: the snapshot (R333) -/

/-- A good margin ends the time in which a revert is barred. -/
def Dev.revertAllowed (d : Dev) (l : Nat) (good : Prop) [Decidable good] : Dev := if good then d.onLane l fun x => { x with revertAt := none } else d

/-- The receiver state of a lane becomes its snapshot, with a margin. -/
def Dev.snapTaken (d : Dev) (l margin : Nat) : Dev :=
  ((d.onLane l fun x => { x with snap := some x.eq, run := 0, least := 255 }).setFld (Reg.laneStatus l) F.laneStatus_snapValid 1).setFld
    (Reg.laneStatus l) F.laneStatus_snapMargin margin

theorem Dev.snapSample_thousandth {d : Dev} {l margin : Nat} (hrun : (d.lane l).run = 999)
    (hs : (d.lane l).snap = none ∨ d.fld (Reg.laneStatus l) F.laneStatus_snapMargin ≤ margin) :
    d.snapSample l margin = d.snapTaken l (min (d.lane l).least margin) := by
  have hkeep : ((d.lane l).snap.isSome && decide (margin < d.fld (Reg.laneStatus l) F.laneStatus_snapMargin)) = false := by
    rcases hs with hs | hs
    · rw [hs]
      rfl
    · rw [decide_eq_false (Nat.not_lt.mpr hs), Bool.and_false]
  unfold Dev.snapSample
  dsimp only
  rw [hkeep, hrun]
  rfl

theorem Dev.lane_revertAllowed (d : Dev) (l : Nat) (good : Prop) [Decidable good] :
    ∃ at_, (d.revertAllowed l good).lane l = { d.lane l with revertAt := at_ } := by
  unfold Dev.revertAllowed
  split
  · exact ⟨none, d.lane_onLane_same l _⟩
  · exact ⟨_, rfl⟩

theorem Dev.reg_revertAllowed (d : Dev) (l : Nat) (good : Prop) [Decidable good] (a : Nat) : (d.revertAllowed l good).reg a = d.reg a := by
  unfold Dev.revertAllowed
  split
  · exact d.onLane_read_reg l _ a
  · rfl

theorem Dev.lanesChanged_revertAllowed (d : Dev) (l : Nat) (good : Prop) [Decidable good] : d.LanesChanged (d.revertAllowed l good) := by
  unfold Dev.revertAllowed
  split
  · exact d.lanesChanged_onLane l _
  · exact .refl d

theorem exec_marginSample_snaps {s : State} {lane margin : Nat} (after : Nat) (h : s.dev.laneState lane = 3)
    (hfrozen : s.dev.flag (Reg.laneStatus lane) F.laneStatus_frozen = false) (hadapt : s.dev.fld (Reg.laneCtl lane) F.laneCtl_adapt = 0)
    (hrun : (s.dev.lane lane).run = 999)
    (hsnap : (s.dev.lane lane).snap = none ∨ s.dev.fld (Reg.laneStatus lane) F.laneStatus_snapMargin ≤ min margin 255) :
    exec (.marginSample lane margin after) s = .next { s with
      dev := (((s.dev.sampled lane (min margin 255)).revertAllowed lane
        (s.dev.fld (Reg.laneGuard lane) F.laneGuard_marginMin ≤ min margin 255)).snapTaken lane
          (min (s.dev.lane lane).least (min margin 255))).adapt lane } := by
  have hstate : (s.dev.sampled lane (min margin 255)).laneState lane = LaneState.locked.code := (s.dev.laneState_sampled _ _).trans h
  have hguard : (s.dev.sampled lane (min margin 255)).fld (Reg.laneGuard lane) F.laneGuard_marginMin =
      s.dev.fld (Reg.laneGuard lane) F.laneGuard_marginMin := (s.dev.keepsRegs_sampled lane _).fld (by simp) _
  obtain ⟨at_, hlane⟩ := (s.dev.sampled lane (min margin 255)).lane_revertAllowed lane
    (s.dev.fld (Reg.laneGuard lane) F.laneGuard_marginMin ≤ min margin 255)
  rw [s.dev.lane_sampled] at hlane
  have hsample := Dev.snapSample_thousandth (margin := min margin 255) (d := (s.dev.sampled lane (min margin 255)).revertAllowed lane
    (s.dev.fld (Reg.laneGuard lane) F.laneGuard_marginMin ≤ min margin 255)) (l := lane) (by rw [hlane, hrun]) (by
      rw [hlane, Dev.fld, Dev.reg_revertAllowed, ← Dev.fld, s.dev.fld_sampled lane _ (by decide)]
      exact hsnap)
  rw [hlane] at hsample
  rw [← hsample]
  unfold Dev.sampled Dev.leastNoted at hstate hguard
  show execMarginSample lane margin after s = _
  rw [execMarginSample, State.lift_eq]
  dsimp only
  rw [hfrozen, hadapt, hguard, if_neg (not_not.mpr hstate)]
  simp only [Bool.false_or, Bool.false_and, decide_false, Bool.false_eq_true, if_false, Nat.zero_ne_one, decide_eq_true_eq]
  rfl

theorem Dev.lane_snapTaken (d : Dev) (l margin : Nat) :
    (d.snapTaken l margin).lane l = { d.lane l with snap := some (d.lane l).eq, run := 0, least := 255 } := by
  rw [Dev.snapTaken, Dev.lane_setFld, Dev.lane_setFld, Dev.lane_onLane_same]

theorem Dev.keepsRegs_snapTaken (d : Dev) (l margin : Nat) : d.KeepsRegs (d.snapTaken l margin) [Reg.laneStatus l] :=
  ((d.keepsRegs_onLane _ _ _).trans (Dev.keepsRegs_setFld _ _ _ _)).trans (Dev.keepsRegs_setFld _ _ _ _)

theorem Dev.lanesChanged_snapTaken (d : Dev) (l margin : Nat) : d.LanesChanged (d.snapTaken l margin) :=
  ((d.lanesChanged_onLane _ _).setFld _ _ _).setFld _ _ _

theorem Dev.snapTaken_shows (d : Dev) (l : Nat) {margin : Nat} (h : margin < 256) :
    (d.snapTaken l margin).flag (Reg.laneStatus l) F.laneStatus_snapValid = true ∧
      (d.snapTaken l margin).fld (Reg.laneStatus l) F.laneStatus_snapMargin = margin ∧
      (d.snapTaken l margin).laneState l = d.laneState l := by
  unfold Dev.laneState
  rw [Dev.snapTaken, Dev.flag_setFld_field _ _ ⟨by decide, by decide⟩ (by decide), Dev.flag_setFld_same _ _ ⟨by decide, by decide⟩ rfl,
    Dev.fld_setFld_same _ _ ⟨by decide, by decide⟩, Dev.fld_setFld_field _ _ ⟨by decide, by decide⟩ (by decide),
    Dev.fld_setFld_field _ _ ⟨by decide, by decide⟩ (by decide), (d.keepsRegs_onLane l _ []).fld List.not_mem_nil]
  exact ⟨rfl, Nat.mod_eq_of_lt h, rfl⟩

/-- The 1,000th good sample takes the receiver's state as the snapshot, and the lane adapts on (R328, R333). -/
theorem marginSample_snaps {s : State} {lane margin : Nat} (after : Nat) (h : s.dev.laneState lane = 3)
    (hfrozen : s.dev.flag (Reg.laneStatus lane) F.laneStatus_frozen = false) (hadapt : s.dev.fld (Reg.laneCtl lane) F.laneCtl_adapt = 0)
    (hrun : (s.dev.lane lane).run = 999)
    (hsnap : (s.dev.lane lane).snap = none ∨ s.dev.fld (Reg.laneStatus lane) F.laneStatus_snapMargin ≤ min margin 255) :
    ∃ t, exec (.marginSample lane margin after) s = .next t ∧ (t.dev.lane lane).snap = some (s.dev.lane lane).eq ∧
      (t.dev.lane lane).run = 0 ∧ t.dev.flag (Reg.laneStatus lane) F.laneStatus_snapValid = true ∧
      t.dev.fld (Reg.laneStatus lane) F.laneStatus_snapMargin = min (s.dev.lane lane).least (min margin 255) ∧
      t.dev.laneState lane = 3 ∧ s.dev.KeepsRegs t.dev [Reg.laneStatus lane, Reg.laneAdapt lane] ∧
      t = { s with dev := { s.dev with regs := t.dev.regs, lan := t.dev.lan, free := t.dev.free } } := by
  have hexec := exec_marginSample_snaps after h hfrozen hadapt hrun hsnap
  have hallowed := (s.dev.sampled lane (min margin 255)).lanesChanged_revertAllowed lane
    (s.dev.fld (Reg.laneGuard lane) F.laneGuard_marginMin ≤ min margin 255)
  obtain ⟨at_, hlane⟩ := (s.dev.sampled lane (min margin 255)).lane_revertAllowed lane
    (s.dev.fld (Reg.laneGuard lane) F.laneGuard_marginMin ≤ min margin 255)
  have hreg := (s.dev.sampled lane (min margin 255)).reg_revertAllowed lane
    (s.dev.fld (Reg.laneGuard lane) F.laneGuard_marginMin ≤ min margin 255)
  rw [s.dev.lane_sampled] at hlane
  generalize (s.dev.sampled lane (min margin 255)).revertAllowed lane
    (s.dev.fld (Reg.laneGuard lane) F.laneGuard_marginMin ≤ min margin 255) = e at hexec hallowed hlane hreg
  obtain ⟨hvalid, hmargin, hstate⟩ := e.snapTaken_shows lane (margin := min (s.dev.lane lane).least (min margin 255)) (by omega)
  have hadapts := Dev.keepsRegs_adapt (e.snapTaken lane (min (s.dev.lane lane).least (min margin 255))) lane
  have htaken : (((e.snapTaken lane (min (s.dev.lane lane).least (min margin 255))).adapt lane).lane lane).snap =
      some (s.dev.lane lane).eq ∧ (((e.snapTaken lane (min (s.dev.lane lane).least (min margin 255))).adapt lane).lane lane).run = 0 := by
    rw [Dev.adapt, Dev.lane_setEq_same, Dev.lane_fresh, Dev.lane_snapTaken, hlane]
    exact ⟨rfl, rfl⟩
  refine ⟨_, hexec, htaken.1, htaken.2, (hadapts.flag (by simp) _).trans hvalid, (hadapts.fld (by simp) _).trans hmargin, ?_, ?_, ?_⟩
  · rw [Dev.laneState, hadapts.fld (by simp), ← Dev.laneState, hstate, Dev.laneState, Dev.fld, hreg]
    exact (s.dev.laneState_sampled lane _).trans h
  · have hkeep : s.dev.KeepsRegs e [Reg.laneStatus lane] := (s.dev.keepsRegs_sampled lane _).trans fun a _ => hreg a
    exact ((hkeep.trans (e.keepsRegs_snapTaken lane _)).mono (by simp)).trans (hadapts.mono (by simp))
  · exact (((s.dev.lanesChanged_sampled lane _).trans hallowed).trans
      ((e.lanesChanged_snapTaken lane _).trans (Dev.lanesChanged_adapt _ lane))).state

/-! ## IDLE_WINDOW_END (R335) -/

/-- LANE_STATUS after an idle window: the share, and whether adaptation is frozen. -/
def guardedStatus (guard status : Word) (idle : Nat) : Word :=
  let w := F.laneStatus_idlePct.set status (idle * 100 / 65536)
  if F.laneGuard_guardEn.get guard = 1 then
    if 62260 ≤ idle then F.laneStatus_frozen.set w 1 else if idle ≤ 58982 then F.laneStatus_frozen.set w 0 else w
  else w

/-- A window shows its share, and freezes or unfreezes a guarded lane. -/
theorem Dev.guardLane_cases (d : Dev) (l idle : Nat) :
    let e := d.setFld (Reg.laneStatus l) F.laneStatus_idlePct (idle * 100 / 65536)
    d.guardLane l idle = (if d.flag (Reg.laneGuard l) F.laneGuard_guardEn = true then
      if 62260 ≤ idle then e.setFld (Reg.laneStatus l) F.laneStatus_frozen 1
      else if idle ≤ 58982 then e.setFld (Reg.laneStatus l) F.laneStatus_frozen 0 else e
    else e) := by
  intro e
  have hguard : e.flag (Reg.laneGuard l) F.laneGuard_guardEn = d.flag (Reg.laneGuard l) F.laneGuard_guardEn :=
    (d.keepsRegs_setFld _ _ _).flag (by simp) _
  rw [← hguard]
  unfold Dev.guardLane
  show (if (!e.flag (Reg.laneGuard l) F.laneGuard_guardEn) = true then e else _) = _
  cases e.flag (Reg.laneGuard l) F.laneGuard_guardEn <;> rfl

theorem Dev.reg_guardLane_same (d : Dev) (l idle : Nat) : (d.guardLane l idle).reg (Reg.laneStatus l) =
    guardedStatus (d.reg (Reg.laneGuard l)) (d.reg (Reg.laneStatus l)) idle := by
  rw [Dev.guardLane_cases, guardedStatus, Dev.flag]
  simp only [decide_eq_true_eq]
  split
  · split
    · rw [Dev.reg_setFld_same, Dev.reg_setFld_same]
    · split
      · rw [Dev.reg_setFld_same, Dev.reg_setFld_same]
      · rw [Dev.reg_setFld_same]
  · rw [Dev.reg_setFld_same]

theorem Dev.keepsRegs_guardLane (d : Dev) (l idle : Nat) : d.KeepsRegs (d.guardLane l idle) [Reg.laneStatus l] := by
  have hshare := d.keepsRegs_setFld (Reg.laneStatus l) F.laneStatus_idlePct (idle * 100 / 65536)
  rw [Dev.guardLane_cases]
  split
  · split
    · exact hshare.trans (Dev.keepsRegs_setFld _ _ _ _)
    · split
      · exact hshare.trans (Dev.keepsRegs_setFld _ _ _ _)
      · exact hshare
  · exact hshare

theorem Dev.regsAlone_guardLane (d : Dev) (l idle : Nat) : d.RegsAlone (d.guardLane l idle) := by
  have hshare := d.regsAlone_setFld (Reg.laneStatus l) F.laneStatus_idlePct (idle * 100 / 65536)
  rw [Dev.guardLane_cases]
  split
  · split
    · exact hshare.setFld _ _ _
    · split
      · exact hshare.setFld _ _ _
      · exact hshare
  · exact hshare

/-- A fold over a list without duplicates takes one step at a member's place: `v` is read there, and the steps of others leave it. -/
theorem Dev.foldl_once {α β γ : Type} {f : Dev → α → Dev} {v : Dev → β} {w : Dev → γ} {g : β → γ} {a : α}
    (hsame : ∀ d, w (f d a) = g (v d)) (hv : ∀ d b, b ≠ a → v (f d b) = v d) (hw : ∀ d b, b ≠ a → w (f d b) = w d) {l : List α}
    (hl : l.Nodup) (ha : a ∈ l) (d : Dev) : w (l.foldl f d) = g (v d) := by
  induction l generalizing d with
  | nil => exact absurd ha List.not_mem_nil
  | cons b r ih =>
    obtain ⟨hb, hr⟩ := List.nodup_cons.mp hl
    rw [List.foldl_cons]
    by_cases hab : b = a
    · subst hab
      rw [Dev.foldl_keeps w fun e c hc => hw e c fun h => hb (h ▸ hc), hsame]
    · rw [ih hr ((List.mem_cons.mp ha).resolve_left fun h => hab h.symm), hv d b hab]

theorem Dev.nodup_portLanes (d : Dev) (m : Nat) : (d.portLanes m).Nodup := by
  unfold Dev.portLanes
  split
  · exact List.nodup_singleton m
  · exact List.Nodup.map (fun a b h => by simpa using h) List.nodup_range

/-- The lanes of a port after an idle window. -/
def Dev.idleShown (d : Dev) (m idle : Nat) : Dev := (d.portLanes m).foldl (fun d l => d.guardLane l idle) d

theorem Dev.reg_idleShown (d : Dev) {m l : Nat} (idle : Nat) (hl : l ∈ d.portLanes m) : (d.idleShown m idle).reg (Reg.laneStatus l) =
    guardedStatus (d.reg (Reg.laneGuard l)) (d.reg (Reg.laneStatus l)) idle :=
  Dev.foldl_once (f := fun e b => e.guardLane b idle) (v := fun e => (e.reg (Reg.laneGuard l), e.reg (Reg.laneStatus l))) (w := fun e => e.reg (Reg.laneStatus l))
    (g := fun p => guardedStatus p.1 p.2 idle) (fun e => e.reg_guardLane_same l idle)
    (fun e b hb => Prod.ext (e.keepsRegs_guardLane b idle _ (by simp only [List.mem_singleton, Reg.laneGuard, Reg.laneStatus]; omega))
      (e.keepsRegs_guardLane b idle _ (by simp only [List.mem_singleton, Reg.laneStatus]; omega)))
    (fun e b hb => e.keepsRegs_guardLane b idle _ (by simp only [List.mem_singleton, Reg.laneStatus]; omega)) (d.nodup_portLanes m) hl d

theorem Dev.regsAlone_idleShown (d : Dev) (m idle : Nat) : d.RegsAlone (d.idleShown m idle) :=
  List.foldlRecOn (motive := d.RegsAlone) _ _ (.refl d) fun e he l _ => he.trans (e.regsAlone_guardLane l idle)

theorem Dev.keepsRegs_idleShown (d : Dev) (m idle : Nat) : d.KeepsRegs (d.idleShown m idle) ((d.portLanes m).map Reg.laneStatus) :=
  List.foldlRecOn (motive := fun e => d.KeepsRegs e ((d.portLanes m).map Reg.laneStatus)) _ _ (.refl _ _) fun e he l hl =>
    he.trans ((e.keepsRegs_guardLane l idle).mono (List.cons_subset.mpr ⟨List.mem_map_of_mem hl, List.nil_subset _⟩))

theorem guardedStatus_fields {guard status : Word} {idle : Nat} (h : idle ≤ 65536) :
    F.laneStatus_idlePct.get (guardedStatus guard status idle) = idle * 100 / 65536 ∧
      F.laneStatus_state.get (guardedStatus guard status idle) = F.laneStatus_state.get status ∧
      (decide (F.laneStatus_frozen.get (guardedStatus guard status idle) = 1) =
        if F.laneGuard_guardEn.get guard = 1 then
          decide (62260 ≤ idle) || (decide (58982 < idle) && decide (F.laneStatus_frozen.get status = 1))
        else decide (F.laneStatus_frozen.get status = 1)) := by
  have hpct {w : Word} : F.laneStatus_idlePct.get (F.laneStatus_idlePct.set w (idle * 100 / 65536)) = idle * 100 / 65536 := by
    rw [Fld.get_set ⟨by decide, by decide⟩]
    exact Nat.mod_eq_of_lt (show idle * 100 / 65536 < 256 by omega)
  have hshare {w : Word} {v : Nat} {g : Fld} (hg : F.laneStatus_idlePct.hi < g.lo) : g.get (F.laneStatus_idlePct.set w v) = g.get w :=
    Fld.get_set_other ⟨by decide, by decide⟩ (.inr hg) w v
  have hother {w : Word} {v : Nat} {g : Fld} (hg : g.hi < F.laneStatus_frozen.lo ∨ F.laneStatus_frozen.hi < g.lo) :
      g.get (F.laneStatus_frozen.set w v) = g.get w := Fld.get_set_other ⟨by decide, by decide⟩ hg w v
  have hfrozen {w : Word} (v : Nat) : F.laneStatus_frozen.get (F.laneStatus_frozen.set w v) = v % 2 := Fld.get_set ⟨by decide, by decide⟩ w v
  unfold guardedStatus
  dsimp only
  split
  · split
    · next hhigh =>
      rw [hother (by decide), hpct, hother (by decide), hshare (by decide), hfrozen, decide_eq_true hhigh]
      exact ⟨rfl, rfl, rfl⟩
    · next hhigh =>
      rw [decide_eq_false hhigh]
      split
      · next hlow =>
        rw [hother (by decide), hpct, hother (by decide), hshare (by decide), hfrozen, decide_eq_false (Nat.not_lt.mpr hlow)]
        exact ⟨rfl, rfl, rfl⟩
      · next hlow =>
        rw [hpct, hshare (by decide), hshare (by decide), decide_eq_true (Nat.lt_of_not_le hlow)]
        exact ⟨rfl, rfl, rfl⟩
  · rw [hpct, hshare (by decide), hshare (by decide)]
    exact ⟨rfl, rfl, rfl⟩

theorem exec_idleWindowEnd (lane idle : Nat) (s : State) :
    exec (.idleWindowEnd lane idle) s = .next { s with dev := s.dev.idleShown lane idle } := rfl

theorem idleWindowEnd_guards (s : State) (lane : Nat) {idle : Nat} (h : idle ≤ 65536) :
    ∃ t, exec (.idleWindowEnd lane idle) s = .next t ∧ s.RegsOnly t ((s.dev.portLanes lane).map Reg.laneStatus) ∧
      ∀ l ∈ s.dev.portLanes lane, t.dev.fld (Reg.laneStatus l) F.laneStatus_idlePct = idle * 100 / 65536 ∧
        t.dev.laneState l = s.dev.laneState l ∧
        t.dev.flag (Reg.laneStatus l) F.laneStatus_frozen =
          (if s.dev.flag (Reg.laneGuard l) F.laneGuard_guardEn = true then
            decide (62260 ≤ idle) || (decide (58982 < idle) && s.dev.flag (Reg.laneStatus l) F.laneStatus_frozen)
          else s.dev.flag (Reg.laneStatus l) F.laneStatus_frozen) := by
  refine ⟨_, exec_idleWindowEnd lane idle s, ⟨(s.dev.regsAlone_idleShown lane idle).state,
    s.dev.keepsRegs_idleShown lane idle⟩, fun l hl => ?_⟩
  unfold Dev.laneState Dev.fld Dev.flag
  simp only [decide_eq_true_eq]
  rw [s.dev.reg_idleShown idle hl]
  exact guardedStatus_fields h

/-! ## LANE_SNAP_SAVE (R334) -/

/-- Every valid snapshot, as it is saved. -/
def Dev.validSnaps (d : Dev) : List (Nat × Nat × Nat × Nat) :=
  (List.range 64).filterMap fun l =>
    ((d.lane l).snap).map fun eq => (l, d.laneMode l, eq, d.fld (Reg.laneStatus l) F.laneStatus_snapMargin)

/-- A save of the snapshots stands. -/
def Dev.snapSaving (d : Dev) : Dev :=
  (d.setFld Reg.laneSnapCtl F.laneSnapCtl_save 1).setFld Reg.laneSnapCtl F.laneSnapCtl_busy 1

/-- A save of the snapshots is over. -/
def Dev.snapSaved (d : Dev) : Dev :=
  (d.setFld Reg.laneSnapCtl F.laneSnapCtl_busy 0).setFld Reg.laneSnapCtl F.laneSnapCtl_save 0

theorem exec_laneSnapSave {s : State} {fn value : Nat} (hw : s.dev.mayWrite fn Reg.laneSnapCtl = true) (hv : value % 2 = 1)
    (hs : s.dev.flag Reg.laneSnapCtl F.laneSnapCtl_save = false) :
    exec (.laneSnapSave fn value) s = .next { s with dev := s.dev.snapSaving.save (.snapshots s.dev.validSnaps) } := by
  show execLaneSnapSave fn value s = _
  rw [execLaneSnapSave, State.lift_eq, Dev.snapCtlWrite, hw, hs, hv]
  rfl

theorem Dev.regsAlone_snapSaving (d : Dev) : d.RegsAlone d.snapSaving := (d.regsAlone_setFld _ _ _).setFld _ _ _

theorem Dev.regsAlone_snapSaved (d : Dev) : d.RegsAlone d.snapSaved := (d.regsAlone_setFld _ _ _).setFld _ _ _

theorem Dev.keepsRegs_snapSaving (d : Dev) : d.KeepsRegs d.snapSaving [Reg.laneSnapCtl] :=
  (d.keepsRegs_setFld _ _ _).trans (Dev.keepsRegs_setFld _ _ _ _)

theorem Dev.keepsRegs_snapSaved (d : Dev) : d.KeepsRegs d.snapSaved [Reg.laneSnapCtl] :=
  (d.keepsRegs_setFld _ _ _).trans (Dev.keepsRegs_setFld _ _ _ _)

theorem Dev.snapSaving_shows (d : Dev) : d.snapSaving.flag Reg.laneSnapCtl F.laneSnapCtl_save = true ∧
    d.snapSaving.flag Reg.laneSnapCtl F.laneSnapCtl_busy = true := by
  unfold Dev.snapSaving
  rw [Dev.flag_setFld_field _ _ ⟨by decide, by decide⟩ (by decide), Dev.flag_setFld_same _ _ ⟨by decide, by decide⟩ rfl,
    Dev.flag_setFld_same _ _ ⟨by decide, by decide⟩ rfl]
  exact ⟨rfl, rfl⟩

theorem Dev.snapSaved_shows (d : Dev) : d.snapSaved.flag Reg.laneSnapCtl F.laneSnapCtl_save = false ∧
    d.snapSaved.flag Reg.laneSnapCtl F.laneSnapCtl_busy = false := by
  unfold Dev.snapSaved
  rw [Dev.flag_setFld_same _ _ ⟨by decide, by decide⟩ rfl, Dev.flag_setFld_field _ _ ⟨by decide, by decide⟩ (by decide),
    Dev.flag_setFld_same _ _ ⟨by decide, by decide⟩ rfl]
  exact ⟨rfl, rfl⟩

theorem Dev.nvmHeld_snapSaving (d : Dev) : d.snapSaving.nvmHeld = d.nvmHeld := d.keepsRegs_snapSaving.flag (by decide) _

theorem Dev.save_snapshots_held {d : Dev} (h : d.nvmHeld = true) (l : List (Nat × Nat × Nat × Nat)) :
    d.save (.snapshots l) = d.onNvm fun n => { n with saves := n.saves ++ [.snapshots l] } := if_pos h

theorem Dev.save_snapshots_done {d : Dev} (h : d.nvmHeld = false) (l : List (Nat × Nat × Nat × Nat)) :
    d.save (.snapshots l) = (d.onNvm fun n => { n with snapshots := l }).snapSaved := if_neg (by rw [h]; decide)

theorem Dev.RegsAlone.onNvm {d e : Dev} (h : d.RegsAlone e) (f : Nvm → Nvm) : e.onNvm f = { d with regs := e.regs, nvm := f d.nvm } := by
  unfold Dev.RegsAlone at h
  rw [h]
  rfl

/-- Every valid snapshot is stored, or waits to be while writes are held. -/
theorem laneSnapSave_saves {s : State} {fn value : Nat} (hw : s.dev.mayWrite fn Reg.laneSnapCtl = true) (hv : value % 2 = 1)
    (hs : s.dev.flag Reg.laneSnapCtl F.laneSnapCtl_save = false) :
    ∃ t, exec (.laneSnapSave fn value) s = .next t ∧ s.dev.KeepsRegs t.dev [Reg.laneSnapCtl] ∧
      t.dev.flag Reg.laneSnapCtl F.laneSnapCtl_save = s.dev.nvmHeld ∧ t.dev.flag Reg.laneSnapCtl F.laneSnapCtl_busy = s.dev.nvmHeld ∧
      t = { s with dev := { s.dev with
        regs := t.dev.regs
        nvm := if s.dev.nvmHeld = true then { s.dev.nvm with saves := s.dev.nvm.saves ++ [.snapshots s.dev.validSnaps] }
          else { s.dev.nvm with snapshots := s.dev.validSnaps } } } := by
  refine ⟨_, exec_laneSnapSave hw hv hs, ?_⟩
  cases hheld : s.dev.nvmHeld with
  | true =>
    rw [Dev.save_snapshots_held (s.dev.nvmHeld_snapSaving.trans hheld), Dev.flag, Dev.flag, Dev.onNvm_read_reg, if_pos rfl]
    obtain ⟨hsave, hbusy⟩ := s.dev.snapSaving_shows
    exact ⟨fun a ha => (Dev.onNvm_read_reg _ _ a).trans (s.dev.keepsRegs_snapSaving a ha), hsave, hbusy,
      congrArg (fun d => { s with dev := d }) (s.dev.regsAlone_snapSaving.onNvm _)⟩
  | false =>
    rw [Dev.save_snapshots_done (s.dev.nvmHeld_snapSaving.trans hheld), if_neg Bool.false_ne_true]
    have hstored := s.dev.regsAlone_snapSaving.onNvm fun n => { n with snapshots := s.dev.validSnaps }
    have hreg (a : Nat) : (s.dev.snapSaving.onNvm fun n => { n with snapshots := s.dev.validSnaps }).reg a = s.dev.snapSaving.reg a :=
      Dev.onNvm_read_reg _ _ a
    generalize s.dev.snapSaving.onNvm (fun n => { n with snapshots := s.dev.validSnaps }) = e at hstored hreg ⊢
    have hsaved : e.snapSaved = { s.dev with regs := e.snapSaved.regs, nvm := { s.dev.nvm with snapshots := s.dev.validSnaps } } := by
      have h := e.regsAlone_snapSaved
      generalize e.snapSaved = t at h ⊢
      unfold Dev.RegsAlone at h
      rw [h, hstored]
    exact ⟨Dev.KeepsRegs.trans (fun a ha => (hreg a).trans (s.dev.keepsRegs_snapSaving a ha)) e.keepsRegs_snapSaved, e.snapSaved_shows.1,
      e.snapSaved_shows.2, congrArg (fun d => { s with dev := d }) hsaved⟩

/-! ## LANE_TEST_WRITE and INJ_GO (R344–R346) -/

/-- A pattern is taken, unless it is 7. -/
def Dev.genTaken (d : Dev) (l g : Nat) : Dev := if g = 7 then d else d.setFld (Reg.laneTest l) F.laneTest_gen g

/-- A checker's pattern is taken and its errors are cleared, unless it is 7. -/
def Dev.chkTaken (d : Dev) (l c : Nat) : Dev :=
  if c = 7 then d else (d.setFld (Reg.laneTest l) F.laneTest_chk c).setReg (Reg.laneChkErr l) 0

/-- The kind of injection and its parameter are taken. -/
def Dev.injTaken (d : Dev) (l i n : Nat) : Dev :=
  (d.setFld (Reg.laneTest l) F.laneTest_inj i).setFld (Reg.laneTest l) F.laneTest_injParam n

/-- Injection 0 ends one at a rate. -/
def Dev.rateEnded (d : Dev) (l i : Nat) : Dev := if i = 0 then d.onLane l fun x => { x with rate := none } else d

/-- LANE_TEST has been written, before any injection starts. -/
def Dev.testTaken (d : Dev) (l : Nat) (w : Word) : Dev :=
  (((d.genTaken l (F.laneTest_gen.get w)).chkTaken l (F.laneTest_chk.get w)).injTaken l (F.laneTest_inj.get w)
    (F.laneTest_injParam.get w)).rateEnded l (F.laneTest_inj.get w)

theorem Dev.laneTestWrite_eq {d : Dev} {fn l value : Nat} (hw : d.mayWrite fn (Reg.laneTest l) = true) (hm : d.groupMode (l / 4) = 2) :
    d.laneTestWrite fn l value = if F.laneTest_injGo.get (BitVec.ofNat 32 value) = 1 then
      (d.testTaken l (BitVec.ofNat 32 value)).injectGo l else d.testTaken l (BitVec.ofNat 32 value) := by
  unfold Dev.laneTestWrite
  dsimp only
  rw [hw, hm, if_neg (by decide)]
  unfold Dev.testTaken Dev.rateEnded Dev.injTaken Dev.chkTaken Dev.genTaken
  rfl

theorem exec_laneTest {s : State} {fn lane value : Nat} {c : Instr} (hc : c = Instr.laneTestWrite fn lane value ∨ c = Instr.injGo fn lane value) :
    exec c s = .next { s with dev := s.dev.laneTestWrite fn lane value } := by
  rcases hc with rfl | rfl <;> rfl

theorem Dev.keepsRegs_genTaken (d : Dev) (l g : Nat) : d.KeepsRegs (d.genTaken l g) [Reg.laneTest l] := by
  unfold Dev.genTaken
  split
  · exact .refl _ _
  · exact d.keepsRegs_setFld _ _ _

theorem Dev.fld_genTaken (d : Dev) (l g : Nat) (h : g < 8) : (d.genTaken l g).fld (Reg.laneTest l) F.laneTest_gen =
    if g = 7 then d.fld (Reg.laneTest l) F.laneTest_gen else g := by
  unfold Dev.genTaken
  split
  · rfl
  · rw [Dev.fld_setFld_same _ _ ⟨by decide, by decide⟩]
    exact Nat.mod_eq_of_lt h

theorem Dev.chk_genTaken (d : Dev) (l g : Nat) : (d.genTaken l g).fld (Reg.laneTest l) F.laneTest_chk = d.fld (Reg.laneTest l) F.laneTest_chk := by
  unfold Dev.genTaken
  split
  · rfl
  · rw [Dev.fld_setFld_field _ _ ⟨by decide, by decide⟩ (by decide)]

theorem Dev.keepsRegs_setReg (d : Dev) (a : Nat) (w : Word) : d.KeepsRegs (d.setReg a w) [a] := fun _ hb =>
  Dev.reg_setReg_other d w (List.ne_of_not_mem_cons hb)

theorem Dev.keepsRegs_chkTaken (d : Dev) (l c : Nat) : d.KeepsRegs (d.chkTaken l c) [Reg.laneTest l, Reg.laneChkErr l] := by
  unfold Dev.chkTaken
  split
  · exact .refl _ _
  · exact ((d.keepsRegs_setFld _ _ _).mono (by simp)).trans ((Dev.keepsRegs_setReg _ _ _).mono (by simp))

theorem Dev.chkTaken_fields (d : Dev) (l c : Nat) (h : c < 8) :
    (d.chkTaken l c).fld (Reg.laneTest l) F.laneTest_chk = (if c = 7 then d.fld (Reg.laneTest l) F.laneTest_chk else c) ∧
      (d.chkTaken l c).fld (Reg.laneTest l) F.laneTest_gen = d.fld (Reg.laneTest l) F.laneTest_gen ∧
      (c ≠ 7 → (d.chkTaken l c).reg (Reg.laneChkErr l) = 0) := by
  unfold Dev.chkTaken
  split
  · next hc => exact ⟨rfl, rfl, fun h => absurd hc h⟩
  · have hne : Reg.laneTest l ∉ [Reg.laneChkErr l] := by simp
    rw [(Dev.keepsRegs_setReg _ _ _).fld hne, (Dev.keepsRegs_setReg _ _ _).fld hne, Dev.fld_setFld_same _ _ ⟨by decide, by decide⟩,
      Dev.fld_setFld_field _ _ ⟨by decide, by decide⟩ (by decide)]
    exact ⟨Nat.mod_eq_of_lt h, rfl, fun _ => Dev.reg_setReg_same _ _ _⟩

theorem Dev.keepsRegs_injTaken (d : Dev) (l i n : Nat) : d.KeepsRegs (d.injTaken l i n) [Reg.laneTest l] :=
  (d.keepsRegs_setFld _ _ _).trans (Dev.keepsRegs_setFld _ _ _ _)

theorem Dev.injTaken_fields (d : Dev) (l : Nat) {i n : Nat} (hi : i < 4) (hn : n < 65536) :
    (d.injTaken l i n).fld (Reg.laneTest l) F.laneTest_inj = i ∧ (d.injTaken l i n).fld (Reg.laneTest l) F.laneTest_injParam = n ∧
      (d.injTaken l i n).fld (Reg.laneTest l) F.laneTest_gen = d.fld (Reg.laneTest l) F.laneTest_gen ∧
      (d.injTaken l i n).fld (Reg.laneTest l) F.laneTest_chk = d.fld (Reg.laneTest l) F.laneTest_chk := by
  unfold Dev.injTaken
  rw [Dev.fld_setFld_field _ _ ⟨by decide, by decide⟩ (by decide), Dev.fld_setFld_same _ _ ⟨by decide, by decide⟩,
    Dev.fld_setFld_same _ _ ⟨by decide, by decide⟩, Dev.fld_setFld_field _ _ ⟨by decide, by decide⟩ (by decide),
    Dev.fld_setFld_field _ _ ⟨by decide, by decide⟩ (by decide), Dev.fld_setFld_field _ _ ⟨by decide, by decide⟩ (by decide),
    Dev.fld_setFld_field _ _ ⟨by decide, by decide⟩ (by decide)]
  exact ⟨Nat.mod_eq_of_lt hi, Nat.mod_eq_of_lt hn, rfl, rfl⟩

theorem Dev.reg_rateEnded (d : Dev) (l i a : Nat) : (d.rateEnded l i).reg a = d.reg a := by
  unfold Dev.rateEnded
  split
  · exact d.onLane_read_reg l _ a
  · rfl

/-- Nothing changes but registers, the lanes beside them, and what is shown. -/
def Dev.TestChanged (d e : Dev) : Prop := e = { d with regs := e.regs, lan := e.lan, out := e.out }

theorem Dev.TestChanged.refl (d : Dev) : d.TestChanged d := rfl

theorem Dev.TestChanged.trans {d e t : Dev} (h : d.TestChanged e) (h' : e.TestChanged t) : d.TestChanged t := by
  unfold Dev.TestChanged at h h' ⊢
  rw [h', h]

theorem Dev.RegsAlone.testChanged {d e : Dev} (h : d.RegsAlone e) : d.TestChanged e := by
  unfold Dev.RegsAlone at h
  rw [h]
  rfl

theorem Dev.testChanged_onLane (d : Dev) (l : Nat) (f : LaneDyn → LaneDyn) : d.TestChanged (d.onLane l f) := rfl

theorem Dev.testChanged_emit (d : Dev) (o : Output) : d.TestChanged (d.emit o) := rfl

theorem Dev.TestChanged.state {s : State} {e : Dev} (h : s.dev.TestChanged e) :
    ({ s with dev := e } : State) = { s with dev := { s.dev with regs := e.regs, lan := e.lan, out := e.out } } :=
  congrArg (fun d => { s with dev := d }) h

theorem Dev.regsAlone_setReg (d : Dev) (a : Nat) (w : Word) : d.RegsAlone (d.setReg a w) := d.setReg_eq a w

theorem Dev.regsAlone_genTaken (d : Dev) (l g : Nat) : d.RegsAlone (d.genTaken l g) := by
  unfold Dev.genTaken
  split
  · exact .refl d
  · exact d.regsAlone_setFld _ _ _

theorem Dev.regsAlone_chkTaken (d : Dev) (l c : Nat) : d.RegsAlone (d.chkTaken l c) := by
  unfold Dev.chkTaken
  split
  · exact .refl d
  · exact (d.regsAlone_setFld _ _ _).trans (Dev.regsAlone_setReg _ _ _)

theorem Dev.regsAlone_injTaken (d : Dev) (l i n : Nat) : d.RegsAlone (d.injTaken l i n) := (d.regsAlone_setFld _ _ _).setFld _ _ _

theorem Dev.RegsAlone.out {d e : Dev} (h : d.RegsAlone e) : e.out = d.out := by
  unfold Dev.RegsAlone at h
  rw [h]

theorem Dev.testChanged_rateEnded (d : Dev) (l i : Nat) : d.TestChanged (d.rateEnded l i) ∧ (d.rateEnded l i).out = d.out := by
  unfold Dev.rateEnded
  split
  · exact ⟨d.testChanged_onLane l _, d.onLane_out l _⟩
  · exact ⟨.refl d, rfl⟩

theorem Dev.testTaken_frame (d : Dev) (l : Nat) (w : Word) : d.TestChanged (d.testTaken l w) ∧ (d.testTaken l w).out = d.out := by
  have hregs := ((d.regsAlone_genTaken l (F.laneTest_gen.get w)).trans (Dev.regsAlone_chkTaken _ l (F.laneTest_chk.get w))).trans
    (Dev.regsAlone_injTaken _ l (F.laneTest_inj.get w) (F.laneTest_injParam.get w))
  obtain ⟨hchanged, hout⟩ := Dev.testChanged_rateEnded (((d.genTaken l (F.laneTest_gen.get w)).chkTaken l (F.laneTest_chk.get w)).injTaken l
    (F.laneTest_inj.get w) (F.laneTest_injParam.get w)) l (F.laneTest_inj.get w)
  exact ⟨hregs.testChanged.trans hchanged, hout.trans hregs.out⟩

theorem Dev.keepsRegs_testTaken (d : Dev) (l : Nat) (w : Word) : d.KeepsRegs (d.testTaken l w) [Reg.laneTest l, Reg.laneChkErr l] :=
  ((((d.keepsRegs_genTaken l _).mono (by simp)).trans (Dev.keepsRegs_chkTaken _ l _)).trans
    ((Dev.keepsRegs_injTaken _ l _ _).mono (by simp))).trans fun a _ => Dev.reg_rateEnded _ l _ a

/-- What LANE_TEST and the checker show after a write. -/
theorem Dev.testTaken_fields (d : Dev) (l : Nat) (w : Word) :
    (d.testTaken l w).fld (Reg.laneTest l) F.laneTest_gen =
        (if F.laneTest_gen.get w = 7 then d.fld (Reg.laneTest l) F.laneTest_gen else F.laneTest_gen.get w) ∧
      (d.testTaken l w).fld (Reg.laneTest l) F.laneTest_chk =
        (if F.laneTest_chk.get w = 7 then d.fld (Reg.laneTest l) F.laneTest_chk else F.laneTest_chk.get w) ∧
      (d.testTaken l w).fld (Reg.laneTest l) F.laneTest_inj = F.laneTest_inj.get w ∧
      (d.testTaken l w).fld (Reg.laneTest l) F.laneTest_injParam = F.laneTest_injParam.get w ∧
      (F.laneTest_chk.get w ≠ 7 → (d.testTaken l w).reg (Reg.laneChkErr l) = 0) := by
  obtain ⟨hchk, hgen, herr⟩ := (d.genTaken l (F.laneTest_gen.get w)).chkTaken_fields l _ (Fld.get_lt F.laneTest_chk w)
  obtain ⟨hinj, hparam, hgen', hchk'⟩ := ((d.genTaken l (F.laneTest_gen.get w)).chkTaken l (F.laneTest_chk.get w)).injTaken_fields l
    (Fld.get_lt F.laneTest_inj w) (Fld.get_lt F.laneTest_injParam w)
  have hreg (a : Nat) : (d.testTaken l w).reg a = (((d.genTaken l (F.laneTest_gen.get w)).chkTaken l (F.laneTest_chk.get w)).injTaken l
    (F.laneTest_inj.get w) (F.laneTest_injParam.get w)).reg a := Dev.reg_rateEnded _ l _ a
  have hfld (f : Fld) : (d.testTaken l w).fld (Reg.laneTest l) f = (((d.genTaken l (F.laneTest_gen.get w)).chkTaken l
    (F.laneTest_chk.get w)).injTaken l (F.laneTest_inj.get w) (F.laneTest_injParam.get w)).fld (Reg.laneTest l) f := congrArg f.get (hreg _)
  refine ⟨?_, ?_, (hfld _).trans hinj, (hfld _).trans hparam, fun hc => ?_⟩
  · rw [hfld, hgen', hgen, d.fld_genTaken l _ (Fld.get_lt F.laneTest_gen w)]
  · rw [hfld, hchk', hchk, d.chk_genTaken l]
  · rw [hreg, Dev.keepsRegs_injTaken _ _ _ _ _ (by simp), herr hc]

theorem Dev.rate_testTaken (d : Dev) (l : Nat) {w : Word} (h : F.laneTest_inj.get w = 0) : ((d.testTaken l w).lane l).rate = none := by
  rw [Dev.testTaken, Dev.rateEnded, if_pos h, Dev.lane_onLane_same]

/-! ## Injections (R345–R347) -/

theorem Dev.keepsRegs_hearErrors (d : Dev) (l n : Nat) : d.KeepsRegs (d.hearErrors l n) [Reg.laneChkErr l] := by
  have hcount : d.KeepsRegs (d.satFld (Reg.laneChkErr l) F.laneChkErr_errors (min 16 n)) [Reg.laneChkErr l] := d.keepsRegs_setFld _ _ _
  unfold Dev.hearErrors
  dsimp only
  split
  · exact .refl _ _
  · split
    · exact hcount.trans (Dev.keepsRegs_setFld _ _ _ _)
    · exact hcount

theorem Dev.regsAlone_hearErrors (d : Dev) (l n : Nat) : d.RegsAlone (d.hearErrors l n) := by
  have hcount : d.RegsAlone (d.satFld (Reg.laneChkErr l) F.laneChkErr_errors (min 16 n)) := d.satFld_eq _ _ _
  unfold Dev.hearErrors
  dsimp only
  split
  · exact .refl d
  · split
    · exact hcount.setFld _ _ _
    · exact hcount

/-- A checker that has no lock counts nothing. -/
theorem Dev.hearErrors_of_unlocked {d : Dev} {l : Nat} (n : Nat) (h : d.reg (Reg.laneChkErr l) = 0) : d.hearErrors l n = d := by
  have hlock : d.flag (Reg.laneChkErr l) F.laneChkErr_chkLock = false := by
    rw [Dev.flag, h]
    rfl
  unfold Dev.hearErrors
  dsimp only
  rw [hlock, Bool.not_false, Bool.or_true, if_pos rfl]

theorem Dev.out_hearErrors (d : Dev) (l n : Nat) : (d.hearErrors l n).out = d.out := (d.regsAlone_hearErrors l n).out

/-- An injection that starts: none, errors that the checker may hear, or errors at a rate. -/
theorem Dev.injectGo_cases (d : Dev) (l : Nat) : d.injectGo l = d ∨ (∃ k n, d.injectGo l = (d.emit (.inject l k n)).hearErrors l n) ∨
    ∃ n, d.injectGo l = (d.onLane l fun x => { x with rate := some n }).emit (.inject l 3 n) := by
  unfold Dev.injectGo
  dsimp only
  split
  · exact .inr (.inl ⟨_, _, rfl⟩)
  · split
    · exact .inr (.inl ⟨_, _, rfl⟩)
    · exact .inl rfl
  · split
    · exact .inr (.inr ⟨_, rfl⟩)
    · exact .inl rfl
  · exact .inl rfl

theorem Dev.injectGo_frame (d : Dev) (l : Nat) : d.KeepsRegs (d.injectGo l) [Reg.laneChkErr l] ∧ d.TestChanged (d.injectGo l) ∧
    (d.reg (Reg.laneChkErr l) = 0 → (d.injectGo l).reg (Reg.laneChkErr l) = 0) := by
  obtain h | ⟨k, n, h⟩ | ⟨n, h⟩ := d.injectGo_cases l <;> rw [h]
  · exact ⟨.refl _ _, .refl d, id⟩
  · refine ⟨Dev.KeepsRegs.trans (fun a _ => d.reg_emit _ a) (Dev.keepsRegs_hearErrors _ l n),
      (d.testChanged_emit _).trans (Dev.regsAlone_hearErrors _ l n).testChanged, fun hz => ?_⟩
    rw [Dev.hearErrors_of_unlocked n ((d.reg_emit _ _).trans hz), Dev.reg_emit, hz]
  · exact ⟨fun a _ => (Dev.reg_emit _ _ a).trans (d.onLane_read_reg l _ a), (d.testChanged_onLane l _).trans (Dev.testChanged_emit _ _),
      fun hz => (Dev.reg_emit _ _ _).trans ((d.onLane_read_reg l _ _).trans hz)⟩

theorem Dev.injectGo_none {d : Dev} {l : Nat} (h : d.fld (Reg.laneTest l) F.laneTest_inj = 0) : d.injectGo l = d := by
  unfold Dev.injectGo
  dsimp only
  rw [h]
  rfl

theorem Dev.injectGo_single {d : Dev} {l : Nat} (h : d.fld (Reg.laneTest l) F.laneTest_inj = 1) : d.ShowsOnly (d.injectGo l) (.inject l 1 1) := by
  unfold Dev.ShowsOnly Dev.injectGo
  dsimp only
  rw [h]
  exact Dev.out_hearErrors _ l 1

theorem Dev.injectGo_burst {d : Dev} {l n : Nat} (h : d.fld (Reg.laneTest l) F.laneTest_inj = 2)
    (hn : d.fld (Reg.laneTest l) F.laneTest_injParam = n) (h1 : 1 ≤ n) : d.ShowsOnly (d.injectGo l) (.inject l 2 n) := by
  unfold Dev.ShowsOnly Dev.injectGo
  dsimp only
  rw [h, hn, if_pos h1]
  exact Dev.out_hearErrors _ l n

theorem Dev.injectGo_rate {d : Dev} {l n : Nat} (h : d.fld (Reg.laneTest l) F.laneTest_inj = 3)
    (hn : d.fld (Reg.laneTest l) F.laneTest_injParam = n) (h4 : 4 ≤ n) (h40 : n ≤ 40) :
    d.injectGo l = (d.onLane l fun x => { x with rate := some n }).emit (.inject l 3 n) := by
  unfold Dev.injectGo
  dsimp only
  rw [h, hn]
  exact if_pos ⟨h4, h40⟩

/-- LANE_TEST shows what was written, and INJ_GO starts the injection that it names. -/
theorem laneTest_written {s : State} {fn lane value : Nat} (hw : s.dev.mayWrite fn (Reg.laneTest lane) = true)
    (hm : s.dev.groupMode (lane / 4) = 2) :
    let w := BitVec.ofNat 32 value
    let n := F.laneTest_injParam.get w
    ∀ c, c = Instr.laneTestWrite fn lane value ∨ c = Instr.injGo fn lane value →
    ∃ t, exec c s = .next t ∧
      t.dev.fld (Reg.laneTest lane) F.laneTest_gen =
        (if F.laneTest_gen.get w = 7 then s.dev.fld (Reg.laneTest lane) F.laneTest_gen else F.laneTest_gen.get w) ∧
      t.dev.fld (Reg.laneTest lane) F.laneTest_chk =
        (if F.laneTest_chk.get w = 7 then s.dev.fld (Reg.laneTest lane) F.laneTest_chk else F.laneTest_chk.get w) ∧
      t.dev.fld (Reg.laneTest lane) F.laneTest_inj = F.laneTest_inj.get w ∧ t.dev.fld (Reg.laneTest lane) F.laneTest_injParam = n ∧
      (F.laneTest_chk.get w ≠ 7 → t.dev.reg (Reg.laneChkErr lane) = 0) ∧
      s.dev.KeepsRegs t.dev [Reg.laneTest lane, Reg.laneChkErr lane] ∧
      t = { s with dev := { s.dev with regs := t.dev.regs, lan := t.dev.lan, out := t.dev.out } } ∧
      (F.laneTest_injGo.get w = 0 → t.dev.out = s.dev.out) ∧ (F.laneTest_inj.get w = 0 → t.dev.out = s.dev.out ∧ (t.dev.lane lane).rate = none) ∧
      (F.laneTest_injGo.get w = 1 → F.laneTest_inj.get w = 1 → s.dev.ShowsOnly t.dev (.inject lane 1 1)) ∧
      (F.laneTest_injGo.get w = 1 → F.laneTest_inj.get w = 2 → 1 ≤ n → s.dev.ShowsOnly t.dev (.inject lane 2 n)) ∧
      (F.laneTest_injGo.get w = 1 → F.laneTest_inj.get w = 3 → 4 ≤ n → n ≤ 40 →
        s.dev.ShowsOnly t.dev (.inject lane 3 n) ∧ (t.dev.lane lane).rate = some n) := by
  intro w n c hc
  refine ⟨_, exec_laneTest hc, ?_⟩
  rw [Dev.laneTestWrite_eq hw hm]
  obtain ⟨hgen, hchk, hinj, hparam, herr⟩ := s.dev.testTaken_fields lane w
  obtain ⟨hframe, hout⟩ := s.dev.testTaken_frame lane w
  have hkeep := s.dev.keepsRegs_testTaken lane w
  have hrate := fun h => s.dev.rate_testTaken lane (w := w) h
  generalize s.dev.testTaken lane w = e at hgen hchk hinj hparam herr hframe hout hkeep hrate
  by_cases hgo : F.laneTest_injGo.get w = 1
  · obtain ⟨hregs, hchanged, hzero⟩ := e.injectGo_frame lane
    have htest : Reg.laneTest lane ∉ [Reg.laneChkErr lane] := by simp
    have hshown {o : Output} (h : e.ShowsOnly (e.injectGo lane) o) : s.dev.ShowsOnly (e.injectGo lane) o := by
      unfold Dev.ShowsOnly at h ⊢
      rw [h, hout]
    rw [if_pos hgo]
    refine ⟨(hregs.fld htest _).trans hgen, (hregs.fld htest _).trans hchk, (hregs.fld htest _).trans hinj,
      (hregs.fld htest _).trans hparam, fun h => hzero (herr h), hkeep.trans (hregs.mono (by simp)), (hframe.trans hchanged).state,
      fun h => absurd (hgo.symm.trans h) (by decide), fun h => ?none, fun _ h => hshown (Dev.injectGo_single (hinj.trans h)),
      fun _ h h1 => hshown (Dev.injectGo_burst (hinj.trans h) hparam h1), fun _ h h4 h40 => ?rate⟩
    case none =>
      rw [Dev.injectGo_none (hinj.trans h)]
      exact ⟨hout, hrate h⟩
    case rate =>
      have hgone := Dev.injectGo_rate (hinj.trans h) hparam h4 h40
      refine ⟨hshown (by rw [hgone]; rfl), ?_⟩
      rw [hgone, Dev.lane_of_lan (Dev.emit_lan _ _), Dev.lane_onLane_same]
  · rw [if_neg hgo]
    exact ⟨hgen, hchk, hinj, hparam, herr, hkeep, hframe.state, fun _ => hout, fun h => ⟨hout, hrate h⟩, fun h => absurd h hgo,
      fun h => absurd h hgo, fun h => absurd h hgo⟩

/-! ## CHECKER_LOCK and CHECKER_LOCK_LOSS (R345, R347) -/

theorem exec_checkerLock {s : State} {lane : Nat} (h : s.dev.laneState lane = 5) (hc : s.dev.fld (Reg.laneTest lane) F.laneTest_chk ≠ 0)
    (hh : ∀ gen, s.dev.laneHears lane = some gen → gen = s.dev.fld (Reg.laneTest lane) F.laneTest_chk) :
    exec (.checkerLock lane) s = .next { s with dev := s.dev.setFld (Reg.laneChkErr lane) F.laneChkErr_chkLock 1 } := by
  have hears : (s.dev.laneHears lane).all (· == s.dev.fld (Reg.laneTest lane) F.laneTest_chk) = true := by
    cases hgen : s.dev.laneHears lane with
    | none => rfl
    | some gen => simp [hh gen hgen]
  have hcond : (decide (s.dev.laneState lane = LaneState.test.code) && decide (s.dev.fld (Reg.laneTest lane) F.laneTest_chk ≠ 0) &&
      (s.dev.laneHears lane).all (· == s.dev.fld (Reg.laneTest lane) F.laneTest_chk)) = true := by
    rw [hears, decide_eq_true (show s.dev.laneState lane = LaneState.test.code from h), decide_eq_true hc]
    rfl
  show execCheckerLock lane s = _
  rw [execCheckerLock, State.lift_eq]
  exact congrArg (fun d => Host.Outcome.next { s with dev := d }) (if_pos hcond)

theorem exec_checkerLockLoss {s : State} {lane : Nat} (errors : Nat)
    (h : s.dev.flag (Reg.laneChkErr lane) F.laneChkErr_chkLock = true) : exec (.checkerLockLoss lane errors) s = .next { s with
      dev := (s.dev.satFld (Reg.laneChkErr lane) F.laneChkErr_errors errors).setFld (Reg.laneChkErr lane) F.laneChkErr_chkLock 0 } := by
  show execCheckerLockLoss lane errors s = _
  rw [execCheckerLockLoss, State.lift_eq]
  dsimp only
  rw [h]
  rfl

theorem checkerLock_locks {s : State} {lane : Nat} (h : s.dev.laneState lane = 5) (hc : s.dev.fld (Reg.laneTest lane) F.laneTest_chk ≠ 0)
    (hh : ∀ gen, s.dev.laneHears lane = some gen → gen = s.dev.fld (Reg.laneTest lane) F.laneTest_chk) :
    ∃ t, exec (.checkerLock lane) s = .next t ∧ s.RegsOnly t [Reg.laneChkErr lane] ∧
      t.dev.flag (Reg.laneChkErr lane) F.laneChkErr_chkLock = true ∧
      t.dev.fld (Reg.laneChkErr lane) F.laneChkErr_errors = s.dev.fld (Reg.laneChkErr lane) F.laneChkErr_errors := by
  refine ⟨_, exec_checkerLock h hc hh, ⟨(s.dev.regsAlone_setFld _ _ _).state, s.dev.keepsRegs_setFld _ _ _⟩, ?_,
    Dev.fld_setFld_field _ _ ⟨by decide, by decide⟩ (by decide) _⟩
  rw [Dev.flag_setFld_same _ _ ⟨by decide, by decide⟩ rfl]
  rfl

theorem checkerLockLoss_counts {s : State} {lane : Nat} (errors : Nat)
    (h : s.dev.flag (Reg.laneChkErr lane) F.laneChkErr_chkLock = true) :
    ∃ t, exec (.checkerLockLoss lane errors) s = .next t ∧ s.RegsOnly t [Reg.laneChkErr lane] ∧
      t.dev.flag (Reg.laneChkErr lane) F.laneChkErr_chkLock = false ∧
      t.dev.fld (Reg.laneChkErr lane) F.laneChkErr_errors =
        min (2 ^ 31 - 1) (s.dev.fld (Reg.laneChkErr lane) F.laneChkErr_errors + errors) := by
  refine ⟨_, exec_checkerLockLoss errors h, ⟨((s.dev.regsAlone_setFld _ _ _).setFld _ _ _).state,
    (s.dev.keepsRegs_setFld _ _ _).trans (Dev.keepsRegs_setFld _ _ _ _)⟩, ?_, ?_⟩
  · rw [Dev.flag_setFld_same _ _ ⟨by decide, by decide⟩ rfl]
    rfl
  · rw [Dev.fld_setFld_field _ _ ⟨by decide, by decide⟩ (by decide), Dev.satFld, Dev.fld_setFld_same _ _ ⟨by decide, by decide⟩]
    exact Nat.mod_eq_of_lt (Nat.lt_of_le_of_lt (Nat.min_le_left _ _) (by decide))

/-! ## MAC_COUNTER_LO_READ (R354) -/

theorem exec_macCounterLoRead {s : State} {fn mac counter : Nat} (h : s.dev.sees fn (Reg.portMacCntLo mac counter) = true) :
    exec (.macCounterLoRead fn mac counter) s = .next { s with dev := { s.dev with
      latch := Tab.put (fun _ => none) s.dev.latch (Reg.portMacCntHi mac counter) (some (s.dev.reg (Reg.portMacCntHi mac counter)).toNat)
      out := .read fn (Reg.portMacCntLo mac counter) (s.dev.reg (Reg.portMacCntLo mac counter)).toNat :: s.dev.out } } := by
  show execMacCounterLoRead fn mac counter s = _
  rw [execMacCounterLoRead, State.lift_eq]
  dsimp only
  rw [h]
  rfl

/-- The low word is shown, and the high one is latched. -/
theorem macCounterLoRead_latches {s : State} {fn mac counter : Nat} (h : s.dev.sees fn (Reg.portMacCntLo mac counter) = true) :
    ∃ t, exec (.macCounterLoRead fn mac counter) s = .next t ∧
      s.dev.ShowsOnly t.dev (.read fn (Reg.portMacCntLo mac counter) (s.dev.reg (Reg.portMacCntLo mac counter)).toNat) ∧
      Tab.get (fun _ => none) t.dev.latch (Reg.portMacCntHi mac counter) = some (s.dev.reg (Reg.portMacCntHi mac counter)).toNat ∧
      t = { s with dev := { s.dev with latch := t.dev.latch, out := t.dev.out } } := by
  have hl : Tab.get (fun _ => Option.none) (Tab.put (fun _ => Option.none) s.dev.latch (Reg.portMacCntHi mac counter)
      (some (s.dev.reg (Reg.portMacCntHi mac counter)).toNat)) (Reg.portMacCntHi mac counter) =
      some (s.dev.reg (Reg.portMacCntHi mac counter)).toNat := Tab.get_put_same _ _ _
  exact ⟨_, exec_macCounterLoRead h, rfl, hl, rfl⟩

/-- Settles O51, by what each command of a lane's receiver and of its tests shows. -/
theorem lanesSample : Obligations.LanesSample := by
  unfold Obligations.LanesSample
  exact ⟨fun _ _ margin after _ h => marginSample_shown margin after h,
    fun _ _ _ after _ hl h hheld hmin hsnap hbar => marginSample_reverts after hl h hheld hmin hsnap hbar,
    fun _ _ _ after _ h hfrozen hadapt hrun hsnap => marginSample_snaps after h hfrozen hadapt hrun hsnap,
    fun s lane _ _ h => idleWindowEnd_guards s lane h, fun _ _ _ hw hv hs => laneSnapSave_saves hw hv hs,
    fun _ _ _ _ _ hw hm => laneTest_written hw hm, fun _ _ _ h hc hh => checkerLock_locks h hc hh,
    fun _ _ errors _ h => checkerLockLoss_counts errors h,
    fun _ _ _ _ _ _ h => macCounterLoRead_latches h⟩

end Sys2Proof.Machine
end


section
/-! PROOFS. Frames in and out, gates, buckets and the rehash (R348, R349, R356, R358, R365, R366, R368–R370, R379).
Settles O52. -/

namespace Sys2Proof.Machine

/-! ## The classifier reads its own registers -/

/-- A search of a table that sees nothing at a key does not see a write there. -/
theorem Tab.findSome?_put {α β : Type} [DecidableEq α] {d : Nat → α} (t : Tab α) {k : Nat} (v : α) {g : Nat × α → Option β}
    (h : ∀ w, g (k, w) = none) : (Tab.put d t k v).findSome? g = t.findSome? g := by
  rw [← List.head?_filterMap, ← List.head?_filterMap]
  congr 1
  unfold Tab.put
  split_ifs
  · rw [List.filterMap_filter]
    refine List.filterMap_congr fun p _ => ?_
    obtain ⟨j, w⟩ := p
    by_cases hj : j = k
    · subst hj
      simp [h]
    · simp [hj]
  · exact Tab.filterMap_set (d := d) t g (h v) (h _)

theorem Dev.addrAt_of_keepsRegs {d e : Dev} {l : List Nat} (h : d.KeepsRegs e l) {w : Nat → Nat} (hw : ∀ i, w i ∉ l) :
    e.addrAt w = d.addrAt w := by
  simp only [Dev.addrAt, h _ (hw _)]

theorem Dev.sourceEntry_of_keepsRegs {d e : Dev} {l : List Nat} (h : d.KeepsRegs e l) (hl : ∀ a ∈ l, a < Reg.egsSrcIp 0 0) (ver src : Nat) :
    e.sourceEntry ver src = d.sourceEntry ver src := by
  have ha (j : Nat) : e.addrAt (Reg.egsSrcIp j) = d.addrAt (Reg.egsSrcIp j) :=
    Dev.addrAt_of_keepsRegs h fun i hi => by have := hl _ hi; simp only [Reg.egsSrcIp] at this; omega
  simp only [Dev.sourceEntry, ha]

/-- A register below the classifier's set, the classifier's own kept: no entry changes. -/
theorem Dev.classEntry_setReg (d : Dev) {a : Nat} (w : Word) (ha : a < 0xA10000) (pair vlan ver dst dport sel : Nat) :
    (d.setReg a w).classEntry pair vlan ver dst dport sel = d.classEntry pair vlan ver dst dport sel := by
  have hk : d.KeepsRegs (d.setReg a w) [a] := fun b hb => Dev.reg_setReg_other _ _ (by simpa using hb)
  have hf (e : Nat) : (d.setReg a w).fld (Reg.egsClsFlow e) F.egsClsFlow_udpDport = d.fld (Reg.egsClsFlow e) F.egsClsFlow_udpDport :=
    hk.fld (by simp only [List.mem_singleton, Reg.egsClsFlow]; omega) _
  have hd (e : Nat) : (d.setReg a w).addrAt (Reg.egsClsDip e) = d.addrAt (Reg.egsClsDip e) :=
    Dev.addrAt_of_keepsRegs hk fun i => by simp only [List.mem_singleton, Reg.egsClsDip]; omega
  simp only [Dev.classEntry, hf, hd, Dev.setReg_regs]
  exact Tab.findSome?_put _ _ fun v => if_neg fun hc => absurd hc.1 (by simp only; omega)

theorem Dev.classify_setReg (d : Dev) {a : Nat} (w : Word) (ha : a < Reg.egsSrcIp 0 0) (mac : Nat) (f : EthFrame) (ver src dst dport : Nat) :
    (d.setReg a w).classify mac f ver src dst dport = d.classify mac f ver src dst dport := by
  have hk : d.KeepsRegs (d.setReg a w) [a] := fun b hb => Dev.reg_setReg_other _ _ (by simpa using hb)
  simp only [Dev.classify, Dev.sourceEntry_of_keepsRegs hk (by simpa using ha)]
  simp only [Dev.classEntry_setReg d w (show a < 0xA10000 by simp only [Reg.egsSrcIp] at ha; omega)]

/-- Counting at a MAC does not change what the classifier finds. -/
theorem Dev.classify_macCount (d : Dev) {m i : Nat} (n : Nat) (hm : m < 64) (hi : i < 11) (mac : Nat) (f : EthFrame)
    (ver src dst dport : Nat) : (d.macCount m i n).classify mac f ver src dst dport = d.classify mac f ver src dst dport := by
  unfold Dev.macCount
  dsimp only
  rw [Dev.classify_setReg _ _ (by simp only [Reg.portMacCntHi, Reg.egsSrcIp]; omega),
    Dev.classify_setReg _ _ (by simp only [Reg.portMacCntLo, Reg.egsSrcIp]; omega)]

/-! ## ETH_FRAME_RECEIVE (R348, R349, R356) -/

section
variable {s : State} {mac ns : Nat} {f : EthFrame} (hm : mac < 64) (hr : s.dev.inReset 4 = false) (hl : s.dev.linkUp mac = true)
include hm hr hl

/-- The checks of a frame at a MAC whose link is up, in order. -/
theorem exec_ethFrameReceive : exec (.ethFrameReceive mac f ns) s = .next { s with
    dev :=
      if !f.fcsOk then (s.dev.atNs ns).macCount mac 2 1
      else if f.bytes < 64 ∨ s.dev.fld (Reg.portMacCtl mac) F.portMacCtl_maxFrame + 4 * bit f.tag.isSome < f.bytes then
        (s.dev.atNs ns).macCount mac 3 1
      else if !s.dev.accepts mac f.da then s.dev.atNs ns
      else
        let d := ((s.dev.atNs ns).macCount mac 0 1).macCount mac 1 f.bytes
        if (f.tag.map (·.1)) == some 0x88A8 then d.macCount mac 3 1 else d.frameIn mac f ns } := by
  show execEthFrameReceive mac f ns s = _
  rw [execEthFrameReceive, State.lift_eq]
  dsimp only
  rw [if_neg (by simp [hm, hr, hl])]
  rfl

end

/-- What a frame that is dropped and counted leaves: the counter one on. -/
theorem ethFrame_counted {s t : State} {mac ns i : Nat} (ht : t = { s with dev := (s.dev.atNs ns).macCount mac i 1 }) :
    s.dev.KeepsRegs t.dev [Reg.portMacCntLo mac i, Reg.portMacCntHi mac i] ∧
    (t.dev.reg (Reg.portMacCntLo mac i)).toNat + (t.dev.reg (Reg.portMacCntHi mac i)).toNat * 2 ^ 32 =
      ((s.dev.reg (Reg.portMacCntLo mac i)).toNat + (s.dev.reg (Reg.portMacCntHi mac i)).toNat * 2 ^ 32 + 1) % 2 ^ 64 ∧
    t = { s with dev := { s.dev with regs := t.dev.regs, stk := { s.dev.stk with phase := ns } } } := by
  subst ht
  exact ⟨Dev.keepsRegs_macCount (s.dev.atNs ns) mac i 1, Dev.macCount_value (s.dev.atNs ns) mac i 1,
    congrArg (fun d => { s with dev := d }) (Dev.macCount_eq (s.dev.atNs ns) mac i 1)⟩

section
variable {s : State} {mac : Nat} (ns : Nat) {f : EthFrame} (hm : mac < 64) (hr : s.dev.inReset 4 = false) (hl : s.dev.linkUp mac = true)
include hm hr hl

theorem ethFrame_badFcs (hf : f.fcsOk = false) : exec (.ethFrameReceive mac f ns) s = .next { s with
    dev := (s.dev.atNs ns).macCount mac 2 1 } := by
  rw [exec_ethFrameReceive hm hr hl, if_pos (by simp [hf])]

theorem ethFrame_badLength (hf : f.fcsOk = true)
    (hb : f.bytes < 64 ∨ s.dev.fld (Reg.portMacCtl mac) F.portMacCtl_maxFrame + 4 * bit f.tag.isSome < f.bytes) :
    exec (.ethFrameReceive mac f ns) s = .next { s with dev := (s.dev.atNs ns).macCount mac 3 1 } := by
  rw [exec_ethFrameReceive hm hr hl, if_neg (by simp [hf]), if_pos hb]

end

/-- A good frame is counted with its bytes. -/
def Dev.frameCounted (d : Dev) (mac bytes ns : Nat) : Dev := ((d.atNs ns).macCount mac 0 1).macCount mac 1 bytes

/-- The registers of the two counters of good frames. -/
def goodRegs (mac : Nat) : List Nat :=
  [Reg.portMacCntLo mac 0, Reg.portMacCntHi mac 0, Reg.portMacCntLo mac 1, Reg.portMacCntHi mac 1]

theorem Dev.keepsRegs_frameCounted (d : Dev) (mac bytes ns : Nat) : d.KeepsRegs (d.frameCounted mac bytes ns) (goodRegs mac) :=
  Dev.KeepsRegs.trans (e := (d.atNs ns).macCount mac 0 1)
    ((Dev.keepsRegs_macCount (d.atNs ns) mac 0 1).mono (by simp [goodRegs])) ((Dev.keepsRegs_macCount _ mac 1 bytes).mono (by simp [goodRegs]))

theorem Dev.frameCounted_eq (d : Dev) (mac bytes ns : Nat) :
    d.frameCounted mac bytes ns = { d with regs := (d.frameCounted mac bytes ns).regs, stk := { d.stk with phase := ns } } := by
  have h₁ := Dev.macCount_eq (d.atNs ns) mac 0 1
  have h₂ := Dev.macCount_eq ((d.atNs ns).macCount mac 0 1) mac 1 bytes
  unfold Dev.frameCounted
  generalize ((d.atNs ns).macCount mac 0 1).macCount mac 1 bytes = e at h₂
  rw [h₂, h₁]
  rfl

theorem Dev.addFld_of_regs_stk {d e : Dev} {k : Stk} (h : e = { d with regs := e.regs, stk := k }) (a : Nat) (f : Fld) (n : Nat) :
    e.addFld a f n = { d with regs := (e.addFld a f n).regs, stk := k } :=
  (Dev.addFld_eq e a f n).trans (congrArg (fun x : Dev => { x with regs := (e.addFld a f n).regs }) h)

theorem Dev.localNs_of_regs_stk {d e : Dev} {k : Stk} (h : e = { d with regs := e.regs, stk := k }) (hk : k.stroke = d.stk.stroke) (ns : Nat) :
    e.localNs ns = d.localNs ns := by
  rw [Dev.localNs, Dev.localNs, Dev.now, Dev.now, show e.stk = k by rw [h], hk]

theorem Dev.keepsRegs_addFld (d : Dev) (a : Nat) (f : Fld) (n : Nat) : d.KeepsRegs (d.addFld a f n) [a] := Dev.keepsRegs_setFld _ _ _ _

theorem goodRegs_bounds (mac : Nat) : ∀ a ∈ goodRegs mac, 0x910000 + 0x100 * mac + 0x40 ≤ a ∧ a < 0x910000 + 0x100 * mac + 0x60 := by
  simp only [goodRegs, Reg.portMacCntLo, Reg.portMacCntHi, List.mem_cons, List.not_mem_nil, or_false]
  omega

theorem Dev.classify_frameCounted (d : Dev) {mac : Nat} (bytes ns : Nat) (hm : mac < 64) (f : EthFrame) (ver src dst dport : Nat) :
    (d.frameCounted mac bytes ns).classify mac f ver src dst dport = d.classify mac f ver src dst dport := by
  unfold Dev.frameCounted
  rw [Dev.classify_macCount _ _ hm (by decide), Dev.classify_macCount _ _ hm (by decide)]
  rfl

theorem Dev.byteTime_of_keepsRegs {d e : Dev} {l : List Nat} {m : Nat} (h : d.KeepsRegs e l) (hg : Reg.portGroupCfg (m / 4) ∉ l)
    (hc : Reg.portMacCtl m ∉ l) : e.byteTime m = d.byteTime m := by
  rw [Dev.byteTime, Dev.groupMode, h.fld hg, h.flag hc]
  rfl

theorem Dev.byteTime_frameCounted (d : Dev) (mac bytes ns : Nat) :
    (d.frameCounted mac bytes ns).byteTime mac = d.byteTime mac :=
  Dev.byteTime_of_keepsRegs (d.keepsRegs_frameCounted mac bytes ns)
    (fun h => by have := goodRegs_bounds mac _ h; simp only [Reg.portGroupCfg] at this; omega)
    (fun h => by have := goodRegs_bounds mac _ h; simp only [Reg.portMacCtl] at this; omega)

/-- An untagged good frame goes on by its contents. -/
theorem ethFrame_good {s : State} {mac : Nat} (ns : Nat) {f : EthFrame} (hm : mac < 64) (hr : s.dev.inReset 4 = false)
    (hl : s.dev.linkUp mac = true) (hf : f.fcsOk = true) (h64 : 64 ≤ f.bytes)
    (hmax : f.bytes ≤ s.dev.fld (Reg.portMacCtl mac) F.portMacCtl_maxFrame) (ht : f.tag = none) (ha : s.dev.accepts mac f.da = true) :
    exec (.ethFrameReceive mac f ns) s = .next { s with dev := (s.dev.frameCounted mac f.bytes ns).frameIn mac f ns } := by
  rw [exec_ethFrameReceive hm hr hl, if_neg (by simp [hf]), if_neg (by omega), if_neg (by simp [ha])]
  dsimp only
  rw [if_neg (by simp [ht])]
  rfl

/-- Without MACsec, an IP packet that no entry takes is a miss. -/
theorem Dev.frameIn_miss {d : Dev} {mac : Nat} {f : EthFrame} (ns : Nat) {ver src dst dport ssrc seq ts : Nat} {marker : Bool} {payload : Nat}
    {authOk : Bool} {media : Media} (hb : f.body = .ip ver src dst dport false true ssrc seq ts marker payload authOk media)
    (hc : d.classify mac f ver src dst dport = none) (hs : d.flag (Reg.portMacsecCfg mac) F.portMacsecCfg_enable = false) :
    d.frameIn mac f ns = d.addFld Reg.egsClsMiss F.egsClsMiss_misses 1 := by
  have hsec : d.macsecIn mac f = (d, true) := by simp only [Dev.macsecIn, hs, Bool.not_false, if_true]
  simp only [Dev.frameIn, hb, hsec, hc, Bool.not_true, Bool.or_self, Bool.false_eq_true, if_false]

/-- The transmitter of a MAC stopped until a local time in ns. -/
def Dev.stoppedTo (d : Dev) (mac u : Nat) : Dev := d.onPth fun p => { p with paused := Tab.put zero p.paused mac u }

theorem Dev.paused_stoppedTo_same (d : Dev) (mac u : Nat) : Tab.get zero (d.stoppedTo mac u).pth.paused mac = u := Tab.get_put_same _ _ _

theorem Dev.paused_stoppedTo_other (d : Dev) {m mac : Nat} (u : Nat) (h : m ≠ mac) :
    Tab.get zero (d.stoppedTo mac u).pth.paused m = Tab.get zero d.pth.paused m := Tab.get_put_other _ _ h

theorem Dev.keepsRegs_stoppedTo (d : Dev) (mac u : Nat) (l : List Nat) : d.KeepsRegs (d.stoppedTo mac u) l := fun _ _ => rfl

theorem Dev.stoppedTo_of_regs_stk {d e : Dev} {k : Stk} (h : e = { d with regs := e.regs, stk := k }) (mac u : Nat) :
    e.stoppedTo mac u = { d with regs := (e.stoppedTo mac u).regs, pth := (e.stoppedTo mac u).pth, stk := k } :=
  congrArg (fun x : Dev => { x with pth := (e.stoppedTo mac u).pth }) h

/-- PAUSE with PAUSE_RX 1 stops the transmitter. -/
theorem Dev.frameIn_pause {d : Dev} {mac : Nat} {f : EthFrame} (ns : Nat) {quanta : Nat} (hb : f.body = .pause quanta)
    (hp : d.flag (Reg.portMacCtl mac) F.portMacCtl_pauseRx = true) :
    d.frameIn mac f ns = d.stoppedTo mac (d.localNs ns + cdiv (quanta % 65536 * 64 * d.byteTime mac) 1000) := by
  simp only [Dev.frameIn, hb, Dev.pauseIn, hp, if_true, Dev.stoppedTo]

section
variable {s : State} {mac : Nat} (ns : Nat) {f : EthFrame} (hm : mac < 64) (hr : s.dev.inReset 4 = false) (hl : s.dev.linkUp mac = true)
  (hf : f.fcsOk = true) (h64 : 64 ≤ f.bytes) (hmax : f.bytes ≤ s.dev.fld (Reg.portMacCtl mac) F.portMacCtl_maxFrame) (ht : f.tag = none)
  (ha : s.dev.accepts mac f.da = true)
include hm hr hl hf h64 hmax ht ha

theorem ethFrame_misses {ver src dst dport ssrc seq ts : Nat} {marker : Bool} {payload : Nat} {authOk : Bool} {media : Media}
    (hb : f.body = .ip ver src dst dport false true ssrc seq ts marker payload authOk media)
    (hc : s.dev.classify mac f ver src dst dport = none) (hs : s.dev.flag (Reg.portMacsecCfg mac) F.portMacsecCfg_enable = false) :
    ∃ t, exec (.ethFrameReceive mac f ns) s = .next t ∧
      t.dev.fld Reg.egsClsMiss F.egsClsMiss_misses = (s.dev.fld Reg.egsClsMiss F.egsClsMiss_misses + 1) % 2 ^ 32 ∧
      s.dev.KeepsRegs t.dev [Reg.egsClsMiss, Reg.portMacCntLo mac 0, Reg.portMacCntHi mac 0, Reg.portMacCntLo mac 1,
        Reg.portMacCntHi mac 1] ∧
      t = { s with dev := { s.dev with regs := t.dev.regs, stk := { s.dev.stk with phase := ns } } } := by
  have hk := s.dev.keepsRegs_frameCounted mac f.bytes ns
  have he := s.dev.frameCounted_eq mac f.bytes ns
  have hm' : Reg.egsClsMiss ∉ goodRegs mac := fun h => by have := goodRegs_bounds mac _ h; simp only [Reg.egsClsMiss] at this; omega
  have hs' : Reg.portMacsecCfg mac ∉ goodRegs mac := fun h => by have := goodRegs_bounds mac _ h; simp only [Reg.portMacsecCfg] at this; omega
  have hin := Dev.frameIn_miss ns hb ((Dev.classify_frameCounted s.dev f.bytes ns hm f ver src dst dport).trans hc) ((hk.flag hs' _).trans hs)
  refine ⟨_, ethFrame_good ns hm hr hl hf h64 hmax ht ha, ?_⟩
  rw [hin]
  generalize s.dev.frameCounted mac f.bytes ns = e at hk he
  refine ⟨?_, ?_, ?_⟩
  · rw [Dev.fld_addFld_same _ _ ⟨by decide, by decide⟩, hk.fld hm', show F.egsClsMiss_misses.width = 32 from rfl]
  · exact (hk.mono (List.subset_cons_self _ _)).trans ((e.keepsRegs_addFld _ _ _).mono (by simp))
  · exact congrArg (fun d => { s with dev := d }) (Dev.addFld_of_regs_stk he _ _ _)

theorem ethFrame_pauses {quanta : Nat} (hb : f.body = .pause quanta) (hp : s.dev.flag (Reg.portMacCtl mac) F.portMacCtl_pauseRx = true) :
    ∃ t, exec (.ethFrameReceive mac f ns) s = .next t ∧
      Tab.get zero t.dev.pth.paused mac = s.dev.localNs ns + cdiv (quanta % 65536 * 64 * s.dev.byteTime mac) 1000 ∧
      (∀ m, m ≠ mac → Tab.get zero t.dev.pth.paused m = Tab.get zero s.dev.pth.paused m) ∧
      s.dev.KeepsRegs t.dev [Reg.portMacCntLo mac 0, Reg.portMacCntHi mac 0, Reg.portMacCntLo mac 1, Reg.portMacCntHi mac 1] ∧
      t = { s with dev := { s.dev with regs := t.dev.regs, pth := t.dev.pth, stk := { s.dev.stk with phase := ns } } } := by
  have hk := s.dev.keepsRegs_frameCounted mac f.bytes ns
  have he := s.dev.frameCounted_eq mac f.bytes ns
  have hc : Reg.portMacCtl mac ∉ goodRegs mac := fun h => by have := goodRegs_bounds mac _ h; simp only [Reg.portMacCtl] at this; omega
  have hn : (s.dev.frameCounted mac f.bytes ns).localNs ns = s.dev.localNs ns := Dev.localNs_of_regs_stk he rfl ns
  have hin := Dev.frameIn_pause ns hb ((hk.flag hc _).trans hp)
  rw [Dev.byteTime_frameCounted, hn] at hin
  refine ⟨_, ethFrame_good ns hm hr hl hf h64 hmax ht ha, ?_⟩
  rw [hin]
  generalize s.dev.localNs ns + cdiv (quanta % 65536 * 64 * s.dev.byteTime mac) 1000 = u
  generalize s.dev.frameCounted mac f.bytes ns = e at hk he ⊢
  have hp : e.pth = s.dev.pth := by rw [he]
  refine ⟨e.paused_stoppedTo_same mac u, fun m h => ?_, hk.trans (e.keepsRegs_stoppedTo mac u _),
    congrArg (fun d => { s with dev := d }) (Dev.stoppedTo_of_regs_stk he mac u)⟩
  exact (e.paused_stoppedTo_other u h).trans (by rw [hp])

end

/-! ## MERGE_KEY_LOST (R379) -/

@[simp] theorem Dev.merge_setMerge_same (d : Dev) (f : Nat) (x : MergeDyn) : (d.setMerge f x).merge f = x :=
  congrArg (fun o : Option MergeDyn => o.getD ⟨0, [], 0, 0, 0, 0, 0⟩) (Tab.get_put_same d.pth.merges f (some x))

theorem Dev.merge_setMerge_other (d : Dev) {f g : Nat} (x : MergeDyn) (h : g ≠ f) : (d.setMerge f x).merge g = d.merge g :=
  congrArg (fun o : Option MergeDyn => o.getD ⟨0, [], 0, 0, 0, 0, 0⟩) (Tab.get_put_other d.pth.merges (some x) h)

@[simp] theorem Dev.merging_setMerge (d : Dev) (f : Nat) (x : MergeDyn) : (d.setMerge f x).merging f = true :=
  congrArg Option.isSome (Tab.get_put_same (d := noMerge) d.pth.merges f (some x))

/-- The merge of a flow once a key is lost: counted, and listed as a key that no path has brought. -/
def MergeDyn.losing (x : MergeDyn) (key : Nat) : MergeDyn := { x with lost := x.lost + 1, keys := ⟨key, 0, 2, 0, false⟩ :: x.keys }

theorem MergeDyn.keys_losing (x : MergeDyn) (key k : Nat) :
    (∃ y ∈ (x.losing key).keys, y.key = k) ↔ k = key ∨ ∃ y ∈ x.keys, y.key = k := by
  simp only [MergeDyn.losing, List.mem_cons, exists_eq_or_imp]
  exact or_congr_left eq_comm

/-- A candidate of a lost key is late: it is discarded and counted. -/
theorem Dev.mergeCandidate_lost {d : Dev} {flow bits k mac : Nat} (crc n : Nat) {key : Nat} {x : MergeDyn} (hx : d.merge flow = x.losing key)
    (hd : d.merging flow = true) (hk : unwrapKey bits x.high k = key)
    (hs : d.fld (Reg.pathFlowCfg flow) F.pathFlowCfg_single ≠ 2 - mac / 32) :
    d.mergeCandidate flow bits k mac crc n = (d.setMerge flow { x.losing key with late := x.late + 1 }, .discard) := by
  have hh : (x.losing key).high = x.high := rfl
  have hf : (x.losing key).keys.find? (fun e => decide (e.key = key)) = some ⟨key, 0, 2, 0, false⟩ := by simp [MergeDyn.losing]
  simp only [Dev.mergeCandidate, if_neg hs, hx, hd, if_true, hh, hk, hf, true_or]
  rfl

theorem exec_mergeKeyLost {s : State} {flow key : Nat} {e : MergeKey} (he : e ∈ (s.dev.merge flow).keys) (hp : e.path ≠ 2) (hk : key < e.key)
    (hw : e.at_ + s.dev.window flow < (s.dev.now + 1) * 125000) (hn : ∀ k ∈ (s.dev.merge flow).keys, k.key ≠ key) :
    exec (.mergeKeyLost flow key) s = .next { s with dev := s.dev.setMerge flow ((s.dev.merge flow).losing key) } := by
  have hany : ((s.dev.merge flow).keys.any fun e => e.path ≠ 2 &&
      decide (key < e.key ∧ e.at_ + s.dev.window flow < (s.dev.now + 1) * 125000)) = true :=
    List.any_eq_true.mpr ⟨e, he, by simp [hp, hk, hw]⟩
  have hnone : ((s.dev.merge flow).keys.any fun e => e.key = key) = false := by simpa using hn
  show execMergeKeyLost flow key s = _
  rw [execMergeKeyLost, State.lift_eq]
  dsimp only
  rw [if_pos (by rw [hany, hnone]; rfl)]
  rfl

theorem mergeKeyLost_counted {s : State} {flow key : Nat} {e : MergeKey} (he : e ∈ (s.dev.merge flow).keys) (hp : e.path ≠ 2)
    (hk : key < e.key) (hw : e.at_ + s.dev.window flow < (s.dev.now + 1) * 125000) (hn : ∀ k ∈ (s.dev.merge flow).keys, k.key ≠ key) :
    ∃ t, exec (.mergeKeyLost flow key) s = .next t ∧ (t.dev.merge flow).lost = (s.dev.merge flow).lost + 1 ∧
      (t.dev.merge flow).high = (s.dev.merge flow).high ∧
      (∀ k, (∃ x ∈ (t.dev.merge flow).keys, x.key = k) ↔ k = key ∨ ∃ x ∈ (s.dev.merge flow).keys, x.key = k) ∧
      (∀ bits k mac crc n, unwrapKey bits (t.dev.merge flow).high k = key →
        s.dev.fld (Reg.pathFlowCfg flow) F.pathFlowCfg_single ≠ 2 - mac / 32 →
        (t.dev.mergeCandidate flow bits k mac crc n).2 = .discard ∧
          ((t.dev.mergeCandidate flow bits k mac crc n).1.merge flow).late = (t.dev.merge flow).late + 1) ∧
      (∀ f, f ≠ flow → t.dev.merge f = s.dev.merge f) ∧ t = { s with dev := { s.dev with pth := t.dev.pth } } := by
  have hm := s.dev.merge_setMerge_same flow ((s.dev.merge flow).losing key)
  refine ⟨_, exec_mergeKeyLost he hp hk hw hn, ?_, ?_, fun k => ?_, fun bits k mac crc n hu hs => ?_,
    fun f h => s.dev.merge_setMerge_other _ h, rfl⟩
  · rw [hm]
    rfl
  · rw [hm]
    rfl
  · rw [hm]
    exact MergeDyn.keys_losing _ _ _
  · rw [hm] at hu
    rw [Dev.mergeCandidate_lost crc n hm (s.dev.merging_setMerge _ _) hu hs, hm]
    exact ⟨rfl, congrArg MergeDyn.late (Dev.merge_setMerge_same _ _ _)⟩

/-! ## Time gates (R369, R370) -/

theorem Dev.gates_setGates_same (d : Dev) (m : Nat) (g : GateDyn) : (d.setGates m g).gates m = g := by
  have h := Tab.get_put_same (d := noGates) d.egs.gates m (if g = ⟨none, 0, 0, none⟩ then none else some g)
  show (Tab.get noGates (Tab.put noGates _ _ _) m).getD _ = _
  rw [h]
  split_ifs with hg
  · exact hg.symm
  · rfl

theorem Dev.gates_setGates_other (d : Dev) {m k : Nat} (g : GateDyn) (h : k ≠ m) : (d.setGates m g).gates k = d.gates k :=
  congrArg (fun o : Option GateDyn => o.getD ⟨none, 0, 0, none⟩) (Tab.get_put_other d.egs.gates _ h)

theorem gateIntervalEnd_next {s : State} {port : Nat} {l : GateList} (ha : (s.dev.gates port).active = some l)
    (he : (s.dev.gates port).ends < (s.dev.now + 1) * 125000) :
    let i := ((s.dev.gates port).entry + 1) % max 1 l.entries.length
    ∃ t, exec (.gateIntervalEnd port) s = .next t ∧
      t.dev.gates port = { s.dev.gates port with entry := i, ends := (s.dev.gates port).ends + (l.entries.getD i (0, 0)).2 } ∧
      (∀ m, m ≠ port → t.dev.gates m = s.dev.gates m) ∧ t = { s with dev := { s.dev with egs := t.dev.egs } } := by
  intro i
  have hx : exec (.gateIntervalEnd port) s = .next { s with
      dev := s.dev.setGates port
        { s.dev.gates port with entry := i, ends := (s.dev.gates port).ends + (l.entries.getD i (0, 0)).2 } } := by
    show execGateIntervalEnd port s = _
    rw [execGateIntervalEnd, State.lift_eq]
    simp only [ha, if_neg (Nat.not_le.mpr he)]
    rfl
  exact ⟨_, hx, s.dev.gates_setGates_same _ _, fun m h => s.dev.gates_setGates_other _ h, rfl⟩

/-! ### A pending list takes over -/

/-- STATE and CYCLE_NS of a port whose gates have no pending list. -/
def Dev.gatesShown (d : Dev) (m st ns : Nat) : Dev :=
  (d.setFld (Reg.egsGclStatus m) F.egsGclStatus_state st).setFld (Reg.egsGclStatus m) F.egsGclStatus_cycleNs ns

theorem Dev.showGates_active {d : Dev} {m : Nat} {g : GateDyn} {l : GateList} (h : d.gates m = g) (ha : g.active = some l)
    (hp : g.pending = none) : d.showGates m = d.gatesShown m 1 l.cycle := by
  simp only [Dev.showGates, h, ha, hp]
  rfl

theorem Dev.fld_gatesShown (d : Dev) (m st ns : Nat) :
    (d.gatesShown m st ns).fld (Reg.egsGclStatus m) F.egsGclStatus_state = st % 4 := by
  unfold Dev.gatesShown
  rw [Dev.fld_setFld_field _ _ ⟨by decide, by decide⟩ (by decide), Dev.fld_setFld_same _ _ ⟨by decide, by decide⟩]
  rfl

theorem Dev.keepsRegs_gatesShown (d : Dev) (m st ns : Nat) : d.KeepsRegs (d.gatesShown m st ns) [Reg.egsGclStatus m] :=
  (d.keepsRegs_setFld _ _ _).trans (Dev.keepsRegs_setFld _ _ _ _)

theorem Dev.regsAlone_gatesShown (d : Dev) (m st ns : Nat) : d.RegsAlone (d.gatesShown m st ns) := (d.regsAlone_setFld _ _ _).setFld _ _ _

theorem Dev.RegsAlone.gates {d e : Dev} (h : d.RegsAlone e) (k : Nat) : e.gates k = d.gates k := by
  unfold Dev.RegsAlone at h
  rw [Dev.gates, h, Dev.gates]

theorem Dev.RegsAlone.of_onEgs {d e : Dev} {f : Egs → Egs} (h : (d.onEgs f).RegsAlone e) : e = { d with regs := e.regs, egs := e.egs } := by
  unfold Dev.RegsAlone at h
  have he : e.egs = f d.egs := by rw [h, Dev.onEgs]
  rw [he]
  exact h

/-- The gates of a list at the position that keeps the phase of its base at a local time. -/
def GateList.gatesAt (l : GateList) (t : Nat) : GateDyn :=
  let e := entryAt 0 (((t : Int) - (l.base : Int)) % ((max 1 l.cycle : Nat) : Int)).toNat l.entries
  ⟨some l, e.1, t + e.2, none⟩

/-- A whole number of cycles after BASE a list stands at its first entry. -/
theorem GateList.gatesAt_cycle {l : GateList} {t : Nat} (hb : l.base ≤ t) (hc : (t - l.base) % l.cycle = 0)
    (hl : ∃ e es, l.entries = e :: es ∧ 0 < e.2) : (l.gatesAt t).entry = 0 ∧ (l.gatesAt t).ends = t + (l.entries.getD 0 (0, 0)).2 := by
  obtain ⟨e, es, hl, he⟩ := hl
  have hpos : 0 < l.cycle := by
    rw [GateList.cycle, hl, sumBy_cons]
    exact Nat.add_pos_left he _
  have h0 : ((t : Int) - (l.base : Int)) % ((max 1 l.cycle : Nat) : Int) = 0 := by
    rw [max_eq_right hpos, ← Nat.cast_sub hb]
    exact_mod_cast hc
  simp only [GateList.gatesAt, h0, hl, entryAt, Int.toNat_zero, if_pos he, Nat.sub_zero, List.getD_cons_zero, and_self]

theorem exec_gateListTakeover {s : State} {port t : Nat} {l : GateList} (hp : (s.dev.gates port).pending = some (l, t))
    (ht : t < (s.dev.now + 1) * 125000) :
    exec (.gateListTakeover port) s = .next { s with dev := (s.dev.setGates port (l.gatesAt t)).gatesShown port 1 l.cycle } := by
  show execGateListTakeover port s = _
  rw [execGateListTakeover, State.lift_eq]
  simp only [hp, if_neg (Nat.not_le.mpr ht)]
  exact congrArg (fun d => Host.Outcome.next { s with dev := d }) (Dev.showGates_active (s.dev.gates_setGates_same port (l.gatesAt t)) rfl rfl)

theorem gateListTakeover_takes {s : State} {port at_ : Nat} {l : GateList} (hp : (s.dev.gates port).pending = some (l, at_))
    (ht : at_ < (s.dev.now + 1) * 125000) :
    ∃ t, exec (.gateListTakeover port) s = .next t ∧ (t.dev.gates port).active = some l ∧ (t.dev.gates port).pending = none ∧
      (∀ m, m ≠ port → t.dev.gates m = s.dev.gates m) ∧
      (l.base ≤ at_ → (at_ - l.base) % l.cycle = 0 → (∃ e es, l.entries = e :: es ∧ 0 < e.2) →
        (t.dev.gates port).entry = 0 ∧ (t.dev.gates port).ends = at_ + (l.entries.getD 0 (0, 0)).2) ∧
      t.dev.fld (Reg.egsGclStatus port) F.egsGclStatus_state = 1 ∧
      s.dev.KeepsRegs t.dev [Reg.egsGclStatus port] ∧ t = { s with dev := { s.dev with regs := t.dev.regs, egs := t.dev.egs } } := by
  have ha := (s.dev.setGates port (l.gatesAt at_)).regsAlone_gatesShown port 1 l.cycle
  have hg : ((s.dev.setGates port (l.gatesAt at_)).gatesShown port 1 l.cycle).gates port = l.gatesAt at_ :=
    (ha.gates _).trans (s.dev.gates_setGates_same _ _)
  refine ⟨_, exec_gateListTakeover hp ht, congrArg GateDyn.active hg, congrArg GateDyn.pending hg, fun m h => ?_, fun hb hc hl => ?_,
    Dev.fld_gatesShown _ _ _ _, Dev.keepsRegs_gatesShown (s.dev.setGates port _) _ _ _,
    congrArg (fun d => { s with dev := d }) ha.of_onEgs⟩
  · exact (ha.gates _).trans (s.dev.gates_setGates_other _ h)
  · rw [hg]
    exact GateList.gatesAt_cycle hb hc hl

/-! ## REHASH_WRITE (R358) -/

/-- The device once REHASH_AT of a write is taken. -/
def Dev.rehashAtTaken (d : Dev) (value : Nat) : Dev :=
  if 1 ≤ value % 128 ∧ value % 128 ≤ 64 then d.setFld Reg.egsClsCfg F.egsClsCfg_rehashAt (value % 128) else d

theorem Dev.fld_rehashAtTaken (d : Dev) (value : Nat) : (d.rehashAtTaken value).fld Reg.egsClsCfg F.egsClsCfg_rehashAt =
    if 1 ≤ value % 128 ∧ value % 128 ≤ 64 then value % 128 else d.fld Reg.egsClsCfg F.egsClsCfg_rehashAt := by
  unfold Dev.rehashAtTaken
  split_ifs
  · rw [Dev.fld_setFld_same _ _ ⟨by decide, by decide⟩]
    exact Nat.mod_eq_of_lt (Nat.mod_lt _ (by decide))
  · rfl

theorem Dev.keepsRegs_rehashAtTaken (d : Dev) (value : Nat) : d.KeepsRegs (d.rehashAtTaken value) [Reg.egsClsCfg] := by
  unfold Dev.rehashAtTaken
  split_ifs
  · exact d.keepsRegs_setFld _ _ _
  · exact Dev.KeepsRegs.refl _ _

theorem Dev.rehashAtTaken_eq (d : Dev) (value : Nat) : d.rehashAtTaken value = { d with regs := (d.rehashAtTaken value).regs } := by
  unfold Dev.rehashAtTaken
  split_ifs
  · exact Dev.setFld_eq _ _ _ _
  · rfl

/-- The device once REHASH of a write is taken. -/
def Dev.rehashTaken (d : Dev) (value : Nat) : Dev := if bitAt value 31 = true then d.rehash else d

theorem Dev.bank_rehashTaken (d : Dev) (value : Nat) (h : d.stk.banks ≠ []) :
    if bitAt value 31 = true then (d.rehashTaken value).bank 0 =
      { state := 1, before := (d.bank 0).before ++ (d.bank 0).since, since := [], rehash := true }
    else (d.rehashTaken value).bank 0 = d.bank 0 := by
  unfold Dev.rehashTaken
  split_ifs
  · exact Dev.bank_onBank_same (List.length_pos_iff.mpr h) _
  · rfl

theorem Dev.bank_rehashTaken_other (d : Dev) (value : Nat) {i : Nat} (h : i ≠ 0) : (d.rehashTaken value).bank i = d.bank i := by
  unfold Dev.rehashTaken
  split_ifs
  · exact Dev.bank_onBank_other _ h _
  · rfl

theorem Dev.rehashTaken_eq (d : Dev) (value : Nat) :
    d.rehashTaken value = { d with stk := { d.stk with banks := (d.rehashTaken value).stk.banks } } := by
  unfold Dev.rehashTaken
  split_ifs
  · exact Dev.onBank_eq _ _ _
  · rfl

theorem Dev.regs_rehashTaken (d : Dev) (value : Nat) : (d.rehashTaken value).regs = d.regs := by rw [Dev.rehashTaken_eq]

theorem exec_rehashWrite {s : State} {fn : Nat} (value : Nat) (h : s.dev.mayWrite fn Reg.egsClsCfg = true) :
    exec (.rehashWrite fn value) s = .next { s with dev := (s.dev.rehashAtTaken value).rehashTaken value } := by
  show execRehashWrite fn value s = _
  rw [execRehashWrite, State.lift_eq, Dev.clsCfgWrite, if_neg (by simp [h])]
  rfl

theorem rehashWrite_builds {s : State} {fn : Nat} (value : Nat) (h : s.dev.mayWrite fn Reg.egsClsCfg = true) (hb : s.dev.stk.banks ≠ []) :
    ∃ t, exec (.rehashWrite fn value) s = .next t ∧
      t.dev.fld Reg.egsClsCfg F.egsClsCfg_rehashAt =
        (if 1 ≤ value % 128 ∧ value % 128 ≤ 64 then value % 128 else s.dev.fld Reg.egsClsCfg F.egsClsCfg_rehashAt) ∧
      s.dev.KeepsRegs t.dev [Reg.egsClsCfg] ∧ (∀ i, i ≠ 0 → t.dev.bank i = s.dev.bank i) ∧
      (if bitAt value 31 = true then t.dev.bank 0 =
        { state := 1, before := (s.dev.bank 0).before ++ (s.dev.bank 0).since, since := [], rehash := true }
      else t.dev.bank 0 = s.dev.bank 0) ∧
      t = { s with dev := { s.dev with regs := t.dev.regs, stk := { s.dev.stk with banks := t.dev.stk.banks } } } := by
  have hf := s.dev.fld_rehashAtTaken value
  have hk := s.dev.keepsRegs_rehashAtTaken value
  have he := s.dev.rehashAtTaken_eq value
  refine ⟨_, exec_rehashWrite value h, ?_⟩
  generalize s.dev.rehashAtTaken value = e at hf hk he ⊢
  have hs : e.stk = s.dev.stk := by rw [he]
  have hbank (i : Nat) : e.bank i = s.dev.bank i := by rw [Dev.bank, Dev.bank, hs]
  have hr : e.KeepsRegs (e.rehashTaken value) [Reg.egsClsCfg] := fun a _ => Dev.reg_of_regs (e.regs_rehashTaken value) a
  refine ⟨?_, hk.trans hr, fun i hi => (e.bank_rehashTaken_other value hi).trans (hbank i), ?_, ?_⟩
  · rw [← hf, Dev.fld, Dev.fld, Dev.reg_of_regs (e.regs_rehashTaken value)]
  · have hz := e.bank_rehashTaken value (hs ▸ hb)
    rwa [hbank 0] at hz
  · have hx := e.rehashTaken_eq value
    have hregs := e.regs_rehashTaken value
    generalize e.rehashTaken value = x at hx hregs ⊢
    rw [hx, he]

/-! ## Buckets (R365) -/

theorem Dev.fld_of_regs {d e : Dev} (h : e.regs = d.regs) (a : Nat) (f : Fld) : e.fld a f = d.fld a f := by
  rw [Dev.fld, Dev.reg_of_regs h, Dev.fld]

theorem Dev.byteTime_of_regs {d e : Dev} (h : e.regs = d.regs) (m : Nat) : e.byteTime m = d.byteTime m :=
  Dev.byteTime_of_keepsRegs (l := []) (fun a _ => Dev.reg_of_regs h a) (by simp) (by simp)

theorem Dev.bucketOf_of_regs {d e : Dev} (h : e.regs = d.regs) (k : Nat) : e.bucketOf k = d.bucketOf k := by
  simp only [Dev.bucketOf, Dev.fld_of_regs h, Dev.byteTime_of_regs h]

theorem Dev.bucketOf_port (d : Dev) {m : Nat} (hm : m < 64) : d.bucketOf m =
    (some (if d.fld (Reg.egsPortRate m) F.egsPortRate_kbps = 0 then 8000000000 / d.byteTime m
      else d.fld (Reg.egsPortRate m) F.egsPortRate_kbps), d.fld (Reg.egsPortBurst m) F.egsPortBurst_bytes) := by
  rw [Dev.bucketOf, if_pos hm]

/-- A bucket's level is that of its settings and of what it holds. -/
theorem Dev.bucketLevel_congr {d e : Dev} {k : Nat} (ho : e.bucketOf k = d.bucketOf k)
    (hb : Tab.get fullBucket e.egs.buckets k = Tab.get fullBucket d.egs.buckets k) (t : Nat) : e.bucketLevel k t = d.bucketLevel k t := by
  rw [Dev.bucketLevel, ho, hb, Dev.bucketLevel]

/-- A level is at most the burst. -/
theorem levelOf_le (b : Option Bucket) (kbps burst t : Nat) : levelOf b kbps burst t ≤ ((burst * 8000000 : Nat) : Int) := by
  cases b with
  | none => exact le_refl _
  | some x => exact min_le_left _ _

/-- At its own time a bucket set below its cap holds what was set. -/
theorem levelOf_set {v : Int} {burst : Nat} (h : v ≤ ((burst * 8000000 : Nat) : Int)) (kbps t : Nat) :
    levelOf (some ⟨v, t⟩) kbps burst t = v := by
  simp only [levelOf, Nat.sub_self, Nat.mul_zero, Nat.cast_zero, add_zero]
  exact min_eq_right h

theorem Dev.debit_eq (d : Dev) (k bytes t : Nat) :
    d.debit k bytes t = { d with egs := { d.egs with buckets := (d.debit k bytes t).egs.buckets } } := by
  unfold Dev.debit
  split <;> rfl

theorem Dev.bucket_debit_other (d : Dev) {j k : Nat} (bytes t : Nat) (h : j ≠ k) :
    Tab.get fullBucket (d.debit k bytes t).egs.buckets j = Tab.get fullBucket d.egs.buckets j := by
  unfold Dev.debit
  split
  · rfl
  · exact Tab.get_put_other (d := fullBucket) d.egs.buckets (some ⟨d.bucketLevel k t - ((bytes * 8000000 : Nat) : Int), t⟩) h

theorem Dev.bucket_debit_same {d : Dev} {k rate : Nat} (h : (d.bucketOf k).1 = some rate) (bytes t : Nat) :
    Tab.get fullBucket (d.debit k bytes t).egs.buckets k = some ⟨d.bucketLevel k t - ((bytes * 8000000 : Nat) : Int), t⟩ := by
  unfold Dev.debit
  rw [h]
  exact Tab.get_put_same (d := fullBucket) d.egs.buckets k (some ⟨d.bucketLevel k t - ((bytes * 8000000 : Nat) : Int), t⟩)

theorem Dev.bucketLevel_of_rate {d : Dev} {k rate : Nat} (h : (d.bucketOf k).1 = some rate) (t : Nat) :
    d.bucketLevel k t = levelOf (Tab.get fullBucket d.egs.buckets k) rate (d.bucketOf k).2 t := by
  rw [Dev.bucketLevel]
  generalize d.bucketOf k = x at h ⊢
  obtain ⟨r, b⟩ := x
  obtain rfl : r = some rate := h
  rfl

/-- The buckets of a path, each debited. -/
def Dev.debits (d : Dev) (path : List Nat) (bytes t : Nat) : Dev := path.foldl (fun d k => d.debit k bytes t) d

theorem Dev.debits_cons (d : Dev) (k : Nat) (path : List Nat) (bytes t : Nat) :
    d.debits (k :: path) bytes t = (d.debit k bytes t).debits path bytes t := rfl

theorem Dev.debits_eq (d : Dev) (path : List Nat) (bytes t : Nat) :
    d.debits path bytes t = { d with egs := { d.egs with buckets := (d.debits path bytes t).egs.buckets } } := by
  induction path generalizing d with
  | nil => rfl
  | cons k path ih =>
    have h := ih (d.debit k bytes t)
    have hd := d.debit_eq k bytes t
    rw [Dev.debits_cons]
    generalize (d.debit k bytes t).debits path bytes t = e at h ⊢
    rw [h, hd]

theorem Dev.bucket_debits_other (d : Dev) {path : List Nat} {j : Nat} (bytes t : Nat) (h : j ∉ path) :
    Tab.get fullBucket (d.debits path bytes t).egs.buckets j = Tab.get fullBucket d.egs.buckets j := by
  induction path generalizing d with
  | nil => rfl
  | cons k path ih =>
    obtain ⟨hk, hp⟩ := not_or.mp (mt List.mem_cons.mpr h)
    exact (ih _ hp).trans (d.bucket_debit_other bytes t hk)

/-- The first bucket of a path with a rate, where it stands there once: its level falls by the frame. -/
theorem Dev.bucketLevel_debits {d e : Dev} {k rate : Nat} {path : List Nat} {bytes t : Nat} (h : (d.bucketOf k).1 = some rate) (hp : k ∉ path)
    (ho : e.bucketOf k = d.bucketOf k) (he : e.egs.buckets = (d.debits (k :: path) bytes t).egs.buckets) :
    e.bucketLevel k t = d.bucketLevel k t - ((bytes * 8000000 : Nat) : Int) := by
  rw [Dev.bucketLevel_of_rate (ho ▸ h), he, Dev.debits_cons, Dev.bucket_debits_other _ _ _ hp, Dev.bucket_debit_same h, ho]
  have hle := levelOf_le (Tab.get fullBucket d.egs.buckets k) rate (d.bucketOf k).2 t
  rw [← Dev.bucketLevel_of_rate h] at hle
  exact levelOf_set (by omega) _ _

/-! ## A frame on the wire (R366) -/

/-- A frame on the wire of a port without MACsec: the wire busy, the frame and its bytes counted, and shown. -/
def Dev.onWire (d : Dev) (m queue bytes t : Nat) (facts : List Nat) : Dev :=
  (((d.onEgs fun e => { e with busy := Tab.put zero e.busy m (t * 1000 + bytes * d.byteTime m) }).macCount m 4 1).macCount m 5
    ((bytes : Int) - signed 9 (d.fld (Reg.egsPortCfg m) F.egsPortCfg_overhead)).toNat).emit (.frame m queue facts)

theorem Dev.transmit_plain {d : Dev} {m : Nat} (h : d.flag (Reg.portMacsecCfg m) F.portMacsecCfg_enable = false) (queue bytes t : Nat)
    (facts : List Nat) : d.transmit m queue bytes t facts = d.onWire m queue bytes t facts := by
  have hs : d.macsecOut m = (d, true) := by simp only [Dev.macsecOut, h, Bool.not_false, if_true]
  simp only [Dev.transmit, hs, if_true]
  rfl

/-- The counters of frames and bytes sent. -/
def sentRegs (m : Nat) : List Nat :=
  [Reg.portMacCntLo m 4, Reg.portMacCntHi m 4, Reg.portMacCntLo m 5, Reg.portMacCntHi m 5]

theorem sentRegs_bounds (m : Nat) : ∀ a ∈ sentRegs m, 0x910000 + 0x100 * m + 0x60 ≤ a ∧ a < 0x910000 + 0x100 * m + 0x80 := by
  simp only [sentRegs, Reg.portMacCntLo, Reg.portMacCntHi, List.mem_cons, List.not_mem_nil, or_false]
  omega

theorem Dev.keepsRegs_macCounts (d : Dev) (m n k : Nat) : d.KeepsRegs ((d.macCount m 4 n).macCount m 5 k) (sentRegs m) :=
  ((d.keepsRegs_macCount m 4 n).mono (by simp [sentRegs])).trans ((Dev.keepsRegs_macCount _ m 5 k).mono (by simp [sentRegs]))

theorem Dev.keepsRegs_onWire (d : Dev) (m queue bytes t : Nat) (facts : List Nat) :
    d.KeepsRegs (d.onWire m queue bytes t facts) (sentRegs m) := fun a ha =>
  (Dev.reg_emit _ _ a).trans ((Dev.keepsRegs_macCounts _ m _ _ a ha).trans (Dev.reg_of_regs rfl a))

theorem Dev.regsAlone_macCount (d : Dev) (m i n : Nat) : d.RegsAlone (d.macCount m i n) := d.macCount_eq m i n

theorem Dev.RegsAlone.emit {d e : Dev} (h : d.RegsAlone e) (o : Output) : e.emit o = { d with regs := e.regs, out := o :: d.out } := by
  unfold Dev.RegsAlone at h
  have ho : e.out = d.out := by rw [h]
  rw [Dev.emit, ho]
  exact congrArg (fun x : Dev => { x with out := o :: d.out }) h

theorem Dev.onWire_eq (d : Dev) (m queue bytes t : Nat) (facts : List Nat) : d.onWire m queue bytes t facts = { d with
    regs := (d.onWire m queue bytes t facts).regs
    egs := { d.egs with busy := Tab.put zero d.egs.busy m (t * 1000 + bytes * d.byteTime m) }
    out := .frame m queue facts :: d.out } := by
  unfold Dev.onWire
  exact ((Dev.regsAlone_macCount _ m 4 1).trans (Dev.regsAlone_macCount _ m 5 _)).emit _

/-- What a frame on the wire leaves, where only EGS and the phase had changed before it. -/
theorem onWire_launched {s : State} {e : Dev} {ns : Nat} {g : Egs} (he : e = { s.dev with egs := g, stk := { s.dev.stk with phase := ns } })
    (m queue bytes t : Nat) (facts : List Nat) :
    (e.onWire m queue bytes t facts).egs = { g with busy := Tab.put zero g.busy m (t * 1000 + bytes * s.dev.byteTime m) } ∧
    s.dev.ShowsOnly (e.onWire m queue bytes t facts) (.frame m queue facts) ∧
    s.dev.KeepsRegs (e.onWire m queue bytes t facts) (sentRegs m) ∧
    ({ s with dev := e.onWire m queue bytes t facts } : State) = { s with
      dev := { s.dev with
        regs := (e.onWire m queue bytes t facts).regs
        egs := (e.onWire m queue bytes t facts).egs
        out := (e.onWire m queue bytes t facts).out
        stk := { s.dev.stk with phase := ns } } } := by
  have hr : e.regs = s.dev.regs := by rw [he]
  have hg : e.egs = g := by rw [he]
  have ho : e.out = s.dev.out := by rw [he]
  have hk : s.dev.KeepsRegs e (sentRegs m) := fun a _ => Dev.reg_of_regs hr a
  have hw := e.onWire_eq m queue bytes t facts
  have hkw := hk.trans (e.keepsRegs_onWire m queue bytes t facts)
  rw [hg, Dev.byteTime_of_regs hr, ho] at hw
  generalize e.onWire m queue bytes t facts = w at hw hkw ⊢
  have hwg : w.egs = { g with busy := Tab.put zero g.busy m (t * 1000 + bytes * s.dev.byteTime m) } := by rw [hw]
  have hwo : w.out = .frame m queue facts :: s.dev.out := by rw [hw]
  refine ⟨hwg, hwo, hkw, congrArg (fun d => { s with dev := d }) ?_⟩
  rw [hwg, hwo]
  exact hw.trans (congrArg (fun x : Dev => { x with
    regs := w.regs
    egs := { g with busy := Tab.put zero g.busy m (t * 1000 + bytes * s.dev.byteTime m) }
    out := .frame m queue facts :: s.dev.out }) he)

/-- A frame sent leaves the settings of its port's bucket. -/
theorem Dev.bucketOf_port_of_keepsRegs {d e : Dev} {m : Nat} (h : d.KeepsRegs e (sentRegs m)) (hm : m < 64) :
    e.bucketOf m = d.bucketOf m := by
  have hout {a : Nat} (ha : a < 0x910000 + 0x100 * m + 0x60 ∨ 0x910000 + 0x100 * m + 0x80 ≤ a) : a ∉ sentRegs m := fun hs => by
    have := sentRegs_bounds m a hs
    omega
  rw [Dev.bucketOf_port _ hm, Dev.bucketOf_port _ hm, h.fld (hout (by simp only [Reg.egsPortRate]; omega)),
    h.fld (hout (by simp only [Reg.egsPortBurst]; omega)),
    Dev.byteTime_of_keepsRegs h (hout (by simp only [Reg.portGroupCfg]; omega)) (hout (by simp only [Reg.portMacCtl]; omega))]

/-! ## LIVE_FRAME_LAUNCH (R366) -/

theorem Dev.headerOf_of_regs {d e : Dev} (h : e.regs = d.regs) (hn : e.egs.neighbours = d.egs.neighbours) (m : Nat) (x : LiveFrame) :
    e.headerOf m x = d.headerOf m x := by
  have ha (w : Nat → Nat) : e.addrAt w = d.addrAt w :=
    Dev.addrAt_of_keepsRegs (l := []) (fun a _ => Dev.reg_of_regs h a) (by simp)
  have hd (q : Nat) : e.destMac q = d.destMac q := by simp only [Dev.destMac, Dev.fld_of_regs h, ha, hn]
  simp only [Dev.headerOf, Dev.reg_of_regs h, Dev.fld_of_regs h, hd]

/-- The rest of a port's layout, at an instant of the Stroke. -/
def Dev.layoutTaken (d : Dev) (port ns : Nat) (r : List LiveFrame) : Dev :=
  (d.atNs ns).onEgs fun e => { e with layout := Tab.put noList e.layout port r }

theorem Dev.regs_layoutTaken (d : Dev) (port ns : Nat) (r : List LiveFrame) : (d.layoutTaken port ns r).regs = d.regs := rfl

theorem Dev.layoutTaken_eq (d : Dev) (port ns : Nat) (r : List LiveFrame) : d.layoutTaken port ns r =
    { d with egs := { d.egs with layout := Tab.put noList d.egs.layout port r }, stk := { d.stk with phase := ns } } := rfl

/-- The buckets on the path of a live frame after its port's: those of its class, its subscriber and its queue. -/
def Dev.pathAfter (d : Dev) (port q : Nat) : List Nat :=
  [64 + 8 * port + queueClass d.reg q, 1024 + d.fld (Reg.egsEqCfg q) F.egsEqCfg_sub, 2048 + q]

theorem Dev.not_mem_pathAfter (d : Dev) {port : Nat} (h : port < 64) (q : Nat) : port ∉ d.pathAfter port q := by
  simp only [Dev.pathAfter, List.mem_cons, List.not_mem_nil, or_false]
  omega

/-- After the debits of a launch the level of the port's bucket has fallen by the frame. -/
theorem Dev.bucketLevel_launched (d : Dev) {e : Dev} {port ns : Nat} {r : List LiveFrame} {path : List Nat} {bytes t rate : Nat} (hp : port ∉ path)
    (ho : e.bucketOf port = d.bucketOf port) (hr : (d.bucketOf port).1 = some rate)
    (he : e.egs.buckets = ((d.layoutTaken port ns r).debits (port :: path) bytes t).egs.buckets) :
    e.bucketLevel port t = d.bucketLevel port t - ((bytes * 8000000 : Nat) : Int) := by
  have ht : (d.layoutTaken port ns r).bucketOf port = d.bucketOf port := Dev.bucketOf_of_regs (d.regs_layoutTaken port ns r) port
  rw [Dev.bucketLevel_debits (ht ▸ hr) hp (ho.trans ht.symm) he, Dev.bucketLevel_congr ht rfl]

theorem exec_liveFrameLaunch {s : State} {port ns : Nat} {x : LiveFrame} {r : List LiveFrame}
    (hx : Tab.get noList s.dev.egs.layout port = x :: r) (hl : s.dev.linkUp port = true)
    (hp : s.dev.isPaused port (s.dev.localNs ns) = false) (hs : x.start ≤ ns * 1000 + 999)
    (hb : Tab.get zero s.dev.egs.busy port ≤ s.dev.localNs ns * 1000 + 999) :
    exec (.liveFrameLaunch port ns) s = .next { s with
      dev :=
        let t := s.dev.localNs ns
        let e := (s.dev.layoutTaken port ns r).debits (port :: (s.dev.layoutTaken port ns r).pathAfter port x.queue) x.length t
        e.transmit port x.queue x.length t
          ([(e.fld (Reg.egsEqRtp x.queue) F.egsEqRtp_seq0 + x.no) % 65536, x.bytes] ++ e.headerOf port x) } := by
  show execLiveFrameLaunch port ns s = _
  rw [execLiveFrameLaunch, State.lift_eq]
  simp only [hx]
  rw [if_neg (by simp only [hl, hp]; simp; omega)]
  rfl

theorem liveFrame_launched {s : State} {port ns : Nat} {x : LiveFrame} {r : List LiveFrame} (hm : port < 64)
    (hx : Tab.get noList s.dev.egs.layout port = x :: r) (hl : s.dev.linkUp port = true)
    (hp : s.dev.isPaused port (s.dev.localNs ns) = false) (hs : x.start ≤ ns * 1000 + 999)
    (hb : Tab.get zero s.dev.egs.busy port ≤ s.dev.localNs ns * 1000 + 999)
    (hsec : s.dev.flag (Reg.portMacsecCfg port) F.portMacsecCfg_enable = false) :
    ∃ t, exec (.liveFrameLaunch port ns) s = .next t ∧ Tab.get noList t.dev.egs.layout port = r ∧
      (∀ m, m ≠ port → Tab.get noList t.dev.egs.layout m = Tab.get noList s.dev.egs.layout m) ∧
      Tab.get zero t.dev.egs.busy port = s.dev.localNs ns * 1000 + x.length * s.dev.byteTime port ∧
      s.dev.ShowsOnly t.dev (.frame port x.queue
        ([(s.dev.fld (Reg.egsEqRtp x.queue) F.egsEqRtp_seq0 + x.no) % 65536, x.bytes] ++ s.dev.headerOf port x)) ∧
      (∀ rate, (s.dev.bucketOf port).1 = some rate → t.dev.bucketLevel port (s.dev.localNs ns) =
        s.dev.bucketLevel port (s.dev.localNs ns) - ((x.length * 8000000 : Nat) : Int)) ∧
      s.dev.KeepsRegs t.dev [Reg.portMacCntLo port 4, Reg.portMacCntHi port 4, Reg.portMacCntLo port 5, Reg.portMacCntHi port 5] ∧
      t = { s with dev := { s.dev with regs := t.dev.regs, egs := t.dev.egs, out := t.dev.out
                                       stk := { s.dev.stk with phase := ns } } } := by
  have hexec := exec_liveFrameLaunch hx hl hp hs hb
  have hnp := (s.dev.layoutTaken port ns r).not_mem_pathAfter hm x.queue
  dsimp only at hexec
  generalize (s.dev.layoutTaken port ns r).pathAfter port x.queue = path at hexec hnp
  generalize s.dev.localNs ns = n at hexec ⊢
  have hde := (s.dev.layoutTaken port ns r).debits_eq (port :: path) x.length n
  have hlevel {e : Dev} {rate : Nat} := s.dev.bucketLevel_launched (e := e) (ns := ns) (r := r) (rate := rate) (bytes := x.length) (t := n) hnp
  generalize (s.dev.layoutTaken port ns r).debits (port :: path) x.length n = e at hexec hde hlevel
  rw [Dev.layoutTaken_eq] at hde
  have hr : e.regs = s.dev.regs := by rw [hde]
  have hnb : e.egs.neighbours = s.dev.egs.neighbours := by rw [hde]
  rw [Dev.fld_of_regs hr, Dev.headerOf_of_regs hr hnb, Dev.transmit_plain (by rw [Dev.flag, Dev.reg_of_regs hr]; exact hsec)] at hexec
  obtain ⟨hwg, hwo, hwk, hwe⟩ := onWire_launched (s := s) hde port x.queue x.length n
    ([(s.dev.fld (Reg.egsEqRtp x.queue) F.egsEqRtp_seq0 + x.no) % 65536, x.bytes] ++ s.dev.headerOf port x)
  refine ⟨_, hexec, ?_⟩
  generalize e.onWire port x.queue x.length n
    ([(s.dev.fld (Reg.egsEqRtp x.queue) F.egsEqRtp_seq0 + x.no) % 65536, x.bytes] ++ s.dev.headerOf port x) = w at hwg hwo hwk hwe ⊢
  have hwb : w.bucketOf port = s.dev.bucketOf port := Dev.bucketOf_port_of_keepsRegs hwk hm
  refine ⟨?_, fun m h => ?_, ?_, hwo, fun _ h => hlevel hwb h (by rw [hwg]), hwk, hwe⟩
  · show Tab.get noList w.egs.layout port = r
    rw [hwg]
    exact Tab.get_put_same s.dev.egs.layout port r
  · show Tab.get noList w.egs.layout m = _
    rw [hwg]
    exact Tab.get_put_other s.dev.egs.layout r h
  · show Tab.get zero w.egs.busy port = _
    rw [hwg]
    exact Tab.get_put_same s.dev.egs.busy port (n * 1000 + x.length * s.dev.byteTime port)

/-! ## CONTROL_FRAME_LAUNCH (R368) -/

/-- The rest of a port's control frames, at an instant of the Stroke. -/
def Dev.controlTaken (d : Dev) (port ns : Nat) (r : List (Nat × Option Desc × List Nat)) : Dev :=
  (d.atNs ns).onEgs fun e => { e with control := Tab.put noList e.control port r }

theorem Dev.controlTaken_eq (d : Dev) (port ns : Nat) (r : List (Nat × Option Desc × List Nat)) : d.controlTaken port ns r =
    { d with egs := { d.egs with control := Tab.put noList d.egs.control port r }, stk := { d.stk with phase := ns } } := rfl

theorem Dev.linkUp_of_takesEgress {d : Dev} {m : Nat} (h : d.takesEgress m = true) : d.linkUp m = true := by
  simp only [Dev.takesEgress, Bool.and_eq_true] at h
  exact h.1.1

/-- Without a list in force a gate stays open. -/
theorem GateDyn.openUntil_none {g : GateDyn} (h : g.active = none) (c t : Nat) : g.openUntil c t = some (t + 2 ^ 40) := by
  rw [GateDyn.openUntil, h]

theorem exec_controlFrameLaunch {s : State} {port ns bytes : Nat} {r : List (Nat × Option Desc × List Nat)} {content : List Nat}
    (hc : Tab.get noList s.dev.egs.control port = (bytes, none, content) :: r) (he : s.dev.takesEgress port = true)
    (hp : s.dev.isPaused port (s.dev.localNs ns) = false) (hb : Tab.get zero s.dev.egs.busy port ≤ s.dev.localNs ns * 1000)
    (hg : (s.dev.gates port).active = none) (hl : Tab.get noList s.dev.egs.layout port = [])
    (hlp : 0 ≤ s.dev.bucketLevel port (s.dev.localNs ns))
    (hlc : 0 ≤ s.dev.bucketLevel (64 + 8 * port + s.dev.fld (Reg.egsPortCfg port) F.egsPortCfg_ctrlTc) (s.dev.localNs ns))
    (hd : countedLength s.dev.reg port bytes * s.dev.byteTime port ≤ 2 ^ 40 * 1000) :
    exec (.controlFrameLaunch port ns) s = .next { s with
      dev :=
        let t := s.dev.localNs ns
        let n := countedLength s.dev.reg port bytes
        ((s.dev.controlTaken port ns r).debits
          [port, 64 + 8 * port + s.dev.fld (Reg.egsPortCfg port) F.egsPortCfg_ctrlTc] n t).transmit port 4096 n t (bytes :: content) } := by
  have hopen := GateDyn.openUntil_none hg (s.dev.fld (Reg.egsPortCfg port) F.egsPortCfg_ctrlTc) (s.dev.localNs ns)
  have hend : s.dev.localNs ns * 1000 + countedLength s.dev.reg port bytes * s.dev.byteTime port ≤ (s.dev.localNs ns + 2 ^ 40) * 1000 := by
    omega
  show execControlFrameLaunch port ns s = _
  rw [execControlFrameLaunch, State.lift_eq]
  simp only [hc, hopen, hl, decide_eq_true hend]
  rw [if_neg (by simp only [Dev.linkUp_of_takesEgress he, he, hp]; simp; omega)]
  rfl

theorem controlFrame_launched {s : State} {port ns bytes : Nat} {r : List (Nat × Option Desc × List Nat)} {content : List Nat}
    (hc : Tab.get noList s.dev.egs.control port = (bytes, none, content) :: r) (he : s.dev.takesEgress port = true)
    (hp : s.dev.isPaused port (s.dev.localNs ns) = false) (hb : Tab.get zero s.dev.egs.busy port ≤ s.dev.localNs ns * 1000)
    (hg : (s.dev.gates port).active = none) (hl : Tab.get noList s.dev.egs.layout port = [])
    (hlp : 0 ≤ s.dev.bucketLevel port (s.dev.localNs ns))
    (hlc : 0 ≤ s.dev.bucketLevel (64 + 8 * port + s.dev.fld (Reg.egsPortCfg port) F.egsPortCfg_ctrlTc) (s.dev.localNs ns))
    (hd : countedLength s.dev.reg port bytes * s.dev.byteTime port ≤ 2 ^ 40 * 1000)
    (hsec : s.dev.flag (Reg.portMacsecCfg port) F.portMacsecCfg_enable = false) :
    ∃ t, exec (.controlFrameLaunch port ns) s = .next t ∧ Tab.get noList t.dev.egs.control port = r ∧
      (∀ m, m ≠ port → Tab.get noList t.dev.egs.control m = Tab.get noList s.dev.egs.control m) ∧
      Tab.get zero t.dev.egs.busy port = s.dev.localNs ns * 1000 + countedLength s.dev.reg port bytes * s.dev.byteTime port ∧
      s.dev.ShowsOnly t.dev (.frame port 4096 (bytes :: content)) ∧
      s.dev.KeepsRegs t.dev [Reg.portMacCntLo port 4, Reg.portMacCntHi port 4, Reg.portMacCntLo port 5, Reg.portMacCntHi port 5] ∧
      t = { s with dev := { s.dev with regs := t.dev.regs, egs := t.dev.egs, out := t.dev.out
                                       stk := { s.dev.stk with phase := ns } } } := by
  have hexec := exec_controlFrameLaunch hc he hp hb hg hl hlp hlc hd
  dsimp only at hexec
  generalize s.dev.localNs ns = n at hexec ⊢
  generalize countedLength s.dev.reg port bytes = len at hexec ⊢
  have hde := (s.dev.controlTaken port ns r).debits_eq [port, 64 + 8 * port + s.dev.fld (Reg.egsPortCfg port) F.egsPortCfg_ctrlTc] len n
  generalize (s.dev.controlTaken port ns r).debits _ len n = e at hexec hde
  rw [Dev.controlTaken_eq] at hde
  have hr : e.regs = s.dev.regs := by rw [hde]
  rw [Dev.transmit_plain (by rw [Dev.flag, Dev.reg_of_regs hr]; exact hsec)] at hexec
  obtain ⟨hwg, hwo, hwk, hwe⟩ := onWire_launched (s := s) hde port 4096 len n (bytes :: content)
  refine ⟨_, hexec, ?_⟩
  generalize e.onWire port 4096 len n (bytes :: content) = w at hwg hwo hwk hwe ⊢
  refine ⟨?_, fun m h => ?_, ?_, hwo, hwk, hwe⟩
  · show Tab.get noList w.egs.control port = r
    rw [hwg]
    exact Tab.get_put_same s.dev.egs.control port r
  · show Tab.get noList w.egs.control m = _
    rw [hwg]
    exact Tab.get_put_other s.dev.egs.control r h
  · show Tab.get zero w.egs.busy port = _
    rw [hwg]
    exact Tab.get_put_same s.dev.egs.busy port (n * 1000 + len * s.dev.byteTime port)

/-! ## O52 -/

/-- Settles O52, by what each command of the network's frames leaves: received, lost to the merge, launched, and the gates and the rehash. -/
theorem traffic : Obligations.Traffic := by
  unfold Obligations.Traffic
  refine ⟨fun s mac ns f hm hr hl hf => ⟨_, ethFrame_badFcs ns hm hr hl hf, ethFrame_counted rfl⟩,
    fun s mac ns f hm hr hl hf hb => ⟨_, ethFrame_badLength ns hm hr hl hf hb, ethFrame_counted rfl⟩,
    fun s mac ns f hm hr hl hf h64 hmax ht ha =>
      ⟨fun _ _ _ _ _ _ _ _ _ _ _ hb hc hs => ethFrame_misses ns hm hr hl hf h64 hmax ht ha hb hc hs,
        fun _ hb hp => ethFrame_pauses ns hm hr hl hf h64 hmax ht ha hb hp⟩,
    fun _ _ _ _ he hp hk hw hn => mergeKeyLost_counted he hp hk hw hn,
    fun _ _ _ _ _ hm hx hl hp hs hb hsec => liveFrame_launched hm hx hl hp hs hb hsec,
    fun _ _ _ _ _ _ _ hc he hp hb hg hl hlp hlc hd hsec => controlFrame_launched hc he hp hb hg hl hlp hlc hd hsec,
    fun _ _ _ ha he => gateIntervalEnd_next ha he,
    fun _ _ _ _ _ hp ht => gateListTakeover_takes hp ht,
    fun _ _ value h hb => rehashWrite_builds value h hb⟩

end Sys2Proof.Machine
end

section
/-! PROOFS. The change of the active PTP side (R385, R386) and what it reports in TIME_PATH_DELAY. Refutes O54. -/

namespace Sys2Proof.Machine

/-! ## What the parts of a change of side leave of the registers -/

theorem Dev.keepsRegs_pathEvent (d : Dev) (what : Nat) (e : PathEvent) :
    d.KeepsRegs (d.pathEvent what e) [Reg.rplLogStatus 0, Reg.rplLogSeq 0] := d.keepsRegs_record _ _ _ _ _

theorem Dev.keepsRegs_pathNotice (d : Dev) (down : Bool) (cause mac health count : Nat) :
    d.KeepsRegs (d.pathNotice down cause mac health count) [Reg.hifEvqStatus 0] := d.keepsRegs_postEvent _ _ _ _

theorem Dev.keepsRegs_showPtp (d : Dev) : d.KeepsRegs d.showPtp [Reg.pathPtpStatus] := by
  intro a ha
  have hne := List.ne_of_not_mem_cons ha
  simp only [Dev.showPtp, Dev.reg_setFld_other _ _ _ hne]
  exact Dev.reg_of_regs rfl a

/-! ## TIME_PATH_DELAY

The register reports ns, as its table in the chapter on time says; a side keeps its path delay in ps. -/

theorem Dev.side_setFld (d : Dev) (a : Nat) (f : Fld) (v i : Nat) : (d.setFld a f v).side i = d.side i := rfl

theorem Dev.reg_timePathDelay_switchSide (d : Dev) (i : Nat) :
    (d.switchSide i).reg Reg.timePathDelay = satNs ((d.side i).pathDelay / 1000) := by
  rw [Dev.switchSide, Dev.reg_setReg_same, Dev.side_setFld]

/-- What PTP_FAILOVER does when the standby is the one to take the servo's input from. -/
theorem exec_ptpFailover {s : State} (hr : s.dev.ptpRuns = true) (ha : s.dev.healthy s.dev.activeSide = false)
    (hb : s.dev.healthy (1 - s.dev.activeSide) = true) (hg : (s.dev.side (1 - s.dev.activeSide)).gm = s.dev.gmLocked) :
    let d := (s.dev.switchSide (1 - s.dev.activeSide)).pathEvent (s.dev.sideMac s.dev.activeSide) .failOver
    exec .ptpFailover s = .next { s with dev := (d.pathNotice true 7 (d.sideMac s.dev.activeSide) (d.health (d.sideMac s.dev.activeSide)) 0).showPtp } := by
  show execPtpFailover s = _
  rw [execPtpFailover, State.lift_eq]
  dsimp only
  rw [if_pos ⟨hr, ha, hb, hg⟩]

/-- A failover reports the path delay of the standby in whole ns. -/
theorem ptpFailover_reports_ns {s : State} (hr : s.dev.ptpRuns = true) (ha : s.dev.healthy s.dev.activeSide = false)
    (hb : s.dev.healthy (1 - s.dev.activeSide) = true) (hg : (s.dev.side (1 - s.dev.activeSide)).gm = s.dev.gmLocked) :
    ∃ t, exec .ptpFailover s = .next t ∧
      t.dev.reg Reg.timePathDelay = satNs ((s.dev.side (1 - s.dev.activeSide)).pathDelay / 1000) := by
  refine ⟨_, exec_ptpFailover hr ha hb hg, ?_⟩
  dsimp only
  rw [Dev.keepsRegs_showPtp _ _ (by decide), Dev.keepsRegs_pathNotice _ _ _ _ _ _ _ (by decide),
    Dev.keepsRegs_pathEvent _ _ _ _ (by decide), Dev.reg_timePathDelay_switchSide]

/-! ## O54 -/

/-- Side A has heard nothing, and side B is healthy with a path delay of 1000 ps: one ns. -/
def Dev.standbyNsAway : Dev :=
  { Dev.reset with
    regs := [(Reg.rstStatus, 0), (Reg.portMacStatus 32, F.portMacStatus_link.set 0 1),
      (Reg.pathPtpCfg, F.pathPtpCfg_standbyEn.set (F.pathPtpCfg_enable.set 0 1) 1)]
    pth := { Dev.reset.pth with sides := [(1, { announce := true, sync := true, delay := true, pathDelay := 1000 })] } }

/-- A system with that device. -/
def State.standbyNsAway : State := { State.reset with dev := Dev.standbyNsAway }

/-- Side B is the one to fail over to. -/
theorem State.standbyNsAway_failsOver :
    let d := State.standbyNsAway.dev
    d.ptpRuns = true ∧ d.healthy d.activeSide = false ∧ d.healthy (1 - d.activeSide) = true ∧
      (d.side (1 - d.activeSide)).gm = d.gmLocked ∧ (d.side (1 - d.activeSide)).pathDelay = 1000 := by decide +kernel

/-- Refutes O54: its clause on PTP_FAILOVER gives TIME_PATH_DELAY the side's path delay undivided, a number of ps, where the register holds ns,
as in the statement's own clause on a delay response. A standby 1000 ps away is reported as 1 ns;
the clause asks for 1000. The clause on PTP_REVERT leaves the same division out. -/
theorem not_twoPaths : ¬ Obligations.TwoPaths := by
  rintro ⟨-, -, -, -, -, -, hfailover, -⟩
  obtain ⟨hr, ha, hb, hg, hdelay⟩ := State.standbyNsAway_failsOver
  obtain ⟨t, ht, -, -, hasked, -⟩ := hfailover State.standbyNsAway hr ha hb hg
  obtain ⟨u, hu, hshown⟩ := ptpFailover_reports_ns (s := State.standbyNsAway) hr ha hb hg
  obtain rfl : t = u := Host.Outcome.next.inj (ht.symm.trans hu)
  rw [hshown, hdelay] at hasked
  exact absurd hasked (by decide)

end Sys2Proof.Machine
end

section
/-! PROOFS. TIME_QUERY and the other opcodes of its family (R409). Settles O11. -/

namespace Sys2Proof.Machine

/-- The words are those of the clock and of the time of day as they stand. -/
theorem exec_timeQuery {s : State} {crew ring : Nat} {x : Desc} (h : s.dev.IsDue crew ring 0x70 x) :
    exec (.timeQuery crew ring) s = .next { s with dev := ((s.dev.taken x).finish x 0
      [s.dev.utcOffset % 2 ^ 16 * 2 ^ 16 + s.dev.sync,
        unsigned 32 (signed 17 (s.dev.fld Reg.timeTodCfg F.timeTodCfg_localOffset)), 0, 0]) } := by
  show execTimeQuery crew ring s = _
  rw [execTimeQuery, State.onDue_taken _ h]
  simp only [pack_halves]
  rfl

/-- TIME_QUERY has its family to itself. -/
theorem opcode_allRules_ne_timeFamily : ∀ r ∈ allRules, ¬(0x71 ≤ r.opcode ∧ r.opcode ≤ 0x7F) := by decide

/-- A descriptor whose opcode has no rule is refused for its format, before any other test. -/
theorem Dev.refusal_of_noRule (d : Dev) {rules : List OpRule} {x : Desc} (h : ∀ r ∈ rules, r.opcode ≠ x.opcode) :
    d.refusal? rules x = some (0x13, []) := by
  have hnone : rules.find? (fun r => r.opcode = x.opcode) = none := List.find?_eq_none.mpr fun r hr => by simpa using h r hr
  rw [Dev.refusal?, hnone]

/-- The rule of TIME_QUERY: any function, OBJECT 0. -/
theorem timeQuery_rule : ∃ r, r ∈ allRules ∧ r.opcode = 0x70 ∧ r.house = false ∧ r.kind = (· == .zero) :=
  ⟨_, List.mem_append_right _ List.mem_cons_self, rfl, rfl, rfl⟩

/-- Settles O11, by the completion that the query is, and by the opcodes that have a rule. -/
theorem timeQuery : Obligations.TimeQuery :=
  ⟨fun _ _ _ _ h ha => State.completes_of_exec (exec_timeQuery h) ha,
    fun d _ hlo hhi => d.refusal_of_noRule fun r hr he => opcode_allRules_ne_timeFamily r hr ⟨he ▸ hlo, he ▸ hhi⟩,
    timeQuery_rule⟩

end Sys2Proof.Machine
end

section
/-! PROOFS. The local clock: steps, increments and the temperature correction, timed outputs, captures and readings (R395–R398, R405–R408).
Settles O53. -/

namespace Sys2Proof.Machine

/-! ## The effective increment (R396) -/

theorem Dev.live_of_reg {d e : Dev} (h : e.reg Reg.stkStatus = d.reg Reg.stkStatus) : e.live = d.live := by
  rw [Dev.live, Dev.flag, h, Dev.live, Dev.flag]

theorem Dev.incBound_of_reg {d e : Dev} (h : e.reg Reg.stkStatus = d.reg Reg.stkStatus) : e.incBound = d.incBound := by
  rw [Dev.incBound, Dev.live_of_reg h, Dev.incBound]

theorem Dev.baseInc_of_reg {d e : Dev} (hi : e.reg Reg.timeIncInt = d.reg Reg.timeIncInt) (hf : e.reg Reg.timeIncFrac = d.reg Reg.timeIncFrac) :
    e.baseInc = d.baseInc := by
  rw [Dev.baseInc, hi, hf, Dev.baseInc]

theorem Dev.regsAlone_showInc (d : Dev) : d.RegsAlone d.showInc := Dev.RegsAlone.setFld (d.setReg_eq _ _) _ _ _

theorem Dev.keepsRegs_showInc (d : Dev) : d.KeepsRegs d.showInc [Reg.timeIncEff, Reg.timeStatus] :=
  ((d.keepsRegs_setReg _ _).mono (by simp)).trans ((Dev.keepsRegs_setFld _ _ _ _).mono (by simp))

/-- A deviation within either bound of R396 fits the register that shows it. -/
theorem toInt_ofInt_clamp {b : Int} (h₀ : 0 ≤ b) (h : b ≤ 4294967) (v : Int) :
    (BitVec.ofInt 32 (max (-b) (min b v))).toInt = max (-b) (min b v) := by
  rw [BitVec.toInt_ofInt]
  exact Int.bmod_eq_of_le (by omega) (by omega)

theorem Dev.incBound_range (d : Dev) : 0 ≤ d.incBound ∧ d.incBound ≤ 4294967 := by
  unfold Dev.incBound
  split_ifs <;> decide

theorem Dev.timeIncEff_showInc (d : Dev) :
    (d.showInc.reg Reg.timeIncEff).toInt = max (-d.incBound) (min d.incBound ((d.baseInc : Int) - 2 ^ 33 + d.tim.corr)) := by
  obtain ⟨h₀, h⟩ := d.incBound_range
  rw [Dev.showInc, Dev.reg_setFld_other _ _ _ (by decide), Dev.reg_setReg_same, toInt_ofInt_clamp h₀ h]
  rfl

/-! ## TIME_INC_WRITE (R398) -/

/-- The device once one word of the base increment is written. -/
def Dev.incTaken (d : Dev) (a value : Nat) : Dev := d.setReg a (BitVec.ofNat 32 (if a = Reg.timeIncInt then value % 16 else value))

theorem exec_timeIncWrite_basic {s : State} (h : s.dev.basicServo = true) (fn offset value : Nat) :
    exec (.timeIncWrite fn offset value) s = .next s := by
  have hkeep : s.dev.incWrite fn offset value = s.dev := if_pos (by rw [h, Bool.true_or])
  show execTimeIncWrite fn offset value s = _
  rw [execTimeIncWrite, State.lift_eq, hkeep, ite_self]

theorem exec_timeIncWrite_expert {s : State} {fn offset : Nat} (h : s.dev.basicServo = false) (hw : s.dev.mayWrite fn offset = true)
    (ho : offset = Reg.timeIncInt ∨ offset = Reg.timeIncFrac) (value : Nat) :
    exec (.timeIncWrite fn offset value) s = .next { s with dev := (s.dev.incTaken offset value).showInc } := by
  show execTimeIncWrite fn offset value s = _
  rw [execTimeIncWrite, State.lift_eq, if_pos ho, Dev.incWrite, if_neg (by simp [h, hw])]
  rfl

/-- Under EXPERT the word written is taken, and the effective increment is formed of it. -/
theorem timeIncWrite_taken {s : State} {fn offset : Nat} (h : s.dev.basicServo = false) (hw : s.dev.mayWrite fn offset = true)
    (ho : offset = Reg.timeIncInt ∨ offset = Reg.timeIncFrac) (value : Nat) :
    ∃ t, exec (.timeIncWrite fn offset value) s = .next t ∧
      t.dev.reg offset = BitVec.ofNat 32 (if offset = Reg.timeIncInt then value % 16 else value) ∧
      (t.dev.reg Reg.timeIncEff).toInt = max (-s.dev.incBound) (min s.dev.incBound ((t.dev.baseInc : Int) - 2 ^ 33 + s.dev.tim.corr)) ∧
      s.RegsOnly t [offset, Reg.timeIncEff, Reg.timeStatus] := by
  have hshown := (s.dev.incTaken offset value).keepsRegs_showInc
  have htaken : s.dev.KeepsRegs (s.dev.incTaken offset value) [offset] := s.dev.keepsRegs_setReg _ _
  have hbound : (s.dev.incTaken offset value).incBound = s.dev.incBound := Dev.incBound_of_reg (htaken _ (by rcases ho with rfl | rfl <;> decide))
  have hbase : (s.dev.incTaken offset value).showInc.baseInc = (s.dev.incTaken offset value).baseInc :=
    Dev.baseInc_of_reg (hshown _ (by decide)) (hshown _ (by decide))
  refine ⟨_, exec_timeIncWrite_expert h hw ho value, ?_, ?_, ?_, (htaken.mono (by simp)).trans (hshown.mono (by simp))⟩
  · dsimp only
    rw [hshown _ (by rcases ho with rfl | rfl <;> decide), Dev.incTaken, Dev.reg_setReg_same]
  · dsimp only
    rw [Dev.timeIncEff_showInc, hbound, hbase]
    rfl
  · exact Dev.RegsAlone.state (Dev.RegsAlone.trans (s.dev.setReg_eq _ _) (Dev.regsAlone_showInc _))

/-! ## TCOMP_UPDATE (R405) -/

/-- The device once a temperature correction applies, with the count of free values as it then is. -/
def Dev.corrected (d : Dev) (n : Nat) (c : Int) : Dev := Dev.showInc { d with tim := { d.tim with corr := c }, free := n }

theorem Dev.corr_corrected (d : Dev) (n : Nat) (c : Int) : (d.corrected n c).tim.corr = c := by
  rw [Dev.corrected, Dev.showInc, Dev.setFld_tim, Dev.setReg_tim]

theorem Dev.free_corrected (d : Dev) (n : Nat) (c : Int) : (d.corrected n c).free = n := by
  rw [Dev.corrected, Dev.showInc, Dev.setFld_free, Dev.setReg_free]

theorem Dev.corrected_eq (d : Dev) (n : Nat) (c : Int) : d.corrected n c =
    { d with regs := (d.corrected n c).regs, tim := { d.tim with corr := (d.corrected n c).tim.corr }, free := (d.corrected n c).free } := by
  rw [d.corr_corrected, d.free_corrected]
  exact Dev.regsAlone_showInc _

theorem Dev.keepsRegs_corrected (d : Dev) (n : Nat) (c : Int) : d.KeepsRegs (d.corrected n c) [Reg.timeIncEff, Reg.timeStatus] :=
  Dev.keepsRegs_showInc { d with tim := { d.tim with corr := c }, free := n }

theorem Dev.timeIncEff_corrected (d : Dev) (n : Nat) (c : Int) :
    ((d.corrected n c).reg Reg.timeIncEff).toInt = max (-d.incBound) (min d.incBound ((d.baseInc : Int) - 2 ^ 33 + c)) :=
  Dev.timeIncEff_showInc { d with tim := { d.tim with corr := c }, free := n }

/-- The temperature of TS_SENSOR above −40 °C, in eighths of a degree. -/
def Dev.tcompTemp (d : Dev) : Int := signed 12 (d.fld (Reg.thmTs (d.fld Reg.timeTcompCfg F.timeTcompCfg_tsSensor)) F.thmTs_temp) + 320

/-- The correction that the table gives at a temperature, between two of its entries. -/
def Dev.tableCorrection (d : Dev) (x : Nat) : Int :=
  ppbToFrac (d.tcompEntry (x / 20) * ((20 - x % 20 : Nat) : Int) +
    if x % 20 = 0 then 0 else d.tcompEntry (x / 20 + 1) * ((x % 20 : Nat) : Int))

section
variable {s : State}

theorem exec_tcompUpdate_off (h : s.dev.flag Reg.timeCtl F.timeCtl_tcompEn = false) :
    exec .tcompUpdate s = .next { s with dev := s.dev.corrected s.dev.free 0 } := by
  show execTcompUpdate s = _
  rw [execTcompUpdate, State.lift_eq, if_pos (by rw [h]; rfl)]
  rfl

theorem exec_tcompUpdate_table (h : s.dev.flag Reg.timeCtl F.timeCtl_tcompEn = true) (hx : 0 ≤ s.dev.tcompTemp ∧ s.dev.tcompTemp ≤ 1260) :
    exec .tcompUpdate s = .next { s with dev := s.dev.corrected s.dev.free (s.dev.tableCorrection s.dev.tcompTemp.toNat) } := by
  unfold Dev.tcompTemp at hx
  show execTcompUpdate s = _
  rw [execTcompUpdate, State.lift_eq, if_neg (by simp [h])]
  dsimp only
  rw [if_pos hx]
  rfl

theorem exec_tcompUpdate_outside (h : s.dev.flag Reg.timeCtl F.timeCtl_tcompEn = true)
    (hx : ¬(0 ≤ s.dev.tcompTemp ∧ s.dev.tcompTemp ≤ 1260)) :
    exec .tcompUpdate s = .next { s with dev := s.dev.corrected (s.dev.free + 1) (Config.tcompOutside s.dev.free) } := by
  unfold Dev.tcompTemp at hx
  show execTcompUpdate s = _
  rw [execTcompUpdate, State.lift_eq, if_neg (by simp [h])]
  dsimp only
  rw [if_neg hx]
  rfl

/-- TCOMP_UPDATE applies one correction: none while the compensation is off, and the table's within its range. -/
theorem exec_tcompUpdate (s : State) : ∃ n c, exec .tcompUpdate s = .next { s with dev := s.dev.corrected n c } ∧
    (s.dev.flag Reg.timeCtl F.timeCtl_tcompEn = false → c = 0) ∧
    (s.dev.flag Reg.timeCtl F.timeCtl_tcompEn = true → 0 ≤ s.dev.tcompTemp → s.dev.tcompTemp ≤ 1260 →
      c = s.dev.tableCorrection s.dev.tcompTemp.toNat) := by
  cases hen : s.dev.flag Reg.timeCtl F.timeCtl_tcompEn with
  | false => exact ⟨_, _, exec_tcompUpdate_off hen, fun _ => rfl, fun h => absurd h Bool.false_ne_true⟩
  | true =>
    by_cases hx : 0 ≤ s.dev.tcompTemp ∧ s.dev.tcompTemp ≤ 1260
    · exact ⟨_, _, exec_tcompUpdate_table hen hx, fun h => absurd h.symm Bool.false_ne_true, fun _ _ _ => rfl⟩
    · exact ⟨_, _, exec_tcompUpdate_outside hen hx, fun h => absurd h.symm Bool.false_ne_true, fun _ h₀ h₁ => absurd ⟨h₀, h₁⟩ hx⟩

end

theorem tcompUpdate_corrects (s : State) :
    ∃ t, exec .tcompUpdate s = .next t ∧
      (t.dev.reg Reg.timeIncEff).toInt = max (-s.dev.incBound) (min s.dev.incBound ((s.dev.baseInc : Int) - 2 ^ 33 + t.dev.tim.corr)) ∧
      s.dev.KeepsRegs t.dev [Reg.timeIncEff, Reg.timeStatus] ∧
      t = { s with dev := { s.dev with regs := t.dev.regs, tim := { s.dev.tim with corr := t.dev.tim.corr }, free := t.dev.free } } ∧
      (s.dev.flag Reg.timeCtl F.timeCtl_tcompEn = false → t.dev.tim.corr = 0) ∧
      (s.dev.flag Reg.timeCtl F.timeCtl_tcompEn = true → 0 ≤ s.dev.tcompTemp → s.dev.tcompTemp ≤ 1260 →
        t.dev.tim.corr = s.dev.tableCorrection s.dev.tcompTemp.toNat) := by
  obtain ⟨n, c, hexec, hoff, htable⟩ := exec_tcompUpdate s
  refine ⟨_, hexec, ?_, s.dev.keepsRegs_corrected n c, congrArg (fun d => { s with dev := d }) (s.dev.corrected_eq n c),
    fun h => (s.dev.corr_corrected n c).trans (hoff h), fun h h₀ h₁ => (s.dev.corr_corrected n c).trans (htable h h₀ h₁)⟩
  dsimp only
  rw [s.dev.timeIncEff_corrected, s.dev.corr_corrected]

/-! ## Timed outputs (R406, R407) -/

theorem Dev.timeOut_onOut_same (d : Dev) (n : Nat) (f : TimeOut → TimeOut) : (d.onOut n f).timeOut n = f (d.timeOut n) :=
  Tab.get_upd_same d.tim.outs n f

theorem Dev.timeOut_onOut_other (d : Dev) {n m : Nat} (f : TimeOut → TimeOut) (h : m ≠ n) : (d.onOut n f).timeOut m = d.timeOut m :=
  Tab.get_upd_other d.tim.outs f h

theorem Dev.timeOut_drive_same (d : Dev) (n : Nat) (active : Bool) : (d.drive n active).timeOut n = { d.timeOut n with high := active } :=
  d.timeOut_onOut_same n _

theorem Dev.timeOut_drive_other (d : Dev) {n m : Nat} (active : Bool) (h : m ≠ n) : (d.drive n active).timeOut m = d.timeOut m :=
  d.timeOut_onOut_other _ h

/-- TIME_OUT_0–7 invert their level by POLARITY. -/
theorem Dev.showsOnly_drive_output (d : Dev) {n : Nat} (h : n < 8) (active : Bool) : d.ShowsOnly (d.drive n active)
    (.pin ("TIME_OUT_" ++ toString n) (active != d.flag (Reg.timeOutCfg n) F.timeOutCfg_polarity)) := by
  unfold Dev.drive
  simp only [h, decide_true, Bool.true_and, if_true]
  rfl

theorem Dev.showsOnly_drive_pps (d : Dev) (active : Bool) : d.ShowsOnly (d.drive 8 active) (.pin "PPS_OUT" active) := by
  show _ :: _ = _
  cases active <;> rfl

/-- The pulse of an output that is under way ends at a local time, and a next edge stands, or none. -/
def Dev.pulsed (d : Dev) (n : Nat) (next : Option Nat) (ends : Nat) : Dev :=
  (d.drive n true).onOut n fun o => { o with next := next, ends := ends }

theorem Dev.timeOut_pulsed_same (d : Dev) (n : Nat) (next : Option Nat) (ends : Nat) :
    (d.pulsed n next ends).timeOut n = ⟨next, true, ends⟩ := by
  rw [Dev.pulsed, Dev.timeOut_onOut_same, Dev.timeOut_drive_same]

theorem Dev.timeOut_pulsed_other (d : Dev) {n m : Nat} (next : Option Nat) (ends : Nat) (h : m ≠ n) :
    (d.pulsed n next ends).timeOut m = d.timeOut m := by
  rw [Dev.pulsed, Dev.timeOut_onOut_other _ _ h, Dev.timeOut_drive_other _ _ h]

theorem exec_timedOutputEdge {s : State} {n j : Nat} (hn : n < 8) (hj : (s.dev.timeOut n).next = some j)
    (ht : s.dev.outEdge n j < (s.dev.now + 1) * 125000) :
    exec (.timedOutputEdge n) s = .next { s with dev := (s.dev.pulsed n (if s.dev.outMode n = 2 then some (j + 1) else none)
      (s.dev.outEdge n j + (s.dev.reg (Reg.timeOutWidth n)).toNat)) } := by
  have hlate : ¬(8 ≤ n ∨ s.dev.reached (s.dev.outEdge n j) = false) := by
    simp only [Dev.reached, ht, decide_true, Bool.true_eq_false, or_false]
    omega
  show execTimedOutputEdge n s = _
  rw [execTimedOutputEdge, State.lift_eq]
  simp only [hj, if_neg hlate]
  rfl

theorem exec_timedPulseEnd {s : State} {n : Nat} (hh : (s.dev.timeOut n).high = true)
    (ht : (s.dev.timeOut n).ends < (s.dev.now + 1) * 125000) :
    exec (.timedPulseEnd n) s = .next { s with dev := s.dev.drive n false } := by
  show execTimedPulseEnd n s = _
  rw [execTimedPulseEnd, State.lift_eq, if_pos (by rw [hh, Dev.reached, decide_eq_true ht]; rfl)]

theorem exec_ppsOutEdge {s : State} (he : s.dev.flag Reg.timePpsCfg F.timePpsCfg_outEn = true) (hs : s.dev.now % 8000 = 0) :
    exec .ppsOutEdge s = .next { s with dev := (s.dev.drive 8 true).onOut 8 fun o =>
      { o with ends := s.dev.now * 125000 + s.dev.fld Reg.timePpsCfg F.timePpsCfg_widthMs * 1000000 } } := by
  show execPpsOutEdge s = _
  rw [execPpsOutEdge, State.lift_eq, if_pos (by rw [he, decide_eq_true hs]; rfl)]

theorem timedOutputEdge_rises {s : State} {n j : Nat} (hn : n < 8) (hj : (s.dev.timeOut n).next = some j)
    (ht : s.dev.outEdge n j < (s.dev.now + 1) * 125000) :
    ∃ t, exec (.timedOutputEdge n) s = .next t ∧
      s.dev.ShowsOnly t.dev (.pin ("TIME_OUT_" ++ toString n) (true != s.dev.flag (Reg.timeOutCfg n) F.timeOutCfg_polarity)) ∧
      t.dev.timeOut n = ⟨if s.dev.outMode n = 2 then some (j + 1) else none, true,
        s.dev.outEdge n j + (s.dev.reg (Reg.timeOutWidth n)).toNat⟩ ∧ (∀ m, m ≠ n → t.dev.timeOut m = s.dev.timeOut m) ∧
      t = { s with dev := { s.dev with tim := t.dev.tim, out := t.dev.out } } :=
  ⟨_, exec_timedOutputEdge hn hj ht, s.dev.showsOnly_drive_output hn true, s.dev.timeOut_pulsed_same _ _ _,
    fun _ h => s.dev.timeOut_pulsed_other _ _ h, rfl⟩

theorem timedPulseEnd_falls {s : State} {n : Nat} (hn : n ≤ 8) (hh : (s.dev.timeOut n).high = true)
    (ht : (s.dev.timeOut n).ends < (s.dev.now + 1) * 125000) :
    ∃ t, exec (.timedPulseEnd n) s = .next t ∧
      s.dev.ShowsOnly t.dev (if n = 8 then .pin "PPS_OUT" false
        else .pin ("TIME_OUT_" ++ toString n) (s.dev.flag (Reg.timeOutCfg n) F.timeOutCfg_polarity)) ∧
      t.dev.timeOut n = ⟨(s.dev.timeOut n).next, false, (s.dev.timeOut n).ends⟩ ∧ (∀ m, m ≠ n → t.dev.timeOut m = s.dev.timeOut m) ∧
      t = { s with dev := { s.dev with tim := t.dev.tim, out := t.dev.out } } := by
  refine ⟨_, exec_timedPulseEnd hh ht, ?_, s.dev.timeOut_drive_same _ _, fun _ h => s.dev.timeOut_drive_other _ h, rfl⟩
  split_ifs with h8
  · exact h8 ▸ s.dev.showsOnly_drive_pps false
  · have hshow := s.dev.showsOnly_drive_output (show n < 8 by omega) false
    rwa [Bool.false_bne] at hshow

theorem ppsOutEdge_rises {s : State} (he : s.dev.flag Reg.timePpsCfg F.timePpsCfg_outEn = true) (hs : s.dev.now % 8000 = 0) :
    ∃ t, exec .ppsOutEdge s = .next t ∧ s.dev.ShowsOnly t.dev (.pin "PPS_OUT" true) ∧ (t.dev.timeOut 8).high = true ∧
      (t.dev.timeOut 8).ends = s.dev.now * 125000 + s.dev.fld Reg.timePpsCfg F.timePpsCfg_widthMs * 1000000 ∧
      (∀ m, m ≠ 8 → t.dev.timeOut m = s.dev.timeOut m) ∧ t = { s with dev := { s.dev with tim := t.dev.tim, out := t.dev.out } } := by
  refine ⟨_, exec_ppsOutEdge he hs, s.dev.showsOnly_drive_pps true, ?_, ?_, fun m h => ?_, rfl⟩
  · dsimp only
    rw [Dev.timeOut_onOut_same, Dev.timeOut_drive_same]
  · dsimp only
    rw [Dev.timeOut_onOut_same]
  · exact (Dev.timeOut_onOut_other _ _ h).trans (s.dev.timeOut_drive_other true h)

/-! ## Captures (R408) -/

theorem Dev.captures_setCaptures_same (d : Dev) (i : Nat) (l : List (Nat × Bool)) : (d.setCaptures i l).captures i = l :=
  Tab.get_put_same d.tim.caps i l

theorem Dev.captures_setCaptures_other (d : Dev) {i m : Nat} (l : List (Nat × Bool)) (h : m ≠ i) : (d.setCaptures i l).captures m = d.captures m :=
  Tab.get_put_other d.tim.caps l h

theorem Dev.setCaptures_eq (d : Dev) (i : Nat) (l : List (Nat × Bool)) :
    d.setCaptures i l = { d with regs := (d.setCaptures i l).regs, tim := (d.setCaptures i l).tim } := Dev.setFld_eq _ _ _ _

theorem Dev.keepsRegs_setCaptures (d : Dev) (i : Nat) (l : List (Nat × Bool)) : d.KeepsRegs (d.setCaptures i l) [Reg.timeInCfg i] :=
  Dev.keepsRegs_setFld (d.onTim _) _ _ _

theorem Dev.count_setCaptures (d : Dev) (i : Nat) {l : List (Nat × Bool)} (h : l.length ≤ 16) :
    (d.setCaptures i l).fld (Reg.timeInCfg i) F.timeInCfg_count = l.length := by
  rw [Dev.setCaptures, Dev.fld_setFld_same _ _ ⟨by decide, by decide⟩]
  exact Nat.mod_eq_of_lt (show l.length < 32 by omega)

/-- A selected edge on an input at a local time: the FIFO takes it, or it is counted. -/
def Dev.edgeTaken (d : Dev) (n t : Nat) (falling : Bool) : Dev :=
  if 16 ≤ (d.captures n).length then d.addFld (Reg.timeInCfg n) F.timeInCfg_ovf 1 else d.setCaptures n (d.captures n ++ [(t, falling)])

section
variable (d : Dev) (n t : Nat) (falling : Bool)

theorem Dev.edgeTaken_eq : d.edgeTaken n t falling = { d with regs := (d.edgeTaken n t falling).regs, tim := (d.edgeTaken n t falling).tim } := by
  unfold Dev.edgeTaken
  split_ifs
  · exact Dev.addFld_eq _ _ _ _
  · exact d.setCaptures_eq _ _

theorem Dev.keepsRegs_edgeTaken : d.KeepsRegs (d.edgeTaken n t falling) [Reg.timeInCfg n] := by
  unfold Dev.edgeTaken
  split_ifs
  · exact d.keepsRegs_addFld _ _ _
  · exact d.keepsRegs_setCaptures _ _

theorem Dev.captures_edgeTaken_other {m : Nat} (h : m ≠ n) : (d.edgeTaken n t falling).captures m = d.captures m := by
  unfold Dev.edgeTaken
  split_ifs
  · rfl
  · exact d.captures_setCaptures_other _ h

theorem Dev.edgeTaken_fifo :
    if (d.captures n).length < 16 then (d.edgeTaken n t falling).captures n = d.captures n ++ [(t, falling)] ∧
      (d.edgeTaken n t falling).fld (Reg.timeInCfg n) F.timeInCfg_count = (d.captures n).length + 1
    else (d.edgeTaken n t falling).captures n = d.captures n ∧
      (d.edgeTaken n t falling).fld (Reg.timeInCfg n) F.timeInCfg_ovf = (d.fld (Reg.timeInCfg n) F.timeInCfg_ovf + 1) % 256 := by
  unfold Dev.edgeTaken
  split_ifs with hroom hfull
  · omega
  · have hlen : (d.captures n ++ [(t, falling)]).length = (d.captures n).length + 1 := List.length_append
    exact ⟨d.captures_setCaptures_same _ _, (d.count_setCaptures n (by omega)).trans hlen⟩
  · exact ⟨rfl, d.fld_addFld_same _ ⟨by decide, by decide⟩ _⟩
  · omega

end

/-- The capture of a selected edge; the servo takes a rising edge of PPS_IN under SOURCE PPS_IN alone. -/
theorem exec_timeInputEdge {s : State} {n : Nat} {falling : Bool} (ns : Nat) (hn : n < 5) (hr : s.dev.inReset 2 = false)
    (he : bitAt (s.dev.fld (Reg.timeInCfg n) F.timeInCfg_edge) (bit falling) = true)
    (hp : ¬(n = 4 ∧ falling = false ∧ s.dev.fld Reg.timeCtl F.timeCtl_source = 1)) :
    exec (.timeInputEdge n falling ns) s = .next { s with dev := (s.dev.atNs ns).edgeTaken n (s.dev.localNs ns) falling } := by
  have hsource : ((s.dev.atNs ns).edgeTaken n (s.dev.localNs ns) falling).fld Reg.timeCtl F.timeCtl_source = s.dev.fld Reg.timeCtl F.timeCtl_source :=
    Dev.KeepsRegs.fld (d := s.dev.atNs ns) (Dev.keepsRegs_edgeTaken _ _ _ _) (by simp only [Reg.timeCtl, Reg.timeInCfg, List.mem_singleton]; omega) _
  have hlocal : (s.dev.atNs ns).localNs ns = s.dev.localNs ns := rfl
  have hedge : bitAt ((s.dev.atNs ns).fld (Reg.timeInCfg n) F.timeInCfg_edge) (bit falling) = true := he
  show execTimeInputEdge n falling ns s = _
  rw [execTimeInputEdge, State.lift_eq, if_neg (by simp [hr, hn])]
  dsimp only
  rw [hedge, hlocal]
  simp only [Bool.not_true, Bool.false_eq_true, if_false]
  rw [← Dev.edgeTaken, hsource, if_neg]
  rintro h
  simp only [Bool.and_eq_true, decide_eq_true_eq, Bool.not_eq_true'] at h
  obtain ⟨⟨⟨h4, hf⟩, hs⟩, -⟩ := h
  exact hp ⟨h4, hf, hs⟩

theorem timeInputEdge_captured {s : State} {n : Nat} {falling : Bool} (ns : Nat) (hn : n < 5) (hr : s.dev.inReset 2 = false)
    (he : bitAt (s.dev.fld (Reg.timeInCfg n) F.timeInCfg_edge) (bit falling) = true)
    (hp : ¬(n = 4 ∧ falling = false ∧ s.dev.fld Reg.timeCtl F.timeCtl_source = 1)) :
    ∃ t, exec (.timeInputEdge n falling ns) s = .next t ∧ s.dev.KeepsRegs t.dev [Reg.timeInCfg n] ∧
      t = { s with dev := { s.dev with regs := t.dev.regs, tim := t.dev.tim, stk := { s.dev.stk with phase := ns } } } ∧
      (∀ m, m ≠ n → t.dev.captures m = s.dev.captures m) ∧
      if (s.dev.captures n).length < 16 then t.dev.captures n = s.dev.captures n ++ [(s.dev.localNs ns, falling)] ∧
        t.dev.fld (Reg.timeInCfg n) F.timeInCfg_count = (s.dev.captures n).length + 1
      else t.dev.captures n = s.dev.captures n ∧
        t.dev.fld (Reg.timeInCfg n) F.timeInCfg_ovf = (s.dev.fld (Reg.timeInCfg n) F.timeInCfg_ovf + 1) % 256 :=
  ⟨_, exec_timeInputEdge ns hn hr he hp, (s.dev.atNs ns).keepsRegs_edgeTaken _ _ _,
    congrArg (fun d => { s with dev := d }) ((s.dev.atNs ns).edgeTaken_eq _ _ _),
    fun _ h => (s.dev.atNs ns).captures_edgeTaken_other _ _ _ h, (s.dev.atNs ns).edgeTaken_fifo _ _ _⟩

/-! ## TIME_IN_NS_READ (R408) -/

/-- The oldest capture of an input is popped, and its seconds are latched. -/
def Dev.popped (d : Dev) (n sec : Nat) (rest : List (Nat × Bool)) : Dev :=
  ((d.setCaptures n rest).setReg (Reg.timeInSecLo n) (BitVec.ofNat 32 sec)).setReg (Reg.timeInSecHi n)
    (BitVec.ofNat 32 (sec / 2 ^ 32 % 65536))

section
variable (d : Dev) (n sec : Nat) (rest : List (Nat × Bool))

theorem Dev.popped_eq : d.popped n sec rest = { d with regs := (d.popped n sec rest).regs, tim := (d.popped n sec rest).tim } :=
  Dev.setReg_setReg_eq _ _ _ _ _

theorem Dev.out_popped : (d.popped n sec rest).out = d.out := by rw [Dev.popped_eq]

theorem Dev.captures_popped : (d.popped n sec rest).captures n = rest := d.captures_setCaptures_same n rest

theorem Dev.secLo_popped : (d.popped n sec rest).reg (Reg.timeInSecLo n) = BitVec.ofNat 32 sec := by
  rw [Dev.popped, Dev.reg_setReg_other _ _ (by simp only [Reg.timeInSecLo, Reg.timeInSecHi]; omega), Dev.reg_setReg_same]

theorem Dev.secHi_popped : (d.popped n sec rest).reg (Reg.timeInSecHi n) = BitVec.ofNat 32 (sec / 2 ^ 32 % 65536) := Dev.reg_setReg_same _ _ _

theorem Dev.keepsRegs_popped : d.KeepsRegs (d.popped n sec rest) [Reg.timeInCfg n, Reg.timeInSecLo n, Reg.timeInSecHi n] :=
  (((d.keepsRegs_setCaptures _ _).mono (by simp)).trans ((Dev.keepsRegs_setReg _ _ _).mono (by simp))).trans
    ((Dev.keepsRegs_setReg _ _ _).mono (by simp))

end

/-- TIME_IN_NS of a capture. -/
def captureWord (falling : Bool) (t : Nat) : Nat := 2 ^ 31 + bit falling * 2 ^ 30 + t % 1000000000

theorem pack_captureWord (falling : Bool) (t : Nat) : pack [(1, 31), (bit falling, 30), (t % 1000000000, 0)] = captureWord falling t := by
  simp [pack, captureWord]

section
variable {s : State} {fn n : Nat} (hn : n < 5) (hs : s.dev.sees fn (Reg.timeInNs n) = true)
include hn hs

theorem exec_timeInNsRead_empty (hc : s.dev.captures n = []) :
    exec (.timeInNsRead fn n) s = .next { s with dev := s.dev.emit (.read fn (Reg.timeInNs n) 0) } := by
  show execTimeInNsRead fn n s = _
  rw [execTimeInNsRead, State.lift_eq]
  dsimp only
  rw [if_neg (by simp [hs, hn]), hc]

theorem exec_timeInNsRead_pop {t : Nat} {falling : Bool} {rest : List (Nat × Bool)} (hc : s.dev.captures n = (t, falling) :: rest) :
    exec (.timeInNsRead fn n) s = .next { s with
      dev := (s.dev.popped n (t / 1000000000) rest).emit (.read fn (Reg.timeInNs n) (captureWord falling t)) } := by
  show execTimeInNsRead fn n s = _
  rw [execTimeInNsRead, State.lift_eq]
  dsimp only
  rw [if_neg (by simp [hs, hn]), hc]
  dsimp only
  rw [pack_captureWord]
  rfl

theorem timeInNsRead_pops :
    ∃ t, exec (.timeInNsRead fn n) s = .next t ∧
      match s.dev.captures n with
      | [] => s.dev.ShowsOnly t.dev (.read fn (Reg.timeInNs n) 0) ∧ t = { s with dev := { s.dev with out := t.dev.out } }
      | (x, falling) :: rest =>
        s.dev.ShowsOnly t.dev (.read fn (Reg.timeInNs n) (2 ^ 31 + bit falling * 2 ^ 30 + x % 1000000000)) ∧ t.dev.captures n = rest ∧
          t.dev.reg (Reg.timeInSecLo n) = BitVec.ofNat 32 (x / 1000000000) ∧
          t.dev.reg (Reg.timeInSecHi n) = BitVec.ofNat 32 (x / 1000000000 / 2 ^ 32 % 65536) ∧
          s.dev.KeepsRegs t.dev [Reg.timeInCfg n, Reg.timeInSecLo n, Reg.timeInSecHi n] ∧
          t = { s with dev := { s.dev with regs := t.dev.regs, tim := t.dev.tim, out := t.dev.out } } := by
  cases hc : s.dev.captures n with
  | nil => exact ⟨_, exec_timeInNsRead_empty hn hs hc, rfl, rfl⟩
  | cons p rest =>
    obtain ⟨x, falling⟩ := p
    have hout := s.dev.out_popped n (x / 1000000000) rest
    have hfifo := s.dev.captures_popped n (x / 1000000000) rest
    have hlo := s.dev.secLo_popped n (x / 1000000000) rest
    have hhi := s.dev.secHi_popped n (x / 1000000000) rest
    have hkeep := s.dev.keepsRegs_popped n (x / 1000000000) rest
    have heq := s.dev.popped_eq n (x / 1000000000) rest
    refine ⟨_, exec_timeInNsRead_pop hn hs hc, ?_⟩
    generalize s.dev.popped n (x / 1000000000) rest = e at hout hfifo hlo hhi hkeep heq ⊢
    refine ⟨congrArg (_ :: ·) hout, hfifo, hlo, hhi, hkeep, ?_⟩
    rw [heq]
    rfl

end

/-! ## TIME_NOW_NS_READ (R395) -/

theorem Dev.KeepsRegs.of_atNs {d e : Dev} {ns : Nat} {l : List Nat} (h : (d.atNs ns).KeepsRegs e l) : d.KeepsRegs e l := h

theorem Dev.KeepsRegs.emit {d e : Dev} {l : List Nat} (h : d.KeepsRegs e l) (o : Output) : d.KeepsRegs (e.emit o) l := h

/-- A local time is latched in the registers that show it, with the fraction of a free value. -/
def Dev.timeLatched (d : Dev) (t : Nat) : Dev :=
  (((d.fresh.2.setReg Reg.timeNowSecLo (BitVec.ofNat 32 (t / 1000000000))).setReg Reg.timeNowSecHi
    (BitVec.ofNat 32 (t / 1000000000 / 2 ^ 32 % 65536))).setReg Reg.timeNowFrac (BitVec.ofNat 32 (Config.clockFrac d.free))).setReg
    Reg.timeNowNs (BitVec.ofNat 32 (t % 1000000000))

section
variable (d : Dev) (t : Nat)

theorem Dev.timeLatched_eq : d.timeLatched t = { d with regs := (d.timeLatched t).regs, free := (d.timeLatched t).free } := by
  have hregs (e : Dev) (a b c f : Nat) (v w x y : Word) :
      (((e.setReg a v).setReg b w).setReg c x).setReg f y = { e with regs := ((((e.setReg a v).setReg b w).setReg c x).setReg f y).regs } := rfl
  exact hregs d.fresh.2 _ _ _ _ _ _ _ _

theorem Dev.out_timeLatched : (d.timeLatched t).out = d.out := by rw [Dev.timeLatched_eq]

theorem Dev.secLo_timeLatched : (d.timeLatched t).reg Reg.timeNowSecLo = BitVec.ofNat 32 (t / 1000000000) := by
  rw [Dev.timeLatched, Dev.reg_setReg_other _ _ (by decide), Dev.reg_setReg_other _ _ (by decide), Dev.reg_setReg_other _ _ (by decide),
    Dev.reg_setReg_same]

theorem Dev.secHi_timeLatched : (d.timeLatched t).reg Reg.timeNowSecHi = BitVec.ofNat 32 (t / 1000000000 / 2 ^ 32 % 65536) := by
  rw [Dev.timeLatched, Dev.reg_setReg_other _ _ (by decide), Dev.reg_setReg_other _ _ (by decide), Dev.reg_setReg_same]

theorem Dev.keepsRegs_timeLatched :
    d.KeepsRegs (d.timeLatched t) [Reg.timeNowNs, Reg.timeNowSecLo, Reg.timeNowSecHi, Reg.timeNowFrac] :=
  ((((d.keepsRegs_fresh _).trans ((Dev.keepsRegs_setReg _ _ _).mono (by simp))).trans ((Dev.keepsRegs_setReg _ _ _).mono (by simp))).trans
    ((Dev.keepsRegs_setReg _ _ _).mono (by simp))).trans ((Dev.keepsRegs_setReg _ _ _).mono (by simp))

end

theorem Dev.emit_of_atNs {d e : Dev} {ns : Nat} (h : e = { d.atNs ns with regs := e.regs, free := e.free }) (o : Output) :
    e.emit o = { d with regs := (e.emit o).regs, out := (e.emit o).out, free := (e.emit o).free, stk := { d.stk with phase := ns } } := by
  rw [h]
  rfl

theorem exec_timeNowNsRead {s : State} {fn : Nat} (ns : Nat) (h : s.dev.sees fn Reg.timeNowNs = true) :
    exec (.timeNowNsRead fn ns) s = .next { s with dev :=
      ((s.dev.atNs ns).timeLatched (s.dev.localNs ns)).emit (.read fn Reg.timeNowNs (s.dev.localNs ns % 1000000000)) } := by
  show execTimeNowNsRead fn ns s = _
  rw [execTimeNowNsRead, State.lift_eq]
  dsimp only
  rw [if_neg (by simp [h])]
  rfl

theorem timeNowNsRead_latches {s : State} {fn : Nat} (ns : Nat) (h : s.dev.sees fn Reg.timeNowNs = true) :
    ∃ t, exec (.timeNowNsRead fn ns) s = .next t ∧
      s.dev.ShowsOnly t.dev (.read fn Reg.timeNowNs (s.dev.localNs ns % 1000000000)) ∧
      t.dev.reg Reg.timeNowSecLo = BitVec.ofNat 32 (s.dev.localNs ns / 1000000000) ∧
      t.dev.reg Reg.timeNowSecHi = BitVec.ofNat 32 (s.dev.localNs ns / 1000000000 / 2 ^ 32 % 65536) ∧
      s.dev.KeepsRegs t.dev [Reg.timeNowNs, Reg.timeNowSecLo, Reg.timeNowSecHi, Reg.timeNowFrac] ∧
      t = { s with dev := { s.dev with regs := t.dev.regs, out := t.dev.out, free := t.dev.free, stk := { s.dev.stk with phase := ns } } } := by
  have hregs : s.dev.KeepsRegs ((s.dev.atNs ns).timeLatched (s.dev.localNs ns)) _ := .of_atNs (Dev.keepsRegs_timeLatched _ _)
  refine ⟨_, exec_timeNowNsRead ns h, congrArg (_ :: ·) ((s.dev.atNs ns).out_timeLatched _), ?_, ?_, hregs.emit _, ?_⟩
  · dsimp only
    rw [Dev.reg_emit, Dev.secLo_timeLatched]
  · dsimp only
    rw [Dev.reg_emit, Dev.secHi_timeLatched]
  · exact congrArg (fun d => { s with dev := d }) (Dev.emit_of_atNs ((s.dev.atNs ns).timeLatched_eq _) _)

/-! ## Steps of the clock (R397) -/

/-- What follows a step once the clock shows the new time: records, the schedules of the timed outputs and their pulses. Nothing changes but
the record log, the timed outputs, and registers at and above theirs. -/
def Dev.StepFollows (d e : Dev) : Prop :=
  (∀ a < Reg.timeOutCfg 0, e.reg a = d.reg a) ∧ e = { d with regs := e.regs, tim := e.tim, hif := e.hif, log := e.log }

theorem Dev.StepFollows.refl (d : Dev) : d.StepFollows d := ⟨fun _ _ => rfl, rfl⟩

theorem Dev.StepFollows.trans {d e t : Dev} (h : d.StepFollows e) (h' : e.StepFollows t) : d.StepFollows t := by
  obtain ⟨hr, he⟩ := h
  obtain ⟨hr', ht⟩ := h'
  refine ⟨fun a ha => (hr' a ha).trans (hr a ha), ?_⟩
  rw [ht, he]

theorem Dev.StepFollows.foldl {α : Type} {f : Dev → α → Dev} (h : ∀ (d : Dev) (a : α), d.StepFollows (f d a)) (l : List α) (d : Dev) :
    d.StepFollows (l.foldl f d) :=
  List.foldlRecOn l f (.refl d) fun _ he a _ => he.trans (h _ a)

theorem Dev.stepFollows_record (d : Dev) (c kind sub obj : Nat) (data : List Nat) : d.StepFollows (d.record c kind sub obj data) := by
  refine ⟨fun a ha => d.keepsRegs_record c kind sub obj data a ?_, ?_⟩
  · simp only [Reg.timeOutCfg] at ha
    simp only [Reg.rplLogStatus, Reg.rplLogSeq, List.mem_cons, List.not_mem_nil, or_false]
    omega
  · rw [Dev.record_eq]

theorem Dev.stepFollows_onOut (d : Dev) (n : Nat) (f : TimeOut → TimeOut) : d.StepFollows (d.onOut n f) := ⟨fun _ _ => rfl, rfl⟩

theorem Dev.stepFollows_addFld (d : Dev) (n : Nat) (f : Fld) (k : Nat) : d.StepFollows (d.addFld (Reg.timeOutCfg n) f k) := by
  refine ⟨fun a ha => Dev.reg_addFld_other d f k ?_, Dev.addFld_eq _ _ _ _⟩
  simp only [Reg.timeOutCfg] at ha ⊢
  omega

theorem Dev.stepFollows_outStep (d : Dev) (n old new : Nat) : d.StepFollows (d.outStep n old new) := by
  unfold Dev.outStep
  dsimp only
  split
  · split_ifs
    · exact (d.stepFollows_addFld _ _ _).trans (Dev.stepFollows_onOut _ _ _)
    · exact d.stepFollows_onOut _ _
  · split_ifs
    · exact (d.stepFollows_addFld _ _ _).trans (Dev.stepFollows_onOut _ _ _)
    · exact .refl d
  · split_ifs
    · exact d.stepFollows_onOut _ _
    · exact .refl d
  · exact .refl d

/-- The clock shows a local time, and the step to it is counted. -/
def Dev.stepped (d : Dev) (t : Nat) : Dev :=
  Dev.addFld { d with stk := { d.stk with stroke := t / 125000, phase := t % 125000 } } Reg.timeStatus F.timeStatus_steps 1

theorem Dev.stepped_eq (d : Dev) (t : Nat) :
    d.stepped t = { d with regs := (d.stepped t).regs, stk := { d.stk with stroke := t / 125000, phase := t % 125000 } } := Dev.addFld_eq _ _ _ _

theorem Dev.nowNs_of_stk {d e : Dev} (h : e.stk = d.stk) : e.nowNs = d.nowNs := by
  rw [Dev.nowNs, Dev.localNs, Dev.now, h, Dev.nowNs, Dev.localNs, Dev.now]

theorem Dev.nowNs_stepped (d : Dev) (t : Nat) : (d.stepped t).nowNs = t := by
  rw [Dev.nowNs, Dev.localNs, Dev.now, Dev.stepped, Dev.addFld_stk]
  exact Nat.div_add_mod' t 125000

theorem Dev.steps_stepped (d : Dev) (t : Nat) :
    (d.stepped t).fld Reg.timeStatus F.timeStatus_steps = (d.fld Reg.timeStatus F.timeStatus_steps + 1) % 65536 :=
  Dev.fld_addFld_same _ _ ⟨by decide, by decide⟩ _

theorem Dev.stepClock_follows (d : Dev) (delta : Int) : (d.stepped ((d.nowNs : Int) + delta).toNat).StepFollows (d.stepClock delta) := by
  unfold Dev.stepClock
  dsimp only
  refine ((Dev.StepFollows.foldl (fun e _ => e.stepFollows_record _ _ _ _ _) _ _).trans
    (.foldl (fun e n => e.stepFollows_outStep n _ _) _ _)).trans (.foldl (fun e n => ?_) _ _)
  split_ifs
  · exact e.stepFollows_onOut _ _
  · exact .refl e

/-- Nothing changes but registers, the turn of the clock, TIME and the host side beside them, and the record log. -/
def Dev.ClockChanged (d e : Dev) : Prop := e = { d with regs := e.regs, stk := e.stk, tim := e.tim, hif := e.hif, log := e.log }

theorem Dev.RegsAlone.clockChanged {d e : Dev} (h : d.RegsAlone e) : d.ClockChanged e := by
  unfold Dev.RegsAlone at h
  rw [h]
  rfl

theorem Dev.ClockChanged.trans {d e t : Dev} (h : d.ClockChanged e) (h' : e.ClockChanged t) : d.ClockChanged t := by
  unfold Dev.ClockChanged at h h' ⊢
  rw [h', h]

theorem Dev.ClockChanged.state {s : State} {e : Dev} (h : s.dev.ClockChanged e) :
    ({ s with dev := e } : State) = { s with dev := { s.dev with regs := e.regs, stk := e.stk, tim := e.tim, hif := e.hif, log := e.log } } :=
  congrArg (fun d => { s with dev := d }) h

theorem Dev.clockChanged_stepClock (d : Dev) (delta : Int) : d.ClockChanged (d.stepClock delta) := by
  unfold Dev.ClockChanged
  obtain ⟨-, h⟩ := d.stepClock_follows delta
  rw [h, Dev.stepped_eq]

theorem Dev.nowNs_stepClock (d : Dev) (delta : Int) : (d.stepClock delta).nowNs = ((d.nowNs : Int) + delta).toNat := by
  obtain ⟨-, h⟩ := d.stepClock_follows delta
  rw [Dev.nowNs_of_stk (d := d.stepped ((d.nowNs : Int) + delta).toNat) (by rw [h]), Dev.nowNs_stepped]

theorem Dev.steps_stepClock (d : Dev) (delta : Int) :
    (d.stepClock delta).fld Reg.timeStatus F.timeStatus_steps = (d.fld Reg.timeStatus F.timeStatus_steps + 1) % 65536 := by
  obtain ⟨h, -⟩ := d.stepClock_follows delta
  rw [Dev.fld, h _ (by decide), ← Dev.fld, Dev.steps_stepped]

theorem Dev.reg_timeAdj_stepClock (d : Dev) (delta : Int) : (d.stepClock delta).reg Reg.timeAdj = d.reg Reg.timeAdj := by
  obtain ⟨h, -⟩ := d.stepClock_follows delta
  rw [h _ (by decide), Dev.stepped, Dev.reg_addFld_other _ _ _ (by decide)]
  exact Dev.reg_of_regs rfl _

/-! ## TIME_ADJ_GO (R397) -/

/-- The nanoseconds that TIME_ADJ asks for. -/
def Dev.adjNs (d : Dev) : Nat := (d.reg Reg.timeAdjNs).toNat % 2 ^ 30

/-- The seconds that TIME_ADJ asks for. -/
def Dev.adjSec (d : Dev) : Nat := (d.reg Reg.timeAdjSecLo).toNat + (d.reg Reg.timeAdjSecHi).toNat % 65536 * 2 ^ 32

/-- The device once MODE of a write of TIME_ADJ is taken. -/
def Dev.adjModeTaken (d : Dev) (value : Nat) : Dev := d.setFld Reg.timeAdj F.timeAdj_mode (value / 2 ^ 30 % 2)

theorem Dev.keepsRegs_adjModeTaken (d : Dev) (value : Nat) : d.KeepsRegs (d.adjModeTaken value) [Reg.timeAdj] := d.keepsRegs_setFld _ _ _

theorem Dev.mode_adjModeTaken (d : Dev) (value : Nat) : (d.adjModeTaken value).fld Reg.timeAdj F.timeAdj_mode = value / 2 ^ 30 % 2 := by
  rw [Dev.adjModeTaken, Dev.fld_setFld_same _ _ ⟨by decide, by decide⟩]
  exact Nat.mod_mod _ _

theorem Dev.nowNs_adjModeTaken (d : Dev) (value : Nat) : (d.adjModeTaken value).nowNs = d.nowNs := Dev.nowNs_of_stk (Dev.setFld_stk _ _ _ _)

theorem Dev.live_adjModeTaken (d : Dev) (value : Nat) : (d.adjModeTaken value).live = d.live :=
  Dev.live_of_reg (d.keepsRegs_adjModeTaken value _ (by decide))

/-- The step goes to the time that TIME_ADJ holds, or by it. -/
theorem Dev.adjDelta_adjModeTaken (d : Dev) (value : Nat) : (d.adjModeTaken value).adjDelta =
    if value / 2 ^ 30 % 2 = 1 then ((d.adjSec * 1000000000 + d.adjNs : Nat) : Int) - d.nowNs
    else signed 48 d.adjSec * 1000000000 + signed 30 d.adjNs := by
  have hkeep := d.keepsRegs_adjModeTaken value
  have hmode : (d.adjModeTaken value).flag Reg.timeAdj F.timeAdj_mode = decide (value / 2 ^ 30 % 2 = 1) := by
    rw [Dev.adjModeTaken, Dev.flag_setFld_same _ _ ⟨by decide, by decide⟩ rfl, Nat.mod_mod]
  rw [Dev.adjDelta, hmode, hkeep Reg.timeAdjNs (by decide), hkeep Reg.timeAdjSecLo (by decide), hkeep Reg.timeAdjSecHi (by decide),
    d.nowNs_adjModeTaken]
  simp only [decide_eq_true_eq]
  rfl

/-- The new local time of a step. -/
theorem Dev.nowNs_adjStep (d : Dev) (value : Nat) :
    ((d.adjModeTaken value).stepClock (d.adjModeTaken value).adjDelta).nowNs =
      if value / 2 ^ 30 % 2 = 1 then d.adjSec * 1000000000 + d.adjNs
      else ((d.nowNs : Int) + signed 48 d.adjSec * 1000000000 + signed 30 d.adjNs).toNat := by
  rw [Dev.nowNs_stepClock, d.adjDelta_adjModeTaken, d.nowNs_adjModeTaken]
  split_ifs
  · rw [add_sub_cancel, Int.toNat_natCast]
  · rw [add_assoc]

section
variable {s : State} {fn value : Nat} (hw : s.dev.mayWrite fn Reg.timeAdj = true) (hgo : bitAt value 31 = true)
include hw hgo

theorem exec_timeAdjGo_refused (hl : s.dev.live = true) : exec (.timeAdjGo fn value) s =
    .next { s with dev := (s.dev.adjModeTaken value).setFld Reg.timeStatus F.timeStatus_adjRefused 1 } := by
  have hlive := (s.dev.live_adjModeTaken value).trans hl
  unfold Dev.adjModeTaken at hlive
  show execTimeAdjGo fn value s = _
  rw [execTimeAdjGo, State.lift_eq, Dev.adjWrite, if_neg (by simp [hw])]
  dsimp only
  rw [if_neg (by simp [hgo]), if_pos hlive]
  rfl

theorem exec_timeAdjGo_steps (hl : ¬s.dev.live = true) : exec (.timeAdjGo fn value) s =
    .next { s with dev := (s.dev.adjModeTaken value).stepClock (s.dev.adjModeTaken value).adjDelta } := by
  have hlive : ¬(s.dev.adjModeTaken value).live = true := by rwa [Dev.live_adjModeTaken]
  unfold Dev.adjModeTaken at hlive
  show execTimeAdjGo fn value s = _
  rw [execTimeAdjGo, State.lift_eq, Dev.adjWrite, if_neg (by simp [hw])]
  dsimp only
  rw [if_neg (by simp [hgo]), if_neg hlive]
  rfl

theorem timeAdjGo_steps_or_refused :
    ∃ t, exec (.timeAdjGo fn value) s = .next t ∧ t.dev.fld Reg.timeAdj F.timeAdj_mode = value / 2 ^ 30 % 2 ∧
      t = { s with dev := { s.dev with regs := t.dev.regs, stk := t.dev.stk, tim := t.dev.tim, hif := t.dev.hif, log := t.dev.log } } ∧
      if s.dev.live = true then t.dev.flag Reg.timeStatus F.timeStatus_adjRefused = true ∧ s.RegsOnly t [Reg.timeAdj, Reg.timeStatus]
      else t.dev.nowNs = (if value / 2 ^ 30 % 2 = 1 then s.dev.adjSec * 1000000000 + s.dev.adjNs
          else ((s.dev.nowNs : Int) + signed 48 s.dev.adjSec * 1000000000 + signed 30 s.dev.adjNs).toNat) ∧
        t.dev.fld Reg.timeStatus F.timeStatus_steps = (s.dev.fld Reg.timeStatus F.timeStatus_steps + 1) % 65536 := by
  have htaken := s.dev.keepsRegs_adjModeTaken value
  have halone : s.dev.RegsAlone (s.dev.adjModeTaken value) := s.dev.regsAlone_setFld _ _ _
  by_cases hl : s.dev.live = true
  · have hregs := halone.setFld Reg.timeStatus F.timeStatus_adjRefused 1
    refine ⟨_, exec_timeAdjGo_refused hw hgo hl, ?_, ?_, ?_⟩
    · dsimp only
      rw [Dev.fld_setFld_other _ _ _ _ (by decide), s.dev.mode_adjModeTaken]
    · exact hregs.clockChanged.state
    · rw [if_pos hl]
      refine ⟨?_, hregs.state, ?_⟩
      · dsimp only
        rw [Dev.flag_setFld_same _ _ ⟨by decide, by decide⟩ rfl]
        rfl
      · exact (htaken.mono (by simp)).trans ((Dev.keepsRegs_setFld _ _ _ _).mono (by simp))
  · refine ⟨_, exec_timeAdjGo_steps hw hgo hl, ?_, ?_, ?_⟩
    · dsimp only
      rw [Dev.fld, Dev.reg_timeAdj_stepClock, ← Dev.fld, s.dev.mode_adjModeTaken]
    · exact (halone.clockChanged.trans (Dev.clockChanged_stepClock _ _)).state
    · rw [if_neg hl]
      dsimp only
      rw [s.dev.nowNs_adjStep, Dev.steps_stepClock, htaken.fld (by decide)]
      exact ⟨rfl, rfl⟩

end

/-! ## O53 -/

/-- Settles O53: each clause is what one command of the clock or of a timed pin does, said once above. -/
theorem localClock : Obligations.LocalClock := by
  unfold Obligations.LocalClock
  exact ⟨fun _ _ _ hw hgo => timeAdjGo_steps_or_refused hw hgo,
    fun _ fn offset value h => exec_timeIncWrite_basic h fn offset value,
    fun _ _ _ value h hw ho => timeIncWrite_taken h hw ho value,
    tcompUpdate_corrects,
    fun _ _ _ hn hj ht => timedOutputEdge_rises hn hj ht,
    fun _ _ hn hh ht => timedPulseEnd_falls hn hh ht,
    fun _ he hs => ppsOutEdge_rises he hs,
    fun _ _ ns _ hn hr he hp => timeInputEdge_captured ns hn hr he hp,
    fun _ _ _ hn hs => timeInNsRead_pops hn hs,
    fun _ _ ns h => timeNowNsRead_latches ns h⟩

end Sys2Proof.Machine
end

section
/-! PROOFS. What a step is: each command as a change of the device, or of memory and device together, and the canonical form of the HBM
through every one of them (R412, R419, R535). Settles O1–O6. -/

namespace Sys2Proof.Machine

/-! ## The operations over memory keep the canonical form -/

theorem wf_zeroRegion {x : HbmDev} (h : Memory.wf x.1 = true) (r a n : Nat) : Memory.wf (zeroRegion x r a n).1 = true :=
  Tab.wf_filter _ h

theorem wf_fillPools {x : HbmDev} (h : Memory.wf x.1 = true) (l : List (Nat × Nat × Nat)) : Memory.wf (fillPools x l).1 = true := by
  refine wf_hbm_foldl _ (fun x p hx => ?_) l x h
  split
  · exact hx
  · exact wf_zeroRegion hx _ _ _

theorem wf_admissionDone {x : HbmDev} (h : Memory.wf x.1 = true) : Memory.wf (admissionDone x).1 = true := by
  have hfill (d : Dev) (l : List (Nat × Nat × Nat)) : Memory.wf (fillPools (x.1, d) l).1 = true := wf_fillPools (x := (x.1, d)) h l
  unfold admissionDone
  dsimp only
  split
  · exact h
  · split
    · exact h
    · split
      · exact h
      · split
        · split
          · exact h
          · exact hfill _ _
        · split <;> exact h

/-- An order touches the HBM only where a Charter takes regions away (R419). -/
theorem wf_applyOrder {x : HbmDev} (h : Memory.wf x.1 = true) (o : Order) : Memory.wf (applyOrder o x).1 = true := by
  have hfill (d : Dev) : Memory.wf (zeroFill x.2 (x.1, d)).1 = true := wf_zeroFill (x := (x.1, d)) h x.2
  unfold applyOrder
  dsimp only
  split
  · exact hfill _
  all_goals exact h

theorem wf_acceptedAt {x : HbmDev} (h : Memory.wf x.1 = true) (c : Commit) : Memory.wf (acceptedAt x c).1 = true := by
  have happly (d : Dev) (o : Order) : Memory.wf (applyOrder o (x.1, d)).1 = true := wf_applyOrder (x := (x.1, d)) h o
  unfold acceptedAt
  dsimp only
  split
  · exact h
  · split
    · exact h
    · split
      · exact happly _ _
      · split <;> exact h

theorem wf_strokeBoundary {x : HbmDev} (h : Memory.wf x.1 = true) (content : List Arrival) :
    Memory.wf (strokeBoundary content x).1 = true := by
  unfold strokeBoundary
  split_ifs
  · exact h
  · exact wf_hbm_foldl_pair _ (fun _ c hx => wf_acceptedAt hx c) _ _ _ h

theorem wf_assertSource {x : HbmDev} (h : Memory.wf x.1 = true) (s : ResetSource) (held : Bool) (mask : Nat) :
    Memory.wf (assertSource s held mask x).1 = true := by
  unfold assertSource enterMem
  dsimp only
  split
  · rfl
  · exact h

theorem wf_assertSource_pair {m : Memory} (h : Memory.wf m = true) (d : Dev) (s : ResetSource) (held : Bool) (mask : Nat) :
    Memory.wf (assertSource s held mask (m, d)).1 = true := wf_assertSource (x := (m, d)) h s held mask

theorem wf_writeReg {x : HbmDev} (h : Memory.wf x.1 = true) (fn a value : Nat) : Memory.wf (writeReg x fn a value).1 = true := by
  unfold writeReg
  split_ifs
  · exact wf_thawWrite h _ _
  · exact h
  · exact h

theorem wf_registerWrite {x : HbmDev} (h : Memory.wf x.1 = true) (fn off size value : Nat) :
    Memory.wf (registerWrite x fn off size value).1 = true := by
  unfold registerWrite
  dsimp only
  split
  · split_ifs <;> exact h
  · split
    · exact h
    · exact wf_writeReg h _ _ _

/-! ## Commands as changes -/

/-- A command that changes the device alone. -/
def IsLift (e : State → Host.Outcome State Fault Refusal) : Prop := ∃ f : Dev → Dev, ∀ s, e s = s.lift f

/-- A command that changes memory and device, and keeps the memory's canonical form. -/
def IsLiftMem (e : State → Host.Outcome State Fault Refusal) : Prop :=
  ∃ f : HbmDev → HbmDev, (∀ x, Memory.wf x.1 = true → Memory.wf (f x).1 = true) ∧ ∀ s, e s = s.liftMem f

theorem IsLift.lift (f : Dev → Dev) : IsLift fun s => s.lift f := ⟨f, fun _ => rfl⟩

theorem IsLift.onDue (crew ring op : Nat) (f : Dev → Desc → Dev) : IsLift fun s => s.onDue crew ring op f := ⟨_, fun _ => rfl⟩

theorem IsLiftMem.liftMem {f : HbmDev → HbmDev} (h : ∀ x, Memory.wf x.1 = true → Memory.wf (f x).1 = true) :
    IsLiftMem fun s => s.liftMem f := ⟨f, h, fun _ => rfl⟩

/-- A command that does not reach the HBM changes the device alone; those on a due descriptor do so through it. -/
theorem exec_isLift {c : Instr} (hc : c.stops = false) (h : c.reachesHbm = false) : IsLift fun s => exec c s := by
  cases c
  all_goals dsimp only [exec]
  case porRelease inOrder =>
    cases inOrder with
    | true => exact .lift fun d => d.releaseSource .por
    | false => exact absurd hc (by decide)
  case hbmRequest | thaw | memThawGo | registerWrite | scrubRead | strokeBoundary | commitAdmissionDone | thermalShutdown | perstAssert
      | hotReset | linkDown | pf0Flr | pf0D3hot | resetNAssert | sysclkLoss | debugReset | supplyReset | por =>
    exact absurd h (by simp [Instr.reachesHbm])
  case nop | cntPost | cntStop | rplPost | rplStop | rplMark | forceIrap | setHdr | query | bsPost | bsStop | statsPost | statsStop
      | picPost | decQuery | decResync | layerMove | fenceSignal | fenceQuery | setMatrix | progQuery | audRxPost | audPortPost
      | audStop | audQuery | logRead | auditRead | keyQuery | macsecSa | eapolPost | eapolSend | changeOrder | lutPoke | keyImport
      | keyDestroy | timeQuery | rplFeed => exact .onDue _ _ _ _
  all_goals exact .lift _

/-- A command that reaches the HBM does so through the operations over memory, which keep its canonical form. -/
theorem exec_isLiftMem {c : Instr} (h : c.reachesHbm = true) : IsLiftMem fun s => exec c s := by
  cases c
  all_goals dsimp only [exec]
  case strokeBoundary => exact .liftMem fun _ hx => wf_strokeBoundary hx _
  case commitAdmissionDone => exact .liftMem fun _ hx => wf_admissionDone hx
  case registerWrite => exact .liftMem fun _ hx => wf_registerWrite hx _ _ _ _
  case memThawGo => exact .liftMem fun _ hx => wf_thawWrite hx _ _
  case por => exact .liftMem (f := fun x => ([], x.2.powerOn)) fun _ _ => Memory.wf_nil
  case perstAssert | pf0Flr | pf0D3hot => exact .liftMem fun _ hx => wf_assertSource_pair hx _ _ _ _
  case hotReset | linkDown | resetNAssert | sysclkLoss | supplyReset => exact .liftMem fun _ hx => wf_assertSource hx _ _ _
  case hbmRequest =>
    refine .liftMem fun x hx => ?_
    split
    · exact hx
    · split
      · exact hx
      · exact wf_accept hx _ _
  case thaw =>
    refine .liftMem fun x hx => ?_
    split
    · exact hx
    · exact wf_thawPc hx _
  case scrubRead =>
    refine .liftMem fun x hx => ?_
    split
    · exact hx
    · exact wf_scrubGranule (wf_scrubGranule hx _ _) _ _
  case debugReset =>
    refine .liftMem fun x hx => ?_
    split
    · exact hx
    · exact wf_assertSource hx _ _ _
  case thermalShutdown =>
    refine .liftMem fun x hx => ?_
    dsimp only
    split
    · exact hx
    · exact wf_assertSource_pair hx _ _ _ _
  all_goals exact absurd h (by simp [Instr.reachesHbm])

theorem exec_of_stops {c : Instr} (hc : c.stops = true) (s : State) : exec c s = .fault .supplyOrder := by
  have hp : c = .porRelease false := eq_of_beq hc
  rw [hp]
  rfl

/-- A command that does not stop changes memory and device, in a way that the queue has no part in: it keeps the memory's canonical form,
and leaves the memory alone unless it reaches the HBM. -/
theorem exec_eq_liftMem {c : Instr} (hc : c.stops = false) : ∃ f : HbmDev → HbmDev, (∀ s, exec c s = s.liftMem f) ∧
    (∀ x, Memory.wf x.1 = true → Memory.wf (f x).1 = true) ∧ (c.reachesHbm = false → ∀ x, (f x).1 = x.1) := by
  cases h : c.reachesHbm with
  | true =>
    obtain ⟨f, hf, he⟩ := exec_isLiftMem h
    exact ⟨f, he, hf, nofun⟩
  | false =>
    obtain ⟨f, he⟩ := exec_isLift hc h
    exact ⟨fun x => (x.1, f x.2), he, fun _ hx => hx, fun _ _ => rfl⟩

/-- What a command that answers a next state makes of the memory. -/
theorem mem_of_exec {c : Instr} {s t : State} (h : exec c s = .next t) :
    (Memory.wf s.mem = true → Memory.wf t.mem = true) ∧ (c.reachesHbm = false → t.mem = s.mem) := by
  cases hc : c.stops with
  | true =>
    rw [exec_of_stops hc] at h
    exact absurd h (by simp)
  | false =>
    obtain ⟨f, he, hwf, hkeep⟩ := exec_eq_liftMem hc
    rw [he, State.liftMem_eq] at h
    obtain rfl := Host.Outcome.next.inj h
    exact ⟨hwf (s.mem, s.dev), fun hr => hkeep hr (s.mem, s.dev)⟩

/-! ## O1–O6 -/

/-- Settles O1: the two branches of a step. -/
theorem stepTakesFrontCommand : Obligations.StepTakesFrontCommand :=
  ⟨fun _ _ _ h => by rw [step, h], fun _ h => by rw [step, h]⟩

/-- Settles O2: nothing is listed right after reset, so every register reads what the table gives, RST_STATUS with all domains in reset. -/
theorem resetState : Obligations.ResetState :=
  ⟨rfl, rfl, fun _ => rfl, by decide +kernel, rfl, rfl⟩

/-- Settles O3: the HBM lists nothing at reset. -/
theorem resetMemoryCanonical : Obligations.ResetMemoryCanonical := Memory.wf_nil

/-- Settles O4: every command keeps the canonical form, and on an empty queue nothing changes. -/
theorem memoryStaysCanonical : Obligations.MemoryStaysCanonical := by
  intro s t hwf h
  match hp : s.pending with
  | [] =>
    rw [stepTakesFrontCommand.2 s hp] at h
    obtain rfl := Host.Outcome.next.inj h
    exact hwf
  | c :: rest =>
    rw [stepTakesFrontCommand.1 s c rest hp] at h
    exact (mem_of_exec h).1 hwf

/-- Settles O5: a change of memory and device answers a next state and carries the queue over. -/
theorem commandsAnswer : Obligations.CommandsAnswer := by
  refine ⟨fun c s hc => ?_, exec_of_stops rfl⟩
  obtain ⟨f, he, -, -⟩ := exec_eq_liftMem hc
  exact ⟨_, he s, rfl⟩

/-- Settles O6: a command that does not reach the HBM changes the device alone. -/
theorem hbmFrame : Obligations.HbmFrame := fun _ _ _ hr h => (mem_of_exec h).2 hr

end Sys2Proof.Machine
end

section
/-! PROOFS. Keys and their slots, EAPOL frames, zeroisation, entropy and enrolment (R438, R456–R465). Settles O16, O20, O21, O23. -/

namespace Sys2Proof.Machine

/-! ## Key slots -/

theorem Dev.key_setKey_same (d : Dev) (k : Nat) (v : Option KeySlot) : (d.setKey k v).key k = v := Tab.get_put_same _ _ _

theorem Dev.key_setKey_other (d : Dev) {k n : Nat} (v : Option KeySlot) (h : n ≠ k) : (d.setKey k v).key n = d.key n :=
  Tab.get_put_other _ _ h

theorem Dev.key_of_sec {d e : Dev} (h : e.sec = d.sec) (n : Nat) : e.key n = d.key n := by rw [Dev.key, h, Dev.key]

theorem Dev.sec_finish (d : Dev) (x : Desc) (st : Nat) (ws : List Nat) : (d.finish x st ws).sec = d.sec := by rw [Dev.finish_eq]

theorem Dev.key_finish (d : Dev) (x : Desc) (st : Nat) (ws : List Nat) (n : Nat) : (d.finish x st ws).key n = d.key n :=
  Dev.key_of_sec (Dev.sec_finish d x st ws) n

/-- What leaves the host side, the policies of the Crews and the link as they were leaves every descriptor answered. The registers below
SEC_CREW_POLICY are neither, whatever number a Crew has. -/
theorem Dev.Answers.of_policies {d e : Dev} {x : Desc} (h : d.Answers x) (hhif : e.hif = d.hif)
    (hregs : ∀ a, Reg.secCrewPolicy 0 ≤ a → e.reg a = d.reg a) : e.Answers x := by
  obtain ⟨hring, hquiet, hshare⟩ := h
  have hlink : e.reg Reg.hifLinkStatus = d.reg Reg.hifLinkStatus := hregs _ (by decide)
  have hpolicy (c : Nat) : e.reg (Reg.secCrewPolicy c) = d.reg (Reg.secCrewPolicy c) :=
    hregs _ (by unfold Reg.secCrewPolicy; omega)
  refine ⟨?_, hquiet, ?_⟩
  · unfold Dev.ring at hring ⊢
    rwa [hhif]
  · unfold Dev.entryShare Dev.writeTurn Dev.waitingOf Dev.waitingRings Dev.noSurplus Dev.hostScale Dev.flag Dev.fld at hshare ⊢
    unfold Dev.writesOf at hshare ⊢
    simp only [hhif, hlink, hpolicy]
    exact hshare

/-- What neither writes a register nor touches the host side leaves every descriptor answered. -/
theorem Dev.Answers.of_same {d e : Dev} {x : Desc} (h : d.Answers x) (hregs : e.regs = d.regs) (hhif : e.hif = d.hif) : e.Answers x :=
  h.of_policies hhif fun a _ => Dev.reg_of_regs hregs a

/-- A due descriptor completes after a change of its command's own that leaves it answered. -/
theorem Dev.Answers.completes {d e : Dev} {x : Desc} (h : e.Answers x) (ho : e.out = d.out) (hn : e.nowLo = d.nowLo) (st : Nat)
    (ws : List Nat) : d.Completes (e.finish x st ws) x st ws := (Dev.finish_of_answers st ws h).of_same ho hn rfl

/-! ## KEY_IMPORT, KEY_DESTROY and MACSEC_SA -/

/-- DEVICE_UID as a number. -/
def Dev.uidNat (d : Dev) : Nat := sumBy (fun i => (d.reg (Reg.secDevUid i)).toNat * 2 ^ (32 * i)) (List.range 4)

/-- The key slot that a KEY_IMPORT loads. -/
def importedSlot (x : Desc) (key : Nat) (salt : List Nat) : KeySlot := ⟨x.w 3 % 4, Config.kcv key % 2 ^ 24, key, salt⟩

/-- What the unwrap of a KEY_IMPORT's blob gives. -/
def Dev.unwrapped (d : Dev) (x : Desc) (blob : List Nat) : Option (Nat × List Nat) :=
  Config.unwrap (leNat d.nvm.importPub) d.uidNat x.crew x.keySlot (x.w 3 % 4) blob

section
variable {s : State} {crew ring : Nat} {blob : List Nat} {x : Desc} (hdue : s.dev.IsDue crew ring 0x60 x)
include hdue

theorem exec_keyImport_barred {sub : Nat} (h : s.dev.importBarred = some sub) :
    exec (.keyImport crew ring blob) s = .next { s with dev := (s.dev.taken x).finish x 0x30 [sub] } := by
  have hb : (s.dev.taken x).importBarred = some sub := h
  show execKeyImport crew ring blob s = _
  rw [execKeyImport, State.onDue_taken _ hdue]
  simp only [hb]

theorem exec_keyImport_offCurve (h : s.dev.importBarred = none) (hc : Config.onCurve (blob.take 96) = false) :
    exec (.keyImport crew ring blob) s = .next { s with dev := (s.dev.taken x).finish x 0x30 [9] } := by
  have hb : (s.dev.taken x).importBarred = none := h
  show execKeyImport crew ring blob s = _
  rw [execKeyImport, State.onDue_taken _ hdue]
  simp only [hb, hc]
  rfl

theorem exec_keyImport_unwrapFails (h : s.dev.importBarred = none) (hc : Config.onCurve (blob.take 96) = true)
    (hu : s.dev.unwrapped x blob = none) :
    exec (.keyImport crew ring blob) s = .next { s with dev := (s.dev.taken x).finish x 0x30 [8] } := by
  have hb : (s.dev.taken x).importBarred = none := h
  have hw : Config.unwrap (leNat (s.dev.taken x).nvm.importPub) (s.dev.taken x).uidNat x.crew x.keySlot (x.w 3 % 4) blob = none := hu
  unfold Dev.uidNat at hw
  show execKeyImport crew ring blob s = _
  rw [execKeyImport, State.onDue_taken _ hdue]
  simp only [hb, hc, hw]
  rfl

theorem exec_keyImport_loads (h : s.dev.importBarred = none) (hc : Config.onCurve (blob.take 96) = true) {key : Nat} {salt : List Nat}
    (hu : s.dev.unwrapped x blob = some (key, salt)) (hi : s.dev.keyInUse x.keySlot = false) {e : Dev}
    (he : (s.dev.taken x).camEdit .key [x.keySlot] = some e) :
    exec (.keyImport crew ring blob) s = .next { s with dev := e.loadKey x (importedSlot x key salt) } := by
  have hb : (s.dev.taken x).importBarred = none := h
  have hk : (s.dev.taken x).keyInUse x.keySlot = false := hi
  have hw : Config.unwrap (leNat (s.dev.taken x).nvm.importPub) (s.dev.taken x).uidNat x.crew x.keySlot (x.w 3 % 4) blob =
    some (key, salt) := hu
  unfold Dev.uidNat at hw
  show execKeyImport crew ring blob s = _
  rw [execKeyImport, State.onDue_taken _ hdue]
  simp only [hb, hc, hw, hk, he]
  rfl

end

theorem camEdit_of_room {d : Dev} (k : Nat) (h : (d.bank 1).used < 64) :
    ∃ f, d.camEdit .key [k] = some (d.onBank 1 f) := by
  have hlen : ([k].filter fun k => !((d.bank 1).before ++ (d.bank 1).since).contains k).length ≤ 1 := List.length_filter_le _ _
  have hroom : ¬64 < (d.bank (tableIdx .key)).used + ([k].filter fun k => !((d.bank 1).before ++ (d.bank 1).since).contains k).length := by
    show ¬64 < (d.bank 1).used + _
    omega
  exact ⟨_, if_neg hroom⟩

theorem Dev.loadKey_eq (d : Dev) (x : Desc) (k : KeySlot) :
    d.loadKey x k = { d with hif := (d.loadKey x k).hif, out := (d.loadKey x k).out, sec := (d.loadKey x k).sec } := by
  rw [Dev.loadKey, Dev.finish_eq]
  rfl

/-- The sub-code of a KEY_IMPORT that is barred (R456, R465). -/
theorem Dev.importBarred_of_lifecycle {d : Dev} (h : d.lifecycle ≠ 1) : d.importBarred = some 6 := if_pos h

theorem Dev.importBarred_of_state {d : Dev} (h : d.lifecycle = 1)
    (hs : d.secState ≠ 1 ∨ d.fld Reg.secStatus F.secStatus_debug ≠ 0 ∨ d.flag Reg.secStatus F.secStatus_tamper = true ∨
      d.flag Reg.secStatus F.secStatus_tamperPin = true ∨ d.flag Reg.secStatus F.secStatus_zeroizePin = true) :
    d.importBarred = some 7 := by
  unfold Dev.importBarred
  rw [if_neg (not_not_intro h), if_pos]
  tauto

section
variable {s : State} {crew ring : Nat} {x : Desc}

theorem exec_keyDestroy (hdue : s.dev.IsDue crew ring 0x61 x) :
    exec (.keyDestroy crew ring) s = .next { s with
      dev := (if s.dev.keyInUse x.keySlot = true then (s.dev.taken x).finish x 0x30 [10]
        else ((s.dev.taken x).zeroKey x.keySlot).finish x 0 []) } := by
  have hk : (s.dev.taken x).keyInUse x.keySlot = s.dev.keyInUse x.keySlot := rfl
  show execKeyDestroy crew ring s = _
  rw [execKeyDestroy, State.onDue_taken _ hdue, hk]

/-- The sequence-number base of a MACSEC_SA: 64 bits of it with the XPN cipher suites (R459). -/
def Dev.saOf (d : Dev) (x : Desc) : Sa :=
  ⟨x.keySlot, if d.flag (Reg.portMacsecCfg (x.w 3 % 64)) F.portMacsecCfg_cipher = true then x.w 4 + x.w 5 * 2 ^ 32 else x.w 4,
    x.w 6 + x.w 7 * 2 ^ 32⟩

/-- The associations that a MACSEC_SA leaves beside its own: a transmit one goes before the next comes. -/
def Sec.sasBeside (v : Sec) (w : Nat) : Tab (Option Sa) :=
  if bitAt w 6 then v.sas else v.sas.filter fun p => !(p.1 / 64 = w % 64 && p.1 / 32 % 2 = 0)

/-- A MACSEC_SA's association in place, or out of it. -/
def Dev.saSet (d : Dev) (x : Desc) : Dev :=
  d.onSec fun v => { v with sas := Tab.put noSa (v.sasBeside (x.w 3)) (saKey (x.w 3)) (if bitAt (x.w 3) 12 then some (d.saOf x) else none) }

theorem exec_macsecSa (hdue : s.dev.IsDue crew ring 0x63 x) :
    exec (.macsecSa crew ring) s = .next { s with dev := ((s.dev.taken x).saSet x).finish x 0 [] } := by
  show execMacsecSa crew ring s = _
  rw [execMacsecSa, State.onDue_taken _ hdue]
  unfold Dev.saSet Sec.sasBeside
  dsimp only
  split <;> rfl
end

/-- A KEY_IMPORT that is refused empties and loads no slot. -/
theorem keyImport_refuses {s : State} {crew ring : Nat} {blob : List Nat} {x : Desc} {sub : Nat} (hans : s.dev.Answers x)
    (hexec : exec (.keyImport crew ring blob) s = .next { s with dev := (s.dev.taken x).finish x 0x30 [sub] }) :
    ∃ t, exec (.keyImport crew ring blob) s = .next t ∧
      t = { s with dev := { s.dev with hif := t.dev.hif, out := t.dev.out, sec := t.dev.sec, stk := t.dev.stk } } ∧
      (∀ n, n ≠ x.keySlot → t.dev.key n = s.dev.key n) ∧ t.dev.sec = s.dev.sec ∧ s.dev.Completes t.dev x 0x30 [sub] := by
  have hans' : (s.dev.taken x).Answers x := hans
  refine ⟨_, hexec, ?_, fun n _ => Dev.key_finish _ _ _ _ _, Dev.sec_finish _ _ _ _, hans'.completes rfl rfl _ _⟩
  dsimp only
  rw [Dev.finish_eq]
  rfl

/-- A KEY_IMPORT whose blob unwraps loads its slot. -/
theorem keyImport_loads {s : State} {crew ring : Nat} {blob : List Nat} {x : Desc} (hdue : s.dev.IsDue crew ring 0x60 x)
    (hans : s.dev.Answers x) (hbar : s.dev.importBarred = none) (hidle : s.dev.keyInUse x.keySlot = false)
    (hroom : (s.dev.bank 1).used < 64) (hc : Config.onCurve (blob.take 96) = true) {key : Nat} {salt : List Nat}
    (hu : s.dev.unwrapped x blob = some (key, salt)) :
    ∃ t, exec (.keyImport crew ring blob) s = .next t ∧
      t = { s with dev := { s.dev with hif := t.dev.hif, out := t.dev.out, sec := t.dev.sec, stk := t.dev.stk } } ∧
      (∀ n, n ≠ x.keySlot → t.dev.key n = s.dev.key n) ∧ t.dev.key x.keySlot = some (importedSlot x key salt) ∧
      s.dev.Completes t.dev x 0 [Config.kcv key % 2 ^ 24] := by
  obtain ⟨f, hf⟩ := camEdit_of_room (d := s.dev.taken x) x.keySlot hroom
  have hans' : (((s.dev.taken x).onBank 1 f).setKey x.keySlot (some (importedSlot x key salt))).Answers x :=
    Dev.Answers.of_same (d := s.dev.taken x) hans rfl rfl
  refine ⟨_, exec_keyImport_loads hdue hbar hc hu hidle hf, ?_, fun n hn => ?_, ?_, hans'.completes rfl rfl _ _⟩
  · dsimp only
    rw [Dev.loadKey_eq]
    rfl
  · exact (Dev.key_finish _ _ _ _ _).trans (Dev.key_setKey_other _ _ hn)
  · exact (Dev.key_finish _ _ _ _ _).trans (Dev.key_setKey_same _ _ _)

theorem Dev.key_zeroKey_same (d : Dev) (k : Nat) : (d.zeroKey k).key k = none := d.key_setKey_same k none

theorem Dev.key_zeroKey_other (d : Dev) {k n : Nat} (h : n ≠ k) : (d.zeroKey k).key n = d.key n := d.key_setKey_other none h

/-- Settles O16, by what each outcome of a key descriptor leaves of the device. -/
theorem keyDescriptors : Obligations.KeyDescriptors := by
  unfold Obligations.KeyDescriptors
  refine ⟨⟨fun s crew ring blob x hdue hans hbar hidle hroom => ?_, fun s crew ring x hdue hans => ?_, fun s crew ring x hdue hans => ?_⟩,
    fun s crew ring blob x hdue hans => ⟨fun hl => ?_, fun hl hs => ?_⟩⟩
  · dsimp only
    cases hc : Config.onCurve (blob.take 96) with
    | false =>
      simp only [if_neg Bool.false_ne_true]
      exact keyImport_refuses hans (exec_keyImport_offCurve hdue hbar hc)
    | true =>
      simp only [if_true]
      cases hu : s.dev.unwrapped x blob with
      | none =>
        have hrefused := keyImport_refuses hans (exec_keyImport_unwrapFails hdue hbar hc hu)
        unfold Dev.unwrapped Dev.uidNat at hu
        simp only [hu]
        exact hrefused
      | some p =>
        have hloaded := keyImport_loads hdue hans hbar hidle hroom hc hu
        unfold Dev.unwrapped Dev.uidNat at hu
        simp only [hu]
        exact hloaded
  · have hans' : (s.dev.taken x).Answers x := hans
    by_cases hi : s.dev.keyInUse x.keySlot = true
    · refine ⟨_, exec_keyDestroy hdue, ?_⟩
      simp only [if_pos hi]
      refine ⟨?_, fun n _ => Dev.key_finish _ _ _ _ _, hans'.completes rfl rfl _ _, Dev.sec_finish _ _ _ _⟩
      rw [Dev.finish_eq]
      rfl
    · refine ⟨_, exec_keyDestroy hdue, ?_⟩
      simp only [if_neg hi]
      have hz : ((s.dev.taken x).zeroKey x.keySlot).Answers x := hans'.of_same rfl rfl
      refine ⟨?_, fun n hn => (Dev.key_finish _ _ _ _ _).trans (Dev.key_zeroKey_other _ hn), hz.completes rfl rfl _ _,
        (Dev.key_finish _ _ _ _ _).trans (Dev.key_zeroKey_same _ _)⟩
      rw [Dev.finish_eq]
      rfl
  · have hset : ((s.dev.taken x).saSet x).Answers x := Dev.Answers.of_same (d := s.dev.taken x) hans rfl rfl
    refine ⟨_, exec_macsecSa hdue, ?_, hset.completes rfl rfl _ _, ?_⟩
    · dsimp only
      rw [Dev.finish_eq]
      rfl
    · dsimp only
      rw [Dev.sec_finish]
      exact Tab.get_put_same _ _ _
  · exact State.completes_of_exec (exec_keyImport_barred hdue (Dev.importBarred_of_lifecycle hl)) hans
  · exact State.completes_of_exec (exec_keyImport_barred hdue (Dev.importBarred_of_state hl hs)) hans

/-! ## EAPOL_SEND (R459) -/

theorem exec_eapolSend {s : State} {crew ring : Nat} {bytes : List Nat} {x : Desc} (hdue : s.dev.IsDue crew ring 0x65 x) :
    exec (.eapolSend crew ring bytes) s = .next { s with dev := { s.dev.taken x with egs := { s.dev.egs with
      control := Tab.upd noList s.dev.egs.control (x.w 6 % 64) (· ++ [(x.w 5, some x, bytes)]) } } } := by
  show execEapolSend crew ring bytes s = _
  rw [execEapolSend, State.onDue_taken _ hdue]
  rfl

/-- Settles O23: the frame joins the queue of its port, at its end. -/
theorem eapolSendQueues : Obligations.EapolSendQueues := by
  unfold Obligations.EapolSendQueues
  intro s crew ring bytes x hdue
  refine ⟨_, exec_eapolSend hdue, rfl, ?_, fun m hm => ?_⟩
  · dsimp only
    exact Tab.get_upd_same _ _ _
  · dsimp only
    exact Tab.get_upd_other _ _ hm

/-! ## Zeroisation (R464) -/

theorem Dev.keepsRegs_audit (d : Dev) (k : AuditKind) (data : List Nat) : d.KeepsRegs (d.audit k data) [Reg.secAuditStatus] :=
  fun _ ha => Dev.reg_audit d k data (by simpa using ha)

theorem Dev.sec_audit (d : Dev) (k : AuditKind) (data : List Nat) :
    (d.audit k data).sec = { d.sec with backlog := (d.audit k data).sec.backlog, lostSince := (d.audit k data).sec.lostSince } := by
  unfold Dev.audit
  split <;> rfl

theorem Dev.key_audit (d : Dev) (k : AuditKind) (data : List Nat) (n : Nat) : (d.audit k data).key n = d.key n := by
  rw [Dev.key, Dev.sec_audit, Dev.key]

theorem Dev.sas_audit (d : Dev) (k : AuditKind) (data : List Nat) : (d.audit k data).sec.sas = d.sec.sas := by rw [Dev.sec_audit]

/-- No key and no association is left. -/
def Dev.Zeroised (d : Dev) : Prop := (∀ k, d.key k = none) ∧ d.sec.sas = []

theorem Dev.zeroised_zeroise (d : Dev) : d.zeroise.Zeroised := ⟨fun _ => rfl, rfl⟩

theorem Dev.Zeroised.audit {d : Dev} (h : d.Zeroised) (k : AuditKind) (data : List Nat) : (d.audit k data).Zeroised :=
  ⟨fun n => (d.key_audit k data n).trans (h.1 n), (d.sas_audit k data).trans h.2⟩

theorem Dev.keepsRegs_zeroise_audit (d : Dev) (k : AuditKind) (data : List Nat) :
    d.KeepsRegs (d.zeroise.audit k data) [Reg.secAuditStatus] := fun a ha => (d.zeroise.keepsRegs_audit k data a ha).trans (d.reg_zeroise a)

theorem Dev.keepsRegs_eraseKeyWrap (d : Dev) : d.KeepsRegs d.eraseKeyWrap [Reg.nvmStatus] := fun a ha => by
  unfold Dev.eraseKeyWrap Dev.showBusy
  rw [Dev.keepsRegs_setFld _ _ _ _ a ha]
  split <;> rfl

theorem Dev.Zeroised.eraseKeyWrap {d : Dev} (h : d.Zeroised) : d.eraseKeyWrap.Zeroised := by
  have hs : d.eraseKeyWrap.sec = d.sec := by
    unfold Dev.eraseKeyWrap Dev.showBusy
    rw [Dev.setFld_sec]
    split <;> rfl
  exact ⟨fun n => (Dev.key_of_sec hs n).trans (h.1 n), (congrArg Sec.sas hs).trans h.2⟩

/-- The device as TAMPER_N shows it. -/
def Dev.tamperShown (d : Dev) : Dev := (d.setFld Reg.secStatus F.secStatus_tamperPin 1).setFld Reg.secStatus F.secStatus_tamper 1

theorem Dev.keepsRegs_tamperShown (d : Dev) : d.KeepsRegs d.tamperShown [Reg.secStatus] :=
  (d.keepsRegs_setFld _ _ _).trans (Dev.keepsRegs_setFld _ _ _ _)

theorem Dev.flag_tamperPin_tamperShown (d : Dev) : d.tamperShown.flag Reg.secStatus F.secStatus_tamperPin = true := by
  rw [Dev.tamperShown, Dev.flag_setFld_field _ _ ⟨by decide, by decide⟩ (by decide), Dev.flag_setFld_same _ _ ⟨by decide, by decide⟩ rfl]
  rfl

theorem Dev.flag_tamper_tamperShown (d : Dev) : d.tamperShown.flag Reg.secStatus F.secStatus_tamper = true := by
  rw [Dev.tamperShown, Dev.flag_setFld_same _ _ ⟨by decide, by decide⟩ rfl]
  rfl

theorem Dev.keepsRegs_tampered (d : Dev) :
    d.tamperShown.KeepsRegs (d.tamperShown.zeroise.eraseKeyWrap.audit .tamperPin []) [Reg.nvmStatus, Reg.secAuditStatus] := by
  have hz : d.tamperShown.KeepsRegs d.tamperShown.zeroise [Reg.nvmStatus] := fun a _ => Dev.reg_zeroise _ a
  exact ((hz.trans (Dev.keepsRegs_eraseKeyWrap _)).mono (by simp)).trans ((Dev.keepsRegs_audit _ _ _).mono (by simp))

/-- The flag of SEC_STATUS that shows a pin. -/
def shownPin : SecPin → Fld
  | .zeroize => F.secStatus_zeroizePin
  | .tamper => F.secStatus_tamperPin

theorem shownPin_ok (pin : SecPin) : (shownPin pin).ok ∧ (shownPin pin).width = 1 ∧
    (F.secStatus_tamper.hi < (shownPin pin).lo ∨ (shownPin pin).hi < F.secStatus_tamper.lo) := by
  cases pin <;> exact ⟨⟨by decide, by decide⟩, by decide, by decide⟩

theorem exec_securityPinRelease (s : State) (pin : SecPin) :
    exec (.securityPinRelease pin) s = .next { s with dev := s.dev.setFld Reg.secStatus (shownPin pin) 0 } := by
  cases pin <;> rfl

theorem exec_zeroizePinAssert (s : State) : exec .zeroizePinAssert s =
    .next { s with dev := (s.dev.setFld Reg.secStatus F.secStatus_zeroizePin 1).zeroise.audit .zeroizePin [] } := by
  show execZeroizePinAssert s = _
  rw [execZeroizePinAssert, State.lift_eq]

theorem exec_tamperPinAssert (s : State) : exec .tamperPinAssert s =
    .next { s with dev := s.dev.tamperShown.zeroise.eraseKeyWrap.audit .tamperPin [] } := by
  show execTamperPinAssert s = _
  rw [execTamperPinAssert, State.lift_eq]
  rfl

/-- Settles O20: each cause zeroises, and writes its own flags beside. -/
theorem zeroisation : Obligations.Zeroisation := by
  unfold Obligations.Zeroisation
  refine ⟨fun s fn value hw hv => ?_, fun s => ?_, fun s => ?_, fun s pin => ?_⟩
  · have hexec : exec (.secZeroiseGo fn value) s = .next { s with dev := s.dev.zeroise.audit .swZeroise [] } := by
      show execSecZeroiseGo fn value s = _
      rw [execSecZeroiseGo, State.lift_eq, Dev.zeroiseWrite, if_neg (by simp [hw, hv])]
    obtain ⟨hkeys, hsas⟩ := s.dev.zeroised_zeroise.audit .swZeroise []
    exact ⟨_, hexec, hkeys, hsas, s.dev.keepsRegs_zeroise_audit _ _⟩
  · obtain ⟨hkeys, hsas⟩ := (s.dev.setFld Reg.secStatus F.secStatus_zeroizePin 1).zeroised_zeroise.audit .zeroizePin []
    have hkeep := (s.dev.setFld Reg.secStatus F.secStatus_zeroizePin 1).keepsRegs_zeroise_audit .zeroizePin []
    refine ⟨_, exec_zeroizePinAssert s, hkeys, hsas, ?_, ((s.dev.keepsRegs_setFld _ _ _).mono (by simp)).trans (hkeep.mono (by simp))⟩
    rw [hkeep.flag (by decide), Dev.flag_setFld_same _ _ ⟨by decide, by decide⟩ rfl]
    rfl
  · obtain ⟨hkeys, hsas⟩ := s.dev.tamperShown.zeroised_zeroise.eraseKeyWrap.audit .tamperPin []
    have hkeep := s.dev.keepsRegs_tampered
    refine ⟨_, exec_tamperPinAssert s, hkeys, hsas, (hkeep.flag (by decide) _).trans s.dev.flag_tamperPin_tamperShown,
      (hkeep.flag (by decide) _).trans s.dev.flag_tamper_tamperShown,
      (s.dev.keepsRegs_tamperShown.mono (by simp)).trans (hkeep.mono (by simp))⟩
  · obtain ⟨hok, hwidth, hbeside⟩ := shownPin_ok pin
    refine ⟨_, exec_securityPinRelease s pin, ⟨rfl, s.dev.keepsRegs_setFld _ _ _⟩, Dev.flag_setFld_field _ _ hok hbeside _, ?_⟩
    have hclear : (s.dev.setFld Reg.secStatus (shownPin pin) 0).flag Reg.secStatus (shownPin pin) = false := by
      rw [Dev.flag_setFld_same _ _ hok hwidth]
      rfl
    cases pin <;> exact hclear

/-! ## The entropy source (R460, R462) -/

/-- The device as a failed self-test shows it. -/
def Dev.testShown (d : Dev) (test : Nat) : Dev :=
  (d.setFld Reg.secStatus F.secStatus_state 2).setFld Reg.secSelftest F.secSelftest_failed test

theorem Dev.keepsRegs_testShown (d : Dev) (test : Nat) : d.KeepsRegs (d.testShown test) [Reg.secStatus, Reg.secSelftest] :=
  ((d.keepsRegs_setFld _ _ _).mono (by simp)).trans ((Dev.keepsRegs_setFld _ _ _ _).mono (by simp))

/-- A self-test that fails zeroises, with STATE ERROR and the number of the test shown. -/
theorem Dev.selfTestFail_shows (d : Dev) (test : Nat) :
    (d.selfTestFail test).Zeroised ∧ (d.selfTestFail test).secState = 2 ∧
      (d.selfTestFail test).fld Reg.secSelftest F.secSelftest_failed = test % 2 ^ F.secSelftest_failed.width ∧
      d.KeepsRegs (d.selfTestFail test) [Reg.secStatus, Reg.secSelftest, Reg.secAuditStatus] := by
  have hkeep : (d.testShown test).KeepsRegs (d.selfTestFail test) [Reg.secAuditStatus] := Dev.keepsRegs_zeroise_audit _ _ _
  refine ⟨(Dev.zeroised_zeroise _).audit _ _, (hkeep.fld (by decide) _).trans ?_, (hkeep.fld (by decide) _).trans ?_,
    ((d.keepsRegs_testShown test).mono (by simp)).trans (hkeep.mono (by simp))⟩
  · rw [Dev.testShown, Dev.fld_setFld_other _ _ _ _ (by decide), Dev.fld_setFld_same _ _ ⟨by decide, by decide⟩]
    rfl
  · rw [Dev.testShown, Dev.fld_setFld_same _ _ ⟨by decide, by decide⟩]

/-! ## Enrolment (R438) -/

/-- What enrolment leaves of what has been enrolled: the roles, their register, and what is shown. -/
structure Dev.SameRoles (d e : Dev) : Prop where
  out : e.out = d.out
  roles : e.nvm.roles = d.nvm.roles
  ctl : e.reg Reg.secEnrolCtl = d.reg Reg.secEnrolCtl

theorem Dev.SameRoles.trans {d e t : Dev} (h : d.SameRoles e) (h' : e.SameRoles t) : d.SameRoles t :=
  ⟨h'.out.trans h.out, h'.roles.trans h.roles, h'.ctl.trans h.ctl⟩

theorem Dev.SameRoles.fld {d e : Dev} (h : d.SameRoles e) (f : Fld) : e.fld Reg.secEnrolCtl f = d.fld Reg.secEnrolCtl f :=
  congrArg f.get h.ctl

theorem Dev.SameRoles.flag {d e : Dev} (h : d.SameRoles e) (f : Fld) : e.flag Reg.secEnrolCtl f = d.flag Reg.secEnrolCtl f :=
  congrArg (fun v => decide (v = 1)) (h.fld f)

theorem Dev.sameRoles_setReg (d : Dev) {a : Nat} (w : Word) (h : Reg.secEnrolCtl ≠ a) : d.SameRoles (d.setReg a w) :=
  ⟨rfl, rfl, Dev.reg_setReg_other d w h⟩

theorem Dev.sameRoles_setFld (d : Dev) {a : Nat} (f : Fld) (v : Nat) (h : Reg.secEnrolCtl ≠ a) : d.SameRoles (d.setFld a f v) :=
  d.sameRoles_setReg _ h

theorem Dev.sameRoles_audit (d : Dev) (k : AuditKind) (data : List Nat) : d.SameRoles (d.audit k data) where
  out := by rw [Dev.audit_eq]
  roles := by rw [Dev.audit_eq]
  ctl := Dev.reg_audit _ _ _ (by decide)

theorem Dev.sameRoles_foldl {α : Type} {f : Dev → α → Dev} {l : List α} (h : ∀ e : Dev, ∀ a ∈ l, e.SameRoles (f e a)) (d : Dev) :
    d.SameRoles (l.foldl f d) where
  out := Dev.foldl_keeps Dev.out (fun e a ha => (h e a ha).out) d
  roles := Dev.foldl_keeps (fun e => e.nvm.roles) (fun e a ha => (h e a ha).roles) d
  ctl := Dev.foldl_keeps (fun e => e.reg Reg.secEnrolCtl) (fun e a ha => (h e a ha).ctl) d

theorem Dev.sameRoles_showRole (d : Dev) {role : Nat} (bytes : List Nat) (h : role < 3) : d.SameRoles (d.showRole role bytes) := by
  unfold Dev.showRole
  refine Dev.sameRoles_foldl (fun e w hw => e.sameRoles_setReg _ ?_) d
  have hlt := List.mem_range.mp hw
  have hrole := h
  unfold Reg.secEnrolCtl Reg.secRolePub
  omega

theorem Dev.sameRoles_keyPair (d : Dev) : d.SameRoles d.keyPair.2 :=
  Dev.SameRoles.trans (e := d.fresh.2.onSec fun s => { s with requests := s.requests + 1 }) ⟨rfl, rfl, rfl⟩
    (Dev.sameRoles_setFld _ _ _ (by decide))

/-- Another draw, and keys in the store, are nothing to the roles. -/
theorem Dev.sameRoles_drawn (d : Dev) (pub : List Nat) (key : Nat) :
    d.SameRoles ((d.fresh.2.onNvm fun n => { n with importPub := pub, auditKey := key }).onSec fun v =>
      { v with requests := v.requests + 1 }) := ⟨rfl, rfl, rfl⟩

/-- What only the reset block and the Charter's own flag see is nothing to the roles. -/
theorem Dev.sameRoles_rst (d : Dev) (r : Rst) : d.SameRoles { d with rst := r } := ⟨rfl, rfl, rfl⟩

theorem Dev.sameRoles_void (d : Dev) (b : Bool) : d.SameRoles (d.onSec fun v => { v with void := b }) := ⟨rfl, rfl, rfl⟩

theorem Dev.sameRoles_newImportKey (d : Dev) : d.SameRoles d.newImportKey := by
  unfold Dev.newImportKey
  refine (d.sameRoles_keyPair.trans (Dev.sameRoles_drawn _ _ _)).trans (Dev.sameRoles_foldl (fun e w hw => e.sameRoles_setReg _ ?_) _)
  have hlt := List.mem_range.mp hw
  unfold Reg.secEnrolCtl Reg.secImportPub
  omega

/-- The third role done makes the device DEPLOYED. -/
def Dev.deployed (d : Dev) : Dev :=
  let e := { d.newImportKey with rst := { d.rst with lifecycle := 1 } }.setFld Reg.secStatus F.secStatus_lifecycle 1
  let e := (e.onSec fun s => { s with void := true }).audit .enrol []
  if e.secState = 1 then e.setFld Reg.secStatus F.secStatus_state 3 else e

theorem Dev.sameRoles_deployed (d : Dev) : d.SameRoles d.deployed := by
  have hkey := d.sameRoles_newImportKey.trans (Dev.sameRoles_rst _ { d.rst with lifecycle := 1 })
  have haudit := ((hkey.trans (Dev.sameRoles_setFld _ (a := Reg.secStatus) F.secStatus_lifecycle 1 (by decide))).trans
    (Dev.sameRoles_void _ true)).trans (Dev.sameRoles_audit _ .enrol [])
  unfold Dev.deployed
  dsimp only
  split
  · exact haudit.trans (Dev.sameRoles_setFld _ _ _ (by decide))
  · exact haudit

/-- The role that ENROL_GO names is shown. -/
def Dev.roleNamed (d : Dev) (role : Nat) : Dev := d.setFld Reg.secEnrolCtl F.secEnrolCtl_role role

/-- A role has its public key, and DONE shows it. -/
def Dev.roleTaken (d : Dev) (role : Nat) (bytes : List Nat) : Dev :=
  let e := (d.setRole role bytes).setFld Reg.secEnrolCtl F.secEnrolCtl_bad 0
  e.setFld Reg.secEnrolCtl F.secEnrolCtl_done (e.fld Reg.secEnrolCtl F.secEnrolCtl_done + 2 ^ role)

theorem Dev.fld_done_roleNamed (d : Dev) (role : Nat) :
    (d.roleNamed role).fld Reg.secEnrolCtl F.secEnrolCtl_done = d.fld Reg.secEnrolCtl F.secEnrolCtl_done :=
  Dev.fld_setFld_field _ _ ⟨by decide, by decide⟩ (by decide) _

/-- The three bits of DONE with one more set. -/
theorem bitAt_add_pow : ∀ role < 3, ∀ done < 8, bitAt done role = false → bitAt ((done + 2 ^ role) % 8) role = true := by decide

section
variable (d : Dev) {role : Nat} (bytes : List Nat)

theorem Dev.out_roleTaken : (d.roleTaken role bytes).out = d.out := by
  unfold Dev.roleTaken
  dsimp only
  rw [Dev.setFld_out, Dev.setFld_out]
  exact Dev.foldl_keeps Dev.out (fun e w _ => Dev.setReg_out e _ _) _

theorem Dev.roles_roleTaken : (d.roleTaken role bytes).nvm.roles = Tab.put noList d.nvm.roles role bytes := by
  unfold Dev.roleTaken
  dsimp only
  rw [Dev.setFld_nvm, Dev.setFld_nvm]
  exact Dev.foldl_keeps (fun e => e.nvm.roles) (fun e w _ => congrArg Nvm.roles (Dev.setReg_nvm e _ _)) _

theorem Dev.bad_roleTaken : (d.roleTaken role bytes).flag Reg.secEnrolCtl F.secEnrolCtl_bad = false := by
  unfold Dev.roleTaken
  dsimp only
  rw [Dev.flag_setFld_field _ _ ⟨by decide, by decide⟩ (by decide), Dev.flag_setFld_same _ _ ⟨by decide, by decide⟩ rfl]
  rfl

theorem Dev.done_roleTaken (h : role < 3) : (d.roleTaken role bytes).fld Reg.secEnrolCtl F.secEnrolCtl_done =
    (d.fld Reg.secEnrolCtl F.secEnrolCtl_done + 2 ^ role) % 8 := by
  have hset : (d.setRole role bytes).fld Reg.secEnrolCtl F.secEnrolCtl_done = d.fld Reg.secEnrolCtl F.secEnrolCtl_done :=
    congrArg F.secEnrolCtl_done.get ((d.saveRole role bytes).sameRoles_showRole bytes h).ctl
  unfold Dev.roleTaken
  dsimp only
  rw [Dev.fld_setFld_same _ _ ⟨by decide, by decide⟩, Dev.fld_setFld_field _ _ ⟨by decide, by decide⟩ (by decide), hset]
  rfl
end

section
variable {s : State} {fn value : Nat} (hw : s.dev.mayWrite fn Reg.secEnrolCtl = true) (hgo : bitAt value 31 = true)
  (hr : value % 4 < 3) (hl : s.dev.lifecycle = 0) (hp : s.dev.flag Reg.secStatus F.secStatus_enrolPin = true)
  (hdone : bitAt (s.dev.fld Reg.secEnrolCtl F.secEnrolCtl_done) (value % 4) = false)
include hw hgo hr hl hp hdone

/-- ENROL_GO for a role that may be enrolled. -/
theorem exec_enrolGo {bytes : List Nat} (hb : bytes = keyBytes fun w => Tab.get zero s.dev.sec.enrolKey w) :
    exec (.enrolGo fn value) s = .next { s with dev :=
      (let e := s.dev.roleNamed (value % 4)
       let t := e.roleTaken (value % 4) bytes
       if (!Config.onCurve bytes) = true then e.setFld Reg.secEnrolCtl F.secEnrolCtl_bad 1
       else if t.fld Reg.secEnrolCtl F.secEnrolCtl_done ≠ 7 then t else t.deployed) } := by
  have hkeep : s.dev.KeepsRegs (s.dev.roleNamed (value % 4)) [Reg.secEnrolCtl] := s.dev.keepsRegs_setFld _ _ _
  have hl' : (s.dev.roleNamed (value % 4)).lifecycle = 0 := (hkeep.fld (by decide) _).trans hl
  have hp' : (s.dev.roleNamed (value % 4)).flag Reg.secStatus F.secStatus_enrolPin = true := (hkeep.flag (by decide) _).trans hp
  have hd' := (congrArg (bitAt · (value % 4)) (s.dev.fld_done_roleNamed (value % 4))).trans hdone
  show execEnrolGo fn value s = _
  rw [execEnrolGo, State.lift_eq, Dev.enrolWrite, if_neg (by simp [hw])]
  unfold Dev.roleTaken Dev.deployed Dev.roleNamed
  unfold Dev.roleNamed at hl' hp' hd'
  subst hb
  dsimp only
  rw [if_neg (by simp [hgo, hl', hp', hr.ne, hd'])]
end

/-- Settles O21: a role's key is taken whole or BAD is set, and the third role adds nothing to that. -/
theorem entropyAndEnrolment : Obligations.EntropyAndEnrolment := by
  unfold Obligations.EntropyAndEnrolment
  refine ⟨⟨fun s hs => ?_, fun s hs => ?_⟩, fun s fn value hw hgo hr hl hp hdone => ?_⟩
  · have hexec : exec .entropyTestFail s = .next { s with dev := s.dev.selfTestFail 8 } := by
      show execEntropyTestFail s = _
      rw [execEntropyTestFail, State.lift_eq, if_neg (by simp [hs])]
    obtain ⟨⟨hkeys, hsas⟩, hstate, hfailed, hkeep⟩ := s.dev.selfTestFail_shows 8
    exact ⟨_, hexec, hstate, hfailed, hkeys, hsas, hkeep⟩
  · refine ⟨_, ?_, rfl⟩
    show execDrbgReseed s = _
    rw [execDrbgReseed, State.lift_eq, if_neg (by simp [hs])]
    rfl
  · intro bytes
    have hexec := exec_enrolGo hw hgo hr hl hp hdone (bytes := bytes) rfl
    dsimp only at hexec
    generalize hnamed : s.dev.roleNamed (value % 4) = e at hexec
    have hout : e.out = s.dev.out := by rw [← hnamed, Dev.roleNamed, Dev.setFld_out]
    have hroles : e.nvm.roles = s.dev.nvm.roles := by rw [← hnamed, Dev.roleNamed, Dev.setFld_nvm]
    have hfld : e.fld Reg.secEnrolCtl F.secEnrolCtl_done = s.dev.fld Reg.secEnrolCtl F.secEnrolCtl_done := by
      rw [← hnamed, Dev.fld_done_roleNamed]
    cases hc : Config.onCurve bytes with
    | false =>
      rw [hc, if_pos (by decide)] at hexec
      refine ⟨_, hexec, ?_, rfl, fun r _ => ?_, ?_⟩
      · dsimp only
        rw [Dev.setFld_out, hout]
      · dsimp only
        rw [Dev.setFld_nvm, hroles]
      · simp only [if_neg Bool.false_ne_true]
        refine ⟨?_, by rw [Dev.setFld_nvm, hroles]⟩
        rw [Dev.flag_setFld_same _ _ ⟨by decide, by decide⟩ rfl]
        rfl
    | true =>
      rw [hc, if_neg (by decide)] at hexec
      generalize htaken : e.roleTaken (value % 4) bytes = t at hexec
      have hsame : t.SameRoles (if t.fld Reg.secEnrolCtl F.secEnrolCtl_done ≠ 7 then t else t.deployed) := by
        split
        · exact ⟨rfl, rfl, rfl⟩
        · exact t.sameRoles_deployed
      generalize (if t.fld Reg.secEnrolCtl F.secEnrolCtl_done ≠ 7 then t else t.deployed) = u at hexec hsame
      have hput : t.nvm.roles = Tab.put noList s.dev.nvm.roles (value % 4) bytes := by rw [← htaken, Dev.roles_roleTaken, hroles]
      have hbits : bitAt (t.fld Reg.secEnrolCtl F.secEnrolCtl_done) (value % 4) = true := by
        rw [← htaken, Dev.done_roleTaken _ _ hr, hfld]
        exact bitAt_add_pow _ hr _ (Fld.get_lt F.secEnrolCtl_done _) hdone
      refine ⟨_, hexec, ?_, rfl, fun r hne => ?_, ?_⟩
      · exact hsame.out.trans (by rw [← htaken, Dev.out_roleTaken, hout])
      · dsimp only
        rw [hsame.roles, hput, Tab.get_put_other _ _ hne]
      · simp only [if_true]
        refine ⟨(hsame.flag _).trans (htaken ▸ Dev.bad_roleTaken e bytes), ?_, ?_⟩
        · rw [hsame.roles, hput, Tab.get_put_same]
        · rw [hsame.fld, hbits]

end Sys2Proof.Machine
end

section
/-! PROOFS. Suspensions and the audit log, and change orders (R444, R446–R449, R467, R468, R470). Settles O17, O19. -/

namespace Sys2Proof.Machine

/-! ## CREW_SUSPEND (R449) -/

theorem Dev.takeDue_of_isDue {d : Dev} {c r op : Nat} {x : Desc} (h : d.IsDue c r op x) : d.takeDue c r op = some (x, d.taken x) := by
  obtain ⟨hfind, hop⟩ := h
  simp only [Dev.takeDue, hfind, hop, if_true]
  rfl

/-- An entry joins a backlog that is not full. -/
theorem Dev.audit_of_room {d : Dev} (h : d.sec.backlog.length < 16) (k : AuditKind) (data : List Nat) :
    d.audit k data = (d.onSec fun s => { s with backlog := s.backlog ++ [⟨k.code, d.now, data⟩] }).setFld Reg.secAuditStatus
      F.secAuditStatus_backlog (d.sec.backlog.length + 1) := if_neg (Nat.not_le.mpr h)

/-- A suspension, or its end, waits for its entry to be written. -/
def Dev.suspending (d : Dev) (x : Desc) : Dev :=
  d.onSec fun v => { v with suspends := v.suspends ++ [(x, x.w 3, x.w 4 % 4, false)] }

theorem exec_crewSuspend {s : State} {crew ring : Nat} {x : Desc} (hroom : s.dev.sec.backlog.length < 16)
    (hdue : s.dev.IsDue crew ring 0x68 x) :
    exec (.crewSuspend crew ring) s = .next { s with
      dev := (((s.dev.taken x).suspending x).audit
        (if x.w 4 % 4 = 0 then .resume else .suspend) [pack [(x.w 3, 8), (x.w 4 % 4, 0)]]) } := by
  show execCrewSuspend crew ring s = _
  rw [execCrewSuspend, State.lift_eq, if_neg (Nat.not_le.mpr hroom), Dev.takeDue_of_isDue hdue]
  rfl

/-! ## The entries of the audit log (R467, R468, R506) -/

/-- The oldest entry of the backlog, as it is written. -/
def Dev.auditRow (d : Dev) (e : AuditEntry) : Nat × Nat × AuditEntry × Nat × Nat :=
  (d.nvm.auditSeq, d.nvm.epoch, e, d.sec.lostSince,
    Config.auditMac d.nvm.auditKey d.lastMac (auditHead d.nvm.auditSeq d.nvm.epoch e d.sec.lostSince))

section
variable {d : Dev} {e : AuditEntry} {rest : List AuditEntry}

/-- The oldest entry of the backlog is in the log. -/
def Dev.auditLogged (d : Dev) (e : AuditEntry) (rest : List AuditEntry) : Dev :=
  (d.onNvm fun x => { x with audit := d.auditRow e :: x.audit.take 1023, auditSeq := d.nvm.auditSeq + 1 }).onSec fun s =>
    { s with backlog := rest, lostSince := 0, suspends := if e.kind = 4 ∨ e.kind = 5 then markSuspend s.suspends else s.suspends }

/-- Its registers show that. -/
def Dev.auditShown (d : Dev) (rest : List AuditEntry) (n : Nat) : Dev :=
  (d.setFld Reg.secAuditStatus F.secAuditStatus_backlog rest.length).setReg Reg.secAuditNext (BitVec.ofNat 32 (n + 1))

/-- The oldest entry of the backlog leaves it. -/
def Dev.auditDropped (d : Dev) (rest : List AuditEntry) : Dev :=
  (d.onSec fun s => { s with backlog := rest }).setFld Reg.secAuditStatus F.secAuditStatus_backlog rest.length

theorem Dev.auditWrite_of_erased (hb : d.sec.backlog = e :: rest) (hheld : d.nvmHeld = false)
    (herased : d.slotErased (ringSlot 80 16 d.nvm.auditSeq) = true) (hworn : 3 ∉ d.nvm.worn) :
    d.auditWrite = (((d.auditLogged e rest).auditShown rest d.nvm.auditSeq).useSlot 80 16 d.nvm.auditSeq).showBusy := by
  unfold Dev.auditWrite
  rw [hb]
  dsimp only
  rw [if_neg (by simpa using hworn), if_neg (by simp [hheld, herased])]
  rfl

theorem Dev.auditWrite_of_worn (hb : d.sec.backlog = e :: rest) (hworn : 3 ∈ d.nvm.worn) :
    d.auditWrite = (d.auditDropped rest).addFld Reg.nvmLost F.nvmLost_lost 1 := by
  unfold Dev.auditWrite
  rw [hb]
  dsimp only
  rw [if_pos (by simpa using hworn)]
  rfl
end

theorem Dev.keepsRegs_showBusy (d : Dev) : d.KeepsRegs d.showBusy [Reg.nvmStatus] := d.keepsRegs_setFld _ _ _

theorem Dev.keepsRegs_auditShown (d : Dev) (rest : List AuditEntry) (n : Nat) :
    d.KeepsRegs (d.auditShown rest n) [Reg.secAuditStatus, Reg.secAuditNext] :=
  ((d.keepsRegs_setFld _ _ _).mono (by simp)).trans ((Dev.keepsRegs_setReg _ _ _).mono (by simp))

/-- What the use of a slot leaves of the store: all but which slots are erased. -/
theorem Dev.nvm_useSlot_showBusy (d : Dev) (base sectors n : Nat) : ((d.useSlot base sectors n).showBusy).nvm =
    { d.nvm with used := ((d.useSlot base sectors n).showBusy).nvm.used, erasing := ((d.useSlot base sectors n).showBusy).nvm.erasing } := by
  rw [Dev.showBusy, Dev.setFld_nvm]
  rfl

theorem Dev.sec_useSlot_showBusy (d : Dev) (base sectors n : Nat) : ((d.useSlot base sectors n).showBusy).sec = d.sec := by
  rw [Dev.showBusy, Dev.setFld_sec]
  rfl

theorem Dev.sec_auditShown (d : Dev) (rest : List AuditEntry) (n : Nat) : (d.auditShown rest n).sec = d.sec := by
  rw [Dev.auditShown, Dev.setReg_sec, Dev.setFld_sec]

theorem Dev.free_useSlot_showBusy (d : Dev) (base sectors n : Nat) : ((d.useSlot base sectors n).showBusy).free = d.free := by
  rw [Dev.showBusy, Dev.setFld_free]
  rfl

theorem Dev.free_auditShown (d : Dev) (rest : List AuditEntry) (n : Nat) : (d.auditShown rest n).free = d.free := by
  rw [Dev.auditShown, Dev.setReg_free, Dev.setFld_free]

theorem Dev.nvm_auditShown (d : Dev) (rest : List AuditEntry) (n : Nat) : (d.auditShown rest n).nvm = d.nvm := by
  rw [Dev.auditShown, Dev.setReg_nvm, Dev.setFld_nvm]

theorem Dev.keepsRegs_auditDropped (d : Dev) (rest : List AuditEntry) : d.KeepsRegs (d.auditDropped rest) [Reg.secAuditStatus] :=
  fun a ha => Dev.keepsRegs_setFld _ _ _ _ a ha

/-! ## AUDIT_READ (R470) -/

theorem length_wordsOf (n v : Nat) : (wordsOf n v).length = n := by simp [wordsOf]

theorem length_auditHead (n epoch : Nat) (e : AuditEntry) (lost : Nat) : (auditHead n epoch e lost).length = 12 := by simp [auditHead]

/-- The words that AUDIT_READ delivers, before their tag: the key, the nonce, four words and sixteen of each entry. -/
theorem length_exportWords (pair a b c e first : Nat) (l : List (Nat × Nat × AuditEntry × Nat × Nat)) :
    (exportWords pair [a, b, c, e] first l).length = 32 + 16 * l.length := by
  have hentries : (l.flatMap fun e => auditHead e.1 e.2.1 e.2.2.1 e.2.2.2.1 ++ wordsOf 4 e.2.2.2.2).length = 16 * l.length := by
    simp [List.length_flatMap, length_auditHead, length_wordsOf, Nat.mul_comm]
  simp only [exportWords, List.length_append, hentries, List.length_map, List.length_range, List.length_cons, List.length_nil]

/-- The tag of what AUDIT_READ delivers (R470). -/
def Dev.exportTagOf (d : Dev) (pair : Nat) (words : List Nat) : Nat :=
  Config.exportTag pair (Tab.get noList d.nvm.roles 2) d.uidBytes words

theorem Dev.keepsRegs_keyPair (d : Dev) : d.KeepsRegs d.keyPair.2 [Reg.secSelftest] := fun a ha => Dev.keepsRegs_setFld _ _ _ _ a ha

theorem Dev.hif_keyPair (d : Dev) : d.keyPair.2.hif = d.hif := by
  unfold Dev.keyPair
  dsimp only
  rw [Dev.setFld_hif]
  rfl

theorem Dev.out_keyPair (d : Dev) : d.keyPair.2.out = d.out := d.sameRoles_keyPair.out

theorem Dev.nvm_keyPair (d : Dev) : d.keyPair.2.nvm = d.nvm := by
  unfold Dev.keyPair
  dsimp only
  rw [Dev.setFld_nvm]
  rfl

theorem Dev.sec_keyPair (d : Dev) : d.keyPair.2.sec = { d.sec with requests := d.sec.requests + 1 } := by
  unfold Dev.keyPair
  dsimp only
  rw [Dev.setFld_sec]
  rfl

theorem Dev.stk_keyPair (d : Dev) : d.keyPair.2.stk = d.stk := by
  unfold Dev.keyPair
  dsimp only
  rw [Dev.setFld_stk]
  rfl

/-- The words that an AUDIT_READ asks for. -/
def Dev.exportBody (d : Dev) (x : Desc) (pair : Nat) : List Nat :=
  exportWords pair [x.w 7, x.w 8, x.w 9, x.w 10] (x.w 3) (d.auditWanted (x.w 3) (x.w 4 % 2048))

/-- What an AUDIT_READ asks for has been delivered. -/
def Dev.exportShown (d : Dev) (x : Desc) : Dev :=
  d.keyPair.2.emit (.hostWrite x.crew (x.addr 5)
    (d.exportBody x d.keyPair.1 ++ wordsOf 12 (d.exportTagOf d.keyPair.1 (d.exportBody x d.keyPair.1))))

/-- What a delivery leaves, and what it shows. -/
theorem Dev.exportShown_leaves (d : Dev) (x : Desc) :
    d.KeepsRegs (d.exportShown x) [Reg.secSelftest] ∧ (d.exportShown x).nvm = d.nvm ∧
      (d.exportShown x).sec = { d.sec with requests := d.sec.requests + 1 } ∧ (d.exportShown x).nowLo = d.nowLo ∧
      d.Shows (d.exportShown x) (.hostWrite x.crew (x.addr 5)
        (d.exportBody x d.keyPair.1 ++ wordsOf 12 (d.exportTagOf d.keyPair.1 (d.exportBody x d.keyPair.1)))) :=
  ⟨d.keepsRegs_keyPair.emit _, d.nvm_keyPair, d.sec_keyPair, congrArg (fun k => k.stroke % 2 ^ 32) d.stk_keyPair,
    (Dev.Shows.emit _ _).earlier ⟨[], d.out_keyPair⟩⟩

theorem exec_auditRead {s : State} {crew ring : Nat} {x : Desc} (hdue : s.dev.IsDue crew ring 0x67 x) :
    exec (.auditRead crew ring) s = .next { s with
      dev := (((s.dev.taken x).exportShown x).finish x 0 [(s.dev.auditWanted (x.w 3) (x.w 4 % 2048)).length,
        176 + 64 * (s.dev.auditWanted (x.w 3) (x.w 4 % 2048)).length]) } := by
  show execAuditRead crew ring s = _
  rw [execAuditRead, State.onDue_taken _ hdue]
  rfl

theorem Dev.Answers.emit {d : Dev} {x : Desc} (h : d.Answers x) (o : Output) : (d.emit o).Answers x := h.of_same rfl rfl

theorem Dev.Answers.exportShown {d : Dev} {x : Desc} (h : d.Answers x) : (d.exportShown x).Answers x :=
  have hregs (a : Nat) (ha : Reg.secCrewPolicy 0 ≤ a) : d.keyPair.2.reg a = d.reg a := d.keepsRegs_keyPair a fun hm => by
    have heq := List.mem_singleton.mp hm
    unfold Reg.secCrewPolicy at ha
    unfold Reg.secSelftest at heq
    omega
  (h.of_policies d.hif_keyPair hregs).emit _

/-- CREW_SUSPEND joins the suspensions, and its entry the backlog. -/
theorem crewSuspend_joins {s : State} {crew ring : Nat} {x : Desc} (hroom : s.dev.sec.backlog.length < 16)
    (hdue : s.dev.IsDue crew ring 0x68 x) :
    ∃ t e, exec (.crewSuspend crew ring) s = .next t ∧ t.dev.out = s.dev.out ∧
      t.dev.sec.suspends = s.dev.sec.suspends ++ [(x, x.w 3, x.w 4 % 4, false)] ∧
      t.dev.sec.backlog = s.dev.sec.backlog ++ [e] ∧ e.kind = (if x.w 4 % 4 = 0 then 5 else 4) ∧ e.stroke = s.dev.now ∧
      s.dev.KeepsRegs t.dev [Reg.secAuditStatus] := by
  have hroom' : ((s.dev.taken x).suspending x).sec.backlog.length < 16 := hroom
  have hexec := exec_crewSuspend hroom hdue
  rw [Dev.audit_of_room hroom'] at hexec
  refine ⟨_, ⟨(if x.w 4 % 4 = 0 then AuditKind.resume else .suspend).code, s.dev.now, [pack [(x.w 3, 8), (x.w 4 % 4, 0)]]⟩, hexec, ?_, ?_, ?_, ?_, rfl,
    Dev.keepsRegs_setFld _ _ _ _⟩
  · dsimp only
    rw [Dev.setFld_out]
    rfl
  · dsimp only
    rw [Dev.setFld_sec]
    rfl
  · dsimp only
    rw [Dev.setFld_sec]
    rfl
  · dsimp only
    split <;> rfl

theorem exec_auditEntryWrite (s : State) : exec .auditEntryWrite s = .next { s with dev := s.dev.auditWrite } := rfl

/-- The oldest entry of the backlog is written into an erased slot. -/
theorem auditEntryWrite_logs {s : State} {e : AuditEntry} {rest : List AuditEntry} (hb : s.dev.sec.backlog = e :: rest)
    (hheld : s.dev.nvmHeld = false) (herased : s.dev.slotErased (ringSlot 80 16 s.dev.nvm.auditSeq) = true)
    (hworn : 3 ∉ s.dev.nvm.worn) :
    ∃ t, exec .auditEntryWrite s = .next t ∧ t.dev.sec.backlog = rest ∧ t.dev.sec.lostSince = 0 ∧
      t.dev.nvm.audit.head? = some (s.dev.auditRow e) ∧ t.dev.nvm.auditSeq = s.dev.nvm.auditSeq + 1 ∧ t.dev.free = s.dev.free ∧
      s.dev.KeepsRegs t.dev [Reg.secAuditStatus, Reg.secAuditNext, Reg.nvmStatus] := by
  have hexec := exec_auditEntryWrite s
  rw [Dev.auditWrite_of_erased hb hheld herased hworn] at hexec
  have hnvm := Dev.nvm_useSlot_showBusy ((s.dev.auditLogged e rest).auditShown rest s.dev.nvm.auditSeq) 80 16 s.dev.nvm.auditSeq
  rw [Dev.nvm_auditShown] at hnvm
  refine ⟨_, hexec, ?_, ?_, ?_, ?_, ?_, ?_⟩
  · dsimp only
    rw [Dev.sec_useSlot_showBusy, Dev.sec_auditShown]
    rfl
  · dsimp only
    rw [Dev.sec_useSlot_showBusy, Dev.sec_auditShown]
    rfl
  · dsimp only
    rw [hnvm]
    rfl
  · dsimp only
    rw [hnvm]
    rfl
  · dsimp only
    rw [Dev.free_useSlot_showBusy, Dev.free_auditShown]
    rfl
  · have hlogged : s.dev.KeepsRegs (s.dev.auditLogged e rest) [] := fun a _ => Dev.reg_of_regs rfl a
    have hslot (d : Dev) (n : Nat) : d.KeepsRegs (d.useSlot 80 16 n) [] := fun a _ => Dev.reg_of_regs rfl a
    exact ((hlogged.mono (by simp)).trans ((Dev.keepsRegs_auditShown _ _ _).mono (by simp))).trans
      (((hslot _ _).mono (by simp)).trans ((Dev.keepsRegs_showBusy _).mono (by simp)))

/-- In a worn region it is lost, and counted. -/
theorem auditEntryWrite_loses {s : State} {e : AuditEntry} {rest : List AuditEntry} (hb : s.dev.sec.backlog = e :: rest)
    (hworn : 3 ∈ s.dev.nvm.worn) :
    ∃ t, exec .auditEntryWrite s = .next t ∧ t.dev.sec.backlog = rest ∧ t.dev.nvm = s.dev.nvm ∧
      t.dev.fld Reg.nvmLost F.nvmLost_lost = (s.dev.fld Reg.nvmLost F.nvmLost_lost + 1) % 2 ^ F.nvmLost_lost.width ∧
      s.dev.KeepsRegs t.dev [Reg.secAuditStatus, Reg.nvmLost] := by
  have hexec := exec_auditEntryWrite s
  rw [Dev.auditWrite_of_worn hb hworn] at hexec
  refine ⟨_, hexec, ?_, ?_, ?_, ?_⟩
  · dsimp only
    rw [Dev.addFld_sec, Dev.auditDropped, Dev.setFld_sec]
    rfl
  · dsimp only
    rw [Dev.addFld_nvm, Dev.auditDropped, Dev.setFld_nvm]
    rfl
  · dsimp only
    rw [Dev.fld_addFld_same _ _ ⟨by decide, by decide⟩, (s.dev.keepsRegs_auditDropped rest).fld (by decide)]
  · exact ((s.dev.keepsRegs_auditDropped rest).mono (by simp)).trans ((Dev.keepsRegs_addFld _ _ _ _).mono (by simp))

/-- Settles O19, by the four commands' next states. -/
theorem auditAndSuspend : Obligations.AuditAndSuspend := by
  unfold Obligations.AuditAndSuspend
  refine ⟨fun s crew ring x hroom hdue => crewSuspend_joins hroom hdue, fun s e rest hb hheld herased hworn =>
    auditEntryWrite_logs hb hheld herased hworn, fun s e rest hb hworn => auditEntryWrite_loses hb hworn,
    fun s crew ring x l hdue hans hl => ?_⟩
  subst hl
  have hshown : ((s.dev.taken x).exportShown x).Answers x := Dev.Answers.exportShown (d := s.dev.taken x) hans
  obtain ⟨hkeep, hnvm, hsec, hnow, hshows⟩ := (s.dev.taken x).exportShown_leaves x
  refine ⟨_, (s.dev.taken x).keyPair.1, _, exec_auditRead hdue, fun a ha => (Dev.reg_finish _ _ _ _ _).trans (hkeep a ha), rfl, ?_, ?_,
    hshows.later (Dev.finish_out _ _ _ _), length_exportWords _ _ _ _ _ _ _, ?_⟩
  · dsimp only
    rw [Dev.finish_eq]
    exact hnvm
  · exact (Dev.sec_finish _ _ _ _).trans hsec
  · exact (Dev.finish_of_answers _ _ hshown).earlier (hshows.imp fun new h => h.1) hnow

/-! ## A Crew number whose policy word counts the records that the store has lost

Nothing bounds the Crew of an event that waits to be written: of Crew 786177 the address of SEC_CREW_POLICY is that of NVM_LOST. The entry
ORDER_APPLIED that a worn audit log refuses changes NO_SURPLUS of that Crew, and with it the turn in which the entry of the order's descriptor
is written. -/

theorem secCrewPolicy_eq_nvmLost : Reg.secCrewPolicy 786177 = Reg.nvmLost := by decide

/-- A CHANGE_ORDER. -/
def markedDesc : Desc := ⟨0, 0, 0, [0x66 * 2 ^ 24], 0, false, 0, 0, 0, 0⟩

/-- An order of kind RETIRE that has taken effect and waits for its marker. -/
def markedOrder : OrderDyn := ⟨markedDesc, ⟨6, 1, []⟩, 5, false, 0, 0, 0⟩

/-- The ring pair of the order has had its guaranteed share of entries, beside an event of Crew 786177 that has had its own, while the audit
log is worn and the count of NVM_LOST, in that Crew's policy word too, is about to wrap. -/
def markedDev : Dev :=
  { Dev.reset with
    regs := [(Reg.nvmLost, BitVec.ofNat 32 (2 ^ 32 - 1))]
    hif := { Dev.reset.hif with
      rings := [(0, some ⟨1, 0, 0, 0, 1, 0, [0], false, [], none, 0, false⟩)]
      events := [(786177, 1, 0, [], 0)]
      writes := [(0, 121), (786177, 120)] }
    sec := { Dev.reset.sec with order := some markedOrder }
    nvm := { Dev.reset.nvm with worn := [3] } }

def markedState : State := { State.reset with dev := markedDev }

/-- The completion of the order could be written at once: NO_SURPLUS lets the event of the other Crew have no turn. -/
theorem markedDesc_answers : markedDev.Answers markedDesc :=
  ⟨⟨⟨1, 0, 0, 0, 1, 0, [0], false, [], none, 0, false⟩, by decide, by decide, by decide⟩, by decide, by decide +kernel⟩

/-- After the lost entry is counted the event's turn comes first, and the completion waits. -/
theorem out_orderMarkerWritten_aliased : shownAfter (exec .orderMarkerWritten markedState) = some [] := by decide +kernel

/-- Refutes O17: the lost audit entry of an order's marker is counted in what can be the policy word of a Crew whose event waits, and the
completion of the order, which could be written at once before, then waits for a later Stroke. No Crew from 0 to 16 has such a policy word. -/
theorem not_changeOrders : ¬ Obligations.ChangeOrders := by
  rintro ⟨-, -, -, hmarker⟩
  obtain ⟨t, ht, -, -, hcompletes⟩ := hmarker markedState markedOrder rfl rfl (by decide +kernel) markedDesc_answers
  have hout := out_orderMarkerWritten_aliased
  rw [ht] at hout
  exact hcompletes.out_ne_nil (Option.some.inj hout)

end Sys2Proof.Machine
end

section
/-! PROOFS. Marks of the record log, check-value units, the replay bench and the performance counters (R475–R479, R515–R517, R526–R529).
Settles O22, O48, O49. -/

namespace Sys2Proof.Machine

/-! ## A mark whose record changes a Crew's policy word (R526, R451)

The SEQ of the record log of Crew 0 is the policy word of Crew 1310529 too: see `secCrewPolicy_eq_rplLogSeq`. -/

/-- An RPL_MARK. -/
def aliasedMark : Desc := ⟨0, 0, 0, [0x84 * 2 ^ 24, 0, 0, 1, 2, 3, 4], 0, false, 0, 0, 0, 0⟩

/-- The device of `aliasedDev`, with an RPL_MARK due in place of the FENCE_SIGNAL. -/
def markDev : Dev := { aliasedDev with hif := { aliasedDev.hif with due := [aliasedMark] } }

def markState : State := { State.reset with dev := markDev }

theorem aliasedMark_isDue : markDev.IsDue 0 0 0x84 aliasedMark := ⟨by decide, by decide⟩

theorem aliasedMark_answers : markDev.Answers aliasedMark :=
  ⟨⟨⟨1, 0, 0, 0, 1, 0, [0], false, [], none, 0, false⟩, by decide, by decide, by decide⟩, by decide, by decide +kernel⟩

/-- After the record of the mark the waiting event's turn comes first, and the entry waits. -/
theorem out_rplMark_aliased : shownAfter (exec (.rplMark 0 0) markState) = some [] := by decide +kernel

/-- Refutes O22: the record of an RPL_MARK moves RPL_LOG_SEQ, which can be the policy word of a Crew whose event waits, and the completion of
the mark, which could be written at once before, then waits for a later Stroke. No Crew from 0 to 16 has such a policy word. -/
theorem not_marksLogsAndLoads : ¬ Obligations.MarksLogsAndLoads := by
  rintro ⟨hmark, -⟩
  obtain ⟨t, r, ht, hcompletes, -⟩ := hmark markState 0 0 aliasedMark aliasedMark_isDue aliasedMark_answers
  have hout := out_rplMark_aliased
  rw [ht] at hout
  exact hcompletes.out_ne_nil (Option.some.inj hout)

/-! ## Check-value units (R475–R479) -/

theorem Dev.chkUnit_onChk_same (d : Dev) (u : Nat) (f : ChkDyn → ChkDyn) : (d.onChk u f).chkUnit u = f (d.chkUnit u) :=
  Tab.get_upd_same _ _ _

theorem Dev.chkUnit_onChk_other (d : Dev) {u v : Nat} (f : ChkDyn → ChkDyn) (h : v ≠ u) : (d.onChk u f).chkUnit v = d.chkUnit v :=
  Tab.get_upd_other _ _ h

theorem Dev.flag_emit (d : Dev) (o : Output) (a : Nat) (f : Fld) : (d.emit o).flag a f = d.flag a f := rfl

theorem Dev.chkUnit_emit (d : Dev) (o : Output) (u : Nat) : (d.emit o).chkUnit u = d.chkUnit u := rfl

/-- Nothing changes but registers and the check-value units beside them. -/
def Dev.ChkAlone (d e : Dev) : Prop := e = { d with regs := e.regs, chk := e.chk }

theorem Dev.ChkAlone.showsOnly {d e : Dev} (h : d.ChkAlone e) (o : Output) : d.ShowsOnly (e.emit o) o := by
  unfold Dev.ChkAlone at h
  rw [h]
  rfl

theorem Dev.ChkAlone.emitted {s : State} {e : Dev} (h : s.dev.ChkAlone e) (o : Output) :
    ({ s with dev := e.emit o } : State) = { s with
      dev := { s.dev with regs := (e.emit o).regs, chk := (e.emit o).chk, out := (e.emit o).out } } := by
  unfold Dev.ChkAlone at h
  rw [h]
  rfl

theorem Dev.chkUnit_showChkQueue (d : Dev) (u v : Nat) : (d.showChkQueue u).chkUnit v = d.chkUnit v := by
  unfold Dev.showChkQueue Dev.chkUnit
  dsimp only
  rw [Dev.setFld_chk, Dev.setFld_chk]

theorem Dev.regsAlone_showChkQueue (d : Dev) (u : Nat) : d.RegsAlone (d.showChkQueue u) := (d.regsAlone_setFld _ _ _).setFld _ _ _

theorem Dev.keepsRegs_showChkQueue (d : Dev) (u : Nat) : d.KeepsRegs (d.showChkQueue u) [Reg.chkStatus u] :=
  (d.keepsRegs_setFld _ _ _).trans (Dev.keepsRegs_setFld _ _ _ _)

theorem Dev.busy_showChkQueue (d : Dev) (u : Nat) :
    (d.showChkQueue u).flag (Reg.chkStatus u) F.chkStatus_busy = decide (0 < (d.chkUnit u).queue.length) := by
  unfold Dev.showChkQueue
  dsimp only
  rw [Dev.flag_setFld_field _ _ ⟨by decide, by decide⟩ (by decide), Dev.flag_setFld_same _ _ ⟨by decide, by decide⟩ rfl]
  cases decide (0 < (d.chkUnit u).queue.length) <;> rfl

theorem Dev.queue_showChkQueue (d : Dev) {u : Nat} (h : (d.chkUnit u).queue.length < 32) :
    (d.showChkQueue u).fld (Reg.chkStatus u) F.chkStatus_queue = (d.chkUnit u).queue.length :=
  (Dev.fld_setFld_same _ _ ⟨by decide, by decide⟩ _).trans (Nat.mod_eq_of_lt h)

/-- A write that joins a queue with room. -/
def Dev.chkQueued (d : Dev) (u off n v : Nat) : Dev := d.onChk u fun x => { x with queue := x.queue ++ [(off, n, v)] }

theorem Dev.chkPut_of_room {d : Dev} {fn u off : Nat} (n v : Nat) (hw : d.mayWrite fn (Reg.chkCfg u + off) = true)
    (h : (d.chkUnit u).queue.length < 16) : d.chkPut fn u off n v = (d.chkQueued u off n v).showChkQueue u := by
  unfold Dev.chkPut
  rw [if_neg (by simp [hw])]
  cases hq : (d.chkUnit u).queue with
  | nil => rfl
  | cons p rest =>
    dsimp only
    rw [if_neg (by rw [hq, List.length_cons] at h; omega)]
    rfl

/-- A write of a check-value unit waits in the unit's queue. -/
theorem Dev.chkQueued_shows (d : Dev) {u : Nat} (off n v : Nat) (h : (d.chkUnit u).queue.length < 16) :
    let t := (d.chkQueued u off n v).showChkQueue u
    (t.chkUnit u).queue = (d.chkUnit u).queue ++ [(off, n, v)] ∧ (t.chkUnit u).crc = (d.chkUnit u).crc ∧
      (∀ k, k ≠ u → t.chkUnit k = d.chkUnit k) ∧ t.flag (Reg.chkStatus u) F.chkStatus_busy = true ∧
      t.fld (Reg.chkStatus u) F.chkStatus_queue = (d.chkUnit u).queue.length + 1 ∧ d.KeepsRegs t [Reg.chkStatus u] ∧
      d.ChkAlone t := by
  have hunit : (d.chkQueued u off n v).chkUnit u = { d.chkUnit u with queue := (d.chkUnit u).queue ++ [(off, n, v)] } :=
    Dev.chkUnit_onChk_same _ _ _
  have hlen : ((d.chkQueued u off n v).chkUnit u).queue.length = (d.chkUnit u).queue.length + 1 := by rw [hunit, List.length_append]; rfl
  refine ⟨?_, ?_, fun k hk => ?_, ?_, ?_, ?_, ?_⟩
  · rw [Dev.chkUnit_showChkQueue, hunit]
  · rw [Dev.chkUnit_showChkQueue, hunit]
  · rw [Dev.chkUnit_showChkQueue, Dev.chkQueued, Dev.chkUnit_onChk_other _ _ hk]
  · rw [Dev.busy_showChkQueue, hlen]
    simp
  · rw [Dev.queue_showChkQueue _ (by omega), hlen]
  · exact fun a ha => (Dev.keepsRegs_showChkQueue _ _ a ha).trans (Dev.reg_of_regs rfl a)
  · exact Dev.regsAlone_showChkQueue _ _

/-- The commands that write a check-value unit. -/
theorem exec_chkWrite {s : State} {fn unit off n v : Nat} {c : Instr} (hu : unit < 32)
    (hc : (c, off, n) ∈ [(Instr.chkCfgWrite fn unit 0x00 v, 0x00, 4), (.chkCfgWrite fn unit 0x04 v, 0x04, 4),
      (.chkCfgWrite fn unit 0x08 v, 0x08, 4), (.chkCfgWrite fn unit 0x0C v, 0x0C, 4), (.chkFoldWrite fn unit v, 0x10, 4),
      (.chkDataWrite fn unit 1 v, 0x14, 1), (.chkDataWrite fn unit 2 v, 0x18, 2), (.chkDataWrite fn unit 4 v, 0x1C, 4)]) :
    exec c s = .next { s with dev := s.dev.chkPut fn unit off n v } := by
  have hcfg (r : Nat) (hr : r ∈ [0x00, 0x04, 0x08, 0x0C]) :
      exec (.chkCfgWrite fn unit r v) s = .next { s with dev := s.dev.chkPut fn unit r 4 v } := by
    show execChkCfgWrite fn unit r v s = _
    rw [execChkCfgWrite, State.lift_eq, if_pos ⟨hr, hu⟩]
  have hfold : exec (.chkFoldWrite fn unit v) s = .next { s with dev := s.dev.chkPut fn unit 0x10 4 v } := by
    show execChkFoldWrite fn unit v s = _
    rw [execChkFoldWrite, State.lift_eq, if_pos hu]
  have hdata (k : Nat) : exec (.chkDataWrite fn unit k v) s = .next { s with dev := (match k with
      | 1 => s.dev.chkPut fn unit 0x14 1 v
      | 2 => s.dev.chkPut fn unit 0x18 2 v
      | 4 => s.dev.chkPut fn unit 0x1C 4 v
      | _ => s.dev) } := by
    show execChkDataWrite fn unit k v s = _
    rw [execChkDataWrite, State.lift_eq, if_neg (Nat.not_le.mpr hu)] <;> rfl
  simp only [List.mem_cons, Prod.mk.injEq, List.not_mem_nil, or_false] at hc
  obtain ⟨rfl, rfl, rfl⟩ | ⟨rfl, rfl, rfl⟩ | ⟨rfl, rfl, rfl⟩ | ⟨rfl, rfl, rfl⟩ | ⟨rfl, rfl, rfl⟩ | ⟨rfl, rfl, rfl⟩ | ⟨rfl, rfl, rfl⟩ |
    ⟨rfl, rfl, rfl⟩ := hc
  · exact hcfg _ (by decide)
  · exact hcfg _ (by decide)
  · exact hcfg _ (by decide)
  · exact hcfg _ (by decide)
  · exact hfold
  · exact hdata 1
  · exact hdata 2
  · exact hdata 4

/-! ## CHK_RESULT (R476, R479) -/

/-- The settings of a unit, by the registers that hold them. -/
theorem Dev.chkSpec_of_regs {d e : Dev} (u : Nat) (h : ∀ a ∈ [Reg.chkCfg u, Reg.chkPoly u, Reg.chkInit u, Reg.chkXorout u], e.reg a = d.reg a) :
    e.chkSpec u = d.chkSpec u := by
  simp only [List.forall_mem_cons, List.not_mem_nil, false_implies, implies_true, and_true] at h
  obtain ⟨hcfg, hpoly, hinit, hxorout⟩ := h
  unfold Dev.chkSpec Dev.flag Dev.fld
  dsimp only
  rw [hcfg, hpoly, hinit, hxorout]

/-- CHK_RESULT is a register of its own, neither write-only nor staged. -/
theorem fields_chkResult : ∀ u < 32, (regClass? (Reg.chkResult u)).map (fun p =>
    (p.1.perFn, p.1.maskOf (· == .wo), p.1.maskOf (· == .rc))) = some (false, 0, 0) := by decide +kernel

theorem and_full (w : Word) : w &&& 4294967295#32 = w := BitVec.and_allOnes

theorem Dev.plainRead_chkResult (d : Dev) (fn : Nat) {u : Nat} (hu : u < 32) : d.plainRead fn (Reg.chkResult u) = d.reg (Reg.chkResult u) := by
  obtain ⟨⟨c, ix⟩, hclass, hfields⟩ := Option.map_eq_some_iff.mp (fields_chkResult u hu)
  obtain ⟨hfn, hwo, hrc⟩ : c.perFn = false ∧ c.maskOf (· == .wo) = 0 ∧ c.maskOf (· == .rc) = 0 := by simpa using hfields
  have hmask : rcMask (Reg.chkResult u) = 0 := by rw [rcMask_of_regClass hclass, hrc]; rfl
  have hstaged : d.stagedReg fn (Reg.chkResult u) = d.reg (Reg.chkResult u) := by
    unfold Dev.stagedReg
    split
    · rfl
    · rw [hmask, mergeWord]
      simp [and_full]
  unfold Dev.plainRead
  rw [hclass]
  dsimp only
  rw [hfn, hwo, if_neg Bool.false_ne_true, hstaged]
  simp [and_full]

section
variable (d : Dev) (u v : Nat)

/-- A unit with its one queued data write taken in. -/
def Dev.chkFed : Dev := (d.onChk u fun x => { x with queue := [] }).chkFeed u 4 v

theorem Dev.reg_chkFed (a : Nat) : (d.chkFed u v).reg a = d.reg a := rfl

theorem Dev.chkUnit_chkFed : (d.chkFed u v).chkUnit u =
    { crc := [v % 256, v / 256 % 256, v / 65536 % 256, v / 16777216 % 256].foldl (d.chkSpec u).byteIn (d.chkUnit u).crc
      count := ((d.chkUnit u).count + 4) % 2 ^ 32, queue := [] } := by
  unfold Dev.chkFed Dev.chkFeed
  dsimp only
  rw [Dev.chkUnit_onChk_same, Dev.chkUnit_onChk_same]
  rfl

theorem Dev.chkDrain_of_data (h : (d.chkUnit u).queue = [(0x1C, 4, v)]) :
    d.chkDrain u = ((d.chkFed u v).showChk u).showChkQueue u := by
  unfold Dev.chkDrain
  rw [h]
  rfl

theorem Dev.chkUnit_showChk (w : Nat) : (d.showChk u).chkUnit w = d.chkUnit w := by
  unfold Dev.showChk Dev.chkUnit
  dsimp only
  rw [Dev.setReg_chk, Dev.setReg_chk]

theorem Dev.regsAlone_showChk : d.RegsAlone (d.showChk u) := (d.regsAlone_setReg _ _).trans (Dev.regsAlone_setReg _ _ _)

theorem Dev.reg_chkResult_showChk :
    (d.showChk u).reg (Reg.chkResult u) = BitVec.ofNat 32 ((d.chkSpec u).result (d.chkUnit u).crc) := by
  unfold Dev.showChk
  dsimp only
  rw [Dev.reg_setReg_other _ _ (by unfold Reg.chkResult Reg.chkCount; omega), Dev.reg_setReg_same]
end

/-- A read of CHK_RESULT once the unit's writes have taken effect. -/
theorem exec_chkResultRead {s : State} {fn unit : Nat} (hu : unit < 32) (hsees : s.dev.sees fn (Reg.chkResult unit) = true)
    (hbar : ¬(fn = 0 ∧ s.dev.houseBarred (Reg.chkResult unit) = true)) :
    exec (.chkResultRead fn unit 0x20) s = .next { s with
      dev := ((s.dev.chkDrain unit).emit
        (.read fn (Reg.chkResult unit) ((s.dev.chkDrain unit).plainRead fn (Reg.chkResult unit)).toNat)) } := by
  have haddr : Reg.chkCfg unit + 0x20 = Reg.chkResult unit := by unfold Reg.chkCfg Reg.chkResult; omega
  show execChkResultRead fn unit 0x20 s = _
  rw [execChkResultRead, State.lift_eq]
  dsimp only
  rw [haddr, if_neg (by simpa [hsees, Nat.not_le.mpr hu] using hbar), if_neg (by decide)]

/-- What a read of CHK_RESULT after one data write returns, and leaves. -/
theorem Dev.chkResult_read (d : Dev) {unit : Nat} (fn v : Nat) (hu : unit < 32) (hq : (d.chkUnit unit).queue = [(0x1C, 4, v)]) :
    let t := d.chkDrain unit
    (t.chkUnit unit).crc = [v % 256, v / 256 % 256, v / 65536 % 256, v / 16777216 % 256].foldl (d.chkSpec unit).byteIn (d.chkUnit unit).crc ∧
      (t.chkUnit unit).queue = [] ∧ t.flag (Reg.chkStatus unit) F.chkStatus_busy = false ∧
      (t.plainRead fn (Reg.chkResult unit)).toNat = (d.chkSpec unit).result (t.chkUnit unit).crc % 2 ^ 32 ∧
      d.ChkAlone t := by
  have hunit : (d.chkDrain unit).chkUnit unit = (d.chkFed unit v).chkUnit unit := by
    rw [d.chkDrain_of_data unit v hq, Dev.chkUnit_showChkQueue, Dev.chkUnit_showChk]
  have hspec : (d.chkFed unit v).chkSpec unit = d.chkSpec unit := Dev.chkSpec_of_regs _ fun a _ => d.reg_chkFed unit v a
  refine ⟨?_, ?_, ?_, ?_, ?_⟩
  · rw [hunit, Dev.chkUnit_chkFed]
  · rw [hunit, Dev.chkUnit_chkFed]
  · rw [d.chkDrain_of_data unit v hq, Dev.busy_showChkQueue, Dev.chkUnit_showChk, Dev.chkUnit_chkFed]
    rfl
  · rw [Dev.plainRead_chkResult _ _ hu, hunit, d.chkDrain_of_data unit v hq, Dev.keepsRegs_showChkQueue _ _ _ (by
      unfold Reg.chkResult Reg.chkStatus
      simp), Dev.reg_chkResult_showChk, hspec, BitVec.toNat_ofNat]
  · rw [d.chkDrain_of_data unit v hq]
    exact ((Dev.regsAlone_showChk _ _).trans (Dev.regsAlone_showChkQueue _ _))

/-! ## The replay bench (R527) -/

/-- RPL_CTL as a write of it that changes REPLAY leaves it before the change. -/
def Dev.paceTaken (d : Dev) (w : Word) : Dev :=
  (if F.rplCtl_refused.get w = 1 then d.setFld Reg.rplCtl F.rplCtl_refused 0 else d).setFld Reg.rplCtl F.rplCtl_pace (F.rplCtl_pace.get w)

/-- A read after a field write that may not come about. -/
theorem Dev.keepsRegs_paceTaken (d : Dev) (w : Word) : d.KeepsRegs (d.paceTaken w) [Reg.rplCtl] := by
  unfold Dev.paceTaken
  split
  · exact (d.keepsRegs_setFld _ _ _).trans (Dev.keepsRegs_setFld _ _ _ _)
  · exact d.keepsRegs_setFld _ _ _

theorem Dev.regsAlone_paceTaken (d : Dev) (w : Word) : d.RegsAlone (d.paceTaken w) := by
  unfold Dev.paceTaken
  split
  · exact (d.regsAlone_setFld _ _ _).setFld _ _ _
  · exact d.regsAlone_setFld _ _ _

theorem Dev.pace_paceTaken (d : Dev) (w : Word) :
    (d.paceTaken w).flag Reg.rplCtl F.rplCtl_pace = decide (F.rplCtl_pace.get w = 1) := by
  rw [Dev.paceTaken, Dev.flag_setFld_same _ _ ⟨by decide, by decide⟩ rfl]
  have hlt : F.rplCtl_pace.get w < 2 := Fld.get_lt _ _
  simp [Nat.mod_eq_of_lt hlt]

theorem Dev.replay_paceTaken (d : Dev) (w : Word) :
    (d.paceTaken w).fld Reg.rplCtl F.rplCtl_replay = d.fld Reg.rplCtl F.rplCtl_replay := by
  unfold Dev.paceTaken
  split
  · rw [Dev.fld_setFld_field _ _ ⟨by decide, by decide⟩ (by decide), Dev.fld_setFld_field _ _ ⟨by decide, by decide⟩ (by decide)]
  · rw [Dev.fld_setFld_field _ _ ⟨by decide, by decide⟩ (by decide)]

theorem Dev.benchIdle_of_keepsRegs {d e : Dev} {l : List Nat} (h : d.KeepsRegs e l) (hstk : Reg.stkStatus ∉ l)
    (hgroups : ∀ p < 16, Reg.portGroupCfg p ∉ l) : e.benchIdle = d.benchIdle := by
  have hlive : e.live = d.live := h.flag hstk _
  have hall : ((List.range 16).all fun p => !e.flag (Reg.portGroupCfg p) F.portGroupCfg_enable) =
      (List.range 16).all fun p => !d.flag (Reg.portGroupCfg p) F.portGroupCfg_enable := by
    rw [Bool.eq_iff_iff, List.all_eq_true, List.all_eq_true]
    exact forall₂_congr fun p hp => by rw [h.flag (hgroups p (List.mem_range.mp hp))]
  unfold Dev.benchIdle
  rw [hlive, hall]

theorem Dev.regsAlone_showReplay (d : Dev) : d.RegsAlone d.showReplay := d.regsAlone_setFld _ _ _

theorem Dev.keepsRegs_showReplay (d : Dev) : d.KeepsRegs d.showReplay [Reg.rplStatus] := d.keepsRegs_setFld _ _ _

/-- REPLAY is shown, and SYNC FREE. -/
def Dev.replayFree (d : Dev) : Dev := (d.setFld Reg.rplCtl F.rplCtl_replay 1).setSync .free

/-- The bench begins at a Stroke. -/
def Dev.fromStroke (d : Dev) (t : Nat) : Dev :=
  { d with stk := { d.stk with stroke := t, phase := 0 }, rpl := { d.rpl with fed := 0 } }

theorem Dev.out_fromStroke (d : Dev) (t : Nat) : (d.fromStroke t).out = d.out := rfl

theorem Dev.keepsRegs_fromStroke (d : Dev) (t : Nat) (l : List Nat) : d.KeepsRegs (d.fromStroke t) l := fun _ _ => rfl

theorem Dev.stk_fromStroke (d : Dev) (t : Nat) : (d.fromStroke t).stk = { d.stk with stroke := t, phase := 0 } := rfl

/-- RPL_START. -/
def Dev.replayStart (d : Dev) : Nat := (d.reg Reg.rplStartLo).toNat + (d.reg Reg.rplStartHi).toNat * 2 ^ 32

/-- REPLAY mode is entered: SYNC is FREE and the Stroke is RPL_START. -/
def Dev.replayEntered (d : Dev) : Dev := (d.replayFree.fromStroke d.replayFree.replayStart).showReplay

/-- REPLAY mode is left. -/
def Dev.replayLeft (d : Dev) : Dev := (d.setFld Reg.rplCtl F.rplCtl_replay 0).showReplay

/-- A write of RPL_CTL that changes REPLAY, by whether the bench is idle. -/
theorem exec_rplCtlWrite {s : State} {fn value : Nat} (hw : s.dev.mayWrite fn Reg.rplCtl = true)
    (hr : F.rplCtl_replay.get (BitVec.ofNat 32 value) ≠ s.dev.fld Reg.rplCtl F.rplCtl_replay) :
    exec (.rplCtlWrite fn value) s = .next { s with
      dev := (let d := s.dev.paceTaken (BitVec.ofNat 32 value)
        if (!s.dev.benchIdle) = true then d.setFld Reg.rplCtl F.rplCtl_refused 1
        else if F.rplCtl_replay.get (BitVec.ofNat 32 value) = 1 then d.replayEntered else d.replayLeft) } := by
  have hidle : (s.dev.paceTaken (BitVec.ofNat 32 value)).benchIdle = s.dev.benchIdle :=
    Dev.benchIdle_of_keepsRegs (s.dev.keepsRegs_paceTaken _) (by decide) (fun p _ => by unfold Reg.portGroupCfg Reg.rplCtl; simp; omega)
  have hchanges := hr
  rw [← s.dev.replay_paceTaken (BitVec.ofNat 32 value)] at hchanges
  show execRplCtlWrite fn value s = _
  rw [execRplCtlWrite, State.lift_eq, Dev.rplCtlWrite, if_neg (by simp [hw])]
  unfold Dev.paceTaken at hidle hchanges ⊢
  unfold Dev.replayEntered Dev.fromStroke Dev.replayStart Dev.replayFree Dev.replayLeft
  dsimp only
  rw [if_neg hchanges, hidle]

section
variable (d : Dev)

theorem Dev.replayLeft_shows : d.replayLeft.fld Reg.rplCtl F.rplCtl_replay = 0 ∧
    d.replayLeft.flag Reg.rplCtl F.rplCtl_pace = d.flag Reg.rplCtl F.rplCtl_pace ∧ d.replayLeft.stk = d.stk ∧ d.replayLeft.out = d.out := by
  have hkeep : (d.setFld Reg.rplCtl F.rplCtl_replay 0).KeepsRegs d.replayLeft [Reg.rplStatus] := Dev.keepsRegs_showReplay _
  have halone : d.RegsAlone d.replayLeft := (d.regsAlone_setFld _ _ _).trans (Dev.regsAlone_showReplay _)
  refine ⟨?_, ?_, by rw [halone], by rw [halone]⟩
  · rw [hkeep.fld (by decide), Dev.fld_setFld_same _ _ ⟨by decide, by decide⟩]
    rfl
  · rw [hkeep.flag (by decide), Dev.flag_setFld_field _ _ ⟨by decide, by decide⟩ (by decide)]

theorem Dev.keepsRegs_setSync (v : Sync) : d.KeepsRegs (d.setSync v) [Reg.stkStatus, Reg.timeStatus] :=
  ((d.keepsRegs_setFld _ _ _).mono (by simp)).trans ((Dev.keepsRegs_setFld _ _ _ _).mono (by simp))

theorem Dev.sync_setSync_free : (d.setSync .free).sync = 0 := by
  unfold Dev.setSync Dev.sync
  rw [Dev.fld_setFld_other _ _ _ _ (by decide), Dev.fld_setFld_same _ _ ⟨by decide, by decide⟩]
  rfl

theorem Dev.replayEntered_shows : d.replayEntered.fld Reg.rplCtl F.rplCtl_replay = 1 ∧
    d.replayEntered.flag Reg.rplCtl F.rplCtl_pace = d.flag Reg.rplCtl F.rplCtl_pace ∧ d.replayEntered.sync = 0 ∧
    d.replayEntered.stk.phase = 0 ∧
    d.replayEntered.now = (d.reg Reg.rplStartLo).toNat + (d.reg Reg.rplStartHi).toNat * 2 ^ 32 ∧ d.replayEntered.out = d.out := by
  have hfree : (d.setFld Reg.rplCtl F.rplCtl_replay 1).KeepsRegs d.replayFree [Reg.stkStatus, Reg.timeStatus] := Dev.keepsRegs_setSync _ _
  have hkeep : d.replayFree.KeepsRegs d.replayEntered [Reg.rplStatus] := 
    (Dev.keepsRegs_fromStroke _ _ _).trans (Dev.keepsRegs_showReplay _)
  have hstart (a : Nat) (ha : a ∉ [Reg.stkStatus, Reg.timeStatus] ∧ a ≠ Reg.rplCtl) : d.replayFree.reg a = d.reg a := by
    rw [hfree a ha.1, Dev.reg_setFld_other _ _ _ ha.2]
  have halone : (d.replayFree.fromStroke d.replayFree.replayStart).RegsAlone d.replayEntered := Dev.regsAlone_showReplay _
  have hstk : d.replayEntered.stk = { d.replayFree.stk with stroke := d.replayFree.replayStart, phase := 0 } := by
    rw [halone]
    dsimp only
    rw [Dev.stk_fromStroke]
  refine ⟨?_, ?_, ?_, ?_, ?_, ?_⟩
  · rw [hkeep.fld (by decide), hfree.fld (by decide), Dev.fld_setFld_same _ _ ⟨by decide, by decide⟩]
    rfl
  · rw [hkeep.flag (by decide), hfree.flag (by decide), Dev.flag_setFld_field _ _ ⟨by decide, by decide⟩ (by decide)]
  · exact (hkeep.fld (by decide) _).trans (Dev.sync_setSync_free _)
  · rw [hstk]
  · rw [Dev.now, hstk]
    dsimp only
    rw [Dev.replayStart, hstart _ (by decide), hstart _ (by decide)]
  · have hout : d.replayFree.out = d.out := by rw [Dev.replayFree, Dev.setSync, Dev.setFld_out, Dev.setFld_out, Dev.setFld_out]
    rw [halone]
    dsimp only
    rw [Dev.out_fromStroke, hout]
end

/-! ## RPL_STEP (R527) -/

/-- PENDING takes the boundaries added to it, up to its largest value. -/
def Dev.stepsAdded (d : Dev) (n : Nat) : Dev := (d.satFld Reg.rplStatus F.rplStatus_pending n).showReplay

theorem Dev.pending_stepsAdded (d : Dev) (n : Nat) : (d.stepsAdded n).fld Reg.rplStatus F.rplStatus_pending =
    min 255 (d.fld Reg.rplStatus F.rplStatus_pending + n) := by
  rw [Dev.stepsAdded, Dev.showReplay, Dev.fld_setFld_field _ _ ⟨by decide, by decide⟩ (by decide), Dev.satFld,
    Dev.fld_setFld_same _ _ ⟨by decide, by decide⟩]
  exact Nat.mod_eq_of_lt (lt_of_le_of_lt (min_le_left _ _) (by decide))

/-- Settles O49: writes of a unit wait, its result comes of them all, and RPL_CTL and RPL_STEP write what the bench shows. -/
theorem checksAndBench : Obligations.ChecksAndBench := by
  unfold Obligations.ChecksAndBench
  refine ⟨⟨fun s fn unit off n v c hu hw hq hc => ?_, fun s fn unit v hu hsees hbar hq => ?_⟩,
    fun s fn value hw hr => ?_, fun s fn value hw => ?_⟩
  · have hexec := exec_chkWrite (s := s) hu hc
    rw [Dev.chkPut_of_room n v hw hq] at hexec
    obtain ⟨hqueue, hcrc, hothers, hbusy, hlen, hkeep, halone⟩ := s.dev.chkQueued_shows off n v hq
    exact ⟨_, hexec, hqueue, hcrc, hothers, hbusy, hlen, hkeep, congrArg (fun d => { s with dev := d }) halone⟩
  · obtain ⟨hcrc, hqueue, hbusy, hread, halone⟩ := s.dev.chkResult_read fn v hu hq
    have hexec := exec_chkResultRead hu hsees hbar
    rw [hread] at hexec
    refine ⟨_, hexec, ?_, ?_, ?_, ?_, halone.emitted _⟩
    · rw [Dev.chkUnit_emit, hcrc]
    · rw [Dev.chkUnit_emit, hqueue]
    · rw [Dev.flag_emit, hbusy]
    · rw [Dev.chkUnit_emit]
      exact halone.showsOnly _
  · have hexec := exec_rplCtlWrite hw hr
    dsimp only at hexec
    generalize hpace : s.dev.paceTaken (BitVec.ofNat 32 value) = d at hexec
    have hd : s.dev.RegsAlone d := hpace ▸ s.dev.regsAlone_paceTaken _
    have hkeep : s.dev.KeepsRegs d [Reg.rplCtl] := hpace ▸ s.dev.keepsRegs_paceTaken _
    have hp : d.flag Reg.rplCtl F.rplCtl_pace = decide (F.rplCtl_pace.get (BitVec.ofNat 32 value) = 1) := hpace ▸ s.dev.pace_paceTaken _
    have hout : d.out = s.dev.out := by rw [hd]
    cases hidle : s.dev.benchIdle with
    | false =>
      rw [hidle, if_pos (by decide)] at hexec
      refine ⟨_, hexec, ?_, rfl, ?_, ?_⟩
      · dsimp only
        rw [Dev.setFld_out, hout]
      · dsimp only
        rw [Dev.flag_setFld_field _ _ ⟨by decide, by decide⟩ (by decide), hp]
      · rw [if_neg Bool.false_ne_true]
        refine ⟨?_, ?_, Dev.RegsAlone.state (hd.setFld _ _ _), hkeep.trans (Dev.keepsRegs_setFld _ _ _ _)⟩
        · dsimp only
          rw [Dev.flag_setFld_same _ _ ⟨by decide, by decide⟩ rfl]
          rfl
        · dsimp only
          rw [Dev.fld_setFld_field _ _ ⟨by decide, by decide⟩ (by decide), ← hpace, Dev.replay_paceTaken]
    | true =>
      have hstart (a : Nat) (ha : a ∉ [Reg.rplCtl]) := hkeep a ha
      have hstk : d.stk = s.dev.stk := by rw [hd]
      have hbit : F.rplCtl_replay.get (BitVec.ofNat 32 value) < 2 := Fld.get_lt _ _
      rw [hidle, if_neg (by decide)] at hexec
      by_cases h1 : F.rplCtl_replay.get (BitVec.ofNat 32 value) = 1
      · rw [if_pos h1] at hexec
        obtain ⟨hreplay, hpaced, hsync, hphase, hnow, ho⟩ := d.replayEntered_shows
        refine ⟨_, hexec, ho.trans hout, rfl, hpaced.trans hp, ?_⟩
        rw [if_pos rfl]
        refine ⟨hreplay.trans h1.symm, fun _ => ⟨hsync, hphase, ?_⟩, fun h0 => absurd (h0.symm.trans h1) (by decide)⟩
        dsimp only
        rw [hnow, hstart _ (by decide), hstart _ (by decide)]
      · rw [if_neg h1] at hexec
        obtain ⟨hreplay, hpaced, hleft, ho⟩ := d.replayLeft_shows
        refine ⟨_, hexec, ho.trans hout, rfl, hpaced.trans hp, ?_⟩
        rw [if_pos rfl]
        exact ⟨hreplay.trans (by omega), fun h => absurd h h1, fun _ => hleft.trans hstk⟩
  · have hexec : exec (.rplStepWrite fn value) s = .next { s with dev := s.dev.stepsAdded (value % 65536) } := by
      show execRplStepWrite fn value s = _
      rw [execRplStepWrite, State.lift_eq, Dev.rplStepWrite, if_neg (by simp [hw])]
      rfl
    refine ⟨_, hexec, ⟨?_, ?_⟩, s.dev.pending_stepsAdded _⟩
    · exact Dev.RegsAlone.state ((s.dev.regsAlone_setFld _ _ _).trans (Dev.regsAlone_showReplay _))
    · exact (s.dev.keepsRegs_setFld _ _ _).trans (Dev.keepsRegs_showReplay _)

end Sys2Proof.Machine
end

section
/-! PROOFS. The performance counters (R515–R517, R529). Settles O48. -/

namespace Sys2Proof.Machine

/-- A counter's value, and the value that a shared counter shows. -/
def Dev.pmuCounted (d : Dev) (k : Nat) : Nat := Tab.get zero d.pmu.counts k

def Dev.pmuShown (d : Dev) (k : Nat) : Nat := Tab.get zero d.pmu.shown k

/-- Nothing changes but registers and counters. -/
def Dev.PmuAlone (d e : Dev) : Prop := e = { d with regs := e.regs, pmu := e.pmu }

theorem Dev.PmuAlone.trans {d e t : Dev} (h : d.PmuAlone e) (h' : e.PmuAlone t) : d.PmuAlone t := by
  unfold Dev.PmuAlone at h h' ⊢
  rw [h', h]

theorem Dev.RegsAlone.pmuAlone {d e : Dev} (h : d.RegsAlone e) : d.PmuAlone e := by
  unfold Dev.RegsAlone at h
  unfold Dev.PmuAlone
  rw [h]

theorem Dev.PmuAlone.state {s : State} {e : Dev} (h : s.dev.PmuAlone e) :
    ({ s with dev := e } : State) = { s with dev := { s.dev with regs := e.regs, pmu := e.pmu } } := congrArg (fun d => { s with dev := d }) h

/-! ## Clearing (R515, R517) -/

section
variable (d : Dev) (bank j : Nat)

theorem Dev.pmuAlone_pmuClear : d.PmuAlone (d.pmuClear bank j) := rfl

theorem Dev.reg_pmuClear (a : Nat) : (d.pmuClear bank j).reg a = d.reg a := rfl

theorem Dev.pmu_pmuClear : (d.pmuClear bank j).pmu =
    { d.pmu with counts := Tab.put zero d.pmu.counts (8 * bank + j) 0, shown := Tab.put zero d.pmu.shown (8 * bank + j) 0 } := rfl

theorem Dev.pmuCounted_pmuClear_same : (d.pmuClear bank j).pmuCounted (8 * bank + j) = 0 := by
  rw [Dev.pmuCounted, Dev.pmu_pmuClear, Tab.get_put_same]

theorem Dev.pmuShown_pmuClear_same : (d.pmuClear bank j).pmuShown (8 * bank + j) = 0 := by
  rw [Dev.pmuShown, Dev.pmu_pmuClear, Tab.get_put_same]

theorem Dev.pmuCounted_pmuClear_other {k : Nat} (h : k ≠ 8 * bank + j) : (d.pmuClear bank j).pmuCounted k = d.pmuCounted k := by
  rw [Dev.pmuCounted, Dev.pmu_pmuClear, Tab.get_put_other _ _ h, Dev.pmuCounted]

theorem Dev.pmuShown_pmuClear_other {k : Nat} (h : k ≠ 8 * bank + j) : (d.pmuClear bank j).pmuShown k = d.pmuShown k := by
  rw [Dev.pmuShown, Dev.pmu_pmuClear, Tab.get_put_other _ _ h, Dev.pmuShown]
end

/-- A counter that is 0, and shows 0, stays so as others are cleared. -/
theorem Dev.pmuClear_keeps_zero {d : Dev} {k : Nat} (h : d.pmuCounted k = 0 ∧ d.pmuShown k = 0) (bank j : Nat) :
    (d.pmuClear bank j).pmuCounted k = 0 ∧ (d.pmuClear bank j).pmuShown k = 0 := by
  by_cases hk : k = 8 * bank + j
  · subst hk
    exact ⟨d.pmuCounted_pmuClear_same bank j, d.pmuShown_pmuClear_same bank j⟩
  · exact ⟨(d.pmuCounted_pmuClear_other bank j hk).trans h.1, (d.pmuShown_pmuClear_other bank j hk).trans h.2⟩

/-- The counters of a list are cleared. -/
theorem Dev.foldl_pmuClear_zero (bank : Nat) (l : List Nat) (d : Dev) {j : Nat} (h : j ∈ l) :
    (l.foldl (fun d j => d.pmuClear bank j) d).pmuCounted (8 * bank + j) = 0 ∧
      (l.foldl (fun d j => d.pmuClear bank j) d).pmuShown (8 * bank + j) = 0 := by
  induction l using List.reverseRecOn with
  | nil => exact absurd h List.not_mem_nil
  | append_singleton r i ih =>
    rw [List.foldl_append, List.foldl_cons, List.foldl_nil]
    by_cases hji : j = i
    · subst hji
      exact ⟨Dev.pmuCounted_pmuClear_same _ _ _, Dev.pmuShown_pmuClear_same _ _ _⟩
    · exact Dev.pmuClear_keeps_zero (ih ((List.mem_append.mp h).resolve_right (by simpa using hji))) _ _

theorem Dev.foldl_pmuClear_other (bank : Nat) {l : List Nat} (hl : ∀ j ∈ l, j < 8) (d : Dev) {k : Nat} (h : k / 8 ≠ bank) :
    (l.foldl (fun d j => d.pmuClear bank j) d).pmuCounted k = d.pmuCounted k :=
  Dev.foldl_keeps (fun e => e.pmuCounted k) (fun e j hj => e.pmuCounted_pmuClear_other bank j (by have := hl j hj; omega)) d

theorem Dev.foldl_pmuClear_alone (bank : Nat) (l : List Nat) (d : Dev) : d.PmuAlone (l.foldl (fun d j => d.pmuClear bank j) d) := by
  induction l generalizing d with
  | nil => rfl
  | cons j r ih => exact (d.pmuAlone_pmuClear bank j).trans (ih _)

theorem Dev.regs_pmuClearBank (d : Dev) (bank : Nat) : (d.pmuClearBank bank).regs = d.regs :=
  Dev.foldl_keeps Dev.regs (f := fun d j => d.pmuClear bank j) (fun _ _ _ => rfl) d

/-! ## PMU_CNT_CFG (R517) -/

/-- Whether a bank takes a configuration of a counter. -/
def Dev.pmuTakes (d : Dev) (bank : Nat) (w : Word) : Prop :=
  pmuDefined bank (F.pmuCntCfg_event.get w) = true ∧
    (F.pmuCntCfg_flowEn.get w = 1 → bank < 72 ∧ d.owner 4 (F.pmuCntCfg_flow.get w) = d.owner 0x0F bank)

/-- A counter's settings are taken, and the counter cleared. -/
def Dev.pmuSet (d : Dev) (bank j : Nat) (w : Word) : Dev :=
  ((d.setReg (Reg.pmuCntCfg bank j) (mergeWord 0xFFFFFF80 w 0)).pmuClear bank j).setFld (Reg.pmuBankCtl bank) F.pmuBankCtl_preset 0

section
variable {d : Dev} {fn bank j value : Nat} (hb : bank < 143) (hj : j < 8) (hw : d.mayWrite fn (Reg.pmuCntCfg bank j) = true)
include hb hj hw

theorem Dev.pmuCfgWrite_of_takes (h : d.pmuTakes bank (BitVec.ofNat 32 value)) :
    d.pmuCfgWrite fn bank j value = d.pmuSet bank j (BitVec.ofNat 32 value) := by
  obtain ⟨hdef, hflow⟩ := h
  unfold Dev.pmuCfgWrite
  dsimp only
  rw [if_neg (by simp [hw]; omega), if_neg]
  · rfl
  · rintro (h | ⟨h, h'⟩ | ⟨h, h'⟩)
    · simp [hdef] at h
    · have := (hflow h).1
      omega
    · exact h' (hflow h).2

theorem Dev.pmuCfgWrite_of_refused (h : ¬d.pmuTakes bank (BitVec.ofNat 32 value)) :
    d.pmuCfgWrite fn bank j value = d.setFld (Reg.pmuBankCtl bank) F.pmuBankCtl_refused 1 := by
  unfold Dev.pmuCfgWrite
  dsimp only
  rw [if_neg (by simp [hw]; omega), if_pos]
  by_contra hno
  simp only [not_or, not_and, Bool.not_eq_true, Bool.not_eq_false', not_not, Nat.not_le] at hno
  obtain ⟨hdef, hbank, howner⟩ := hno
  exact h ⟨hdef, fun hf => ⟨hbank hf, howner hf⟩⟩
end

theorem pmuCntCfg_ne_pmuBankCtl (bank j b : Nat) (hj : j < 8) : Reg.pmuCntCfg bank j ≠ Reg.pmuBankCtl b := by
  unfold Reg.pmuCntCfg Reg.pmuBankCtl
  omega

theorem pmuCntCfg_inj {bank i j : Nat} (h : i ≠ j) : Reg.pmuCntCfg bank i ≠ Reg.pmuCntCfg bank j := by
  unfold Reg.pmuCntCfg
  omega

theorem mergeWord_zero (m w : Word) : mergeWord m w 0 = w &&& m := by simp [mergeWord]

/-- What the settings of a counter leave. -/
theorem Dev.pmuSet_shows (d : Dev) (bank : Nat) {j : Nat} (hj : j < 8) (w : Word) :
    let t := d.pmuSet bank j w
    t.reg (Reg.pmuCntCfg bank j) = w &&& 0xFFFFFF80#32 ∧ t.pmuCounted (8 * bank + j) = 0 ∧ t.pmuShown (8 * bank + j) = 0 ∧
      (∀ k, k ≠ 8 * bank + j → t.pmuCounted k = d.pmuCounted k) ∧ d.KeepsRegs t [Reg.pmuCntCfg bank j, Reg.pmuBankCtl bank] ∧
      d.PmuAlone t := by
  have hpmu : (d.pmuSet bank j w).pmu = (d.pmuClear bank j).pmu := by
    rw [Dev.pmuSet, Dev.setFld_pmu]
    rfl
  refine ⟨?_, ?_, ?_, fun k hk => ?_, fun a ha => ?_, ?_⟩
  · rw [Dev.pmuSet, Dev.reg_setFld_other _ _ _ (pmuCntCfg_ne_pmuBankCtl _ _ _ hj), Dev.reg_pmuClear, Dev.reg_setReg_same, mergeWord_zero]
    rfl
  · exact (congrArg (fun p : Pmu => Tab.get zero p.counts (8 * bank + j)) hpmu).trans (d.pmuCounted_pmuClear_same bank j)
  · exact (congrArg (fun p : Pmu => Tab.get zero p.shown (8 * bank + j)) hpmu).trans (d.pmuShown_pmuClear_same bank j)
  · exact (congrArg (fun p : Pmu => Tab.get zero p.counts k) hpmu).trans (d.pmuCounted_pmuClear_other bank j hk)
  · simp only [List.mem_cons, List.not_mem_nil, or_false, not_or] at ha
    rw [Dev.pmuSet, Dev.reg_setFld_other _ _ _ ha.2, Dev.reg_pmuClear, Dev.reg_setReg_other _ _ ha.1]
  · exact ((d.regsAlone_setReg _ _).pmuAlone.trans (Dev.pmuAlone_pmuClear _ _ _)).trans (Dev.regsAlone_setFld _ _ _ _).pmuAlone

/-! ## PMU_BANK_CTL (R515, R529) -/

/-- FREEZE and REFUSED as a write of PMU_BANK_CTL leaves them. -/
def Dev.bankCtlTaken (d : Dev) (bank : Nat) (w : Word) : Dev :=
  let d := d.setFld (Reg.pmuBankCtl bank) F.pmuBankCtl_freeze (F.pmuBankCtl_freeze.get w)
  if F.pmuBankCtl_refused.get w = 1 then d.setFld (Reg.pmuBankCtl bank) F.pmuBankCtl_refused 0 else d

theorem Dev.regsAlone_bankCtlTaken (d : Dev) (bank : Nat) (w : Word) : d.RegsAlone (d.bankCtlTaken bank w) := by
  unfold Dev.bankCtlTaken
  dsimp only
  split
  · exact (d.regsAlone_setFld _ _ _).setFld _ _ _
  · exact d.regsAlone_setFld _ _ _

/-- PRESET as a write of PMU_BANK_CTL has it. -/
def Dev.presetTaken (d : Dev) (bank : Nat) (w : Word) : Dev :=
  match F.pmuBankCtl_preset.get w with
  | 0 => d.setFld (Reg.pmuBankCtl bank) F.pmuBankCtl_preset 0
  | 1 => d.pmuLoad bank
  | _ => d

/-- CLEAR as a write of PMU_BANK_CTL has it. -/
def Dev.clearTaken (d : Dev) (bank : Nat) (w : Word) : Dev := if F.pmuBankCtl_clear.get w = 1 then d.pmuClearBank bank else d

theorem Dev.reg_clearTaken (d : Dev) (bank : Nat) (w : Word) (a : Nat) : (d.clearTaken bank w).reg a = d.reg a := by
  unfold Dev.clearTaken
  split
  · exact Dev.reg_of_regs (d.regs_pmuClearBank bank) a
  · rfl

theorem Dev.pmuAlone_clearTaken (d : Dev) (bank : Nat) (w : Word) : d.PmuAlone (d.clearTaken bank w) := by
  unfold Dev.clearTaken
  split
  · exact Dev.foldl_pmuClear_alone _ _ _
  · rfl

theorem Dev.pmuCounted_clearTaken_other (d : Dev) {bank : Nat} (w : Word) {k : Nat} (h : k / 8 ≠ bank) :
    (d.clearTaken bank w).pmuCounted k = d.pmuCounted k := by
  unfold Dev.clearTaken
  split
  · exact Dev.foldl_pmuClear_other bank (fun j hj => List.mem_range.mp hj) d h
  · rfl

theorem Dev.pmuCounted_clearTaken_zero {d : Dev} {bank j : Nat} (w : Word) (hj : j < 8) (h : d.pmuCounted (8 * bank + j) = 0) :
    (d.clearTaken bank w).pmuCounted (8 * bank + j) = 0 := by
  unfold Dev.clearTaken
  split
  · exact (Dev.foldl_pmuClear_zero bank _ d (List.mem_range.mpr hj)).1
  · exact h

/-- A write of PMU_BANK_CTL that the bank takes. -/
def Dev.bankWritten (d : Dev) (bank : Nat) (w : Word) : Dev := ((d.bankCtlTaken bank w).presetTaken bank w).clearTaken bank w

theorem Dev.pmuCtlWrite_of_may {d : Dev} {fn bank : Nat} (value : Nat) (hb : bank < 143) (hw : d.mayWrite fn (Reg.pmuBankCtl bank) = true) :
    d.pmuCtlWrite fn bank value = d.bankWritten bank (BitVec.ofNat 32 value) := by
  unfold Dev.pmuCtlWrite
  dsimp only
  rw [if_neg (by simp [hw]; omega)]
  rfl

/-- The settings of one counter of a preset: its mode and its event. -/
def presetWord (bank mode : Nat) (e : PmuEvent) : Word :=
  F.pmuCntCfg_enable.set (F.pmuCntCfg_event.set (F.pmuCntCfg_mode.set 0 mode) e.code) (bit (pmuDefined bank e.code))

theorem presetWord_fields (bank mode : Nat) (e : PmuEvent) :
    F.pmuCntCfg_event.get (presetWord bank mode e) = e.code % 2 ^ 10 ∧ F.pmuCntCfg_mode.get (presetWord bank mode e) = mode % 2 ∧
      F.pmuCntCfg_enable.get (presetWord bank mode e) = bit (pmuDefined bank e.code) := by
  unfold presetWord
  refine ⟨?_, ?_, ?_⟩
  · rw [Fld.get_set_other ⟨by decide, by decide⟩ (by decide), Fld.get_set ⟨by decide, by decide⟩]
    rfl
  · rw [Fld.get_set_other ⟨by decide, by decide⟩ (by decide), Fld.get_set_other ⟨by decide, by decide⟩ (by decide),
      Fld.get_set ⟨by decide, by decide⟩]
    rfl
  · rw [Fld.get_set ⟨by decide, by decide⟩]
    cases pmuDefined bank e.code <;> rfl

/-- One counter of a preset is set, and cleared. -/
def Dev.presetSet (d : Dev) (bank j mode : Nat) (e : PmuEvent) : Dev :=
  (d.setReg (Reg.pmuCntCfg bank j) (presetWord bank mode e)).pmuClear bank j

/-- The four counters of a preset. -/
def presetOf : List (Nat × Nat × PmuEvent) := [(0, 1, .cycles), (1, 1, .itemBusy), (2, 1, .pause), (3, 0, .itemDone)]

theorem Dev.pmuLoad_eq (d : Dev) (bank : Nat) :
    d.pmuLoad bank = (presetOf.foldl (fun d p => d.presetSet bank p.1 p.2.1 p.2.2) d).setFld (Reg.pmuBankCtl bank) F.pmuBankCtl_preset 1 := rfl

section
variable (bank : Nat) {l : List (Nat × Nat × PmuEvent)} (d : Dev)

/-- The counters of a list are set. -/
def Dev.presetAll (bank : Nat) (l : List (Nat × Nat × PmuEvent)) (d : Dev) : Dev :=
  l.foldl (fun d p => d.presetSet bank p.1 p.2.1 p.2.2) d

theorem Dev.presetAll_append (r : List (Nat × Nat × PmuEvent)) (p : Nat × Nat × PmuEvent) :
    Dev.presetAll bank (r ++ [p]) d = (Dev.presetAll bank r d).presetSet bank p.1 p.2.1 p.2.2 := by
  rw [Dev.presetAll, List.foldl_append]
  rfl

theorem Dev.reg_presetSet_same (j mode : Nat) (e : PmuEvent) :
    (d.presetSet bank j mode e).reg (Reg.pmuCntCfg bank j) = presetWord bank mode e := by
  rw [Dev.presetSet, Dev.reg_pmuClear, Dev.reg_setReg_same]

theorem Dev.reg_presetSet_other {i j : Nat} (h : i ≠ j) (mode : Nat) (e : PmuEvent) :
    (d.presetSet bank j mode e).reg (Reg.pmuCntCfg bank i) = d.reg (Reg.pmuCntCfg bank i) := by
  rw [Dev.presetSet, Dev.reg_pmuClear, Dev.reg_setReg_other _ _ (pmuCntCfg_inj h)]

/-- A counter that is set keeps its settings as others are set. -/
theorem Dev.reg_presetAll (hl : (l.map (·.1)).Nodup) {p : Nat × Nat × PmuEvent} (hp : p ∈ l) :
    (Dev.presetAll bank l d).reg (Reg.pmuCntCfg bank p.1) = presetWord bank p.2.1 p.2.2 := by
  induction l using List.reverseRecOn with
  | nil => exact absurd hp List.not_mem_nil
  | append_singleton r q ih =>
    rw [List.map_append, List.nodup_append] at hl
    obtain ⟨hr, -, hdisjoint⟩ := hl
    rw [Dev.presetAll_append]
    rcases List.mem_append.mp hp with hp | hp
    · rw [Dev.reg_presetSet_other _ _ (hdisjoint _ (List.mem_map_of_mem hp) _ (by simp)), ih hr hp]
    · rw [List.mem_singleton.mp hp, Dev.reg_presetSet_same]

theorem Dev.pmu_presetSet (j mode : Nat) (e : PmuEvent) : (d.presetSet bank j mode e).pmu = (d.pmuClear bank j).pmu := by
  rw [Dev.presetSet, Dev.pmu_pmuClear, Dev.setReg_pmu, Dev.pmu_pmuClear]

theorem Dev.pmuCounted_of_pmu {d e : Dev} (h : e.pmu = d.pmu) (k : Nat) : e.pmuCounted k = d.pmuCounted k := by
  rw [Dev.pmuCounted, h, Dev.pmuCounted]

/-- A counter that is set is cleared, and stays so as others are set. -/
theorem Dev.pmuCounted_presetAll {p : Nat × Nat × PmuEvent} (hp : p ∈ l) : (Dev.presetAll bank l d).pmuCounted (8 * bank + p.1) = 0 := by
  induction l using List.reverseRecOn with
  | nil => exact absurd hp List.not_mem_nil
  | append_singleton r q ih =>
    rw [Dev.presetAll_append, Dev.pmuCounted_of_pmu (Dev.pmu_presetSet _ _ _ _ _)]
    by_cases hpq : p.1 = q.1
    · rw [hpq, Dev.pmuCounted_pmuClear_same]
    · rw [Dev.pmuCounted_pmuClear_other _ _ _ (by omega)]
      exact ih ((List.mem_append.mp hp).resolve_right fun h => hpq (congrArg (·.1) (List.mem_singleton.mp h)))

theorem Dev.pmuCounted_presetSet_other {j : Nat} (hj : j < 8) (mode : Nat) (e : PmuEvent) {k : Nat} (h : k / 8 ≠ bank) :
    (d.presetSet bank j mode e).pmuCounted k = d.pmuCounted k :=
  (Dev.pmuCounted_of_pmu (Dev.pmu_presetSet _ _ _ _ _) _).trans (d.pmuCounted_pmuClear_other bank j (by omega))

theorem Dev.pmuCounted_presetAll_other (hl : ∀ p ∈ l, p.1 < 8) {k : Nat} (h : k / 8 ≠ bank) :
    (Dev.presetAll bank l d).pmuCounted k = d.pmuCounted k := by
  unfold Dev.presetAll
  exact Dev.foldl_keeps (fun e => e.pmuCounted k) (fun e p hp => e.pmuCounted_presetSet_other bank (hl p hp) _ _ h) d

theorem Dev.pmuAlone_presetSet (j mode : Nat) (e : PmuEvent) : d.PmuAlone (d.presetSet bank j mode e) :=
  (d.regsAlone_setReg _ _).pmuAlone.trans (Dev.pmuAlone_pmuClear _ _ _)

theorem Dev.pmuAlone_presetAll (l : List (Nat × Nat × PmuEvent)) : d.PmuAlone (Dev.presetAll bank l d) := by
  unfold Dev.presetAll
  induction l generalizing d with
  | nil => rfl
  | cons p r ih =>
    rw [List.foldl_cons]
    exact (d.pmuAlone_presetSet bank _ _ _).trans (ih _)

theorem Dev.pmuAlone_pmuLoad : d.PmuAlone (d.pmuLoad bank) :=
  (d.pmuAlone_presetAll bank presetOf).trans (Dev.regsAlone_setFld _ _ _ _).pmuAlone

theorem Dev.pmuCounted_pmuLoad (k : Nat) : (d.pmuLoad bank).pmuCounted k = (Dev.presetAll bank presetOf d).pmuCounted k :=
  Dev.pmuCounted_of_pmu (by rw [Dev.pmuLoad_eq, Dev.setFld_pmu, Dev.presetAll]) k

theorem Dev.pmuAlone_presetTaken (w : Word) : d.PmuAlone (d.presetTaken bank w) := by
  unfold Dev.presetTaken
  split
  · exact (d.regsAlone_setFld _ _ _).pmuAlone
  · exact d.pmuAlone_pmuLoad bank
  · rfl

theorem Dev.pmuCounted_presetTaken_other (w : Word) {k : Nat} (h : k / 8 ≠ bank) : (d.presetTaken bank w).pmuCounted k = d.pmuCounted k := by
  unfold Dev.presetTaken
  split
  · exact Dev.pmuCounted_of_pmu (Dev.setFld_pmu _ _ _ _) k
  · exact (d.pmuCounted_pmuLoad bank k).trans (d.pmuCounted_presetAll_other bank (by decide) h)
  · rfl
end

section
variable (d : Dev) (bank : Nat) (w : Word)

theorem Dev.pmuAlone_bankWritten : d.PmuAlone (d.bankWritten bank w) :=
  ((d.regsAlone_bankCtlTaken bank w).pmuAlone.trans (Dev.pmuAlone_presetTaken _ _ _)).trans (Dev.pmuAlone_clearTaken _ _ _)

theorem Dev.pmuCounted_bankWritten_other {k : Nat} (h : k / 8 ≠ bank) : (d.bankWritten bank w).pmuCounted k = d.pmuCounted k := by
  have htaken : (d.bankCtlTaken bank w).pmu = d.pmu := by rw [d.regsAlone_bankCtlTaken bank w]
  rw [Dev.bankWritten, Dev.pmuCounted_clearTaken_other _ _ h, Dev.pmuCounted_presetTaken_other _ _ _ h, Dev.pmuCounted_of_pmu htaken]

/-- CLEAR clears the eight counters. -/
theorem Dev.bankWritten_cleared (hc : F.pmuBankCtl_clear.get w = 1) {j : Nat} (hj : j < 8) :
    (d.bankWritten bank w).pmuCounted (8 * bank + j) = 0 ∧ (d.bankWritten bank w).pmuShown (8 * bank + j) = 0 := by
  rw [Dev.bankWritten, Dev.clearTaken, if_pos hc]
  exact Dev.foldl_pmuClear_zero bank _ _ (List.mem_range.mpr hj)

/-- PRESET LOAD shows 1, and sets and clears its counters. -/
theorem Dev.bankWritten_preset (hp : F.pmuBankCtl_preset.get w = 1) :
    (d.bankWritten bank w).fld (Reg.pmuBankCtl bank) F.pmuBankCtl_preset = 1 ∧
      ∀ p ∈ presetOf, (d.bankWritten bank w).pmuCounted (8 * bank + p.1) = 0 ∧
        (d.bankWritten bank w).reg (Reg.pmuCntCfg bank p.1) = presetWord bank p.2.1 p.2.2 := by
  have hload : (d.bankCtlTaken bank w).presetTaken bank w = (d.bankCtlTaken bank w).pmuLoad bank := by
    rw [Dev.presetTaken, hp]
    rfl
  have hsmall : ∀ p ∈ presetOf, p.1 < 8 := by decide
  rw [Dev.bankWritten, hload]
  refine ⟨?_, fun p hmem => ⟨?_, ?_⟩⟩
  · rw [Dev.fld, Dev.reg_clearTaken, Dev.pmuLoad_eq]
    exact Dev.fld_setFld_same _ _ ⟨by decide, by decide⟩ _
  · exact Dev.pmuCounted_clearTaken_zero _ (hsmall p hmem) ((Dev.pmuCounted_pmuLoad _ _ _).trans (Dev.pmuCounted_presetAll _ _ hmem))
  · rw [Dev.reg_clearTaken, Dev.pmuLoad_eq, Dev.reg_setFld_other _ _ _ (pmuCntCfg_ne_pmuBankCtl _ _ _ (hsmall p hmem))]
    exact Dev.reg_presetAll _ _ (by decide) hmem
end

/-- The settings of the first four counters in the order of R529. -/
theorem presetOf_get : ∀ j < 4, ∃ p ∈ presetOf, p.1 = j ∧ [0x000, 0x041, 0x042, 0x040].getD j 0 = p.2.2.code ∧ [1, 1, 1, 0].getD j 0 = p.2.1 ∧
    p.2.2.code < 2 ^ 10 ∧ p.2.1 < 2 := by decide

/-! ## Reading (R516) -/

/-- What a read of the low word shows, and latches. -/
theorem exec_pmuCntLoRead {s : State} {fn bank j : Nat} (hb : bank < 143) (hj : j < 8) (hs : s.dev.sees fn (Reg.pmuCntLo bank j) = true)
    (hbar : ¬(fn = 0 ∧ s.dev.houseBarred (Reg.pmuCntLo bank j) = true)) :
    exec (.pmuCntLoRead fn bank j) s = .next { s with dev := { s.dev with
      latch := Tab.put (fun _ => none) s.dev.latch (Reg.pmuCntHi bank j) (some (s.dev.pmuValue bank j / 2 ^ 32))
      out := .read fn (Reg.pmuCntLo bank j) (s.dev.pmuValue bank j % 2 ^ 32) :: s.dev.out } } := by
  show execPmuCntLoRead fn bank j s = _
  rw [execPmuCntLoRead, State.lift_eq]
  dsimp only
  rw [if_neg (by simpa [hs, Nat.not_le.mpr hb, Nat.not_le.mpr hj] using hbar)]
  rfl

/-- The counters that show the value last latched. -/
def Dev.sharedKey (d : Dev) (p : Nat × Nat) : Bool := pmuShared (d.fld (Reg.pmuCntCfg (p.1 / 8) (p.1 % 8)) F.pmuCntCfg_event)

theorem exec_sharedCounterLatch {s : State} (h : s.dev.now % 8000 = 0) : exec .sharedCounterLatch s =
    .next { s with dev := { s.dev with pmu := { s.dev.pmu with shown := s.dev.pmu.counts.filter s.dev.sharedKey } } } := by
  show execSharedCounterLatch s = _
  rw [execSharedCounterLatch, State.lift_eq, if_neg (not_not_intro h)]
  rfl

/-- Settles O48: one kind of write at a time, then the latches. -/
theorem counters : Obligations.Counters := by
  unfold Obligations.Counters
  refine ⟨fun s fn bank j value hb hj hw => ?_, fun s fn bank value hb hw hc => ?_, fun s fn bank value hb hw hp => ?_, fun s h => ?_,
    fun s fn bank j hb hj hs hbar => ?_⟩
  · intro w flowEn
    have hexec : exec (.pmuCntCfgWrite fn bank j value) s = .next { s with dev := s.dev.pmuCfgWrite fn bank j value } := rfl
    by_cases htakes : pmuDefined bank (F.pmuCntCfg_event.get w) = true ∧
        (flowEn → bank < 72 ∧ s.dev.owner 4 (F.pmuCntCfg_flow.get w) = s.dev.owner 0x0F bank)
    · rw [Dev.pmuCfgWrite_of_takes hb hj hw htakes] at hexec
      obtain ⟨hreg, hcount, hshown, hothers, hkeep, halone⟩ := s.dev.pmuSet_shows bank hj w
      refine ⟨_, hexec, ?_⟩
      rw [if_pos htakes]
      exact ⟨hreg, hcount, hshown, hothers, hkeep, halone.state⟩
    · rw [Dev.pmuCfgWrite_of_refused hb hj hw htakes] at hexec
      refine ⟨_, hexec, ?_⟩
      rw [if_neg htakes]
      refine ⟨?_, (s.dev.regsAlone_setFld _ _ _).state, s.dev.keepsRegs_setFld _ _ _⟩
      rw [Dev.flag_setFld_same _ _ ⟨by decide, by decide⟩ rfl]
      rfl
  · have hexec : exec (.pmuBankClear fn bank value) s = .next { s with dev := s.dev.pmuCtlWrite fn bank value } := rfl
    rw [Dev.pmuCtlWrite_of_may value hb hw] at hexec
    exact ⟨_, hexec, fun j hj => s.dev.bankWritten_cleared bank _ hc hj, fun k hk => s.dev.pmuCounted_bankWritten_other bank _ hk,
      (s.dev.pmuAlone_bankWritten bank _).state⟩
  · have hexec : exec (.pmuPresetLoad fn bank value) s = .next { s with dev := s.dev.pmuCtlWrite fn bank value } := rfl
    rw [Dev.pmuCtlWrite_of_may value hb hw] at hexec
    obtain ⟨hshown, hset⟩ := s.dev.bankWritten_preset bank _ hp
    refine ⟨_, hexec, hshown, fun j hj => ?_, fun k hk => s.dev.pmuCounted_bankWritten_other bank _ hk,
      (s.dev.pmuAlone_bankWritten bank _).state⟩
    obtain ⟨p, hmem, rfl, hcode, hmode, hcodeLt, hmodeLt⟩ := presetOf_get j hj
    obtain ⟨hzero, hword⟩ := hset p hmem
    obtain ⟨hevent, hm, henable⟩ := presetWord_fields bank p.2.1 p.2.2
    rw [hcode, hmode]
    refine ⟨hzero, ?_, ?_, ?_⟩
    · exact ((congrArg F.pmuCntCfg_event.get hword).trans hevent).trans (Nat.mod_eq_of_lt hcodeLt)
    · exact ((congrArg F.pmuCntCfg_mode.get hword).trans hm).trans (Nat.mod_eq_of_lt hmodeLt)
    · show decide (F.pmuCntCfg_enable.get _ = 1) = true ↔ _
      rw [hword, henable, decide_eq_true_iff]
      cases pmuDefined bank p.2.2.code <;> decide
  · refine ⟨_, exec_sharedCounterLatch h, rfl, fun bank hb j hj hshared => ?_, rfl⟩
    have hkey : s.dev.sharedKey (8 * bank + j, 0) = true := by
      unfold Dev.sharedKey
      rw [show (8 * bank + j) / 8 = bank by omega, show (8 * bank + j) % 8 = j by omega]
      exact hshared
    exact (if_pos hshared).trans (Tab.get_filter_keep _ _ _ fun _ => hkey)
  · refine ⟨_, exec_pmuCntLoRead hb hj hs hbar, rfl, ?_, rfl⟩
    dsimp only
    exact Tab.get_put_same _ _ _

end Sys2Proof.Machine
end

section
/-! PROOFS. The HBM controller: requests and their order, errors, freeze and thaw, refresh, scrub, tracking and training (R412–R430).
Lemmas for O55. -/

namespace Sys2Proof.Machine

/-! ## Pseudo-channels beside their registers -/

section
variable (d : Dev) (k : Nat)

theorem Dev.pc_onPc_same (f : PcDyn → PcDyn) : (d.onPc k f).pc k = f (d.pc k) := by
  unfold Dev.onPc Dev.pc
  exact Tab.get_upd_same _ _ _

theorem Dev.pc_onPc_other (f : PcDyn → PcDyn) {j : Nat} (h : j ≠ k) : (d.onPc k f).pc j = d.pc j := by
  unfold Dev.onPc Dev.pc
  exact Tab.get_upd_other _ _ h

/-- A command that is noted for snapshots changes the list of commands alone. -/
theorem Dev.pcCmd_eq (op off : Nat) : ∃ w, d.pcCmd k op off = d.onPc k fun x => { x with cmds := w :: x.cmds.take 63 } := ⟨_, rfl⟩

theorem Dev.pc_pcCmd_same (op off : Nat) : (d.pcCmd k op off).pc k = { d.pc k with cmds := ((d.pcCmd k op off).pc k).cmds } := by
  obtain ⟨w, hw⟩ := d.pcCmd_eq k op off
  rw [hw, Dev.pc_onPc_same]

theorem Dev.pc_pcCmd_other (op off : Nat) {j : Nat} (h : j ≠ k) : (d.pcCmd k op off).pc j = d.pc j := by
  obtain ⟨w, hw⟩ := d.pcCmd_eq k op off
  rw [hw, Dev.pc_onPc_other _ _ _ h]

theorem Dev.reg_pcCmd (op off a : Nat) : (d.pcCmd k op off).reg a = d.reg a := by
  obtain ⟨w, hw⟩ := d.pcCmd_eq k op off
  rw [hw, Dev.onPc_read_reg]
end

theorem Dev.pc_of_hbm {d e : Dev} (h : e.hbm = d.hbm) (k : Nat) : e.pc k = d.pc k := by rw [Dev.pc, h, Dev.pc]

theorem Dev.pc_pmuCount (d : Dev) (bank : Nat) (e : PmuEvent) (crew flow n k : Nat) : (d.pmuCount bank e crew flow n).pc k = d.pc k :=
  Dev.pc_of_hbm (by rw [Dev.pmuCount_eq]) k

theorem Dev.checkDiff_of_hbm {d e : Dev} (h : e.hbm.check = d.hbm.check) (pc off : Nat) : e.checkDiff pc off = d.checkDiff pc off := by
  rw [Dev.checkDiff, h, Dev.checkDiff]

/-- Nothing changes but registers, pseudo-channels and counters. -/
def Dev.MemAlone (d e : Dev) : Prop := e = { d with regs := e.regs, hbm := e.hbm, pmu := e.pmu }

theorem Dev.MemAlone.trans {d e t : Dev} (h : d.MemAlone e) (h' : e.MemAlone t) : d.MemAlone t := by
  unfold Dev.MemAlone at h h' ⊢
  rw [h', h]

theorem Dev.memAlone_onPc (d : Dev) (k : Nat) (f : PcDyn → PcDyn) : d.MemAlone (d.onPc k f) := rfl

theorem Dev.memAlone_pcCmd (d : Dev) (k op off : Nat) : d.MemAlone (d.pcCmd k op off) := by
  obtain ⟨w, hw⟩ := d.pcCmd_eq k op off
  rw [hw]
  exact d.memAlone_onPc k _

theorem Dev.memAlone_pmuCount (d : Dev) (bank : Nat) (e : PmuEvent) (crew flow n : Nat) : d.MemAlone (d.pmuCount bank e crew flow n) := by
  unfold Dev.MemAlone
  rw [Dev.pmuCount_eq]

/-! ## Requests (R418, R421, R422) -/

/-- A request of a pseudo-channel that exists, while MEM is out of reset, is taken. -/
theorem exec_hbmRequest {s : State} {pc addr flips : Nat} (crew : Nat) {w : Option (List Nat)} (hp : pc < 128)
    (ha : addr + max 1 (w.getD []).length ≤ 2 ^ 29) (hr : s.dev.inReset 3 = false) :
    exec (.hbmRequest pc crew addr w flips) s = .next { s with mem := (accept (s.mem, s.dev) pc ⟨crew, addr, w, flips⟩).1
                                                               dev := (accept (s.mem, s.dev) pc ⟨crew, addr, w, flips⟩).2 } := by
  have hin : ¬(128 ≤ pc ∨ 2 ^ 29 < addr + max 1 (w.getD []).length) := by
    rintro (h | h)
    · exact absurd h (Nat.not_le.mpr hp)
    · exact absurd h (Nat.not_lt.mpr ha)
  show execHbmRequest pc crew addr w flips s = _
  rw [execHbmRequest, State.liftMem_eq]
  dsimp only
  rw [if_neg hin, if_neg (by simp [hr])]

theorem accept_of_ok {x : HbmDev} {pc : Nat} (h : x.2.pcState pc = 0) (r : MemReq) : accept x pc r = serve x pc r := by
  rw [accept, h]
  rfl

theorem accept_of_frozen {x : HbmDev} {pc : Nat} (h : x.2.pcState pc = 1) (r : MemReq) :
    accept x pc r = (x.1, x.2.onPc pc fun p => { p with waiting := p.waiting ++ [r] }) := by
  rw [accept, h]
  rfl

/-- Another Crew's request gets poisoned data, or is discarded, and TAG_ERR counts. -/
theorem serve_of_other {x : HbmDev} {pc : Nat} {r : MemReq} (h : x.2.regionCrew pc r.addr ≠ r.crew) :
    serve x pc r = (x.1, if r.write.isSome = true then x.2.addFld (Reg.memPcErr pc) F.memPcErr_tagErr 1
      else (x.2.addFld (Reg.memPcErr pc) F.memPcErr_tagErr 1).emit (.hbmData pc (r.addr / 32 * 32) [] true)) := if_pos h

theorem flipGranule_zero (x : HbmDev) (pc off : Nat) : flipGranule x pc off 0 = x := if_pos rfl

/-- A write that no sector boundary splits is one write. -/
theorem splitWrite_whole {addr : Nat} {l : List Nat} (h : l ≠ []) (hs : addr % 32 + l.length ≤ 32) : splitWrite addr l l.length = [(addr, l)] := by
  have hlen : 0 < l.length := List.length_pos_iff.mpr h
  obtain ⟨f, hf⟩ : ∃ f, l.length = f + 1 := ⟨l.length - 1, by omega⟩
  have hne : l.isEmpty = false := by simpa using h
  have hle : l.length ≤ 32 - addr % 32 := by omega
  have hrest : splitWrite (addr + (32 - addr % 32)) (l.drop (32 - addr % 32)) f = [] := by
    rw [List.drop_eq_nil_of_le hle]
    cases f <;> rfl
  rw [hf, splitWrite]
  dsimp only
  rw [hne, if_neg Bool.false_ne_true, hrest, List.take_of_length_le hle]

section
variable {x : HbmDev} {pc crew addr : Nat} (h : x.2.regionCrew pc addr = crew)
include h

theorem serve_write {l : List Nat} (hl : l ≠ []) (hs : addr % 32 + l.length ≤ 32) :
    serve x pc ⟨crew, addr, some l, 0⟩ = queueWrite x pc (addr, l) := by
  unfold serve
  rw [if_neg (not_not_intro h)]
  simp only [Nat.zero_mod, Nat.zero_div, flipGranule_zero, splitWrite_whole hl hs, List.foldl_cons, List.foldl_nil]

/-- The device as a read of a sector finds it. -/
def Dev.readNoted (d : Dev) (pc sector : Nat) : Dev := (d.pcCmd pc 2 (sector * 32)).pmuCount (137 + pc / 32) .hbmRead 0 0 1

theorem serve_read : serve x pc ⟨crew, addr, none, 0⟩ = readSector (x.1, x.2.readNoted pc (addr / 32)) pc (addr / 32) crew := by
  unfold serve
  rw [if_neg (not_not_intro h)]
  simp only [Nat.zero_mod, Nat.zero_div, flipGranule_zero]
  rfl
end

/-- A write that joins the queue of its pseudo-channel. -/
def Dev.writeQueued (d : Dev) (pc : Nat) (w : Nat × List Nat) : Dev :=
  ((d.onPc pc fun p => { p with queue := p.queue ++ [w] }).pcCmd pc 3 w.1).pmuCount (137 + pc / 32) .hbmWrite 0 0 1

theorem drainTo_of_room {x : HbmDev} {n pc : Nat} (f : Nat) (h : (x.2.pc pc).queue.length ≤ n) : drainTo n pc f x = x := by
  cases f with
  | zero => rfl
  | succ f =>
    rw [drainTo]
    cases hq : (x.2.pc pc).queue with
    | nil => rfl
    | cons w rest =>
      dsimp only
      rw [hq, List.length_cons] at h
      rw [if_pos h]

theorem queueWrite_of_room {x : HbmDev} {pc : Nat} (w : Nat × List Nat) (h : (x.2.pc pc).queue.length ≤ 63) :
    queueWrite x pc w = (x.1, x.2.writeQueued pc w) := by
  rw [queueWrite, drainTo_of_room 64 h]
  rfl

section
variable (d : Dev) (pc : Nat) (w : Nat × List Nat)

theorem Dev.queue_writeQueued : ((d.writeQueued pc w).pc pc).queue = (d.pc pc).queue ++ [w] := by
  rw [Dev.writeQueued, Dev.pc_pmuCount, Dev.pc_pcCmd_same, Dev.pc_onPc_same]

theorem Dev.pc_writeQueued_other {k : Nat} (h : k ≠ pc) : (d.writeQueued pc w).pc k = d.pc k := by
  rw [Dev.writeQueued, Dev.pc_pmuCount, Dev.pc_pcCmd_other _ _ _ _ h, Dev.pc_onPc_other _ _ _ h]

theorem Dev.memAlone_writeQueued : d.MemAlone (d.writeQueued pc w) :=
  ((d.memAlone_onPc pc _).trans (Dev.memAlone_pcCmd _ _ _ _)).trans (Dev.memAlone_pmuCount _ _ _ _ _ _)

theorem Dev.pc_readNoted (sector : Nat) : ((d.readNoted pc sector).pc pc).queue = (d.pc pc).queue := by
  rw [Dev.readNoted, Dev.pc_pmuCount, Dev.pc_pcCmd_same]

theorem Dev.memAlone_readNoted (sector : Nat) : d.MemAlone (d.readNoted pc sector) :=
  (d.memAlone_pcCmd _ _ _).trans (Dev.memAlone_pmuCount _ _ _ _ _ _)

theorem Dev.checkDiff_readNoted (sector k off : Nat) : (d.readNoted pc sector).checkDiff k off = d.checkDiff k off := by
  obtain ⟨w, hw⟩ := d.pcCmd_eq pc 2 (sector * 32)
  exact Dev.checkDiff_of_hbm (by rw [Dev.readNoted, Dev.pmuCount_eq, hw]; rfl) k off
end

/-! ## The answer to a read (R414, R422) -/

theorem syndrome_zero : decodeSyndrome (syndrome 0) = .clean := by decide

/-- A granule whose check bits agree is clean. -/
theorem decodeGranule_clean {x : HbmDev} {pc off : Nat} (h : x.2.checkDiff pc off = 0) :
    decodeGranule x pc off = (readBytes x.1 pc off 16, .clean) := by
  rw [decodeGranule, h, syndrome_zero]

theorem readBytes_append (m : Memory) (pc off a b : Nat) : readBytes m pc off a ++ readBytes m pc (off + a) b = readBytes m pc off (a + b) := by
  unfold readBytes
  rw [List.range_add, List.map_append, List.map_map]
  simp only [Function.comp_def, Nat.add_assoc]

/-- The cells answer a read where both granules are clean. -/
theorem readCells_clean {x : HbmDev} {pc : Nat} (sector crew : Nat) {off : Nat} (h₁ : x.2.checkDiff pc off = 0)
    (h₂ : x.2.checkDiff pc (off + 16) = 0) :
    readSector.readCells pc sector crew x off = (x.1, x.2.emit (.hbmData pc off (readBytes x.1 pc off 32) false)) := by
  unfold readSector.readCells
  rw [decodeGranule_clean h₁, decodeGranule_clean h₂]
  simp only [reduceCtorEq, if_false, readBytes_append]

theorem readSector_of_none {x : HbmDev} {pc sector : Nat} (crew : Nat) (h : ∀ w ∈ (x.2.pc pc).queue, w.1 / 32 ≠ sector) :
    readSector x pc sector crew = readSector.readCells pc sector crew x (sector * 32) := by
  have hnone : (x.2.pc pc).queue.filter (fun w => decide (w.1 / 32 = sector)) = [] := by
    rw [List.filter_eq_nil_iff]
    exact fun w hw => by simpa using h w hw
  unfold readSector
  rw [hnone]
  rfl

theorem readSector_of_queued {x : HbmDev} {pc sector : Nat} (crew : Nat) {w : Nat × List Nat}
    (h : ((x.2.pc pc).queue.filter fun w => w.1 / 32 = sector).getLast? = some w) (hl : w.2.length = 32) :
    readSector x pc sector crew = (x.1, x.2.emit (.hbmData pc (sector * 32) w.2 false)) := by
  obtain ⟨a, l⟩ := w
  unfold readSector
  rw [h]
  exact if_pos hl

theorem Dev.MemAlone.emitted {s : State} {e : Dev} (h : s.dev.MemAlone e) (o : Output) :
    ({ s with dev := e.emit o } : State) = { s with
      dev := { s.dev with regs := (e.emit o).regs, hbm := (e.emit o).hbm, pmu := (e.emit o).pmu, out := (e.emit o).out } } := by
  unfold Dev.MemAlone at h
  rw [h]
  rfl

theorem Dev.MemAlone.showsOnly {d e : Dev} (h : d.MemAlone e) (o : Output) : d.ShowsOnly (e.emit o) o := by
  unfold Dev.MemAlone at h
  rw [h]
  rfl

theorem Dev.pc_emit (d : Dev) (o : Output) (k : Nat) : (d.emit o).pc k = d.pc k := rfl

/-- A request of the region's owner has its write queued. -/
theorem hbmRequest_queues {s : State} {pc crew addr : Nat} {l : List Nat} (hp : pc < 128) (ha : addr + l.length ≤ 2 ^ 29)
    (hr : s.dev.inReset 3 = false) (hok : s.dev.pcState pc = 0) (hown : s.dev.regionCrew pc addr = crew) (hl : l ≠ [])
    (hs : addr % 32 + l.length ≤ 32) (hq : (s.dev.pc pc).queue.length ≤ 63) :
    exec (.hbmRequest pc crew addr (some l) 0) s = .next { s with dev := s.dev.writeQueued pc (addr, l) } := by
  have hlen : 0 < l.length := List.length_pos_iff.mpr hl
  have ha' : addr + max 1 ((some l).getD []).length ≤ 2 ^ 29 := by
    rw [Option.getD_some, max_eq_right hlen]
    exact ha
  rw [exec_hbmRequest crew hp ha' hr, accept_of_ok (x := (s.mem, s.dev)) hok, serve_write (x := (s.mem, s.dev)) hown hl hs,
    queueWrite_of_room (x := (s.mem, s.dev)) _ hq]

/-- A read of the region's owner is carried out. -/
theorem exec_hbmRequest_read {s : State} {pc crew addr : Nat} (hp : pc < 128) (ha : addr + 1 ≤ 2 ^ 29) (hr : s.dev.inReset 3 = false)
    (hok : s.dev.pcState pc = 0) (hown : s.dev.regionCrew pc addr = crew) {o : Output}
    (hread : readSector (s.mem, s.dev.readNoted pc (addr / 32)) pc (addr / 32) crew = (s.mem, (s.dev.readNoted pc (addr / 32)).emit o)) :
    ∃ t, exec (.hbmRequest pc crew addr none 0) s = .next t ∧ s.dev.ShowsOnly t.dev o ∧ (t.dev.pc pc).queue = (s.dev.pc pc).queue ∧
      t = { s with dev := { s.dev with regs := t.dev.regs, hbm := t.dev.hbm, pmu := t.dev.pmu, out := t.dev.out } } := by
  have ha' : addr + max 1 ((none : Option (List Nat)).getD []).length ≤ 2 ^ 29 := ha
  have hexec := exec_hbmRequest (flips := 0) crew hp ha' hr
  rw [accept_of_ok (x := (s.mem, s.dev)) hok, serve_read (x := (s.mem, s.dev)) hown, hread] at hexec
  refine ⟨_, hexec, (s.dev.memAlone_readNoted pc _).showsOnly o, ?_, (s.dev.memAlone_readNoted pc _).emitted o⟩
  rw [Dev.pc_emit, Dev.pc_readNoted]

/-! ## Freezes (R427, R428, R432) -/

/-- The registers of MEM that a freeze marks. -/
def Dev.freezeMarked (d : Dev) (pc : Nat) : Dev :=
  (d.setFld (Reg.memPcStatus pc) F.memPcStatus_state 1).addFld Reg.memStatus F.memStatus_frozen 1

/-- The word of MEM_SNAP_INFO of a freeze. -/
def snapInfoWord (pc cause crew synd : Nat) : Word := BitVec.ofNat 32 (pack [(1, 31), (cause, 28), (pc, 21), (crew % 32, 16), (synd, 0)])

/-- The info, Stroke and sector of a snapshot. -/
def Dev.snapHeaded (d : Dev) (sector i : Nat) (info : Word) : Dev :=
  ((d.setReg (Reg.memSnapInfo i) info).setReg (Reg.memSnapStroke i) (BitVec.ofNat 32 (d.setReg (Reg.memSnapInfo i) info).nowLo)).setReg
    (Reg.memSnapSector i) (BitVec.ofNat 32 sector)

/-- The commands of a snapshot. -/
def Dev.snapListed (d : Dev) (i : Nat) (cmds : List Nat) : Dev :=
  (List.range 64).foldl (fun d j => d.setReg (Reg.memSnapCmd i j) (BitVec.ofNat 32 (cmds.getD j 0))) d

/-- A free snapshot slot is filled. -/
def Dev.snapFilled (d : Dev) (pc sector : Nat) (info : Word) : Option Nat → Dev
  | none => d
  | some i => (d.snapHeaded sector i info).snapListed i (d.pc pc).cmds.reverse

/-- The first free snapshot slot. -/
def Dev.snapSlot (d : Dev) : Option Nat := (List.range 4).find? fun i => !d.flag (Reg.memSnapInfo i) F.memSnapInfo_valid

/-- A sector froze its pseudo-channel in this Stroke. -/
def Dev.freezeNoted (d : Dev) (pc sector : Nat) : Dev :=
  d.onPc pc fun x => { x with froze := (sector, d.now) :: x.froze.filter fun p => decide (d.now < p.2 + 8000) }

/-- A freeze is recorded, logged and raised. -/
def Dev.freezeTold (d : Dev) (pc cause sector shown : Nat) (slot : Option Nat) : Dev :=
  let ws := [pack [(cause, 24), (pc, 0)], (d.regionOf pc (sector * 32)).getD 0xF, shown, slot.getD 7]
  (((d.record 0 0x08 cause 0 [pc, shown]).nvmLog .freeze 0 ws).freezeNoted pc sector).postEvent 0 .freeze 0 ws

/-- The sector of a freeze as the house may see it. -/
def Dev.sectorShown (d : Dev) (pc sector : Nat) : Nat := if d.regionCrew pc (sector * 32) = 0 then sector else 0

theorem Dev.freeze_eq (d : Dev) (pc cause sector synd : Nat) : d.freeze pc cause sector synd =
    ((d.freezeMarked pc).snapFilled pc sector (snapInfoWord pc cause (d.regionCrew pc (sector * 32)) synd) d.snapSlot).freezeTold pc cause
      sector (d.sectorShown pc sector) d.snapSlot := by
  unfold Dev.freeze Dev.freezeTold Dev.freezeNoted Dev.freezeMarked Dev.snapFilled Dev.snapHeaded Dev.snapListed snapInfoWord Dev.snapSlot
    Dev.sectorShown
  cases (List.range 4).find? fun i => !d.flag (Reg.memSnapInfo i) F.memSnapInfo_valid with
  | none => simp only
  | some i => dsimp +instances only

/-- Nothing changes but what a freeze changes. -/
def Dev.FreezeAlone (d e : Dev) : Prop :=
  e = { d with regs := e.regs, hbm := e.hbm, nvm := e.nvm, hif := e.hif, out := e.out, log := e.log }

theorem Dev.FreezeAlone.trans {d e t : Dev} (h : d.FreezeAlone e) (h' : e.FreezeAlone t) : d.FreezeAlone t := by
  unfold Dev.FreezeAlone at h h' ⊢
  rw [h', h]

theorem Dev.RegsAlone.freezeAlone {d e : Dev} (h : d.RegsAlone e) : d.FreezeAlone e := by
  unfold Dev.RegsAlone at h
  unfold Dev.FreezeAlone
  rw [h]

theorem Dev.freezeAlone_onPc (d : Dev) (k : Nat) (f : PcDyn → PcDyn) : d.FreezeAlone (d.onPc k f) := rfl

theorem Dev.FreezeAlone.state {s : State} {e : Dev} (h : s.dev.FreezeAlone e) :
    ({ s with dev := e } : State) = { s with
      dev := { s.dev with regs := e.regs, hbm := e.hbm, nvm := e.nvm, hif := e.hif, out := e.out, log := e.log } } :=
  congrArg (fun d => { s with dev := d }) h

section
variable (d : Dev) (pc cause sector shown : Nat) (slot : Option Nat) (info : Word)

theorem Dev.freezeAlone_freezeTold : d.FreezeAlone (d.freezeTold pc cause sector shown slot) := by
  have hrecord (e : Dev) (c k sub obj : Nat) (l : List Nat) : e.FreezeAlone (e.record c k sub obj l) := by
    unfold Dev.FreezeAlone
    rw [Dev.record_eq]
  have hlog (e : Dev) (k : LogKind) (v : Nat) (l : List Nat) : e.FreezeAlone (e.nvmLog k v l) := by
    unfold Dev.FreezeAlone
    rw [Dev.nvmLog_eq]
  have hpost (e : Dev) (c : Nat) (k : EventCode) (obj : Nat) (l : List Nat) : e.FreezeAlone (e.postEvent c k obj l) := by
    unfold Dev.FreezeAlone
    rw [Dev.postEvent_eq]
  exact (((hrecord _ _ _ _ _ _).trans (hlog _ _ _ _)).trans (Dev.freezeAlone_onPc _ _ _)).trans (hpost _ _ _ _ _)

/-- What a freeze tells writes no register of MEM. -/
theorem Dev.reg_freezeTold {a : Nat} (ha : a < 0xD02000) : (d.freezeTold pc cause sector shown slot).reg a = d.reg a := by
  unfold Dev.freezeTold Dev.freezeNoted
  dsimp only
  rw [Dev.reg_postEvent, Dev.onPc_read_reg, Dev.reg_nvmLog, Dev.reg_record]
  all_goals
    refine ne_of_lt (lt_of_lt_of_le ha ?_)
    decide

theorem Dev.regsAlone_snapFilled : d.RegsAlone (d.snapFilled pc sector info slot) := by
  cases slot with
  | none => rfl
  | some i =>
    have hlisted (e : Dev) (cmds : List Nat) : e.RegsAlone (e.snapListed i cmds) := by
      unfold Dev.snapListed
      exact List.foldlRecOn (motive := fun t : Dev => e.RegsAlone t) _ _ (Dev.RegsAlone.refl e)
        fun t ht j _ => ht.trans (Dev.regsAlone_setReg _ _ _)
    exact (((d.regsAlone_setReg _ _).trans (Dev.regsAlone_setReg _ _ _)).trans (Dev.regsAlone_setReg _ _ _)).trans (hlisted _ _)

/-- The commands of a snapshot lie above its other registers. -/
theorem Dev.reg_snapListed (i : Nat) (cmds : List Nat) {a : Nat} (ha : a < Reg.memSnapCmd 0 0) : (d.snapListed i cmds).reg a = d.reg a := by
  unfold Dev.snapListed
  refine Dev.foldl_keeps (fun e => e.reg a) (fun e j _ => Dev.reg_setReg_other _ _ ?_) d
  unfold Reg.memSnapCmd at ha ⊢
  omega

/-- Below the snapshots a freeze writes what it marks. -/
theorem Dev.reg_snapFilled {a : Nat} (ha : a < Reg.memSnapInfo 0) : (d.snapFilled pc sector info slot).reg a = d.reg a := by
  cases slot with
  | none => rfl
  | some i =>
    have hcmd : a < Reg.memSnapCmd 0 0 := lt_of_lt_of_le ha (by decide)
    rw [Dev.snapFilled, Dev.reg_snapListed _ _ _ hcmd, Dev.snapHeaded, Dev.reg_setReg_other, Dev.reg_setReg_other, Dev.reg_setReg_other]
    all_goals
      unfold Reg.memSnapInfo at ha
      simp only [Reg.memSnapInfo, Reg.memSnapStroke, Reg.memSnapSector]
      omega

theorem Dev.freezeAlone_freeze (synd : Nat) : d.FreezeAlone (d.freeze pc cause sector synd) := by
  rw [Dev.freeze_eq]
  exact ((((d.regsAlone_setFld _ _ _).trans (Dev.regsAlone_setFld _ _ _ _)).trans (Dev.regsAlone_snapFilled _ _ _ _ _)).freezeAlone).trans
    (Dev.freezeAlone_freezeTold _ _ _ _ _ _)

theorem Dev.reg_freeze (synd : Nat) {a : Nat} (ha : a < Reg.memSnapInfo 0) :
    (d.freeze pc cause sector synd).reg a = (d.freezeMarked pc).reg a := by
  rw [Dev.freeze_eq, Dev.reg_freezeTold _ _ _ _ _ _ (lt_of_lt_of_le ha (by decide)), Dev.reg_snapFilled _ _ _ _ _ ha]

/-- The first free slot holds what the freeze found. -/
theorem Dev.snap_freeze (synd : Nat) (h : d.snapSlot = some 0) :
    (d.freeze pc cause sector synd).reg (Reg.memSnapInfo 0) = snapInfoWord pc cause (d.regionCrew pc (sector * 32)) synd ∧
      (d.freeze pc cause sector synd).reg (Reg.memSnapSector 0) = BitVec.ofNat 32 sector ∧
      (d.freeze pc cause sector synd).reg (Reg.memSnapStroke 0) = BitVec.ofNat 32 d.nowLo := by
  rw [Dev.freeze_eq, h]
  refine ⟨?_, ?_, ?_⟩
  · rw [Dev.reg_freezeTold _ _ _ _ _ _ (by decide), Dev.snapFilled, Dev.reg_snapListed _ _ _ (by decide), Dev.snapHeaded,
      Dev.reg_setReg_other _ _ (by decide), Dev.reg_setReg_other _ _ (by decide), Dev.reg_setReg_same]
  · rw [Dev.reg_freezeTold _ _ _ _ _ _ (by decide), Dev.snapFilled, Dev.reg_snapListed _ _ _ (by decide), Dev.snapHeaded,
      Dev.reg_setReg_same]
  · rw [Dev.reg_freezeTold _ _ _ _ _ _ (by decide), Dev.snapFilled, Dev.reg_snapListed _ _ _ (by decide), Dev.snapHeaded,
      Dev.reg_setReg_other _ _ (by decide), Dev.reg_setReg_same, Dev.setReg_read_nowLo, Dev.freezeMarked, Dev.addFld_read_nowLo, Dev.setFld_read_nowLo]
end

end Sys2Proof.Machine
end

section
/-! PROOFS. The HBM controller: requests that are refused or wait, errors and freezes (R418, R421, R427, R428).
Lemmas for O55. -/

namespace Sys2Proof.Machine

/-! ## Where the registers of the pseudo-channels lie -/

theorem memPcStatus_ne_memStatus (k : Nat) : Reg.memPcStatus k ≠ Reg.memStatus := by unfold Reg.memPcStatus Reg.memStatus; omega

theorem memPcErr_ne_memStatus (k : Nat) : Reg.memPcErr k ≠ Reg.memStatus := by unfold Reg.memPcErr Reg.memStatus; omega

theorem memPcStatus_ne_memPcErr (k j : Nat) : Reg.memPcStatus k ≠ Reg.memPcErr j := by unfold Reg.memPcStatus Reg.memPcErr; omega

theorem memPcStatus_ne {k j : Nat} (h : k ≠ j) : Reg.memPcStatus k ≠ Reg.memPcStatus j := by unfold Reg.memPcStatus; omega

theorem memPcStatus_lt {k : Nat} (h : k < 128) : Reg.memPcStatus k < Reg.memSnapInfo 0 := by unfold Reg.memPcStatus Reg.memSnapInfo; omega

theorem memPcErr_lt {k : Nat} (h : k < 128) : Reg.memPcErr k < Reg.memSnapInfo 0 := by unfold Reg.memPcErr Reg.memSnapInfo; omega

theorem Dev.RegsAlone.shown {s : State} {e : Dev} (h : s.dev.RegsAlone e) :
    ({ s with dev := e } : State) = { s with dev := { s.dev with regs := e.regs, out := e.out } } := by
  unfold Dev.RegsAlone at h
  rw [h]

theorem Dev.RegsAlone.emitted {s : State} {e : Dev} (h : s.dev.RegsAlone e) (o : Output) :
    ({ s with dev := e.emit o } : State) = { s with dev := { s.dev with regs := (e.emit o).regs, out := (e.emit o).out } } := by
  unfold Dev.RegsAlone at h
  rw [h]
  rfl

theorem Dev.RegsAlone.showsOnly {d e : Dev} (h : d.RegsAlone e) (o : Output) : d.ShowsOnly (e.emit o) o := by
  unfold Dev.RegsAlone at h
  rw [h]
  rfl

/-- A request of a Crew that does not own the region is refused. -/
theorem hbmRequest_refused {s : State} {pc addr : Nat} (crew flips : Nat) {w : Option (List Nat)} (hp : pc < 128)
    (ha : addr + max 1 (w.getD []).length ≤ 2 ^ 29) (hr : s.dev.inReset 3 = false) (hok : s.dev.pcState pc = 0)
    (hown : s.dev.regionCrew pc addr ≠ crew) :
    ∃ t, exec (.hbmRequest pc crew addr w flips) s = .next t ∧
      t.dev.fld (Reg.memPcErr pc) F.memPcErr_tagErr = (s.dev.fld (Reg.memPcErr pc) F.memPcErr_tagErr + 1) % 256 ∧
      t = { s with dev := { s.dev with regs := t.dev.regs, out := t.dev.out } } ∧
      if w.isSome = true then t.dev.out = s.dev.out else s.dev.ShowsOnly t.dev (.hbmData pc (addr / 32 * 32) [] true) := by
  have hexec := exec_hbmRequest (flips := flips) crew hp ha hr
  rw [accept_of_ok (x := (s.mem, s.dev)) hok, serve_of_other (x := (s.mem, s.dev)) hown] at hexec
  have hcount := s.dev.fld_addFld_same (Reg.memPcErr pc) (f := F.memPcErr_tagErr) ⟨by decide, by decide⟩ 1
  have halone : s.dev.RegsAlone (s.dev.addFld (Reg.memPcErr pc) F.memPcErr_tagErr 1) := s.dev.regsAlone_setFld _ _ _
  cases w with
  | some l => exact ⟨_, hexec, hcount, halone.shown, halone.out⟩
  | none => exact ⟨_, hexec, hcount, halone.emitted _, halone.showsOnly _⟩

/-- A request of a frozen pseudo-channel waits. -/
theorem hbmRequest_waits {s : State} {pc addr : Nat} (crew flips : Nat) {w : Option (List Nat)} (hp : pc < 128)
    (ha : addr + max 1 (w.getD []).length ≤ 2 ^ 29) (hr : s.dev.inReset 3 = false) (hfrozen : s.dev.pcState pc = 1) :
    ∃ t, exec (.hbmRequest pc crew addr w flips) s = .next t ∧
      t.dev.pc pc = { s.dev.pc pc with waiting := (s.dev.pc pc).waiting ++ [⟨crew, addr, w, flips⟩] } ∧
      (∀ k, k ≠ pc → t.dev.pc k = s.dev.pc k) ∧ t = { s with dev := { s.dev with hbm := t.dev.hbm } } := by
  have hexec := exec_hbmRequest (flips := flips) crew hp ha hr
  rw [accept_of_frozen (x := (s.mem, s.dev)) hfrozen] at hexec
  exact ⟨_, hexec, s.dev.pc_onPc_same pc _, fun k hk => s.dev.pc_onPc_other pc _ hk, rfl⟩

/-! ## Errors (R427) -/

theorem Dev.pc_setFld (d : Dev) (a : Nat) (f : Fld) (v k : Nat) : (d.setFld a f v).pc k = d.pc k := Dev.pc_of_hbm (d.setFld_hbm a f v) k

theorem Dev.fld_onPc (d : Dev) (k : Nat) (g : PcDyn → PcDyn) (a : Nat) (f : Fld) : (d.onPc k g).fld a f = d.fld a f := by
  rw [Dev.fld, Dev.onPc_read_reg, Dev.fld]

theorem Dev.frozeLately_countUe (d : Dev) (pc sector : Nat) : (d.countUe pc).frozeLately pc sector = d.frozeLately pc sector := by
  unfold Dev.frozeLately Dev.countUe Dev.addFld
  rw [Dev.pc_setFld, Dev.setFld_read_now]

section
variable (d : Dev) (pc : Nat)

theorem Dev.pcState_freezeMarked : (d.freezeMarked pc).pcState pc = 1 := by
  unfold Dev.pcState Dev.freezeMarked Dev.addFld
  rw [Dev.fld_setFld_other _ _ _ _ (memPcStatus_ne_memStatus pc), Dev.fld_setFld_same _ _ ⟨by decide, by decide⟩]
  rfl

theorem Dev.frozen_freezeMarked : (d.freezeMarked pc).fld Reg.memStatus F.memStatus_frozen = (d.fld Reg.memStatus F.memStatus_frozen + 1) % 256 := by
  unfold Dev.freezeMarked
  rw [Dev.fld_addFld_same _ _ ⟨by decide, by decide⟩, Dev.fld_setFld_other _ _ _ _ (memPcStatus_ne_memStatus pc).symm]
  rfl

theorem Dev.reg_freezeMarked {a : Nat} (h₁ : a ≠ Reg.memPcStatus pc) (h₂ : a ≠ Reg.memStatus) : (d.freezeMarked pc).reg a = d.reg a := by
  rw [Dev.freezeMarked, Dev.reg_addFld_other _ _ _ h₂, Dev.reg_setFld_other _ _ _ h₁]

theorem Dev.snapSlot_of_free (h : d.flag (Reg.memSnapInfo 0) F.memSnapInfo_valid = false) : d.snapSlot = some 0 := by
  show [0, 1, 2, 3].find? _ = _
  rw [List.find?_cons_of_pos]
  rw [h]
  rfl
end

/-- The word of a snapshot shows that it is valid. -/
theorem snapInfoWord_valid {pc synd : Nat} (crew : Nat) (hp : pc < 128) (hs : synd < 65536) :
    F.memSnapInfo_valid.get (snapInfoWord pc 1 crew synd) = 1 := by
  have hc : crew % 32 < 32 := Nat.mod_lt _ (by decide)
  unfold snapInfoWord Fld.get Fld.width
  rw [BitVec.toNat_ofNat]
  simp only [pack, List.foldl_cons, List.foldl_nil]
  omega

theorem exec_hbmUncorrectableRead {s : State} {pc : Nat} (sector crew syn : Nat) (h : s.dev.pcState pc = 0) :
    exec (.hbmUncorrectableRead pc sector crew syn) s = .next { s with dev := s.dev.readBad pc sector crew syn } := by
  show execHbmUncorrectableRead pc sector crew syn s = _
  rw [execHbmUncorrectableRead, State.lift_eq, if_pos h]

/-- A pseudo-channel froze over a read that waits for the thaw. -/
def Dev.frozenOver (d : Dev) (pc sector crew synd : Nat) : Dev :=
  (d.freeze pc 1 sector synd).onPc pc fun x => { x with failing := some (sector, crew) }

theorem Dev.readBad_of_lately {d : Dev} {pc sector : Nat} (crew synd : Nat) (h : d.frozeLately pc sector = true) :
    d.readBad pc sector crew synd = (d.countUe pc).emit (.hbmData pc (sector * 32) [] true) :=
  if_pos ((d.frozeLately_countUe pc sector).trans h)

theorem Dev.readBad_of_new {d : Dev} {pc sector : Nat} (crew synd : Nat) (h : ¬ d.frozeLately pc sector = true) :
    d.readBad pc sector crew synd = (d.countUe pc).frozenOver pc sector crew synd :=
  if_neg (by rwa [d.frozeLately_countUe pc sector])

section
variable (d : Dev) {pc : Nat} (sector crew synd : Nat)

theorem Dev.pc_frozenOver : ((d.frozenOver pc sector crew synd).pc pc).failing = some (sector, crew) := by
  rw [Dev.frozenOver, Dev.pc_onPc_same]

theorem Dev.reg_frozenOver (a : Nat) : (d.frozenOver pc sector crew synd).reg a = (d.freeze pc 1 sector synd).reg a := by
  rw [Dev.frozenOver, Dev.onPc_read_reg]

theorem Dev.freezeAlone_frozenOver : d.FreezeAlone (d.frozenOver pc sector crew synd) :=
  (d.freezeAlone_freeze pc 1 sector synd).trans (Dev.freezeAlone_onPc _ _ _)

variable (hp : pc < 128)
include hp

theorem Dev.pcState_freeze (cause : Nat) : (d.freeze pc cause sector synd).pcState pc = 1 := by
  rw [← d.pcState_freezeMarked pc, Dev.pcState, Dev.pcState, Dev.fld, Dev.fld, Dev.reg_freeze _ _ _ _ _ (memPcStatus_lt hp)]

omit hp in
theorem Dev.pcState_freeze_other (cause : Nat) {k : Nat} (hk : k < 128) (hne : k ≠ pc) :
    (d.freeze pc cause sector synd).pcState k = d.pcState k := by
  rw [Dev.pcState, Dev.pcState, Dev.fld, Dev.fld, Dev.reg_freeze _ _ _ _ _ (memPcStatus_lt hk),
    Dev.reg_freezeMarked _ _ (memPcStatus_ne hne) (memPcStatus_ne_memStatus k)]

theorem Dev.errors_freeze (cause : Nat) (f : Fld) : (d.freeze pc cause sector synd).fld (Reg.memPcErr pc) f = d.fld (Reg.memPcErr pc) f := by
  rw [Dev.fld, Dev.fld, Dev.reg_freeze _ _ _ _ _ (memPcErr_lt hp),
    Dev.reg_freezeMarked _ _ (memPcStatus_ne_memPcErr pc pc).symm (memPcErr_ne_memStatus pc)]
end

/-- An uncorrectable read counts, and freezes unless its sector froze lately. -/
theorem uncorrectableRead_freezes {s : State} {pc syn : Nat} (sector crew : Nat) (hp : pc < 128) (hsyn : syn < 65536)
    (hok : s.dev.pcState pc = 0) :
    ∃ t, exec (.hbmUncorrectableRead pc sector crew syn) s = .next t ∧
      t.dev.fld (Reg.memPcErr pc) F.memPcErr_ue = (s.dev.fld (Reg.memPcErr pc) F.memPcErr_ue + 1) % 65536 ∧ t.mem = s.mem ∧
      if s.dev.frozeLately pc sector = true then t.dev.pcState pc = 0 ∧ s.dev.ShowsOnly t.dev (.hbmData pc (sector * 32) [] true) ∧
        s.dev.KeepsRegs t.dev [Reg.memPcErr pc]
      else t.dev.pcState pc = 1 ∧ (t.dev.pc pc).failing = some (sector, crew) ∧
        t.dev.fld Reg.memStatus F.memStatus_frozen = (s.dev.fld Reg.memStatus F.memStatus_frozen + 1) % 256 ∧
        (s.dev.flag (Reg.memSnapInfo 0) F.memSnapInfo_valid = false → t.dev.flag (Reg.memSnapInfo 0) F.memSnapInfo_valid = true ∧
          t.dev.reg (Reg.memSnapSector 0) = BitVec.ofNat 32 sector ∧ t.dev.reg (Reg.memSnapStroke 0) = BitVec.ofNat 32 s.dev.nowLo) ∧
        t = { s with dev := { s.dev with regs := t.dev.regs, hbm := t.dev.hbm, nvm := t.dev.nvm, hif := t.dev.hif, out := t.dev.out
                                         log := t.dev.log } } := by
  have hcount : (s.dev.countUe pc).fld (Reg.memPcErr pc) F.memPcErr_ue = (s.dev.fld (Reg.memPcErr pc) F.memPcErr_ue + 1) % 65536 :=
    s.dev.fld_addFld_same _ ⟨by decide, by decide⟩ 1
  have hkeeps : s.dev.KeepsRegs (s.dev.countUe pc) [Reg.memPcErr pc] := s.dev.keepsRegs_addFld _ _ _
  have halone : s.dev.RegsAlone (s.dev.countUe pc) := s.dev.regsAlone_setFld _ _ _
  refine ⟨_, exec_hbmUncorrectableRead sector crew syn hok, ?_⟩
  by_cases hlate : s.dev.frozeLately pc sector = true
  · rw [if_pos hlate, Dev.readBad_of_lately _ _ hlate]
    have hstate : (s.dev.countUe pc).pcState pc = 0 := (hkeeps.fld (mt List.mem_singleton.mp (memPcStatus_ne_memPcErr pc pc)) _).trans hok
    exact ⟨hcount, rfl, hstate, halone.showsOnly _, hkeeps.emit _⟩
  · rw [if_neg hlate, Dev.readBad_of_new _ _ hlate]
    have hfrozen : (s.dev.countUe pc).fld Reg.memStatus F.memStatus_frozen = s.dev.fld Reg.memStatus F.memStatus_frozen :=
      hkeeps.fld (mt List.mem_singleton.mp (memPcErr_ne_memStatus pc).symm) _
    have hlo : (s.dev.countUe pc).nowLo = s.dev.nowLo := Dev.addFld_read_nowLo _ _ _ _
    refine ⟨?_, rfl, ?_, Dev.pc_frozenOver _ _ _ _, ?_, fun hfree => ?_, ?_⟩
    · rw [Dev.fld, Dev.reg_frozenOver]
      exact (Dev.errors_freeze _ _ _ hp _ _).trans hcount
    · rw [Dev.pcState, Dev.fld, Dev.reg_frozenOver]
      exact Dev.pcState_freeze _ _ _ hp _
    · rw [Dev.fld, Dev.reg_frozenOver, Dev.reg_freeze _ _ _ _ _ (by decide)]
      exact (Dev.frozen_freezeMarked _ _).trans (by rw [hfrozen])
    · have hslot := Dev.snapSlot_of_free _ ((hkeeps.flag (mt List.mem_singleton.mp (memPcErr_lt hp).ne') _).trans hfree)
      obtain ⟨hinfo, hsector, hstroke⟩ := (s.dev.countUe pc).snap_freeze pc 1 sector syn hslot
      refine ⟨?_, ?_, ?_⟩
      · rw [Dev.flag, Dev.reg_frozenOver, hinfo, snapInfoWord_valid _ hp hsyn]
        rfl
      · rw [Dev.reg_frozenOver, hsector]
      · rw [Dev.reg_frozenOver, hstroke, hlo]
    · exact (halone.freezeAlone.trans (Dev.freezeAlone_frozenOver _ _ _ _)).state

/-! ## Address parity errors (R427) -/

/-- The instants of the address parity errors of the last millisecond, the new one among them. -/
def Dev.parityTimes (d : Dev) (pc ns : Nat) : List Nat :=
  d.localNs ns :: (d.pc pc).parity.filter fun u => decide (d.localNs ns < u + 1000000)

/-- An address parity error counts. -/
def Dev.parityCounted (d : Dev) (pc ns : Nat) : Dev :=
  (d.addFld (Reg.memPcErr pc) F.memPcErr_caParity 1).onPc pc fun x => { x with parity := d.parityTimes pc ns }

theorem exec_caParityError (s : State) (pc sector ns : Nat) (retryOk : Bool) :
    exec (.caParityError pc sector retryOk ns) s = .next { s with
      dev := if ((s.dev.parityCounted pc ns).pcState pc = 0 && (!retryOk || decide (4 ≤ (s.dev.parityTimes pc ns).length))) = true then
        (s.dev.parityCounted pc ns).freeze pc 2 sector 0 else s.dev.parityCounted pc ns } := rfl

theorem Dev.pcState_parityCounted (d : Dev) (pc ns k : Nat) : (d.parityCounted pc ns).pcState k = d.pcState k := by
  unfold Dev.pcState Dev.parityCounted
  rw [Dev.fld_onPc, Dev.addFld, Dev.fld_setFld_other _ _ _ _ (memPcStatus_ne_memPcErr k pc)]

theorem Dev.caParity_parityCounted (d : Dev) (pc ns : Nat) : (d.parityCounted pc ns).fld (Reg.memPcErr pc) F.memPcErr_caParity =
    (d.fld (Reg.memPcErr pc) F.memPcErr_caParity + 1) % 256 := by
  unfold Dev.parityCounted
  rw [Dev.fld_onPc, Dev.fld_addFld_same _ _ ⟨by decide, by decide⟩]
  rfl

/-- A fourth address parity error within a millisecond, or one on a retry, freezes. -/
theorem caParityError_freezes (s : State) {pc : Nat} (sector ns : Nat) (retryOk : Bool) (hp : pc < 128) :
    ∃ t, exec (.caParityError pc sector retryOk ns) s = .next t ∧
      t.dev.fld (Reg.memPcErr pc) F.memPcErr_caParity = (s.dev.fld (Reg.memPcErr pc) F.memPcErr_caParity + 1) % 256 ∧
      t.dev.pcState pc = (if s.dev.pcState pc = 0 ∧ (retryOk = false ∨
        3 ≤ ((s.dev.pc pc).parity.filter fun u => decide (s.dev.localNs ns < u + 1000000)).length) then 1 else s.dev.pcState pc) ∧
      (∀ k < 128, k ≠ pc → t.dev.pcState k = s.dev.pcState k) ∧ t.mem = s.mem := by
  have htest : ((s.dev.parityCounted pc ns).pcState pc = 0 && (!retryOk || decide (4 ≤ (s.dev.parityTimes pc ns).length))) = true ↔
      s.dev.pcState pc = 0 ∧ (retryOk = false ∨
        3 ≤ ((s.dev.pc pc).parity.filter fun u => decide (s.dev.localNs ns < u + 1000000)).length) := by
    rw [Dev.pcState_parityCounted, Dev.parityTimes, List.length_cons]
    simp only [Bool.and_eq_true, Bool.or_eq_true, Bool.not_eq_true', decide_eq_true_eq, Nat.add_le_add_iff_right (m := 3) (n := 1)]
  refine ⟨_, exec_caParityError s pc sector ns retryOk, ?_⟩
  by_cases h : s.dev.pcState pc = 0 ∧ (retryOk = false ∨
      3 ≤ ((s.dev.pc pc).parity.filter fun u => decide (s.dev.localNs ns < u + 1000000)).length)
  · rw [if_pos (htest.mpr h), if_pos h]
    exact ⟨(Dev.errors_freeze _ _ _ hp _ _).trans (s.dev.caParity_parityCounted pc ns), Dev.pcState_freeze _ _ _ hp _,
      fun k hk hne => (Dev.pcState_freeze_other _ _ _ _ hk hne).trans (s.dev.pcState_parityCounted pc ns k), rfl⟩
  · rw [if_neg (fun ht => h (htest.mp ht)), if_neg h]
    exact ⟨s.dev.caParity_parityCounted pc ns, s.dev.pcState_parityCounted pc ns pc, fun k _ _ => s.dev.pcState_parityCounted pc ns k, rfl⟩

end Sys2Proof.Machine
end

section
/-! PROOFS. The HBM controller: thaws, refreshes, temperature, scrub, tracking and the save of the centres (R423–R426, R429, R430).
Lemmas for O55. -/

namespace Sys2Proof.Machine

/-! ## Thaws (R429, R430) -/

/-- Nothing changes but pseudo-channels. -/
def Dev.HbmAlone (d e : Dev) : Prop := e = { d with hbm := e.hbm }

theorem Dev.HbmAlone.trans {d e t : Dev} (h : d.HbmAlone e) (h' : e.HbmAlone t) : d.HbmAlone t := by
  unfold Dev.HbmAlone at h h' ⊢
  rw [h', h]

theorem Dev.hbmAlone_onPc (d : Dev) (k : Nat) (f : PcDyn → PcDyn) : d.HbmAlone (d.onPc k f) := rfl

theorem Dev.hbmAlone_pcCmd (d : Dev) (k op off : Nat) : d.HbmAlone (d.pcCmd k op off) := by
  obtain ⟨w, hw⟩ := d.pcCmd_eq k op off
  rw [hw]
  exact d.hbmAlone_onPc k _

theorem Dev.HbmAlone.reg {d e : Dev} (h : d.HbmAlone e) (a : Nat) : e.reg a = d.reg a := by
  unfold Dev.HbmAlone at h
  rw [h]
  rfl

theorem Dev.HbmAlone.fld {d e : Dev} (h : d.HbmAlone e) (a : Nat) (f : Fld) : e.fld a f = d.fld a f := by rw [Dev.fld, h.reg, Dev.fld]

theorem Dev.HbmAlone.out {d e : Dev} (h : d.HbmAlone e) : e.out = d.out := by
  unfold Dev.HbmAlone at h
  rw [h]

theorem Dev.HbmAlone.state {s : State} {e : Dev} (h : s.dev.HbmAlone e) :
    ({ s with dev := e } : State) = { s with dev := { s.dev with hbm := e.hbm } } := congrArg (fun d => { s with dev := d }) h

/-- The refreshes that a pseudo-channel owes are issued. -/
def Dev.owedIssued (d : Dev) (pc : Nat) (l : List Nat) : Dev := l.foldl (fun d b => d.pcCmd pc 5 b) d

section
variable (d : Dev) (pc : Nat) (l : List Nat)

theorem Dev.hbmAlone_owedIssued : d.HbmAlone (d.owedIssued pc l) := by
  unfold Dev.owedIssued
  exact List.foldlRecOn (motive := fun t : Dev => d.HbmAlone t) _ _ rfl fun t ht b _ => ht.trans (t.hbmAlone_pcCmd _ _ _)

/-- Issued refreshes change the list of commands alone. -/
theorem Dev.pc_owedIssued_same : (d.owedIssued pc l).pc pc = { d.pc pc with cmds := ((d.owedIssued pc l).pc pc).cmds } := by
  unfold Dev.owedIssued
  refine List.foldlRecOn (motive := fun t : Dev => t.pc pc = { d.pc pc with cmds := (t.pc pc).cmds }) _ _ rfl fun t ht b _ => ?_
  rw [t.pc_pcCmd_same]
  dsimp only
  rw [ht]

theorem Dev.pc_owedIssued_other {k : Nat} (h : k ≠ pc) : (d.owedIssued pc l).pc k = d.pc k := by
  unfold Dev.owedIssued
  exact List.foldlRecOn (motive := fun t : Dev => t.pc k = d.pc k) _ _ rfl fun t ht b _ => (t.pc_pcCmd_other _ _ _ h).trans ht
end

/-- The registers of MEM that a thaw marks. -/
def Dev.thawMarked (d : Dev) (pc : Nat) : Dev :=
  (d.setFld (Reg.memPcStatus pc) F.memPcStatus_state 0).setFld Reg.memStatus F.memStatus_frozen (d.fld Reg.memStatus F.memStatus_frozen - 1)

/-- The failing read of a pseudo-channel gets poisoned data. -/
def Dev.failingShown (d : Dev) (pc : Nat) : Option (Nat × Nat) → Dev
  | some (sector, _) => d.emit (.hbmData pc (sector * 32) [] true)
  | none => d

/-- Nothing waits behind a freeze any more. -/
def PcDyn.thawed (q : PcDyn) : PcDyn := { q with waiting := [], owed := [], failing := none }

theorem Dev.thawed_eq (d : Dev) (pc : Nat) :
    d.thawed pc = (((d.thawMarked pc).failingShown pc (d.pc pc).failing).owedIssued pc (d.pc pc).owed).onPc pc PcDyn.thawed := by
  unfold Dev.thawed Dev.thawMarked
  dsimp only
  cases (d.pc pc).failing <;> rfl

section
variable (d : Dev) (pc : Nat) (o : Option (Nat × Nat))

theorem Dev.hbm_failingShown : (d.failingShown pc o).hbm = d.hbm := by cases o <;> rfl

theorem Dev.reg_failingShown (a : Nat) : (d.failingShown pc o).reg a = d.reg a := by cases o <;> rfl

theorem Dev.fld_failingShown (a : Nat) (f : Fld) : (d.failingShown pc o).fld a f = d.fld a f := by rw [Dev.fld, Dev.reg_failingShown, Dev.fld]

theorem Dev.regsAlone_thawMarked : d.RegsAlone (d.thawMarked pc) := (d.regsAlone_setFld _ _ _).trans (Dev.regsAlone_setFld _ _ _ _)

theorem Dev.hbm_thawMarked : (d.thawMarked pc).hbm = d.hbm := by rw [d.regsAlone_thawMarked pc]

theorem Dev.failingShown_eq : d.failingShown pc o = { d with out := match o with
    | some (sector, _) => .hbmData pc (sector * 32) [] true :: d.out
    | none => d.out } := by cases o <;> rfl

theorem Dev.pcState_thawed : (d.thawed pc).pcState pc = 0 := by
  rw [Dev.thawed_eq, Dev.pcState, Dev.fld_onPc, (Dev.hbmAlone_owedIssued _ _ _).fld, Dev.fld_failingShown, Dev.thawMarked,
    Dev.fld_setFld_other _ _ _ _ (memPcStatus_ne_memStatus pc), Dev.fld_setFld_same _ _ ⟨by decide, by decide⟩, Nat.zero_mod]

theorem Dev.frozen_thawed : (d.thawed pc).fld Reg.memStatus F.memStatus_frozen = d.fld Reg.memStatus F.memStatus_frozen - 1 := by
  have hlt : d.fld Reg.memStatus F.memStatus_frozen < 256 := Fld.get_lt _ _
  rw [Dev.thawed_eq, Dev.fld_onPc, (Dev.hbmAlone_owedIssued _ _ _).fld, Dev.fld_failingShown, Dev.thawMarked,
    Dev.fld_setFld_same _ _ ⟨by decide, by decide⟩]
  exact Nat.mod_eq_of_lt (lt_of_le_of_lt (Nat.sub_le _ _) hlt)

theorem Dev.pc_thawed_same : (d.thawed pc).pc pc =
    { d.pc pc with waiting := [], owed := [], failing := none, cmds := ((d.thawed pc).pc pc).cmds } := by
  rw [Dev.thawed_eq, Dev.pc_onPc_same, Dev.pc_owedIssued_same,
    Dev.pc_of_hbm ((Dev.hbm_failingShown _ _ _).trans (d.hbm_thawMarked pc))]
  rfl

theorem Dev.pc_thawed_other {k : Nat} (h : k ≠ pc) : (d.thawed pc).pc k = d.pc k := by
  rw [Dev.thawed_eq, Dev.pc_onPc_other _ _ _ h, Dev.pc_owedIssued_other _ _ _ h,
    Dev.pc_of_hbm ((Dev.hbm_failingShown _ _ _).trans (d.hbm_thawMarked pc))]

theorem Dev.out_thawed : (d.thawed pc).out = (match (d.pc pc).failing with
    | some (sector, _) => .hbmData pc (sector * 32) [] true :: d.out
    | none => d.out) := by
  rw [Dev.thawed_eq, Dev.onPc_out, (Dev.hbmAlone_owedIssued _ _ _).out, Dev.failingShown_eq, (d.regsAlone_thawMarked pc).out]

theorem Dev.thawed_alone : d.thawed pc = { d with regs := (d.thawed pc).regs, hbm := (d.thawed pc).hbm, out := (d.thawed pc).out } := by
  rw [Dev.thawed_eq]
  have hmarked := d.regsAlone_thawMarked pc
  have hshown := (d.thawMarked pc).failingShown_eq pc (d.pc pc).failing
  have hissued := (((d.thawMarked pc).failingShown pc (d.pc pc).failing).hbmAlone_owedIssued pc (d.pc pc).owed).trans
    (Dev.hbmAlone_onPc _ pc PcDyn.thawed)
  generalize (((d.thawMarked pc).failingShown pc (d.pc pc).failing).owedIssued pc (d.pc pc).owed).onPc pc PcDyn.thawed = t at hissued ⊢
  generalize (d.thawMarked pc).failingShown pc (d.pc pc).failing = e at hshown hissued
  generalize d.thawMarked pc = m at hmarked hshown
  unfold Dev.RegsAlone at hmarked
  unfold Dev.HbmAlone at hissued
  rw [hissued, hshown, hmarked]
end

theorem thawPc_of_frozen {x : HbmDev} {pc : Nat} (h : x.2.pcState pc = 1) :
    thawPc x pc = (x.2.pc pc).waiting.foldl (fun x r => accept x pc r) (x.1, x.2.thawed pc) := if_neg (not_not_intro h)

/-- The state of a thaw: what has thawed, then the waiting requests in order. -/
def State.thawedFrom (s : State) (l : List MemReq) (pc : Nat) (u : Dev) : State :=
  { s with mem := (l.foldl (fun x r => accept x pc r) (s.mem, u)).1, dev := (l.foldl (fun x r => accept x pc r) (s.mem, u)).2 }

theorem exec_thaw {s : State} {pc : Nat} (hm : s.dev.flag Reg.memCfg F.memCfg_freezeMode = false) (h : s.dev.pcState pc = 1) :
    exec (.thaw pc) s = .next (s.thawedFrom (s.dev.pc pc).waiting pc (s.dev.thawed pc)) := by
  show execThaw pc s = _
  rw [execThaw, State.liftMem_eq]
  dsimp only
  rw [hm, if_neg Bool.false_ne_true, thawPc_of_frozen (x := (s.mem, s.dev)) h]
  rfl

/-- The pseudo-channel that a write of MEM_THAW names is shown. -/
def Dev.thawNamed (d : Dev) (pc : Nat) : Dev := d.setFld Reg.memThaw F.memThaw_pc pc

theorem exec_memThawGo {s : State} {pc fn value : Nat} (hm : s.dev.flag Reg.memCfg F.memCfg_freezeMode = true)
    (hw : s.dev.mayWrite fn Reg.memThaw = true) (hgo : F.memThaw_go.get (BitVec.ofNat 32 value) = 1)
    (hpc : F.memThaw_pc.get (BitVec.ofNat 32 value) = pc) (h : s.dev.pcState pc = 1) :
    exec (.memThawGo fn value) s = .next (s.thawedFrom (s.dev.pc pc).waiting pc ((s.dev.thawNamed pc).thawed pc)) := by
  have hmode : (s.dev.thawNamed pc).flag Reg.memCfg F.memCfg_freezeMode = true := (Dev.flag_setFld_other _ _ _ _ (by decide)).trans hm
  have hstate : (s.dev.thawNamed pc).pcState pc = 1 := by
    refine (Dev.fld_setFld_other _ _ _ _ ?_).trans h
    unfold Reg.memPcStatus Reg.memThaw
    omega
  show execMemThawGo fn value s = _
  rw [execMemThawGo, State.liftMem_eq, thawWrite]
  dsimp only
  rw [if_pos hw, hgo, hpc]
  change Host.Outcome.next { s with
    mem := (if (decide (1 = 1) && (s.dev.thawNamed pc).flag Reg.memCfg F.memCfg_freezeMode) = true then
      thawPc (s.mem, s.dev.thawNamed pc) pc else (s.mem, s.dev.thawNamed pc)).1
    dev := (if (decide (1 = 1) && (s.dev.thawNamed pc).flag Reg.memCfg F.memCfg_freezeMode) = true then
      thawPc (s.mem, s.dev.thawNamed pc) pc else (s.mem, s.dev.thawNamed pc)).2 } = _
  rw [hmode, if_pos (by rfl), thawPc_of_frozen (x := (s.mem, s.dev.thawNamed pc)) hstate]
  have hsame : (s.dev.thawNamed pc).pc pc = s.dev.pc pc := Dev.pc_setFld _ _ _ _ _
  dsimp only
  rw [hsame]
  rfl

/-- What a thaw leaves of the device before the waiting requests proceed, from a device that only registers distinguish. -/
structure Dev.Thaws (d : Dev) (pc : Nat) (u : Dev) : Prop where
  running : u.pcState pc = 0
  cleared : u.pc pc = { d.pc pc with waiting := [], owed := [], failing := none, cmds := (u.pc pc).cmds }
  others : ∀ k, k ≠ pc → u.pc k = d.pc k
  frozen : u.fld Reg.memStatus F.memStatus_frozen = d.fld Reg.memStatus F.memStatus_frozen - 1
  out : u.out = (match (d.pc pc).failing with
    | some (sector, _) => .hbmData pc (sector * 32) [] true :: d.out
    | none => d.out)
  alone : u = { d with regs := u.regs, hbm := u.hbm, out := u.out }

theorem Dev.thaws_thawed (d : Dev) (pc : Nat) : d.Thaws pc (d.thawed pc) :=
  ⟨d.pcState_thawed pc, d.pc_thawed_same pc, fun _ h => d.pc_thawed_other pc h, d.frozen_thawed pc, d.out_thawed pc, d.thawed_alone pc⟩

/-- The pseudo-channel that MEM_THAW shows makes no difference to a thaw. -/
theorem Dev.thaws_thawNamed (d : Dev) (pc : Nat) : d.Thaws pc ((d.thawNamed pc).thawed pc) := by
  have hpc (k : Nat) : (d.thawNamed pc).pc k = d.pc k := Dev.pc_setFld _ _ _ _ _
  have hfrozen : (d.thawNamed pc).fld Reg.memStatus F.memStatus_frozen = d.fld Reg.memStatus F.memStatus_frozen :=
    Dev.fld_setFld_other _ _ _ _ (by decide)
  have hout : (d.thawNamed pc).out = d.out := Dev.setFld_out _ _ _ _
  have halone : d.RegsAlone (d.thawNamed pc) := d.regsAlone_setFld _ _ _
  obtain ⟨h₁, h₂, h₃, h₄, h₅, h₆⟩ := (d.thawNamed pc).thaws_thawed pc
  generalize d.thawNamed pc = e at hpc hfrozen hout halone h₁ h₂ h₃ h₄ h₅ h₆ ⊢
  rw [hpc] at h₂ h₅
  rw [hout] at h₅
  refine ⟨h₁, h₂, fun k hk => (h₃ k hk).trans (hpc k), h₄.trans (by rw [hfrozen]), h₅, ?_⟩
  generalize e.thawed pc = u at h₆ ⊢
  unfold Dev.RegsAlone at halone
  rw [h₆, halone]

/-! ## Refreshes (R423) -/

/-- The refreshes of a bank that are postponed. -/
def Dev.postponedTo (d : Dev) (pc bank n : Nat) : Dev := d.onPc pc fun x => { x with postponed := Tab.put zero x.postponed bank n }

theorem Dev.postponed_postponedTo (d : Dev) (pc bank n : Nat) : Tab.get zero ((d.postponedTo pc bank n).pc pc).postponed bank = n := by
  rw [Dev.postponedTo, Dev.pc_onPc_same]
  exact Tab.get_put_same _ _ _

theorem exec_refreshDue {s : State} {pc : Nat} (bank : Nat) (idle : Bool) (h : s.dev.pcState pc = 0) :
    exec (.refreshDue pc bank idle) s = .next { s with
      dev := if idle = true then (s.dev.pcCmd pc 5 bank).postponedTo pc bank 0
        else if Tab.get zero (s.dev.pc pc).postponed bank < 8 then s.dev.postponedTo pc bank (Tab.get zero (s.dev.pc pc).postponed bank + 1)
        else s.dev.pcCmd pc 5 bank } := by
  show execRefreshDue pc bank idle s = _
  rw [execRefreshDue, State.lift_eq, h]
  rfl

theorem exec_refreshDue_frozen {s : State} {pc : Nat} (bank : Nat) (idle : Bool) (h : s.dev.pcState pc = 1) :
    exec (.refreshDue pc bank idle) s = .next { s with dev := s.dev.onPc pc fun x => { x with owed := x.owed ++ [bank] } } := by
  show execRefreshDue pc bank idle s = _
  rw [execRefreshDue, State.lift_eq, h]
  rfl

/-- A refresh is issued, postponed up to eight times, or owed. -/
theorem refreshDue_counts {s : State} {pc : Nat} (bank : Nat) (idle : Bool) (h : s.dev.pcState pc ≤ 1) :
    ∃ t, exec (.refreshDue pc bank idle) s = .next t ∧ (∀ k, k ≠ pc → t.dev.pc k = s.dev.pc k) ∧
      t = { s with dev := { s.dev with hbm := t.dev.hbm } } ∧
      if s.dev.pcState pc = 1 then t.dev.pc pc = { s.dev.pc pc with owed := (s.dev.pc pc).owed ++ [bank] }
      else Tab.get zero (t.dev.pc pc).postponed bank = (if idle = true then 0 else min 8 (Tab.get zero (s.dev.pc pc).postponed bank + 1)) ∨
        8 < Tab.get zero (s.dev.pc pc).postponed bank := by
  rcases Nat.le_one_iff_eq_zero_or_eq_one.mp h with h0 | h1
  · refine ⟨_, exec_refreshDue bank idle h0, ?_⟩
    rw [if_neg (show ¬ s.dev.pcState pc = 1 by rw [h0]; decide)]
    by_cases hidle : idle = true
    · rw [if_pos hidle, if_pos hidle]
      exact ⟨fun k hk => (Dev.pc_onPc_other _ _ _ hk).trans (s.dev.pc_pcCmd_other _ _ _ hk),
        ((s.dev.hbmAlone_pcCmd _ _ _).trans (Dev.hbmAlone_onPc _ _ _)).state, .inl (Dev.postponed_postponedTo _ _ _ _)⟩
    · rw [if_neg hidle, if_neg hidle]
      by_cases hn : Tab.get zero (s.dev.pc pc).postponed bank < 8
      · rw [if_pos hn]
        exact ⟨fun k hk => Dev.pc_onPc_other _ _ _ hk, (Dev.hbmAlone_onPc _ _ _).state,
          .inl ((Dev.postponed_postponedTo _ _ _ _).trans (Nat.min_eq_right hn).symm)⟩
      · rw [if_neg hn]
        refine ⟨fun k hk => s.dev.pc_pcCmd_other _ _ _ hk, (s.dev.hbmAlone_pcCmd _ _ _).state, ?_⟩
        rw [s.dev.pc_pcCmd_same]
        dsimp only
        omega
  · refine ⟨_, exec_refreshDue_frozen bank idle h1, fun k hk => Dev.pc_onPc_other _ _ _ hk, (Dev.hbmAlone_onPc _ _ _).state, ?_⟩
    rw [if_pos h1, Dev.pc_onPc_same]

/-! ## The stack's temperature (R423) -/

/-- Whether the refresh rate of a stack is doubled, by its temperature and what it was. -/
def refreshTwice (temp old : Nat) : Nat := if 85 < temp then 1 else if temp < 80 then 0 else old

/-- A stack shows its temperature and rate. -/
def Dev.stackShown (d : Dev) (a temp twice : Nat) : Dev := (d.setFld a F.memStackStatus_temp temp).setFld a F.memStackStatus_refresh2x twice

/-- The rates of the stacks as MEM_STATUS shows them. -/
def Dev.ratesShown (d : Dev) : Dev :=
  d.setFld Reg.memStatus F.memStatus_refresh2x
    (sumBy (fun i => d.fld (Reg.memStackStatus i) F.memStackStatus_refresh2x * 2 ^ i) (List.range 4))

theorem exec_stackTempReport {s : State} {stack : Nat} (temp : Nat) (hs : stack < 4) (hr : s.dev.inReset 3 = false) :
    exec (.stackTempReport stack temp) s = .next { s with
      dev := (s.dev.stackShown (Reg.memStackStatus stack) temp
        (refreshTwice temp (s.dev.fld (Reg.memStackStatus stack) F.memStackStatus_refresh2x))).ratesShown } := by
  show execStackTempReport stack temp s = _
  rw [execStackTempReport, State.lift_eq, if_neg (by simp only [hr, Bool.false_eq_true, or_false]; omega)]
  rfl

/-- The rates of four stacks, one bit each. -/
theorem Dev.bitAt_ratesShown (d : Dev) {stack : Nat} (hs : stack < 4) :
    bitAt (d.ratesShown.fld Reg.memStatus F.memStatus_refresh2x) stack =
      (d.fld (Reg.memStackStatus stack) F.memStackStatus_refresh2x == 1) := by
  have hlt (i : Nat) : d.fld (Reg.memStackStatus i) F.memStackStatus_refresh2x < 2 := Fld.get_lt _ _
  have hsum : sumBy (fun i => d.fld (Reg.memStackStatus i) F.memStackStatus_refresh2x * 2 ^ i) (List.range 4) =
      d.fld (Reg.memStackStatus 0) F.memStackStatus_refresh2x + d.fld (Reg.memStackStatus 1) F.memStackStatus_refresh2x * 2 +
        d.fld (Reg.memStackStatus 2) F.memStackStatus_refresh2x * 4 + d.fld (Reg.memStackStatus 3) F.memStackStatus_refresh2x * 8 := by
    show sumBy _ [0, 1, 2, 3] = _
    simp only [sumBy, List.foldl_cons, List.foldl_nil]
    omega
  have h0 := hlt 0
  have h1 := hlt 1
  have h2 := hlt 2
  have h3 := hlt 3
  rw [Dev.ratesShown, Dev.fld_setFld_same _ _ ⟨by decide, by decide⟩, hsum, bitAt, Bool.eq_iff_iff, decide_eq_true_iff, beq_iff_eq]
  show _ % 2 ^ 4 / _ % 2 = 1 ↔ _
  interval_cases stack <;> omega

/-- A report of a stack's temperature sets its refresh rate. -/
theorem stackTempReport_setsRate {s : State} {stack temp : Nat} (hs : stack < 4) (ht : temp < 256) (hr : s.dev.inReset 3 = false) :
    ∃ t, exec (.stackTempReport stack temp) s = .next t ∧ t.dev.fld (Reg.memStackStatus stack) F.memStackStatus_temp = temp ∧
      t.dev.fld (Reg.memStackStatus stack) F.memStackStatus_refresh2x =
        refreshTwice temp (s.dev.fld (Reg.memStackStatus stack) F.memStackStatus_refresh2x) ∧
      bitAt (t.dev.fld Reg.memStatus F.memStatus_refresh2x) stack =
        (refreshTwice temp (s.dev.fld (Reg.memStackStatus stack) F.memStackStatus_refresh2x) == 1) ∧
      s.RegsOnly t [Reg.memStackStatus stack, Reg.memStatus] := by
  have hne : Reg.memStackStatus stack ≠ Reg.memStatus := by
    unfold Reg.memStackStatus Reg.memStatus
    omega
  have htwice : refreshTwice temp (s.dev.fld (Reg.memStackStatus stack) F.memStackStatus_refresh2x) < 2 := by
    have hold : s.dev.fld (Reg.memStackStatus stack) F.memStackStatus_refresh2x < 2 := Fld.get_lt _ _
    unfold refreshTwice
    split
    · decide
    · split
      · decide
      · exact hold
  refine ⟨_, exec_stackTempReport temp hs hr, ?_⟩
  generalize refreshTwice temp (s.dev.fld (Reg.memStackStatus stack) F.memStackStatus_refresh2x) = twice at htwice ⊢
  have hshown : (s.dev.stackShown (Reg.memStackStatus stack) temp twice).fld (Reg.memStackStatus stack) F.memStackStatus_refresh2x = twice :=
    (Dev.fld_setFld_same _ _ ⟨by decide, by decide⟩ _).trans (Nat.mod_eq_of_lt htwice)
  refine ⟨?_, ?_, ?_, ?_, ?_⟩
  · rw [Dev.ratesShown, Dev.fld_setFld_other _ _ _ _ hne, Dev.stackShown, Dev.fld_setFld_field _ _ ⟨by decide, by decide⟩ (by decide),
      Dev.fld_setFld_same _ _ ⟨by decide, by decide⟩]
    exact Nat.mod_eq_of_lt ht
  · rw [Dev.ratesShown, Dev.fld_setFld_other _ _ _ _ hne, hshown]
  · rw [Dev.bitAt_ratesShown _ hs, hshown]
  · exact ((s.dev.regsAlone_setFld _ _ _).setFld _ _ _ |>.setFld _ _ _).state
  · exact (((s.dev.keepsRegs_setFld _ _ _).trans (Dev.keepsRegs_setFld _ _ _ _)).mono (by simp)).trans
      ((Dev.keepsRegs_setFld _ _ _ _).mono (by simp))

end Sys2Proof.Machine
end

section
/-! PROOFS. The HBM controller: scrub, tracking and the save of the centres (R424–R426), and its statement.
Settles O55. -/

namespace Sys2Proof.Machine

/-! ## The scrub (R424) -/

theorem hbmAddr_inj {pc a b : Nat} (h : hbmAddr pc a = hbmAddr pc b) : a = b := Nat.add_left_cancel h

theorem writeBytes_concat (m : Memory) (pc off : Nat) (l : List Nat) (b : Nat) :
    writeBytes m pc off (l ++ [b]) = Tab.put zeroByte (writeBytes m pc off l) (hbmAddr pc (off + l.length)) (BitVec.ofNat 8 b) := by
  unfold writeBytes
  rw [List.zipIdx_append, List.foldl_append, Nat.zero_add, List.zipIdx_singleton, List.foldl_cons, List.foldl_nil]

/-- A byte that has been written reads as written. -/
theorem get_writeBytes (m : Memory) (pc off : Nat) (l : List Nat) {i : Nat} (h : i < l.length) :
    Tab.get zeroByte (writeBytes m pc off l) (hbmAddr pc (off + i)) = BitVec.ofNat 8 l[i] := by
  induction l using List.reverseRecOn with
  | nil => exact absurd h (Nat.not_lt_zero i)
  | append_singleton l b ih =>
    rw [writeBytes_concat]
    by_cases hi : i < l.length
    · have hne : hbmAddr pc (off + i) ≠ hbmAddr pc (off + l.length) := fun heq => hi.ne (Nat.add_left_cancel (hbmAddr_inj heq))
      rw [Tab.get_put_other _ _ hne, ih hi, List.getElem_append_left hi]
    · obtain rfl : i = l.length := by
        rw [List.length_append, List.length_singleton] at h
        omega
      rw [Tab.get_put_same, List.getElem_concat_length rfl]

/-- What has been written reads back. -/
theorem readBytes_writeBytes (m : Memory) (pc off : Nat) {l : List Nat} (hl : ∀ b ∈ l, b < 256) :
    readBytes (writeBytes m pc off l) pc off l.length = l := by
  refine List.ext_getElem (by simp [readBytes]) fun i h₁ h₂ => ?_
  simp only [readBytes, List.getElem_map, List.getElem_range]
  rw [get_writeBytes m pc off l h₂, BitVec.toNat_ofNat]
  exact Nat.mod_eq_of_lt (hl _ (List.getElem_mem h₂))

/-- Bytes beside a write read as before. -/
theorem readBytes_writeBytes_other (m : Memory) (pc : Nat) {off o n : Nat} {l : List Nat} (h : off + l.length ≤ o) :
    readBytes (writeBytes m pc off l) pc o n = readBytes m pc o n := by
  unfold readBytes
  refine List.map_congr_left fun i _ => ?_
  rw [Tab.get_writeBytes_other _ _ _ _ _ fun j hj heq => ?_]
  have := hbmAddr_inj heq
  omega

/-- A granule is decoded to sixteen bytes. -/
theorem decodeGranule_bytes (x : HbmDev) (pc off : Nat) : (decodeGranule x pc off).1.length = 16 ∧ ∀ b ∈ (decodeGranule x pc off).1, b < 256 := by
  have hread : (readBytes x.1 pc off 16).length = 16 ∧ ∀ b ∈ readBytes x.1 pc off 16, b < 256 := by
    refine ⟨by simp [readBytes], fun b hb => ?_⟩
    obtain ⟨i, -, rfl⟩ := List.mem_map.mp hb
    exact BitVec.isLt _
  unfold decodeGranule
  dsimp only
  split
  · split
    · refine ⟨by simp, fun b hb => ?_⟩
      obtain ⟨i, -, rfl⟩ := List.mem_map.mp hb
      exact Nat.mod_lt _ (by decide)
    · exact hread
  · exact hread

theorem scrubGranule_of_clean {x : HbmDev} {pc off : Nat} (h : x.2.checkDiff pc off = 0) : scrubGranule x pc off = x := by
  rw [scrubGranule, decodeGranule_clean h]

/-- A granule that its code corrects is corrected in its cells. -/
theorem scrubGranule_of_symbol {x : HbmDev} {pc off j e : Nat} {l : List Nat} (h : decodeGranule x pc off = (l, .symbol j e)) :
    scrubGranule x pc off = (writeBytes x.1 pc off l, (x.2.setDiff pc off 0).countCe pc) := by rw [scrubGranule, h]

theorem Dev.checkDiff_countCe (d : Dev) (k pc off : Nat) : (d.countCe k).checkDiff pc off = d.checkDiff pc off :=
  Dev.checkDiff_of_hbm (by rw [Dev.countCe, Dev.addFld_hbm]) pc off

theorem Dev.checkDiff_setDiff_same (d : Dev) (pc off v : Nat) : (d.setDiff pc off v).checkDiff pc off = v := Tab.get_put_same _ _ _

theorem Dev.checkDiff_setDiff_other (d : Dev) {pc off k o : Nat} (v : Nat) (h : granuleKey k o ≠ granuleKey pc off) :
    (d.setDiff pc off v).checkDiff k o = d.checkDiff k o := Tab.get_put_other _ _ h

theorem granuleKey_ne_next (pc sector : Nat) : granuleKey pc (sector * 32 + 16) ≠ granuleKey pc (sector * 32) := by
  unfold granuleKey
  omega

theorem exec_scrubRead {s : State} {pc sector : Nat} (hp : pc < 128) (hok : s.dev.pcState pc = 0)
    (hcfg : s.dev.fld Reg.memCfg F.memCfg_scrubHours ≠ 0) (hregion : s.dev.regionOf pc (sector * 32) ≠ none) :
    exec (.scrubRead pc sector) s = .next { s with
      mem := (scrubGranule (scrubGranule (s.mem, s.dev) pc (sector * 32)) pc (sector * 32 + 16)).1
      dev := (scrubGranule (scrubGranule (s.mem, s.dev) pc (sector * 32)) pc (sector * 32 + 16)).2 } := by
  have hgo : ¬(s.dev.pcState pc ≠ 0 ∨ s.dev.fld Reg.memCfg F.memCfg_scrubHours = 0 ∨ s.dev.regionOf pc (sector * 32) = none ∨ 128 ≤ pc) := by
    rintro (h | h | h | h)
    · exact h hok
    · exact hcfg h
    · exact hregion h
    · exact absurd hp (Nat.not_lt.mpr h)
  show execScrubRead pc sector s = _
  rw [execScrubRead, State.liftMem_eq]
  dsimp only
  rw [if_neg hgo]

/-- Nothing changes but registers and the controller's own state. -/
def Dev.CellsAlone (d e : Dev) : Prop := e = { d with regs := e.regs, hbm := e.hbm }

theorem Dev.HbmAlone.cells {d e t : Dev} (h : d.HbmAlone e) (h' : e.RegsAlone t) : d.CellsAlone t := by
  unfold Dev.HbmAlone at h
  unfold Dev.RegsAlone at h'
  unfold Dev.CellsAlone
  rw [h', h]

theorem Dev.hbmAlone_setDiff (d : Dev) (pc off v : Nat) : d.HbmAlone (d.setDiff pc off v) := rfl

/-- A scrub corrects the cells of a granule that its code corrects. -/
theorem scrubRead_corrects {s : State} {pc sector j e : Nat} {l : List Nat} (hp : pc < 128) (hok : s.dev.pcState pc = 0)
    (hcfg : s.dev.fld Reg.memCfg F.memCfg_scrubHours ≠ 0) (hregion : s.dev.regionOf pc (sector * 32) ≠ none)
    (hdec : decodeGranule (s.mem, s.dev) pc (sector * 32) = (l, .symbol j e)) (hclean : s.dev.checkDiff pc (sector * 32 + 16) = 0) :
    ∃ t, exec (.scrubRead pc sector) s = .next t ∧ readBytes t.mem pc (sector * 32) 16 = l ∧ t.dev.checkDiff pc (sector * 32) = 0 ∧
      readBytes t.mem pc (sector * 32 + 16) 16 = readBytes s.mem pc (sector * 32 + 16) 16 ∧
      t.dev.fld (Reg.memPcStatus pc) F.memPcStatus_ce = (s.dev.fld (Reg.memPcStatus pc) F.memPcStatus_ce + 1) % 65536 ∧
      t = { s with mem := t.mem, dev := { s.dev with regs := t.dev.regs, hbm := t.dev.hbm } } := by
  obtain ⟨hlen, hbytes⟩ := decodeGranule_bytes (s.mem, s.dev) pc (sector * 32)
  rw [hdec] at hlen hbytes
  have hnext : ((s.dev.setDiff pc (sector * 32) 0).countCe pc).checkDiff pc (sector * 32 + 16) = 0 :=
    (Dev.checkDiff_countCe _ _ _ _).trans ((s.dev.checkDiff_setDiff_other 0 (granuleKey_ne_next pc sector)).trans hclean)
  have hexec := exec_scrubRead hp hok hcfg hregion
  rw [scrubGranule_of_symbol hdec, scrubGranule_of_clean hnext] at hexec
  refine ⟨_, hexec, ?_, (Dev.checkDiff_countCe _ _ _ _).trans (s.dev.checkDiff_setDiff_same _ _ _),
    readBytes_writeBytes_other _ _ (by rw [hlen]), ?_, ?_⟩
  · rw [← hlen]
    exact readBytes_writeBytes _ _ _ hbytes
  · exact Dev.fld_addFld_same _ _ ⟨by decide, by decide⟩ 1
  · have hcells : s.dev.CellsAlone ((s.dev.setDiff pc (sector * 32) 0).countCe pc) :=
      (s.dev.hbmAlone_setDiff _ _ _).cells (Dev.regsAlone_setFld _ _ _ _)
    exact congrArg (fun d => ({ s with mem := writeBytes s.mem pc (sector * 32) l, dev := d } : State)) hcells

/-! ## Tracking (R426) -/

/-- A lane's centre becomes `c`. -/
def Dev.centred (d : Dev) (pc lane c : Nat) : Dev := d.onPc pc fun x => { x with centre := Tab.put zero x.centre lane c }

/-- The largest distance of a pseudo-channel's centres from those of its training. -/
def Dev.driftOf (d : Dev) (pc : Nat) : Int :=
  (List.range 10).foldl (fun a l =>
    farther a (((Tab.get zero (d.pc pc).centre l : Nat) : Int) - ((Tab.get zero (d.pc pc).trained l : Nat) : Int))) 0

theorem exec_trackingMeasure {s : State} {pc : Nat} (lane left right : Nat) (h : s.dev.pcState pc = 0) :
    exec (.trackingMeasure pc lane left right) s = .next { s with
      dev := (s.dev.centred pc lane (stepTo (Tab.get zero (s.dev.pc pc).centre lane) ((left + right) / 2))).setFld (Reg.memPcStatus pc)
        F.memPcStatus_drift
        (unsigned 6 ((s.dev.centred pc lane (stepTo (Tab.get zero (s.dev.pc pc).centre lane) ((left + right) / 2))).driftOf pc)) } := by
  show execTrackingMeasure pc lane left right s = _
  rw [execTrackingMeasure, State.lift_eq, if_neg (not_not_intro h)]
  rfl

/-- A lane's centre follows its tracking by one step. -/
theorem trackingMeasure_steps {s : State} {pc : Nat} (lane left right : Nat) (h : s.dev.pcState pc = 0) :
    ∃ t, exec (.trackingMeasure pc lane left right) s = .next t ∧
      Tab.get zero (t.dev.pc pc).centre lane = stepTo (Tab.get zero (s.dev.pc pc).centre lane) ((left + right) / 2) ∧
      (∀ m, m ≠ lane → Tab.get zero (t.dev.pc pc).centre m = Tab.get zero (s.dev.pc pc).centre m) ∧
      s.dev.KeepsRegs t.dev [Reg.memPcStatus pc] ∧ t = { s with dev := { s.dev with regs := t.dev.regs, hbm := t.dev.hbm } } := by
  refine ⟨_, exec_trackingMeasure lane left right h, ?_⟩
  generalize stepTo (Tab.get zero (s.dev.pc pc).centre lane) ((left + right) / 2) = c
  refine ⟨?_, fun m hm => ?_, ?_, ?_⟩
  · rw [Dev.pc_setFld, Dev.centred, Dev.pc_onPc_same]
    exact Tab.get_put_same _ _ _
  · rw [Dev.pc_setFld, Dev.centred, Dev.pc_onPc_same]
    exact Tab.get_put_other _ _ hm
  · exact fun a ha => (Dev.keepsRegs_setFld _ _ _ _ a ha).trans (Dev.onPc_read_reg _ _ _ a)
  · have hcells : s.dev.CellsAlone ((s.dev.centred pc lane c).setFld (Reg.memPcStatus pc) F.memPcStatus_drift
        (unsigned 6 ((s.dev.centred pc lane c).driftOf pc))) := (s.dev.hbmAlone_onPc pc _).cells (Dev.regsAlone_setFld _ _ _ _)
    exact congrArg (fun d => ({ s with dev := d } : State)) hcells

/-! ## The save of the centres (R425) -/

/-- A save of the centres has been asked for. -/
def Dev.trainSaving (d : Dev) : Dev :=
  (d.setFld Reg.memTrainCtl F.memTrainCtl_save 1).setFld Reg.memTrainCtl F.memTrainCtl_busy 1

/-- A save of the centres is done. -/
def Dev.trainSaved (d : Dev) : Dev :=
  (d.setFld Reg.memTrainCtl F.memTrainCtl_busy 0).setFld Reg.memTrainCtl F.memTrainCtl_save 0

/-- The centres of every lane of every pseudo-channel. -/
def Dev.allCentres (d : Dev) : List (Nat × Nat) :=
  (List.range 128).flatMap fun pc => (List.range 10).map fun n => (pc * 16 + n, Tab.get zero (d.pc pc).centre n)

theorem exec_memTrainSave {s : State} {fn value : Nat} (hw : s.dev.mayWrite fn Reg.memTrainCtl = true) (hv : bitAt value 31 = true)
    (hs : s.dev.flag Reg.memTrainCtl F.memTrainCtl_save = false) :
    exec (.memTrainSave fn value) s = .next { s with dev := s.dev.trainSaving.save (.centres s.dev.allCentres) } := by
  show execMemTrainSave fn value s = _
  rw [execMemTrainSave, State.lift_eq, Dev.trainCtlWrite, hw, hs, hv, if_neg (by decide)]
  unfold Dev.trainSaving Dev.allCentres
  dsimp only

section
variable (d : Dev)

theorem Dev.regsAlone_trainSaving : d.RegsAlone d.trainSaving := (d.regsAlone_setFld _ _ _).setFld _ _ _

theorem Dev.regsAlone_trainSaved : d.RegsAlone d.trainSaved := (d.regsAlone_setFld _ _ _).setFld _ _ _

theorem Dev.keepsRegs_trainSaving : d.KeepsRegs d.trainSaving [Reg.memTrainCtl] :=
  (d.keepsRegs_setFld _ _ _).trans (Dev.keepsRegs_setFld _ _ _ _)

theorem Dev.keepsRegs_trainSaved : d.KeepsRegs d.trainSaved [Reg.memTrainCtl] :=
  (d.keepsRegs_setFld _ _ _).trans (Dev.keepsRegs_setFld _ _ _ _)

theorem Dev.trainSaving_shows : d.trainSaving.flag Reg.memTrainCtl F.memTrainCtl_save = true ∧
    d.trainSaving.flag Reg.memTrainCtl F.memTrainCtl_busy = true := by
  unfold Dev.trainSaving
  rw [Dev.flag_setFld_field _ _ ⟨by decide, by decide⟩ (by decide), Dev.flag_setFld_same _ _ ⟨by decide, by decide⟩ rfl,
    Dev.flag_setFld_same _ _ ⟨by decide, by decide⟩ rfl]
  exact ⟨rfl, rfl⟩

theorem Dev.trainSaved_shows : d.trainSaved.flag Reg.memTrainCtl F.memTrainCtl_save = false ∧
    d.trainSaved.flag Reg.memTrainCtl F.memTrainCtl_busy = false := by
  unfold Dev.trainSaved
  rw [Dev.flag_setFld_same _ _ ⟨by decide, by decide⟩ rfl, Dev.flag_setFld_field _ _ ⟨by decide, by decide⟩ (by decide),
    Dev.flag_setFld_same _ _ ⟨by decide, by decide⟩ rfl]
  exact ⟨rfl, rfl⟩

theorem Dev.nvmHeld_trainSaving : d.trainSaving.nvmHeld = d.nvmHeld := d.keepsRegs_trainSaving.flag (by decide) _

variable {d}

theorem Dev.save_centres_held (h : d.nvmHeld = true) (l : List (Nat × Nat)) :
    d.save (.centres l) = d.onNvm fun n => { n with saves := n.saves ++ [.centres l] } := if_pos h

theorem Dev.save_centres_done (h : d.nvmHeld = false) (l : List (Nat × Nat)) :
    d.save (.centres l) = (d.onNvm fun n => { n with centres := l }).trainSaved := if_neg (by rw [h]; decide)
end

/-- A change of the store beside registers. -/
theorem Dev.RegsAlone.onNvm_regs {d e : Dev} (h : d.RegsAlone e) (f : Nvm → Nvm) :
    e.onNvm f = { d with regs := (e.onNvm f).regs, nvm := f d.nvm } := h.onNvm f

/-- The centres are stored, or wait to be while writes are held. -/
theorem memTrainSave_saves {s : State} {fn value : Nat} (hw : s.dev.mayWrite fn Reg.memTrainCtl = true) (hv : bitAt value 31 = true)
    (hs : s.dev.flag Reg.memTrainCtl F.memTrainCtl_save = false) :
    ∃ t, exec (.memTrainSave fn value) s = .next t ∧ s.dev.KeepsRegs t.dev [Reg.memTrainCtl] ∧
      t.dev.flag Reg.memTrainCtl F.memTrainCtl_save = s.dev.nvmHeld ∧ t.dev.flag Reg.memTrainCtl F.memTrainCtl_busy = s.dev.nvmHeld ∧
      t = { s with dev := { s.dev with
        regs := t.dev.regs
        nvm := if s.dev.nvmHeld = true then { s.dev.nvm with saves := s.dev.nvm.saves ++ [.centres s.dev.allCentres] }
          else { s.dev.nvm with centres := s.dev.allCentres } } } := by
  refine ⟨_, exec_memTrainSave hw hv hs, ?_⟩
  generalize s.dev.allCentres = l
  cases hheld : s.dev.nvmHeld with
  | true =>
    rw [Dev.save_centres_held (s.dev.nvmHeld_trainSaving.trans hheld), Dev.flag, Dev.flag, Dev.onNvm_read_reg, if_pos rfl]
    obtain ⟨hsave, hbusy⟩ := s.dev.trainSaving_shows
    have hstored := s.dev.regsAlone_trainSaving.onNvm_regs fun n => { n with saves := n.saves ++ [.centres l] }
    have hreg (a : Nat) : (s.dev.trainSaving.onNvm fun n => { n with saves := n.saves ++ [.centres l] }).reg a = s.dev.trainSaving.reg a :=
      Dev.onNvm_read_reg _ _ a
    generalize s.dev.trainSaving.onNvm (fun n => { n with saves := n.saves ++ [.centres l] }) = e at hstored hreg ⊢
    exact ⟨fun a ha => (hreg a).trans (s.dev.keepsRegs_trainSaving a ha), hsave, hbusy, congrArg (fun d => { s with dev := d }) hstored⟩
  | false =>
    rw [Dev.save_centres_done (s.dev.nvmHeld_trainSaving.trans hheld), if_neg Bool.false_ne_true]
    have hstored := s.dev.regsAlone_trainSaving.onNvm fun n => { n with centres := l }
    have hreg (a : Nat) : (s.dev.trainSaving.onNvm fun n => { n with centres := l }).reg a = s.dev.trainSaving.reg a :=
      Dev.onNvm_read_reg _ _ a
    generalize s.dev.trainSaving.onNvm (fun n => { n with centres := l }) = e at hstored hreg ⊢
    obtain ⟨hsave, hbusy⟩ := e.trainSaved_shows
    have hsaved : e.trainSaved = { s.dev with regs := e.trainSaved.regs, nvm := { s.dev.nvm with centres := l } } := by
      have h := e.regsAlone_trainSaved
      generalize e.trainSaved = t at h ⊢
      unfold Dev.RegsAlone at h
      rw [h, hstored]
    exact ⟨Dev.KeepsRegs.trans (fun a ha => (hreg a).trans (s.dev.keepsRegs_trainSaving a ha)) e.keepsRegs_trainSaved, hsave, hbusy,
      congrArg (fun d => { s with dev := d }) hsaved⟩

/-! ## The statement -/

/-- Settles O55: a request is carried out, refused or waits; errors freeze, and a thaw lets the waiting requests go on; refresh, scrub,
tracking and the save of the centres follow by their own rules. -/
theorem hbmRequests : Obligations.HbmRequests := by
  unfold Obligations.HbmRequests
  refine ⟨?_, ?_, ?_, ?_, ?_, ?_, ?_, ?_, ?_, ?_, ?_, ?_⟩
  · intro s pc crew addr l hp ha hr hok hown hl hs hq
    exact ⟨_, hbmRequest_queues hp ha hr hok hown hl hs hq, s.dev.queue_writeQueued _ _, fun k hk => s.dev.pc_writeQueued_other _ _ hk,
      congrArg (fun d => { s with dev := d }) (s.dev.memAlone_writeQueued _ _)⟩
  · intro s pc crew addr hp ha hr hok hown hnone h₁ h₂
    refine exec_hbmRequest_read hp ha hr hok hown ?_
    rw [readSector_of_none (x := (s.mem, s.dev.readNoted pc (addr / 32))) crew (by rwa [Dev.pc_readNoted])]
    exact readCells_clean (x := (s.mem, s.dev.readNoted pc (addr / 32))) _ _ (by rwa [Dev.checkDiff_readNoted]) (by rwa [Dev.checkDiff_readNoted])
  · intro s pc crew addr w hp ha hr hok hown hlast hlen
    obtain ⟨t, hexec, hshows, hqueue, ht⟩ := exec_hbmRequest_read hp ha hr hok hown
      (readSector_of_queued (x := (s.mem, s.dev.readNoted pc (addr / 32))) crew (by rwa [Dev.pc_readNoted]) hlen)
    have hmem := congrArg State.mem ht
    exact ⟨t, hexec, hshows, hqueue, hmem⟩
  · intro s pc crew addr flips w hp ha hr
    exact ⟨fun hok hown => hbmRequest_refused crew flips hp ha hr hok hown, fun hfrozen => hbmRequest_waits crew flips hp ha hr hfrozen⟩
  · intro s pc sector crew syn hp hsyn hok
    exact uncorrectableRead_freezes sector crew hp hsyn hok
  · intro s pc sector ns retryOk hp
    exact caParityError_freezes s sector ns retryOk hp
  · rintro s c pc fn value hp hstate (⟨rfl, hmode⟩ | ⟨rfl, hmode, hw, hgo, hpc⟩)
    · obtain ⟨h₁, h₂, h₃, h₄, h₅, h₆⟩ := s.dev.thaws_thawed pc
      exact ⟨_, _, exec_thaw hmode hstate, h₁, h₂, h₃, h₄, h₅, h₆, rfl⟩
    · obtain ⟨h₁, h₂, h₃, h₄, h₅, h₆⟩ := s.dev.thaws_thawNamed pc
      exact ⟨_, _, exec_memThawGo hmode hw hgo hpc hstate, h₁, h₂, h₃, h₄, h₅, h₆, rfl⟩
  · intro s pc bank idle h
    exact refreshDue_counts bank idle h
  · intro s stack temp hs ht hr
    exact stackTempReport_setsRate hs ht hr
  · intro s pc sector j e l hp hok hcfg hregion hdec hclean
    exact scrubRead_corrects hp hok hcfg hregion hdec hclean
  · intro s pc lane left right h
    exact trackingMeasure_steps lane left right h
  · intro s fn value hw hv hs
    exact memTrainSave_saves hw hv hs

end Sys2Proof.Machine
end

section
/-! PROOFS. Sensors, Tmax, levels and the throttle step (R498–R500, R502).
Lemmas for O56. -/

namespace Sys2Proof.Machine

/-- The two's complement form of a value of twelve bits reads as that value. -/
theorem signed_unsigned {v : Int} (h₁ : -2048 ≤ v) (h₂ : v < 2048) : signed 12 (unsigned 12 v) = v := by
  have hnonneg : 0 ≤ v % (2 ^ 12 : Int) := Int.emod_nonneg v (by decide)
  unfold signed unsigned
  rw [Int.toNat_of_nonneg hnonneg]
  norm_num at hnonneg ⊢
  split <;> omega

theorem signed_bounds {v : Nat} (h : v < 4096) : -2048 ≤ signed 12 v ∧ signed 12 v < 2048 := by
  unfold signed
  norm_num
  split <;> omega

/-! ## Samples (R498) -/

/-- A sample of sensor `n` in range. -/
def Dev.sensorTaken (d : Dev) (n : Nat) (v : Int) : Dev :=
  ((d.onThm fun x => { x with updated := Tab.put zero x.updated n d.now }).setFld (Reg.thmTs n) F.thmTs_valid 1).setFld (Reg.thmTs n)
    F.thmTs_temp (unsigned 12 v)

theorem Dev.sample_of_inRange (d : Dev) (n : Nat) {v : Int} (h₁ : -440 ≤ v) (h₂ : v ≤ 1200) : d.sample n (some v) = d.sensorTaken n v :=
  if_pos ⟨h₁, h₂⟩

section
variable (d : Dev) (n : Nat) (v : Int)

theorem Dev.keepsRegs_sensorTaken : d.KeepsRegs (d.sensorTaken n v) [Reg.thmTs n] :=
  fun a ha => (((Dev.keepsRegs_setFld _ _ _ _).trans (Dev.keepsRegs_setFld _ _ _ _)) a ha).trans (d.onThm_read_reg _ a)

theorem Dev.thm_sensorTaken : (d.sensorTaken n v).thm = { d.thm with updated := Tab.put zero d.thm.updated n d.now } := by
  rw [Dev.sensorTaken, Dev.setFld_thm, Dev.setFld_thm, Dev.onThm_thm]

theorem Dev.now_sensorTaken : (d.sensorTaken n v).now = d.now := by
  rw [Dev.sensorTaken, Dev.setFld_read_now, Dev.setFld_read_now, Dev.onThm_read_now]

theorem Dev.sensor_sensorTaken (h₁ : -440 ≤ v) (h₂ : v ≤ 1200) : (d.sensorTaken n v).sensor n = v := by
  rw [Dev.sensor, Dev.sensorTaken, Dev.fld_setFld_same _ _ ⟨by decide, by decide⟩,
    show unsigned 12 v % 2 ^ F.thmTs_temp.width = unsigned 12 v from Nat.mod_eq_of_lt (unsigned_lt 12 v)]
  exact signed_unsigned (by omega) (by omega)

theorem Dev.sensorValid_sensorTaken : (d.sensorTaken n v).sensorValid n = true := by
  rw [Dev.sensorValid, Dev.sensorTaken, Dev.flag_setFld_field _ _ ⟨by decide, by decide⟩ (by decide), Dev.flag_setFld_same _ _ ⟨by decide, by decide⟩ rfl]
  rfl
end

theorem thmTs_ne {k n : Nat} (h : k ≠ n) : Reg.thmTs k ≠ Reg.thmTs n := by
  unfold Reg.thmTs
  omega

/-! ## Sensors that expire (R498) -/

/-- Whether a sensor has updated within 8 Strokes. -/
def Dev.updatedLately (d : Dev) (k : Nat) : Bool := decide (d.now < Tab.get zero d.thm.updated k + 8)

/-- The first `m` sensors expire where they have not updated. -/
def Dev.expiredTo (d : Dev) (m : Nat) : Dev := (List.range m).foldl (fun d n => d.expire n) d

theorem Dev.expiredTo_succ (d : Dev) (m : Nat) : d.expiredTo (m + 1) = (d.expiredTo m).expire m := by
  rw [Dev.expiredTo, List.range_succ, List.foldl_append, ← Dev.expiredTo]
  rfl

theorem Dev.expire_of_lately {d : Dev} {n : Nat} (h : d.updatedLately n = true) : d.expire n = d :=
  if_neg (Nat.not_le.mpr (of_decide_eq_true h))

theorem Dev.expire_of_old {d : Dev} {n : Nat} (h : d.updatedLately n = false) : d.expire n = d.setFld (Reg.thmTs n) F.thmTs_valid 0 :=
  if_pos (Nat.not_lt.mp (of_decide_eq_false h))

theorem Dev.regsAlone_expire (d : Dev) (n : Nat) : d.RegsAlone (d.expire n) := by
  cases h : d.updatedLately n with
  | true =>
    rw [Dev.expire_of_lately h]
    exact Dev.RegsAlone.refl d
  | false =>
    rw [Dev.expire_of_old h]
    exact d.regsAlone_setFld _ _ _

theorem Dev.keepsRegs_expire (d : Dev) (n : Nat) : d.KeepsRegs (d.expire n) [Reg.thmTs n] := by
  cases h : d.updatedLately n with
  | true =>
    rw [Dev.expire_of_lately h]
    exact Dev.KeepsRegs.refl d _
  | false =>
    rw [Dev.expire_of_old h]
    exact d.keepsRegs_setFld _ _ _

theorem Dev.sensor_expire (d : Dev) (n k : Nat) : (d.expire n).sensor k = d.sensor k := by
  cases h : d.updatedLately n with
  | true => rw [Dev.expire_of_lately h]
  | false =>
    rw [Dev.expire_of_old h, Dev.sensor, Dev.sensor]
    by_cases hk : k = n
    · rw [hk, Dev.fld_setFld_field _ _ ⟨by decide, by decide⟩ (by decide)]
    · rw [Dev.fld_setFld_other _ _ _ _ (thmTs_ne hk)]

theorem Dev.sensorValid_expire_same (d : Dev) (n : Nat) : (d.expire n).sensorValid n = (d.sensorValid n && d.updatedLately n) := by
  cases h : d.updatedLately n with
  | true => rw [Dev.expire_of_lately h, Bool.and_true]
  | false =>
    rw [Dev.expire_of_old h, Dev.sensorValid, Dev.flag_setFld_same _ _ ⟨by decide, by decide⟩ rfl, Bool.and_false]
    rfl

theorem Dev.sensorValid_expire_other (d : Dev) {n k : Nat} (h : k ≠ n) : (d.expire n).sensorValid k = d.sensorValid k :=
  (d.keepsRegs_expire n).flag (mt List.mem_singleton.mp (thmTs_ne h)) _

theorem Dev.RegsAlone.updatedLately {d e : Dev} (h : d.RegsAlone e) (k : Nat) : e.updatedLately k = d.updatedLately k := by
  unfold Dev.RegsAlone at h
  rw [h]
  rfl

section
variable (d : Dev) (m : Nat)

theorem Dev.regsAlone_expiredTo : d.RegsAlone (d.expiredTo m) := by
  induction m with
  | zero => exact Dev.RegsAlone.refl d
  | succ m ih =>
    rw [Dev.expiredTo_succ]
    exact ih.trans (Dev.regsAlone_expire _ _)

theorem Dev.sensor_expiredTo (k : Nat) : (d.expiredTo m).sensor k = d.sensor k := by
  induction m with
  | zero => rfl
  | succ m ih => rw [Dev.expiredTo_succ, Dev.sensor_expire, ih]

theorem Dev.sensorValid_expiredTo_high {k : Nat} (h : m ≤ k) : (d.expiredTo m).sensorValid k = d.sensorValid k := by
  induction m with
  | zero => rfl
  | succ m ih => rw [Dev.expiredTo_succ, Dev.sensorValid_expire_other _ (by omega), ih (by omega)]

/-- A sensor stays valid where it has updated. -/
theorem Dev.sensorValid_expiredTo {k : Nat} (h : k < m) : (d.expiredTo m).sensorValid k = (d.sensorValid k && d.updatedLately k) := by
  induction m with
  | zero => exact absurd h (Nat.not_lt_zero k)
  | succ m ih =>
    rw [Dev.expiredTo_succ]
    rcases Nat.lt_succ_iff_lt_or_eq.mp h with hlt | rfl
    · rw [Dev.sensorValid_expire_other _ hlt.ne, ih hlt]
    · rw [Dev.sensorValid_expire_same, Dev.sensorValid_expiredTo_high _ _ (Nat.le_refl _), (d.regsAlone_expiredTo _).updatedLately]

/-- Registers outside the sensors stay. -/
theorem Dev.reg_expiredTo {a : Nat} (h : ∀ k < m, a ≠ Reg.thmTs k) : (d.expiredTo m).reg a = d.reg a := by
  induction m with
  | zero => rfl
  | succ m ih =>
    rw [Dev.expiredTo_succ, (d.expiredTo m).keepsRegs_expire m a (mt List.mem_singleton.mp (h m (Nat.lt_succ_self m))),
      ih fun k hk => h k (Nat.lt_succ_of_lt hk)]
end

/-! ## Tmax (R498) -/

/-- The number of invalid sensors. -/
def Dev.badCount (d : Dev) : Nat := ((List.range 64).filter fun n => !d.sensorValid n).length

theorem Dev.badCount_le (d : Dev) : d.badCount ≤ 64 := (List.length_filter_le _ _).trans (by rw [List.length_range])

/-- The hotter of two sources, the first where they are even. -/
def Dev.hotter (d : Dev) (a n : Nat) : Nat := if d.sourceTemp a < d.sourceTemp n then n else a

theorem Dev.hottest_eq (d : Dev) : d.hottest = d.tempSources.foldl d.hotter (d.tempSources.headD 64) := rfl

theorem Dev.tempSources_lt (d : Dev) {n : Nat} (h : n ∈ d.tempSources) : n < 68 := by
  rcases List.mem_append.mp h with h | h
  · exact lt_of_lt_of_le (List.mem_range.mp (List.mem_of_mem_filter h)) (by decide)
  · fin_cases h <;> decide

theorem Dev.tempSources_headD_lt (d : Dev) : d.tempSources.headD 64 < 68 := by
  cases h : d.tempSources with
  | nil => decide
  | cons n l => exact d.tempSources_lt (h.symm ▸ List.mem_cons_self)

theorem Dev.hotter_lt (d : Dev) {a n : Nat} (ha : a < 68) (hn : n < 68) : d.hotter a n < 68 := by
  unfold Dev.hotter
  split
  · exact hn
  · exact ha

/-- The hottest source is the same for devices whose sources are. -/
theorem Dev.foldl_hotter_congr {d e : Dev} (h : ∀ n < 68, e.sourceTemp n = d.sourceTemp n) (l : List Nat) (hl : ∀ n ∈ l, n < 68) {a : Nat}
    (ha : a < 68) : l.foldl e.hotter a = l.foldl d.hotter a ∧ l.foldl d.hotter a < 68 := by
  induction l generalizing a with
  | nil => exact ⟨rfl, ha⟩
  | cons n l ih =>
    have hn := hl n List.mem_cons_self
    have hstep : e.hotter a n = d.hotter a n := by rw [Dev.hotter, h a ha, h n hn, Dev.hotter]
    rw [List.foldl_cons, List.foldl_cons, hstep]
    exact ih (fun m hm => hl m (List.mem_cons_of_mem n hm)) (d.hotter_lt ha hn)

theorem Dev.hottest_lt (d : Dev) : d.hottest < 68 :=
  (Dev.foldl_hotter_congr (d := d) (e := d) (fun _ _ => rfl) _ (fun _ => d.tempSources_lt) d.tempSources_headD_lt).2

/-- The temperatures of a device are those of another. -/
structure Dev.SameTemps (d e : Dev) : Prop where
  sensors : ∀ k < 64, e.sensor k = d.sensor k
  valid : ∀ k < 64, e.sensorValid k = d.sensorValid k
  stackTemps : ∀ k < 4, e.fld (Reg.memStackStatus k) F.memStackStatus_temp = d.fld (Reg.memStackStatus k) F.memStackStatus_temp

section
variable {d e : Dev} (h : d.SameTemps e)
include h

theorem Dev.SameTemps.sourceTemp {n : Nat} (hn : n < 68) : e.sourceTemp n = d.sourceTemp n := by
  unfold Dev.sourceTemp
  by_cases h64 : n < 64
  · rw [if_pos h64, if_pos h64, h.sensors n h64]
  · rw [if_neg h64, if_neg h64, h.stackTemps (n - 64) (by omega)]

theorem Dev.SameTemps.badCount : e.badCount = d.badCount := by
  unfold Dev.badCount
  rw [List.filter_congr fun k hk => by rw [h.valid k (List.mem_range.mp hk)]]

theorem Dev.SameTemps.tempSources : e.tempSources = d.tempSources := by
  unfold Dev.tempSources
  rw [List.filter_congr fun k hk => h.valid k (List.mem_range.mp hk)]

theorem Dev.SameTemps.hottest : e.hottest = d.hottest := by
  rw [Dev.hottest_eq, Dev.hottest_eq, h.tempSources]
  exact (Dev.foldl_hotter_congr (fun n hn => h.sourceTemp hn) _ (fun _ => d.tempSources_lt) d.tempSources_headD_lt).1
end

/-- Tmax as it is formed. -/
def Dev.tmaxFormed (d : Dev) : Int := if 16 < d.badCount then d.threshold 3 else d.sourceTemp d.hottest

theorem Dev.threshold_bounds (d : Dev) (l : Nat) : 0 ≤ d.threshold l ∧ d.threshold l < 2048 := by
  have h (f : Fld) (hf : f.width = 8) : d.fld Reg.thmLimits f < 256 := by
    have := Fld.get_lt f (d.reg Reg.thmLimits)
    rwa [hf] at this
  have h₁ := h F.thmLimits_warn rfl
  have h₂ := h F.thmLimits_throttle rfl
  have h₃ := h F.thmLimits_critical rfl
  have h₄ := h F.thmLimits_shutdown rfl
  unfold Dev.threshold
  split <;> omega

theorem Dev.sourceTemp_bounds (d : Dev) (n : Nat) : -2048 ≤ d.sourceTemp n ∧ d.sourceTemp n < 2048 := by
  unfold Dev.sourceTemp
  split
  · exact signed_bounds (Fld.get_lt F.thmTs_temp _)
  · have : d.fld (Reg.memStackStatus (n - 64)) F.memStackStatus_temp < 256 := Fld.get_lt _ _
    omega

theorem Dev.tmaxFormed_bounds (d : Dev) : -2048 ≤ d.tmaxFormed ∧ d.tmaxFormed < 2048 := by
  unfold Dev.tmaxFormed
  split
  · obtain ⟨h₁, h₂⟩ := d.threshold_bounds 3
    omega
  · exact d.sourceTemp_bounds _

theorem Dev.formTmax_eq (d : Dev) : d.formTmax = ((d.setFld Reg.thmStatus F.thmStatus_badSensors d.badCount).setFld Reg.thmStatus
    F.thmStatus_hot d.hottest).setFld Reg.thmStatus F.thmStatus_tmax (unsigned 12 d.tmaxFormed) := rfl

section
variable (d : Dev)

theorem Dev.regsAlone_formTmax : d.RegsAlone d.formTmax := by
  rw [Dev.formTmax_eq]
  exact ((d.regsAlone_setFld _ _ _).setFld _ _ _).setFld _ _ _

theorem Dev.keepsRegs_formTmax : d.KeepsRegs d.formTmax [Reg.thmStatus] := by
  rw [Dev.formTmax_eq]
  exact ((d.keepsRegs_setFld _ _ _).trans (Dev.keepsRegs_setFld _ _ _ _)).trans (Dev.keepsRegs_setFld _ _ _ _)

theorem Dev.badSensors_formTmax : d.formTmax.fld Reg.thmStatus F.thmStatus_badSensors = d.badCount := by
  rw [Dev.formTmax_eq, Dev.fld_setFld_field _ _ ⟨by decide, by decide⟩ (by decide), Dev.fld_setFld_field _ _ ⟨by decide, by decide⟩ (by decide),
    Dev.fld_setFld_same _ _ ⟨by decide, by decide⟩]
  exact Nat.mod_eq_of_lt (lt_of_le_of_lt d.badCount_le (by decide))

theorem Dev.hot_formTmax : d.formTmax.fld Reg.thmStatus F.thmStatus_hot = d.hottest := by
  rw [Dev.formTmax_eq, Dev.fld_setFld_field _ _ ⟨by decide, by decide⟩ (by decide), Dev.fld_setFld_same _ _ ⟨by decide, by decide⟩]
  exact Nat.mod_eq_of_lt (lt_of_lt_of_le d.hottest_lt (by decide))

theorem Dev.tmax_formTmax : d.formTmax.tmax = d.tmaxFormed := by
  obtain ⟨h₁, h₂⟩ := d.tmaxFormed_bounds
  rw [Dev.tmax, Dev.formTmax_eq, Dev.fld_setFld_same _ _ ⟨by decide, by decide⟩,
    show unsigned 12 d.tmaxFormed % 2 ^ F.thmStatus_tmax.width = unsigned 12 d.tmaxFormed from Nat.mod_eq_of_lt (unsigned_lt 12 _)]
  exact signed_unsigned h₁ h₂

theorem Dev.level_formTmax : d.formTmax.fld Reg.thmStatus F.thmStatus_level = d.fld Reg.thmStatus F.thmStatus_level := by
  rw [Dev.formTmax_eq, Dev.fld_setFld_field _ _ ⟨by decide, by decide⟩ (by decide), Dev.fld_setFld_field _ _ ⟨by decide, by decide⟩ (by decide),
    Dev.fld_setFld_field _ _ ⟨by decide, by decide⟩ (by decide)]
end

end Sys2Proof.Machine
end

section
/-! PROOFS. The thermal level, ALERT_N and the throttle step (R77, R499, R500, R502).
Lemmas for O56. -/

namespace Sys2Proof.Machine

/-! ## Levels (R499) -/

/-- The level one step on from `l`, as a Tmax and the thresholds have it. -/
def Dev.levelFrom (d : Dev) (tmax : Int) (l : Nat) : Nat :=
  if l < 3 ∧ d.threshold (l + 1) ≤ tmax then l + 1
  else if 0 < l ∧ tmax < d.threshold l - 8 * (d.fld Reg.thmCfg F.thmCfg_hyst : Int) then l - 1 else l

/-- The level does not look beyond thresholds and hysteresis. -/
theorem Dev.levelFrom_congr {d e : Dev} (h : ∀ l, e.threshold l = d.threshold l) (h' : e.fld Reg.thmCfg F.thmCfg_hyst = d.fld Reg.thmCfg F.thmCfg_hyst)
    (tmax : Int) (l : Nat) : e.levelFrom tmax l = d.levelFrom tmax l := by
  unfold Dev.levelFrom
  rw [h, h, h']

/-- The level of temperature. -/
def Dev.level (d : Dev) : Nat := d.fld Reg.thmStatus F.thmStatus_level

theorem Dev.level_lt (d : Dev) : d.level < 4 := Fld.get_lt F.thmStatus_level _

/-- A change of level leaves the registers below the store but the level, and ALERT_N. -/
structure Dev.LevelAlone (d e : Dev) : Prop where
  regs : ∀ a < Reg.nvmStatus, a ≠ Reg.thmStatus → e.reg a = d.reg a
  fields : ∀ f : Fld, f.hi < F.thmStatus_level.lo → e.fld Reg.thmStatus f = d.fld Reg.thmStatus f
  alert : e.thm.alert = d.thm.alert

theorem Dev.LevelAlone.refl (d : Dev) : d.LevelAlone d := ⟨fun _ _ _ => rfl, fun _ _ => rfl, rfl⟩

theorem Dev.LevelAlone.trans {d e t : Dev} (h : d.LevelAlone e) (h' : e.LevelAlone t) : d.LevelAlone t :=
  ⟨fun a ha hne => (h'.regs a ha hne).trans (h.regs a ha hne), fun f hf => (h'.fields f hf).trans (h.fields f hf), h'.alert.trans h.alert⟩

section
variable {d e : Dev} (h : d.LevelAlone e)
include h

theorem Dev.LevelAlone.fld {a : Nat} (ha : a < Reg.nvmStatus) (hne : a ≠ Reg.thmStatus) (f : Fld) : e.fld a f = d.fld a f := by
  rw [Dev.fld, h.regs a ha hne, Dev.fld]

theorem Dev.LevelAlone.flag {a : Nat} (ha : a < Reg.nvmStatus) (hne : a ≠ Reg.thmStatus) (f : Fld) : e.flag a f = d.flag a f := by
  rw [Dev.flag, h.regs a ha hne, Dev.flag]

theorem Dev.LevelAlone.tmax : e.tmax = d.tmax := by rw [Dev.tmax, h.fields _ (by decide), Dev.tmax]

theorem Dev.LevelAlone.threshold (l : Nat) : e.threshold l = d.threshold l := by
  unfold Dev.threshold
  simp only [h.fld (a := Reg.thmLimits) (by decide) (by decide)]

theorem Dev.LevelAlone.levelFrom (tmax : Int) (l : Nat) : e.levelFrom tmax l = d.levelFrom tmax l :=
  Dev.levelFrom_congr h.threshold (h.fld (by decide) (by decide) _) tmax l

theorem Dev.LevelAlone.sameTemps : d.SameTemps e := by
  have hts (k : Nat) (hk : k < 64) : Reg.thmTs k < Reg.nvmStatus ∧ Reg.thmTs k ≠ Reg.thmStatus := by
    unfold Reg.thmTs Reg.nvmStatus Reg.thmStatus
    omega
  have hstack (k : Nat) (hk : k < 4) : Reg.memStackStatus k < Reg.nvmStatus ∧ Reg.memStackStatus k ≠ Reg.thmStatus := by
    unfold Reg.memStackStatus Reg.nvmStatus Reg.thmStatus
    omega
  exact ⟨fun k hk => by rw [Dev.sensor, h.fld (hts k hk).1 (hts k hk).2, Dev.sensor], fun k hk => h.flag (hts k hk).1 (hts k hk).2 _,
    fun k hk => h.fld (hstack k hk).1 (hstack k hk).2 _⟩
end

/-- The end of a critical level is noted. -/
def Dev.resumeNoted (d : Dev) (l which : Nat) : Dev := if l < which ∧ which = 3 then d.onThm fun x => { x with resumes := d.now + 1 } else d

/-- The words of a level's event. -/
def Dev.levelWords (d : Dev) (entering : Bool) : List Nat :=
  [pack [(bit entering, 31), (d.fld Reg.thmStatus F.thmStatus_hot, 0)], unsigned 32 d.tmax, d.fld Reg.thmStatus F.thmStatus_step, 0]

/-- A level is told to the house and the event log. -/
def Dev.levelTold (d : Dev) (which : Nat) (ws : List Nat) : Dev := (d.postEvent 0 (levelEvent which) 0 ws).nvmLog .therm (d.tmax + 512).toNat ws

theorem Dev.setLevel_eq (d : Dev) (l which : Nat) (entering : Bool) : d.setLevel l which entering =
    (((d.setFld Reg.thmStatus F.thmStatus_level l).resumeNoted l which).levelTold which
      (((d.setFld Reg.thmStatus F.thmStatus_level l).resumeNoted l which).levelWords entering)) := by
  unfold Dev.setLevel Dev.levelTold Dev.levelWords Dev.resumeNoted
  dsimp only

theorem Dev.thm_postEvent (d : Dev) (c : Nat) (k : EventCode) (obj : Nat) (ws : List Nat) : (d.postEvent c k obj ws).thm = d.thm := by
  rw [Dev.postEvent_eq]

theorem Dev.thm_nvmLog (d : Dev) (k : LogKind) (v : Nat) (p : List Nat) : (d.nvmLog k v p).thm = d.thm := by rw [Dev.nvmLog_eq]

/-- What lies below the store is left alone by an event of the house and by the event log. -/
theorem Dev.reg_levelTold (d : Dev) (which : Nat) (ws : List Nat) {a : Nat} (ha : a < Reg.nvmStatus) :
    (d.levelTold which ws).reg a = d.reg a := by
  have hne (b : Nat) (hb : Reg.nvmStatus ≤ b) : a ≠ b := (lt_of_lt_of_le ha hb).ne
  rw [Dev.levelTold, Dev.reg_nvmLog _ _ _ _ (hne _ (by decide)) (hne _ (by decide)) (hne _ (by decide)),
    Dev.reg_postEvent _ _ _ _ _ (hne _ (by decide))]

theorem Dev.reg_resumeNoted (d : Dev) (l which a : Nat) : (d.resumeNoted l which).reg a = d.reg a := by
  unfold Dev.resumeNoted
  split <;> rfl

theorem Dev.alert_resumeNoted (d : Dev) (l which : Nat) : (d.resumeNoted l which).thm.alert = d.thm.alert := by
  unfold Dev.resumeNoted
  split <;> rfl

section
variable (d : Dev) (l which : Nat) (entering : Bool)

theorem Dev.reg_setLevel {a : Nat} (ha : a < Reg.nvmStatus) :
    (d.setLevel l which entering).reg a = (d.setFld Reg.thmStatus F.thmStatus_level l).reg a := by
  rw [Dev.setLevel_eq, Dev.reg_levelTold _ _ _ ha, Dev.reg_resumeNoted]

theorem Dev.level_setLevel (hl : l < 4) : (d.setLevel l which entering).level = l := by
  rw [Dev.level, Dev.fld, Dev.reg_setLevel _ _ _ _ (by decide), ← Dev.fld, Dev.fld_setFld_same _ _ ⟨by decide, by decide⟩]
  exact Nat.mod_eq_of_lt hl

theorem Dev.levelAlone_setLevel : d.LevelAlone (d.setLevel l which entering) := by
  refine ⟨fun a ha hne => ?_, fun f hf => ?_, ?_⟩
  · rw [Dev.reg_setLevel _ _ _ _ ha, Dev.reg_setFld_other _ _ _ hne]
  · rw [Dev.fld, Dev.reg_setLevel _ _ _ _ (by decide), ← Dev.fld, Dev.fld_setFld_field _ _ ⟨by decide, by decide⟩ (.inl hf)]
  · rw [Dev.setLevel_eq, Dev.levelTold, Dev.thm_nvmLog, Dev.thm_postEvent, Dev.alert_resumeNoted, Dev.setFld_thm]
end

/-- The level takes one step, and nothing else below the store changes. -/
theorem Dev.stepLevel_steps (d : Dev) : d.stepLevel.level = d.levelFrom d.tmax d.level ∧ d.LevelAlone d.stepLevel := by
  have hlt := d.level_lt
  unfold Dev.stepLevel Dev.levelFrom
  change (if d.level < 3 ∧ d.threshold (d.level + 1) ≤ d.tmax then d.setLevel (d.level + 1) (d.level + 1) true
    else if 0 < d.level ∧ d.tmax < d.threshold d.level - 8 * (d.fld Reg.thmCfg F.thmCfg_hyst : Int) then d.setLevel (d.level - 1) d.level false
    else d).level = _ ∧ d.LevelAlone (if d.level < 3 ∧ d.threshold (d.level + 1) ≤ d.tmax then d.setLevel (d.level + 1) (d.level + 1) true
    else if 0 < d.level ∧ d.tmax < d.threshold d.level - 8 * (d.fld Reg.thmCfg F.thmCfg_hyst : Int) then d.setLevel (d.level - 1) d.level false
    else d)
  split
  · next h => exact ⟨d.level_setLevel _ _ _ (by omega), d.levelAlone_setLevel _ _ _⟩
  · split
    · exact ⟨d.level_setLevel _ _ _ (by omega), d.levelAlone_setLevel _ _ _⟩
    · exact ⟨rfl, .refl d⟩

/-- Three steps of the level. -/
theorem Dev.stepLevel_thrice (d : Dev) : d.stepLevel.stepLevel.stepLevel.level =
      d.levelFrom d.tmax (d.levelFrom d.tmax (d.levelFrom d.tmax d.level)) ∧
    d.LevelAlone d.stepLevel.stepLevel.stepLevel := by
  obtain ⟨h₁, hkeep₁⟩ := d.stepLevel_steps
  obtain ⟨h₂, hkeep₂⟩ := d.stepLevel.stepLevel_steps
  obtain ⟨h₃, hkeep₃⟩ := d.stepLevel.stepLevel.stepLevel_steps
  have hkeep := hkeep₁.trans hkeep₂
  exact ⟨by rw [h₃, h₂, h₁, hkeep.levelFrom, hkeep₁.levelFrom, hkeep.tmax, hkeep₁.tmax], hkeep.trans hkeep₃⟩

/-! ## ALERT_N (R502) -/

/-- Whether ALERT_N is to stand. -/
def Dev.alertOn (d : Dev) : Bool := decide (d.fld Reg.thmSupply F.thmSupply_belowWarn ≠ 0) || decide (d.fld Reg.thmStatus F.thmStatus_level ≠ 0)

theorem Dev.showAlert_eq (d : Dev) : d.showAlert =
    if d.alertOn = d.thm.alert then d else (d.onThm fun x => { x with alert := d.alertOn }).emit (.pin "ALERT_N" (!d.alertOn)) := rfl

section
variable (d : Dev)

theorem Dev.reg_showAlert (a : Nat) : d.showAlert.reg a = d.reg a := by
  rw [Dev.showAlert_eq]
  split <;> rfl

theorem Dev.fld_showAlert (a : Nat) (f : Fld) : d.showAlert.fld a f = d.fld a f := by rw [Dev.fld, Dev.reg_showAlert, Dev.fld]

theorem Dev.flag_showAlert (a : Nat) (f : Fld) : d.showAlert.flag a f = d.flag a f := by rw [Dev.flag, Dev.reg_showAlert, Dev.flag]

theorem Dev.thm_showAlert : d.showAlert.thm = { d.thm with alert := d.alertOn } := by
  rw [Dev.showAlert_eq]
  split
  · next h => rw [h]
  · rfl

/-- ALERT_N stands where it is to. -/
theorem Dev.alert_showAlert : d.showAlert.thm.alert = d.showAlert.alertOn := by
  rw [Dev.thm_showAlert, Dev.alertOn, Dev.alertOn, Dev.fld_showAlert, Dev.fld_showAlert]

/-- ALERT_N touches THM and what is shown alone. -/
theorem Dev.showAlert_alone : d.showAlert = { d with thm := d.showAlert.thm, out := d.showAlert.out } := by
  rw [Dev.showAlert_eq]
  split <;> rfl
end

/-! ## A sample (R498, R499, R502) -/

/-- The sensors after the sample of one of them. -/
def Dev.sensorsRead (d : Dev) (n : Nat) (v : Int) : Dev := (d.sensorTaken n v).expiredTo 64

/-- THM after a sample has been taken: Tmax is formed and the level follows it. -/
def Dev.levelled (d : Dev) : Dev := d.formTmax.stepLevel.stepLevel.stepLevel

theorem exec_sensorSample {s : State} {n : Nat} {v : Int} (hn : n < 64) (h₁ : -440 ≤ v) (h₂ : v ≤ 1200) (hr : s.dev.inReset 0 = false) :
    exec (.sensorSample [(n, some v)]) s = .next { s with
      dev := (s.dev.sensorsRead n v).levelled.showAlert } := by
  have hone : ([(n, some v)] : List (Nat × Option Int)).filter (fun p => decide (p.1 < 64)) = [(n, some v)] := by
    rw [List.filter_cons_of_pos (by simpa using hn), List.filter_nil]
  show execSensorSample [(n, some v)] s = _
  rw [execSensorSample, State.lift_eq, hr, if_neg Bool.false_ne_true, hone, List.foldl_cons, List.foldl_nil]
  dsimp only
  rw [Dev.sample_of_inRange _ _ h₁ h₂]
  unfold Dev.sensorsRead Dev.expiredTo
  rfl

section
variable (d : Dev) {n : Nat} (v : Int)

theorem Dev.sensor_sensorsRead (h₁ : -440 ≤ v) (h₂ : v ≤ 1200) : (d.sensorsRead n v).sensor n = v := by
  rw [Dev.sensorsRead, Dev.sensor_expiredTo, Dev.sensor_sensorTaken _ _ _ h₁ h₂]

theorem Dev.sensorValid_sensorsRead (hn : n < 64) : (d.sensorsRead n v).sensorValid n = true := by
  have hnow : (d.sensorTaken n v).updatedLately n = true := by
    rw [Dev.updatedLately, Dev.now_sensorTaken, Dev.thm_sensorTaken]
    dsimp only
    rw [Tab.get_put_same]
    exact decide_eq_true (by omega)
  rw [Dev.sensorsRead, Dev.sensorValid_expiredTo _ _ hn, Dev.sensorValid_sensorTaken, hnow]
  rfl

theorem Dev.sensor_sensorsRead_other {k : Nat} (h : k ≠ n) : (d.sensorsRead n v).sensor k = d.sensor k := by
  rw [Dev.sensorsRead, Dev.sensor_expiredTo, Dev.sensor, (d.keepsRegs_sensorTaken n v).fld (mt List.mem_singleton.mp (thmTs_ne h)), Dev.sensor]

theorem Dev.sensorValid_sensorsRead_other {k : Nat} (hk : k < 64) (h : k ≠ n) :
    (d.sensorsRead n v).sensorValid k = (d.sensorValid k && d.updatedLately k) := by
  have hvalid : (d.sensorTaken n v).sensorValid k = d.sensorValid k :=
    (d.keepsRegs_sensorTaken n v).flag (mt List.mem_singleton.mp (thmTs_ne h)) _
  have hlately : (d.sensorTaken n v).updatedLately k = d.updatedLately k := by
    rw [Dev.updatedLately, Dev.now_sensorTaken, Dev.thm_sensorTaken]
    dsimp only
    rw [Tab.get_put_other _ _ h, Dev.updatedLately]
  rw [Dev.sensorsRead, Dev.sensorValid_expiredTo _ _ hk, hvalid, hlately]

theorem Dev.reg_sensorsRead (hn : n < 64) {a : Nat} (h : ∀ k < 64, a ≠ Reg.thmTs k) : (d.sensorsRead n v).reg a = d.reg a := by
  rw [Dev.sensorsRead, Dev.reg_expiredTo _ _ h, d.keepsRegs_sensorTaken n v a (mt List.mem_singleton.mp (h n hn))]
end

/-- Forming Tmax leaves the temperatures. -/
theorem Dev.sameTemps_formTmax (d : Dev) : d.SameTemps d.formTmax := by
  have hkeep := d.keepsRegs_formTmax
  have hts (k : Nat) : Reg.thmTs k ∉ [Reg.thmStatus] := mt List.mem_singleton.mp (by unfold Reg.thmTs Reg.thmStatus; omega)
  exact ⟨fun k _ => by rw [Dev.sensor, hkeep.fld (hts k), Dev.sensor], fun k _ => hkeep.flag (hts k) _,
    fun k hk => hkeep.fld (mt List.mem_singleton.mp (by unfold Reg.memStackStatus Reg.thmStatus; omega)) _⟩

theorem Dev.SameTemps.trans {d e t : Dev} (h : d.SameTemps e) (h' : e.SameTemps t) : d.SameTemps t :=
  ⟨fun k hk => (h'.sensors k hk).trans (h.sensors k hk), fun k hk => (h'.valid k hk).trans (h.valid k hk),
    fun k hk => (h'.stackTemps k hk).trans (h.stackTemps k hk)⟩

section
variable (d : Dev)

theorem Dev.sameTemps_levelled : d.SameTemps d.levelled := d.sameTemps_formTmax.trans d.formTmax.stepLevel_thrice.2.sameTemps

theorem Dev.levelled_shows : d.levelled.fld Reg.thmStatus F.thmStatus_badSensors = d.levelled.badCount ∧
    d.levelled.fld Reg.thmStatus F.thmStatus_hot = d.levelled.hottest ∧
    d.levelled.tmax = if 16 < d.levelled.badCount then d.threshold 3 else d.levelled.sourceTemp d.levelled.hottest := by
  have hkeep := d.formTmax.stepLevel_thrice.2
  have hsame := d.sameTemps_levelled
  rw [hsame.badCount, hsame.hottest, hsame.sourceTemp d.hottest_lt]
  exact ⟨(hkeep.fields _ (by decide)).trans d.badSensors_formTmax, (hkeep.fields _ (by decide)).trans d.hot_formTmax,
    hkeep.tmax.trans d.tmax_formTmax⟩

theorem Dev.levelFrom_formTmax (tmax : Int) (l : Nat) : d.formTmax.levelFrom tmax l = d.levelFrom tmax l := by
  refine Dev.levelFrom_congr (fun l => ?_) (d.keepsRegs_formTmax.fld (by decide) _) tmax l
  unfold Dev.threshold
  simp only [d.keepsRegs_formTmax.fld (a := Reg.thmLimits) (by decide)]

theorem Dev.level_levelled :
    d.levelled.level = d.levelFrom d.levelled.tmax (d.levelFrom d.levelled.tmax (d.levelFrom d.levelled.tmax d.level)) := by
  obtain ⟨hlevel, hkeep⟩ := d.formTmax.stepLevel_thrice
  have htmax : d.levelled.tmax = d.formTmax.tmax := hkeep.tmax
  have hold : d.formTmax.level = d.level := d.level_formTmax
  rw [hold] at hlevel
  simp only [Dev.levelFrom_formTmax, ← htmax] at hlevel
  exact hlevel
end

/-- What ALERT_N touches leaves every temperature and threshold. -/
theorem Dev.sameTemps_showAlert (d : Dev) : d.SameTemps d.showAlert :=
  ⟨fun k _ => by rw [Dev.sensor, Dev.fld_showAlert, Dev.sensor], fun k _ => d.flag_showAlert _ _, fun k _ => d.fld_showAlert _ _⟩

theorem Dev.tmax_showAlert (d : Dev) : d.showAlert.tmax = d.tmax := by rw [Dev.tmax, Dev.fld_showAlert, Dev.tmax]

/-- Thresholds and hysteresis are not touched by a sample. -/
theorem Dev.fld_sensorsRead (d : Dev) {n : Nat} (hn : n < 64) (v : Int) {a : Nat} (ha : a < Reg.thmTs 0) (f : Fld) :
    (d.sensorsRead n v).fld a f = d.fld a f := by
  rw [Dev.fld, d.reg_sensorsRead v hn fun k _ => ?_, Dev.fld]
  unfold Reg.thmTs at ha ⊢
  omega

theorem Dev.threshold_sensorsRead (d : Dev) {n : Nat} (hn : n < 64) (v : Int) (l : Nat) : (d.sensorsRead n v).threshold l = d.threshold l := by
  unfold Dev.threshold
  simp only [d.fld_sensorsRead hn v (a := Reg.thmLimits) (by decide)]

/-- A sample is taken, Tmax follows the hottest source, the level follows Tmax, and ALERT_N stands where it is to. -/
theorem sensorSample_taken {s : State} {n : Nat} {v : Int} (hn : n < 64) (h₁ : -440 ≤ v) (h₂ : v ≤ 1200) (hr : s.dev.inReset 0 = false) :
    ∃ t, exec (.sensorSample [(n, some v)]) s = .next t ∧ t.dev.sensor n = v ∧ t.dev.sensorValid n = true ∧ t.mem = s.mem ∧
      (let bad := ((List.range 64).filter fun k => !t.dev.sensorValid k).length
       t.dev.fld Reg.thmStatus F.thmStatus_badSensors = bad ∧ t.dev.fld Reg.thmStatus F.thmStatus_hot = t.dev.hottest ∧
         t.dev.tmax = if 16 < bad then s.dev.threshold 3 else t.dev.sourceTemp t.dev.hottest) ∧
      (let step (l : Nat) : Nat :=
        if l < 3 ∧ s.dev.threshold (l + 1) ≤ t.dev.tmax then l + 1
        else if 0 < l ∧ t.dev.tmax < s.dev.threshold l - 8 * (s.dev.fld Reg.thmCfg F.thmCfg_hyst : Int) then l - 1 else l
       t.dev.fld Reg.thmStatus F.thmStatus_level = step (step (step (s.dev.fld Reg.thmStatus F.thmStatus_level)))) ∧
      t.dev.thm.alert = (decide (t.dev.fld Reg.thmSupply F.thmSupply_belowWarn ≠ 0) ||
        decide (t.dev.fld Reg.thmStatus F.thmStatus_level ≠ 0)) ∧
      (∀ k < 64, k ≠ n → t.dev.sensor k = s.dev.sensor k ∧
        t.dev.sensorValid k = (s.dev.sensorValid k && decide (s.dev.now < Tab.get zero s.dev.thm.updated k + 8))) := by
  refine ⟨_, exec_sensorSample hn h₁ h₂ hr, ?_⟩
  have hread := s.dev.sensor_sensorsRead (n := n) v h₁ h₂
  have hvalid := s.dev.sensorValid_sensorsRead v hn
  have hother := fun k (h : k ≠ n) => s.dev.sensor_sensorsRead_other v h
  have hothers := fun k (hk : k < 64) (h : k ≠ n) => s.dev.sensorValid_sensorsRead_other v hk h
  have hthreshold := s.dev.threshold_sensorsRead hn v
  have hhyst := s.dev.fld_sensorsRead hn v (a := Reg.thmCfg) (by decide) F.thmCfg_hyst
  have hlevel := s.dev.fld_sensorsRead hn v (a := Reg.thmStatus) (by decide) F.thmStatus_level
  generalize s.dev.sensorsRead n v = e at *
  have hshown := e.levelled.sameTemps_showAlert
  have hsame := e.sameTemps_levelled.trans hshown
  obtain ⟨hbad, hhot, htmax⟩ := e.levelled_shows
  have hfinal := e.level_levelled
  simp only [Dev.levelFrom_congr hthreshold hhyst] at hfinal
  refine ⟨(hsame.sensors n hn).trans hread, (hsame.valid n hn).trans hvalid, rfl, ⟨?_, ?_, ?_⟩, ?_, ?_, fun k hk hne => ⟨?_, ?_⟩⟩
  · exact ((e.levelled.fld_showAlert _ _).trans hbad).trans hshown.badCount.symm
  · exact ((e.levelled.fld_showAlert _ _).trans hhot).trans hshown.hottest.symm
  · have hformed := htmax
    rw [← hshown.badCount, ← hshown.hottest, ← hshown.sourceTemp (Dev.hottest_lt _), hthreshold] at hformed
    exact e.levelled.tmax_showAlert.trans hformed
  · have hold : e.level = s.dev.level := hlevel
    rw [hold, ← e.levelled.tmax_showAlert] at hfinal
    exact (e.levelled.fld_showAlert _ _).trans hfinal
  · exact e.levelled.alert_showAlert
  · exact (hsame.sensors k hk).trans (hother k hne)
  · exact (hsame.valid k hk).trans (hothers k hk hne)

/-! ## The throttle step (R77, R500) -/

/-- A unit takes the step of THM. -/
def Dev.unitStep (d : Dev) (k u : Nat) : Dev :=
  let d := d.setFld (Reg.coxThrottle u) F.coxThrottle_thmStep k
  d.throttle u (d.nextStep u)

theorem Dev.throttle_eq (d : Dev) (u k : Nat) : d.throttle u k =
    if d.fld (Reg.coxThrottle u) F.coxThrottle_step = k ∧ d.fld (Reg.coxThrottle u) F.coxThrottle_degrade = d.levelAt u k then d
    else (d.crewsOn u).foldl (fun e c => e.record c 0x04 0 0 [u, k, d.levelAt u k])
      ((d.setFld (Reg.coxThrottle u) F.coxThrottle_step k).setFld (Reg.coxThrottle u) F.coxThrottle_degrade (d.levelAt u k)) := rfl

/-- The records of the Crews on a unit leave what lies below the log's registers, and THM. -/
theorem Dev.recordEach_keeps (d : Dev) (l : List Nat) (kind sub obj : Nat) (data : List Nat) :
    (∀ a < Reg.rplLogStatus 0, (l.foldl (fun e c => e.record c kind sub obj data) d).reg a = d.reg a) ∧
      (l.foldl (fun e c => e.record c kind sub obj data) d).thm = d.thm := by
  refine ⟨fun a ha => ?_, ?_⟩
  · refine Dev.foldl_keeps (fun e => e.reg a) (fun e c _ => e.reg_record _ _ _ _ _ ?_ ?_) d
    all_goals
      simp only [Reg.rplLogStatus, Reg.rplLogSeq] at *
      omega
  · exact Dev.foldl_keeps Dev.thm (fun e c _ => by rw [Dev.record_eq]) d

/-- A unit's throttle changes its step and level in its register. -/
theorem Dev.throttle_keeps (d : Dev) (u k : Nat) : (∀ a < Reg.rplLogStatus 0, a ≠ Reg.coxThrottle u → (d.throttle u k).reg a = d.reg a) ∧
    (u < 40 → (d.throttle u k).fld (Reg.coxThrottle u) F.coxThrottle_thmStep = d.fld (Reg.coxThrottle u) F.coxThrottle_thmStep) ∧
    (d.throttle u k).thm = d.thm := by
  rw [Dev.throttle_eq]
  split
  · exact ⟨fun _ _ _ => rfl, fun _ => rfl, rfl⟩
  · obtain ⟨hregs, hthm⟩ := ((d.setFld (Reg.coxThrottle u) F.coxThrottle_step k).setFld (Reg.coxThrottle u) F.coxThrottle_degrade
      (d.levelAt u k)).recordEach_keeps (d.crewsOn u) 0x04 0 0 [u, k, d.levelAt u k]
    refine ⟨fun a ha hne => ?_, fun hu => ?_, ?_⟩
    · rw [hregs a ha, Dev.reg_setFld_other _ _ _ hne, Dev.reg_setFld_other _ _ _ hne]
    · have hlow : Reg.coxThrottle u < Reg.rplLogStatus 0 := by
        unfold Reg.coxThrottle Reg.rplLogStatus
        omega
      rw [Dev.fld, hregs _ hlow, ← Dev.fld, Dev.fld_setFld_field _ _ ⟨by decide, by decide⟩ (by decide),
        Dev.fld_setFld_field _ _ ⟨by decide, by decide⟩ (by decide)]
    · rw [hthm, Dev.setFld_thm, Dev.setFld_thm]

theorem Dev.unitStep_keeps (d : Dev) (k u : Nat) : (∀ a < Reg.rplLogStatus 0, a ≠ Reg.coxThrottle u → (d.unitStep k u).reg a = d.reg a) ∧
    (u < 40 → (d.unitStep k u).fld (Reg.coxThrottle u) F.coxThrottle_thmStep = k % 16) ∧ (d.unitStep k u).thm = d.thm := by
  obtain ⟨hregs, hstep, hthm⟩ := (d.setFld (Reg.coxThrottle u) F.coxThrottle_thmStep k).throttle_keeps u
    ((d.setFld (Reg.coxThrottle u) F.coxThrottle_thmStep k).nextStep u)
  refine ⟨fun a ha hne => (hregs a ha hne).trans (Dev.reg_setFld_other _ _ _ hne), fun hu => (hstep hu).trans ?_,
    hthm.trans (Dev.setFld_thm _ _ _ _)⟩
  exact Dev.fld_setFld_same _ _ ⟨by decide, by decide⟩ _

/-- The first `m` units take the step. -/
def Dev.unitsStepped (d : Dev) (k m : Nat) : Dev := (List.range m).foldl (fun d u => d.unitStep k u) d

theorem Dev.unitsStepped_succ (d : Dev) (k m : Nat) : d.unitsStepped k (m + 1) = (d.unitsStepped k m).unitStep k m := by
  rw [Dev.unitsStepped, List.range_succ, List.foldl_append, ← Dev.unitsStepped]
  rfl

theorem Dev.unitsStepped_keeps (d : Dev) (k : Nat) {m : Nat} (hm : m ≤ 40) :
    (∀ f, (d.unitsStepped k m).fld Reg.thmStatus f = d.fld Reg.thmStatus f) ∧
      (∀ u < m, (d.unitsStepped k m).fld (Reg.coxThrottle u) F.coxThrottle_thmStep = k % 16) ∧ (d.unitsStepped k m).thm = d.thm := by
  induction m with
  | zero => exact ⟨fun _ => rfl, fun u hu => absurd hu (Nat.not_lt_zero u), rfl⟩
  | succ m ih =>
    obtain ⟨hstatus, hsteps, hthm⟩ := ih (by omega)
    obtain ⟨hregs, hstep, hthm'⟩ := (d.unitsStepped k m).unitStep_keeps k m
    rw [Dev.unitsStepped_succ]
    refine ⟨fun f => ?_, fun u hu => ?_, hthm'.trans hthm⟩
    · rw [Dev.fld, hregs _ (by decide) (by unfold Reg.coxThrottle Reg.thmStatus; omega), ← Dev.fld, hstatus]
    · rcases Nat.lt_succ_iff_lt_or_eq.mp hu with hlt | rfl
      · rw [Dev.fld, hregs _ (by unfold Reg.coxThrottle Reg.rplLogStatus; omega) (by unfold Reg.coxThrottle; omega), ← Dev.fld, hsteps u hlt]
      · exact hstep (by omega)

theorem Dev.setStep_eq (d : Dev) (k : Nat) :
    d.setStep k = ((d.setFld Reg.thmStatus F.thmStatus_step k).onThm fun x => { x with changed := d.now }).unitsStepped k 40 := rfl

/-- A step that is set is the step of THM and of every unit. -/
theorem Dev.setStep_shows (d : Dev) {k : Nat} (hk : k < 16) : (d.setStep k).fld Reg.thmStatus F.thmStatus_step = k ∧
    (d.setStep k).thm.changed = d.now ∧
    ∀ u < 40, (d.setStep k).fld (Reg.coxThrottle u) F.coxThrottle_thmStep = (d.setStep k).fld Reg.thmStatus F.thmStatus_step := by
  obtain ⟨hstatus, hsteps, hthm⟩ :=
    ((d.setFld Reg.thmStatus F.thmStatus_step k).onThm fun x => { x with changed := d.now }).unitsStepped_keeps k (Nat.le_refl 40)
  have hstep : (d.setStep k).fld Reg.thmStatus F.thmStatus_step = k := by
    rw [Dev.setStep_eq, hstatus, Dev.fld, Dev.onThm_read_reg, ← Dev.fld, Dev.fld_setFld_same _ _ ⟨by decide, by decide⟩]
    exact Nat.mod_eq_of_lt hk
  refine ⟨hstep, ?_, fun u hu => ?_⟩
  · rw [Dev.setStep_eq, hthm]
    rfl
  · rw [hstep, Dev.setStep_eq, hsteps u hu, Nat.mod_eq_of_lt hk]

/-- Whether the throttle step is to rise. -/
def Dev.stepRises (d : Dev) : Bool :=
  decide (d.threshold 2 ≤ d.tmax) && decide (8 * d.fld Reg.thmCfg F.thmCfg_upMs ≤ d.now - d.thm.changed) &&
    decide (d.fld Reg.thmStatus F.thmStatus_step < d.fld Reg.thmCfg F.thmCfg_maxStep)

/-- Whether the throttle step is to fall. -/
def Dev.stepFalls (d : Dev) : Bool :=
  decide (d.tmax < d.threshold 2 - 8 * (d.fld Reg.thmCfg F.thmCfg_hyst : Int)) &&
    decide (8 * d.fld Reg.thmCfg F.thmCfg_downMs ≤ d.now - d.thm.changed) && decide (0 < d.fld Reg.thmStatus F.thmStatus_step)

theorem exec_throttleStepChange {s : State} (h : s.dev.replay = false) :
    exec .throttleStepChange s = .next { s with
      dev := if s.dev.stepRises = true then s.dev.setStep (s.dev.fld Reg.thmStatus F.thmStatus_step + 1)
        else if s.dev.stepFalls = true then s.dev.setStep (s.dev.fld Reg.thmStatus F.thmStatus_step - 1) else s.dev } := by
  show execThrottleStepChange s = _
  rw [execThrottleStepChange, State.lift_eq]
  dsimp only
  rw [h, if_neg Bool.false_ne_true]
  simp only [Dev.stepRises, Dev.stepFalls, Bool.and_eq_true, decide_eq_true_eq, and_assoc]

/-- The throttle step follows Tmax by one. -/
theorem throttleStepChange_follows {s : State} (h : s.dev.replay = false) :
    ∃ t, exec .throttleStepChange s = .next t ∧ t.mem = s.mem ∧
      t.dev.fld Reg.thmStatus F.thmStatus_step = (if s.dev.stepRises = true then s.dev.fld Reg.thmStatus F.thmStatus_step + 1
        else if s.dev.stepFalls = true then s.dev.fld Reg.thmStatus F.thmStatus_step - 1 else s.dev.fld Reg.thmStatus F.thmStatus_step) ∧
      (if s.dev.stepRises = true ∨ s.dev.stepFalls = true then t.dev.thm.changed = s.dev.now ∧
        ∀ u < 40, t.dev.fld (Reg.coxThrottle u) F.coxThrottle_thmStep = t.dev.fld Reg.thmStatus F.thmStatus_step
      else t = s) := by
  have hlt : s.dev.fld Reg.thmStatus F.thmStatus_step < 16 := Fld.get_lt _ _
  have hmax : s.dev.fld Reg.thmCfg F.thmCfg_maxStep < 16 := Fld.get_lt _ _
  refine ⟨_, exec_throttleStepChange h, rfl, ?_⟩
  by_cases hup : s.dev.stepRises = true
  · have hroom : s.dev.fld Reg.thmStatus F.thmStatus_step < s.dev.fld Reg.thmCfg F.thmCfg_maxStep := of_decide_eq_true (Bool.and_elim_right hup)
    rw [if_pos hup, if_pos hup, if_pos (.inl hup)]
    exact s.dev.setStep_shows (by omega)
  · rw [if_neg hup, if_neg hup]
    by_cases hdown : s.dev.stepFalls = true
    · rw [if_pos hdown, if_pos hdown, if_pos (.inr hdown)]
      exact s.dev.setStep_shows (by omega)
    · rw [if_neg hdown, if_neg hdown, if_neg (not_or.mpr ⟨hup, hdown⟩)]
      exact ⟨rfl, rfl⟩

end Sys2Proof.Machine
end

section
/-! PROOFS. Rails and episodes (R502, R503).
Lemmas for O56. -/

namespace Sys2Proof.Machine

/-! ## What tells the house and the store leaves alone -/

theorem Dev.RegsAlone.thm {d e : Dev} (h : d.RegsAlone e) : e.thm = d.thm := by
  unfold Dev.RegsAlone at h
  rw [h]

theorem Dev.RegsAlone.nvm {d e : Dev} (h : d.RegsAlone e) : e.nvm = d.nvm := by
  unfold Dev.RegsAlone at h
  rw [h]

/-- A record that joins the queue leaves the rest of the store. -/
theorem Dev.nvm_nvmPut (d : Dev) (r : NvmRec) : ∃ q, (d.nvmPut r).nvm = { d.nvm with queue := q } := by
  unfold Dev.nvmPut
  split
  · exact ⟨d.nvm.queue, rfl⟩
  · exact ⟨d.nvm.queue ++ [r], rfl⟩

/-- The event log touches the queue and the summaries of the store alone. -/
theorem Dev.nvm_nvmLog (d : Dev) (k : LogKind) (v : Nat) (p : List Nat) :
    ∃ q m, (d.nvmLog k v p).nvm = { d.nvm with queue := q, summaries := m } := by
  unfold Dev.nvmLog
  dsimp only
  split
  · obtain ⟨q, hq⟩ := Dev.nvm_nvmPut (d.setFld Reg.nvmLog F.nvmLog_tokens (d.fld Reg.nvmLog F.nvmLog_tokens - 1)) ⟨0, k.code, 0, d.now, p⟩
    exact ⟨q, d.nvm.summaries, hq.trans (by rw [Dev.setFld_nvm])⟩
  · split
    · exact ⟨d.nvm.queue, _, rfl⟩
    · exact ⟨d.nvm.queue, d.nvm.summaries, rfl⟩

/-- SUPPLY_WARN leaves every register but the house's event queue. -/
theorem Dev.reg_supplyWarn (d : Dev) (entering : Bool) (mask us mv : Nat) {a : Nat} (h : a ≠ Reg.hifEvqStatus 0) :
    (d.supplyWarn entering mask us mv).reg a = d.reg a := Dev.reg_postEvent _ _ _ _ _ h

/-- SUPPLY_WARN touches registers, the host side and what is shown. -/
theorem Dev.supplyWarn_alone (d : Dev) (entering : Bool) (mask us mv : Nat) : d.supplyWarn entering mask us mv =
    { d with regs := (d.supplyWarn entering mask us mv).regs, hif := (d.supplyWarn entering mask us mv).hif
             out := (d.supplyWarn entering mask us mv).out } := Dev.postEvent_eq _ _ _ _ _

theorem Dev.thm_supplyWarn (d : Dev) (entering : Bool) (mask us mv : Nat) : (d.supplyWarn entering mask us mv).thm = d.thm := by
  rw [Dev.supplyWarn_alone]

theorem Dev.nvm_supplyWarn (d : Dev) (entering : Bool) (mask us mv : Nat) : (d.supplyWarn entering mask us mv).nvm = d.nvm := by
  rw [Dev.supplyWarn_alone]

theorem Dev.fld_supplyWarn (d : Dev) (entering : Bool) (mask us mv : Nat) (f : Fld) :
    (d.supplyWarn entering mask us mv).fld Reg.thmSupply f = d.fld Reg.thmSupply f := by
  rw [Dev.fld, Dev.reg_supplyWarn _ _ _ _ _ (by decide), Dev.fld]

theorem Dev.nvm_showAlert (d : Dev) : d.showAlert.nvm = d.nvm := by rw [Dev.showAlert_alone]

/-- A supply record that waits for the end of its hold is logged. -/
def Dev.lastLogged (d : Dev) : Dev := match d.thm.last with
  | some e => d.logSupply e
  | none => d

section
variable (d : Dev)

theorem Dev.thm_lastLogged : d.lastLogged.thm = { d.thm with last := none } := by
  unfold Dev.lastLogged
  split
  · rw [Dev.logSupply, Dev.thm_nvmLog, Dev.onThm_thm]
  · next h => rw [← h]

theorem Dev.nvm_lastLogged : ∃ q m, d.lastLogged.nvm = { d.nvm with queue := q, summaries := m } := by
  unfold Dev.lastLogged
  cases d.thm.last with
  | none => exact ⟨d.nvm.queue, d.nvm.summaries, rfl⟩
  | some e => exact Dev.nvm_nvmLog _ _ _ _

/-- What lies below the store's registers is left alone. -/
theorem Dev.reg_lastLogged {a : Nat} (ha : a < Reg.nvmStatus) : d.lastLogged.reg a = d.reg a := by
  unfold Dev.lastLogged
  cases d.thm.last with
  | none => rfl
  | some e =>
    have hne (b : Nat) (hb : Reg.nvmStatus ≤ b) : a ≠ b := (lt_of_lt_of_le ha hb).ne
    dsimp only
    rw [Dev.logSupply, Dev.reg_nvmLog _ _ _ _ (hne _ (by decide)) (hne _ (by decide)) (hne _ (by decide)), Dev.onThm_read_reg]

theorem Dev.fld_lastLogged {a : Nat} (ha : a < Reg.nvmStatus) (f : Fld) : d.lastLogged.fld a f = d.fld a f := by
  rw [Dev.fld, d.reg_lastLogged ha, Dev.fld]

theorem Dev.lastLogged_alone : d.lastLogged = { d with regs := d.lastLogged.regs, nvm := d.lastLogged.nvm, thm := d.lastLogged.thm } := by
  unfold Dev.lastLogged
  cases d.thm.last with
  | none => rfl
  | some e =>
    dsimp only
    rw [Dev.logSupply, Dev.nvmLog_eq]
    rfl

theorem Dev.now_lastLogged : d.lastLogged.nowNs = d.nowNs := by
  rw [Dev.lastLogged_alone]
  rfl
end

/-! ## A rail below its warning level (R502, R503) -/

/-- A rail is shown below its warning level. -/
def Dev.railShown (d : Dev) (rail mv : Nat) : Dev :=
  (d.showRail rail mv).setFld Reg.thmSupply F.thmSupply_belowWarn (d.fld Reg.thmSupply F.thmSupply_belowWarn ||| 2 ^ rail)

/-- An episode opens, which holds the writes of the store. -/
def Dev.episodeOpened (d : Dev) (rail mv : Nat) : Dev :=
  ((d.onThm fun x => { x with episode := some (d.nowNs, 2 ^ rail, [(rail, mv)]) }).setFld Reg.thmSupply F.thmSupply_hold 1).addFld
    Reg.thmSupply F.thmSupply_episodes 1

theorem exec_railBelowWarn {s : State} {rail : Nat} (mv : Nat) (hrail : rail < 11) (hr : s.dev.inReset 0 = false)
    (he : s.dev.thm.episode = none) :
    exec (.railBelowWarn rail mv) s = .next { s with
      dev := (((s.dev.railShown rail mv).lastLogged.episodeOpened rail mv).abortErases.showAlert).supplyWarn true (2 ^ rail) 0 mv } := by
  have hepisode : (s.dev.railShown rail mv).thm.episode = none := by
    unfold Dev.railShown Dev.showRail
    dsimp only
    rw [Dev.setFld_thm, Dev.setFld_thm, Dev.setFld_thm, he]
  have hgo : ¬(11 ≤ rail ∨ s.dev.inReset 0 = true) := by
    rw [hr]
    simpa using hrail
  show execRailBelowWarn rail mv s = _
  rw [execRailBelowWarn, State.lift_eq, if_neg hgo]
  unfold Dev.railShown at hepisode ⊢
  dsimp only
  rw [hepisode]
  unfold Dev.lastLogged Dev.episodeOpened
  dsimp only <;> rfl

section
variable (d : Dev) (rail mv : Nat)

theorem Dev.regsAlone_railShown : d.RegsAlone (d.railShown rail mv) := ((d.regsAlone_setFld _ _ _).setFld _ _ _).setFld _ _ _

theorem thmSupply_ne_thmRail (r : Nat) : Reg.thmSupply ≠ Reg.thmRail r := by
  unfold Reg.thmSupply Reg.thmRail
  omega

theorem Dev.episodes_railShown : (d.railShown rail mv).fld Reg.thmSupply F.thmSupply_episodes = d.fld Reg.thmSupply F.thmSupply_episodes := by
  rw [Dev.railShown, Dev.fld_setFld_field _ _ ⟨by decide, by decide⟩ (by decide), Dev.showRail, Dev.fld_setFld_other _ _ _ _ (thmSupply_ne_thmRail rail),
    Dev.fld_setFld_other _ _ _ _ (thmSupply_ne_thmRail rail)]

theorem Dev.belowWarn_railShown (hrail : rail < 11) : (d.railShown rail mv).fld Reg.thmSupply F.thmSupply_belowWarn =
    d.fld Reg.thmSupply F.thmSupply_belowWarn ||| 2 ^ rail := by
  have hold : d.fld Reg.thmSupply F.thmSupply_belowWarn < 2 ^ 11 := Fld.get_lt _ _
  rw [Dev.railShown, Dev.fld_setFld_same _ _ ⟨by decide, by decide⟩]
  exact Nat.mod_eq_of_lt (Nat.or_lt_two_pow hold (Nat.pow_lt_pow_right (by decide) hrail))

theorem Dev.thm_episodeOpened : (d.episodeOpened rail mv).thm = { d.thm with episode := some (d.nowNs, 2 ^ rail, [(rail, mv)]) } := by
  rw [Dev.episodeOpened, Dev.addFld_thm, Dev.setFld_thm, Dev.onThm_thm]

theorem Dev.nvm_episodeOpened : (d.episodeOpened rail mv).nvm = d.nvm := by
  rw [Dev.episodeOpened, Dev.addFld_nvm, Dev.setFld_nvm, Dev.onThm_nvm]

theorem Dev.supply_episodeOpened : (d.episodeOpened rail mv).flag Reg.thmSupply F.thmSupply_hold = true ∧
    (d.episodeOpened rail mv).fld Reg.thmSupply F.thmSupply_episodes = (d.fld Reg.thmSupply F.thmSupply_episodes + 1) % 65536 ∧
    (d.episodeOpened rail mv).fld Reg.thmSupply F.thmSupply_belowWarn = d.fld Reg.thmSupply F.thmSupply_belowWarn := by
  have hthm (f : Fld) : (d.onThm fun x => { x with episode := some (d.nowNs, 2 ^ rail, [(rail, mv)]) }).fld Reg.thmSupply f =
      d.fld Reg.thmSupply f := by rw [Dev.fld, Dev.onThm_read_reg, Dev.fld]
  refine ⟨?_, ?_, ?_⟩
  · rw [Dev.episodeOpened, Dev.addFld, Dev.flag_setFld_field _ _ ⟨by decide, by decide⟩ (by decide),
      Dev.flag_setFld_same _ _ ⟨by decide, by decide⟩ rfl]
    rfl
  · rw [Dev.episodeOpened, Dev.fld_addFld_same _ _ ⟨by decide, by decide⟩, Dev.fld_setFld_field _ _ ⟨by decide, by decide⟩ (by decide), hthm]
    rfl
  · rw [Dev.episodeOpened, Dev.addFld, Dev.fld_setFld_field _ _ ⟨by decide, by decide⟩ (by decide),
      Dev.fld_setFld_field _ _ ⟨by decide, by decide⟩ (by decide), hthm]

/-- Aborted erases leave their sectors dirty. -/
theorem Dev.nvm_abortErases : d.abortErases.nvm =
    { d.nvm with dirty := d.nvm.dirty ++ d.nvm.erasing.filter fun s => !d.nvm.dirty.contains s, erasing := [] } := by
  rw [Dev.abortErases, Dev.showBusy, Dev.setFld_nvm]
  rfl

theorem Dev.thm_abortErases : d.abortErases.thm = d.thm := by
  rw [Dev.abortErases, Dev.showBusy, Dev.setFld_thm]
  rfl

theorem Dev.reg_abortErases {a : Nat} (h : a ≠ Reg.nvmStatus) : d.abortErases.reg a = d.reg a := by
  rw [Dev.abortErases, Dev.showBusy, Dev.reg_setFld_other _ _ _ h]
  rfl

theorem Dev.fld_abortErases (f : Fld) : d.abortErases.fld Reg.thmSupply f = d.fld Reg.thmSupply f := by
  rw [Dev.fld, d.reg_abortErases (by decide), Dev.fld]

theorem Dev.dirty_abortErases {k : Nat} (h : k ∈ d.nvm.erasing) : k ∈ d.abortErases.nvm.dirty := by
  rw [Dev.nvm_abortErases]
  by_cases hk : k ∈ d.nvm.dirty
  · exact List.mem_append_left _ hk
  · exact List.mem_append_right _ (List.mem_filter.mpr ⟨h, by simpa using hk⟩)
end

/-- A rail below its warning level opens an episode. -/
theorem railBelowWarn_opens {s : State} {rail : Nat} (mv : Nat) (hrail : rail < 11) (hr : s.dev.inReset 0 = false)
    (he : s.dev.thm.episode = none) :
    ∃ t, exec (.railBelowWarn rail mv) s = .next t ∧ t.dev.nvmHeld = true ∧
      t.dev.fld Reg.thmSupply F.thmSupply_belowWarn = s.dev.fld Reg.thmSupply F.thmSupply_belowWarn ||| 2 ^ rail ∧
      t.dev.fld Reg.thmSupply F.thmSupply_episodes = (s.dev.fld Reg.thmSupply F.thmSupply_episodes + 1) % 65536 ∧
      t.dev.thm.episode = some (s.dev.nowNs, 2 ^ rail, [(rail, mv)]) ∧ t.dev.nvm.erasing = [] ∧ t.dev.thm.alert = true ∧
      (∀ k ∈ s.dev.nvm.erasing, k ∈ t.dev.nvm.dirty) ∧ t.mem = s.mem := by
  refine ⟨_, exec_railBelowWarn mv hrail hr he, ?_⟩
  have halone := s.dev.regsAlone_railShown rail mv
  have hbelow := s.dev.belowWarn_railShown rail mv hrail
  have hcount := s.dev.episodes_railShown rail mv
  have hnow : (s.dev.railShown rail mv).nowNs = s.dev.nowNs := by
    rw [halone]
    rfl
  generalize s.dev.railShown rail mv = e at halone hbelow hcount hnow ⊢
  obtain ⟨hhold, hepisodes, hmask⟩ := e.lastLogged.supply_episodeOpened rail mv
  have hthm := e.lastLogged.thm_episodeOpened rail mv
  have hnvm := e.lastLogged.nvm_episodeOpened rail mv
  rw [e.fld_lastLogged (by decide)] at hepisodes hmask
  rw [Dev.now_lastLogged] at hthm
  generalize e.lastLogged.episodeOpened rail mv = o at hhold hepisodes hmask hthm hnvm ⊢
  have hfld (f : Fld) : (o.abortErases.showAlert.supplyWarn true (2 ^ rail) 0 mv).fld Reg.thmSupply f = o.fld Reg.thmSupply f :=
    (Dev.fld_supplyWarn _ _ _ _ _ _).trans ((Dev.fld_showAlert _ _ _).trans (Dev.fld_abortErases _ _))
  have hnvm' : (o.abortErases.showAlert.supplyWarn true (2 ^ rail) 0 mv).nvm = o.abortErases.nvm :=
    (Dev.nvm_supplyWarn _ _ _ _ _).trans (Dev.nvm_showAlert _)
  have hthm' : (o.abortErases.showAlert.supplyWarn true (2 ^ rail) 0 mv).thm = { o.thm with alert := o.abortErases.alertOn } := by
    rw [Dev.thm_supplyWarn, Dev.thm_showAlert, Dev.thm_abortErases]
  refine ⟨?_, ?_, ?_, ?_, ?_, ?_, fun k hk => ?_, rfl⟩
  · exact (congrArg (fun n => decide (n = 1)) (hfld _)).trans hhold
  · exact ((hfld _).trans hmask).trans hbelow
  · exact ((hfld _).trans hepisodes).trans (by rw [hcount])
  · dsimp only
    rw [hthm', hthm]
    dsimp only
    rw [hnow]
  · dsimp only
    rw [hnvm', Dev.nvm_abortErases]
  · have hne : o.fld Reg.thmSupply F.thmSupply_belowWarn ≠ 0 := by
      rw [hmask, hbelow]
      exact fun hzero => (Nat.two_pow_pos rail).ne' (Nat.or_eq_zero_iff.mp hzero).2
    dsimp only
    rw [hthm', Dev.alertOn, Dev.fld_abortErases, decide_eq_true hne, Bool.true_or]
  · dsimp only
    rw [hnvm']
    refine o.dirty_abortErases ?_
    obtain ⟨q, m, hlogged⟩ := e.nvm_lastLogged
    rwa [hnvm, hlogged, halone.nvm]

/-! ## The recovery of a rail (R502, R503) -/

/-- A rail is shown as recovered. -/
def Dev.railRecovered (d : Dev) (rail mv left : Nat) : Dev :=
  (d.setFld (Reg.thmRail rail) F.thmRail_nowMv mv).setFld Reg.thmSupply F.thmSupply_belowWarn left

/-- An episode closes: its supply record is kept for the end of the hold. -/
def Dev.episodeClosed (d : Dev) (us mask mv : Nat) : Dev := d.onThm fun x => { x with episode := none, last := some (us, mask, mv) }

theorem exec_railRecover {s : State} {rail at_ mask : Nat} {low : List (Nat × Nat)} (mv : Nat) (hrail : rail < 11)
    (hb : s.dev.fld Reg.thmSupply F.thmSupply_belowWarn = 2 ^ rail) (he : s.dev.thm.episode = some (at_, mask, low)) :
    exec (.railRecover rail mv) s = .next { s with
      dev := ((s.dev.railRecovered rail mv 0).episodeClosed (((s.dev.railRecovered rail mv 0).nowNs - at_) / 1000) mask
        (worstRail low)).showAlert.supplyWarn false mask (((s.dev.railRecovered rail mv 0).nowNs - at_) / 1000) (worstRail low) } := by
  have hepisode : (s.dev.railRecovered rail mv 0).thm.episode = some (at_, mask, low) := by
    rw [Dev.railRecovered, Dev.setFld_thm, Dev.setFld_thm, he]
  have hgo : ¬(11 ≤ rail ∨ bitAt (2 ^ rail) rail = false) := by
    rw [bitAt, Nat.div_self (Nat.two_pow_pos rail)]
    simpa using hrail
  show execRailRecover rail mv s = _
  rw [execRailRecover, State.lift_eq]
  dsimp only
  rw [hb, if_neg hgo, Nat.sub_self]
  unfold Dev.railRecovered at hepisode ⊢
  rw [hepisode]
  unfold Dev.episodeClosed
  dsimp only
  rw [if_neg (not_not_intro rfl)]

/-- The recovery of the last rail closes the episode. -/
theorem railRecover_closes {s : State} {rail at_ mask : Nat} {low : List (Nat × Nat)} (mv : Nat) (hrail : rail < 11)
    (hb : s.dev.fld Reg.thmSupply F.thmSupply_belowWarn = 2 ^ rail) (he : s.dev.thm.episode = some (at_, mask, low)) :
    ∃ t, exec (.railRecover rail mv) s = .next t ∧ t.dev.fld Reg.thmSupply F.thmSupply_belowWarn = 0 ∧ t.dev.thm.episode = none ∧
      t.dev.thm.last = some ((s.dev.nowNs - at_) / 1000, mask, worstRail low) ∧ t.dev.nvmHeld = s.dev.nvmHeld ∧ t.dev.nvm = s.dev.nvm ∧
      t = { s with dev := { s.dev with regs := t.dev.regs, thm := t.dev.thm, hif := t.dev.hif, out := t.dev.out } } := by
  refine ⟨_, exec_railRecover mv hrail hb he, ?_⟩
  have halone : s.dev.RegsAlone (s.dev.railRecovered rail mv 0) := (s.dev.regsAlone_setFld _ _ _).setFld _ _ _
  have hbelow : (s.dev.railRecovered rail mv 0).fld Reg.thmSupply F.thmSupply_belowWarn = 0 :=
    (Dev.fld_setFld_same _ _ ⟨by decide, by decide⟩ _).trans (Nat.zero_mod _)
  have hheld : (s.dev.railRecovered rail mv 0).fld Reg.thmSupply F.thmSupply_hold = s.dev.fld Reg.thmSupply F.thmSupply_hold := by
    rw [Dev.railRecovered, Dev.fld_setFld_field _ _ ⟨by decide, by decide⟩ (by decide), Dev.fld_setFld_other _ _ _ _ (thmSupply_ne_thmRail rail)]
  have hnow : (s.dev.railRecovered rail mv 0).nowNs = s.dev.nowNs := by
    rw [halone]
    rfl
  rw [hnow]
  generalize s.dev.railRecovered rail mv 0 = e at halone hbelow hheld
  generalize (s.dev.nowNs - at_) / 1000 = us
  have hthm : (e.episodeClosed us mask (worstRail low)).thm = { e.thm with episode := none, last := some (us, mask, worstRail low) } := rfl
  have hclosed : e.episodeClosed us mask (worstRail low) = { e with thm := (e.episodeClosed us mask (worstRail low)).thm } := rfl
  have hreg (f : Fld) : (e.episodeClosed us mask (worstRail low)).fld Reg.thmSupply f = e.fld Reg.thmSupply f := rfl
  generalize e.episodeClosed us mask (worstRail low) = o at hthm hclosed hreg
  have hfld (f : Fld) : (o.showAlert.supplyWarn false mask us (worstRail low)).fld Reg.thmSupply f = e.fld Reg.thmSupply f :=
    ((Dev.fld_supplyWarn _ _ _ _ _ _).trans (Dev.fld_showAlert _ _ _)).trans (hreg f)
  have hthm' : (o.showAlert.supplyWarn false mask us (worstRail low)).thm =
      { e.thm with episode := none, last := some (us, mask, worstRail low), alert := o.alertOn } := by
    rw [Dev.thm_supplyWarn, Dev.thm_showAlert, hthm]
  have hend : o.showAlert.supplyWarn false mask us (worstRail low) = { s.dev with
      regs := (o.showAlert.supplyWarn false mask us (worstRail low)).regs, thm := (o.showAlert.supplyWarn false mask us (worstRail low)).thm
      hif := (o.showAlert.supplyWarn false mask us (worstRail low)).hif, out := (o.showAlert.supplyWarn false mask us (worstRail low)).out } := by
    have hwarn := o.showAlert.supplyWarn_alone false mask us (worstRail low)
    have halert := o.showAlert_alone
    generalize o.showAlert.supplyWarn false mask us (worstRail low) = t at hwarn ⊢
    generalize o.showAlert = a at halert hwarn
    unfold Dev.RegsAlone at halone
    rw [hwarn, halert, hclosed, halone]
  generalize o.showAlert.supplyWarn false mask us (worstRail low) = t at hfld hthm' hend ⊢
  refine ⟨(hfld _).trans hbelow, by rw [hthm'], by rw [hthm'], ?_, ?_, congrArg (fun d => { s with dev := d }) hend⟩
  · exact congrArg (fun n => decide (n = 1)) ((hfld _).trans hheld)
  · have hnvm := congrArg Dev.nvm hend
    exact hnvm

end Sys2Proof.Machine
end

section
/-! PROOFS. The record store, its hold and its erases, tokens, and SMBus (R503, R506, R507, R543).
Settles O56. -/

namespace Sys2Proof.Machine

/-! ## The end of a hold (R503) -/

/-- What the end of a hold changes: registers, the store, THM and the copies of the option bytes. -/
def Dev.HoldAlone (d e : Dev) : Prop := e = { d with regs := e.regs, nvm := e.nvm, thm := e.thm, rst := e.rst }

theorem Dev.HoldAlone.trans {d e t : Dev} (h : d.HoldAlone e) (h' : e.HoldAlone t) : d.HoldAlone t := by
  unfold Dev.HoldAlone at h h' ⊢
  rw [h', h]

theorem Dev.RegsAlone.holdAlone {d e : Dev} (h : d.RegsAlone e) : d.HoldAlone e := by
  unfold Dev.RegsAlone at h
  unfold Dev.HoldAlone
  rw [h]

theorem Dev.holdAlone_onNvm (d : Dev) (f : Nvm → Nvm) : d.HoldAlone (d.onNvm f) := rfl

theorem Dev.saves_released (d : Dev) : (d.onNvm fun n => { n with saves := [] }).nvm.saves = [] := rfl

/-- What the completion of a save leaves: the saves that wait, THM and the registers of THM. -/
structure Dev.SaveDone (d e : Dev) : Prop where
  alone : d.HoldAlone e
  saves : e.nvm.saves = d.nvm.saves
  thm : e.thm = d.thm
  supply : e.reg Reg.thmSupply = d.reg Reg.thmSupply

theorem Dev.SaveDone.trans {d e t : Dev} (h : d.SaveDone e) (h' : e.SaveDone t) : d.SaveDone t :=
  ⟨h.alone.trans h'.alone, h'.saves.trans h.saves, h'.thm.trans h.thm, h'.supply.trans h.supply⟩

theorem Dev.SaveDone.refl (d : Dev) : d.SaveDone d := ⟨rfl, rfl, rfl, rfl⟩

/-- A write of a field below THM's registers or above them. -/
theorem Dev.saveDone_setFld (d : Dev) {a : Nat} (f : Fld) (v : Nat) (h : Reg.thmSupply ≠ a) : d.SaveDone (d.setFld a f v) :=
  ⟨(d.regsAlone_setFld _ _ _).holdAlone, by rw [Dev.setFld_nvm], d.setFld_thm _ _ _, d.reg_setFld_other _ _ h⟩

theorem Dev.saveDone_onNvm (d : Dev) {f : Nvm → Nvm} (h : (f d.nvm).saves = d.nvm.saves) : d.SaveDone (d.onNvm f) :=
  ⟨rfl, h, rfl, rfl⟩

theorem Dev.saveDone_doSave (d : Dev) (x : NvmSave) : d.SaveDone (d.doSave x) := by
  cases x with
  | snapshots l =>
    exact ((d.saveDone_onNvm rfl).trans (Dev.saveDone_setFld _ _ _ (by decide))).trans (Dev.saveDone_setFld _ _ _ (by decide))
  | centres l =>
    exact ((d.saveDone_onNvm rfl).trans (Dev.saveDone_setFld _ _ _ (by decide))).trans (Dev.saveDone_setFld _ _ _ (by decide))
  | options copy bytes =>
    exact Dev.SaveDone.trans (e := { d with rst := if copy = 0 then { d.rst with copyA := bytes } else { d.rst with copyB := bytes } })
      ⟨rfl, rfl, rfl, rfl⟩ (Dev.saveDone_setFld _ _ _ (by decide))

/-- No save waits once they are released. -/
theorem Dev.saveDone_releaseSaves (d : Dev) : (d.onNvm fun n => { n with saves := [] }).SaveDone d.releaseSaves := by
  unfold Dev.releaseSaves
  exact List.foldlRecOn (motive := fun t : Dev => (d.onNvm fun n => { n with saves := [] }).SaveDone t) _ _ (.refl _)
    fun t ht x _ => ht.trans (t.saveDone_doSave x)

theorem Dev.saveDone_eraseDirty (d : Dev) : d.SaveDone d.eraseDirty := (d.saveDone_onNvm rfl).trans (Dev.saveDone_setFld _ _ _ (by decide))

theorem exec_nvmHoldEnd {s : State} (h : s.dev.nvmHeld = true) (he : s.dev.thm.episode = none) :
    exec .nvmHoldEnd s = .next { s with
      dev := (s.dev.setFld Reg.thmSupply F.thmSupply_hold 0).releaseSaves.eraseDirty.lastLogged } := by
  have hgo : ¬(s.dev.nvmHeld = false ∨ s.dev.thm.episode.isSome = true) := by
    rw [h, he]
    decide
  show execNvmHoldEnd s = _
  rw [execNvmHoldEnd, State.lift_eq, if_neg hgo]
  unfold Dev.lastLogged
  dsimp only <;> rfl

/-- The end of the hold releases the saves that waited. -/
theorem nvmHoldEnd_releases {s : State} (h : s.dev.nvmHeld = true) (he : s.dev.thm.episode = none) :
    ∃ t, exec .nvmHoldEnd s = .next t ∧ t.dev.nvmHeld = false ∧ t.dev.nvm.saves = [] ∧ t.dev.thm.last = none ∧
      t = { s with dev := { s.dev with regs := t.dev.regs, nvm := t.dev.nvm, thm := t.dev.thm, rst := t.dev.rst } } := by
  refine ⟨_, exec_nvmHoldEnd h he, ?_⟩
  have hfree : (s.dev.setFld Reg.thmSupply F.thmSupply_hold 0).flag Reg.thmSupply F.thmSupply_hold = false :=
    Dev.flag_setFld_same _ _ ⟨by decide, by decide⟩ rfl 0
  have hset : s.dev.HoldAlone ((s.dev.setFld Reg.thmSupply F.thmSupply_hold 0).onNvm fun n => { n with saves := [] }) :=
    (s.dev.regsAlone_setFld _ _ _).holdAlone.trans (Dev.holdAlone_onNvm _ _)
  have hdone := (s.dev.setFld Reg.thmSupply F.thmSupply_hold 0).saveDone_releaseSaves.trans (Dev.saveDone_eraseDirty _)
  generalize (s.dev.setFld Reg.thmSupply F.thmSupply_hold 0).releaseSaves.eraseDirty = e at hdone ⊢
  obtain ⟨halone, hsaves, -, hsupply⟩ := hdone
  have hlogged := e.lastLogged_alone
  refine ⟨?_, ?_, ?_, ?_⟩
  · have hreg := (e.reg_lastLogged (a := Reg.thmSupply) (by decide)).trans (hsupply.trans (Dev.onNvm_read_reg _ _ _))
    exact (congrArg (fun w => decide (F.thmSupply_hold.get w = 1)) hreg).trans hfree
  · obtain ⟨q, m, hnvm⟩ := e.nvm_lastLogged
    exact ((congrArg Nvm.saves hnvm).trans hsaves).trans (Dev.saves_released _)
  · exact congrArg Thm.last e.thm_lastLogged
  · have hend : s.dev.HoldAlone e.lastLogged := by
      refine (hset.trans halone).trans ?_
      generalize e.lastLogged = t at hlogged
      unfold Dev.HoldAlone
      rw [hlogged]
    exact congrArg (fun d => { s with dev := d }) hend

/-! ## Records (R503, R506) -/

/-- The oldest record that waits is in the event log. -/
def Dev.recordStored (d : Dev) (r : NvmRec) (rest : List NvmRec) : Dev :=
  d.onNvm fun x => { x with queue := rest, log := (d.nvm.logSeq, r) :: x.log.take 3071, logSeq := d.nvm.logSeq + 1 }

/-- The number of records that wait and the next number of the log are shown. -/
def Dev.queueShown (d : Dev) (waiting seq : Nat) : Dev :=
  (d.setFld Reg.nvmStatus F.nvmStatus_queued waiting).setReg Reg.nvmLogSeq (BitVec.ofNat 32 seq)

theorem exec_nvmRecordWrite {s : State} {r : NvmRec} {rest : List NvmRec} (ho : s.dev.sec.order = none) (hq : s.dev.nvm.queue = r :: rest)
    (hh : s.dev.nvmHeld = false) (hslot : s.dev.slotErased (ringSlot 32 48 s.dev.nvm.logSeq) = true) :
    exec .nvmRecordWrite s = .next { s with
      dev := (((s.dev.recordStored r rest).queueShown rest.length (s.dev.nvm.logSeq + 1)).useSlot 32 48 s.dev.nvm.logSeq).showBusy } := by
  show execNvmRecordWrite s = _
  rw [execNvmRecordWrite, State.lift_eq]
  dsimp only
  rw [ho]
  dsimp only
  rw [Dev.nvmWrite, hq]
  dsimp only
  rw [hh, hslot, if_neg (by decide)]
  unfold Dev.queueShown Dev.recordStored
  dsimp only

theorem Dev.regsAlone_queueShown (d : Dev) (waiting seq : Nat) : d.RegsAlone (d.queueShown waiting seq) :=
  (d.regsAlone_setFld _ _ _).trans (Dev.regsAlone_setReg _ _ _)

theorem Dev.keepsRegs_queueShown (d : Dev) (waiting seq : Nat) : d.KeepsRegs (d.queueShown waiting seq) [Reg.nvmStatus, Reg.nvmLogSeq] :=
  ((d.keepsRegs_setFld _ _ _).mono (by simp)).trans ((Dev.keepsRegs_setReg _ _ _).mono (by simp))

/-- What a slot's use and BUSY change. -/
def Dev.StoreAlone (d e : Dev) : Prop := e = { d with regs := e.regs, nvm := e.nvm }

theorem Dev.StoreAlone.trans {d e t : Dev} (h : d.StoreAlone e) (h' : e.StoreAlone t) : d.StoreAlone t := by
  unfold Dev.StoreAlone at h h' ⊢
  rw [h', h]

theorem Dev.RegsAlone.storeAlone {d e : Dev} (h : d.RegsAlone e) : d.StoreAlone e := by
  unfold Dev.RegsAlone at h
  unfold Dev.StoreAlone
  rw [h]

theorem Dev.storeAlone_onNvm (d : Dev) (f : Nvm → Nvm) : d.StoreAlone (d.onNvm f) := rfl

theorem Dev.fld_onNvm (d : Dev) (f : Nvm → Nvm) (a : Nat) (g : Fld) : (d.onNvm f).fld a g = d.fld a g := by
  rw [Dev.fld, Dev.onNvm_read_reg, Dev.fld]

theorem Dev.reg_useSlot (d : Dev) (base sectors n a : Nat) : (d.useSlot base sectors n).reg a = d.reg a := Dev.onNvm_read_reg _ _ a

/-- BUSY leaves every other field of its register. -/
theorem Dev.fld_showBusy (d : Dev) {f : Fld} (h : f.hi < F.nvmStatus_busy.lo ∨ F.nvmStatus_busy.hi < f.lo) :
    d.showBusy.fld Reg.nvmStatus f = d.fld Reg.nvmStatus f := Dev.fld_setFld_field _ _ ⟨by decide, by decide⟩ h _

/-- The oldest record that waits is written into an erased slot. -/
theorem nvmRecordWrite_writes {s : State} {r : NvmRec} {rest : List NvmRec} (ho : s.dev.sec.order = none) (hq : s.dev.nvm.queue = r :: rest)
    (hh : s.dev.nvmHeld = false) (hslot : s.dev.slotErased (ringSlot 32 48 s.dev.nvm.logSeq) = true) :
    ∃ t, exec .nvmRecordWrite s = .next t ∧ t.dev.nvm.queue = rest ∧
      t.dev.nvm.log = (s.dev.nvm.logSeq, r) :: s.dev.nvm.log.take 3071 ∧ t.dev.nvm.logSeq = s.dev.nvm.logSeq + 1 ∧
      t.dev.reg Reg.nvmLogSeq = BitVec.ofNat 32 (s.dev.nvm.logSeq + 1) ∧
      t.dev.fld Reg.nvmStatus F.nvmStatus_queued = rest.length % 64 ∧ s.dev.KeepsRegs t.dev [Reg.nvmStatus, Reg.nvmLogSeq] ∧
      t = { s with dev := { s.dev with regs := t.dev.regs, nvm := t.dev.nvm } } := by
  refine ⟨_, exec_nvmRecordWrite ho hq hh hslot, ?_⟩
  have hstored := s.dev.storeAlone_onNvm fun x =>
    { x with queue := rest, log := (s.dev.nvm.logSeq, r) :: x.log.take 3071, logSeq := s.dev.nvm.logSeq + 1 }
  have hstoredRegs (a : Nat) : (s.dev.recordStored r rest).reg a = s.dev.reg a := Dev.onNvm_read_reg _ _ a
  have hqueue : (s.dev.recordStored r rest).nvm.queue = rest := rfl
  have hlog : (s.dev.recordStored r rest).nvm.log = (s.dev.nvm.logSeq, r) :: s.dev.nvm.log.take 3071 := rfl
  have hseq : (s.dev.recordStored r rest).nvm.logSeq = s.dev.nvm.logSeq + 1 := rfl
  change s.dev.StoreAlone (s.dev.recordStored r rest) at hstored
  generalize s.dev.recordStored r rest = e at *
  have hshown := e.regsAlone_queueShown rest.length (s.dev.nvm.logSeq + 1)
  have hkeeps := e.keepsRegs_queueShown rest.length (s.dev.nvm.logSeq + 1)
  have hnumber : (e.queueShown rest.length (s.dev.nvm.logSeq + 1)).reg Reg.nvmLogSeq = BitVec.ofNat 32 (s.dev.nvm.logSeq + 1) :=
    Dev.reg_setReg_same _ _ _
  have hwaiting : (e.queueShown rest.length (s.dev.nvm.logSeq + 1)).fld Reg.nvmStatus F.nvmStatus_queued = rest.length % 64 := by
    rw [Dev.queueShown, Dev.fld, Dev.reg_setReg_other _ _ (by decide), ← Dev.fld, Dev.fld_setFld_same _ _ ⟨by decide, by decide⟩]
    rfl
  generalize e.queueShown rest.length (s.dev.nvm.logSeq + 1) = q at *
  have hused := q.nvm_useSlot_showBusy 32 48 s.dev.nvm.logSeq
  have hbusy (a : Nat) (ha : a ≠ Reg.nvmStatus) : ((q.useSlot 32 48 s.dev.nvm.logSeq).showBusy).reg a = q.reg a :=
    (Dev.reg_setFld_other _ _ _ ha).trans (Dev.reg_useSlot _ _ _ _ a)
  have hfinal : q.StoreAlone (q.useSlot 32 48 s.dev.nvm.logSeq).showBusy :=
    (q.storeAlone_onNvm _).trans (Dev.regsAlone_setFld _ _ _ _).storeAlone
  have hcount : (q.useSlot 32 48 s.dev.nvm.logSeq).showBusy.fld Reg.nvmStatus F.nvmStatus_queued = q.fld Reg.nvmStatus F.nvmStatus_queued :=
    (Dev.fld_showBusy _ (by decide)).trans (Dev.fld_onNvm _ _ _ _)
  rw [hshown.nvm] at hused
  generalize (q.useSlot 32 48 s.dev.nvm.logSeq).showBusy = t at *
  refine ⟨?_, ?_, ?_, ?_, hcount.trans hwaiting, fun a ha => ?_, ?_⟩
  · exact (congrArg Nvm.queue hused).trans hqueue
  · exact (congrArg Nvm.log hused).trans hlog
  · exact (congrArg Nvm.logSeq hused).trans hseq
  · exact (hbusy _ (by decide)).trans hnumber
  · exact (hbusy a fun h => ha (h ▸ List.mem_cons_self)).trans ((hkeeps a ha).trans (hstoredRegs a))
  · exact congrArg (fun d => { s with dev := d }) ((hstored.trans hshown.storeAlone).trans hfinal)

/-! ## Erases (R506) -/

/-- An erase of a sector is done. -/
def Dev.sectorErased (d : Dev) (sector : Nat) : Dev :=
  d.onNvm fun n => { n with erasing := n.erasing.filter (· ≠ sector), dirty := n.dirty.filter (· ≠ sector)
                            used := Tab.put zero n.used sector 0, wear := Tab.upd zero n.wear sector (· + 1) }

/-- A spare takes the place of a sector whose erase failed. -/
def Dev.spareTaken (d : Dev) (sector spares : Nat) : Dev :=
  (d.setFld Reg.nvmStatus F.nvmStatus_spares (spares - 1)).onNvm fun n => { n with wear := Tab.put zero n.wear sector 0 }

/-- A region has worn out. -/
def Dev.regionWorn (d : Dev) (sector : Nat) : Dev :=
  (d.setFld Reg.nvmStatus F.nvmStatus_worn 1).onNvm fun n => { n with worn := sectorRegion sector :: n.worn }

/-- What the outcome of an erase takes. -/
def Dev.eraseTold (d : Dev) (sector : Nat) (ok : Bool) : Dev :=
  if ok = true then d
  else if 0 < d.fld Reg.nvmStatus F.nvmStatus_spares then d.spareTaken sector (d.fld Reg.nvmStatus F.nvmStatus_spares) else d.regionWorn sector

theorem exec_sectorEraseDone {s : State} {sector : Nat} (ok : Bool) (h : sector ∈ s.dev.nvm.erasing) :
    exec (.sectorEraseDone sector ok) s = .next { s with dev := ((s.dev.sectorErased sector).eraseTold sector ok).showWear.showBusy } := by
  show execSectorEraseDone sector ok s = _
  rw [execSectorEraseDone, State.lift_eq, if_neg (not_not_intro h)]
  unfold Dev.eraseTold Dev.spareTaken Dev.regionWorn Dev.sectorErased
  dsimp only

/-- What an erase leaves of the store's lists, and its spares. -/
structure Dev.EraseDone (d : Dev) (sector : Nat) (ok : Bool) (e : Dev) : Prop where
  alone : d.StoreAlone e
  erasing : sector ∉ e.nvm.erasing
  dirty : sector ∉ e.nvm.dirty
  used : Tab.get zero e.nvm.used sector = 0
  spares : e.fld Reg.nvmStatus F.nvmStatus_spares =
    if ok = true then d.fld Reg.nvmStatus F.nvmStatus_spares else d.fld Reg.nvmStatus F.nvmStatus_spares - 1
  worn : ok = false → d.fld Reg.nvmStatus F.nvmStatus_spares = 0 →
    e.flag Reg.nvmStatus F.nvmStatus_worn = true ∧ sectorRegion sector ∈ e.nvm.worn
  regs : ∀ a, a ≠ Reg.nvmStatus → e.reg a = d.reg a

theorem Dev.eraseDone_eraseTold (d : Dev) (sector : Nat) (ok : Bool) : d.EraseDone sector ok ((d.sectorErased sector).eraseTold sector ok) := by
  have halone : d.StoreAlone (d.sectorErased sector) := d.storeAlone_onNvm _
  have herasing : sector ∉ (d.sectorErased sector).nvm.erasing := fun h => by simpa using (List.mem_filter.mp h).2
  have hdirty : sector ∉ (d.sectorErased sector).nvm.dirty := fun h => by simpa using (List.mem_filter.mp h).2
  have hused : Tab.get zero (d.sectorErased sector).nvm.used sector = 0 := by
    unfold Dev.sectorErased
    rw [Dev.onNvm_nvm]
    exact Tab.get_put_same (d := zero) d.nvm.used sector 0
  have hreg (a : Nat) : (d.sectorErased sector).reg a = d.reg a := Dev.onNvm_read_reg _ _ a
  have hspares : (d.sectorErased sector).fld Reg.nvmStatus F.nvmStatus_spares = d.fld Reg.nvmStatus F.nvmStatus_spares := Dev.fld_onNvm _ _ _ _
  have hlt : d.fld Reg.nvmStatus F.nvmStatus_spares < 256 := Fld.get_lt _ _
  generalize d.sectorErased sector = e at *
  unfold Dev.eraseTold
  cases ok with
  | true => exact ⟨halone, herasing, hdirty, hused, hspares, fun h => absurd h (by decide), fun a _ => hreg a⟩
  | false =>
    rw [if_neg Bool.false_ne_true, hspares]
    by_cases hsp : 0 < d.fld Reg.nvmStatus F.nvmStatus_spares
    · rw [if_pos hsp]
      refine ⟨(halone.trans (e.regsAlone_setFld _ _ _).storeAlone).trans (Dev.storeAlone_onNvm _ _), herasing, hdirty, hused, ?_,
        fun _ h => absurd h hsp.ne', fun a ha => ?_⟩
      · rw [Dev.spareTaken, Dev.fld_onNvm, Dev.fld_setFld_same _ _ ⟨by decide, by decide⟩, if_neg Bool.false_ne_true]
        exact Nat.mod_eq_of_lt (lt_of_le_of_lt (Nat.sub_le _ _) hlt)
      · rw [Dev.spareTaken, Dev.onNvm_read_reg, Dev.reg_setFld_other _ _ _ ha, hreg]
    · rw [if_neg hsp]
      refine ⟨(halone.trans (e.regsAlone_setFld _ _ _).storeAlone).trans (Dev.storeAlone_onNvm _ _), herasing, hdirty, hused, ?_,
        fun _ _ => ⟨?_, List.mem_cons_self⟩, fun a ha => ?_⟩
      · rw [Dev.regionWorn, Dev.fld_onNvm, Dev.fld_setFld_field _ _ ⟨by decide, by decide⟩ (by decide), hspares, if_neg Bool.false_ne_true]
        omega
      · rw [Dev.regionWorn, Dev.flag, Dev.onNvm_read_reg, ← Dev.flag, Dev.flag_setFld_same _ _ ⟨by decide, by decide⟩ rfl]
        rfl
      · rw [Dev.regionWorn, Dev.onNvm_read_reg, Dev.reg_setFld_other _ _ _ ha, hreg]

theorem Dev.regsAlone_showWear (d : Dev) : d.RegsAlone d.showWear := d.regsAlone_setReg _ _

theorem Dev.keepsRegs_showWear (d : Dev) : d.KeepsRegs d.showWear [Reg.nvmWear] := d.keepsRegs_setReg _ _

/-- An erase that is done frees its sector; one that failed takes a spare, or wears out the region. -/
theorem sectorEraseDone_frees {s : State} {sector : Nat} (ok : Bool) (h : sector ∈ s.dev.nvm.erasing) :
    ∃ t, exec (.sectorEraseDone sector ok) s = .next t ∧ sector ∉ t.dev.nvm.erasing ∧ sector ∉ t.dev.nvm.dirty ∧
      Tab.get zero t.dev.nvm.used sector = 0 ∧
      (let sp := s.dev.fld Reg.nvmStatus F.nvmStatus_spares
       t.dev.fld Reg.nvmStatus F.nvmStatus_spares = (if ok = true then sp else sp - 1) ∧
         (ok = false → sp = 0 → t.dev.flag Reg.nvmStatus F.nvmStatus_worn = true ∧ sectorRegion sector ∈ t.dev.nvm.worn)) ∧
      s.dev.KeepsRegs t.dev [Reg.nvmStatus, Reg.nvmWear] ∧ t = { s with dev := { s.dev with regs := t.dev.regs, nvm := t.dev.nvm } } := by
  refine ⟨_, exec_sectorEraseDone ok h, ?_⟩
  obtain ⟨halone, herasing, hdirty, hused, hspares, hworn, hregs⟩ := s.dev.eraseDone_eraseTold sector ok
  generalize (s.dev.sectorErased sector).eraseTold sector ok = e at *
  have hshown : e.RegsAlone e.showWear.showBusy := e.regsAlone_showWear.setFld _ _ _
  have hnvm : e.showWear.showBusy.nvm = e.nvm := hshown.nvm
  have hfld : e.showWear.showBusy.fld Reg.nvmStatus F.nvmStatus_spares = e.fld Reg.nvmStatus F.nvmStatus_spares :=
    (Dev.fld_showBusy _ (by decide)).trans (e.keepsRegs_showWear.fld (by decide) _)
  have hflag : e.showWear.showBusy.flag Reg.nvmStatus F.nvmStatus_worn = e.flag Reg.nvmStatus F.nvmStatus_worn :=
    (Dev.flag_setFld_field _ _ ⟨by decide, by decide⟩ (by decide) _).trans (e.keepsRegs_showWear.flag (by decide) _)
  have hkeeps : e.KeepsRegs e.showWear.showBusy [Reg.nvmStatus, Reg.nvmWear] :=
    (e.keepsRegs_showWear.mono (by simp)).trans ((Dev.keepsRegs_showBusy _).mono (by simp))
  generalize e.showWear.showBusy = t at *
  dsimp only
  rw [hnvm]
  exact ⟨herasing, hdirty, hused, ⟨hfld.trans hspares, fun hok hsp => ⟨hflag.trans (hworn hok hsp).1, (hworn hok hsp).2⟩⟩,
    fun a ha => (hkeeps a ha).trans (hregs a fun heq => ha (heq ▸ List.mem_cons_self)),
    congrArg (fun d => { s with dev := d }) (hnvm ▸ halone.trans hshown.storeAlone)⟩

/-! ## Tokens (R507) and SMBus (R543) -/

/-- A token comes back where no summary waits. -/
theorem logTokenRefill_refills {s : State} (h : s.dev.nvm.summaries = []) :
    ∃ t, exec .logTokenRefill s = .next t ∧ t.dev.fld Reg.nvmLog F.nvmLog_tokens = min 256 (s.dev.fld Reg.nvmLog F.nvmLog_tokens + 1) ∧
      s.RegsOnly t [Reg.nvmLog] := by
  have hexec : exec .logTokenRefill s = .next { s with
      dev := s.dev.setFld Reg.nvmLog F.nvmLog_tokens (min 256 (s.dev.fld Reg.nvmLog F.nvmLog_tokens + 1)) } := by
    show execLogTokenRefill s = _
    rw [execLogTokenRefill, State.lift_eq]
    dsimp only
    rw [h]
  refine ⟨_, hexec, ?_, (s.dev.regsAlone_setFld _ _ _).state, s.dev.keepsRegs_setFld _ _ _⟩
  exact (Dev.fld_setFld_same _ _ ⟨by decide, by decide⟩ _).trans (Nat.mod_eq_of_lt (lt_of_le_of_lt (Nat.min_le_left _ _) (by decide)))

/-- The registers that an SMBus block read can name, by command. -/
def smbusRegs : List Nat := [Reg.deviceId, Reg.thmStatus, Reg.thmSupply, Reg.rstStatus, Reg.nvmStatus]

/-- An SMBus block read returns the register its command names. -/
theorem smbusBlockRead_returns {s : State} (k : Nat) (h : s.dev.inReset 0 = false) :
    exec (.smbusBlockRead k) s = .next { s with
      dev := s.dev.emit (.smbus (wordBytes ((smbusRegs.map fun a => (s.dev.reg a).toNat).getD k 0))) } := by
  show execSmbusBlockRead k s = _
  rw [execSmbusBlockRead, State.lift_eq, h, if_neg Bool.false_ne_true]
  match k with
  | 0 => rfl
  | 1 => rfl
  | 2 => rfl
  | 3 => rfl
  | 4 => rfl
  | k + 5 => rfl

/-! ## The statement -/

/-- Settles O56: sensors, Tmax, the level and the throttle step; rails and episodes; the store's records, erases and tokens; SMBus. -/
theorem thermalAndStore : Obligations.ThermalAndStore := by
  unfold Obligations.ThermalAndStore
  refine ⟨?_, ?_, ?_, ?_, ?_, ?_, ?_, ?_, ?_⟩
  · intro s n v hn h₁ h₂ hr
    exact sensorSample_taken hn h₁ h₂ hr
  · intro s h
    exact throttleStepChange_follows h
  · intro s rail mv hrail _ hr he
    exact railBelowWarn_opens mv hrail hr he
  · intro s rail mv at_ mask low hrail hb he
    exact railRecover_closes mv hrail hb he
  · intro s h he
    exact nvmHoldEnd_releases h he
  · intro s r rest ho hq hh hslot
    exact nvmRecordWrite_writes ho hq hh hslot
  · intro s sector ok h
    exact sectorEraseDone_frees ok h
  · intro s h
    exact logTokenRefill_refills h
  · intro s k h
    exact ⟨_, smbusBlockRead_returns k h, rfl, rfl⟩

end Sys2Proof.Machine
end
